-- ==== Sys2Proof/Word.lean ====
section
/-! DEFINITION. The word types of the module: bytes, register words, and the Nat keys of addresses. -/

namespace Sys2Proof

/-- One byte (R12). -/
abbrev Byte := BitVec 8

/-- One 64-bit register or descriptor word (R473). -/
abbrev Word := BitVec 64

/-- A list of bytes, the lowest address first (R12). -/
abbrev Bytes := List Byte

end Sys2Proof
end

