-- ==== Sys2Proof/Syntax.lean ====
section
/-! DEFINITION. The commands of the module: one constructor of Instr for each row of spec/opcode_table.json, with the
operands the event carries. A row that runs an accepted command names it by its queue and sequence number; a row that
is an event of the world (a timer, a sensor, a peer, a fault) carries what the world supplies. -/

namespace Sys2Proof

/-- The path by which a register access arrives: each has its own QCTX_SEL (R487). -/
inductive Path where
  | window | greyline
deriving DecidableEq, Repr

/-- What happens at a boundary of a unit of work (R93, R139, R171, R304, R319). -/
inductive Boundary where
  /-- the unit of work goes on -/
  | goOn
  /-- the governor throttles: pause, keep the state (R93) -/
  | throttle
  /-- the sequencer pre-empts: stop, discard (R93) -/
  | preempt
  /-- a region drain or a fault of another block: stop, discard (R93) -/
  | drain
  /-- a mod-3 residue mismatch in a cell column (R91) -/
  | residue (column : Fin 4)
deriving DecidableEq, Repr

/-- The boundary stops the command there: a pre-emption or a drain (R93). -/
def Boundary.stops : Boundary → Bool
  | .preempt | .drain => true
  | _ => false

/-- What moves a piece or chunk (R318). -/
inductive Mover where
  /-- a copy engine -/
  | engine (e : Fin 16)
  /-- a piece from Slate to Slate: an outbound and an inbound engine, each by its place in its direction -/
  | both (outbound inbound : Fin 8)
  /-- the region mover of a region -/
  | region (r : Fin 8)
deriving DecidableEq, Repr

/-- A part below a block that can be fenced (R18). -/
inductive Cell where
  /-- cell column `column` of array `array` of region `region` -/
  | arrayColumn (region : Fin 8) (array : Fin 4) (column : Fin 4)
  /-- lane group of a vector engine -/
  | laneGroup (region : Fin 8) (engine : Fin 2) (group : Fin 8)
  /-- one expander of a pair -/
  | expander (region : Fin 8) (pair : Fin 2) (which : Fin 2)
  /-- one 16 MiB Ivory bank -/
  | ivoryBank (region : Fin 8) (bank : Fin 16)
  /-- one bank group of a tower -/
  | bankGroup (tower : Fin 18) (group : Fin 64)
  /-- one lane of a link -/
  | linkLane (link : Fin 24) (lane : Fin 9)
deriving DecidableEq, Repr

/-- A block (R18). -/
inductive Block where
  | array (region : Fin 8) (array : Fin 4)
  | vector (region : Fin 8) (engine : Fin 2)
  | reduction (region : Fin 8)
  | walker (region : Fin 8)
  | expanderPair (region : Fin 8) (pair : Fin 2)
  | sequencer (region : Fin 8)
  | arbiter (region : Fin 8)
  | slice (region : Fin 8)
  | towerUnit (tower : Fin 18)
  | copyEngine (engine : Fin 16)
  | checkUnit (unit : Fin 4)
  /-- a whole tower (R25, R253) -/
  | tower (tower : Fin 18)
  /-- a singular engine of the service region, by page index 0 to 8 of R478 -/
  | engine (index : Fin 9)
deriving DecidableEq, Repr

/-- Where a temperature is measured (R433, R437). -/
inductive Sensor where
  | region (n : Fin 8)
  | service
  | buffer (tower : Fin 18)
deriving DecidableEq, Repr

/-- What started a reset (R472 CAUSE). -/
inductive Cause where
  | powerOn | pin | register | greyline | feedLoss | thermalTrip
deriving DecidableEq, Repr

/-- What the power-on self-test finds broken (R454 step 5, R499). -/
structure Post where
  /-- the fuse integrity code is good (step 1) -/
  fuseOk    : Bool := true
  /-- the service region's logic self-test passes (step 3) -/
  serviceOk : Bool := true
  /-- cells that fail -/
  cells     : List Cell := []
  /-- blocks that fail -/
  blocks    : List Block := []
  /-- towers that fail TOWER_MEM -/
  towers    : List (Fin 18) := []
  /-- links that do not train -/
  links     : List (Fin 24) := []
deriving DecidableEq, Repr

/-- The owner's answer to a SHARD FETCH (R228). -/
inductive FetchAnswer where
  /-- the owner serves its completed version with its working plane bytes (and the transposed plane's) -/
  | served (version : Nat) (work workT : Bytes)
  /-- the owner's version is another -/
  | mismatch (version : Nat)
  /-- the owner's shard is BROKEN (R224) -/
  | broken
  /-- the owner does not answer within PEER_CTL.TIMEOUT (R397) -/
  | silent
deriving DecidableEq, Repr

/-- How a descriptor fetch that reads Slate ended (R334, R345): with the slot as it stands, or with the latest 64 bytes that the
companion's memory holds there, or not at all; a fetch from another tier ends as its granule says. -/
inductive FetchRead where
  | ok | data (bytes : Bytes) | error | timeout
deriving DecidableEq, Repr

/-- The answer of the companion to a Slate request (R260). -/
inductive SlateAnswer where
  | data (bytes : Bytes)
  | written
  | error
deriving DecidableEq, Repr

/-- An error found while a memory granule is read (R240, R249, R250). -/
inductive ReadError where
  | none | single
  /-- Umber: the transfer failed link ECC, and its one retry passed (R249); Ivory: nothing -/
  | retried
  /-- Ivory: double-bit error. Umber: the granule cannot be read after one retry. -/
  | uncorrectable
  /-- Umber: another granule of the same stripe column cannot be read either; 16 names the parity granule -/
  | alsoTower (position : Fin 17)
deriving DecidableEq, Repr

/-- The requesters that a region arbiter serves (R21). -/
inductive Requester where
  | drain (array : Fin 4) | push
  | feeder (array : Fin 4) | expander (pair : Fin 2)
  | vector (engine : Fin 2) | reduction | walker
  | stream | copyIn | linkIn
deriving DecidableEq, Repr

/-- What the control message that opens a chunk names beside its TAG (R372): source position, target address and length. -/
structure ChunkHead where
  source : Nat
  addr   : Nat
  length : Nat
deriving DecidableEq, Repr

/-- What the Umber patrol finds at one granule (R252). -/
inductive PatrolFinding where
  | clean
  | unreadable (error : ReadError)
  /-- the stripe column's XOR is not zero and no granule reported an error -/
  | noCulprit
  /-- the parity granule alone cannot be read (R250) -/
  | parityBad
deriving DecidableEq, Repr

/-- What a partner's twin engine sends (R406). -/
inductive MirrorItem where
  /-- a journal record of R353, 128 bytes, with its number -/
  | record (recno : Nat) (bytes : Bytes)
  | commitNotice (q n : Nat)
  | trim (rec : Nat)
  | followerVersion (shard version : Nat)
deriving DecidableEq, Repr

/-- The pairing record a partner sends (R403). -/
structure PairRecord where
  position     : Nat
  /-- OWNER_ID and JOURNAL_BASE of the partner's journal (R353, R407) -/
  owner        : Nat
  base         : Nat
  feedId       : Nat
  sharedFeedOk : Bool
  /-- the partner has a journal and its mirror area holds this module's journal -/
  hasJournal   : Bool
  journalLog2  : Nat
  mirrorLog2   : Nat
  /-- REP table: valid ranges by entry, first MiB and last MiB -/
  rep          : List (Nat × Nat × Nat)
  /-- the partner refuses -/
  refused      : Bool
  /-- the partner's live journal records, oldest first -/
  records      : List (Nat × Bytes)
deriving DecidableEq, Repr

/-- What the spare receives in a fill (R413). -/
inductive FillItem where
  /-- one replicated 1 MiB block (its bytes) at a device address, with the poisoned granules marked -/
  | block (addr : Nat) (bytes : Bytes) (poisoned : List Nat)
  /-- a write forwarded by the survivor -/
  | write (addr : Nat) (bytes : Bytes)
  /-- a record of the lost member's journal -/
  | record (recno : Nat) (bytes : Bytes)
  /-- a commit notice of the lost member that the survivor holds (R414) -/
  | notice (q n : Nat)
deriving DecidableEq, Repr

/-- One member's SRC as the links delivered it (R391): elements in logical order, dense, then block scales. -/
structure PeerTensor where
  elems  : Bytes
  scales : Bytes := []
deriving DecidableEq, Repr

/-- One write, read or message arriving over a link for this module (R385, R386). -/
structure PeerWrite where
  source    : Nat
  addr      : Nat
  bytes     : Bytes
  /-- FLAG of PEER_PUT: address and value (R386) -/
  flag      : Option (Nat × Nat) := none
deriving DecidableEq, Repr

/-- A command by its queue and sequence number. -/
structure CmdName where
  q : Nat
  n : Nat
deriving DecidableEq, Repr

/-- A turn of a STREAM: the region whose sequencer takes it, and what happens at its boundary (R24, R328). -/
structure StreamTurn where
  region   : Fin 8
  boundary : Boundary := .goOn
deriving DecidableEq, Repr

/-- A turn of RUN: the ring chunks that arrived for its command, and at which of its units it stops (R326, R328). -/
structure RunTurn where
  ring  : List (List Bytes) := []
  /-- units it works before it stops there; none: to its end -/
  units : Option Nat := none
deriving DecidableEq, Repr

/-- A step of a tower unit: what happens at its boundary, and for how many cycles it waited for a bank (R304, R311). -/
structure TowerTurn where
  boundary : Boundary := .goOn
  wait     : Nat := 0
deriving DecidableEq, Repr

/-- A block that an expander has made: its number, and for how many cycles its reader waited (R283). -/
structure BlockTurn where
  block : Nat
  stall : Nat := 0
deriving DecidableEq, Repr

/-- A request of a region's requester, by a number that tells it from the requester's others (R21). -/
structure Port where
  region    : Fin 8
  requester : Requester
  request   : Nat
deriving DecidableEq, Repr

/-- Which arbiter a request waits at: the Umber path's, or that of the region serving another region's request (R21, R23). -/
structure PortPath where
  umber  : Bool := false
  source : Option (Fin 8) := none
deriving DecidableEq, Repr

/-- A request to Umber: the port that arbitrated for it, if one did, and what the read found (R21, R249). -/
structure UmberTurn where
  port  : Option Port := none
  error : ReadError := .none
deriving DecidableEq, Repr

/-- How a flit arrives: the first byte found bad after correction, 262 for none, and the chunk that it opens (R372, R373). -/
structure FlitArrival where
  bad   : Nat
  opens : Option ChunkHead := none
deriving DecidableEq, Repr

/-- What a register write carries: its value, and the status bits that the hardware sets in the same cycle (R15). -/
structure RegData where
  value : Word
  hwSet : Word := 0
deriving DecidableEq, Repr

/-- THE COMMANDS OF THE MODULE. `q` is a queue number and `n` a sequence number. -/
inductive Instr where
  -- movement and streams (R312 to R332)
  | copy (q n : Nat)
  | copyInline (q n : Nat)
  | gather (q n : Nat)
  | scatter (q n : Nat)
  | stream (q n : Nat) (turn : StreamTurn)
  | hqOpen (q n : Nat)
  | hqClose (q n : Nat)
  | hqStatus (q n : Nat)
  -- tracked ranges (R261 to R265)
  | trackOpen (q n : Nat)
  | trackWriteback (q n : Nat)
  | trackClose (q n : Nat)
  | trackStatus (q n : Nat)
  | trackClean (q n : Nat)
  -- matrix (R61 to R103, R297)
  | gemm (q n : Nat)
  | gemmF64x (q n : Nat)
  | thinGemm (q n : Nat)
  -- vector (R104 to R139)
  | elementwise (q n : Nat)
  | reduce (q n : Nat)
  | softmax (q n : Nat)
  | softmaxBwd (q n : Nat)
  | compact (q n : Nat)
  | expand (q n : Nat)
  -- attention (R140 to R178)
  | attnFwd (q n : Nat) (ring : List (List Bytes))
  | attnBwd (q n : Nat)
  | kvAppend (q n : Nat)
  | bucketSort (q n : Nat)
  | kvTruncate (q n : Nat)
  | kvPoolInit (q n : Nat)
  | kvPoolGrow (q n : Nat)
  | kvPoolStatus (q n : Nat)
  | kvPoolRetire (q n : Nat)
  -- the Ochre stack (R179 to R208)
  | stackOpen (q n : Nat)
  | stackClose (q n : Nat)
  | stackMarkPlace (q n : Nat)
  | stackMarkPop (q n : Nat)
  | stackMarkCut (q n : Nat)
  | stackMarkCutAll (q n : Nat)
  | stackPush (q n : Nat)
  | stackPop (q n : Nat)
  -- the optimiser (R209 to R231)
  | gradQuant (q n : Nat)
  | optUpdate (q n : Nat)
  | shardInit (q n : Nat)
  | shardCheck (q n : Nat)
  | shardFetch (q n : Nat) (answer : FetchAnswer)
  | shardExport (q n : Nat)
  | shardStatus (q n : Nat)
  -- compression (R270 to R290)
  | sepiaBuild (q n : Nat)
  | sepiaEncode (q n : Nat)
  | tintEncode (q n : Nat)
  -- synchronisation (R362)
  | fence (q n : Nat)
  | signal (q n : Nat)
  | wait (q n : Nat)
  | waitTimeout (q n : Nat)
  -- Whitepoints (R415 to R423)
  | whitepointTake (q n : Nat) (stopCycles : Nat)
  | whitepointVerify (q n : Nat) (partnerLive : List (Nat × Word))
  | wpBlockStream (q n : Nat) (cycles : Nat)
  | wpDigestReceive (q n : Nat) (versions : List Nat) (digests : List (Nat × Word))
  -- service (R463 to R465, R457)
  | serviceSelfTest (q n : Nat)
  | serviceCalibrate (q n : Nat)
  | serviceAttest (q n : Nat)
  | testEnd (q n : Nat) (cells : List Cell) (blocks : List Block) (duration : Nat)
  -- collectives (R384 to R399)
  | allreduce (q n : Nat) (members : List PeerTensor)
  | reduceScatter (q n : Nat) (members : List PeerTensor)
  | allgather (q n : Nat) (members : List PeerTensor)
  | ringShift (q n : Nat) (neighbour : PeerTensor)
  | peerPut (q n : Nat)
  | collGroupCreate (q n : Nat)
  | collGroupDestroy (q n : Nat)
  | collSignatureReceive (q n : Nat) (signature : Bytes)
  | collReportReceive (q n : Nat) (rank : Nat)
  | collPeerTimeout (q n : Nat) (position : Nat)
  | collRestartReceive (group : Nat) (number : Nat)
  -- stream instructions (R322, R323), of the STREAM command q n
  | halt (q n : Nat)
  | setp (q n : Nat)
  | addp (q n : Nat)
  | loop (q n : Nat)
  | endl (q n : Nat)
  | move (q n : Nat)
  | conv (q n : Nat)
  | gath (q n : Nat)
  | scat (q n : Nat)
  | skipz (q n : Nat)
  | take (q n : Nat)
  | give (q n : Nat)
  | givei (q n : Nat)
  | hqWaiterServed (hq : Nat)
  | streamFence (q n : Nat)
  | run (q n : Nat) (turn : RunTurn)
  | idxp (q n : Nat)
  | streamMoveDone (command : CmdName) (mover : Mover)
  -- queues (R337 to R370)
  | doorbellTail (offset size : Nat) (value : BitVec 32) (reserved : BitVec 13) (queue : BitVec 18)
  | doorbellConsumed (offset size : Nat) (value : BitVec 32) (reserved : BitVec 13) (queue : BitVec 18)
  | descFetch
  | descFetchReturn (q : Nat) (read : FetchRead)
  | descRefetch (q : Nat)
  | commandAccept (q : Nat)
  | commandDispatch (q n : Nat) (region : Option (Fin 8)) (rise : Nat)
  | commitPoint (q n : Nat)
  | commandComplete (q n : Nat)
  | completionRecordWrite (q : Nat)
  | consumedRecordWrite (q : Nat)
  | queueEnable (path : Path)
  | queueDisable (path : Path)
  | queueAbort (path : Path)
  | qctxDataWrite (path : Path) (value : Word)
  | journalScan
  | replayGo
  | pathFenceLink
  | pathFenceWindow
  | pathFencePeer
  | peerFenceTimeout
  -- window and memory (R333, R240 to R260)
  | windowRead (registers : Bool) (offset length : Nat)
  | windowWrite (addr : Nat) (bytes : Bytes)
  | ivoryRequest (port : Port) (write : Bool) (addr length : Nat) (bytes : Bytes) (error : ReadError)
  | umberRequest (write : Bool) (addr length : Nat) (bytes : Bytes) (turn : UmberTurn)
  | towerSelfRefreshEntry (tower : Fin 18)
  | slateRequest (q n : Nat) (write : Bool) (addr length : Nat) (bytes : Bytes)
  | slateResponse (id : Nat) (answer : SlateAnswer)
  | slateTimeout (id : Nat)
  -- towers (R242 to R269)
  | towerCtlFlush (value : Word)
  | segDataWrite (value : Word)
  | towerFailWrite (value : Word)
  | towerRequestTimeout (tower : Fin 18)
  | towerFailDetect (tower : Fin 18)
  | spareWakeDone
  | rebuildStripe
  | lostStripeRecompute
  | resyncStripe
  | umberPatrolStep (tower : Fin 18) (stripe granule : Nat) (finding : PatrolFinding)
  | ivoryPatrolStep (addr : Nat) (error : ReadError)
  | ivoryBankFail (region : Fin 8) (bank : Fin 16)
  | refreshDue (tower : Fin 18)
  -- boundaries (R93, R139, R171, R223, R302, R319)
  | towerUnitEnd (tower : Fin 18) (q n : Nat) (turn : TowerTurn)
  | towerAttnBlockEnd (tower : Fin 18) (command : CmdName) (turn : TowerTurn)
  | overflowFlagReceive (tower : Fin 18) (q n tile : Nat) (flag : Bool)
  | arrayPassEnd (region : Fin 8) (array : Fin 4) (q n : Nat) (boundary : Boundary)
  | arrayIdle (region : Fin 8) (array : Fin 4)
  | expanderBlockDone (region : Fin 8) (pair : Fin 2) (q n : Nat) (turn : BlockTurn)
  | vectorChunkEnd (region : Fin 8) (engine : Fin 2) (q n : Nat) (boundary : Boundary)
  | keyBlockEnd (region : Fin 8) (q n : Nat) (boundary : Boundary)
  | copyPieceCommit (mover : Mover) (q n : Nat) (boundary : Boundary)
  | encodeChunkCommit (q n : Nat) (boundary : Boundary)
  | collectivePieceCommit (q n : Nat) (members : List PeerTensor) (boundary : Boundary)
  | arbPromote (port : Port) (path : PortPath)
  -- errors (R18 to R28, R480 to R483)
  | cellFail (cell : Cell)
  | blockFail (block : Block)
  | regionFail (region : Fin 8)
  | errorIrqRepeat
  | errStsClear (page : Nat) (value hwSet : Word)
  | errInject (page : Nat) (value : Word)
  | evClear (page : Nat)
  | evFreeze (page : Nat) (on : Bool)
  -- pages (R458 to R461, R486)
  | pageDrain (page : Nat)
  | pageAbort (page : Nat)
  | pageEnable (page : Nat)
  | pageDrained (page : Nat)
  | pageAdmitDone (page : Nat)
  | regionGateWrite (value : Word)
  -- the governor (R426 to R445)
  | govPowerTick (pin vin iin : Nat) (belowFor1ms : Bool)
  | govThermalTick (dieMax towerMax inlet outlet predict : Int) (hotTowers : List (Fin 18)) (belowFor10ms : Bool)
  | flowEstimate (watts : Nat) (rise : Nat)
  | coolantWarn (on : Bool)
  | noticeHoldEnd
  | loadNoticeSettle
  | feedSample (millivolts : Nat)
  | feedLowEnter
  | feedLowExit
  | feedLoss
  | feedLossShutdown
  | feedReturnColdReset (post : Post)
  | thermalTrip (sensor : Sensor) (celsius : Int)
  | thermalResetRelease (hottest : Int) (post : Post)
  | i2cWrite (index : Nat) (bytes : Bytes)
  -- resets, boot, firmware (R446 to R467)
  | regionReset (cause : Cause) (key : BitVec 8) (regions : BitVec 8)
  | workReset (cause : Cause) (key : BitVec 8)
  | workResetForced
  | coldReset (cause : Cause) (key : BitVec 8) (post : Post)
  | purge (cause : Cause) (key : BitVec 8) (post : Post)
  | bootLock (value : Word)
  | fwStage
  | fwStageDone (flashOk : Bool)
  | fwActivate
  | fwCommitSvn
  | linkLaneTrim (link : Fin 24) (lane : Fin 9) (done late : Bool)
  | towerZqCal (tower : Fin 18) (late : Bool)
  | towerTimingTrim (tower : Fin 18) (done late : Bool)
  -- links (R371 to R387)
  | flitReceive (link : Fin 24) (bytes : Bytes) (arrival : FlitArrival)
  | nakReceive (link : Fin 24) (seq : BitVec 10)
  | linkSilence (link : Fin 24)
  | laneFail (link : Fin 24) (lane : Fin 9)
  | spareLaneTrained (link : Fin 24)
  | linkTrained (link : Fin 24) (farPosition farLink : Nat)
  | linkTrainTimeout (link : Fin 24)
  | linkCtlFail (link : Fin 24)
  | linkCtlRecal (link : Fin 24)
  | linkCtlEnable (link : Fin 24) (on : Bool)
  | positionWrite (value : Word)
  | peerWriteArrive (write : PeerWrite)
  | peerReadArrive (source addr length : Nat)
  | peerRefusalReceive (q n : Nat) (unmapped : Bool) (target addr : Nat)
  | peerVisibilityAck (target : Nat)
  -- the twin engine (R403 to R420)
  | twinPair (value : Word)
  | pairingRecordReceive (record : PairRecord)
  | twinUnpair (value : Word)
  | unpairNoticeReceive
  | twinPartnerLost (value : Word)
  | twinFill (value : Word)
  | fillBlockSend
  | twinJoin (value : Word)
  | mirrorRecordReceive (item : MirrorItem)
  | twinAckReceive
  | twinAckTimeout (noRoute : Bool)
  | stopNoticeReceive
  | failEvent (value : Word)
  -- Greyline (R466 to R470)
  | greylineChal (nonce : Bytes)
  | greylineUnlock (key : Fin 2) (signature : Bytes)
  | greylineLock
  | greylineBaud (high : Bool)
  | greylineBreak (milliseconds : Nat)
  | greylineIdleLock
  | greylineNonceExpiry
  | greylineBackoffEnd
  | greylineRd (offset count : Nat)
  | greylineWr (offset : Nat) (data : RegData)
  | greylinePages
  | greylineCnt (offset : Nat)
  | greylineDrain (region : Fin 8)
  | greylineAbort (region : Fin 8)
  | greylineAdmit (region : Fin 8)
  | greylineReset (kind : Fin 3) (regions : BitVec 8) (post : Post)
  | greylinePurge (post : Post)
  | greylineScan
  -- the rest
  | registerWrite (path : Path) (offset size : Nat) (data : RegData)
  | pairingTimeout
  | fillBlockReceive (item : FillItem)
  | shardFetchServe (source shardAddr want : Nat)
  | perastLinkDown
  | perastLinkUp
  | ivoryRingFault (uncorrectable : Bool)
  | towerFabricFault
deriving DecidableEq, Repr

end Sys2Proof
end

