-- ==== Sys2Proof/WellFormed.lean ====
section
/-! DEFINITION. Which commands exist: the ranges of the operands. -/

namespace Sys2Proof

/-- A queue number: 18 bits (R337). -/
def isQueue (q : Nat) : Bool := decide (q < 2 ^ 18)
/-- An accepted command's queue and sequence number: 48 bits, at least 1 (R337, R338). -/
def isCmd (q n : Nat) : Bool := isQueue q && decide (1 ≤ n) && decide (n < 2 ^ 48)
/-- A 48-bit device address (R232). -/
def isU48 (a : Nat) : Bool := decide (a < 2 ^ 48)
/-- A key of a tower block or a device address, as the digests of a Whitepoint carry them (R418). -/
def isAddr (a : Nat) : Bool := decide (a < 2 ^ 64)
/-- A 64-bit number. -/
def isU64 (a : Nat) : Bool := decide (a < 2 ^ 64)
/-- A request of at least one byte inside the 48-bit space. -/
def isSpan (a l : Nat) : Bool := decide (1 ≤ l) && decide (a + l ≤ 2 ^ 48)
/-- A module position (R377). -/
def isPos (p : Nat) : Bool := decide (p < 2 ^ 16)
/-- An offset of the 32 MiB register aperture (R333). -/
def isAperture (o : Nat) : Bool := decide (o < 2 ^ 25)
/-- The size of a register access in bytes. -/
def isSize (n : Nat) : Bool := decide (1 ≤ n) && decide (n ≤ 64)
/-- A page number: aperture offset ÷ 4096, by the map of R476. -/
def isPage (p : Nat) : Bool :=
  decide (p ≤ 8) || (decide (16 ≤ p) && decide (p ≤ 35)) ||
  (decide (0x100 ≤ p) && decide (p < 0x900) && decide (p % 0x100 < 12)) ||
  (decide (0x900 ≤ p) && decide (p ≤ 0x912)) || (decide (0xA00 ≤ p) && decide (p ≤ 0xA18))
/-- The owner's answer names a 64-bit version. -/
def isAnswer : FetchAnswer → Bool
  | .served v _ _ => isU64 v
  | .mismatch v => isU64 v
  | .broken => true
  | .silent => true

/-- The command exists: every operand lies in its range. -/
def Instr.wf : Instr → Bool
  | .copy q n => isCmd q n
  | .copyInline q n => isCmd q n
  | .gather q n => isCmd q n
  | .scatter q n => isCmd q n
  | .stream q n _ => isCmd q n
  | .hqOpen q n => isCmd q n
  | .hqClose q n => isCmd q n
  | .hqStatus q n => isCmd q n
  | .trackOpen q n => isCmd q n
  | .trackWriteback q n => isCmd q n
  | .trackClose q n => isCmd q n
  | .trackStatus q n => isCmd q n
  | .trackClean q n => isCmd q n
  | .gemm q n => isCmd q n
  | .gemmF64x q n => isCmd q n
  | .thinGemm q n => isCmd q n
  | .elementwise q n => isCmd q n
  | .reduce q n => isCmd q n
  | .softmax q n => isCmd q n
  | .softmaxBwd q n => isCmd q n
  | .compact q n => isCmd q n
  | .expand q n => isCmd q n
  | .attnFwd q n ring => isCmd q n && ring.all (fun c => c.length == 2)
  | .attnBwd q n => isCmd q n
  | .kvAppend q n => isCmd q n
  | .bucketSort q n => isCmd q n
  | .kvTruncate q n => isCmd q n
  | .kvPoolInit q n => isCmd q n
  | .kvPoolGrow q n => isCmd q n
  | .kvPoolStatus q n => isCmd q n
  | .kvPoolRetire q n => isCmd q n
  | .stackOpen q n => isCmd q n
  | .stackClose q n => isCmd q n
  | .stackMarkPlace q n => isCmd q n
  | .stackMarkPop q n => isCmd q n
  | .stackMarkCut q n => isCmd q n
  | .stackMarkCutAll q n => isCmd q n
  | .stackPush q n => isCmd q n
  | .stackPop q n => isCmd q n
  | .gradQuant q n => isCmd q n
  | .optUpdate q n => isCmd q n
  | .shardInit q n => isCmd q n
  | .shardCheck q n => isCmd q n
  | .shardFetch q n answer => isCmd q n && isAnswer answer
  | .shardExport q n => isCmd q n
  | .shardStatus q n => isCmd q n
  | .sepiaBuild q n => isCmd q n
  | .sepiaEncode q n => isCmd q n
  | .tintEncode q n => isCmd q n
  | .fence q n => isCmd q n
  | .signal q n => isCmd q n
  | .wait q n => isCmd q n
  | .waitTimeout q n => isCmd q n
  | .whitepointTake q n _ => isCmd q n
  | .whitepointVerify q n partnerLive => isCmd q n && partnerLive.all (fun d => isAddr d.1)
  | .wpBlockStream q n _ => isCmd q n
  | .wpDigestReceive q n versions digests => isCmd q n && versions.all isU64 && digests.all (fun d => isAddr d.1)
  | .serviceSelfTest q n => isCmd q n
  | .serviceCalibrate q n => isCmd q n
  | .serviceAttest q n => isCmd q n
  | .testEnd q n _ _ _ => isCmd q n
  | .allreduce q n _ => isCmd q n
  | .reduceScatter q n _ => isCmd q n
  | .allgather q n _ => isCmd q n
  | .ringShift q n _ => isCmd q n
  | .peerPut q n => isCmd q n
  | .collGroupCreate q n => isCmd q n
  | .collGroupDestroy q n => isCmd q n
  | .collSignatureReceive q n signature => isCmd q n && signature.length == 32
  | .collReportReceive q n rank => isCmd q n && decide (rank < 16384)
  | .collPeerTimeout q n position => isCmd q n && isPos position
  | .collRestartReceive group number => decide (group < 4096) && isU64 number
  | .halt q n => isCmd q n
  | .setp q n => isCmd q n
  | .addp q n => isCmd q n
  | .loop q n => isCmd q n
  | .endl q n => isCmd q n
  | .move q n => isCmd q n
  | .conv q n => isCmd q n
  | .gath q n => isCmd q n
  | .scat q n => isCmd q n
  | .skipz q n => isCmd q n
  | .take q n => isCmd q n
  | .give q n => isCmd q n
  | .givei q n => isCmd q n
  | .hqWaiterServed hq => decide (hq < 1024)
  | .streamFence q n => isCmd q n
  | .run q n turn => isCmd q n && turn.ring.all (fun c => c.length == 2)
  | .idxp q n => isCmd q n
  | .streamMoveDone command _ => isCmd command.q command.n
  | .doorbellTail offset size _ _ _ => isAperture offset && isSize size
  | .doorbellConsumed offset size _ _ _ => isAperture offset && isSize size
  | .descFetch => true
  | .descFetchReturn q _ => isQueue q
  | .descRefetch q => isQueue q
  | .commandAccept q => isQueue q
  | .commandDispatch q n _ _ => isCmd q n
  | .commitPoint q n => isCmd q n
  | .commandComplete q n => isCmd q n
  | .completionRecordWrite q => isQueue q
  | .consumedRecordWrite q => isQueue q
  | .queueEnable _ => true
  | .queueDisable _ => true
  | .queueAbort _ => true
  | .qctxDataWrite _ _ => true
  | .journalScan => true
  | .replayGo => true
  | .pathFenceLink => true
  | .pathFenceWindow => true
  | .pathFencePeer => true
  | .peerFenceTimeout => true
  | .windowRead registers offset length => if registers then isAperture offset && isSize length else decide (offset + length ≤ 2 ^ 41) && decide (1 ≤ length)
  | .windowWrite addr bytes => isU48 addr && !bytes.isEmpty && decide (addr + bytes.length ≤ 2 ^ 41)
  | .ivoryRequest _ write addr length bytes _ => isSpan addr length && (if write then bytes.length == length else bytes.isEmpty)
  | .umberRequest write addr length bytes _ => isSpan addr length && (if write then bytes.length == length else bytes.isEmpty)
  | .towerSelfRefreshEntry _ => true
  | .slateRequest q n write addr length bytes => isCmd q n && isSpan addr length && (if write then bytes.length == length else bytes.isEmpty)
  | .slateResponse _ _ => true
  | .slateTimeout _ => true
  | .towerCtlFlush _ => true
  | .segDataWrite _ => true
  | .towerFailWrite _ => true
  | .towerRequestTimeout _ => true
  | .towerFailDetect _ => true
  | .spareWakeDone => true
  | .rebuildStripe => true
  | .lostStripeRecompute => true
  | .resyncStripe => true
  | .umberPatrolStep _ stripe granule _ => decide (stripe < 2 ^ 24) && decide (granule < 64)
  | .ivoryPatrolStep addr _ => isU48 addr && addr % 64 == 0
  | .ivoryBankFail _ _ => true
  | .refreshDue _ => true
  | .towerUnitEnd _ q n _ => isCmd q n
  | .towerAttnBlockEnd _ command _ => isCmd command.q command.n
  | .overflowFlagReceive _ q n _ _ => isCmd q n
  | .arrayPassEnd _ _ q n _ => isCmd q n
  | .arrayIdle _ _ => true
  | .expanderBlockDone _ _ q n _ => isCmd q n
  | .vectorChunkEnd _ _ q n _ => isCmd q n
  | .keyBlockEnd _ q n _ => isCmd q n
  | .copyPieceCommit _ q n _ => isCmd q n
  | .encodeChunkCommit q n _ => isCmd q n
  | .collectivePieceCommit q n _ _ => isCmd q n
  | .arbPromote _ _ => true
  | .cellFail _ => true
  | .blockFail _ => true
  | .regionFail _ => true
  | .errorIrqRepeat => true
  | .errStsClear page _ _ => isPage page
  | .errInject page _ => isPage page
  | .evClear page => isPage page
  | .evFreeze page _ => isPage page
  | .pageDrain page => isPage page
  | .pageAbort page => isPage page
  | .pageEnable page => isPage page
  | .pageDrained page => isPage page
  | .pageAdmitDone page => isPage page
  | .regionGateWrite _ => true
  | .govPowerTick _ _ _ _ => true
  | .govThermalTick _ _ _ _ _ _ _ => true
  | .flowEstimate _ _ => true
  | .coolantWarn _ => true
  | .noticeHoldEnd => true
  | .loadNoticeSettle => true
  | .feedSample _ => true
  | .feedLowEnter => true
  | .feedLowExit => true
  | .feedLoss => true
  | .feedLossShutdown => true
  | .feedReturnColdReset _ => true
  | .thermalTrip _ _ => true
  | .thermalResetRelease _ _ => true
  | .i2cWrite index bytes => decide (index < 256) && decide (bytes.length ≤ 16)
  | .regionReset _ _ _ => true
  | .workReset _ _ => true
  | .workResetForced => true
  | .coldReset _ _ _ => true
  | .purge _ _ _ => true
  | .bootLock _ => true
  | .fwStage => true
  | .fwStageDone _ => true
  | .fwActivate => true
  | .fwCommitSvn => true
  | .linkLaneTrim _ _ _ _ => true
  | .towerZqCal _ _ => true
  | .towerTimingTrim _ _ _ => true
  | .flitReceive _ bytes arrival => bytes.length == 262 && decide (arrival.bad ≤ 262) && arrival.opens.all (fun h => decide (h.source < 65536) && isU48 h.addr && decide (h.length ≤ 256000))
  | .nakReceive _ _ => true
  | .linkSilence _ => true
  | .laneFail _ _ => true
  | .spareLaneTrained _ => true
  | .linkTrained _ farPosition farLink => isPos farPosition && decide (farLink < 24)
  | .linkTrainTimeout _ => true
  | .linkCtlFail _ => true
  | .linkCtlRecal _ => true
  | .linkCtlEnable _ _ => true
  | .positionWrite _ => true
  | .peerWriteArrive write => isPos write.source && isSpan write.addr write.bytes.length
  | .peerReadArrive source addr length => isPos source && isSpan addr length
  | .peerRefusalReceive q n _ target addr => isCmd q n && isPos target && isU48 addr
  | .peerVisibilityAck target => isPos target
  | .twinPair _ => true
  | .pairingRecordReceive record => isPos record.position && decide (record.journalLog2 < 64) && decide (record.mirrorLog2 < 64)
  | .twinUnpair _ => true
  | .unpairNoticeReceive => true
  | .twinPartnerLost _ => true
  | .twinFill _ => true
  | .fillBlockSend => true
  | .twinJoin _ => true
  | .mirrorRecordReceive _ => true
  | .twinAckReceive => true
  | .twinAckTimeout _ => true
  | .stopNoticeReceive => true
  | .failEvent _ => true
  | .greylineChal nonce => nonce.length == 32
  | .greylineUnlock _ signature => signature.length == 64
  | .greylineLock => true
  | .greylineBaud _ => true
  | .greylineBreak _ => true
  | .greylineIdleLock => true
  | .greylineNonceExpiry => true
  | .greylineBackoffEnd => true
  | .greylineRd offset count => isAperture offset && decide (count < 256)
  | .greylineWr offset _ => isAperture offset
  | .greylinePages => true
  | .greylineCnt offset => isAperture offset
  | .greylineDrain _ => true
  | .greylineAbort _ => true
  | .greylineAdmit _ => true
  | .greylineReset _ _ _ => true
  | .greylinePurge _ => true
  | .greylineScan => true
  | .registerWrite _ offset size _ => isAperture offset && isSize size
  | .pairingTimeout => true
  | .fillBlockReceive _ => true
  | .shardFetchServe source shardAddr want => isPos source && isU48 shardAddr && isU64 want
  | .perastLinkDown => true
  | .perastLinkUp => true
  | .ivoryRingFault _ => true
  | .towerFabricFault => true

end Sys2Proof
end

