-- ==== Sys2Proof/Decode.lean ====
section
/-! DEFINITION. The commands that a word spells: none, because no row of spec/opcode_table.json gives bits. -/

namespace Sys2Proof

/-- The command whose bits are `w`: no row of the table gives bits, so no word spells a command. -/
def decodeTableWord (_nbits _w : Nat) : Option Instr := none

end Sys2Proof
end

