-- ==== Sys2Proof/Config.lean ====
section
/-! DEFINITION. The free values: what the spec leaves open while the machine goes on. Each is a constant with no body, so
nothing can be proved about the value it gives, and a claim about it holds whatever it is. -/

namespace Sys2Proof

/-- The byte found at device address `addr` of an output that the spec leaves undefined (R239, R319 and others). The
first argument is the free-value counter of the state when the address was left open (log entry 7). -/
opaque Config.openByte : Nat → Nat → Byte

/-- The value of a fixed function (R118) whose correctly rounded result the bracketing of Machine/Funcs.lean has not
decided within its fuel (log entry 12). Arguments: the function's SUB code, the precision, the operand's bits. -/
opaque Config.undecided : Nat → Nat → Nat → Nat

/-- Any other value of `width` bits that the spec leaves open: the free-value counter, then the width (log entry 7). -/
opaque Config.freeValue : Nat → (width : Nat) → BitVec width

end Sys2Proof
end

