-- ==== Sys2Proof/Machine/Bits.lean ====
section
/-! DEFINITION. Byte order, bit fields and list helpers used by every family. -/

namespace Sys2Proof.Machine

/-- The number that little-endian bytes spell (R12). -/
def leNat : Bytes → Nat
  | [] => 0
  | b :: bs => b.toNat + 256 * leNat bs

/-- The `n` low bytes of `v`, lowest first (R12). -/
def natBytes : Nat → Nat → Bytes
  | 0, _ => []
  | n + 1, v => BitVec.ofNat 8 v :: natBytes n (v / 256)

/-- Bytes `off` to `off + len − 1`. -/
def sliceOf (bs : Bytes) (off len : Nat) : Bytes := (bs.drop off).take len

/-- The little-endian field of `len` bytes at `off`. -/
def fieldAt (bs : Bytes) (off len : Nat) : Nat := leNat (sliceOf bs off len)

/-- Bits [hi:lo] of a number. -/
def bitsOf (v hi lo : Nat) : Nat := (v / 2 ^ lo) % 2 ^ (hi + 1 - lo)

/-- Bit `i` of a number. -/
def bitAt (v i : Nat) : Bool := v.testBit i

/-- Every byte of a field is zero. -/
def zeroAt (bs : Bytes) (off len : Nat) : Bool := (sliceOf bs off len).all (· == 0)

/-- The two's-complement value of the `w`-bit number `v`. -/
def signedOf (w v : Nat) : Int := if v % 2 ^ w < 2 ^ (w - 1) then (v % 2 ^ w : Nat) else (v % 2 ^ w : Nat) - (2 ^ w : Nat)

/-- The `w`-bit two's-complement code of an integer. -/
def codeOf (w : Nat) (v : Int) : Nat := (v % (2 ^ w : Nat)).toNat

/-- 1 for true. -/
def bit (b : Bool) : Nat := if b then 1 else 0

/-- `n` divided by `d`, rounded up. -/
def ceilDiv (n d : Nat) : Nat := (n + d - 1) / d

/-- `n` rounded up to a multiple of `d`. -/
def alignUp (n d : Nat) : Nat := ceilDiv n d * d

/-- Whether two byte ranges share a byte. -/
def overlaps (a la b lb : Nat) : Bool := decide (a < b + lb) && decide (b < a + la) && decide (0 < la) && decide (0 < lb)

/-- `x` put into an ascending list without repeats. -/
def insertNat : Nat → List Nat → List Nat
  | x, [] => [x]
  | x, y :: ys => if x = y then y :: ys else if x < y then x :: y :: ys else y :: insertNat x ys

/-- The XOR of byte lists of one length. -/
def xorBytes (a b : Bytes) : Bytes := a.zipWith (· ^^^ ·) b

/-- The list cut into pieces of `k` entries (fuel is its length). -/
def chunksOf {α : Type} (k : Nat) : Nat → List α → List (List α)
  | 0, _ => []
  | _ + 1, [] => []
  | f + 1, x :: xs => (x :: xs).take k :: chunksOf k f ((x :: xs).drop k)

/-- A list cut into pieces of `k` entries. -/
def pieces {α : Type} (k : Nat) (l : List α) : List (List α) := chunksOf k l.length l

/-- The entry at an index, or a default. -/
def nth {α : Type} (d : α) (l : List α) (i : Nat) : α := (l[i]?).getD d

/-- The list with one entry replaced. -/
def setNth {α : Type} (l : List α) (i : Nat) (x : α) : List α := l.set i x

/-- Bit `i` of a word set or cleared. -/
def setBit (w : Word) (i : Nat) (on : Bool) : Word :=
  if on then w ||| ((1 : Word) <<< i) else w &&& ~~~((1 : Word) <<< i)

/-- Whether bit `i` of a word is set. -/
def hasBit (w : Word) (i : Nat) : Bool := w.getLsbD i

/-- The number of set bits among the low `n` of a number. -/
def popCount (n v : Nat) : Nat := ((List.range n).filter (fun i => v.testBit i)).length

/-- Reads entry `k` of a table, changes it and writes it back. -/
def tabMod {α : Type} [DecidableEq α] (d : α) (t : Tab α) (k : Nat) (f : α → α) : Tab α := tabSet d t k (f (tabGet d t k))

end Sys2Proof.Machine
end

