-- ==== Sys2Proof/Machine/Crc.lean ====
section
/-! DEFINITION. Check codes: CRC-32C (R273) and CRC-64/ECMA-182 (R11). -/

namespace Sys2Proof.Machine

/-- One bit of the reflected CRC-32C: polynomial 0x1EDC6F41, reflected 0x82F63B78 (R273). -/
def crc32cBit (c : BitVec 32) : BitVec 32 := if c.getLsbD 0 then (c >>> 1) ^^^ 0x82F63B78#32 else c >>> 1

/-- One byte of CRC-32C. -/
def crc32cByte (c : BitVec 32) (b : Byte) : BitVec 32 :=
  let c := c ^^^ b.setWidth 32
  crc32cBit (crc32cBit (crc32cBit (crc32cBit (crc32cBit (crc32cBit (crc32cBit (crc32cBit c)))))))

/-- CRC-32C of bytes: initial value and final XOR 0xFFFFFFFF (R273). -/
def crc32c (bs : Bytes) : Nat := ((bs.foldl crc32cByte 0xFFFFFFFF#32) ^^^ 0xFFFFFFFF#32).toNat

/-- One bit of CRC-64/ECMA-182: polynomial 0x42F0E1EBA9EA3693, not reflected. -/
def crc64Bit (c : BitVec 64) : BitVec 64 := if c.getLsbD 63 then (c <<< 1) ^^^ 0x42F0E1EBA9EA3693#64 else c <<< 1

/-- One byte of CRC-64/ECMA-182. -/
def crc64Byte (c : BitVec 64) (b : Byte) : BitVec 64 :=
  let c := c ^^^ (b.setWidth 64 <<< 56)
  crc64Bit (crc64Bit (crc64Bit (crc64Bit (crc64Bit (crc64Bit (crc64Bit (crc64Bit c)))))))

/-- CRC-64/ECMA-182 of bytes: initial value and final XOR zero (log entry 13). -/
def crc64 (bs : Bytes) : Word := bs.foldl crc64Byte 0#64

end Sys2Proof.Machine
end

