-- ==== Sys2Proof/Machine/Factory.lean ====
section
/-! DEFINITION. What the module leaves the factory with, which the spec does not give: fused keys and the images of flash bank
A (log entry 29). The images are the smallest that R455 calls valid: no payload, signed with the fused vendor key 0. -/

namespace Sys2Proof.Machine

/-- Vendor keys 0 to 3; the others are not programmed. -/
def factoryVendorKeys : List Bytes :=
  [natBytes 32 0x378777c932a32085af6b011ab74a22d0e6e41546bd68133aabb42b7432b24ad0, natBytes 32 0, natBytes 32 0, natBytes 32 0]

/-- Debug keys 0 and 1. -/
def factoryDebugKeys : List Bytes :=
  [natBytes 32 0xf0a4553438f97f1264f897be239dc9a5142a2ddcf855f92f8059677af4a59aa0,
   natBytes 32 0xce8080e1859b8300a4e401eb3f818eb2086e8d19e465ecb1f220412bfb79cb17]

/-- SHA-512 of no bytes. -/
def emptyDigest : Nat :=
  0x3eda27f97a3238a5817a4147bd31b9632fec7e87d21883ffb0f2855d3cd1d047cee96cd321a9f483dc15570b05e420d607806dd6502854f1bdb8ef7e35e183cf

/-- An image's 256 bytes: MAGIC, TARGET, KEY_INDEX 0, COMPAT 1, VERSION 1, SVN 0, LENGTH 0, DIGEST, SIGNATURE (R455). (DESIGN CHOICE, log entry 29). -/
def factoryImage (target sig : Nat) : Bytes :=
  natBytes 4 0x57464756 ++ natBytes 1 target ++ natBytes 1 0 ++ natBytes 2 1 ++ natBytes 4 1 ++ natBytes 4 0 ++ natBytes 8 0 ++
  natBytes 64 emptyDigest ++ natBytes 64 sig ++ natBytes 104 0

/-- Flash bank A: the service, region and tower-unit images. -/
def factoryFlash : Tab Bytes :=
  [(1, factoryImage 1 0x7fb8247b83336f7a75b900e9fa4cab020ae22e3591e51f79c39eae3a29ec6e638a42b85f3fabb106ccbb8877c096d80a9008b55075c637c1873f4a2743b74f),
   (2, factoryImage 2 0x504fbde75240fd7f9d6849344b4d268efc256fa848db8534a7714d35056ee98b878f39f5077313588dbbda6d1d2affad2a9a6c8b453e7829c2dbc26a26c45ec),
   (3, factoryImage 3 0x96beda4a356ebfb176b2a7ef67addb68a37330e62778c99cc0a9945a0112f2d7fcb4d83d24dbdf8d0cca9e051064d83edce03dac78333f77a937c5700af8db9)]

end Sys2Proof.Machine
end

