-- ==== Sys2Proof/Machine/State.lean ====
section
/-! DEFINITION. The state of the module as plain data: every register, memory, buffer, queue, engine and pin the spec
names, with State.reset, and the model's two closed stop reasons. Numbered families are sparse tables (Machine/Tab.lean)
whose unlisted entries read as the default of their structure, which is the family's reset value. -/

namespace Sys2Proof.Machine

/-! ### Register pages (chapter 17) -/

/-- PAGE_STS.STATE (R479). -/
inductive PageState where
  | off | admitting | inService | draining | drained | testing | faulted | fencedOut
deriving DecidableEq, Repr

/-- One event counter: EVSELn and EVCNTn (R479). -/
structure EvCounter where
  source  : Nat := 0
  wrapped : Bool := false
  count   : Nat := 0
deriving DecidableEq, Repr

/-- The part of a page's header that software or errors change (R479). -/
structure Page where
  errSts       : Word := 0
  errMask      : Word := 0
  /-- ERR_INFO holds a latched error (R480) -/
  latched      : Bool := false
  infoBit      : Nat := 0
  infoDetail   : Nat := 0
  cntRegion    : Nat := 0
  cntContained : Nat := 0
  cntCorrected : Nat := 0
  /-- EVSEL0 to EVSEL3 with EVCNT0 to EVCNT3 -/
  ev           : Tab EvCounter := []
  evFreeze     : Bool := false
  /-- an injected CONTAINED error waits for the block's next request (R481) -/
  injectNext   : Bool := false
deriving DecidableEq, Repr

/-! ### Memory (chapter 08) -/

/-- One line of the parity buffer (R246): the granules touched and the delta of each byte that is not zero. -/
structure ParityLine where
  stripe : Nat
  mask   : Word
  delta  : Tab Byte
deriving DecidableEq, Repr

/-- A byte range whose content the spec leaves undefined: first address, length, and the free-value number (log entry 7). -/
structure OpenRange where
  first : Nat
  count : Nat
  id    : Nat
deriving DecidableEq, Repr

/-- The memories. A cell's key is its device address in Ivory and Slate; in a tower it is 2^48 + tower·2^36 + offset. -/
structure Mem where
  cells        : Tab Byte := []
  /-- 64-byte granules of Ivory, by address ÷ 64, whose poison differs from that of their slice's flag (R240) -/
  ivoryPoison  : Tab Bool := []
  /-- slices every granule of which was poisoned at once, by region (R28, R241, R458) -/
  slicePoison  : Tab Bool := []
  /-- the poison list: key position·2^24 + stripe, 64-bit mask of granules (R251) -/
  umberPoison  : Tab Word := []
  /-- 2 KiB halves of the lost range whose poison a write cleared: key (position·2^24 + stripe)·2 + half (R258) -/
  lostCleared  : Tab Bool := []
  /-- parity-buffer lines, oldest first (R246) -/
  parity       : List ParityLine := []
  /-- SEG_DATA.GRANULE of each segment (R243) -/
  granule      : Tab Nat := []
  openBytes    : List OpenRange := []
deriving DecidableEq, Repr

/-- TOWER_STS.STATE (R267). -/
inductive TowerState where
  | full | rebuilding | parity | degraded | lost | unsynced
deriving DecidableEq, Repr

/-- One tower with its tower unit (R25, R253, R294, R308, R311, R429, R467). -/
structure Tower where
  /-- the tower unit's page state (R485); FENCED_OUT is `failed` -/
  unit         : PageState := .admitting
  /-- the tower failed or failed its self-test: its page reads FENCED_OUT (R254, R499) -/
  failed       : Bool := false
  /-- the tower unit's arithmetic failed with the banks intact (R25) -/
  unitFenced   : Bool := false
  /-- bank groups fenced -/
  bankFenced   : Tab Bool := []
  /-- in self-refresh (R429) -/
  selfRefresh  : Bool := false
  /-- requests unanswered in a row (R253) -/
  unanswered   : Nat := 0
  /-- blocks with an uncorrectable read, each with the quantum of its latest one (R253) -/
  badBlocks    : List (Nat × Nat) := []
  /-- a condition of R253 holds and detection has not settled it -/
  failFound    : Bool := false
  /-- refreshes owed (R308) -/
  owed         : Nat := 0
  /-- the dies are above 85 °C (R308, R311) -/
  hot          : Bool := false
  /-- REF_CTL.POSTPONE_MAX (R311) -/
  postponeMax  : Nat := 8
  /-- step boundaries of the present group of 16 that are past (R435) -/
  slot         : Nat := 0
  /-- the commands that hold a place, queue and number (R294) -/
  cmds         : List (Nat × Nat) := []
  trimming     : Bool := false
  /-- header of the image it runs; empty: none loaded (R455, R457) -/
  fw           : Bytes := []
deriving DecidableEq, Repr

/-- The tower complex's own registers and processes (R267 to R269). -/
structure TowerComplex where
  sts          : TowerState := .full
  lostA        : Nat := 0x1F
  lostB        : Nat := 0x1F
  spareFor     : Nat := 0x1F
  lostValid    : Bool := false
  lostFrom     : Nat := 0
  /-- first stripe at which the blocks of position A are poisoned (R248, R258) -/
  lostAFrom    : Nat := 0
  cursor       : Nat := 0
  /-- the rebuild, the recomputation of R258 or the resync that CURSOR belongs to is running (R268) -/
  running      : Bool := false
  ivoryScrubMin : Nat := 60
  scrubHours   : Nat := 24
  rebuildShare : Nat := 1
  segSel       : Nat := 0
  poisonSel    : Nat := 0
  /-- the state TOWER_STS returns to when the resync of R248 ends -/
  unsyncBack   : TowerState := .full
  /-- the stripe at which that resync ends -/
  unsyncEnd    : Nat := 0
  /-- a rebuild or recomputation that a resync paused, and its cursor -/
  pausedRunning : Bool := false
  pausedCursor : Nat := 0
  /-- T17 is awake for the rebuild (R254 step 3) -/
  spareAwake   : Bool := false
  umberPatrol  : Nat := 0
  ivoryPatrol  : Nat := 0
  towers       : Tab Tower := []
deriving DecidableEq, Repr

/-! ### Numbers used by running sums -/

/-- An exact dyadic number or a special (R35 to R40): (−1)^neg · mant · 2^expo. -/
inductive Num where
  | fin (neg : Bool) (mant : Nat) (expo : Int)
  | inf (neg : Bool)
  | nan
deriving DecidableEq, Repr

/-! ### Compute regions (chapters 01, 03, 04, 05) -/

/-- The sums of one output element while its passes run: the running sum (R68, R71), whether every term so far was finite,
whether the sum has left its format (R75), and the drain's two words of GEMM_F64X (R84). -/
structure Acc where
  sum  : Num := .fin false 0 0
  fin  : Bool := true
  isOver : Bool := false
  low  : Int := 0
  high : Int := 0
deriving DecidableEq, Repr

/-- One element of a finished tile: its logical index in C, the value that is rounded to the output, its running sum, and
whether it overflows (R69, R75). -/
structure TileElem where
  index : Nat
  value : Num
  sum   : Num
  isOver  : Bool
deriving DecidableEq, Repr

/-- A finished output tile: its number, its applied scale exponent, its repeats, whether it is SATURATED (R76, R77). -/
structure TileDone where
  tile    : Nat
  scale   : Int
  repeats : Nat
  sat     : Bool
  elems   : List TileElem
deriving DecidableEq, Repr

/-- The output tile an array works on (R66, R76, R91, R93, R96). -/
structure ArrayRun where
  q       : Nat
  n       : Nat
  /-- the unit of work: a tile, or a 128-row block of an IN_PLACE command -/
  unit    : Nat
  tile    : Nat
  /-- scale exponent of this attempt (R76) -/
  scale   : Int
  attempt : Nat := 0
  pass    : Nat := 0
  accs    : List Acc
  /-- groups of 32 columns of the present pass that are done (R92) -/
  cols    : Nat := 0
  /-- finished tiles of an IN_PLACE row block that waits for its others -/
  held    : List TileDone := []
  inPlace : Bool := false
  /-- the output range, which an IN_PLACE command poisons when it cannot resume (R28) -/
  outs    : List (Nat × Nat) := []
deriving DecidableEq, Repr

/-- One matrix array (R484, R91). -/
structure ArrayUnit where
  colFenced : Tab Bool := []
  /-- the column that failed its check in the tile's last attempt (R91) -/
  suspect   : Option Nat := none
  active    : Bool := false
  ramping   : Bool := false
  fenced    : Bool := false
  /-- pass slots of the present group of 16 that are past (R435) -/
  slot      : Nat := 0
  run       : Option ArrayRun := none
deriving DecidableEq, Repr

/-- One vector engine (R484). -/
structure VectorUnit where
  groupFenced : Tab Bool := []
  fenced      : Bool := false
  /-- the commands that share the engine, queue and number (R106) -/
  users       : List (Nat × Nat) := []
  /-- chunk boundaries of the present group of 16 that are past (R435) -/
  slot        : Nat := 0
deriving DecidableEq, Repr

/-- One expander pair (R484). -/
structure ExpanderPair where
  outFenced : Tab Bool := []
  fenced    : Bool := false
  /-- EXP_ERR.BLOCK (R484) -/
  errBlock  : Nat := 0
deriving DecidableEq, Repr

/-- The partial state of one query row (R159): maximum, sum, count of +∞, NaN flag, output accumulators. -/
structure Partial where
  m   : Num := .inf true
  l   : Num := .fin false 0 0
  k   : Nat := 0
  nan : Bool := false
  o   : List Num := []
deriving DecidableEq, Repr

/-- The attention walker's place in one unit of work (R157 to R160, R169, R171). -/
structure Walk where
  q      : Nat
  n      : Nat
  unit   : Nat
  /-- key blocks done -/
  key    : Nat := 0
  /-- the chunk in progress -/
  chunk  : Nat := 0
  /-- ATTN_FWD: folded chunks and the chunk in progress, row by row -/
  acc    : List Partial := []
  cur    : List Partial := []
  /-- ATTN_BWD: running dQ rows, head by head and query by query; finished dK and dV rows by position -/
  dq     : List (List Num) := []
  dkv    : List (Nat × List Num × List Num) := []
deriving DecidableEq, Repr

/-- A request that waits at a region's arbiter (R21): its number, its port, its class, and whether it asks for the path to
Umber or for the slice. -/
structure ArbReq where
  request : Nat
  port    : Nat
  cls     : Nat
  umber   : Bool
deriving DecidableEq, Repr

/-- A fetch from another module that waits for a shard of this one to be idle (R228). -/
structure ShardWait where
  source : Nat
  addr   : Nat
  want   : Nat
deriving DecidableEq, Repr

/-- One compute region (R18, R458, R484). -/
structure Region where
  state      : PageState := .admitting
  arrays     : Tab ArrayUnit := []
  vectors    : Tab VectorUnit := []
  expanders  : Tab ExpanderPair := []
  reductionFenced : Bool := false
  walkerFenced    : Bool := false
  sequencerFailed : Bool := false
  sliceFailed : Bool := false
  arbiterFailed   : Bool := false
  bankFenced : Tab Bool := []
  walk       : Option Walk := none
  /-- key-block boundaries of the present group of 16 that are past (R435) -/
  walkSlot   : Nat := 0
  /-- REGION_GATE (R428) -/
  gated      : Bool := false
  /-- header of the image it runs; empty: none loaded (R455, R457) -/
  fw         : Bytes := []
  /-- requests that wait at the arbiter, oldest first (R21) -/
  waiting    : List ArbReq := []
  /-- the port granted last in each class, by class for the slice and class + 4 for the path to Umber (R21) -/
  lastPort   : Tab Nat := []
  /-- the DRAIN in progress is an ABORT (R460) -/
  aborting   : Bool := false
  /-- how the region leaves TESTING: the state before (R458) -/
  faultSeen  : Bool := false
deriving DecidableEq, Repr

/-- One copy engine (R319, R484, R485). -/
structure CopyEngine where
  state : PageState := .inService
  /-- the command whose piece it holds -/
  piece : Option (Nat × Nat × Nat) := none
deriving DecidableEq, Repr

/-! ### Queues and commands (chapter 12) -/

/-- Queue states (R340). -/
inductive QState where
  | disabled | active | parkedStale | draining | aborting | held
deriving DecidableEq, Repr

/-- A queue's context (R338) and what the module keeps beside it. -/
structure QueueCtx where
  sizeLog2  : Nat := 4
  sqBase    : Nat := 0
  irqVec    : Nat := 0
  cqBase    : Nat := 0
  winBase   : Nat := 0
  winLimit  : Nat := 0
  jobSeed   : Nat := 0
  lastStep  : Nat := 0
  state     : QState := .disabled
  nextSeq   : Nat := 1
  tailSeq   : Nat := 0
  doneSeq   : Nat := 0
  cqHead    : Nat := 0
  /-- the journaled CQ_HEAD (R355) -/
  jnlHead   : Nat := 0
  /-- TAIL_SEQ held at DISABLE (R365) -/
  drainTail : Nat := 0
  /-- re-fetches of the stale descriptor issued so far (R345) -/
  tries     : Nat := 0
  /-- the stale descriptor waits for its re-fetch -/
  stale     : Bool := false
  /-- the state the queue returns to after HELD (R367) -/
  heldFrom  : QState := .active
  /-- the first sequence number of the queue since ENABLE (R361) -/
  firstSeq  : Nat := 1
deriving DecidableEq, Repr

/-- One descriptor fetch outstanding (R344). -/
structure Fetch where
  q : Nat
  n : Nat
deriving DecidableEq, Repr

/-- One descriptor that passed step 1 of R344 and waits for acceptance. -/
structure Ready where
  q    : Nat
  n    : Nat
  desc : Bytes
deriving DecidableEq, Repr

/-- Why a request for bytes failed (R239, R240, R250, R260, R364). -/
inductive Met where
  | unmapped | window | tier | poisoned
  /-- an expander's check of a block: a mismatch, or a failed check value; the block's number (R271, R273, R279) -/
  | frame (mismatch : Bool) (block : Nat)
deriving DecidableEq, Repr

/-- Status codes (R357). -/
inductive Status where
  | ok | okScaled | saturated | partialExact | limit | kvExhausted
  | malformed | abortedNotStarted | depFailed | busyInService
  | tierError | poisoned | checkFail | decompressMismatch | unmapped | windowFault
  | stackFull | stackMismatch | kvBadPage | kvTableMismatch | versionMismatch | shardBroken | diverged | hqClosed
  /-- a failed request with its address, on its way to the error record; a command keeps the plain status -/
  | met (why : Met) (addr : Nat)
deriving DecidableEq, Repr

/-- Where a command stands between acceptance and its completion record (R349 to R352). -/
inductive Phase where
  /-- the ACCEPT record is written; the partner's acknowledgement or a free place is awaited -/
  | accepted
  /-- dispatched: it runs -/
  | started
  /-- its work is over; the COMPLETE record is not yet written -/
  | ended
  /-- the COMPLETE record is written; the completion record is not -/
  | journaled
deriving DecidableEq, Repr

/-- Progress of a collective (R393 to R398). -/
structure CollProgress where
  group      : Nat := 0
  number     : Nat := 0
  /-- the chain has returned this member's own signature (R395) -/
  signed     : Bool := false
  /-- ranks whose report of completion has arrived (R396) -/
  reports    : List Nat := []
  restarted  : Bool := false
deriving DecidableEq, Repr

/-- A stack entry reserved by a push or claimed by a pop (R182, R189). -/
structure StackClaim where
  stack : Nat
  entry : Nat
  addr  : Nat
  /-- the code tables that the command has read (R273) -/
  tables : List (Nat × Bytes) := []
deriving DecidableEq, Repr

/-- One accepted command that has no completion record yet. -/
structure Cmd where
  q         : Nat
  n         : Nat
  desc      : Bytes
  phase     : Phase := .accepted
  /-- the record is mirrored or needs no mirror (R349 step 2, R352 step 2) -/
  mirrored  : Bool := true
  /-- its body, read when it started (R346) -/
  body      : Bytes := []
  /-- check 1 of R346 refused it -/
  refused1  : Bool := false
  status    : Status := .ok
  sat       : Nat := 0
  units     : Nat := 0
  wroteLocal : Bool := false
  wroteSlate : Bool := false
  wrotePeer  : Bool := false
  resumed   : Bool := false
  replayed  : Bool := false
  /-- it has passed its commit point (R350) -/
  committed : Bool := false
  /-- the commit notice to the twin waits for its acknowledgement (R406) -/
  noticed   : Bool := true
  /-- numbers of the units of work committed, ascending -/
  done      : List Nat := []
  /-- byte ranges committed: first address and length -/
  wrote     : List (Nat × Nat) := []
  /-- regions and towers in which it holds a place (R24, R294) -/
  regions   : List Nat := []
  towers    : List Nat := []
  /-- generation latches: pool, generation (R153) -/
  latches   : List (Nat × Nat) := []
  claim     : Option StackClaim := none
  /-- what an attention command keeps of the table rows it has read (R153): row address, TOKENS and entries -/
  kept      : List (Nat × List Nat) := []
  /-- counts that its report or its status needs, by the command's own numbering -/
  counts    : List Nat := []
  coll      : CollProgress := {}
  /-- the OVERFLOW flag of a THIN_GEMM tile is known (R299): tile, flag -/
  flags     : List (Nat × Bool) := []
  /-- it belongs to a STREAM and has no record of its own (R326) -/
  ofStream  : Bool := false
  /-- the code tables it has read, by address: each is read once (R273) -/
  tables    : List (Nat × Bytes) := []
  /-- the copy engines, by direction, that took its last piece (R318) -/
  engines   : Tab Nat := []
  /-- writes of committed units that cover no whole granule: they appear together at the end (R306) -/
  withheld  : List (Nat × Bytes) := []
  /-- it was dispatched: it is in flight until its completion (R24) -/
  dispatched : Bool := false
  /-- STEP of its body, read when the ACCEPT record was written (R349) -/
  step      : Option Nat := none
  /-- what it adds to the governor's estimate, watts (R430) -/
  rise      : Nat := 0
deriving DecidableEq, Repr

/-- Kinds of journal record (R353). -/
inductive RecKind where
  | accept | complete | context | consumed
deriving DecidableEq, Repr

/-- A live record as the journal engine knows it (R353): number, kind, queue, SEQ, and for a COMPLETE record its
completion record. -/
structure LiveRec where
  recno  : Nat
  kind   : RecKind
  q      : Nat
  seq    : Nat
  record : Bytes := []
  status : Status := .ok
  /-- HEAD of a CONTEXT or CONSUMED record -/
  head   : Nat := 0
deriving DecidableEq, Repr

/-- JOURNAL_STS.STATE (R370). -/
inductive JState where
  | live | scanning | awaitGo | replaying | broken
deriving DecidableEq, Repr

/-- The journal engine (R353 to R355, R367, R368). -/
structure Journal where
  writeRec  : Nat := 0
  trimRec   : Nat := 0
  /-- which header copy is written next, 0 or 1 -/
  nextCopy  : Nat := 0
  live      : List LiveRec := []
  state     : JState := .live
  reason    : Nat := 0
  badRecord : Nat := 0
  /-- queues whose raised CQ_HEAD waits for its CONSUMED record (R355) -/
  consume   : List Nat := []
  /-- queues whose CONTEXT record the link could not take yet, and whether it holds DISABLED (R353) -/
  owed      : List (Nat × Bool) := []
  /-- the reset before the scan was a cold reset or Purge (R367 step 3) -/
  afterCold : Bool := true
deriving DecidableEq, Repr

/-- One Slate request outstanding (R260). -/
structure SlateReq where
  id     : Nat
  q      : Nat
  n      : Nat
  write  : Bool
  addr   : Nat
  length : Nat
  bytes  : Bytes
deriving DecidableEq, Repr

/-- A read of a path fence that has not returned (R360): which bytes of the register it reads, and the Slate requests or the modules
that it waits for. -/
structure FenceRead where
  offset : Nat
  length : Nat
  awaits : List Nat
deriving DecidableEq, Repr

/-- The Perast controller (R333 to R336, R370). -/
structure Perast where
  slateTimeout : Nat := 0xF4240
  sizeGib      : Nat := 0
  slatePa      : Nat := 0
  journalLog2  : Nat := 0
  /-- JOURNAL_BASE.BASE in units of 4 KiB -/
  journalBase  : Nat := 0
  selWindowWord : Nat := 0
  selWindowQueue : Nat := 0
  selGreyWord  : Nat := 0
  selGreyQueue : Nat := 0
  fenceLink    : Nat := 0
  fenceWindow  : Nat := 0
  fencePeer    : Nat := 0
  /-- reads of PATH_FENCE_LINK that wait for Slate writes, oldest first (R360) -/
  linkFences   : List FenceRead := []
  /-- reads of PATH_FENCE_PEER that wait for acknowledgements, oldest first (R387) -/
  peerFences   : List FenceRead := []
  dbReason     : Nat := 0
  dbQueue      : Nat := 0
  linkUp       : Bool := true
  requests     : List SlateReq := []
  nextRequest  : Nat := 0
deriving DecidableEq, Repr

/-! ### Streams and handle queues (chapter 11) -/

/-- One move outstanding (R325): what it has read and will write, and its bytes. -/
structure StreamMove where
  writes : List (Nat × Bytes)
  bytes  : Nat
  /-- directions in which it crosses to Slate, as the copy engines have them: 0 toward the companion, 1 toward the module (R318) -/
  dirs   : List Nat := []
deriving DecidableEq, Repr

/-- A sequencer thread running one STREAM (R321 to R328). -/
structure Thread where
  q       : Nat
  n       : Nat
  region  : Nat
  /-- index of the next instruction -/
  pc      : Nat := 0
  /-- the pointer registers P0 to P7 -/
  ptr     : List Nat := []
  /-- counters of the open loop levels, outermost first; a counter runs from 0 -/
  loops   : List Nat := []
  /-- moves outstanding, oldest first -/
  moves   : List StreamMove := []
  /-- instructions executed, bytes moved, RUN commands completed, the first status of R326 that was not OK (R327) -/
  executed : Nat := 0
  moved   : Nat := 0
  runs    : Nat := 0
  first   : Nat := 0
  /-- the status that ends the stream once its moves are done -/
  ending  : Option Status := none
  /-- it waits in a handle queue (R330) -/
  waiting : Bool := false
  /-- a RUN of ring attention has taken its group's number and awaits the signature (R390) -/
  armed   : Bool := false
  /-- the RUN command that is unfinished, as its body slot and its blocks have it: started, or accepted while its start must wait (R326) -/
  running : Option Cmd := none
  /-- the thread is stopped; its STREAM resumes from what was kept (R328) -/
  saved   : Bool := false
  /-- and its save area has been written -/
  stored  : Bool := false
deriving DecidableEq, Repr

/-- A thread waiting at a handle queue: queue and number of its STREAM, pointer register to load (takers) or the handle
given (givers). -/
structure HqWaiter where
  q      : Nat
  n      : Nat
  value  : Nat
deriving DecidableEq, Repr

/-- One handle queue (R330, R331). -/
structure HandleQueue where
  isOpen  : Bool := false
  depth   : Nat := 0
  handles : List Nat := []
  takers  : List HqWaiter := []
  givers  : List HqWaiter := []
deriving DecidableEq, Repr

/-! ### KV pools (chapter 05) and tracked ranges (chapter 08) -/

/-- One KV pool (R141 to R154). -/
structure Pool where
  live      : Bool := false
  format    : Nat := 0
  headDim   : Nat := 0
  base      : Nat := 0
  capacity  : Nat := 0
  active    : Nat := 0
  owner     : Nat := 0
  stateAddr : Nat := 0
  gen       : Nat := 0
  /-- linked pages, by page index -/
  linked    : Tab Bool := []
  /-- deferred pages: page and tag (R153) -/
  deferred  : List (Nat × Nat) := []
deriving DecidableEq, Repr

/-- One tracked range (R261 to R263). -/
structure Track where
  isOpen    : Bool := false
  upper     : Nat := 0
  home      : Nat := 0
  length    : Nat := 0
  bitmap    : Nat := 0
  /-- TRK_FLAGS of the OPEN -/
  flags     : Nat := 0
deriving DecidableEq, Repr

/-! ### Links (chapter 13) -/

/-- LINK_STS.STATE (R402). -/
inductive LinkState where
  | down | training | up | narrow | failed | unused
deriving DecidableEq, Repr

/-- One Jenlayx link (R371 to R383, R402). -/
structure Link where
  state     : LinkState := .down
  page      : PageState := .inService
  reason    : Nat := 0
  spareFor  : Nat := 0xF
  use       : Nat := 0
  farPos    : Nat := 0xFFFF
  farLink   : Nat := 0
  enable    : Bool := true
  failedLanes : Tab Bool := []
  sparePending : Bool := false
  trimming  : Tab Bool := []
  /-- lanes that LINK_CTL.RECAL has named and that have not been re-trimmed since (R376) -/
  recal     : List Nat := []
  txSeq     : Nat := 0
  rxSeq     : Nat := 0
  /-- flits sent and not acknowledged, oldest first: SEQ and payload bytes -/
  retry     : List (Nat × Bytes) := []
  /-- flits that wait for a place in the retry buffer, oldest first: VC and bytes 0 to 257 (R373) -/
  held      : List (Nat × Bytes) := []
  /-- how often each flit of the retry buffer has been replayed, by SEQ (R374) -/
  replays   : Tab Nat := []
deriving DecidableEq, Repr

/-- A chunk that arrives for this module (R372): its TAG, what the control message that opened it names, and the payloads that have
arrived, by INDEX. -/
structure Inbound where
  tag   : Nat
  head  : Option ChunkHead := none
  flits : Tab Bytes := []
deriving DecidableEq, Repr

/-- One window for peers (R385, R402). -/
structure PeerWindow where
  enable : Bool := false
  base   : Nat := 0
  limit  : Nat := 0
deriving DecidableEq, Repr

/-- One route override (R382, R402). -/
structure Route where
  valid  : Bool := false
  target : Nat := 0
  links  : Nat := 0
deriving DecidableEq, Repr

/-- One collective group (R388, R389). -/
structure Group where
  exist   : Bool := false
  members : List Nat := []
  /-- this module's rank -/
  rank    : Nat := 0
  owner   : Nat := 0
  /-- the next collective number (R389) -/
  number  : Nat := 0
  /-- numbers taken by commands in flight: sequence number, number -/
  taken   : List (Nat × Nat) := []
  /-- numbers recorded as done (R396) -/
  done    : List Nat := []
deriving DecidableEq, Repr

/-- The link complex (chapter 13). -/
structure LinkComplex where
  position   : Nat := 0xFFFF
  sizeX      : Nat := 1
  sizeY      : Nat := 1
  sizeZ      : Nat := 1
  peerTimeout : Nat := 100000
  winSel     : Nat := 0
  windows    : Tab PeerWindow := []
  routeSel   : Nat := 0
  routes     : Tab Route := []
  fenceFail  : Nat := 0
  fenceFailed : Bool := false
  fabric     : PageState := .inService
  links      : Tab Link := []
  /-- the TAG of the next chunk that this module sends, and the chunks that arrive (R372) -/
  nextTag    : Nat := 0
  ingress    : List Inbound := []
  groups     : Tab Group := []
  /-- modules written to whose acknowledgement of visibility is outstanding (R387) -/
  unacked    : List Nat := []
deriving DecidableEq, Repr

/-! ### Twin engine (chapter 14) -/

/-- TWIN_STS.STATE (R425). -/
inductive TwinState where
  | solo | pairing | paired | shared | alone | filling | fillTarget
deriving DecidableEq, Repr

/-- One entry of the REP table (R425). -/
structure RepEntry where
  valid : Bool := false
  first : Nat := 0
  last  : Nat := 0
deriving DecidableEq, Repr

/-- A block that a TAKE has marked (R416): its number in MiB, whether it is member-local, whether this member streams it, and
its place at DEST_ADDR. -/
structure WpBlock where
  mib      : Nat
  loc      : Bool
  streamed : Bool
  slot     : Nat
deriving DecidableEq, Repr

/-- A digested block: its number in MiB, LOCAL, STREAMED, its CRC-64 (R417). -/
structure WpDigest where
  mib      : Nat
  loc      : Bool
  streamed : Bool
  crc      : Word
  /-- the block held a poisoned granule: its CRC is no digest to compare (R419) -/
  poisoned : Bool := false
deriving DecidableEq, Repr

/-- A block's content that a TAKE read before a write to it: its number in MiB, its bytes, whether a granule was poisoned. -/
structure WpSaved where
  mib      : Nat
  bytes    : Bytes
  poisoned : Bool
deriving DecidableEq, Repr

/-- A Whitepoint in progress (R416 to R419). -/
structure WpRun where
  q        : Nat := 0
  n        : Nat := 0
  running  : Bool := false
  /-- blocks marked and still unsent, the next one first -/
  blocks   : List WpBlock := []
  saved    : List WpSaved := []
  /-- VERSION of each listed shard and WRITE_REC at step 3 -/
  versions : List Nat := []
  jrec     : Nat := 0
  digests  : List WpDigest := []
  sent     : Nat := 0
  stop     : Nat := 0
  stream   : Nat := 0
  /-- a block read POISONED -/
  poisoned : Bool := false
  /-- the partner's versions and digests agree -/
  partnerOk : Bool := false
deriving DecidableEq, Repr

/-- What awaits the partner's acknowledgement, oldest first (R406). -/
inductive MirrorWait where
  | record (recno : Nat)
  | notice (q n : Nat)
  | trim (rec : Nat)
  | version (shard version : Nat)
  /-- a block, a record or a forwarded write of a fill (R413) -/
  | fill
deriving DecidableEq, Repr

/-- The twin engine (R403 to R425). -/
structure Twin where
  ackTimeout   : Nat := 1000
  fillTarget   : Bool := false
  sharedFeedOk : Bool := false
  state        : TwinState := .solo
  reason       : Nat := 0
  refuse       : Nat := 0
  ownFeed      : Nat := 0
  partnerFeed  : Nat := 0
  fillSync     : Bool := false
  diverged     : Bool := false
  partnerPos   : Nat := 0xFFFF
  mirrorLog2   : Nat := 0
  mirrorBase   : Nat := 0
  repSel       : Nat := 0
  rep          : Tab RepEntry := []
  /-- items sent and not acknowledged, oldest first -/
  unacked      : List MirrorWait := []
  /-- the partner's records held in the mirror area: record number and bytes -/
  mirrored     : List (Nat × Bytes) := []
  /-- commit notices of the partner: queue, number -/
  notices      : List (Nat × Nat) := []
  /-- follower shard versions the partner reported -/
  followers    : Tab Nat := []
  mirrorTrim   : Nat := 0
  /-- the mirror area's WRITE_REC, the header copy written next, and the partner's OWNER_ID and JOURNAL_BASE -/
  mirrorWrite  : Nat := 0
  mirrorCopy   : Nat := 0
  partnerOwner : Nat := 0
  partnerBase  : Nat := 0
  /-- replicated blocks not yet sent, by number in MiB, and records of the lost member's journal not yet sent (R413) -/
  fillLeft     : List Nat := []
  fillRecs     : List (Nat × Bytes) := []
  /-- this spare holds a lost member's journal, and that member's commit notices (R413, R414) -/
  adopting     : Bool := false
  adoptNotices : List (Nat × Nat) := []
  /-- cycle counts of the failure events kept, oldest first (R420) -/
  events       : List Nat := []
  wpShare      : Nat := 1
  wpState      : Nat := 0
  wpLastStop   : Nat := 0
  wpLastStream : Nat := 0
  wpTaken      : Nat := 0
  wp           : WpRun := {}
deriving DecidableEq, Repr

/-! ### Governor (chapter 15) -/

/-- The Amber governor (R426 to R445). -/
structure Governor where
  tjTarget   : Nat := 95
  noticeW    : Nat := 100
  stagger    : Nat := 25
  rampStep   : Nat := 6
  powerCap   : Nat := 1600
  i2cCap     : Nat := 0
  state      : Nat := 0
  coolantWarn : Bool := false
  throttle   : Nat := 0
  capLevel   : Nat := 0
  thermalLevel : Nat := 0
  vin        : Nat := 0
  iin        : Nat := 0
  pin        : Nat := 0
  towerMax   : Int := 0
  dieMax     : Int := 0
  diePredict : Int := 0
  flow       : Nat := 0
  outlet     : Int := 0
  inlet      : Int := 0
  feedLow    : Bool := false
  feedLost   : Bool := false
  noticeUp   : Bool := false
  noticeDown : Bool := false
  holding    : Bool := false
  /-- estimated draw of the commands started, watts -/
  estimate   : Nat := 0
  /-- rises and planned falls of the estimate in the last 2 µs: quantum, watts (R430) -/
  rises      : List (Nat × Nat) := []
  falls      : List (Nat × Nat) := []
  i2cIndex   : Nat := 0
deriving DecidableEq, Repr

/-! ### Boot, reset, firmware, Greyline (chapter 16) -/

/-- BOOT_STS.STAGE (R472). -/
inductive Stage where
  | rom | post | load | awaitConfig | run | halted
deriving DecidableEq, Repr

/-- Greyline levels (R469). -/
inductive Level where
  | locked | operate | debug
deriving DecidableEq, Repr

/-- Boot core, resets, firmware, identity (R446 to R472). -/
structure Boot where
  stage     : Stage := .rom
  haltReason : Nat := 0
  bank      : Nat := 0
  scanned   : Bool := false
  locked    : Bool := false
  lastKind  : Nat := 3
  cause     : Nat := 0
  forced    : Bool := false
  refused   : Bool := false
  purgeAddr : Nat := 0
  fwLoadAddr : Nat := 0
  fwState   : Nat := 0
  fwFail    : Nat := 0
  svnMin    : Nat := 0
  /-- the flash banks: key bank·4 + TARGET, an image's bytes (R455; log entry 29) -/
  flash     : Tab Bytes := factoryFlash
  preferred : Nat := 0
  /-- header of the service image that runs -/
  fw        : Bytes := []
  identitySeed : Bytes := List.replicate 32 0
  /-- the identity private key, and whether the fused seed can still be read (R454, R466) -/
  privateKey : Bytes := []
  seedOpen  : Bool := true
  /-- the identity public key and OWNER_ID, derived at step 4 of the boot (R353, R454, R456) -/
  publicKey : Bytes := []
  ownerId   : Nat := 0
  vendorKeys   : List Bytes := factoryVendorKeys
  vendorRevoked : List Nat := []
  debugKeys    : List Bytes := factoryDebugKeys
  /-- a reset that quiesces: its kind, regions -/
  running   : Option (Nat × Nat) := none
deriving DecidableEq, Repr

/-- The Greyline monitor (R466 to R470). -/
structure Grey where
  level     : Level := .locked
  fails     : Nat := 0
  baudHigh  : Bool := false
  nonce     : Option Bytes := none
  backingOff : Bool := false
deriving DecidableEq, Repr

/-! ### What leaves the module -/

/-- One thing sent outward, in order (log entry 8). -/
inductive Out where
  /-- interrupt message with its vector (R333) -/
  | irq (vector : Nat)
  /-- data of a window read; `none` for a poisoned granule's byte -/
  | windowData (bytes : List (Option Byte))
  /-- a request of the module's own engines answered: address, whether a write, status, data -/
  | served (addr : Nat) (write : Bool) (status : Status) (bytes : Bytes)
  /-- message, flit or request toward a peer over the links: target position, kind, words, bytes -/
  | peer (target : Nat) (kind : String) (words : List Nat) (bytes : Bytes)
  /-- flit sent on a link: link, SEQ, bytes -/
  | flit (link seq : Nat) (bytes : Bytes)
  /-- NAK or acknowledgement on a link -/
  | nak (link seq : Nat)
  /-- message to the twin: kind, words, bytes -/
  | twin (kind : String) (words : List Nat) (bytes : Bytes)
  /-- Greyline reply: name, words, bytes -/
  | grey (reply : String) (words : List Nat) (bytes : Bytes)
  /-- I2C acknowledge or not -/
  | i2c (ack : Bool) (read : Bytes)
  /-- request on the Perast link: companion physical address, length, and a write's data (R334) -/
  | slate (id : Nat) (write : Bool) (addr length : Nat) (bytes : Bytes)
deriving DecidableEq, Repr

/-- What the module's supply and reset lines hold it at (R437, R438, R441). -/
inductive Power where
  | on
  /-- feed lost: the hold-up reservoir carries it (R438) -/
  | holdUp
  /-- off until the feed returns (R438, R441) -/
  | off
  /-- held in cold reset by a thermal trip (R437) -/
  | tripped
deriving DecidableEq, Repr

/-- The two parts (R2 to R5). -/
inductive Part where
  | vgd1T | vgd512
deriving DecidableEq, Repr

/-- Reasons the machine could stop with a fault: a closed type with no member that any meaning raises, because the spec
stops the module only into states it describes (DEVICE, power off), which are next states here. -/
inductive Fault where
  /-- raised by nothing; safe -/
  | unreachable
deriving DecidableEq, Repr

/-- Reasons a command gets no meaning. -/
inductive Refusal where
  /-- raised by an arm of Dispatch whose row has no meaning yet; safe: the model stops -/
  | notModelled (mnemonic : String)
  /-- named by the tests of WellFormed for a command that does not exist (an operand outside its range); raised by no
  meaning; safe -/
  | illFormed
deriving DecidableEq, Repr

/-- THE STATE OF THE MODULE. -/
structure State where
  part       : Part := .vgd1T
  power      : Power := .on
  /-- a DEVICE stop has happened (R26, R451) -/
  deviceStop : Bool := false
  /-- quanta of 160 ns since reset (log entry 2) -/
  cycles     : Nat := 0
  /-- free values drawn so far (log entry 7) -/
  freeCount  : Nat := 0
  mem        : Mem := {}
  tow        : TowerComplex := {}
  regions    : Tab Region := []
  copy       : Tab CopyEngine := []
  /-- check-value units fenced (R485) -/
  checkFenced : Tab Bool := []
  pages      : Tab Page := []
  errIrqEnable : Bool := false
  errIrqVec  : Nat := 0
  /-- a further unmasked bit has been set since the last error interrupt (R483) -/
  errIrqMore : Bool := false
  queues     : Tab QueueCtx := []
  fetches    : List Fetch := []
  ready      : List Ready := []
  /-- the queue after which the round robin of R344 goes on -/
  rrQueue    : Nat := 0
  cmds       : List Cmd := []
  jnl        : Journal := {}
  per        : Perast := {}
  threads    : List Thread := []
  hqs        : Tab HandleQueue := []
  pools      : Tab Pool := []
  tracks     : Tab Track := []
  /-- the shards that INIT has set up: address of the record, its bytes 36 to 99 (R212) -/
  shards     : List (Nat × Bytes) := []
  shardWaits : List ShardWait := []
  lnk        : LinkComplex := {}
  twin       : Twin := {}
  gov        : Governor := {}
  boot       : Boot := {}
  grey       : Grey := {}
  outbox     : List Out := []
  /-- THE COMMANDS THAT WAIT, first in, first out (the model's own form) -/
  pending    : List Instr := []
deriving DecidableEq, Repr

/-- The module right after reset: every register at its reset value, memory with nothing listed, nothing waiting. The
values the spec does not state are named in the assumption log (entries 5, 6). (DESIGN CHOICE, log entry 5). -/
def State.reset : State := {}

end Sys2Proof.Machine
end

