-- ==== Sys2Proof/Machine/Pages.lean ====
section
/-! DEFINITION. Register-page headers: page numbers, recording an error and raising it to the parent pages, the error
interrupt, event counters, and the DEVICE stop (chapters 01, 17, 18). -/

namespace Sys2Proof.Machine

/-! ### Page numbers: aperture offset ÷ 4096 (R476) -/

def pgService : Nat := 0
def pgBoot : Nat := 1
def pgPerast : Nat := 4
def pgTwin : Nat := 5
def pgColl : Nat := 6
def pgGov : Nat := 7
def pgGrey : Nat := 8
def pgCopy (e : Nat) : Nat := 16 + e
def pgCheck (u : Nat) : Nat := 32 + u
def pgRegion (r : Nat) : Nat := 0x100 + 0x100 * r
def pgArray (r a : Nat) : Nat := pgRegion r + 1 + a
def pgVector (r v : Nat) : Nat := pgRegion r + 5 + v
def pgReduction (r : Nat) : Nat := pgRegion r + 7
def pgWalker (r : Nat) : Nat := pgRegion r + 8
def pgExpander (r p : Nat) : Nat := pgRegion r + 9 + p
def pgSlice (r : Nat) : Nat := pgRegion r + 11
def pgComplex : Nat := 0x900
def pgTower (t : Nat) : Nat := 0x901 + t
def pgFabric : Nat := 0xA00
def pgLink (l : Nat) : Nat := 0xA01 + l

/-- Whether a page exists (R476). -/
def pageExists (p : Nat) : Bool :=
  decide (p ≤ 8) || (decide (16 ≤ p) && decide (p ≤ 35)) ||
  (decide (0x100 ≤ p) && decide (p < 0x900) && decide (p % 0x100 < 12)) ||
  (decide (0x900 ≤ p) && decide (p ≤ 0x912)) || (decide (0xA00 ≤ p) && decide (p ≤ 0xA18))

/-- The group of a page (R477). -/
def pageGroup (p : Nat) : Nat :=
  if p < 0x100 then 8 else if p < 0x900 then p / 0x100 - 1 else if p < 0xA00 then 9 else 10

/-- The index of a page within its group (R477). -/
def pageIndex (p : Nat) : Nat := if p < 0x100 then p else p % 0x100

/-- PAGE_ID.TYPE (R479). -/
def pageType (p : Nat) : Nat :=
  if p < 9 then 0x10 + p
  else if p < 32 then 0x19
  else if p < 0x100 then 0x1A
  else if p < 0x900 then
    (let i := p % 0x100
     if i = 0 then 1 else if i < 5 then 2 else if i < 7 then 3 else if i = 7 then 4 else if i = 8 then 5
     else if i < 11 then 6 else 7)
  else if p = 0x900 then 0x20 else if p < 0xA00 then 0x21 else if p = 0xA00 then 0x30 else 0x31

/-- The page to which a page raises (R18, R27): a block's region or complex, a region's chip page. -/
def pageParent (p : Nat) : Option Nat :=
  if p = 0 then none
  else if p < 0x100 then some 0
  else if p < 0x900 then (if p % 0x100 = 0 then some 0 else some (p - p % 0x100))
  else if p = 0x900 then some 0 else if p < 0xA00 then some 0x900
  else if p = 0xA00 then some 0 else some 0xA00

/-! ### Headers -/

/-- The header of page `p`. -/
def State.page (s : State) (p : Nat) : Page := tabGet {} s.pages p

/-- Some page holds an ERR_STS bit that is set and not masked: ERR_SUMMARY is not zero (R483). -/
def errSummaryAny (t : Tab Page) : Bool := t.any (fun p => p.2.errSts &&& ~~~p.2.errMask != 0)

/-- Writes page `p`'s header and lets the error interrupt follow the summary (R483): one message when the summary leaves
zero; a further unmasked bit is remembered while it stays non-zero. -/
def State.putPage (s : State) (p : Nat) (h : Page) : State :=
  let old := s.page p
  let before := errSummaryAny s.pages
  let pages := tabSet {} s.pages p h
  let after := errSummaryAny pages
  let further := (h.errSts &&& ~~~h.errMask) &&& ~~~(old.errSts &&& ~~~old.errMask) != 0
  if s.errIrqEnable && !before && after then
    { s with pages := pages, outbox := s.outbox ++ [.irq s.errIrqVec], errIrqMore := false }
  else
    { s with pages := pages, errIrqMore := after && (s.errIrqMore || (before && further)) }

/-- Changes page `p`'s header. -/
def State.modPage (s : State) (p : Nat) (f : Page → Page) : State := s.putPage p (f (s.page p))

/-- One counter counts `k` (R491, R479): nothing while frozen; past 2^48 − 1 it goes on from zero and sets WRAPPED. -/
def EvCounter.add (e : EvCounter) (k : Nat) : EvCounter :=
  { e with count := (e.count + k) % 2 ^ 48, wrapped := e.wrapped || decide (2 ^ 48 ≤ e.count + k) }

/-- The counters of a page that select `source` count `k`. -/
def Page.countEvent (source k : Nat) (h : Page) : Page :=
  if h.evFreeze then h else
  { h with ev := h.ev.map (fun e => if e.2.source = source then (e.1, e.2.add k) else e) }

/-- `k` events of `source` happen in page `p` (R491 to R493). -/
def State.count (s : State) (p source k : Nat) : State :=
  { s with pages := s.pages.map (fun e => if e.1 = p then (e.1, e.2.countEvent source k) else e) }

/-- Bit `bit` of ERR_STS is set with `detail` (R480): it latches ERR_INFO when the bit was clear and nothing is latched; a
latched page sets OVERFLOW instead. INJECTED is set only by an injection that latches (R481). -/
def Page.raiseBit (bit detail : Nat) (injected : Bool) (h : Page) : Page :=
  if h.latched then { h with errSts := setBit (setBit h.errSts bit true) 62 true }
  else if hasBit h.errSts bit then h
  else { h with errSts := (if injected then setBit (setBit h.errSts bit true) 9 true else setBit h.errSts bit true),
                latched := true, infoBit := bit, infoDetail := detail % 2 ^ 48 }

/-- The error classes (R25). -/
inductive ErrClass where
  | corrected | contained | region | device
deriving DecidableEq, Repr

/-- The ERR_STS bit of a class (R479). -/
def ErrClass.bit : ErrClass → Nat
  | .corrected => 0 | .contained => 1 | .region => 2 | .device => 3

/-- ERR_COUNT counts every recorded class but DEVICE, saturating (R479, R480). -/
def Page.countClass (c : ErrClass) (h : Page) : Page :=
  match c with
  | .corrected => { h with cntCorrected := min (h.cntCorrected + 1) (2 ^ 32 - 1) }
  | .contained => { h with cntContained := min (h.cntContained + 1) (2 ^ 16 - 1) }
  | .region => { h with cntRegion := min (h.cntRegion + 1) (2 ^ 16 - 1) }
  | .device => h

/-- The common event source that counts a class (R492). -/
def ErrClass.source : ErrClass → Nat
  | .corrected => 2 | .contained => 3 | .region => 4 | .device => 0

/-- A page records an error of a class (R27, R480). -/
def State.recordIn (s : State) (p : Nat) (c : ErrClass) (detail : Nat) (injected : Bool) : State :=
  s.modPage p (fun h => ((h.raiseBit c.bit detail injected).countClass c).countEvent c.source 1)

/-- ESC in page `p`, raised from `child` (R27): ERR_INFO latches the child's offset; nothing is counted but ERR_ESCALATED. -/
def State.escIn (s : State) (p child : Nat) : State :=
  s.modPage p (fun h => (h.raiseBit 63 (child * 4096) false).countEvent 5 1)

/-- ERROR_RECORD (R27): the page of the block in which it arose records the error; the error settled there raises nothing. -/
def State.record (s : State) (p : Nat) (c : ErrClass) (detail : Nat) : State := s.recordIn p c detail false

/-- An error recorded in `p` and settled one level up: ESC in its parent (R25, R27). -/
def State.recordUp (s : State) (p : Nat) (c : ErrClass) (detail : Nat) : State :=
  match pageParent p with
  | none => s.record p c detail
  | some q => (s.record p c detail).escIn q p

/-- An error recorded in `p` and settled by the chip: ESC in every page between (R27). -/
def State.recordChip (s : State) (p : Nat) (c : ErrClass) (detail : Nat) : State :=
  match pageParent p with
  | none => s.record p c detail
  | some q =>
    match pageParent q with
    | none => (s.record p c detail).escIn q p
    | some q' => ((s.record p c detail).escIn q p).escIn q' q

/-- ERR_STS.BAD_WRITE in page `p`, with the offset of the register in [11:0] (R479, R480). -/
def State.badWrite (s : State) (p offset : Nat) : State := s.modPage p (·.raiseBit 8 (offset % 4096) false)

/-- A block-specific ERR_STS bit (R482). -/
def State.raiseBlockBit (s : State) (p bit detail : Nat) : State := s.modPage p (·.raiseBit bit detail false)

/-- The module sends something outward. (DESIGN CHOICE, log entry 8). -/
def State.send (s : State) (o : Out) : State := { s with outbox := s.outbox ++ [o] }

/-- The module runs: fed, booted to RUN, and not stopped with DEVICE. -/
def State.alive (s : State) : Bool := decide (s.power = .on) && !s.deviceStop && decide (s.boot.stage = .run)

/-- The register window answers: fed and not halted in boot (R454). -/
def State.answers (s : State) : Bool := decide (s.power = .on) && decide (s.boot.stage ≠ .halted)

end Sys2Proof.Machine
end

