-- ==== Sys2Proof/Machine/Route.lean ====
section
/-! DEFINITION. Positions, the torus, and the router's choice of exit links (R377 to R383). -/

namespace Sys2Proof.Machine

/-- Link `l`. -/
def State.link (s : State) (l : Nat) : Link := tabGet {} s.lnk.links l
/-- Link `l` replaced. -/
def State.putLink (s : State) (l : Nat) (k : Link) : State := { s with lnk := { s.lnk with links := tabSet {} s.lnk.links l k } }

/-- An active position (R377). -/
def activePos (p : Nat) : Bool := decide (p < 16384)
/-- The twin of a position (R377). -/
def twinOf (p : Nat) : Nat := if p % 2 = 0 then p + 1 else p - 1

/-- The coordinates of a position's pair: x, y, z (R378). -/
def LinkComplex.coords (k : LinkComplex) (p : Nat) : List Nat :=
  let n := p / 2
  [n % k.sizeX, n / k.sizeX % k.sizeY, n / (k.sizeX * k.sizeY)]

/-- The torus sizes. -/
def LinkComplex.dims (k : LinkComplex) : List Nat := [k.sizeX, k.sizeY, k.sizeZ]

/-- A link carries traffic (R374, R402). -/
def Link.carries (k : Link) : Bool := (k.state == .up || k.state == .narrow) && k.page == .inService

/-- Links in use `u` that carry traffic. -/
def State.linksOf (s : State) (u : Nat) : List Nat := (List.range 24).filter (fun l => (s.link l).carries && (s.link l).use == u)

/-- Steps in the + direction from `a` to `b` in a dimension of size `n`. -/
def stepsUp (n a b : Nat) : Nat := (b + n - a) % n

/-- The first dimension in which two positions differ, with its size and coordinates. -/
def LinkComplex.firstDim (k : LinkComplex) (a b : Nat) : Option (Nat × Nat × Nat × Nat) :=
  ((List.range 3).map (fun d => (d, nth 1 k.dims d, nth 0 (k.coords a) d, nth 0 (k.coords b) d))).find? (fun t => t.2.2.1 != t.2.2.2)

/-- The override for a destination (R382). -/
def LinkComplex.override (k : LinkComplex) (p : Nat) : Option Route := (k.routes.find? (fun r => r.2.valid && r.2.target == p)).map (·.2)

/-- The exit links toward a destination other than this module; none when it cannot be reached (R381 to R383). -/
def State.exits (s : State) (p : Nat) : List Nat :=
  let me := s.lnk.position
  if me = 0xFFFF then []
  else
    match s.lnk.override p with
    | some r => (List.range 24).filter (fun l => r.links.testBit l && (s.link l).carries)
    | none =>
      if !activePos me || !activePos p then []
      else if p = twinOf me ∨ p % 2 ≠ me % 2 then s.linksOf 1
      else
        match s.lnk.firstDim me p with
        | none => []
        | some (d, n, a, b) =>
          let up := s.linksOf (2 + 2 * d)
          let down := s.linksOf (3 + 2 * d)
          let first := if stepsUp n a b ≤ n - stepsUp n a b then (up, down) else (down, up)
          if first.1.isEmpty then first.2 else first.1

/-- The module can send toward a destination (R383). -/
def State.reaches (s : State) (p : Nat) : Bool := !(s.exits p).isEmpty

end Sys2Proof.Machine
end

