-- ==== Sys2Proof/Machine/Flit.lean ====
section
/-! DEFINITION. Flits: their layout, their way out on a link, and how a transfer to a peer or to the twin is cut into chunks of flits
(R372, R373, R381, R384); the stop notice of a DEVICE stop (R26, R409). -/

namespace Sys2Proof.Machine

/-! ### The layout (R372) -/

/-- Fields of a flit's header. -/
def flType (b : Bytes) : Nat := fieldAt b 0 8 / 2 ^ 60 % 16
def flVc (b : Bytes) : Nat := fieldAt b 0 8 / 2 ^ 58 % 4
def flSeq (b : Bytes) : Nat := fieldAt b 0 8 / 2 ^ 48 % 1024
def flAck (b : Bytes) : Nat := fieldAt b 0 8 / 2 ^ 38 % 1024
def flDest (b : Bytes) : Nat := fieldAt b 0 8 / 2 ^ 22 % 2 ^ 16
def flTag (b : Bytes) : Nat := fieldAt b 0 8 / 2 ^ 10 % 2 ^ 12
def flIndex (b : Bytes) : Nat := fieldAt b 0 8 % 1024

/-- A flit's bytes 0 to 261 with another VC, SEQ and ACK (R372). -/
def flitWith (b : Bytes) (vc seq ack : Nat) : Bytes :=
  let head := flType b * 2 ^ 60 + vc * 2 ^ 58 + seq * 2 ^ 48 + ack * 2 ^ 38 + flDest b * 2 ^ 22 + flTag b * 2 ^ 10 + flIndex b
  let body := natBytes 8 head ++ sliceOf b 8 250
  body ++ natBytes 4 (crc32c body)

/-- A flit's CRC agrees (R372). -/
def flitCrcOk (b : Bytes) : Bool := b.length == 262 && fieldAt b 258 4 == crc32c (sliceOf b 0 258)

/-! ### A flit goes out (R373, R381) -/

/-- A flit leaves on a link: it takes the link's next SEQ, acknowledges what has arrived there, and enters the retry buffer
(R373). -/
def State.emitFlit (s : State) (l vc : Nat) (b : Bytes) : State :=
  let k := s.link l
  let f := flitWith b vc k.txSeq ((k.rxSeq + 1023) % 1024)
  (((s.putLink l { k with txSeq := (k.txSeq + 1) % 1024, retry := k.retry ++ [(k.txSeq, f)] }).send (.flit l k.txSeq f)).count (pgLink l) 0x3101 1)

/-- Flits that a retry buffer keeps (R373). -/
def retryPlaces : Nat := 512

/-- A re-trim holds the whole link: a lane is under re-trim, and the spare does not stand in for it (R376). -/
def Link.paused (k : Link) : Bool := k.trimming.any (fun e => e.2 && k.spareFor != e.1)

/-- A flit goes out on a link, or waits there while the retry buffer has no place for it or a re-trim holds the link (R373, R376). -/
def State.sendFlit (s : State) (l vc : Nat) (b : Bytes) : State :=
  let k := s.link l
  if k.retry.length < retryPlaces ∧ k.held.isEmpty = true ∧ k.paused = false then s.emitFlit l vc b else s.putLink l { k with held := k.held ++ [(vc, b)] }

/-- The flits that wait take the places that acknowledgements have made free, unless a re-trim holds the link (R373, R376). -/
def State.sendHeld (s : State) (l : Nat) : State :=
  let k := s.link l
  let n := if k.paused then 0 else retryPlaces - k.retry.length
  (k.held.take n).foldl (fun t f => t.emitFlit l f.1 f.2) (s.putLink l { k with held := k.held.drop n })

/-- The exit link of a flit: chunks keep to one link, by TAG (R381). -/
def exitOf (links : List Nat) (tag : Nat) : Option Nat := if links.isEmpty then none else links[tag % links.length]?
/-- The exit link of a flit toward a position. -/
def State.exitFor (s : State) (dest tag : Nat) : Option Nat := exitOf (s.exits dest) tag

/-- A flit crosses the wrap of the dimension it travels in (R381). -/
def State.wraps (s : State) (l : Nat) : Bool :=
  let u := (s.link l).use
  let d := (u - 2) / 2
  let n := nth 1 s.lnk.dims d
  let a := nth 0 (s.lnk.coords s.lnk.position) d
  decide (2 ≤ u) && (if u % 2 = 0 then a + 1 == n else a == 0)

/-! ### Transfers (R372, R384) -/

/-- Bytes whose values the spec does not give: the control message's form, and what follows the last data byte of a chunk (R372). (DESIGN CHOICE, log entry 82). -/
def openPayload (id first n : Nat) : Bytes := (List.range n).map (fun i => Config.openByte id (first + i))

/-- The flits of one chunk: a control flit that opens it, then its bytes, 250 to a flit in order (R372). -/
def chunkFlits (dest tag id : Nat) (bs : Bytes) : List Bytes :=
  let head := fun (type index : Nat) => natBytes 8 (type * 2 ^ 60 + dest * 2 ^ 22 + tag * 2 ^ 10 + index)
  (head 2 0 ++ openPayload id 0 250) ::
    (pieces 250 bs).zipIdx.map (fun p => head 1 p.2 ++ p.1 ++ openPayload id 250 (250 - p.1.length))

/-- A chunk goes out under the next TAG on one of the links of its route; without one it goes nowhere (R372, R381). (DESIGN CHOICE, log entry 82). -/
def State.sendChunk (s : State) (links : List Nat) (dest : Nat) (bs : Bytes) : State :=
  let tag := s.lnk.nextTag
  match exitOf links tag with
  | none => s
  | some l =>
    let t := { s with freeCount := s.freeCount + 1, lnk := { s.lnk with nextTag := (tag + 1) % 4096 } }
    (chunkFlits dest tag s.freeCount bs).foldl (fun u f => u.sendFlit l (bit (s.wraps l)) f) t

/-- A transfer is cut into chunks of 1,024 flits, 256,000 bytes; a message alone is one control flit (R372). -/
def State.sendChunks (s : State) (links : List Nat) (dest : Nat) (bs : Bytes) : State :=
  (if bs.isEmpty then [[]] else pieces 256000 bs).foldl (fun t b => t.sendChunk links dest b) s

/-- A message or transfer to a peer, and the flits that carry it. -/
def State.sendPeer (s : State) (dest : Nat) (kind : String) (words : List Nat) (bs : Bytes) : State :=
  (s.send (.peer dest kind words bs)).sendChunks (s.exits dest) dest bs

/-- The links of the twin engine's traffic: those to the twin, else the detour by the pair at +x, else by the pair at −x (R410). -/
def State.twinExits (s : State) : List Nat :=
  if s.reaches s.twin.partnerPos then s.exits s.twin.partnerPos else if (s.linksOf 2).isEmpty then s.linksOf 3 else s.linksOf 2

/-- A message or transfer of the twin engine, and the flits that carry it to the partner. -/
def State.sendTwin (s : State) (kind : String) (words : List Nat) (bs : Bytes) : State :=
  (s.send (.twin kind words bs)).sendChunks s.twinExits s.twin.partnerPos bs

/-- DEVICE_STOP (R26): the module stops with class DEVICE, recorded in page `p`, and a paired member's twin engine sends
the stop notice (R409). -/
def State.deviceStopAt (s : State) (p detail : Nat) : State :=
  if s.deviceStop then s else
  let t := s.recordChip p .device detail
  let t := { t with deviceStop := true }
  if t.twin.state = .paired ∨ t.twin.state = .shared ∨ t.twin.state = .filling then t.sendTwin "STOP" [] [] else t

end Sys2Proof.Machine
end

