-- ==== Sys2Proof/Machine/Ops.lean ====
section
/-! DEFINITION. The named operations over the memories: tiers and placement, parity, poison, reading and writing bytes, and
the dirty bits of tracked ranges (chapter 08). -/

namespace Sys2Proof.Machine

/-! ### Tiers (R232 to R234, R238) -/

/-- The three tiers. -/
inductive Tier where
  | ivory | umber | slate
deriving DecidableEq, Repr

/-- First Umber address (R232). -/
def umberBase : Nat := 0x010000000000
/-- First Slate address (R232). -/
def slateBase : Nat := 0x100000000000
/-- Ivory slice size (R233). -/
def sliceSize : Nat := 0x10000000

/-- Data towers of the part (R2, R242). (DESIGN CHOICE, log entry 6). -/
def State.dataTowers (s : State) : Nat := match s.part with | .vgd1T => 16 | .vgd512 => 8

/-- Whether tower `t` is fitted (R2). -/
def State.towerFitted (s : State) (t : Nat) : Bool :=
  match s.part with | .vgd1T => decide (t < 18) | .vgd512 => decide (t < 8) || decide (t = 16) || decide (t = 17)

/-- Region `r`. -/
def State.region (s : State) (r : Nat) : Region := tabGet {} s.regions r

/-- Writes region `r`. -/
def State.putRegion (s : State) (r : Nat) (g : Region) : State := { s with regions := tabSet {} s.regions r g }

/-- Tower `t`. -/
def State.tower (s : State) (t : Nat) : Tower := tabGet {} s.tow.towers t

/-- Writes tower `t`. -/
def State.putTower (s : State) (t : Nat) (w : Tower) : State :=
  { s with tow := { s.tow with towers := tabSet {} s.tow.towers t w } }

/-- Ivory banks of a region in service (R241). -/
def Region.banksIn (g : Region) : Nat := 16 - g.bankFenced.length

/-- The mapped size of a slice in MiB, 128 to 256 (R241, R484). -/
def Region.sliceMiB (g : Region) : Nat := max 128 (16 * g.banksIn)

/-- The tier of a mapped byte; `none` where nothing is mapped (R3, R232 to R234, R241). -/
def State.tierOf (s : State) (a : Nat) : Option Tier :=
  if a < 8 * sliceSize then
    (if a % sliceSize < (s.region (a / sliceSize)).sliceMiB * 2 ^ 20 then some .ivory else none)
  else if umberBase ≤ a && decide (a < umberBase + s.dataTowers * 2 ^ 36) then some .umber
  else if slateBase ≤ a && decide (a < slateBase + s.per.sizeGib * 2 ^ 30) then some .slate
  else none

/-- Every byte of a range is mapped and lies in one tier (R238): true of an empty range. A slice may lack its top. -/
def State.mappedRange (s : State) (a len : Nat) : Bool :=
  if len = 0 then true else
  match s.tierOf a, s.tierOf (a + len - 1) with
  | some t, some u =>
    decide (t = u) &&
    (if t = .ivory then
      (List.range 8).all (fun r => !overlaps a len (r * sliceSize + (s.region r).sliceMiB * 2 ^ 20)
        (sliceSize - (s.region r).sliceMiB * 2 ^ 20))
     else true)
  | _, _ => false

/-! ### Umber placement (R242, R243) -/

/-- The granule in bytes of a GRANULE code (R243). -/
def granuleBytes (code : Nat) : Nat := 2 ^ (11 + code)

/-- The logical data tower and tower offset of Umber offset `o` (R242). -/
def State.placeOf (s : State) (o : Nat) : Nat × Nat :=
  let d := s.dataTowers
  let k := o / 2 ^ 30
  let g := granuleBytes (tabGet 1 s.mem.granule k)
  (o / g % d, k * (2 ^ 30 / d) + o % 2 ^ 30 / (g * d) * g + o % g)

/-- The Umber offset of tower offset `x` in logical tower `n` (R242, the inverse). -/
def State.offsetOf (s : State) (n x : Nat) : Nat :=
  let d := s.dataTowers
  let k := x / (2 ^ 30 / d)
  let r := x % (2 ^ 30 / d)
  let g := granuleBytes (tabGet 1 s.mem.granule k)
  k * 2 ^ 30 + r / g * g * d + n * g + r % g

/-- The key of a tower's cell. (DESIGN CHOICE, log entry 74). -/
def towerKey (t x : Nat) : Nat := 2 ^ 48 + t * 2 ^ 36 + x

/-- The state that decides where positions lie: while a resync runs, the one it returns to (R248). -/
def TowerComplex.layout (w : TowerComplex) : TowerState := if w.sts = .unsynced then w.unsyncBack else w.sts

/-- The cursor of the rebuild, paused or running (R248, R256). -/
def TowerComplex.rebuildCursor (w : TowerComplex) : Nat := if w.sts = .unsynced then w.pausedCursor else w.cursor

/-- The rebuild or recomputation runs, or a resync has paused it. -/
def TowerComplex.recomputing (w : TowerComplex) : Bool := if w.sts = .unsynced then w.pausedRunning else w.running

/-- Stripes of a tower (R245). -/
def stripeCount : Nat := 16777216

/-- The physical tower that holds position `p` (16 names parity) in stripe `i` for a read; `none` when the position is
missing there and is served by reconstruction (R242, R254 to R258). -/
def TowerComplex.readAt (w : TowerComplex) (p i : Nat) : Option Nat :=
  match w.layout with
  | .full | .unsynced => some p
  | .rebuilding => if p = w.lostA then (if i < w.rebuildCursor then some 17 else none) else some p
  | .parity => if p = w.spareFor then some 17 else some p
  | .degraded => if p = w.lostA then none else if p = w.spareFor then some 17 else some p
  | .lost => if p = w.lostB then none else if p = w.lostA ∨ p = w.spareFor then some 17 else some p

/-- The physical tower that a write to position `p` in stripe `i` reaches (R256: a write to A above the cursor goes to T17). -/
def TowerComplex.writeAt (w : TowerComplex) (p i : Nat) : Option Nat :=
  match w.layout with
  | .rebuilding => if p = w.lostA then some 17 else some p
  | _ => w.readAt p i

/-- The buffered delta of one parity byte (R246). -/
def Mem.deltaAt (m : Mem) (x : Nat) : Byte :=
  match m.parity.find? (fun l => l.stripe == x / 4096) with
  | some l => tabGet 0 l.delta (x % 4096)
  | none => 0

/-- A byte of a physical tower. (DESIGN CHOICE, log entry 4). -/
def Mem.cell (m : Mem) (key : Nat) : Byte := tabGet 0 m.cells key

/-- Changes a cell. -/
def Mem.setCell (m : Mem) (key : Nat) (v : Byte) : Mem := { m with cells := tabSet 0 m.cells key v }

/-- The parity byte at tower offset `x`, buffered delta included (R246). -/
def State.parityByte (s : State) (x : Nat) : Byte :=
  match s.tow.readAt 16 (x / 4096) with
  | some t => s.mem.cell (towerKey t x) ^^^ s.mem.deltaAt x
  | none => 0

/-- The byte of position `n` rebuilt from the other data towers and parity (R249, R256). -/
def State.reconstruct (s : State) (n x : Nat) : Byte :=
  (List.range s.dataTowers).foldl (fun acc m =>
    if m = n then acc else
    match s.tow.readAt m (x / 4096) with
    | some t => acc ^^^ s.mem.cell (towerKey t x)
    | none => acc) (s.parityByte x)

/-- The byte of logical position `n` at tower offset `x`. -/
def State.positionByte (s : State) (n x : Nat) : Byte :=
  match s.tow.readAt n (x / 4096) with
  | some t => s.mem.cell (towerKey t x)
  | none => s.reconstruct n x

/-! ### Parity (R246) -/

/-- T16, or T17 in its place, takes a delta; without a parity position nothing is kept. -/
def State.parityXor (s : State) (x : Nat) (d : Byte) : State :=
  match s.tow.writeAt 16 (x / 4096) with
  | some t => { s with mem := s.mem.setCell (towerKey t x) (s.mem.cell (towerKey t x) ^^^ d) }
  | none => s

/-- PARITY_LINE_EVICT (R246): one line's delta is XORed into T16. -/
def State.evictLine (s : State) (l : ParityLine) : State :=
  (l.delta.foldl (fun t e => t.parityXor (l.stripe * 4096 + e.1) e.2) s).count pgComplex 0x2003 1

/-- Every line is flushed (R246). -/
def State.flushParity (s : State) : State :=
  { (s.mem.parity.foldl (fun t l => t.evictLine l) s) with
    mem := { (s.mem.parity.foldl (fun t l => t.evictLine l) s).mem with parity := [] } }

/-- The oldest line leaves when the buffer holds 4,096 (R246). -/
def State.evictOldest (s : State) : State :=
  match s.mem.parity with
  | [] => s
  | l :: rest => if 4096 ≤ s.mem.parity.length then { s with mem := { s.mem with parity := rest } }.evictLine l else s

/-- A line with one more delta byte. -/
def ParityLine.touch (l : ParityLine) (x : Nat) (d : Byte) : ParityLine :=
  { l with mask := setBit l.mask (x % 4096 / 64) true, delta := tabSet 0 l.delta (x % 4096) (tabGet 0 l.delta (x % 4096) ^^^ d) }

/-- PARITY_DELTA (R246): a data write's delta enters the buffer, except above the cursor of a rebuild that runs or that a resync has
paused, where it goes to T16 at once (R248). -/
def State.parityDelta (s : State) (x : Nat) (d : Byte) : State :=
  if s.tow.layout = .rebuilding ∧ s.tow.rebuildCursor ≤ x / 4096 then s.parityXor x d
  else if s.mem.parity.any (fun l => l.stripe == x / 4096) then
    { s with mem := { s.mem with parity := s.mem.parity.map (fun l => if l.stripe = x / 4096 then l.touch x d else l) } }
  else
    let t := s.evictOldest
    let l : ParityLine := { stripe := x / 4096, mask := 0, delta := [] }
    { t with mem := { t.mem with parity := t.mem.parity ++ [l.touch x d] } }

/-- One byte of a data position is written with its parity delta (R246, R256). -/
def State.pokePosition (s : State) (n x : Nat) (v : Byte) : State :=
  let old := s.positionByte n x
  let t := match s.tow.writeAt n (x / 4096) with
    | some p => { s with mem := s.mem.setCell (towerKey p x) v }
    | none => s
  t.parityDelta x (old ^^^ v)

/-! ### Poison (R240, R250, R251, R258) -/

/-- The key of a block in the poison list. -/
def blockKey (n i : Nat) : Nat := n * 2 ^ 24 + i

/-- The byte at tower offset `x` of position `n` lies in the lost range and its half was not written since (R258). -/
def State.inLost (s : State) (n x : Nat) : Bool :=
  s.tow.lostValid && decide (s.tow.layout = .lost) &&
  ((decide (n = s.tow.lostB) && decide (s.tow.lostFrom ≤ x / 4096)) ||
   (decide (n = s.tow.lostA) && decide (s.tow.lostAFrom ≤ x / 4096))) &&
  !tabGet false s.mem.lostCleared (blockKey n (x / 4096) * 2 + x % 4096 / 2048)

/-- The granule that holds Umber position `n`, offset `x` is poisoned. -/
def State.umberPoisoned (s : State) (n x : Nat) : Bool :=
  s.inLost n x || hasBit (tabGet 0 s.mem.umberPoison (blockKey n (x / 4096))) (x % 4096 / 64)

/-- Memory replaced. -/
def State.withMem (s : State) (m : Mem) : State := { s with mem := m }

/-- Granule `g` of Ivory (its address ÷ 64) is poisoned. -/
def Mem.ivoryPoisoned (m : Mem) (g : Nat) : Bool :=
  tabGet false m.slicePoison (g / (sliceSize / 64)) != tabGet false m.ivoryPoison g

/-- Granule `g` of Ivory is marked poisoned or clean. -/
def Mem.markIvory (m : Mem) (g : Nat) (on : Bool) : Mem :=
  { m with ivoryPoison := tabSet false m.ivoryPoison g (on != tabGet false m.slicePoison (g / (sliceSize / 64))) }

/-- Every granule of slice `r` is marked poisoned or clean. -/
def Mem.markSlice (m : Mem) (r : Nat) (on : Bool) : Mem :=
  { m with slicePoison := tabSet false m.slicePoison r on,
           ivoryPoison := m.ivoryPoison.filter (fun e => e.1 / (sliceSize / 64) != r) }

/-- Granule `j` of the block with key `k` enters or leaves the poison list. -/
def Mem.markUmber (m : Mem) (k j : Nat) (on : Bool) : Mem :=
  { m with umberPoison := tabSet 0 m.umberPoison k (setBit (tabGet 0 m.umberPoison k) j on) }

/-- The 64-byte granule at device address `a` is poisoned. Slate holds no poison of the module's own. -/
def State.poisonedAt (s : State) (a : Nat) : Bool :=
  match s.tierOf a with
  | some .ivory => s.mem.ivoryPoisoned (a / 64)
  | some .umber => (let p := s.placeOf (a - umberBase); s.umberPoisoned p.1 p.2)
  | _ => false

/-- Poison list entries in use (R251). -/
def Mem.poisonCount (m : Mem) : Nat := m.umberPoison.length

/-- A data granule enters the poison list (R250, R251); a 65,537th entry raises DEVICE. -/
def State.listPoison (s : State) (n x : Nat) : State :=
  let k := blockKey n (x / 4096)
  if tabGet 0 s.mem.umberPoison k = 0 ∧ 65536 ≤ s.mem.poisonCount then s.deviceStopAt pgComplex 0
  else s.withMem (s.mem.markUmber k (x % 4096 / 64) true)

/-- The 64 offsets of the granule that holds offset `x`. -/
def granuleOffsets (x : Nat) : List Nat := (List.range 64).map (fun j => x / 64 * 64 + j)

/-- GRANULE_POISON (R250): zeros are written, parity follows with the granule as zero, and its block enters the list. -/
def State.poisonUmber (s : State) (n x : Nat) : State :=
  ((granuleOffsets x).foldl (fun t y => t.pokePosition n y 0) s).listPoison n x

/-- The granule at `a` is poisoned (R240, R250). -/
def State.poisonGranule (s : State) (a : Nat) : State :=
  match s.tierOf a with
  | some .ivory => s.withMem (s.mem.markIvory (a / 64) true)
  | some .umber => (let p := s.placeOf (a - umberBase); s.poisonUmber p.1 p.2)
  | _ => s

/-- Every granule of a slice is poisoned (R28, R241, R458). -/
def State.poisonSlice (s : State) (r : Nat) : State := s.withMem (s.mem.markSlice r true)

/-- A write of the whole granule at `a` clears its poison (R240, R250). -/
def State.clearPoison (s : State) (a : Nat) : State :=
  match s.tierOf a with
  | some .ivory => s.withMem (s.mem.markIvory (a / 64) false)
  | some .umber =>
    (let p := s.placeOf (a - umberBase)
     s.withMem (s.mem.markUmber (blockKey p.1 (p.2 / 4096)) (p.2 % 4096 / 64) false))
  | _ => s

/-! ### Recomputation of parity (R248, R258) -/

/-- The XOR of the data positions at tower offset `x`, missing positions counted as zero. -/
def State.dataXor (s : State) (x : Nat) : Byte :=
  (List.range s.dataTowers).foldl (fun acc m =>
    if s.inLost m x then acc else
    match s.tow.readAt m (x / 4096) with
    | some t => acc ^^^ s.mem.cell (towerKey t x)
    | none => acc) 0

/-- The parity block of stripe `i` is recomputed from the data towers; a buffered delta of it is spent. -/
def State.recomputeParity (s : State) (i : Nat) : State :=
  let t := (List.range 4096).foldl (fun t j =>
    match t.tow.writeAt 16 i with
    | some p => { t with mem := t.mem.setCell (towerKey p (i * 4096 + j)) (t.dataXor (i * 4096 + j)) }
    | none => t) s
  { t with mem := { t.mem with parity := t.mem.parity.filter (fun l => l.stripe != i) } }

/-- A half of the lost range in stripe `i` has been written again: the stripe was recomputed before that write, and T17 and the parity
carry what it stored (R258). -/
def State.halfRestored (s : State) (i : Nat) : Bool :=
  [s.tow.lostA, s.tow.lostB].any (fun n => [0, 1].any (fun h => tabGet false s.mem.lostCleared (blockKey n i * 2 + h)))

/-- A stripe of the lost range is recomputed: T17's block zeroed, parity over the live towers, with A and B as zero (R258 step 4). -/
def State.recomputeLost (s : State) (i : Nat) : State :=
  if s.halfRestored i then s else
  let t := if s.tow.lostA = 0x1F ∨ i < s.tow.lostAFrom then s else
    (List.range 4096).foldl (fun t j => { t with mem := t.mem.setCell (towerKey 17 (i * 4096 + j)) 0 }) s
  t.recomputeParity i

/-! ### Undefined bytes (log entry 7) -/

/-- The free-value number of an open byte at `a`, if its content is undefined. (DESIGN CHOICE, log entry 7). -/
def Mem.openAt (m : Mem) (a : Nat) : Option Nat :=
  (m.openBytes.find? (fun o => decide (o.first ≤ a) && decide (a < o.first + o.count))).map (·.id)

/-- An open range without the bytes from `a` on, `len` of them. -/
def OpenRange.cut (a len : Nat) (o : OpenRange) : List OpenRange :=
  if !overlaps a len o.first o.count then [o] else
  (if o.first < a then [{ o with count := a - o.first }] else []) ++
  (if a + len < o.first + o.count then [{ o with first := a + len, count := o.first + o.count - (a + len) }] else [])

/-- Bytes that are written are open no longer. -/
def Mem.closeBytes (m : Mem) (a len : Nat) : Mem :=
  if m.openBytes.isEmpty then m else { m with openBytes := m.openBytes.flatMap (OpenRange.cut a len) }

/-- One more open range. -/
def Mem.addOpen (m : Mem) (o : OpenRange) : Mem := { m with openBytes := m.openBytes ++ [o] }

/-- The bytes of a range become undefined: a fresh free value each (R239, R319 and others). (DESIGN CHOICE, log entry 7). -/
def State.openRange (s : State) (a len : Nat) : State :=
  if len = 0 then s else
  { s with freeCount := s.freeCount + 1,
           mem := (s.mem.closeBytes a len).addOpen ⟨a, len, s.freeCount⟩ }

/-- The range `a`, `len` without the given ranges. -/
def minusRanges (a len : Nat) : List (Nat × Nat) → List (Nat × Nat)
  | [] => if len = 0 then [] else [(a, len)]
  | (b, l) :: rest =>
    (minusRanges a len rest).flatMap (fun r => (OpenRange.cut b l ⟨r.1, r.2, 0⟩).map (fun o => (o.first, o.count)))

/-! ### Reading and writing (R236 to R240, R249, R250) -/

/-- The stored byte at a mapped address. -/
def State.rawByte (s : State) (a : Nat) : Byte :=
  match s.mem.openAt a with
  | some id => Config.openByte id a
  | none =>
    if umberBase ≤ a ∧ a < slateBase then (let p := s.placeOf (a - umberBase); s.positionByte p.1 p.2)
    else s.mem.cell a

/-- The bytes of a range, whatever their state. -/
def State.rawBytes (s : State) (a len : Nat) : Bytes := (List.range len).map (fun i => s.rawByte (a + i))

/-- One byte is stored at a mapped address, in its tower or tier, with its parity. -/
def State.pokeByte (s : State) (a : Nat) (v : Byte) : State :=
  if umberBase ≤ a ∧ a < slateBase then (let p := s.placeOf (a - umberBase); s.pokePosition p.1 p.2 v)
  else { s with mem := s.mem.setCell a v }

/-- Bytes are stored one after another. -/
def State.pokeBytes (s : State) (a : Nat) : Bytes → State
  | [] => s
  | b :: bs => State.pokeBytes (s.pokeByte a b) (a + 1) bs

/-- The granule addresses that a range touches. -/
def granulesOf (a len : Nat) : List Nat :=
  if len = 0 then [] else (List.range ((a + len - 1) / 64 - a / 64 + 1)).map (fun i => (a / 64 + i) * 64)

/-- A granule lies wholly inside a range. -/
def coversGranule (a len g : Nat) : Bool := decide (a ≤ g) && decide (g + 64 ≤ a + len)

/-- The aligned half of 2 KiB at tower offset `x` lies wholly inside a write (R258). -/
def coversHalf (s : State) (a len g : Nat) : Bool :=
  let p := s.placeOf (g - umberBase)
  let h := p.2 / 2048 * 2048
  let lo := umberBase + s.offsetOf p.1 h
  decide (a ≤ lo) && decide (lo + 2048 ≤ a + len)

/-- The first poisoned granule that stops a request: a write passes those it covers whole (R240, R250, R258). -/
def State.poisonMet (s : State) (a len : Nat) (write : Bool) : Option Nat :=
  (granulesOf a len).find? (fun g => s.poisonedAt g && !(write &&
      (if s.tierOf g = some .umber ∧ (let p := s.placeOf (g - umberBase); s.inLost p.1 p.2) then coversHalf s a len g
       else coversGranule a len g)))

/-- Why a request of the module fails before it does anything, with the address that its error record gives (R238 to R240,
R250, R260). -/
def State.refusal (s : State) (a len : Nat) (write : Bool) : Option Status :=
  if !s.mappedRange a len then some (.met .unmapped a)
  else if s.tierOf a = some .slate ∧ s.per.linkUp = false then some (.met .tier a)
  else (s.poisonMet a len write).map (.met .poisoned ·)

/-- Reads `len` bytes: UNMAPPED, TIER_ERROR or POISONED as the range has it (R239, R240, R250, R260). -/
def State.readBytes (s : State) (a len : Nat) : Except Status Bytes :=
  match s.refusal a len false with
  | some st => .error st
  | none => .ok (s.rawBytes a len)

/-- TRACK_DIRTY_SET (R263): a write that reaches the upper range of an open tracked range sets its blocks' bits. -/
def State.dirtyTracks (s : State) (a len : Nat) : State :=
  s.tracks.foldl (fun t e =>
    if e.2.isOpen && overlaps a len e.2.upper e.2.length then
      (let lo := max a e.2.upper - e.2.upper
       let hi := min (a + len) (e.2.upper + e.2.length) - 1 - e.2.upper
       (List.range (hi / 4096 - lo / 4096 + 1)).foldl (fun u i =>
         let b := lo / 4096 + i
         let key := e.2.bitmap + b / 8
         { u with mem := u.mem.setCell key (u.mem.cell key ||| BitVec.ofNat 8 (2 ^ (b % 8))) }) t)
    else t) s

/-- Poison leaves each granule, or each half of the lost range, that a write covers (R240, R250, R258). -/
def State.clearCovered (s : State) (a len : Nat) : State :=
  (granulesOf a len).foldl (fun t g =>
    if t.tierOf g = some .umber ∧ (let p := t.placeOf (g - umberBase); t.inLost p.1 p.2) then
      (let p := t.placeOf (g - umberBase)
       if coversHalf t a len g then
         ({ t with mem := { t.mem with lostCleared := tabSet false t.mem.lostCleared (blockKey p.1 (p.2 / 4096) * 2 + p.2 % 4096 / 2048) true } } : State).clearPoison g
       else t)
    else if t.poisonedAt g && coversGranule a len g then t.clearPoison g else t) s

/-- Stripes of the lost range that a write reaches before their turn are recomputed first (R258 step 4). -/
def State.recomputeFirst (s : State) (a len : Nat) : State :=
  if s.tow.layout = .lost ∧ s.tow.lostValid ∧ umberBase ≤ a ∧ a < slateBase then
    (granulesOf a len).foldl (fun t g =>
      let i := (t.placeOf (g - umberBase)).2 / 4096
      if t.tow.recomputing ∧ t.tow.rebuildCursor ≤ i then t.recomputeLost i else t) s
  else s

/-! ### Snapshots and fills under a write (R413, R416) -/

/-- The 1 MiB block that begins at MiB `b`, and whether a granule of it is poisoned. -/
def State.blockAt (s : State) (b : Nat) : Bytes × List Nat :=
  (s.rawBytes (b * 1048576) 1048576, (granulesOf (b * 1048576) 1048576).filter s.poisonedAt)

/-- The numbers in MiB of the blocks a range touches. -/
def mibsOf (a len : Nat) : List Nat := if len = 0 then [] else (List.range ((a + len - 1) / 1048576 - a / 1048576 + 1)).map (a / 1048576 + ·)

/-- A block lies in a replicated range (R408). -/
def Twin.replicates (w : Twin) (b : Nat) : Bool := w.rep.any (fun e => e.2.valid && decide (e.2.first ≤ b) && decide (b ≤ e.2.last))

/-- A marked block is read before it is written, and moves to the head of the stream (R416). -/
def State.readFirst (s : State) (b : Nat) : State :=
  let w := s.twin.wp
  match w.blocks.find? (fun x => x.mib == b) with
  | none => s
  | some x =>
    if w.saved.any (fun y => y.mib == b) then s else
    let c := s.blockAt b
    let y : WpSaved := { mib := b, bytes := c.1, poisoned := !c.2.isEmpty }
    let v : WpRun := { w with blocks := x :: w.blocks.filter (fun y => y.mib != b), saved := w.saved ++ [y] }
    { s with twin := { s.twin with wp := v } }

/-- A block of a fill is sent to the spare (R413). -/
def State.sendFill (s : State) (b : Nat) : State :=
  let c := s.blockAt b
  let t := (s.sendTwin "FILL_BLOCK" (b * 1048576 :: c.2) c.1).count pgTwin 0x1504 1
  { t with twin := { t.twin with fillLeft := t.twin.fillLeft.filter (· != b), unacked := t.twin.unacked ++ [.fill] } }

/-- What a write waits for: the blocks of a snapshot or a fill that it touches are read first. -/
def State.beforeWrite (s : State) (a len : Nat) : State :=
  let t := if s.twin.wp.running then (mibsOf a len).foldl State.readFirst s else s
  if t.twin.state = .filling then (mibsOf a len).foldl (fun u b => if u.twin.fillLeft.contains b then u.sendFill b else u) t else t

/-- A write to a replicated block is forwarded to the spare (R413). -/
def State.forwardWrite (s : State) (a : Nat) (bs : Bytes) : State :=
  if s.twin.state ≠ .filling then s else
  (mibsOf a bs.length).foldl (fun t b =>
    if t.twin.replicates b then
      (let lo := max a (b * 1048576)
       let hi := min (a + bs.length) ((b + 1) * 1048576)
       let u := t.sendTwin "FILL_WRITE" [lo] (sliceOf bs (lo - a) (hi - lo))
       { u with twin := { u.twin with unacked := u.twin.unacked ++ [.fill] } })
    else t) s

/-- The write itself, once nothing refuses it. -/
def State.storeBytes (s : State) (a : Nat) (bs : Bytes) : State :=
  let t := ((s.beforeWrite a bs.length).recomputeFirst a bs.length).clearCovered a bs.length
  let t := t.dirtyTracks a bs.length
  let t := t.pokeBytes a bs
  { t with mem := t.mem.closeBytes a bs.length }.forwardWrite a bs

/-- A write whose bytes the spec does not give: everything that a write does, and the bytes open. -/
def State.storeOpen (s : State) (a len : Nat) : State :=
  let t := ((s.beforeWrite a len).recomputeFirst a len).clearCovered a len
  (t.dirtyTracks a len).openRange a len

/-- Writes bytes: UNMAPPED, TIER_ERROR, or POISONED for a write to part of a poisoned granule, which writes nothing. -/
def State.writeBytes (s : State) (a : Nat) (bs : Bytes) : Except Status State :=
  match s.refusal a bs.length true with
  | some st => .error st
  | none => .ok (s.storeBytes a bs)

end Sys2Proof.Machine
end

