-- ==== Sys2Proof/Machine/Faults.lean ====
section
/-! DEFINITION. Fences and the fall of regions (R18, R19, R25 to R28, R91, R241): REGION_FAIL,
IVORY_BANK_FAIL, IVORY_RING_FAULT, TOWER_FABRIC_FAULT. -/

namespace Sys2Proof.Machine

/-! ### What a region has left (R18, R25) -/

/-- Array `x` of a region. -/
def Region.array (g : Region) (x : Nat) : ArrayUnit := tabGet {} g.arrays x
/-- Array `x` replaced. -/
def Region.putArray (g : Region) (x : Nat) (u : ArrayUnit) : Region := { g with arrays := tabSet {} g.arrays x u }
/-- Vector engine `v`. -/
def Region.vector (g : Region) (v : Nat) : VectorUnit := tabGet {} g.vectors v
/-- Vector engine `v` replaced. -/
def Region.putVector (g : Region) (v : Nat) (u : VectorUnit) : Region := { g with vectors := tabSet {} g.vectors v u }
/-- Expander pair `p`. -/
def Region.expander (g : Region) (p : Nat) : ExpanderPair := tabGet {} g.expanders p
/-- Expander pair `p` replaced. -/
def Region.putExpander (g : Region) (p : Nat) (u : ExpanderPair) : Region := { g with expanders := tabSet {} g.expanders p u }

/-- The slice is at or above its minimum of 8 banks. -/
def Region.sliceOk (g : Region) : Bool := !g.sliceFailed && decide (g.bankFenced.length ≤ 8)

/-- At least one block of every kind is in service, and the sequencer and arbiter work (R25). -/
def Region.complete (g : Region) : Bool :=
  (List.range 4).any (fun x => !(g.array x).fenced) && (List.range 2).any (fun v => !(g.vector v).fenced) &&
  (List.range 2).any (fun p => !(g.expander p).fenced) && !g.reductionFenced && !g.walkerFenced && !g.sequencerFailed &&
  !g.arbiterFailed && g.sliceOk

/-- Every block is at or above its minimum (R458). -/
def Region.sound (g : Region) : Bool :=
  (List.range 4).all (fun x => !(g.array x).fenced) && (List.range 2).all (fun v => !(g.vector v).fenced) &&
  (List.range 2).all (fun p => !(g.expander p).fenced) && !g.reductionFenced && !g.walkerFenced && !g.sequencerFailed &&
  !g.arbiterFailed && g.sliceOk

/-- Work in a region's blocks is dropped: uncommitted tiles, chunks and key blocks start again elsewhere (R28, R94). -/
def Region.dropWork (g : Region) : Region :=
  { g with arrays := g.arrays.map (fun u => (u.1, { u.2 with run := none, suspect := none, active := false, ramping := false })),
           vectors := g.vectors.map (fun u => (u.1, { u.2 with users := [] })), walk := none, waiting := [] }

/-- Compute regions in service. -/
def State.regionsIn (s : State) : List Nat := (List.range 8).filter (fun r => (s.region r).state == .inService)

/-! ### Commands that lose their region -/

/-- Byte ranges become poisoned, granule by granule. -/
def State.poisonRanges (s : State) (rs : List (Nat × Nat)) : State :=
  rs.foldl (fun t r => (granulesOf r.1 r.2).foldl (fun u a => u.poisonGranule a) t) s

/-- The IN_PLACE runs of a region that are mid-pass (R96). -/
def Region.midPass (g : Region) : List ArrayRun := (g.arrays.filterMap (·.2.run)).filter (·.inPlace)

/-- An IN_PLACE command that cannot resume ends POISONED with its output range poisoned (R28 item 3, R460). -/
def State.endInPlace (s : State) (rs : List ArrayRun) : State :=
  rs.foldl (fun t r =>
    let t := t.poisonRanges r.outs
    { t with cmds := t.cmds.map (fun c => if c.q = r.q ∧ c.n = r.n ∧ c.phase = .started then { c with phase := .ended, status := .poisoned } else c) }) s

/-- No command and no thread has work in region `r` any more: commands resume elsewhere, threads keep their state (R24, R28,
R328; log entry 26). -/
def State.leaveRegion (s : State) (r : Nat) : State :=
  { s with cmds := s.cmds.map (fun c => if c.regions.contains r then { c with regions := c.regions.filter (· != r), resumed := c.resumed || decide (c.phase = Phase.started) } else c),
           threads := s.threads.map (fun t => if t.region = r then { t with saved := true } else t) }

/-- Region `r`'s work moves to the other regions (R28 items 2 and 3). -/
def State.moveWork (s : State) (r : Nat) : State :=
  let t := s.endInPlace (s.region r).midPass
  (t.putRegion r (t.region r).dropWork).leaveRegion r

/-! ### A region fails (R28, R458, "When two errors arrive together") -/

/-- An error of class REGION that arose in page `p` of region `r`: recorded in `p`, raised to the chip. -/
def State.recordRegion (s : State) (r p : Nat) : State := if p = pgRegion r then s.recordUp p .region 0 else s.recordChip p .region 0

/-- A region that works or is coming goes FAULTED: its work moves, its slice is poisoned, the error is raised to the chip; fewer
than four regions left in service stop the module (R26). -/
def State.regionDown (s : State) (r p : Nat) : State :=
  let t := s.moveWork r
  let t := (t.putRegion r { t.region r with state := .faulted, aborting := false }).poisonSlice r
  if t.regionsIn.length < 4 then t.deviceStopAt p 0 else t.recordRegion r p

/-- What an error of class REGION does, by the region's state (R27, R458): a region that is DRAINED, OFF, TESTING or FAULTED keeps it in its
own pages. -/
def State.regionFault (s : State) (r p : Nat) : State :=
  match (s.region r).state with
  | .inService | .draining => s.regionDown r p
  | .admitting => s.regionDown r (pgRegion r)
  | .drained =>
    ((s.putRegion r { s.region r with state := .faulted }).poisonSlice r).recordRegion r (pgRegion r)
  | _ => if p = pgRegion r then s.record p .region 0 else s.recordUp p .region 0

/-- Blocks of region `r` changed to `g` after a fault in page `p`: the region settles it with class `c`, or falls. -/
def State.settleAs (s : State) (c : ErrClass) (r p : Nat) (g : Region) : State :=
  let t := s.putRegion r g
  if !g.complete ∨ (g.state = .drained ∧ !g.sound) then t.regionFault r p else t.recordUp p c 0

/-- A fault that fenced a whole block of region `r`, which is now `g`. -/
def State.settleBlock (s : State) (r p : Nat) (g : Region) : State := s.settleAs .corrected r p g

/-! ### Cells (R18, R25, R91, R241) -/

/-- An array fenced whole: its tile is discarded. -/
def ArrayUnit.fence (u : ArrayUnit) : ArrayUnit := { u with fenced := true, run := none, suspect := none, active := false, ramping := false }
/-- A vector engine fenced whole. -/
def VectorUnit.fence (u : VectorUnit) : VectorUnit := { u with fenced := true, users := [] }
/-- An expander pair fenced whole. -/
def ExpanderPair.fence (u : ExpanderPair) : ExpanderPair := { u with fenced := true }

/-- An attempt at a tile starts again from pass 0 at the same scale (R91). -/
def ArrayRun.again (u : ArrayRun) : ArrayRun := { u with pass := 0, cols := 0, accs := u.accs.map (fun _ => {}) }

/-- A cell column of an array is fenced; a second one takes the array below its minimum (R91). -/
def State.fenceColumn (s : State) (r x col : Nat) : State :=
  let g := s.region r
  let u := g.array x
  if u.fenced ∨ tabGet false u.colFenced col = true then s else
  let u' := { u with colFenced := tabSet false u.colFenced col true, suspect := none, run := u.run.map ArrayRun.again }
  if u'.colFenced.length < 2 then (s.putRegion r (g.putArray x u')).record (pgArray r x) .corrected 0
  else s.settleBlock r (pgArray r x) (g.putArray x u'.fence)

/-- A lane group is fenced; fewer than 4 of 8 left fence the engine. -/
def State.fenceLanes (s : State) (r v k : Nat) : State :=
  let g := s.region r
  let u := g.vector v
  if u.fenced ∨ tabGet false u.groupFenced k = true then s else
  let u' := { u with groupFenced := tabSet false u.groupFenced k true }
  if u'.groupFenced.length ≤ 4 then (s.putRegion r (g.putVector v u')).record (pgVector r v) .corrected 0
  else s.settleBlock r (pgVector r v) (g.putVector v u'.fence)

/-- An expander is fenced; the second fences the pair. -/
def State.fenceExpander (s : State) (r p k : Nat) : State :=
  let g := s.region r
  let u := g.expander p
  if u.fenced ∨ tabGet false u.outFenced k = true then s else
  let u' := { u with outFenced := tabSet false u.outFenced k true }
  if u'.outFenced.length < 2 then (s.putRegion r (g.putExpander p u')).record (pgExpander r p) .corrected 0
  else s.settleBlock r (pgExpander r p) (g.putExpander p u'.fence)

/-- A bank is fenced: the slice loses 16 MiB from its top and every granule of it is poisoned (R241). The region settles it as
CONTAINED (R25); a ninth bank takes the region out of service. -/
def State.fenceBank (s : State) (r b : Nat) : State :=
  let g := s.region r
  if tabGet false g.bankFenced b then s else
  (s.poisonSlice r).settleAs .contained r (pgSlice r) { g with bankFenced := tabSet false g.bankFenced b true }

/-- A bank group of a tower is fenced; its tower settles it. -/
def State.fenceBankGroup (s : State) (t k : Nat) : State :=
  let w := s.tower t
  if tabGet false w.bankFenced k then s else
  (s.putTower t { w with bankFenced := tabSet false w.bankFenced k true }).record (pgTower t) .corrected 0

/-- A lane of a link has failed (R375): its link's page records it. -/
def State.markLane (s : State) (l k : Nat) : State :=
  let x := tabGet {} s.lnk.links l
  if tabGet false x.failedLanes k then s else
  ({ s with lnk := { s.lnk with links := tabSet {} s.lnk.links l { x with failedLanes := tabSet false x.failedLanes k true } } }).record (pgLink l) .corrected 0

/-- A cell is fenced. -/
def State.fenceCell (s : State) : Cell → State
  | .arrayColumn r x c => s.fenceColumn r x c
  | .laneGroup r v k => s.fenceLanes r v k
  | .expander r p k => s.fenceExpander r p k
  | .ivoryBank r b => s.fenceBank r b
  | .bankGroup t k => s.fenceBankGroup t k
  | .linkLane l k => s.markLane l k

/-! ### Blocks (R18, R25, R26) -/

/-- A copy engine of one direction: 0 to 7 toward the companion, 8 to 15 toward the module (R484). -/
def engineDir (e : Nat) : Nat := e / 8

/-- Engines of a direction that are not fenced. -/
def State.enginesLeft (s : State) (d : Nat) : Nat :=
  ((List.range 8).filter (fun i => (tabGet {} s.copy (8 * d + i)).state != .fencedOut)).length

/-- A copy engine is fenced; the last one of a direction stops the module (R25, R26). -/
def State.fenceEngine (s : State) (e : Nat) : State :=
  if (tabGet {} s.copy e).state = .fencedOut then s else
  let t := { s with copy := tabSet {} s.copy e { state := .fencedOut, piece := none } }
  if t.enginesLeft (engineDir e) = 0 then t.deviceStopAt (pgCopy e) 0 else t.recordUp (pgCopy e) .corrected 0

/-- No command has work on the unit of tower `t` any more. -/
def State.leaveTower (s : State) (t : Nat) : State :=
  { s with cmds := s.cmds.map (fun c => { c with towers := c.towers.filter (· != t) }) }

/-- A tower unit whose arithmetic failed is fenced and its work goes to the logic die (R293). -/
def State.fenceTowerUnit (s : State) (t : Nat) : State :=
  let w := s.tower t
  if w.unitFenced then s else
  ((s.putTower t { w with unitFenced := true, cmds := [] }).leaveTower t).recordUp (pgTower t) .corrected 0

/-- A block is fenced or fails; towers are settled by their complex (Towers.lean). -/
def State.fenceBlock (s : State) : Block → State
  | .array r x =>
    if ((s.region r).array x).fenced then s else
    s.settleBlock r (pgArray r x) ((s.region r).putArray x ((s.region r).array x).fence)
  | .vector r v =>
    if ((s.region r).vector v).fenced then s else
    s.settleBlock r (pgVector r v) ((s.region r).putVector v ((s.region r).vector v).fence)
  | .reduction r => if (s.region r).reductionFenced then s else s.settleBlock r (pgReduction r) { s.region r with reductionFenced := true }
  | .walker r => if (s.region r).walkerFenced then s else s.settleBlock r (pgWalker r) { s.region r with walkerFenced := true, walk := none }
  | .expanderPair r p =>
    if ((s.region r).expander p).fenced then s else
    s.settleBlock r (pgExpander r p) ((s.region r).putExpander p ((s.region r).expander p).fence)
  | .sequencer r => if (s.region r).sequencerFailed then s else s.settleBlock r (pgRegion r) { s.region r with sequencerFailed := true }
  | .arbiter r => if (s.region r).arbiterFailed then s else s.settleBlock r (pgRegion r) { s.region r with arbiterFailed := true }
  | .slice r => if (s.region r).sliceFailed then s else s.settleBlock r (pgSlice r) { s.region r with sliceFailed := true }
  | .towerUnit t => s.fenceTowerUnit t
  | .copyEngine e => s.fenceEngine e
  | .checkUnit u =>
    if tabGet false s.checkFenced u then s
    else ({ s with checkFenced := tabSet false s.checkFenced u true }).recordUp (pgCheck u) .corrected 0
  | .engine i => s.deviceStopAt i 0
  | .tower _ => s

/-- The module is fed and has not stopped: its parts can fail. -/
def State.fed (s : State) : Bool := decide (s.power = .on) && !s.deviceStop

/-! ### The commands -/

/-- REGION_FAIL (R28): the region's own sequencer or arbiter logic fails it. -/
def execRegionFail (region : Fin 8) (s : State) : Host.Outcome State Fault Refusal :=
  .next (if s.fed then s.regionFault region (pgRegion region) else s)
/-- IVORY_BANK_FAIL (R241). -/
def execIvoryBankFail (region : Fin 8) (bank : Fin 16) (s : State) : Host.Outcome State Fault Refusal :=
  .next (if s.fed then s.fenceBank region bank else s)
/-- IVORY_RING_FAULT (R26): settled by the chip and recorded in the service region page. -/
def execIvoryRingFault (uncorrectable : Bool) (s : State) : Host.Outcome State Fault Refusal :=
  .next (if !s.fed then s else if uncorrectable then s.deviceStopAt pgService 0 else s.record pgService .corrected 0)
/-- TOWER_FABRIC_FAULT (R26). -/
def execTowerFabricFault (s : State) : Host.Outcome State Fault Refusal := .next (if s.fed then s.deviceStopAt pgComplex 0 else s)

end Sys2Proof.Machine
end

