-- ==== Sys2Proof/Machine/Flags.lean ====
section
/-! DEFINITION. Status codes, their kinds, and which of several statuses a command completes with (R357, R495). -/

namespace Sys2Proof.Machine

/-- The code written in a completion record (R357). -/
def Status.code : Status → Nat
  | .ok => 0 | .okScaled => 1 | .saturated => 2 | .partialExact => 3 | .limit => 4 | .kvExhausted => 5
  | .malformed => 0x10 | .abortedNotStarted => 0x11 | .depFailed => 0x12 | .busyInService => 0x13
  | .tierError => 0x20 | .poisoned => 0x21 | .checkFail => 0x22 | .decompressMismatch => 0x23 | .unmapped => 0x24
  | .windowFault => 0x25 | .stackFull => 0x30 | .stackMismatch => 0x31 | .kvBadPage => 0x32 | .kvTableMismatch => 0x33
  | .versionMismatch => 0x34 | .shardBroken => 0x35 | .diverged => 0x36 | .hqClosed => 0x37
  | .met .unmapped _ => 0x24 | .met .window _ => 0x25 | .met .tier _ => 0x20 | .met .poisoned _ => 0x21
  | .met (.frame m _) _ => if m then 0x23 else 0x22

/-- The status with a code (R357). -/
def statusOf : Nat → Option Status
  | 0 => some .ok | 1 => some .okScaled | 2 => some .saturated | 3 => some .partialExact | 4 => some .limit
  | 5 => some .kvExhausted | 0x10 => some .malformed | 0x11 => some .abortedNotStarted | 0x12 => some .depFailed
  | 0x13 => some .busyInService | 0x20 => some .tierError | 0x21 => some .poisoned | 0x22 => some .checkFail
  | 0x23 => some .decompressMismatch | 0x24 => some .unmapped | 0x25 => some .windowFault | 0x30 => some .stackFull
  | 0x31 => some .stackMismatch | 0x32 => some .kvBadPage | 0x33 => some .kvTableMismatch | 0x34 => some .versionMismatch
  | 0x35 => some .shardBroken | 0x36 => some .diverged | 0x37 => some .hqClosed | _ => none

/-- The status that a command keeps: the address of a failed request is gone into the error record. -/
def Status.plain : Status → Status
  | .met .unmapped _ => .unmapped
  | .met .window _ => .windowFault
  | .met .tier _ => .tierError
  | .met .poisoned _ => .poisoned
  | .met (.frame m _) _ => if m then .decompressMismatch else .checkFail
  | st => st

/-- A not-run status (R357). -/
def Status.notRun (s : Status) : Bool := decide (0x10 ≤ s.code) && decide (s.code < 0x20)

/-- A status that ends the request, of class CONTAINED (R357). -/
def Status.ends (s : Status) : Bool := decide (0x20 ≤ s.code)

/-- A status whose COMPLETE record stays live for R361. -/
def Status.bars (s : Status) : Bool := s.notRun || s.ends

end Sys2Proof.Machine
end

