-- ==== Sys2Proof/Machine/Fp.lean ====
section
/-! DEFINITION. Number formats, exact dyadic arithmetic, conversions, the two rounding modes and the rounding stream
(chapter 02). -/

namespace Sys2Proof.Machine

/-! ### Formats (R34, R35) -/

/-- The eleven formats (R34). -/
inductive Fmt where
  | fp64 | fp32 | bf16 | fp16 | e4m3 | e5m2 | sb8e | sb8i | int8 | int32 | uint8
deriving DecidableEq, Repr

/-- The format of a code (R34). -/
def fmtOf : Nat → Option Fmt
  | 1 => some .fp64 | 2 => some .fp32 | 3 => some .bf16 | 4 => some .fp16 | 5 => some .e4m3 | 6 => some .e5m2
  | 7 => some .sb8e | 8 => some .sb8i | 9 => some .int8 | 10 => some .int32 | 11 => some .uint8
  | _ => none

/-- Bytes of one element (R34, R347). -/
def Fmt.bytes : Fmt → Nat
  | .fp64 => 8 | .fp32 => 4 | .int32 => 4 | .bf16 => 2 | .fp16 => 2 | _ => 1

/-- A block format: 32 elements with a scale (R40). -/
def Fmt.isBlock : Fmt → Bool
  | .sb8e => true | .sb8i => true | _ => false

/-- An integer format. -/
def Fmt.isInt : Fmt → Bool
  | .int8 => true | .int32 => true | .uint8 => true | _ => false

/-- A floating-point layout: exponent bits, fraction bits, bias (R35). -/
structure Flt where
  ebits : Nat
  fbits : Nat
  bias  : Nat
deriving DecidableEq, Repr

/-- The layout of a floating-point format; a block format has its element's (R35, R40). -/
def Fmt.flt : Fmt → Flt
  | .fp64 => ⟨11, 52, 1023⟩ | .fp32 => ⟨8, 23, 127⟩ | .bf16 => ⟨8, 7, 127⟩ | .fp16 => ⟨5, 10, 15⟩
  | .e4m3 => ⟨4, 3, 7⟩ | .sb8e => ⟨4, 3, 7⟩ | .e5m2 => ⟨5, 2, 15⟩
  | _ => ⟨8, 23, 127⟩

/-- The canonical NaN (R37). -/
def Fmt.nanCode : Fmt → Nat
  | .fp64 => 0x7FF8000000000000 | .fp32 => 0x7FC00000 | .bf16 => 0x7FC0 | .fp16 => 0x7E00 | .e5m2 => 0x7E
  | .e4m3 => 0x7F | .sb8e => 0x7F | _ => 0

/-! ### Exact numbers -/

/-- Zero. -/
def nZero : Num := .fin false 0 0
/-- One. -/
def nOne : Num := .fin false 1 0
/-- An integer as a number. -/
def nInt (v : Int) : Num := .fin (decide (v < 0)) v.natAbs 0
/-- A natural number as a number. -/
def nNat (v : Nat) : Num := .fin false v 0

/-- The number is zero, of either sign. -/
def Num.isZero : Num → Bool
  | .fin _ m _ => m == 0 | _ => false
/-- The number is NaN. -/
def Num.isNan : Num → Bool
  | .nan => true | _ => false
/-- The number is infinite. -/
def Num.isInf : Num → Bool
  | .inf _ => true | _ => false
/-- The number is finite. -/
def Num.isFin : Num → Bool
  | .fin _ _ _ => true | _ => false
/-- The sign bit. -/
def Num.sign : Num → Bool
  | .fin n _ _ => n | .inf n => n | .nan => false
/-- Sign changed. -/
def Num.neg : Num → Num
  | .fin n m e => .fin (!n) m e | .inf n => .inf (!n) | .nan => .nan
/-- Magnitude. -/
def Num.abs : Num → Num
  | .fin _ m e => .fin false m e | .inf _ => .inf false | .nan => .nan

/-- The mantissa of `m · 2^e` at the exponent `lo`, which is at most `e`. -/
def alignTo (m : Nat) (e lo : Int) : Nat := m * 2 ^ (e - lo).toNat

/-- The exact value of finite numbers as a signed integer at exponent `lo`. -/
def signedAt (n : Bool) (m : Nat) (e lo : Int) : Int := if n then -(alignTo m e lo : Int) else alignTo m e lo

/-- Exact sum; an exact zero is +0 unless both terms are −0 (R39). -/
def Num.add : Num → Num → Num
  | .nan, _ => .nan
  | _, .nan => .nan
  | .inf a, .inf b => if a = b then .inf a else .nan
  | .inf a, _ => .inf a
  | _, .inf b => .inf b
  | .fin a m e, .fin b k f =>
    let lo := min e f
    let v := signedAt a m e lo + signedAt b k f lo
    if v = 0 then .fin (a && b) 0 0 else .fin (decide (v < 0)) v.natAbs lo

/-- Exact difference. -/
def Num.sub (x y : Num) : Num := x.add y.neg

/-- Exact product. -/
def Num.mul : Num → Num → Num
  | .nan, _ => .nan
  | _, .nan => .nan
  | .inf a, .inf b => .inf (a != b)
  | .inf a, .fin b k _ => if k = 0 then .nan else .inf (a != b)
  | .fin a m _, .inf b => if m = 0 then .nan else .inf (a != b)
  | .fin a m e, .fin b k f => .fin (a != b) (m * k) (e + f)

/-- Multiplied by a power of two. -/
def Num.scale (x : Num) (k : Int) : Num :=
  match x with | .fin n m e => .fin n m (e + k) | y => y

/-- `x < y`, false with a NaN. −0 equals +0. -/
def Num.lt : Num → Num → Bool
  | .nan, _ => false
  | _, .nan => false
  | .inf a, .inf b => a && !b
  | .inf a, _ => a
  | _, .inf b => !b
  | .fin a m e, .fin b k f => decide (signedAt a m e (min e f) < signedAt b k f (min e f))

/-- `x = y` as numbers, false with a NaN. -/
def Num.eqv (x y : Num) : Bool := !x.isNan && !y.isNan && !x.lt y && !y.lt x

/-- `x ≤ y`, false with a NaN. -/
def Num.le (x y : Num) : Bool := x.lt y || x.eqv y

/-- Quotient with a sticky last bit: it rounds as the exact quotient does to any format of at most 64 bits and 32 bits
below (R39, R49). -/
def Num.div : Num → Num → Num
  | .nan, _ => .nan
  | _, .nan => .nan
  | .inf _, .inf _ => .nan
  | .inf a, .fin b _ _ => .inf (a != b)
  | .fin a _ _, .inf b => .fin (a != b) 0 0
  | .fin a m e, .fin b k f =>
    if k = 0 then (if m = 0 then .nan else .inf (a != b))
    else if m = 0 then .fin (a != b) 0 0
    else
      let sh := 160 + k.log2
      let q := m * 2 ^ sh / k
      .fin (a != b) (2 * q + (if m * 2 ^ sh % k = 0 then 0 else 1)) (e - f - sh - 1)

/-- The integer square root, bit by bit from bit `i`. -/
def isqrtFrom (n : Nat) : Nat → Nat → Nat
  | 0, r => r
  | i + 1, r => isqrtFrom n i (if (r + 2 ^ i) * (r + 2 ^ i) ≤ n then r + 2 ^ i else r)

/-- The integer square root. -/
def isqrt (n : Nat) : Nat := isqrtFrom n (n.log2 / 2 + 1) 0

/-- Square root with a sticky last bit; −0 gives −0 and a negative number NaN (R39). -/
def Num.sqrt : Num → Num
  | .nan => .nan
  | .inf n => if n then .nan else .inf false
  | .fin n m e =>
    if m = 0 then .fin n 0 0
    else if n then .nan
    else
      let odd := e % 2 ≠ 0
      let m' := if odd then 2 * m else m
      let e' := if odd then e - 1 else e
      let r := isqrt (m' * 2 ^ 320)
      .fin false (2 * r + (if r * r = m' * 2 ^ 320 then 0 else 1)) (e' / 2 - 161)

/-! ### Rounding (R46 to R49) -/

/-- A rounding mode: to nearest even, or stochastic with its 32-bit stream word. -/
inductive RMode where
  | rne
  | sr (word : Nat)
deriving DecidableEq, Repr

/-- `m · 2^e` as a whole number of units of 2^u, rounded (R47, R49). -/
def roundUnits (mode : RMode) (m : Nat) (e u : Int) : Nat :=
  if u ≤ e then m * 2 ^ (e - u).toNat
  else
    let s := (u - e).toNat
    let q := m / 2 ^ s
    let rem := m % 2 ^ s
    if rem = 0 then q else
    match mode with
    | .rne => if 2 * rem < 2 ^ s then q else if 2 ^ s < 2 * rem then q + 1 else q + q % 2
    | .sr r => if 2 ^ 32 ≤ rem * 2 ^ 32 / 2 ^ s + r then q + 1 else q

/-- The exponent of the leading bit of `m · 2^e`, `m` not zero. -/
def topExp (m : Nat) (e : Int) : Int := (m.log2 : Int) + e

/-- Least normal exponent of a layout. -/
def Flt.emin (f : Flt) : Int := 1 - (f.bias : Int)

/-- The weight of the least significant bit at which `m · 2^e` rounds (R47, R49). -/
def Flt.unit (f : Flt) (m : Nat) (e : Int) : Int := max (topExp m e) f.emin - f.fbits

/-- A result code with the number of saturations and invalid operations it counts (R44, R45). -/
structure Enc where
  code : Nat
  sat  : Nat := 0
deriving DecidableEq, Repr

/-- The largest finite magnitude of a float format, as mantissa and exponent (R35). -/
def Fmt.maxFin : Fmt → Nat × Int
  | .fp64 => (2 ^ 53 - 1, 971) | .fp32 => (2 ^ 24 - 1, 104) | .bf16 => (2 ^ 8 - 1, 120) | .fp16 => (2 ^ 11 - 1, 5)
  | .e5m2 => (7, 13) | _ => (7, 6)

/-- The code of the magnitude `q · 2^u` that is on the format's grid. -/
def packMag (f : Flt) (q : Nat) (u : Int) : Nat :=
  if q = 0 then 0
  else if topExp q u < f.emin then (q * 2 ^ (u - (f.emin - f.fbits)).toNat)
  else
    let t := topExp q u
    let frac := (if u ≤ t - f.fbits then q / 2 ^ (t - f.fbits - u).toNat else q * 2 ^ (u - (t - f.fbits)).toNat) - 2 ^ f.fbits
    (t + f.bias).toNat * 2 ^ f.fbits + frac

/-- The sign bit's weight in a float's code. -/
def Flt.signBit (f : Flt) : Nat := 2 ^ (f.ebits + f.fbits)

/-- Infinity's magnitude code. -/
def Flt.infMag (f : Flt) : Nat := (2 ^ f.ebits - 1) * 2 ^ f.fbits

/-- A number rounded into a floating-point format that is not a block format (R39, R44, R47 to R49). -/
def encFloat (F : Fmt) (mode : RMode) (x : Num) : Enc :=
  let f := F.flt
  let mode := if F = .fp64 then .rne else mode
  match x with
  | .nan => ⟨F.nanCode, 0⟩
  | .inf n => if F = .e4m3 then ⟨F.nanCode, 1⟩ else ⟨(if n then f.signBit else 0) + f.infMag, 0⟩
  | .fin n m e =>
    let sg := if n then f.signBit else 0
    if m = 0 then ⟨sg, 0⟩ else
    let u := f.unit m e
    let q := roundUnits mode m e u
    let mx := F.maxFin
    if (Num.fin false mx.1 mx.2).lt (.fin false q u) then
      (if F = .e4m3 ∨ F = .e5m2 then ⟨sg + packMag f mx.1 mx.2, 1⟩ else ⟨sg + f.infMag, 0⟩)
    else ⟨sg + packMag f q u, 0⟩

/-- The number that a floating-point code spells (R35). -/
def decFloat (F : Fmt) (code : Nat) : Num :=
  let f := F.flt
  let n := code.testBit (f.ebits + f.fbits)
  let E := code / 2 ^ f.fbits % 2 ^ f.ebits
  let frac := code % 2 ^ f.fbits
  if (F = .e4m3 ∨ F = .sb8e) ∧ E = 15 ∧ frac = 7 then .nan
  else if ¬(F = .e4m3 ∨ F = .sb8e) ∧ E = 2 ^ f.ebits - 1 then (if frac = 0 then .inf n else .nan)
  else if E = 0 then .fin n frac (f.emin - f.fbits)
  else .fin n (2 ^ f.fbits + frac) ((E : Int) - f.bias - f.fbits)

/-- The ends of an integer format. -/
def Fmt.intRange : Fmt → Int × Int
  | .int8 => (-128, 127) | .uint8 => (0, 255) | .sb8i => (-128, 127) | _ => (-2147483648, 2147483647)

/-- A number rounded into an integer format (R44): out of range and infinities saturate, NaN gives 0; each is counted. -/
def encInt (F : Fmt) (mode : RMode) (x : Num) : Enc :=
  let w := F.bytes * 8
  match x with
  | .nan => ⟨0, 1⟩
  | .inf n => ⟨codeOf w (if n then F.intRange.1 else F.intRange.2), 1⟩
  | .fin n m e =>
    let q := roundUnits mode m e 0
    let v : Int := if n then -(q : Int) else q
    if v < F.intRange.1 then ⟨codeOf w F.intRange.1, 1⟩
    else if F.intRange.2 < v then ⟨codeOf w F.intRange.2, 1⟩
    else ⟨codeOf w v, 0⟩

/-- The value of an integer code. -/
def decInt (F : Fmt) (code : Nat) : Num :=
  match F with
  | .uint8 => nNat (code % 256)
  | .int32 => nInt (signedOf 32 code)
  | _ => nInt (signedOf 8 code)

/-- One element of a format that is not a block format. -/
def encElem (F : Fmt) (mode : RMode) (x : Num) : Enc := if F.isInt then encInt F mode x else encFloat F mode x

/-- The value of one element of a format that is not a block format. -/
def decElem (F : Fmt) (code : Nat) : Num := if F.isInt then decInt F code else decFloat F code

/-- The value of a block element with its scale byte (R40). -/
def decBlockElem (F : Fmt) (code scale : Nat) : Num :=
  if scale = 255 then .nan
  else (if F = .sb8i then decInt .int8 code else decFloat .e4m3 code).scale ((scale : Int) - 127)

/-- A number rounded to a floating-point format, as a number. -/
def roundTo (F : Fmt) (x : Num) : Num := decFloat F (encFloat F .rne x).code

/-- A number rounded to a floating-point format in a mode, as a number. -/
def roundIn (F : Fmt) (mode : RMode) (x : Num) : Num := decFloat F (encFloat F mode x).code

/-! ### Blocks (R43) -/

/-- The largest magnitude of finite numbers. -/
def maxMag (xs : List Num) : Num := xs.foldl (fun a x => if a.lt x.abs then x.abs else a) nZero

/-- The least `k` with `m · 2^e ≤ Q · 2^k`, `m` not zero (R43 step 4). -/
def blockExp (Q m : Nat) (e : Int) : Int :=
  let k0 := topExp m e - (Q.log2 : Int)
  if (Num.fin false m e).le (.fin false Q (k0 - 1)) then k0 - 1
  else if (Num.fin false m e).le (.fin false Q k0) then k0 else k0 + 1

/-- An encoded block: scale byte, element codes, saturations, whether it is a NaN block. -/
structure BlockEnc where
  scale : Nat
  codes : List Nat
  sat   : Nat
deriving DecidableEq, Repr

/-- One element of a block after the division by its scale (R43 step 5). Beyond ±Q it saturates to ±Q and is counted; an SB8I element that
rounds to ±127 is counted as none, though it lay beyond ±127 before (possible under a scale clamped at 0xFE alone). (DEDUCED, log entry 63). -/
def encBlockElem (F : Fmt) (mode : RMode) (scale : Nat) (x : Num) : Enc :=
  let y := x.scale (127 - (scale : Int))
  if F = .sb8i then
    (let Q : Num := nNat 127
     let r := encInt .int8 mode y
     if Q.lt (decInt .int8 r.code).abs then ⟨codeOf 8 (if y.sign then -127 else 127), 1⟩
     else if r.sat = 1 then ⟨codeOf 8 (if y.sign then -127 else 127), 1⟩ else r)
  else encFloat .e4m3 mode y

/-- The scale byte that R43 chooses. -/
def blockScale (F : Fmt) (xs : List Num) : Nat :=
  if xs.any (fun x => !x.isFin) then 255 else
  match maxMag xs with
  | .fin _ m e => if m = 0 then 0 else (max 0 (min 254 (blockExp (if F = .sb8i then 127 else 448) m e + 127))).toNat
  | _ => 255

/-- A block is written (R43): the scale from the exact values, then each element; a NaN or infinite input makes a NaN
block, counted once. -/
def encBlock (F : Fmt) (mode : Nat → RMode) (xs : List Num) : BlockEnc :=
  let sc := blockScale F xs
  if sc = 255 then ⟨255, xs.map (fun _ => 0), 1⟩ else
  let es := xs.zipIdx.map (fun p => encBlockElem F (mode p.2) sc p.1)
  ⟨sc, es.map (·.code), (es.map (·.sat)).sum⟩

/-! ### The rounding stream (R50 to R52) -/

/-- The mixing function (R50). -/
def mix64 (z : Nat) : Nat :=
  let z := z ^^^ (z / 2 ^ 32)
  let z := z * 0xD6E8FEB86659FD93 % 2 ^ 64
  let z := z ^^^ (z / 2 ^ 32)
  let z := z * 0xD6E8FEB86659FD93 % 2 ^ 64
  z ^^^ (z / 2 ^ 32)

/-- The 32-bit stream word (R50). -/
def streamWord (seed tensor step index site : Nat) : Nat :=
  let k1 := mix64 ((seed % 2 ^ 64) ^^^ 0x9E3779B97F4A7C15)
  let k2 := mix64 (k1 ^^^ ((tensor % 2 ^ 32 * 2 ^ 32) ||| (step % 2 ^ 32)))
  mix64 ((k2 + ((site * 2 ^ 48) ||| index) % 2 ^ 64) % 2 ^ 64) / 2 ^ 32

/-- What a rounding draws from: the seed, tensor, step and site, or nothing when the output is rounded to nearest. -/
structure Draw where
  stochastic : Bool := false
  seed   : Nat := 0
  tensor : Nat := 0
  step   : Nat := 0
  site   : Nat := 0
  /-- added to an element's index in its tensor, where the output is a part of a larger one (R392) -/
  base   : Nat := 0
deriving DecidableEq, Repr

/-- The rounding mode at an element index (R46, R51). -/
def Draw.mode (d : Draw) (index : Nat) : RMode :=
  if d.stochastic then .sr (streamWord d.seed d.tensor d.step (d.base + index) d.site) else .rne

/-- Single operations at a working precision (R46, R56): the exact result rounded to nearest even. -/
def addAt (F : Fmt) (x y : Num) : Num := roundTo F (x.add y)
def subAt (F : Fmt) (x y : Num) : Num := roundTo F (x.sub y)
def mulAt (F : Fmt) (x y : Num) : Num := roundTo F (x.mul y)
def fmaAt (F : Fmt) (x y z : Num) : Num := roundTo F ((x.mul y).add z)
def divAt (F : Fmt) (x y : Num) : Num := roundTo F (x.div y)
def sqrtAt (F : Fmt) (x : Num) : Num := roundTo F x.sqrt

end Sys2Proof.Machine
end

