-- ==== Sys2Proof/Machine/Sepia.lean ====
section
/-! DEFINITION. The Sepia and Tint codes on bytes: code tables, codes, frames, block headers, decoding with its checks, and
encoding (R273 to R280, R284, R288). -/

namespace Sys2Proof.Machine

/-! ### Code tables (R273, R274) -/

/-- RANK[e] of a table's bytes. -/
def tblRank (tb : Bytes) (e : Nat) : Nat := fieldAt tb e 1
/-- EXP[r]. -/
def tblExp (tb : Bytes) (r : Nat) : Nat := fieldAt tb (256 + r) 1
/-- NRANKED. -/
def tblRanked (tb : Bytes) : Nat := fieldAt tb 271 1
/-- TABLE_CRC. -/
def tblCrc (tb : Bytes) : Nat := fieldAt tb 296 4

/-- A table is valid (R273). -/
def tableValid (tb : Bytes) : Bool :=
  let n := tblRanked tb
  decide (tb.length = 320) && decide (n ≤ 15) &&
  (List.range n).all (fun r => tblRank tb (tblExp tb r) == r) &&
  (List.range 256).all (fun e => tblRank tb e == 255 || decide (tblRank tb e < n)) &&
  decide (((List.range 256).filter (fun e => tblRank tb e != 255)).length = n) &&
  (List.range 15).all (fun r => decide (r < n) || tblExp tb r == 0) &&
  zeroAt tb 300 20 && decide (crc32c (tb.take 296) = tblCrc tb)

/-- The `n` bits of `v`, most significant first. -/
def bitsMsb (n v : Nat) : List Bool := (List.range n).map (fun i => v.testBit (n - 1 - i))

/-- The code of a rank (R274). -/
def rankCode (r : Nat) : List Bool :=
  if r < 2 then false :: bitsMsb 1 r
  else if r < 4 then [true, false] ++ bitsMsb 1 (r - 2)
  else if r < 8 then [true, true, false] ++ bitsMsb 2 (r - 4)
  else [true, true, true] ++ bitsMsb 3 (r - 8)

/-- The code of an exponent under a table: its rank's code, or the escape (R274). -/
def expCode (tb : Bytes) (e : Nat) : List Bool :=
  if tblRank tb e = 255 then List.replicate 6 true ++ bitsMsb 8 e else rankCode (tblRank tb e)

/-- The number that most-significant-first bits spell. -/
def msbNat (bs : List Bool) : Nat := bs.foldl (fun a b => 2 * a + bit b) 0

/-- One code read from the front of the bits: the exponent, whether it was an escape, and the rest (R274). (DEDUCED, log entry 69). -/
def readCode (tb : Bytes) (bs : List Bool) : Option (Nat × Bool × List Bool) :=
  let rank (r k : Nat) : Option (Nat × Bool × List Bool) :=
    if bs.length < k then none else some (tblExp tb r, false, bs.drop k)
  match bs with
  | false :: b :: _ => rank (bit b) 2
  | true :: false :: b :: _ => rank (2 + bit b) 3
  | true :: true :: false :: b :: c :: _ => rank (4 + msbNat [b, c]) 5
  | true :: true :: true :: b :: c :: d :: _ =>
    if b && c && d then
      (if bs.length < 14 then none else some (msbNat ((bs.drop 6).take 8), true, bs.drop 14))
    else rank (8 + msbNat [b, c, d]) 6
  | _ => none

/-! ### BF16 parts -/

/-- The raw byte of a BF16 code: sign and fraction (R275). -/
def rawByteOf (w : Nat) : Byte := BitVec.ofNat 8 (w / 0x8000 * 0x80 + w % 0x80)
/-- The exponent of a BF16 code. -/
def bfExp (w : Nat) : Nat := w / 0x80 % 0x100
/-- A BF16 code from exponent and raw byte (R275). -/
def bfJoin (e : Nat) (raw : Byte) : Nat := raw.toNat / 0x80 * 0x8000 + e * 0x80 + raw.toNat % 0x80

/-- The bits of a byte list, bit 0 of the first byte first (R275). -/
def bitsLsb (bs : Bytes) : List Bool := bs.flatMap (fun b => (List.range 8).map (fun i => b.getLsbD i))

/-- Bytes from bits, bit 0 of the first byte first; the last byte padded with zeros. -/
def bytesLsb (bs : List Bool) : Bytes :=
  (pieces 8 bs).map (fun p => BitVec.ofNat 8 (p.zipIdx.foldl (fun a x => a + bit x.1 * 2 ^ x.2) 0))

/-! ### Tint differences (R276, R278) -/

/-- The element of a Tint code: base and difference, exact and finite or a mismatch (R276). -/
def tintElem (base e : Nat) (raw : Byte) : Option Nat :=
  if e = 0xFF then none else
  let d := decFloat .bf16 (bfJoin e raw)
  let b := decFloat .bf16 base
  let v := b.add d
  let c := (encFloat .bf16 .rne v).code
  if v.isFin && (decFloat .bf16 c).isFin && v.eqv (decFloat .bf16 c) then some c else none

/-- The difference that codes element `w` against base `b`: exponent 0 for equal bits, or a normal BF16 `d` with
`b + d = w` exactly; `none` where neither holds (R278). -/
def tintDiff (b w : Nat) : Option (Nat × Option Byte) :=
  if b = w then some (0, none) else
  let d := (decFloat .bf16 w).sub (decFloat .bf16 b)
  let c := (encFloat .bf16 .rne d).code
  if d.isFin && (decFloat .bf16 c).isFin && d.eqv (decFloat .bf16 c) && decide (0 < bfExp c) && decide (bfExp c < 255) &&
     tintElem b (bfExp c) (rawByteOf c) == some w
  then some (bfExp c, some (rawByteOf c)) else none

/-! ### Decoding a frame (R275, R276, R280) -/

/-- A decoder's place: bits left, raw bytes left, elements so far (latest first), escapes. -/
structure LanePos where
  bits : List Bool
  raws : Bytes
  out  : List Nat := []
  esc  : Nat := 0
deriving DecidableEq, Repr

/-- Decodes elements with their base elements (`none`: Sepia). -/
def decodeElems (tb : Bytes) : List (Option Nat) → LanePos → Option LanePos
  | [], p => some p
  | b :: bs, p =>
    match readCode tb p.bits with
    | none => none
    | some (e, esc, rest) =>
      match b, decide (e = 0) with
      | some base, true => decodeElems tb bs { p with bits := rest, out := base :: p.out, esc := p.esc + bit esc }
      | _, _ =>
        match p.raws with
        | [] => none
        | r :: rs =>
          match b with
          | none => decodeElems tb bs { bits := rest, raws := rs, out := bfJoin e r :: p.out, esc := p.esc + bit esc }
          | some base =>
            match tintElem base e r with
            | none => none
            | some w => decodeElems tb bs { bits := rest, raws := rs, out := w :: p.out, esc := p.esc + bit esc }

/-- Decodes the lanes of a coded frame in order, checking each lane's offsets (R280 items 1 and 2). -/
def decodeLanes (tb : Bytes) (frame : Bytes) (codeBits rawLen : Nat) : Nat → List (List (Option Nat)) → LanePos → List Nat → Option (LanePos × List Nat)
  | _, [], p, escs => some (p, escs)
  | j, lane :: lanes, p, escs =>
    let ent := fieldAt frame (4 * j) 4
    if ent / 0x10000 ≠ rawLen - p.raws.length ∨ ent % 0x10000 ≠ codeBits - p.bits.length then none else
    match decodeElems tb lane p with
    | none => none
    | some q => decodeLanes tb frame codeBits rawLen (j + 1) lanes q (escs ++ [q.esc - p.esc])

/-- A decoded block: its BF16 codes and each lane's escapes. -/
structure Expanded where
  elems   : List Nat
  escapes : List Nat := []
  raw     : Bool := false
deriving DecidableEq, Repr

/-- Bytes of a frame that its header says are in use, in whole granules: what an expander reads (R279). -/
def frameInUse (hdr : Bytes) : Nat := min 4096 (alignUp (fieldAt hdr 4 2) 64)

/-- The expander's checks on one block, in order, and its expansion (R279, R280). `tables`: the CODE_TABLE and TINT_TABLE
bytes; `bases`: base elements for a Tint block, already read, with the status their read gave. -/
def expandBlock (hdr : Bytes) (frame : Bytes) (count : Nat) (tintTensor : Bool) (codeTable tintTable : Bytes)
    (bases : Except Status (List Nat)) : Except Status Expanded :=
  let compLen := fieldAt hdr 4 2
  let codeBytes := fieldAt hdr 6 2
  let expLen := fieldAt hdr 8 2
  let flags := fieldAt hdr 10 1
  let raw := flags.testBit 0
  let tint := flags.testBit 1
  let tb := if tint then tintTable else codeTable
  if compLen = 0 ∨ 4096 < compLen ∨ expLen ≠ 2 * count ∨ 4 ≤ flags ∨ !zeroAt hdr 11 1 ∨ !zeroAt hdr 20 12 ∨
     (raw && tint) ∨ (tint && !tintTensor) ∨ (raw && decide (compLen ≠ expLen)) ∨ (raw && decide (codeBytes ≠ 0)) ∨
     (raw && decide (fieldAt hdr 12 4 ≠ 0)) ∨ (!tint && decide (fieldAt hdr 16 4 ≠ 0)) ∨
     (!raw && decide (compLen < 64 + codeBytes))
  then .error .decompressMismatch
  else if crc32c (frame.take compLen) ≠ fieldAt hdr 0 4 then .error .checkFail
  else if raw then .ok { elems := (pieces 2 (frame.take compLen)).map leNat, raw := true }
  else if fieldAt hdr 12 4 ≠ tblCrc tb then .error .decompressMismatch
  else
    match bases with
    | .error st => .error st
    | .ok bs =>
      if tint && decide (crc32c (bs.flatMap (natBytes 2)) ≠ fieldAt hdr 16 4) then .error .checkFail
      else
        let bits := bitsLsb (sliceOf frame 64 codeBytes)
        let raws := sliceOf frame (64 + codeBytes) (compLen - 64 - codeBytes)
        let items : List (Option Nat) := if tint then bs.map some else List.replicate count none
        let lanes := (List.range 16).map (fun j => (items.drop (128 * j)).take 128)
        match decodeLanes tb frame bits.length raws.length 0 lanes { bits := bits, raws := raws } [] with
        | none => .error .decompressMismatch
        | some (p, escs) =>
          if p.raws ≠ [] ∨ 8 ≤ p.bits.length ∨ p.bits.any id then .error .decompressMismatch
          else .ok { elems := p.out.reverse, escapes := escs }

/-! ### Encoding a block (R279, R284) -/

/-- One lane coded: its code bits, raw bytes and escapes. -/
def codeLane (tb : Bytes) (lane : List (Nat × Option Byte)) : List Bool × Bytes × Nat :=
  (lane.flatMap (fun x => expCode tb x.1), lane.filterMap (·.2), (lane.filter (fun x => tblRank tb x.1 == 255)).length)

/-- The lane table's entries from each lane's code bits and raw bytes. -/
def laneTable : Nat → Nat → List (List Bool × Bytes × Nat) → Bytes
  | _, _, [] => []
  | c, r, l :: ls => natBytes 4 (r * 0x10000 + c) ++ laneTable (c + l.1.length) (r + l.2.1.length) ls

/-- An encoded block: frame bytes in use, header, form and escapes. -/
structure Framed where
  frame   : Bytes
  header  : Bytes
  raw     : Bool
  tint    : Bool
  escapes : List Nat
deriving DecidableEq, Repr

/-- A 32-byte block header (R279). -/
def blockHeader (frame : Bytes) (codeBytes expLen flags tableCrc baseCrc : Nat) : Bytes :=
  natBytes 4 (crc32c frame) ++ natBytes 2 frame.length ++ natBytes 2 codeBytes ++ natBytes 2 expLen ++ natBytes 1 flags ++
  natBytes 1 0 ++ natBytes 4 tableCrc ++ natBytes 4 baseCrc ++ natBytes 12 0

/-- One block encoded under its tables (R278, R284): Tint where every element allows it, else Sepia; RAW when coding does
not save, or, with NO_STALL, when any code is an escape. -/
def encodeBlock (codeTable : Bytes) (tint : Option (Bytes × List Nat)) (noStall : Bool) (elems : List Nat) : Framed :=
  let tintItems : Option (List (Nat × Option Byte)) :=
    tint.bind (fun t => (t.2.zip elems).mapM (fun p => tintDiff p.1 p.2))
  let items := tintItems.getD (elems.map (fun w => (bfExp w, some (rawByteOf w))))
  let isTint := tintItems.isSome
  let tb := if isTint then (tint.map (·.1)).getD codeTable else codeTable
  let lanes := (List.range 16).map (fun j => codeLane tb ((items.drop (128 * j)).take 128))
  let code := bytesLsb (lanes.flatMap (·.1))
  let coded := laneTable 0 0 lanes ++ code ++ lanes.flatMap (·.2.1)
  let plain := elems.flatMap (natBytes 2)
  if plain.length ≤ coded.length ∨ (noStall && lanes.any (fun l => decide (0 < l.2.2))) then
    { frame := plain, header := blockHeader plain 0 plain.length 1 0 0, raw := true, tint := false, escapes := [] }
  else
    { frame := coded,
      header := blockHeader coded code.length plain.length (if isTint then 2 else 0) (tblCrc tb)
        (if isTint then crc32c (((tint.map (·.2)).getD []).flatMap (natBytes 2)) else 0),
      raw := false, tint := isTint, escapes := lanes.map (·.2.2) }

/-- The cycles T in which an expander handles a block (R282). -/
def expandCycles (compLen expLen : Nat) (laneLens escapes : List Nat) : Nat :=
  max (max (ceilDiv compLen 256) (ceilDiv expLen 256)) ((laneLens.zip escapes).foldl (fun a p => max a (ceilDiv (p.1 + p.2) 8)) 0)

/-! ### Building a table (R288) -/

/-- The exponents ranked by count, highest first, the lower exponent first in a tie, at most 15 (R288). -/
def rankExps (counts : Tab Nat) : List Nat :=
  let ins (x : Nat × Nat) (l : List (Nat × Nat)) : List (Nat × Nat) :=
    l.takeWhile (fun y => decide (x.2 < y.2) || (x.2 == y.2 && decide (y.1 < x.1))) ++ x ::
    l.dropWhile (fun y => decide (x.2 < y.2) || (x.2 == y.2 && decide (y.1 < x.1)))
  ((counts.foldl (fun l x => if x.2 = 0 then l else ins x l) []).take 15).map (·.1)

/-- The bits of an exponent's code when `ranks` are ranked in order. -/
def codeLength (ranks : List Nat) (e : Nat) : Nat :=
  let r := ranks.idxOf e
  if r < ranks.length then (if r < 2 then 2 else if r < 4 then 3 else if r < 8 then 5 else 6) else 14

/-- The 320 bytes of a table (R273, R288). -/
def buildTable (counts : Tab Nat) (skipped : Nat) : Bytes :=
  let ranks := rankExps counts
  let rank := (List.range 256).map (fun e => BitVec.ofNat 8 (if ranks.contains e then ranks.idxOf e else 255))
  let exps := (List.range 15).map (fun r => BitVec.ofNat 8 (nth 0 ranks r))
  let total := (counts.map (·.2)).sum
  let bits := (counts.map (fun x => x.2 * codeLength ranks x.1)).sum
  let head := rank ++ exps ++ natBytes 1 ranks.length ++ natBytes 8 total ++ natBytes 8 bits ++ natBytes 8 skipped
  head ++ natBytes 4 (crc32c head) ++ natBytes 20 0

end Sys2Proof.Machine
end

