-- ==== Sys2Proof/Machine/Operands.lean ====
section
/-! DEFINITION. Every operand form: tensor descriptors with their checks and byte ranges, reading an element of a plain,
block or compressed tensor, and writing elements and blocks (R41, R52, R238, R270 to R272, R347, R348). -/

namespace Sys2Proof.Machine

/-! ### Tensor descriptors (R347, R348) -/

/-- A tensor descriptor's fields. -/
structure Tens where
  base    : Nat
  fmt     : Fmt
  rank    : Nat
  flags   : Nat
  scaleOff : Nat
  sizes   : List Nat
  strides : List Nat
  /-- the queue whose window bounds what its compression record names (R363), and the tables its command has read (R273) -/
  queue   : Option Nat := none
  tables  : List (Nat × Bytes) := []
deriving DecidableEq, Repr

/-- Size of a dimension. -/
def Tens.size (t : Tens) (d : Nat) : Nat := nth 1 t.sizes d
/-- Stride of a dimension. -/
def Tens.stride (t : Tens) (d : Nat) : Nat := nth 0 t.strides d
/-- The compression field (R348). -/
def Tens.comp (t : Tens) : Nat := bitsOf t.flags 4 3
/-- The TIER field (R348). -/
def Tens.tier (t : Tens) : Nat := bitsOf t.flags 2 1
/-- TRANSPOSE_OK (R348). -/
def Tens.transposeOk (t : Tens) : Bool := bitAt t.flags 0
/-- Logical elements. -/
def Tens.count (t : Tens) : Nat := (List.range 6).foldl (fun a d => a * t.size d) 1
/-- Elements of the dimensions above `d0`. -/
def Tens.rows (t : Tens) : Nat := (List.range 5).foldl (fun a d => a * t.size (d + 1)) 1

/-- The indices of a logical element (R52, the inverse). -/
def Tens.indices (t : Tens) (i : Nat) : List Nat :=
  ((List.range 6).foldl (fun (a : List Nat × Nat) d => (a.1 ++ [a.2 % t.size d], a.2 / t.size d)) ([], i)).1

/-- The logical index of indices (R52). -/
def Tens.logical (t : Tens) (ix : List Nat) : Nat :=
  (List.range 6).foldr (fun d a => nth 0 ix d + t.size d * a) 0

/-- Blocks of 32 in one row (R41). -/
def Tens.rowBlocks (t : Tens) : Nat := ceilDiv (t.size 0) 32

/-- Blocks of a compressed tensor (R272). -/
def Tens.compBlocks (t : Tens) : Nat :=
  if t.rank = 1 then ceilDiv (t.size 0) 2048
  else ceilDiv (t.size 0) 128 * ceilDiv (t.size 1) 16 * t.size 2 * t.size 3 * t.size 4 * t.size 5

/-- The byte address of an uncompressed element. -/
def Tens.addrOf (t : Tens) (ix : List Nat) : Nat :=
  t.base + ((List.range 6).map (fun d => nth 0 ix d * t.stride d)).sum * t.fmt.bytes

/-- The address of the scale byte of the block that holds an element (R41). -/
def Tens.scaleAddr (t : Tens) (ix : List Nat) : Nat :=
  t.base + t.scaleOff + nth 0 ix 0 / 32 + t.rowBlocks * ((List.range 5).foldr (fun d a => nth 0 ix (d + 1) + t.size (d + 1) * a) 0)

/-- One past the last data byte; a block format's rows end with their last block (R347). -/
def Tens.dataEnd (t : Tens) : Nat :=
  let last := ((List.range 5).map (fun d => (t.size (d + 1) - 1) * t.stride (d + 1))).sum
  if t.fmt.isBlock then t.base + last + 32 * t.rowBlocks
  else t.base + (last + (t.size 0 - 1) * t.stride 0 + 1) * t.fmt.bytes

/-- The tensor's byte range: first address and length (R347). -/
def Tens.range (t : Tens) : Nat × Nat :=
  if t.comp ≠ 0 then (t.base, t.scaleOff + 64 + 32 * t.compBlocks)
  else if t.fmt.isBlock then (t.base, max t.dataEnd (t.base + t.scaleOff + t.rowBlocks * t.rows) - t.base)
  else (t.base, t.dataEnd - t.base)

/-- The tier code of R348. -/
def Tier.code : Tier → Nat
  | .ivory => 0 | .umber => 1 | .slate => 2

/-- The descriptor in 64 bytes, when it breaks none of the rules of R41, R270, R347 and R348; the TIER field is compared
with the base's tier by the caller's mapping check (R238). -/
def parseTens (b : Bytes) : Option Tens :=
  match fmtOf (fieldAt b 8 1) with
  | none => none
  | some F =>
    let t : Tens := { base := fieldAt b 0 8, fmt := F, rank := fieldAt b 9 1, flags := fieldAt b 10 2, scaleOff := fieldAt b 12 4,
                      sizes := (List.range 6).map (fun d => fieldAt b (16 + 4 * d) 4),
                      strides := (List.range 6).map (fun d => fieldAt b (40 + 4 * d) 4) }
    let rankOk := decide (1 ≤ t.rank) && decide (t.rank ≤ 6)
    let dims := (List.range 6).all (fun d =>
      if d < t.rank then decide (1 ≤ t.size d) else t.size d == 1 && t.stride d == 0)
    let flagsOk := decide (t.flags < 32) && decide (t.tier ≠ 3) && decide (t.comp ≠ 3)
    let baseOk := decide (t.base < 2 ^ 48) && t.base % F.bytes == 0
    let form :=
      if t.comp ≠ 0 then decide (F = .bf16) && t.strides.all (· == 0) && t.scaleOff % 64 == 0 && decide (t.compBlocks * 4096 ≤ t.scaleOff)
      else if F.isBlock then
        t.stride 0 == 1 && (decide (t.rank < 2) || (t.stride 1 % 32 == 0 && decide (32 * t.rowBlocks ≤ t.stride 1)))
      else t.scaleOff == 0
    if rankOk && dims && flagsOk && baseOk && form then some t else none

/-- The TIER field names the tier of the base (R238). -/
def State.tierAgrees (s : State) (t : Tens) : Bool :=
  match s.tierOf t.base with
  | some u => u.code == t.tier
  | none => true

/-- Dense: dimension-0 stride 1 and each higher stride the product of the lower sizes (R287). -/
def Tens.dense (t : Tens) : Bool := (List.range t.rank).all (fun d => t.stride d == (List.range d).foldl (fun a e => a * t.size e) 1)

/-- Two tensors have one shape. -/
def Tens.sameSizes (t u : Tens) : Bool := decide (t.sizes = u.sizes)

/-! ### Reading where only the execution knows the address (R239, R363, R364) -/

/-- The queue's context. -/
def State.queue (s : State) (q : Nat) : QueueCtx := tabGet {} s.queues q

/-- A byte range lies in the queue's address window (R363). -/
def State.inWindow (s : State) (q a len : Nat) : Bool :=
  len == 0 || (decide ((s.queue q).winBase ≤ a) && decide (a + len ≤ (s.queue q).winLimit + 1))

/-- Reads at an address known only during execution: UNMAPPED before WINDOW_FAULT (R239, R364). -/
def State.dynRead (s : State) (q a len : Nat) : Except Status Bytes :=
  if !s.mappedRange a len then .error (.met .unmapped a)
  else if !s.inWindow q a len then .error (.met .window a)
  else s.readBytes a len

/-- Why a write at an address known only during execution fails before anything. -/
def State.dynRefusal (s : State) (q a len : Nat) : Option Status :=
  if !s.mappedRange a len then some (.met .unmapped a)
  else if !s.inWindow q a len then some (.met .window a)
  else s.refusal a len true

/-! ### Reading elements -/

/-- The code table at an address (R273): as the command has kept it, else as memory holds it; CHECK_FAIL when it is not valid. -/
def State.tableAt (s : State) (q : Option Nat) (kept : List (Nat × Bytes)) (a : Nat) : Except Status Bytes :=
  match kept.find? (fun x => x.1 == a) with
  | some x => .ok x.2
  | none =>
    match (match q with | some q => s.dynRead q a 320 | none => s.readBytes a 320) with
    | .error st => .error st
    | .ok tb => if a % 64 = 0 ∧ tableValid tb then .ok tb else .error .checkFail

/-- The compressed block that holds an element, and the element's place in it (R272). -/
def Tens.blockOf (t : Tens) (ix : List Nat) : Nat × Nat :=
  if t.rank = 1 then (nth 0 ix 0 / 2048, nth 0 ix 0 % 2048)
  else
    let w := ceilDiv (t.size 0) 128
    let h := ceilDiv (t.size 1) 16
    let rest := (List.range 4).foldr (fun d a => nth 0 ix (d + 2) + t.size (d + 2) * a) 0
    (nth 0 ix 0 / 128 + w * (nth 0 ix 1 / 16 + h * rest), nth 0 ix 0 % 128 + 128 * (nth 0 ix 1 % 16))

/-- Elements of block `n` (R272, R279): 2,048, or those left in a short last linear block. -/
def Tens.blockCount (t : Tens) (n : Nat) : Nat := if t.rank = 1 then min 2048 (t.size 0 - 2048 * n) else 2048

/-- The logical indices of a block's elements in block order; `none` for padding (R272). -/
def Tens.blockIndices (t : Tens) (n : Nat) : List (Option (List Nat)) :=
  if t.rank = 1 then (List.range (t.blockCount n)).map (fun k => some [2048 * n + k])
  else
    let w := ceilDiv (t.size 0) 128
    let h := ceilDiv (t.size 1) 16
    let a := n % w
    let c := n / w % h
    let rest := n / (w * h)
    let hi := ((List.range 4).foldl (fun (x : List Nat × Nat) d => (x.1 ++ [x.2 % t.size (d + 2)], x.2 / t.size (d + 2))) ([], rest)).1
    (List.range 2048).map (fun k =>
      if 128 * a + k % 128 < t.size 0 ∧ 16 * c + k / 128 < t.size 1 then some ((128 * a + k % 128) :: (16 * c + k / 128) :: hi) else none)

/-- The compression record (R271) agrees with the descriptor. -/
def Tens.recordAgrees (t : Tens) (r : Bytes) : Bool :=
  fieldAt r 36 1 == t.comp && fieldAt r 37 1 == (if t.rank = 1 then 0 else 1) && fieldAt r 24 8 == t.count && fieldAt r 32 4 == t.compBlocks

/-- A base element for each element of a block; padding has +0 (R277, R278). -/
def State.baseElems (s : State) (t : Tens) (baseAddr n : Nat) : Except Status (List Nat) :=
  (t.blockIndices n).mapM (fun o =>
    match o, t.queue with
    | none, _ => .ok 0
    | some ix, some q => (s.dynRead q (baseAddr + 2 * t.logical ix) 2).map leNat
    | some ix, none => (s.readBytes (baseAddr + 2 * t.logical ix) 2).map leNat)

/-- A check of an expander that failed, with what its error record names (R271, R279). (DEDUCED, log entry 52). -/
def frameStop (addr block : Nat) : Status → Status
  | .decompressMismatch => .met (.frame true block) addr
  | .checkFail => .met (.frame false block) addr
  | st => st

/-- The compression record of a tensor, when it agrees with the descriptor (R271). -/
def State.recordOf (s : State) (t : Tens) : Except Status Bytes := do
  let r ← s.readBytes (t.base + t.scaleOff) 64
  if t.recordAgrees r then .ok r else .error (frameStop (t.base + t.scaleOff) 0xFFFFFFFF .decompressMismatch)

/-- The addresses of the code tables of a compressed tensor. -/
def State.tablesOf (s : State) (t : Tens) : List Nat :=
  if t.comp = 0 then [] else
  match s.recordOf t with
  | .error _ => []
  | .ok r => fieldAt r 0 8 :: (if t.comp = 2 then [fieldAt r 8 8] else [])

/-- A table that a compression record names. -/
def State.recordTable (s : State) (t : Tens) (a : Nat) : Except Status Bytes := (s.tableAt t.queue t.tables a).mapError (frameStop a 0xFFFFFFFF)

/-- The expansion of block `n` of a compressed tensor, with the checks of R271, R273 and R279. -/
def State.expandTens (s : State) (t : Tens) (n : Nat) : Except Status Expanded := do
  let rec0 ← s.recordOf t
  let ct ← s.recordTable t (fieldAt rec0 0 8)
  let tt ← (if t.comp = 2 then s.recordTable t (fieldAt rec0 8 8) else .ok ct)
  let hdr ← s.readBytes (t.base + t.scaleOff + 64 + 32 * n) 32
  let frame ← s.readBytes (t.base + 4096 * n) (frameInUse hdr)
  (expandBlock hdr frame (t.blockCount n) (t.comp == 2) ct tt
    (if bitAt (fieldAt hdr 10 1) 1 then s.baseElems t (fieldAt rec0 16 8) n else .ok [])).mapError (frameStop (t.base + 4096 * n) n)

/-- The stored code of an element: of its block element in a block format, of its expansion in a compressed tensor. -/
def State.elemCode (s : State) (t : Tens) (ix : List Nat) : Except Status Nat :=
  if t.comp ≠ 0 then
    (let b := t.blockOf ix
     (s.expandTens t b.1).map (fun e => nth 0 e.elems b.2))
  else (s.readBytes (t.addrOf ix) t.fmt.bytes).map leNat

/-- The value of the element with logical index `i`. -/
def State.elem (s : State) (t : Tens) (i : Nat) : Except Status Num :=
  let ix := t.indices i
  if t.fmt.isBlock then do
    let c ← s.elemCode t ix
    let e ← s.readBytes (t.scaleAddr ix) 1
    .ok (decBlockElem t.fmt c (leNat e))
  else (s.elemCode t ix).map (decElem t.fmt)

/-- The values of several elements. -/
def State.elems (s : State) (t : Tens) (is : List Nat) : Except Status (List Num) := is.mapM (s.elem t)

/-! ### Writing elements -/

/-- Pieces of writing, each an address with its bytes. -/
abbrev Writes := List (Nat × Bytes)

/-- Neighbouring pieces joined into one. -/
def joinWrites : Writes → Writes
  | [] => []
  | (a, b) :: rest =>
    match joinWrites rest with
    | (a', b') :: r => if a + b.length = a' then (a, b ++ b') :: r else (a, b) :: (a', b') :: r
    | [] => [(a, b)]

/-- What rounding elements for an output gives: bytes to write and the count of R45. -/
structure Packed where
  writes : Writes := []
  sat    : Nat := 0
deriving DecidableEq, Repr

/-- Two packings, one after the other. -/
def Packed.append (p q : Packed) : Packed := ⟨p.writes ++ q.writes, p.sat + q.sat⟩

/-- Elements of an output that is not in a block format, each with its logical index (R44, R52). -/
def packPlain (t : Tens) (d : Draw) (xs : List (Nat × Num)) : Packed :=
  xs.foldl (fun p x =>
    let e := encElem t.fmt (d.mode x.1) x.2
    p.append ⟨[(t.addrOf (t.indices x.1), natBytes t.fmt.bytes e.code)], e.sat⟩) {}

/-- One block of a block-format output: the elements from dimension-0 index 32·j on, in the row of logical index `first`
(R41 to R43). Padding is written as zero. -/
def packBlock (t : Tens) (d : Draw) (first : Nat) (xs : List Num) : Packed :=
  let ix := t.indices first
  let e := encBlock t.fmt (fun k => d.mode (first + k)) xs
  ⟨[(t.addrOf ix, e.codes.map (BitVec.ofNat 8) ++ natBytes (32 - e.codes.length) 0), (t.scaleAddr ix, natBytes 1 e.scale)], e.sat⟩

/-- A run of elements of one row from logical index `first`, which begins a block in a block format. -/
def packRow (t : Tens) (d : Draw) (first : Nat) (xs : List Num) : Packed :=
  if t.fmt.isBlock then
    (let bs := (pieces 32 xs).zipIdx.map (fun c => packBlock t d (first + 32 * c.2) c.1)
     ⟨bs.flatMap (fun b => b.writes.take 1) ++ bs.flatMap (fun b => b.writes.drop 1), (bs.map (·.sat)).sum⟩)
  else packPlain t d (xs.zipIdx.map (fun x => (first + x.2, x.1)))

/-- Pieces joined. -/
def packAll (ps : List Packed) : Packed := ⟨ps.flatMap (·.writes), (ps.map (·.sat)).sum⟩

/-- How a run of `n` elements in rows of `row` is cut into chunks of at most `step`, blocks kept whole when `blocky`. -/
structure Cut where
  n      : Nat
  row    : Nat
  step   : Nat
  nested : Bool

/-- The cut for `n` elements. -/
def cutOf (n row e : Nat) (blocky : Bool) : Cut :=
  if blocky then
    (let st := max 32 (e / 32 * 32)
     if row % 32 = 0 then ⟨n, row, st, false⟩
     else if row ≤ st then ⟨n, row, st / row * row, false⟩ else ⟨n, row, st, true⟩)
  else ⟨n, row, max 1 e, false⟩

/-- How many chunks a cut has. -/
def Cut.units (k : Cut) : Nat := if k.nested then k.n / k.row * ceilDiv k.row k.step else ceilDiv k.n k.step

/-- Chunk `u`: its first element and length. -/
def Cut.chunk (k : Cut) (u : Nat) : Nat × Nat :=
  if k.nested then
    (let per := ceilDiv k.row k.step
     let st := u % per * k.step
     (u / per * k.row + st, min k.step (k.row - st)))
  else (u * k.step, min k.step (k.n - u * k.step))

/-- A run of output elements packed row by row (block formats need whole blocks of a row). -/
def packRun (t : Tens) (d : Draw) (first : Nat) (xs : List Num) : Packed :=
  if t.fmt.isBlock then
    (let row := t.size 0
     let lead := min xs.length (row - first % row)
     let rest := pieces row (xs.drop lead)
     (rest.zipIdx.foldl (fun p r => p.append (packRow t d (first + lead + row * r.2) r.1)) (packRow t d first (xs.take lead))))
  else packRow t d first xs

/-- Every piece is stored, after every piece has been judged: POISONED, TIER_ERROR or UNMAPPED stops all of them. -/
def State.writeAll (s : State) (ws : Writes) : Except Status State :=
  match (joinWrites ws).findSome? (fun w => s.refusal w.1 w.2.length true) with
  | some st => .error st
  | none => .ok ((joinWrites ws).foldl (fun t w => t.storeBytes w.1 w.2) s)

end Sys2Proof.Machine
end

