-- ==== Sys2Proof/Machine/Run.lean ====
section
/-! DEFINITION. How an accepted command runs: its fields, its place in the list of commands in flight, the checks at its
start, units of work committed one after another, and how it ends (R341, R346, R350, R239, R363, R364). -/

namespace Sys2Proof.Machine

/-! ### A command's fields (R341, R361) -/

/-- OPCODE. -/
def Cmd.opcode (c : Cmd) : Nat := fieldAt c.desc 0 2
/-- DESC_FLAGS. -/
def Cmd.descFlags (c : Cmd) : Nat := fieldAt c.desc 2 2
/-- The dependence marks. -/
def Cmd.marks (c : Cmd) : Nat := fieldAt c.desc 4 4
/-- The body address. -/
def Cmd.bodyAddr (c : Cmd) : Nat := fieldAt c.desc 8 8
/-- The inline area, bytes 16 to 55 of the descriptor. -/
def Cmd.inl (c : Cmd) : Bytes := sliceOf c.desc 16 40
/-- A little-endian field of the body. -/
def Cmd.fld (c : Cmd) (off len : Nat) : Nat := fieldAt c.body off len
/-- A tensor descriptor in the body. -/
def Cmd.tens (c : Cmd) (off : Nat) : Option Tens :=
  (parseTens (sliceOf c.body off 64)).map (fun t => { t with queue := some c.q, tables := c.tables })
/-- Body bytes that must be zero are zero. -/
def Cmd.zero (c : Cmd) (off len : Nat) : Bool := zeroAt c.body off len

/-- The accepted command of queue `q` with sequence number `n`. -/
def State.cmd? (s : State) (q n : Nat) : Option Cmd := s.cmds.find? (fun c => c.q == q && c.n == n)

/-- The commands that run: those accepted, and the unfinished RUN commands of the threads (R326). -/
def State.works (s : State) : List Cmd := s.cmds ++ s.threads.filterMap (·.running)

/-- Its entry replaced. -/
def State.putCmd (s : State) (c : Cmd) : State :=
  { s with cmds := s.cmds.map (fun d => if d.q = c.q ∧ d.n = c.n then c else d) }

/-- Its entry removed. -/
def State.dropCmd (s : State) (q n : Nat) : State :=
  { s with cmds := s.cmds.filter (fun d => !(d.q == q && d.n == n)) }

/-- The queue's context replaced. -/
def State.putQueue (s : State) (q : Nat) (x : QueueCtx) : State := { s with queues := tabSet {} s.queues q x }

/-- The draw of a rounding site for this command (R51). -/
def State.draw (s : State) (c : Cmd) (on : Bool) (tensor step site : Nat) : Draw :=
  { stochastic := on, seed := (s.queue c.q).jobSeed, tensor := tensor, step := step, site := site }

/-! ### Committing -/

/-- A list of ranges with one more, joined to the last where they touch. -/
def addRange (rs : List (Nat × Nat)) (a len : Nat) : List (Nat × Nat) :=
  if len = 0 then rs else
  match rs with
  | (b, l) :: rest => if b + l = a then (b, l + len) :: rest else (a, len) :: (b, l) :: rest
  | [] => [(a, len)]

/-- The command has written a range: it is past its commit point and its SCOPE knows the tier (R350, R358). -/
def Cmd.noteWrite (s : State) (c : Cmd) (a len : Nat) : Cmd :=
  if len = 0 then c else
  { c with committed := true, wrote := addRange c.wrote a len,
           wroteSlate := c.wroteSlate || decide (s.tierOf a = some .slate),
           wroteLocal := c.wroteLocal || decide (s.tierOf a ≠ some .slate) }

/-- Writes are stored for a command, or stop it with a status and store nothing. -/
def commitWrites (s : State) (c : Cmd) (p : Packed) : Except Status (State × Cmd) :=
  match s.writeAll p.writes with
  | .error st => .error st
  | .ok t => .ok (t, (joinWrites p.writes).foldl (fun c w => c.noteWrite s w.1 w.2.length) { c with sat := c.sat + p.sat })

/-- A write cut into its whole 64-byte granules and the rest. -/
def wholeGranules (w : Nat × Bytes) : Writes × Writes :=
  let h := min w.2.length ((64 - w.1 % 64) % 64)
  let m := (w.2.length - h) / 64 * 64
  (if m = 0 then [] else [(w.1 + h, sliceOf w.2 h m)],
   [(w.1, w.2.take h), (w.1 + h + m, w.2.drop (h + m))].filter (fun x => !x.2.isEmpty))

/-- Writes of a unit of a tower-unit command: whole granules appear at once, and a granule of which the unit writes a part is kept
until the command ends, so that no reader meets it between two units (R306). (DESIGN CHOICE, log entry 81). -/
def commitGranules (s : State) (c : Cmd) (p : Packed) : Except Status (State × Cmd) := do
  let (_, d) ← commitWrites s c p
  let cut := (joinWrites p.writes).map wholeGranules
  let t ← s.writeAll (cut.flatMap (·.1))
  .ok (t, { d with withheld := d.withheld ++ cut.flatMap (·.2) })

/-- The kept parts appear. -/
def releaseWithheld (s : State) (c : Cmd) : Except Status State := if c.withheld.isEmpty then .ok s else s.writeAll c.withheld

/-- Count number `i` of a command. -/
def Cmd.cnt (c : Cmd) (i : Nat) : Nat := nth 0 c.counts i

/-- Count number `i` raised by `k`. -/
def Cmd.addCnt (c : Cmd) (i k : Nat) : Cmd :=
  { c with counts := ((c.counts ++ List.replicate (i + 1 - c.counts.length) 0)).set i (c.cnt i + k) }

/-- Count number `i` of a command replaced. -/
def Cmd.putCnt (c : Cmd) (i v : Nat) : Cmd :=
  { c with counts := ((c.counts ++ List.replicate (i + 1 - c.counts.length) 0)).set i v }

/-! ### The error record of a status (R27, R239, R240, R260, R364, R494) -/

/-- The page of the region, else the tower, else the chip, where a command's work stands. (DEDUCED, log entry 52). -/
def Cmd.workPage (c : Cmd) : Nat :=
  match c.regions, c.towers with
  | r :: _, _ => pgRegion r
  | [], t :: _ => pgTower t
  | [], [] => pgService

/-- A status that ends a request is recorded once as CONTAINED: a failed Slate request in the Perast controller's page, a
poisoned granule of Ivory in its slice's, one of Umber nowhere, since its poisoning has been recorded (R250); any other status in
`page`. (DEDUCED, log entry 52). -/
def State.noteStop (s : State) (page : Nat) : Status → State
  | .met .poisoned a => if s.tierOf a = some .ivory then s.record (pgSlice (a / sliceSize)) .contained a else s
  | .met .tier a => s.record pgPerast .contained a
  | .met _ a => s.record page .contained a
  | .poisoned => s
  | st => if st.ends then s.record page .contained 0 else s

/-- An expander pair records a failed check: CONTAINED with the frame's address, and EXP_ERR.BLOCK. (DEDUCED, log entry 52). -/
def State.recordExpander (s : State) (r p frame block : Nat) : State :=
  let t := s.record (pgExpander r p) .contained frame
  t.putRegion r ((t.region r).putExpander p { (t.region r).expander p with errBlock := block })

/-- The region in which a command's blocks ran: its first place, else the first region in service. -/
def State.homeRegion (s : State) (c : Cmd) : Nat := (c.regions.head?).getD ((s.regionsIn.head?).getD 0)

/-- The record of a status where expander pair `p` of region `r` may have found it: the pair's for a failed check of a block (R279), else
that of `page`. -/
def State.blameAt (s : State) (page r p : Nat) : Status → State
  | .met (.frame _ n) a => s.recordExpander r p a n
  | st => s.noteStop page st

/-- The command is over with a status and holds no output that it leaves undefined. -/
def State.endCmd (s : State) (page : Nat) (c : Cmd) (st : Status) : State :=
  (s.noteStop page st).putCmd { c with phase := .ended, status := st.plain }

/-! ### What one opcode supplies -/

/-- What the running of an opcode needs: its checks at the start, its byte ranges, its units and its end. -/
structure Op where
  /-- checks 2 and 3 of R346 and the statuses that a chapter gives at the start; the body has been read -/
  check  : State → Cmd → Option Status
  /-- every byte range the fields name (R239, R363) -/
  ranges : State → Cmd → List (Nat × Nat)
  /-- how many units of work it has -/
  total  : State → Cmd → Nat
  /-- one unit, committed, or the status that ends the command -/
  unit   : State → Cmd → Nat → Except Status (State × Cmd)
  /-- report and final status when every unit is committed -/
  finish : State → Cmd → Except Status (State × Cmd)
  /-- the ranges that are undefined, where not committed, when it ends early -/
  outs   : State → Cmd → List (Nat × Nat)
  /-- the pages of the blocks that serve it (R481) -/
  pages  : State → Cmd → List Nat
  /-- the error record of a status that ends it (R27, R239, R260, R279, R364) -/
  blame  : State → Cmd → Status → State := fun s c st => s.blameAt ((pages s c).headD c.workPage) (s.homeRegion c) 0 st
  /-- what a status that ends it still does or undoes: a report that is always written, a mark that is taken back (R224) -/
  leave  : State → Cmd → Status → State × Cmd := fun s c _ => (s, c)
  /-- the addresses of the code tables that its units use (R273) -/
  tables : State → Cmd → List Nat := fun _ _ => []
  /-- a unit waits while this is false (R150, R154) -/
  ready  : State → Cmd → Nat → Bool := fun _ _ _ => true
  /-- what a unit adds to UNITS of the completion record (R356) -/
  weight : State → Cmd → Nat → Nat := fun _ _ _ => 1

/-- The command ends with a status (R239): what it had not committed of its outputs is undefined. (DEDUCED, log entry 53). -/
def endWith (s : State) (c : Cmd) (st : Status) (outs : List (Nat × Nat)) : State × Cmd :=
  ((if st.ends then
      (outs.flatMap (fun o => minusRanges o.1 o.2 c.wrote)).foldl (fun t r => t.openRange r.1 r.2) s
    else s),
   { c with phase := .ended, status := st.plain })

/-- The command stops with a status that has been recorded: the granules of its committed units appear (R306), then what it still
does, then its end. -/
def Op.quit (op : Op) (s : State) (c : Cmd) (st : Status) : State × Cmd :=
  let t := (releaseWithheld s c).toOption.getD s
  let r := op.leave t { c with withheld := [] } st
  endWith r.1 r.2 st (op.outs s c)

/-- The command stops with a status: its error record, then its end. -/
def Op.stop (op : Op) (s : State) (c : Cmd) (st : Status) : State × Cmd := op.quit (op.blame s c st) c st

/-- The command ends with a status before it has done anything: its error record, and what it still does. -/
def Op.endAtStart (op : Op) (s : State) (c : Cmd) (st : Status) : State :=
  let r := op.leave (op.blame s c st) c st
  r.1.putCmd { r.2 with phase := .ended, status := st.plain }

/-- The command stops, in the list of commands. -/
def Op.stopIn (op : Op) (s : State) (c : Cmd) (st : Status) : State := (op.stop s c st).1.putCmd (op.stop s c st).2

/-- Tables that the command uses for the first time are read and kept, where they are valid (R273). -/
def Cmd.keepTables (s : State) (c : Cmd) (as : List Nat) : Cmd :=
  let new := as.filterMap (fun a =>
    if c.tables.any (fun x => x.1 == a) then none else (s.tableAt (some c.q) [] a).toOption.map (fun b => (a, b)))
  if new.isEmpty then c
  else { c with tables := c.tables ++ new, claim := c.claim.map (fun k => { k with tables := c.tables ++ new }) }

/-- Units are committed in order; those committed before a stop or a wait are kept (R59). -/
def Op.runUnits (op : Op) : List Nat → State → Cmd → State × Cmd × Option Status
  | [], s, c => (s, c, none)
  | k :: ks, s, c =>
    if c.done.contains k then op.runUnits ks s c
    else if !op.ready s c k then (s, c, none)
    else
      let c := c.keepTables s (op.tables s c)
      match op.unit s c k with
      | .error st => (s, c, some st)
      | .ok (t, d) => op.runUnits ks t { d with done := insertNat k d.done, units := d.units + op.weight s c k }

/-- The first of the command's pages whose block has an injected CONTAINED error waiting (R481). -/
def injectedPage (s : State) (ps : List Nat) : Option Nat := ps.find? (fun p => (s.page p).injectNext)

/-- The command's end after its units: its report and status. -/
def Op.close (op : Op) (s : State) (c : Cmd) : State × Cmd :=
  match (releaseWithheld s c).bind (fun t => op.finish t { c with withheld := [] }) with
  | .error st => op.stop s c st
  | .ok (t, d) => (t, { d with phase := .ended })

/-- The next unit not committed. -/
def Op.nextUnit (op : Op) (s : State) (c : Cmd) : Option Nat :=
  (List.range (op.total s c)).find? (fun k => !c.done.contains k)

/-- After units: the command stops with a status, closes when nothing is left, or waits where it is. -/
def Op.settle (op : Op) (r : State × Cmd × Option Status) : State × Cmd :=
  match r.2.2 with
  | some st => op.stop r.1 r.2.1 st
  | none => if (op.nextUnit r.1 r.2.1).isNone then op.close r.1 r.2.1 else (r.1, r.2.1)

/-- The command works on the named units; an injected CONTAINED error that waits in one of its blocks ends it (R481). -/
def Op.runSome (op : Op) (ks : List Nat) (s : State) (c : Cmd) : State × Cmd :=
  match injectedPage s (op.pages s c) with
  | some p => op.quit (s.modPage p (fun h => { h with injectNext := false })) c .checkFail
  | none => op.settle (op.runUnits ks s c)

/-- The command does all its work that is not committed yet and need not wait. (DESIGN CHOICE, log entry 3). -/
def Op.runAll (op : Op) (s : State) (c : Cmd) : State × Cmd := op.runSome (List.range (op.total s c)) s c

/-- One unit only, at a boundary row; the last one closes the command. (DESIGN CHOICE, log entry 3). -/
def Op.runOne (op : Op) (s : State) (c : Cmd) : State × Cmd :=
  op.runSome ((op.nextUnit s c).toList) s c

/-- A started command that `sel` accepts is there, and the module runs: its own row may act on it. -/
def State.runnable (s : State) (q n : Nat) (sel : Cmd → Bool) : Option Cmd :=
  if s.alive && (s.jnl.state == .live || s.jnl.state == .replaying) then
    (s.cmd? q n).bind (fun c => if c.phase = .started ∧ sel c = true ∧ c.noticed = true then some c else none)
  else none

/-- The command's opcode is `code`. -/
def Cmd.isOp (code : Nat) (c : Cmd) : Bool := c.opcode == code

/-- The command's opcode is `code` and its body's OP byte `op`. -/
def Cmd.isSub (code op : Nat) (c : Cmd) : Bool := c.opcode == code && fieldAt c.body 0 1 == op

/-- The row of an opcode: a started command does all its remaining work; without one nothing happens. (DESIGN CHOICE, log entry 1). -/
def runRow (op : Op) (sel : Cmd → Bool) (q n : Nat) (s : State) : State :=
  match s.runnable q n sel with
  | none => s
  | some c => (op.runAll s c).1.putCmd (op.runAll s c).2

/-! ### Work in regions (R24, R435) -/

/-- Commands in flight that hold a place in region `r`. -/
def State.regionLoad (s : State) (r : Nat) : Nat := (s.cmds.filter (fun c => c.dispatched && c.regions.contains r)).length

/-- The changes of the last 2 µs, with one more (log entry 2: 13 quanta of 160 ns cover 2 µs). -/
def recentWatts (now : Nat) (l : List (Nat × Nat)) (w : Nat) : List (Nat × Nat) := l.filter (fun e => decide (now < e.1 + 13)) ++ [(now, w)]

/-- Watts of a list of changes. -/
def sumWatts (l : List (Nat × Nat)) : Nat := (l.map (·.2)).foldl (· + ·) 0

/-- The draw is about to rise: LOAD_NOTICE_UP, and the starting ramps held, when it would rise by more than NOTICE_W within 2 µs
(R430). -/
def State.expectRise (s : State) (watts : Nat) : State :=
  if watts = 0 then s else
  let l := recentWatts s.cycles s.gov.rises watts
  let up := decide (s.gov.noticeW < sumWatts l)
  { s with gov := { s.gov with rises := l, noticeUp := s.gov.noticeUp || up, holding := s.gov.holding || up } }

/-- A planned fall of the draw: LOAD_NOTICE_DN in the same way (R430). -/
def State.expectFall (s : State) (watts : Nat) : State :=
  if watts = 0 then s else
  let l := recentWatts s.cycles s.gov.falls watts
  { s with gov := { s.gov with falls := l, noticeDown := s.gov.noticeDown || decide (s.gov.noticeW < sumWatts l) } }

/-- What one of its regions draws for a command: an even share of its estimate, of which the rules give no formula. -/
def Cmd.share (c : Cmd) : Nat := c.rise / max 1 c.regions.length

/-- The command has work in region `r`: it takes a place there, if one of the 512 is free (R24); the draw rises by its share (R430). -/
def State.joinRegion (s : State) (c : Cmd) (r : Nat) : Option (State × Cmd) :=
  if c.regions.contains r then some (s, c)
  else if s.regionLoad r < 512 then
    (let d := { c with regions := c.regions ++ [r] }
     some ((s.count (pgRegion r) 0x101 1).expectRise d.share, d))
  else none

/-- A block of region `r` works on the command. -/
def Region.worksOn (g : Region) (c : Cmd) : Bool :=
  g.arrays.any (fun u => u.2.run.any (fun w => w.q == c.q && w.n == c.n)) || g.vectors.any (fun u => u.2.users.contains (c.q, c.n)) ||
  g.walk.any (fun w => w.q == c.q && w.n == c.n)

/-- A command that stops in one block of region `r` gives up its place there with the last block that works on it (R24, R96, R459). -/
def State.quitRegion (s : State) (c : Cmd) (r : Nat) : Cmd :=
  if (s.region r).worksOn c then { c with resumed := true } else { c with resumed := true, regions := c.regions.filter (· != r) }

/-- It stops there: a drain or a pre-emption, whose fall is a planned one (R430). -/
def State.quits (s : State) (c : Cmd) (r : Nat) : State :=
  let d := s.quitRegion c r
  if d.regions.contains r then s.putCmd d else (s.putCmd d).expectFall c.share

/-- A command stops at a boundary of which no one region is told: it resumes later. -/
def Cmd.stopped (c : Cmd) (b : Boundary) : Cmd := if c.phase = .started ∧ b.stops = true then { c with resumed := true } else c

/-! ### Work on tower units (R256, R257, R292 to R294) -/

/-- The unit of tower `t` is in service (R292, R485). -/
def State.unitServes (s : State) (t : Nat) : Bool :=
  s.towerFitted t && (s.tower t).unit == .inService && !(s.tower t).failed && !(s.tower t).unitFenced

/-- The tower unit that does the work of data position `p`: that of the tower which holds the whole position, T17 once a rebuild has
given it the position; `none` while the position is missing or the unit is out of service: the work runs on the logic die. -/
def State.unitOf (s : State) (p : Nat) : Option Nat := (s.tow.readAt p stripeCount).filter s.unitServes

/-- The tower unit for the work at a device address of Umber. -/
def State.unitAt (s : State) (a : Nat) : Option Nat := s.unitOf (s.placeOf (a - umberBase)).1

/-- The tower units that do work. -/
def State.towerUnitsIn (s : State) : List Nat := (List.range s.dataTowers).filterMap s.unitOf

/-- The command has work on tower unit `t`: it takes one of its 8 places (R294). -/
def State.joinTower (s : State) (c : Cmd) (t : Nat) : Option (State × Cmd) :=
  if c.towers.contains t then some (s, c)
  else if (s.tower t).cmds.length < 8 then
    some (s.putTower t { s.tower t with cmds := (s.tower t).cmds ++ [(c.q, c.n)] }, { c with towers := c.towers ++ [t] })
  else none

/-- A command that stops on tower unit `t` gives up its place there. -/
def State.quitTower (s : State) (c : Cmd) (t : Nat) : State :=
  (s.putTower t { s.tower t with cmds := (s.tower t).cmds.filter (· != (c.q, c.n)) }).putCmd
    { c with resumed := true, towers := c.towers.filter (· != t) }

/-- The pass slot is one that the throttle level pauses: 16 − n of every 16 run, and the paused ones fall together (R33, R435). -/
def arrayPaused (level slot : Nat) : Bool := decide (16 - level ≤ slot)

/-- The boundary is one that the throttle level pauses: from level 9 on, 24 − n of every 16 run (R435). -/
def unitPaused (level slot : Nat) : Bool := decide (9 ≤ level) && decide (24 - level ≤ slot)

/-! ### Checks at the start (R346, R363, R364) -/

/-- Every range is mapped, in one tier each (R238, R239). -/
def rangesMapped (s : State) (rs : List (Nat × Nat)) : Bool := rs.all (fun r => decide (r.1 + r.2 ≤ 2 ^ 48) && s.mappedRange r.1 r.2)

/-- Every range lies in the window (R363). -/
def rangesInWindow (s : State) (q : Nat) (rs : List (Nat × Nat)) : Bool := rs.all (fun r => s.inWindow q r.1 r.2)

/-- Range pairs of outputs and inputs that overlap (R95, R110). -/
def anyOverlap (outs ins : List (Nat × Nat)) : Bool := outs.any (fun o => ins.any (fun i => overlaps o.1 o.2 i.1 i.2))

/-- Outputs that overlap one another. -/
def selfOverlap : List (Nat × Nat) → Bool
  | [] => false
  | o :: os => anyOverlap [o] os || selfOverlap os

/-- Tensors whose TIER field disagrees with their base (R238). -/
def State.tiersAgree (s : State) (ts : List Tens) : Bool := ts.all s.tierAgrees

/-- A condition that refuses the command when false. -/
def refuseUnless (b : Bool) (rest : Option Status) : Option Status := if b then rest else some .malformed

/-- The body's checks and the ranges', in the order of R346; `none`: the command may run. -/
def Op.startStatus (op : Op) (s : State) (c : Cmd) (bodyRange : List (Nat × Nat)) : Option Status :=
  if op.check s c = some .malformed then some .malformed
  else if !rangesMapped s (op.ranges s c) then some .malformed
  else if !rangesInWindow s c.q (bodyRange ++ op.ranges s c) then some .windowFault
  else op.check s c

/-- A 32-byte report is written at a completion. -/
def writeReport (s : State) (c : Cmd) (on : Bool) (a : Nat) (bs : Bytes) : Except Status (State × Cmd) :=
  if on then commitWrites s c ⟨[(a, bs)], 0⟩ else .ok (s, c)

/-- The report of a command that a status ends before its finish: at LIMIT, and at a status that ends the request once the command
has started, wherever the report can be written; a command that a status stops at its start writes nothing (R346, R364). (DEDUCED, log entry 80). -/
def leaveReport (on : Cmd → Bool) (addr : Cmd → Nat) (bs : State → Cmd → Bytes) (s : State) (c : Cmd) (st : Status) : State × Cmd :=
  if on c && (st == .limit || (st.ends && c.phase == .started)) then
    (match writeReport s c true (addr c) (bs s c) with
     | .ok r => r
     | .error _ => (s, c))
  else (s, c)

/-- What a command had not committed of some ranges becomes undefined (R178, R239). -/
def openRest (s : State) (c : Cmd) (rs : List (Nat × Nat)) : State :=
  (rs.flatMap (fun o => minusRanges o.1 o.2 c.wrote)).foldl (fun t r => t.openRange r.1 r.2) s


end Sys2Proof.Machine
end

