-- ==== Sys2Proof/Machine/Stack.lean ====
section
/-! DEFINITION. The Ochre stack as bytes in memory: heads, entries, reservation, claim, release, and the stack's own
commands (R179 to R208). -/

namespace Sys2Proof.Machine

/-! ### Heads and entries (R180, R183) -/

/-- The fields of a head (R180). -/
structure SHead where
  addr     : Nat
  limit    : Nat
  top      : Nat
  high     : Nat
  entries  : Nat
  marks    : Nat
  owner    : Nat
  state    : Nat
  flags    : Nat
  table    : Nat
  haltSeq  : Nat
  haltNeed : Nat
deriving DecidableEq, Repr

/-- A head from its first 64 bytes. -/
def parseHead (a : Nat) (b : Bytes) : SHead :=
  ⟨a, fieldAt b 0 8, fieldAt b 8 8, fieldAt b 16 8, fieldAt b 24 4, fieldAt b 28 4, fieldAt b 32 4, fieldAt b 36 1,
   fieldAt b 37 1, fieldAt b 40 8, fieldAt b 48 8, fieldAt b 56 8⟩

/-- The first 64 bytes of a head. -/
def SHead.bytes (h : SHead) : Bytes :=
  natBytes 8 h.limit ++ natBytes 8 h.top ++ natBytes 8 h.high ++ natBytes 4 h.entries ++ natBytes 4 h.marks ++
  natBytes 4 h.owner ++ natBytes 1 h.state ++ natBytes 1 h.flags ++ natBytes 2 0 ++ natBytes 8 h.table ++
  natBytes 8 h.haltSeq ++ natBytes 8 h.haltNeed

/-- The head of the stack at `a`. -/
def State.stackHead (s : State) (a : Nat) : Except Status SHead := (s.readBytes a 64).map (parseHead a)

/-- One entry: its offset in the entry space and its header's fields (R183). -/
structure SEntry where
  off     : Nat
  size    : Nat
  seq     : Nat
  claim   : Nat
  tag     : Nat
  kind    : Nat
  fmt     : Nat
  flags   : Nat
  tiles   : Nat
  dataOff : Nat
  sizes   : List Nat
deriving DecidableEq, Repr

/-- An entry from its 64-byte header. -/
def parseEntry (off : Nat) (b : Bytes) : SEntry :=
  ⟨off, fieldAt b 0 8, fieldAt b 8 8, fieldAt b 16 8, fieldAt b 24 4, fieldAt b 28 1, fieldAt b 29 1, fieldAt b 30 1,
   fieldAt b 32 4, fieldAt b 36 4, (List.range 6).map (fun d => fieldAt b (40 + 4 * d) 4)⟩

/-- An entry's header. -/
def SEntry.bytes (e : SEntry) : Bytes :=
  natBytes 8 e.size ++ natBytes 8 e.seq ++ natBytes 8 e.claim ++ natBytes 4 e.tag ++ natBytes 1 e.kind ++ natBytes 1 e.fmt ++
  natBytes 1 e.flags ++ natBytes 1 0 ++ natBytes 4 e.tiles ++ natBytes 4 e.dataOff ++ e.sizes.flatMap (natBytes 4)

/-- ENTRY_FLAGS bits. -/
def SEntry.failed (e : SEntry) : Bool := bitAt e.flags 4
def SEntry.claimed (e : SEntry) : Bool := bitAt e.flags 3
def SEntry.complete (e : SEntry) : Bool := bitAt e.flags 2
def SEntry.hasTiles (e : SEntry) : Bool := bitAt e.flags 1
def SEntry.sepia (e : SEntry) : Bool := bitAt e.flags 0

/-- The device address of an entry. -/
def entryAddr (h : SHead) (off : Nat) : Nat := h.addr + 4096 + off

/-- The entry whose header lies at an offset; a header that cannot be read gives its status (R208). -/
def State.entryAt (s : State) (h : SHead) (off : Nat) : Except Status SEntry := (s.readBytes (entryAddr h off) 64).map (parseEntry off)

/-- The entries from offset `off` up to TOP, lowest first. -/
def entriesFrom (s : State) (h : SHead) : Nat → Nat → Except Status (List SEntry)
  | 0, _ => .ok []
  | f + 1, off =>
    if h.top ≤ off then .ok [] else do
    let e ← s.entryAt h off
    if e.size = 0 then .ok [] else (entriesFrom s h f (off + e.size)).map (e :: ·)

/-- Every entry below TOP. -/
def State.stackEntries (s : State) (h : SHead) : Except Status (List SEntry) := entriesFrom s h (h.top / 64 + 1) 0

/-- An entry is released: it is claimed, and no command that holds the claim, or will find it again at its replay, is left
(R185, R190). -/
def State.released (s : State) (h : SHead) (e : SEntry) : Bool :=
  e.claimed && !s.works.any (fun c => c.phase != .journaled &&
    (c.claim.any (fun k => k.stack == h.addr && k.entry == e.off) || (c.phase == .accepted && c.q == h.owner && c.n == e.claim)))

/-- A head is written. -/
def State.putHead (s : State) (h : SHead) : State := s.storeBytes h.addr h.bytes
/-- An entry's header is written. -/
def State.putEntry (s : State) (h : SHead) (e : SEntry) : State := s.storeBytes (entryAddr h e.off) e.bytes

/-- TOP falls past the released entries at the top (R185); entries that cannot be read leave it where it is. -/
def State.dropReleased (s : State) (h : SHead) : State :=
  match s.stackEntries h with
  | .error _ => s.putHead h
  | .ok es =>
    let live := (es.reverse.dropWhile (s.released h)).reverse
    s.putHead { h with top := match live.getLast? with | none => 0 | some e => e.off + e.size }

/-! ### Stack control in a body (R204) -/

/-- STACK_CTL's fields. -/
structure SCtl where
  sop  : Nat
  fmt  : Nat
  flag : Nat
  rsv  : Nat
  tag  : Nat
  addr : Nat
deriving DecidableEq, Repr

/-- STACK_CTL at a body offset. -/
def Cmd.sctl (c : Cmd) (off : Nat) : SCtl :=
  ⟨c.fld off 1, c.fld (off + 1) 1, c.fld (off + 2) 1, c.fld (off + 3) 1, c.fld (off + 4) 4, c.fld (off + 8) 8⟩

/-- A stack control that uses a stack is in range (R204). -/
def SCtl.ok (k : SCtl) : Bool :=
  (k.fmt == 2 || k.fmt == 3 || k.fmt == 7) && decide (k.flag ≤ 1) && (k.flag == 0 || k.sop == 1) && k.rsv == 0 && k.addr % 4096 == 0

/-- The command names an open stack that its queue owns (R181). -/
def State.stackNamed (s : State) (q a : Nat) : Bool :=
  match s.stackHead a with
  | .ok h => decide (a % 4096 = 0) && decide (h.state ≠ 0) && decide (h.owner = q)
  | .error _ => true

/-- The bytes of a stack (R179). -/
def State.stackRange (s : State) (a : Nat) : Nat × Nat :=
  match s.stackHead a with
  | .ok h => (a, 4096 + h.limit)
  | .error _ => (a, 4096)

/-! ### What starting on a stack gives -/

/-- Starting a command: it goes, it waits where it is, or it stops with a status. -/
inductive Start where
  | go (s : State) (c : Cmd)
  | wait
  | stop (s : State) (st : Status)

/-- What a push reserves: format, flags, tile scale bytes, sizes (R183, R184). -/
structure SNeed where
  kind  : Nat
  fmt   : Nat
  tag   : Nat
  tiles : Nat
  hasTiles : Bool
  sizes : List Nat
deriving DecidableEq, Repr

/-- The dense tensor that an entry's data is (R184), uncoded. -/
def denseTens (base : Nat) (fmt : Fmt) (sizes : List Nat) : Tens :=
  let s0 := nth 1 sizes 0
  let row := if fmt.isBlock then 32 * ceilDiv s0 32 else s0
  let str := (List.range 6).map (fun d => if d = 0 then 1 else row * (List.range (d - 1)).foldl (fun a e => a * nth 1 sizes (e + 1)) 1)
  let rows := (List.range 5).foldl (fun a d => a * nth 1 sizes (d + 1)) 1
  { base := base, fmt := fmt, rank := 6, flags := 0, scaleOff := if fmt.isBlock then alignUp (row * rows) 64 else 0, sizes := sizes, strides := str }

/-- Bytes of the data section before rounding (R184). -/
def entryDataBytes (F : Fmt) (sizes : List Nat) : Nat :=
  let n := sizes.foldl (· * ·) 1
  if F.isBlock then 32 * ceilDiv (nth 1 sizes 0) 32 * (n / max 1 (nth 1 sizes 0)) else n * F.bytes

/-- Bytes of the block-scale section. -/
def entryScaleBytes (F : Fmt) (sizes : List Nat) : Nat := if F.isBlock then entryDataBytes F sizes / 32 else 0

/-- Frames of a Sepia-coded entry (R285). -/
def entryFrames (sizes : List Nat) : Nat := ceilDiv (sizes.foldl (· * ·) 1) 2048

/-- The entry that a need takes at offset `off`: its DATA_OFF and SIZE (R183, R184, R285). -/
def SNeed.entry (n : SNeed) (h : SHead) (off seq : Nat) : SEntry :=
  if n.kind = 2 then ⟨off, 64, seq, 0, n.tag, 2, 0, 0, 0, 0, [0, 0, 0, 0, 0, 0]⟩
  else
    let F := (fmtOf n.fmt).getD .fp32
    let sepia := h.flags % 2 = 1 ∧ n.fmt = 3
    let dataOff := if sepia then alignUp (entryAddr h off + 64 + 32 * entryFrames n.sizes) 4096 - entryAddr h off else 64
    let data := if sepia then 4096 * entryFrames n.sizes else alignUp (entryDataBytes F n.sizes) 64
    let size := dataOff + data + alignUp (entryScaleBytes F n.sizes) 64 + alignUp n.tiles 64
    ⟨off, size, seq, 0, n.tag, 1, n.fmt, bit sepia + 2 * bit n.hasTiles, n.tiles, dataOff, n.sizes⟩

/-- A stack's head and its entries. -/
def State.stackWith (s : State) (a : Nat) : Except Status (SHead × List SEntry) := do
  let h ← s.stackHead a
  let es ← s.stackEntries h
  .ok (h, es)

/-- STACK_RESERVE (R185, R193, R194): an entry with the command's own number is used again; a halted stack refuses; what
does not fit waits for claimed entries at the top, or halts the stack. (DEDUCED, log entry 67). -/
def stackReserve (s : State) (c : Cmd) (a : Nat) (need : SNeed) : Start :=
  match s.stackWith a with
  | .error st => .stop s st
  | .ok (h, es) =>
    match es.find? (fun e => !c.ofStream && e.seq == c.n && !s.released h e) with
    | some e => .go s { c with claim := some { stack := a, entry := e.off, addr := entryAddr h e.off } }
    | none =>
      if h.state = 2 then .stop s .stackFull
      else if h.state = 3 then .stop s .stackMismatch
      else
        let e := need.entry h h.top c.n
        if h.top + e.size ≤ h.limit then
          (let h' := { h with top := h.top + e.size, high := max h.high (h.top + e.size),
                              entries := h.entries + (if need.kind = 1 then 1 else 0), marks := h.marks + (if need.kind = 2 then 1 else 0) }
           .go ((s.putHead h').putEntry h' e) { c with claim := some { stack := a, entry := e.off, addr := entryAddr h e.off }, committed := true, wroteLocal := true })
        else
          let live := es.filter (fun x => !s.released h x)
          let free := match (live.filter (fun x => !x.claimed)).getLast? with | none => 0 | some x => x.off + x.size
          let lastClaimed : Bool := match live.getLast? with | none => false | some x => x.claimed
          let e' := need.entry h free c.n
          if lastClaimed && decide (free + e'.size ≤ h.limit) then .wait
          else .stop (s.putHead { h with state := 2, haltSeq := c.n, haltNeed := e.size }) .stackFull

/-- What a pop requires of the entry (R189). -/
def popFits (e : SEntry) (tag fmt : Nat) (sizes : List Nat) (tiles : Option Nat) : Bool :=
  !e.failed && e.kind == 1 && e.tag == tag && e.fmt == fmt && decide (e.sizes = sizes) &&
  (match tiles with | none => true | some n => !e.hasTiles || e.tiles == n)

/-- A pop claims the topmost entry that is not claimed (R189): it waits while that entry is neither COMPLETE nor FAILED,
and a mismatch halts the stack. -/
def stackClaim (s : State) (c : Cmd) (a : Nat) (fits : SEntry → Bool) : Start :=
  match s.stackWith a with
  | .error st => .stop s st
  | .ok (h, es) =>
    match es.find? (fun e => !c.ofStream && e.claimed && e.claim == c.n && !s.released h e) with
    | some e => .go s { c with claim := some { stack := a, entry := e.off, addr := entryAddr h e.off } }
    | none =>
      if h.state = 2 then .stop s .stackFull
      else if h.state = 3 then .stop s .stackMismatch
      else
        let halt := Start.stop (s.putHead { h with state := 3, haltSeq := c.n }) .stackMismatch
        match (es.filter (fun e => !e.claimed)).getLast? with
        | none => halt
        | some e =>
          if !e.complete && !e.failed then .wait
          else if fits e then
            .go (s.putEntry h { e with claim := c.n, flags := e.flags ||| 8 })
              { c with claim := some { stack := a, entry := e.off, addr := entryAddr h e.off }, committed := true, wroteLocal := true }
          else halt

/-- No command holds a claim any more. -/
def State.dropClaim (s : State) (k : StackClaim) : State :=
  let f := fun (d : Cmd) => if d.claim = some k then { d with claim := none } else d
  { s with cmds := s.cmds.map f, threads := s.threads.map (fun t => { t with running := t.running.map f }) }

/-- What the completion of a command does to the entry it reserved or claimed (R186, R190): COMPLETE or FAILED, and the
claimed entry's space released. A header that cannot be read stays as it is. -/
def stackDone (s : State) (c : Cmd) (ok : Bool) : State :=
  match c.claim with
  | none => s
  | some k =>
    let s := s.dropClaim k
    match (do let h ← s.stackHead k.stack; let e ← s.entryAt h k.entry; .ok (h, e) : Except Status (SHead × SEntry)) with
    | .error _ => s
    | .ok (h, e) =>
      if e.seq = c.n ∧ ¬e.claimed then
        s.putEntry h { e with flags := e.flags ||| (if ok then 4 else 16) }
      else if e.claimed ∧ e.claim = c.n then
        (let h' := { h with entries := h.entries - (if e.kind = 1 then 1 else 0), marks := h.marks - (if e.kind = 2 then 1 else 0) }
         (s.putHead h').dropReleased h')
      else s

/-- A command that changes the head by its own unit: OPEN, CLOSE, CUT, CUT_ALL. -/
def Cmd.setsHead (c : Cmd) : Bool := c.opcode == 0x502 || (c.opcode == 0x501 && (fieldAt c.body 0 1 == 3 || fieldAt c.body 0 1 == 4))

/-- No earlier command of the queue that names the stack has still to start, or to change the head by its unit: what a stack takes
keeps sequence order, one command at a time (R182). -/
def stackTurn (s : State) (c : Cmd) (names : Cmd → Bool) : Bool :=
  !s.cmds.any (fun d => d.q == c.q && decide (d.n < c.n) && !d.refused1 && (d.phase == .accepted || (d.phase == .started && d.setsHead)) && names d)

/-! ### An entry's elements (R184, R285) -/

/-- The table of a Sepia-coded entry. -/
def State.entryTable (s : State) (k : StackClaim) : Except Status Bytes :=
  match s.stackHead k.stack with
  | .error st => .error st
  | .ok h => s.tableAt (some h.owner) k.tables h.table

/-- The entry that a command holds, as its header's bytes have it. -/
def State.heldEntry (s : State) (k : StackClaim) : SEntry := parseEntry k.entry (s.rawBytes k.addr 64)

/-- The header of the entry that a command holds can be read (R208). -/
def State.heldReadable (s : State) (c : Cmd) : Except Status Unit :=
  match c.claim with
  | none => .ok ()
  | some k => (s.readBytes k.addr 64).map (fun _ => ())

/-- The expansion of frame `n` of a Sepia-coded entry. -/
def State.entryFrame (s : State) (k : StackClaim) (n : Nat) : Except Status Expanded := do
  let e := s.heldEntry k
  let at' := k.addr + e.dataOff + 4096 * n
  let tb ← (s.entryTable k).mapError (frameStop at' 0xFFFFFFFF)
  let hdr ← s.readBytes (k.addr + 64 + 32 * n) 32
  let frame ← s.readBytes at' (frameInUse hdr)
  (expandBlock hdr frame (min 2048 (e.sizes.foldl (· * ·) 1 - 2048 * n)) false tb tb (.ok [])).mapError (frameStop at' n)

/-- The table that a command's Sepia-coded entry is coded under. -/
def entryTables (s : State) (c : Cmd) : List Nat :=
  match c.claim with
  | none => []
  | some k => if (s.heldEntry k).sepia then (match s.stackHead k.stack with | .ok h => [h.table] | .error _ => []) else []

/-- The value of element `i` of the entry a command holds. -/
def State.entryElem (s : State) (k : StackClaim) (i : Nat) : Except Status Num :=
  (s.readBytes k.addr 64).bind fun _ =>
  let e := s.heldEntry k
  let F := (fmtOf e.fmt).getD .fp32
  if e.sepia then (s.entryFrame k (i / 2048)).map (fun x => decFloat .bf16 (nth 0 x.elems (i % 2048)))
  else s.elem (denseTens (k.addr + e.dataOff) F e.sizes) i

/-- The address of the entry's tile scale bytes. -/
def entryTileAddr (k : StackClaim) (e : SEntry) : Nat := k.addr + e.size - alignUp e.tiles 64

/-- The entry as a dense tensor to write to; a Sepia entry takes its elements uncoded until it is coded at the end. -/
def State.entryTens (s : State) (k : StackClaim) : Tens :=
  let e := s.heldEntry k
  denseTens (k.addr + e.dataOff) ((fmtOf e.fmt).getD .fp32) e.sizes

/-- The frames of a Sepia entry are coded from the elements its tiles or chunks wrote (R285). -/
def State.codeEntry (s : State) (k : StackClaim) : Except Status State := do
  let e := s.heldEntry k
  if !e.sepia then .ok s else
  let tb ← s.entryTable k
  let count := e.sizes.foldl (· * ·) 1
  (List.range (ceilDiv count 2048)).foldlM (fun t n => do
    let bs ← t.readBytes (k.addr + e.dataOff + 4096 * n) (2 * min 2048 (count - 2048 * n))
    let f := encodeBlock tb none false ((pieces 2 bs).map leNat)
    let t ← t.writeBytes (k.addr + e.dataOff + 4096 * n) (f.frame ++ natBytes (4096 - f.frame.length) 0)
    t.writeBytes (k.addr + 64 + 32 * n) f.header) s

/-! ### STACK_OPEN and STACK_CLOSE (R179, R205) -/

/-- STACK_OPEN's checks. -/
def openCheck (s : State) (c : Cmd) : Option Status :=
  let a := c.fld 8 8
  let lim := c.fld 16 8
  refuseUnless ((c.fld 0 1 == 1 || c.fld 0 1 == 2) && decide (c.fld 1 1 ≤ 1) && c.zero 2 2 && (c.fld 0 1 == 2 || decide (c.fld 4 4 < 2 ^ 18)) && c.zero 32 32) <|
  refuseUnless (a % 4096 == 0 &&
    (c.fld 0 1 == 2 || (lim % 4096 == 0 && decide (65536 ≤ lim) && decide (lim ≤ 2 ^ 40) && decide (s.tierOf a ≠ some .slate)))) <|
  refuseUnless (c.fld 0 1 == 1 || s.stackNamed c.q a) none

/-- STACK_OPEN's ranges. -/
def openRanges (_ : State) (c : Cmd) : List (Nat × Nat) :=
  if c.fld 0 1 = 1 then (c.fld 8 8, 4096 + c.fld 16 8) :: (if c.fld 1 1 = 1 then [(c.fld 24 8, 320)] else [])
  else [(c.fld 8 8, 4096)]

/-- OPEN writes a new head (R205). -/
def openUnit (s : State) (c : Cmd) (_ : Nat) : Except Status (State × Cmd) :=
  let h : SHead := ⟨c.fld 8 8, c.fld 16 8, 0, 0, 0, 0, c.fld 4 4, 1, c.fld 1 1, if c.fld 1 1 = 1 then c.fld 24 8 else 0, 0, 0⟩
  commitWrites s c ⟨[(h.addr, h.bytes ++ natBytes 4032 0)], 0⟩

/-- CLOSE sets the state (R205). -/
def closeUnit (s : State) (c : Cmd) (_ : Nat) : Except Status (State × Cmd) := do
  let h ← s.stackHead (c.fld 8 8)
  commitWrites s c ⟨[(h.addr, { h with state := 0 }.bytes)], 0⟩

/-- A command that ends OK when its units are done. -/
def finishOk (s : State) (c : Cmd) : Except Status (State × Cmd) := .ok (s, { c with status := .ok })

/-- STACK_OPEN and STACK_CLOSE. -/
def stackOpenOp : Op :=
  { check := openCheck, ranges := openRanges, total := fun _ _ => 1,
    unit := fun s c k => if c.fld 0 1 = 1 then openUnit s c k else closeUnit s c k,
    finish := finishOk, outs := fun _ _ => [], pages := fun _ _ => [] }

/-- Some command in flight holds a reservation or claim on the stack at or above an offset. -/
def State.stackHeld (s : State) (a off : Nat) (c : Cmd) : Bool :=
  s.cmds.any (fun d => !(d.q == c.q && d.n == c.n) && decide (d.phase ≠ .journaled) &&
    (match d.claim with | some k => k.stack == a && decide (off ≤ k.entry) | none => false))

/-- STACK_OPEN (R179, R205). -/
def execStackOpen (q n : Nat) (s : State) : Host.Outcome State Fault Refusal := .next (runRow stackOpenOp (Cmd.isSub 0x502 1) q n s)

/-- STACK_CLOSE (R205): it waits until no reservation or claim on the stack is in flight. -/
def execStackClose (q n : Nat) (s : State) : Host.Outcome State Fault Refusal :=
  .next (match s.runnable q n (Cmd.isSub 0x502 2) with
    | none => s
    | some c => if s.stackHeld (c.fld 8 8) 0 c then s else runRow stackOpenOp (Cmd.isSub 0x502 2) q n s)

/-! ### STACK_MARK (R192, R206) -/

/-- STACK_MARK's checks. -/
def markCheck (s : State) (c : Cmd) : Option Status :=
  refuseUnless (decide (1 ≤ c.fld 0 1) && decide (c.fld 0 1 ≤ 4) && c.zero 1 3 && c.zero 16 48 && c.fld 8 8 % 4096 == 0 &&
    s.stackNamed c.q (c.fld 8 8)) none

/-- The topmost mark that CUT finds: not claimed, with the MARK_ID (R192). -/
def cutMark (es : List SEntry) (id : Nat) : Option SEntry :=
  (es.filter (fun e => e.kind == 2 && e.tag == id && !e.claimed)).getLast?

/-- Entries below an offset stay, everything above is released (R192). -/
def cutTo (s : State) (c : Cmd) (h : SHead) (es : List SEntry) (off : Nat) : Except Status (State × Cmd) :=
  let live := es.filter (fun e => decide (e.off < off) && !s.released h e)
  let h' := { h with top := off, state := 1, entries := (live.filter (fun e => e.kind == 1)).length,
                     marks := (live.filter (fun e => e.kind == 2)).length }
  match commitWrites s c ⟨[(h.addr, h'.bytes)], 0⟩ with
  | .error st => .error st
  | .ok (t, d) => .ok (t.dropReleased h', d)

/-- STACK_MARK's one unit: PLACE and POP did their work when they started. -/
def markUnit (s : State) (c : Cmd) (_ : Nat) : Except Status (State × Cmd) :=
  match s.stackWith (c.fld 8 8) with
  | .error st => .error st
  | .ok (h, es) =>
    if c.fld 0 1 = 3 then
      (match cutMark es (c.fld 4 4) with
       | none => .error .stackMismatch
       | some e => cutTo s c h es e.off)
    else if c.fld 0 1 = 4 then cutTo s c h (es.filter (fun e => decide (e.off < 0))) 0
    else .ok (s, c)

/-- STACK_MARK. -/
def stackMarkOp : Op :=
  { check := markCheck, ranges := fun s c => [s.stackRange (c.fld 8 8)], total := fun _ _ => 1, unit := markUnit,
    finish := finishOk, outs := fun _ _ => [], pages := fun _ _ => [] }

/-- A mark's start: PLACE reserves, POP claims (R192). -/
def markStart (s : State) (c : Cmd) : Start :=
  if c.fld 0 1 = 1 then stackReserve s c (c.fld 8 8) ⟨2, 0, c.fld 4 4, 0, false, [1, 1, 1, 1, 1, 1]⟩
  else if c.fld 0 1 = 2 then stackClaim s c (c.fld 8 8) (fun e => e.kind == 2 && e.tag == c.fld 4 4)
  else .go s c

/-- STACK_MARK PLACE. -/
def execStackMarkPlace (q n : Nat) (s : State) : Host.Outcome State Fault Refusal := .next (runRow stackMarkOp (Cmd.isSub 0x501 1) q n s)
/-- STACK_MARK POP. -/
def execStackMarkPop (q n : Nat) (s : State) : Host.Outcome State Fault Refusal := .next (runRow stackMarkOp (Cmd.isSub 0x501 2) q n s)

/-- The offset above which CUT waits for holders. -/
def cutOffset (s : State) (c : Cmd) : Nat :=
  if c.fld 0 1 = 4 then 0 else
  match s.stackWith (c.fld 8 8) with
  | .error _ => 0
  | .ok (h, es) => match cutMark es (c.fld 4 4) with | none => h.limit | some e => e.off

/-- STACK_MARK CUT (R192): it waits for every holder above the mark. -/
def execStackMarkCut (q n : Nat) (s : State) : Host.Outcome State Fault Refusal :=
  .next (match s.runnable q n (Cmd.isSub 0x501 3) with
    | none => s
    | some c => if s.stackHeld (c.fld 8 8) (cutOffset s c) c then s else runRow stackMarkOp (Cmd.isSub 0x501 3) q n s)

/-- STACK_MARK CUT_ALL. -/
def execStackMarkCutAll (q n : Nat) (s : State) : Host.Outcome State Fault Refusal :=
  .next (match s.runnable q n (Cmd.isSub 0x501 4) with
    | none => s
    | some c => if s.stackHeld (c.fld 8 8) 0 c then s else runRow stackMarkOp (Cmd.isSub 0x501 4) q n s)

/-! ### STACK_PUSH and STACK_POP (R188, R191, R207) -/

/-- STACK_PUSH's checks. -/
def pushCheck (s : State) (c : Cmd) : Option Status :=
  let k := c.sctl 64
  match c.tens 0 with
  | none => some .malformed
  | some t =>
    refuseUnless (k.sop == 1 && k.ok && c.zero 84 44 && t.comp == 0 && s.tierAgrees t && s.stackNamed c.q k.addr &&
      !anyOverlap [s.stackRange k.addr] [t.range]) <|
    if k.flag = 1 ∧ 2 ^ 48 ≤ t.count then some .limit else none

/-- STACK_POP's checks. -/
def popCheck (s : State) (c : Cmd) : Option Status :=
  let k := c.sctl 64
  match c.tens 0 with
  | none => some .malformed
  | some t =>
    refuseUnless (k.sop == 4 && k.ok && c.zero 80 8 && c.zero 96 32 && t.comp == 0 && s.tierAgrees t && decide (fmtOf k.fmt = some t.fmt) &&
      s.stackNamed c.q k.addr && !anyOverlap [s.stackRange k.addr] [t.range]) none

/-- A push's chunks: at most 1 MiB of entry data, whole blocks with their scales in a block format (R207). -/
def pushCut (c : Cmd) (t : Tens) : Cut :=
  let F := (fmtOf (c.sctl 64).fmt).getD .fp32
  cutOf t.count (t.size 0) (if F.isBlock then 2 ^ 20 / 33 * 32 else 2 ^ 20 / F.bytes) F.isBlock

/-- One chunk of a push (R188). -/
def pushUnit (s : State) (c : Cmd) (j : Nat) : Except Status (State × Cmd) :=
  match c.tens 0, c.claim with
  | some t, some k => do
    s.heldReadable c
    let ctl := c.sctl 64
    let ch := (pushCut c t).chunk j
    let xs ← s.elems t ((List.range ch.2).map (fun i => ch.1 + i))
    commitWrites s c (packRun (s.entryTens k) (s.draw c (ctl.flag == 1) ctl.tag (c.fld 80 4) 0x500) ch.1 xs)
  | _, _ => .error .malformed

/-- A push ends: a Sepia entry is coded. -/
def pushFinish (s : State) (c : Cmd) : Except Status (State × Cmd) :=
  match c.claim with
  | none => finishOk s c
  | some k =>
    match s.codeEntry k with
    | .error st => .error st
    | .ok t => .ok (t, { c with status := .ok })

/-- STACK_PUSH. -/
def stackPushOp : Op :=
  { check := pushCheck,
    ranges := fun s c => s.stackRange (c.sctl 64).addr :: ((c.tens 0).map (fun t => [t.range])).getD [],
    total := fun _ c => ((c.tens 0).map (fun t => (pushCut c t).units)).getD 0,
    unit := pushUnit, finish := pushFinish, outs := fun _ _ => [], tables := entryTables,
    pages := fun s _ => s.regionsIn.flatMap (fun r => [pgVector r 0, pgVector r 1]) }

/-- STACK_PUSH's start: it reserves its entry. -/
def pushStart (s : State) (c : Cmd) : Start :=
  let k := c.sctl 64
  match c.tens 0 with
  | none => .go s c
  | some t => stackReserve s c k.addr ⟨1, k.fmt, k.tag, 0, false, t.sizes⟩

/-- STACK_POP's start: it claims; tile scales that would go into the stack refuse it (R181). -/
def popStart (s : State) (c : Cmd) : Start :=
  let k := c.sctl 64
  match c.tens 0 with
  | none => .go s c
  | some t =>
    match stackClaim s c k.addr (fun e => popFits e k.tag k.fmt t.sizes none) with
    | .go u d =>
      let e := (d.claim.map u.heldEntry).filter (·.hasTiles)
      if (e.map (fun e => anyOverlap [s.stackRange k.addr] [(c.fld 88 8, e.tiles)])).getD false then .stop s .malformed else .go u d
    | r => r

/-- STACK_POP's one unit: it reads its entry whole and copies it into DST, bit for bit (R37, R191, R207). -/
def popUnit (s : State) (c : Cmd) (_ : Nat) : Except Status (State × Cmd) :=
  match c.tens 0, c.claim with
  | some t, some k => do
    s.heldReadable c
    let e := s.heldEntry k
    let src := s.entryTens k
    let codes ← (List.range t.count).mapM (fun i =>
      if e.sepia then (s.entryFrame k (i / 2048)).map (fun x => nth 0 x.elems (i % 2048))
      else s.elemCode src (src.indices i))
    let scales ← (if t.fmt.isBlock then
        (List.range (t.rowBlocks * t.rows)).mapM (fun b => (s.readBytes (src.base + src.scaleOff + b) 1).map (fun x => (t.base + t.scaleOff + b, x)))
      else .ok [])
    let tiles ← (if e.hasTiles then (s.readBytes (entryTileAddr k e) e.tiles).map (fun b => [(c.fld 88 8, b)]) else .ok [])
    let pad := if t.fmt.isBlock ∧ t.size 0 % 32 ≠ 0 then
        (List.range t.rows).map (fun r => (t.addrOf (t.indices (r * t.size 0 + t.size 0 - 1)) + 1, natBytes (32 - t.size 0 % 32) 0)) else []
    match (if e.hasTiles then s.dynRefusal c.q (c.fld 88 8) e.tiles else none) with
    | some st => .error st
    | none =>
      commitWrites s c ⟨codes.zipIdx.map (fun x => (t.addrOf (t.indices x.2), natBytes t.fmt.bytes x.1)) ++ pad ++ scales ++ tiles, 0⟩
  | _, _ => .error .malformed

/-- STACK_POP. -/
def stackPopOp : Op :=
  { check := popCheck,
    ranges := fun s c => s.stackRange (c.sctl 64).addr :: ((c.tens 0).map (fun t => [t.range])).getD [],
    total := fun _ _ => 1, unit := popUnit, finish := finishOk,
    outs := fun _ c => ((c.tens 0).map (fun t => [t.range])).getD [], pages := fun _ _ => [], tables := entryTables }

/-- STACK_PUSH (R188). -/
def execStackPush (q n : Nat) (s : State) : Host.Outcome State Fault Refusal := .next (runRow stackPushOp (Cmd.isOp 0x503) q n s)
/-- STACK_POP (R191). -/
def execStackPop (q n : Nat) (s : State) : Host.Outcome State Fault Refusal := .next (runRow stackPopOp (Cmd.isOp 0x504) q n s)

end Sys2Proof.Machine
end

