-- ==== Sys2Proof/Machine/Kv.lean ====
section
/-! DEFINITION. The paged KV cache: pools, sequence tables, KV_POOL, KV_APPEND, KV_TRUNCATE, BUCKET_SORT, generations and the
release of deferred pages (R140 to R155, R162 to R164). -/

namespace Sys2Proof.Machine

/-! ### Pools (R141, R142, R146, R153) -/

/-- Pool `p`. -/
def State.pool (s : State) (p : Nat) : Pool := tabGet {} s.pools p
/-- Pool `p` replaced. -/
def State.putPool (s : State) (p : Nat) (x : Pool) : State := { s with pools := tabSet {} s.pools p x }
/-- Bytes of one page. -/
def Pool.pageBytes (x : Pool) : Nat := 256 * x.headDim
/-- The pool's pages in memory. -/
def Pool.range (x : Pool) : Nat × Nat := (x.base, x.capacity * x.pageBytes)
/-- The pool state table (R146). -/
def Pool.stateRange (x : Pool) : Nat × Nat := (x.stateAddr, 64 + 8 * x.capacity)
/-- Page `i` is deferred. -/
def Pool.isDeferred (x : Pool) (i : Nat) : Bool := x.deferred.any (fun d => d.1 == i)
/-- Page `i` is linked. -/
def Pool.isLinked (x : Pool) (i : Nat) : Bool := tabGet false x.linked i
/-- The free set: free pages and deferred pages (R150). -/
def Pool.freeSet (x : Pool) : Nat := x.active - x.linked.length
/-- Free pages that are not deferred. -/
def Pool.free (x : Pool) : Nat := x.freeSet - x.deferred.length

/-- The lowest `k` page indices of the free set from index `i` on (fuel: the active pages left). -/
def lowestFree (x : Pool) : Nat → Nat → Nat → List Nat
  | _, 0, _ => []
  | 0, _, _ => []
  | f + 1, k + 1, i => if x.isLinked i then lowestFree x f (k + 1) (i + 1) else i :: lowestFree x f k (i + 1)

/-- The pages that the next allocation of `k` pages takes (R150). -/
def Pool.lowest (x : Pool) (k : Nat) : List Nat := lowestFree x x.active k 0

/-- Live pools with their numbers. -/
def State.livePools (s : State) : List (Nat × Pool) := s.pools.filter (fun p => p.2.live)

/-- The pool state table is the module's own: its bytes are open after every change. (DESIGN CHOICE, log entry 15). -/
def State.touchPool (s : State) (p : Nat) : State := s.openRange (s.pool p).stateRange.1 (s.pool p).stateRange.2

/-- `g` is below `t` modulo 2^32 (R153). -/
def genBelow (g t : Nat) : Bool := decide ((t + 2 ^ 32 - g) % 2 ^ 32 ≠ 0) && decide ((t + 2 ^ 32 - g) % 2 ^ 32 < 2 ^ 31)

/-- The command runs: it holds its latches and its claims. -/
def Cmd.running (c : Cmd) : Bool := decide (c.phase = .started) || decide (c.phase = .ended)

/-- Some running command holds a latch of pool `p` below `t`. -/
def State.latchedBelow (s : State) (p t : Nat) : Bool :=
  s.works.any (fun c => c.running && c.latches.any (fun l => l.1 == p && genBelow l.2 t))

/-- PAGE_RELEASE (R153): deferred pages that no latch can reach become free. -/
def State.releasePages (s : State) : State :=
  s.pools.foldl (fun t p =>
    let keep := p.2.deferred.filter (fun d => s.latchedBelow p.1 d.2)
    if keep.length = p.2.deferred.length then t
    else (t.putPool p.1 { p.2 with deferred := keep }).touchPool p.1) s

/-- A command latches the generation of every pool at its start (R153). -/
def latchStart (s : State) (c : Cmd) : Start := .go s { c with latches := s.livePools.map (fun p => (p.1, p.2.gen)) }

/-! ### KV_POOL (R146) -/

/-- The pool a KV_POOL body names. -/
def kpPool (c : Cmd) : Nat := c.fld 1 1

/-- The pool that INIT makes. -/
def kpNew (c : Cmd) : Pool :=
  { live := true, format := c.fld 2 1, headDim := c.fld 4 2, base := c.fld 8 8, capacity := c.fld 16 4, active := c.fld 20 4,
    owner := c.fld 24 4, stateAddr := c.fld 32 8, gen := 0 }

/-- INIT's checks (R141, R142, R146). -/
def kpInitOk (s : State) (c : Cmd) : Bool :=
  let x := kpNew c
  !(s.pool (kpPool c)).live && (x.format == 3 || x.format == 4) && (x.headDim == 64 || x.headDim == 128 || x.headDim == 256) &&
  x.base % x.pageBytes == 0 && decide (1 ≤ x.capacity) && decide (x.capacity ≤ 2 ^ 24) && decide (x.active ≤ x.capacity) &&
  decide (x.owner < 2 ^ 18) && x.stateAddr % 64 == 0 && decide (s.tierOf x.base ≠ some .slate) &&
  !anyOverlap [x.range] (x.stateRange :: s.livePools.flatMap (fun p => [p.2.range, p.2.stateRange])) &&
  !anyOverlap [x.stateRange] (s.livePools.map (fun p => p.2.range))

/-- KV_POOL's checks; the others than INIT come from the pool's owner queue (R145). (DEDUCED, log entry 66). -/
def kpCheck (s : State) (c : Cmd) : Option Status :=
  refuseUnless (decide (1 ≤ c.fld 0 1) && decide (c.fld 0 1 ≤ 4) && decide (kpPool c < 16) && c.zero 3 1 && c.zero 6 2 && c.zero 28 4 && c.zero 48 16) <|
  if c.fld 0 1 = 1 then refuseUnless (kpInitOk s c) none
  else refuseUnless ((s.pool (kpPool c)).live && (s.pool (kpPool c)).owner == c.q && (c.fld 0 1 != 3 || c.fld 40 8 % 32 == 0)) none

/-- KV_POOL's ranges. -/
def kpRanges (_ : State) (c : Cmd) : List (Nat × Nat) :=
  if c.fld 0 1 = 1 then [(kpNew c).range, (kpNew c).stateRange] else if c.fld 0 1 = 3 then [(c.fld 40 8, 32)] else []

/-- The oldest generation of pool `p` that a running command latches. -/
def State.oldestLatch (s : State) (p : Nat) : Option Nat :=
  (s.works.flatMap (fun c => if c.running then c.latches.filter (fun l => l.1 == p) else [])).foldl
    (fun a l => match a with | none => some l.2 | some g => if genBelow l.2 g then some l.2 else some g) none

/-- KV_POOL's one unit; a pool that has been made live, or retired, since the command started refuses it. Its LIMIT is count 0. -/
def kpUnit (s : State) (c : Cmd) (_ : Nat) : Except Status (State × Cmd) :=
  let p := kpPool c
  let x := s.pool p
  if (kpCheck s c).isSome then .error .malformed else
  match c.fld 0 1 with
  | 1 => .ok ((s.putPool p (kpNew c)).touchPool p, { c with committed := true, wroteLocal := true })
  | 2 =>
    if x.capacity < x.active + c.fld 20 4 then .ok (s, c.addCnt 0 1)
    else .ok ((s.putPool p { x with active := x.active + c.fld 20 4 }).touchPool p, { c with committed := true, wroteLocal := true })
  | 3 => do
    let r ← commitWrites s c ⟨[(c.fld 40 8, natBytes 4 x.free ++ natBytes 4 x.deferred.length ++ natBytes 4 x.linked.length ++
      natBytes 4 x.active ++ natBytes 4 x.gen ++ natBytes 4 ((s.oldestLatch p).getD 0) ++ natBytes 8 0)], 0⟩
    .ok (if (s.oldestLatch p).isNone then r.1.openRange (c.fld 40 8 + 20) 4 else r.1, r.2)
  | _ =>
    if 0 < x.linked.length + x.deferred.length then .ok (s, c.addCnt 0 1)
    else .ok (s.putPool p { x with live := false }, { c with committed := true, wroteLocal := true })

/-- KV_POOL's end: LIMIT where it changed nothing. -/
def kpFinish (s : State) (c : Cmd) : Except Status (State × Cmd) := .ok (s, { c with status := if 0 < c.cnt 0 then .limit else .ok })

/-! ### Sequence tables (R143) -/

/-- A sequence table's header. -/
structure SeqHdr where
  addr   : Nat
  layers : Nat
  groups : Nat
  pool   : Nat
  ptCap  : Nat
deriving DecidableEq, Repr

/-- The header at `a`; one outside its ranges is a table mismatch. -/
def State.seqHdr (s : State) (q a : Nat) : Except Status SeqHdr := do
  let b ← s.dynRead q a 64
  let h : SeqHdr := ⟨a, fieldAt b 0 4, fieldAt b 4 2, fieldAt b 6 1, fieldAt b 8 4⟩
  if decide (1 ≤ h.layers) && decide (h.layers ≤ 65535) && decide (1 ≤ h.groups) && decide (h.groups ≤ 256) && decide (h.pool < 16) &&
     decide (1 ≤ h.ptCap) && decide (h.ptCap ≤ 16384) && zeroAt b 7 1 && zeroAt b 12 52 && a % 64 == 0 then .ok h else .error .kvTableMismatch

/-- The address of row (layer, group), and of its entry for logical page `p`. -/
def SeqHdr.row (h : SeqHdr) (layer group : Nat) : Nat := h.addr + 64 + (layer * h.groups + group) * 8 * (h.ptCap + 1)
def SeqHdr.entry (h : SeqHdr) (layer group p : Nat) : Nat := h.row layer group + 8 * (p + 1)
/-- The whole table. -/
def SeqHdr.range (h : SeqHdr) : Nat × Nat := (h.addr, 64 + h.layers * h.groups * 8 * (h.ptCap + 1))

/-- TOKENS of a row. -/
def State.rowTokens (s : State) (q : Nat) (h : SeqHdr) (layer group : Nat) : Except Status Nat :=
  (s.dynRead q (h.row layer group) 8).map (fun b => leNat (b.take 4))

/-- An entry of a row. -/
def State.rowEntry (s : State) (q : Nat) (h : SeqHdr) (layer group p : Nat) : Except Status Nat :=
  (s.dynRead q (h.entry layer group p) 8).map leNat

/-- VALID, and the page that an entry names when it lies in the pool and its active set (R141, R155). -/
def entryValid (e : Nat) : Bool := bitAt e 0
def entryPage (pool : Nat) (x : Pool) (e : Nat) : Option Nat :=
  let page := e / 2 ^ 32
  if entryValid e ∧ page / 2 ^ 28 = pool ∧ page / 2 ^ 24 % 16 = 0 ∧ page % 2 ^ 24 < x.active then some (page % 2 ^ 24) else none

/-- The entry that links page `i` of pool `p`. -/
def mkEntry (p i : Nat) : Nat := (p * 2 ^ 28 + i) * 2 ^ 32 + 1

/-! ### KV_APPEND (R147 to R151) -/

/-- A status that ends it is recorded at the walker (R25, R27, R178). -/
def walkerBlame (s : State) (c : Cmd) (st : Status) : State := s.noteStop (pgWalker (s.homeRegion c)) st

/-- One entry of KV_APPEND's list. -/
structure AppEntry where
  seq    : Nat
  row    : Nat
  expect : Nat
  count  : Nat
deriving DecidableEq, Repr

/-- The list. -/
def State.appList (s : State) (c : Cmd) : Except Status (List AppEntry × Bool) :=
  (s.dynRead c.q (c.fld 64 8) (32 * c.fld 72 4)).map (fun b =>
    ((pieces 32 b).map (fun e => (⟨fieldAt e 0 8, fieldAt e 8 4, fieldAt e 12 4, fieldAt e 16 4⟩ : AppEntry)),
     (pieces 32 b).all (fun e => zeroAt e 20 12)))

/-! ### The order of allocations and releases (R145, R150) -/

/-- A command with its body; one that has not started, with its body as memory holds it now. -/
def State.kvBody (s : State) (c : Cmd) : Cmd := if c.body.isEmpty then { c with body := s.rawBytes c.bodyAddr 128 } else c

/-- The pools that a command allocates from or releases to. -/
def kvPools (s : State) (c : Cmd) : List Nat :=
  let poolAt (a : Nat) : List Nat := match s.seqHdr c.q a with | .ok h => [h.pool] | .error _ => []
  if c.opcode = 0x406 then (if c.fld 0 1 = 3 then [] else [kpPool c])
  else if c.opcode = 0x405 then poolAt (c.fld 0 8)
  else if c.opcode = 0x403 then (match s.appList c with | .ok l => l.1.flatMap (fun e => poolAt e.seq) | .error _ => [])
  else []

/-- No earlier command of the queue has still to allocate from, or release to, a pool of this one. -/
def kvTurn (s : State) (c : Cmd) : Bool :=
  let mine := kvPools s c
  !s.cmds.any (fun d => d.q == c.q && decide (d.n < c.n) && !d.refused1 && (d.phase == .accepted || d.phase == .started) &&
    (kvPools s (s.kvBody d)).any mine.contains)

/-- KV_POOL. -/
def kvPoolOp : Op :=
  { check := kpCheck, ranges := kpRanges, total := fun _ _ => 1, unit := kpUnit, finish := kpFinish,
    outs := fun _ c => if c.fld 0 1 = 3 then [(c.fld 40 8, 32)] else [], pages := fun _ _ => [], ready := fun s c _ => kvTurn s c }

/-- KV_POOL INIT (R146). -/
def execKvPoolInit (q n : Nat) (s : State) : Host.Outcome State Fault Refusal := .next (runRow kvPoolOp (Cmd.isSub 0x406 1) q n s)
/-- KV_POOL GROW. -/
def execKvPoolGrow (q n : Nat) (s : State) : Host.Outcome State Fault Refusal := .next (runRow kvPoolOp (Cmd.isSub 0x406 2) q n s)
/-- KV_POOL STATUS. -/
def execKvPoolStatus (q n : Nat) (s : State) : Host.Outcome State Fault Refusal := .next (runRow kvPoolOp (Cmd.isSub 0x406 3) q n s)
/-- KV_POOL RETIRE. -/
def execKvPoolRetire (q n : Nat) (s : State) : Host.Outcome State Fault Refusal := .next (runRow kvPoolOp (Cmd.isSub 0x406 4) q n s)

/-- TOKENS of every row of a layer. -/
def State.layerTokens (s : State) (q : Nat) (h : SeqHdr) (layer : Nat) : Except Status (List Nat) :=
  (List.range h.groups).mapM (fun g => s.rowTokens q h layer g)

/-- What is wrong with one listed table (R148): refused, mismatched, at its limit, or nothing. -/
def appEntryCheck (s : State) (c : Cmd) (t : Tens) (e : AppEntry) : Except Status (Option Status) := do
  let h ← s.seqHdr c.q e.seq
  let x := s.pool h.pool
  if !(x.live && x.owner == c.q && t.size 0 == x.headDim && t.size 1 == h.groups && decide (1 ≤ e.count) && decide (e.row + e.count ≤ t.size 3) && e.seq % 64 == 0)
  then .ok (some .malformed)
  else if h.layers ≤ c.fld 76 2 then .ok (some .kvTableMismatch)
  else do
    let ts ← s.layerTokens c.q h (c.fld 76 2)
    if ts.any (fun k => decide (k < e.expect) || decide (e.expect + e.count < k) || decide (k ≠ ts.headD 0)) then .ok (some .kvTableMismatch)
    else if 64 * h.ptCap < e.expect + e.count then .ok (some .limit)
    else .ok none

/-- KV_APPEND's checks: every refusal before every mismatch, every mismatch before LIMIT (R148, R178). -/
def appCheck (s : State) (c : Cmd) : Option Status :=
  match c.tens 0 with
  | none => some .malformed
  | some t =>
    refuseUnless (t.rank == 4 && t.size 2 == 2 && t.comp == 0 && !t.fmt.isInt && !t.fmt.isBlock && s.tierAgrees t &&
      c.fld 64 8 % 32 == 0 && decide (1 ≤ c.fld 72 4) && decide (c.fld 72 4 ≤ 65536) && decide (c.fld 78 1 < 2) && c.zero 79 1 &&
      c.fld 88 8 % 32 == 0 && c.zero 96 32) <|
    match s.appList c with
    | .error st => some st
    | .ok (es, clean) =>
      refuseUnless clean <|
      match es.mapM (appEntryCheck s c t) with
      | .error st => some st
      | .ok rs =>
        if rs.contains (some .malformed) then some .malformed
        else if rs.contains (some .kvTableMismatch) then some .kvTableMismatch
        else if rs.contains (some .limit) ∨ (c.fld 78 1 = 1 ∧ 2 ^ 48 ≤ t.count) then some .limit
        else none

/-- Logical pages that an entry touches. -/
def AppEntry.pages (e : AppEntry) : List Nat :=
  (List.range ((e.expect + e.count - 1) / 64 + 1 - e.expect / 64)).map (e.expect / 64 + ·)

/-- The units: entry index, entry, logical page. -/
def appUnits (es : List AppEntry) : List (Nat × AppEntry × Nat) := es.zipIdx.flatMap (fun e => e.1.pages.map (fun p => (e.2, e.1, p)))

/-- The units of a command. -/
def State.appUnitsOf (s : State) (c : Cmd) : List (Nat × AppEntry × Nat) :=
  match s.appList c with
  | .ok (es, _) => appUnits es
  | .error _ => []

/-- What one unit has to do: the header, the current TOKENS, and the groups whose entry is not valid yet. -/
structure AppNeed where
  hdr    : SeqHdr
  tokens : Nat
  first  : Nat
  stop   : Nat
  bare   : List Nat
deriving DecidableEq, Repr

/-- The need of a unit; positions `first` to `stop` − 1 are still to be written (R149). -/
def appNeed (s : State) (c : Cmd) (e : AppEntry) (p : Nat) : Except Status AppNeed := do
  let h ← s.seqHdr c.q e.seq
  let t ← s.rowTokens c.q h (c.fld 76 2) 0
  let bare ← (List.range h.groups).filterM (fun g => (s.rowEntry c.q h (c.fld 76 2) g p).map (fun x => !entryValid x))
  .ok ⟨h, t, max t (64 * p), min (e.expect + e.count) (64 * (p + 1)), bare⟩

/-- Count 0: the stopping entry's index plus 1. Count 1: its TOKENS. Count 2: pages allocated. -/
def appStopped (c : Cmd) : Bool := decide (0 < c.cnt 0)

/-- It is the command's turn, and the allocation takes only pages that are not deferred any more (R145, R150). -/
def appReady (s : State) (c : Cmd) (k : Nat) : Bool :=
  kvTurn s c &&
  match (s.appUnitsOf c)[k]? with
  | none => true
  | some (_, e, p) =>
    match appNeed s c e p with
    | .error _ => true
    | .ok w =>
      let x := s.pool w.hdr.pool
      appStopped c || decide (w.stop ≤ w.first) || decide (x.freeSet < w.bare.length) || !(x.lowest w.bare.length).any x.isDeferred

/-- The elements of one position for one group, converted (R147). -/
def appSlot (s : State) (c : Cmd) (t : Tens) (x : Pool) (e : AppEntry) (page g pos kv : Nat) : Except Status Packed := do
  let F := (fmtOf x.format).getD .bf16
  let d := s.draw c (c.fld 78 1 == 1) (c.fld 80 4) (c.fld 84 4) (0x900 + kv)
  let is := (List.range x.headDim).map (fun i => t.logical [i, g, kv, e.row + (pos - e.expect), 0, 0])
  let vs ← s.elems t is
  let es := (is.zip vs).map (fun p => encElem F (d.mode p.1) p.2)
  .ok ⟨[(x.base + page * x.pageBytes + kv * 128 * x.headDim + pos % 64 * x.headDim * 2, es.flatMap (fun y => natBytes 2 y.code))], (es.map (·.sat)).sum⟩

/-- One unit: pages allocated, data, entries and then TOKENS written; or the stop of R151. -/
def appUnit (s : State) (c : Cmd) (k : Nat) : Except Status (State × Cmd) :=
  match c.tens 0, (s.appUnitsOf c)[k]? with
  | some t, some (i, e, p) =>
    if appStopped c then .ok (s, c) else do
    let w ← appNeed s c e p
    if w.stop ≤ w.first then .ok (s, c) else
    let x := s.pool w.hdr.pool
    if x.freeSet < w.bare.length then .ok (s, (c.addCnt 0 (i + 1)).addCnt 1 w.tokens)
    else do
      let layer := c.fld 76 2
      let take := x.lowest w.bare.length
      let fresh := w.bare.zip take
      let x' := { x with linked := take.foldl (fun l j => tabSet false l j true) x.linked }
      let pages ← (List.range w.hdr.groups).mapM (fun g => match fresh.find? (fun f => f.1 == g) with
        | some f => .ok f.2
        | none => (s.rowEntry c.q w.hdr layer g p).bind (fun v => match entryPage w.hdr.pool x v with | some j => .ok j | none => .error .kvBadPage))
      let data ← (List.range w.hdr.groups).mapM (fun g => (List.range (w.stop - w.first)).mapM (fun o => do
        let a ← appSlot s c t x e (nth 0 pages g) g (w.first + o) 0
        let b ← appSlot s c t x e (nth 0 pages g) g (w.first + o) 1
        .ok (a.append b)))
      let ents := fresh.map (fun f => (w.hdr.entry layer f.1 p, natBytes 8 (mkEntry w.hdr.pool f.2)))
      let toks := (List.range w.hdr.groups).map (fun g => (w.hdr.row layer g, natBytes 4 w.stop))
      let packed := ((data.flatten).foldl Packed.append {}).append ⟨ents ++ toks, 0⟩
      match packed.writes.findSome? (fun v => s.dynRefusal c.q v.1 v.2.length) with
      | some st => .error st
      | none => do
        let r ← commitWrites s c packed
        .ok ((if take.isEmpty then r.1 else (r.1.putPool w.hdr.pool x').touchPool w.hdr.pool), r.2.addCnt 2 take.length)
  | _, _ => .error .malformed

/-- A unit that has nothing left to do adds nothing to UNITS. -/
def appWeight (s : State) (c : Cmd) (k : Nat) : Nat :=
  match (s.appUnitsOf c)[k]? with
  | none => 0
  | some (_, e, p) =>
    match appNeed s c e p with
    | .error _ => 0
    | .ok w => if appStopped c || decide (w.stop ≤ w.first) || decide ((s.pool w.hdr.pool).freeSet < w.bare.length) then 0 else 1

/-- The report (R151). -/
def appReport (s : State) (c : Cmd) : Except Status Bytes := do
  let es ← s.appList c
  let ts ← es.1.mapM (fun e => do
    let h ← s.seqHdr c.q e.seq
    let t ← s.rowTokens c.q h (c.fld 76 2) 0
    .ok (min t (e.expect + e.count) - e.expect, h.pool))
  let x := s.pool ((ts.head?.map (·.2)).getD 0)
  .ok (natBytes 8 (ts.map (·.1)).sum ++ natBytes 4 (if appStopped c then c.cnt 0 - 1 else 0xFFFFFFFF) ++ natBytes 4 (c.cnt 1) ++
    natBytes 4 (c.cnt 2) ++ natBytes 4 x.freeSet ++ natBytes 8 0)

/-- The report and the status (R151, R178). -/
def appFinish (s : State) (c : Cmd) : Except Status (State × Cmd) := do
  let rep ← appReport s c
  (writeReport s c true (c.fld 88 8) rep).map (fun r => (r.1, { r.2 with status := if appStopped c then .kvExhausted else .ok }))

/-- The words and slots that an append may write: TOKENS and entries of the pages it touches, and those pages' new positions. -/
def appOuts (s : State) (c : Cmd) : List (Nat × Nat) :=
  (s.appUnitsOf c).flatMap (fun u =>
    match appNeed s c u.2.1 u.2.2 with
    | .error _ => []
    | .ok w =>
      let x := s.pool w.hdr.pool
      let lo := max u.2.1.expect (64 * u.2.2) - 64 * u.2.2
      (List.range w.hdr.groups).flatMap (fun g =>
        [(w.hdr.row (c.fld 76 2) g, 4), (w.hdr.entry (c.fld 76 2) g u.2.2, 8)] ++
        (match (s.rowEntry c.q w.hdr (c.fld 76 2) g u.2.2).toOption.bind (entryPage w.hdr.pool x) with
         | none => []
         | some j => [0, 1].map (fun kv => (x.base + j * x.pageBytes + kv * 128 * x.headDim + lo * x.headDim * 2,
             (w.stop - 64 * u.2.2 - lo) * x.headDim * 2)))))

/-- An append that ends after its start: the report, where it can be formed; what it had not committed is undefined (R147, R178). -/
def appLeave (s : State) (c : Cmd) (st : Status) : State × Cmd :=
  if c.phase ≠ .started then (s, c) else
  leaveReport (fun _ => true) (fun c => c.fld 88 8) (fun s c => (appReport s c).toOption.getD (natBytes 32 0)) (openRest s c (appOuts s c)) c st

/-- KV_APPEND. -/
def kvAppendOp : Op :=
  { check := appCheck, ranges := fun _ c => ((c.tens 0).map Tens.range).toList ++ [(c.fld 64 8, 32 * c.fld 72 4), (c.fld 88 8, 32)],
    total := fun s c => (s.appUnitsOf c).length, unit := appUnit, finish := appFinish, outs := fun _ c => [(c.fld 88 8, 32)],
    pages := fun _ _ => [], ready := appReady, weight := appWeight, blame := walkerBlame,
    leave := appLeave }

/-- KV_APPEND (R147). -/
def execKvAppend (q n : Nat) (s : State) : Host.Outcome State Fault Refusal := .next (runRow kvAppendOp (Cmd.isOp 0x403) q n s)

/-! ### KV_TRUNCATE (R152 to R154) -/

/-- Its checks. -/
def truncCheck (s : State) (c : Cmd) : Option Status :=
  refuseUnless (c.fld 0 8 % 64 == 0 && decide (1 ≤ c.fld 10 2) && c.zero 16 48) <|
  match s.seqHdr c.q (c.fld 0 8) with
  | .error st => some st
  | .ok h => refuseUnless ((s.pool h.pool).live && (s.pool h.pool).owner == c.q && decide (c.fld 8 2 + c.fld 10 2 ≤ h.layers)) none

/-- Rows that change: layer, group and their valid entries from the first page wholly at or above NEW_TOKENS. -/
def truncRows (s : State) (c : Cmd) (h : SeqHdr) : Except Status (List (Nat × Nat × List (Nat × Nat))) := do
  let rows := (List.range (c.fld 10 2)).flatMap (fun l => (List.range h.groups).map (fun g => (c.fld 8 2 + l, g)))
  let new := c.fld 12 4
  let out ← rows.mapM (fun r => do
    let t ← s.rowTokens c.q h r.1 r.2
    if t < new then .error .kvTableMismatch
    else if t = new then .ok none
    else do
      let p0 := ceilDiv new 64
      let es ← ((List.range (h.ptCap - p0)).map (p0 + ·)).mapM (fun p => (s.rowEntry c.q h r.1 r.2 p).map (fun e => (p, e)))
      .ok (some (r.1, r.2, es.filter (fun e => entryValid e.2))))
  .ok (out.filterMap id)

/-- Pages in a list occur once each. -/
def allDistinct : List Nat → Bool
  | [] => true
  | x :: xs => !xs.contains x && allDistinct xs

/-- The pages to defer, when every one is linked and named once (R152). -/
def truncPages (s : State) (h : SeqHdr) (rows : List (Nat × Nat × List (Nat × Nat))) : Option (List Nat) :=
  let x := s.pool h.pool
  match (rows.flatMap (fun r => r.2.2)).mapM (fun e => entryPage h.pool x e.2) with
  | none => none
  | some ps => if ps.all x.isLinked && allDistinct ps then some ps else none

/-- It is the command's turn, and fewer than 256 generations wait, or nothing is deferred (R145, R154). -/
def truncReady (s : State) (c : Cmd) (_ : Nat) : Bool :=
  kvTurn s c &&
  match s.seqHdr c.q (c.fld 0 8) with
  | .error _ => true
  | .ok h =>
    match truncRows s c h with
    | .error _ => true
    | .ok rows =>
      decide (((s.pool h.pool).deferred.map (·.2)).eraseDups.length < 256) || (rows.flatMap (fun r => r.2.2)).isEmpty

/-- The one unit: TOKENS, then cleared entries, then the generation (R152, R153). -/
def truncUnit (s : State) (c : Cmd) (_ : Nat) : Except Status (State × Cmd) := do
  let h ← s.seqHdr c.q (c.fld 0 8)
  let rows ← truncRows s c h
  match truncPages s h rows with
  | none => .error .kvBadPage
  | some ps => do
    let toks := rows.map (fun r => (h.row r.1 r.2.1, natBytes 4 (c.fld 12 4)))
    let ents := rows.flatMap (fun r => r.2.2.map (fun e => (h.entry r.1 r.2.1 e.1, natBytes 8 (e.2 - 1))))
    match (toks ++ ents).findSome? (fun v => s.dynRefusal c.q v.1 v.2.length) with
    | some st => .error st
    | none => do
      let r ← commitWrites s c ⟨toks ++ ents, 0⟩
      if ps.isEmpty then .ok r else
      let x := s.pool h.pool
      let g := (x.gen + 1) % 2 ^ 32
      let x' := { x with gen := g, linked := ps.foldl (fun l j => tabSet false l j false) x.linked, deferred := x.deferred ++ ps.map (fun j => (j, g)) }
      .ok (((r.1.putPool h.pool x').touchPool h.pool).releasePages, r.2)

/-- What a truncation had not committed is undefined when it ends, but for a mismatch, which writes nothing (R152, R178). -/
def truncLeave (s : State) (c : Cmd) (st : Status) : State × Cmd :=
  if c.phase ≠ .started ∨ st = .kvTableMismatch then (s, c) else
  match (do let h ← s.seqHdr c.q (c.fld 0 8); let rows ← truncRows s c h; .ok (h, rows) : Except Status (SeqHdr × List (Nat × Nat × List (Nat × Nat)))) with
  | .error _ => (s, c)
  | .ok (h, rows) =>
    (openRest s c (rows.flatMap (fun r => (h.row r.1 r.2.1, 4) :: r.2.2.map (fun e => (h.entry r.1 r.2.1 e.1, 8)))), c)

/-- KV_TRUNCATE. -/
def kvTruncateOp : Op :=
  { check := truncCheck, ranges := fun _ c => [(c.fld 0 8, 64)], total := fun _ _ => 1, unit := truncUnit, finish := finishOk,
    outs := fun _ _ => [], pages := fun _ _ => [], ready := truncReady, blame := walkerBlame,
    leave := truncLeave }

/-- KV_TRUNCATE (R152). -/
def execKvTruncate (q n : Nat) (s : State) : Host.Outcome State Fault Refusal := .next (runRow kvTruncateOp (Cmd.isOp 0x405) q n s)

/-! ### Batch lists and BUCKET_SORT (R162, R164) -/

/-- One entry of a batch list. -/
structure BatchEntry where
  seq    : Nat
  qRow   : Nat
  qCount : Nat
  qPos   : Nat
  kvRow  : Nat
  clean  : Bool
  bytes  : Bytes
deriving DecidableEq, Repr

/-- The batch list at `a`. -/
def State.batchList (s : State) (q a k : Nat) : Except Status (List BatchEntry) :=
  (s.dynRead q a (32 * k)).map (fun b => (pieces 32 b).map (fun e =>
    ⟨fieldAt e 0 8, fieldAt e 8 4, fieldAt e 12 4, fieldAt e 16 4, fieldAt e 20 4, zeroAt e 24 8, e⟩))

/-- BUCKET_SORT's checks. -/
def sortCheck (_ : State) (c : Cmd) : Option Status :=
  let k := c.fld 24 4
  refuseUnless (c.fld 0 8 % 32 == 0 && c.fld 8 8 % 32 == 0 && decide (1 ≤ k) && decide (k ≤ 2 ^ 20) && c.zero 30 34 &&
    !anyOverlap [(c.fld 8 8, 32 * k), (c.fld 16 8, 120)] [(c.fld 0 8, 32 * k)] && !anyOverlap [(c.fld 8 8, 32 * k)] [(c.fld 16 8, 120)]) none

/-- BUCKET_SORT's ranges. -/
def sortRanges (_ : State) (c : Cmd) : List (Nat × Nat) :=
  [(c.fld 0 8, 32 * c.fld 24 4), (c.fld 8 8, 32 * c.fld 24 4), (c.fld 16 8, 120)]

/-- The bucket of a length: the least `i` with L ≤ 2^(6+i). -/
def bucketOf (L : Nat) : Nat := ((List.range 15).find? (fun i => decide (L ≤ 2 ^ (6 + i)))).getD 15

/-- The one unit; count 0: LIMIT. -/
def sortUnit (s : State) (c : Cmd) (_ : Nat) : Except Status (State × Cmd) := do
  let es ← s.batchList c.q (c.fld 0 8) (c.fld 24 4)
  let bs ← es.mapM (fun e => do
    let h ← s.seqHdr c.q e.seq
    if h.layers ≤ c.fld 28 2 then .error .kvTableMismatch else
    let t ← s.rowTokens c.q h (c.fld 28 2) 0
    .ok (bucketOf t, e.bytes))
  if bs.any (fun b => b.1 == 15) then .ok (s, c.addCnt 0 1) else
  let sorted := (List.range 15).flatMap (fun i => (bs.filter (fun b => b.1 == i)).flatMap (·.2))
  let recs := (List.range 15).flatMap (fun i => natBytes 4 (bs.filter (fun b => decide (b.1 < i))).length ++ natBytes 4 (bs.filter (fun b => b.1 == i)).length)
  commitWrites s c ⟨[(c.fld 8 8, sorted), (c.fld 16 8, recs)], 0⟩

/-- BUCKET_SORT. -/
def bucketSortOp : Op :=
  { check := sortCheck, ranges := sortRanges, total := fun _ _ => 1, unit := sortUnit, finish := kpFinish,
    outs := fun _ c => [(c.fld 8 8, 32 * c.fld 24 4), (c.fld 16 8, 120)], pages := fun _ _ => [], blame := walkerBlame }

/-- BUCKET_SORT (R164). -/
def execBucketSort (q n : Nat) (s : State) : Host.Outcome State Fault Refusal := .next (runRow bucketSortOp (Cmd.isOp 0x404) q n s)

end Sys2Proof.Machine
end

