-- ==== Sys2Proof/Machine/Funcs.lean ====
section
/-! DEFINITION. The function set of the vector engines (R118, R119): primitives correctly rounded by bracketing the exact
value between two integers at growing precision, and the composite step lists. -/

namespace Sys2Proof.Machine

/-! ### Fixed-point brackets: the value lies in [v − err, v + err] · 2^−P -/

/-- A bracketed number at a precision known from the context. -/
structure Fx where
  v   : Int
  err : Nat
deriving DecidableEq, Repr

/-- The floor of a finite number at 2^−P. -/
def fxOf (P : Nat) (n : Bool) (m : Nat) (e : Int) : Int :=
  if 0 ≤ e + P then (let a : Int := m * 2 ^ (e + P).toNat; if n then -a else a)
  else (let q : Int := (m / 2 ^ (-(e + P)).toNat : Nat); if n then -q - 1 else q)

/-- Σ of the terms t, t·x/1, t·x²/2, … (the exponential series) until they vanish. -/
def expTerms (P : Nat) (X : Int) : Nat → Nat → Int → Int → Int
  | 0, _, _, acc => acc
  | f + 1, k, t, acc =>
    let t' := t * X / (2 ^ P : Nat) / (k : Int)
    if t' = 0 ∨ t' = -1 then acc else expTerms P X f (k + 1) t' (acc + t')

/-- exp of a bracketed X with |X| ≤ 2^P. -/
def fxExpSmall (P : Nat) (x : Fx) : Fx :=
  ⟨expTerms P x.v (P + 8) 1 (2 ^ P : Nat) (2 ^ P : Nat), 4 * (P + 8) * (P + 8) + 8 * x.err⟩

/-- Σ z^(2k+1)/(2k+1), the series of atanh. -/
def atanhTerms (P : Nat) (Z2 : Int) : Nat → Nat → Int → Int → Int
  | 0, _, _, acc => acc
  | f + 1, k, t, acc =>
    let t' := t * Z2 / (2 ^ P : Nat)
    if t' = 0 ∨ t' = -1 then acc else atanhTerms P Z2 f (k + 2) t' (acc + t' / (k : Int))

/-- 2·atanh of p/q, |p/q| ≤ 1/2: the logarithm of (q + p)/(q − p). -/
def fxAtanh2 (P : Nat) (p q : Int) : Fx :=
  let Z := p * (2 ^ P : Nat) / q
  let Z2 := Z * Z / (2 ^ P : Nat)
  ⟨2 * atanhTerms P Z2 (P + 8) 3 Z Z, 16 * (P + 8)⟩

/-- log 2. -/
def fxLn2 (P : Nat) : Fx := fxAtanh2 P 1 3

/-- exp of a finite number of magnitude below 2^12: a bracket and a power of two to multiply it by. -/
def fxExp (P : Nat) (n : Bool) (m : Nat) (e : Int) : Fx × Int :=
  let X := fxOf P n m e
  let l := fxLn2 P
  let k := (2 * X + l.v) / (2 * l.v)
  (fxExpSmall P ⟨X - k * l.v, 2 + k.natAbs * l.err⟩, k)

/-- log of `m · 2^e`, `m` not zero. -/
def fxLog (P : Nat) (m : Nat) (e : Int) : Fx :=
  let b := m.log2
  let hi := decide (3 * 2 ^ b < 2 * m)
  let k : Int := e + b + (if hi then 1 else 0)
  let d : Nat := 2 ^ (b + (if hi then 1 else 0))
  let a := fxAtanh2 P ((m : Int) - d) ((m : Int) + d)
  let l := fxLn2 P
  ⟨a.v + k * l.v, a.err + k.natAbs * l.err⟩

/-- Quotient of brackets, the divisor positive and well away from zero; `mag` bounds the quotient's magnitude in bits. -/
def fxDiv (P mag : Nat) (a b : Fx) : Fx :=
  ⟨a.v * (2 ^ P : Nat) / b.v, (a.err + (b.err + 1) * 2 ^ mag + 2) * 2 ^ (P + 1) / (b.v.natAbs) + 4⟩

/-- Σ of the series of atan(1/x). -/
def atanInvTerms (x : Int) : Nat → Int → Int → Int → Int
  | 0, _, _, acc => acc
  | f + 1, k, t, acc =>
    let t' := t / (x * x)
    if t' = 0 then acc else atanInvTerms x f (k + 1) t' (if k % 2 = 1 then acc - t' / (2 * k + 1) else acc + t' / (2 * k + 1))

/-- π. -/
def fxPi (P : Nat) : Fx :=
  let at' (x : Int) : Int := atanInvTerms x P 1 ((2 ^ P : Nat) / x) ((2 ^ P : Nat) / x)
  ⟨16 * at' 5 - 4 * at' 239, 64 * (P + 4)⟩

/-- Σ 2^n x^(2n+1)/(2n+1)!!, from X and X². -/
def erfTerms (P : Nat) (X2 : Int) : Nat → Int → Int → Int → Int
  | 0, _, _, acc => acc
  | f + 1, k, t, acc =>
    let t' := t * 2 * X2 / (2 ^ P : Nat) / (2 * k + 1)
    if t' = 0 then acc else erfTerms P X2 f (k + 1) t' (acc + t')

/-- A bracket as a pair of numbers at 2^(−P + k). -/
def Fx.bounds (x : Fx) (P : Nat) (k : Int) : Num × Num :=
  let lo := x.v - x.err
  let hi := x.v + x.err
  (.fin (decide (lo < 0)) lo.natAbs (k - P), .fin (decide (hi < 0)) hi.natAbs (k - P))

/-- A number just below one, for functions that have settled there. -/
def nearOne : Num := .fin false (2 ^ 90 - 1) (-90)

/-- Bits below the point that a finite number needs to be seen with full relative precision. -/
def smallBits (m : Nat) (e : Int) : Nat := (-(topExp m e)).toNat

/-- TANH of a positive finite number below 64. -/
def fxTanh (P : Nat) (m : Nat) (e : Int) : Fx :=
  let w := fxExp P true m (e + 1)
  let one : Int := (2 ^ P : Nat)
  let wv : Fx := ⟨w.1.v / (2 ^ (-w.2).toNat : Nat), w.1.err + 1⟩
  fxDiv P 1 ⟨one - wv.v, wv.err⟩ ⟨one + wv.v, wv.err⟩

/-- ERF of a positive finite number below 8. -/
def fxErf (P : Nat) (m : Nat) (e : Int) : Fx :=
  let X := fxOf P false m e
  let X2 := X * X / (2 ^ P : Nat)
  let S := erfTerms P X2 (P + 600) 1 X X
  let w := fxExp P true (m * m) (2 * e)
  let g : Int := w.1.v / (2 ^ (-w.2).toNat : Nat)
  let p := fxPi P
  let sp : Int := isqrt ((p.v * (2 ^ P : Nat)).toNat)
  let num := 2 * (S * g / (2 ^ P : Nat))
  ⟨num * (2 ^ P : Nat) / sp, 2 ^ 112 + 8 * p.err + 8 * w.1.err * 2 ^ 94⟩

/-- The bracket of a function's value on a finite operand that is not a special case, at precision `P` (R118). -/
def funcBounds (sub P : Nat) (n : Bool) (m : Nat) (e : Int) : Num × Num :=
  match sub with
  | 0x10 =>
    if 12 ≤ topExp m e then (if n then (.fin false 1 (-8000), .fin false 1 (-8000)) else (.fin false 1 8000, .fin false 1 8000))
    else (let r := fxExp P n m e; r.1.bounds P r.2)
  | 0x11 =>
    if 12 ≤ topExp m e then (if n then (.fin false 1 (-8000), .fin false 1 (-8000)) else (.fin false 1 8000, .fin false 1 8000))
    else if 0 ≤ e ∨ m % 2 ^ (-e).toNat = 0 then
      (let w : Nat := m * 2 ^ e.toNat / 2 ^ (-e).toNat
       let k : Int := if n then -w else w
       (.fin false 1 k, .fin false 1 k))
    else
      (let X := fxOf P n m e
       let k := X / (2 ^ P : Nat)
       let l := fxLn2 P
       let y : Fx := ⟨(X - k * (2 ^ P : Nat)) * l.v / (2 ^ P : Nat), 2 * l.err + 4⟩
       (fxExpSmall P y).bounds P k)
  | 0x12 => (fxLog P m e).bounds P 0
  | 0x13 =>
    if m = 2 ^ m.log2 then (nInt (e + m.log2), nInt (e + m.log2))
    else (fxDiv P 12 (fxLog P m e) (fxLn2 P)).bounds P 0
  | 0x06 =>
    if 6 ≤ topExp m e then (nearOne, nearOne) else (fxTanh (P + 3 * smallBits m e) m e).bounds (P + 3 * smallBits m e) 0
  | 0x17 =>
    if 3 ≤ topExp m e then (nearOne, nearOne) else (fxErf (P + 3 * smallBits m e) m e).bounds (P + 3 * smallBits m e) 0
  | _ => (.nan, .nan)

/-- The correctly rounded value: the precision doubles until both ends of the bracket round alike; past the fuel the value
is Config.undecided's. (DEDUCED, log entry 12). -/
def zivRound (F : Fmt) (sub : Nat) (n : Bool) (m : Nat) (e : Int) : Nat → Nat → Nat
  | 0, _ => Config.undecided sub F.bytes ((encFloat F .rne (.fin n m e)).code) % 2 ^ (8 * F.bytes)
  | f + 1, P =>
    let b := funcBounds sub P n m e
    let c := (encFloat F .rne b.1).code
    if c = (encFloat F .rne b.2).code then c else zivRound F sub n m e f (2 * P)

/-- A primitive function at PREC (R118). -/
def primFunc (F : Fmt) (sub : Nat) (x : Num) : Num :=
  match sub with
  | 0x14 => divAt F nOne x
  | 0x15 => sqrtAt F x
  | 0x16 =>
    match x with
    | .fin n 0 _ => .inf n
    | .fin true _ _ | .inf true => .nan
    | _ => roundTo F (nOne.div x).sqrt
  | 0x10 | 0x11 =>
    match x with
    | .nan => .nan
    | .inf n => if n then nZero else .inf false
    | .fin n m e => if m = 0 then nOne else decFloat F (zivRound F sub n m e 6 256)
  | 0x12 | 0x13 =>
    match x with
    | .nan => .nan
    | .inf n => if n then .nan else .inf false
    | .fin n m e =>
      if m = 0 then .inf true else if n then .nan
      else if (Num.fin n m e).eqv nOne then nZero
      else decFloat F (zivRound F sub false m e 6 256)
  | 0x06 | 0x17 =>
    match x with
    | .nan => .nan
    | .inf n => .fin n 1 0
    | .fin n m e =>
      if m = 0 then x else
      (let v := decFloat F (zivRound F sub false m e 6 256); if n then v.neg else v)
  | _ => .nan

/-! ### Composite functions (R119) -/

/-- The constants c0 to c4 of R119 at PREC. -/
def funcConst (F : Fmt) (i : Nat) : Num :=
  if F = .fp64 then
    nth nZero [.fin false 7186705221432913 (-53), .fin false 6444110634811895 (-57), .fin false 6369051672525773 (-53),
      .fin false 4833082976108921 (-55), .fin false 7186705221432913 (-54)] i
  else
    nth nZero [.fin false 13386282 (-24), .fin false 12003091 (-28), .fin false 11863283 (-24),
      .fin false 9002319 (-26), .fin false 13386282 (-25)] i

/-- One half. -/
def nHalf : Num := .fin false 1 (-1)

/-- SIGMOID (R119). -/
def sigmoidAt (F : Fmt) (x : Num) : Num :=
  primFunc F 0x14 (addAt F (primFunc F 0x10 x.neg) nOne)

/-- The argument of TANH in GELU_TANH and its derivative. -/
def geluArg (F : Fmt) (x : Num) : Num :=
  let u := mulAt F x x
  let u := mulAt F u x
  let u := mulAt F u (funcConst F 1)
  let u := addAt F u x
  mulAt F u (funcConst F 0)

/-- The function of a SUB code at PREC (R118, R119); a code that the table does not have gives NaN and is refused before. -/
def funcAt (F : Fmt) (sub : Nat) (x : Num) : Num :=
  let add := addAt F
  let mul := mulAt F
  let sub' := subAt F
  match sub with
  | 0x00 => x
  | 0x01 => if x.isNan then .nan else if nZero.lt x then x else nZero
  | 0x02 =>
    (let t := primFunc F 0x06 (geluArg F x)
     mul (mul (add t nOne) x) nHalf)
  | 0x03 =>
    (let e := primFunc F 0x17 (mul x (funcConst F 2))
     mul (mul (add e nOne) x) nHalf)
  | 0x04 => mul x (sigmoidAt F x)
  | 0x05 => sigmoidAt F x
  | 0x80 => if x.isNan then .nan else nOne
  | 0x81 => if x.isNan then .nan else if nZero.lt x then nOne else nZero
  | 0x82 =>
    (let w := mul x x
     let t := primFunc F 0x06 (geluArg F x)
     let a := mul (add t nOne) nHalf
     let q := sub' nOne (mul t t)
     let p := mul (add (mul w (funcConst F 3)) nOne) (funcConst F 0)
     add a (mul (mul (mul q p) x) nHalf))
  | 0x83 =>
    (let e := mul (add (primFunc F 0x17 (mul x (funcConst F 2))) nOne) nHalf
     let g := primFunc F 0x10 (mul (mul x x) nHalf.neg)
     add e (mul (mul g (funcConst F 4)) x))
  | 0x84 =>
    (let s := sigmoidAt F x
     mul s (add (mul (sub' nOne s) x) nOne))
  | 0x85 =>
    (let s := sigmoidAt F x
     mul s (sub' nOne s))
  | 0x86 =>
    (let t := primFunc F 0x06 x
     sub' nOne (mul t t))
  | c => primFunc F c x

/-- The SUB codes that exist (R118, R119). -/
def funcKnown (sub : Nat) : Bool :=
  decide (sub ≤ 6) || (decide (0x10 ≤ sub) && decide (sub ≤ 0x17)) || (decide (0x80 ≤ sub) && decide (sub ≤ 0x86))

end Sys2Proof.Machine
end

