-- ==== Sys2Proof/Machine/Matrix.lean ====
section
/-! DEFINITION. Matrix arrays: GEMM, GEMM_F64X, THIN_GEMM, their tiles pass by pass, ARRAY_PASS_END and ARRAY_IDLE
(chapter 03, R187 to R198, R297 to R299). -/

namespace Sys2Proof.Machine

/-! ### The problem a body states (R64, R97 to R103, R297) -/

/-- The fields of a matrix command. `wide` marks GEMM_F64X. -/
structure Mat where
  wide     : Bool := false
  faithful : Bool := false
  a        : Tens
  b        : Tens
  c        : Tens
  bias     : Option Tens := none
  transA   : Bool
  transB   : Bool
  noRepeat : Bool
  spass    : Bool := false
  sout     : Bool := false
  inPlace  : Bool := false
  report   : Bool := true
  drain    : Nat := 0
  outScale : Int
  tileAddr : Nat
  repAddr  : Nat
  tensor   : Nat := 0
  step     : Nat := 0
  ctl      : SCtl := ⟨0, 0, 0, 0, 0, 0⟩

/-- GEMM and THIN_GEMM bodies (R98, R99). -/
def gemmBody (c : Cmd) : Option Mat :=
  match c.tens 0, c.tens 64, c.tens 128 with
  | some a, some b, some t =>
    let f := c.fld 264 2
    if bitAt f 2 ∧ (c.tens 192).isNone then none else
    some { a := a, b := b, c := t, bias := if bitAt f 2 then c.tens 192 else none, transA := bitAt f 0, transB := bitAt f 1,
           noRepeat := bitAt f 5, spass := bitAt f 3, sout := bitAt f 4, inPlace := bitAt f 6, report := bitAt f 7,
           drain := c.fld 266 1, outScale := signedOf 8 (c.fld 267 1), tileAddr := c.fld 272 8, repAddr := c.fld 280 8,
           tensor := c.fld 256 4, step := c.fld 260 4, ctl := c.sctl 288 }
  | _, _, _ => none

/-- A GEMM_F64X body (R102). -/
def wideBody (c : Cmd) : Option Mat :=
  match c.tens 0, c.tens 64, c.tens 128 with
  | some a, some b, some t =>
    let f := c.fld 208 2
    some { wide := true, faithful := bitAt f 2, a := a, b := b, c := t, transA := bitAt f 0, transB := bitAt f 1,
           noRepeat := bitAt f 3, outScale := signedOf 8 (c.fld 211 1), tileAddr := c.fld 192 8, repAddr := c.fld 200 8 }
  | _, _, _ => none

/-- M, N and K (R64). -/
def Mat.M (g : Mat) : Nat := g.a.size (if g.transA then 0 else 1)
def Mat.N (g : Mat) : Nat := g.b.size (if g.transB then 1 else 0)
def Mat.K (g : Mat) : Nat := g.a.size (if g.transA then 1 else 0)

/-- C and A are laid out as the IN_PLACE form asks (R95). -/
def inPlaceForm (g : Mat) : Bool :=
  decide (g.c.base = g.a.base) && decide (g.c.fmt = g.a.fmt) && decide (g.c.strides = g.a.strides) && !g.transA && g.N == g.K && decide (g.N ≤ 1024)

/-- The problem of a matrix command; `inPlace` holds of the whole form of R95, not of its flag alone. -/
def Cmd.mat (c : Cmd) : Option Mat :=
  (if c.opcode = 0x202 then wideBody c else gemmBody c).map (fun g => { g with inPlace := g.inPlace && inPlaceForm g })

/-- Array modes (R62). -/
inductive MMode where
  | half | float8 | int8 | blockInt | split | slice
deriving DecidableEq, Repr

/-- The mode that the formats of A and B select (R62); 8-bit integer mode with an SB8I operand is `blockInt`. -/
def Mat.mode (g : Mat) : Option MMode :=
  let half (f : Fmt) : Bool := f == .bf16 || f == .fp16
  let f8 (f : Fmt) : Bool := f == .e4m3 || f == .e5m2 || f == .sb8e
  let i8 (f : Fmt) : Bool := f == .int8 || f == .sb8i
  if g.wide then (if g.a.fmt = .fp64 ∧ g.b.fmt = .fp64 then some .slice else none)
  else if half g.a.fmt && half g.b.fmt then some .half
  else if f8 g.a.fmt && f8 g.b.fmt then some .float8
  else if g.a.fmt = .int8 ∧ g.b.fmt = .int8 then some .int8
  else if i8 g.a.fmt && i8 g.b.fmt then some .blockInt
  else if g.a.fmt = .fp32 ∧ g.b.fmt = .fp32 then some .split
  else none

/-- K as B gives it. -/
def Mat.KB (g : Mat) : Nat := g.b.size (if g.transB then 0 else 1)

/-- Output tiles along M and N (R77), batch indices, and tiles. -/
def Mat.TM (g : Mat) : Nat := ceilDiv (g.c.size 1) 128
def Mat.TN (g : Mat) : Nat := ceilDiv (g.c.size 0) 128
def Mat.batch (g : Mat) : Nat := (List.range 4).foldl (fun x d => x * g.c.size (d + 2)) 1
def Mat.tiles (g : Mat) : Nat := g.TM * g.TN * g.batch

/-- The repeat is on (R78). -/
def Mat.repeats (g : Mat) : Bool := !g.noRepeat && decide (g.c.fmt ≠ .int32) && decide (g.drain ≤ 1)

/-- Units of work: tiles, or the 128-row blocks of the IN_PLACE form (R96). -/
def Mat.units (g : Mat) : Nat := if g.inPlace then g.TM * g.batch else g.tiles
/-- The tiles of a unit, by the numbering of R77. -/
def Mat.unitTiles (g : Mat) (k : Nat) : List Nat := if g.inPlace then (List.range g.TN).map (fun i => k * g.TN + i) else [k]

/-- A is popped (R191). -/
def Mat.popA (g : Mat) : Bool := g.ctl.sop == 3

/-! ### Operand elements -/

/-- Indices of an operand's element at its dimensions 0 and 1 and C's batch indices; a batch size of 1 is shared (R64). -/
def Mat.ix (t : Tens) (i0 i1 : Nat) (bi : List Nat) : List Nat :=
  i0 :: i1 :: bi.zipIdx.map (fun p => if t.size (p.2 + 2) = 1 then 0 else p.1)

/-- Element (m, k) of A; from the entry under POP_A (R191). -/
def Mat.elemA (s : State) (cl : Option StackClaim) (g : Mat) (bi : List Nat) (m k : Nat) : Except Status Num :=
  let i := g.a.logical (if g.transA then Mat.ix g.a m k bi else Mat.ix g.a k m bi)
  match g.popA, cl with
  | true, some e => s.entryElem e i
  | _, _ => s.elem g.a i

/-- Element (k, n) of B. -/
def Mat.elemB (s : State) (g : Mat) (bi : List Nat) (k n : Nat) : Except Status Num :=
  s.elem g.b (g.b.logical (if g.transB then Mat.ix g.b k n bi else Mat.ix g.b n k bi))

/-- C's batch indices of a tile, in the order of R52 (R77). -/
def Mat.batchIx (g : Mat) (tile : Nat) : List Nat :=
  ((List.range 4).foldl (fun (x : List Nat × Nat) d => (x.1 ++ [x.2 % g.c.size (d + 2)], x.2 / g.c.size (d + 2))) ([], tile / (g.TN * g.TM))).1

/-- Rows and columns of C in a tile (R61, R77). -/
def Mat.tileRows (g : Mat) (tile : Nat) : List Nat :=
  let r := tile / g.TN % g.TM
  (List.range (min 128 (g.c.size 1 - 128 * r))).map (128 * r + ·)
def Mat.tileCols (g : Mat) (tile : Nat) : List Nat :=
  let x := tile % g.TN
  (List.range (min 128 (g.c.size 0 - 128 * x))).map (128 * x + ·)
/-- The positions of a tile, row by row. -/
def Mat.tilePos (g : Mat) (tile : Nat) : List (Nat × Nat) := (g.tileRows tile).flatMap (fun m => (g.tileCols tile).map (fun n => (m, n)))

/-! ### Pass results (R66 to R73) -/

/-- The terms' sum through the 58-bit window, with the rule for non-finite terms (R66, R70). -/
def windowSum (ts : List Num) : Num :=
  if ts.any Num.isNan then .nan
  else if ts.any (fun t => t.isInf && !t.sign) then (if ts.any (fun t => t.isInf && t.sign) then .nan else .inf false)
  else if ts.any Num.isInf then .inf true
  else
    match ts.filterMap (fun t => match t with | .fin _ m e => if m = 0 then none else some (topExp m e) | _ => none) with
    | [] => .fin (ts.all Num.sign && !ts.isEmpty) 0 0
    | x :: xs =>
      let u : Int := xs.foldl max x - 48
      let v : Int := ts.foldl (fun acc t => match t with
        | .fin n m e =>
          let k : Nat := if u ≤ e then m * 2 ^ (e - u).toNat else m / 2 ^ (u - e).toNat
          acc + (if n then -(k : Int) else k)
        | _ => acc) 0
      .fin (decide (v < 0)) v.natAbs u

/-- Exact sum of terms, +0 when it is zero. -/
def exactSum (ts : List Num) : Num :=
  let x := ts.foldl Num.add nZero
  if x.isZero then nZero else x

/-- The two BF16 parts of an FP32 operand (R73). -/
def splitParts (x : Num) : Num × Num :=
  if !x.isFin then (x, nZero) else
  let r := roundTo .bf16 x
  let x1 : Num := if r.isInf then .fin x.sign (Fmt.bf16.maxFin).1 (Fmt.bf16.maxFin).2 else r
  (x1, roundTo .bf16 (x.sub x1))

/-- One product of FP32 split's sub-pass `j`: A2·B1, A1·B2, A1·B1; a non-finite operand enters the third only. Its partner's first part
stands for the partner there, so that an infinity times a non-zero value whose first part rounds to zero is NaN, by the passes' own
text (R73). (DEDUCED, log entry 63). -/
def splitTerm (j : Nat) (x y : Num) : Num :=
  if j < 2 ∧ !(x.isFin && y.isFin) then nZero
  else
    let a := splitParts x
    let b := splitParts y
    if j = 0 then a.2.mul b.1 else if j = 1 then a.1.mul b.2 else a.1.mul b.1

/-- Sub-passes of one K block. -/
def Mat.subPasses (g : Mat) : Nat := if g.mode = some .split then 3 else 1

/-- Slices of GEMM_F64X (R81). -/
def sliceCount (D : Nat) : Nat := ceilDiv (53 + min D 24) 7

/-- The slice pairs in their order (R83). -/
def slicePairs (faithful : Bool) (sl : Nat) : List (Nat × Nat) :=
  (List.range sl).flatMap (fun t => ((List.range sl).filter (fun u => !faithful || decide (t + u ≤ sl - 1))).map (fun u => (t, u)))

/-- Passes of one output tile (R72, R73, R83). -/
def Mat.passes (g : Mat) (sl : Nat) : Nat :=
  ceilDiv g.K 128 * (if g.wide then (slicePairs g.faithful sl).length else g.subPasses)

/-- The K positions of K block `j`. -/
def Mat.ks (g : Mat) (j : Nat) : List Nat := (List.range (min 128 (g.K - 128 * j))).map (128 * j + ·)

/-- The terms of one pass for one output element: products, block-pair sub-sums of 32 with SB8I, and the bias in pass 0. -/
def Mat.terms (g : Mat) (p : Nat) (xs ys : List Num) (bias : Option Num) : List Num :=
  let prods := match g.mode with
    | some .split => xs.zipWith (splitTerm (p % 3)) ys
    | some .blockInt => (pieces 32 (xs.zipWith Num.mul ys)).map exactSum
    | _ => xs.zipWith Num.mul ys
  prods ++ (match bias with | some b => if p = 0 then [b] else [] | none => [])

/-- One pass on one element's sums (R68, R71, R75). -/
def Mat.accPass (g : Mat) (mode : RMode) (scale : Int) (acc : Acc) (ts : List Num) : Acc :=
  if g.mode = some .int8 then { acc with sum := exactSum (acc.sum :: ts) }
  else
    let x := roundIn .fp32 mode (acc.sum.add ((windowSum ts).scale scale))
    let fin := acc.fin && ts.all Num.isFin
    { acc with sum := x, fin := fin, isOver := acc.isOver || (fin && x.isInf) }

/-! ### FP64 exact-slice (R80 to R87) -/

/-- The largest exponent plus one and the spread of a row or column (R80). -/
def measure (xs : List Num) : Option (Int × Nat) :=
  match xs.filterMap (fun x => match x with | .fin _ m e => if m = 0 then none else some (topExp m e) | _ => none) with
  | [] => none
  | y :: ys =>
    let hi : Int := ys.foldl max y
    some (hi + 1, (hi - ys.foldl min y).toNat)

/-- The digit of weight 2^(E − 7(t+1)) of an element, with its sign; bits below 2^(E − 7s) are gone (R82). -/
def digit (E : Int) (t : Nat) (x : Num) : Int :=
  match x with
  | .fin n m e =>
    let k := E - 7 * ((t : Int) + 1)
    let v : Nat := (if k ≤ e then m * 2 ^ (e - k).toNat else m / 2 ^ (k - e).toNat) % 128
    if n then -(v : Int) else v
  | _ => 0

/-- The whole of K of one row of A and one column of B. -/
def Mat.row (s : State) (cl : Option StackClaim) (g : Mat) (bi : List Nat) (m : Nat) : Except Status (List Num) :=
  (List.range g.K).mapM (g.elemA s cl bi m)
def Mat.col (s : State) (g : Mat) (bi : List Nat) (n : Nat) : Except Status (List Num) :=
  (List.range g.K).mapM (fun k => g.elemB s bi k n)

/-- One slice pass (t, u) over K positions: the words of the drain take each term (R83 to R85). -/
def slicePass (faithful : Bool) (sl t u : Nat) (Ea Eb : Int) (xs ys : List Num) (acc : Acc) : Acc :=
  (xs.zip ys).foldl (fun a p =>
    let d := digit Ea t p.1 * digit Eb u p.2
    if faithful then { a with low := a.low + d * 2 ^ (7 * (sl - 1 - t - u)) }
    else
      let v := d * 2 ^ (7 * (2 * sl - 2 - t - u))
      { a with low := (a.low + v) % 2 ^ 128, high := a.high + v / 2 ^ 64 }) acc

/-- The exact sum from the drain's words, scaled by 2^a (R84, R85). -/
def sliceSum (faithful : Bool) (sl : Nat) (E : Int) (acc : Acc) (scale : Int) : Num :=
  let v := if faithful then acc.low else 2 ^ 64 * acc.high + (acc.low - 2 ^ 64 * acc.high) % 2 ^ 128
  (nInt v).scale (E - (if faithful then 7 * ((sl : Int) + 1) else 14 * sl) + scale)

/-- The rule for non-finite inputs (R87). -/
def sliceSpecial (xs ys : List Num) : Option Num :=
  let ps := (xs.zipWith Num.mul ys).filter (fun p => !p.isFin)
  if ps.isEmpty then none else some (ps.foldl Num.add nZero)

/-- D, s and the count of rows and columns with spread above 24 (R80, R81, R86). -/
def Mat.measured (s : State) (g : Mat) : Except Status (Nat × Nat) := do
  let rows ← (List.range (g.a.count / g.K)).mapM (fun i =>
    let m := i % g.M
    let bi := (g.a.indices (i / g.M * (g.M * g.K))).drop 2
    (g.row s none bi m).map (fun xs => ((measure xs).map (·.2)).getD 0))
  let cols ← (List.range (g.b.count / g.K)).mapM (fun i =>
    let n := i % g.N
    let bi := (g.b.indices (i / g.N * (g.N * g.K))).drop 2
    (g.col s bi n).map (fun xs => ((measure xs).map (·.2)).getD 0))
  let all := rows ++ cols
  .ok (all.foldl max 0, (all.filter (24 < ·)).length)

/-! ### A pass over a tile, and its drain -/

/-- The draw of MATRIX_PASS at pass `p` (R68). -/
def passDraw (s : State) (c : Cmd) (g : Mat) (p : Nat) : Draw := s.draw c g.spass g.tensor g.step (0x100 + p % 256)

/-- Logical index in C of an element of a tile (R52). -/
def Mat.index (g : Mat) (bi : List Nat) (pos : Nat × Nat) : Nat := g.c.logical (pos.2 :: pos.1 :: bi)

/-- The bias of a column. -/
def Mat.biasAt (s : State) (g : Mat) (n : Nat) : Except Status (Option Num) :=
  match g.bias with
  | none => .ok none
  | some b => (s.elem b n).map some

/-- Pass `p` of a tile on one element's sums. -/
def passElem (s : State) (c : Cmd) (g : Mat) (sl : Nat) (bi : List Nat) (scale : Int) (p : Nat) (pos : Nat × Nat) (acc : Acc) :
    Except Status Acc := do
  if g.wide then
    let xs ← g.row s c.claim bi pos.1
    let ys ← g.col s bi pos.2
    let prs := slicePairs g.faithful sl
    let tu := nth (0, 0) prs (p % prs.length)
    let j := p / prs.length
    match measure xs, measure ys with
    | some ea, some eb =>
      .ok (slicePass g.faithful sl tu.1 tu.2 ea.1 eb.1 ((xs.drop (128 * j)).take 128) ((ys.drop (128 * j)).take 128) acc)
    | _, _ => .ok acc
  else
    let j := p / g.subPasses
    let xs ← (g.ks j).mapM (g.elemA s c.claim bi pos.1)
    let ys ← (g.ks j).mapM (fun k => g.elemB s bi k pos.2)
    let bias ← g.biasAt s pos.2
    .ok (g.accPass ((passDraw s c g p).mode (g.index bi pos)) scale acc (g.terms p xs ys bias))

/-- Pass `p` of a tile on all its sums. -/
def passTile (s : State) (c : Cmd) (g : Mat) (sl tile : Nat) (scale : Int) (p : Nat) (accs : List Acc) : Except Status (List Acc) :=
  ((g.tilePos tile).zip accs).mapM (fun x => passElem s c g sl (g.batchIx tile) scale p x.1 x.2)

/-- The popped pre-activation and the drain's result on S (R69, R197). -/
def drainElem (s : State) (c : Cmd) (g : Mat) (tile index : Nat) (x : Num) : Except Status Num :=
  if g.ctl.sop ≠ 2 then .ok (funcAt .fp32 g.drain x)
  else match c.claim with
    | none => .ok x
    | some k => do
      let z ← s.entryElem k index
      let z := roundTo .fp32 z
      let e := s.heldEntry k
      let z ← (if e.hasTiles then (s.readBytes (entryTileAddr k e + tile) 1).map (fun b => roundTo .fp32 (z.scale (-(signedOf 8 (leNat b))))) else .ok z)
      .ok (mulAt .fp32 x (funcAt .fp32 g.drain z))

/-- The draw of MATRIX_OUT, or of the FP64_SLICE site, which rounds to nearest (R69, R84). -/
def outDraw (s : State) (c : Cmd) (g : Mat) : Draw := s.draw c g.sout g.tensor g.step 0x200

/-- The rounded output exceeds the format's largest finite value (R75). -/
def roundsOver (F : Fmt) (mode : RMode) (x : Num) : Bool :=
  x.isFin && !F.isBlock && !F.isInt && (decide ((encFloat F mode x).sat ≠ 0) || (decFloat F (encFloat F mode x).code).isInf)

/-- The end of an element's last pass: its value for the output, and whether it overflows (R69, R71, R75). -/
def endElem (s : State) (c : Cmd) (g : Mat) (sl tile : Nat) (scale : Int) (pos : Nat × Nat) (acc : Acc) : Except Status TileElem := do
  let bi := g.batchIx tile
  let i := g.index bi pos
  let mode := (outDraw s c g).mode i
  if g.wide then
    let xs ← g.row s c.claim bi pos.1
    let ys ← g.col s bi pos.2
    let E := ((measure xs).map (·.1)).getD 0 + ((measure ys).map (·.1)).getD 0
    let v := (sliceSpecial xs ys).getD (sliceSum g.faithful sl E acc scale)
    .ok ⟨i, v, v, roundsOver .fp64 .rne v⟩
  else if g.mode = some .int8 then
    if g.c.fmt = .int32 then .ok ⟨i, acc.sum, acc.sum, false⟩ else
    let x := roundIn .fp32 ((passDraw s c g (g.passes sl)).mode i) (acc.sum.scale scale)
    let v ← drainElem s c g tile i x
    .ok ⟨i, v, x, x.isInf || roundsOver g.c.fmt mode v⟩
  else
    let v ← drainElem s c g tile i acc.sum
    .ok ⟨i, v, acc.sum, acc.isOver || roundsOver g.c.fmt mode v⟩

/-- The largest finite value of an output format, with a sign (R76 step 4). (DEDUCED, log entry 63). -/
def satValue (F : Fmt) (neg : Bool) : Num :=
  match F with
  | .sb8e => .fin neg 448 127
  | .sb8i => .fin neg 127 127
  | _ => .fin neg F.maxFin.1 F.maxFin.2

/-- The drain of a whole tile. -/
def endTile (s : State) (c : Cmd) (g : Mat) (sl tile : Nat) (scale : Int) (accs : List Acc) : Except Status (List TileElem) :=
  ((g.tilePos tile).zip accs).mapM (fun x => endElem s c g sl tile scale x.1 x.2)

/-- Elements that overflow take the largest finite value with the sign of their sum S, whatever DRAIN_FN would make of it; an element whose
S overflowed before it met a non-finite term is among them (R76). (DEDUCED, log entry 63). -/
def clampElems (g : Mat) (es : List TileElem) : List TileElem :=
  es.map (fun e => if e.isOver then { e with value := satValue g.c.fmt e.sum.sign } else e)

/-- What follows an attempt (R76, R78): commit, commit SATURATED, or repeat. -/
inductive Verdict where
  | commit (t : TileDone)
  | again
deriving DecidableEq, Repr

/-- The verdict on attempt number `attempt` (from 0). -/
def judge (g : Mat) (tile : Nat) (scale : Int) (attempt : Nat) (es : List TileElem) : Verdict :=
  if !g.repeats ∨ !es.any (·.isOver) then .commit ⟨tile, scale, attempt, false, es⟩
  else if attempt < 4 then .again
  else .commit ⟨tile, scale, attempt, true, clampElems g es⟩

/-- Fresh sums for a tile. -/
def Mat.fresh (g : Mat) (tile : Nat) : List Acc := (g.tilePos tile).map (fun _ => {})

/-- All passes of one attempt. -/
def attemptTile (s : State) (c : Cmd) (g : Mat) (sl tile : Nat) (scale : Int) : Except Status (List TileElem) := do
  let accs ← (List.range (g.passes sl)).foldlM (fun a p => passTile s c g sl tile scale p a) (g.fresh tile)
  endTile s c g sl tile scale accs

/-- The attempts at a tile (R76): at most four repeats, each with the scale lowered by 2. -/
def attempts (s : State) (c : Cmd) (g : Mat) (sl tile : Nat) : Nat → Nat → Except Status TileDone
  | 0, _ => .error .malformed
  | f + 1, k =>
    match attemptTile s c g sl tile (g.outScale - 2 * k) with
    | .error st => .error st
    | .ok es =>
      match judge g tile (g.outScale - 2 * k) k es with
      | .commit t => .ok t
      | .again => attempts s c g sl tile f (k + 1)

/-! ### Commit (R69, R77, R94, R187) -/

/-- The pieces of a finished tile: outputs row by row, the stack push, the tile scale bytes. -/
def packTile (s : State) (c : Cmd) (g : Mat) (t : TileDone) : Packed :=
  let rows := pieces (g.tileCols t.tile).length t.elems
  let d := outDraw s c g
  let out := rows.foldl (fun (p : Packed) r => p.append (packRow g.c d (((r.head?).map (·.index)).getD 0) (r.map (·.value)))) {}
  let byte := natBytes 1 (codeOf 8 t.scale)
  let push : Packed := match decide (g.ctl.sop = 1), c.claim with
    | true, some k =>
      let e := s.entryTens k
      let pd := s.draw c (g.ctl.flag == 1) g.ctl.tag g.step 0x500
      let p := rows.foldl (fun (p : Packed) r => p.append (packRow e pd (((r.head?).map (·.index)).getD 0) (r.map (·.sum)))) {}
      if g.repeats then p.append ⟨[(entryTileAddr k (s.heldEntry k) + t.tile, byte)], 0⟩ else p
    | _, _ => {}
  let scale : Packed := if g.repeats then ⟨[(g.tileAddr + t.tile, byte)], 0⟩ else {}
  (out.append push).append scale

/-- TILE_COMMIT: finished tiles are written together; counts of R101: 0 tiles, 1 repeated, 2 SATURATED. -/
def commitTiles (s : State) (c : Cmd) (g : Mat) (ts : List TileDone) : Except Status (State × Cmd) :=
  match (s.heldReadable c).bind fun _ => (if c.opcode = 0x203 then commitGranules else commitWrites) s c (ts.foldl (fun p t => p.append (packTile s c g t)) {}) with
  | .error st => .error st
  | .ok (t, d) =>
    .ok (t, ((d.addCnt 0 ts.length).addCnt 1 (ts.filter (fun x => decide (0 < x.repeats))).length).addCnt 2 (ts.filter (·.sat)).length)

/-! ### The command -/

/-- GEMM_F64X's measurement is taken once, before any product: counts 3 to 5 hold s, D and the rows of R86. -/
def withMeasure (s : State) (c : Cmd) (g : Mat) : Except Status Cmd :=
  if !g.wide ∨ c.cnt 3 ≠ 0 then .ok c else
  match g.measured s with
  | .error st => .error st
  | .ok (D, w) => .ok (((c.addCnt 3 (sliceCount D)).addCnt 4 D).addCnt 5 w)

/-- One unit: its tiles computed, then committed together. -/
def matUnit (s : State) (c : Cmd) (k : Nat) : Except Status (State × Cmd) :=
  match c.mat with
  | none => .error .malformed
  | some g => do
    let c ← withMeasure s c g
    let ts ← (g.unitTiles k).mapM (fun t => attempts s c g (c.cnt 3) t 5 0)
    commitTiles s c g ts

/-- LIMIT (R53, R71, R88). -/
def Mat.limit (g : Mat) : Bool :=
  (decide (g.mode = some .int8) && decide (131071 < g.K)) || (g.wide && decide (2 ^ 20 < g.K)) ||
  ((g.spass || g.sout || (g.ctl.sop == 1 && g.ctl.flag == 1)) && decide (2 ^ 48 ≤ g.c.count))

/-- The sixteen bytes of the report that every matrix command shares (R101). The count of rows and columns whose spread is above 24 is
held at 65,535 when larger, as D is at 255, and the tile counts, of 32 bits, wrap: the rule says neither (R86, R101). (DEDUCED, log entry 27). -/
def matReport (c : Cmd) : Bytes :=
  natBytes 4 (c.cnt 0) ++ natBytes 4 (c.cnt 1) ++ natBytes 4 (c.cnt 2) ++ natBytes 1 (c.cnt 3) ++ natBytes 1 (min 255 (c.cnt 4)) ++
  natBytes 2 (min 65535 (c.cnt 5))

/-- The record is written; the measured bytes of a GEMM_F64X's are open until its exponents have been measured. (DEDUCED, log entry 27). -/
def writeMatReport (s : State) (c : Cmd) (g : Mat) : Except Status (State × Cmd) :=
  (writeReport s c g.report g.repAddr (if g.wide then matReport c ++ natBytes 16 0 else matReport c)).map
    (fun x => (if g.wide && c.cnt 3 == 0 then x.1.openRange (g.repAddr + 12) 4 else x.1, x.2))

/-- A status that ends a matrix command leaves its record (R101). (DEDUCED, log entry 80). -/
def matLeave (s : State) (c : Cmd) (st : Status) : State × Cmd :=
  match c.mat with
  | none => (s, c)
  | some g =>
    if st.ends && c.phase == .started then (match writeMatReport s c g with | .ok r => r | .error _ => (s, c)) else (s, c)

/-- The end of a matrix command: a pushed Sepia entry is coded (R184, R285), then the report and the status (R79, R101). A command
that LIMIT ends writes its record with no tile in it. -/
def matFinish (s : State) (c : Cmd) : Except Status (State × Cmd) :=
  match c.mat with
  | none => .error .malformed
  | some g =>
    let st : Status := if g.limit then .limit else if 0 < c.cnt 2 then .saturated else if g.wide ∧ 24 < c.cnt 4 then .partialExact
      else if 0 < c.cnt 1 then .okScaled else .ok
    let coded : Except Status State := match c.claim with
      | some k => if g.ctl.sop = 1 ∧ !g.limit then s.codeEntry k else .ok s
      | none => .ok s
    (coded.bind fun s => writeMatReport s c g).map (fun x => (x.1, { x.2 with status := st }))

/-- C's byte range with what counts as part of it (R95). -/
def matOuts (c : Cmd) (g : Mat) : List (Nat × Nat) :=
  g.c.range :: (if g.repeats then [(g.tileAddr, g.tiles)] else []) ++
  (if g.wide then [(g.repAddr, 32)] else if g.report then [(g.repAddr, 16)] else []) ++ [(c.bodyAddr, if g.wide then 256 else 320)]

/-- The ranges that A, B and the bias name. -/
def matIns (s : State) (g : Mat) : List (Nat × Nat) :=
  (if g.popA then [s.stackRange g.ctl.addr] else [g.a.range]) ++ [g.b.range] ++ (match g.bias with | some b => [b.range] | none => [])

/-- Every range (R239, R363). -/
def matRanges (s : State) (c : Cmd) : List (Nat × Nat) :=
  match c.mat with
  | none => []
  | some g => (matOuts c g).dropLast ++ matIns s g ++ (if g.ctl.sop ≠ 0 ∧ !g.popA then [s.stackRange g.ctl.addr] else [])

/-- Reserved bytes and field ranges of a body (R98 to R100, R102, R204). -/
def matFields (c : Cmd) (g : Mat) : Bool :=
  decide (-64 ≤ g.outScale) && decide (g.outScale ≤ 63) &&
  (if g.wide then c.zero 210 1 && c.zero 212 44 && decide (c.fld 208 2 < 16) && g.repAddr % 32 == 0
   else c.zero 268 4 && c.zero 304 16 && decide (c.fld 264 2 < 256) && (!g.report || g.repAddr % 16 == 0) &&
     (decide (g.drain ≤ 6) || (decide (0x80 ≤ g.drain) && decide (g.drain ≤ 0x86))) &&
     (if g.ctl.sop = 0 then c.zero 288 16 else decide (g.ctl.sop ≤ 3) && g.ctl.ok) &&
     (decide (0x80 ≤ g.drain) == (g.ctl.sop == 2)))

/-- Formats, layouts and sizes (R62 to R65, R71, R103, R281). -/
def matShapes (g : Mat) : Bool :=
  let isOut (f : Fmt) : Bool := !f.isInt && f != .fp64
  g.mode.isSome &&
  (if g.wide then decide (g.c.fmt = .fp64) else isOut g.c.fmt || (decide (g.mode = some .int8) && decide (g.c.fmt = .int32))) &&
  (!g.transA || g.a.transposeOk || g.popA) && (!g.transB || g.b.transposeOk) &&
  (!g.a.fmt.isBlock || !g.transA) && (!g.b.fmt.isBlock || g.transB) &&
  g.K == g.KB && g.c.size 0 == g.N && g.c.size 1 == g.M &&
  (List.range 4).all (fun d => (g.a.size (d + 2) == 1 || g.a.size (d + 2) == g.c.size (d + 2)) && (g.b.size (d + 2) == 1 || g.b.size (d + 2) == g.c.size (d + 2))) &&
  (match g.bias with
   | none => true
   | some b => decide (g.mode ≠ some .int8) && (b.fmt == .fp32 || b.fmt == .bf16) && b.rank == 1 && b.size 0 == g.N && b.comp == 0) &&
  g.c.comp == 0 && (g.a.comp == 0 || g.b.comp == 0)

/-- Outputs that overlap inputs, but for the IN_PLACE form (R95, R103). -/
def matOverlap (s : State) (c : Cmd) (g : Mat) : Bool :=
  let ins := matIns s g
  if g.inPlace then anyOverlap (matOuts c g).tail ins || anyOverlap [g.c.range] ins.tail else anyOverlap (matOuts c g) ins

/-- The stack rules (R181, R187, R191, R197). -/
def matStack (s : State) (c : Cmd) (g : Mat) : Bool :=
  g.ctl.sop == 0 ||
    (s.stackNamed c.q g.ctl.addr && !(g.ctl.sop == 1 && decide (g.c.fmt = .int32)) && !(g.popA && decide (fmtOf g.ctl.fmt ≠ some g.a.fmt)) &&
     !anyOverlap (matOuts c g ++ (if g.popA then (matIns s g).drop 1 else matIns s g)) [s.stackRange g.ctl.addr])

/-- THIN_GEMM's further rules (R297). -/
def thinRules (s : State) (c : Cmd) (g : Mat) : Bool :=
  c.opcode != 0x203 ||
    (decide (g.M ≤ 16) && decide (s.tierOf g.b.base = some .umber) && g.a.comp == 0 && g.b.comp == 0 && c.zero 288 16 &&
      !bitAt (c.fld 264 2) 6 && decide (g.drain ≤ 6))

/-- A matrix command's checks (R103, R346). -/
def matCheck (s : State) (c : Cmd) : Option Status :=
  match c.mat with
  | none => some .malformed
  | some g =>
    refuseUnless (matFields c g && matShapes g) <|
    refuseUnless (s.tiersAgree ([g.b, g.c] ++ (if g.popA then [] else [g.a]) ++ g.bias.toList)) <|
    refuseUnless (!matOverlap s c g && matStack s c g && thinRules s c g) none

/-- The pages of the blocks that serve it (R481): arrays, or tower units. -/
def matPages (s : State) (c : Cmd) : List Nat :=
  if c.opcode = 0x203 then (List.range s.dataTowers).map pgTower else s.regionsIn.flatMap (fun r => (List.range 4).map (pgArray r))

/-- The code tables that the operands or the entry are coded under. -/
def matTables (s : State) (c : Cmd) : List Nat := (match c.mat with | none => [] | some g => s.tablesOf g.a ++ s.tablesOf g.b) ++ entryTables s c

/-- What becomes undefined when a matrix command ends early: nothing of a THIN_GEMM, whose uncommitted granules keep their old
values (R306). -/
def matUndefined (_ : State) (c : Cmd) : List (Nat × Nat) :=
  if c.opcode = 0x203 then [] else match c.mat with | none => [] | some g => (matOuts c g).dropLast

/-- The matrix commands. -/
def matrixOp : Op :=
  { check := matCheck, ranges := matRanges,
    total := fun _ c => match c.mat with | none => 0 | some g => if g.limit then 0 else g.units,
    unit := matUnit, finish := matFinish,
    outs := matUndefined, pages := matPages, leave := matLeave,
    tables := matTables,
    weight := fun _ c k => match c.mat with | none => 1 | some g => (g.unitTiles k).length }

/-- A matrix command's start on a stack (R185, R189). -/
def matStart (s : State) (c : Cmd) : Start :=
  match c.mat with
  | none => .go s c
  | some g =>
    if g.limit then .go s c
    else if g.ctl.sop = 1 then stackReserve s c g.ctl.addr ⟨1, g.ctl.fmt, g.ctl.tag, if g.repeats then g.tiles else 0, g.repeats, g.c.sizes⟩
    else if g.ctl.sop = 2 then stackClaim s c g.ctl.addr (fun e => popFits e g.ctl.tag g.ctl.fmt g.c.sizes (some g.tiles))
    else if g.ctl.sop = 3 then stackClaim s c g.ctl.addr (fun e => popFits e g.ctl.tag g.ctl.fmt g.a.sizes none)
    else .go s c

/-- GEMM (R97). -/
def execGemm (q n : Nat) (s : State) : Host.Outcome State Fault Refusal := .next (runRow matrixOp (Cmd.isOp 0x201) q n s)
/-- GEMM_F64X (R83). -/
def execGemmF64x (q n : Nat) (s : State) : Host.Outcome State Fault Refusal := .next (runRow matrixOp (Cmd.isOp 0x202) q n s)
/-- THIN_GEMM (R297). -/
def execThinGemm (q n : Nat) (s : State) : Host.Outcome State Fault Refusal := .next (runRow matrixOp (Cmd.isOp 0x203) q n s)

/-! ### ARRAY_PASS_END (R90 to R96) -/

/-- The array serves: its region works and the array is not fenced. -/
def arrayServes (g : Region) (x : Nat) : Bool :=
  (g.state == .inService || (g.state == .draining && ((g.array x).run.any (·.inPlace)))) && !(g.array x).fenced

/-- Some array anywhere works on the unit. -/
def unitTaken (s : State) (c : Cmd) (k : Nat) : Bool :=
  s.regions.any (fun r => r.2.arrays.any (fun u => u.2.run.any (fun w => w.q == c.q && w.n == c.n && w.unit == k)))

/-- The tile on which an array begins: the first unit neither committed nor taken. -/
def arrayStart (s : State) (c : Cmd) (g : Mat) : Option ArrayRun :=
  if g.limit then none else
  ((List.range g.units).find? (fun k => !c.done.contains k && !unitTaken s c k)).map (fun k =>
    let t := (g.unitTiles k).headD 0
    { q := c.q, n := c.n, unit := k, tile := t, scale := g.outScale, accs := g.fresh t, inPlace := g.inPlace, outs := (matOuts c g).dropLast })

/-- An array's record replaced. -/
def State.putRun (s : State) (r x : Nat) (u : ArrayUnit) : State := s.putRegion r ((s.region r).putArray x u)

/-- The tile in progress starts again with the scale lowered by 2 (R76). -/
def ArrayRun.lower (w : ArrayRun) (g : Mat) : ArrayRun :=
  { w with scale := w.scale - 2, attempt := w.attempt + 1, pass := 0, cols := 0, accs := g.fresh w.tile }

/-- A matrix command stops in array `x` of region `r`. -/
def matStop (s : State) (c : Cmd) (r x : Nat) (st : Status) : State :=
  let e := matrixOp.quit (s.blameAt (pgArray r x) r (x / 2) st) c st
  e.1.putCmd e.2

/-- A finished tile: the unit's next tile, or the commit of the whole unit, which ends the command when it was the last; a region
that drains keeps the command no longer (R96). -/
def tileDone (s : State) (c : Cmd) (g : Mat) (r x : Nat) (u : ArrayUnit) (w : ArrayRun) (t : TileDone) : State :=
  let held := w.held ++ [t]
  match ((g.unitTiles w.unit).drop held.length).head? with
  | some next => s.putRun r x { u with run := some { w with tile := next, held := held, scale := g.outScale, attempt := 0, pass := 0, cols := 0, accs := g.fresh next } }
  | none =>
    let s := (s.putRun r x { u with run := none }).count (pgArray r x) 0x202 held.length
    match commitTiles s c g held with
    | .error st => matStop s c r x st
    | .ok (s', d) =>
      let d := { d with done := insertNat w.unit d.done, units := d.units + held.length }
      if (matrixOp.nextUnit s' d).isNone then (matrixOp.close s' d).1.putCmd (matrixOp.close s' d).2
      else if (s'.region r).state = .draining then s'.quits d r else s'.putCmd d

/-- Groups of 32 columns in a tile. -/
def Mat.tileGroups (g : Mat) (tile : Nat) : Nat := ceilDiv (g.tileCols tile).length 32

/-- Groups of 32 columns that an array has in service (R92). -/
def ArrayUnit.groups (u : ArrayUnit) : Nat := 4 - u.colFenced.length

/-- Groups left over towards the next pass, where an array has fewer in service than the tile has (R92). -/
def ArrayUnit.over (u : ArrayUnit) (done need : Nat) : Nat := if need ≤ u.groups then 0 else done + u.groups - need

/-- A whole pass of the tile the array holds ends. -/
def passWhole (s : State) (c : Cmd) (g : Mat) (r x : Nat) (u : ArrayUnit) (w : ArrayRun) : State :=
  match passTile s c g (c.cnt 3) w.tile w.scale w.pass w.accs with
  | .error st => matStop (s.putRun r x { u with run := none }) c r x st
  | .ok accs =>
    let v := { u with suspect := none }
    if g.repeats ∧ w.attempt < 4 ∧ accs.any (·.isOver) then
      (s.putRun r x { v with run := some (w.lower g) }).count (pgArray r x) 0x203 1
    else if w.pass + 1 < g.passes (c.cnt 3) then s.putRun r x { u with run := some { w with pass := w.pass + 1, accs := accs } }
    else
      let u := v
      match endTile s c g (c.cnt 3) w.tile w.scale accs with
      | .error st => matStop (s.putRun r x { u with run := none }) c r x st
      | .ok es =>
        match judge g w.tile w.scale w.attempt es with
        | .commit t => tileDone s c g r x u w t
        | .again => (s.putRun r x { u with run := some (w.lower g) }).count (pgArray r x) 0x203 1

/-- Cycles of a pass slot (R62). -/
def Mat.slotCycles (g : Mat) : Nat := match g.mode with | some .half | some .split => 128 | _ => 64

/-- A pass slot of the tile the array holds ends without a stop: the groups of columns that the array has in service are done, and
with the last of the tile's the pass (R92). While the governor holds the starting ramps, an idle array does not start
(R430). (DEDUCED, log entry 77). -/
def passOn (s : State) (c : Cmd) (g : Mat) (r x : Nat) (u : ArrayUnit) (w : ArrayRun) : State :=
  if s.gov.holding && !u.active then s else
  let need := g.tileGroups w.tile
  let s := s.count (pgArray r x) 0x201 g.slotCycles
  let v := { u with active := true, ramping := !u.active }
  if w.cols + u.groups < need then s.putRun r x { v with run := some { w with cols := w.cols + u.groups } }
  else passWhole s c g r x v { w with cols := u.over w.cols need }

/-- A residue mismatch in column `col` (R91): the attempt is discarded; the second in a row fences the column. -/
def residueRetry (s : State) (r x col : Nat) (u : ArrayUnit) (w : ArrayRun) : State :=
  if u.suspect = some col then
    ((s.putRun r x { u with run := some w }).count (pgArray r x) 0x204 1).fenceColumn r x col
  else
    ((s.putRun r x { u with run := some w.again, suspect := some col }).record (pgArray r x) .corrected 0).count (pgArray r x) 0x204 1

/-- The array pauses through a slot and keeps its sums; the stop ramp follows (R93). -/
def pausePass (s : State) (g : Mat) (r x : Nat) (u : ArrayUnit) (w : ArrayRun) : State :=
  (s.count (pgArray r x) 0x206 g.slotCycles).putRun r x { u with run := some w, active := false, ramping := u.active }

/-- The array stops and discards its tile; the stop ramp follows, and the command resumes elsewhere (R93). -/
def stopPass (s : State) (c : Cmd) (r x : Nat) (u : ArrayUnit) : State :=
  (s.putRun r x { u with run := none, active := false, ramping := u.active }).quits c r

/-- What the boundary does with the tile in progress (R93, R435); an IN_PLACE row block is stopped by none of it but a pause (R96). -/
def boundaryRun (s : State) (c : Cmd) (g : Mat) (r x : Nat) (u : ArrayUnit) (w : ArrayRun) (b : Boundary) : State :=
  let v := { u with slot := (u.slot + 1) % 16 }
  match b with
  | .residue col => residueRetry s r x col v w
  | .goOn | .throttle => if arrayPaused s.gov.throttle u.slot then pausePass s g r x v w else passOn s c g r x v w
  | .preempt | .drain => if w.inPlace then passOn s c g r x v w else stopPass s c r x v

/-- A started matrix command whose tiles arrays run. -/
def onArrays (_ : State) (c : Cmd) : Bool := c.opcode == 0x201 || c.opcode == 0x202

/-- The tile an array holds, while its command still runs and the unit is not committed. -/
def liveRun (s : State) (u : ArrayUnit) : Option ArrayRun :=
  u.run.filter (fun w => (s.cmd? w.q w.n).any (fun c => decide (c.phase = .started) && !c.done.contains w.unit))

/-- ARRAY_PASS_END (R93): one pass of the tile this array works on reaches its boundary. -/
def arrayPass (region array q n : Nat) (b : Boundary) (s : State) : State :=
  match s.runnable q n (onArrays s) with
  | none => s
  | some c =>
    match c.mat with
    | none => s
    | some g =>
      if !arrayServes (s.region region) array then s else
      if (s.page (pgArray region array)).injectNext then
        matStop (s.modPage (pgArray region array) (fun h => { h with injectNext := false })) c region array .checkFail else
      match withMeasure s c g with
      | .error st => matStop s c region array st
      | .ok c =>
        let c := c.keepTables s (matTables s c)
        let s := s.putCmd c
        let u := (s.region region).array array
        match liveRun s u with
        | some w => if w.q = q ∧ w.n = n then boundaryRun s c g region array u w b else s
        | none =>
          match arrayStart s c g, s.joinRegion c region with
          | some w, some (t, c) => boundaryRun (t.putCmd c) c g region array u w b
          | _, _ => s

/-- ARRAY_IDLE (R90): after 16 cycles without a ready pass the array runs its stop ramp and is idle. -/
def execArrayIdle (region : Fin 8) (array : Fin 4) (s : State) : Host.Outcome State Fault Refusal :=
  .next (let u := (s.region region).array array
         if s.alive && u.run.isNone then s.putRun region array { u with active := false, ramping := u.active } else s)

end Sys2Proof.Machine
end

