-- ==== Sys2Proof/Machine/Vector.lean ====
section
/-! DEFINITION. Vector engines and reduction units: ELEMENTWISE, REDUCE, SOFTMAX, SOFTMAX_BWD, COMPACT, EXPAND (chapter 04). -/

namespace Sys2Proof.Machine

/-! ### The body (R133 to R135) -/

/-- NIN. -/
def vNin (c : Cmd) : Nat := c.fld 36 1
/-- NOUT. -/
def vNout (c : Cmd) : Nat := c.fld 37 1
/-- NPROG. -/
def vNprog (c : Cmd) : Nat := c.fld 38 1
/-- PREC as a format. -/
def vPrec (c : Cmd) : Fmt := if c.fld 39 1 = 1 then .fp64 else .fp32
/-- VEC_FLAGS. -/
def vFlags (c : Cmd) : Nat := c.fld 40 2
/-- REDUCE_OP. -/
def vRop (c : Cmd) : Nat := c.fld 42 1
/-- REDUCE_DIMS. -/
def vRdims (c : Cmd) : Nat := c.fld 43 1
/-- The report is asked for. -/
def vReport (c : Cmd) : Bool := bitAt (vFlags c) 7
/-- IN_PLACE. -/
def vInPlace (c : Cmd) : Bool := bitAt (vFlags c) 6
/-- HAS_MASK. -/
def vHasMask (c : Cmd) : Bool := bitAt (vFlags c) 5
/-- ROWWISE. -/
def vRowwise (c : Cmd) : Bool := bitAt (vFlags c) 4
/-- KEEP_UNSET. -/
def vKeep (c : Cmd) : Bool := bitAt (vFlags c) 3
/-- LOG_OUT. -/
def vLogOut (c : Cmd) : Bool := bitAt (vFlags c) 2

/-- Constant `i` at PREC (R111). -/
def vConst (c : Cmd) (i : Nat) : Num := roundTo (vPrec c) (decFloat .fp64 (c.fld (64 + 8 * i) 8))

/-- The length of a vector body, from its header (R133). -/
def vBodyLen (hdr : Bytes) : Nat := 384 + 64 * (fieldAt hdr 36 1 + fieldAt hdr 37 1)

/-- The input descriptors. -/
def vIns (c : Cmd) : List Tens := (List.range (vNin c)).filterMap (fun i => c.tens (384 + 64 * i))
/-- The output descriptors. -/
def vOuts (c : Cmd) : List Tens := (List.range (vNout c)).filterMap (fun i => c.tens (384 + 64 * (vNin c + i)))

/-- A descriptor that is not there. -/
def noTens : Tens := 
  { base := 0, fmt := .fp32, rank := 1, flags := 0, scaleOff := 0, sizes := List.replicate 6 1, strides := List.replicate 6 0 }
/-- Input `i`. -/
def vIn (c : Cmd) (i : Nat) : Tens := nth noTens (vIns c) i
/-- Output `i`. -/
def vOut (c : Cmd) (i : Nat) : Tens := nth noTens (vOuts c) i

/-- The tensor whose shape is the iteration's (R108, R136). -/
def vIter (c : Cmd) : Tens :=
  if c.opcode = 0x302 ∨ c.opcode = 0x304 then vIn c 0 else if c.opcode = 0x305 then vIn c 1 else vOut c 0

/-- An input's logical index at iteration indices; a size of 1 repeats (R109). -/
def vAt (t : Tens) (ix : List Nat) : Nat :=
  t.logical ((List.range 6).map (fun d => if t.size d = 1 then 0 else nth 0 ix d))

/-- An input is broadcast: of size 1 where output 0 is larger (R107). -/
def vBroadcast (out t : Tens) : Bool := (List.range 6).any (fun d => t.size d == 1 && decide (1 < out.size d))

/-- The chunk size E (R107). (DEDUCED, log entry 21). -/
def vChunk (c : Cmd) : Nat :=
  let b := (((vIns c).filter (fun t => !vBroadcast (vOut c 0) t)).map (fun t => t.fmt.bytes)).sum + ((vOuts c).map (fun t => t.fmt.bytes)).sum
  min 4096 (c.fld 52 4 / (2 * b) / 256 * 256)

/-! ### Elementwise programs (R111 to R117) -/

/-- A value of a program. -/
inductive PVal where
  | f (x : Num)
  | i (v : Int)
deriving DecidableEq, Repr

/-- The parts of an instruction (R112). -/
structure PIns where
  op  : Nat
  a   : Nat
  b   : Nat
  c   : Nat
  sub : Nat
  rsv : Nat
deriving DecidableEq, Repr

/-- Instruction `i` of the program. -/
def vIns8 (c : Cmd) (i : Nat) : PIns :=
  let w := c.fld (128 + 8 * i) 8
  ⟨bitsOf w 63 56, bitsOf w 55 48, bitsOf w 47 40, bitsOf w 39 32, bitsOf w 31 24, bitsOf w 23 0⟩

/-- The program's instructions. -/
def vProg (c : Cmd) : List PIns := (List.range (vNprog c)).map (vIns8 c)

/-- Which operand fields an operation uses: a, b, c, SUB (R113). -/
def pUses (op : Nat) : Option (Bool × Bool × Bool × Bool) :=
  if op = 1 ∨ op = 2 ∨ op = 3 ∨ op = 5 ∨ op = 6 ∨ op = 0x0E ∨ op = 0x0F ∨ op = 0x10 then some (true, true, false, false)
  else if op = 4 then some (true, true, true, false)
  else if op = 7 ∨ op = 8 ∨ op = 0x0C ∨ op = 0x0D then some (true, false, false, false)
  else if op = 9 then some (true, true, false, true)
  else if op = 0x0A then some (true, true, true, false)
  else if op = 0x0B ∨ op = 0x12 then some (true, false, false, true)
  else if op = 0x11 then some (false, false, false, true)
  else none

/-- A type of a slot: some true for a float, some false for an INT32, none where nothing may be read. -/
abbrev PTy := Option Bool

/-- The type that an input loads as (R111). -/
def pInTy (t : Tens) : Bool := !t.fmt.isInt

/-- The result type of an instruction whose operand types fit the table of R113: `none` refuses. -/
def pType (ins : PIns) (ta tb tc : PTy) : Option PTy :=
  let same : Option PTy := match ta, tb with | some x, some y => if x = y then some (some x) else none | _, _ => none
  if ins.op = 1 ∨ ins.op = 2 ∨ ins.op = 3 ∨ ins.op = 5 ∨ ins.op = 6 then same
  else if ins.op = 4 then (if ta = some true ∧ tb = some true ∧ tc = some true then some (some true) else none)
  else if ins.op = 7 ∨ ins.op = 8 then (if ta.isSome then some ta else none)
  else if ins.op = 9 then (if same.isSome ∧ ins.sub ≤ 6 then some (some false) else none)
  else if ins.op = 0x0A then (if tc = some false then same else none)
  else if ins.op = 0x0B then (if ta = some true ∧ funcKnown ins.sub then some (some true) else none)
  else if ins.op = 0x0C then (if ta = some false then some (some true) else none)
  else if ins.op = 0x0D then (if ta = some true then some (some false) else none)
  else if ins.op = 0x0E ∨ ins.op = 0x0F ∨ ins.op = 0x10 then (if ta = some false ∧ tb = some false then some (some false) else none)
  else if ins.op = 0x11 then (if ins.sub ≤ 5 then some (some false) else none)
  else if ins.op = 0x12 then (if ta.isSome then some none else none)
  else none

/-- The type in a slot, given the inputs and the results so far. -/
def pSlotTy (ins : List Tens) (res : List PTy) (k : Nat) : PTy :=
  if k < 8 then (ins[k]?).map pInTy else if k < 16 then some true else if k < 48 then (res[k - 16]?).join else none

/-- The program's checks from its first instruction on (R114). -/
def pCheck (ins : List Tens) (it : Tens) : List PIns → List PTy → Bool
  | [], _ => true
  | p :: ps, res =>
    match pUses p.op with
    | none => false
    | some (ua, ub, uc, us) =>
      let fieldsOk := (ua || p.a == 0) && (ub || p.b == 0) && (uc || p.c == 0) && (us || p.sub == 0) && p.rsv == 0
      let idxOk := p.op != 0x11 || decide (it.size p.sub ≤ 2147483647)
      match pType p (if ua then pSlotTy ins res p.a else none) (if ub then pSlotTy ins res p.b else none)
              (if uc then pSlotTy ins res p.c else none) with
      | none => false
      | some ty => fieldsOk && idxOk && pCheck ins it ps (res ++ [ty])

/-- Operations and primitives of a FUNC (R119). -/
def funcSteps (sub : Nat) : Nat × Nat :=
  match sub with
  | 0x00 => (0, 0) | 0x01 | 0x80 | 0x81 => (1, 0) | 0x02 => (8, 1) | 0x03 => (4, 1) | 0x04 => (3, 2) | 0x05 => (2, 2)
  | 0x82 => (16, 1) | 0x83 => (8, 2) | 0x84 => (6, 2) | 0x85 => (4, 2) | 0x86 => (2, 1) | _ => (0, 1)

/-- The slot is an input in BF16. -/
def bf16Slot (ins : List Tens) (k : Nat) : Bool := decide (k < 8) && (ins[k]?).any (fun t => t.fmt == .bf16)

/-- What an instruction costs an engine for 256 elements, in quarters of a cycle (R121). -/
def PIns.cost (F : Fmt) (ins : List Tens) (p : PIns) : Nat :=
  if p.op = 0x12 then 0
  else if p.op = 0x0B then (let n := funcSteps p.sub; if F = .fp64 then 8 * n.1 + 64 * n.2 else 4 * n.1 + 16 * n.2)
  else if F = .fp64 then 8
  else if (p.op = 3 ∨ p.op = 4) ∧ bf16Slot ins p.a = true ∧ bf16Slot ins p.b = true then 2 else 4

/-- The arithmetic of a command's program for 256 elements, in quarters of a cycle, on an engine with `lanes` of its 8 lane groups in
service (R104, R121). -/
def vArith (c : Cmd) (lanes : Nat) : Nat := ((vProg c).map (fun p => p.cost (vPrec c) (vIns c))).sum * 8 / lanes

/-- The loader limit for 256 elements, in quarters of a cycle (R121): the inputs that are not broadcast, and the outputs of an
ELEMENTWISE; a REDUCE writes one element a group. -/
def vLoader (c : Cmd) : Nat :=
  max (((vIns c).filter (fun t => !vBroadcast (vIter c) t)).map (fun t => t.fmt.bytes)).sum
    (if c.opcode = 0x302 then 0 else 2 * ((vOuts c).map (fun t => t.fmt.bytes)).sum)

/-- Cycles for `groups` groups of 256 elements in which the loader term exceeds the arithmetic (R121, source 0x0302). -/
def vLoaderBound (c : Cmd) (lanes groups : Nat) : Nat :=
  if (c.opcode = 0x301 ∨ c.opcode = 0x302) ∧ vArith c lanes < vLoader c then groups * vLoader c / 4 else 0

/-- Every output is stored exactly once (R114). -/
def pStores (nout : Nat) (prog : List PIns) : Bool :=
  (List.range nout).all (fun o => (prog.filter (fun p => p.op == 0x12 && p.sub == o)).length == 1) &&
  (prog.all (fun p => p.op != 0x12 || decide (p.sub < nout)))

/-- The smaller of two floats; NaN with a NaN, −0 below +0 (R115). -/
def fMin (x y : Num) : Num :=
  if x.isNan || y.isNan then .nan else if x.lt y then x else if y.lt x then y else if x.sign then x else y
/-- The larger of two floats. -/
def fMax (x y : Num) : Num :=
  if x.isNan || y.isNan then .nan else if x.lt y then y else if y.lt x then x else if x.sign then y else x

/-- An INT32 result, saturated and counted (R116). -/
def iSat (v : Int) : PVal × Nat :=
  if v < -2147483648 then (.i (-2147483648), 1) else if 2147483647 < v then (.i 2147483647, 1) else (.i v, 0)

/-- The comparison SUB (R113, R115). -/
def fCmp (sub : Nat) (x y : Num) : Bool :=
  match sub with
  | 0 => x.eqv y | 1 => !x.eqv y | 2 => x.lt y | 3 => x.le y | 4 => y.lt x | 5 => y.le x | _ => x.isNan || y.isNan

/-- The comparison SUB of INT32. -/
def iCmp (sub : Nat) (x y : Int) : Bool :=
  match sub with
  | 0 => decide (x = y) | 1 => decide (x ≠ y) | 2 => decide (x < y) | 3 => decide (x ≤ y) | 4 => decide (y < x)
  | 5 => decide (y ≤ x) | _ => false

/-- A bitwise INT32 operation. -/
def iBits (f : BitVec 32 → BitVec 32 → BitVec 32) (x y : Int) : Int := (f (BitVec.ofInt 32 x) (BitVec.ofInt 32 y)).toInt

/-- One instruction's value and count (R113, R115, R116). -/
def pEval (F : Fmt) (ix : List Nat) (p : PIns) (a b c : PVal) : PVal × Nat :=
  match p.op, a, b, c with
  | 1, .f x, .f y, _ => (.f (addAt F x y), 0)
  | 1, .i x, .i y, _ => iSat (x + y)
  | 2, .f x, .f y, _ => (.f (subAt F x y), 0)
  | 2, .i x, .i y, _ => iSat (x - y)
  | 3, .f x, .f y, _ => (.f (mulAt F x y), 0)
  | 3, .i x, .i y, _ => iSat (x * y)
  | 4, .f x, .f y, .f z => (.f (fmaAt F x y z), 0)
  | 5, .f x, .f y, _ => (.f (fMin x y), 0)
  | 5, .i x, .i y, _ => (.i (min x y), 0)
  | 6, .f x, .f y, _ => (.f (fMax x y), 0)
  | 6, .i x, .i y, _ => (.i (max x y), 0)
  | 7, .f x, _, _ => (.f x.abs, 0)
  | 7, .i x, _, _ => iSat x.natAbs
  | 8, .f x, _, _ => (.f x.neg, 0)
  | 8, .i x, _, _ => iSat (-x)
  | 9, .f x, .f y, _ => (.i (bit (fCmp p.sub x y)), 0)
  | 9, .i x, .i y, _ => (.i (bit (iCmp p.sub x y)), 0)
  | 0x0A, x, y, .i k => (if k ≠ 0 then x else y, 0)
  | 0x0B, .f x, _, _ => (.f (funcAt F p.sub x), 0)
  | 0x0C, .i x, _, _ => (.f (roundTo F (nInt x)), 0)
  | 0x0D, .f x, _, _ => (let e := encInt .int32 .rne x; (.i (signedOf 32 e.code), e.sat))
  | 0x0E, .i x, .i y, _ => (.i (iBits (· &&& ·) x y), 0)
  | 0x0F, .i x, .i y, _ => (.i (iBits (· ||| ·) x y), 0)
  | 0x10, .i x, .i y, _ => (.i (iBits (· ^^^ ·) x y), 0)
  | 0x11, _, _, _ => (.i ((nth 0 ix p.sub : Nat) : Int), 0)
  | _, x, _, _ => (x, 0)

/-- The program run on one element: results so far, stored outputs, saturations. -/
def pRun (F : Fmt) (ix : List Nat) (ins consts : List PVal) : List PIns → List PVal → List (Nat × PVal) → Nat → List (Nat × PVal) × Nat
  | [], _, st, sat => (st, sat)
  | p :: ps, res, st, sat =>
    let get (k : Nat) : PVal :=
      if k < 8 then nth (.i 0) ins k else if k < 16 then nth (.i 0) consts (k - 8) else nth (.i 0) res (k - 16)
    let r := pEval F ix p (get p.a) (get p.b) (get p.c)
    pRun F ix ins consts ps (res ++ [r.1]) (if p.op = 0x12 then st ++ [(p.sub, r.1)] else st) (sat + r.2)

/-- A value as a number. -/
def PVal.num : PVal → Num
  | .f x => x | .i v => nInt v

/-- An input element as a program's value (R111). -/
def pLoad (F : Fmt) (t : Tens) (x : Num) : PVal :=
  if t.fmt.isInt then
    (match x with
     | .fin n m e => .i (if n then -(alignTo m e 0 : Int) else alignTo m e 0)
     | _ => .i 0)
  else .f (roundTo F x)

/-- The program on one element of the iteration: the values stored, by output, with the saturations counted inside. -/
def vRunElem (s : State) (c : Cmd) (i : Nat) : Except Status (List (Nat × PVal) × Nat) := do
  let it := vIter c
  let ix := it.indices i
  let F := vPrec c
  let xs ← (vIns c).mapM (fun t => (s.elem t (vAt t ix)).map (pLoad F t))
  .ok (pRun F ix xs ((List.range 8).map (fun k => .f (vConst c k))) (vProg c) [] [] 0)

/-! ### Reductions (R122 to R125) -/

/-- One level of the tree: neighbours combined, an odd last node passed up (R123). -/
def treeLevel {α : Type} (f : α → α → α) : List α → List α
  | x :: y :: r => f x y :: treeLevel f r
  | r => r

/-- The tree, level by level (fuel: the list's length). -/
def treeFuel {α : Type} (f : α → α → α) : Nat → List α → List α
  | 0, l => l
  | n + 1, l => if l.length ≤ 1 then l else treeFuel f n (treeLevel f l)

/-- The tree of R123; `d` for an empty group. -/
def tree {α : Type} (f : α → α → α) (d : α) (l : List α) : α := (treeFuel f l.length l).headD d

/-- The SUM tree at PREC. -/
def sumTree (F : Fmt) (l : List Num) : Num := tree (addAt F) nZero l
/-- The MAX tree. -/
def maxTree (l : List Num) : Num := tree fMax (.inf true) l

/-- ARGMAX's combine step: `lt` orders values, NaN wins, ±0 ordered (R124). -/
def argStep (maxi : Bool) (l r : Num × Nat) : Num × Nat :=
  let better (x y : Num) : Bool :=
    if maxi then y.lt x || (x.eqv y && x.isZero && !x.sign && y.sign) else x.lt y || (x.eqv y && x.isZero && x.sign && !y.sign)
  if l.1.isNan then l else if r.1.isNan || better r.1 l.1 then r else l

/-- LSE of a group (R125). -/
def lseOf (F : Fmt) (xs : List Num) : Num :=
  if xs.any Num.isNan then .nan
  else if xs.any (fun x => x.isInf && !x.sign) then .inf false
  else if xs.all (fun x => x.isInf) then .inf true
  else
    let m := maxTree xs
    addAt F m (primFunc F 0x12 (sumTree F (xs.map (fun x => if x.isInf then nZero else primFunc F 0x10 (subAt F x m)))))

/-- The result of a group (R124). -/
def reduceGroup (F : Fmt) (op : Nat) (xs : List Num) : Num :=
  match op with
  | 0 => sumTree F xs
  | 1 => maxTree xs
  | 2 => tree fMin (.inf false) xs
  | 3 => nNat (tree (argStep true) (.nan, 0) (xs.zipIdx)).2
  | 4 => nNat (tree (argStep false) (.nan, 0) (xs.zipIdx)).2
  | _ => lseOf F xs

/-- The elements of the reduction group of output element `o`, in order of position (R122). -/
def groupElems (it out : Tens) (dims : Nat) (o : Nat) : List Nat :=
  let oi := out.indices o
  (List.range 6).foldr (fun d (acc : List (List Nat)) =>
    if dims.testBit d then (acc.flatMap (fun tl => (List.range (it.size d)).map (fun v => v :: tl)))
    else acc.map (fun tl => nth 0 oi d :: tl)) [[]] |>.map it.logical

/-! ### Softmax (R126, R127) -/

/-- A settled row: probabilities or log-probabilities, LSE, and the count it raises (1 MASKED, 2 NAN, 3 INF, 0 none). -/
structure SoftRow where
  p    : List Num
  lse  : Num
  cnt  : Nat

/-- The row settled by the first case that applies (R126, R127). -/
def softRow (F : Fmt) (logOut : Bool) (ys : List (Num × Bool)) : SoftRow :=
  let isPI (y : Num × Bool) : Bool := y.2 && y.1.isInf && !y.1.sign
  let isF (y : Num × Bool) : Bool := y.2 && y.1.isFin
  let k := (ys.filter isPI).length
  if ys.any (fun y => y.2 && y.1.isNan) then ⟨ys.map (fun _ => .nan), .nan, 2⟩
  else if 0 < k then
    (let v := if logOut then (primFunc F 0x12 (nNat k)).neg else primFunc F 0x14 (nNat k)
     ⟨ys.map (fun y => if isPI y then v else if logOut then .inf true else nZero), .inf false, 3⟩)
  else if !ys.any isF then ⟨ys.map (fun _ => if logOut then .inf true else nZero), .inf true, 1⟩
  else
    let m := maxTree ((ys.filter isF).map (·.1))
    let e := ys.map (fun y => if isF y then primFunc F 0x10 (subAt F y.1 m) else nZero)
    let S := sumTree F e
    let lg := primFunc F 0x12 S
    let r := primFunc F 0x14 S
    ⟨if logOut then ys.map (fun y => if isF y then subAt F (subAt F y.1 m) lg else .inf true) else e.map (fun x => mulAt F x r),
     addAt F m lg, 0⟩

/-- SOFTMAX_BWD of one row (R128). -/
def softBwdRow (F : Fmt) (ps dys : List Num) : List Num :=
  let D := sumTree F (List.zipWith (mulAt F) dys ps)
  List.zipWith (fun p dy => mulAt F p (subAt F dy D)) ps dys

/-! ### ELEMENTWISE, REDUCE, SOFTMAX (R111 to R128, R139) -/

/-- The draw of output `o` (R117). -/
def vDraw (s : State) (c : Cmd) (o : Nat) : Draw := s.draw c (bitAt (vFlags c) (8 + o)) (c.fld (4 * o) 4) (c.fld 32 4) (0x300 + o)

/-- ELEMENTWISE: one chunk (R111 to R117). -/
def ewUnit (s : State) (c : Cmd) (k : Nat) : Except Status (State × Cmd) := do
  let it := vIter c
  let ch := (cutOf it.count (it.size 0) (vChunk c) ((vOuts c).any (fun t => t.fmt.isBlock))).chunk k
  let rs ← (List.range ch.2).mapM (fun j => vRunElem s c (ch.1 + j))
  let sat := (rs.map (·.2)).sum
  let p := (List.range (vNout c)).foldl (fun (p : Packed) o =>
    p.append (packRun (vOut c o) (vDraw s c o) ch.1
      (rs.map (fun r => (((r.1.find? (fun x => x.1 == o)).map (fun x => x.2.num)).getD nZero))))) ⟨[], sat⟩
  let r ← commitWrites s c p
  .ok (r.1, r.2.addCnt 0 ch.2)

/-- The value that REDUCE feeds to its tree for one element (R124): input 0 at PREC, or the program's one STORE. (DEDUCED, log entry 64). -/
def redValue (s : State) (c : Cmd) (i : Nat) : Except Status (Num × Nat) := do
  let F := vPrec c
  if vNprog c = 0 then
    let x ← s.elem (vIn c 0) (vAt (vIn c 0) ((vIter c).indices i))
    .ok (roundTo F x, 0)
  else
    let r ← vRunElem s c i
    .ok (roundTo F (((r.1.head?).map (fun x => x.2.num)).getD nZero), r.2)

/-- Elements of one reduction group. -/
def redSize (c : Cmd) : Nat := (List.range 6).foldl (fun a d => if (vRdims c).testBit d then a * (vIter c).size d else a) 1

/-- REDUCE's cut: whole groups. -/
def redCut (c : Cmd) : Cut :=
  cutOf (vOut c 0).count ((vOut c 0).size 0) (max 1 (vChunk c / redSize c)) (vOut c 0).fmt.isBlock

/-- The row count that a group's LSE raises, by the cases of R126 (R125): 1 MASKED, 2 NAN, 3 INF. -/
def lseCount (xs : List Num) : Option Nat :=
  if xs.any Num.isNan then some 2
  else if xs.any (fun x => x.isInf && !x.sign) then some 3
  else if xs.all (fun x => x.isInf) then some 1
  else none

/-- REDUCE: one chunk of groups (R122 to R125). -/
def redUnit (s : State) (c : Cmd) (k : Nat) : Except Status (State × Cmd) := do
  let ch := (redCut c).chunk k
  let out := vOut c 0
  let rs ← (List.range ch.2).mapM (fun j => do
    let vs ← (groupElems (vIter c) out (vRdims c) (ch.1 + j)).mapM (redValue s c)
    Except.ok (reduceGroup (vPrec c) (vRop c) (vs.map (·.1)), (vs.map (·.2)).sum, if vRop c = 5 then lseCount (vs.map (·.1)) else none))
  let p := (packRun out (vDraw s c 0) ch.1 (rs.map (·.1))).append ⟨[], (rs.map (·.2.1)).sum⟩
  let r ← commitWrites s c p
  .ok (r.1, (rs.filterMap (·.2.2)).foldl (fun d k => d.addCnt k 1) (r.2.addCnt 0 (ch.2 * redSize c)))

/-- Rows of the iteration. -/
def vRows (c : Cmd) : Nat := (vIter c).rows

/-- Rows in one chunk of SOFTMAX and SOFTMAX_BWD. -/
def softStep (c : Cmd) : Nat := max 1 (vChunk c / (vIter c).size 0)

/-- The mask byte of an entry is not zero, or there is no mask. -/
def maskBit (s : State) (t : Option Tens) (ix : List Nat) : Except Status Bool :=
  match t with
  | none => .ok true
  | some m => (s.elem m (vAt m ix)).map (fun x => !x.isZero)

/-- SOFTMAX of one row. -/
def softOne (s : State) (c : Cmd) (row : Nat) : Except Status (State × Cmd) := do
  let it := vIter c
  let F := vPrec c
  let n := it.size 0
  let first := row * n
  let ys ← (List.range n).mapM (fun j => do
    let ix := it.indices (first + j)
    let x ← s.elem (vIn c 0) (vAt (vIn c 0) ix)
    let m ← maskBit s (if vHasMask c then some (vIn c 1) else none) ix
    Except.ok (mulAt F (roundTo F x) (vConst c 0), m))
  let r := softRow F (vLogOut c) ys
  let p := packRun it (vDraw s c 0) first r.p
  let p := if vNout c = 2 then p.append (packRow (vOut c 1) (vDraw s c 1) row [r.lse]) else p
  let w ← commitWrites s c p
  .ok (w.1, (if r.cnt = 0 then w.2 else w.2.addCnt r.cnt 1).addCnt 0 n)

/-- SOFTMAX_BWD of one row. -/
def softBwdOne (s : State) (c : Cmd) (row : Nat) : Except Status (State × Cmd) := do
  let it := vIter c
  let F := vPrec c
  let n := it.size 0
  let get (t : Tens) := (List.range n).mapM (fun j => (s.elem t (vAt t (it.indices (row * n + j)))).map (roundTo F))
  let ps ← get (vIn c 0)
  let dys ← get (vIn c 1)
  let w ← commitWrites s c (packRun it (vDraw s c 0) (row * n) (softBwdRow F ps dys))
  .ok (w.1, w.2.addCnt 0 n)

/-- Rows `a` to `a + n − 1` one after another. -/
def rowsFrom (f : State → Cmd → Nat → Except Status (State × Cmd)) (a : Nat) : Nat → State → Cmd → Except Status (State × Cmd)
  | 0, s, c => .ok (s, c)
  | n + 1, s, c => do
    let r ← rowsFrom f a n s c
    f r.1 r.2 (a + n)

/-- SOFTMAX: one chunk of rows. -/
def softUnit (s : State) (c : Cmd) (k : Nat) : Except Status (State × Cmd) :=
  rowsFrom softOne (k * softStep c) (min (softStep c) (vRows c - k * softStep c)) s c

/-- SOFTMAX_BWD: one chunk of rows. -/
def softBwdUnit (s : State) (c : Cmd) (k : Nat) : Except Status (State × Cmd) :=
  rowsFrom softBwdOne (k * softStep c) (min (softStep c) (vRows c - k * softStep c)) s c

/-! ### COMPACT and EXPAND (R129 to R132) -/

/-- The logical indices among `is` whose mask byte is not zero. -/
def actives (s : State) (it m : Tens) (is : List Nat) : Except Status (List Nat) :=
  is.filterM (fun i => maskBit s (some m) (it.indices i))

/-- The chunks of COMPACT and EXPAND: at most E elements, whole rows or a part of one row with ROWWISE, and whole blocks of Y in
EXPAND (R107, R139). (DEDUCED, log entry 21). -/
def spreadCut (c : Cmd) : Cut :=
  let it := vIter c
  let blocky := c.opcode == 0x305 && (vOut c 0).fmt.isBlock
  let step := if blocky then max 32 (vChunk c / 32 * 32) else vChunk c
  if !vRowwise c then cutOf it.count (it.size 0) (vChunk c) blocky
  else if it.size 0 ≤ step then ⟨it.count, it.size 0, step / it.size 0 * it.size 0, false⟩ else ⟨it.count, it.size 0, step, true⟩

/-- The stretches of chunk `k`, each within one row with ROWWISE: first element and length. -/
def spreadRuns (c : Cmd) (k : Nat) : List (Nat × Nat) :=
  let ch := (spreadCut c).chunk k
  let row := (vIter c).size 0
  if !vRowwise c || decide (ch.2 ≤ row) then [ch] else (List.range (ch.2 / row)).map (fun r => (ch.1 + r * row, row))

/-- The first element and the length of the run that positions count over: the row of element `i`, or everything (R132). -/
def spreadRow (c : Cmd) (i : Nat) : Nat × Nat :=
  let it := vIter c
  if vRowwise c then (i / it.size 0 * it.size 0, it.size 0) else (0, it.count)

/-- Stretches one after another. -/
def runsFrom (f : State → Cmd → Nat → Nat → Except Status (State × Cmd)) : List (Nat × Nat) → State → Cmd → Except Status (State × Cmd)
  | [], s, c => .ok (s, c)
  | r :: rs, s, c => do
    let x ← f s c r.1 r.2
    runsFrom f rs x.1 x.2

/-- Some elements of one block are written, and the others are left: their bytes, the scale that the written ones choose, and the
padding of a row's last block (R42, R43, R129, R131). -/
def packSomeBlock (t : Tens) (d : Draw) (first : Nat) (xs : List (Option Num)) : Packed :=
  if xs.all (·.isNone) then {} else
  let e := encBlock t.fmt (fun k => d.mode (first + k)) (xs.map (fun x => x.getD nZero))
  let ix := t.indices first
  let a := t.addrOf ix
  let pad : Writes := if t.size 0 - first % t.size 0 < 32 then [(a + (t.size 0 - first % t.size 0), natBytes (32 - (t.size 0 - first % t.size 0)) 0)] else []
  ⟨(xs.zipIdx.filterMap (fun x => x.1.map (fun _ => (a + x.2, natBytes 1 (nth 0 e.codes x.2))))) ++ pad ++ [(t.scaleAddr ix, natBytes 1 e.scale)], e.sat⟩

/-- Some elements of a run from logical index `first`, which begins a block in a block format. -/
def packSome (t : Tens) (d : Draw) (first : Nat) (xs : List (Option Num)) : Packed :=
  if t.fmt.isBlock then
    (let row := t.size 0
     let lead := min xs.length (row - first % row)
     let rows := (first, xs.take lead) :: (pieces row (xs.drop lead)).zipIdx.map (fun r => (first + lead + row * r.2, r.1))
     packAll (rows.flatMap (fun r => (pieces 32 r.2).zipIdx.map (fun b => packSomeBlock t d (r.1 + 32 * b.2) b.1))))
  else packPlain t d (xs.zipIdx.filterMap (fun x => x.1.map (fun v => (first + x.2, v))))

/-- An active element of COMPACT has a logical index that output 1 cannot hold (R130). -/
def compactBig (s : State) (c : Cmd) : Except Status Bool :=
  let x := vIn c 0
  if vNout c ≠ 2 ∨ vRowwise c ∨ x.count ≤ 2147483648 then .ok false
  else (actives s x (vIn c 1) ((List.range (x.count - 2147483648)).map (2147483648 + ·))).map (fun l => !l.isEmpty)

/-- COMPACT of `n` elements from `first`: the active ones go to the positions after those before them; a block of the output is
written when its last element is known (R129, R130, R132). Output 1 without ROWWISE has rank 1 and takes the indices that its own
size holds. (DEDUCED, log entry 79). -/
def compactRun (s : State) (c : Cmd) (first n : Nat) : Except Status (State × Cmd) := do
  let x := vIn c 0
  let out := vOut c 0
  let row := spreadRow c first
  let act ← actives s x (vIn c 1) ((List.range (first + n - row.1)).map (row.1 + ·))
  let big ← compactBig s c
  let before := (act.filter (fun i => decide (i < first))).length
  let cap := out.size 0
  let last := decide (row.1 + row.2 ≤ first + n)
  let blk := out.fmt.isBlock
  let lo := if blk then before / 32 * 32 else before
  let hi := min cap (if last || !blk || decide (cap ≤ act.length) then act.length else act.length / 32 * 32)
  let vs ← s.elems x ((act.drop lo).take (hi - lo))
  let fill := if vRowwise c && last then List.replicate (cap - hi) (some (vConst c 0)) else []
  let base := if vRowwise c then row.1 / x.size 0 * cap else 0
  let p := if cap ≤ before then ({} : Packed) else packSome out (vDraw s c 0) (base + lo) (vs.map some ++ fill)
  let p := if vNout c ≠ 2 then p
    else if vRowwise c then
      (if last then p.append (packRow (vOut c 1) (vDraw s c 1) (row.1 / x.size 0) [nNat act.length]) else p)
    else if big then p
    else p.append (packRun (vOut c 1) (vDraw s c 1) before (((act.take ((vOut c 1).size 0)).drop before).map nNat))
  let w ← commitWrites s c p
  let d := (w.2.addCnt 0 n).addCnt 4 (act.length - before)
  .ok (w.1, if last && (decide (cap < act.length) || big) then d.addCnt 5 1 else d)

/-- COMPACT: one chunk. -/
def compactUnit (s : State) (c : Cmd) (k : Nat) : Except Status (State × Cmd) := runsFrom compactRun (spreadRuns c k) s c

/-- EXPAND of `n` elements of the mask from `first` (R131, R132). -/
def expandRun (s : State) (c : Cmd) (first n : Nat) : Except Status (State × Cmd) := do
  let m := vIn c 1
  let D := vIn c 0
  let row := spreadRow c first
  let d0 := if vRowwise c then row.1 / m.size 0 * D.size 0 else 0
  let dn := if vRowwise c then D.size 0 else D.count
  let act ← actives s m m ((List.range (first + n - row.1)).map (row.1 + ·))
  let before := (act.filter (fun i => decide (i < first))).length
  let vs ← s.elems D ((List.range (min act.length dn - before)).map (fun p => d0 + before + p))
  let out := (List.range n).map (fun j =>
    match (act.drop before).idxOf? (first + j) with
    | some p => some (nth (vConst c 0) vs p)
    | none => if vKeep c then none else some (vConst c 0))
  let w ← commitWrites s c (packSome (vOut c 0) (vDraw s c 0) first out)
  let d := (w.2.addCnt 0 n).addCnt 4 (act.length - before)
  .ok (w.1, if dn < act.length then d.addCnt 5 1 else d)

/-- EXPAND: one chunk. -/
def expandUnit (s : State) (c : Cmd) (k : Nat) : Except Status (State × Cmd) := runsFrom expandRun (spreadRuns c k) s c

/-! ### Checks at the start (R106 to R110, R114, R124, R131, R136) -/

/-- An input's shape fits the iteration (R109). -/
def vInShape (it t : Tens) : Bool := (List.range 6).all (fun d => t.size d == it.size d || t.size d == 1)

/-- An output's strides keep its elements apart (R109). -/
def vOutStrides (t : Tens) : Bool :=
  (List.range 6).all (fun d =>
    t.size d == 1 || (decide (1 ≤ t.stride d) &&
      (match ((List.range d).filter (fun e => decide (1 < t.size e))).getLast? with
       | none => true
       | some e => decide (t.stride e * t.size e ≤ t.stride d))))

/-- The same tensor: base, format, sizes and strides (R136). -/
def sameTens (t u : Tens) : Bool := decide (t.base = u.base) && decide (t.fmt = u.fmt) && decide (t.sizes = u.sizes) && decide (t.strides = u.strides)

/-- Bytes of one row of X fit half the window (R125, "When a long row does not fit the window"). -/
def rowFits (c : Cmd) (t : Tens) : Bool := decide (t.size 0 * t.fmt.bytes ≤ c.fld 52 4 / 2)

/-- Output `o` may coincide with input `i` in place (R136). -/
def inPlaceOk (c : Cmd) (o i : Nat) : Bool :=
  vInPlace c && sameTens (vOut c o) (vIn c i) &&
  (c.opcode == 0x301 || (c.opcode == 0x303 && o == 0 && i == 0) || (c.opcode == 0x306 && o == 0 && i == 1))

/-- Outputs overlap no input and no other output, but for the in-place forms (R110). -/
def vOverlapOk (c : Cmd) : Bool :=
  (List.range (vNout c)).all (fun o =>
    (List.range (vNin c)).all (fun i => inPlaceOk c o i || !anyOverlap [(vOut c o).range] [(vIn c i).range])) &&
  !selfOverlap ((vOuts c).map Tens.range)

/-- The operand counts, formats and shapes of each command (R136). -/
def vFormOk (c : Cmd) : Bool :=
  let it := vIter c
  let nin := vNin c
  let nout := vNout c
  let shapes (d0 : Bool) (t : Tens) : Bool := (List.range 6).all (fun d => (d == 0 && d0) || t.size d == it.size d)
  match c.opcode with
  | 0x301 => decide (1 ≤ vNprog c) && (vOuts c).all (shapes false) && (vIns c).all (vInShape it)
  | 0x302 =>
    nout == 1 && decide (vRop c ≤ 5) && decide (0 < vRdims c) && decide (vRdims c < 2 ^ it.rank) && (vIns c).all (vInShape it) &&
    (List.range 6).all (fun d => (vOut c 0).size d == (if (vRdims c).testBit d then 1 else it.size d)) &&
    (decide (vRop c ≠ 3 ∧ vRop c ≠ 4) || decide ((vOut c 0).fmt = .int32))
  | 0x303 =>
    vNprog c == 0 && nin == (if vHasMask c then 2 else 1) && decide (nout ≤ 2) && (vIns c).all (vInShape it) &&
    (!vHasMask c || decide ((vIn c 1).fmt = .uint8)) &&
    (decide (nout = 1) || ((vOut c 1).size 0 == 1 && shapes true (vOut c 1))) &&
    (!vInPlace c || rowFits c (vIn c 0))
  | 0x306 => vNprog c == 0 && nin == 2 && nout == 1 && (vIns c).all (vInShape it)
  | 0x304 =>
    vNprog c == 0 && nin == 2 && decide (nout ≤ 2) && vInShape it (vIn c 1) && decide ((vIn c 1).fmt = .uint8) &&
    decide ((vOut c 0).fmt = (vIn c 0).fmt) && (decide (nout = 1) || decide ((vOut c 1).fmt = .int32)) &&
    (if vRowwise c then shapes true (vOut c 0) && (decide (nout = 1) || ((vOut c 1).size 0 == 1 && shapes true (vOut c 1)))
     else (vOut c 0).rank == 1 && (decide (nout = 1) || (vOut c 1).rank == 1))
  | 0x305 =>
    vNprog c == 0 && nin == 2 && nout == 1 && decide ((vIn c 1).fmt = .uint8) && decide ((vOut c 0).fmt = (vIn c 0).fmt) &&
    shapes false (vOut c 0) &&
    (if vRowwise c then (vIn c 0).rank == it.rank && shapes true (vIn c 0) else (vIn c 0).rank == 1)
  | _ => false

/-- The flags that the command may carry (R135, R136). -/
def vFlagsOk (c : Cmd) : Bool :=
  bitsOf (vFlags c) 1 0 == 0 && decide (bitsOf (vFlags c) 15 8 < 2 ^ vNout c) &&
  (!vInPlace c || c.opcode == 0x301 || c.opcode == 0x303 || c.opcode == 0x306) &&
  (c.opcode == 0x303 || (!vHasMask c && !vLogOut c)) && (c.opcode == 0x304 || c.opcode == 0x305 || !vRowwise c) &&
  (c.opcode == 0x305 || !vKeep c)

/-- The checks of a vector command at its start (R136), then LIMIT (R53, R124). An FP64 input at PREC FP32 is refused where its elements
are worked on, with or without a program, and is taken by COMPACT and EXPAND, which only move elements; an ARGMAX or ARGMIN of too
large a group runs nothing. (DEDUCED, log entry 79). -/
def vCheck (s : State) (c : Cmd) : Option Status :=
  refuseUnless (decide (1 ≤ vNin c) && decide (vNin c ≤ 8) && decide (1 ≤ vNout c) && decide (vNout c ≤ 8) && decide (vNin c + vNout c ≤ 12)) <|
  refuseUnless (decide (vNprog c ≤ 32) && (c.fld 39 1 == 1 || c.fld 39 1 == 2) && c.zero 44 4 && vFlagsOk c &&
    (c.opcode == 0x302 || (vRop c == 0 && vRdims c == 0)) && c.zero (128 + 8 * vNprog c) (256 - 8 * vNprog c)) <|
  refuseUnless (c.fld 48 4 % 4096 == 0 && c.fld 52 4 % 4096 == 0 && decide (65536 ≤ c.fld 52 4) && decide (c.fld 48 4 + c.fld 52 4 ≤ 2 ^ 21)) <|
  refuseUnless (!vReport c || c.fld 56 8 % 32 == 0) <|
  refuseUnless ((vIns c).length == vNin c && (vOuts c).length == vNout c && (vIns c ++ vOuts c).all (fun t => t.comp == 0) &&
    s.tiersAgree (vIns c ++ vOuts c)) <|
  refuseUnless (vFormOk c && (vOuts c).all vOutStrides && vOverlapOk c && decide (256 ≤ vChunk c)) <|
  refuseUnless (vNprog c == 0 || (pCheck (vIns c) (vIter c) (vProg c) [] && pStores (vNout c) (vProg c))) <|
  refuseUnless (decide (vPrec c = .fp64) || c.opcode == 0x304 || c.opcode == 0x305 || (vIns c).all (fun t => decide (t.fmt ≠ .fp64))) <|
  if (List.range (vNout c)).any (fun o => bitAt (vFlags c) (8 + o) && decide (2 ^ 48 ≤ (vOut c o).count)) then some .limit
  else if c.opcode = 0x302 ∧ (vRop c = 3 ∨ vRop c = 4) ∧ 2147483647 < redSize c then some .limit
  else none

/-- The byte ranges of a vector command. -/
def vRanges (_ : State) (c : Cmd) : List (Nat × Nat) :=
  (vIns c ++ vOuts c).map Tens.range ++ (if vReport c then [(c.fld 56 8, 32)] else [])

/-- The output ranges of a vector command. -/
def vOutRanges (_ : State) (c : Cmd) : List (Nat × Nat) :=
  (vOuts c).map Tens.range ++ (if vReport c then [(c.fld 56 8, 32)] else [])

/-- The report (R137). -/
def vReportBytes (_ : State) (c : Cmd) : Bytes :=
  natBytes 8 (c.cnt 0) ++ natBytes 4 (c.cnt 1) ++ natBytes 4 (c.cnt 2) ++ natBytes 4 (c.cnt 3) ++ natBytes 8 (c.cnt 4) ++ natBytes 4 0

/-- Report and status of a vector command (R137, R138). -/
def vFinish (s : State) (c : Cmd) : Except Status (State × Cmd) := do
  let r ← writeReport s c (vReport c) (c.fld 56 8) (vReportBytes s c)
  .ok (r.1, { r.2 with status := if 0 < c.cnt 5 then .limit else .ok })

/-- The pages of the engines that serve vector work. -/
def vPages (s : State) (_ : Cmd) : List Nat := s.regionsIn.flatMap (fun r => [pgVector r 0, pgVector r 1, pgReduction r])

/-- How many units a vector command has. -/
def vTotal (_ : State) (c : Cmd) : Nat :=
  let it := vIter c
  match c.opcode with
  | 0x301 => (cutOf it.count (it.size 0) (vChunk c) ((vOuts c).any (fun t => t.fmt.isBlock))).units
  | 0x302 => (redCut c).units
  | 0x303 => ceilDiv (vRows c) (softStep c)
  | 0x306 => ceilDiv (vRows c) (softStep c)
  | _ => (spreadCut c).units

/-- One unit of a vector command. -/
def vUnit (s : State) (c : Cmd) (k : Nat) : Except Status (State × Cmd) :=
  match c.opcode with
  | 0x301 => ewUnit s c k
  | 0x302 => redUnit s c k
  | 0x303 => softUnit s c k
  | 0x306 => softBwdUnit s c k
  | 0x304 => compactUnit s c k
  | _ => expandUnit s c k

/-- The vector commands. -/
def vectorOp : Op :=
  { check := vCheck, ranges := vRanges, total := vTotal, unit := vUnit, finish := vFinish, outs := vOutRanges, pages := vPages,
    leave := leaveReport vReport (fun c => c.fld 56 8) vReportBytes }

/-! ### The rows -/

/-- ELEMENTWISE (R111 to R117). -/
def execElementwise (q n : Nat) (s : State) : Host.Outcome State Fault Refusal := .next (runRow vectorOp (Cmd.isOp 0x301) q n s)
/-- REDUCE (R122 to R125). -/
def execReduce (q n : Nat) (s : State) : Host.Outcome State Fault Refusal := .next (runRow vectorOp (Cmd.isOp 0x302) q n s)
/-- SOFTMAX (R126, R127). -/
def execSoftmax (q n : Nat) (s : State) : Host.Outcome State Fault Refusal := .next (runRow vectorOp (Cmd.isOp 0x303) q n s)
/-- SOFTMAX_BWD (R128). -/
def execSoftmaxBwd (q n : Nat) (s : State) : Host.Outcome State Fault Refusal := .next (runRow vectorOp (Cmd.isOp 0x306) q n s)
/-- COMPACT (R129, R130, R132). -/
def execCompact (q n : Nat) (s : State) : Host.Outcome State Fault Refusal := .next (runRow vectorOp (Cmd.isOp 0x304) q n s)
/-- EXPAND (R131, R132). -/
def execExpand (q n : Nat) (s : State) : Host.Outcome State Fault Refusal := .next (runRow vectorOp (Cmd.isOp 0x305) q n s)

end Sys2Proof.Machine
end

