-- ==== Sys2Proof/Machine/Attn.lean ====
section
/-! DEFINITION. Fused attention: ATTN_FWD with its ring form, ATTN_BWD, and the walkers' key-block boundaries (R156 to R178,
R301, R302). -/

namespace Sys2Proof.Machine

/-! ### The bodies (R173 to R175) -/

/-- An attention command's fields. -/
structure Att where
  bwd    : Bool
  q      : Tens
  o      : Tens
  lse    : Tens
  dO     : Tens := noTens
  dQ     : Tens := noTens
  dK     : Tens := noTens
  dV     : Tens := noTens
  tids   : List Nat
  step   : Nat
  scale  : Num
  batch  : Nat
  nseq   : Nat
  layer  : Nat
  flags  : Nat
  window : Nat
  base   : Nat
  total  : Nat
  gs     : Nat
  bucket : Nat
  engine : Nat := 0
  chunk  : Nat := 0
  partialAt : Nat := 0
  ringGroup : Nat := 0
  ringSize  : Nat := 0
  ringBuf   : Nat := 0
  work   : Nat := 0
  report : Nat
deriving DecidableEq, Repr

/-- ATTN_FWD's body; LSE is read only under LSE_OUT, the ring's fields only under RING. -/
def fwdBody (c : Cmd) : Option Att := do
  let q ← c.tens 0
  let o ← c.tens 64
  let lse ← if bitAt (c.fld 222 2) 6 then c.tens 128 else some noTens
  some { bwd := false, q := q, o := o, lse := lse, tids := [c.fld 192 4, c.fld 196 4, 0], step := c.fld 200 4,
         scale := decFloat .fp32 (c.fld 204 4), batch := c.fld 208 8, nseq := c.fld 216 4, layer := c.fld 220 2, flags := c.fld 222 2,
         window := c.fld 224 4, base := c.fld 228 2, total := c.fld 230 2, gs := c.fld 232 2, bucket := c.fld 234 1,
         engine := c.fld 235 1, chunk := c.fld 236 4, partialAt := c.fld 240 8, ringGroup := c.fld 248 4, ringSize := c.fld 252 2,
         ringBuf := c.fld 264 8, report := c.fld 256 8 }

/-- ATTN_BWD's body. -/
def bwdBody (c : Cmd) : Option Att := do
  let q ← c.tens 0
  let o ← c.tens 64
  let dO ← c.tens 128
  let lse ← c.tens 192
  let dQ ← c.tens 256
  let dK ← c.tens 320
  let dV ← c.tens 384
  some { bwd := true, q := q, o := o, lse := lse, dO := dO, dQ := dQ, dK := dK, dV := dV,
         tids := [c.fld 448 4, c.fld 452 4, c.fld 456 4], step := c.fld 460 4, scale := decFloat .fp32 (c.fld 464 4),
         nseq := c.fld 468 4, batch := c.fld 472 8, work := c.fld 480 8, layer := c.fld 488 2, flags := c.fld 490 2,
         window := c.fld 492 4, base := c.fld 496 2, total := c.fld 498 2, gs := c.fld 500 2, bucket := c.fld 502 1,
         report := c.fld 504 8 }

/-- The fields of an attention command. -/
def Cmd.att (c : Cmd) : Option Att := if c.opcode = 0x402 then bwdBody c else fwdBody c

/-- Flags (R174). -/
def Att.finalDQ (a : Att) : Bool := bitAt a.flags 8
def Att.reports (a : Att) : Bool := bitAt a.flags 7
def Att.lseOut (a : Att) : Bool := bitAt a.flags 6
def Att.causal (a : Att) : Bool := bitAt a.flags 5
def Att.ring (a : Att) : Bool := bitAt a.flags 4 && !a.bwd
def Att.accumDQ (a : Att) : Bool := bitAt a.flags 3
def Att.stoch (a : Att) (sub : Nat) : Bool := bitAt a.flags sub
/-- Head dimension, local heads, query rows. -/
def Att.d (a : Att) : Nat := a.q.size 0
def Att.heads (a : Att) : Nat := a.q.size 1
def Att.rows (a : Att) : Nat := a.q.size 2
/-- The group of local head `h` (R156). -/
def Att.groupOf (a : Att) (h : Nat) : Nat := (a.base + h) / a.gs
/-- The groups of the local heads, ascending. -/
def Att.groups (a : Att) : List Nat :=
  (List.range (a.groupOf (a.heads - 1) + 1 - a.groupOf 0)).map (a.groupOf 0 + ·)
/-- The local heads of a group, ascending. -/
def Att.headsOf (a : Att) (g : Nat) : List Nat := (List.range a.heads).filter (fun h => a.groupOf h == g)

/-- One unit of work: its batch entry with the entry's place, its group, its rows as (local head, query) (R171). -/
structure AUnit where
  entry : BatchEntry
  idx   : Nat
  group : Nat
  rows  : List (Nat × Nat)
deriving DecidableEq, Repr

/-- The rows of a group and an entry, head by head. -/
def Att.rowsOf (a : Att) (g : Nat) (e : BatchEntry) : List (Nat × Nat) :=
  (a.headsOf g).flatMap (fun h => (List.range e.qCount).map (fun i => (h, i)))

/-- The units of the listed entries: ATTN_FWD packs at most 128 rows (R170, R171). -/
def Att.unitsOf (a : Att) (es : List BatchEntry) : List AUnit :=
  es.zipIdx.flatMap (fun e => a.groups.flatMap (fun g =>
    if a.bwd then [⟨e.1, e.2, g, a.rowsOf g e.1⟩]
    else (pieces 128 (a.rowsOf g e.1)).map (fun rs => ⟨e.1, e.2, g, rs⟩)))

/-- The units of a command. -/
def State.attUnits (s : State) (c : Cmd) (a : Att) : List AUnit :=
  match s.batchList c.q a.batch a.nseq with
  | .ok es => a.unitsOf es
  | .error _ => []

/-! ### The keys (R153, R155, R157, R166) -/

/-- A word of a table row that the command reads once and keeps (R153). -/
def keepWord (s : State) (c : Cmd) (a : Nat) : Except Status Cmd :=
  if c.kept.any (fun k => k.1 == a) then .ok c
  else (s.dynRead c.q a 8).map (fun b => { c with kept := c.kept ++ [(a, [leNat b])] })

/-- A kept word. -/
def Cmd.keptWord (c : Cmd) (a : Nat) : Nat := ((c.kept.find? (fun k => k.1 == a)).map (fun k => k.2.headD 0)).getD 0

/-- Where a unit's keys come from: the row, and in the ring form the chunks that the links delivered (R166). -/
structure Keys where
  q      : Nat
  hdr    : SeqHdr
  layer  : Nat
  group  : Nat
  pool   : Pool
  tokens : Nat
  /-- CHUNK_TOKENS, this module's chunk and the chunks of the others; none outside the ring form -/
  ring   : Option (Nat × Nat × List Bytes)
deriving DecidableEq, Repr

/-- Positions that a ring chunk delivered. -/
def Keys.ringTokens (k : Keys) (b : Bytes) : Nat := b.length / (4 * k.pool.headDim * k.hdr.groups)

/-- The chunk and local position of a global position; this module's own keys outside the ring form. -/
def Keys.place (k : Keys) (p : Nat) : Option Nat × Nat :=
  match k.ring with
  | none => (none, p)
  | some (ct, own, _) => if p / ct = own then (none, p % ct) else (some (p / ct), p % ct)

/-- Position `p` holds a key: below TOKENS of its row (R157). -/
def Keys.present (k : Keys) (p : Nat) : Bool :=
  match k.place p, k.ring with
  | (some ch, l), some (_, _, bs) => decide (l < k.ringTokens (nth [] bs ch))
  | (_, l), _ => decide (l < k.tokens)

/-- One past the last position that may hold a key. -/
def Keys.stop (k : Keys) : Nat :=
  match k.ring with
  | none => k.tokens
  | some (ct, own, bs) =>
    (((List.range bs.length).map (fun ch => if k.ringTokens (nth [] bs ch) = 0 then 0 else ch * ct + k.ringTokens (nth [] bs ch))).foldl max
      (if k.tokens = 0 then 0 else own * ct + k.tokens))

/-- The address of the entry of the page with local position `l`. -/
def Keys.entryAt (k : Keys) (l : Nat) : Nat := k.hdr.entry k.layer k.group (l / 64)

/-- The page of local position `l`, when its kept entry is a good one (R155). -/
def Keys.page (k : Keys) (c : Cmd) (l : Nat) : Option Nat := entryPage k.hdr.pool k.pool (c.keptWord (k.entryAt l))

/-- Elements of a key or value: K is part 0, V part 1. -/
def Keys.vec (k : Keys) (s : State) (c : Cmd) (p part : Nat) : Except Status (List Num) :=
  let F := (fmtOf k.pool.format).getD .bf16
  let d := k.pool.headDim
  match k.place p, k.ring with
  | (some ch, l), some (_, _, bs) =>
    .ok ((pieces 2 (sliceOf (nth [] bs ch) (2 * d * (k.group + k.hdr.groups * (part + 2 * l))) (2 * d))).map (fun w => decElem F (leNat w)))
  | (_, l), _ =>
    match k.page c l with
    | none => .error .kvBadPage
    | some j => (s.dynRead k.q (k.pool.base + j * k.pool.pageBytes + part * 128 * d + l % 64 * d * 2) (2 * d)).map
        (fun b => (pieces 2 b).map (fun w => decElem F (leNat w)))

/-- The table of a unit matches the command (R156, R177). -/
def attHdr (s : State) (c : Cmd) (a : Att) (seq : Nat) : Except Status SeqHdr := do
  let h ← s.seqHdr c.q seq
  let x := s.pool h.pool
  if h.groups * a.gs == a.total && decide (a.layer < h.layers) && x.live && x.headDim == a.d && fmtOf x.format == some a.q.fmt
  then .ok h else .error .kvTableMismatch

/-- The unit's keys, its row header kept. -/
def attKeys (s : State) (c : Cmd) (a : Att) (ring : List (List Bytes)) (u : AUnit) : Except Status (Cmd × Keys) := do
  let h ← attHdr s c a u.entry.seq
  let c ← keepWord s c (h.row a.layer u.group)
  let t := c.keptWord (h.row a.layer u.group) % 2 ^ 32
  let r := if a.ring then some (a.chunk, (tabGet {} s.lnk.groups a.ringGroup).rank, nth [] ring u.idx) else none
  if a.bwd && decide (a.dK.size 2 < u.entry.kvRow + t) then .error .kvTableMismatch
  else .ok (c, ⟨c.q, h, a.layer, u.group, s.pool h.pool, t, r⟩)

/-- A key takes part for a query at position `q` (R157). -/
def Att.takes (a : Att) (k : Keys) (q p : Nat) : Bool :=
  k.present p && (!a.causal || decide (p ≤ q)) && (decide (a.window = 0) || decide (q < p + a.window))

/-- The position of query `i` of an entry. -/
def AUnit.pos (u : AUnit) (i : Nat) : Nat := u.entry.qPos + i

/-- Some row of the unit has a key in block `b`. -/
def Att.blockTakes (a : Att) (k : Keys) (u : AUnit) (rows : List (Nat × Nat)) (b : Nat) : Bool :=
  rows.any (fun r => (List.range 128).any (fun j => a.takes k (u.pos r.2) (128 * b + j)))

/-- The key blocks that the walker generates, ascending (R163). -/
def Att.blocks (a : Att) (k : Keys) (u : AUnit) : List Nat :=
  if a.bucket = 0 then (List.range (ceilDiv k.stop 128)).filter (a.blockTakes k u u.rows)
  else List.range (max (max 1 (2 ^ a.bucket / 128)) (ceilDiv k.stop 128))

/-- The entries of block `b` are read when first needed (R153), and each must link a page of the active set (R155). -/
def keepBlock (s : State) (c : Cmd) (k : Keys) (b : Nat) : Except Status Cmd :=
  [128 * b, 128 * b + 64].foldlM (fun c p =>
    if !k.present p ∨ (k.place p).1.isSome then .ok c
    else do
      let c ← keepWord s c (k.entryAt (k.place p).2)
      if (k.page c (k.place p).2).isNone then .error .kvBadPage else .ok c) c

/-! ### Arithmetic (R158 to R161, R169) -/

/-- A dot product over the head dimension: one pass per 128 elements (R66, R68, R158). -/
def dotRow (xs ys : List Num) : Num :=
  (pieces 128 (xs.zip ys)).foldl (fun acc p => roundTo .fp32 (acc.add (windowSum (p.map (fun t => t.1.mul t.2))))) nZero

/-- The score times SCALE (R158). -/
def Att.score (a : Att) (q k : List Num) : Num := mulAt .fp32 (dotRow q k) a.scale

/-- One term of a split pass of an FP32 factor against a 16-bit one: part 2, then part 1 (R73). -/
def splitMul (two : Bool) (e v : Num) : Num :=
  if two then (if e.isFin && v.isFin then (splitParts e).2.mul v else nZero) else (splitParts e).1.mul v

/-- A running sum takes both split passes of `es` against `vs`; an absent factor's term is +0. -/
def splitPasses (es : List Num) (vs : List (Option Num)) (acc : Num) : Num :=
  let pass (two : Bool) := windowSum ((es.zip vs).map (fun t => match t.2 with | some v => splitMul two t.1 v | none => nZero))
  addAt .fp32 (addAt .fp32 acc (pass true)) (pass false)

/-- Column `c` of the values of a block. -/
def valueCol (vs : List (Option (List Num))) (c : Nat) : List (Option Num) := vs.map (fun v => v.map (fun l => nth nZero l c))

/-- EXP, LOG and RCP at FP32 (R118). -/
def expAt (x : Num) : Num := primFunc .fp32 0x10 x
def logAt (x : Num) : Num := primFunc .fp32 0x12 x
def rcpAt (x : Num) : Num := primFunc .fp32 0x14 x

/-- A row's state at the start of a chunk. -/
def freshPartial (d : Nat) : Partial := { o := List.replicate d nZero }

/-- One key block for one row (R159): `ys` gives each position's score where it takes part. (DEDUCED, log entry 65). -/
def blockStep (p : Partial) (ys : List (Option Num)) (vs : List (Option (List Num))) : Partial :=
  let taken := ys.filterMap id
  let p := { p with k := p.k + (taken.filter (fun y => y.isInf && !y.sign)).length, nan := p.nan || taken.any Num.isNan }
  let f := taken.filter Num.isFin
  if f.isEmpty then p else
  let mnew := fMax p.m (maxTree f)
  let alpha := expAt (subAt .fp32 p.m mnew)
  let es := ys.map (fun y => match y with | some v => if v.isFin then expAt (subAt .fp32 v mnew) else nZero | none => nZero)
  { p with l := fmaAt .fp32 p.l alpha (sumTree .fp32 es),
           o := p.o.zipIdx.map (fun x => splitPasses es (valueCol vs x.2) (mulAt .fp32 x.1 alpha)), m := mnew }

/-- Two chunks' states are folded (R160). -/
def combine (A B : Partial) : Partial :=
  let both := { A with k := A.k + B.k, nan := A.nan || B.nan }
  if B.m = .inf true then both
  else if A.m = .inf true then { both with m := B.m, l := B.l, o := B.o }
  else
    let m := fMax A.m B.m
    let aA := expAt (subAt .fp32 A.m m)
    let aB := expAt (subAt .fp32 B.m m)
    { both with m := m, l := fmaAt .fp32 A.l aA (mulAt .fp32 B.l aB),
                o := (A.o.zip B.o).map (fun x => fmaAt .fp32 x.1 aA (mulAt .fp32 x.2 aB)) }

/-- Q's row of a unit: local head, query. -/
def Att.rowVec (a : Att) (s : State) (t : Tens) (u : AUnit) (r : Nat × Nat) : Except Status (List Num) :=
  s.elems t ((List.range a.d).map (fun c => t.logical [c, r.1, u.entry.qRow + r.2, 0, 0, 0]))

/-- The keys or values of a block. -/
def Keys.block (k : Keys) (s : State) (c : Cmd) (b part : Nat) : Except Status (List (Option (List Num))) :=
  (List.range 128).mapM (fun j => if k.present (128 * b + j) then (k.vec s c (128 * b + j) part).map some else .ok none)

/-- The scores of a row over a block, where a key takes part. -/
def Att.scores (a : Att) (k : Keys) (u : AUnit) (i b : Nat) (q : List Num) (ks : List (Option (List Num))) : List (Option Num) :=
  ks.zipIdx.map (fun x => if a.takes k (u.pos i) (128 * b + x.2) then x.1.map (a.score q) else none)

/-- One key block of an ATTN_FWD unit. -/
def fwdBlock (s : State) (c : Cmd) (a : Att) (k : Keys) (u : AUnit) (b : Nat) (ps : List Partial) : Except Status (List Partial) := do
  let ks ← k.block s c b 0
  let vs ← k.block s c b 1
  (u.rows.zip ps).mapM (fun r => do
    let q ← a.rowVec s a.q u r.1
    .ok (blockStep r.2 (a.scores k u r.1.2 b q ks) vs))

/-- One output element: `ix` its indices, `gi` the logical index of the rounding stream (R52, R161, R165). -/
def attOut (s : State) (c : Cmd) (a : Att) (t : Tens) (sub : Nat) (ix : List Nat) (gi : Nat) (x : Num) : Packed :=
  let e := encElem t.fmt ((s.draw c (a.stoch sub) (nth 0 a.tids sub) a.step (0x400 + sub)).mode gi) x
  ⟨[(t.addrOf ix, natBytes t.fmt.bytes e.code)], e.sat⟩

/-- The +∞ entries' values of a row, in ascending position: the second sweep of case 2 (R161). -/
def infValues (s : State) (c : Cmd) (a : Att) (k : Keys) (u : AUnit) (r : Nat × Nat) (bs : List Nat) : Except Status (List (List Num)) := do
  let q ← a.rowVec s a.q u r
  let vs ← bs.mapM (fun b => do
    let ks ← k.block s c b 0
    ((a.scores k u r.2 b q ks).zipIdx.filter (fun y => y.1 = some (.inf false))).mapM (fun y => k.vec s c (128 * b + y.2) 1))
  .ok vs.flatten

/-- The case of a row and its O and LSE (R161): 1 NaN, 2 infinite, 3 masked, 4 otherwise. -/
def settleRow (d : Nat) (p : Partial) (vs : List (List Num)) : Nat × List Num × Num :=
  if p.nan then (1, List.replicate d .nan, .nan)
  else if 0 < p.k then
    let r := rcpAt (nNat p.k)
    (2, (List.range d).map (fun c => sumTree .fp32 (vs.map (fun v => mulAt .fp32 r (nth nZero v c)))), .inf false)
  else if p.m = .inf true then (3, List.replicate d nZero, .inf true)
  else
    let r := rcpAt p.l
    (4, p.o.map (fun x => mulAt .fp32 x r), addAt .fp32 p.m (logAt p.l))

/-- Settles one row, with its second sweep where it has one. -/
def settleOf (s : State) (c : Cmd) (a : Att) (k : Keys) (u : AUnit) (bs : List Nat) (r : (Nat × Nat) × Partial) :
    Except Status (Nat × List Num × Num) := do
  let vs ← if !r.2.nan && decide (0 < r.2.k) then infValues s c a k u r.1 bs else .ok []
  .ok (settleRow a.d r.2 vs)

/-- O and LSE of one settled row. -/
def packFwdRow (s : State) (c : Cmd) (a : Att) (u : AUnit) (r : Nat × Nat) (o : List Num) (lse : Num) : Packed :=
  let row := u.entry.qRow + r.2
  let g := a.base + r.1
  packAll ((o.zipIdx.map (fun x => attOut s c a a.o 0 [x.2, r.1, row, 0, 0, 0] (x.2 + a.d * (g + a.total * row)) x.1)) ++
    (if a.lseOut then [attOut s c a a.lse 1 [r.1, row, 0, 0, 0, 0] (g + a.total * row) lse] else []))

/-- A ring command's partial of one chunk and row at PARTIAL_ADDR (R167). -/
def packPartial (a : Att) (u : AUnit) (ch : Nat) (r : Nat × Nat) (p : Partial) : Packed :=
  let at' := a.partialAt + ((ch * a.rows + (u.entry.qRow + r.2)) * a.heads + r.1) * (12 + 4 * a.d)
  let f (x : Num) := natBytes 4 (encFloat .fp32 .rne x).code
  ⟨[(at', f p.m ++ f p.l ++ natBytes 4 p.k ++ p.o.flatMap f)], 0⟩

/-- The partials of chunk `ch` of a ring command, from its own blocks (R166). -/
def chunkPartials (s : State) (c : Cmd) (a : Att) (k : Keys) (u : AUnit) (bs : List Nat) (ch : Nat) : Except Status (List Partial) :=
  (bs.filter (fun b => 128 * b / a.chunk == ch)).foldlM (fun ps b => fwdBlock s c a k u b ps) (u.rows.map (fun _ => freshPartial a.d))

/-- The partials that a ring unit stores. -/
def ringPartials (s : State) (c : Cmd) (a : Att) (k : Keys) (u : AUnit) (bs : List Nat) : Except Status Packed :=
  if !a.ring then .ok {} else
  ((List.range a.ringSize).mapM (fun ch => (chunkPartials s c a k u bs ch).map (fun ps =>
    packAll ((u.rows.zip ps).map (fun r => packPartial a u ch r.1 r.2))))).map packAll

/-- Rows per case added to the report's counts 1 to 3: masked, NaN, infinite. -/
def countCases (c : Cmd) (cases : List Nat) : Cmd :=
  let n (x : Nat) := (cases.filter (· == x)).length
  ((c.addCnt 1 (n 3)).addCnt 2 (n 1)).addCnt 3 (n 2)

/-! ### ATTN_BWD (R168, R169) -/

/-- What a backward row brings: its query, dO, D and LSE with its case. -/
structure BRow where
  pos  : Nat
  q    : List Num
  dO   : List Num
  D    : Num
  lse  : Num
  case : Nat
  /-- RCP(k) of case 2 -/
  rk   : Num := nZero
deriving DecidableEq, Repr

/-- The case of a row by its LSE (R169). -/
def lseCase (x : Num) : Nat := if x.isNan then 1 else if x.isInf then (if x.sign then 3 else 2) else 4

/-- The +∞ entries that take part in a row: case 2's first sweep. -/
def countInf (s : State) (c : Cmd) (a : Att) (k : Keys) (u : AUnit) (r : Nat × Nat) (q : List Num) (bs : List Nat) : Except Status Nat :=
  (bs.mapM (fun b => (k.block s c b 0).map (fun ks => ((a.scores k u r.2 b q ks).filter (fun y => y = some (.inf false))).length))).map List.sum

/-- A backward row. -/
def bwdRow (s : State) (c : Cmd) (a : Att) (k : Keys) (u : AUnit) (bs : List Nat) (r : Nat × Nat) : Except Status BRow := do
  let q ← a.rowVec s a.q u r
  let o ← a.rowVec s a.o u r
  let g ← a.rowVec s a.dO u r
  let l ← s.elem a.lse (a.lse.logical [r.1, u.entry.qRow + r.2, 0, 0, 0, 0])
  let n ← if lseCase l = 2 then countInf s c a k u r q bs else .ok 0
  .ok { pos := u.pos r.2, q := q, dO := g, D := sumTree .fp32 (g.zipWith (mulAt .fp32) o), lse := l, case := lseCase l, rk := rcpAt (nNat n) }

/-- P of one entry (R169). -/
def BRow.prob (r : BRow) (y : Option Num) : Num :=
  match r.case with
  | 1 => .nan
  | 2 => if y = some (.inf false) then r.rk else nZero
  | 3 => nZero
  | _ => match y with | some v => if v.isFin then expAt (subAt .fp32 v r.lse) else nZero | none => nZero

/-- dS of one entry: +0 in case 3 (R169). -/
def BRow.dS (a : Att) (r : BRow) (p : Num) (v : Option (List Num)) : Num :=
  match r.case, v with
  | 3, _ => nZero
  | _, none => nZero
  | _, some v => mulAt .fp32 (mulAt .fp32 p (subAt .fp32 (dotRow r.dO v) r.D)) a.scale

/-- One head and block of at most 128 queries against one key block: the new dK and dV rows of the block and the new dQ rows. -/
def bwdTile (a : Att) (k : Keys) (b : Nat) (ks vs : List (Option (List Num))) (rows : List (BRow × List Num))
    (dkv : List (List Num × List Num)) : List (List Num × List Num) × List (List Num) :=
  let taken := rows.map (fun r => ks.zipIdx.map (fun x => if a.takes k r.1.pos (128 * b + x.2) then x.1.map (a.score r.1.q) else none))
  let P := (rows.zip taken).map (fun r => r.2.map r.1.1.prob)
  let S := (rows.zip P).map (fun r => (r.2.zip vs).map (fun x => r.1.1.dS a x.1 x.2))
  let live (f : BRow → List Num) (c : Nat) : List (Option Num) := rows.map (fun r => if r.1.case = 3 then none else some (nth nZero (f r.1) c))
  let dkv' := dkv.zipIdx.map (fun x =>
    let ps := P.map (fun l => nth nZero l x.2)
    let ss := S.map (fun l => nth nZero l x.2)
    (x.1.1.zipIdx.map (fun y => splitPasses ss (live BRow.q y.2) y.1),
     x.1.2.zipIdx.map (fun y => splitPasses ps (live BRow.dO y.2) y.1)))
  (dkv', (rows.zip S).map (fun r => if r.1.1.case = 3 then r.1.2 else r.1.2.zipIdx.map (fun y => splitPasses r.2 (valueCol ks y.2) y.1)))

/-- One key block of an ATTN_BWD unit: heads ascending, then blocks of 128 queries; a block in which no entry takes part
changes nothing. -/
def bwdBlock (s : State) (c : Cmd) (a : Att) (k : Keys) (u : AUnit) (bs : List Nat) (b : Nat) (dq : List (List Num)) :
    Except Status (List (List Num) × List (List Num × List Num)) := do
  let ks ← k.block s c b 0
  let vs ← k.block s c b 1
  let zero : List (List Num × List Num) := List.replicate 128 (List.replicate a.d nZero, List.replicate a.d nZero)
  let tiles := (pieces (max 1 u.entry.qCount) (u.rows.zip dq)).flatMap (pieces 128)
  tiles.foldlM (fun acc tile => do
    if a.blockTakes k u (tile.map (·.1)) b then
      let rows ← tile.mapM (fun r => (bwdRow s c a k u bs r.1).map (fun x => (x, r.2)))
      let out := bwdTile a k b ks vs rows acc.2
      .ok (acc.1 ++ out.2, out.1)
    else .ok (acc.1 ++ tile.map (·.2), acc.2)) (([] : List (List Num)), zero)

/-- The address of a running dQ sum (R169, R175). -/
def Att.workAt (a : Att) (u : AUnit) (r : Nat × Nat) (c : Nat) : Nat :=
  a.work + 4 * (c + a.d * (r.1 + a.heads * (u.entry.qRow + r.2)))

/-- The dQ sums at a unit's start (R169). -/
def startDQ (s : State) (c : Cmd) (a : Att) (u : AUnit) : Except Status (List (List Num)) :=
  u.rows.mapM (fun r =>
    if a.accumDQ then (s.dynRead c.q (a.workAt u r 0) (4 * a.d)).map (fun b => (pieces 4 b).map (fun w => decFloat .fp32 (leNat w)))
    else .ok (List.replicate a.d nZero))

/-- The writes of an ATTN_BWD unit (R169, R171). -/
def packBwd (s : State) (c : Cmd) (a : Att) (k : Keys) (u : AUnit) (w : Walk) : Packed :=
  let g := u.group - a.groupOf 0
  let rows := (List.range k.tokens).map (fun p =>
    ((w.dkv.find? (fun x => x.1 == p)).map (·.2)).getD (List.replicate a.d nZero, List.replicate a.d nZero))
  let kv := rows.zipIdx.flatMap (fun r =>
    let row := u.entry.kvRow + r.2
    let gi (x : Nat) := x + a.d * (u.group + k.hdr.groups * row)
    (r.1.1.zipIdx.map (fun y => attOut s c a a.dK 1 [y.2, g, row, 0, 0, 0] (gi y.2) y.1)) ++
    (r.1.2.zipIdx.map (fun y => attOut s c a a.dV 2 [y.2, g, row, 0, 0, 0] (gi y.2) y.1)))
  let dq := (u.rows.zip w.dq).flatMap (fun r =>
    let row := u.entry.qRow + r.1.2
    (⟨[(a.workAt u r.1 0, r.2.flatMap (fun x => natBytes 4 (encFloat .fp32 .rne x).code))], 0⟩ : Packed) ::
    (if a.finalDQ then r.2.zipIdx.map (fun y =>
      attOut s c a a.dQ 0 [y.2, r.1.1, row, 0, 0, 0] (y.2 + a.d * (a.base + r.1.1 + a.total * row)) y.1) else []))
  packAll (kv ++ dq)

/-! ### Walking (R159, R160, R169, R171) -/

/-- A walk at its first key block. -/
def startWalk (s : State) (c : Cmd) (a : Att) (u : AUnit) (unit : Nat) : Except Status Walk := do
  let dq ← if a.bwd then startDQ s c a u else .ok []
  .ok { q := c.q, n := c.n, unit := unit, dq := dq }

/-- The fold of the chunks done with the chunk in progress. -/
def foldChunks (acc cur : List Partial) : List Partial :=
  if cur.isEmpty then acc else if acc.isEmpty then cur else (acc.zip cur).map (fun x => combine x.1 x.2)

/-- The chunk of a key block (R159, R166). -/
def Att.chunkOf (a : Att) (b : Nat) : Nat := if a.chunk = 0 then 0 else 128 * b / a.chunk

/-- One key block of a unit's walk. -/
def walkBlock (s : State) (c : Cmd) (a : Att) (k : Keys) (u : AUnit) (bs : List Nat) (w : Walk) (b : Nat) : Except Status (Cmd × Walk) := do
  let c ← if a.bwd && bs.head? == some b then bs.foldlM (fun c x => keepBlock s c k x) c else keepBlock s c k b
  if a.bwd then
    let r ← bwdBlock s c a k u bs b w.dq
    .ok (c, { w with key := w.key + 1, dq := r.1, dkv := w.dkv ++ r.2.zipIdx.map (fun x => (128 * b + x.2, x.1)) })
  else
    let ch := a.chunkOf b
    let turn := !w.cur.isEmpty && decide (w.chunk ≠ ch)
    let acc := if turn then foldChunks w.acc w.cur else w.acc
    let cur := if turn || w.cur.isEmpty then u.rows.map (fun _ => freshPartial a.d) else w.cur
    let cur ← fwdBlock s c a k u b cur
    .ok (c, { w with key := w.key + 1, chunk := ch, acc := acc, cur := cur })

/-- Scores of the blocks that a unit's walk generated (R176). -/
def Att.scoreCount (a : Att) (k : Keys) (u : AUnit) (bs : List Nat) : Nat :=
  if a.bwd then
    (((pieces (max 1 u.entry.qCount) u.rows).flatMap (pieces 128)).map (fun t =>
      128 * t.length * (bs.filter (fun b => a.bucket != 0 || a.blockTakes k u t b)).length)).sum
  else 128 * u.rows.length * bs.length

/-- The tower conditions (R301). -/
def towerForm (s : State) (c : Cmd) (a : Att) (es : List BatchEntry) : Bool :=
  !a.ring && a.bucket == 0 && a.chunk == 128 &&
  es.all (fun e => decide (a.gs * e.qCount ≤ 16) &&
    (match s.seqHdr c.q e.seq with | .ok h => s.tierOf (s.pool h.pool).base = some .umber | .error _ => false))

/-- The command runs on the tower units (R301). -/
def onTowers (s : State) (c : Cmd) : Bool :=
  c.opcode == 0x401 &&
  (match c.att with
   | none => false
   | some a => a.engine != 0 && (match s.batchList c.q a.batch a.nseq with | .ok es => towerForm s c a es | .error _ => false))

/-- The commit of a finished walk (R171). -/
def walkCommit (s : State) (c : Cmd) (a : Att) (k : Keys) (u : AUnit) (bs : List Nat) (w : Walk) : Except Status (State × Cmd) := do
  let c := c.addCnt 0 (a.scoreCount k u bs)
  if a.bwd then
    let cases ← u.rows.mapM (fun r => (s.elem a.lse (a.lse.logical [r.1, u.entry.qRow + r.2, 0, 0, 0, 0])).map lseCase)
    commitWrites s (countCases c cases) (packBwd s c a k u w)
  else
    let acc := foldChunks w.acc w.cur
    let ps := if acc.isEmpty then u.rows.map (fun _ => freshPartial a.d) else acc
    let rows ← (u.rows.zip ps).mapM (settleOf s c a k u bs)
    let part ← ringPartials s c a k u bs
    (if onTowers s c then commitGranules else commitWrites) s (countCases c (rows.map (·.1))) (part.append (packAll ((u.rows.zip rows).map (fun r => packFwdRow s c a u r.1 r.2.2.1 r.2.2.2))))

/-- A bad page found by a walk: the report's row and page are kept as counts 4 and 5, and the command goes on to its end
(R155, R176). -/
def markBad (s : State) (c : Cmd) (a : Att) (ring : List (List Bytes)) (u : AUnit) : Cmd :=
  match attKeys s c a ring u with
  | .error _ => c.addCnt 4 1
  | .ok (c', k) =>
    let own := ((a.blocks k u).flatMap (fun b => [128 * b, 128 * b + 64])).filter (fun p => k.present p && (k.place p).1.isNone)
    let bad := own.find? (fun p => match keepWord s c' (k.entryAt (k.place p).2) with | .ok d => (k.page d (k.place p).2).isNone | .error _ => true)
    (c.addCnt 4 (a.layer * k.hdr.groups + u.group + 1)).addCnt 5 ((bad.map (fun p => (k.place p).2 / 64)).getD 0)

/-- A bad page has been found. -/
def attBad (c : Cmd) : Bool := decide (0 < c.cnt 4)

/-- A whole unit. -/
def attWalk (s : State) (c : Cmd) (a : Att) (ring : List (List Bytes)) (u : AUnit) (unit : Nat) : Except Status (State × Cmd) := do
  let (c, k) ← attKeys s c a ring u
  let w ← startWalk s c a u unit
  let bs := a.blocks k u
  let (c, w) ← bs.foldlM (fun x b => walkBlock s x.1 a k u bs x.2 b) (c, w)
  walkCommit s c a k u bs w

/-- A unit of an attention command; after a bad page nothing more is walked. -/
def attUnit (ring : List (List Bytes)) (s : State) (c : Cmd) (n : Nat) : Except Status (State × Cmd) :=
  match c.att with
  | none => .error .malformed
  | some a =>
    match (s.attUnits c a)[n]? with
    | none => .error .malformed
    | some u =>
      if attBad c then .ok (s, c) else
      match attWalk s c a ring u n with
      | .error .kvBadPage => .ok (s, markBad s c a ring u)
      | r => r

/-! ### Checks, end and rows (R163, R165 to R167, R172, R176 to R178, R301) -/

/-- Sizes above the listed dimensions are 1. -/
def dimsAre (t : Tens) (sizes : List Nat) : Bool := (List.range 6).all (fun i => t.size i == nth 1 sizes i)

/-- A 16-bit float, a 32-bit float or either (R156, R168). -/
def half (t : Tens) : Bool := decide (t.fmt = .bf16) || decide (t.fmt = .fp16)
def halfOr32 (t : Tens) : Bool := half t || decide (t.fmt = .fp32)
/-- An uncompressed output or FP32 tensor. -/
def plainOut (t : Tens) : Bool := t.comp == 0

/-- Formats and dimensions (R156, R168). -/
def attShapes (s : State) (a : Att) : Bool :=
  let sz := [a.d, a.heads, a.rows]
  (a.d == 64 || a.d == 128 || a.d == 256) && half a.q && halfOr32 a.o && dimsAre a.q sz && dimsAre a.o sz &&
  (if a.bwd then
    half a.dO && dimsAre a.dO sz && decide (a.lse.fmt = .fp32) && dimsAre a.lse [a.heads, a.rows] && halfOr32 a.dQ && dimsAre a.dQ sz &&
    halfOr32 a.dK && halfOr32 a.dV && dimsAre a.dK [a.d, a.groups.length, a.dK.size 2] && dimsAre a.dV [a.d, a.groups.length, a.dK.size 2] &&
    [a.dQ, a.dK, a.dV].all plainOut && s.tiersAgree [a.q, a.o, a.dO, a.lse, a.dQ, a.dK, a.dV]
   else
    plainOut a.o && s.tiersAgree [a.q, a.o] &&
    (!a.lseOut || (decide (a.lse.fmt = .fp32) && dimsAre a.lse [a.heads, a.rows] && plainOut a.lse && s.tierAgrees a.lse)))

/-- Fields in range and reserved bits zero (R140, R173 to R175, R177). -/
def attFields (c : Cmd) (a : Att) : Bool :=
  decide (1 ≤ a.nseq) && decide (a.nseq ≤ 2 ^ 20) && a.batch % 32 == 0 && decide (1 ≤ a.total) && decide (a.total ≤ 4096) &&
  decide (1 ≤ a.gs) && decide (a.gs ≤ 256) && (a.bucket == 0 || (decide (6 ≤ a.bucket) && decide (a.bucket ≤ 20))) &&
  decide (a.base + a.heads ≤ a.total) && decide (a.flags < 2 ^ 9) && (!a.reports || a.report % 32 == 0) &&
  (if a.bwd then
    !bitAt a.flags 4 && !a.lseOut && a.base % a.gs == 0 && a.heads % a.gs == 0 && a.work % 64 == 0 && c.zero 503 1 && (!a.stoch 0 || a.finalDQ)
   else
    !a.finalDQ && !a.accumDQ && !a.stoch 2 && (!a.stoch 1 || a.lseOut) && decide (a.engine ≤ 2) && a.chunk % 128 == 0 &&
    c.zero 254 2 && c.zero 272 48 &&
    (!a.ring || (decide (2 ≤ a.ringSize) && decide (a.ringSize ≤ 16384) && decide (a.chunk ≠ 0) && a.partialAt % 64 == 0 && a.ringBuf % 64 == 0)))

/-- The ring's group exists, has RING_SIZE members and is this queue's (R389, R390). -/
def attRing (s : State) (c : Cmd) (a : Att) : Bool :=
  let g := tabGet {} s.lnk.groups a.ringGroup
  !a.ring || (decide (a.ringGroup ≤ 4095) && g.exist && g.members.length == a.ringSize && g.owner == c.q)

/-- The ranges of the tables that a batch names, and of every live pool (R172). -/
def attTables (s : State) (c : Cmd) (es : List BatchEntry) : List (Nat × Nat) :=
  es.flatMap (fun e => match s.seqHdr c.q e.seq with | .ok h => [h.range] | .error _ => []) ++ s.livePools.map (fun p => p.2.range)

/-- The work area of ATTN_BWD (R175). -/
def Att.workRange (a : Att) : Nat × Nat := (a.work, a.rows * a.heads * a.d * 4)

/-- Ring buffers and partials (R167), and the work area. -/
def Att.buffers (a : Att) : List (Nat × Nat) :=
  (if a.ring then [(a.ringBuf, 2 * a.chunk * (a.total / a.gs) * 2 * a.d * 2), (a.partialAt, a.ringSize * a.rows * a.heads * (12 + 4 * a.d))] else []) ++
  (if a.bwd then [a.workRange] else [])

/-- The output tensors with their sub-sites (R53, R161, R169). -/
def Att.outTens (a : Att) : List (Nat × Tens) :=
  if a.bwd then (if a.finalDQ then [(0, a.dQ)] else []) ++ [(1, a.dK), (2, a.dV)]
  else (0, a.o) :: (if a.lseOut then [(1, a.lse)] else [])

/-- The outputs without the report. -/
def Att.outs (a : Att) : List (Nat × Nat) :=
  if a.bwd then [a.dK.range, a.dV.range] ++ (if a.finalDQ then [a.dQ.range] else [])
  else [a.o.range] ++ (if a.lseOut then [a.lse.range] else [])

/-- The report's range. -/
def Att.reportRange (a : Att) : List (Nat × Nat) := if a.reports then [(a.report, 32)] else []

/-- The inputs. -/
def Att.ins (a : Att) : List (Nat × Nat) :=
  [a.q.range, (a.batch, 32 * a.nseq)] ++ (if a.bwd then [a.o.range, a.dO.range, a.lse.range] else [])

/-- The checks that refuse an attention command (R140, R165, R166, R172, R177, R301). -/
def attCheck (s : State) (c : Cmd) : Option Status :=
  match c.att with
  | none => some .malformed
  | some a =>
    refuseUnless (attFields c a && attShapes s a && attRing s c a) <|
    match s.batchList c.q a.batch a.nseq with
    | .error st => some st
    | .ok es =>
      refuseUnless (es.all (fun e => e.clean && decide (1 ≤ e.qCount) && decide (e.qRow + e.qCount ≤ a.rows)) &&
        !anyOverlap (a.outs ++ a.reportRange) (a.ins ++ a.buffers ++ attTables s c es) &&
        (!a.bwd || !anyOverlap [a.workRange] (a.ins ++ attTables s c es)) &&
        (a.engine != 1 || towerForm s c a es)) <|
      if a.outTens.any (fun t => a.stoch t.1 && decide (2 ^ 48 ≤ t.2.count)) then some .limit else none

/-- The ranges of an attention command's fields. -/
def attRanges (_ : State) (c : Cmd) : List (Nat × Nat) :=
  match c.att with
  | none => []
  | some a => a.ins ++ a.outs ++ (if a.bwd ∧ !a.finalDQ then [a.dQ.range] else []) ++ a.buffers ++ a.reportRange

/-- What stays undefined when the command ends early: its uncommitted outputs (R178), which keep their old values where tower units
run it (R306). -/
def attOuts (s : State) (c : Cmd) : List (Nat × Nat) :=
  match c.att with
  | none => []
  | some a => (if onTowers s c then [] else a.outs) ++ (if a.ring then a.buffers else []) ++ a.reportRange

/-- Entries whose sequence is longer than the bucket, by the rows read (R163). -/
def overBucket (s : State) (c : Cmd) (a : Att) (es : List BatchEntry) : Nat :=
  if a.bucket = 0 then 0 else
  (es.filter (fun e => match s.seqHdr c.q e.seq with
    | .ok h => a.groups.any (fun g => decide (2 ^ a.bucket < c.keptWord (h.row a.layer g) % 2 ^ 32))
    | .error _ => false)).length

/-- The report (R176). -/
def attReport (s : State) (c : Cmd) (a : Att) : Bytes :=
  let isOver := match s.batchList c.q a.batch a.nseq with | .ok es => overBucket s c a es | .error _ => 0
  natBytes 8 (c.cnt 0) ++ natBytes 4 (c.cnt 1) ++ natBytes 4 (c.cnt 2) ++ natBytes 4 (c.cnt 3) ++ natBytes 4 isOver ++
  natBytes 4 (c.cnt 4 - 1) ++ natBytes 4 (c.cnt 5)

/-- A dense chunk as the ring carries it: K and V of every group, position by position (R166, R167). -/
def ringChunk (s : State) (c : Cmd) (a : Att) (ring : List (List Bytes)) (u : AUnit) (ch : Nat) : Bytes :=
  match s.seqHdr c.q u.entry.seq with
  | .error _ => []
  | .ok h =>
    if ch ≠ (tabGet {} s.lnk.groups a.ringGroup).rank then nth [] (nth [] ring u.idx) ch
    else
      let t := c.keptWord (h.row a.layer u.group) % 2 ^ 32
      (List.range t).flatMap (fun p => [0, 1].flatMap (fun part => (List.range h.groups).flatMap (fun g =>
        match (s.rowEntry c.q h a.layer g (p / 64)).toOption.bind (entryPage h.pool (s.pool h.pool)) with
        | none => natBytes (2 * a.d) 0
        | some j => s.rawBytes ((s.pool h.pool).base + j * (s.pool h.pool).pageBytes + part * 128 * a.d + p % 64 * a.d * 2) (2 * a.d))))

/-- The chunks a ring member sends to the next member: its own, then each one it received (R166 step 2). -/
def ringSend (s : State) (c : Cmd) (a : Att) (ring : List (List Bytes)) : State :=
  if !a.ring then s else
  let g := tabGet {} s.lnk.groups a.ringGroup
  let firsts := (s.attUnits c a).filter (fun u => u.group == a.groupOf 0 && u.rows.head? == some (0, 0))
  let t := firsts.foldl (fun t u => (List.range (a.ringSize - 1)).foldl (fun t k =>
    t.sendPeer (nth 0 g.members ((g.rank + 1) % a.ringSize)) "RING_CHUNK" [g.number, u.idx, (g.rank + a.ringSize - k) % a.ringSize]
      (ringChunk s c a ring u ((g.rank + a.ringSize - k) % a.ringSize))) t) s
  t.openRange a.ringBuf (2 * a.chunk * (a.total / a.gs) * 2 * a.d * 2)

/-- The report and the status (R176, R178). -/
def attFinish (ring : List (List Bytes)) (s : State) (c : Cmd) : Except Status (State × Cmd) :=
  match c.att with
  | none => .error .malformed
  | some a =>
    match writeReport s c a.reports a.report (attReport s c a) with
    | .error st => .error st
    | .ok r =>
      if attBad c then .ok (endWith (walkerBlame r.1 r.2 .kvBadPage) r.2 .kvBadPage (attOuts s c))
      else .ok (ringSend r.1 r.2 a ring, { r.2 with status := .ok })

/-- ATTN_FWD and ATTN_BWD; `ring`: what the links delivered, by batch entry and chunk. -/
def attnOp (ring : List (List Bytes)) : Op :=
  { check := attCheck, ranges := attRanges,
    total := fun s c => match c.att with | none => 0 | some a => (s.attUnits c a).length,
    unit := attUnit ring, finish := attFinish ring, outs := attOuts,
    pages := fun s c => s.regionsIn.map pgWalker ++ (if onTowers s c then s.towerUnitsIn.map pgTower else []), blame := walkerBlame,
    leave := leaveReport (fun c => (c.att.map Att.reports).getD false) (fun c => (c.att.map Att.report).getD 0)
      (fun s c => match c.att with | some a => attReport s c a | none => natBytes 32 0),
    weight := fun _ c _ => if attBad c then 0 else 1 }

/-- A collective command takes its group's next number, or at a replay the number it had (R389, R390, R398). (DEDUCED, log entry 56). -/
def takeNumber (s : State) (c : Cmd) (g : Nat) : State × Cmd :=
  let x := tabGet {} s.lnk.groups g
  match x.taken.find? (fun e => e.1 == c.n) with
  | some e => (s, { c with coll := { group := g, number := e.2 } })
  | none =>
    ({ s with lnk := { s.lnk with groups := tabSet {} s.lnk.groups g { x with number := x.number + 1, taken := x.taken ++ [(c.n, x.number)] } } },
     { c with coll := { group := g, number := x.number } })

/-- A collective's number is recorded as done (R396). -/
def numberDone (s : State) (n g : Nat) : State :=
  let x := tabGet {} s.lnk.groups g
  match x.taken.find? (fun e => e.1 == n) with
  | none => s
  | some e =>
    { s with lnk := { s.lnk with groups := tabSet {} s.lnk.groups g { x with taken := x.taken.filter (fun t => t.1 != n), done := if x.done.contains e.2 then x.done else x.done ++ [e.2] } } }

/-- An attention command's start: its generation latches, and in the ring form the group's next number. -/
def attStart (s : State) (c : Cmd) : Start :=
  match c.att with
  | none => latchStart s c
  | some a => if a.ring then latchStart (takeNumber s c a.ringGroup).1 (takeNumber s c a.ringGroup).2 else latchStart s c

/-- A ring command moves no chunk before its signature has been agreed (R390, R395). -/
def ringMayRun (c : Cmd) : Bool := !((c.att.map Att.ring).getD false) || c.coll.signed

/-- ATTN_FWD (R156). -/
def execAttnFwd (q n : Nat) (ring : List (List Bytes)) (s : State) : Host.Outcome State Fault Refusal :=
  .next (runRow (attnOp ring) (fun c => c.isOp 0x401 && ringMayRun c) q n s)

/-- ATTN_BWD (R168). -/
def execAttnBwd (q n : Nat) (s : State) : Host.Outcome State Fault Refusal := .next (runRow (attnOp []) (Cmd.isOp 0x402) q n s)

/-! ### Key-block boundaries (R171, R302, R304) -/

/-- A region's walk replaced. -/
def State.putWalk (s : State) (r : Nat) (w : Option Walk) : State := s.putRegion r { s.region r with walk := w }

/-- The walk a region holds for a command, while the unit is not committed. -/
def walkOf (s : State) (r : Nat) (c : Cmd) : Option Walk :=
  (s.region r).walk.filter (fun w => w.q == c.q && w.n == c.n && !c.done.contains w.unit)

/-- The first unit neither committed nor walked by a region. -/
def nextWalk (s : State) (c : Cmd) (a : Att) : Option Nat :=
  (List.range (s.attUnits c a).length).find? (fun k => !c.done.contains k &&
    !s.regions.any (fun r => r.2.walk.any (fun w => w.q == c.q && w.n == c.n && w.unit == k)))

/-- A stop at the boundary discards the walk (R93, R171). -/
def walkBoundary (s : State) (r : Nat) (c : Cmd) (w : Walk) (b : Boundary) : State :=
  if b.stops then (s.putWalk r none).quits c r else (s.putWalk r (some w)).putCmd c

/-- The unit's last key block is done: it commits, and with the last unit the command closes. -/
def walkEnd (s : State) (r : Nat) (c : Cmd) (a : Att) (k : Keys) (u : AUnit) (w : Walk) (b : Boundary) : State :=
  let s := s.putWalk r none
  match walkCommit s c a k u (a.blocks k u) w with
  | .error st => (attnOp []).stopIn s c st
  | .ok (t, d) =>
    let t := t.count (pgWalker r) 0x502 1
    let d := { d with done := insertNat w.unit d.done, units := d.units + 1 }
    if ((attnOp []).nextUnit t d).isNone then ((attnOp []).close t d).1.putCmd ((attnOp []).close t d).2
    else if b.stops then t.quits d r else t.putCmd d

/-- One key block of a walk in region `r`; `src` is what the walker counts. -/
def walkOn (s : State) (r src : Nat) (c : Cmd) (a : Att) (u : AUnit) (w : Walk) (b : Boundary) : State :=
  let bad := ((attnOp []).close (s.putWalk r none) (markBad s c a [] u))
  match attKeys s c a [] u with
  | .error st => (attnOp []).stopIn (s.putWalk r none) c st
  | .ok (c, k) =>
    let bs := a.blocks k u
    match bs[w.key]? with
    | none => walkEnd s r c a k u w b
    | some x =>
      match walkBlock s c a k u bs w x with
      | .error .kvBadPage => bad.1.putCmd bad.2
      | .error st => (attnOp []).stopIn (s.putWalk r none) c st
      | .ok (c, w) =>
        let s := s.count (pgWalker r) src 1
        if bs.length ≤ w.key then walkEnd s r c a k u w b else walkBoundary s r c w b

/-- A walker's next key block for an attention command. -/
def walkStep (s : State) (r src : Nat) (c : Cmd) (a : Att) (b : Boundary) : State :=
  match walkOf s r c with
  | some w => (match (s.attUnits c a)[w.unit]? with | some u => walkOn s r src c a u w b | none => s)
  | none =>
    match nextWalk s c a with
    | none => s
    | some k =>
      match (s.attUnits c a)[k]? with
      | none => s
      | some u =>
        match startWalk s c a u k with
        | .error st => (attnOp []).stopIn s c st
        | .ok w => walkOn s r src c a u w b

/-- One logical page of a KV_APPEND (R171). -/
def appendStep (s : State) (r : Nat) (c : Cmd) (b : Boundary) : State :=
  let x := kvAppendOp.runOne s c
  if x.2.phase = .started ∧ b.stops = true then x.1.quits x.2 r else x.1.putCmd x.2

/-- The walker of a region serves. -/
def walkerServes (s : State) (r : Nat) : Bool := (s.region r).state == .inService && !(s.region r).walkerFenced

/-- The tower of the first byte of a walk's next key block (R302). -/
def blockTower (s : State) (c : Cmd) (a : Att) (u : AUnit) (w : Walk) : Option Nat :=
  match attKeys s c a [] u with
  | .error _ => none
  | .ok (c, k) =>
    ((a.blocks k u)[w.key]?).bind (fun b =>
      match keepBlock s c k b with
      | .error _ => none
      | .ok d => (k.page d (128 * b)).map (fun j => (s.placeOf (k.pool.base + j * k.pool.pageBytes - umberBase)).1))

/-- The walk that region `r` holds for a command, or would begin. -/
def walkAhead (s : State) (r : Nat) (c : Cmd) (a : Att) : Option Walk :=
  match walkOf s r c with
  | some w => some w
  | none => (nextWalk s c a).map (fun k => { q := c.q, n := c.n, unit := k })

/-- The tower unit that is the home of region `r`'s next key block: T17's where it holds the position; `none`: the walker computes the
block itself (R256, R293, R302). -/
def blockHome (s : State) (r : Nat) (c : Cmd) (a : Att) : Option Nat :=
  if !onTowers s c then none
  else (walkAhead s r c a).bind (fun w => ((s.attUnits c a)[w.unit]?).bind (fun u => (blockTower s c a u w).bind s.unitOf))

/-- A walker's boundary is past (R435). -/
def State.passWalk (s : State) (r : Nat) : State := s.putRegion r { s.region r with walkSlot := ((s.region r).walkSlot + 1) % 16 }

/-- A boundary through which the throttle level pauses the walker (R435): a stop still discards the walk. -/
def walkPause (s : State) (r : Nat) (c : Cmd) (b : Boundary) : State :=
  if b.stops then (s.putRegion r { s.region r with walk := (s.region r).walk.filter (fun w => !(w.q == c.q && w.n == c.n)) }).quits c r else s

/-- The walker's work at one boundary. -/
def walkerStep (s : State) (r : Nat) (c : Cmd) (b : Boundary) : State :=
  if c.opcode = 0x403 then appendStep s r c b
  else match c.att with
    | none => s
    | some a => if a.ring || (blockHome s r c a).isSome then s else walkStep s r 0x501 c a b

/-- KEY_BLOCK_END (R171): the walker of a region ends one key block, or one page of a KV_APPEND; a block whose home is a tower unit is not
its own (R301). The ring form runs in its own row (log entry 3). -/
def keyBlockEnd (r q n : Nat) (b : Boundary) (s : State) : State :=
  match s.runnable q n (fun c => [0x401, 0x402, 0x403].contains c.opcode) with
  | none => s
  | some c =>
    if !walkerServes s r then s
    else if (s.page (pgWalker r)).injectNext then
      (attnOp []).stopIn (s.modPage (pgWalker r) (fun h => { h with injectNext := false })) c .checkFail
    else if unitPaused s.gov.throttle (s.region r).walkSlot then walkPause (s.passWalk r) r c b
    else match s.joinRegion c r with
      | none => s
      | some (t, c) => walkerStep ((t.putCmd c).passWalk r) r c b

/-- KEY_BLOCK_END. -/
def execKeyBlockEnd (region : Fin 8) (q n : Nat) (boundary : Boundary) (s : State) : Host.Outcome State Fault Refusal :=
  .next (keyBlockEnd region q n boundary s)

/-- The region whose walker owns the unit in progress. -/
def walkRegion (s : State) (c : Cmd) : Nat :=
  ((s.regionsIn.find? (fun r => (walkOf s r c).isSome)).getD (s.homeRegion c))

end Sys2Proof.Machine
end

