-- ==== Sys2Proof/Machine/Mirror.lean ====
section
/-! DEFINITION. What the twin engine mirrors to the partner, and the list of what awaits acknowledgement (R405, R406). -/

namespace Sys2Proof.Machine

/-- A partner mirrors what this member sends (R405, R425). -/
def State.twinned (s : State) : Bool := decide (s.twin.state = .paired) || decide (s.twin.state = .shared) || decide (s.twin.state = .filling)

/-- PAIRED or SHARED (R404). -/
def State.isPaired (s : State) : Bool := s.twin.state == .paired || s.twin.state == .shared

/-- An item goes to the partner, and its acknowledgement is awaited where R406 says so. -/
def State.mirror (s : State) (wait : Option MirrorWait) (kind : String) (words : List Nat) (bytes : Bytes) : State :=
  if !s.twinned then s else
  let t := s.sendTwin kind words bytes
  match wait with
  | none => t
  | some w => { t with twin := { t.twin with unacked := t.twin.unacked ++ [w] } }

end Sys2Proof.Machine
end

