-- ==== Sys2Proof/Machine/Compress.lean ====
section
/-! DEFINITION. Sepia and Tint commands: SEPIA_BUILD, SEPIA_ENCODE, TINT_ENCODE, their chunks, and the expander's block
(chapter 09). -/

namespace Sys2Proof.Machine

/-! ### Bodies (R287) -/

/-- SRC. -/
def encSrc (c : Cmd) : Option Tens := c.tens 0
/-- BASE of SEPIA_BUILD and TINT_ENCODE. -/
def encBase (c : Cmd) : Option Tens := c.tens 64
/-- DST. -/
def encDst (c : Cmd) : Option Tens := if c.opcode = 0x703 then c.tens 128 else c.tens 64
/-- The flags word. -/
def encFlags (c : Cmd) : Nat := if c.opcode = 0x703 then c.fld 208 2 else c.fld 136 2
/-- The table a Sepia block is coded under. -/
def encTable (c : Cmd) : Nat := if c.opcode = 0x703 then c.fld 200 8 else c.fld 128 8
/-- The table of differences. -/
def encTint (c : Cmd) : Nat := c.fld 192 8
/-- REPORT_ADDR. -/
def encReport (c : Cmd) : Nat := if c.opcode = 0x703 then c.fld 216 8 else c.fld 144 8
/-- SEPIA_BUILD's TINT. -/
def buildTint (c : Cmd) : Bool := bitAt (c.fld 136 2) 0

/-- An uncompressed BF16 tensor. -/
def plainBf16 (t : Tens) : Bool := t.fmt == .bf16 && t.comp == 0

/-! ### SEPIA_BUILD (R288) -/

/-- Its checks. -/
def buildCheck (s : State) (c : Cmd) : Option Status :=
  match encSrc c with
  | none => some .malformed
  | some t =>
    let base := if buildTint c then encBase c else some t
    refuseUnless (decide (c.fld 136 2 < 2) && c.zero 138 54 && c.fld 128 8 % 64 == 0 && plainBf16 t && s.tierAgrees t) <|
    match base with
    | none => some .malformed
    | some b => refuseUnless (plainBf16 b && s.tierAgrees b && t.sameSizes b && !anyOverlap [(c.fld 128 8, 320)] [t.range, b.range]) none

/-- Its ranges. -/
def buildRanges (_ : State) (c : Cmd) : List (Nat × Nat) :=
  (c.fld 128 8, 320) :: ((encSrc c).map Tens.range).toList ++ (if buildTint c then ((encBase c).map Tens.range).toList else [])

/-- The exponent that an element counts under; `none`: skipped (R288). -/
def countExp (s : State) (c : Cmd) (t : Tens) (i : Nat) : Except Status (Option Nat) := do
  let w ← s.elemCode t (t.indices i)
  if buildTint c then
    match encBase c with
    | none => .ok none
    | some b => do
      let v ← s.elemCode b (b.indices i)
      .ok ((tintDiff v w).map (·.1))
  else .ok (some (bfExp w))

/-- The one unit of SEPIA_BUILD: the whole table. -/
def buildUnit (s : State) (c : Cmd) (_ : Nat) : Except Status (State × Cmd) :=
  match encSrc c with
  | none => .error .malformed
  | some t => do
    let r ← (List.range t.count).foldlM (fun (a : Tab Nat × Nat) i => do
      let e ← countExp s c t i
      match e with
      | some e => .ok (tabMod 0 a.1 e (· + 1), a.2)
      | none => .ok (a.1, a.2 + 1)) (([] : Tab Nat), 0)
    commitWrites s c ⟨[(c.fld 128 8, buildTable r.1 r.2)], 0⟩

/-- The pages of the vector engines. -/
def enginePages (s : State) (_ : Cmd) : List Nat := s.regionsIn.flatMap (fun r => [pgVector r 0, pgVector r 1])

/-- SEPIA_BUILD. -/
def buildOp : Op :=
  { check := buildCheck, ranges := buildRanges, total := fun _ _ => 1, unit := buildUnit, finish := finishOk,
    outs := fun _ c => [(c.fld 128 8, 320)], pages := enginePages }

/-! ### SEPIA_ENCODE and TINT_ENCODE (R278, R284, R289) -/

/-- DST as the encoder writes it: frames, record, headers. -/
def encOuts (_ : State) (c : Cmd) : List (Nat × Nat) :=
  ((encDst c).map Tens.range).toList ++ (if bitAt (encFlags c) 0 then [(encReport c, 32)] else [])

/-- What the encoders read. -/
def encIns (c : Cmd) : List (Nat × Nat) :=
  ((encSrc c).map Tens.range).toList ++ [(encTable c, 320)] ++
  (if c.opcode = 0x703 then (encTint c, 320) :: ((encBase c).map Tens.range).toList else [])

/-- Reserved bytes of the encoders' bodies. -/
def encFields (c : Cmd) : Bool :=
  decide (encFlags c < 4) && encTable c % 64 == 0 && (!bitAt (encFlags c) 0 || encReport c % 32 == 0) &&
  (if c.opcode = 0x703 then c.zero 210 6 && c.zero 224 32 && encTint c % 64 == 0 else c.zero 138 6 && c.zero 152 40)

/-- The encoders' checks. -/
def encCheck (s : State) (c : Cmd) : Option Status :=
  match encSrc c, encDst c with
  | some t, some d =>
    refuseUnless (encFields c && plainBf16 t && t.sameSizes d && d.comp == (if c.opcode = 0x703 then 2 else 1) && s.tiersAgree [t, d]) <|
    refuseUnless (!anyOverlap (encOuts s c) (encIns c)) <|
    if c.opcode ≠ 0x703 then none
    else match encBase c with
      | none => some .malformed
      | some b => refuseUnless (plainBf16 b && b.sameSizes t && b.dense && s.tierAgrees b) none
  | _, _ => some .malformed

/-- The 16-bit elements of block `n` of a tensor laid out by `d`; padding is +0 (R272). -/
def blockElems (s : State) (d t : Tens) (n : Nat) : Except Status (List Nat) :=
  (d.blockIndices n).mapM (fun o => match o with | none => .ok 0 | some ix => s.elemCode t ix)

/-- Elements in each of the 16 lanes (R275). -/
def laneLens (count : Nat) : List Nat := (List.range 16).map (fun j => min 128 (count - 128 * j))

/-- A count raised to a maximum. -/
def Cmd.maxCnt (c : Cmd) (i k : Nat) : Cmd := c.addCnt i (k - c.cnt i)

/-- The report's counts for one block: 0 blocks, 1 RAW, 2 Tint, 3 bytes, 4 largest T, 5 slow blocks. -/
def noteBlock (c : Cmd) (f : Framed) (count : Nat) : Cmd :=
  let T := expandCycles f.frame.length (2 * count) (if f.raw then [] else laneLens count) f.escapes
  (((((c.addCnt 0 1).addCnt 1 (bit f.raw)).addCnt 2 (bit f.tint)).addCnt 3 f.frame.length).maxCnt 4 T).addCnt 5 (bit (decide (ceilDiv (2 * count) 256 < T)))

/-- The frame of block `n`. -/
def frameOf (s : State) (c : Cmd) (t d : Tens) (n : Nat) : Except Status Framed := do
  let ct ← s.tableAt none c.tables (encTable c)
  let xs ← blockElems s d t n
  if c.opcode = 0x703 then
    let tt ← s.tableAt none c.tables (encTint c)
    match encBase c with
    | none => .error .malformed
    | some b => do
      let bs ← blockElems s d b n
      .ok (encodeBlock ct (some (tt, bs)) (bitAt (encFlags c) 1) xs)
  else .ok (encodeBlock ct none (bitAt (encFlags c) 1) xs)

/-- One chunk of 16 blocks. -/
def encUnit (s : State) (c : Cmd) (k : Nat) : Except Status (State × Cmd) :=
  match encSrc c, encDst c with
  | some t, some d => do
    let ns := (List.range (min 16 (d.compBlocks - 16 * k))).map (16 * k + ·)
    let fs ← ns.mapM (fun n => (frameOf s c t d n).map (fun f => (n, f)))
    let p : Packed := ⟨fs.map (fun x => (d.base + 4096 * x.1, x.2.frame)) ++ fs.map (fun x => (d.base + d.scaleOff + 64 + 32 * x.1, x.2.header)), 0⟩
    let c := fs.foldl (fun c x => noteBlock c x.2 (d.blockCount x.1)) c
    commitWrites s c p
  | _, _ => .error .malformed

/-- The compression record (R271). -/
def recordBytes (c : Cmd) (d : Tens) : Bytes :=
  natBytes 8 (encTable c) ++ natBytes 8 (if c.opcode = 0x703 then encTint c else 0) ++
  natBytes 8 (if c.opcode = 0x703 then ((encBase c).map (·.base)).getD 0 else 0) ++ natBytes 8 d.count ++ natBytes 4 d.compBlocks ++
  natBytes 1 d.comp ++ natBytes 1 (if d.rank = 1 then 0 else 1) ++ natBytes 26 0

/-- The report (R289). -/
def encReportBytes (_ : State) (c : Cmd) : Bytes :=
  natBytes 8 (c.cnt 0) ++ natBytes 4 (c.cnt 1) ++ natBytes 4 (c.cnt 2) ++ natBytes 8 (c.cnt 3) ++ natBytes 4 (c.cnt 4) ++ natBytes 4 (c.cnt 5)

/-- A report is asked for. -/
def encReports (c : Cmd) : Bool := bitAt (encFlags c) 0

/-- The record, last, then the report (R289). -/
def encFinish (s : State) (c : Cmd) : Except Status (State × Cmd) :=
  match encDst c with
  | none => .error .malformed
  | some d => do
    let r ← commitWrites s c ⟨[(d.base + d.scaleOff, recordBytes c d)], 0⟩
    (writeReport r.1 r.2 (encReports c) (encReport c) (encReportBytes s c)).map (fun x => (x.1, { x.2 with status := .ok }))

/-- SEPIA_ENCODE and TINT_ENCODE. -/
def encodeOp : Op :=
  { check := encCheck, ranges := fun s c => encOuts s c ++ encIns c,
    total := fun _ c => match encDst c with | none => 0 | some d => ceilDiv d.compBlocks 16,
    unit := encUnit, finish := encFinish, outs := encOuts, pages := enginePages, leave := leaveReport encReports encReport encReportBytes,
    tables := fun _ c => encTable c :: (if c.opcode = 0x703 then [encTint c] else []) }

/-! ### The rows -/

/-- SEPIA_BUILD (R288). -/
def execSepiaBuild (q n : Nat) (s : State) : Host.Outcome State Fault Refusal := .next (runRow buildOp (Cmd.isOp 0x701) q n s)
/-- SEPIA_ENCODE (R284). -/
def execSepiaEncode (q n : Nat) (s : State) : Host.Outcome State Fault Refusal := .next (runRow encodeOp (Cmd.isOp 0x702) q n s)
/-- TINT_ENCODE (R278). -/
def execTintEncode (q n : Nat) (s : State) : Host.Outcome State Fault Refusal := .next (runRow encodeOp (Cmd.isOp 0x703) q n s)

/-- ENCODE_CHUNK_COMMIT (R289): one chunk of 16 blocks is committed, and the command stops there or goes on. -/
def execEncodeChunkCommit (q n : Nat) (boundary : Boundary) (s : State) : Host.Outcome State Fault Refusal :=
  .next (match s.runnable q n (fun c => c.opcode == 0x702 || c.opcode == 0x703) with
    | none => s
    | some c =>
      let r := encodeOp.runOne s c
      r.1.putCmd (r.2.stopped boundary))

/-! ### EXPANDER_BLOCK_DONE (R279, R282, R283) -/

/-- What a matrix command reads through expanders: a compressed operand, or a Sepia entry. -/
inductive ExpSource where
  | tens (t : Tens)
  | entry (k : StackClaim)

/-- The compressed source of a command. -/
def expSource (s : State) (c : Cmd) : Option ExpSource :=
  c.mat.bind (fun g =>
    if g.a.comp ≠ 0 then some (.tens g.a) else if g.b.comp ≠ 0 then some (.tens g.b)
    else if g.ctl.sop = 2 ∨ g.ctl.sop = 3 then c.claim.bind (fun k => if (s.heldEntry k).sepia then some (.entry k) else none) else none)

/-- Blocks of a source, and the expansion of one. -/
def ExpSource.blocks (s : State) : ExpSource → Nat
  | .tens t => t.compBlocks
  | .entry k => entryFrames (s.heldEntry k).sizes
def ExpSource.expand (s : State) (n : Nat) : ExpSource → Except Status Expanded
  | .tens t => s.expandTens t n
  | .entry k => s.entryFrame k n

/-- The counts of an expander pair for a block (R491): blocks, RAW blocks, escape codes. -/
def State.countExpanded (s : State) (page : Nat) (e : Expanded) : State :=
  ((s.count page 0x602 1).count page 0x603 (bit e.raw)).count page 0x604 e.escapes.sum

/-- EXPANDER_BLOCK_DONE: an expander of a pair finishes one block; `stall`: the cycles for which its arrays were held (R283). A failed
check ends the command and is recorded in the pair's page. -/
def expanderBlock (region pair q n block stall : Nat) (s : State) : State :=
  match s.runnable q n (fun c => c.opcode == 0x201) with
  | none => s
  | some c =>
    match expSource s c with
    | none => s
    | some x =>
      if x.blocks s ≤ block ∨ ((s.region region).expander pair).fenced ∨ (s.region region).state ≠ .inService then s else
      let s := s.count (pgExpander region pair) 0x601 stall
      match x.expand s block with
      | .ok e => (s.countExpanded (pgExpander region pair) e).putCmd (c.keepTables s (matTables s c))
      | .error st =>
        let e := matrixOp.quit (s.blameAt (pgExpander region pair) region pair st) c st
        e.1.putCmd e.2

/-- EXPANDER_BLOCK_DONE (R282). -/
def execExpanderBlockDone (region : Fin 8) (pair : Fin 2) (q n : Nat) (turn : BlockTurn) (s : State) : Host.Outcome State Fault Refusal :=
  .next (expanderBlock region pair q n turn.block turn.stall s)

end Sys2Proof.Machine
end

