-- ==== Sys2Proof/Machine/Track.lean ====
section
/-! DEFINITION. Tracked ranges: TRACK OPEN, WRITEBACK, CLOSE, STATUS and CLEAN (R261 to R265, R287). -/

namespace Sys2Proof.Machine

/-- Range `i`. -/
def State.track (s : State) (i : Nat) : Track := tabGet {} s.tracks i
def State.putTrack (s : State) (i : Nat) (t : Track) : State := { s with tracks := tabSet {} s.tracks i t }
/-- Blocks of 4 KiB. -/
def Track.blocks (t : Track) : Nat := t.length / 4096
/-- The bitmap's length in bytes (R261). -/
def Track.bitmapLen (t : Track) : Nat := alignUp (ceilDiv t.length 32768) 64
/-- The record and header table of an ENCODE home (R287). -/
def Track.headers (t : Track) : List (Nat × Nat) := if bitAt t.flags 0 then [(t.home + t.length, 64 + 32 * t.blocks)] else []
/-- Every range of an open track. -/
def Track.ranges (t : Track) : List (Nat × Nat) := [(t.upper, t.length), (t.home, t.length), (t.bitmap, t.bitmapLen)] ++ t.headers
/-- The home as a rank-1 Sepia tensor (R287). -/
def Track.homeTens (t : Track) : Tens := 
  { base := t.home, fmt := .bf16, rank := 1, flags := 8, scaleOff := t.length, sizes := [t.length / 2, 1, 1, 1, 1, 1], strides := List.replicate 6 0 }

/-- The fields of a TRACK body. -/
def trkOp (c : Cmd) : Nat := c.fld 0 1
def trkNo (c : Cmd) : Nat := c.fld 2 2
def trkFlags (c : Cmd) : Nat := c.fld 40 2
def trkEncode (c : Cmd) : Bool := bitAt (trkFlags c) 0
def trkReports (c : Cmd) : Bool := bitAt (trkFlags c) 2
def trkTable (c : Cmd) : Nat := c.fld 56 8
/-- The range an OPEN makes. -/
def trkNew (c : Cmd) : Track := ⟨true, c.fld 8 8, c.fld 16 8, c.fld 24 8, c.fld 32 8, trkFlags c⟩

/-- The other open ranges. -/
def State.openTracks (s : State) : List Track := (s.tracks.map (·.2)).filter (·.isOpen)

/-- OPEN's conditions (R261, R262, R287). -/
def trkOpenOk (s : State) (c : Cmd) : Bool :=
  let t := trkNew c
  !(s.track (trkNo c)).isOpen && t.upper % 4096 == 0 && t.home % 4096 == 0 && t.length % 4096 == 0 && decide (4096 ≤ t.length) &&
  decide (t.length ≤ 2 ^ 40) && t.bitmap % 64 == 0 && decide (s.tierOf t.bitmap = some .ivory) &&
  (match s.tierOf t.upper, s.tierOf t.home with | some u, some h => decide (u.code < h.code) | _, _ => true) &&
  !anyOverlap [(t.upper, t.length)] (s.openTracks.flatMap (fun o => [(o.upper, o.length), (o.home, o.length), (o.bitmap, o.bitmapLen)])) &&
  !anyOverlap t.headers (s.openTracks.flatMap Track.ranges)

/-- TRACK's checks. WRITEBACK, CLOSE and CLEAN name an open range. (DEDUCED, log entry 70). -/
def trkCheck (s : State) (c : Cmd) : Option Status :=
  refuseUnless (decide (1 ≤ trkOp c) && decide (trkOp c ≤ 5) && c.zero 1 1 && decide (trkNo c < 1024) && c.zero 4 4 && c.zero 42 6 &&
    decide (trkFlags c < 8) && (!trkReports c || c.fld 48 8 % 32 == 0)) <|
  refuseUnless (if trkOp c = 1 then trkOpenOk s c else if trkOp c = 4 then true else (s.track (trkNo c)).isOpen) none

/-- Its ranges. -/
def trkRanges (s : State) (c : Cmd) : List (Nat × Nat) :=
  (if trkOp c = 1 then
    (let t := trkNew c
     let hd := t.headers.map (fun h => (t.home, h.2 + t.length))
     [(t.upper, t.length), (t.bitmap, t.bitmapLen)] ++ (if hd.isEmpty then [(t.home, t.length)] else hd))
   else if trkOp c = 2 then
    (let t := s.track (trkNo c)
     [(t.upper, t.length), (t.home, t.length), (t.bitmap, t.bitmapLen)] ++ (if trkEncode c then [(trkTable c, 320), (t.home + t.length, 64 + 32 * t.blocks)] else []))
   else []) ++
  (if trkReports c then [(c.fld 48 8, 32)] else [])

/-- The bit of block `b` is set. -/
def State.dirtyBit (s : State) (t : Track) (b : Nat) : Bool := (s.rawByte (t.bitmap + b / 8)).getLsbD (b % 8)

/-- The bit of block `b` is cleared. -/
def State.cleanBit (s : State) (t : Track) (b : Nat) : State :=
  s.pokeByte (t.bitmap + b / 8) (s.rawByte (t.bitmap + b / 8) &&& ~~~(BitVec.ofNat 8 (2 ^ (b % 8))))

/-- Bits set. -/
def State.dirtyCount (s : State) (t : Track) : Nat := ((List.range t.blocks).filter (s.dirtyBit t)).length

/-- The report (R262). -/
def trkReportBytes (s : State) (c : Cmd) : Bytes :=
  let t := s.track (trkNo c)
  natBytes 8 (c.cnt 0) ++ natBytes 8 (if t.isOpen then s.dirtyCount t else 0) ++ natBytes 8 t.length ++ natBytes 1 (bit t.isOpen) ++ natBytes 7 0

/-- The report and OK (R262). -/
def trkFinish (s : State) (c : Cmd) : Except Status (State × Cmd) :=
  (writeReport s c (trkReports c) (c.fld 48 8) (trkReportBytes s c)).map (fun r => (r.1, { r.2 with status := .ok }))

/-- OPEN's bitmap: clear, or a bit for every block. -/
def trkBits (c : Cmd) : Bytes :=
  let t := trkNew c
  (List.range t.bitmapLen).map (fun i =>
    if bitAt (trkFlags c) 1 then BitVec.ofNat 8 (2 ^ (min 8 (t.blocks - 8 * i)) - 1) else 0)

/-- OPEN, CLOSE, CLEAN, STATUS: one unit. -/
def trkUnit (s : State) (c : Cmd) (_ : Nat) : Except Status (State × Cmd) :=
  let t := s.track (trkNo c)
  match trkOp c with
  | 1 => (commitWrites s c ⟨[((trkNew c).bitmap, trkBits c)], 0⟩).map (fun r => (r.1.putTrack (trkNo c) (trkNew c), r.2))
  | 3 => .ok (s.putTrack (trkNo c) {}, { c with committed := true, wroteLocal := true })
  | 5 => commitWrites s c ⟨[(t.bitmap, natBytes t.bitmapLen 0)], 0⟩
  | _ => .ok (s, c)

/-- The record of an encoded home (R271, R287). -/
def trkRecord (c : Cmd) (t : Track) : Bytes :=
  natBytes 8 (trkTable c) ++ natBytes 16 0 ++ natBytes 8 (t.length / 2) ++ natBytes 4 t.blocks ++ natBytes 1 1 ++ natBytes 1 0 ++ natBytes 26 0

/-- What one block of a WRITEBACK writes: the block, or its frame and header, after the record (R263, R264, R287). -/
def trkWrites (s : State) (c : Cmd) (t : Track) (b : Nat) (bs : Bytes) : Except Status Writes :=
  if !trkEncode c then .ok [(t.home + 4096 * b, bs)] else do
  let tb ← s.tableAt none c.tables (trkTable c)
  let f := encodeBlock tb none false ((pieces 2 bs).map leNat)
  .ok ((if c.cnt 0 = 0 then [(t.home + t.length, trkRecord c t)] else []) ++
    [(t.home + 4096 * b, f.frame), (t.home + t.length + 64 + 32 * b, f.header)])

/-- One block of a WRITEBACK: the bit is cleared, the block read, then written (R263); a failure leaves the bit set (R265).
Count 0: blocks copied. -/
def wbUnit (s : State) (c : Cmd) (b : Nat) : Except Status (State × Cmd) :=
  let t := s.track (trkNo c)
  if !s.dirtyBit t b then .ok (s, c) else do
  let u := s.cleanBit t b
  let bs ← u.readBytes (t.upper + 4096 * b) 4096
  let ws ← trkWrites u c t b bs
  (commitWrites u c ⟨ws, 0⟩).map (fun r => (r.1, r.2.addCnt 0 1))

/-- TRACK OPEN, CLOSE, STATUS and CLEAN. -/
def trackOp : Op :=
  { check := trkCheck, ranges := trkRanges, total := fun _ _ => 1, unit := trkUnit, finish := trkFinish,
    outs := fun _ c => if trkReports c then [(c.fld 48 8, 32)] else [], pages := fun _ _ => [],
    leave := leaveReport trkReports (fun c => c.fld 48 8) trkReportBytes }

/-- TRACK WRITEBACK: its units are the blocks of the range. -/
def writebackOp : Op :=
  { trackOp with
    total := fun s c => (s.track (trkNo c)).blocks, unit := wbUnit, tables := fun _ c => if trkEncode c then [trkTable c] else [],
    pages := fun s c => if trkEncode c then s.regionsIn.flatMap (fun r => [pgExpander r 0, pgExpander r 1]) else (List.range 16).map pgCopy,
    weight := fun s c b => bit (s.dirtyBit (s.track (trkNo c)) b) }

/-- TRACK OPEN (R262). -/
def execTrackOpen (q n : Nat) (s : State) : Host.Outcome State Fault Refusal := .next (runRow trackOp (Cmd.isSub 0x110 1) q n s)
/-- TRACK WRITEBACK (R263). -/
def execTrackWriteback (q n : Nat) (s : State) : Host.Outcome State Fault Refusal := .next (runRow writebackOp (Cmd.isSub 0x110 2) q n s)
/-- TRACK CLOSE (R262). -/
def execTrackClose (q n : Nat) (s : State) : Host.Outcome State Fault Refusal := .next (runRow trackOp (Cmd.isSub 0x110 3) q n s)
/-- TRACK STATUS (R262). -/
def execTrackStatus (q n : Nat) (s : State) : Host.Outcome State Fault Refusal := .next (runRow trackOp (Cmd.isSub 0x110 4) q n s)
/-- TRACK CLEAN (R262). -/
def execTrackClean (q n : Nat) (s : State) : Host.Outcome State Fault Refusal := .next (runRow trackOp (Cmd.isSub 0x110 5) q n s)

end Sys2Proof.Machine
end

