-- ==== Sys2Proof/Machine/Move.lean ====
section
/-! DEFINITION. The movement commands: COPY in its four forms, GATHER, SCATTER, COPY_INLINE, and the piece boundary
(R312 to R320). -/

namespace Sys2Proof.Machine

/-! ### Fields (R313) -/

/-- SRC and DST. -/
def mvSrc (c : Cmd) : Tens := (c.tens 0).getD noTens
def mvDst (c : Cmd) : Tens := (c.tens 64).getD noTens
/-- INDEX. -/
def mvIdx (c : Cmd) : Tens := (c.tens 128).getD noTens
/-- MOVE_FLAGS. -/
def mvFlags (c : Cmd) : Nat := c.fld 200 2
def mvVerbatim (c : Cmd) : Bool := bitAt (mvFlags c) 0
def mvStoch (c : Cmd) : Bool := bitAt (mvFlags c) 1
def mvReports (c : Cmd) : Bool := bitAt (mvFlags c) 2
/-- REPORT_ADDR. -/
def mvReport (c : Cmd) : Nat := c.fld 208 8
/-- SRC and DST differ in format: a converting form (R314). -/
def mvConverts (c : Cmd) : Bool := (mvSrc c).fmt != (mvDst c).fmt

/-! ### Checks (R313 to R316) -/

/-- Plain or converting: both uncompressed, and no block format is converted (R314). -/
def mvPlainOk (c : Cmd) : Bool :=
  (mvSrc c).comp == 0 && (mvDst c).comp == 0 && !mvVerbatim c &&
  (!mvConverts c || (!(mvSrc c).fmt.isBlock && !(mvDst c).fmt.isBlock))

/-- One of the four forms (R314). -/
def mvFormOk (c : Cmd) : Bool :=
  let a := mvSrc c
  let b := mvDst c
  if mvVerbatim c then a.comp != 0 && a.comp == b.comp && ((a.rank == 1) == (b.rank == 1))
  else if a.comp != 0 then b.comp == 0 && b.fmt == .bf16
  else mvPlainOk c

/-- The shapes of COPY, GATHER and SCATTER (R314, R316). -/
def mvShapeOk (c : Cmd) : Bool :=
  let a := mvSrc c
  let b := mvDst c
  if c.opcode = 0x101 then c.zero 128 64 && a.sameSizes b && mvFormOk c
  else
    (c.tens 128).isSome && (mvIdx c).fmt == .int32 && (mvIdx c).rank == 1 && a.rank == 2 && b.rank == 2 && a.size 0 == b.size 0 &&
    (mvIdx c).size 0 == (if c.opcode = 0x103 then b.size 1 else a.size 1) && mvPlainOk c

/-- Every range the command reads (R315). -/
def mvReads (s : State) (c : Cmd) : List (Nat × Nat) :=
  let a := mvSrc c
  [a.range, (c.bodyAddr, 256)] ++ (if c.opcode = 0x101 then [] else [(mvIdx c).range]) ++
  (if a.comp != 0 && !mvVerbatim c then
    (match s.readBytes (a.base + a.scaleOff) 64 with
     | .error _ => []
     | .ok r => [(fieldAt r 0 8, 320)] ++ (if a.comp = 2 then [(fieldAt r 8 8, 320), (fieldAt r 16 8, 2 * a.count)] else []))
   else [])

/-- The checks of COPY, GATHER and SCATTER; a stochastic form beyond R53's counter completes LIMIT. -/
def mvCheck (s : State) (c : Cmd) : Option Status :=
  refuseUnless ((c.tens 0).isSome && (c.tens 64).isSome && decide (mvFlags c < 8) && c.zero 202 6 && c.zero 216 40 &&
    (!mvReports c || mvReport c % 32 == 0)) <|
  refuseUnless (mvShapeOk c && s.tiersAgree ([mvSrc c, mvDst c] ++ (if c.opcode = 0x101 then [] else [mvIdx c]))) <|
  refuseUnless (!anyOverlap [(mvDst c).range] (mvReads s c)) <|
  if mvStoch c ∧ mvConverts c ∧ 2 ^ 48 ≤ (mvDst c).count then some .limit else none

/-- The byte ranges its fields name. -/
def mvRanges (_ : State) (c : Cmd) : List (Nat × Nat) :=
  [(mvSrc c).range, (mvDst c).range] ++ (if c.opcode = 0x101 then [] else [(mvIdx c).range]) ++
  (if mvReports c then [(mvReport c, 32)] else [])

/-! ### Pieces (R318, R319) -/

/-- The command touches Slate: its pieces run on the copy engines (R318). -/
def mvSlate (s : State) (c : Cmd) : Bool := s.tierOf (mvSrc c).base == some .slate || s.tierOf (mvDst c).base == some .slate

/-- Bytes of DST in one piece or chunk (R318). -/
def mvPiece (s : State) (c : Cmd) : Nat := if mvSlate s c then 65536 else 1048576

/-- The form works on whole compressed blocks: expanding or verbatim (R314). -/
def mvByBlocks (c : Cmd) : Bool := (mvSrc c).comp != 0

/-- The tensor whose elements are walked: SRC in SCATTER, DST otherwise. -/
def mvWalk (c : Cmd) : Tens := if c.opcode = 0x104 then mvSrc c else mvDst c

/-- Elements, or compressed blocks of 4 KiB, in one piece. (DEDUCED, log entry 61). -/
def mvStep (s : State) (c : Cmd) : Nat := if mvByBlocks c then mvPiece s c / 4096 else mvPiece s c / (mvDst c).fmt.bytes

/-- Units of work: pieces or chunks in ascending order. -/
def mvTotal (s : State) (c : Cmd) : Nat :=
  ceilDiv (if mvByBlocks c then (mvSrc c).compBlocks else (mvWalk c).count) (mvStep s c)

/-- A cut put back to a block's end, where a block format would be cut within a block (R41). -/
def cutAt (t : Tens) (a : Nat) : Nat :=
  if !t.fmt.isBlock || decide (t.count ≤ a) then min a t.count
  else a / t.size 0 * t.size 0 + min (t.size 0) (alignUp (a % t.size 0) 32)

/-- The runs of one row that cover elements `a` to `b − 1`: row, first column, length. -/
def rowRuns (w a b : Nat) : List (Nat × Nat × Nat) :=
  if b ≤ a then [] else
  (List.range ((b - 1) / w - a / w + 1)).map (fun k =>
    let r := a / w + k
    let lo := max a (r * w) - r * w
    (r, lo, min b (r * w + w) - (r * w + lo)))

/-! ### Plain and converting runs (R314) -/

/-- The bytes of one block of a block format, copied: elements, padding as zero, and the scale byte (R41, R42). -/
def copyBlock (s : State) (a b : Tens) (src dst k : Nat) : Except Status Writes := do
  let bs ← s.readBytes (a.addrOf (a.indices src)) k
  let sc ← s.readBytes (a.scaleAddr (a.indices src)) 1
  .ok [(b.addrOf (b.indices dst), bs ++ natBytes (32 - k) 0), (b.scaleAddr (b.indices dst), sc)]

/-- Elements from `src` on, `len` of one row, go to `dst` on: their bits, or their values converted. -/
def moveRun (s : State) (c : Cmd) (src dst len : Nat) : Except Status Packed :=
  let a := mvSrc c
  let b := mvDst c
  if mvConverts c then do
    let xs ← s.elems a ((List.range len).map (src + ·))
    .ok (packPlain b (s.draw c (mvStoch c) (c.fld 192 4) (c.fld 196 4) 0xB00) (xs.zipIdx.map (fun x => (dst + x.2, x.1))))
  else if a.fmt.isBlock then do
    let ws ← (List.range (ceilDiv len 32)).mapM (fun j => copyBlock s a b (src + 32 * j) (dst + 32 * j) (min 32 (len - 32 * j)))
    .ok ⟨ws.flatMap (·.take 1) ++ ws.flatMap (·.drop 1), 0⟩
  else do
    let ws ← (List.range len).mapM (fun j => (s.readBytes (a.addrOf (a.indices (src + j))) a.fmt.bytes).map
      (fun bs => (b.addrOf (b.indices (dst + j)), bs)))
    .ok ⟨ws, 0⟩

/-- Zero bytes in place of a row that no index supplies (R316). -/
def zeroRun (c : Cmd) (dst len : Nat) : Packed :=
  let b := mvDst c
  if b.fmt.isBlock then
    (let js := List.range (ceilDiv len 32)
     ⟨js.map (fun j => (b.addrOf (b.indices (dst + 32 * j)), natBytes 32 0)) ++
      js.map (fun j => (b.scaleAddr (b.indices (dst + 32 * j)), natBytes 1 0)), 0⟩)
  else ⟨(List.range len).map (fun j => (b.addrOf (b.indices (dst + j)), natBytes b.fmt.bytes 0)), 0⟩

/-- Bytes that a run of `len` elements of a tensor reads. -/
def runBytes (t : Tens) (len : Nat) : Nat := len * t.fmt.bytes + (if t.fmt.isBlock then ceilDiv len 32 else 0)

/-- The row that INDEX names at list position `i`, when it lies in a tensor of `rows` rows. -/
def State.rowNamed (s : State) (c : Cmd) (i rows : Nat) : Except Status (Option Nat) :=
  (s.elemCode (mvIdx c) [i]).map (fun v =>
    let x := signedOf 32 v
    if 0 ≤ x ∧ x < rows then some x.toNat else none)

/-- What one run contributes: its writes, bytes read, whether a row out of range begins in it. -/
structure RunOut where
  packed : Packed
  read   : Nat
  missed : Nat
deriving DecidableEq, Repr

/-- One run of row `r`, columns `lo` on (R314, R316). -/
def moveRow (s : State) (c : Cmd) (r lo len : Nat) : Except Status RunOut :=
  let w := (mvDst c).size 0
  let at_ (row : Nat) := row * w + lo
  let go (src dst extra : Nat) : Except Status RunOut :=
    (moveRun s c src dst len).map (fun p => ⟨p, runBytes (mvSrc c) len + extra, 0⟩)
  if c.opcode = 0x101 then go (at_ r) (at_ r) 0
  else if c.opcode = 0x103 then do
    match ← s.rowNamed c r ((mvSrc c).size 1) with
    | some k => go (at_ k) (at_ r) (4 * bit (lo == 0))
    | none => .ok ⟨zeroRun c (at_ r) len, 4 * bit (lo == 0), bit (lo == 0)⟩
  else do
    match ← s.rowNamed c r ((mvDst c).size 1) with
    | some k => go (at_ r) (at_ k) (4 * bit (lo == 0))
    | none => .ok ⟨{}, 4 * bit (lo == 0), bit (lo == 0)⟩

/-- Bytes of a packing. -/
def Packed.size (p : Packed) : Nat := (p.writes.map (fun w => w.2.length)).sum

/-- The counts of the report: 0 bytes read, 1 bytes written, 2 rows out of range (R317). -/
def Cmd.moved (c : Cmd) (read written missed : Nat) : Cmd := ((c.addCnt 0 read).addCnt 1 written).addCnt 2 missed

/-- One piece of a plain or converting form. -/
def moveElems (s : State) (c : Cmd) (k : Nat) : Except Status (State × Cmd) := do
  let t := mvWalk c
  let runs ← (rowRuns (t.size 0) (cutAt t (k * mvStep s c)) (cutAt t ((k + 1) * mvStep s c))).mapM (fun r => moveRow s c r.1 r.2.1 r.2.2)
  let p := runs.foldl (fun p r => p.append r.packed) {}
  (commitWrites s c p).map (fun r => (r.1, r.2.moved ((runs.map (·.read)).sum) p.size ((runs.map (·.missed)).sum)))

/-! ### Expanding and verbatim forms (R314) -/

/-- Granules in use of a frame, from its header (R276, R314). -/
def frameBytes (hdr : Bytes) : Nat := alignUp (min 4096 (fieldAt hdr 4 2)) 64

/-- Block `n` expanded into DST. -/
def expandInto (s : State) (a b : Tens) (n : Nat) : Except Status Writes :=
  (s.expandTens a n).map (fun e => ((a.blockIndices n).zip e.elems).filterMap (fun x => x.1.map (fun ix => (b.addrOf ix, natBytes 2 x.2))))

/-- Block `n` copied as it is: its header and its frame's granules. -/
def verbatimBlock (s : State) (a b : Tens) (n : Nat) : Except Status Writes := do
  let h ← s.readBytes (a.base + a.scaleOff + 64 + 32 * n) 32
  let f ← s.readBytes (a.base + 4096 * n) (frameBytes h)
  .ok [(b.base + 4096 * n, f), (b.base + b.scaleOff + 64 + 32 * n, h)]

/-- The record of a verbatim copy, with its first piece. -/
def verbatimRecord (s : State) (a b : Tens) : Except Status Writes :=
  (s.readBytes (a.base + a.scaleOff) 64).map (fun r => [(b.base + b.scaleOff, r)])

/-- One piece of a form that works on compressed blocks. -/
def moveBlocks (s : State) (c : Cmd) (k : Nat) : Except Status (State × Cmd) := do
  let a := mvSrc c
  let b := mvDst c
  let ns := (List.range (mvStep s c)).map (k * mvStep s c + ·) |>.filter (fun n => decide (n < a.compBlocks))
  let one := if mvVerbatim c then verbatimBlock s a b else expandInto s a b
  let first ← (if k = 0 ∧ mvVerbatim c then verbatimRecord s a b else .ok [])
  let ws ← ns.mapM one
  let hs ← ns.mapM (fun n => s.readBytes (a.base + a.scaleOff + 64 + 32 * n) 32)
  let p : Packed := ⟨first ++ ws.flatten, 0⟩
  let read := (hs.map (fun h => 32 + frameBytes h)).sum + (if k = 0 then 64 else 0)
  (commitWrites s c p).map (fun r => (r.1, r.2.moved read p.size 0))

/-! ### The commands -/

/-- One unit of COPY, GATHER or SCATTER. -/
def mvUnit (s : State) (c : Cmd) (k : Nat) : Except Status (State × Cmd) := if mvByBlocks c then moveBlocks s c k else moveElems s c k

/-- The report (R317). -/
def mvReportBytes (_ : State) (c : Cmd) : Bytes := natBytes 8 (c.cnt 0) ++ natBytes 8 (c.cnt 1) ++ natBytes 4 (c.cnt 2) ++ natBytes 12 0

/-- The report, and LIMIT when a row was out of range (R316, R317, R327). -/
def mvFinish (s : State) (c : Cmd) : Except Status (State × Cmd) :=
  (writeReport s c (mvReports c) (mvReport c) (mvReportBytes s c)).map (fun r => (r.1, { r.2 with status := if 0 < c.cnt 2 then .limit else .ok }))

/-- The pages of the engines that serve it: copy engines by direction, or the regions whose movers run (R318, R484). -/
def mvPages (s : State) (c : Cmd) : List Nat :=
  if mvSlate s c then
    (if s.tierOf (mvDst c).base = some .slate then (List.range 8).map pgCopy else []) ++
    (if s.tierOf (mvSrc c).base = some .slate then (List.range 8).map (fun i => pgCopy (8 + i)) else [])
  else s.regionsIn.map pgRegion

/-- COPY, GATHER and SCATTER. -/
def moveOp : Op :=
  { check := mvCheck, ranges := mvRanges, total := mvTotal, unit := mvUnit, finish := mvFinish,
    outs := fun _ c => (mvDst c).range :: (if mvReports c then [(mvReport c, 32)] else []), pages := mvPages,
    leave := leaveReport mvReports mvReport mvReportBytes,
    tables := fun s c => if mvVerbatim c then [] else s.tablesOf (mvSrc c) }

/-- COPY (R314). -/
def execCopy (q n : Nat) (s : State) : Host.Outcome State Fault Refusal := .next (runRow moveOp (Cmd.isOp 0x101) q n s)
/-- GATHER (R316). -/
def execGather (q n : Nat) (s : State) : Host.Outcome State Fault Refusal := .next (runRow moveOp (Cmd.isOp 0x103) q n s)
/-- SCATTER (R316). -/
def execScatter (q n : Nat) (s : State) : Host.Outcome State Fault Refusal := .next (runRow moveOp (Cmd.isOp 0x104) q n s)

/-! ### COPY_INLINE (R320) -/

/-- LEN. -/
def ciLen (c : Cmd) : Nat := fieldAt c.desc 48 1

/-- LEN in range, unused bytes zero, one aligned granule. -/
def ciCheck (_ : State) (c : Cmd) : Option Status :=
  refuseUnless (decide (1 ≤ ciLen c) && decide (ciLen c ≤ 32) && zeroAt c.desc (16 + ciLen c) (32 - ciLen c) && zeroAt c.desc 49 7 &&
    decide (c.bodyAddr % 64 + ciLen c ≤ 64)) none

/-- COPY_INLINE: one granule write. -/
def copyInlineOp : Op :=
  { check := ciCheck, ranges := fun _ c => [(c.bodyAddr, ciLen c)], total := fun _ _ => 1,
    unit := fun s c _ => commitWrites s c ⟨[(c.bodyAddr, sliceOf c.desc 16 (ciLen c))], 0⟩,
    finish := fun s c => .ok (s, { c with status := .ok }), outs := fun _ c => [(c.bodyAddr, ciLen c)], pages := fun _ _ => [] }

/-- COPY_INLINE. -/
def execCopyInline (q n : Nat) (s : State) : Host.Outcome State Fault Refusal := .next (runRow copyInlineOp (Cmd.isOp 0x102) q n s)

/-! ### COPY_PIECE_COMMIT (R318, R319) -/

/-- What the boundary row runs: movement, and the blocks of a TRACK WRITEBACK. -/
def pieceOp (c : Cmd) : Option Op :=
  if [0x101, 0x103, 0x104].contains c.opcode then some moveOp
  else if c.opcode = 0x110 ∧ trkOp c = 2 ∧ ¬trkEncode c then some writebackOp else none

/-- The units of the next piece: one unit, and before it the blocks of a WRITEBACK that are clean. -/
def pieceUnits (s : State) (c : Cmd) (op : Op) : List Nat :=
  let left := (List.range (op.total s c)).filter (fun k => !c.done.contains k)
  let skip := left.takeWhile (fun k => op.weight s c k == 0)
  skip ++ (left.drop skip.length).take 1

/-- Copy engines of a direction in service, ascending (R318, R484). -/
def State.engineList (s : State) (d : Nat) : List Nat := ((List.range 8).map (8 * d + ·)).filter (fun e => (tabGet {} s.copy e).state == .inService)

/-- The engine after `e` in the round-robin of its direction. -/
def State.engineAfter (s : State) (e : Nat) : Option Nat :=
  let es := s.engineList (engineDir e)
  match es.find? (fun x => decide (e < x)) with
  | some x => some x
  | none => es.head?

/-- The engine may take the command's next piece: it serves, and it comes after the one that took the last. Which takes the first is open
(R318). -/
def engineTurn (s : State) (c : Cmd) (e : Nat) : Bool :=
  (tabGet {} s.copy e).state == .inService &&
  (decide (tabGet 16 c.engines (engineDir e) = 16) || s.engineAfter (tabGet 16 c.engines (engineDir e)) == some e)

/-- Directions of the command's pieces: 0 toward the companion, 1 toward the module; none: region movers (R318). -/
def mvDirs (s : State) (c : Cmd) : List Nat :=
  let x := if c.opcode = 0x110 then ((s.track (trkNo c)).upper, (s.track (trkNo c)).home) else ((mvSrc c).base, (mvDst c).base)
  (if s.tierOf x.2 = some .slate then [0] else []) ++ (if s.tierOf x.1 = some .slate then [1] else [])

/-- The first DST address of unit `k`, where its place is known; a SCATTER's is that of the whole DST. -/
def unitDst (s : State) (c : Cmd) (k : Nat) : Nat × Nat :=
  if c.opcode = 0x110 then ((s.track (trkNo c)).home + 4096 * k, 4096)
  else if c.opcode = 0x104 then (mvDst c).range
  else if mvVerbatim c then ((mvDst c).base + 4096 * (k * mvStep s c), mvPiece s c)
  else
    let t := mvDst c
    let ix := if mvByBlocks c then ((((mvSrc c).blockIndices (k * mvStep s c)).headD none).getD []) else t.indices (cutAt t (k * mvStep s c))
    (t.addrOf ix, 1)

/-- The region whose slice holds the DST of unit `k` (R318). -/
def sliceOfUnit (s : State) (c : Cmd) (k : Nat) : Option Nat :=
  let x := unitDst s c k
  if s.tierOf x.1 = some .ivory ∧ x.1 / sliceSize = (x.1 + x.2 - 1) / sliceSize ∧ (s.region (x.1 / sliceSize)).state = .inService then some (x.1 / sliceSize) else none

/-- The region whose mover takes chunk `k`: that of DST's slice, else the regions in service in ascending chunk order (R318). -/
def chunkRegion (s : State) (c : Cmd) (k : Nat) : Option Nat :=
  match sliceOfUnit s c k with
  | some r => some r
  | none =>
    let rs := s.regionsIn
    rs[((List.range k).filter (fun j => (sliceOfUnit s c j).isNone)).length % rs.length]?

/-- The mover may take the command's next piece or chunk (R318). -/
def moverFits (s : State) (c : Cmd) (op : Op) : Mover → Bool
  | .engine e => mvDirs s c == [engineDir e] && engineTurn s c e
  | .both x y => mvDirs s c == [0, 1] && engineTurn s c x && engineTurn s c (8 + y)
  | .region r => (mvDirs s c).isEmpty && (((pieceUnits s c op).getLast?).bind (chunkRegion s c)) == some r.val

/-- The copy engines of a mover. -/
def moverEngines : Mover → List Nat
  | .engine e => [e.val]
  | .both x y => [x.val, 8 + y.val]
  | .region _ => []

/-- The pieces still to be taken lie at the engines of a direction in turn, beginning after the one that has just committed; a command
that stops or is over holds none (R318, CE_STS.BUSY). -/
def State.dealPieces (s : State) (c : Cmd) (ks : List Nat) : List Nat → State
  | [] => s
  | e :: es =>
    let x := tabGet {} s.copy e
    let mine := match x.piece with | none => true | some p => p.1 == c.q && p.2.1 == c.n
    let t := if mine then { s with copy := tabSet {} s.copy e { x with piece := ks.head?.map (fun k => (c.q, c.n, k)) } } else s
    t.dealPieces c ks.tail es

/-- Engines of a direction from the one after `e` round to `e`. -/
def State.engineRound (s : State) (e : Nat) : List Nat :=
  let es := s.engineList (engineDir e)
  es.filter (fun x => decide (e < x)) ++ es.filter (fun x => decide (x ≤ e))

/-- An engine has committed a piece of a command: its counts, the round-robin, and the pieces that the direction's engines hold. -/
def State.enginePiece (s : State) (c : Cmd) (op : Op) (bytes : Nat) (on : Bool) (e : Nat) : State :=
  let t := (s.count (pgCopy e) 0x1901 1).count (pgCopy e) 0x1902 bytes
  let left := if on then (List.range (op.total s c)).filter (fun k => !c.done.contains k && op.weight s c k != 0) else []
  t.dealPieces c left (s.engineRound e)

/-- COPY_PIECE_COMMIT (R319): one piece or chunk commits; a stop is obeyed there. -/
def pieceCommit (mover : Mover) (q n : Nat) (b : Boundary) (s : State) : State :=
  match s.runnable q n (fun c => (pieceOp c).isSome) with
  | none => s
  | some c =>
    match pieceOp c with
    | none => s
    | some op =>
      if !moverFits s c op mover then s else
      match (match mover with | .region r => s.joinRegion c r | _ => some (s, c)) with
      | none => s
      | some (s, c) =>
        let r := op.runSome (pieceUnits s c op) s c
        let d := { r.2 with engines := (moverEngines mover).foldl (fun t e => tabSet 16 t (engineDir e) e) r.2.engines }
        let on := decide (d.phase = .started) && !b.stops
        let bytes := if c.opcode = 0x110 then 4096 * (d.cnt 0 - c.cnt 0) else d.cnt 1 - c.cnt 1
        let t := (moverEngines mover).foldl (fun (t : State) e => t.enginePiece d op bytes on e) r.1
        if d.phase = .started ∧ b.stops = true then (match mover with | .region r => t.quits d r | _ => t.putCmd (d.stopped b)) else t.putCmd d

/-- COPY_PIECE_COMMIT. -/
def execCopyPieceCommit (mover : Mover) (q n : Nat) (boundary : Boundary) (s : State) : Host.Outcome State Fault Refusal :=
  .next (pieceCommit mover q n boundary s)

end Sys2Proof.Machine
end

