-- ==== Sys2Proof/Machine/Opt.lean ====
section
/-! DEFINITION. Parameters and the optimiser: GRAD_QUANT, OPT_UPDATE and the SHARD operations (R209 to R230). -/

namespace Sys2Proof.Machine

/-! ### GRAD_QUANT (R213 to R215) -/

/-- The three tensors. -/
def gqG (c : Cmd) : Tens := (c.tens 0).getD noTens
def gqE (c : Cmd) : Tens := (c.tens 64).getD noTens
def gqQ (c : Cmd) : Tens := (c.tens 128).getD noTens
/-- Flags. -/
def gqReset (c : Cmd) : Bool := bitAt (c.fld 204 2) 1
def gqReports (c : Cmd) : Bool := bitAt (c.fld 204 2) 2

/-- Chunks: runs of at most 64 blocks within one row (log entry 21). -/
def gqPerRow (c : Cmd) : Nat := ceilDiv ((gqQ c).size 0) 2048
def gqTotal (_ : State) (c : Cmd) : Nat := gqPerRow c * (gqQ c).rows
/-- The first logical index and the length of chunk `k`. -/
def gqCut (c : Cmd) (k : Nat) : Nat × Nat :=
  let n := (gqQ c).size 0
  (k / gqPerRow c * n + k % gqPerRow c * 2048, min 2048 (n - k % gqPerRow c * 2048))

/-- x of an element (R213 step 1). -/
def gqX (s : State) (c : Cmd) (i : Nat) : Except Status Num := do
  let g ← s.elem (gqG c) i
  let e ← if gqReset c then .ok nZero else s.elem (gqE c) i
  .ok (fmaAt .fp32 g (decFloat .fp32 (c.fld 192 4)) e)

/-- One block of at most 32 elements: Q's block and the new error terms (R213 steps 2 to 4). -/
def gqBlock (s : State) (c : Cmd) (first : Nat) (xs : List Num) : Packed × Packed × Nat :=
  let q := gqQ c
  let d := s.draw c (bitAt (c.fld 204 2) 0) (c.fld 196 4) (c.fld 200 4) 0x600
  let b := encBlock .sb8i (fun k => d.mode (first + k)) xs
  let es := (xs.zip b.codes).map (fun x => if b.scale = 255 then nZero else x.1.sub ((decInt .int8 x.2).scale ((b.scale : Int) - 127)))
  (packBlock q d first xs, packPlain (gqE c) {} (es.zipIdx.map (fun x => (first + x.2, x.1))), if b.scale = 255 then 1 else 0)

/-- Every operand lies in Umber: the tower units run it (R214). -/
def gqOnTowers (s : State) (c : Cmd) : Bool := [gqG c, gqE c, gqQ c].all (fun t => decide (s.tierOf t.base = some .umber))

/-- One chunk. Count 0: elements. Count 1: NaN blocks. -/
def gqUnit (s : State) (c : Cmd) (k : Nat) : Except Status (State × Cmd) := do
  let cut := gqCut c k
  let xs ← (List.range cut.2).mapM (fun j => gqX s c (cut.1 + j))
  let bs := (pieces 32 xs).zipIdx.map (fun b => gqBlock s c (cut.1 + 32 * b.2) b.1)
  let out := packAll (bs.map (·.1))
  let err := packAll (bs.map (·.2.1))
  (if gqOnTowers s c then commitGranules else commitWrites) s ((c.addCnt 0 cut.2).addCnt 1 (bs.map (·.2.2)).sum) ⟨out.writes ++ err.writes, out.sat⟩

/-- The checks (R214, R215, R53). -/
def gqCheck (s : State) (c : Cmd) : Option Status :=
  match c.tens 0, c.tens 64, c.tens 128 with
  | some g, some e, some q =>
    refuseUnless ((decide (g.fmt = .fp32) || decide (g.fmt = .bf16)) && decide (e.fmt = .bf16) && decide (q.fmt = .sb8i) && g.sameSizes e &&
      g.sameSizes q && e.comp == 0 && decide (c.fld 204 2 < 8) && c.zero 206 2 && c.zero 216 40 && (!gqReports c || c.fld 208 8 % 32 == 0) &&
      s.tiersAgree [g, e, q] && !anyOverlap [g.range] [e.range, q.range] && !anyOverlap [e.range] [q.range] &&
      (!gqReports c || !anyOverlap [(c.fld 208 8, 32)] [g.range, e.range, q.range])) <|
    if bitAt (c.fld 204 2) 0 ∧ 2 ^ 48 ≤ q.count then some .limit else none
  | _, _, _ => some .malformed

/-- The ranges; outputs first. -/
def gqOuts (_ : State) (c : Cmd) : List (Nat × Nat) :=
  [(gqQ c).range, (gqE c).range] ++ (if gqReports c then [(c.fld 208 8, 32)] else [])

/-- What becomes undefined when it ends early: where tower units run it, only its report (R306). -/
def gqUndefined (s : State) (c : Cmd) : List (Nat × Nat) := if gqOnTowers s c then (gqOuts s c).drop 2 else gqOuts s c

/-- The report (R215). -/
def gqReportBytes (_ : State) (c : Cmd) : Bytes :=
  natBytes 8 (c.cnt 0) ++ natBytes 4 (c.cnt 1) ++ natBytes 4 (c.sat - c.cnt 1) ++ natBytes 16 0

/-- The report and the status (R215, R227). -/
def gqFinish (s : State) (c : Cmd) : Except Status (State × Cmd) :=
  (writeReport s c (gqReports c) (c.fld 208 8) (gqReportBytes s c)).map (fun r => (r.1, { r.2 with status := .ok }))

/-- The pages of the blocks that serve it. -/
def gqPages (s : State) (c : Cmd) : List Nat :=
  if gqOnTowers s c then (List.range s.dataTowers).map pgTower else s.regionsIn.flatMap (fun r => [pgVector r 0, pgVector r 1])

/-- GRAD_QUANT. -/
def gradQuantOp : Op :=
  { check := gqCheck, ranges := fun s c => (gqG c).range :: gqOuts s c, total := gqTotal, unit := gqUnit, finish := gqFinish,
    outs := gqUndefined, pages := gqPages, leave := leaveReport gqReports (fun c => c.fld 208 8) gqReportBytes }

/-- GRAD_QUANT (R213). -/
def execGradQuant (q n : Nat) (s : State) : Host.Outcome State Fault Refusal := .next (runRow gradQuantOp (Cmd.isOp 0x505) q n s)

/-! ### Shard records (R210 to R212) -/

/-- Bytes replaced in a list. -/
def patch (bs : Bytes) (off : Nat) (new : Bytes) : Bytes := bs.take off ++ new ++ bs.drop (off + new.length)

/-- A shard record: its address and its 256 bytes. -/
structure Shard where
  addr : Nat
  raw  : Bytes
deriving DecidableEq, Repr

def Shard.version (r : Shard) : Nat := fieldAt r.raw 0 8
def Shard.lastSeq (r : Shard) : Nat := fieldAt r.raw 8 8 % 2 ^ 48
def Shard.lastQ (r : Shard) : Nat := fieldAt r.raw 16 4 % 2 ^ 18
def Shard.busySeq (r : Shard) : Nat := fieldAt r.raw 24 8 % 2 ^ 48
def Shard.busyQ (r : Shard) : Nat := fieldAt r.raw 32 4 % 2 ^ 18
def Shard.role (r : Shard) : Nat := fieldAt r.raw 36 1
def Shard.rule (r : Shard) : Nat := fieldAt r.raw 37 1
def Shard.workFmt (r : Shard) : Nat := fieldAt r.raw 38 1
def Shard.flags (r : Shard) : Nat := fieldAt r.raw 39 1
def Shard.s0 (r : Shard) : Nat := fieldAt r.raw 40 4
def Shard.s1 (r : Shard) : Nat := fieldAt r.raw 44 4
def Shard.master (r : Shard) : Nat := fieldAt r.raw 48 8
def Shard.slotAddr (r : Shard) (i : Nat) : Nat := fieldAt r.raw (56 + 8 * i) 8
def Shard.workAddr (r : Shard) : Nat := fieldAt r.raw 72 8
def Shard.workTAddr (r : Shard) : Nat := fieldAt r.raw 80 8
def Shard.commitAddr (r : Shard) : Nat := fieldAt r.raw 88 8
def Shard.phase (r : Shard) : Nat := fieldAt r.raw 100 1
def Shard.norm (r : Shard) (i : Nat) : Num := decFloat .fp32 (fieldAt r.raw (104 + 4 * i) 4)
def Shard.unitDone (r : Shard) (n : Nat) : Nat := fieldAt r.raw (128 + 4 * n) 4
def Shard.hasT (r : Shard) : Bool := bitAt r.flags 0
def Shard.slotFmt (r : Shard) (i : Nat) : Fmt := if bitAt r.flags (1 + i) then .bf16 else .fp32
/-- Elements. -/
def Shard.count (r : Shard) : Nat := r.s0 * r.s1
/-- Rank 2: dimension 1 has more than one entry. -/
def Shard.rank2 (r : Shard) : Bool := decide (1 < r.s1)
/-- ADAFACTOR with rank 2. -/
def Shard.factored (r : Shard) : Bool := r.rule == 6 && r.rank2
/-- Elements of a slot (R217); 0 where the rule has none. -/
def Shard.slotCount (r : Shard) (i : Nat) : Nat :=
  match r.rule, i with
  | 6, 0 => if r.rank2 then r.s1 else r.s0
  | 6, _ => if r.rank2 then r.s0 else 0
  | 1, 1 => 0
  | 2, 1 => 0
  | _, _ => r.count

/-- The working plane as a tensor (R211). -/
def workTens (base fmt s0 s1 : Nat) : Tens :=
  if fmt = 7 then 
    { base := base, fmt := .sb8e, rank := 2, flags := 0, scaleOff := s1 * (32 * ceilDiv s0 32), sizes := [s0, s1, 1, 1, 1, 1],
      strides := [1, 32 * ceilDiv s0 32, 0, 0, 0, 0] }
  else { base := base, fmt := .bf16, rank := 2, flags := 0, scaleOff := 0, sizes := [s0, s1, 1, 1, 1, 1], strides := [1, s0, 0, 0, 0, 0] }
def Shard.work (r : Shard) : Tens := workTens r.workAddr r.workFmt r.s0 r.s1
def Shard.workT (r : Shard) : Tens := workTens r.workTAddr 7 r.s1 r.s0

/-- The commit area (R223). -/
def Shard.commitRange (r : Shard) : Nat × Nat := (r.commitAddr, 0x80000 + (if r.rule = 6 then alignUp (4 * (r.s0 + r.s1)) 4096 else 0))
/-- The planes. -/
def Shard.planes (r : Shard) : List (Nat × Nat) :=
  [(r.master, 4 * r.count), (r.slotAddr 0, (r.slotFmt 0).bytes * r.slotCount 0)] ++
  (if r.slotCount 1 = 0 then [] else [(r.slotAddr 1, (r.slotFmt 1).bytes * r.slotCount 1)]) ++ [r.work.range] ++
  (if r.hasT then [r.workT.range] else [])

/-- The record a command names. -/
def State.shard (s : State) (q a : Nat) : Except Status Shard := (s.dynRead q a 256).map (fun b => ⟨a, b⟩)

/-- The fields that INIT checks (R210, R211, R217). -/
def Shard.fieldsOk (r : Shard) : Bool :=
  decide (1 ≤ r.role) && decide (r.role ≤ 3) && decide (1 ≤ r.rule) && decide (r.rule ≤ 6) && (r.workFmt == 3 || r.workFmt == 7) &&
  decide (r.flags < 8) && decide (1 ≤ r.s0) && decide (1 ≤ r.s1) && (decide (0 < r.slotCount 1) || r.slotAddr 1 == 0) &&
  (!r.hasT || r.rank2) && r.commitAddr % 4096 == 0 && decide (fieldAt r.raw 96 4 < 2 ^ 16)

/-- Every range that a shard holds. -/
def Shard.ranges (r : Shard) : List (Nat × Nat) := r.planes ++ [(r.addr, 256), r.commitRange]

/-- Bytes 36 to 99 of a record: what INIT is given. -/
def Shard.given (r : Shard) : Bytes := sliceOf r.raw 36 64

/-- A shard that INIT has set up, as its record stood then. -/
def Shard.ofGiven (a : Nat) (given : Bytes) : Shard := ⟨a, natBytes 36 0 ++ given ++ natBytes 156 0⟩

/-- No plane overlaps another, the record or the commit area of any shard (R212). (DEDUCED, log entry 68). -/
def State.shardApart (s : State) (r : Shard) : Bool :=
  !selfOverlap r.ranges && s.shards.all (fun e =>
    e.1 == r.addr || s.rawBytes (e.1 + 36) 64 != e.2 || !anyOverlap r.ranges (Shard.ofGiven e.1 e.2).ranges)

/-- A piece of the record is written. -/
def writeRec (s : State) (c : Cmd) (r : Shard) (off : Nat) (bs : Bytes) : Except Status (State × Cmd) :=
  commitWrites s c ⟨[(r.addr + off, bs)], 0⟩

/-! ### Working copies (R221) -/

/-- A master element: from the values just computed (first index and list), else from the plane. -/
def masterAt (s : State) (q : Nat) (r : Shard) (lo : Nat) (new : List Num) (i : Nat) : Except Status Num :=
  match if lo ≤ i then new[i - lo]? else none with
  | some x => .ok x
  | none => (s.dynRead q (r.master + 4 * i) 4).map (fun b => decFloat .fp32 (leNat b))

/-- The distinct numbers of a list, in order of first occurrence. -/
def distinct (l : List Nat) : List Nat := l.foldl (fun a x => if a.contains x then a else a ++ [x]) []

/-- The block of a block-format plane that begins at logical index `first`, derived from the masters; `elem` gives the master
index of the plane's logical index. -/
def deriveBlock (s : State) (q : Nat) (r : Shard) (t : Tens) (elem : Nat → Nat) (lo : Nat) (new : List Num) (first : Nat) :
    Except Status Packed := do
  let n := min 32 (t.size 0 - first % t.size 0)
  let xs ← (List.range n).mapM (fun j => masterAt s q r lo new (elem (first + j)))
  .ok (packBlock t {} first xs)

/-- The start of the block that holds logical index `i`. -/
def blockStart (t : Tens) (i : Nat) : Nat := i / t.size 0 * t.size 0 + i % t.size 0 / 32 * 32

/-- The master index of a transposed plane's logical index. -/
def Shard.ofT (r : Shard) (j : Nat) : Nat := j / r.s1 + r.s0 * (j % r.s1)
/-- The transposed plane's logical index of a master index. -/
def Shard.toT (r : Shard) (i : Nat) : Nat := i / r.s0 + r.s1 * (i % r.s0)

/-- The working plane over the elements from `lo` on. -/
def deriveWork (s : State) (q : Nat) (r : Shard) (lo : Nat) (new : List Num) : Except Status Packed :=
  if r.workFmt = 7 then
    ((distinct ((List.range new.length).map (fun j => blockStart r.work (lo + j)))).mapM (deriveBlock s q r r.work id lo new)).map packAll
  else .ok (packPlain r.work {} (new.zipIdx.map (fun x => (lo + x.2, x.1))))

/-- The transposed plane over the same elements. -/
def deriveWorkT (s : State) (q : Nat) (r : Shard) (lo : Nat) (new : List Num) : Except Status Packed :=
  if !r.hasT then .ok {} else
  ((distinct ((List.range new.length).map (fun j => blockStart r.workT (r.toT (lo + j))))).mapM
    (deriveBlock s q r r.workT r.ofT lo new)).map packAll

/-! ### The rules (R217 to R220) -/

/-- A value of the rule block. -/
def rb (c : Cmd) (off : Nat) : Num := decFloat .fp32 (c.fld (64 + off) 4)
def rbLR (c : Cmd) : Num := rb c 4
def rbWD (c : Cmd) : Num := rb c 12

/-- FP32 operations, short. -/
def fma32 (x y z : Num) : Num := fmaAt .fp32 x y z
def mul32 (x y : Num) : Num := mulAt .fp32 x y
def add32 (x y : Num) : Num := addAt .fp32 x y
def sub32 (x y : Num) : Num := subAt .fp32 x y
def rsqrtAt (x : Num) : Num := primFunc .fp32 0x16 x
def sqrt32 (x : Num) : Num := sqrtAt .fp32 x

/-- The direction and new slot values of one element, for every rule but ADAFACTOR (R218): s, m, v. -/
def direction (c : Cmd) (rule : Nat) (w m v g : Num) : Num × Num × Num :=
  let g := if rule ≤ 3 then fma32 (rbWD c) w g else g
  let m' := fma32 m (rb c 16) (mul32 g (rb c 20))
  if rule = 1 then (m', m', v)
  else if rule = 2 then (fma32 m' (rb c 16) g, m', v)
  else
    let v' := fma32 v (rb c 24) (mul32 (mul32 g g) (rb c 28))
    let b := rcpAt (add32 (sqrt32 (mul32 v' (rb c 36))) (rb c 40))
    let s := mul32 (mul32 m' (rb c 32)) b
    (if rule = 3 then s else fma32 (rbWD c) w s, m', v')

/-- The record's command of this chapter: OPT_UPDATE's fields. -/
def upGrad (c : Cmd) : Tens := (c.tens 0).getD noTens
def upShard (c : Cmd) : Nat := c.fld 128 8
def upExpect (c : Cmd) : Nat := c.fld 136 8
def upFlags (c : Cmd) : Nat := c.fld 164 2
def upRows (c : Cmd) : Bool := bitAt (upFlags c) 0
def upReports (c : Cmd) : Bool := bitAt (upFlags c) 2
def upRowCount (c : Cmd) : Nat := c.fld 152 4

/-- The INT32 values of the row list (R225). -/
def State.upRowInts (s : State) (c : Cmd) : Except Status (List Int) :=
  if !upRows c then .ok [] else (s.dynRead c.q (c.fld 144 8) (4 * upRowCount c)).map (fun b => (pieces 4 b).map (fun x => (BitVec.ofNat 32 (leNat x)).toInt))

/-- The rows listed (R225). -/
def State.upRowList (s : State) (c : Cmd) : Except Status (List Nat) := (s.upRowInts c).map (fun l => l.map Int.toNat)

/-- Strictly ascending. -/
def ascending : List Int → Bool
  | x :: y :: r => decide (x < y) && ascending (y :: r)
  | _ => true

/-- The units of an update: first element and length of each (R212, R225). -/
def upUnits (r : Shard) (rows : Option (List Nat)) : List (Nat × Nat) :=
  match rows with
  | some l => l.map (fun x => (x * r.s0, r.s0))
  | none => (List.range (ceilDiv r.count 2048)).map (fun u => (2048 * u, min 2048 (r.count - 2048 * u)))

/-- The reduced gradient of element `i` times GRAD_SCALE (R218). -/
def upG (s : State) (c : Cmd) (r : Shard) (rows : List Nat) (i : Nat) : Except Status Num :=
  let i1 := if upRows c then (rows.findIdx? (· == i / r.s0)).getD 0 else i / r.s0
  let t := upGrad c
  (s.elem t (t.logical [i % r.s0, i1, 0, 0, 0, 0])).map (fun g => mul32 (roundTo .fp32 g) (rb c 8))

/-- A slot value; +0 where the rule has no such slot. -/
def slotAt (s : State) (q : Nat) (r : Shard) (k i : Nat) : Except Status Num :=
  if r.slotCount k = 0 then .ok nZero
  else (s.dynRead q (r.slotAddr k + (r.slotFmt k).bytes * i) (r.slotFmt k).bytes).map (fun b => decFloat (r.slotFmt k) (leNat b))

/-- What ADAFACTOR's sweep 1 forms (R219): R′, C′ and iT. -/
structure Factors where
  R  : List Num := []
  C  : List Num := []
  iT : Num := nZero
deriving DecidableEq, Repr

/-- q of an element. -/
def facQ (c : Cmd) (g : Num) : Num := add32 (mul32 g g) (rb c 40)

/-- Where sweep 1 leaves R′ and C′: after the sixteen shadows, R′ first. (DEDUCED, log entry 68). -/
def Shard.rowSums (r : Shard) : Nat × Nat := (r.commitAddr + 0x80000, 4 * r.s1)
def Shard.colSums (r : Shard) : Nat × Nat := (r.commitAddr + 0x80000 + 4 * r.s1, 4 * r.s0)

/-- FP32 values as they stand in memory, and back. -/
def floatBytes (xs : List Num) : Bytes := xs.flatMap (fun x => natBytes 4 (encFloat .fp32 .rne x).code)
def bytesFloats (bs : Bytes) : List Num := (pieces 4 bs).map (fun b => decFloat .fp32 (leNat b))

/-- R′ and C′ as sweep 1 left them, with iT, which R′ determines; nothing where the rule has no such sweep. -/
def factors (s : State) (c : Cmd) (r : Shard) : Except Status Factors :=
  if !r.factored then .ok {} else do
  let R ← (s.dynRead c.q r.rowSums.1 r.rowSums.2).map bytesFloats
  let C ← (s.dynRead c.q r.colSums.1 r.colSums.2).map bytesFloats
  .ok ⟨R, C, rcpAt (sumTree .fp32 R)⟩

/-- ADAFACTOR's sweep 1 with rank 2 (R219). -/
def formFactors (s : State) (c : Cmd) (r : Shard) : Except Status (List Num × List Num) := do
  let k0 := mul32 (rb c 28) (rcpAt (roundTo .fp32 (nNat r.s0)))
  let k1 := mul32 (rb c 28) (rcpAt (roundTo .fp32 (nNat r.s1)))
  let qs ← (List.range r.s1).mapM (fun i1 => (List.range r.s0).mapM (fun i0 => (upG s c r [] (i0 + r.s0 * i1)).map (facQ c)))
  let R ← qs.zipIdx.mapM (fun x => (slotAt s c.q r 0 x.2).map (fun o => fma32 o (rb c 24) (mul32 (sumTree .fp32 x.1) k0)))
  let C ← (List.range r.s0).mapM (fun i0 => (slotAt s c.q r 1 i0).map (fun o =>
    fma32 o (rb c 24) (mul32 (sumTree .fp32 (qs.map (fun row => nth nZero row i0))) k1)))
  .ok (R, C)

/-- ADAFACTOR's u of an element, with its new v for rank 1. -/
def facU (s : State) (c : Cmd) (r : Shard) (f : Factors) (i : Nat) : Except Status (Num × Num) := do
  let g ← upG s c r [] i
  if r.rank2 then
    .ok (mul32 g (rsqrtAt (mul32 (mul32 (nth nZero f.R (i / r.s0)) (nth nZero f.C (i % r.s0))) f.iT)), nZero)
  else do
    let v ← slotAt s c.q r 0 i
    let v' := fma32 v (rb c 24) (mul32 (facQ c g) (rb c 28))
    .ok (mul32 g (rsqrtAt v'), v')

/-- The NORMS that the sweep before the last leaves (R218, R219). -/
def norms (s : State) (c : Cmd) (r : Shard) : Except Status (List Num) :=
  let all := List.range r.count
  if r.rule = 5 then do
    let ws ← all.mapM (masterAt s c.q r 0 [])
    let ss ← all.mapM (fun i => do
      let w ← masterAt s c.q r 0 [] i
      let m ← slotAt s c.q r 0 i
      let v ← slotAt s c.q r 1 i
      let g ← upG s c r [] i
      .ok (direction c 5 w m v g).1)
    let P := sumTree .fp32 (ws.map (fun w => mul32 w w))
    let Q := sumTree .fp32 (ss.map (fun x => mul32 x x))
    let rho := if P.isZero || Q.isZero then nOne else mul32 (sqrt32 P) (rsqrtAt Q)
    .ok [P, Q, rho]
  else do
    let f ← factors s c r
    let us ← all.mapM (fun i => (facU s c r f i).map (·.1))
    let ws ← all.mapM (masterAt s c.q r 0 [])
    let U := sumTree .fp32 (us.map (fun x => mul32 x x))
    let W := sumTree .fp32 (ws.map (fun x => mul32 x x))
    let n := rcpAt (roundTo .fp32 (nNat r.count))
    let cc := fMax nOne (mul32 (sqrt32 (mul32 U n)) (rcpAt (rb c 48)))
    let sg := mul32 (rbLR c) (fMax (rb c 44) (sqrt32 (mul32 W n)))
    .ok [U, W, cc, sg]

/-- New master and slots of one element in the last sweep: w, m, v. -/
def newElem (s : State) (c : Cmd) (r : Shard) (rows : List Nat) (f : Factors) (i : Nat) : Except Status (Num × Num × Num) := do
  let w ← masterAt s c.q r 0 [] i
  if r.rule = 6 then
    let u ← facU s c r f i
    let d := fma32 (rbWD c) w (mul32 u.1 (rcpAt (r.norm 2)))
    .ok (sub32 w (mul32 (r.norm 3) d), u.2, nZero)
  else
    let m ← slotAt s c.q r 0 i
    let v ← slotAt s c.q r 1 i
    let g ← upG s c r rows i
    let d := direction c r.rule w m v g
    let t := if r.rule = 5 then mul32 (mul32 (rbLR c) (r.norm 2)) d.1 else mul32 (rbLR c) d.1
    .ok (sub32 w t, d.2)

/-- Slot values written from element `lo` on (R220). -/
def packSlot (s : State) (c : Cmd) (r : Shard) (k lo : Nat) (vs : List Num) : Packed :=
  if r.slotCount k = 0 then {} else
  let F := r.slotFmt k
  let d := s.draw c (bitAt (upFlags c) 1) (c.fld 156 4) (c.fld 160 4) (0x700 + k)
  let es := vs.zipIdx.map (fun x => encFloat F (if F = .bf16 then d.mode (lo + x.2) else .rne) x.1)
  ⟨[(r.slotAddr k + F.bytes * lo, es.flatMap (fun e => natBytes F.bytes e.code))], (es.map (·.sat)).sum⟩

/-! ### Taking the shard (R222) -/

/-- What an OPT_UPDATE finds. -/
inductive Finding where
  | broken | mine | apply | done | mismatch
deriving DecidableEq, Repr

/-- The table of R222. -/
def finding (c : Cmd) (r : Shard) : Finding :=
  if r.phase = 0xFF then .broken
  else if r.busySeq = c.n ∧ r.busyQ = c.q then .mine
  else if r.version = upExpect c then .apply
  else if r.version = (upExpect c + 1) % 2 ^ 64 ∧ r.lastSeq = c.n ∧ r.lastQ = c.q then .done
  else .mismatch

/-- The shard a started command waits for, by R222. -/
def waitsFor (c : Cmd) : Option Nat :=
  if c.opcode = 0x506 then some (upShard c)
  else if c.opcode = 0x507 ∧ (c.fld 0 1 = 2 ∨ c.fld 0 1 = 3 ∨ c.fld 0 1 = 4) then some (c.fld 8 8)
  else none

/-- No command that started earlier still waits for the shard: started commands stand in the order of their starts. -/
def shardTurn (s : State) (c : Cmd) (a : Nat) : Bool :=
  !((s.cmds.takeWhile (fun d => !(d.q == c.q && d.n == c.n))).any (fun d => decide (d.phase = .started) && waitsFor d == some a))

/-- The shard is idle or this command's, and it is this command's turn. -/
def shardReady (s : State) (c : Cmd) (a : Nat) : Bool :=
  match s.shard c.q a with
  | .error _ => true
  | .ok r => (r.busySeq == 0 || (r.busySeq == c.n && r.busyQ == c.q)) && shardTurn s c a

/-- The tower of a unit: that of its master's first byte; where the master lies elsewhere, towers in turn (R212). -/
def unitTower (s : State) (r : Shard) (u lo : Nat) : Nat :=
  if s.tierOf (r.master + 4 * lo) = some .umber then (s.placeOf (r.master + 4 * lo - umberBase)).1 else u % s.dataTowers

/-- The key under which the record is kept as it was before the update. -/
def oldKey (a : Nat) : Nat := 2 ^ 50 + a

/-- PHASE of the rule's first and last sweep (R217 to R219). -/
def Shard.firstSweep (r : Shard) : Nat := if r.rule = 6 ∧ !r.rank2 then 2 else 1
def Shard.lastSweep (r : Shard) : Nat := if r.rule = 5 then 2 else if r.rule = 6 then 3 else 1
/-- Sweeps before the last. -/
def Shard.sweeps (r : Shard) : Nat := r.lastSweep - r.firstSweep

/-- The shard is taken: BUSY set, counts cleared, PHASE at the first sweep (R222, R223). (DEDUCED, log entry 68). -/
def takeShard (s : State) (c : Cmd) (r : Shard) : Except Status (State × Cmd × Shard) := do
  let rec1 := patch (patch (patch (patch r.raw 24 (natBytes 8 c.n)) 32 (natBytes 4 c.q)) 100 (natBytes 1 r.firstSweep)) 128 (natBytes 64 0)
  let (t, d) ← writeRec s { c with kept := (oldKey r.addr, [leNat r.raw]) :: c.kept } r 0 rec1
  .ok (t, d, { r with raw := rec1 })

/-- Writes at addresses known only now, judged before any of them (R239, R364). -/
def commitDyn (s : State) (c : Cmd) (p : Packed) : Except Status (State × Cmd) :=
  match p.writes.findSome? (fun v => s.dynRefusal c.q v.1 v.2.length) with
  | some st => .error st
  | none => commitWrites s c p

/-- A sweep before the last: its results to NORMS or the commit area, then PHASE (R218, R219, R223). -/
def sweepUnit (s : State) (c : Cmd) (r : Shard) : Except Status (State × Cmd) :=
  if r.rule = 6 ∧ r.phase = 1 then do
    let f ← formFactors s c r
    commitDyn s c ⟨[(r.rowSums.1, floatBytes f.1), (r.colSums.1, floatBytes f.2), (r.addr + 100, natBytes 1 2)], 0⟩
  else do
    let ns ← norms s c r
    commitDyn s c ⟨[(r.addr + 104, floatBytes ns), (r.addr + 100, natBytes 1 (r.phase + 1))], 0⟩

/-- The units of the last sweep that tower `t` holds, ascending (R212, R223). -/
def towerUnits (s : State) (r : Shard) (units : List (Nat × Nat)) (t : Nat) : List Nat :=
  (List.range units.length).filter (fun u => unitTower s r u (nth (0, 0) units u).1 == t)

/-- UNIT_DONE counts unit `u` already: the tower commits its units in ascending order (R223). -/
def unitCommitted (s : State) (r : Shard) (units : List (Nat × Nat)) (u : Nat) : Bool :=
  let t := unitTower s r u (nth (0, 0) units u).1
  ((towerUnits s r units t).take (r.unitDone t)).contains u

/-- The shadow of a tower in the commit area (R223). -/
def Shard.shadow (r : Shard) (t : Nat) : Nat × Nat := (r.commitAddr + t * 0x8000, 0x8000)

/-- The shadow of a tower is written: the spec gives it no layout, so its bytes are open. (DEDUCED, log entry 68). -/
def writeShadow (s : State) (c : Cmd) (a len : Nat) : Except Status State :=
  match s.dynRefusal c.q a len with
  | some st => .error st
  | none => .ok (s.storeOpen a len)

/-- A unit is committed: its shadow, its planes, then UNIT_DONE (R223). Count 0: elements. Count 1: non-finite masters. -/
def commitUpdate (s : State) (c : Cmd) (r : Shard) (rows : List Nat) (u : Nat) (unit : Nat × Nat) : Except Status (State × Cmd) := do
  let f ← factors s c r
  let vs ← (List.range unit.2).mapM (fun j => newElem s c r rows f (unit.1 + j))
  let ws := vs.map (·.1)
  let work ← deriveWork s c.q r unit.1 ws
  let workT ← deriveWorkT s c.q r unit.1 ws
  let slots := if r.factored then ({} : Packed)
    else (packSlot s c r 0 unit.1 (vs.map (·.2.1))).append (packSlot s c r 1 unit.1 (vs.map (·.2.2)))
  let t := unitTower s r u unit.1
  let s ← writeShadow s c (r.shadow t).1 (r.shadow t).2
  commitDyn s ((c.addCnt 0 unit.2).addCnt 1 (ws.filter (fun w => !w.isFin)).length)
    ⟨(r.master + 4 * unit.1, floatBytes ws) :: slots.writes ++ work.writes ++ workT.writes ++
      [(r.addr + 128 + 4 * t, natBytes 4 (r.unitDone t + 1))], slots.sat⟩

/-- A unit that was committed before the command was executed again: counted, not applied (R222, R223). -/
def countUnit (s : State) (c : Cmd) (r : Shard) (unit : Nat × Nat) : Except Status (State × Cmd) := do
  let ws ← (List.range unit.2).mapM (fun j => masterAt s c.q r 0 [] (unit.1 + j))
  .ok (s, (c.addCnt 0 unit.2).addCnt 1 (ws.filter (fun w => !w.isFin)).length)

/-- One step of the command that holds the shard: a sweep before the last unless PHASE is past it, or a unit of the last. -/
def upStep (s : State) (c : Cmd) (r : Shard) (rows : List Nat) (k : Nat) : Except Status (State × Cmd) :=
  if k < r.sweeps then (if r.phase = r.firstSweep + k then sweepUnit s c r else .ok (s, c))
  else
    let units := upUnits r (if upRows c then some rows else none)
    match units[k - r.sweeps]? with
    | none => .error .malformed
    | some unit =>
      if r.phase = 4 || unitCommitted s r units (k - r.sweeps) then countUnit s c r unit
      else commitUpdate s c r rows (k - r.sweeps) unit

/-- One step of an OPT_UPDATE. Count 2: a version mismatch was found. Count 3: the update was found applied. -/
def upUnit (s : State) (c : Cmd) (k : Nat) : Except Status (State × Cmd) := do
  let r ← s.shard c.q (upShard c)
  if 0 < c.cnt 2 ∨ 0 < c.cnt 3 then .ok (s, c) else
  let rows ← s.upRowList c
  match finding c r with
  | .broken => .error .shardBroken
  | .mismatch => .ok (s, c.addCnt 2 1)
  | .done => .ok (s, c.addCnt 3 1)
  | .mine => upStep s c r rows k
  | .apply => do
    let (t, d, r') ← takeShard s c r
    upStep t d r' rows k

/-- How many steps an update has: its sweeps before the last, and its units. -/
def upTotal (s : State) (c : Cmd) : Nat :=
  match s.shard c.q (upShard c) with
  | .error _ => 1
  | .ok r => r.sweeps + (if upRows c then upRowCount c else ceilDiv r.count 2048)

/-- The report (R226). -/
def upReport (c : Cmd) (version applied : Nat) : Bytes :=
  natBytes 8 (c.cnt 0) ++ natBytes 8 version ++ natBytes 4 (c.cnt 1) ++ natBytes 1 applied ++ natBytes 11 0

/-- The counted saturations of the working copies that stand when the update ends: each block once (R43, R45). (DEDUCED, log entry 68). -/
def workSat (s : State) (c : Cmd) (r : Shard) (rows : List Nat) : Except Status Nat := do
  let ranges := if upRows c then upUnits r (some rows) else [(0, r.count)]
  let ps ← ranges.mapM (fun e => do
    let ws ← (List.range e.2).mapM (fun j => masterAt s c.q r 0 [] (e.1 + j))
    let work ← deriveWork s c.q r e.1 ws
    let workT ← deriveWorkT s c.q r e.1 ws
    .ok (work.sat + workT.sat))
  .ok ps.sum

/-! ### Fetches from other modules (R228) -/

/-- A fetch from another module: while the shard is BUSY it waits; else the planes of version WANT go back, or the owner's
VERSION. -/
def shardFetchServe (source a want : Nat) (s : State) : State :=
  if !s.alive then s else
  match s.readBytes a 256 with
  | .error _ => s.sendPeer source "SHARD_REFUSED" [a] []
  | .ok b =>
    let r : Shard := ⟨a, b⟩
    if r.busySeq ≠ 0 then { s with shardWaits := s.shardWaits ++ [⟨source, a, want⟩] }
    else if r.phase = 0xFF then s.sendPeer source "SHARD_BROKEN" [a] []
    else if r.version ≠ want then s.sendPeer source "SHARD_VERSION" [a, r.version] []
    else match s.readBytes r.work.range.1 r.work.range.2,
               (if r.hasT then s.readBytes r.workT.range.1 r.workT.range.2 else .ok []) with
      | .ok w, .ok wt => s.sendPeer source "SHARD_PLANES" [a, r.version, w.length] (w ++ wt)
      | _, _ => s.sendPeer source "SHARD_REFUSED" [a] []

/-- The fetches that waited for shards to be idle, oldest first; those whose shard is still BUSY wait on. -/
def State.serveFetches (s : State) : State :=
  s.shardWaits.foldl (fun t w => shardFetchServe w.source w.addr w.want t) { s with shardWaits := [] }

/-- SHARD_FETCH_SERVE. -/
def execShardFetchServe (source shardAddr want : Nat) (s : State) : Host.Outcome State Fault Refusal :=
  .next (shardFetchServe source shardAddr want s)

/-! ### The end of an update (R222 to R224, R226) -/

/-- The page of the tower of a shard's first unit. -/
def shardPage (s : State) (r : Shard) : Nat := pgTower (unitTower s r 0 0)

/-- The end of an update (R222, R223, R226): FINAL, ADAFACTOR's slots, and the version last. -/
def upFinish (s : State) (c : Cmd) : Except Status (State × Cmd) := do
  let r ← s.shard c.q (upShard c)
  if 0 < c.cnt 2 then
    let (t, d) ← writeReport s c (upReports c) (c.fld 168 8) (upReport c r.version 0)
    .ok (endWith (t.noteStop (shardPage t r) .versionMismatch) d .versionMismatch [])
  else if 0 < c.cnt 3 then
    let (t, d) ← writeReport s c (upReports c) (c.fld 168 8) (upReport c r.version 2)
    .ok (t, { d with status := .ok })
  else
    let f ← factors s c r
    let rows ← s.upRowList c
    let sat ← workSat s c r rows
    let (t, d) ← writeRec s c r 100 [4]
    let slots := if r.factored then (packSlot t d r 0 0 f.R).append (packSlot t d r 1 0 f.C) else ({} : Packed)
    let v := natBytes 8 (upExpect c + 1)
    let rec' := patch (patch (patch (patch (patch r.raw 0 v) 8 (natBytes 8 c.n)) 16 (natBytes 4 c.q)) 24 (natBytes 12 0)) 100 [0]
    let (t, d) ← commitDyn t d (slots.append ⟨[(r.addr, rec')], sat⟩)
    let (t, d) ← writeReport t d (upReports c) (c.fld 168 8) (upReport c (upExpect c + 1) 1)
    .ok (t.serveFetches, { d with status := .ok })

/-- The checks (R222, R225, R226, R53). -/
def upCheck (s : State) (c : Cmd) : Option Status :=
  match c.tens 0, s.shard c.q (upShard c) with
  | none, _ => some .malformed
  | some _, .error st => if upShard c % 64 = 0 then some st else some .malformed
  | some t, .ok r =>
    refuseUnless (decide (t.fmt = .sb8i) && s.tierAgrees t && upShard c % 64 == 0 && c.fld 64 1 == r.rule && c.zero 65 3 && c.zero 116 12 &&
      decide (upFlags c < 8) && c.zero 166 2 && c.zero 176 16 && (!upReports c || c.fld 168 8 % 32 == 0) && decide (r.role ≠ 3) &&
      dimsAre t [r.s0, if upRows c then upRowCount c else r.s1] &&
      (!upRows c || (decide (1 ≤ upRowCount c) && decide (upRowCount c < 2 ^ 31) && decide (r.rule ≤ 4) && !r.hasT))) <|
    match s.upRowInts c with
    | .error st => some st
    | .ok rows =>
      refuseUnless (ascending rows && rows.all (fun x => decide (0 ≤ x) && decide (x < (r.s1 : Int)))) <|
      if bitAt (upFlags c) 1 ∧ 2 ^ 48 ≤ r.count then some .limit else none

/-- The report of an update that ends early. -/
def upEarly : State → Cmd → Status → State × Cmd :=
  leaveReport upReports (fun c => c.fld 168 8) (fun s c => upReport c (match s.shard c.q (upShard c) with | .ok r => r.version | .error _ => 0) 0)

/-- An update that ends early (R224): BROKEN after a committed unit, else the record as it was; waiting fetches are then served. -/
def upLeave (s : State) (c : Cmd) (st : Status) : State × Cmd :=
  match s.shard c.q (upShard c) with
  | .error _ => upEarly s c st
  | .ok r =>
    if !st.ends || finding c r != .mine then upEarly s c st
    else
      let back := match c.kept.find? (fun k => k.1 == oldKey r.addr) with
        | some k => natBytes 256 (k.2.headD 0)
        | none => patch (patch r.raw 24 (natBytes 12 0)) 100 [0]
      ((s.storeBytes r.addr (if (List.range 16).any (fun n => decide (0 < r.unitDone n)) then
          patch (patch r.raw 24 (natBytes 12 0)) 100 [0xFF] else back)).serveFetches |> fun t => upEarly t c st)

/-- OPT_UPDATE. -/
def optUpdateOp : Op :=
  { check := upCheck,
    ranges := fun _ c => [(upGrad c).range, (upShard c, 256)] ++ (if upRows c then [(c.fld 144 8, 4 * upRowCount c)] else []) ++
      (if upReports c then [(c.fld 168 8, 32)] else []),
    total := upTotal, unit := upUnit, finish := upFinish,
    outs := fun _ c => if upReports c then [(c.fld 168 8, 32)] else [],
    pages := fun s _ => (List.range s.dataTowers).map pgTower, leave := upLeave,
    ready := fun s c _ => shardReady s c (upShard c),
    weight := fun s c k => match s.shard c.q (upShard c) with
      | .ok r => if (finding c r = .mine ∨ finding c r = .apply) ∧ c.cnt 2 = 0 ∧ c.cnt 3 = 0 ∧ r.sweeps ≤ k then 1 else 0
      | .error _ => 0 }

/-- OPT_UPDATE (R222). -/
def execOptUpdate (q n : Nat) (s : State) : Host.Outcome State Fault Refusal := .next (runRow optUpdateOp (Cmd.isOp 0x506) q n s)

/-! ### SHARD (R228 to R230) -/

/-- SHARD's fields. -/
def shAddr (c : Cmd) : Nat := c.fld 8 8
def shVersion (c : Cmd) : Nat := c.fld 16 8
def shDst (c : Cmd) : Nat := c.fld 32 8
def shReport (c : Cmd) : Nat := c.fld 40 8

/-- Checks that every SHARD operation has, then those of one (R230). -/
def shCheck (more : State → Cmd → Shard → Option Status) (s : State) (c : Cmd) : Option Status :=
  refuseUnless (decide (1 ≤ c.fld 0 1) && decide (c.fld 0 1 ≤ 5) && c.zero 1 7 && shAddr c % 64 == 0 && shReport c % 32 == 0 && c.zero 48 80) <|
  match s.shard c.q (shAddr c) with
  | .error st => some st
  | .ok r => more s c r

/-- The 32-byte report. -/
def shBytes (handled version diff plane : Nat) : Bytes :=
  natBytes 8 handled ++ natBytes 8 version ++ natBytes 8 diff ++ natBytes 1 plane ++ natBytes 7 0

/-- Ranges of every SHARD operation; STATUS writes 64 bytes. -/
def shRanges (_ : State) (c : Cmd) : List (Nat × Nat) := [(shAddr c, 256), (shReport c, if c.fld 0 1 = 5 then 64 else 32)]

/-- INIT's check: the record and the placement (R210 to R212). -/
def initCheck (s : State) (c : Cmd) (r : Shard) : Option Status :=
  refuseUnless (r.fieldsOk && s.shardApart r && rangesMapped s (r.commitRange :: r.planes)) <|
  if rangesInWindow s c.q (r.commitRange :: r.planes) then none else some .windowFault

/-- INIT (R230): a shard that another INIT has put in its way meanwhile refuses it (R212). -/
def initUnit (s : State) (c : Cmd) (_ : Nat) : Except Status (State × Cmd) := do
  let r ← s.shard c.q (shAddr c)
  if !s.shardApart r then .error .malformed else
  let ws ← (List.range r.count).mapM (masterAt s c.q r 0 [])
  let work ← deriveWork s c.q r 0 ws
  let workT ← deriveWorkT s c.q r 0 ws
  let zero (k : Nat) : Writes := if r.slotCount k = 0 then [] else [(r.slotAddr k, natBytes ((r.slotFmt k).bytes * r.slotCount k) 0)]
  let rec' := natBytes 8 (shVersion c) ++ natBytes 28 0 ++ r.given ++ natBytes 156 0
  let (t, d) ← commitWrites s (c.addCnt 0 r.count)
    ⟨zero 0 ++ zero 1 ++ work.writes ++ workT.writes ++ [(r.addr, rec')], work.sat + workT.sat⟩
  .ok ({ t with shards := t.shards.filter (fun (e : Nat × Bytes) => e.1 != r.addr) ++ [(r.addr, r.given)] }.serveFetches, d)

/-- INIT and EXPORT: the report and the status; SHARD_BROKEN when count 3 says so. -/
def shFinish (s : State) (c : Cmd) : Except Status (State × Cmd) := do
  let r ← s.shard c.q (shAddr c)
  let (t, d) ← writeReport s c true (shReport c) (shBytes (c.cnt 0) r.version 0 0)
  if 0 < c.cnt 3 then .ok (endWith (t.noteStop (shardPage t r) .shardBroken) d .shardBroken [])
  else .ok (t, { d with status := .ok })

/-- The report of a SHARD operation that a status ends before its finish: what it had handled, and VERSION (R230). -/
def shLeave (s : State) (c : Cmd) (st : Status) : State × Cmd :=
  leaveReport (fun _ => true) shReport
    (fun s c => shBytes (c.cnt 0) (match s.shard c.q (shAddr c) with | .ok r => r.version | .error _ => 0) 0 0) s c st

/-- SHARD INIT. -/
def shardInitOp : Op :=
  { check := shCheck initCheck, ranges := shRanges, total := fun _ _ => 1, unit := initUnit, finish := shFinish,
    outs := fun _ c => [(shReport c, 32)], leave := shLeave, pages := fun s _ => (List.range s.dataTowers).map pgTower }

/-- SHARD INIT. -/
def execShardInit (q n : Nat) (s : State) : Host.Outcome State Fault Refusal := .next (runRow shardInitOp (Cmd.isSub 0x507 1) q n s)

/-- The first element of a unit whose stored working copy differs, with its plane (R221). -/
def checkElem (s : State) (q : Nat) (r : Shard) (i : Nat) : Except Status (Option Nat) := do
  let one (t : Tens) (elem : Nat → Nat) (j : Nat) : Except Status Bool :=
    if t.fmt.isBlock then do
      let first := blockStart t j
      let b ← deriveBlock s q r t elem 0 [] first
      let data ← s.dynRead q (t.addrOf (t.indices j)) 1
      let sc ← s.dynRead q (t.scaleAddr (t.indices j)) 1
      .ok (data != (sliceOf ((b.writes.head?.map (·.2)).getD []) (j - first) 1) || sc != ((b.writes.drop 1).head?.map (·.2)).getD [])
    else do
      let w ← masterAt s q r 0 [] (elem j)
      let data ← s.dynRead q (t.addrOf (t.indices j)) 2
      .ok (data != natBytes 2 (encFloat .bf16 .rne w).code)
  if ← one r.work id i then .ok (some 1)
  else if !r.hasT then .ok none
  else if ← one r.workT r.ofT (r.toT i) then .ok (some 2) else .ok none

/-- One unit of CHECK, unless a mismatch is known in an earlier one. Count 0: elements. Count 1: the plane of the first mismatch by element
index. Count 2: its element. -/
def checkUnit (s : State) (c : Cmd) (u : Nat) : Except Status (State × Cmd) := do
  let r ← s.shard c.q (shAddr c)
  if 0 < c.cnt 1 ∧ c.cnt 2 < 2048 * u then .ok (s, c) else
  let n := min 2048 (r.count - 2048 * u)
  let found ← (List.range n).foldlM (fun (acc : Option (Nat × Nat)) j =>
    if acc.isSome then .ok acc else (checkElem s c.q r (2048 * u + j)).map (fun x => x.map (fun p => (p, 2048 * u + j)))) none
  .ok (s, match found with
    | some x => (c.putCnt 1 x.1).putCnt 2 x.2
    | none => c.addCnt 0 n)

/-- CHECK's end: OK, or DIVERGED recorded in the page of the tower that found it (R221). -/
def checkFinish (s : State) (c : Cmd) : Except Status (State × Cmd) := do
  let r ← s.shard c.q (shAddr c)
  let (t, d) ← writeReport s c true (shReport c) (shBytes (if 0 < c.cnt 1 then c.cnt 2 else c.cnt 0) r.version (c.cnt 2) (c.cnt 1))
  if 0 < c.cnt 1 then
    let at' := r.master + 4 * c.cnt 2
    .ok (endWith (t.record (pgTower (unitTower t r (c.cnt 2 / 2048) (c.cnt 2))) .contained at') { d with units := c.cnt 2 / 2048 + 1 } .diverged [])
  else .ok (t, { d with status := .ok })

/-- SHARD CHECK. -/
def shardCheckOp : Op :=
  { check := shCheck (fun _ _ _ => none), ranges := shRanges,
    total := fun s c => match s.shard c.q (shAddr c) with | .ok r => ceilDiv r.count 2048 | .error _ => 1,
    unit := checkUnit, finish := checkFinish, outs := fun _ c => [(shReport c, 32)], leave := shLeave,
    pages := fun s _ => (List.range s.dataTowers).map pgTower, ready := fun s c _ => shardReady s c (shAddr c),
    weight := fun _ c k => if 0 < c.cnt 1 ∧ c.cnt 2 < 2048 * k then 0 else 1 }

/-- SHARD CHECK (R221). -/
def execShardCheck (q n : Nat) (s : State) : Host.Outcome State Fault Refusal := .next (runRow shardCheckOp (Cmd.isSub 0x507 2) q n s)

/-- The version of a follower goes to the partner (R228, R406). -/
def State.mirrorVersion (s : State) (a v : Nat) : State := s.mirror (some (.version a v)) "FOLLOWER_VERSION" [a, v] []

/-- FETCH (R228). Count 1: the owner's VERSION plus 1, when it mismatches. Count 2: the owner stayed silent. Count 3: BROKEN. -/
def fetchUnit (answer : FetchAnswer) (s : State) (c : Cmd) (_ : Nat) : Except Status (State × Cmd) := do
  let r ← s.shard c.q (shAddr c)
  if r.phase = 0xFF then .ok (s, c.addCnt 3 1) else
  if !s.reaches (fieldAt r.raw 96 2) then .ok (s, c.addCnt 2 1) else
  let s := s.sendPeer (fieldAt r.raw 96 2) "SHARD_FETCH" [c.fld 24 8, shVersion c] []
  match answer with
  | .served v w wt =>
    if v ≠ shVersion c then .ok (s, c.addCnt 1 (v + 1)) else
    let plane (rg : Nat × Nat) (bs : Bytes) : Writes := [(rg.1, bs.take rg.2)]
    let ws := plane r.work.range w ++ (if r.hasT then plane r.workT.range wt else []) ++ [(r.addr, natBytes 8 v)]
    match ws.findSome? (fun x => s.dynRefusal c.q x.1 x.2.length) with
    | some st => .error st
    | none => do
      let (t, d) ← commitWrites s (c.addCnt 0 r.count) ⟨ws, 0⟩
      .ok (t.mirrorVersion r.addr v, d)
  | .mismatch v => .ok (s, c.addCnt 1 (v + 1))
  | .broken => .ok (s, c.addCnt 3 1)
  | .silent => .ok (s, c.addCnt 2 1)

/-- FETCH's end. -/
def fetchFinish (s : State) (c : Cmd) : Except Status (State × Cmd) := do
  let r ← s.shard c.q (shAddr c)
  let (t, d) ← writeReport s c true (shReport c) (shBytes (c.cnt 0) (if 0 < c.cnt 1 then c.cnt 1 - 1 else r.version) 0 0)
  if 0 < c.cnt 3 then .ok (endWith (t.noteStop (shardPage t r) .shardBroken) d .shardBroken [])
  else if 0 < c.cnt 1 then .ok (endWith (t.noteStop (shardPage t r) .versionMismatch) d .versionMismatch [])
  else .ok (t, { d with status := if 0 < c.cnt 2 then .limit else .ok })

/-- SHARD FETCH with the owner's answer. -/
def shardFetchOp (answer : FetchAnswer) : Op :=
  { check := shCheck (fun _ _ r => refuseUnless (r.role == 3) none), ranges := shRanges, total := fun _ _ => 1,
    unit := fetchUnit answer, finish := fetchFinish, outs := fun _ c => [(shReport c, 32)], leave := shLeave, pages := fun _ _ => [],
    ready := fun s c _ => shardReady s c (shAddr c) }

/-- SHARD FETCH (R228). -/
def execShardFetch (q n : Nat) (answer : FetchAnswer) (s : State) : Host.Outcome State Fault Refusal :=
  .next (runRow (shardFetchOp answer) (Cmd.isSub 0x507 3) q n s)

/-- The data of an export: each plane with its scales, from a 64-byte boundary (R229). -/
def exportData (s : State) (q : Nat) (r : Shard) : Except Status Bytes := do
  let w ← s.dynRead q r.work.range.1 r.work.range.2
  if !r.hasT then .ok w else
  let wt ← s.dynRead q r.workT.range.1 r.workT.range.2
  .ok (w ++ natBytes (alignUp w.length 64 - w.length) 0 ++ wt)

/-- EXPORT (R229). Count 3: the shard is BROKEN. -/
def exportUnit (s : State) (c : Cmd) (_ : Nat) : Except Status (State × Cmd) := do
  let r ← s.shard c.q (shAddr c)
  if r.phase = 0xFF then .ok (s, c.addCnt 3 1) else
  let data ← exportData s c.q r
  let hdr := natBytes 8 r.version ++ natBytes 4 r.s0 ++ natBytes 4 r.s1 ++ natBytes 1 r.workFmt ++ natBytes 1 (bit r.hasT) ++ natBytes 6 0 ++
    natBytes 8 data.length ++ natBytes 4 (crc32c data) ++ natBytes 28 0
  match s.dynRefusal c.q (shDst c) (64 + data.length) with
  | some st => .error st
  | none => commitWrites s (c.addCnt 0 r.count) ⟨[(shDst c, hdr ++ data)], 0⟩

/-- The range an export writes. -/
def exportRange (s : State) (c : Cmd) : Nat × Nat :=
  match s.shard c.q (shAddr c) with
  | .ok r => (shDst c, 64 + (if r.hasT then alignUp r.work.range.2 64 + r.workT.range.2 else r.work.range.2))
  | .error _ => (shDst c, 64)

/-- SHARD EXPORT. -/
def shardExportOp : Op :=
  { check := shCheck (fun _ c _ => refuseUnless (shDst c % 64 == 0) none), ranges := shRanges, total := fun _ _ => 1,
    unit := exportUnit, finish := shFinish, outs := fun s c => [(shReport c, 32), exportRange s c], leave := shLeave, pages := fun _ _ => [],
    ready := fun s c _ => shardReady s c (shAddr c) }

/-- SHARD EXPORT (R229). -/
def execShardExport (q n : Nat) (s : State) : Host.Outcome State Fault Refusal := .next (runRow shardExportOp (Cmd.isSub 0x507 4) q n s)

/-- STATUS (R230): bytes 0 to 39 and 100 to 119 of the record. -/
def statusUnit (s : State) (c : Cmd) (_ : Nat) : Except Status (State × Cmd) := do
  let r ← s.shard c.q (shAddr c)
  commitWrites s c ⟨[(shReport c, sliceOf r.raw 0 40 ++ sliceOf r.raw 100 20 ++ natBytes 4 0)], 0⟩

/-- SHARD STATUS. -/
def shardStatusOp : Op :=
  { check := shCheck (fun _ _ _ => none), ranges := shRanges, total := fun _ _ => 1, unit := statusUnit, finish := finishOk,
    outs := fun _ c => [(shReport c, 64)], pages := fun _ _ => [] }

/-- SHARD STATUS. -/
def execShardStatus (q n : Nat) (s : State) : Host.Outcome State Fault Refusal := .next (runRow shardStatusOp (Cmd.isSub 0x507 5) q n s)

end Sys2Proof.Machine
end

