-- ==== Sys2Proof/Machine/TowerUnit.lean ====
section
/-! DEFINITION. The boundaries of the tower units and of the vector engines, the overflow flags of THIN_GEMM, what the logic die does of
the tower units' work, and the refresh schedulers (R106, R139, R214, R223, R256, R291 to R311, R435). -/

namespace Sys2Proof.Machine

/-! ### Which unit stands where (R256, R292, R293) -/

/-- The commands whose units the tower units commit one by one (R292). -/
def unitWork (s : State) (c : Cmd) : Bool :=
  c.opcode == 0x506 || (c.opcode == 0x507 && c.fld 0 1 == 2) || (c.opcode == 0x505 && gqOnTowers s c)

/-- The operation of a command that runs unit by unit on tower units or chunk by chunk on vector engines. -/
def chunkOp (c : Cmd) : Op :=
  match c.opcode with
  | 0x503 => stackPushOp
  | 0x505 => gradQuantOp
  | 0x506 => optUpdateOp
  | 0x507 => shardCheckOp
  | _ => vectorOp

/-- Sweeps of an update before the last, which come before every unit (R223). -/
def sweepsOf (s : State) (c : Cmd) : Nat :=
  if c.opcode = 0x506 then (match s.shard c.q (upShard c) with | .ok r => r.sweeps | .error _ => 0) else 0

/-- The data position of step `k` of a command: that of the first byte of the unit's master, or of a chunk's gradient; a sweep before the
last is ended where the first unit stands (R212, R214). -/
def unitPlace (s : State) (c : Cmd) (k : Nat) : Nat :=
  if c.opcode = 0x505 then (s.placeOf ((gqG c).addrOf ((gqG c).indices (gqCut c k).1) - umberBase)).1
  else
    match s.shard c.q (if c.opcode = 0x506 then upShard c else shAddr c) with
    | .error _ => 0
    | .ok r =>
      let u := k - sweepsOf s c
      if c.opcode = 0x506 ∧ upRows c then
        (match s.upRowList c with | .ok l => unitTower s r u (nth 0 l u * r.s0) | .error _ => 0)
      else unitTower s r u (2048 * u)

/-- The next step of a command at a tower unit, or with `none` on the logic die: an open sweep first, then the units there in ascending
order (R223). -/
def nextShare (s : State) (c : Cmd) (home : Option Nat) : Option Nat :=
  let next := (chunkOp c).nextUnit s c
  if next.any (fun k => decide (k < sweepsOf s c)) then next.filter (fun k => s.unitOf (unitPlace s c k) == home)
  else (List.range ((chunkOp c).total s c)).find? (fun k => !c.done.contains k && s.unitOf (unitPlace s c k) == home)

/-! ### Vector chunks (R106, R139, R214) -/

/-- The commands that run chunk by chunk on the vector engines; of the tower units' commands the share of the units out of service. -/
def onVectors (s : State) (c : Cmd) : Bool := [0x301, 0x302, 0x303, 0x304, 0x305, 0x306, 0x503, 0x505].contains c.opcode || unitWork s c

/-- The next chunk of a command on a vector engine. -/
def nextChunk (s : State) (c : Cmd) : Option Nat := if unitWork s c then nextShare s c none else (chunkOp c).nextUnit s c

/-- A vector engine serves. -/
def vectorServes (g : Region) (v : Nat) : Bool := g.state == .inService && !(tabGet {} g.vectors v).fenced

/-- The window of a vector command in an engine's cache (R106). -/
def Cmd.cacheWindow (c : Cmd) : Option (Nat × Nat) :=
  if [0x301, 0x302, 0x303, 0x304, 0x305, 0x306].contains c.opcode then some (c.fld 48 4, c.fld 52 4) else none

/-- Two commands' windows overlap. -/
def windowsMeet (c d : Cmd) : Bool :=
  match c.cacheWindow, d.cacheWindow with
  | some x, some y => overlaps x.1 x.2 y.1 y.2
  | _, _ => false

/-- Another command that runs on the engine has a window that overlaps this one's: this one runs after it (R106). -/
def VectorUnit.taken (u : VectorUnit) (s : State) (c : Cmd) : Bool :=
  u.users.any (fun x => x != (c.q, c.n) && (s.cmd? x.1 x.2).any (fun d => decide (d.phase = .started) && windowsMeet c d))

/-- The command shares the engine, or does no longer. -/
def VectorUnit.use (u : VectorUnit) (c : Cmd) (on : Bool) : VectorUnit :=
  { u with users := u.users.filter (· != (c.q, c.n)) ++ (if on then [(c.q, c.n)] else []) }

/-- A boundary of the engine is past (R435). -/
def VectorUnit.pass (u : VectorUnit) : VectorUnit := { u with slot := (u.slot + 1) % 16 }

/-- A command leaves an engine at a stop. -/
def vectorStop (s : State) (region engine : Nat) (c : Cmd) : State :=
  (s.putRegion region ((s.region region).putVector engine (((s.region region).vector engine).use c false))).quits c region

/-- The events of a committed chunk (R493): the chunk, groups of 256 elements that the engine processed, the cycles bound by its loader,
and groups of 512 values that the reduction unit combined. -/
def State.countChunk (s : State) (region engine : Nat) (c : Cmd) (elems : Nat) : State :=
  (((s.count (pgVector region engine) 0x303 1).count (pgVector region engine) 0x301 (ceilDiv elems 256)).count (pgVector region engine) 0x302
    (vLoaderBound c (8 - ((s.region region).vector engine).groupFenced.length) (ceilDiv elems 256))).count (pgReduction region) 0x401
    (if c.opcode = 0x302 then ceilDiv elems 512 else 0)

/-- Elements of a vector command that are processed (R137). -/
def Cmd.elemsDone (c : Cmd) : Nat := if c.cacheWindow.isSome then c.cnt 0 else 0

/-- A chunk of a command on an engine. -/
def vectorChunk (s : State) (region engine : Nat) (c : Cmd) (k : Nat) (b : Boundary) : State :=
  let r := (chunkOp c).runSome [k] s c
  let t := if r.2.done ≠ c.done then r.1.countChunk region engine c (r.2.elemsDone - c.elemsDone) else r.1
  let g := t.region region
  let t := t.putRegion region (g.putVector engine ((g.vector engine).use c (decide (r.2.phase = .started))))
  if r.2.phase = .started ∧ b.stops = true then vectorStop t region engine r.2 else t.putCmd r.2

/-- VECTOR_CHUNK_END (R139): the engine's chunk is committed; the boundary then stops the command or lets it go on. A boundary that the
throttle level pauses only passes (R435). -/
def vectorChunkEnd (region engine q n : Nat) (b : Boundary) (s : State) : State :=
  match s.runnable q n (onVectors s) with
  | none => s
  | some c =>
    let g := s.region region
    let u := g.vector engine
    if !vectorServes g engine || u.taken s c then s else
    let t := s.putRegion region (g.putVector engine u.pass)
    if unitPaused s.gov.throttle u.slot then (if b.stops then vectorStop t region engine c else t)
    else match nextChunk t c, t.joinRegion c region with
      | some k, some (t, c) => vectorChunk t region engine c k b
      | _, _ => s

/-- VECTOR_CHUNK_END. -/
def execVectorChunkEnd (region : Fin 8) (engine : Fin 2) (q n : Nat) (boundary : Boundary) (s : State) :
    Host.Outcome State Fault Refusal := .next (vectorChunkEnd region engine q n boundary s)

/-! ### The columns of a THIN_GEMM (R298 to R300, R308) -/

/-- The tower unit of output column `n` of a tile: that of the column's first byte in B; `none`: an array computes it (R293, R298). -/
def thinHome (s : State) (g : Mat) (tile n : Nat) : Option Nat :=
  let bi := g.batchIx tile
  s.unitAt (g.b.addrOf (if g.transB then Mat.ix g.b 0 n bi else Mat.ix g.b n 0 bi))

/-- The columns of a tile at a tower unit, or with `none` on the arrays. -/
def thinCols (s : State) (g : Mat) (tile : Nat) (home : Option Nat) : List Nat := (g.tileCols tile).filter (fun n => thinHome s g tile n == home)

/-- The tower units that compute columns of a tile. -/
def thinTowers (s : State) (g : Mat) (tile : Nat) : List Nat := s.towerUnitsIn.filter (fun t => !(thinCols s g tile (some t)).isEmpty)

/-- A number kept with the command. -/
def Cmd.keptNat (c : Cmd) (k : Nat) : Nat := ((c.kept.find? (fun e => e.1 == k)).map (fun e => e.2.headD 0)).getD 0
def Cmd.putKept (c : Cmd) (k v : Nat) : Cmd := { c with kept := (k, [v]) :: c.kept.filter (fun e => e.1 != k) }

/-- The number of a share of a tile: the tower, or 31 for the arrays. -/
def shareNo (home : Option Nat) : Nat := home.getD 31
/-- Where the attempts at a tile, a share's finished column groups of it, and the passes of the group in progress are kept. -/
def attemptKey (tile : Nat) : Nat := 2 ^ 60 + tile
def groupKey (tile : Nat) (home : Option Nat) : Nat := 2 ^ 61 + tile * 32 + shareNo home
def passKey (tile : Nat) (home : Option Nat) : Nat := 2 ^ 62 + tile * 32 + shareNo home

/-- Column groups of 16 in a share (R308). -/
def thinGroups (s : State) (g : Mat) (tile : Nat) (home : Option Nat) : Nat := ceilDiv (thinCols s g tile home).length 16

/-- Every group of the share is done. -/
def shareDone (s : State) (c : Cmd) (g : Mat) (tile : Nat) (home : Option Nat) : Bool :=
  decide (thinGroups s g tile home ≤ c.keptNat (groupKey tile home))

/-- The share's sums are discarded: it begins again (R93). -/
def dropShare (c : Cmd) (tile : Nat) (home : Option Nat) : Cmd :=
  { (c.putKept (groupKey tile home) 0).putKept (passKey tile home) 0 with flags := c.flags.filter (fun f => some f.1 != home) }

/-- Tower cycles that POSTPONE_MAX intervals allow a step: 3.90625 µs at 781.25 MHz each, half that above 85 °C (R308). -/
def Tower.allowance (w : Tower) : Nat := w.postponeMax * 390625 / (if w.hot then 256 else 128)

/-- Passes of a column group that one piece of a step runs: the longest run that fits; a pass takes M × 128 × 16 ÷ 256 cycles (R308). -/
def Tower.passesPerPiece (w : Tower) (g : Mat) : Nat := max 1 (w.allowance / (8 * g.c.size 1))

/-- A piece of the column group in progress ends at a tower: the whole group where it fits, else the step is split at a pass (R308). -/
def thinPiece (s : State) (c : Cmd) (g : Mat) (tile tower : Nat) : State × Cmd :=
  let home := some tower
  if shareDone s c g tile home then (s, c) else
  let p := c.keptNat (passKey tile home) + (s.tower tower).passesPerPiece g
  if p < g.passes (c.cnt 3) then (s.count (pgTower tower) 0x2102 1, c.putKept (passKey tile home) p)
  else (s, (c.putKept (passKey tile home) 0).putKept (groupKey tile home) (c.keptNat (groupKey tile home) + 1))

/-- A column group of the arrays' share ends. -/
def thinGroup (s : State) (c : Cmd) (g : Mat) (tile : Nat) : Cmd :=
  if shareDone s c g tile none then c else c.putKept (groupKey tile none) (c.keptNat (groupKey tile none) + 1)

/-- Every tower has sent its flag for its columns of the tile, and the arrays' columns are done (R299). -/
def tileReady (s : State) (c : Cmd) (g : Mat) (tile : Nat) : Bool :=
  (thinTowers s g tile).all (fun t => c.flags.any (fun f => f.1 == t)) && shareDone s c g tile none

/-- A tile's attempt is judged when all of its columns are there (R76, R299). -/
def thinJudge (s : State) (c : Cmd) (g : Mat) (tile : Nat) (es : List TileElem) : State :=
  let k := c.keptNat (attemptKey tile)
  let c := { c with flags := [], kept := c.kept.filter (fun e => decide (e.1 < 2 ^ 61)) }
  match judge g tile (g.outScale - 2 * k) k es with
  | .again => s.putCmd (c.putKept (attemptKey tile) (k + 1))
  | .commit t =>
    match commitTiles s c g [t] with
    | .error st => matrixOp.stopIn s c st
    | .ok (u, d) =>
      let d := { d with done := insertNat tile d.done, units := d.units + 1 }
      let u := (thinTowers u g tile).foldl (fun u t => u.count (pgTower t) 0x2104 1) u
      if (matrixOp.nextUnit u d).isNone then (matrixOp.close u d).1.putCmd (matrixOp.close u d).2 else u.putCmd d

/-- The attempt in progress, every element of it. -/
def thinAttempt (s : State) (c : Cmd) (g : Mat) (tile : Nat) : Except Status (List TileElem) :=
  attemptTile s c g (c.cnt 3) tile (g.outScale - 2 * (c.keptNat (attemptKey tile)))

/-- The tile is judged if it is ready, else the command waits for the rest of it. -/
def thinSettle (s : State) (c : Cmd) (g : Mat) (tile : Nat) : State :=
  if !tileReady s c g tile then s.putCmd c else
  match thinAttempt s c g tile with
  | .error st => matrixOp.stopIn s c st
  | .ok es => thinJudge s c g tile es

/-- OVERFLOW_FLAG_RECEIVE (R299): the flag is that of the tower's columns in the attempt in progress; any other flag does not
arise. -/
def overflowFlag (tower q n tile : Nat) (flag : Bool) (s : State) : State :=
  match s.runnable q n (Cmd.isOp 0x203) with
  | none => s
  | some c =>
    match c.mat with
    | none => s
    | some g =>
      if g.limit || matrixOp.nextUnit s c != some tile || (thinCols s g tile (some tower)).isEmpty || c.flags.any (fun f => f.1 == tower) ||
         !shareDone s c g tile (some tower) then s else
      match thinAttempt s c g tile with
      | .error st => matrixOp.stopIn s c st
      | .ok es =>
        let isOver := g.repeats && ((g.tilePos tile).zip es).any (fun x => thinHome s g tile x.1.2 == some tower && x.2.isOver)
        if isOver ≠ flag then s else thinSettle s { c with flags := c.flags ++ [(tower, flag)] } g tile

/-- OVERFLOW_FLAG_RECEIVE. -/
def execOverflowFlagReceive (tower : Fin 18) (q n tile : Nat) (flag : Bool) (s : State) : Host.Outcome State Fault Refusal :=
  .next (overflowFlag tower q n tile flag s)

/-! ### ARRAY_PASS_END, with the arrays' share of a THIN_GEMM (R93, R293) -/

/-- A column group of a THIN_GEMM's tile ends on an array that stands in for a tower unit. -/
def thinArray (s : State) (c : Cmd) (g : Mat) (r x tile : Nat) (b : Boundary) : State :=
  let u := (s.region r).array x
  let v := { u with slot := (u.slot + 1) % 16 }
  let still := s.putRun r x { v with active := false, ramping := u.active }
  match b with
  | .residue col =>
    let t := (s.putCmd (dropShare c tile none)).count (pgArray r x) 0x204 1
    if u.suspect = some col then (t.putRun r x v).fenceColumn r x col
    else (t.putRun r x { v with suspect := some col }).record (pgArray r x) .corrected 0
  | .preempt | .drain => still.quits (dropShare c tile none) r
  | .goOn | .throttle =>
    if arrayPaused s.gov.throttle u.slot then still
    else if s.gov.holding && !u.active then s
    else thinSettle (s.putRun r x { v with active := true, ramping := !u.active, suspect := none }) (thinGroup s c g tile) g tile

/-- ARRAY_PASS_END of a THIN_GEMM. -/
def thinPass (r x q n : Nat) (b : Boundary) (s : State) : State :=
  match s.runnable q n (Cmd.isOp 0x203) with
  | none => s
  | some c =>
    match c.mat, matrixOp.nextUnit s c with
    | some g, some tile =>
      if g.limit || !arrayServes (s.region r) x || ((s.region r).array x).run.isSome || (thinCols s g tile none).isEmpty ||
         shareDone s c g tile none then s
      else if (s.page (pgArray r x)).injectNext then
        matStop (s.modPage (pgArray r x) (fun h => { h with injectNext := false })) c r x .checkFail
      else
        match s.joinRegion c r with
        | none => s
        | some (t, c) => thinArray (t.putCmd c) c g r x tile b
    | _, _ => s

/-- ARRAY_PASS_END (R93). -/
def execArrayPassEnd (region : Fin 8) (array : Fin 4) (q n : Nat) (boundary : Boundary) (s : State) : Host.Outcome State Fault Refusal :=
  .next (if (s.cmd? q n).any (Cmd.isOp 0x203) then thinPass region array q n boundary s else arrayPass region array q n boundary s)

/-! ### Tower-unit steps (R294, R308, R435) -/

/-- The commands that tower units run (R292). -/
def towerWork (s : State) (c : Cmd) : Bool := c.opcode == 0x203 || unitWork s c || onTowers s c

/-- A started command has a step for tower unit `t` now. -/
def hasStep (s : State) (c : Cmd) (t : Nat) : Bool :=
  if c.opcode = 0x203 then
    (match c.mat, matrixOp.nextUnit s c with
     | some g, some tile => !g.limit && !(thinCols s g tile (some t)).isEmpty && !shareDone s c g tile (some t)
     | _, _ => false)
  else if c.opcode = 0x401 then
    (match c.att with | some a => blockHome s (walkRegion s c) c a == some t | none => false)
  else (nextShare s c (some t)).any (fun k => (chunkOp c).ready s c k)

/-- TU_STS.BUSY (R311): a tower-unit step holds the banks: a command in one of the unit's places has a step there, and the throttle level
does not pause it. -/
def State.unitBusy (s : State) (t : Nat) : Bool :=
  s.unitServes t && !unitPaused s.gov.throttle (s.tower t).slot &&
  s.cmds.any (fun c => decide (c.phase = .started) && c.towers.contains t && hasStep s c t)

/-- A boundary of a tower unit is past: every owed refresh is issued before the next step starts (R308); `wait`: the tower cycles for
which higher priorities held the step (R295, R311). -/
def State.passStep (s : State) (t wait : Nat) : State :=
  (s.putTower t { s.tower t with owed := 0, slot := ((s.tower t).slot + 1) % 16 }).count (pgTower t) 0x2103 wait

/-- A stop of a command at tower unit `t` (R93, R223, R304): in a THIN_GEMM it discards the running sums there. -/
def towerStop (s : State) (c : Cmd) (t : Nat) : State :=
  match c.mat, matrixOp.nextUnit s c with
  | some _, some tile => s.quitTower (if c.opcode = 0x203 then dropShare c tile (some t) else c) t
  | _, _ => s.quitTower c t

/-- A step of a command at tower unit `t`. -/
def towerStep (s : State) (c : Cmd) (t : Nat) : State :=
  if c.opcode = 0x203 then
    (match c.mat, matrixOp.nextUnit s c with
     | some g, some tile => (thinPiece s c g tile t).1.putCmd (thinPiece s c g tile t).2
     | _, _ => s)
  else if c.opcode = 0x401 then
    (match c.att with | some a => walkStep s (walkRegion s c) 0x503 c a .goOn | none => s)
  else
    match nextShare s c (some t) with
    | none => s
    | some k =>
      let r := (chunkOp c).runSome [k] s c
      (if r.2.done ≠ c.done then r.1.count (pgTower t) 0x2104 1 else r.1).putCmd r.2

/-- An error injected in the tower's page ends the command that it serves next (R481). -/
def towerInjected (s : State) (c : Cmd) (t : Nat) : State :=
  let op := if c.opcode = 0x203 then matrixOp else if c.opcode = 0x401 then attnOp [] else chunkOp c
  let u := s.modPage (pgTower t) (fun h => { h with injectNext := false })
  (op.quit u c .checkFail).1.putCmd (op.quit u c .checkFail).2

/-- A boundary of tower unit `t` for a command that has a step there: the step ends, the owed refreshes are paid, and a stop is obeyed
(R223, R304, R308). A boundary that the throttle level pauses ends no step (R435). -/
def towerBoundary (s : State) (c : Cmd) (t wait : Nat) (b : Boundary) : State :=
  if !s.unitServes t || !hasStep s c t then s
  else if (s.page (pgTower t)).injectNext then towerInjected s c t
  else
    match s.joinTower c t with
    | none => s
    | some (u, c) =>
      let u := (u.putCmd c).passStep t wait
      let v := if unitPaused s.gov.throttle (s.tower t).slot then u else towerStep u c t
      match v.cmd? c.q c.n with
      | some d => if b.stops && decide (d.phase = .started) then towerStop v d t else v
      | none => v

/-- TOWER_UNIT_END (R223, R308): a step of an update, a check, a quantisation or a thin product ends at a tower. -/
def towerUnitEnd (tower q n : Nat) (b : Boundary) (wait : Nat) (s : State) : State :=
  match s.runnable q n (fun c => c.opcode == 0x203 || unitWork s c) with
  | none => s
  | some c => towerBoundary s c tower wait b

/-- TOWER_UNIT_END. -/
def execTowerUnitEnd (tower : Fin 18) (q n : Nat) (turn : TowerTurn) (s : State) : Host.Outcome State Fault Refusal :=
  .next (towerUnitEnd tower q n turn.boundary turn.wait s)

/-- A stop at a block boundary discards the partials of the unit in progress (R304). -/
def dropPartials (s : State) (q n : Nat) (b : Boundary) : State :=
  match s.cmd? q n with
  | some c => if b.stops then s.putWalk (walkRegion s c) ((s.region (walkRegion s c)).walk.filter (fun w => !(w.q == q && w.n == n))) else s
  | none => s

/-- TOWER_ATTN_BLOCK_END (R302, R304): the home tower's partial of the next key block reaches the walker, which folds it. A partial of
another tower's block does not arise. -/
def towerAttnBlockEnd (tower q n : Nat) (b : Boundary) (wait : Nat) (s : State) : State :=
  match s.runnable q n (onTowers s) with
  | none => s
  | some c => if walkerServes s (walkRegion s c) then dropPartials (towerBoundary s c tower wait b) q n b else s

/-- TOWER_ATTN_BLOCK_END. -/
def execTowerAttnBlockEnd (tower : Fin 18) (command : CmdName) (turn : TowerTurn) (s : State) : Host.Outcome State Fault Refusal :=
  .next (towerAttnBlockEnd tower command.q command.n turn.boundary turn.wait s)

/-! ### Refresh (R308, R309, R429) -/

/-- REFRESH_DUE (R308): issued at once, or postponed while a step holds the banks. A step that higher priorities hold beyond its
allowance is split, and every owed refresh is paid (R295, R309). -/
def refreshDue (tower : Nat) (s : State) : State :=
  let w := s.tower tower
  if decide (s.power ≠ .on) || s.deviceStop || !s.towerFitted tower || w.failed || w.selfRefresh then s
  else if !s.unitBusy tower then s
  else if w.owed < w.postponeMax then (s.putTower tower { w with owed := w.owed + 1 }).count (pgTower tower) 0x2101 1
  else (s.putTower tower { w with owed := 0 }).count (pgTower tower) 0x2102 1

/-- REFRESH_DUE. -/
def execRefreshDue (tower : Fin 18) (s : State) : Host.Outcome State Fault Refusal := .next (refreshDue tower s)

/-- TOWER_SELF_REFRESH_ENTRY (R429): ten microseconds without a request; a busy tower has had one. -/
def execTowerSelfRefreshEntry (tower : Fin 18) (s : State) : Host.Outcome State Fault Refusal :=
  .next (let w := s.tower tower
         if s.alive && s.towerFitted tower && !w.failed && !s.unitBusy tower then s.putTower tower { w with selfRefresh := true } else s)

end Sys2Proof.Machine
end

