-- ==== Sys2Proof/Machine/Registry.lean ====
section
/-! DEFINITION. The opcodes of the families that compute and move: body length, what each opcode's Op is, and how it starts
on its stack, its pools and its group (R97, R103, R134, R140, R203, R209, R284, R312). -/

namespace Sys2Proof.Machine

/-- What the dispatcher knows of an opcode. -/
structure Reg where
  op    : Op
  /-- bytes of its body; `none`: the header tells, as in a vector command (R134) -/
  len   : Option Nat
  start : State → Cmd → Start := fun s c => .go s c

/-- Movement (R312). -/
def moveReg (code : Nat) (c : Cmd) : Option Reg :=
  if code = 0x101 ∨ code = 0x103 ∨ code = 0x104 then some { op := moveOp, len := some 256 }
  else if code = 0x102 then some { op := copyInlineOp, len := some 0 }
  else if code = 0x110 then some { op := if trkOp c = 2 then writebackOp else trackOp, len := some 64 }
  else none

/-- Matrix (R97, R103, R297). -/
def matrixReg (code : Nat) : Option Reg :=
  if code = 0x201 ∨ code = 0x203 then some { op := matrixOp, len := some 320, start := matStart }
  else if code = 0x202 then some { op := matrixOp, len := some 256, start := matStart }
  else none

/-- Vector (R134). -/
def vectorReg (code : Nat) : Option Reg :=
  if 0x301 ≤ code ∧ code ≤ 0x306 then some { op := vectorOp, len := none } else none

/-- Attention (R140). -/
def attentionReg (ring : List (List Bytes)) (code : Nat) : Option Reg :=
  match code with
  | 0x401 => some { op := attnOp ring, len := some 320, start := attStart }
  | 0x402 => some { op := attnOp ring, len := some 512, start := attStart }
  | 0x403 => some { op := kvAppendOp, len := some 128 }
  | 0x404 => some { op := bucketSortOp, len := some 64, start := latchStart }
  | 0x405 => some { op := kvTruncateOp, len := some 64 }
  | 0x406 => some { op := kvPoolOp, len := some 64 }
  | _ => none

/-- The families that a stream program may run (R326). -/
def runReg (ring : List (List Bytes)) (code : Nat) (c : Cmd) : Option Reg :=
  ((moveReg code c).or (matrixReg code)).or ((vectorReg code).or (attentionReg ring code))

/-- SHARD by its OP (R215 to R230); FETCH's answer comes with its own row. -/
def shardOp (c : Cmd) : Op :=
  match c.fld 0 1 with
  | 1 => shardInitOp | 2 => shardCheckOp | 3 => shardFetchOp .silent | 4 => shardExportOp | _ => shardStatusOp

/-- Training: the stack and the optimiser (R203, R209). -/
def trainReg (code : Nat) (c : Cmd) : Option Reg :=
  match code with
  | 0x501 => some { op := stackMarkOp, len := some 64, start := markStart }
  | 0x502 => some { op := stackOpenOp, len := some 64 }
  | 0x503 => some { op := stackPushOp, len := some 128, start := pushStart }
  | 0x504 => some { op := stackPopOp, len := some 128, start := popStart }
  | 0x505 => some { op := gradQuantOp, len := some 256 }
  | 0x506 => some { op := optUpdateOp, len := some 192 }
  | 0x507 => some { op := shardOp c, len := some 128 }
  | _ => none

/-- Compression (R284). -/
def compressReg (code : Nat) : Option Reg :=
  match code with
  | 0x701 => some { op := buildOp, len := some 192 }
  | 0x702 => some { op := encodeOp, len := some 192 }
  | 0x703 => some { op := encodeOp, len := some 256 }
  | _ => none

/-- The stack a command names in its body (R182). -/
def Cmd.stackOf (c : Cmd) : Option Nat :=
  if c.opcode = 0x501 ∨ c.opcode = 0x502 then some (c.fld 8 8)
  else if c.opcode = 0x503 ∨ c.opcode = 0x504 then some (c.sctl 64).addr
  else if c.opcode = 0x201 ∨ c.opcode = 0x203 then
    (match c.mat with | some g => if g.ctl.sop = 0 then none else some g.ctl.addr | none => none)
  else none

/-- Bytes of a command's body, when its length stands in its header (R134). -/
def bodyLength (s : State) (len : Option Nat) (a : Nat) : Nat :=
  match len with
  | some n => n
  | none => if s.mappedRange a 64 then vBodyLen (s.rawBytes a 64) else 384

end Sys2Proof.Machine
end

