-- ==== Sys2Proof/Machine/Stream.lean ====
section
/-! DEFINITION. Stream programs and handle queues: the program's check, its threads, its sixteen operations, stopping and
resuming, and HQ (R321 to R332). -/

namespace Sys2Proof.Machine

/-! ### The program (R321, R322, R324) -/

/-- One stream instruction. -/
structure Ins where
  op    : Nat
  pa    : Nat
  pb    : Nat
  pc    : Nat
  rsv   : Nat
  sub   : Nat
  imm32 : Nat
  imm64 : Nat
deriving DecidableEq, Repr

/-- An instruction's fields in its 16 bytes (R322). -/
def parseIns (b : Bytes) : Ins :=
  ⟨fieldAt b 15 1, fieldAt b 14 1 / 16, fieldAt b 14 1 % 16, fieldAt b 13 1 / 16, fieldAt b 13 1 % 16, fieldAt b 12 1, fieldAt b 8 4, fieldAt b 0 8⟩

/-- The STREAM body's fields; its program follows the 64 bytes of the body once it has started. -/
def stProg (c : Cmd) : Nat := c.fld 0 8
def stCount (c : Cmd) : Nat := c.fld 8 1
def stRegion (c : Cmd) : Nat := c.fld 9 1
def stInFlight (c : Cmd) : Nat := c.fld 10 1
def stSave (c : Cmd) : Nat := c.fld 16 8
def stReport (c : Cmd) : Nat := c.fld 24 8

/-- Instruction `k` of the program. -/
def stIns (c : Cmd) (k : Nat) : Ins := parseIns (sliceOf c.body (64 + 16 * k) 16)

/-- The instructions. -/
def stInss (c : Cmd) : List Ins := (List.range (stCount c)).map (stIns c)

/-- The fields each operation uses: PA, PB, PC, IMM32, IMM64, and the largest SUB (R323). -/
def insUses (op : Nat) : Bool × Bool × Bool × Bool × Bool × Nat :=
  match op with
  | 0x00 => (false, false, false, false, false, 0)
  | 0x01 => (true, false, false, false, true, 0)
  | 0x02 => (true, false, false, false, true, 0)
  | 0x03 => (false, false, false, true, false, 0)
  | 0x04 => (false, false, false, false, false, 0)
  | 0x05 => (true, true, false, true, false, 3)
  | 0x06 => (true, true, false, true, true, 3)
  | 0x07 => (true, true, true, true, false, 12)
  | 0x08 => (true, true, true, true, false, 12)
  | 0x09 => (true, false, false, true, false, 1)
  | 0x0A => (true, true, false, true, false, 40)
  | 0x0B => (true, true, false, true, false, 40)
  | 0x0C => (false, false, false, false, false, 0)
  | 0x0D => (true, true, true, true, true, 0)
  | 0x0E => (true, true, false, false, true, 5)
  | _ => (false, false, false, true, true, 0)

/-- Formats that CONV accepts (R323). -/
def convFmt (k : Nat) : Bool := match fmtOf k with | none => false | some F => !F.isBlock

/-- The immediates of an instruction lie in their ranges (R324). -/
def immsOk (i : Ins) : Bool :=
  match i.op with
  | 0x05 => decide (1 ≤ i.imm32) && decide (i.imm32 ≤ 2 ^ 31)
  | 0x06 => decide (1 ≤ i.imm32) && decide (i.imm32 ≤ 2 ^ 31) && convFmt (i.imm64 % 256) && convFmt (i.imm64 / 256 % 256)
  | 0x07 => decide (1 ≤ i.imm32) && decide (i.imm32 ≤ 2 ^ 31)
  | 0x08 => decide (1 ≤ i.imm32) && decide (i.imm32 ≤ 2 ^ 31)
  | 0x09 => decide (1 ≤ i.imm32) && decide (i.imm32 ≤ 63)
  | 0x0A => decide (i.imm32 < 1024)
  | 0x0B => decide (i.imm32 < 1024)
  | 0x0D => decide (i.imm32 < 2 ^ 16) && decide (i.imm64 < 2 ^ 16)
  | 0x0F => decide (i.imm64 < 1024)
  | _ => true

/-- One instruction by itself. -/
def insOk (i : Ins) : Bool :=
  let u := insUses i.op
  decide (i.op ≤ 15) && i.rsv == 0 && decide (i.pa ≤ 7) && decide (i.pb ≤ 7) && decide (i.pc ≤ 7) &&
  (u.1 || i.pa == 0) && (u.2.1 || i.pb == 0) && (u.2.2.1 || i.pc == 0) && (u.2.2.2.1 || i.imm32 == 0) &&
  (u.2.2.2.2.1 || i.imm64 == 0) && decide (i.sub ≤ u.2.2.2.2.2) && immsOk i

/-- The change of loop depth an instruction makes. -/
def insDepth (i : Ins) : Int := if i.op = 3 then 1 else if i.op = 4 then -1 else 0

/-- The loop depth before each instruction, and after the last. -/
def depths (is : List Ins) : List Int := is.foldl (fun a i => a ++ [a.getLastD 0 + insDepth i]) [0]

/-- Every LOOP has its ENDL, at most six deep. -/
def loopsPair (is : List Ins) : Bool := (depths is).all (fun d => decide (0 ≤ d) && decide (d ≤ 6)) && (depths is).getLastD 0 == 0

/-- A SKIPZ at `p` stays in its loop level and in the program; an IDXP's level encloses it. -/
def placeOk (is : List Ins) (p : Nat) (i : Ins) : Bool :=
  let d := depths is
  let here := nth 0 d p
  if i.op = 9 then
    decide (p + 1 + i.imm32 < is.length) && (List.range (i.imm32 + 1)).all (fun k => decide (here ≤ nth 0 d (p + 1 + k))) &&
    nth 0 d (p + 1 + i.imm32) == here
  else if i.op = 14 then decide ((i.sub : Int) < here)
  else true

/-- STREAM_PROGRAM_CHECK (R324). -/
def programOk (is : List Ins) : Bool :=
  is.all insOk && loopsPair is && is.zipIdx.all (fun x => placeOk is x.2 x.1) && (match is.getLast? with | some i => i.op == 0 | none => false)

/-- The command with its program behind its body. -/
def stWith (c : Cmd) (prog : Bytes) : Cmd := { c with body := c.body.take 64 ++ prog }

/-- STREAM's checks. -/
def stCheck (s : State) (c : Cmd) : Option Status :=
  refuseUnless (stProg c % 64 == 0 && decide (1 ≤ stCount c) && decide (stCount c ≤ 64) && (decide (stRegion c < 8) || stRegion c == 255) &&
    decide (1 ≤ stInFlight c) && decide (stInFlight c ≤ 64) && c.zero 11 5 && stSave c % 64 == 0 && stReport c % 32 == 0 &&
    (List.range 4).all (fun k => decide (c.fld (32 + 8 * k) 8 < 2 ^ 48))) <|
  refuseUnless (decide (s.tierOf (stProg c) = some .ivory) && s.mappedRange (stProg c) (16 * stCount c) && decide (s.tierOf (stSave c) = some .ivory)) <|
  match s.readBytes (stProg c) (16 * stCount c) with
  | .error st => some st
  | .ok p => refuseUnless (programOk (stInss (stWith c p))) none

/-- STREAM's start reads its program. -/
def streamStart (s : State) (c : Cmd) : Start :=
  match s.readBytes (stProg c) (16 * stCount c) with
  | .error st => .stop s st
  | .ok p => .go s (stWith c p)

/-! ### Threads -/

/-- The thread of a STREAM. -/
def State.thread? (s : State) (q n : Nat) : Option Thread := s.threads.find? (fun t => t.q == q && t.n == n)

/-- The thread replaced. -/
def State.putThread (s : State) (t : Thread) : State := { s with threads := s.threads.map (fun u => if u.q = t.q ∧ u.n = t.n then t else u) }

/-- The thread is no more, and waits nowhere. -/
def HandleQueue.forget (q n : Nat) (h : HandleQueue) : HandleQueue :=
  { h with takers := h.takers.filter (fun w => !(w.q == q && w.n == n)), givers := h.givers.filter (fun w => !(w.q == q && w.n == n)) }

/-- No handle queue has the thread waiting. -/
def State.forgetWaiter (s : State) (q n : Nat) : State := { s with hqs := s.hqs.map (fun e => (e.1, e.2.forget q n)) }

/-- The thread ends. -/
def State.dropThread (s : State) (q n : Nat) : State :=
  { s.forgetWaiter q n with threads := s.threads.filter (fun u => !(u.q == q && u.n == n)) }

/-- A pointer register. -/
def Thread.p (t : Thread) (k : Nat) : Nat := nth 0 t.ptr k

/-- A pointer register written, modulo 2^48. -/
def Thread.setP (t : Thread) (k : Nat) (v : Int) : Thread := { t with ptr := t.ptr.set k (codeOf 48 v) }

/-- The next instruction; one more executed. -/
def Thread.next (t : Thread) : Thread := { t with pc := t.pc + 1, executed := t.executed + 1 }

/-- The STREAM report (R327). -/
def Thread.report (t : Thread) : Bytes := natBytes 8 t.executed ++ natBytes 8 t.moved ++ natBytes 4 t.runs ++ natBytes 2 t.first ++ natBytes 10 0

/-- Where a status stands in the order of R327. -/
def streamRank (st : Status) : Nat := if st = .ok then 0 else if st = .limit then 1 else if st = .hqClosed then 2 else 3

/-- The earlier of two statuses by R327's order. -/
def streamWorse (a b : Status) : Status := if streamRank b ≤ streamRank a then a else b

/-- An unfinished RUN command ends with its STREAM: its outputs that are not committed are undefined, its stack entry has failed. -/
def dropRun (s : State) (t : Thread) (st : Status) : State :=
  match t.running.bind (fun d => (runReg [] d.opcode d).map (fun r => r.op.quit s d st)) with
  | none => s
  | some x => stackDone x.1 x.2 false

/-- The STREAM completes: its report is written and its thread is free. -/
def finishStream (s0 : State) (c : Cmd) (t : Thread) (st : Status) : State :=
  let s := dropRun s0 t st
  let r := match commitWrites s c ⟨[(stReport c, t.report)], 0⟩ with
    | .ok r => (r.1, { r.2 with status := st })
    | .error e => (s.noteStop (pgRegion t.region) e, { c with status := streamWorse st e.plain })
  (r.1.dropThread t.q t.n).putCmd { r.2 with phase := .ended }

/-- The thread goes on, or its STREAM completes once it has a final status and no move is outstanding. -/
def settleThread (s : State) (c : Cmd) (t : Thread) : State :=
  match t.ending with
  | some st => if t.moves.isEmpty then finishStream s c t st else (s.putThread t).putCmd c
  | none => (s.putThread t).putCmd c

/-- The thread has one more status to end with (R327). -/
def Thread.endsWith (t : Thread) (st : Status) : Thread :=
  { t with ending := some ((t.ending.map (fun e => streamWorse e st.plain)).getD st.plain) }

/-- A status that has been recorded ends the STREAM, after its moves. -/
def endQuiet (s : State) (c : Cmd) (t : Thread) (st : Status) : State := settleThread s c (t.endsWith st)

/-- A status ends the STREAM, after its moves: it is recorded in the region's page, or where its memory has it (R239, R260, R364). -/
def endThread (s : State) (c : Cmd) (t : Thread) (st : Status) : State := endQuiet (s.noteStop (pgRegion t.region) st) c t st

/-- Engines of a direction in service, from `e` round (R318). -/
def State.engineFrom (s : State) (e : Nat) : List Nat :=
  let es := s.engineList (engineDir e)
  es.filter (fun x => decide (e ≤ x)) ++ es.filter (fun x => decide (x < e))

/-- The move's pieces of 64 KiB go round the engines of a direction, the first to `e`: their counts, and the engine that took the last
(R318). -/
def State.movePieces (s : State) (c : Cmd) (bytes e : Nat) : State × Cmd :=
  let es := s.engineFrom e
  let p := (bytes + 65535) / 65536
  let last := (p - 1) % es.length
  (es.zipIdx.foldl (fun t x =>
     let k := (p - x.2 + es.length - 1) / es.length
     (t.count (pgCopy x.1) 0x1901 k).count (pgCopy x.1) 0x1902 (65536 * k - (if x.2 = last then 65536 * p - bytes else 0))) s,
   { c with engines := tabSet 16 c.engines (engineDir e) (nth e es last) })

/-- The engines on which the oldest move of a thread runs when none is named: the ones whose turn it is (R318). -/
def State.turnOf (s : State) (c : Cmd) (dirs : List Nat) : List Nat :=
  dirs.filterMap (fun d => if tabGet 16 c.engines d = 16 then (s.engineList d).head? else s.engineAfter (tabGet 16 c.engines d))

/-- The oldest move writes its bytes; `es` took its first piece (R325). -/
def retireMove (s : State) (c : Cmd) (t : Thread) (es : List Nat) : State × Cmd × Thread :=
  match t.moves with
  | [] => (s, c, t)
  | m :: rest =>
    match commitWrites s c ⟨m.writes, 0⟩ with
    | .ok r =>
      let w := es.foldl (fun (x : State × Cmd) e => x.1.movePieces x.2 m.bytes e) r
      (w.1, w.2, { t with moves := rest, moved := t.moved + m.bytes })
    | .error st => (s.noteStop (pgRegion t.region) st, c, { t.endsWith st with moves := rest })

/-- All outstanding moves finish (R328 step 1). -/
def retireAll : Nat → State → Cmd → Thread → State × Cmd × Thread
  | 0, s, c, t => (s, c, t)
  | k + 1, s, c, t =>
    let r := retireMove s c t (s.turnOf c ((t.moves.head?.map (·.dirs)).getD []))
    retireAll k r.1 r.2.1 r.2.2

/-- The save area (R328). -/
def Thread.area (t : Thread) : Bytes :=
  natBytes 8 t.n ++ natBytes 1 t.pc ++ natBytes 1 t.loops.length ++ natBytes 1 (bit t.running.isSome) ++ natBytes 5 0 ++
  (List.range 8).flatMap (fun k => natBytes 8 (t.p k)) ++ (List.range 6).flatMap (fun k => natBytes 4 (nth 0 t.loops k)) ++ natBytes 152 0

/-- The save area is written; the progress of an unfinished RUN command stands in its last 152 bytes in a form that the spec does not
give (R328). (DEDUCED, log entry 26). -/
def saveThread (s : State) (c : Cmd) (t : Thread) : Except Status (State × Cmd) :=
  (commitWrites s c ⟨[(stSave c, t.area)], 0⟩).map (fun w => (if t.running.isSome then w.1.openRange (stSave c + 104) 152 else w.1, w.2))

/-- Stops a thread between instructions (R328): moves finish, a RUN command stops between its units, the save area is written, the
place in a handle queue is given up. -/
def stopThread (s : State) (t0 : Thread) : State :=
  match s.cmd? t0.q t0.n with
  | none => s
  | some c0 =>
    let r := retireAll t0.moves.length s c0 t0
    let t := r.2.2
    match t.ending with
    | some st => finishStream r.1 r.2.1 t st
    | none =>
      match saveThread r.1 r.2.1 t with
      | .error st => endThread r.1 r.2.1 t st
      | .ok w =>
        ((w.1.forgetWaiter t.q t.n).putThread { t with saved := true, stored := true, waiting := false }).putCmd
          { w.2 with resumed := true, regions := w.2.regions.filter (· != t.region) }

/-- Every thread that `sel` names stops. (DEDUCED, log entry 26). -/
def State.stopThreads (s : State) (sel : Thread → Bool) : State := (s.threads.filter (fun t => sel t && !t.saved)).foldl stopThread s

/-- The threads that a work reset keeps, stopped; their RUN commands begin again where they had committed, with new latches (R153,
R449). -/
def State.heldThreads (s : State) (halt : Cmd → Cmd) : List Thread :=
  (s.threads.filter (·.saved)).map (fun t => { t with running := t.running.map halt })

/-- A status that ends a STREAM from outside its program: outstanding moves are written, then its report, and its thread is free
(R321, R327). -/
def streamLeave (s : State) (c : Cmd) (st : Status) : State × Cmd :=
  match s.thread? c.q c.n with
  | none => leaveReport (fun _ => true) stReport (fun _ c => ({ q := c.q, n := c.n, region := 0 } : Thread).report) s c st
  | some t0 =>
    let r := retireAll t0.moves.length s c t0
    let x := leaveReport (fun _ => true) stReport (fun _ _ => r.2.2.report) (dropRun r.1 r.2.2 st) r.2.1 st
    (x.1.dropThread c.q c.n, x.2)

/-- STREAM as the dispatcher knows it. -/
def streamOp : Op :=
  { check := stCheck, ranges := fun _ c => [(stProg c, 16 * stCount c), (stSave c, 256), (stReport c, 32)], total := fun _ _ => 1,
    unit := fun s c _ => .ok (s, c), finish := fun s c => .ok (s, c), outs := fun _ c => [(stReport c, 32)], pages := fun _ _ => [],
    leave := streamLeave }

/-- Threads held in a region (R332). -/
def State.threadsIn (s : State) (r : Nat) : Nat := (s.threads.filter (fun t => t.region == r && !t.saved)).length

/-! ### STREAM (R321, R328) -/

/-- A thread from a save area; what the area has no field for is as the module kept it, if it did (R328). (DEDUCED, log entry 26). -/
def areaThread (q n region : Nat) (kept : Option Thread) (b : Bytes) : Thread :=
  let t := kept.getD { q := q, n := n, region := region }
  { t with region := region, pc := fieldAt b 8 1, ptr := (List.range 8).map (fun k => fieldAt b (16 + 8 * k) 8),
           loops := (List.range (fieldAt b 9 1)).map (fun k => fieldAt b (80 + 4 * k) 4),
           running := if fieldAt b 10 1 = 1 then t.running else none, armed := t.armed && fieldAt b 10 1 == 1,
           saved := false, stored := false, waiting := false }

/-- A thread at the first instruction. -/
def freshThread (c : Cmd) (region : Nat) : Thread :=
  { q := c.q, n := c.n, region := region, ptr := (List.range 8).map (fun k => if k < 4 then c.fld (32 + 8 * k) 8 else 0) }

/-- A replay after a forced reset ignores the save area (R449). -/
def ignoresArea (s : State) (c : Cmd) : Bool := c.replayed && s.boot.forced

/-- A thread enters a region for its STREAM. -/
def enterThread (s : State) (c : Cmd) (t : Thread) : State :=
  let u := s.dropThread t.q t.n
  State.putCmd { u with threads := u.threads ++ [t] } { c with regions := insertNat t.region c.regions }

/-- A STREAM that begins at its first instruction: no trace of an earlier run is left in what it will report (R58, R59). -/
def freshStream (s : State) (c : Cmd) (region : Nat) : State :=
  enterThread s { c with sat := 0, units := 0, coll := {} } (freshThread c region)

/-- A STREAM that finds its own number in its save area goes on from there, with what the module kept (R328). -/
def resumeStream (s : State) (c : Cmd) (region : Nat) (kept : Option Thread) : State :=
  match s.readBytes (stSave c) 256 with
  | .error st => endThread s c { freshThread c region with ending := kept.bind (·.ending) } st
  | .ok b =>
    if fieldAt b 0 8 % 2 ^ 48 = c.n then enterThread s { c with resumed := true } (areaThread c.q c.n region kept b)
    else freshStream s c region

/-- STREAM (R321, R328): a thread of a region in service that REGION allows starts the program, goes on where it stopped, or resumes
from the save area; a pre-emption or a drain stops the thread of the region between two instructions. -/
def streamRow (q n region : Nat) (b : Boundary) (s : State) : State :=
  match s.runnable q n (Cmd.isOp 0x105) with
  | none => s
  | some c =>
    match s.thread? q n with
    | some t =>
      if !t.saved then (if b.stops && t.region == region then stopThread s t else s)
      else if !(stRegion c == 255 || stRegion c == region) || (s.region region).state != .inService || decide (64 ≤ s.threadsIn region) then s
      else if t.stored then resumeStream s c region (some t)
      else enterThread s c { t with region := region, saved := false, waiting := false }
    | none =>
      if !(stRegion c == 255 || stRegion c == region) || (s.region region).state != .inService || decide (64 ≤ s.threadsIn region) then s
      else if ignoresArea s c then freshStream s c region
      else resumeStream s c region none

/-- STREAM. -/
def execStream (q n : Nat) (turn : StreamTurn) (s : State) : Host.Outcome State Fault Refusal :=
  .next (streamRow q n turn.region turn.boundary s)

/-! ### Issuing an instruction (R323, R325) -/

/-- An instruction takes one issue slot of the sequencer; a thread that waits takes none (R332, R493). -/
def noteIssue (t : Thread) (s : State) : State :=
  s.count (pgRegion t.region) 0x102 (bit ((s.thread? t.q t.n).all (fun u => u.executed != t.executed)))

/-- The thread's current instruction is run by its own row: the thread holds a region in service, waits for nothing, and the
program has not ended. An injected CONTAINED error that waits in the region's page ends the STREAM (R481). -/
def insRow (code : Nat) (f : State → Cmd → Thread → Ins → State) (q n : Nat) (s : State) : State :=
  match s.runnable q n (Cmd.isOp 0x105), s.thread? q n with
  | some c, some t =>
    if t.saved || t.waiting || t.ending.isSome || (s.region t.region).state != .inService || decide (stCount c ≤ t.pc) then s
    else if (stIns c t.pc).op ≠ code then s
    else if (s.page (pgRegion t.region)).injectNext then
      endQuiet (s.modPage (pgRegion t.region) (fun h => { h with injectNext := false })) c t .checkFail
    else noteIssue t (f s c t (stIns c t.pc))
  | _, _ => s

/-- HALT: the program ends once its moves are written. -/
def insHalt (s : State) (c : Cmd) (t : Thread) (_ : Ins) : State := if t.moves.isEmpty then finishStream s c t.next .ok else s

/-- SETP. -/
def insSetp (s : State) (_ : Cmd) (t : Thread) (i : Ins) : State := s.putThread (t.next.setP i.pa i.imm64)

/-- ADDP. -/
def insAddp (s : State) (_ : Cmd) (t : Thread) (i : Ins) : State := s.putThread (t.next.setP i.pa (t.p i.pa + signedOf 64 i.imm64))

/-- The ENDL that matches the LOOP at `k`: the first later place where the depth comes back. -/
def matchEnd (is : List Ins) (k : Nat) : Nat :=
  ((List.range is.length).find? (fun j => decide (k < j) && (nth 0 (depths is) (j + 1) == nth 0 (depths is) k))).getD k

/-- The LOOP that matches the ENDL at `k`: the last earlier place with the depth it closes to. -/
def matchLoop (is : List Ins) (k : Nat) : Nat :=
  (((List.range k).filter (fun j => decide ((nth ⟨0, 0, 0, 0, 0, 0, 0, 0⟩ is j).op = 3) && nth 0 (depths is) j == nth 0 (depths is) (k + 1))).getLast?).getD k

/-- LOOP: a level opens; with IMM32 = 0 the program goes on after its ENDL. -/
def insLoop (s : State) (c : Cmd) (t : Thread) (i : Ins) : State :=
  if i.imm32 = 0 then s.putThread { t with pc := matchEnd (stInss c) t.pc + 1, executed := t.executed + 1 }
  else s.putThread { t.next with loops := t.loops ++ [0] }

/-- ENDL: the innermost level runs again, or closes. -/
def insEndl (s : State) (c : Cmd) (t : Thread) (_ : Ins) : State :=
  let k := matchLoop (stInss c) t.pc
  let done := t.loops.getLastD 0 + 1
  if done < (stIns c k).imm32 then
    s.putThread { t with pc := k + 1, executed := t.executed + 1, loops := t.loops.dropLast ++ [done] }
  else s.putThread { t.next with loops := t.loops.dropLast }

/-- IDXP: Pb plus the counter of a loop level times IMM64. -/
def insIdxp (s : State) (_ : Cmd) (t : Thread) (i : Ins) : State :=
  s.putThread (t.next.setP i.pa (t.p i.pb + nth 0 t.loops i.sub * signedOf 64 i.imm64))

/-- A move issues when a place is free: it has read its data from `srcs`, and it will write `ws`; the thread goes on as `t'`. -/
def issueMove (s : State) (c : Cmd) (t' : Thread) (srcs : List Nat) (ws : Writes) : State :=
  match (joinWrites ws).findSome? (fun w => s.dynRefusal c.q w.1 w.2.length) with
  | some st => endThread s c t' st
  | none =>
    let crosses := fun (as : List Nat) => as.any (fun a => decide (s.tierOf a = some .slate))
    let dirs := (if crosses (ws.map (·.1)) then [0] else []) ++ (if crosses srcs then [1] else [])
    (s.putThread { t'.next with moves := t'.moves ++ [⟨ws, (ws.map (fun w => w.2.length)).sum, dirs⟩] }).putCmd { c with committed := true }

/-- A place is free among the moves outstanding (R325). -/
def placeFree (c : Cmd) (t : Thread) : Bool := decide (t.moves.length < stInFlight c)

/-- A pointer moved on by `k` bytes when `on`. -/
def Thread.bump (t : Thread) (on : Bool) (p k : Nat) : Thread := if on then t.setP p (t.p p + k) else t

/-- MOVE. (DESIGN CHOICE, log entry 16). -/
def insMove (s : State) (c : Cmd) (t : Thread) (i : Ins) : State :=
  if !placeFree c t then s else
  match s.dynRead c.q (t.p i.pa) i.imm32 with
  | .error st => endThread s c t st
  | .ok bs => issueMove s c ((t.bump (bitAt i.sub 0) i.pa i.imm32).bump (bitAt i.sub 1) i.pb i.imm32) [t.p i.pa] [(t.p i.pb, bs)]

/-- The elements of a CONV, converted to nearest even (R323). -/
def convBytes (F G : Fmt) (bs : Bytes) : Bytes × Nat :=
  let es := (pieces F.bytes bs).map (fun b => encElem G .rne (decElem F (leNat b)))
  (es.flatMap (fun e => natBytes G.bytes e.code), (es.map (·.sat)).sum)

/-- CONV. -/
def insConv (s : State) (c : Cmd) (t : Thread) (i : Ins) : State :=
  if !placeFree c t then s else
  match fmtOf (i.imm64 % 256), fmtOf (i.imm64 / 256 % 256) with
  | some F, some G =>
    (match s.dynRead c.q (t.p i.pa) (i.imm32 * F.bytes) with
     | .error st => endThread s c t st
     | .ok bs =>
       issueMove s { c with sat := c.sat + (convBytes F G bs).2 }
         ((t.bump (bitAt i.sub 0) i.pa (i.imm32 * F.bytes)).bump (bitAt i.sub 1) i.pb (i.imm32 * G.bytes))
         [t.p i.pa] [(t.p i.pb, (convBytes F G bs).1)])
  | _, _ => s

/-- The address that list position `k` of GATH or SCAT names: Pa + INDEX × 2^SUB, modulo 2^48. -/
def listAddr (s : State) (q : Nat) (t : Thread) (i : Ins) (k : Nat) : Except Status Nat :=
  (s.dynRead q ((t.p i.pc + 4 * k) % 2 ^ 48) 4).map (fun b => codeOf 48 (t.p i.pa + signedOf 32 (leNat b) * 2 ^ i.sub))

/-- Pb and Pc advance past the data and the list. -/
def listDone (t : Thread) (i : Ins) : Thread := (t.bump true i.pc (4 * i.imm32)).bump true i.pb (i.imm32 * 2 ^ i.sub)

/-- GATH. -/
def insGath (s : State) (c : Cmd) (t : Thread) (i : Ins) : State :=
  if !placeFree c t then s else
  let ws := (List.range i.imm32).mapM (fun k => do
    let a ← listAddr s c.q t i k
    let bs ← s.dynRead c.q a (2 ^ i.sub)
    .ok (a, (t.p i.pb + k * 2 ^ i.sub) % 2 ^ 48, bs))
  match ws with
  | .error st => endThread s c t st
  | .ok ws => issueMove s c (listDone t i) (ws.map (·.1)) (ws.map (·.2))

/-- SCAT: list position i of Pb goes to Pa + INDEX × 2^SUB, in ascending i (R316). -/
def insScat (s : State) (c : Cmd) (t : Thread) (i : Ins) : State :=
  if !placeFree c t then s else
  let ws := (List.range i.imm32).mapM (fun k => do
    let a ← listAddr s c.q t i k
    let bs ← s.dynRead c.q ((t.p i.pb + k * 2 ^ i.sub) % 2 ^ 48) (2 ^ i.sub)
    .ok (a, bs))
  match ws with
  | .error st => endThread s c t st
  | .ok ws => issueMove s c (listDone t i) [t.p i.pb] ws

/-- SKIPZ. -/
def insSkipz (s : State) (c : Cmd) (t : Thread) (i : Ins) : State :=
  match s.dynRead c.q (t.p i.pa) 4 with
  | .error st => endThread s c t st
  | .ok b =>
    if (leNat b == 0) != bitAt i.sub 0 then s.putThread { t.next with pc := t.pc + 1 + i.imm32 }
    else s.putThread t.next

/-- STREAM_FENCE: the program goes on once every earlier move has written its bytes. -/
def insFence (s : State) (_ : Cmd) (t : Thread) (_ : Ins) : State := if t.moves.isEmpty then s.putThread t.next else s

/-! ### Handle queues (R330, R331) -/

/-- Handle queue `k`. -/
def State.hq (s : State) (k : Nat) : HandleQueue := tabGet {} s.hqs k
/-- Handle queue `k` replaced. -/
def State.putHq (s : State) (k : Nat) (h : HandleQueue) : State := { s with hqs := tabSet {} s.hqs k h }

/-- The pointer a TAKE makes of a handle. -/
def Thread.took (t : Thread) (i : Ins) (h : Nat) : Thread := t.next.setP i.pa (t.p i.pb + h * 2 ^ i.sub)

/-- TAKE. -/
def insTake (s : State) (c : Cmd) (t : Thread) (i : Ins) : State :=
  let h := s.hq (i.imm32 % 1024)
  if !h.isOpen then endThread s c t .hqClosed
  else
    match h.handles, h.takers with
    | x :: rest, [] => (s.putHq (i.imm32 % 1024) { h with handles := rest }).putThread (t.took i x)
    | _, _ => (s.putHq (i.imm32 % 1024) { h with takers := h.takers ++ [⟨c.q, c.n, 0⟩] }).putThread { t with waiting := true }

/-- A handle is given, or its giver waits. -/
def giveHandle (s : State) (c : Cmd) (t : Thread) (k v : Nat) : State :=
  let h := s.hq k
  if !h.isOpen then endThread s c t .hqClosed
  else if h.handles.length < h.depth ∧ h.givers = [] then (s.putHq k { h with handles := h.handles ++ [v] }).putThread t.next
  else (s.putHq k { h with givers := h.givers ++ [⟨c.q, c.n, v⟩] }).putThread { t with waiting := true }

/-- GIVE: a pointer that no handle names ends the STREAM with LIMIT (R323). -/
def insGive (s : State) (c : Cmd) (t : Thread) (i : Ins) : State :=
  let d := t.p i.pa - t.p i.pb
  if t.p i.pa < t.p i.pb ∨ d % 2 ^ i.sub ≠ 0 ∨ 2 ^ (32 + i.sub) ≤ d then endThread s c t .limit
  else giveHandle s c t (i.imm32 % 1024) (d / 2 ^ i.sub)

/-- GIVEI. -/
def insGivei (s : State) (c : Cmd) (t : Thread) (i : Ins) : State := giveHandle s c t (i.imm64 % 1024) i.imm32

/-- HQ_WAITER_SERVED (R330): the thread that has waited longest takes the oldest handle, or gives its own into a free place. -/
def hqServe (k : Nat) (s : State) : State :=
  let h := s.hq k
  if !h.isOpen then s else
  match h.takers, h.handles with
  | w :: rest, x :: xs =>
    (match s.cmd? w.q w.n, s.thread? w.q w.n with
     | some c, some t =>
       if t.saved then s.putHq k { h with takers := rest }
       else (s.putHq k { h with takers := rest, handles := xs }).putThread { t.took (stIns c t.pc) x with waiting := false }
     | _, _ => s.putHq k { h with takers := rest })
  | _, _ =>
    match h.givers with
    | [] => s
    | w :: rest =>
      if h.depth ≤ h.handles.length then s else
      match s.thread? w.q w.n with
      | some t =>
        if t.saved then s.putHq k { h with givers := rest }
        else (s.putHq k { h with givers := rest, handles := h.handles ++ [w.value] }).putThread { t.next with waiting := false }
      | none => s.putHq k { h with givers := rest }

/-- HQ's fields (R331). -/
def hqNo (c : Cmd) : Nat := c.fld 2 2
def hqDepth (c : Cmd) : Nat := c.fld 4 2
def hqSeeds (c : Cmd) : Nat := c.fld 6 2
def hqSeedAt (c : Cmd) : Nat := c.fld 8 8

/-- HQ's checks. -/
def hqCheck (s : State) (c : Cmd) : Option Status :=
  refuseUnless (decide (1 ≤ c.fld 0 1) && decide (c.fld 0 1 ≤ 3) && c.zero 1 1 && decide (hqNo c < 1024) && c.zero 24 40 &&
    (c.fld 0 1 != 3 || c.fld 16 8 % 32 == 0) &&
    (c.fld 0 1 != 1 || (decide (1 ≤ hqDepth c) && decide (hqDepth c ≤ 256) && decide (hqSeeds c ≤ hqDepth c) && !(s.hq (hqNo c)).isOpen))) none

/-- HQ's ranges. -/
def hqRanges (_ : State) (c : Cmd) : List (Nat × Nat) :=
  if c.fld 0 1 = 1 then [(hqSeedAt c, 4 * hqSeeds c)] else if c.fld 0 1 = 3 then [(c.fld 16 8, 32)] else []

/-- Threads that wait in a queue that closes end with HQ_CLOSED. -/
def closeWaiter (s : State) (w : HqWaiter) : State :=
  match s.cmd? w.q w.n, s.thread? w.q w.n with
  | some c, some t => endThread s c { t with waiting := false } .hqClosed
  | _, _ => s

/-- The status report of a handle queue (R331). -/
def HandleQueue.report (h : HandleQueue) : Bytes :=
  natBytes 1 (bit h.isOpen) ++ natBytes 1 0 ++ natBytes 2 h.depth ++ natBytes 2 h.handles.length ++ natBytes 2 h.takers.length ++
  natBytes 2 h.givers.length ++ natBytes 22 0

/-- HQ's one unit; an OPEN that finds its queue open by then is refused (R331). -/
def hqUnit (s : State) (c : Cmd) (_ : Nat) : Except Status (State × Cmd) :=
  let k := hqNo c
  match c.fld 0 1 with
  | 1 =>
    if (s.hq k).isOpen then .error .malformed else
    (s.readBytes (hqSeedAt c) (4 * hqSeeds c)).map (fun b =>
      (s.putHq k { isOpen := true, depth := hqDepth c, handles := (pieces 4 b).map leNat }, { c with committed := true, wroteLocal := true }))
  | 2 => .ok (((s.hq k).takers ++ (s.hq k).givers).foldl closeWaiter (s.putHq k {}), { c with committed := true, wroteLocal := true })
  | _ => commitWrites s c ⟨[(c.fld 16 8, (s.hq k).report)], 0⟩

/-- HQ. -/
def hqOp : Op :=
  { check := hqCheck, ranges := hqRanges, total := fun _ _ => 1, unit := hqUnit, finish := fun s c => .ok (s, { c with status := .ok }),
    outs := fun _ c => if c.fld 0 1 = 3 then [(c.fld 16 8, 32)] else [], pages := fun _ _ => [] }

/-- HQ OPEN (R331). -/
def execHqOpen (q n : Nat) (s : State) : Host.Outcome State Fault Refusal := .next (runRow hqOp (Cmd.isSub 0x106 1) q n s)
/-- HQ CLOSE (R331). -/
def execHqClose (q n : Nat) (s : State) : Host.Outcome State Fault Refusal := .next (runRow hqOp (Cmd.isSub 0x106 2) q n s)
/-- HQ STATUS (R331). -/
def execHqStatus (q n : Nat) (s : State) : Host.Outcome State Fault Refusal := .next (runRow hqOp (Cmd.isSub 0x106 3) q n s)

/-! ### RUN (R326) -/

/-- Statuses of a RUN command that do not end the STREAM (R326). -/
def runGoesOn (st : Status) : Bool := [.ok, .okScaled, .saturated, .partialExact, .kvExhausted, .limit].contains st

/-- An 8-byte field of the body slot patched; 0xFF patches nothing. -/
def patchField (b : Bytes) (u v : Nat) : Bytes :=
  if u = 255 ∨ b.length < 8 * u + 8 then b else b.take (8 * u) ++ natBytes 8 v ++ b.drop (8 * u + 8)

/-- The command that a RUN makes, as if submitted to the STREAM's queue. -/
def runCmd (c : Cmd) (code a : Nat) (body : Bytes) : Cmd :=
  { q := c.q, n := c.n, desc := natBytes 2 code ++ natBytes 6 0 ++ natBytes 8 a ++ natBytes 48 0, phase := .started, body := body,
    regions := c.regions, ofStream := true, coll := c.coll }

/-- The RUN command has completed with a status, which has been recorded: the thread goes on or ends. -/
def runEnds (s : State) (c d : Cmd) (t : Thread) (st : Status) : State :=
  let u := numberDone (stackDone s d (runGoesOn st)).releasePages c.n c.coll.group
  let c' := { c with sat := c.sat + d.sat, committed := c.committed || d.committed, wroteLocal := c.wroteLocal || d.wroteLocal,
                     wroteSlate := c.wroteSlate || d.wroteSlate, wrotePeer := c.wrotePeer || d.wrotePeer, coll := {} }
  let t' := { t.next with runs := t.runs + 1, first := if t.first = 0 then st.plain.code else t.first, armed := false, running := none }
  if runGoesOn st then (u.putThread t').putCmd c' else endQuiet u c' t' st

/-- The command is a ring attention (R166). -/
def Cmd.isRing (c : Cmd) : Bool := c.opcode == 0x401 && (c.att.map Att.ring).getD false

/-- The RUN command works on: the named number of its units, or all that need not wait. One that is not finished stays in its thread's
body slot. (DEDUCED, log entry 62). -/
def runUnits (s : State) (c d : Cmd) (t : Thread) (op : Op) (units : Option Nat) : State :=
  let left := (List.range (op.total s d)).filter (fun k => !d.done.contains k)
  let e := op.runSome (match units with | none => left | some k => left.take k) s d
  if e.2.phase = .ended then runEnds e.1 c e.2 t e.2.status
  else (e.1.putThread { t with running := some e.2 }).putCmd c

/-- The RUN command goes on, or starts: a ring attention takes its group's number first and awaits the signature (R390, R395). -/
def runOn (s : State) (c d : Cmd) (t : Thread) (r : Reg) (units : Option Nat) : State :=
  let wait : Thread := { t with running := some d }
  if d.phase = .started then runUnits s c d t r.op units
  else if d.isRing && !t.armed then
    (let x := takeNumber s c ((d.att.map Att.ringGroup).getD 0)
     (x.1.putCmd x.2).putThread { wait with armed := true })
  else if d.isRing && !c.coll.signed then s
  else
    let d := { d with phase := .started, regions := c.regions, coll := c.coll }
    match (if d.isRing then latchStart s d else r.start s d) with
    | .wait => s.putThread wait
    | .stop s' st => runEnds (r.op.blame s' d st) c d t st
    | .go s' d' => runUnits s' c d' t r.op units

/-- The patched command is checked, and begins (R326). -/
def runPatched (s : State) (c d : Cmd) (t : Thread) (r : Reg) (units : Option Nat) : State :=
  let d := { d with phase := .accepted }
  match r.op.startStatus s d [(d.bodyAddr, d.body.length)] with
  | some st =>
    let x := r.op.leave (r.op.blame s d st) d st
    runEnds x.1 c d t st
  | none => runOn s c d t r units

/-- A new RUN command: its body is copied into the slot and patched (R326). -/
def runNew (ring : List (List Bytes)) (units : Option Nat) (s : State) (c : Cmd) (t : Thread) (i : Ins) : State :=
  let a := t.p i.pa
  match runReg ring i.imm32 (runCmd c i.imm32 a []) with
  | none => endThread s c t .limit
  | some r0 =>
    let len := bodyLength s r0.len a
    if 512 < len then endThread s c t .limit
    else if a % 64 ≠ 0 then runEnds (s.noteStop (pgRegion t.region) .malformed) c (runCmd c i.imm32 a []) t .malformed
    else
      match s.dynRead c.q a len with
      | .error st => endThread s c t st
      | .ok b =>
        let d := runCmd c i.imm32 a (patchField (patchField b (i.imm64 % 256) (t.p i.pb)) (i.imm64 / 256 % 256) (t.p i.pc))
        match runReg ring i.imm32 d with
        | none => endThread s c t .limit
        | some r => runPatched s c d t r units

/-- RUN: an unfinished command goes on, or a new one begins. (DEDUCED, log entry 62). -/
def insRun (ring : List (List Bytes)) (units : Option Nat) (s : State) (c : Cmd) (t : Thread) (i : Ins) : State :=
  match t.running with
  | none => runNew ring units s c t i
  | some d => match runReg ring d.opcode d with | none => s | some r => runOn s c d t r units

/-- The region whose mover takes a move that does not touch Slate: that of the Ivory slice it writes to, else the thread's own (R318, R325). (DEDUCED, log entry 26). -/
def moveRegion (s : State) (t : Thread) (m : StreamMove) : Nat :=
  match m.writes.head? with
  | none => t.region
  | some w => if s.tierOf w.1 = some .ivory ∧ (s.region (w.1 / sliceSize)).state = .inService then w.1 / sliceSize else t.region

/-- What takes the first piece of the oldest move, and whether it may (R318, R325). -/
def moveFits (s : State) (c : Cmd) (t : Thread) (m : StreamMove) : Mover → Bool
  | .engine e => m.dirs == [engineDir e] && engineTurn s c e
  | .both x y => m.dirs == [0, 1] && engineTurn s c x && engineTurn s c (8 + y)
  | .region r => m.dirs.isEmpty && moveRegion s t m == r.val

/-- STREAM_MOVE_DONE (R325): the oldest move has written all its bytes. -/
def moveDone (mover : Mover) (q n : Nat) (s : State) : State :=
  match s.runnable q n (Cmd.isOp 0x105), s.thread? q n with
  | some c, some t =>
    (match t.moves with
     | [] => s
     | m :: _ =>
       if t.saved || !moveFits s c t m mover then s
       else
         let r := retireMove s c t (moverEngines mover)
         settleThread r.1 r.2.1 r.2.2)
  | _, _ => s

/-! ### The rows -/

/-- HALT (R323). -/
def execHalt (q n : Nat) (s : State) : Host.Outcome State Fault Refusal := .next (insRow 0x00 insHalt q n s)
/-- SETP (R323). -/
def execSetp (q n : Nat) (s : State) : Host.Outcome State Fault Refusal := .next (insRow 0x01 insSetp q n s)
/-- ADDP (R323). -/
def execAddp (q n : Nat) (s : State) : Host.Outcome State Fault Refusal := .next (insRow 0x02 insAddp q n s)
/-- LOOP (R323). -/
def execLoop (q n : Nat) (s : State) : Host.Outcome State Fault Refusal := .next (insRow 0x03 insLoop q n s)
/-- ENDL (R323). -/
def execEndl (q n : Nat) (s : State) : Host.Outcome State Fault Refusal := .next (insRow 0x04 insEndl q n s)
/-- MOVE (R323, R325). -/
def execMove (q n : Nat) (s : State) : Host.Outcome State Fault Refusal := .next (insRow 0x05 insMove q n s)
/-- CONV (R323, R325). -/
def execConv (q n : Nat) (s : State) : Host.Outcome State Fault Refusal := .next (insRow 0x06 insConv q n s)
/-- GATH (R323, R325). -/
def execGath (q n : Nat) (s : State) : Host.Outcome State Fault Refusal := .next (insRow 0x07 insGath q n s)
/-- SCAT (R323, R325). -/
def execScat (q n : Nat) (s : State) : Host.Outcome State Fault Refusal := .next (insRow 0x08 insScat q n s)
/-- SKIPZ (R323). -/
def execSkipz (q n : Nat) (s : State) : Host.Outcome State Fault Refusal := .next (insRow 0x09 insSkipz q n s)
/-- TAKE (R323, R330). -/
def execTake (q n : Nat) (s : State) : Host.Outcome State Fault Refusal := .next (insRow 0x0A insTake q n s)
/-- GIVE (R323, R330). -/
def execGive (q n : Nat) (s : State) : Host.Outcome State Fault Refusal := .next (insRow 0x0B insGive q n s)
/-- FENCE of a stream program (R323). -/
def execStreamFence (q n : Nat) (s : State) : Host.Outcome State Fault Refusal := .next (insRow 0x0C insFence q n s)
/-- RUN (R326). -/
def execRun (q n : Nat) (turn : RunTurn) (s : State) : Host.Outcome State Fault Refusal :=
  .next (insRow 0x0D (insRun turn.ring turn.units) q n s)
/-- IDXP (R323). -/
def execIdxp (q n : Nat) (s : State) : Host.Outcome State Fault Refusal := .next (insRow 0x0E insIdxp q n s)
/-- GIVEI (R323, R330). -/
def execGivei (q n : Nat) (s : State) : Host.Outcome State Fault Refusal := .next (insRow 0x0F insGivei q n s)
/-- HQ_WAITER_SERVED (R330). -/
def execHqWaiterServed (hq : Nat) (s : State) : Host.Outcome State Fault Refusal := .next (if s.alive then hqServe hq s else s)
/-- STREAM_MOVE_DONE (R325). -/
def execStreamMoveDone (command : CmdName) (mover : Mover) (s : State) : Host.Outcome State Fault Refusal :=
  .next (moveDone mover command.q command.n s)

end Sys2Proof.Machine
end

