-- ==== Sys2Proof/Machine/Journal.lean ====
section
/-! DEFINITION. The journal in Slate and the queue contexts: records and headers, liveness and trimming, CONTEXT records,
disabling and aborting a queue (R338 to R340, R353 to R355, R365, R366). -/

namespace Sys2Proof.Machine

/-! ### Queue contexts (R338, R340) -/

/-- The code of a queue state (R340). -/
def QState.code : QState → Nat
  | .disabled => 0 | .active => 1 | .parkedStale => 2 | .draining => 3 | .aborting => 4 | .held => 5

/-- The state of a code. -/
def qstateOf : Nat → QState
  | 1 => .active | 2 => .parkedStale | 3 => .draining | 4 => .aborting | 5 => .held | _ => .disabled

/-- Word `w` of a queue's context (R338). -/
def QueueCtx.word (x : QueueCtx) (w : Nat) : Nat :=
  match w with
  | 0 => x.sizeLog2 * 2 ^ 56 + x.sqBase
  | 1 => x.irqVec * 2 ^ 48 + x.cqBase
  | 2 => x.winBase
  | 3 => x.winLimit
  | 4 => x.jobSeed
  | 5 => x.lastStep * 2 ^ 32 + x.state.code
  | 6 => x.nextSeq
  | 7 => x.tailSeq
  | 8 => x.doneSeq
  | 9 => x.cqHead
  | _ => 0

/-- Words 0 to 7, as a CONTEXT record holds them (R353). -/
def QueueCtx.bytes (x : QueueCtx) : Bytes := (List.range 8).flatMap (fun w => natBytes 8 (x.word w))

/-- Slots of each ring. -/
def QueueCtx.slots (x : QueueCtx) : Nat := 2 ^ x.sizeLog2

/-! ### The area and its bytes (R353, R370) -/

/-- The address where the journal lies, which its header's BASE holds (R353). -/
def Perast.journalReg (p : Perast) : Nat := p.journalBase * 4096

/-- Bytes of the journal: 0 where none is configured, or where its range does not lie wholly in Slate. -/
def State.journalSize (s : State) : Nat :=
  if 24 ≤ s.per.journalLog2 ∧ s.per.journalLog2 ≤ 32 ∧ s.tierOf (s.per.journalBase * 4096) = some .slate ∧
    s.mappedRange (s.per.journalBase * 4096) (2 ^ s.per.journalLog2) = true then 2 ^ s.per.journalLog2 else 0

/-- Record slots. -/
def State.journalSlots (s : State) : Nat := (s.journalSize - 8192) / 128

/-- The address of record `r`. -/
def State.recordAddr (s : State) (r : Nat) : Nat := s.per.journalBase * 4096 + 8192 + 128 * (r % s.journalSlots)

/-- Bytes with their CRC-32C behind them. -/
def withCrc (bs : Bytes) : Bytes := bs ++ natBytes 4 (crc32c bs)

/-- A header copy (R353). -/
def headerBytes (owner base w t : Nat) : Bytes := withCrc (natBytes 8 owner ++ natBytes 8 base ++ natBytes 8 w ++ natBytes 8 t ++ natBytes 4060 0)

/-- The code of a record kind. -/
def RecKind.code : RecKind → Nat
  | .accept => 1 | .complete => 2 | .context => 3 | .consumed => 4

/-- A record's 128 bytes (R353). -/
def recordBytesOf (k : RecKind) (q seq recno : Nat) (body : Bytes) (head : Nat) : Bytes :=
  withCrc (natBytes 1 k.code ++ natBytes 3 0 ++ natBytes 4 q ++ natBytes 8 seq ++ natBytes 8 recno ++
    (body ++ natBytes (64 - body.length) 0) ++ natBytes 8 head ++ natBytes 28 0)

/-! ### Liveness and trimming (R353, R354) -/

/-- A later record of the queue of one of these kinds stands in the list. -/
def laterOf (ls : List LiveRec) (l : LiveRec) (kinds : List RecKind) : Bool :=
  ls.any (fun m => m.q == l.q && decide (l.recno < m.recno) && kinds.contains m.kind)

/-- A record is live (R353). -/
def State.recLive (s : State) (l : LiveRec) : Bool :=
  let x := s.queue l.q
  match l.kind with
  | .accept => decide (x.jnlHead < l.seq)
  | .complete => decide (x.jnlHead < l.seq) || (l.status.bars && decide (x.doneSeq < l.seq + 4095))
  | .context => !laterOf s.jnl.live l [.context]
  | .consumed => !laterOf s.jnl.live l [.context, .consumed]

/-- The oldest live record, or the next to write. -/
def Journal.oldest (j : Journal) : Nat := ((j.live.head?).map (·.recno)).getD j.writeRec

/-- One header copy is written, in turn (R353). -/
def State.writeHeader (s : State) : State :=
  let t := s.storeBytes (s.per.journalBase * 4096 + 4096 * s.jnl.nextCopy) (headerBytes s.boot.ownerId s.per.journalReg s.jnl.writeRec s.jnl.trimRec)
  { t with jnl := { t.jnl with nextCopy := 1 - s.jnl.nextCopy } }

/-- JOURNAL_RECORD_FREE (R353): dead records are freed from the oldest onward; the partner hears of it (R406). -/
def State.freeRecords (s : State) : State :=
  let live := s.jnl.live.filter s.recLive
  let t := { s with jnl := { s.jnl with live := live, trimRec := ({ s.jnl with live := live } : Journal).oldest } }
  if t.jnl.trimRec = s.jnl.trimRec then t else t.mirror none "TRIM" [t.jnl.trimRec] []

/-- A record of the journal has reached the partner, or needs no partner: a CONTEXT or CONSUMED record's HEAD counts
(R355 items 3 and 4). -/
def State.headJournaled (s : State) (l : LiveRec) : State :=
  if l.kind = .context ∨ l.kind = .consumed then s.putQueue l.q { s.queue l.q with jnlHead := l.head } else s

/-- A record is written, mirrored, and the header follows (R353, R406). -/
def State.appendRec (s : State) (k : RecKind) (q seq : Nat) (body : Bytes) (head : Nat) (st : Status) : State :=
  let r := s.jnl.writeRec
  let bs := recordBytesOf k q seq r body head
  let l : LiveRec := { recno := r, kind := k, q := q, seq := seq, record := if k = .complete then body else [], status := st, head := head }
  let t := s.storeBytes (s.recordAddr r) bs
  let t := { t with jnl := { t.jnl with writeRec := r + 1, live := t.jnl.live ++ [l] } }
  let t := if t.twinned then t.mirror (some (.record r)) "RECORD" [r] bs else t.headJournaled l
  t.freeRecords.writeHeader

/-- The journal engine can write: configured, the link up, the journal usable. -/
def State.journalOpen (s : State) : Bool := decide (0 < s.journalSlots) && s.per.linkUp && decide (s.jnl.state ≠ .broken)

/-- `k` more records fit in the circle. -/
def State.roomFor (s : State) (k : Nat) : Bool := decide (s.jnl.writeRec - s.jnl.trimRec + k ≤ s.journalSlots)

/-- A CONTEXT record can be written now. -/
def State.contextFits (s : State) : Bool := s.journalOpen && s.roomFor 1

/-- The CONTEXT record of a queue's present context. -/
def State.appendContext (s : State) (q : Nat) : State := s.appendRec .context q ((s.queue q).nextSeq - 1) (s.queue q).bytes (s.queue q).cqHead .ok

/-- The CONTEXT record that says DISABLED: every record of the queue, that one included, is dead. -/
def State.appendDisabled (s : State) (q : Nat) : State :=
  let x := { s.queue q with state := .disabled }
  let u := s.appendRec .context q (x.nextSeq - 1) x.bytes x.cqHead .ok
  { u with jnl := { u.jnl with live := u.jnl.live.filter (fun l => l.q != q) } }.freeRecords

/-- A CONTEXT record that waits for the link or for room (R353). -/
def State.oweContext (s : State) (q : Nat) (dis : Bool) : State :=
  { s with jnl := { s.jnl with owed := s.jnl.owed.filter (fun o => o != (q, dis)) ++ [(q, dis)] } }

/-- A CONTEXT record of the queue's present context (R338, R353); the link may make it wait. -/
def State.writeContext (s : State) (q : Nat) : State := if s.contextFits then s.appendContext q else s.oweContext q false

/-- The CONTEXT records that waited go out, in order. -/
def State.payOwed (s : State) : State :=
  s.jnl.owed.foldl (fun (t : State) o =>
    if t.contextFits then
      (let u : State := { t with jnl := { t.jnl with owed := t.jnl.owed.filter (· != o) } }
       if o.2 then u.appendDisabled o.1 else u.appendContext o.1)
    else t) s

/-- While room is short and the oldest live record is a CONTEXT or CONSUMED record, its queue's context is written anew
(R353); `fuel` bounds it by the records alive. -/
def State.makeRoom (k : Nat) : Nat → State → State
  | 0, s => s
  | fuel + 1, s =>
    if s.roomFor k then s else
    match s.jnl.live with
    | [] => s
    | l :: _ => if (l.kind = .context ∨ l.kind = .consumed) ∧ s.roomFor 1 = true then State.makeRoom k fuel (s.writeContext l.q) else s

/-- The COMPLETE record of a command that the journal holds live (R361). -/
def State.liveComplete (s : State) (q n : Nat) : Option LiveRec :=
  s.jnl.live.find? (fun l => l.kind == .complete && l.q == q && l.seq == n)

/-! ### Leaving a region (R24) -/

/-- No block holds work of the command any more. -/
def Region.vacate (q n : Nat) (g : Region) : Region :=
  { g with arrays := g.arrays.map (fun u => (u.1, match u.2.run with
             | some r => if r.q = q ∧ r.n = n then { u.2 with run := none, suspect := none, active := false, ramping := false } else u.2
             | none => u.2)),
           vectors := g.vectors.map (fun u => (u.1, { u.2 with users := u.2.users.filter (· != (q, n)) })),
           walk := g.walk.filter (fun w => !(w.q == q && w.n == n)) }

/-- No block, tower unit or copy engine holds work of the command any more. -/
def State.vacate (s : State) (q n : Nat) : State :=
  { s with regions := s.regions.map (fun g => (g.1, g.2.vacate q n)),
           tow := { s.tow with towers := s.tow.towers.map (fun t => (t.1, { t.2 with cmds := t.2.cmds.filter (· != (q, n)) })) },
           copy := s.copy.map (fun e => (e.1, match e.2.piece with
             | some p => if p.1 = q ∧ p.2.1 = n then { e.2 with piece := none } else e.2
             | none => e.2)) }

/-! ### Disabling and aborting (R365, R366) -/

/-- QUEUE_DISABLED (R353, R365): the queue is DISABLED, its CONTEXT record says so, and its records are dead. -/
def State.disableQueue (s : State) (q : Nat) : State :=
  let t := s.putQueue q { s.queue q with state := .disabled, stale := false, tries := 0 }
  let t := { t with jnl := { t.jnl with consume := t.jnl.consume.filter (· != q) }, fetches := t.fetches.filter (fun f => f.q != q),
                    ready := t.ready.filter (fun r => r.q != q) }
  if t.contextFits then t.appendDisabled q else t.oweContext q true

/-- A queue that drains or aborts is DISABLED once every accepted command has completed and nothing is left to accept (R340,
R365, R366). -/
def State.settleQueue (s : State) (q : Nat) : State :=
  let x := s.queue q
  let isOver := x.doneSeq + 1 == x.nextSeq && !s.cmds.any (fun c => c.q == q)
  if (x.state = .aborting ∧ isOver = true) ∨ (x.state = .draining ∧ isOver = true ∧ x.drainTail < x.nextSeq) then s.disableQueue q else s

/-- The state to return to after HELD: PARKED_STALE returns as ACTIVE (R367 step 7). -/
def resumeState : QState → QState
  | .draining => .draining | .aborting => .aborting | _ => .active

/-- AFTER_ALL, stated or implied. -/
def Cmd.afterAll (c : Cmd) : Bool := bitAt c.marks 31 || c.opcode == 0x801 || c.opcode == 0x804
/-- BLOCK_LATER, stated or implied. -/
def Cmd.blocksLater (c : Cmd) : Bool := bitAt c.marks 30 || c.opcode == 0x801 || c.opcode == 0x803 || c.opcode == 0x804
/-- The distances named, with 0 for none left out. -/
def Cmd.dists (c : Cmd) : List Nat := [bitsOf c.marks 11 0, bitsOf c.marks 23 12].filter (· != 0)

/-- The commands that the marks name: those at or above the queue's first sequence number. -/
def Cmd.named (c : Cmd) (first : Nat) : List Nat := (c.dists.filter (fun d => decide (first + d ≤ c.n))).map (fun d => c.n - d)

/-- Every mark is met, and no earlier command blocks. -/
def State.marksMet (s : State) (c : Cmd) : Bool :=
  let x := s.queue c.q
  (!c.afterAll || decide (c.n ≤ x.doneSeq + 1)) && (c.named x.firstSeq).all (fun m => decide (m ≤ x.doneSeq)) &&
  !s.cmds.any (fun d => d.q == c.q && decide (d.n < c.n) && d.blocksLater && !d.refused1)

/-- The command is to run again and has not started. -/
def Cmd.toRepeat (c : Cmd) : Bool := c.phase == .accepted && c.replayed && !c.refused1

/-- Replay of a queue is over but for commands that run: every completion record is written again, and every command without a
COMPLETE record has started, or stands behind one whose marks wait for a command that runs (R367 steps 5 and 6). -/
def State.replayStarted (s : State) (q : Nat) : Bool :=
  !s.cmds.any (fun c => c.q == q && ((c.phase == .journaled && !c.replayed) ||
    (c.toRepeat && s.marksMet c && !s.cmds.any (fun d => d.q == q && d.toRepeat && decide (d.n < c.n)))))

/-- A HELD queue returns to the state it held (R367 step 7). (DEDUCED, log entry 40). -/
def State.releaseHeld (s : State) (q : Nat) : State :=
  if s.jnl.state = .replaying ∧ (s.queue q).state = .held ∧ s.replayStarted q = true then
    (s.putQueue q { s.queue q with state := resumeState (s.queue q).heldFrom }).settleQueue q
  else s

/-- Every command run again after the reset has completed and no queue is HELD: the journal is LIVE (R367 step 7). -/
def State.settleReplay (s : State) : State :=
  if s.jnl.state = .replaying ∧ s.cmds.all (fun c => !c.replayed) = true ∧ s.queues.all (fun e => e.2.state != .held) = true then
    { s with jnl := { s.jnl with state := .live } }
  else s

/-- A command that has not passed its commit point is aborted (R366 step 2). -/
def Cmd.abort (c : Cmd) : Cmd := { c with phase := .ended, status := .abortedNotStarted, refused1 := false }

/-- The command can still be aborted: accepted to the end of R349, and not past its commit point. -/
def Cmd.abortable (c : Cmd) : Bool := !c.committed && c.mirrored && (c.phase == .accepted || c.phase == .started)

/-- ABORT of a queue (R366): fetching stops; what has not passed its commit point ends ABORTED_NOT_STARTED. -/
def State.abortQueue (s : State) (q : Nat) : State :=
  let gone := s.cmds.filter (fun c => c.q == q && c.abortable)
  let t := gone.foldl (fun t c => (t.vacate c.q c.n).dropThread c.q c.n) s
  let t := { t with cmds := t.cmds.map (fun (c : Cmd) => if c.q = q ∧ c.abortable = true then c.abort else c),
                    fetches := t.fetches.filter (fun f => f.q != q), ready := t.ready.filter (fun r => r.q != q) }
  (t.putQueue q { t.queue q with state := .aborting, stale := false }).settleQueue q

/-- ABORT fits the queue's state. -/
def QState.canAbort (x : QState) : Bool := x == .active || x == .parkedStale || x == .draining

end Sys2Proof.Machine
end

