-- ==== Sys2Proof/Machine/Sync.lean ====
section
/-! DEFINITION. The synchronisation commands: FENCE, SIGNAL, WAIT, WAIT_TIMEOUT (R360, R362). -/

namespace Sys2Proof.Machine

/-- Bytes of the inline area that a command does not use are zero, and it has no body (R341, R362). -/
def inlineOk (c : Cmd) (used : Nat) : Bool := c.bodyAddr == 0 && zeroAt c.desc (16 + used) (40 - used)

/-- ADDR, the value or target, and TIMEOUT. -/
def syAddr (c : Cmd) : Nat := fieldAt c.desc 16 8
def syValue (c : Cmd) : Nat := fieldAt c.desc 24 8
def syTimeout (c : Cmd) : Nat := fieldAt c.desc 32 4
/-- FENCE's paths. -/
def fnPaths (c : Cmd) : Nat := fieldAt c.desc 16 1

/-- FENCE's check. -/
def fenceCheck (_ : State) (c : Cmd) : Option Status := refuseUnless (inlineOk c 1 && decide (fnPaths c < 8)) none

/-- SIGNAL's check: an aligned address of any tier. -/
def signalCheck (s : State) (c : Cmd) : Option Status :=
  refuseUnless (inlineOk c 16 && syAddr c % 8 == 0 && (s.tierOf (syAddr c)).isSome) none

/-- WAIT's check: an aligned address in Ivory or Umber. -/
def waitCheck (s : State) (c : Cmd) : Option Status :=
  refuseUnless (inlineOk c 20 && syAddr c % 8 == 0 && (s.tierOf (syAddr c) == some .ivory || s.tierOf (syAddr c) == some .umber)) none

/-- Every earlier output is visible on a path: at once inside the module, when no write to Slate is outstanding on the link, and
when every module written to has acknowledged visibility (R360, R387). -/
def State.visible (s : State) (paths : Nat) : Bool :=
  (!bitAt paths 0 || !s.per.requests.any (·.write)) && (!bitAt paths 2 || s.lnk.unacked.isEmpty)

/-- FENCE. -/
def fenceOp : Op :=
  { check := fenceCheck, ranges := fun _ _ => [], total := fun _ _ => 1, unit := fun s c _ => .ok (s, c),
    finish := finishOk, outs := fun _ _ => [], pages := fun _ _ => [], ready := fun s c _ => s.visible (fnPaths c), weight := fun _ _ _ => 0 }

/-- SIGNAL: the word becomes the larger of its value and VALUE, unsigned. -/
def signalUnit (s : State) (c : Cmd) (_ : Nat) : Except Status (State × Cmd) := do
  let b ← s.readBytes (syAddr c) 8
  commitWrites s c ⟨[(syAddr c, natBytes 8 (max (leNat b) (syValue c)))], 0⟩

/-- SIGNAL. -/
def signalOp : Op :=
  { check := signalCheck, ranges := fun _ c => [(syAddr c, 8)], total := fun _ _ => 1, unit := signalUnit, finish := finishOk,
    outs := fun _ _ => [], pages := fun _ _ => [] }

/-- The word a WAIT watches has reached TARGET; a word that cannot be read ends the WAIT. -/
def waitReady (s : State) (c : Cmd) (_ : Nat) : Bool :=
  match s.readBytes (syAddr c) 8 with
  | .error _ => true
  | .ok b => decide (syValue c ≤ leNat b)

/-- WAIT. -/
def waitOp : Op :=
  { check := waitCheck, ranges := fun _ c => [(syAddr c, 8)], total := fun _ _ => 1,
    unit := fun s c _ => (s.readBytes (syAddr c) 8).map (fun _ => (s, c)), finish := finishOk, outs := fun _ _ => [],
    pages := fun _ _ => [], ready := waitReady, weight := fun _ _ _ => 0 }

/-- FENCE (R362). -/
def execFence (q n : Nat) (s : State) : Host.Outcome State Fault Refusal := .next (runRow fenceOp (Cmd.isOp 0x801) q n s)
/-- SIGNAL (R362). -/
def execSignal (q n : Nat) (s : State) : Host.Outcome State Fault Refusal := .next (runRow signalOp (Cmd.isOp 0x802) q n s)
/-- WAIT (R362). -/
def execWait (q n : Nat) (s : State) : Host.Outcome State Fault Refusal := .next (runRow waitOp (Cmd.isOp 0x803) q n s)

/-- WAIT_TIMEOUT (R362): a WAIT whose TIMEOUT expires first completes LIMIT. -/
def waitTimeout (q n : Nat) (s : State) : State :=
  match s.runnable q n (Cmd.isOp 0x803) with
  | none => s
  | some c => if syTimeout c = 0 ∨ waitReady s c 0 = true then s else s.putCmd { c with phase := .ended, status := .limit }

/-- WAIT_TIMEOUT. -/
def execWaitTimeout (q n : Nat) (s : State) : Host.Outcome State Fault Refusal := .next (waitTimeout q n s)

end Sys2Proof.Machine
end

