-- ==== Sys2Proof/Machine/Coll.lean ====
section
/-! DEFINITION. Collective groups and the commands that reach peers: COLL_GROUP, ALLREDUCE, REDUCE_SCATTER, ALLGATHER,
RING_SHIFT, PEER_PUT, and the messages between members (R384 to R399). -/

namespace Sys2Proof.Machine

/-! ### Groups (R388, R389) -/

/-- Group `g`. -/
def State.group (s : State) (g : Nat) : Group := tabGet {} s.lnk.groups g
/-- Group `g` replaced. -/
def State.putGroup (s : State) (g : Nat) (x : Group) : State := { s with lnk := { s.lnk with groups := tabSet {} s.lnk.groups g x } }

/-- COLL_GROUP's fields. -/
def cgOp (c : Cmd) : Nat := c.fld 0 1
def cgGroup (c : Cmd) : Nat := c.fld 2 2
def cgCount (c : Cmd) : Nat := c.fld 4 2

/-- The positions that a CREATE names. -/
def cgList (s : State) (c : Cmd) : Except Status (List Nat) := (s.readBytes (c.fld 8 8) (2 * cgCount c)).map (fun b => (pieces 2 b).map leNat)

/-- COLL_GROUP's checks. -/
def cgCheck (s : State) (c : Cmd) : Option Status :=
  refuseUnless ((cgOp c == 1 || cgOp c == 2) && c.zero 1 1 && c.zero 6 2 && c.zero 20 44 && decide (cgGroup c < 4096)) <|
  if cgOp c = 2 then refuseUnless (s.group (cgGroup c)).exist none
  else
    refuseUnless (decide (1 ≤ cgCount c) && decide (cgCount c ≤ 16384) && decide (c.fld 16 4 < 2 ^ 18) && !(s.group (cgGroup c)).exist) <|
    match cgList s c with
    | .error (.met .unmapped _) => some .malformed
    | .error st => some st
    | .ok ps => refuseUnless (ascending (ps.map Int.ofNat) && ps.all activePos && ps.contains s.lnk.position) none

/-- COLL_GROUP's one unit; a group that another command has made or ended meanwhile refuses it (R388). -/
def cgUnit (s : State) (c : Cmd) (_ : Nat) : Except Status (State × Cmd) :=
  if (s.group (cgGroup c)).exist = decide (cgOp c = 1) then .error .malformed
  else if cgOp c = 2 then .ok (s.putGroup (cgGroup c) {}, { c with committed := true, wroteLocal := true })
  else (cgList s c).map (fun ps =>
    (s.putGroup (cgGroup c) { exist := true, members := ps, rank := ps.idxOf s.lnk.position, owner := c.fld 16 4 },
     { c with committed := true, wroteLocal := true }))

/-- COLL_GROUP; DESTROY waits until the group has no command in flight. -/
def collGroupOp : Op :=
  { check := cgCheck, ranges := fun _ c => if cgOp c = 1 then [(c.fld 8 8, 2 * cgCount c)] else [], total := fun _ _ => 1, unit := cgUnit,
    finish := finishOk, outs := fun _ _ => [], pages := fun _ _ => [], ready := fun s c _ => cgOp c == 1 || (s.group (cgGroup c)).taken.isEmpty }

/-- COLL_GROUP CREATE (R388). -/
def execCollGroupCreate (q n : Nat) (s : State) : Host.Outcome State Fault Refusal := .next (runRow collGroupOp (Cmd.isSub 0x606 1) q n s)
/-- COLL_GROUP DESTROY (R388). -/
def execCollGroupDestroy (q n : Nat) (s : State) : Host.Outcome State Fault Refusal := .next (runRow collGroupOp (Cmd.isSub 0x606 2) q n s)

/-! ### The collective body (R391, R393, R394) -/

/-- The fields. -/
def clSrc (c : Cmd) : Tens := (c.tens 0).getD noTens
def clDst (c : Cmd) : Tens := (c.tens 64).getD noTens
def clGroup (c : Cmd) : Nat := c.fld 128 2
def clOp (c : Cmd) : Nat := c.fld 130 1
def clFlags (c : Cmd) : Nat := c.fld 131 1
def clStoch (c : Cmd) : Bool := bitAt (clFlags c) 0
def clReports (c : Cmd) : Bool := bitAt (clFlags c) 1
def clDir (c : Cmd) : Bool := bitAt (clFlags c) 2
def clInPlace (c : Cmd) : Bool := bitAt (clFlags c) 3
def clReport (c : Cmd) : Nat := c.fld 144 8
/-- E. -/
def clCount (c : Cmd) : Nat := (clSrc c).count
/-- A reduction. -/
def clReduces (c : Cmd) : Bool := c.opcode == 0x601 || c.opcode == 0x602

/-- L of R391 for `n` members. -/
def sliceLen (e n : Nat) : Nat := 32 * ceilDiv e (32 * n)
/-- Slice `r`: its first index and its length. -/
def sliceAt (e n r : Nat) : Nat × Nat := (r * sliceLen e n, min e ((r + 1) * sliceLen e n) - r * sliceLen e n)

/-- Formats a collective takes (R394). -/
def clFmtOk (F : Fmt) : Bool := [Fmt.fp64, .fp32, .bf16, .fp16, .sb8e, .sb8i, .int32].contains F

/-- DST's elements by the operation (R393). -/
def clDstOk (c : Cmd) (n r : Nat) : Bool :=
  let e := clCount c
  match c.opcode with
  | 0x602 => (clDst c).count == (sliceAt e n r).2 && decide (32 * n ≤ e)
  | 0x603 => (clDst c).count == n * e
  | _ => (clDst c).count == e

/-- The checks of a collective (R389, R391, R393, R394). -/
def clCheck (s : State) (c : Cmd) : Option Status :=
  let a := clSrc c
  let b := clDst c
  let g := s.group (clGroup c)
  refuseUnless ((c.tens 0).isSome && (c.tens 64).isSome && decide (clGroup c < 4096) && decide (clFlags c < 16) && c.zero 140 4 && c.zero 152 104 &&
    (if clReduces c then decide (clOp c ≤ 2) else clOp c == 0) && (!clReports c || clReport c % 32 == 0)) <|
  refuseUnless (a.comp == 0 && b.comp == 0 && clFmtOk a.fmt && clFmtOk b.fmt && s.tiersAgree [a, b] &&
    (if clReduces c then ((a.fmt == .int32) == (b.fmt == .int32)) else a.fmt == b.fmt && !clStoch c) &&
    (!a.fmt.isBlock || a.size 0 % 32 == 0) && (!b.fmt.isBlock || b.size 0 % 32 == 0)) <|
  refuseUnless (g.exist && g.owner == c.q && clDstOk c g.members.length g.rank) <|
  refuseUnless ((c.opcode == 0x601 && clInPlace c && sameTens a b) || !anyOverlap [b.range] [a.range]) <|
  if clStoch c ∧ 2 ^ 48 ≤ (clDst c).count then some .limit else none

/-- Its ranges. -/
def clRanges (_ : State) (c : Cmd) : List (Nat × Nat) := [(clSrc c).range, (clDst c).range] ++ (if clReports c then [(clReport c, 32)] else [])

/-! ### Values (R392) -/

/-- The value of element `i` of another member's SRC. -/
def peerValue (p : PeerTensor) (F : Fmt) (i : Nat) : Num :=
  let code := fieldAt p.elems (i * F.bytes) F.bytes
  if F.isBlock then decBlockElem F code (fieldAt p.scales (i / 32) 1) else decElem F code

/-- The combine format (R392). -/
def combineFmt : Fmt → Fmt
  | .fp64 => .fp64 | .int32 => .int32 | _ => .fp32

/-- Two values combined; an INT32 sum saturates and is counted (R116, R392). -/
def combineVals (F : Fmt) (op : Nat) (x y : Num × Nat) : Num × Nat :=
  let n := x.2 + y.2
  if op = 1 then (fMax x.1 y.1, n)
  else if op = 2 then (fMin x.1 y.1, n)
  else if F = .int32 then
    (let e := encInt .int32 .rne (x.1.add y.1)
     (decInt .int32 e.code, n + e.sat))
  else (addAt F x.1 y.1, n)

/-- Every member's SRC element `i`, in rank order. -/
def memberValues (s : State) (c : Cmd) (members : List PeerTensor) (i : Nat) : Except Status (List Num) :=
  let g := s.group c.coll.group
  (List.range g.members.length).mapM (fun r =>
    if r = g.rank then s.elem (clSrc c) i else .ok (peerValue (nth { elems := [] } members r) (clSrc c).fmt i))

/-- Element `i` of the reduction, before its conversion to DST. -/
def reduced (s : State) (c : Cmd) (members : List PeerTensor) (i : Nat) : Except Status (Num × Nat) := do
  let F := combineFmt (clSrc c).fmt
  let xs ← memberValues s c members i
  .ok (tree (combineVals F (clOp c)) (nZero, 0) (xs.map (fun x => (if F = .int32 then x else roundTo F x, 0))))

/-- A whole SRC element's bits, own or another member's, with its block's scale byte. -/
def rawElem (s : State) (c : Cmd) (p : Option PeerTensor) (i : Nat) : Except Status (Nat × Nat) :=
  let a := clSrc c
  match p with
  | some t => .ok (fieldAt t.elems (i * a.fmt.bytes) a.fmt.bytes, fieldAt t.scales (i / 32) 1)
  | none => do
    let code ← s.elemCode a (a.indices i)
    let sc ← (if a.fmt.isBlock then (s.readBytes (a.scaleAddr (a.indices i)) 1).map leNat else .ok 0)
    .ok (code, sc)

/-- Bits placed at DST index `j`. -/
def rawWrite (b : Tens) (j : Nat) (x : Nat × Nat) : Writes :=
  (b.addrOf (b.indices j), natBytes b.fmt.bytes x.1) :: (if b.fmt.isBlock && j % 32 == 0 then [(b.scaleAddr (b.indices j), natBytes 1 x.2)] else [])

/-- The rank whose SRC stands at DST index `j` of an ALLGATHER or RING_SHIFT, and the index there (R390, R393). -/
def sourceOf (c : Cmd) (n rank j : Nat) : Nat × Nat :=
  if c.opcode = 0x603 then (j / clCount c, j % clCount c)
  else ((if clDir c then rank + 1 else rank + n - 1) % n, j)

/-! ### Pieces (R396) -/

/-- Elements of DST in a piece of at most 1 MiB. -/
def clStep (c : Cmd) : Nat := 1048576 / (clDst c).fmt.bytes
/-- Pieces. -/
def clPieces (c : Cmd) : Nat := ceilDiv (clDst c).count (clStep c)

/-- The writes of DST elements `a` to `b − 1`. Every member counts the saturations of every element that its own DST takes, so that its
SAT_COUNT tells of its own output; the rules do not say which member counts an element that a slice's owner computed. (DESIGN CHOICE, log entry 78). -/
def clWrites (s : State) (c : Cmd) (members : List PeerTensor) (a b : Nat) : Except Status Packed :=
  let g := s.group c.coll.group
  let n := g.members.length
  let js := (List.range (b - a)).map (a + ·)
  if clReduces c then do
    let lo := if c.opcode = 0x602 then g.rank * sliceLen (clCount c) n else 0
    let xs ← js.mapM (fun j => reduced s c members (lo + j))
    let d := { s.draw c (clStoch c) (c.fld 132 4) (c.fld 136 4) 0x800 with base := lo }
    let p := packRun (clDst c) d a (xs.map (·.1))
    .ok { p with sat := p.sat + (xs.map (·.2)).sum }
  else do
    let ws ← js.mapM (fun j => do
      let o := sourceOf c n g.rank j
      let x ← rawElem s c (if o.1 = g.rank then none else some (nth { elems := [] } members o.1)) o.2
      .ok (rawWrite (clDst c) j x))
    .ok ⟨ws.flatten, 0⟩

/-- The other members. -/
def Group.others (g : Group) : List Nat := g.members.filter (fun p => p != nth 0 g.members g.rank)

/-- A message to each of some positions. -/
def State.tell (s : State) (ps : List Nat) (kind : String) (words : List Nat) (bytes : Bytes) : State :=
  ps.foldl (fun t p => t.sendPeer p kind words bytes) s

/-- Elements `lo` to `lo + k − 1` of a tensor as they go over the links: their bits, then their block scales. -/
def wireBytes (s : State) (t : Tens) (lo k : Nat) : Except Status Bytes := do
  let es ← (List.range k).mapM (fun i => s.elemCode t (t.indices (lo + i)))
  let scs ← (if t.fmt.isBlock then (List.range (ceilDiv k 32)).mapM (fun i => s.readBytes (t.scaleAddr (t.indices (lo + 32 * i))) 1) else .ok [])
  .ok (es.flatMap (fun e => natBytes t.fmt.bytes e) ++ scs.flatten)

/-- What this member sends before its first piece: its SRC's slice to each slice's owner, its SRC to every member of an ALLGATHER, or
round the ring (R392, R393). -/
def sendSrc (s : State) (c : Cmd) : Except Status State := do
  let g := s.group c.coll.group
  let n := g.members.length
  let give := fun (t : State) (r lo k : Nat) => (wireBytes t (clSrc c) lo k).map (fun b => t.sendPeer (nth 0 g.members r) "COLL_DATA" [c.coll.group, c.coll.number, lo] b)
  if n ≤ 1 then .ok s
  else if c.opcode = 0x604 then give s ((if clDir c then g.rank + n - 1 else g.rank + 1) % n) 0 (clCount c)
  else ((List.range n).filter (· != g.rank)).foldlM (fun t r =>
    let x := if c.opcode = 0x603 then (0, clCount c) else sliceAt (clCount c) n r
    give t r x.1 x.2) s

/-- After the last piece of an ALLREDUCE, the owner of a slice copies its results to the others (R392). -/
def sendResults (s : State) (c : Cmd) : Except Status State :=
  let g := s.group c.coll.group
  let x := sliceAt (clCount c) g.members.length g.rank
  if c.opcode ≠ 0x601 ∨ g.members.length ≤ 1 then .ok s
  else (wireBytes s (clDst c) x.1 x.2).map (fun b => s.tell g.others "COLL_RESULT" [c.coll.group, c.coll.number, x.1] b)

/-- One piece; after the last, this member reports its DST whole (R396). The unit after the pieces waits for every report. -/
def clUnit (members : List PeerTensor) (s : State) (c : Cmd) (k : Nat) : Except Status (State × Cmd) :=
  if clPieces c ≤ k then .ok (s, c)
  else do
    let n := (clDst c).count
    let p ← clWrites s c members (min n (k * clStep c)) (min n ((k + 1) * clStep c))
    let s ← (if k = 0 then sendSrc s c else .ok s)
    let (t, d) ← commitWrites s c p
    let t ← (if k + 1 = clPieces c then sendResults t c else .ok t)
    let g := s.group c.coll.group
    .ok (if k + 1 = clPieces c then t.tell g.others "COLL_REPORT" [c.coll.group, c.coll.number, g.rank] [] else t,
         { d with wrotePeer := d.wrotePeer || !g.others.isEmpty })

/-- A piece waits for the signature, the end for every member's report. -/
def clReady (s : State) (c : Cmd) (k : Nat) : Bool :=
  let g := s.group c.coll.group
  c.coll.signed && (decide (k < clPieces c) || (List.range g.members.length).all (fun r => r == g.rank || c.coll.reports.contains r))

/-- SRC's bytes, scales included, and those of some of its elements. -/
def bytesOf (F : Fmt) (k : Nat) : Nat := k * F.bytes + (if F.isBlock then ceilDiv k 32 else 0)

/-- Bytes sent and received (R394, R400). (DEDUCED, log entry 28). -/
def clTraffic (s : State) (c : Cmd) : Nat × Nat :=
  let g := s.group c.coll.group
  let n := g.members.length
  let e := clCount c
  let a := (clSrc c).fmt
  let b := (clDst c).fmt
  let own := (sliceAt e n g.rank).2
  if n ≤ 1 then (0, 0) else
  match c.opcode with
  | 0x601 => (bytesOf a (e - own) + (n - 1) * bytesOf b own, (n - 1) * bytesOf a own + bytesOf b (e - own))
  | 0x602 => (bytesOf a (e - own), (n - 1) * bytesOf a own)
  | 0x603 => ((n - 1) * bytesOf a e, (n - 1) * bytesOf a e)
  | _ => (bytesOf a e, bytesOf a e)

/-- The report (R394). -/
def clReportBytes (s : State) (c : Cmd) (silent : Nat) : Bytes :=
  natBytes 8 (clTraffic s c).1 ++ natBytes 8 (clTraffic s c).2 ++ natBytes 2 silent ++ natBytes 14 0

/-- The group's number is recorded as done, once (R396). -/
def State.recordDone (s : State) (g k : Nat) : State :=
  let x := s.group g
  if x.done.contains k then s else s.putGroup g { x with done := x.done ++ [k] }

/-- The end of a collective: its number is done. -/
def clFinish (s : State) (c : Cmd) : Except Status (State × Cmd) :=
  (writeReport s c (clReports c) (clReport c) (clReportBytes s c 0xFFFF)).map (fun r =>
    ((r.1.recordDone c.coll.group c.coll.number).count pgColl 0x1601 1, { r.2 with status := .ok }))

/-- The ranges a collective leaves undefined when it ends early. -/
def clOuts (_ : State) (c : Cmd) : List (Nat × Nat) := (clDst c).range :: (if clReports c then [(clReport c, 32)] else [])

/-- The report of a collective that ends early: the silent position, and byte counts that stay open once data has moved (R394). (DEDUCED, log entry 80). -/
def clLeave (silent : Nat) (s : State) (c : Cmd) : State × Cmd :=
  match writeReport s c (clReports c) (clReport c) (natBytes 16 0 ++ natBytes 2 silent ++ natBytes 14 0) with
  | .error _ => (s, c)
  | .ok r => (if clReports c && c.coll.signed then r.1.openRange (clReport c) 16 else r.1, r.2)

/-- A collective, with every member's SRC as the links delivered it. -/
def collOp (members : List PeerTensor) : Op :=
  { check := clCheck, ranges := clRanges, total := fun _ c => clPieces c + 1, unit := clUnit members, finish := clFinish, outs := clOuts,
    pages := fun _ _ => [pgColl], ready := clReady, weight := fun _ c k => bit (decide (k < clPieces c)),
    leave := fun s c st => if st.ends && c.phase == .started then clLeave 0xFFFF s c else (s, c) }

/-- What a member delivered has the size of SRC. -/
def peerFits (p : PeerTensor) (c : Cmd) : Bool :=
  p.elems.length == clCount c * (clSrc c).fmt.bytes && p.scales.length == (if (clSrc c).fmt.isBlock then ceilDiv (clCount c) 32 else 0)

/-- The data of every other member has arrived. -/
def delivered (s : State) (c : Cmd) (members : List PeerTensor) : Bool :=
  let g := s.group c.coll.group
  (List.range g.members.length).all (fun r => r == g.rank || (match members[r]? with | some p => peerFits p c | none => false))

/-- The neighbour's SRC in the place of its rank. -/
def ringMembers (s : State) (c : Cmd) (p : PeerTensor) : List PeerTensor := List.replicate (s.group c.coll.group).members.length p

/-- A collective's row: it runs once its peers' data has arrived; a replay that finds its number done needs none. -/
def collRow (code : Nat) (members : State → Cmd → List PeerTensor) (q n : Nat) (s : State) : State :=
  match s.runnable q n (Cmd.isOp code) with
  | none => s
  | some c =>
    if delivered s c (members s c) || (s.group c.coll.group).done.contains c.coll.number then runRow (collOp (members s c)) (Cmd.isOp code) q n s else s

/-- ALLREDUCE (R393). -/
def execAllreduce (q n : Nat) (members : List PeerTensor) (s : State) : Host.Outcome State Fault Refusal :=
  .next (collRow 0x601 (fun _ _ => members) q n s)
/-- REDUCE_SCATTER (R393). -/
def execReduceScatter (q n : Nat) (members : List PeerTensor) (s : State) : Host.Outcome State Fault Refusal :=
  .next (collRow 0x602 (fun _ _ => members) q n s)
/-- ALLGATHER (R393). -/
def execAllgather (q n : Nat) (members : List PeerTensor) (s : State) : Host.Outcome State Fault Refusal :=
  .next (collRow 0x603 (fun _ _ => members) q n s)
/-- RING_SHIFT (R390, R393). -/
def execRingShift (q n : Nat) (neighbour : PeerTensor) (s : State) : Host.Outcome State Fault Refusal :=
  .next (collRow 0x604 (fun s c => ringMembers s c neighbour) q n s)

/-- COLLECTIVE_PIECE_COMMIT (R396): a piece commits, unless the throttle level pauses the boundary (R435); nothing stops a collective there. -/
def collectivePiece (q n : Nat) (members : List PeerTensor) (b : Boundary) (s : State) : State :=
  match s.runnable q n (fun c => decide (0x601 ≤ c.opcode) && decide (c.opcode ≤ 0x604)) with
  | none => s
  | some c =>
    if !delivered s c members then s else
    if b = .throttle ∧ 9 ≤ s.gov.throttle then s else
    let r := (collOp members).runOne s c
    r.1.putCmd r.2

/-- COLLECTIVE_PIECE_COMMIT. -/
def execCollectivePieceCommit (q n : Nat) (members : List PeerTensor) (boundary : Boundary) (s : State) : Host.Outcome State Fault Refusal :=
  .next (collectivePiece q n members boundary s)

/-! ### Signatures, reports, silence, restarts (R390, R395 to R398) -/

/-- The 32-byte signature of a collective or a ring attention (R390, R395; the layout is log entry 18's). (DESIGN CHOICE, log entry 18). -/
def collSignature (c : Cmd) : Bytes :=
  if c.opcode = 0x401 then
    (match c.att with
     | some a => natBytes 2 c.opcode ++ natBytes 6 0 ++ natBytes 8 a.chunk ++ natBytes 8 a.ringSize ++ natBytes 8 c.coll.number
     | none => natBytes 32 0)
  else
    natBytes 2 c.opcode ++ natBytes 1 (clOp c) ++ natBytes 1 (fieldAt c.body 8 1) ++ natBytes 1 (fieldAt c.body 72 1) ++
    natBytes 1 (bit (clInPlace c) + 2 * bit (clDir c)) ++ natBytes 2 0 ++ natBytes 8 (clCount c) ++ natBytes 8 (clDst c).count ++ natBytes 8 c.coll.number

/-- Rank 0 sends its signature to every member; a group of one needs none (R389, R395). -/
def openSignature (s : State) (c : Cmd) : State × Cmd :=
  let g := s.group c.coll.group
  if g.others.isEmpty then (s, { c with coll := { c.coll with signed := true } })
  else if g.rank = 0 then (s.tell g.others "COLL_SIGNATURE" [c.coll.group, c.coll.number] (collSignature c), c)
  else (s, c)

/-- A command that runs again from its first unit, with its counts (R386, R398). -/
def Cmd.afresh (c : Cmd) : Cmd := { c with done := [], sat := 0, units := 0, counts := [] }

/-- A collective's start: its number; a number already done completes at once; a replay restarts the others (R389, R396, R398). -/
def collStart (s : State) (c : Cmd) : Start :=
  let (s, c) := takeNumber s c (clGroup c)
  let g := s.group c.coll.group
  if g.done.contains c.coll.number then
    .go s { c with done := List.range (clPieces c + 1), coll := { c.coll with signed := true } }
  else
    let again := c.replayed && !s.jnl.afterCold
    let s := if again then (s.tell g.others "RESTART" [c.coll.group, c.coll.number] []).count pgColl 0x1602 1 else s
    let c := if again then c.afresh else c
    .go (openSignature s c).1 (openSignature s c).2

/-- The command whose signature a member awaits under a command in flight: itself, or a stream program's RUN. -/
def awaitsSignature (c : Cmd) : Bool :=
  ((decide (0x601 ≤ c.opcode) && decide (c.opcode ≤ 0x604)) || c.isRing) && !c.coll.signed

/-- The command in a thread's body slot, with the number that its STREAM has taken for it. -/
def pendingRun (c : Cmd) (t : Thread) : Cmd := { t.running.getD c with coll := c.coll }

/-- COLL_SIGNATURE_RECEIVE (R395): rank 0's signature has been compared along the group. A difference ends the collective with
CHECK_FAIL and writes nothing. -/
def signatureReceive (q n : Nat) (sig : Bytes) (s : State) : State :=
  match s.runnable q n (fun c => awaitsSignature c || c.opcode == 0x105) with
  | none => s
  | some c =>
    if awaitsSignature c then
      if sig = collSignature c then s.putCmd { c with coll := { c.coll with signed := true } }
      else
        let r := if c.isRing then (attnOp []).leave s c .checkFail else clLeave 0xFFFF s c
        r.1.endCmd pgColl r.2 .checkFail
    else
      match s.thread? q n with
      | none => s
      | some t =>
        if !t.armed || c.coll.signed then s
        else if sig = collSignature (pendingRun c t) then s.putCmd { c with coll := { c.coll with signed := true } }
        else
          let r := (attnOp []).leave (s.noteStop pgColl .checkFail) { pendingRun c t with phase := .started } .checkFail
          runEnds r.1 c r.2 t .checkFail

/-- COLL_SIGNATURE_RECEIVE. -/
def execCollSignatureReceive (q n : Nat) (signature : Bytes) (s : State) : Host.Outcome State Fault Refusal :=
  .next (signatureReceive q n signature s)

/-- COLL_REPORT_RECEIVE (R396): a member reports its DST whole; with the last report the collective completes. -/
def reportReceive (q n rank : Nat) (s : State) : State :=
  match s.runnable q n (fun c => decide (0x601 ≤ c.opcode) && decide (c.opcode ≤ 0x604)) with
  | none => s
  | some c =>
    let d := { c with coll := { c.coll with reports := insertNat rank c.coll.reports } }
    let left := (List.range (clPieces c)).all (fun k => d.done.contains k)
    if left && clReady s d (clPieces c) then
      (let r := (collOp []).runSome [clPieces c] s d
       r.1.putCmd r.2)
    else s.putCmd d

/-- COLL_REPORT_RECEIVE. -/
def execCollReportReceive (q n rank : Nat) (s : State) : Host.Outcome State Fault Refusal := .next (reportReceive q n rank s)

/-- Commands that need a peer. -/
def needsPeer (c : Cmd) : Bool := (decide (0x601 ≤ c.opcode) && decide (c.opcode ≤ 0x605)) || c.isRing

/-- LIMIT because position `p` does not answer: DST is undefined and the report names it (R397). -/
def endSilent (s : State) (c : Cmd) (p : Nat) : State :=
  if 0x601 ≤ c.opcode ∧ c.opcode ≤ 0x604 then
    (let t := s.openRange (clDst c).range.1 (clDst c).range.2
     let r := clLeave p t c
     r.1.putCmd { r.2 with phase := .ended, status := .limit })
  else
    let outs := if c.isRing then attOuts s c else []
    let t := outs.foldl (fun t r => t.openRange r.1 r.2) s
    let r := if c.isRing then (attnOp []).leave t c .limit else (t, c)
    r.1.putCmd { r.2 with phase := .ended, status := .limit }

/-- Positions that a command needs; none once its number is recorded as done (R396). -/
def needsOf (s : State) (c : Cmd) : List Nat :=
  if c.opcode = 0x605 then [c.fld 24 2]
  else if needsPeer c && !(s.group c.coll.group).done.contains c.coll.number then (s.group c.coll.group).others
  else []

/-- The first position a command needs that no link leads to (R383). -/
def State.unreached (s : State) (c : Cmd) : Option Nat := (needsOf s c).find? (fun p => !s.reaches p)

/-- A command in flight that cannot reach a position it needs completes at once (R383, R397). -/
def State.endUnreached (s : State) (q n : Nat) : State :=
  match s.runnable q n needsPeer with
  | none => s
  | some c => match s.unreached c with | some p => endSilent s c p | none => s

/-- A STREAM's RUN of a ring attention completes LIMIT, its outputs undefined (R326, R390, R397). -/
def runSilent (s : State) (c : Cmd) (t : Thread) : State :=
  let r := (attnOp []).leave ((attOuts s (pendingRun c t)).foldl (fun u r => u.openRange r.1 r.2) s) (pendingRun c t) .limit
  runEnds r.1 c r.2 t .limit

/-- The RUN a STREAM's thread waits in is a ring attention that holds its number. -/
def ringWaits (s : State) (q n : Nat) : Option (Cmd × Thread) :=
  match s.runnable q n (Cmd.isOp 0x105), s.thread? q n with
  | some c, some t => if t.armed then some (c, t) else none
  | _, _ => none

/-- So with a STREAM's RUN. -/
def State.endRunUnreached (s : State) (q n : Nat) : State :=
  match ringWaits s q n with
  | none => s
  | some e => if (s.unreached (pendingRun e.1 e.2)).isSome then runSilent s e.1 e.2 else s

/-- COLL_PEER_TIMEOUT (R397): of a position that the command needs. -/
def execCollPeerTimeout (q n position : Nat) (s : State) : Host.Outcome State Fault Refusal :=
  .next (match s.runnable q n needsPeer with
    | none => (match ringWaits s q n with
      | some e => if (needsOf s (pendingRun e.1 e.2)).contains position then runSilent s e.1 e.2 else s
      | none => s)
    | some c => if (needsOf s c).contains position then endSilent s c position else s)

/-- COLL_RESTART_RECEIVE (R398): a member that has not recorded the number as done runs the collective again from the
signature; what it has committed has the same bits. -/
def restartReceive (group number : Nat) (s : State) : State :=
  match s.cmds.find? (fun c => c.phase == .started && decide (0x601 ≤ c.opcode) && decide (c.opcode ≤ 0x604) && c.coll.group == group && c.coll.number == number) with
  | none => s
  | some c =>
    if !s.alive || (s.group group).done.contains number then s else
    let d := { c.afresh with coll := { group := group, number := number, restarted := true } }
    ((openSignature s d).1.putCmd (openSignature s d).2).count pgColl 0x1602 1

/-- COLL_RESTART_RECEIVE. -/
def execCollRestartReceive (group number : Nat) (s : State) : Host.Outcome State Fault Refusal := .next (restartReceive group number s)

/-! ### PEER_PUT (R386, R387) -/

/-- The fields. -/
def ppSrc (c : Cmd) : Nat := c.fld 0 8
def ppDst (c : Cmd) : Nat := c.fld 8 8
def ppLen (c : Cmd) : Nat := c.fld 16 8
def ppPos (c : Cmd) : Nat := c.fld 24 2
def ppFlag (c : Cmd) : Bool := bitAt (c.fld 26 2) 0

/-- PEER_PUT's checks. -/
def ppCheck (s : State) (c : Cmd) : Option Status :=
  refuseUnless (decide (1 ≤ ppLen c) && decide (ppLen c ≤ 2 ^ 40) && decide (c.fld 26 2 < 2) && c.zero 28 4 && c.zero 48 16 &&
    ppPos c != s.lnk.position && (!ppFlag c || c.fld 32 8 % 8 == 0)) none

/-- A module has been written to, and has not acknowledged that the bytes are visible (R387). -/
def State.owesAck (s : State) (p : Nat) : State :=
  if s.lnk.unacked.contains p then s else { s with lnk := { s.lnk with unacked := s.lnk.unacked ++ [p] } }

/-- One chunk of 256,000 bytes, and FLAG behind the last (R372, R386); a peer that cannot be reached ends it LIMIT. Count 0. -/
def ppUnit (s : State) (c : Cmd) (k : Nat) : Except Status (State × Cmd) :=
  if !s.reaches (ppPos c) || 0 < c.cnt 0 then .ok (s, if c.cnt 0 = 0 then c.addCnt 0 1 else c)
  else do
    let off := 256000 * k
    let bs ← s.readBytes (ppSrc c + off) (min 256000 (ppLen c - off))
    let t := (s.sendPeer (ppPos c) "PUT" [ppDst c + off] bs).owesAck (ppPos c)
    .ok (if ppFlag c ∧ k + 1 = ceilDiv (ppLen c) 256000 then t.sendPeer (ppPos c) "FLAG" [c.fld 32 8, c.fld 40 8] [] else t,
         { c with committed := true, wrotePeer := true })

/-- PEER_PUT. -/
def peerPutOp : Op :=
  { check := ppCheck, ranges := fun _ c => [(ppSrc c, ppLen c)], total := fun _ c => ceilDiv (ppLen c) 256000, unit := ppUnit,
    finish := fun s c => .ok (s, { c with status := if 0 < c.cnt 0 then .limit else .ok }), outs := fun _ _ => [], pages := fun _ _ => [pgColl] }

/-- PEER_PUT (R386). -/
def execPeerPut (q n : Nat) (s : State) : Host.Outcome State Fault Refusal := .next (runRow peerPutOp (Cmd.isOp 0x605) q n s)

/-- What a command that reaches a peer runs. -/
def peerOp (c : Cmd) : Op :=
  if 0x601 ≤ c.opcode ∧ c.opcode ≤ 0x604 then collOp [] else if c.opcode = 0x605 then peerPutOp else if c.isRing then attnOp [] else shardOp c

/-- PEER_REFUSAL_RECEIVE (R385): the target refused; the sending command ends, and its error record gives the target and the
address. -/
def refusalReceive (q n : Nat) (unmapped : Bool) (addr : Nat) (s : State) : State :=
  match s.cmd? q n with
  | none => s
  | some c =>
    if !s.alive || !(c.phase == .started || c.phase == .ended) || !(needsPeer c || c.opcode == 0x507) then s else
    let st := if unmapped then Status.unmapped else .windowFault
    let e := (peerOp c).quit (s.record pgColl .contained addr) c st
    e.1.putCmd e.2

/-- PEER_REFUSAL_RECEIVE. -/
def execPeerRefusalReceive (q n : Nat) (unmapped : Bool) (target addr : Nat) (s : State) : Host.Outcome State Fault Refusal :=
  .next (if target = s.lnk.position then s else refusalReceive q n unmapped addr s)

/-- The opcodes of this chapter (R386, R388, R393); a PEER_PUT that is replayed sends every chunk again (R386). -/
def collReg (code : Nat) : Option Reg :=
  if 0x601 ≤ code ∧ code ≤ 0x604 then some { op := collOp [], len := some 256, start := collStart }
  else if code = 0x605 then some { op := peerPutOp, len := some 64, start := fun s c => .go s (if c.replayed then c.afresh else c) }
  else if code = 0x606 then some { op := collGroupOp, len := some 64 }
  else none

end Sys2Proof.Machine
end

