-- ==== Sys2Proof/Machine/Crypto.lean ====
section
/-! DEFINITION. The published standards that the spec names for hashes and signatures: SHA-512 and Ed25519 (R417, R455 to R457,
R469; log entry 13). -/

namespace Sys2Proof.Machine

/-! ### SHA-512 -/

/-- The words of a number that packs `n` of them, the first one highest. -/
def packedWords (n v : Nat) : List Word := (List.range n).map (fun i => BitVec.ofNat 64 (v >>> (64 * (n - 1 - i))))

/-- The round constants, ten to a number: 64 bits of the fraction of the cube root of each of the first 80 primes. -/
def shaFractions : List Nat :=
  [0x428a2f98d728ae227137449123ef65cdb5c0fbcfec4d3b2fe9b5dba58189dbbc3956c25bf348b53859f111f1b605d019923f82a4af194f9bab1c5ed5da6d8118d807aa98a303024212835b0145706fbe,
   0x243185be4ee4b28c550c7dc3d5ffb4e272be5d74f27b896f80deb1fe3b1696b19bdc06a725c71235c19bf174cf692694e49b69c19ef14ad2efbe4786384f25e30fc19dc68b8cd5b5240ca1cc77ac9c65,
   0x2de92c6f592b02754a7484aa6ea6e4835cb0a9dcbd41fbd476f988da831153b5983e5152ee66dfaba831c66d2db43210b00327c898fb213fbf597fc7beef0ee4c6e00bf33da88fc2d5a79147930aa725,
   0x06ca6351e003826f142929670a0e6e7027b70a8546d22ffc2e1b21385c26c9264d2c6dfc5ac42aed53380d139d95b3df650a73548baf63de766a0abb3c77b2a881c2c92e47edaee692722c851482353b,
   0xa2bfe8a14cf10364a81a664bbc423001c24b8b70d0f89791c76c51a30654be30d192e819d6ef5218d69906245565a910f40e35855771202a106aa07032bbd1b819a4c116b8d2d0c81e376c085141ab53,
   0x2748774cdf8eeb9934b0bcb5e19b48a8391c0cb3c5c95a634ed8aa4ae3418acb5b9cca4f7763e373682e6ff3d6b2b8a3748f82ee5defb2fc78a5636f43172f6084c87814a1f0ab728cc702081a6439ec,
   0x90befffa23631e28a4506cebde82bde9bef9a3f7b2c67915c67178f2e372532bca273eceea26619cd186b8c721c0c207eada7dd6cde0eb1ef57d4f7fee6ed17806f067aa72176fba0a637dc5a2c898a6,
   0x113f9804bef90dae1b710b35131c471b28db77f523047d8432caab7b40c724933c9ebe0a15c9bebc431d67c49c100d4c4cc5d4becb3e42b6597f299cfc657e2a5fcb6fab3ad6faec6c44198c4a475817]
/-- The round constants. -/
def shaRounds : List Word := shaFractions.flatMap (packedWords 10)
/-- The initial hash value: the square roots' fractions of the first eight primes. -/
def shaInit : List Word := packedWords 8 0x6a09e667f3bcc908bb67ae8584caa73b3c6ef372fe94f82ba54ff53a5f1d36f1510e527fade682d19b05688c2b3e6c1f1f83d9abfb41bd6b5be0cd19137e2179

/-- A word turned right. -/
def rotr (k : Nat) (x : Word) : Word := x.rotateRight k

/-- The message schedule, newest word first, from the 16 words of a block. -/
def shaSchedule : Nat → List Word → List Word
  | 0, ws => ws
  | k + 1, ws =>
    let x := nth 0 ws 14
    let y := nth 0 ws 1
    let s0 := rotr 1 x ^^^ rotr 8 x ^^^ (x >>> 7)
    let s1 := rotr 19 y ^^^ rotr 61 y ^^^ (y >>> 6)
    shaSchedule k ((s1 + nth 0 ws 6 + s0 + nth 0 ws 15) :: ws)

/-- The eight working words. -/
structure Sha where
  a : Word
  b : Word
  c : Word
  d : Word
  e : Word
  f : Word
  g : Word
  h : Word

/-- One round. -/
def Sha.round (v : Sha) (kw : Word × Word) : Sha :=
  let t1 := v.h + (rotr 14 v.e ^^^ rotr 18 v.e ^^^ rotr 41 v.e) + ((v.e &&& v.f) ^^^ (~~~v.e &&& v.g)) + kw.1 + kw.2
  let t2 := (rotr 28 v.a ^^^ rotr 34 v.a ^^^ rotr 39 v.a) + ((v.a &&& v.b) ^^^ (v.a &&& v.c) ^^^ (v.b &&& v.c))
  { a := t1 + t2, b := v.a, c := v.b, d := v.c, e := v.d + t1, f := v.e, g := v.f, h := v.g }

/-- The words of a state. -/
def Sha.words (v : Sha) : List Word := [v.a, v.b, v.c, v.d, v.e, v.f, v.g, v.h]

/-- The state of eight words. -/
def shaOf (w : List Word) : Sha :=
  { a := nth 0 w 0, b := nth 0 w 1, c := nth 0 w 2, d := nth 0 w 3, e := nth 0 w 4, f := nth 0 w 5, g := nth 0 w 6, h := nth 0 w 7 }

/-- A big-endian number. -/
def beNat (bs : Bytes) : Nat := leNat bs.reverse
/-- Big-endian bytes. -/
def beBytes (n v : Nat) : Bytes := (natBytes n v).reverse

/-- One block of 128 bytes. -/
def shaBlock (h : List Word) (block : Bytes) : List Word :=
  let ws := (shaSchedule 64 ((pieces 8 block).map (fun b => BitVec.ofNat 64 (beNat b))).reverse).reverse
  let v := (shaRounds.zip ws).foldl Sha.round (shaOf h)
  (h.zip v.words).map (fun p => p.1 + p.2)

/-- SHA-512. (PRESUMED, log entry 13). -/
def sha512 (m : Bytes) : Bytes :=
  let pad := (128 - (m.length + 17) % 128) % 128
  let msg := m ++ [0x80] ++ List.replicate pad 0 ++ beBytes 16 (8 * m.length)
  ((pieces 128 msg).foldl shaBlock shaInit).flatMap (fun w => beBytes 8 w.toNat)

/-! ### Ed25519 -/

/-- The field's prime. -/
def edP : Nat := 2 ^ 255 - 19
/-- The order of the base point. -/
def edL : Nat := 2 ^ 252 + 27742317777372353535851937790883648493

/-- `x` to the power `e` modulo `edP`; `fuel` bounds the bits of `e`. -/
def edPow : Nat → Nat → Nat → Nat
  | 0, _, _ => 1
  | f + 1, x, e => (if e % 2 = 1 then x else 1) * edPow f (x * x % edP) (e / 2) % edP

/-- The inverse in the field. -/
def edInv (x : Nat) : Nat := edPow 255 x (edP - 2)
/-- The curve's d. -/
def edD : Nat := (edP - 121665) * edInv 121666 % edP

/-- A point in extended coordinates. -/
structure EdPoint where
  x : Nat
  y : Nat
  z : Nat
  t : Nat

/-- The neutral point. -/
def edZero : EdPoint := ⟨0, 1, 1, 0⟩

/-- The difference in the field. -/
def edSub (a b : Nat) : Nat := (a + edP - b) % edP

/-- The sum of two points. -/
def edAdd (p q : EdPoint) : EdPoint :=
  let a := edSub p.y p.x * edSub q.y q.x % edP
  let b := (p.y + p.x) * (q.y + q.x) % edP
  let c := 2 * p.t * q.t * edD % edP
  let d := 2 * p.z * q.z % edP
  let e := edSub b a
  let f := edSub d c
  let g := (d + c) % edP
  let h := (b + a) % edP
  ⟨e * f % edP, g * h % edP, f * g % edP, e * h % edP⟩

/-- `k` times a point; `fuel` bounds the bits of `k`. -/
def edMul : Nat → Nat → EdPoint → EdPoint
  | 0, _, _ => edZero
  | f + 1, k, p => (if k % 2 = 1 then edAdd p (edMul f (k / 2) (edAdd p p)) else edMul f (k / 2) (edAdd p p))

/-- The x of a y, with the sign bit; `none` off the curve. -/
def edRecover (y sign : Nat) : Option Nat :=
  if edP ≤ y then none else
  let x2 := edSub (y * y) 1 * edInv (edD * (y * y) + 1) % edP
  let x := edPow 255 x2 ((edP + 3) / 8)
  let x := if x * x % edP = x2 then x else x * edPow 255 2 ((edP - 1) / 4) % edP
  if x * x % edP ≠ x2 then none
  else if x = 0 ∧ sign = 1 then none
  else some (if x % 2 = sign then x else (edP - x) % edP)

/-- The point of 32 bytes. -/
def edDecode (bs : Bytes) : Option EdPoint :=
  let v := leNat bs
  let y := v % 2 ^ 255
  (edRecover y (v / 2 ^ 255 % 2)).map (fun x => ⟨x, y, 1, x * y % edP⟩)

/-- The 32 bytes of a point. -/
def edEncode (p : EdPoint) : Bytes :=
  let i := edInv p.z
  natBytes 32 (p.y * i % edP + p.x * i % edP % 2 * 2 ^ 255)

/-- The base point. -/
def edBase : EdPoint :=
  let y := 4 * edInv 5 % edP
  let x := (edRecover y 0).getD 0
  ⟨x, y, 1, x * y % edP⟩

/-- The secret scalar of a seed. -/
def edScalar (seed : Bytes) : Nat :=
  let a := leNat (sliceOf (sha512 seed) 0 32)
  2 ^ 254 + a % 2 ^ 254 / 8 * 8

/-- The public key of a seed. -/
def edPublic (seed : Bytes) : Bytes := edEncode (edMul 256 (edScalar seed) edBase)

/-- The signature of a message by a seed. -/
def edSign (seed m : Bytes) : Bytes :=
  let pk := edPublic seed
  let r := leNat (sha512 (sliceOf (sha512 seed) 32 32 ++ m)) % edL
  let rb := edEncode (edMul 256 r edBase)
  let k := leNat (sha512 (rb ++ pk ++ m)) % edL
  rb ++ natBytes 32 ((r + k * edScalar seed) % edL)

/-- A signature of a message verifies under a public key. (PRESUMED, log entry 13). -/
def edVerify (pk m sig : Bytes) : Bool :=
  let s := leNat (sliceOf sig 32 32)
  match edDecode pk, edDecode (sliceOf sig 0 32) with
  | some a, some r =>
    let k := leNat (sha512 (sliceOf sig 0 32 ++ pk ++ m)) % edL
    decide (sig.length = 64) && decide (pk.length = 32) && decide (s < edL) &&
    edEncode (edMul 256 s edBase) == edEncode (edAdd r (edMul 256 k a))
  | _, _ => false

/-! ### The identity key (R456) -/

/-- The ASCII bytes "virgaod identity". -/
def identityText : Bytes := [0x76, 0x69, 0x72, 0x67, 0x61, 0x6F, 0x64, 0x20, 0x69, 0x64, 0x65, 0x6E, 0x74, 0x69, 0x74, 0x79]

/-- The private seed that the fused identity seed gives. -/
def privateSeed (fused : Bytes) : Bytes := sliceOf (sha512 (fused ++ identityText)) 0 32

end Sys2Proof.Machine
end

