-- ==== Sys2Proof/Machine/Firmware.lean ====
section
/-! DEFINITION. Firmware images, the flash banks and their update: FW_STAGE, FW_STAGE_DONE, FW_ACTIVATE, FW_COMMIT_SVN (R455,
R462, R472). -/

namespace Sys2Proof.Machine

/-! ### Images (R455) -/

/-- The fields of an image's header. -/
def imMagic (b : Bytes) : Nat := fieldAt b 0 4
def imTarget (b : Bytes) : Nat := fieldAt b 4 1
def imKey (b : Bytes) : Nat := fieldAt b 5 1
def imCompat (b : Bytes) : Nat := fieldAt b 6 2
def imVersion (b : Bytes) : Nat := fieldAt b 8 4
def imSvn (b : Bytes) : Nat := fieldAt b 12 4
def imLength (b : Bytes) : Nat := fieldAt b 16 8
def imDigest (b : Bytes) : Bytes := sliceOf b 24 64

/-- The header alone. -/
def imHeader (b : Bytes) : Bytes := sliceOf b 0 256

/-- Why an image is not valid for a TARGET, coded as FW_STS.FAIL; `none`: valid (R455, R472). (DESIGN CHOICE, log entry 30). -/
def imFail (k : Boot) (target : Nat) (b : Bytes) : Option Nat :=
  if b.length < 256 ∨ imMagic b ≠ 0x57464756 ∨ imTarget b ≠ target then some 4
  else if 3 < imKey b ∨ k.vendorRevoked.contains (imKey b) = true ∨
      edVerify (nth [] k.vendorKeys (imKey b)) (sliceOf b 0 88) (sliceOf b 88 64) = false then some 1
  else if (b.drop 256).length ≠ imLength b ∨ sha512 (b.drop 256) ≠ imDigest b then some 2
  else if imSvn b < k.svnMin then some 3
  else none

/-- The image of a TARGET in a bank. -/
def Boot.image (k : Boot) (bank target : Nat) : Bytes := tabGet [] k.flash (4 * bank + target)

/-- That image is valid. -/
def Boot.imageOk (k : Boot) (bank target : Nat) : Bool := (imFail k target (k.image bank target)).isNone

/-! ### The update (R462) -/

/-- A flash bank's 32 MiB (R455). -/
def bankBytes : Nat := 33554432

/-- The bundle at FW_LOAD_ADDR: three images one after another, of the service region, the regions and the tower units. (DESIGN CHOICE, log entry 30). -/
def State.bundleFrom (s : State) (a : Nat) : Except Status (List Bytes) := do
  let one (a : Nat) : Except Status Bytes := do
    let h ← s.readBytes a 256
    if bankBytes < imLength h then .error .malformed else s.readBytes a (256 + imLength h)
  let x ← one a
  let y ← one (a + x.length)
  let z ← one (a + x.length + y.length)
  .ok [x, y, z]

/-- FW_STS changed. -/
def State.fwIs (s : State) (st fail : Nat) : State := { s with boot := { s.boot with fwState := st, fwFail := fail } }

/-- FW_STAGE: the bundle is taken; FW_STAGE_DONE ends it. -/
def fwStage (s : State) : State := if s.alive then s.fwIs 1 0 else s

/-- FW_STAGE_DONE: every image is verified, and the bank that is not preferred is written and read back; a bundle that no bank holds
cannot be (FAIL 5). (DESIGN CHOICE, log entry 30). -/
def fwStageDone (flashOk : Bool) (s : State) : State :=
  if !s.alive || s.boot.fwState != 1 then s else
  match s.bundleFrom (s.boot.fwLoadAddr * 4096) with
  | .error _ => s.fwIs 3 2
  | .ok images =>
    match (images.zipIdx.map (fun x => imFail s.boot (x.2 + 1) x.1)).find? Option.isSome with
    | some f => s.fwIs 3 (f.getD 0)
    | none =>
      if !flashOk || decide (bankBytes < (images.map List.length).sum) then s.fwIs 3 5
      else
        let bank := 1 - s.boot.preferred
        let flash := (images.zipIdx).foldl (fun t x => tabSet [] t (4 * bank + x.2 + 1) x.1) s.boot.flash
        ({ s with boot := { s.boot with flash := flash } }).fwIs 2 0

/-- FW_ACTIVATE: the staged bank becomes preferred; another COMPAT than the running service image's is refused with FAIL 6. -/
def fwActivate (s : State) : State :=
  if !s.answers then s
  else if s.boot.fwState ≠ 2 then s.badWrite pgBoot 0x130
  else
    let bank := 1 - s.boot.preferred
    if imCompat (s.boot.image bank 1) ≠ imCompat s.boot.fw then { s with boot := { s.boot with fwFail := 6 } }
    else { s with boot := { s.boot with preferred := bank, fwState := 0 } }

/-- A bank's SVN: the lowest of its images' (log entry 30). -/
def Boot.bankSvn (k : Boot) (bank : Nat) : Nat := min (imSvn (k.image bank 1)) (min (imSvn (k.image bank 2)) (imSvn (k.image bank 3)))

/-- FW_COMMIT_SVN: the fused minimum rises to the preferred bank's SVN. -/
def fwCommitSvn (s : State) : State :=
  if !s.answers then s
  else { s with boot := { s.boot with svnMin := max s.boot.svnMin (s.boot.bankSvn s.boot.preferred) } }

/-- FW_STAGE. -/
def execFwStage (s : State) : Host.Outcome State Fault Refusal := .next (fwStage s)
/-- FW_STAGE_DONE. -/
def execFwStageDone (flashOk : Bool) (s : State) : Host.Outcome State Fault Refusal := .next (fwStageDone flashOk s)
/-- FW_ACTIVATE. -/
def execFwActivate (s : State) : Host.Outcome State Fault Refusal := .next (fwActivate s)
/-- FW_COMMIT_SVN. -/
def execFwCommitSvn (s : State) : Host.Outcome State Fault Refusal := .next (fwCommitSvn s)

end Sys2Proof.Machine
end

