-- ==== Sys2Proof/Machine/Towers.lean ====
section
/-! DEFINITION. Requests of the Ivory and Umber memories with their errors, the patrols, the failure of towers, rebuild,
recomputation and resync, self-refresh, and the calibrations of a tower (R240 to R259, R267 to R269, R429, R467). -/

namespace Sys2Proof.Machine

/-! ### Reads that meet errors (R240, R249, R250) -/

/-- A request of the module's own engines is answered. -/
def State.serve (s : State) (a : Nat) (write : Bool) (st : Status) (bs : Bytes) : State := s.send (.served a write st.plain bs)

/-- A read or write under the checks of the memories, answered. -/
def State.request (s : State) (write : Bool) (a len : Nat) (bs : Bytes) : State :=
  if write then
    (match s.writeBytes a bs with | .ok t => t.serve a true .ok [] | .error st => s.serve a true st [])
  else
    (match s.readBytes a len with | .ok b => s.serve a false .ok b | .error st => s.serve a false st [])

/-- What an error found on a granule of Ivory does (R240). -/
def State.ivoryError (s : State) (a : Nat) : ReadError → State
  | .none | .retried => s
  | .single => (s.record (pgSlice (a / sliceSize)) .corrected a).count (pgSlice (a / sliceSize)) 0x701 1
  | _ => ((s.poisonGranule a).record (pgSlice (a / sliceSize)) .contained a)

/-- 64-byte units of a request (R491). -/
def units64 (len : Nat) : Nat := ceilDiv len 64

/-! ### Arbitration (R21, R23) -/

/-- The class of a requester (R21). -/
def requesterClass : Requester → Nat
  | .drain _ | .push => 1
  | .feeder _ | .expander _ => 2
  | .vector _ | .reduction | .walker => 3
  | .stream | .copyIn | .linkIn => 4

/-- The port of a requester of the arbiter's own region, below 16. -/
def requesterPort : Requester → Nat
  | .drain x => x | .push => 4 | .feeder x => 5 + x | .expander p => 9 + p
  | .vector v => 11 + v | .reduction => 13 | .walker => 14 | .stream => 15 | .copyIn => 24 | .linkIn => 25

/-- A request as the arbiter of region `r` sees it: one from another region comes over the ring and stands in class 4 (R23). -/
def arbReq (r : Nat) (umber : Bool) (source : Nat) (by_ : Requester) (request : Nat) : ArbReq :=
  if source = r then ⟨request, requesterPort by_, requesterClass by_, umber⟩ else ⟨request, 16 + source, 4, umber⟩

/-- The same request, whatever its class. -/
def ArbReq.same (x y : ArbReq) : Bool := x.request == y.request && x.port == y.port && x.umber == y.umber

/-- How far a port is from its turn in the round robin that granted `last` last. -/
def turnOf (last port : Nat) : Nat := (port + 32 - (last + 1) % 32) % 32

/-- The class that a request has at the arbiter: 1 once it has been promoted. -/
def Region.classed (g : Region) (x : ArbReq) : ArbReq := (g.waiting.find? x.same).getD x

/-- Whether a waiting request goes before `x`: a lower class, or the same class and an earlier turn (R21). -/
def Region.goesBefore (g : Region) (x y : ArbReq) : Bool :=
  y.umber == x.umber && !x.same y &&
  (decide (y.cls < x.cls) ||
   (decide (y.cls = x.cls) && (let l := tabGet 31 g.lastPort (x.cls + 4 * bit x.umber); decide (turnOf l y.port < turnOf l x.port))))

/-- The arbiter grants `x`: no waiting request goes before it. -/
def Region.grants (g : Region) (x : ArbReq) : Bool := !g.waiting.any (g.goesBefore (g.classed x))

/-- A request granted: it waits no longer, and its port is the last of its class. -/
def State.grant (s : State) (r : Nat) (x : ArbReq) : State :=
  let g := s.region r
  let y := g.classed x
  s.putRegion r { g with waiting := g.waiting.filter (fun z => !x.same z), lastPort := tabSet 31 g.lastPort (y.cls + 4 * bit y.umber) y.port }

/-- A request that is not granted waits; one that waits already keeps its place. -/
def State.queueRequest (s : State) (r : Nat) (x : ArbReq) : State :=
  let g := s.region r
  if g.waiting.any x.same then s else s.putRegion r { g with waiting := g.waiting ++ [x] }

/-- ARB_PROMOTE (R21): a request that has waited 64 region cycles stands in class 1. -/
def arbPromote (r : Nat) (x : ArbReq) (s : State) : State :=
  let t := s.queueRequest r x
  let g := t.region r
  if !s.alive || (g.classed x).cls = 1 then s else
  (t.putRegion r { g with waiting := g.waiting.map (fun y => if x.same y then { y with cls := 1 } else y) }).count (pgRegion r) 0x103 1

/-- ARB_PROMOTE (R21); a request from another region, `source`, is one for the slice. -/
def execArbPromote (port : Port) (path : PortPath) (s : State) : Host.Outcome State Fault Refusal :=
  .next (arbPromote port.region
    (arbReq port.region (path.umber && path.source.isNone) ((path.source.map (·.val)).getD port.region) port.requester port.request) s)

/-- IVORY_REQUEST (R240): `region` is the requester's own; the arbiter is that of the slice's region (R21, R23). -/
def ivoryRequest (region : Nat) (by_ : Requester) (request : Nat) (write : Bool) (a len : Nat) (bs : Bytes) (e : ReadError) (s : State) : State :=
  if !s.alive || decide (s.tierOf a ≠ some .ivory) then s else
  let r := a / sliceSize
  let x := arbReq r false region by_ request
  if !(s.region r).grants x then s.queueRequest r x else
  let s := s.grant r x
  let t := if write then s else s.ivoryError a e
  (t.request write a len bs).count (pgSlice r) (if r = region then 0x702 else 0x703) (units64 (if write then bs.length else len))

/-- IVORY_REQUEST. -/
def execIvoryRequest (port : Port) (write : Bool) (addr length : Nat) (bytes : Bytes)
    (error : ReadError) (s : State) : Host.Outcome State Fault Refusal :=
  .next (ivoryRequest port.region port.requester port.request write addr length bytes error s)

/-- The device address of position `n`, tower offset `x`. -/
def State.addrAt (s : State) (n x : Nat) : Nat := umberBase + s.offsetOf n x

/-- The page of the tower that holds position `n` in a stripe; of the position's own tower where none does. -/
def State.pageOfPosition (s : State) (n x : Nat) : Nat := pgTower ((s.tow.readAt n (x / 4096)).getD n)

/-- Data granules poisoned together: each is written as zero with its parity, listed, and recorded once as CONTAINED (R250). -/
def State.poisonData (s : State) (ns : List Nat) (x : Nat) : State :=
  ns.foldl (fun t n => (t.poisonUmber n x).record (s.pageOfPosition n x) .contained (s.addrAt n (x / 64 * 64))) s

/-- The parity granule of a column is computed again from the data towers, and its buffered delta is spent (R250). -/
def State.rewriteParity (s : State) (x : Nat) : State :=
  let t := (granuleOffsets x).foldl (fun t y =>
    match t.tow.writeAt 16 (y / 4096) with
    | some p => { t with mem := t.mem.setCell (towerKey p y) (t.dataXor y) }
    | none => t) s
  { t with mem := { t.mem with parity := t.mem.parity.map (fun l =>
      if l.stripe = x / 4096 then (granuleOffsets x).foldl (fun l y => { l with delta := tabSet 0 l.delta (y % 4096) 0 }) l else l) } }

/-- 2^32 cycles of the tower fabric in quanta of 160 ns (R253; log entry 2). -/
def badWindow : Nat := 2 ^ 24

/-- A tower has reported a read it could not correct: its block joins those of the last 2^32 tower-fabric cycles, and more than 64
of them are a failure (R253). -/
def Tower.noteBad (w : Tower) (now block : Nat) : Tower :=
  let bs := w.badBlocks.filter (fun e => decide (now < e.2 + badWindow) && e.1 != block) ++ [(block, now)]
  { w with badBlocks := bs, failFound := w.failFound || decide (64 < bs.length) }

/-- The tower that holds position `n` has reported its block at tower offset `x`. -/
def State.noteBadRead (s : State) (n x : Nat) : State :=
  match s.tow.readAt n (x / 4096) with
  | none => s
  | some t => s.putTower t ((s.tower t).noteBad s.cycles (x / 4096))

/-- A position missing in a stripe other than `n`, served by reconstruction: no second granule of the column can be rebuilt. -/
def State.missingBeside (s : State) (n i : Nat) : Option Nat :=
  (List.range s.dataTowers).find? (fun m => m != n && (s.tow.readAt m i).isNone && !s.inLost m (i * 4096))

/-- What an error found on the granule of position `n` at tower offset `x` does (R249, R250). -/
def State.umberError (s : State) (n x : Nat) : ReadError → State
  | .none => s
  | .single => (s.record (s.pageOfPosition n x) .corrected (s.addrAt n x)).count (s.pageOfPosition n x) 0x2105 1
  | .retried => (s.record (s.pageOfPosition n x) .corrected (s.addrAt n x)).count (s.pageOfPosition n x) 0x2106 1
  | .uncorrectable =>
    match s.tow.readAt n (x / 4096) with
    | none => s
    | some t =>
      let u := s.noteBadRead n x
      match s.missingBeside n (x / 4096) with
      | some m => u.poisonData [n, m] x
      | none =>
        if (s.tow.readAt 16 (x / 4096)).isNone then u.poisonData [n] x
        else (u.record (pgTower t) .corrected (s.addrAt n (x / 64 * 64))).count pgComplex 0x2004 1
  | .alsoTower p =>
    if (p : Nat) = n then s
    else
      let u := (s.noteBadRead n x).noteBadRead p x
      if (p : Nat) = 16 then (u.poisonData [n] x).rewriteParity x else u.poisonData [n, p] x

/-- What an error found on a granule of parity does: it is computed again and written back, and a data granule of its column that cannot
be read either is poisoned (R249, R250). -/
def State.parityError (s : State) (x : Nat) : ReadError → State
  | .none => s
  | .single => (s.record (s.pageOfPosition 16 x) .corrected 0).count (s.pageOfPosition 16 x) 0x2105 1
  | .retried => (s.record (s.pageOfPosition 16 x) .corrected 0).count (s.pageOfPosition 16 x) 0x2106 1
  | .uncorrectable => ((s.noteBadRead 16 x).rewriteParity x).record (s.pageOfPosition 16 x) .corrected 0
  | .alsoTower p =>
    if (p : Nat) = 16 then ((s.noteBadRead 16 x).rewriteParity x).record (s.pageOfPosition 16 x) .corrected 0
    else ((((s.noteBadRead 16 x).noteBadRead p x).poisonData [p.val] x).rewriteParity x)

/-- An error on a granule of a tower that holds no position: no data is lost. (DEDUCED, log entry 71). -/
def State.idleTowerError (s : State) (t x : Nat) : ReadError → State
  | .none => s
  | .single => (s.record (pgTower t) .corrected 0).count (pgTower t) 0x2105 1
  | .retried => (s.record (pgTower t) .corrected 0).count (pgTower t) 0x2106 1
  | _ => (s.putTower t ((s.tower t).noteBad s.cycles (x / 4096))).record (pgTower t) .corrected 0

/-- A request reaches a tower: it leaves self-refresh and has answered (R253, R429). (DEDUCED, log entry 51). -/
def State.wakeTower (s : State) (t : Nat) : State :=
  s.putTower t { s.tower t with selfRefresh := false, unanswered := 0 }

/-- A request of Umber served on its tower, with a parity delta for a write (R242). -/
def umberServe (write : Bool) (a len : Nat) (bs : Bytes) (e : ReadError) (s : State) : State :=
  let p := s.placeOf (a - umberBase)
  let t := match s.tow.readAt p.1 (p.2 / 4096) with
    | some w => s.wakeTower w
    | none => if write then s else s.count pgComplex 0x2004 1
  (if write then t else t.umberError p.1 p.2 e).request write a len bs

/-- UMBER_REQUEST (R242): a region's request passes its arbiter (R21); the service region and the links have their own ports
(R22). -/
def umberRequest (port : Option (Fin 8 × Requester × Nat)) (write : Bool) (a len : Nat) (bs : Bytes) (e : ReadError) (s : State) : State :=
  if !s.alive || decide (s.tierOf a ≠ some .umber) then s else
  match port with
  | none => umberServe write a len bs e s
  | some p =>
    let x := arbReq p.1 true p.1 p.2.1 p.2.2
    if !(s.region p.1).grants x then s.queueRequest p.1 x else umberServe write a len bs e (s.grant p.1 x)

/-- UMBER_REQUEST. -/
def execUmberRequest (write : Bool) (addr length : Nat) (bytes : Bytes) (turn : UmberTurn) (s : State) : Host.Outcome State Fault Refusal :=
  .next (umberRequest (turn.port.map (fun p => (p.region, p.requester, p.request))) write addr length bytes turn.error s)

/-! ### Tower registers with an effect (R243, R246, R253, R268, R269) -/

/-- The RW fields of TOWER_CTL, and FLUSH (R246, R268). -/
def towerCtl (value : Word) (s : State) : State :=
  let v := value.toNat
  let t := { s with tow := { s.tow with ivoryScrubMin := bitsOf v 31 24, scrubHours := bitsOf v 23 16, rebuildShare := bitsOf v 1 0 } }
  if bitAt v 8 then t.flushParity else t

/-- TOWER_CTL_FLUSH (R246): a write of TOWER_CTL whose FLUSH bit is 1. -/
def execTowerCtlFlush (value : Word) (s : State) : Host.Outcome State Fault Refusal :=
  .next (if s.answers && hasBit value 8 then towerCtl value s else s)

/-- SEG_DATA's granule for the selected segment (R243). -/
def segData (value : Word) (s : State) : State :=
  let g := value.toNat % 16
  let segs := s.dataTowers * 64
  if 9 < g ∨ segs ≤ s.tow.segSel then s.badWrite pgComplex 0x128
  else { s with mem := { s.mem with granule := tabSet 1 s.mem.granule s.tow.segSel g } }

/-- SEG_DATA_WRITE. -/
def execSegDataWrite (value : Word) (s : State) : Host.Outcome State Fault Refusal := .next (if s.answers then segData value s else s)

/-- A tower has failed; detection settles it (R253). -/
def State.towerFound (s : State) (t : Nat) : State :=
  if (s.tower t).failed || !s.towerFitted t then s else s.putTower t { s.tower t with failFound := true }

/-- TOWER_FAIL (R269). -/
def towerFail (value : Word) (s : State) : State :=
  let t := value.toNat % 32
  if !hasBit value 8 then s
  else if 17 < t ∨ s.towerFitted t = false then s.badWrite pgComplex 0x118
  else s.towerFound t

/-- TOWER_FAIL_WRITE. -/
def execTowerFailWrite (value : Word) (s : State) : Host.Outcome State Fault Refusal := .next (if s.answers then towerFail value s else s)

/-- TOWER_REQUEST_TIMEOUT (R253): the second in a row is a failure. -/
def execTowerRequestTimeout (tower : Fin 18) (s : State) : Host.Outcome State Fault Refusal :=
  .next (let w := s.tower tower
         if !s.fed || !s.towerFitted tower || w.failed then s
         else if 1 ≤ w.unanswered then (s.putTower tower { w with unanswered := 0 }).towerFound tower
         else s.putTower tower { w with unanswered := w.unanswered + 1 })

/-! ### Failure (R254, R257 to R259) -/

/-- The tower is fenced: its page reads FENCED_OUT, and its unit's commands leave it (R254 step 2, R293). -/
def State.fenceTower (s : State) (t : Nat) : State :=
  let u := s.putTower t { s.tower t with failed := true, failFound := false, owed := 0, cmds := [] }
  { u with cmds := u.cmds.map (fun c => { c with towers := c.towers.filter (· != t) }) }

/-- A failure that loses nothing is CORRECTED, with ESC in the complex page (R254). -/
def State.towerCorrected (s : State) (t : Nat) : State := s.recordUp (pgTower t) .corrected 0

/-- The complex's registers changed. -/
def State.modTow (s : State) (f : TowerComplex → TowerComplex) : State := { s with tow := f s.tow }

/-- A range is lost from stripe `from'` on (R248, R258): recorded once as CONTAINED, and the recomputation begins there. -/
def State.loseRange (s : State) (t lostA lostB spareFor from' aFrom : Nat) : State :=
  (s.modTow (fun w => { w with sts := .lost, lostA := lostA, lostB := lostB, spareFor := spareFor, lostValid := true, lostFrom := from',
                               lostAFrom := aFrom, cursor := from', running := true, pausedRunning := false, pausedCursor := 0 })).recordUp (pgTower t) .contained 0

/-- A position stays missing for good (R257, R259). -/
def State.degrade (s : State) (t lostA spareFor : Nat) : State :=
  (s.modTow (fun w => { w with sts := .degraded, lostA := lostA, spareFor := spareFor, cursor := 0, running := false })).towerCorrected t

/-- T17 fails (R259). -/
def State.spareFails (s : State) : State :=
  let w := s.tow
  let t := s.fenceTower 17
  match w.sts with
  | .full => (t.modTow (fun w => { w with sts := .parity, spareFor := 0x1F })).towerCorrected 17
  | .rebuilding => t.degrade 17 w.lostA 0x1F
  | .parity => t.degrade 17 w.spareFor 0x1F
  | .unsynced =>
    (match w.unsyncBack with
     | .full => (t.modTow (fun w => { w with unsyncBack := .parity })).towerCorrected 17
     | .parity => t.loseRange 17 0x1F w.spareFor 0x1F w.cursor w.cursor
     | .rebuilding => t.loseRange 17 0x1F w.lostA 0x1F w.cursor w.cursor
     | _ => t.deviceStopAt (pgTower 17) 0)
  | _ => t.deviceStopAt (pgTower 17) 0

/-- Tower `p`, a data tower or T16, fails (R254, R257, R258); from the start of a rebuild the buffer holds no delta (R246, R248). (DEDUCED, log entry 71). -/
def State.positionFails (s : State) (p : Nat) : State :=
  let w := s.tow
  let t := s.fenceTower p
  match w.sts with
  | .full => (t.flushParity.modTow (fun w => { w with sts := .rebuilding, lostA := p, cursor := 0, running := true, spareAwake := false })).towerCorrected p
  | .parity => t.degrade p p w.spareFor
  | .rebuilding => t.loseRange p w.lostA p 0x1F w.cursor w.cursor
  | .unsynced =>
    (match w.unsyncBack with
     | .full => t.loseRange p 0x1F p 0x1F w.cursor w.cursor
     | .parity => t.loseRange p 0x1F p w.spareFor w.cursor w.cursor
     | .rebuilding => t.loseRange p w.lostA p 0x1F w.cursor w.pausedCursor
     | _ => t.deviceStopAt (pgTower p) 0)
  | _ => t.deviceStopAt (pgTower p) 0

/-- TOWER_FAIL_DETECT (R254): a failure found is settled by TOWER_STS.STATE. -/
def towerFailDetect (tower : Nat) (s : State) : State :=
  if !s.fed || !(s.tower tower).failFound || (s.tower tower).failed then s
  else if tower = 17 then s.spareFails else s.positionFails tower

/-- TOWER_FAIL_DETECT. -/
def execTowerFailDetect (tower : Fin 18) (s : State) : Host.Outcome State Fault Refusal := .next (towerFailDetect tower s)

/-! ### Rebuild, recomputation, resync (R246, R248, R254, R258) -/

/-- SPARE_WAKE_DONE (R254 step 3). -/
def execSpareWakeDone (s : State) : Host.Outcome State Fault Refusal :=
  .next (if s.fed && decide (s.tow.sts = .rebuilding) && !s.tow.spareAwake
         then (s.flushParity.putTower 17 { s.tower 17 with selfRefresh := false }).modTow (fun w => { w with spareAwake := true }) else s)

/-- The block of the failed position in stripe `i` is written to T17 (R254 step 4). -/
def State.rebuildBlock (s : State) (i : Nat) : State :=
  if s.tow.lostA = 16 then s.recomputeParity i
  else (List.range 4096).foldl (fun t j =>
    { t with mem := t.mem.setCell (towerKey 17 (i * 4096 + j)) (t.reconstruct t.tow.lostA (i * 4096 + j)) }) s

/-- REBUILD_STRIPE (R254 steps 4 and 5). -/
def rebuildStripe (s : State) : State :=
  if !s.fed || decide (s.tow.sts ≠ .rebuilding) || !s.tow.spareAwake then s else
  let t := (s.rebuildBlock s.tow.cursor).count pgComplex 0x2005 1
  if s.tow.cursor + 1 < stripeCount then t.modTow (fun w => { w with cursor := w.cursor + 1 })
  else t.modTow (fun w => { w with sts := .parity, spareFor := w.lostA, lostA := 0x1F, cursor := 0, running := false })

/-- REBUILD_STRIPE. -/
def execRebuildStripe (s : State) : Host.Outcome State Fault Refusal := .next (rebuildStripe s)

/-- LOST_STRIPE_RECOMPUTE (R258 step 4). -/
def lostStripe (s : State) : State :=
  if !s.fed || decide (s.tow.sts ≠ .lost) || !s.tow.running then s else
  let t := (s.recomputeLost s.tow.cursor).count pgComplex 0x2005 1
  if s.tow.cursor + 1 < stripeCount then t.modTow (fun w => { w with cursor := w.cursor + 1 })
  else t.modTow (fun w => { w with cursor := 0, running := false })

/-- LOST_STRIPE_RECOMPUTE. -/
def execLostStripeRecompute (s : State) : Host.Outcome State Fault Refusal := .next (lostStripe s)

/-- RESYNC_STRIPE (R248). -/
def resyncStripe (s : State) : State :=
  if !s.fed || decide (s.tow.sts ≠ .unsynced) then s else
  let t := (s.recomputeParity s.tow.cursor).count pgComplex 0x2005 1
  if s.tow.cursor + 1 < s.tow.unsyncEnd then t.modTow (fun w => { w with cursor := w.cursor + 1 })
  else t.modTow (fun w => { w with sts := w.unsyncBack, cursor := if w.pausedRunning then w.pausedCursor else 0, running := w.pausedRunning,
                                   pausedRunning := false, pausedCursor := 0 })

/-- RESYNC_STRIPE. -/
def execResyncStripe (s : State) : Host.Outcome State Fault Refusal := .next (resyncStripe s)

/-! ### Patrols (R252) -/

/-- The position whose granule of stripe `i` tower `t` holds: a data position, or 16 for parity (R242, R254). -/
def State.positionOn (s : State) (t i : Nat) : Option Nat :=
  ((List.range s.dataTowers) ++ [16]).find? (fun p => s.tow.readAt p i == some t)

/-- What the patrol finds at a granule of tower `t`. -/
def State.patrolFinds (s : State) (t x : Nat) : PatrolFinding → State
  | .clean => s
  | .unreadable e =>
    (match s.positionOn t (x / 4096) with
     | none => s.idleTowerError t x e
     | some n => if n = 16 then s.parityError x e else s.umberError n x e)
  | .noCulprit => (s.poisonData (List.range s.dataTowers) x).count pgComplex 0x2002 1
  | .parityBad => ((s.noteBadRead 16 x).rewriteParity x).record (s.pageOfPosition 16 x) .corrected 0

/-- Towers that the patrol reads: every one fitted that has not failed. -/
def State.patrolTowers (s : State) : Nat := ((List.range 18).filter (fun t => s.towerFitted t && !(s.tower t).failed)).length

/-- UMBER_PATROL_STEP: one granule of one tower; the last of a pass ends the pass. -/
def umberPatrol (t i j : Nat) (f : PatrolFinding) (s : State) : State :=
  if !s.alive || decide (s.tow.scrubHours = 0) || !s.towerFitted t || (s.tower t).failed then s else
  let u := s.patrolFinds t (i * 4096 + j * 64) f
  if s.tow.umberPatrol + 1 < s.patrolTowers * stripeCount * 64 then u.modTow (fun w => { w with umberPatrol := w.umberPatrol + 1 })
  else (u.modTow (fun w => { w with umberPatrol := 0 })).count pgComplex 0x2001 1

/-- UMBER_PATROL_STEP. -/
def execUmberPatrolStep (tower : Fin 18) (stripe granule : Nat) (finding : PatrolFinding) (s : State) :
    Host.Outcome State Fault Refusal := .next (umberPatrol tower stripe granule finding s)

/-- IVORY_PATROL_STEP. -/
def ivoryPatrol (a : Nat) (e : ReadError) (s : State) : State :=
  if !s.alive || decide (s.tow.ivoryScrubMin = 0) || decide (s.tierOf a ≠ some .ivory) then s else
  ((s.ivoryError a e).modTow (fun w => { w with ivoryPatrol := w.ivoryPatrol + 1 })).count (pgSlice (a / sliceSize)) 0x704 1

/-- IVORY_PATROL_STEP. -/
def execIvoryPatrolStep (addr : Nat) (error : ReadError) (s : State) : Host.Outcome State Fault Refusal := .next (ivoryPatrol addr error s)

/-! ### Calibration of a tower (R467) -/

/-- TOWER_ZQ_CAL: alongside traffic; one that could not start in time sets CAL_LATE. -/
def execTowerZqCal (tower : Fin 18) (late : Bool) (s : State) : Host.Outcome State Fault Refusal :=
  .next (if !s.fed || !s.towerFitted tower || (s.tower tower).failed then s
         else if late then s.raiseBlockBit (pgTower tower) 16 0 else s)

/-- A rebuild step may run on the tower: no trim pause then (R467). -/
def State.rebuildTouches (s : State) (t : Nat) : Bool := decide (s.tow.sts = .rebuilding) && s.tow.spareAwake && !(s.tower t).failed

/-- TOWER_TIMING_TRIM: the pause begins where no tower pauses and no rebuild step runs there, and ends. -/
def towerTrim (tower : Nat) (done late : Bool) (s : State) : State :=
  let w := s.tower tower
  if !s.fed || !s.towerFitted tower || w.failed then s
  else if late then s.raiseBlockBit (pgTower tower) 16 0
  else if done then s.putTower tower { w with trimming := false }
  else if s.tow.towers.any (fun t => t.2.trimming) || s.rebuildTouches tower then s
  else s.putTower tower { w with trimming := true }

/-- TOWER_TIMING_TRIM. -/
def execTowerTimingTrim (tower : Fin 18) (done late : Bool) (s : State) : Host.Outcome State Fault Refusal :=
  .next (towerTrim tower done late s)

end Sys2Proof.Machine
end

