-- ==== Sys2Proof/Machine/Links.lean ====
section
/-! DEFINITION. The Jenlayx links: flits and their retry, lanes and links that fail, training and USE, inbound peer accesses
and their acknowledgements, and POSITION (R371 to R387, R402, R467); CELL_FAIL and BLOCK_FAIL, whose lanes and towers belong to
the complexes. -/

namespace Sys2Proof.Machine

/-! ### Flits that arrive (R372, R373, R381) -/

/-- FLIT_FORWARD (R381): a flit for another position goes out by override, twin or dimension order; without an exit it goes
nowhere. -/
def State.forwardFlit (s : State) (b : Bytes) : State :=
  match s.exitFor (flDest b) (flTag b) with
  | none => s
  | some l => (s.sendFlit l (if s.wraps l then 1 else flVc b) b).count pgFabric 0x3001 1

/-- The flits acknowledged by ACK leave the retry buffer: every flit up to the one it names (R373). -/
def dropAcked (retry : List (Nat × Bytes)) (ack : Nat) : List (Nat × Bytes) :=
  if retry.any (fun f => f.1 == ack) then (retry.dropWhile (fun f => f.1 != ack)).drop 1 else retry

/-- A link that is disabled goes down once its retry buffer is empty (R402). -/
def State.settleLink (s : State) (l : Nat) : State :=
  let k := s.link l
  if !k.enable && k.retry.isEmpty && k.held.isEmpty && k.state != .failed then s.putLink l { k with state := .down } else s

/-- A dropped flit: NAK names the SEQ awaited (R373). -/
def State.nakFlit (s : State) (l : Nat) : State := s.send (.nak l (s.link l).rxSeq)

/-- The chunk with a TAG, as far as it has arrived. -/
def State.inbound (s : State) (tag : Nat) : Inbound := (s.lnk.ingress.find? (fun x => x.tag == tag)).getD { tag := tag }

/-- It replaced. -/
def State.putInbound (s : State) (x : Inbound) : State :=
  { s with lnk := { s.lnk with ingress := s.lnk.ingress.filter (fun y => y.tag != x.tag) ++ [x] } }

/-- A flit for this module (R372): a control flit opens the chunk of its TAG as `opens` says, a data flit brings the payload at its INDEX. (DESIGN CHOICE, log entry 82). -/
def State.deliverFlit (s : State) (b : Bytes) (opens : Option ChunkHead) : State :=
  if flType b = 2 then (match opens with | some h => s.putInbound { tag := flTag b, head := some h } | none => s)
  else
    let x := s.inbound (flTag b)
    s.putInbound { x with flits := tabSet [] x.flits (flIndex b) (sliceOf b 8 250) }

/-- The bytes of a chunk once every flit of it has arrived. -/
def Inbound.whole (x : Inbound) : Option Bytes :=
  match x.head with
  | none => none
  | some h =>
    let ps := (List.range (ceilDiv h.length 250)).map (fun i => tabGet [] x.flits i)
    if ps.all (fun p => !p.isEmpty) then some (ps.flatten.take h.length) else none

/-- What an acknowledgement leaves in the retry buffer, with how often each flit there has been replayed (R373, R374). -/
def Link.acked (k : Link) (ack : Nat) : Link :=
  let left := dropAcked k.retry ack
  { k with retry := left, replays := k.replays.filter (fun e => left.any (fun f => f.1 == e.1)) }

/-- Flits replayed once more (R374). -/
def Link.replayed (k : Link) (fs : List (Nat × Bytes)) : Tab Nat := fs.foldl (fun r f => tabSet 0 r f.1 (tabGet 0 r f.1 + 1)) k.replays

/-- A flit that passed its checks: its ACK counts; the SEQ awaited is delivered or forwarded once; another is dropped. -/
def State.takeFlit (s : State) (l : Nat) (b : Bytes) (opens : Option ChunkHead) : State :=
  let k := s.link l
  let s := (s.putLink l (k.acked (flAck b))).sendHeld l
  let s :=
    if flType b = 0 ∨ flSeq b ≠ k.rxSeq then s
    else
      (let t := (s.putLink l { s.link l with rxSeq := (k.rxSeq + 1) % 1024 }).count (pgLink l) 0x3102 1
       if flDest b = t.lnk.position then t.deliverFlit b opens else t.forwardFlit b)
  s.settleLink l

/-- FLIT_RECEIVE (R373): FEC corrects at most 5 bad bytes; then the CRC is checked. A module without a position takes no flit (R377). (DESIGN CHOICE, log entry 14). -/
def flitReceive (l : Nat) (b : Bytes) (bad : Nat) (opens : Option ChunkHead) (s : State) : State :=
  if !s.alive || !(s.link l).carries || s.lnk.position == 0xFFFF then s
  else if 5 < bad then s.nakFlit l
  else
    let t := if bad = 0 then s else (s.count (pgLink l) 0x3103 bad).record (pgLink l) .corrected 0
    if !flitCrcOk b then t.nakFlit l else t.takeFlit l b opens

/-- FLIT_RECEIVE. -/
def execFlitReceive (link : Fin 24) (bytes : Bytes) (arrival : FlitArrival) (s : State) : Host.Outcome State Fault Refusal :=
  .next (flitReceive link bytes arrival.bad arrival.opens s)

/-! ### A link fails (R374, R383) -/

/-- Started commands that need a position no link leads to any more complete at once (R383, R397). -/
def State.endUnreachable (s : State) : State := s.cmds.foldl (fun t c => (t.endUnreached c.q c.n).endRunUnreached c.q c.n) s

/-- Flits that a link held, with their VC, are sent on another link of the same USE, else by the route (R383). -/
def State.resend (s : State) (use : Nat) (fs : List (Nat × Bytes)) : State :=
  fs.foldl (fun t f =>
    match (t.linksOf use)[flTag f.2 % (max 1 (t.linksOf use).length)]? with
    | some l => t.sendFlit l f.1 f.2
    | none => t.forwardFlit f.2) s

/-- LINK_FAIL (R383): the link is fenced, its traffic moves, the event is CORRECTED. -/
def State.failLink (s : State) (l reason : Nat) : State :=
  let k := s.link l
  if k.state = .failed then s else
  let t := s.putLink l { k with state := .failed, reason := reason, retry := [], held := [], replays := [], sparePending := false, trimming := [], recal := [] }
  ((t.recordUp (pgLink l) .corrected 0).resend k.use (k.retry.map (fun f => (flVc f.2, f.2)) ++ k.held)).endUnreachable

/-- NAK_RECEIVE (R373, R374): every flit from the named SEQ onward is replayed; one flit replayed 16 times fails the link. (DEDUCED, log entry 54). -/
def nakReceive (l seq : Nat) (s : State) : State :=
  let k := s.link l
  if !s.alive || !k.carries || !k.retry.any (fun f => f.1 == seq) then s
  else if 16 ≤ tabGet 0 k.replays seq then s.failLink l 1
  else
    let left := k.retry.dropWhile (fun f => f.1 != seq)
    let t := s.putLink l { k with retry := left, replays := k.replayed left }
    let t := left.foldl (fun u f => u.send (.flit l f.1 f.2)) t
    ((t.count (pgLink l) 0x3104 left.length).count (pgLink l) 0x3101 left.length).record (pgLink l) .corrected 0

/-- NAK_RECEIVE. -/
def execNakReceive (link : Fin 24) (seq : BitVec 10) (s : State) : Host.Outcome State Fault Refusal := .next (nakReceive link seq.toNat s)
/-- LINK_SILENCE (R374): no flit for 65,536 link cycles. -/
def execLinkSilence (link : Fin 24) (s : State) : Host.Outcome State Fault Refusal :=
  .next (if s.fed && (s.link link).carries then s.failLink link 2 else s)

/-! ### Lanes (R374 to R376) -/

/-- Failed data lanes. -/
def Link.lostLanes (k : Link) : List Nat := (List.range 8).filter (fun i => tabGet false k.failedLanes i)
/-- The spare lane works. -/
def Link.spareOk (k : Link) : Bool := !tabGet false k.failedLanes 8
/-- A half of the data lanes holds no failed lane. -/
def Link.halfFree (k : Link) : Bool := k.lostLanes.all (fun i => decide (4 ≤ i)) || k.lostLanes.all (fun i => decide (i < 4))

/-- How a trained link stands with the lanes it has (R374, R375). -/
def Link.standing (k : Link) : LinkState :=
  if k.lostLanes.isEmpty || (k.lostLanes.length == 1 && k.spareOk) then .up else if k.halfFree then .narrow else .failed

/-- LANE_FAIL (R375): the first failed data lane goes to the spare, once it is trained; a second narrows the link; both halves
hit fail it. -/
def State.laneFails (s : State) (l lane : Nat) : State :=
  if tabGet false (s.link l).failedLanes lane then s else
  let t := s.markLane l lane
  let k := t.link l
  if !(k.state == .up || k.state == .narrow) then t
  else
    match k.standing with
    | .failed => t.failLink l 3
    | .narrow => t.putLink l { k with state := .narrow, spareFor := 0xF, sparePending := false }
    | _ => if lane < 8 then t.putLink l { k with sparePending := true } else t

/-- LANE_FAIL. -/
def execLaneFail (link : Fin 24) (lane : Fin 9) (s : State) : Host.Outcome State Fault Refusal := .next (if s.fed then s.laneFails link lane else s)

/-- SPARE_LANE_TRAINED (R375): the failed lane's traffic moves onto the spare, and flits in flight are replayed,
a CORRECTED event (R373). -/
def spareTrained (l : Nat) (s : State) : State :=
  let k := s.link l
  if !s.fed || !k.sparePending then s else
  let t := s.putLink l { k with sparePending := false, spareFor := (k.lostLanes.head?).getD 0xF, replays := k.replayed k.retry }
  let t := k.retry.foldl (fun u f => u.send (.flit l f.1 f.2)) t
  let t := ((t.count (pgLink l) 0x3105 1).count (pgLink l) 0x3104 k.retry.length).count (pgLink l) 0x3101 k.retry.length
  if k.retry.isEmpty then t else t.record (pgLink l) .corrected 0

/-- SPARE_LANE_TRAINED. -/
def execSpareLaneTrained (link : Fin 24) (s : State) : Host.Outcome State Fault Refusal := .next (spareTrained link s)

/-- A trim pause may begin on a link: no other link of its USE pauses (R467). -/
def State.trimFree (s : State) (l : Nat) : Bool :=
  (List.range 24).all (fun j => j == l || (s.link j).use != (s.link l).use || (s.link j).trimming.isEmpty)

/-- LINK_LANE_TRIM (R376, R467): a lane's re-trim begins or ends. While the spare is free it stands in for the lane, one swap
at each end; a trim that could not start in time sets CAL_LATE. -/
def laneTrim (l lane : Nat) (done late : Bool) (s : State) : State :=
  let k := s.link l
  if !s.fed then s
  else if late then (if tabGet false k.trimming lane then s else s.raiseBlockBit (pgLink l) 16 0)
  else if !k.carries then s
  else if done then
    (if !tabGet false k.trimming lane then s
     else
       let k := { k with trimming := tabSet false k.trimming lane false, recal := k.recal.filter (· != lane) }
       let t := if k.spareFor = lane ∧ !tabGet false k.failedLanes lane then (s.putLink l { k with spareFor := 0xF }).count (pgLink l) 0x3105 1
         else s.putLink l k
       t.sendHeld l)
  else if tabGet false k.failedLanes lane || !k.trimming.isEmpty || !s.trimFree l then s
  else if lane < 8 ∧ k.spareFor = 0xF ∧ k.spareOk = true ∧ k.sparePending = false then
    (s.putLink l { k with trimming := tabSet false k.trimming lane true, spareFor := lane }).count (pgLink l) 0x3105 1
  else s.putLink l { k with trimming := tabSet false k.trimming lane true }

/-- LINK_LANE_TRIM. -/
def execLinkLaneTrim (link : Fin 24) (lane : Fin 9) (done late : Bool) (s : State) : Host.Outcome State Fault Refusal :=
  .next (laneTrim link lane done late s)

/-! ### Training and USE (R379, R402) -/

/-- The dimension in which `b` is one step from `a`, with whether the step is + and whether both directions meet. -/
def LinkComplex.neighbour (k : LinkComplex) (a b : Nat) : Option (Nat × Bool × Bool) :=
  let x := k.coords a
  let y := k.coords b
  let differ := (List.range 3).filter (fun d => nth 0 x d != nth 0 y d)
  match differ with
  | [d] =>
    let n := nth 1 k.dims d
    if stepsUp n (nth 0 x d) (nth 0 y d) = 1 then some (d, true, n == 2)
    else if stepsUp n (nth 0 y d) (nth 0 x d) = 1 then some (d, false, n == 2)
    else none
  | _ => none

/-- Trained links that end at a position, lowest first. -/
def State.linksTo (s : State) (p : Nat) : List Nat :=
  (List.range 24).filter (fun l => (s.link l).farPos == p && ((s.link l).state == .up || (s.link l).state == .narrow))

/-- The USE of a link whose far end stands at `p` (R379): where both directions meet, the lower half of the links takes +. -/
def State.useOf (s : State) (l p : Nat) : Nat :=
  let me := s.lnk.position
  if !activePos me || !activePos p then 0
  else if p = twinOf me then 1
  else if p % 2 ≠ me % 2 then 0
  else
    match s.lnk.neighbour me p with
    | none => 0
    | some (d, up, both) =>
      let ls := s.linksTo p
      let plus := if both then decide (2 * ls.idxOf l < ls.length) else up
      2 + 2 * d + bit (!plus)

/-- Every trained link to a position takes its USE anew. -/
def State.setUses (s : State) (p : Nat) : State := (s.linksTo p).foldl (fun t l => t.putLink l { t.link l with use := s.useOf l p }) s

/-- LINK_TRAINED (R379). -/
def linkTrained (l far farLink : Nat) (s : State) : State :=
  let k := s.link l
  if !s.fed || k.state != .training then s
  else
    let st := k.standing
    if st = .failed then s.failLink l 3
    else
      let spare := if k.lostLanes.length = 1 ∧ k.spareOk = true then (k.lostLanes.head?).getD 0xF else 0xF
      let k := { k with farPos := far, farLink := farLink, spareFor := spare, txSeq := 0, rxSeq := 0, retry := [], held := [], replays := [] }
      if far = 0xFFFF then s.putLink l { k with state := .unused, use := 0 } else (s.putLink l { k with state := st }).setUses far

/-- LINK_TRAINED. -/
def execLinkTrained (link : Fin 24) (farPosition farLink : Nat) (s : State) : Host.Outcome State Fault Refusal :=
  .next (linkTrained link (farPosition % 65536) (farLink % 32) s)
/-- LINK_TRAIN_TIMEOUT (R374). -/
def execLinkTrainTimeout (link : Fin 24) (s : State) : Host.Outcome State Fault Refusal :=
  .next (if s.fed && (s.link link).state == .training then s.failLink link 4 else s)

/-- A link page's block registers answer: the link is enabled (R475, R485). -/
def State.linkOn (s : State) (l : Nat) : Bool := (s.link l).enable

/-- LINK_CTL.FAIL (R374); of a disabled link it is ignored (R475). -/
def linkCtlFail (l : Nat) (s : State) : State := if s.linkOn l then s.failLink l 5 else s.badWrite (pgLink l) 0x108
/-- LINK_CTL_FAIL. -/
def execLinkCtlFail (link : Fin 24) (s : State) : Host.Outcome State Fault Refusal := .next (if s.answers then linkCtlFail link s else s)

/-- LINK_CTL.RECAL (R376): every lane that works is to be re-trimmed; LINK_LANE_TRIM does it, lane after lane. -/
def linkCtlRecal (l : Nat) (s : State) : State :=
  let k := s.link l
  if s.linkOn l then s.putLink l { k with recal := (List.range 9).filter (fun i => !tabGet false k.failedLanes i) } else s.badWrite (pgLink l) 0x108
/-- LINK_CTL_RECAL. -/
def execLinkCtlRecal (link : Fin 24) (s : State) : Host.Outcome State Fault Refusal := .next (if s.answers then linkCtlRecal link s else s)

/-- LINK_CTL.ENABLE (R402): 0 takes the link down after its retry buffer empties; 1 lets a link that is down train. -/
def linkCtlEnable (l : Nat) (on : Bool) (s : State) : State :=
  let k := s.link l
  if k.enable = on then s
  else if on then
    s.putLink l { k with enable := true, state := if k.state = .down then .training else k.state }
  else (s.putLink l { k with enable := false }).settleLink l
/-- LINK_CTL_ENABLE. -/
def execLinkCtlEnable (link : Fin 24) (on : Bool) (s : State) : Host.Outcome State Fault Refusal :=
  .next (if s.answers then linkCtlEnable link on s else s)

/-- POSITION.ID (R402): taken only while the fabric page is DRAINED; collective groups end and the links train again (R388, R412). -/
def positionWrite (v : Nat) (s : State) : State :=
  if s.lnk.fabric ≠ .drained then s.badWrite pgFabric 0x100
  else if v % 65536 = s.lnk.position then s
  else
    let t := { s with lnk := { s.lnk with position := v % 65536, groups := [] } }
    (List.range 24).foldl (fun u l =>
      let k := u.link l
      if k.enable && k.state != .failed then u.putLink l { k with state := .training, use := 0, farPos := 0xFFFF, farLink := 0 } else u) t
/-- POSITION_WRITE. -/
def execPositionWrite (value : Word) (s : State) : Host.Outcome State Fault Refusal := .next (if s.answers then positionWrite value.toNat s else s)

/-! ### Inbound peer accesses (R385 to R387) -/

/-- Window `w`. -/
def State.peerWindow (s : State) (w : Nat) : PeerWindow := tabGet {} s.lnk.windows w

/-- The access lies wholly in one enabled window, and the fabric admits it (R385, "When the link fabric is drained"). -/
def State.admits (s : State) (a len : Nat) : Bool :=
  s.lnk.fabric == .inService && (List.range 8).any (fun w => let x := s.peerWindow w
    x.enable && decide (x.base ≤ a) && decide (a + len ≤ x.limit + 1))

/-- A peer's access is refused (R385). -/
def State.refusePeer (s : State) (source a : Nat) (unmapped : Bool) : State :=
  ((s.raiseBlockBit pgFabric 16 0).count pgFabric 0x3002 1).sendPeer source "REFUSED" [bit unmapped, s.lnk.position, a] []

/-- The word at `a` becomes the larger of its value and `v`, as SIGNAL does. -/
def State.raiseWord (s : State) (a v : Nat) : Except Status State := do
  let b ← s.readBytes a 8
  s.writeBytes a (natBytes 8 (max (leNat b) v))

/-- Why a peer's access is refused: outside the windows, or unmapped. -/
def State.peerRefusal (s : State) (a len : Nat) : Option Bool :=
  if !s.admits a len then some false else if !s.mappedRange a len then some true else none

/-- A write that arrives takes the bytes of its chunk from the link ingress, where they have been put together there; the ingress is
then free (R372, R387). -/
def State.takeIngress (s : State) (w : PeerWrite) : State × PeerWrite :=
  let mine := fun (x : Inbound) => x.head.any (fun h => h.source == w.source && h.addr == w.addr)
  match (s.lnk.ingress.find? mine).bind Inbound.whole with
  | some bs => ({ s with lnk := { s.lnk with ingress := s.lnk.ingress.filter (fun x => !mine x) } }, { w with bytes := bs })
  | none => (s, w)

/-- PEER_WRITE_ARRIVE (R385 to R387): the bytes, then the flag; the sender hears of receipt and of visibility, or of the status that
stopped the write; a module without a position takes part in no traffic (R377). (DEDUCED, log entry 55). -/
def peerWrite (w0 : PeerWrite) (s0 : State) : State :=
  if !s0.alive || s0.lnk.position == 0xFFFF then s0 else
  let x := s0.takeIngress w0
  let s := x.1
  let w := x.2
  match s.peerRefusal w.addr w.bytes.length with
  | some u => s.refusePeer w.source w.addr u
  | none =>
    let flagBad : Option Bool := match w.flag with | none => none | some f => s.peerRefusal f.1 8
    match flagBad with
    | some u => s.refusePeer w.source ((w.flag.map (·.1)).getD 0) u
    | none =>
      let r := (s.writeBytes w.addr w.bytes).bind (fun t => match w.flag with | none => .ok t | some f => t.raiseWord f.1 f.2)
      match r with
      | .error _ => (s.sendPeer w.source "RECEIVED" [w.addr] []).sendPeer w.source "FAILED" [w.addr] []
      | .ok t => (t.sendPeer w.source "RECEIVED" [w.addr] []).sendPeer w.source "VISIBLE" [w.addr] []

/-- PEER_WRITE_ARRIVE. -/
def execPeerWriteArrive (write : PeerWrite) (s : State) : Host.Outcome State Fault Refusal := .next (peerWrite write s)

/-- PEER_READ_ARRIVE (R377, R385). -/
def peerRead (source a len : Nat) (s : State) : State :=
  if !s.alive || s.lnk.position == 0xFFFF then s else
  match s.peerRefusal a len with
  | some u => s.refusePeer source a u
  | none =>
    match s.readBytes a len with
    | .ok bs => s.sendPeer source "DATA" [a] bs
    | .error _ => s.sendPeer source "FAILED" [a] []

/-- PEER_READ_ARRIVE. -/
def execPeerReadArrive (source addr length : Nat) (s : State) : Host.Outcome State Fault Refusal := .next (peerRead source addr length s)

/-! ### Cells and blocks that fail (R25, R26) -/

/-- A cell fails, whatever its block. -/
def State.cellFails (s : State) : Cell → State
  | .linkLane l k => s.laneFails l k
  | c => s.fenceCell c

/-- A block fails; a tower by R253 and R254. -/
def State.blockFails (s : State) : Block → State
  | .tower t => towerFailDetect t (s.towerFound t)
  | b => s.fenceBlock b

/-- CELL_FAIL (R25). -/
def execCellFail (cell : Cell) (s : State) : Host.Outcome State Fault Refusal := .next (if s.fed then s.cellFails cell else s)
/-- BLOCK_FAIL (R25, R26). -/
def execBlockFail (block : Block) (s : State) : Host.Outcome State Fault Refusal := .next (if s.fed then s.blockFails block else s)

end Sys2Proof.Machine
end

