-- ==== Sys2Proof/Machine/PageCtl.lean ====
section
/-! DEFINITION. Page states and how a part leaves service and comes back: PAGE_DRAIN, PAGE_ABORT, PAGE_ENABLE, PAGE_DRAINED,
PAGE_ADMIT_DONE, REGION_GATE_WRITE (R428, R458 to R461, R485, R486). -/

namespace Sys2Proof.Machine

/-! ### Which page is which -/

/-- What a page number stands for. -/
inductive PageKind where
  | engine | copy (e : Nat) | check (u : Nat) | region (r : Nat) | blockOf (r i : Nat) | complex | tower (t : Nat) | fabric | link (l : Nat) | none
deriving DecidableEq, Repr

/-- The kind of a page (R476 to R478). -/
def pageKind (p : Nat) : PageKind :=
  if !pageExists p then .none
  else if p ≤ 8 then .engine
  else if p < 32 then .copy (p - 16)
  else if p < 0x100 then .check (p - 32)
  else if p < 0x900 then (if p % 0x100 = 0 then .region (p / 0x100 - 1) else .blockOf (p / 0x100 - 1) (p % 0x100))
  else if p = 0x900 then .complex
  else if p < 0xA00 then .tower (p - 0x901)
  else if p = 0xA00 then .fabric
  else .link (p - 0xA01)

/-- A block of a region is fenced, by its page index. -/
def Region.blockFenced (g : Region) (i : Nat) : Bool :=
  if i < 5 then (g.array (i - 1)).fenced
  else if i < 7 then (g.vector (i - 5)).fenced
  else if i = 7 then g.reductionFenced
  else if i = 8 then g.walkerFenced
  else if i < 11 then (g.expander (i - 9)).fenced
  else g.sliceFailed

/-- The state of a link's page (R485). -/
def Link.pageState (k : Link) : PageState :=
  if k.page = .testing then .testing
  else if k.state = .failed then .fencedOut
  else if !k.enable || k.state == .down then .off
  else if k.state = .training then .admitting
  else k.page

/-- PAGE_STS.STATE (R485). -/
def State.pageState (s : State) (p : Nat) : PageState :=
  match pageKind p with
  | .engine | .complex => if s.deviceStop then .faulted else .inService
  | .copy e => (tabGet {} s.copy e).state
  | .check u => if tabGet false s.checkFenced u then .fencedOut else .inService
  | .region r => (s.region r).state
  | .blockOf r i => if (s.region r).blockFenced i then .fencedOut else (s.region r).state
  | .tower t => if !s.towerFitted t then .off else if (s.tower t).failed then .fencedOut else (s.tower t).unit
  | .fabric => s.lnk.fabric
  | .link l => (s.link l).pageState
  | .none => .off

/-- A request that the page's state does not allow is ignored and sets BAD_WRITE (R486). -/
def State.badCtl (s : State) (p : Nat) : State := s.badWrite p 0x018

/-! ### Compute regions (R458 to R461) -/

/-- A command's work in a region that a drain waits for: IN_PLACE row blocks mid-pass, a ring's walk, collectives (R459). -/
def Region.waitsFor (g : Region) (ring : Nat → Nat → Bool) (q n : Nat) : Bool :=
  g.midPass.any (fun r => r.q == q && r.n == n) || ring q n

/-- A command is a ring ATTN_FWD or a collective. -/
def State.ringy (s : State) (q n : Nat) : Bool := match s.cmd? q n with | some c => needsPeer c && c.opcode != 0x605 | none => false

/-- Work of a region that stops at its next boundary and resumes elsewhere from its last commit; what a drain waits for stays. -/
def State.stopWork (s : State) (r : Nat) : State :=
  let g := s.region r
  let keep := fun (q n : Nat) => g.waitsFor s.ringy q n
  let g' : Region :=
    { g with arrays := g.arrays.map (fun u => (u.1, match u.2.run with
               | some x => if x.inPlace then u.2 else { u.2 with run := none, suspect := none, active := false, ramping := u.2.active }
               | none => { u.2 with suspect := none })),
             vectors := g.vectors.map (fun u => (u.1, { u.2 with users := u.2.users.filter (fun x => keep x.1 x.2) })),
             walk := g.walk.filter (fun w => keep w.q w.n) }
  let t := s.putRegion r g'
  let off := fun (c : Cmd) => !keep c.q c.n && c.regions.contains r
  let t := { t with cmds := t.cmds.map (fun (c : Cmd) => if off c then { c with regions := c.regions.filter (· != r), resumed := c.resumed || decide (c.phase = Phase.started) } else c) }
  let t := t.expectFall (((s.cmds.filter off).map Cmd.share).foldl (· + ·) 0)
  t.stopThreads (fun x => x.region == r)

/-- Four compute regions stay in service without this one (R458). -/
def State.spareRegion (s : State) : Bool := decide (5 ≤ s.regionsIn.length)

/-- DRAIN of a region. -/
def State.drainRegion (s : State) (r : Nat) : State :=
  if (s.region r).state ≠ .inService ∨ s.spareRegion = false then s.badCtl (pgRegion r)
  else (s.stopWork r).putRegion r { (s.stopWork r).region r with state := .draining, aborting := false }

/-- ABORT of a region: it waits for nothing (R460). -/
def State.abortRegion (s : State) (r : Nat) : State :=
  if (s.region r).state ≠ .inService ∨ s.spareRegion = false then s.badCtl (pgRegion r)
  else
    let t := (s.stopThreads (fun x => x.region == r)).moveWork r
    t.putRegion r { (t.region r).dropWork with state := .draining, aborting := true }

/-- No work is left in a region. -/
def State.regionEmpty (s : State) (r : Nat) : Bool :=
  (s.region r).arrays.all (fun u => u.2.run.isNone) && (s.region r).walk.isNone && (s.region r).vectors.all (fun u => u.2.users.isEmpty) &&
  !s.cmds.any (fun c => c.phase == .started && c.regions.contains r) && s.threadsIn r == 0

/-! ### The other parts (R486) -/

/-- DRAIN or ABORT of a tower's unit: its work goes to the logic die (R293). -/
def State.drainTower (s : State) (t : Nat) : State :=
  if s.pageState (pgTower t) ≠ .inService then s.badCtl (pgTower t)
  else (s.putTower t { s.tower t with unit := .draining, cmds := [] }).leaveTower t

/-- Copy engine `e`. -/
def State.engine (s : State) (e : Nat) : CopyEngine := tabGet {} s.copy e
/-- Copy engine `e` replaced. -/
def State.putEngine (s : State) (e : Nat) (x : CopyEngine) : State := { s with copy := tabSet {} s.copy e x }

/-- Engines of a direction in service. -/
def State.enginesIn (s : State) (d : Nat) : Nat := ((List.range 8).filter (fun i => (s.engine (8 * d + i)).state == .inService)).length

/-- DRAIN or ABORT of a copy engine; ignored for the last of its direction. -/
def State.drainEngine (s : State) (e : Nat) : State :=
  if (s.engine e).state ≠ .inService ∨ s.enginesIn (engineDir e) < 2 then s.badCtl (pgCopy e)
  else s.putEngine e { state := .draining, piece := none }

/-- DRAIN or ABORT of a link: its traffic moves to the others of its USE; ignored for the last. -/
def State.drainLink (s : State) (l : Nat) : State :=
  let k := s.link l
  if k.pageState ≠ .inService ∨ (s.linksOf k.use).length < 2 then s.badCtl (pgLink l)
  else (s.putLink l { k with page := .draining, retry := [], held := [] }).resend k.use (k.retry.map (fun f => (flVc f.2, f.2)) ++ k.held)

/-- DRAIN or ABORT of the fabric; ignored of a member whose twin engine needs the links. -/
def State.drainFabric (s : State) : State :=
  if s.lnk.fabric ≠ .inService ∨ s.twinned = true ∨ s.twin.state = .fillTarget then s.badCtl pgFabric
  else { s with lnk := { s.lnk with fabric := .draining } }

/-- Commands that use this module's links: collectives, PEER_PUT, SHARD FETCH, ring ATTN_FWD. -/
def usesLinks (c : Cmd) : Bool := needsPeer c || (c.opcode == 0x507 && fieldAt c.body 0 1 == 3)

/-! ### The rows -/

/-- PAGE_CTL.DRAIN. -/
def State.pageDrain (s : State) (p : Nat) : State :=
  match pageKind p with
  | .region r => s.drainRegion r
  | .tower t => s.drainTower t
  | .copy e => s.drainEngine e
  | .link l => s.drainLink l
  | .fabric => s.drainFabric
  | .none => s
  | _ => s.badCtl p

/-- PAGE_CTL.ABORT. -/
def State.pageAbort (s : State) (p : Nat) : State :=
  match pageKind p with
  | .region r => s.abortRegion r
  | _ => s.pageDrain p

/-- PAGE_CTL.ENABLE: from DRAINED only. -/
def State.pageEnable (s : State) (p : Nat) : State :=
  if pageKind p = .none then s
  else if s.pageState p ≠ .drained then s.badCtl p
  else
    match pageKind p with
    | .region r => s.putRegion r { s.region r with state := .admitting }
    | .tower t => s.putTower t { s.tower t with unit := .admitting }
    | .copy e => s.putEngine e { s.engine e with state := .admitting }
    | .link l => s.putLink l { s.link l with page := .inService }
    | .fabric => { s with lnk := { s.lnk with fabric := .inService } }
    | _ => s.badCtl p

/-- PAGE_DRAINED: a part that drains has no work left. -/
def State.pageDrained (s : State) (p : Nat) : State :=
  if s.pageState p ≠ .draining then s
  else
    match pageKind p with
    | .region r => if s.regionEmpty r then s.putRegion r { s.region r with state := .drained, aborting := false } else s
    | .tower t => if (s.tower t).cmds.isEmpty then s.putTower t { s.tower t with unit := .drained } else s
    | .copy e => if (s.engine e).piece.isNone then s.putEngine e { s.engine e with state := .drained } else s
    | .link l => if (s.link l).retry.isEmpty && (s.link l).held.isEmpty then s.putLink l { s.link l with page := .drained } else s
    | .fabric => if s.cmds.any (fun c => c.phase == .started && usesLinks c) then s else { s with lnk := { s.lnk with fabric := .drained } }
    | _ => s

/-- The image of the preferred bank for a TARGET may run: valid, and of the service image's COMPAT (R458). -/
def Boot.fits (k : Boot) (target : Nat) : Bool := k.imageOk k.preferred target && imCompat (k.image k.preferred target) == imCompat k.fw

/-- PAGE_ADMIT_DONE: the image is loaded, or the part does not come back. -/
def State.pageAdmitDone (s : State) (p : Nat) : State :=
  if s.pageState p ≠ .admitting then s
  else
    match pageKind p with
    | .region r =>
      if s.boot.fits 2 ∧ (s.region r).sound = true then
        s.putRegion r { s.region r with state := .inService, fw := imHeader (s.boot.image s.boot.preferred 2) }
      else s.regionFault r (pgRegion r)
    | .tower t =>
      if s.boot.fits 3 then s.putTower t { s.tower t with unit := .inService, fw := imHeader (s.boot.image s.boot.preferred 3) }
      else s.putTower t { s.tower t with unit := .drained }
    | .copy e => s.putEngine e { s.engine e with state := .inService }
    | _ => s

/-- REGION_GATE (R428): taken only as a whole, when every bit that changes names a region DRAINED or OFF. -/
def State.gateRegions (s : State) (v : Nat) : State :=
  let changed := (List.range 8).filter (fun r => v.testBit r != (s.region r).gated)
  if !changed.all (fun r => (s.region r).state == .drained || (s.region r).state == .off) then s.badWrite pgGov 0x128
  else
    changed.foldl (fun t r =>
      (t.putRegion r { t.region r with gated := v.testBit r, state := if v.testBit r then .off else .drained }).poisonSlice r) s

/-- PAGE_DRAIN (R458, R459, R486). -/
def execPageDrain (page : Nat) (s : State) : Host.Outcome State Fault Refusal := .next (if s.answers then s.pageDrain page else s)
/-- PAGE_ABORT (R460, R486). -/
def execPageAbort (page : Nat) (s : State) : Host.Outcome State Fault Refusal := .next (if s.answers then s.pageAbort page else s)
/-- PAGE_ENABLE (R458, R461, R486). -/
def execPageEnable (page : Nat) (s : State) : Host.Outcome State Fault Refusal := .next (if s.answers then s.pageEnable page else s)
/-- PAGE_ADMIT_DONE (R458, R461). -/
def execPageAdmitDone (page : Nat) (s : State) : Host.Outcome State Fault Refusal := .next (if s.fed then s.pageAdmitDone page else s)
/-- REGION_GATE_WRITE (R428, R458). -/
def execRegionGateWrite (value : Word) (s : State) : Host.Outcome State Fault Refusal := .next (if s.answers then s.gateRegions value.toNat else s)

end Sys2Proof.Machine
end

