-- ==== Sys2Proof/Machine/Service.lean ====
section
/-! DEFINITION. SERVICE: self-tests and calibrations with TEST_END, and the attestation report (R457, R463 to R465). -/

namespace Sys2Proof.Machine

/-! ### The body (R463, R464) -/

/-- The fields. -/
def svOp (c : Cmd) : Nat := c.fld 0 1
def svTest (c : Cmd) : Nat := c.fld 1 1
def svTarget (c : Cmd) : Nat := c.fld 2 2
def svReport (c : Cmd) : Nat := c.fld 8 8
def svNonce (c : Cmd) : Bytes := sliceOf c.body 16 32

/-- What a test works on. -/
inductive TestKind where
  | region | tower | spare | copy | link
deriving DecidableEq, Repr

/-- The kind of a test's target. -/
def testKind (code : Nat) : Option TestKind :=
  match code with
  | 0x01 | 0x02 | 0x12 => some .region
  | 0x03 => some .tower
  | 0x04 | 0x11 => some .spare
  | 0x05 => some .copy
  | 0x06 | 0x10 => some .link
  | _ => none

/-- TARGET lies in the range its code takes. -/
def targetOk (s : State) (c : Cmd) : Bool :=
  match testKind (svTest c) with
  | some .region => decide (svTarget c < 8)
  | some .tower => s.towerFitted (svTarget c)
  | some .spare => svTarget c == 17
  | some .copy => decide (svTarget c < 16)
  | some .link => decide (svTarget c < 24)
  | none => false

/-- SERVICE's checks. -/
def svCheck (s : State) (c : Cmd) : Option Status :=
  refuseUnless (c.zero 4 4 && c.zero 48 16 && svReport c % 32 == 0 &&
    (match svOp c with
     | 1 => decide (1 ≤ svTest c) && decide (svTest c ≤ 6) && targetOk s c
     | 2 => decide (0x10 ≤ svTest c) && decide (svTest c ≤ 0x12) && targetOk s c
     | 3 => svTest c == 0 && svReport c % 64 == 0
     | _ => false)) none

/-- Bytes of its report. -/
def svReportLen (c : Cmd) : Nat := if svOp c = 3 then 256 else 32

/-! ### Conditions and effects (R464, R465) -/

/-- The target meets the condition of its test at this moment. -/
def testReady (s : State) (c : Cmd) : Bool :=
  let t := svTarget c
  match testKind (svTest c) with
  | some .region => (s.region t).state == .drained || ((s.region t).state == .faulted && svTest c != 0x12)
  | some .tower => s.pageState (pgTower t) == .drained
  | some .spare => s.towerFitted 17 && s.tow.sts == .full && !(s.tower 17).failed
  | some .copy => (s.engine t).state == .drained
  | some .link => !(s.link t).enable && (s.link t).state != .failed && (s.link t).page != .testing
  | none => false

/-- The target is TESTING; what the test loses is lost. -/
def beginTest (s : State) (c : Cmd) : State :=
  let t := svTarget c
  match testKind (svTest c) with
  | some .region =>
    (let g := s.region t
     let u := s.putRegion t { g with state := .testing, faultSeen := g.state == .faulted }
     if svTest c = 2 then u.poisonSlice t else u)
  | some .tower | some .spare => s.putTower t { s.tower t with unit := .testing }
  | some .copy => s.putEngine t { s.engine t with state := .testing }
  | some .link => s.putLink t { s.link t with page := .testing, state := .down, farPos := 0xFFFF, farLink := 0, use := 0 }
  | none => s

/-- A test or calibration begins, or the command completes BUSY_IN_SERVICE (R465). Count 0: it has begun. Count 1: T17's unit was
in service. -/
def testStart (q n op : Nat) (s : State) : State :=
  match s.runnable q n (Cmd.isSub 0x805 op) with
  | none => s
  | some c =>
    if 0 < c.cnt 0 then s
    else if !testReady s c then s.putCmd { c with phase := .ended, status := .busyInService }
    else (beginTest s c).putCmd ((({ c with committed := true } : Cmd).addCnt 0 1).addCnt 1 (bit ((s.tower 17).unit == .inService)))

/-- SERVICE_SELF_TEST (R464, R465). -/
def execServiceSelfTest (q n : Nat) (s : State) : Host.Outcome State Fault Refusal := .next (testStart q n 1 s)
/-- SERVICE_CALIBRATE (R464, R465). -/
def execServiceCalibrate (q n : Nat) (s : State) : Host.Outcome State Fault Refusal := .next (testStart q n 2 s)

/-! ### The end of a test (R463, R464) -/

/-- A cell belongs to a test's target. -/
def cellIn (k : TestKind) (t : Nat) : Cell → Bool
  | .arrayColumn r _ _ | .laneGroup r _ _ | .expander r _ _ | .ivoryBank r _ => k == .region && r.val == t
  | .bankGroup x _ => (k == .spare || k == .tower) && x.val == t
  | .linkLane l _ => k == .link && l.val == t

/-- A block belongs to a test's target. -/
def blockIn (k : TestKind) (t : Nat) : Block → Bool
  | .array r _ | .vector r _ | .expanderPair r _ => k == .region && r.val == t
  | .reduction r | .walker r | .sequencer r | .arbiter r | .slice r => k == .region && r.val == t
  | .towerUnit x => k == .tower && x.val == t
  | .tower x => k == .spare && x.val == t
  | .copyEngine e => k == .copy && e.val == t
  | .checkUnit _ => false
  | .engine _ => false

/-- A cell is fenced. -/
def State.cellFenced (s : State) : Cell → Bool
  | .arrayColumn r x c => tabGet false ((s.region r).array x).colFenced c
  | .laneGroup r v k => tabGet false ((s.region r).vector v).groupFenced k
  | .expander r p k => tabGet false ((s.region r).expander p).outFenced k
  | .ivoryBank r b => tabGet false (s.region r).bankFenced b
  | .bankGroup t k => tabGet false (s.tower t).bankFenced k
  | .linkLane l k => tabGet false (s.link l).failedLanes k

/-- The cells that one fenced part counts for (R457): a column is 4 cells. -/
def Cell.weight : Cell → Nat
  | .arrayColumn _ _ _ => 4
  | _ => 1

/-- Fenced blocks of a region. -/
def Region.blocksFenced (g : Region) : Nat :=
  (g.arrays.filter (·.2.fenced)).length + (g.vectors.filter (·.2.fenced)).length + (g.expanders.filter (·.2.fenced)).length +
  bit g.reductionFenced + bit g.walkerFenced + bit g.sequencerFailed + bit g.sliceFailed

/-- Fenced cells of a region's blocks that are not fenced themselves. -/
def Region.cellsFenced (g : Region) : Nat :=
  (g.arrays.map (fun u => if u.2.fenced then 0 else 4 * u.2.colFenced.length)).sum +
  (g.vectors.map (fun u => if u.2.fenced then 0 else u.2.groupFenced.length)).sum +
  (g.expanders.map (fun u => if u.2.fenced then 0 else u.2.outFenced.length)).sum +
  (if g.sliceFailed then 0 else g.bankFenced.length)

/-- Fenced blocks of the whole module (R457). -/
def State.blocksFenced (s : State) : Nat :=
  (s.regions.map (fun g => g.2.blocksFenced)).sum + (s.tow.towers.filter (fun t => t.2.failed || t.2.unitFenced)).length +
  (s.copy.filter (fun e => e.2.state == .fencedOut)).length + s.checkFenced.length + (s.lnk.links.filter (fun l => l.2.state == .failed)).length

/-- Fenced cells of the whole module whose blocks are not fenced. -/
def State.cellsFenced (s : State) : Nat :=
  (s.regions.map (fun g => g.2.cellsFenced)).sum +
  (s.tow.towers.map (fun t => if t.2.failed || t.2.unitFenced then 0 else t.2.bankFenced.length)).sum +
  (s.lnk.links.map (fun l => if l.2.state == .failed then 0 else l.2.failedLanes.length)).sum

/-- The target has a part below its minimum; of copy engines one of each direction must be left (R18, R26). -/
def minimumBroken (s : State) (k : TestKind) (t : Nat) : Bool :=
  match k with
  | .region => !(s.region t).sound
  | .tower => (s.tower t).unitFenced
  | .spare => (s.tower 17).failed
  | .copy => s.enginesLeft (engineDir t) == 0
  | .link => (s.link t).standing == .failed

/-- The target leaves TESTING. -/
def leaveTest (s : State) (c : Cmd) (k : TestKind) : State :=
  let t := svTarget c
  match k with
  | .region => s.putRegion t { s.region t with state := if (s.region t).sound then .drained else .faulted, faultSeen := false }
  | .tower => s.putTower t { s.tower t with unit := .drained }
  | .spare => s.putTower 17 { s.tower 17 with unit := if c.cnt 1 = 1 then .inService else .drained, selfRefresh := false }
  | .copy => if (s.engine t).state = .fencedOut then s else s.putEngine t { s.engine t with state := .drained }
  | .link => s.putLink t { s.link t with page := .inService }

/-- What failed in the target is fenced. -/
def fenceFound (s : State) (k : TestKind) (t : Nat) (cells : List Cell) (blocks : List Block) : State :=
  let u := (cells.filter (cellIn k t)).foldl State.cellFails s
  (blocks.filter (blockIn k t)).foldl State.blockFails u

/-- The cells a test fences, each once. -/
def newCells (s : State) (k : TestKind) (t : Nat) (cells : List Cell) : Nat :=
  ((cells.filter (fun x => cellIn k t x && !s.cellFenced x)).eraseDups.map Cell.weight).sum

/-- TEST_END (R463, R464). (DEDUCED, log entry 59). -/
def testEnd (q n : Nat) (cells : List Cell) (blocks : List Block) (duration : Nat) (s : State) : State :=
  match s.runnable q n (fun c => Cmd.isOp 0x805 c && decide (0 < c.cnt 0)) with
  | none => s
  | some c =>
    match testKind (svTest c) with
    | none => s
    | some k =>
      let t := svTarget c
      let u := fenceFound s k t cells blocks
      let found := newCells s k t cells
      let down := u.blocksFenced - s.blocksFenced
      let result := if minimumBroken u k t then 2 else if found + down = 0 then 0 else 1
      let report := natBytes 1 result ++ natBytes 3 0 ++ natBytes 4 found ++ natBytes 4 down ++ natBytes 4 0 ++ natBytes 8 duration ++ natBytes 8 0
      let v := leaveTest u c k
      match writeReport v c true (svReport c) report with
      | .error st => v.endCmd pgService c st
      | .ok (w, d) => w.putCmd { d with phase := .ended, status := .ok, units := d.units + 1 }

/-- TEST_END. -/
def execTestEnd (q n : Nat) (cells : List Cell) (blocks : List Block) (duration : Nat) (s : State) : Host.Outcome State Fault Refusal :=
  .next (testEnd q n cells blocks duration s)

/-! ### Attestation (R457) -/

/-- The pages whose HAS_FW is 1, in ascending offset (R479). -/
def fwPages : List Nat := pgService :: (List.range 8).map pgRegion ++ (List.range 18).map pgTower

/-- The header of the image that a page's block has loaded; none when it is OFF, FENCED_OUT or holds none. -/
def State.fwOf (s : State) (p : Nat) : Bytes :=
  if s.pageState p = .off ∨ s.pageState p = .fencedOut then []
  else
    match pageKind p with
    | .region r => (s.region r).fw
    | .tower t => (s.tower t).fw
    | .engine => if p = 0 then s.boot.fw else []
    | _ => []

/-- MEASURE. -/
def State.measure (s : State) : Bytes :=
  sha512 (fwPages.flatMap (fun p => if (s.fwOf p).isEmpty then natBytes 64 0 else imDigest (s.fwOf p)))

/-- Towers fitted: 18 or 10 (R4). -/
def State.fitted (s : State) : Nat := match s.part with | .vgd1T => 18 | .vgd512 => 10

/-- The report's first 192 bytes. -/
def attestHead (s : State) (nonce : Bytes) : Bytes :=
  nonce ++ natBytes 2 s.lnk.position ++ natBytes 1 s.fitted ++ natBytes 1 s.boot.bank ++ natBytes 4 (s.cellsFenced + s.blocksFenced) ++
  natBytes 4 s.boot.svnMin ++ natBytes 4 0 ++ s.measure ++ s.boot.publicKey ++ natBytes 8 (160 * s.cycles) ++ natBytes 40 0

/-- The signed report. -/
def attestBytes (s : State) (nonce : Bytes) : Bytes :=
  attestHead s nonce ++ edSign s.boot.privateKey (attestHead s nonce)

/-- SERVICE as the dispatcher knows it; ATTEST is its one unit. -/
def serviceOp : Op :=
  { check := svCheck, ranges := fun _ c => [(svReport c, svReportLen c)], total := fun _ _ => 1,
    unit := fun s c _ => writeReport s c true (svReport c) (attestBytes s (svNonce c)), finish := finishOk,
    outs := fun _ c => [(svReport c, svReportLen c)], pages := fun _ _ => [] }

/-- SERVICE_ATTEST (R457). -/
def execServiceAttest (q n : Nat) (s : State) : Host.Outcome State Fault Refusal := .next (runRow serviceOp (Cmd.isSub 0x805 3) q n s)

end Sys2Proof.Machine
end

