-- ==== Sys2Proof/Machine/Whitepoint.lean ====
section
/-! DEFINITION. Whitepoints: WHITEPOINT TAKE and VERIFY, the stream of the snapshot, the comparison with the partner, and the
stop of a job whose copies differ (R415 to R423). -/

namespace Sys2Proof.Machine

/-! ### The body (R415) -/

/-- The fields. -/
def wpFlags (c : Cmd) : Nat := c.fld 1 1
def wpNLocal (c : Cmd) : Nat := c.fld 2 2
def wpNShard (c : Cmd) : Nat := c.fld 4 4
def wpDest (c : Cmd) : Nat := c.fld 8 8
def wpDestLen (c : Cmd) : Nat := c.fld 16 8
def wpManifest (c : Cmd) : Nat := c.fld 24 8
def wpLocalList (c : Cmd) : Nat := c.fld 32 8
def wpShardList (c : Cmd) : Nat := c.fld 40 8
def wpId (c : Cmd) : Nat := c.fld 48 8
def wpReport (c : Cmd) : Nat := c.fld 56 8
def wpManifest2 (c : Cmd) : Nat := c.fld 64 8

/-- The member-local ranges. -/
def State.wpLocals (s : State) (c : Cmd) : Except Status (List (Nat × Nat)) :=
  (s.dynRead c.q (wpLocalList c) (16 * wpNLocal c)).map (fun b => (pieces 16 b).map (fun e => (fieldAt e 0 8, fieldAt e 8 8)))

/-- The listed shards. -/
def State.wpShards (s : State) (c : Cmd) : Except Status (List Nat) :=
  (s.dynRead c.q (wpShardList c) (8 * wpNShard c)).map (fun b => (pieces 8 b).map leNat)

/-- The replicated blocks, in ascending order (R408, R425). -/
def Twin.blocks (w : Twin) : List Nat :=
  (w.rep.filter (fun e => e.2.valid)).foldl (fun acc e => (List.range (e.2.last + 1 - e.2.first)).foldl (fun a i => insertNat (e.2.first + i) a) acc) []

/-- This member's bit among its pair (R377). -/
def State.memberBit (s : State) : Nat := s.lnk.position % 2

/-- Whether this member streams the replicated block at an index of the replicated list (R416 step 6); a member without a running
partner, filling a spare among them, streams every one. -/
def State.streams (s : State) (i : Nat) : Bool := !s.isPaired || i % 2 == s.memberBit

/-- The blocks that a TAKE marks, in ascending order, with their places at DEST_ADDR (R416, R417). -/
def wpMarks (s : State) (locals : List (Nat × Nat)) : List WpBlock :=
  let reps := s.twin.blocks
  let locs := (locals.foldl (fun acc r => (mibsOf r.1 r.2).foldl (fun a b => insertNat b a) acc) []).filter (fun b => !reps.contains b)
  let all := (reps.zipIdx.map (fun x => (x.1, false, s.streams x.2))) ++ locs.map (fun b => (b, true, true))
  let order := all.foldl (fun acc x => insertNat x.1 acc) []
  let marked := order.filterMap (fun b => all.find? (fun x => x.1 == b))
  (marked.foldl (fun (acc : List WpBlock × Nat) x =>
    (acc.1 ++ [{ mib := x.1, loc := x.2.1, streamed := x.2.2, slot := acc.2 }], acc.2 + bit x.2.2)) ([], 0)).1

/-- Bytes that the marked blocks stream. -/
def wpStreamBytes (bs : List WpBlock) : Nat := 1048576 * (bs.filter (·.streamed)).length

/-- A range lies in marked blocks. -/
def inBlocks (bs : List WpBlock) (r : Nat × Nat) : Bool := (mibsOf r.1 r.2).all (fun b => bs.any (fun x => x.mib == b))

/-- A member-local range is a run of whole blocks of Ivory or Umber. -/
def wpLocalOk (s : State) (r : Nat × Nat) : Bool :=
  r.1 % 1048576 == 0 && r.2 % 1048576 == 0 && decide (0 < r.2) && s.mappedRange r.1 r.2 && s.tierOf r.1 != some .slate

/-- A listed shard: its record and its planes lie in the ranges. -/
def wpShardOk (s : State) (c : Cmd) (bs : List WpBlock) (a : Nat) : Except Status Bool :=
  (s.shard c.q a).map (fun r => inBlocks bs (a, 256) && r.planes.all (inBlocks bs))

/-- TAKE's own checks; it reads every block that it marks (R239, R363). -/
def takeCheck (s : State) (c : Cmd) : Option Status :=
  refuseUnless (wpDest c % 4096 == 0 && s.tierOf (wpDest c) == some .slate) <|
  match s.wpLocals c, s.wpShards c with
  | .error st, _ => some st
  | _, .error st => some st
  | .ok ls, .ok shs =>
    let bs := wpMarks s ls
    let rs := bs.map (fun b => (b.mib * 1048576, 1048576))
    refuseUnless (ls.all (wpLocalOk s) && shs.all (fun a => a % 64 == 0) && rangesMapped s rs) <|
    if !rangesInWindow s c.q rs then some .windowFault else
    refuseUnless (decide (wpStreamBytes bs ≤ wpDestLen c)) <|
    match shs.mapM (wpShardOk s c bs) with
    | .error st => some st
    | .ok oks => refuseUnless (oks.all id) none

/-- WHITEPOINT's checks (R415, R416). -/
def wpCheck (s : State) (c : Cmd) : Option Status :=
  refuseUnless ((c.fld 0 1 == 1 || c.fld 0 1 == 2) && decide (wpFlags c < 2) && decide (wpNLocal c ≤ 64) && decide (wpNShard c ≤ 65536) &&
    wpManifest c % 64 == 0 && s.tierOf (wpManifest c) == some .slate && wpReport c % 32 == 0 &&
    (c.fld 0 1 == 1 || wpManifest2 c == 0 || (wpManifest2 c % 64 == 0 && s.tierOf (wpManifest2 c) == some .slate)) && c.zero 72 56) <|
  if c.fld 0 1 = 1 then takeCheck s c else none

/-- The ranges its fields name. -/
def wpRanges (_ : State) (c : Cmd) : List (Nat × Nat) :=
  if c.fld 0 1 = 1 then
    [(wpDest c, wpDestLen c), (wpManifest c, 256), (wpLocalList c, 16 * wpNLocal c), (wpShardList c, 8 * wpNShard c), (wpReport c, 32)]
  else [(wpManifest c, 256), (wpReport c, 32 + 16 * 255)] ++ (if wpManifest2 c = 0 then [] else [(wpManifest2 c, 256)])

/-- What a WHITEPOINT leaves undefined when it ends early. -/
def wpOuts (_ : State) (c : Cmd) : List (Nat × Nat) :=
  (if c.fld 0 1 = 1 then [(wpDest c, wpDestLen c), (wpManifest c, 256)] else []) ++ [(wpReport c, if c.fld 0 1 = 1 then 32 else 32 + 16 * 255)]

/-! ### The report and the job's stop (R419, R423) -/

/-- The 32 bytes of the report. -/
def wpReportBytes (stop sent : Nat) (diff : Option Nat) (stream : Nat) : Bytes :=
  natBytes 8 stop ++ natBytes 8 sent ++ natBytes 8 (diff.getD (2 ^ 64 - 1)) ++ natBytes 8 stream

/-- A WHITEPOINT ends with a status; the report is always written, and one that cannot be gives its own status. -/
def wpEnd (s : State) (c : Cmd) (st : Status) (report : Bytes) : State :=
  match writeReport s c true (wpReport c) report with
  | .error e => s.endCmd pgTwin c e
  | .ok (t, d) => t.endCmd pgTwin d st

/-- JOB_DIVERGED_STOP (R423): DIVERGED is set and every queue of the job is aborted. -/
def jobStop (s : State) (q : Nat) : State :=
  let seed := (s.queue q).jobSeed
  let job := (s.queues.filter (fun e => e.2.jobSeed == seed && e.2.state.canAbort)).map (·.1)
  job.foldl (fun t p => t.abortQueue p) { s with twin := { s.twin with diverged := true } }

/-- A TAKE is over: nothing is marked any more, and its cost is known (R420). -/
def State.wpClose (s : State) : State :=
  { s with twin := { s.twin with wpState := 0, wp := {}, wpLastStop := s.twin.wp.stop, wpLastStream := s.twin.wp.stream, wpTaken := s.twin.wpTaken + 1 } }

/-- A status that ends a WHITEPOINT from outside: its report, and a TAKE that waits or is under way is over. -/
def wpLeave (s : State) (c : Cmd) (st : Status) : State × Cmd :=
  let w := s.twin.wp
  let own := w.running && w.q == c.q && w.n == c.n
  let s := if c.fld 0 1 = 1 ∧ w.running = false then { s with twin := { s.twin with wpState := 0 } } else s
  leaveReport (fun _ => true) wpReport (fun _ _ => if own then wpReportBytes w.stop w.sent none w.stream else wpReportBytes 0 0 none 0)
    (if own then s.wpClose else s) c st

/-- WHITEPOINT as the dispatcher knows it; its work is done by the rows of this file. -/
def whitepointOp : Op :=
  { check := wpCheck, ranges := wpRanges, total := fun _ _ => 1, unit := fun s c _ => .ok (s, c), finish := finishOk, outs := wpOuts,
    pages := fun _ _ => [], leave := wpLeave }

/-- A TAKE ends with a status. -/
def takeEnd (s : State) (c : Cmd) (st : Status) (diff : Option Nat) : State :=
  wpEnd s.wpClose c st (wpReportBytes s.twin.wp.stop s.twin.wp.sent diff s.twin.wp.stream)

/-! ### TAKE (R416) -/

/-- Every listed shard is idle. -/
def wpIdle (s : State) (c : Cmd) : Bool :=
  match s.wpShards c with
  | .error _ => true
  | .ok shs => shs.all (fun a => match s.shard c.q a with | .ok r => r.busySeq == 0 | .error _ => true)

/-- Steps 2 and 3: every unit stops at a boundary, the parity buffer is flushed, the blocks are marked, and the versions and
WRITE_REC recorded; step 4: all work resumes. The partner learns the versions. -/
def wpMark (s : State) (c : Cmd) (stop : Nat) (ls : List (Nat × Nat)) (vs : List Nat) : State :=
  let t := s.flushParity
  let w : WpRun := { q := c.q, n := c.n, running := true, blocks := wpMarks t ls, versions := vs, jrec := t.jnl.writeRec, stop := stop }
  let t := { t with twin := { t.twin with wp := w, wpState := 4 } }
  if t.isPaired then t.sendTwin "WP_VERSIONS" vs [] else t

/-- WHITEPOINT_TAKE: while a listed shard is busy it waits; otherwise it marks. -/
def whitepointTake (q n stop : Nat) (s : State) : State :=
  match s.runnable q n (Cmd.isSub 0x804 1) with
  | none => s
  | some c =>
    if s.twin.wp.running then s
    else if !wpIdle s c then { s with twin := { s.twin with wpState := 1 } }
    else
      match s.wpLocals c, (s.wpShards c).bind (fun shs => shs.mapM (fun a => (s.shard c.q a).map Shard.version)) with
      | .error st, _ => wpEnd { s with twin := { s.twin with wpState := 0 } } c st (wpReportBytes 0 0 none 0)
      | _, .error st => wpEnd { s with twin := { s.twin with wpState := 0 } } c st (wpReportBytes 0 0 none 0)
      | .ok ls, .ok vs => (wpMark s c stop ls vs).putCmd { c with committed := true }

/-- WHITEPOINT_TAKE (R416 steps 1 to 4). -/
def execWhitepointTake (q n stopCycles : Nat) (s : State) : Host.Outcome State Fault Refusal := .next (whitepointTake q n stopCycles s)

/-! ### The stream (R416 to R418) -/

/-- A digest entry (R417). -/
def WpDigest.bytes (d : WpDigest) : Bytes := natBytes 8 (d.mib * 1048576 + 2 * bit d.loc + bit d.streamed) ++ natBytes 8 d.crc.toNat

/-- The digest list, in ascending address. -/
def WpRun.list (w : WpRun) : Bytes :=
  let order := w.digests.foldl (fun a d => insertNat d.mib a) []
  order.flatMap (fun b => ((w.digests.find? (fun d => d.mib == b)).map WpDigest.bytes).getD [])

/-- The manifest's first 128 bytes, then its signature and the reserved bytes (R417). -/
def manifestBytes (s : State) (c : Cmd) (w : WpRun) (list : Bytes) : Bytes :=
  let head := natBytes 8 (wpId c) ++ natBytes 2 s.lnk.position ++ natBytes 2 (if s.isPaired then s.twin.partnerPos else 0xFFFF) ++
    natBytes 4 w.digests.length ++ natBytes 8 (1048576 * w.sent) ++ natBytes 8 w.jrec ++ sha512 list ++ s.boot.publicKey
  head ++ edSign s.boot.privateKey head ++ natBytes 64 0

/-- A working copy of a listed shard differs from its master (R221); a shard in use is waited for. -/
def wpShardFound (s : State) (c : Cmd) (a : Nat) : Except Status Bool := do
  let r ← s.shard c.q a
  (List.range r.count).foldlM (fun (bad : Bool) i => if bad then .ok true else (checkElem s c.q r i).map (·.isSome)) false

/-- Steps 7 and 8: the shards are checked, the digest list and the manifest written. -/
def wpFinal (s : State) (c : Cmd) : State :=
  let w := s.twin.wp
  let list := w.list
  match (s.wpShards c).bind (fun shs => shs.mapM (wpShardFound s c)) with
  | .error st => takeEnd s c st none
  | .ok bad =>
    match commitWrites s c ⟨[(wpManifest c + 256, list)], 0⟩ with
    | .error st => takeEnd s c st none
    | .ok (t, d) =>
      if w.poisoned then takeEnd t d .poisoned none
      else if bad.any id then takeEnd t d .diverged none
      else
        match commitWrites t d ⟨[(wpManifest c, manifestBytes t d w list)], 0⟩ with
        | .error st => takeEnd t d st none
        | .ok (u, e) => takeEnd u e .ok none

/-- The content of a marked block as it stood when it was marked. -/
def wpContent (s : State) (b : WpBlock) : Bytes × Bool :=
  match s.twin.wp.saved.find? (fun x => x.mib == b.mib) with
  | some x => (x.bytes, x.poisoned)
  | none => (let c := s.blockAt b.mib; (c.1, !c.2.isEmpty))

/-- The check-value unit that digests an Ivory block: the first in service from the block's number on. -/
def State.checkUnitFor (s : State) (b : Nat) : Nat :=
  (((List.range 4).map (fun i => (b + i) % 4)).find? (fun u => !tabGet false s.checkFenced u)).getD 0

/-- A block is digested: an Ivory block on a check-value unit, which counts it. -/
def State.countDigest (s : State) (b : Nat) : State :=
  if s.tierOf (b * 1048576) = some .ivory then s.count (pgCheck (s.checkUnitFor b)) 0x1A01 1 else s

/-- The next marked block is digested and, if this member streams it, written at its place at DEST_ADDR. A poisoned block gets
its entry and is not streamed. -/
def wpStreamNext (s : State) (c : Cmd) (b : WpBlock) (rest : List WpBlock) (cycles : Nat) : Except Status (State × Cmd) :=
  let x := wpContent s b
  let d : WpDigest := { mib := b.mib, loc := b.loc, streamed := b.streamed && !x.2, crc := if x.2 then Config.freeValue s.freeCount 64 else crc64 x.1, poisoned := x.2 }
  let go := b.streamed && !x.2
  let w := s.twin.wp
  let v : WpRun := { w with blocks := rest, saved := w.saved.filter (fun y => y.mib != b.mib), digests := w.digests ++ [d], sent := w.sent + bit go,
                            stream := w.stream + cycles, poisoned := w.poisoned || x.2 }
  let t := { s with twin := { s.twin with wp := v }, freeCount := s.freeCount + bit x.2 }.countDigest b.mib
  let c := { c with units := c.units + 1 }
  if go then commitWrites t c ⟨[(wpDest c + 1048576 * b.slot, x.1)], 0⟩ else .ok (t, c)

/-- The digests that this member and its partner both hold: those of the replicated blocks that are not poisoned. -/
def WpRun.shared (w : WpRun) : List Nat := (w.digests.filter (fun d => !d.loc && !d.poisoned)).flatMap (fun d => [d.mib, d.crc.toNat])

/-- WP_BLOCK_STREAM: one marked block; after the last, once the partner's digests agree, the shards' checks and the manifest. (DEDUCED, log entry 57). -/
def wpBlockStream (q n cycles : Nat) (s : State) : State :=
  match s.runnable q n (Cmd.isSub 0x804 1) with
  | none => s
  | some c =>
    let w := s.twin.wp
    if !(w.running && w.q == q && w.n == n) then s else
    match w.blocks with
    | b :: rest =>
      match wpStreamNext s c b rest cycles with
      | .error st => takeEnd s c st none
      | .ok (t, d) =>
        let t := if rest.isEmpty && t.isPaired then t.sendTwin "WP_DIGESTS" t.twin.wp.shared [] else t
        if rest.isEmpty && (t.twin.wp.partnerOk || !t.isPaired) then wpFinal t d else t.putCmd d
    | [] => if w.partnerOk || !s.isPaired then wpFinal s c else s

/-- WP_BLOCK_STREAM (R416 steps 5 to 8). -/
def execWpBlockStream (q n cycles : Nat) (s : State) : Host.Outcome State Fault Refusal := .next (wpBlockStream q n cycles s)

/-- This member's digest of a replicated marked block: of one already digested, or of what the block held when marked; a poisoned
block has none, since it is no intact copy (R418, R419). -/
def wpOwnDigest (s : State) (b : Nat) : Option Word :=
  match s.twin.wp.digests.find? (fun d => d.mib == b && !d.loc) with
  | some d => if d.poisoned then none else some d.crc
  | none => (s.twin.wp.blocks.find? (fun x => x.mib == b && !x.loc)).bind (fun x => let y := wpContent s x
      if y.2 then none else some (crc64 y.1))

/-- The first status that applies: POISONED before the comparison's (R419). -/
def wpStatus (w : WpRun) (st : Status) : Status := if w.poisoned then .poisoned else st

/-- WP_DIGEST_RECEIVE (R418): the versions are compared, then the replicated digests; two copies that differ are DIVERGED. -/
def wpDigestReceive (q n : Nat) (versions : List Nat) (digests : List (Nat × Word)) (s : State) : State :=
  match s.runnable q n (Cmd.isSub 0x804 1) with
  | none => s
  | some c =>
    let w := s.twin.wp
    if !(w.running && w.q == q && w.n == n && s.isPaired) then s
    else if versions ≠ w.versions then takeEnd s c (wpStatus w .versionMismatch) none
    else
      match digests.find? (fun d => match wpOwnDigest s d.1 with | some x => x != d.2 | none => false) with
      | some d => jobStop (takeEnd s c (wpStatus w .diverged) (some (d.1 * 1048576))) q
      | none =>
        let v : WpRun := { w with partnerOk := true }
        let t := { s with twin := { s.twin with wp := v } }
        if w.blocks.isEmpty then wpFinal t c else t

/-- WP_DIGEST_RECEIVE (R418). -/
def execWpDigestReceive (q n : Nat) (versions : List Nat) (digests : List (Nat × Word)) (s : State) : Host.Outcome State Fault Refusal :=
  .next (wpDigestReceive q n versions digests s)

/-! ### VERIFY (R422, R423) -/

/-- A manifest that passes: its entries, as block and entry word, and digest. -/
def readManifest (s : State) (c : Cmd) (a : Nat) : Except Status (Option (List (Nat × Nat × Word))) := do
  let m ← s.dynRead c.q a 256
  let list ← s.dynRead c.q (a + 256) (16 * fieldAt m 12 4)
  let es := (pieces 16 list).map (fun e => (fieldAt e 0 8 / 1048576 % 2 ^ 28, fieldAt e 0 8, BitVec.ofNat 64 (fieldAt e 8 8)))
  .ok (if edVerify (sliceOf m 96 32) (sliceOf m 0 128) (sliceOf m 128 64) && sliceOf m 32 64 == sha512 list &&
      es.all (fun e => s.mappedRange (e.1 * 1048576) 1048576) then some es else none)

/-- How many copies hold a value. -/
def heldBy (x : Word) (cs : List Word) : Nat := (cs.filter (· == x)).length

/-- How the copies of a block settle, the restored one first (R423). -/
inductive Settled where
  | confirmed
  /-- a majority stands; its value, and whether the restored copy lost -/
  | majority (value : Word) (lost : Bool)
  | diverged
deriving DecidableEq, Repr

/-- The table of R423. -/
def settleCopies (cs : List Word) : Settled :=
  let own := nth 0 cs 0
  if cs.all (· == own) then .confirmed
  else if cs.length < 3 then .diverged
  else
    match cs.find? (fun x => decide (2 ≤ heldBy x cs) && cs.all (fun y => y == x || decide (heldBy y cs < heldBy x cs))) with
    | some x => .majority x (x != own)
    | none => .diverged

/-- What VERIFY has found so far: lost blocks with their entry word and the majority's value, the first differing block, a
DIVERGED finding, majorities. -/
structure WpVerdict where
  lost     : List (Nat × Word) := []
  diff     : Option Nat := none
  diverged : Bool := false
  majority : Nat := 0

/-- One block's verdict. -/
def WpVerdict.add (v : WpVerdict) (mib entry : Nat) (x : Settled) : WpVerdict :=
  match x with
  | .confirmed => v
  | .majority w l => { v with lost := if l then v.lost ++ [(entry, w)] else v.lost, diff := v.diff.or (some (mib * 1048576)), majority := v.majority + 1 }
  | .diverged => { v with diff := v.diff.or (some (mib * 1048576)), diverged := true }

/-- Every block that a passing manifest lists, read and settled. -/
def verifyBlocks (s : State) (c : Cmd) (ms : List (List (Nat × Nat × Word))) (live : List (Nat × Word)) : Except Status WpVerdict :=
  let order := (ms.flatten).foldl (fun a e => insertNat e.1 a) []
  order.foldlM (fun (v : WpVerdict) b => do
    let bytes ← s.dynRead c.q (b * 1048576) 1048576
    let digests := ms.filterMap (fun m => (m.find? (fun e => e.1 == b)).map (·.2.2))
    let twin := if bitAt (wpFlags c) 0 ∧ (s.twin.state = .paired ∨ s.twin.state = .shared) then (live.filter (fun d => d.1 == b)).map (·.2) else []
    let entry := (((ms.flatten).find? (fun e => e.1 == b)).map (·.2.1)).getD (b * 1048576)
    .ok (v.add b entry (settleCopies (crc64 bytes :: digests ++ twin)))) {}

/-- VERIFY's end: the report with the lost blocks, the counts, and the status by the order of R419. (DEDUCED, log entry 58). -/
def verifyEnd (s : State) (c : Cmd) (v : WpVerdict) : State :=
  let bytes := wpReportBytes 0 0 v.diff 0 ++ (v.lost.take 255).flatMap (fun e => natBytes 8 e.1 ++ natBytes 8 e.2.toNat)
  let st := if !v.lost.isEmpty then Status.checkFail else if v.diverged then .diverged else .ok
  let t := wpEnd (s.count pgTwin 0x1503 v.majority) c st bytes
  if v.diverged then jobStop t c.q else t

/-- WHITEPOINT_VERIFY. -/
def whitepointVerify (q n : Nat) (live : List (Nat × Word)) (s : State) : State :=
  match s.runnable q n (Cmd.isSub 0x804 2) with
  | none => s
  | some c =>
    match (wpManifest c :: (if wpManifest2 c = 0 then [] else [wpManifest2 c])).mapM (readManifest s c) with
    | .error st => wpEnd s c st (wpReportBytes 0 0 none 0)
    | .ok ms =>
      let passing := ms.filterMap id
      if passing.isEmpty then wpEnd s c .checkFail (wpReportBytes 0 0 none 0)
      else
        match verifyBlocks s c passing live with
        | .error st => wpEnd s c st (wpReportBytes 0 0 none 0)
        | .ok v => verifyEnd s c v

/-- WHITEPOINT_VERIFY (R422). -/
def execWhitepointVerify (q n : Nat) (partnerLive : List (Nat × Word)) (s : State) : Host.Outcome State Fault Refusal :=
  .next (whitepointVerify q n partnerLive s)

end Sys2Proof.Machine
end

