-- ==== Sys2Proof/Machine/Queue.lean ====
section
/-! DEFINITION. Queues from doorbell to completion: doorbells, descriptor fetches, acceptance, dispatch, the commit point,
completion, and the queue registers (R24, R337 to R366). -/

namespace Sys2Proof.Machine

/-! ### Every opcode (R1, R346) -/

/-- Synchronisation, Whitepoints and service (R362, R415, R463). -/
def syncReg (code : Nat) : Option Reg :=
  match code with
  | 0x801 => some { op := fenceOp, len := some 0 }
  | 0x802 => some { op := signalOp, len := some 0 }
  | 0x803 => some { op := waitOp, len := some 0 }
  | 0x804 => some { op := whitepointOp, len := some 128 }
  | 0x805 => some { op := serviceOp, len := some 64 }
  | _ => none

/-- The opcodes of streams and handle queues (R312). -/
def streamReg (code : Nat) : Option Reg :=
  if code = 0x105 then some { op := streamOp, len := some 64, start := streamStart }
  else if code = 0x106 then some { op := hqOp, len := some 64 }
  else none

/-- What the module knows of a command's opcode; `none`: the manual does not define it. -/
def regOf (c : Cmd) : Option Reg :=
  ((runReg [] c.opcode c).or (trainReg c.opcode c)).or ((compressReg c.opcode).or ((collReg c.opcode).or ((streamReg c.opcode).or (syncReg c.opcode))))

/-- The offset of STEP in an opcode's body (R349). -/
def stepOffset (code : Nat) : Option Nat :=
  match code with
  | 0x101 | 0x103 | 0x104 => some 196
  | 0x201 | 0x203 => some 260
  | 0x301 | 0x302 | 0x303 | 0x304 | 0x305 | 0x306 => some 32
  | 0x401 => some 200
  | 0x402 => some 460
  | 0x403 => some 84
  | 0x503 => some 80
  | 0x505 => some 200
  | 0x506 => some 160
  | 0x601 | 0x602 | 0x603 | 0x604 => some 136
  | _ => none

/-! ### Doorbells (R340, R342) -/

/-- A doorbell is refused (R340). -/
def State.refuseDoorbell (s : State) (q reason : Nat) : State :=
  (({ s with per := { s.per with dbReason := reason, dbQueue := q % 2 ^ 18 } }).raiseBlockBit pgPerast 17 0).count pgPerast 0x1405 1

/-- VALUE extended to a sequence number from `head` on (R342). -/
def extendSeq (head value : Nat) : Nat := head + (value + 2 ^ 32 - head % 2 ^ 32) % 2 ^ 32

/-- A doorbell takes its queue out of PARKED_STALE (R340, R345). -/
def QueueCtx.unpark (x : QueueCtx) : QueueCtx := if x.state = .parkedStale then { x with state := .active, stale := false, tries := 0 } else x

/-- A doorbell is taken. -/
def State.tookDoorbell (s : State) (q : Nat) (x : QueueCtx) : State := (s.putQueue q x.unpark).count pgPerast 0x1404 1

/-- The state takes doorbells (R340). -/
def QState.takes (x : QState) : Bool := x == .active || x == .parkedStale || x == .held

/-- A doorbell's common checks: `none` when it may be taken. (DEDUCED, log entry 22). -/
def doorbellReason (s : State) (offset size : Nat) (reserved : BitVec 13) (queue : BitVec 18) : Option Nat :=
  let q := (offset - 0x1000000) / 8
  if size ≠ 8 ∨ offset % 8 ≠ 0 then some 5
  else if reserved ≠ 0 then some 6
  else if queue.toNat ≠ q then some 4
  else if (s.queue q).state.takes then none else some 1

/-- The queue of a doorbell's address. -/
def doorbellQueue (offset : Nat) : Nat := (offset - 0x1000000) / 8

/-- KIND 0: TAIL_SEQ rises. -/
def doorbellTail (offset size : Nat) (value : BitVec 32) (reserved : BitVec 13) (queue : BitVec 18) (s : State) : State :=
  let q := doorbellQueue offset
  if !s.answers then s else
  match doorbellReason s offset size reserved queue with
  | some r => s.refuseDoorbell q r
  | none =>
    let x := s.queue q
    let t := extendSeq x.cqHead value.toNat
    if x.cqHead + x.slots < t then s.refuseDoorbell q 2 else s.tookDoorbell q { x with tailSeq := max x.tailSeq t }

/-- Completion records that a replay would write again, and that the doorbell says were consumed, are written no more (R367 step 5). -/
def State.dropConsumed (s : State) (q t : Nat) : State :=
  { s with cmds := s.cmds.filter (fun c => !(c.q == q && c.phase == .journaled && decide (c.n ≤ t))) }

/-- KIND 1: CQ_HEAD rises, and the journal engine hears of it (R355). -/
def doorbellConsumed (offset size : Nat) (value : BitVec 32) (reserved : BitVec 13) (queue : BitVec 18) (s : State) : State :=
  let q := doorbellQueue offset
  if !s.answers then s else
  match doorbellReason s offset size reserved queue with
  | some r => s.refuseDoorbell q r
  | none =>
    let x := s.queue q
    let t := extendSeq x.cqHead value.toNat
    if t ≤ x.cqHead ∨ x.doneSeq < t then s.refuseDoorbell q 3
    else
      let u := (s.tookDoorbell q { x with cqHead := t }).dropConsumed q t
      (({ u with jnl := { u.jnl with consume := insertNat q u.jnl.consume } } : State).releaseHeld q).settleReplay

/-- DOORBELL_TAIL. -/
def execDoorbellTail (offset size : Nat) (value : BitVec 32) (reserved : BitVec 13) (queue : BitVec 18) (s : State) :
    Host.Outcome State Fault Refusal := .next (doorbellTail offset size value reserved queue s)
/-- DOORBELL_CONSUMED. -/
def execDoorbellConsumed (offset size : Nat) (value : BitVec 32) (reserved : BitVec 13) (queue : BitVec 18) (s : State) :
    Host.Outcome State Fault Refusal := .next (doorbellConsumed offset size value reserved queue s)

/-! ### Fetching descriptors (R344, R345) -/

/-- The next sequence number to fetch: after those fetched, those ready and the one whose acceptance is under way. -/
def State.nextFetch (s : State) (q : Nat) : Nat :=
  (s.queue q).nextSeq + (s.fetches.filter (fun f => f.q == q)).length + (s.ready.filter (fun r => r.q == q)).length +
  (s.cmds.filter (fun c => c.q == q && decide ((s.queue q).nextSeq ≤ c.n))).length

/-- The last sequence number that may be fetched. -/
def QueueCtx.fetchLimit (x : QueueCtx) : Nat := if x.state = .draining then x.drainTail else x.tailSeq

/-- The queue has a descriptor to fetch. -/
def State.canFetch (s : State) (q : Nat) : Bool :=
  let x := s.queue q
  (x.state == .active || x.state == .draining) && !x.stale && decide (s.nextFetch q ≤ x.fetchLimit)

/-- The queue whose turn it is: the first after the last one served that has something to fetch. -/
def State.fetchTurn (s : State) : Option Nat :=
  let qs := (s.queues.map (·.1)).filter s.canFetch
  (qs.find? (fun q => decide (s.rrQueue < q))).or qs.head?

/-- DESC_FETCH: one turn of at most 8 consecutive fetches, 64 outstanding in all. -/
def descFetch (s : State) : State :=
  if !s.alive || !(s.jnl.state == .live || s.jnl.state == .replaying) then s else
  match s.fetchTurn with
  | none => s
  | some q =>
    let a := s.nextFetch q
    let k := min (min 8 (64 - s.fetches.length)) ((s.queue q).fetchLimit + 1 - a)
    { s with fetches := s.fetches ++ (List.range k).map (fun i => ({ q := q, n := a + i } : Fetch)), rrQueue := q }

/-- DESC_FETCH (R344). -/
def execDescFetch (s : State) : Host.Outcome State Fault Refusal := .next (descFetch s)

/-- The address of submission slot `n` of a queue. -/
def QueueCtx.slotAddr (x : QueueCtx) (n : Nat) : Nat := x.sqBase + 64 * (n % x.slots)

/-- Step 1 of R344. -/
def descOk (d : Bytes) (n : Nat) : Bool := d.length == 64 && crc32c (sliceOf d 0 60) == fieldAt d 60 4 && fieldAt d 56 4 == n % 2 ^ 32

/-- What a fetch returns, and the state in which Slate's bytes are the companion's latest (R334). -/
def fetchBytes (s : State) (q n : Nat) (read : FetchRead) : State × Option Bytes :=
  let a := (s.queue q).slotAddr n
  if s.tierOf a = some .slate then
    (if !s.per.linkUp then (s, none) else
     match read with
     | .ok => (s, (s.readBytes a 64).toOption)
     | .data bs => (s.pokeBytes a bs, some bs)
     | .error => (s, none)
     | .timeout => (s.count pgPerast 0x1408 1, none))
  else (s, (s.readBytes a 64).toOption)

/-- After the eighth re-fetch the queue parks once every descriptor before the stale one is accepted: NEXT_SEQ is its number (R345). -/
def State.settlePark (s : State) (q : Nat) : State :=
  let x := s.queue q
  if x.state = .active ∧ x.stale = true ∧ 8 ≤ x.tries ∧ s.nextFetch q = x.nextSeq then
    (s.putQueue q { x with state := .parkedStale }).count pgPerast 0x1402 1
  else s

/-- A descriptor is stale: later fetches of the queue are dropped; after the eighth re-fetch the queue parks, or a draining queue
stops there. -/
def State.staleFetch (s : State) (q n : Nat) : State :=
  let x := s.queue q
  let t := { s with fetches := s.fetches.filter (fun f => f.q != q) }
  if 8 ≤ x.tries ∧ x.state = .draining then (t.putQueue q { x with drainTail := n - 1, stale := false, tries := 0 }).settleQueue q
  else (t.putQueue q { x with stale := true }).settlePark q

/-- DESC_FETCH_RETURN: the queue's oldest fetch returns. (DEDUCED, log entry 23). -/
def descFetchReturn (q : Nat) (read : FetchRead) (s : State) : State :=
  if !s.alive then s else
  match s.fetches.find? (fun f => f.q == q) with
  | none => s
  | some f =>
    let s := { s with fetches := s.fetches.erase f }
    match fetchBytes s q f.n read with
    | (t, none) => t.staleFetch q f.n
    | (t, some d) =>
      if descOk d f.n then { (t.putQueue q { t.queue q with tries := 0, stale := false }) with ready := t.ready ++ [{ q := q, n := f.n, desc := d }] }
      else t.staleFetch q f.n

/-- DESC_FETCH_RETURN (R344, R345). -/
def execDescFetchReturn (q : Nat) (read : FetchRead) (s : State) : Host.Outcome State Fault Refusal := .next (descFetchReturn q read s)

/-- DESC_REFETCH: the stale descriptor is fetched again. -/
def descRefetch (q : Nat) (s : State) : State :=
  let x := s.queue q
  if s.alive && x.stale && decide (x.tries < 8) && (x.state == .active || x.state == .draining) && decide (s.fetches.length < 64) then
    ({ (s.putQueue q { x with stale := false, tries := x.tries + 1 }) with fetches := s.fetches ++ [({ q := q, n := s.nextFetch q } : Fetch)] }).count pgPerast 0x1401 1
  else s

/-- DESC_REFETCH (R345). -/
def execDescRefetch (q : Nat) (s : State) : Host.Outcome State Fault Refusal := .next (descRefetch q s)

/-! ### Acceptance (R346, R349, R354, R355) -/

/-- Check 1 of R346 refuses the command. -/
def failsCheck1 (c : Cmd) : Bool := (regOf c).isNone || decide (2 ≤ c.descFlags) || bitsOf c.marks 28 24 != 0

/-- STEP of a command's body, where it has one and it can be read (R349). -/
def State.stepOf (s : State) (c : Cmd) : Option Nat :=
  if c.refused1 then none
  else (stepOffset c.opcode).bind (fun o => ((s.readBytes (c.bodyAddr + o) 4).toOption).map leNat)

/-- Step 3 of R349: NEXT_SEQ rises and LAST_STEP is recorded; a queue that aborts ends the command at once (R366). -/
def State.finishAccept (s : State) (q n : Nat) : State :=
  match s.cmd? q n with
  | none => s
  | some c =>
    let x := s.queue q
    let t := s.putQueue q { x with nextSeq := n + 1, lastStep := (c.step.getD x.lastStep) % 2 ^ 32 }
    let c := { c with mirrored := true }
    let t := (t.putCmd (if x.state = .aborting then c.abort else c)).count pgService 0x1001 1
    (t.settlePark q).settleQueue q

/-- Journal slots that must stay free: this command's two records, a COMPLETE record for every accepted command, and for each
enabled queue a CONTEXT and a CONSUMED record (R354). (DEDUCED, log entry 24). -/
def State.roomNeeded (s : State) : Nat :=
  2 + (s.cmds.filter (fun c => c.phase != .journaled)).length + 2 * (s.queues.filter (fun e => e.2.state != .disabled)).length

/-- Acceptance may go on for queue `q`. -/
def State.accepts (s : State) (q : Nat) : Bool :=
  let x := s.queue q
  (x.state == .active || x.state == .draining) && (s.jnl.state == .live || s.jnl.state == .replaying) && s.journalOpen &&
  !s.cmds.any (fun c => c.q == q && c.phase == .accepted && !c.mirrored) && decide (x.nextSeq ≤ x.jnlHead + x.slots)

/-- The command that a ready descriptor spells, as acceptance finds it: its check 1 made, the step it starts read (R346, R349). -/
def State.newCmd (s : State) (q : Nat) (r : Ready) : Cmd :=
  let c : Cmd := { q := q, n := r.n, desc := r.desc, mirrored := false }
  let d : Cmd := { c with refused1 := failsCheck1 c }
  { d with step := s.stepOf d }

/-- A ready descriptor has become a command in flight. -/
def State.withAccepted (s : State) (r : Ready) (c : Cmd) : State := { s with ready := s.ready.erase r, cmds := s.cmds ++ [c] }

/-- COMMAND_ACCEPT: the ACCEPT record; the partner's acknowledgement is awaited when there is one. -/
def commandAccept (q : Nat) (s : State) : State :=
  if !s.alive || !s.accepts q then s else
  match s.ready.find? (fun r => r.q == q) with
  | none => s
  | some r =>
    if r.n ≠ (s.queue q).nextSeq then s else
    let u := s.makeRoom s.roomNeeded s.jnl.live.length
    if !u.roomFor u.roomNeeded then u else
    let t := (u.appendRec .accept q r.n r.desc 0 .ok).withAccepted r (u.newCmd q r)
    if t.twinned then t else t.finishAccept q r.n

/-- COMMAND_ACCEPT (R349). -/
def execCommandAccept (q : Nat) (s : State) : Host.Outcome State Fault Refusal := .next (commandAccept q s)

/-! ### Dependence marks (R361) -/

/-- DEP_FAILED: a named command did not run or failed, by its live COMPLETE record. -/
def State.depFailed (s : State) (c : Cmd) : Bool :=
  !bitAt c.marks 29 && (c.named (s.queue c.q).firstSeq).any (fun m => match s.liveComplete c.q m with | some l => l.status.bars | none => false)

/-! ### Dispatch (R24, R346) -/

/-- The commands that have work in compute regions; a drain waits for collectives there (R396). -/
def regionWork (c : Cmd) : Bool :=
  (decide (0x101 ≤ c.opcode) && decide (c.opcode ≤ 0x105)) || (decide (0x201 ≤ c.opcode) && decide (c.opcode < 0x600)) ||
  (decide (0x601 ≤ c.opcode) && decide (c.opcode ≤ 0x604)) || decide (c.opcode / 256 = 7)

/-- The towers and the regions in which a command takes a place: tower work on the tower units while one is in service; other
work in the region it is given to, or in every region in service. (DEDUCED, log entry 25). -/
def placesOf (s : State) (c : Cmd) (region : Option (Fin 8)) : List Nat × List Nat :=
  if towerWork s c && !s.towerUnitsIn.isEmpty then (s.towerUnitsIn, [])
  else if towerWork s c || regionWork c then ([], match region with | some r => [r.val] | none => s.regionsIn)
  else ([], [])

/-- Commands in flight: from dispatch to completion. -/
def State.inFlight (s : State) : Nat := (s.cmds.filter (·.dispatched)).length

/-- The in-flight limits have room, and the region given is in service and has a thread free to interpret the body (R24, R294, R332). (DEDUCED, log entry 25). -/
def hasRoom (s : State) (places : List Nat × List Nat) : Bool :=
  decide (s.inFlight < 4096) && places.1.all (fun t => decide ((s.tower t).cmds.length < 8)) &&
  places.2.all (fun r => decide (s.regionLoad r < 512) && decide (s.threadsIn r < 64) && (s.region r).state == .inService)

/-- A STREAM waits for the region it names (R321, R459). -/
def streamPlace (c : Cmd) (region : Option (Fin 8)) : Bool :=
  c.opcode != 0x105 || (match region with | some r => stRegion c == 0xFF || stRegion c == r.val | none => false)

/-- The body of a command, as memory holds it now (R346): none for a command without one. -/
def State.bodyOf (s : State) (c : Cmd) (r : Reg) : Except Status Bytes :=
  if r.len = some 0 then .ok [] else s.readBytes c.bodyAddr (bodyLength s r.len c.bodyAddr)

/-- Checks on the body's place: aligned, and the inline area all zero (R341, R346). -/
def bodyPlaced (c : Cmd) (r : Reg) : Bool := r.len == some 0 || (c.bodyAddr % 64 == 0 && c.inl.all (· == 0))

/-- START_CHECKS (R346): why the command does not run, with its body read when it may. -/
def startChecks (s : State) (c : Cmd) (r : Reg) : Except Status Cmd :=
  if !bodyPlaced c r then .error .malformed
  else
    match s.bodyOf c r with
    | .error (.met .unmapped _) => .error .malformed
    | .error st => .error st
    | .ok b =>
      let c := { c with body := b }
      let r := (regOf c).getD r
      match r.op.startStatus s c (if r.len = some 0 then [] else [(c.bodyAddr, b.length)]) with
      | some st => .error st
      | none => .ok c

/-- A command that has not started, with its body as memory holds it now. -/
def State.peekBody (s : State) (c : Cmd) : Cmd :=
  match regOf c with
  | none => c
  | some r => match s.bodyOf c r with | .ok b => { c with body := b } | .error _ => c

/-- Starts keep sequence order on a stack (R182). -/
def State.stackMayStart (s : State) (c : Cmd) : Bool :=
  match c.stackOf with
  | none => true
  | some a => stackTurn s c (fun d => (s.peekBody d).stackOf == some a)

/-- The group whose next number a command takes (R389, R390). -/
def Cmd.groupOf (c : Cmd) : Option Nat :=
  if 0x601 ≤ c.opcode ∧ c.opcode ≤ 0x604 then some (clGroup c) else if c.isRing then c.att.map Att.ringGroup else none

/-- A group's numbers go out in its owner queue's sequence order: a collective starts after every earlier one of its group (R389). -/
def State.groupMayStart (s : State) (c : Cmd) : Bool :=
  match c.groupOf with
  | none => true
  | some g => !s.cmds.any (fun d => d.q == c.q && decide (d.n < c.n) && !d.refused1 && d.phase == .accepted && (s.peekBody d).groupOf == some g)

/-- The governor hears of a rise: a command that starts adds to the estimate (R430). -/
def State.noteRise (s : State) (rise : Nat) : State := ({ s with gov := { s.gov with estimate := s.gov.estimate + rise } } : State).expectRise rise

/-- The estimate falls when a command ends (R430). -/
def State.noteFall (s : State) (fall : Nat) : State := ({ s with gov := { s.gov with estimate := s.gov.estimate - fall } } : State).expectFall fall

/-- The command takes its places and starts; it stands behind every command that started before it. -/
def State.enter (s : State) (c : Cmd) (places : List Nat × List Nat) (rise : Nat) : State :=
  let d : Cmd := { c with phase := .started, dispatched := true, regions := places.2, towers := places.1, noticed := c.committed || !s.twinned, rise := rise }
  let t : State := { s with cmds := (s.cmds.filter (fun e => !(e.q == c.q && e.n == c.n))) ++ [d] }
  let t : State := places.1.foldl (fun (u : State) k => u.putTower k { u.tower k with cmds := (u.tower k).cmds ++ [(c.q, c.n)] }) t
  (places.2.foldl (fun (u : State) r => u.count (pgRegion r) 0x101 1) t).noteRise rise

/-- The queue's commands may start and complete: the journal live, or replaying, when a queue may still be HELD (R367). -/
def State.mayRun (s : State) (q : Nat) : Bool :=
  (s.queue q).state != .disabled && (((s.queue q).state != .held && s.jnl.state == .live) || s.jnl.state == .replaying)

/-- In replay a command starts after every earlier one, and while its queue is HELD after every completion record is written again
(R367 steps 5 and 6). -/
def State.replayTurn (s : State) (c : Cmd) : Bool :=
  let held := (s.queue c.q).state == .held
  !(held && s.cmds.any (fun d => d.q == c.q && d.phase == .journaled && !d.replayed)) &&
  !((held || c.replayed) && s.cmds.any (fun d => d.q == c.q && d.phase == .accepted && decide (d.n < c.n) && !d.refused1))

/-- COMMAND_DISPATCH of a command whose marks are met. -/
def dispatchChecked (s : State) (c : Cmd) (r : Reg) (region : Option (Fin 8)) (rise : Nat) : State :=
  match startChecks s c r with
  | .error st => ((regOf (s.peekBody c)).getD r).op.endAtStart s (s.peekBody c) st
  | .ok c =>
    let r := (regOf c).getD r
    let places := placesOf s c region
    if !hasRoom s places || !streamPlace c region || !s.stackMayStart c || !s.groupMayStart c || (usesLinks c && s.lnk.fabric != .inService) then s
    else
      match r.start s c with
      | .wait => s
      | .stop t st => r.op.endAtStart t c st
      | .go t d => (t.enter d places rise).endUnreached d.q d.n

/-- COMMAND_DISPATCH: an accepted command starts, or ends without running. (DESIGN CHOICE, log entry 10). -/
def commandDispatch (q n : Nat) (region : Option (Fin 8)) (rise : Nat) (s : State) : State :=
  match s.cmd? q n with
  | none => s
  | some c =>
    if !s.alive || !s.mayRun q || c.phase != .accepted || !c.mirrored || !s.replayTurn c then s
    else if c.refused1 then
      (if n = (s.queue q).doneSeq + 1 then s.putCmd { c with phase := .ended, status := .malformed } else s)
    else if !s.marksMet c then s
    else if s.depFailed c then s.putCmd { c with phase := .ended, status := .depFailed }
    else
      match regOf c with
      | none => s
      | some r => dispatchChecked s c r region rise

/-- COMMAND_DISPATCH (R24, R346, R361); the last start of a replay releases its queue (R367). -/
def execCommandDispatch (q n : Nat) (region : Option (Fin 8)) (rise : Nat) (s : State) : Host.Outcome State Fault Refusal :=
  .next ((commandDispatch q n region rise s).releaseHeld q).settleReplay

/-! ### The commit point (R350, R406) -/

/-- COMMIT_POINT: the command is about to write; a partner hears of it first. -/
def commitPoint (q n : Nat) (s : State) : State :=
  match s.cmd? q n with
  | none => s
  | some c =>
    if !s.alive || c.phase != .started then s
    else if c.committed && c.noticed then s
    else if c.noticed || !s.twinned then s.putCmd { c with committed := true, noticed := true }
    else if s.twin.unacked.contains (.notice q n) then s
    else (s.putCmd { c with committed := true }).mirror (some (.notice q n)) "COMMIT" [q, n] []

/-- COMMIT_POINT (R350, R406). -/
def execCommitPoint (q n : Nat) (s : State) : Host.Outcome State Fault Refusal := .next (commitPoint q n s)

/-! ### Completion (R351, R352, R356) -/

/-- A follower's version that the partner has not acknowledged: the next COMPLETE record waits for it (R406). -/
def State.versionOwed (s : State) : Bool := s.twin.unacked.any (fun w => match w with | .version _ _ => true | _ => false)

/-- SCOPE (R358). -/
def scopeOf (s : State) (c : Cmd) : Nat :=
  bit (decide (s.tierOf (s.queue c.q).cqBase = some .slate)) + 2 * bit c.wroteLocal + 4 * bit c.wroteSlate + 8 * bit c.wrotePeer

/-- The completion record (R356). -/
def completionBytes (s : State) (c : Cmd) : Bytes :=
  let b := natBytes 6 c.n ++ natBytes 2 c.status.code ++ natBytes 4 (min c.sat (2 ^ 32 - 1)) ++ natBytes 4 c.units ++ natBytes 1 (scopeOf s c) ++
    natBytes 1 (2 * bit c.resumed + bit c.replayed) ++ natBytes 2 c.opcode ++ natBytes 4 c.n ++ natBytes 4 0
  b ++ natBytes 4 (crc32c b)

/-- What a command gives back when it is over: its stack entry, its latches, its number, its places and its thread. -/
def State.giveBack (s : State) (c : Cmd) : State :=
  let t := stackDone s c (!c.status.bars)
  let t := (t.putCmd { c with latches := [], claim := none }).releasePages
  (((numberDone t c.n c.coll.group).vacate c.q c.n).dropThread c.q c.n).noteFall c.rise

/-- Step 1 of R352: outputs on the path of the completion record are visible; a record in Slate waits for the command's Slate writes. -/
def State.outputsOut (s : State) (c : Cmd) : Bool :=
  s.tierOf (s.queue c.q).cqBase != some .slate || !s.per.requests.any (fun r => r.write && r.q == c.q && r.n == c.n)

/-- COMMAND_COMPLETE: the COMPLETE record. -/
def commandComplete (q n : Nat) (s : State) : State :=
  match s.cmd? q n with
  | none => s
  | some c =>
    if !s.alive || c.phase != .ended || !s.journalOpen || !(s.jnl.state == .live || s.jnl.state == .replaying) || s.versionOwed || !s.outputsOut c then s
    else
      let bs := completionBytes s c
      let t := s.giveBack c
      let t := t.appendRec .complete q n bs 0 c.status
      t.putCmd { c with phase := .journaled, latches := [], claim := none, regions := [], towers := [], mirrored := !t.twinned }

/-- COMMAND_COMPLETE (R352 steps 1 and 2). -/
def execCommandComplete (q n : Nat) (s : State) : Host.Outcome State Fault Refusal := .next (commandComplete q n s)

/-- The address of completion slot `n`. -/
def QueueCtx.recordAt (x : QueueCtx) (n : Nat) : Nat := x.cqBase + 32 * (n % x.slots)

/-- The number whose record stands in the completion slot at `a`: the last one up to DONE_SEQ that belongs there. -/
def QueueCtx.slotNumber (x : QueueCtx) (a : Nat) : Nat :=
  x.doneSeq - (x.doneSeq + x.slots - (a - x.cqBase) / 32) % x.slots

/-- The record that the journal holds live for a completion slot, or 32 zero bytes (R352). (DEDUCED, log entry 75). -/
def State.slotRecord (s : State) (q a : Nat) : Bytes := ((s.liveComplete q ((s.queue q).slotNumber a)).map (·.record)).getD (natBytes 32 0)

/-- A half of the lost range that is still poisoned becomes 32 poisoned granules of the list, so that one of them can be cleared
(R258, R352). -/
def State.splitLost (s : State) (g : Nat) : State :=
  let p := s.placeOf (g - umberBase)
  if s.tierOf g = some .umber ∧ s.inLost p.1 p.2 = true then
    (List.range 32).foldl (fun (t : State) j => t.listPoison p.1 (p.2 / 2048 * 2048 + 64 * j))
      (s.withMem { s.mem with lostCleared := tabSet false s.mem.lostCleared (blockKey p.1 (p.2 / 4096) * 2 + p.2 % 4096 / 2048) true })
  else s

/-- Whether the ring's other half of a granule belongs to the same ring. -/
def QueueCtx.inRing (x : QueueCtx) (a : Nat) : Bool := decide (x.cqBase ≤ a) && decide (a < x.cqBase + 32 * x.slots)

/-- Step 3 of R352: the record is stored; over a poisoned granule of Ivory or Umber the whole granule is written, and the event is
CORRECTED. -/
def State.storeRecord (s : State) (q n : Nat) (rec' : Bytes) : State :=
  let x := s.queue q
  let a := x.recordAt n
  if s.poisonedAt a then
    (let g := a / 64 * 64
     let other := if a = g then g + 32 else g
     let half := if x.inRing other then s.slotRecord q other else natBytes 32 0
     (((s.recomputeFirst g 64).splitLost g).storeBytes g (if a = g then rec' ++ half else half ++ rec')).record pgPerast .corrected g)
  else s.storeBytes a rec'

/-- The number whose completion record is written next: DONE_SEQ + 1, or after a reset the oldest above CQ_HEAD that stands to be
written again (R352, R367 step 5). -/
def State.recordNext (s : State) (q : Nat) : Nat := ((s.cmds.filter (fun c => c.q == q)).map (·.n)).foldl min ((s.queue q).doneSeq + 1)

/-- COMPLETION_RECORD_WRITE: the next record, then DONE_SEQ, the interrupt, and what the queue's state gives. -/
def completionRecordWrite (q : Nat) (s : State) : State :=
  let n := s.recordNext q
  match s.cmd? q n, s.liveComplete q n with
  | some c, some l =>
    if !s.alive || c.phase != .journaled || !c.mirrored || !s.mayRun q ||
      (s.tierOf ((s.queue q).recordAt n) == some .slate && !s.per.linkUp) then s
    else
      let t := s.storeRecord q n l.record
      let t := (t.putQueue q { t.queue q with doneSeq := max (t.queue q).doneSeq n }).count pgService 0x1002 1
      let t := if c.descFlags % 2 = 1 then t.send (.irq (t.queue q).irqVec) else t
      ((((t.dropCmd q n).releaseHeld q).settleQueue q).settleReplay).freeRecords
  | _, _ => s

/-- COMPLETION_RECORD_WRITE (R351, R352). -/
def execCompletionRecordWrite (q : Nat) (s : State) : Host.Outcome State Fault Refusal := .next (completionRecordWrite q s)

/-- CONSUMED_RECORD_WRITE (R355): the highest CQ_HEAD taken goes into the journal. -/
def consumedRecordWrite (q : Nat) (s : State) : State :=
  if s.alive && s.jnl.consume.contains q && s.journalOpen && (s.jnl.state == .live || s.jnl.state == .replaying) && s.roomFor 1 then
    ({ s with jnl := { s.jnl with consume := s.jnl.consume.filter (· != q) } }.appendRec .consumed q (s.queue q).cqHead [] (s.queue q).cqHead .ok).payOwed
  else s

/-- CONSUMED_RECORD_WRITE. -/
def execConsumedRecordWrite (q : Nat) (s : State) : Host.Outcome State Fault Refusal := .next (consumedRecordWrite q s)

/-! ### QCTX and QCMD (R338, R339, R365, R366, R487, R488) -/

/-- The queue that a path's QCTX_SEL names. -/
def Perast.selQueue (p : Perast) : Path → Nat
  | .window => p.selWindowQueue | .greyline => p.selGreyQueue
/-- The word that a path's QCTX_SEL names. -/
def Perast.selWord (p : Perast) : Path → Nat
  | .window => p.selWindowWord | .greyline => p.selGreyWord

/-- A QCMD that does not fit is ignored and sets BAD_WRITE. -/
def State.badQcmd (s : State) : State := s.badWrite pgPerast 0x138

/-- ENABLE is obeyed (R339, R466). -/
def State.enables (s : State) (x : QueueCtx) : Bool :=
  x.state == .disabled && decide (4 ≤ x.sizeLog2) && decide (x.sizeLog2 ≤ 16) && x.sqBase % 64 == 0 && x.cqBase % 32 == 0 &&
  s.mappedRange x.sqBase (64 * x.slots) && s.mappedRange x.cqBase (32 * x.slots) && decide (1 ≤ x.nextSeq) && decide (0 < s.journalSlots) &&
  (s.jnl.state == .live || s.jnl.state == .replaying) && !s.boot.scanned

/-- QUEUE_ENABLE. -/
def queueEnable (path : Path) (s : State) : State :=
  let q := s.per.selQueue path
  let x := s.queue q
  if !s.answers then s
  else if !s.alive || !s.enables x then s.badQcmd
  else
    let k := x.nextSeq - 1
    (s.putQueue q { x with state := .active, tailSeq := k, doneSeq := k, cqHead := k, jnlHead := k, firstSeq := x.nextSeq, stale := false, tries := 0 }).writeContext q

/-- QUEUE_DISABLE. -/
def queueDisable (path : Path) (s : State) : State :=
  let q := s.per.selQueue path
  let x := s.queue q
  if !s.answers then s
  else if s.alive && (x.state == .active || x.state == .parkedStale) then
    (let on := x.stale && decide (x.tries < 8)
     (s.putQueue q { x with state := .draining, drainTail := x.tailSeq, stale := on, tries := if on || !x.stale then x.tries else 0 }).settleQueue q)
  else s.badQcmd

/-- QUEUE_ABORT. -/
def queueAbort (path : Path) (s : State) : State :=
  let q := s.per.selQueue path
  if !s.answers then s else if s.alive && (s.queue q).state.canAbort then s.abortQueue q else s.badQcmd

/-- QUEUE_ENABLE (R339). -/
def execQueueEnable (path : Path) (s : State) : Host.Outcome State Fault Refusal := .next (queueEnable path s)
/-- QUEUE_DISABLE (R365). -/
def execQueueDisable (path : Path) (s : State) : Host.Outcome State Fault Refusal := .next (queueDisable path s)
/-- QUEUE_ABORT (R366). -/
def execQueueAbort (path : Path) (s : State) : Host.Outcome State Fault Refusal := .next (queueAbort path s)

/-- A context with one word written (R338). -/
def QueueCtx.setWord (x : QueueCtx) (w v : Nat) : QueueCtx :=
  match w with
  | 0 => { x with sizeLog2 := bitsOf v 60 56, sqBase := bitsOf v 47 0 }
  | 1 => { x with irqVec := bitsOf v 58 48, cqBase := bitsOf v 47 0 }
  | 2 => { x with winBase := bitsOf v 47 0 }
  | 3 => { x with winLimit := bitsOf v 47 0 }
  | 4 => { x with jobSeed := v }
  | 6 => { x with nextSeq := bitsOf v 47 0 }
  | _ => x

/-- QCTX_DATA_WRITE: words 0 to 4 and 6 only while the queue is DISABLED; a write to any other word has no effect. -/
def qctxDataWrite (path : Path) (v : Nat) (s : State) : State :=
  let q := s.per.selQueue path
  let w := s.per.selWord path
  if !s.answers then s
  else if 4 < w ∧ w ≠ 6 then s
  else if (s.queue q).state = .disabled then s.putQueue q ((s.queue q).setWord w v)
  else s.modPage pgPerast (·.raiseBit 8 (q * 2 ^ 24 + 0x130) false)

/-- QCTX_DATA_WRITE (R338, R487, R488). -/
def execQctxDataWrite (path : Path) (value : Word) (s : State) : Host.Outcome State Fault Refusal := .next (qctxDataWrite path value.toNat s)

end Sys2Proof.Machine
end

