-- ==== Sys2Proof/Machine/Replay.lean ====
section
/-! DEFINITION. The journal after a reset, the path fences, and the Perast link's requests: JOURNAL_SCAN, REPLAY_GO, PATH_FENCE_LINK,
PATH_FENCE_WINDOW, PATH_FENCE_PEER, PEER_FENCE_TIMEOUT, SLATE_REQUEST, SLATE_RESPONSE, SLATE_TIMEOUT, PERAST_LINK_DOWN,
PERAST_LINK_UP (R260, R360, R367, R368, R387, R414). -/

namespace Sys2Proof.Machine

/-! ### Reading the area (R353) -/

/-- A record as the area holds it: its number and its 128 bytes. -/
structure ScanRec where
  no    : Nat
  bytes : Bytes
deriving DecidableEq, Repr

def ScanRec.kind (r : ScanRec) : Nat := fieldAt r.bytes 0 1
def ScanRec.q (r : ScanRec) : Nat := fieldAt r.bytes 4 4
def ScanRec.seq (r : ScanRec) : Nat := fieldAt r.bytes 8 8
def ScanRec.recno (r : ScanRec) : Nat := fieldAt r.bytes 16 8
def ScanRec.body (r : ScanRec) : Bytes := sliceOf r.bytes 24 64
def ScanRec.head (r : ScanRec) : Nat := fieldAt r.bytes 88 8
/-- STATE of a CONTEXT record's context. -/
def ScanRec.stateCode (r : ScanRec) : Nat := fieldAt r.body 40 8 % 16
/-- A CONTEXT record that holds DISABLED. -/
def ScanRec.disabled (r : ScanRec) : Bool := r.kind == 3 && r.stateCode == 0

/-- CRC, KIND and reserved bytes (REASON 4). -/
def ScanRec.sound (r : ScanRec) : Bool :=
  crc32c (sliceOf r.bytes 0 124) == fieldAt r.bytes 124 4 && decide (1 ≤ r.kind) && decide (r.kind ≤ 4) && zeroAt r.bytes 1 3 && zeroAt r.bytes 96 28

/-- What a header copy says, when it is valid (R353). -/
structure Header where
  copy  : Nat
  owner : Nat
  base  : Nat
  write : Nat
  trim  : Nat
deriving DecidableEq, Repr

/-- Header copy `k`. -/
def State.headerCopy (s : State) (k : Nat) : Option Header :=
  let b := s.rawBytes (s.per.journalBase * 4096 + 4096 * k) 4096
  let h : Header := { copy := k, owner := fieldAt b 0 8, base := fieldAt b 8 8, write := fieldAt b 16 8, trim := fieldAt b 24 8 }
  if crc32c (sliceOf b 0 4092) = fieldAt b 4092 4 ∧ h.trim ≤ h.write ∧ h.write - h.trim ≤ s.journalSlots then some h else none

/-- Of two copies, the valid one with the higher WRITE_REC. (DEDUCED, log entry 38). -/
def pickHeader (x y : Option Header) : Option Header :=
  match x, y with
  | some a, some b => if a.write < b.write then some b else some a
  | some a, none => some a
  | none, b => b

/-- The valid copy with the higher WRITE_REC. -/
def State.header (s : State) : Option Header := pickHeader (s.headerCopy 0) (s.headerCopy 1)

/-- A fresh area: 8 KiB of zero bytes. -/
def State.freshArea (s : State) : Bool := (s.rawBytes (s.per.journalBase * 4096) 8192).all (· == 0)

/-- Record `r`. -/
def State.scanRec (s : State) (r : Nat) : ScanRec := { no := r, bytes := s.rawBytes (s.recordAddr r) 128 }

/-- The records of a header's range, oldest first. -/
def State.scanRecs (s : State) (h : Header) : List ScanRec := (List.range (h.write - h.trim)).map (fun i => s.scanRec (h.trim + i))

/-! ### The check (R368) -/

/-- A finding: REASON and BAD_RECORD. -/
structure JFinding where
  reason : Nat
  bad    : Nat
deriving DecidableEq, Repr

/-- The records of queue `q` written after its latest CONTEXT record that holds DISABLED. -/
def counted (rs : List ScanRec) (q : Nat) : List ScanRec :=
  let mine := rs.filter (fun r => r.q == q)
  let last := ((mine.filter ScanRec.disabled).map (·.no + 1)).foldl max 0
  mine.filter (fun r => decide (last ≤ r.no))

/-- The journaled CQ_HEAD: HEAD of the latest CONTEXT or CONSUMED record (R355). -/
def headOf (cs : List ScanRec) : Nat := (((cs.filter (fun r => decide (3 ≤ r.kind))).getLast?).map (·.head)).getD 0

/-- A record that the others of its queue do not account for. -/
def unaccounted (rs : List ScanRec) (r : ScanRec) : Bool :=
  let cs := counted rs r.q
  cs.contains r &&
  (!cs.any (fun x => x.kind == 3) ||
   (r.kind == 2 && decide (headOf cs < r.seq) && !cs.any (fun x => x.kind == 1 && x.seq == r.seq)) ||
   ((r.kind == 1 || r.kind == 2) && cs.any (fun x => x.kind == r.kind && x.seq == r.seq && decide (x.no < r.no))))

/-- The queues that some record names. -/
def queuesOf (rs : List ScanRec) : List Nat := rs.foldl (fun l r => insertNat r.q l) []

/-- Queues that the module held enabled before a region or work reset. -/
def State.heldQueues (s : State) : List Nat := (s.queues.filter (fun e => e.2.state != .disabled)).map (·.1)

/-- The first record that is altered, by REASON 4 or 5. -/
def alteredRec (rs : List ScanRec) : Option (Nat × Nat) :=
  (rs.find? (fun r => !r.sound || r.recno != r.no)).map (fun r => (if r.sound then 5 else 4, r.no))

/-- The check of the records. -/
def State.checkRecs (s : State) (rs : List ScanRec) : Option JFinding :=
  match alteredRec rs with
  | some (k, r) => some ⟨k, r % s.journalSlots⟩
  | none =>
    match rs.find? (unaccounted rs) with
    | some r => some ⟨6, r.no % s.journalSlots⟩
    | none =>
      if !s.jnl.afterCold && s.heldQueues.any (fun q => !(counted rs q).any (fun r => r.kind == 3)) then some ⟨6, 0xFFFFFFFF⟩ else none

/-- The check of the header. -/
def State.checkHeader (s : State) (h : Header) : Option JFinding :=
  if h.owner ≠ s.boot.ownerId then some ⟨2, 0xFFFFFFFF⟩
  else if h.base ≠ s.per.journalReg then some ⟨3, 0xFFFFFFFF⟩
  else none

/-- JOURNAL_BROKEN (R368). -/
def State.breakJournal (s : State) (f : JFinding) : State :=
  (({ s with jnl := { s.jnl with state := .broken, reason := f.reason, badRecord := f.bad } }).raiseBlockBit pgPerast 18 0).count pgPerast 0x1407 1

/-! ### Rebuilding (R355, R367) -/

/-- A live record from what the area holds. -/
def ScanRec.toLive (r : ScanRec) : LiveRec :=
  { recno := r.no, q := r.q, seq := r.seq, head := r.head,
    kind := if r.kind = 1 then .accept else if r.kind = 2 then .complete else if r.kind = 3 then .context else .consumed,
    record := if r.kind = 2 then sliceOf r.body 0 32 else [],
    status := if r.kind = 2 then (statusOf (fieldAt r.body 6 2)).getD .ok else .ok }

/-- DONE_SEQ of a rebuilt queue: above CQ_HEAD, the last number up to which every command has its COMPLETE record (R367 step 3). -/
def doneOf (cs : List ScanRec) : Nat :=
  (List.range cs.length).foldl (fun d _ => if cs.any (fun r => r.kind == 2 && r.seq == d + 1) then d + 1 else d) (headOf cs)

/-- A queue's context from its counted records: words 0 to 4 and LAST_STEP of the latest CONTEXT record, NEXT_SEQ from it and from
every ACCEPT record, CQ_HEAD as journaled. A reset that keeps contexts keeps what the records do not hold. (DEDUCED, log entry 39). -/
def rebuildQueue (cs : List ScanRec) (old : QueueCtx) (cold : Bool) : QueueCtx :=
  match (cs.filter (fun r => r.kind == 3)).getLast? with
  | none => old
  | some c =>
    let w := fun (i : Nat) => fieldAt c.body (8 * i) 8
    let base : QueueCtx := if cold then {} else old
    let x : QueueCtx := (List.range 5).foldl (fun (x : QueueCtx) i => x.setWord i (w i)) base
    let next := ((cs.filter (fun r => r.kind == 1)).map (·.seq + 1)).foldl max (max (w 6 % 2 ^ 48) (headOf cs + 1))
    let tail := max (max base.tailSeq (w 7 % 2 ^ 48)) (next - 1)
    { x with state := .held, heldFrom := if cold then resumeState (qstateOf c.stateCode) else resumeState old.heldFrom,
             lastStep := if cold then w 5 / 2 ^ 32 else old.lastStep, nextSeq := next, tailSeq := tail, doneSeq := doneOf cs, cqHead := headOf cs,
             jnlHead := headOf cs, drainTail := if cold then tail else old.drainTail, stale := false, tries := 0 }

/-- The commands of one queue that have no completion record above its CQ_HEAD: those with a COMPLETE record wait for it to be
written again; the others run again, with the progress that the reset kept. -/
def rebuildCmds (cs : List ScanRec) (old : List Cmd) : List Cmd :=
  (cs.filter (fun r => r.kind == 1 && decide (headOf cs < r.seq))).map (fun r =>
    let fresh : Cmd := { q := r.q, n := r.seq, desc := r.body }
    let kept := (old.find? (fun c => c.q == r.q && c.n == r.seq)).getD { fresh with refused1 := failsCheck1 fresh }
    if cs.any (fun x => x.kind == 2 && x.seq == r.seq) then { kept with phase := .journaled, regions := [], towers := [], latches := [], claim := none, replayed := false, dispatched := false }
    else { kept with phase := if kept.phase = .ended then .ended else .accepted, regions := [], towers := [], replayed := true, dispatched := false })

/-- The rebuilt state: AWAIT_GO. -/
def State.rebuild (s : State) (h : Header) (rs : List ScanRec) : State :=
  let qs := (queuesOf rs).filter (fun q => (counted rs q).any (fun r => r.kind == 3))
  let cold := s.jnl.afterCold
  let queues := qs.foldl (fun (t : Tab QueueCtx) q => tabSet {} t q (rebuildQueue (counted rs q) (s.queue q) cold)) (if cold then [] else s.queues)
  let cmds := qs.flatMap (fun q => rebuildCmds (counted rs q) s.cmds)
  let live := (rs.filter (fun r => (counted rs r.q).contains r)).map ScanRec.toLive
  let j : Journal := { s.jnl with state := .awaitGo, reason := 0, badRecord := 0, writeRec := h.write, trimRec := h.trim, live := live, nextCopy := 1 - h.copy, consume := [] }
  ({ s with queues := queues, cmds := cmds, fetches := [], ready := [], jnl := j } : State).freeRecords

/-- A fresh journal: both header copies are written, and nothing is to be replayed. -/
def State.freshJournal (s : State) : State :=
  let t : State := { s with jnl := { s.jnl with writeRec := 0, trimRec := 0, nextCopy := 0, live := [] } }
  t.writeHeader.writeHeader.rebuild { copy := 1, owner := 0, base := 0, write := 0, trim := 0 } []

/-- JOURNAL_SCAN: the check, then the rebuilding. With no journal there is nothing to scan, and no queue is HELD. (DEDUCED, log entry 38). -/
def journalScan (s : State) : State :=
  if !s.alive || s.jnl.state != .scanning || !s.per.linkUp || s.boot.running.isSome then s
  else if s.journalSlots = 0 then
    { s with jnl := { s.jnl with state := .awaitGo, live := [] }, queues := if s.jnl.afterCold then [] else s.queues }
  else
    match s.header with
    | none =>
      if !s.freshArea then s.breakJournal ⟨1, 0xFFFFFFFF⟩
      else if !s.jnl.afterCold && !s.heldQueues.isEmpty then s.breakJournal ⟨6, 0xFFFFFFFF⟩
      else s.freshJournal
    | some h =>
      match (s.checkHeader h).or (s.checkRecs (s.scanRecs h)) with
      | some f => s.breakJournal f
      | none => s.rebuild h (s.scanRecs h)

/-- JOURNAL_SCAN (R367, R368). -/
def execJournalScan (s : State) : Host.Outcome State Fault Refusal := .next (journalScan s)

/-! ### Replay (R367 steps 4 to 7, R414) -/

/-- How an adopting spare treats a lost member's command without a COMPLETE record (R414). -/
def adoptCmd (notices : List (Nat × Nat)) (c : Cmd) : Cmd :=
  if c.phase = .journaled ∨ c.opcode = 0x506 ∨ c.opcode = 0x507 then c
  else { c with phase := .ended, refused1 := false, status := if notices.contains (c.q, c.n) then .poisoned else .abortedNotStarted }

/-- REPLAY_GO: completion records not consumed meanwhile are written again and commands start again by their own rows; a queue for
which nothing is left of that returns from HELD. In BROKEN the write is ignored. (DEDUCED, log entry 40). -/
def replayGo (s : State) : State :=
  if !s.alive then s
  else if s.jnl.state = .broken then s.badWrite pgPerast 0x118
  else if s.jnl.state ≠ .awaitGo then s
  else
    let cmds := s.cmds.filter (fun c => !(c.phase == .journaled && decide (c.n ≤ (s.queue c.q).cqHead)))
    let cmds := if s.twin.adopting then cmds.map (adoptCmd s.twin.adoptNotices) else cmds
    let t : State := { s with cmds := cmds, jnl := { s.jnl with state := .replaying }, twin := { s.twin with adopting := false, adoptNotices := [] } }
    (s.queues.foldl (fun (u : State) e => u.releaseHeld e.1) t).settleReplay.payOwed

/-- REPLAY_GO (R367, R414). -/
def execReplayGo (s : State) : Host.Outcome State Fault Refusal := .next (replayGo s)

/-! ### Path fences (R360, R387) -/

/-- A fence's read returns: the fences of the path served since the cold reset, this one included. -/
def State.fenceData (s : State) (f : FenceRead) (n : Nat) : State := s.send (.windowData ((sliceOf (natBytes 8 n) f.offset f.length).map some))

/-- A read of PATH_FENCE_LINK is served. -/
def State.serveLinkFence (s : State) (f : FenceRead) : State :=
  ({ s with per := { s.per with fenceLink := s.per.fenceLink + 1 } }).fenceData f (s.per.fenceLink + 1)

/-- The Slate writes that a fence waits for are over. -/
def State.linkFenceDue (s : State) (f : FenceRead) : Bool := f.awaits.all (fun i => !s.per.requests.any (fun r => r.id == i))

/-- Every read of PATH_FENCE_LINK that waits for nothing any more returns. -/
def State.settleLinkFences (s : State) : State :=
  (s.per.linkFences.filter s.linkFenceDue).foldl State.serveLinkFence
    { s with per := { s.per with linkFences := s.per.linkFences.filter (fun f => !s.linkFenceDue f) } }

/-- PATH_FENCE_LINK: returns once no write to Slate is outstanding of a command whose completion record is written (R360). -/
def pathFenceLink (offset len : Nat) (s : State) : State :=
  if !s.answers then s else
  let f : FenceRead := { offset := offset, length := len, awaits := (s.per.requests.filter (fun r => r.write && (s.cmd? r.q r.n).isNone)).map (·.id) }
  ({ s with per := { s.per with linkFences := s.per.linkFences ++ [f] } } : State).settleLinkFences

/-- PATH_FENCE_LINK (R360). -/
def execPathFenceLink (s : State) : Host.Outcome State Fault Refusal := .next (pathFenceLink 0 8 s)

/-- PATH_FENCE_WINDOW: what commands wrote inside the module is visible there at once. -/
def pathFenceWindow (offset len : Nat) (s : State) : State :=
  if !s.answers then s else
  ({ s with per := { s.per with fenceWindow := s.per.fenceWindow + 1 } }).fenceData ⟨offset, len, []⟩ (s.per.fenceWindow + 1)

/-- PATH_FENCE_WINDOW (R360). -/
def execPathFenceWindow (s : State) : Host.Outcome State Fault Refusal := .next (pathFenceWindow 0 8 s)

/-- A read of PATH_FENCE_PEER is served. -/
def State.servePeerFence (s : State) (f : FenceRead) : State :=
  ({ s with per := { s.per with fencePeer := s.per.fencePeer + 1 } }).fenceData f (s.per.fencePeer + 1)

/-- Every read of PATH_FENCE_PEER that waits for no module any more returns. -/
def State.settlePeerFences (s : State) : State :=
  (s.per.peerFences.filter (·.awaits.isEmpty)).foldl State.servePeerFence
    { s with per := { s.per with peerFences := s.per.peerFences.filter (fun f => !f.awaits.isEmpty) } }

/-- PATH_FENCE_PEER: waits for every module written to whose acknowledgement of visibility is outstanding. -/
def pathFencePeer (offset len : Nat) (s : State) : State :=
  if !s.answers then s else
  ({ s with per := { s.per with peerFences := s.per.peerFences ++ [{ offset := offset, length := len, awaits := s.lnk.unacked }] } } : State).settlePeerFences

/-- PATH_FENCE_PEER (R360, R387). -/
def execPathFencePeer (s : State) : Host.Outcome State Fault Refusal := .next (pathFencePeer 0 8 s)

/-- PEER_FENCE_TIMEOUT: the oldest read returns anyway, FENCE_FAIL names the first target that has not acknowledged. -/
def peerFenceTimeout (s : State) : State :=
  match s.per.peerFences with
  | [] => s
  | f :: rest =>
    if !s.answers then s else
    (({ s with lnk := { s.lnk with fenceFail := f.awaits.headD 0, fenceFailed := true },
               per := { s.per with peerFences := rest } } : State).raiseBlockBit pgFabric 17 0).servePeerFence f

/-- PEER_FENCE_TIMEOUT (R387). -/
def execPeerFenceTimeout (s : State) : Host.Outcome State Fault Refusal := .next (peerFenceTimeout s)

/-- PEER_VISIBILITY_ACK (R387): the target has made visible what was written to it; a fence that waits for no other returns. -/
def visibilityAck (p : Nat) (s : State) : State :=
  if !s.alive then s else
  ({ s with lnk := { s.lnk with unacked := s.lnk.unacked.filter (· != p) },
            per := { s.per with peerFences := s.per.peerFences.map (fun f => { f with awaits := f.awaits.filter (· != p) }) } } : State).settlePeerFences

/-- PEER_VISIBILITY_ACK. -/
def execPeerVisibilityAck (target : Nat) (s : State) : Host.Outcome State Fault Refusal := .next (visibilityAck target s)

/-! ### Slate requests (R234, R260, R334) -/

/-- A started command ends with a status. -/
def State.stopCmd (s : State) (q n : Nat) (st : Status) : State :=
  match s.cmd? q n with
  | none => s
  | some c => if c.phase = .started then (match regOf c with | some r => r.op.stopIn s c st | none => s) else s

/-- A request that fails: its own range, when it was a write, is undefined, and its command ends TIER_ERROR. -/
def State.failSlate (s : State) (r : SlateReq) : State :=
  let t := if r.write then s.openRange r.addr r.length else s
  (t.stopCmd r.q r.n (.met .tier r.addr)).vacate r.q r.n

/-- SLATE_REQUEST: a started command's request goes out to the companion's address (R334), or ends as the link and the address
have it; a first write passes the commit point (R350), and waits while the partner has not heard of it. -/
def slateRequest (q n : Nat) (write : Bool) (a len : Nat) (bs : Bytes) (s : State) : State :=
  match s.cmd? q n with
  | none => s
  | some c =>
    if !s.alive || c.phase != .started || s.tierOf a != some .slate || (write && !c.noticed) then s
    else if !s.mappedRange a len then s.stopCmd q n (.met .unmapped a)
    else if !s.inWindow q a len then s.stopCmd q n (.met .window a)
    else
      let s := if write then s.putCmd { c with committed := true } else s
      let r : SlateReq := { id := s.per.nextRequest, q := q, n := n, write := write, addr := a, length := if write then bs.length else len, bytes := bs }
      if !s.per.linkUp then s.failSlate r
      else
        ({ s with per := { s.per with requests := s.per.requests ++ [r], nextRequest := r.id + 1 } }).send (.slate r.id write (s.per.slatePa * 2 ^ 30 + (a - slateBase)) r.length r.bytes)

/-- SLATE_REQUEST (R260). -/
def execSlateRequest (q n : Nat) (write : Bool) (addr length : Nat) (bytes : Bytes) (s : State) : Host.Outcome State Fault Refusal :=
  .next (slateRequest q n write addr (if write then bytes.length else length) bytes s)

/-- The request leaves the list. -/
def State.dropRequest (s : State) (id : Nat) : State := { s with per := { s.per with requests := s.per.requests.filter (fun r => r.id != id) } }

/-- The command's SCOPE learns of a write that the companion took. -/
def noteReply (t : State) (r : SlateReq) : State :=
  match t.cmd? r.q r.n with
  | some c => t.putCmd (c.noteWrite t r.addr r.length)
  | none => t

/-- SLATE_RESPONSE: the companion's latest data, a write taken, or an error. An answer to no request is discarded. (DEDUCED, log entry 41). -/
def slateResponse (id : Nat) (answer : SlateAnswer) (s : State) : State :=
  if !s.alive then s else
  match s.per.requests.find? (fun r => r.id == id) with
  | none => s
  | some r =>
    let t := s.dropRequest id
    (match answer with
     | .data bs => if r.write || bs.length != r.length then t.failSlate r else { (t.pokeBytes r.addr bs) with mem := (t.pokeBytes r.addr bs).mem.closeBytes r.addr r.length }
     | .written => if r.write then noteReply (t.storeBytes r.addr r.bytes) r else t.failSlate r
     | .error => t.failSlate r).settleLinkFences
/-- SLATE_RESPONSE (R260). -/
def execSlateResponse (id : Nat) (answer : SlateAnswer) (s : State) : Host.Outcome State Fault Refusal := .next (slateResponse id answer s)

/-- SLATE_TIMEOUT: no answer within SLATE_CTL.TIMEOUT. -/
def slateTimeout (id : Nat) (s : State) : State :=
  if !s.alive then s else
  match s.per.requests.find? (fun r => r.id == id) with
  | none => s
  | some r => (((s.dropRequest id).failSlate r).count pgPerast 0x1408 1).settleLinkFences

/-- SLATE_TIMEOUT (R260). -/
def execSlateTimeout (id : Nat) (s : State) : Host.Outcome State Fault Refusal := .next (slateTimeout id s)

/-! ### The link (R260, R353) -/

/-- PERAST_LINK_DOWN: requests fail after the link's own retries; journal writes, completions and acceptance wait. -/
def linkDown (s : State) : State :=
  if !s.fed then s else
  let t : State := { s with per := { s.per with linkUp := false, requests := [] } }
  (s.per.requests.foldl (fun (u : State) r => u.failSlate r) t).settleLinkFences

/-- PERAST_LINK_DOWN. -/
def execPerastLinkDown (s : State) : Host.Outcome State Fault Refusal := .next (linkDown s)

/-- PERAST_LINK_UP: the journal writes that waited go out. -/
def linkUp (s : State) : State := if !s.fed then s else ({ s with per := { s.per with linkUp := true } }).payOwed

/-- PERAST_LINK_UP. -/
def execPerastLinkUp (s : State) : Host.Outcome State Fault Refusal := .next (linkUp s)

end Sys2Proof.Machine
end

