-- ==== Sys2Proof/Machine/Twins.lean ====
section
/-! DEFINITION. The twin engine: pairing and unpairing, the mirror area, acknowledgements, losing the partner, filling and joining a
spare, failure events: TWIN_PAIR, PAIRING_RECORD_RECEIVE, PAIRING_TIMEOUT, TWIN_UNPAIR, UNPAIR_NOTICE_RECEIVE, TWIN_PARTNER_LOST,
TWIN_FILL, FILL_BLOCK_SEND, FILL_BLOCK_RECEIVE, TWIN_JOIN, MIRROR_RECORD_RECEIVE, TWIN_ACK_RECEIVE, TWIN_ACK_TIMEOUT,
STOP_NOTICE_RECEIVE, FAIL_EVENT (R403 to R414, R420, R425). -/

namespace Sys2Proof.Machine

/-! ### TWIN_CTL (R425) -/

/-- OP of a TWIN_CTL value. -/
def twinOpField (v : Nat) : Nat := bitsOf v 2 0

/-- The RW fields of TWIN_CTL: an ACK_TIMEOUT outside 10 to 60,000 is ignored and sets BAD_WRITE. -/
def State.setTwinCtl (s : State) (v : Nat) : State :=
  let a := bitsOf v 47 32
  let t : State := { s with twin := { s.twin with fillTarget := bitAt v 9, sharedFeedOk := bitAt v 8 } }
  if 10 ≤ a ∧ a ≤ 60000 then { t with twin := { t.twin with ackTimeout := a } } else t.badWrite pgTwin 0x100

/-- An OP that does not fit STATE (R425). -/
def State.badTwinOp (s : State) : State := s.badWrite pgTwin 0x100

/-- The row of one OP: its write of TWIN_CTL, then the OP's action when it fits. A value that names another OP is no such event. -/
def twinRow (op : Nat) (fits : State → Bool) (act : State → State) (v : Nat) (s : State) : State :=
  if !s.answers || twinOpField v != op then s
  else if fits (s.setTwinCtl v) then act (s.setTwinCtl v) else (s.setTwinCtl v).badTwinOp

/-! ### Sending to the partner -/

/-- A message to the partner that awaits nothing. -/
def State.tellTwin (s : State) (kind : String) (words : List Nat) (bytes : Bytes) : State := s.sendTwin kind words bytes

/-! ### The mirror area (R407) -/

/-- Bytes of the mirror area: 0 where none is configured, or where it does not lie wholly in Slate or overlaps the
journal (R489). -/
def State.mirrorSize (s : State) : Nat :=
  if 24 ≤ s.twin.mirrorLog2 ∧ s.twin.mirrorLog2 ≤ 32 ∧ s.tierOf (s.twin.mirrorBase * 4096) = some .slate ∧
    s.mappedRange (s.twin.mirrorBase * 4096) (2 ^ s.twin.mirrorLog2) = true ∧
    overlaps (s.twin.mirrorBase * 4096) (2 ^ s.twin.mirrorLog2) (s.per.journalBase * 4096) s.journalSize = false then 2 ^ s.twin.mirrorLog2 else 0

/-- The address of record `r` in the mirror area. -/
def State.mirrorAddr (s : State) (r : Nat) : Nat := s.twin.mirrorBase * 4096 + 8192 + 128 * (r % ((s.mirrorSize - 8192) / 128))

/-- The mirror area's header, in turn. -/
def State.mirrorHeader (s : State) : State :=
  if s.mirrorSize = 0 then s else
  let w := s.twin
  let t := s.storeBytes (w.mirrorBase * 4096 + 4096 * w.mirrorCopy) (headerBytes w.partnerOwner w.partnerBase w.mirrorWrite w.mirrorTrim)
  { t with twin := { t.twin with mirrorCopy := 1 - w.mirrorCopy } }

/-- A record of the partner is stored; a COMPLETE record ends the notice of its command. -/
def State.keepMirror (s : State) (r : Nat) (bs : Bytes) : State :=
  let t := if s.mirrorSize = 0 then s else s.storeBytes (s.mirrorAddr r) bs
  let gone := fieldAt bs 0 1 == 2
  let notices := if gone then t.twin.notices.filter (fun x => x != (fieldAt bs 4 4, fieldAt bs 8 8)) else t.twin.notices
  let kept := t.twin.mirrored.filter (fun x => x.1 != r) ++ [(r, bs)]
  ({ t with twin := { t.twin with mirrored := kept, notices := notices, mirrorWrite := max t.twin.mirrorWrite (r + 1) } }).mirrorHeader

/-! ### Pairing (R403 to R405) -/

/-- The module leaves PAIRING or is refused: SOLO, with REFUSE. -/
def State.refusePair (s : State) (k : Nat) : State := { s with twin := { s.twin with state := .solo, refuse := k } }

/-- The REP table as a list: entry, first MiB, last MiB. -/
def Twin.repList (w : Twin) : List (Nat × Nat × Nat) := (w.rep.filter (·.2.valid)).map (fun e => (e.1, e.2.first, e.2.last))

/-- This member's pairing record: position, feed, SHARED_FEED_OK, journal, mirror area, REP table. -/
def State.pairWords (s : State) : List Nat :=
  [s.lnk.position, s.boot.ownerId, s.per.journalReg, s.twin.ownFeed, bit s.twin.sharedFeedOk, bit (decide (0 < s.journalSlots)), s.per.journalLog2,
   s.twin.mirrorLog2] ++ s.twin.repList.flatMap (fun e => [e.1, e.2.1, e.2.2])

/-- The live records that go with it: number and bytes of each (R403). -/
def State.pairBytes (s : State) : Bytes := s.jnl.live.flatMap (fun l => natBytes 8 l.recno ++ s.rawBytes (s.recordAddr l.recno) 128)

/-- TWIN_CTL.OP = PAIR: the exchange starts; a spare marked FILL_TARGET waits to be filled (R412). -/
def State.pair (s : State) : State :=
  if !activePos s.lnk.position then s.refusePair 1
  else if s.twin.fillTarget then
    ({ s with twin := { s.twin with state := .fillTarget, partnerPos := twinOf s.lnk.position, refuse := 0, adopting := false, adoptNotices := [], fillSync := false } }).tellTwin "FILL_TARGET" s.pairWords []
  else ({ s with twin := { s.twin with state := .pairing, refuse := 0 } }).tellTwin "PAIR" s.pairWords s.pairBytes

/-- TWIN_PAIR (R403, R412). -/
def execTwinPair (value : Word) (s : State) : Host.Outcome State Fault Refusal :=
  .next (twinRow 1 (fun t => t.twin.state == .solo) State.pair value.toNat s)

/-- The finding that refuses a pairing: the lowest that applies (R403). (DEDUCED, log entry 42). -/
def pairFinding (s : State) (p : PairRecord) : Option Nat :=
  if !activePos s.lnk.position || !activePos p.position || p.position != twinOf s.lnk.position then some 1
  else if p.feedId == s.twin.ownFeed && !(p.sharedFeedOk && s.twin.sharedFeedOk) then some 3
  else if s.journalSlots == 0 || !p.hasJournal || s.mirrorSize == 0 || decide (s.twin.mirrorLog2 < p.journalLog2) || decide (p.mirrorLog2 < s.per.journalLog2) then some 4
  else if p.rep != s.twin.repList then some 5
  else if p.refused then some 6
  else none

/-- The mirror area takes the partner's live records, and nothing of an earlier partner stays (R403, R407). -/
def State.takeRecords (s : State) (p : PairRecord) : State :=
  let w := { s.twin with mirrored := [], notices := [], followers := [], mirrorTrim := ((p.records.head?).map (·.1)).getD 0,
                         mirrorWrite := ((p.records.getLast?).map (·.1 + 1)).getD 0, partnerOwner := p.owner, partnerBase := p.base }
  let t : State := { s with twin := w }
  (p.records.foldl (fun (u : State) r => u.keepMirror r.1 r.2) t).mirrorHeader

/-- The pair forms: the partner's live records are copied; SHARED on one feed. -/
def State.formPair (s : State) (p : PairRecord) : State :=
  let st : TwinState := if p.feedId = s.twin.ownFeed then .shared else .paired
  let w := { s.twin with state := st, reason := 0, refuse := 0, partnerFeed := p.feedId, partnerPos := p.position, unacked := [] }
  let t : State := { s with twin := w }
  t.takeRecords p

/-- A record of the twin position in a fill: its feed is known, and the spare, which has mirrored nothing, copies the survivor's live
records (R405, R407, R412). -/
def State.fillRecord (s : State) (p : PairRecord) : State :=
  if p.position ≠ twinOf s.lnk.position then s else
  let t : State := { s with twin := { s.twin with partnerFeed := p.feedId, partnerPos := p.position } }
  if t.twin.state = .fillTarget then t.takeRecords p else { t with twin := { t.twin with partnerOwner := p.owner, partnerBase := p.base } }

/-- PAIRING_RECORD_RECEIVE: the check, then the pair or the refusal; the partner hears of a refusal. In a fill nothing is refused
(R403, R412). -/
def pairingRecord (p : PairRecord) (s : State) : State :=
  if s.alive && (s.twin.state == .filling || s.twin.state == .fillTarget) then s.fillRecord p else
  if !s.alive || s.twin.state != .pairing then s else
  match pairFinding s p with
  | some k => if k = 6 then s.refusePair 6 else (s.refusePair k).tellTwin "REFUSED" [k] []
  | none => s.formPair p

/-- PAIRING_RECORD_RECEIVE (R403, R405). -/
def execPairingRecordReceive (record : PairRecord) (s : State) : Host.Outcome State Fault Refusal := .next (pairingRecord record s)

/-- PAIRING_TIMEOUT: no record within ACK_TIMEOUT. -/
def execPairingTimeout (s : State) : Host.Outcome State Fault Refusal :=
  .next (if s.alive && s.twin.state == .pairing then s.refusePair 2 else s)

/-! ### What an acknowledgement releases (R406) -/

/-- A record that the partner holds, or that waits for it no longer. -/
def State.releaseRecord (s : State) (r : Nat) : State :=
  match s.jnl.live.find? (fun l => l.recno == r) with
  | none => s
  | some l =>
    let t := s.headJournaled l
    match l.kind with
    | .accept => if t.cmds.any (fun c => c.q == l.q && c.n == l.seq && c.phase == .accepted && !c.mirrored) then t.finishAccept l.q l.seq else t
    | .complete => { t with cmds := t.cmds.map (fun (c : Cmd) => if c.q = l.q ∧ c.n = l.seq ∧ c.phase = .journaled then { c with mirrored := true } else c) }
    | _ => t.freeRecords

/-- What waited for one item proceeds. -/
def State.release (s : State) : MirrorWait → State
  | .record r => s.releaseRecord r
  | .notice q n => { s with cmds := s.cmds.map (fun (c : Cmd) => if c.q = q ∧ c.n = n then { c with noticed := true } else c) }
  | _ => s

/-- Everything that waits proceeds. -/
def State.releaseAll (s : State) : State :=
  let t := s.twin.unacked.foldl State.release { s with twin := { s.twin with unacked := [] } }
  { t with cmds := t.cmds.map (fun (c : Cmd) => { c with noticed := true }) }

/-- FILL_SYNC reads 1 once every block has been sent and every forwarded write acknowledged (R413). -/
def State.noteSync (s : State) : State :=
  if s.twin.state = .filling ∧ s.twin.fillLeft.isEmpty = true ∧ s.twin.fillRecs.isEmpty = true ∧ s.twin.unacked.contains .fill = false then
    { s with twin := { s.twin with fillSync := true } } else s

/-- TWIN_ACK_RECEIVE: the oldest item that awaits an acknowledgement has it. -/
def twinAck (s : State) : State :=
  match s.twin.unacked with
  | [] => s
  | w :: rest =>
    if !s.alive then s else
    let t : State := { s with twin := { s.twin with unacked := rest } }
    let t := match w with | .record _ => t.count pgTwin 0x1501 1 | _ => t
    (t.release w).noteSync

/-- TWIN_ACK_RECEIVE (R406). -/
def execTwinAckReceive (s : State) : Host.Outcome State Fault Refusal := .next (twinAck s)

/-! ### Losing the partner (R409) -/

/-- A member that has a partner, or fills a spare. -/
def State.hasPartner (s : State) : Bool := s.twin.state == .paired || s.twin.state == .shared || s.twin.state == .filling

/-- CORRECTED is recorded and PARTNER_LOST is set, as one error. (DEDUCED, log entry 44). -/
def Page.partnerLost (h : Page) : Page :=
  let g := ((h.raiseBit 0 0 false).countClass .corrected).countEvent 2 1
  { g with errSts := setBit g.errSts 16 true }

/-- ALONE: nothing waits for acknowledgements any more; the mirror area is kept. -/
def State.goAlone (s : State) (reason : Nat) : State :=
  let t : State := { s with twin := { s.twin with state := .alone, reason := reason, fillLeft := [], fillRecs := [], fillSync := false } }
  t.releaseAll.modPage pgTwin Page.partnerLost

/-- TWIN_ACK_TIMEOUT: REASON 1, or 4 when neither detour delivers (R410). -/
def twinAckTimeout (noRoute : Bool) (s : State) : State :=
  if s.alive && s.hasPartner && !s.twin.unacked.isEmpty then s.goAlone (if noRoute then 4 else 1) else s

/-- TWIN_ACK_TIMEOUT (R407, R409, R410). -/
def execTwinAckTimeout (noRoute : Bool) (s : State) : Host.Outcome State Fault Refusal := .next (twinAckTimeout noRoute s)
/-- STOP_NOTICE_RECEIVE (R409). -/
def execStopNoticeReceive (s : State) : Host.Outcome State Fault Refusal := .next (if s.alive && s.hasPartner then s.goAlone 2 else s)
/-- TWIN_PARTNER_LOST (R409). -/
def execTwinPartnerLost (value : Word) (s : State) : Host.Outcome State Fault Refusal :=
  .next (twinRow 3 State.hasPartner (fun t => t.goAlone 3) value.toNat s)

/-! ### Unpairing (R404) -/

/-- SOLO again: what waited proceeds, and neither member counts as lost. -/
def State.goSolo (s : State) : State :=
  ({ s with twin := { s.twin with state := .solo, reason := 0, partnerPos := 0xFFFF, partnerFeed := 0, fillSync := false } } : State).releaseAll

/-- TWIN_UNPAIR. -/
def execTwinUnpair (value : Word) (s : State) : Host.Outcome State Fault Refusal :=
  .next (twinRow 2 State.isPaired (fun t => (t.tellTwin "UNPAIR" [] []).goSolo) value.toNat s)
/-- UNPAIR_NOTICE_RECEIVE. -/
def execUnpairNoticeReceive (s : State) : Host.Outcome State Fault Refusal := .next (if s.alive && s.isPaired then s.goSolo else s)

/-! ### Filling a spare (R412, R413) -/

/-- The replicated blocks, ascending, by number in MiB. -/
def Twin.repBlocks (w : Twin) : List Nat :=
  (w.rep.filter (·.2.valid)).foldl (fun l e => (List.range (e.2.last + 1 - e.2.first)).foldl (fun l i => insertNat (e.2.first + i) l) l) []

/-- TWIN_CTL.OP = FILL: the spare learns of the survivor and its live records; the blocks and the lost member's records are to be
sent, and its notices go at once. -/
def State.fill (s : State) : State :=
  let w := { s.twin with state := .filling, reason := 0, fillLeft := s.twin.repBlocks, fillRecs := s.twin.mirrored, fillSync := false, unacked := [] }
  let t : State := ({ s with twin := w } : State).tellTwin "FILL" s.pairWords s.pairBytes
  (s.twin.notices.foldl (fun (u : State) x => u.tellTwin "FILL_NOTICE" [x.1, x.2] []) t).noteSync

/-- TWIN_FILL (R412, R413). -/
def execTwinFill (value : Word) (s : State) : Host.Outcome State Fault Refusal :=
  .next (twinRow 4 (fun t => t.twin.state == .alone) State.fill value.toNat s)

/-- FILL_BLOCK_SEND: the next block, or after the last the next record of the lost member's journal. -/
def fillBlockSend (s : State) : State :=
  if !s.alive || s.twin.state != .filling then s else
  match s.twin.fillLeft with
  | b :: _ => s.sendFill b
  | [] =>
    match s.twin.fillRecs with
    | r :: rest =>
      let t := s.tellTwin "FILL_RECORD" [r.1] r.2
      { t with twin := { t.twin with fillRecs := rest, unacked := t.twin.unacked ++ [.fill] } }
    | [] => s.noteSync

/-- FILL_BLOCK_SEND (R413). -/
def execFillBlockSend (s : State) : Host.Outcome State Fault Refusal := .next (fillBlockSend s)

/-- A record of the lost member enters the spare's own journal area, under the spare's OWNER_ID. -/
def State.adoptRecord (s : State) (r : Nat) (bs : Bytes) : State :=
  if s.journalSlots = 0 then s else
  let t := s.storeBytes (s.recordAddr r) bs
  let j := if s.twin.adopting then { t.jnl with writeRec := max t.jnl.writeRec (r + 1), trimRec := min t.jnl.trimRec r }
           else { t.jnl with writeRec := r + 1, trimRec := r, live := [] }
  ({ t with jnl := j, twin := { t.twin with adopting := true } } : State).writeHeader

/-- FILL_BLOCK_RECEIVE: stored, and acknowledged; the poisoned granules of a block enter the poison list. (DEDUCED, log entry 43). -/
def fillReceive (i : FillItem) (s : State) : State :=
  if !s.alive || s.twin.state != .fillTarget then s else
  match i with
  | .block a bs ps =>
    if s.mappedRange a bs.length then
      (((ps.foldl (fun (t : State) p => t.poisonGranule p) (s.storeBytes a bs)).count pgTwin 0x1504 1).tellTwin "ACK" [] [])
    else s
  | .write a bs =>
    match s.writeBytes a bs with
    | .ok t => t.tellTwin "ACK" [] []
    | .error _ => s.tellTwin "ACK" [] []
  | .record r bs => (s.adoptRecord r bs).tellTwin "ACK" [] []
  | .notice q n => { s with twin := { s.twin with adoptNotices := s.twin.adoptNotices ++ [(q, n)] } }

/-- FILL_BLOCK_RECEIVE (R413). -/
def execFillBlockReceive (item : FillItem) (s : State) : Host.Outcome State Fault Refusal := .next (fillReceive item s)

/-- The state of a pair that has joined: by what the member knows of the partner's feed. -/
def Twin.joined (w : Twin) : TwinState := if w.sharedFeedOk && w.partnerFeed == w.ownFeed then .shared else .paired

/-- JOIN fits a spare being filled, and a survivor whose FILL_SYNC reads 1. -/
def State.mayJoin (s : State) : Bool := s.twin.state == .fillTarget || (s.twin.state == .filling && s.twin.fillSync)

/-- TWIN_CTL.OP = JOIN: forwarding ends; the spare scans the journal it has taken over and awaits REPLAY_GO (R412 step 8). -/
def State.join (s : State) : State :=
  let t : State := { s with twin := { s.twin with state := s.twin.joined, reason := 0, fillSync := false } }
  if s.twin.state = .fillTarget then
    { t with twin := { t.twin with adopting := true }, jnl := { t.jnl with state := .scanning, afterCold := true } }
  else t

/-- TWIN_JOIN (R412, R413). -/
def execTwinJoin (value : Word) (s : State) : Host.Outcome State Fault Refusal :=
  .next (twinRow 5 State.mayJoin State.join value.toNat s)

/-! ### The partner's items (R407) -/

/-- MIRROR_RECORD_RECEIVE: records and notices are kept and acknowledged; a trim notice frees the mirror's records. -/
def mirrorReceive (i : MirrorItem) (s : State) : State :=
  if !s.alive || !s.per.linkUp || !(s.twinned || s.twin.state == .fillTarget) then s else
  match i with
  | .record r bs => (s.keepMirror r bs).tellTwin "ACK" [] []
  | .commitNotice q n => ({ s with twin := { s.twin with notices := s.twin.notices.filter (· != (q, n)) ++ [(q, n)] } }).tellTwin "ACK" [] []
  | .trim r => ({ s with twin := { s.twin with mirrored := s.twin.mirrored.filter (fun x => decide (r ≤ x.1)), mirrorTrim := r } }).mirrorHeader
  | .followerVersion a v => ({ s with twin := { s.twin with followers := tabSet 0 s.twin.followers a v } }).tellTwin "ACK" [] []

/-- MIRROR_RECORD_RECEIVE (R407). -/
def execMirrorRecordReceive (item : MirrorItem) (s : State) : Host.Outcome State Fault Refusal := .next (mirrorReceive item s)

/-! ### Failure events (R420) -/

/-- FAIL_EVENT: the cycle count of the write is kept, the last 64 in all. -/
def failEvent (v : Nat) (s : State) : State :=
  if !s.answers || !bitAt v 0 then s
  else
    let es := s.twin.events ++ [160 * s.cycles]
    { s with twin := { s.twin with events := es.drop (es.length - 64) } }

/-- FAIL_EVENT. -/
def execFailEvent (value : Word) (s : State) : Host.Outcome State Fault Refusal := .next (failEvent value.toNat s)

end Sys2Proof.Machine
end

