-- ==== Sys2Proof/Machine/Governor.lean ====
section
/-! DEFINITION. The Amber governor: the cap, the thermal rule, the coolant, LOAD_NOTICE, the feed, I²C: GOV_POWER_TICK, GOV_THERMAL_TICK,
FLOW_ESTIMATE, COOLANT_WARN, NOTICE_HOLD_END, LOAD_NOTICE_SETTLE, FEED_SAMPLE, FEED_LOW_ENTER, FEED_LOW_EXIT, FEED_LOSS,
FEED_LOSS_SHUTDOWN, THERMAL_TRIP, I2C_WRITE (R426 to R445). -/

namespace Sys2Proof.Machine

/-- The governor works: the feed is present and the module is not held. -/
def State.governed (s : State) : Bool := decide (s.power = .on)

/-- The effective cap (R427). -/
def Governor.capEff (g : Governor) : Nat :=
  let a := if g.i2cCap = 0 then g.powerCap else min g.powerCap g.i2cCap
  if g.feedLow then min a 1200 else a

/-- A level raised or lowered by one, within 0 to 15. -/
def stepLevel (up down : Bool) (l : Nat) : Nat := if up then min 15 (l + 1) else if down then l - 1 else l

/-- THROTTLE and STATE from the two rules: the higher level governs, and names the state; FEED_LOW stands over both (R426, R434, R445). (DEDUCED, log entry 46). -/
def Governor.settle (g : Governor) : Governor :=
  let l := max g.capLevel g.thermalLevel
  { g with throttle := l, state := if g.feedLow then 3 else if l = 0 then 0 else if g.thermalLevel ≤ g.capLevel then 1 else 2 }

/-- The governor changed. -/
def State.putGov (s : State) (g : Governor) : State := { s with gov := g }

/-- The governor settles its level; a change of the level moves the draw by a sixteenth of the estimate a level, and is a planned fall
or a rise (R430, R435). -/
def State.settleGov (s : State) (g : Governor) : State :=
  let h := g.settle
  let w := fun (n : Nat) => g.estimate * n / 16
  ((s.putGov h).expectFall (w (h.throttle - s.gov.throttle))).expectRise (w (s.gov.throttle - h.throttle))

/-! ### The two rules (R427, R434) -/

/-- GOV_POWER_TICK: above the cap the level rises; below 95 % of it for 1 ms it falls. -/
def govPowerTick (pin vin iin : Nat) (long : Bool) (s : State) : State :=
  if !s.governed then s else
  let g := { s.gov with pin := pin % 65536, vin := vin % 65536, iin := iin % 65536 }
  let cap := g.capEff
  s.settleGov { g with capLevel := stepLevel (decide (cap < pin)) (long && decide (100 * pin < 95 * cap)) g.capLevel }

/-- GOV_POWER_TICK (R427). -/
def execGovPowerTick (pin vin iin : Nat) (belowFor1ms : Bool) (s : State) : Host.Outcome State Fault Refusal :=
  .next (govPowerTick pin vin iin belowFor1ms s)

/-- TEMP_HIGH of every tower, from the sensors of the buffer dies (R308, R433). -/
def State.markHot (s : State) (hot : List (Fin 18)) : State :=
  (List.range 18).foldl (fun t k => t.putTower k { t.tower k with hot := hot.any (fun h => h.val == k) }) s

/-- GOV_THERMAL_TICK: a prediction above TJ_TARGET raises the level; more than 3 °C below it for 10 ms lowers it. (DESIGN CHOICE, log entry 17). -/
def govThermalTick (dieMax towerMax inlet outlet predict : Int) (hot : List (Fin 18)) (long : Bool) (s : State) : State :=
  if !s.governed then s else
  let s := s.markHot hot
  let g := { s.gov with dieMax := dieMax, towerMax := towerMax, inlet := inlet, outlet := outlet, diePredict := predict }
  s.settleGov { g with thermalLevel := stepLevel (decide ((g.tjTarget : Int) < predict)) (long && decide (predict + 3 < (g.tjTarget : Int))) g.thermalLevel }

/-- GOV_THERMAL_TICK (R434). -/
def execGovThermalTick (dieMax towerMax inlet outlet predict : Int) (hotTowers : List (Fin 18)) (belowFor10ms : Bool) (s : State) :
    Host.Outcome State Fault Refusal := .next (govThermalTick dieMax towerMax inlet outlet predict hotTowers belowFor10ms s)

/-! ### The coolant (R433, R436) -/

/-- Flow in units of 0.01 L/min from watts and kelvins, at 4.186 J per gram and kelvin and 1 g per mL; without a rise the manual gives
no value. -/
def State.flowOf (s : State) (watts rise : Nat) : Nat :=
  if rise = 0 then (Config.freeValue s.freeCount 16).toNat else watts * 6000 / (4186 * rise) % 65536

/-- FLOW_ESTIMATE. -/
def flowEstimate (watts rise : Nat) (s : State) : State :=
  if !s.governed then s else { s with gov := { s.gov with flow := s.flowOf watts rise }, freeCount := s.freeCount + bit (decide (rise = 0)) }

/-- FLOW_ESTIMATE (R433). -/
def execFlowEstimate (watts rise : Nat) (s : State) : Host.Outcome State Fault Refusal := .next (flowEstimate watts rise s)

/-- The coolant is outside its limits: inlet above 35 °C, or flow below 2.4 L/min. -/
def Governor.outside (g : Governor) : Bool := decide (35 < g.inlet) || decide (g.flow < 240)

/-- COOLANT_WARN (R436): after 1 s outside, or inside, both limits. -/
def execCoolantWarn (on : Bool) (s : State) : Host.Outcome State Fault Refusal :=
  .next (if s.governed && s.gov.outside == on then { s with gov := { s.gov with coolantWarn := on } } else s)

/-! ### LOAD_NOTICE (R430) -/

/-- NOTICE_HOLD_END: the held ramps start. -/
def execNoticeHoldEnd (s : State) : Host.Outcome State Fault Refusal :=
  .next (if s.governed then { s with gov := { s.gov with holding := false } } else s)
/-- LOAD_NOTICE_SETTLE: a pin is lowered once the estimate has settled; LOAD_NOTICE_UP only after the ramps have started. -/
def execLoadNoticeSettle (s : State) : Host.Outcome State Fault Refusal :=
  .next (if s.governed then { s with gov := { s.gov with noticeUp := s.gov.noticeUp && s.gov.holding, noticeDown := false, rises := [], falls := [] } } else s)

/-! ### The feed (R426, R438, R440) -/

/-- FEED_SAMPLE (R426): VIN, and FEED_HIGH from 60 V to 63 V. -/
def feedSample (mv : Nat) (s : State) : State :=
  if !s.governed then s else
  let t : State := { s with gov := { s.gov with vin := mv % 65536 } }
  if 60000 < mv ∧ mv ≤ 63000 then t.raiseBlockBit pgGov 16 0 else t

/-- FEED_SAMPLE. -/
def execFeedSample (millivolts : Nat) (s : State) : Host.Outcome State Fault Refusal := .next (feedSample millivolts s)

/-- FEED_LOW entered or left. -/
def setFeedLow (on : Bool) (s : State) : State := if s.governed then s.settleGov { s.gov with feedLow := on } else s

/-- FEED_LOW_ENTER (R426). -/
def execFeedLowEnter (s : State) : Host.Outcome State Fault Refusal := .next (setFeedLow true s)
/-- FEED_LOW_EXIT (R426). -/
def execFeedLowExit (s : State) : Host.Outcome State Fault Refusal := .next (setFeedLow false s)

/-- Work that a block held is gone: no array, walker, engine, thread or copy engine keeps anything (R438 step 1). -/
def State.dropAllWork (s : State) : State :=
  { s with regions := s.regions.map (fun g => (g.1, g.2.dropWork)), threads := [], fetches := [], ready := [],
           copy := s.copy.map (fun e => (e.1, { e.2 with piece := none })),
           tow := { s.tow with towers := s.tow.towers.map (fun t => (t.1, { t.2 with cmds := [] })) } }

/-- Steps 1 to 3 of R438: both pins high, every block stops, the compute regions, towers and Ivory lose power. Journal records are
whole when their row ends, so none is left half begun. -/
def State.losePower (s : State) : State :=
  { s.dropAllWork with power := .holdUp, gov := { s.gov with noticeUp := true, noticeDown := true, holding := false, feedLost := true } }

/-- FEED_LOSS. -/
def execFeedLoss (s : State) : Host.Outcome State Fault Refusal :=
  .next (if s.power = .on ∨ s.power = .tripped then s.losePower else s)

/-- The first record that the partner has not acknowledged. -/
def Twin.firstUnacked (w : Twin) : Option Nat := (w.unacked.filterMap (fun x => match x with | .record r => some r | _ => none)).head?

/-- A record that step 3 could not finish counts as not written (R439): both header copies say so. -/
def State.cutJournal (s : State) : State :=
  match s.twin.firstUnacked with
  | none => s
  | some r =>
    if s.journalSlots = 0 ∨ s.per.linkUp = false then s else
    let t : State := { s with jnl := { s.jnl with writeRec := r, trimRec := min s.jnl.trimRec r, live := s.jnl.live.filter (fun l => decide (l.recno < r)) } }
    t.writeHeader.writeHeader

/-- Every link goes down (R438 step 5). -/
def State.linksDown (s : State) : State :=
  { s with lnk := { s.lnk with links := ((List.range 24).map (fun l => (l, { s.link l with state := LinkState.down, retry := [], held := [] }))).foldl (fun t e => tabSet {} t e.1 e.2) [] } }

/-- Steps 4 and 5 of R438: the stop notice, the links down, the module off. (DEDUCED, log entry 47). -/
def State.shutDown (s : State) : State :=
  let t := if s.hasPartner && !s.deviceStop then s.sendTwin "STOP" [] [] else s
  { t.cutJournal.linksDown with power := .off }

/-- FEED_LOSS_SHUTDOWN (R438, R439). -/
def execFeedLossShutdown (s : State) : Host.Outcome State Fault Refusal := .next (if s.power = .holdUp then s.shutDown else s)

/-! ### Thermal trip (R437) -/

/-- A sensor's reading is at or above its trip point. -/
def overTrip : Sensor → Int → Bool
  | .buffer _, c => decide (100 ≤ c)
  | _, c => decide (105 ≤ c)

/-- THERMAL_TRIP: the module stops with DEVICE, runs steps 1 to 5 with the feed present, and is held in reset. A feed loss in
progress governs (R440). -/
def thermalTrip (sensor : Sensor) (celsius : Int) (s : State) : State :=
  if s.power ≠ .on ∨ overTrip sensor celsius = false then s
  else
    let t := (s.deviceStopAt pgGov 0).losePower.shutDown
    { t with power := .tripped, gov := { t.gov with feedLost := false }, grey := {} }

/-- THERMAL_TRIP (R437). -/
def execThermalTrip (sensor : Sensor) (celsius : Int) (s : State) : Host.Outcome State Fault Refusal := .next (thermalTrip sensor celsius s)

/-! ### I²C (R442, R443) -/

/-- A value that I2C_CAP takes. -/
def capOk (v : Nat) : Bool := v == 0 || (decide (600 ≤ v) && decide (v ≤ 1600))

/-- The fields of the I²C map: index, bytes, value (R443). -/
def State.i2cFields (s : State) : List (Nat × Nat × Nat) :=
  let g := s.gov
  [(0x00, 2, 0x7A31), (0x02, 1, s.dataTowers + 2), (0x03, 1, s.twin.ownFeed), (0x04, 2, g.vin), (0x06, 2, g.iin), (0x08, 2, g.pin), (0x0A, 2, g.capEff),
   (0x0C, 2, g.i2cCap), (0x10, 1, codeOf 8 g.dieMax), (0x11, 1, codeOf 8 g.towerMax), (0x12, 1, codeOf 8 g.inlet), (0x13, 1, codeOf 8 g.outlet),
   (0x14, 2, g.flow), (0x16, 1, g.throttle), (0x17, 1, bit g.coolantWarn * 128 + g.state)]

/-- One byte of the map, little-endian; other indices read as zero (R443). -/
def State.i2cByte (s : State) (i : Nat) : Byte :=
  match s.i2cFields.find? (fun f => decide (f.1 ≤ i) && decide (i < f.1 + f.2.1)) with
  | some f => BitVec.ofNat 8 (f.2.2 / 2 ^ (8 * (i - f.1)))
  | none => 0

/-- What a read from an index upward returns, latched at its first byte (R442). -/
def State.i2cRead (s : State) (index : Nat) : Bytes := (List.range (256 - index)).map (fun k => s.i2cByte (index + k))

/-- I2C_WRITE: the index; data is taken at I2C_CAP alone, both bytes together. An index without data opens a read, which is given
the map from that index upward. (DEDUCED, log entry 48). -/
def i2cWrite (index : Nat) (bs : Bytes) (s : State) : State :=
  if s.power ≠ .on ∧ s.power ≠ .tripped then s
  else
    let t : State := { s with gov := { s.gov with i2cIndex := index % 256 } }
    if bs.isEmpty then t.send (.i2c true (t.i2cRead (index % 256)))
    else if index = 0x0C ∧ bs.length = 2 ∧ capOk (leNat bs) = true then ({ t with gov := { t.gov with i2cCap := leNat bs } }).send (.i2c true [])
    else t.send (.i2c false [])

/-- I2C_WRITE. -/
def execI2cWrite (index : Nat) (bytes : Bytes) (s : State) : Host.Outcome State Fault Refusal := .next (i2cWrite index bytes s)

end Sys2Proof.Machine
end

