-- ==== Sys2Proof/Machine/Reset.lean ====
section
/-! DEFINITION. The four resets, the boot, and the lock: REGION_RESET, WORK_RESET, WORK_RESET_FORCED, COLD_RESET, PURGE, BOOT_LOCK,
FEED_RETURN_COLD_RESET, THERMAL_RESET_RELEASE, PAGE_DRAINED (R437, R441, R446 to R456, R489, R499). -/

namespace Sys2Proof.Machine

/-! ### Requests (R446, R450, R451, R472) -/

/-- CAUSE as RESET_STS codes it. -/
def causeCode : Cause → Nat
  | .powerOn => 0 | .pin => 1 | .register => 2 | .greyline => 3 | .feedLoss => 4 | .thermalTrip => 5

/-- RESET_CTL's KEY; a pin and Greyline's own commands need none. -/
def keyOk (cause : Cause) (key : BitVec 8) : Bool := cause != .register || key == 0xA5

/-- A write of RESET_CTL without the KEY is ignored. -/
def State.badReset (s : State) : State := s.badWrite pgBoot 0x100

/-- A reset other than a cold reset or Purge after a DEVICE stop (R451). -/
def State.refuseReset (s : State) : State := { s with boot := { s.boot with refused := true } }

/-- LAST_KIND and CAUSE of a reset that starts; Greyline locks, at 115,200 baud (R468, R469). -/
def State.resetStarts (s : State) (kind : Nat) (cause : Cause) : State :=
  { s with boot := { s.boot with lastKind := kind, cause := causeCode cause }, grey := { fails := s.grey.fails, backingOff := s.grey.backingOff } }

/-! ### Region reset (R447, R448) -/

/-- A page's header after a reset of its region: reset values, but for ERR_STS, ERR_INFO and ERR_COUNT. -/
def Page.regionReset (h : Page) : Page := { h with errMask := 0, ev := [], evFreeze := false, injectNext := false }

/-- The pages and arbiter of region `r` after its reset. -/
def State.resetRegionRegs (s : State) (r : Nat) : State :=
  let t : State := { s with pages := s.pages.map (fun e => if decide (pgRegion r ≤ e.1) && decide (e.1 < pgRegion r + 12) then (e.1, e.2.regionReset) else e) }
  let g := t.region r
  t.putRegion r { g with expanders := g.expanders.map (fun x => (x.1, { x.2 with errBlock := 0 })), waiting := [], lastPort := [] }

/-- Regions whose reset waits for their drain. -/
def Boot.resetting (k : Boot) (r : Nat) : Bool := match k.running with | some (1, m) => m.testBit r | _ => false

/-- A work reset waits for its quiesce. -/
def Boot.workRuns (k : Boot) : Bool := k.running.any (fun x => x.1 == 2)

/-- A region's drain is over: it is reset, and comes back as it was. -/
def State.endRegionReset (s : State) (r : Nat) : State :=
  let m := match s.boot.running with | some (1, m) => m - bit (m.testBit r) * 2 ^ r | _ => 0
  let t := (s.resetRegionRegs r)
  let t := t.putRegion r { t.region r with state := .inService, aborting := false }
  { t with boot := { t.boot with running := if m = 0 then none else some (1, m) } }

/-- One region of a region reset: in service, its work stops and moves, and it drains first; otherwise its registers are reset. -/
def State.resetRegion (s : State) (r : Nat) : State :=
  if (s.region r).state ≠ .inService then s.resetRegionRegs r
  else
    let t := (s.stopWork r).putRegion r { (s.stopWork r).region r with state := .draining }
    let m := match t.boot.running with | some (1, m) => m | _ => 0
    let t : State := { t with boot := { t.boot with running := some (1, m + 2 ^ r) } }
    if t.regionEmpty r then t.endRegionReset r else t

/-- The records that the partner has not acknowledged go out again (R407). -/
def State.resendMirror (s : State) : State :=
  if !s.twinned then s else
  s.twin.unacked.foldl (fun (t : State) w => match w with
    | .record r => t.tellTwin "RECORD" [r] (t.rawBytes (t.recordAddr r) 128)
    | _ => t) s

/-- REGION_RESET of the regions in a mask: the parity buffer is flushed, as by every reset that keeps Umber (R246). Regions that drain
for it count as out of service for no rule of R26: no DEVICE is raised, however many are named. (DEDUCED, log entry 33). -/
def regionReset (cause : Cause) (key : BitVec 8) (mask : Nat) (s : State) : State :=
  if !s.answers || !(cause == .register || cause == .greyline) then s
  else if !keyOk cause key then s.badReset
  else if s.deviceStop then s.refuseReset
  else if s.boot.stage ≠ .run ∨ s.jnl.state = .scanning ∨ s.boot.workRuns = true then s
  else
    let rs := (List.range 8).filter (fun r => mask.testBit r && !s.boot.resetting r)
    (rs.foldl State.resetRegion (s.flushParity.resetStarts 1 cause)).resendMirror

/-- REGION_RESET (R446 to R451). -/
def execRegionReset (cause : Cause) (key regions : BitVec 8) (s : State) : Host.Outcome State Fault Refusal :=
  .next (regionReset cause key regions.toNat s)

/-- PAGE_DRAINED (R458, R486): a part that drains has no work left; a region that drained for its reset is reset. -/
def pageDrainedRow (p : Nat) (s : State) : State :=
  match pageKind p with
  | .region r => if s.boot.resetting r && (s.region r).state == .draining && s.regionEmpty r then s.endRegionReset r else s.pageDrained p
  | _ => s.pageDrained p

/-- PAGE_DRAINED. -/
def execPageDrained (page : Nat) (s : State) : Host.Outcome State Fault Refusal := .next (if s.fed then pageDrainedRow page s else s)

/-! ### Work reset (R407, R447 to R449) -/

/-- A part under test leaves it: the command runs its test again (R465). -/
def PageState.endTest (back : PageState) (x : PageState) : PageState := if x = .testing then back else x

/-- Every test ends. -/
def State.endTests (s : State) : State :=
  { s with regions := s.regions.map (fun e => (e.1, { e.2 with state := e.2.state.endTest (if e.2.faultSeen then .faulted else .drained), faultSeen := false })),
           copy := s.copy.map (fun e => (e.1, { e.2 with state := e.2.state.endTest .drained })),
           tow := { s.tow with towers := s.tow.towers.map (fun e => (e.1, { e.2 with unit := e.2.unit.endTest (if e.1 = 17 then .inService else .drained) })) },
           lnk := { s.lnk with links := s.lnk.links.map (fun e => (e.1, { e.2 with page := e.2.page.endTest .inService })) } }

/-- A queue that is not DISABLED comes back HELD. -/
def QueueCtx.hold (x : QueueCtx) : QueueCtx :=
  if x.state = .disabled then x
  else { x with heldFrom := if x.state = .held then x.heldFrom else x.state, state := .held, stale := false, tries := 0 }

/-- A command stops where it is: it waits for replay, unless a request of its own is still to be answered. Its latches fall, and with
them the table rows that it kept: it reads them again from its new start (R153). A test that it had begun, it runs again (R465). -/
def Cmd.halt (waits : Cmd → Bool) (c : Cmd) : Cmd :=
  if c.phase = .started ∧ waits c = false then { c with phase := .accepted, regions := [], towers := [], dispatched := false, resumed := true,
                                                                latches := [], tables := [], counts := if c.opcode = 0x805 then [] else c.counts, claim := c.claim.map (fun k => { k with tables := [] }), kept := c.kept.filter (fun e => decide (2 ^ 50 ≤ e.1) && decide (e.1 < 2 ^ 60)) } else c

/-- The quiesce: threads save their place, every block drops what is not committed, queues are HELD, the counters clear. (DEDUCED, log entry 35). -/
def State.quiesce (s : State) : State :=
  let u := s.stopThreads (fun _ => true)
  let t := u.dropAllWork.endTests
  let waits := fun (c : Cmd) => t.per.requests.any (fun r => r.q == c.q && r.n == c.n)
  { t with threads := u.heldThreads (Cmd.halt (fun _ => false)), queues := t.queues.map (fun e => (e.1, e.2.hold)), cmds := t.cmds.map (Cmd.halt waits),
           jnl := { t.jnl with state := if t.jnl.state = .broken then .broken else .scanning, afterCold := false },
           twin := { t.twin with wp := {}, wpState := 0 },
           pages := t.pages.map (fun e => (e.1, { e.2 with ev := e.2.ev.map (fun v => (v.1, { v.2 with count := 0 })) })) }

/-- Requests already issued are answered: nothing holds the quiesce. -/
def State.quiet (s : State) : Bool := s.per.requests.isEmpty && s.jnl.owed.isEmpty

/-- A forced work reset leaves deltas unflushed: UNSYNCED, from stripe 0 (R248). -/
def State.unsync (s : State) : State :=
  let w := s.tow
  let v : TowerComplex :=
    if w.sts = .unsynced then { w with cursor := 0, running := true }
    else { w with sts := .unsynced, unsyncBack := w.sts, pausedRunning := w.running, pausedCursor := w.cursor, cursor := 0, running := true,
                  unsyncEnd := if w.sts = .rebuilding then w.cursor else stripeCount }
  let t : State := { s with mem := { s.mem with parity := [] } }
  if w.sts = .rebuilding ∧ w.cursor = 0 then t else { t with tow := v }

/-- The reset completes; when forced, handle queues close, deltas are lost, and requests without an answer are given up. -/
def State.finishWork (s : State) (forced : Bool) : State :=
  let t := if forced then s.unsync else s.flushParity
  let fw := if t.boot.imageOk t.boot.preferred 1 then imHeader (t.boot.image t.boot.preferred 1) else t.boot.fw
  let t : State := { t with boot := { t.boot with running := none, forced := forced, fw := fw }, per := { t.per with requests := [] },
                            cmds := t.cmds.map (Cmd.halt (fun _ => false)), hqs := if forced then [] else t.hqs, threads := if forced then [] else t.threads }
  t.settleLinkFences.resendMirror

/-- A work reset under way completes once it is quiet. -/
def State.settleWork (s : State) : State :=
  match s.boot.running with
  | some (2, _) => if s.quiet then s.finishWork false else s
  | _ => s

/-- A region reset that a higher one stops: its regions come back without it (R450). -/
def State.stopRegionReset (s : State) : State :=
  (List.range 8).foldl (fun (t : State) r => if s.boot.resetting r && (t.region r).state == .draining then t.putRegion r { t.region r with state := .inService } else t) s

/-- WORK_RESET; one asked for while another runs, or before the journal scan has ended, is merged into it (R450). (DEDUCED, log entry 34). -/
def workReset (cause : Cause) (key : BitVec 8) (s : State) : State :=
  if decide (s.power ≠ .on) || s.boot.stage == .halted || !(cause == .register || cause == .greyline || cause == .pin) then s
  else if !keyOk cause key then s.badReset
  else if s.deviceStop then s.refuseReset
  else if s.boot.stage ≠ .run ∨ s.jnl.state = .scanning ∨ s.boot.workRuns = true then s
  else
    let t := (s.stopRegionReset.resetStarts 2 cause).quiesce
    ({ t with boot := { t.boot with running := some (2, 0) } } : State).settleWork

/-- WORK_RESET (R449). -/
def execWorkReset (cause : Cause) (key : BitVec 8) (s : State) : Host.Outcome State Fault Refusal := .next (workReset cause key s)

/-- WORK_RESET_FORCED: 12 ms have passed and a request is still unanswered. -/
def execWorkResetForced (s : State) : Host.Outcome State Fault Refusal :=
  .next (match s.boot.running with | some (2, _) => if s.alive then s.finishWork true else s | _ => s)

/-! ### Cold reset: what it keeps (R17, R447) -/

/-- Slate alone keeps its bytes. -/
def Mem.slateOnly (m : Mem) : Mem :=
  { cells := m.cells.filter (fun e => decide (slateBase ≤ e.1) && decide (e.1 < 2 ^ 48)), openBytes := m.openBytes.filter (fun o => decide (slateBase ≤ o.first)) }

/-- The state before the boot: fuses, flash, straps and Slate stay; everything else takes its reset value. -/
def State.coldBase (s : State) (kind : Nat) (cause : Cause) : State :=
  { part := s.part, freeCount := s.freeCount, mem := s.mem.slateOnly, per := { linkUp := s.per.linkUp }, twin := { ownFeed := s.twin.ownFeed },
    boot := { lastKind := kind, cause := causeCode cause, flash := s.boot.flash, preferred := s.boot.preferred, svnMin := s.boot.svnMin, identitySeed := s.boot.identitySeed,
              vendorKeys := s.boot.vendorKeys, vendorRevoked := s.boot.vendorRevoked, debugKeys := s.boot.debugKeys },
    outbox := s.outbox, pending := s.pending }

/-! ### The boot (R454, R499) -/

/-- STAGE HALTED with a reason. -/
def State.halt (s : State) (reason : Nat) : State := { s with boot := { s.boot with stage := .halted, haltReason := reason } }

/-- The bank that step 2 boots: the preferred one, else the other. -/
def Boot.bootBank (k : Boot) : Option Nat :=
  if k.imageOk k.preferred 1 then some k.preferred else if k.imageOk (1 - k.preferred) 1 then some (1 - k.preferred) else none

/-- Step 4: the identity key, its OWNER_ID, and the service image that runs. -/
def State.identify (s : State) (bank : Nat) : State :=
  let sk := privateSeed s.boot.identitySeed
  let pk := edPublic sk
  { s with boot := { s.boot with bank := bank, fw := imHeader (s.boot.image bank 1), privateKey := sk, publicKey := pk, ownerId := leNat (sliceOf (sha512 pk) 0 8) } }

/-- An image of the booted bank may run on a part. -/
def Boot.loads (k : Boot) (target : Nat) : Bool := k.imageOk k.bank target && imCompat (k.image k.bank target) == imCompat k.fw

/-- Step 6 for the parts that passed: regions and tower units come into service with their images. -/
def State.loadAll (s : State) : State :=
  let rf := imHeader (s.boot.image s.boot.bank 2)
  let tf := imHeader (s.boot.image s.boot.bank 3)
  let rok := s.boot.loads 2
  let tok := s.boot.loads 3
  let t := (List.range 8).foldl (fun (t : State) r => t.putRegion r { t.region r with state := if rok then .inService else .faulted, fw := if rok then rf else [] }) s
  (List.range 18).foldl (fun (t : State) k =>
    if t.towerFitted k then t.putTower k { t.tower k with unit := if tok then .inService else .drained, fw := if tok then tf else [] } else t) t

/-- The towers that fail POST, in order (R499). -/
def towersFailing (p : Post) : List Nat :=
  (List.range 18).filter (fun t => p.towers.any (fun x => x.val == t) || p.blocks.any (fun b => match b with | .tower x => x.val == t | _ => false))

/-- The tower state after POST (R499). -/
def State.postTowers (s : State) (fs : List Nat) : State :=
  let t := fs.foldl (fun (t : State) k => (t.fenceTower k).recordUp (pgTower k) .corrected 0) s
  let set := fun (st : TowerState) (a sp : Nat) => { t with tow := { t.tow with sts := st, lostA := a, spareFor := sp } }
  match fs.filter (· != 17), fs.contains 17 with
  | [], false => t
  | [], true => set .parity 0x1F 0x1F
  | [p], false => set .parity 0x1F p
  | [p], true => set .degraded p 0x1F
  | [a, b], false => set .degraded b a
  | _, _ => t.deviceStopAt pgComplex 0

/-- Every enabled link trains; those that do not are failed (R374). -/
def State.postLinks (s : State) (ls : List (Fin 24)) : State :=
  let t := (List.range 24).foldl (fun (t : State) l => t.putLink l { t.link l with state := .training }) s
  ls.foldl (fun (t : State) l => t.failLink l.val 4) t

/-- Step 5: what fails is fenced. -/
def State.postFences (s : State) (p : Post) : State :=
  let t := p.cells.foldl State.cellFails s
  let t := (p.blocks.filter (fun b => match b with | .tower _ => false | _ => true)).foldl State.fenceBlock t
  (t.postTowers ((towersFailing p).filter s.towerFitted)).postLinks p.links

/-- Steps 5 and 6: with fewer than four regions the module stops with DEVICE at LOAD; otherwise it awaits its configuration. -/
def State.bootParts (s : State) (p : Post) : State :=
  let t := s.loadAll.postFences p
  let t := if t.regionsIn.length < 4 then t.deviceStopAt pgService 0 else t
  { t with boot := { t.boot with stage := if t.deviceStop then .load else .awaitConfig } }

/-- The boot sequence of R454, to AWAIT_CONFIG. (DEDUCED, log entry 36). -/
def State.bootUp (s : State) (p : Post) : State :=
  if !p.fuseOk then s.halt 2
  else
    match s.boot.bootBank with
    | none => s.halt 1
    | some bank => if !p.serviceOk then s.halt 3 else (s.identify bank).bootParts p

/-- A cold reset, whatever started it. -/
def State.coldStart (s : State) (kind : Nat) (cause : Cause) (p : Post) : State := (s.coldBase kind cause).bootUp p

/-- A cold reset is under way: before RUN, unless the module has stopped. -/
def State.booting (s : State) : Bool := s.boot.stage == .awaitConfig && !s.deviceStop

/-- COLD_RESET. At stage ROM it is the power-on reset that goes on; one asked for while a cold reset awaits its configuration is
merged into it (R450); after a trip the module stays held (R437). (DESIGN CHOICE, log entry 19; DEDUCED, log entry 34). -/
def coldReset (cause : Cause) (key : BitVec 8) (p : Post) (s : State) : State :=
  if s.power ≠ .on ∨ cause = .feedLoss ∨ cause = .thermalTrip then s
  else if s.boot.stage = .rom then s.coldStart 3 .powerOn p
  else if cause = .powerOn ∨ (s.boot.stage = .halted ∧ cause = .register) then s
  else if !keyOk cause key then s.badReset
  else if s.booting then s
  else s.coldStart 3 cause p

/-- COLD_RESET (R446, R447, R454, R455, R499). -/
def execColdReset (cause : Cause) (key : BitVec 8) (post : Post) (s : State) : Host.Outcome State Fault Refusal :=
  .next (coldReset cause key post s)

/-- FEED_RETURN_COLD_RESET (R441). -/
def execFeedReturnColdReset (post : Post) (s : State) : Host.Outcome State Fault Refusal :=
  .next (if s.power = .off then s.coldStart 3 .feedLoss post else s)
/-- THERMAL_RESET_RELEASE (R437). -/
def execThermalResetRelease (hottest : Int) (post : Post) (s : State) : Host.Outcome State Fault Refusal :=
  .next (if s.power = .tripped ∧ hottest < 85 then s.coldStart 3 .thermalTrip post else s)

/-! ### Purge (R452) -/

/-- The largest report. -/
def purgeMax : Nat := 64 + 16 * 262144

/-- The report's range is there. -/
def State.purgeFits (s : State) : Bool :=
  decide (s.boot.purgeAddr ≠ 0) && decide (s.tierOf (s.boot.purgeAddr * 4096) = some .slate) && s.mappedRange (s.boot.purgeAddr * 4096) purgeMax

/-- The usable records, and whether the journal is broken. -/
def State.purgeRecs (s : State) : List ScanRec × Bool :=
  let broken := s.jnl.state == .broken
  if s.journalSlots = 0 then ([], broken)
  else
    match s.header with
    | none => ([], broken || !s.freshArea)
    | some h =>
      if (s.checkHeader h).isSome then ([], true)
      else
        let rs := s.scanRecs h
        let bad := match (alteredRec rs).map (·.2) with
          | some r => some r
          | none => (rs.find? (unaccounted rs)).map (·.no)
        match bad with
        | some r => (rs.filter (fun x => decide (x.no < r)), true)
        | none => (rs, broken)

/-- DONE_SEQ as the records have it: every number up to it has completed. -/
def doneFrom (cs : List ScanRec) : Nat → Nat → Nat
  | 0, d => d
  | fuel + 1, d => if cs.any (fun r => r.kind == 2 && r.seq == d + 1) then doneFrom cs fuel (d + 1) else d

/-- A queue's dropped range: queue, first, last. -/
def droppedRange (rs : List ScanRec) (q : Nat) : Option (Nat × Nat × Nat) :=
  let cs := counted rs q
  let done := doneFrom cs cs.length (headOf cs)
  let last := ((cs.filter (fun r => r.kind == 1)).map (·.seq)).foldl max done
  if cs.any (fun r => r.kind == 3) && decide (done < last) then some (q, done + 1, last) else none

/-- The report's bytes. -/
def purgeReport (rs : List ScanRec) (incomplete : Bool) : Bytes :=
  let es := (queuesOf rs).filterMap (droppedRange rs)
  let head := natBytes 4 es.length ++ natBytes 1 (bit incomplete) ++ natBytes 55 0
  withCrc head ++ es.flatMap (fun e => natBytes 4 e.1 ++ natBytes 6 e.2.1 ++ natBytes 6 e.2.2)

/-- The journal and the mirror area emptied. -/
def State.emptyJournal (s : State) : State :=
  let t : State := { s with jnl := { s.jnl with writeRec := 0, trimRec := 0, live := [] }, twin := { s.twin with mirrored := [], mirrorWrite := 0, mirrorTrim := 0 } }
  let t := if t.journalSlots = 0 then t else t.writeHeader.writeHeader
  t.mirrorHeader.mirrorHeader

/-- PURGE. (DEDUCED, log entry 37). -/
def purge (cause : Cause) (key : BitVec 8) (p : Post) (s : State) : State :=
  if !s.answers && !(cause == .greyline && decide (s.power = .on)) then s
  else if !(cause == .register || cause == .greyline) then s
  else if !keyOk cause key then s.badReset
  else if !s.purgeFits then s.badReset
  else
    let t := if s.isPaired then s.tellTwin "UNPAIR" [] [] else s
    let r := t.purgeRecs
    let t := t.storeBytes (t.boot.purgeAddr * 4096) (purgeReport r.1 r.2)
    t.emptyJournal.coldStart 4 cause p

/-- PURGE (R446, R452). -/
def execPurge (cause : Cause) (key : BitVec 8) (post : Post) (s : State) : Host.Outcome State Fault Refusal := .next (purge cause key post s)

/-! ### The lock (R14, R454 step 8, R489) -/

/-- BOOT_LOCK: taken in AWAIT_CONFIG alone. A SIZE_GIB above 4,096 is taken as 0. -/
def bootLock (v : Nat) (s : State) : State :=
  if !s.answers || !bitAt v 0 then s
  else if s.boot.stage ≠ .awaitConfig then s.badWrite pgBoot 0x120
  else
    let t := if 4096 < s.per.sizeGib then ({ s with per := { s.per with sizeGib := 0 } } : State).badWrite pgPerast 0x100 else s
    { t with boot := { t.boot with stage := .run, locked := true }, jnl := { t.jnl with state := .scanning, afterCold := true } }

/-- BOOT_LOCK. -/
def execBootLock (value : Word) (s : State) : Host.Outcome State Fault Refusal := .next (bootLock value.toNat s)

end Sys2Proof.Machine
end

