-- ==== Sys2Proof/Machine/Regs.lean ====
section
/-! DEFINITION. What every register reads: the common header, and each page's block-specific registers (R267 to R269, R310, R311, R369,
R370, R401, R402, R424, R425, R444, R445, R471, R472, R473 to R485). -/

namespace Sys2Proof.Machine

/-! ### Page header (R479) -/

/-- The island a page reports (R29, R30). -/
def pageIsland (p : Nat) : Nat :=
  match pageKind p with
  | .region r | .blockOf r _ => r
  | .complex => 0x0A
  | .tower t => 0x10 + t
  | .fabric => 0x0B
  | .link l => 0x40 + l
  | _ => 0x08

/-- PAGE_STS's code. -/
def PageState.code : PageState → Nat
  | .off => 0 | .admitting => 1 | .inService => 2 | .draining => 3 | .drained => 4 | .testing => 5 | .faulted => 6 | .fencedOut => 7

/-- Units fitted and in service of a region's block, by page index. -/
def Region.units (g : Region) (i : Nat) : Nat × Nat :=
  if i < 5 then (4, if (g.array (i - 1)).fenced then 0 else 4 - (g.array (i - 1)).colFenced.length)
  else if i < 7 then (8, if (g.vector (i - 5)).fenced then 0 else 8 - (g.vector (i - 5)).groupFenced.length)
  else if i = 7 then (1, bit (!g.reductionFenced))
  else if i = 8 then (1, bit (!g.walkerFenced))
  else if i < 11 then (2, if (g.expander (i - 9)).fenced then 0 else 2 - (g.expander (i - 9)).outFenced.length)
  else (16, if g.sliceFailed then 0 else g.banksIn)

/-- Towers not FENCED_OUT. -/
def State.towersUp (s : State) : Nat := ((List.range 18).filter (fun t => s.towerFitted t && !(s.tower t).failed)).length

/-- FITTED and IN_SERVICE of PAGE_CAPS. -/
def State.pageUnits (s : State) (p : Nat) : Nat × Nat :=
  match pageKind p with
  | .engine => if p = 0 then (s.fitted, s.regionsIn.length) else (1, bit (!s.deviceStop))
  | .copy e => (1, bit ((s.engine e).state == .inService))
  | .check u => (1, bit (!tabGet false s.checkFenced u))
  | .region r => (16, (s.region r).banksIn)
  | .blockOf r i => (s.region r).units i
  | .complex => (s.fitted, s.towersUp)
  | .tower t => if s.towerFitted t then (64, if (s.tower t).failed then 0 else 64 - (s.tower t).bankFenced.length) else (0, 0)
  | .fabric => (24, ((List.range 24).filter (fun l => (s.link l).state == .up || (s.link l).state == .narrow)).length)
  | .link l => (9, if (s.link l).state = .failed then 0 else 9 - (s.link l).failedLanes.length)
  | .none => (0, 0)

/-- PAGE_CAPS. -/
def State.pageCaps (s : State) (p : Nat) : Nat :=
  pageIsland p * 2 ^ 56 + (s.pageUnits p).1 * 2 ^ 40 + (s.pageUnits p).2 * 2 ^ 32 + bit (fwPages.contains p) * 2 ^ 8

/-- ERR_INFO: what was latched last stays until the next error latches (R480). (DEDUCED, log entry 50). -/
def Page.info (h : Page) : Nat := h.infoBit * 2 ^ 56 + h.infoDetail

/-- EVSELn. -/
def Page.evsel (h : Page) (n : Nat) : Nat := let e := tabGet {} h.ev n; bit e.wrapped * 2 ^ 31 + e.source

/-- A header register of page `p`. -/
def State.headerRead (s : State) (p o : Nat) : Nat :=
  let h := s.page p
  match o with
  | 0x000 => pageType p * 2 ^ 24 + pageGroup p * 2 ^ 16 + pageIndex p
  | 0x008 => 0x10000
  | 0x010 => s.pageCaps p
  | 0x018 => bit h.evFreeze * 2 ^ 8
  | 0x020 => (s.pageState p).code
  | 0x028 => h.errSts.toNat
  | 0x030 => h.errMask.toNat
  | 0x040 => h.info
  | 0x048 => h.cntRegion * 2 ^ 48 + h.cntContained * 2 ^ 32 + h.cntCorrected
  | 0x080 => h.evsel 0
  | 0x088 => h.evsel 1
  | 0x090 => h.evsel 2
  | 0x098 => h.evsel 3
  | 0x0A0 => (tabGet {} h.ev 0).count
  | 0x0A8 => (tabGet {} h.ev 1).count
  | 0x0B0 => (tabGet {} h.ev 2).count
  | 0x0B8 => (tabGet {} h.ev 3).count
  | 0x0C0 => imCompat (s.fwOf p) * 2 ^ 32 + imVersion (s.fwOf p)
  | _ => 0

/-! ### The service region's pages -/

/-- Page `p` holds an ERR_STS bit that is set and not masked. -/
def State.pageErr (s : State) (p : Nat) : Bool := (s.page p).errSts &&& ~~~(s.page p).errMask != 0

/-- SUM_GROUPg. -/
def State.sumGroup (s : State) (g : Nat) : Nat :=
  ((s.pages.filter (fun e => s.pageErr e.1 && pageGroup e.1 == g && pageExists e.1)).map (fun e => 2 ^ pageIndex e.1)).foldl (· + ·) 0

/-- ERR_SUMMARY. -/
def State.errSummary (s : State) : Nat := ((List.range 11).map (fun g => bit (s.sumGroup g != 0) * 2 ^ g)).sum

/-- The service region page (R483). -/
def State.readService (s : State) (o : Nat) : Nat :=
  if o = 0x100 then s.errSummary
  else if o = 0x108 then bit s.errIrqEnable * 2 ^ 16 + s.errIrqVec
  else if 0x110 ≤ o ∧ o < 0x168 then s.sumGroup ((o - 0x110) / 8)
  else if o = 0x168 then s.inFlight * 2 ^ 32 + (s.regionsIn.map (2 ^ ·)).sum
  else 0

/-- STAGE's code (R472). -/
def Stage.code : Stage → Nat
  | .rom => 0 | .post => 1 | .load => 2 | .awaitConfig => 3 | .run => 4 | .halted => 15

/-- LEVEL's code (R472). -/
def Level.code : Level → Nat
  | .locked => 0 | .operate => 1 | .debug => 2

/-- The identity public key: what the fuses give, from reset on (R472). -/
def Boot.idKey (k : Boot) : Bytes := if k.publicKey.isEmpty then edPublic (privateSeed k.identitySeed) else k.publicKey

/-- The boot core page (R472). -/
def State.readBoot (s : State) (o : Nat) : Nat :=
  let k := s.boot
  match o with
  | 0x108 => k.lastKind * 2 ^ 60 + k.cause * 2 ^ 56 + bit k.forced * 2 ^ 8 + bit k.refused
  | 0x110 => k.purgeAddr * 4096
  | 0x118 => k.stage.code * 2 ^ 60 + k.haltReason * 2 ^ 56 + k.bank * 2 ^ 8 + bit k.scanned * 2 + bit k.locked
  | 0x128 => k.fwLoadAddr * 4096
  | 0x138 => k.fwState * 2 ^ 60 + k.fwFail * 2 ^ 56 + imCompat k.fw * 2 ^ 32 + k.svnMin % 65536
  | 0x140 => fieldAt k.idKey 0 8
  | 0x148 => fieldAt k.idKey 8 8
  | 0x150 => fieldAt k.idKey 16 8
  | 0x158 => fieldAt k.idKey 24 8
  | 0x160 => bit s.grey.baudHigh * 2 ^ 16 + min s.grey.fails 255 * 2 ^ 8 + s.grey.level.code
  | _ => 0

/-- JOURNAL_STS.STATE (R370). -/
def JState.code : JState → Nat
  | .live => 0 | .scanning => 1 | .awaitGo => 2 | .replaying => 3 | .broken => 4

/-- JOURNAL_STS: FILL is in whole per cent. -/
def State.journalSts (s : State) : Nat :=
  s.jnl.state.code * 2 ^ 60 + s.jnl.reason * 2 ^ 56 +
  (if s.journalSlots = 0 then 0 else min 100 (s.jnl.live.length * 100 / s.journalSlots)) * 2 ^ 40 + s.jnl.badRecord

/-- The Perast controller page (R370); a fence register's own count. -/
def State.readPerast (s : State) (path : Path) (o : Nat) : Nat :=
  let k := s.per
  match o with
  | 0x100 => k.slateTimeout * 2 ^ 32 + k.sizeGib
  | 0x108 => k.slatePa * 2 ^ 30
  | 0x110 => k.journalLog2 * 2 ^ 48 + k.journalBase * 4096
  | 0x120 => s.journalSts
  | 0x128 => k.selWord path * 2 ^ 24 + k.selQueue path
  | 0x130 => (s.queue (k.selQueue path)).word (k.selWord path)
  | 0x140 => k.fenceLink
  | 0x148 => k.fenceWindow
  | 0x150 => k.fencePeer
  | 0x158 => k.dbReason * 2 ^ 24 + k.dbQueue
  | _ => 0

/-- TWIN_STS.STATE (R404). -/
def TwinState.code : TwinState → Nat
  | .solo => 0 | .pairing => 1 | .paired => 2 | .shared => 3 | .alone => 4 | .filling => 5 | .fillTarget => 6

/-- C of R420 in service-island cycles, times four: the last stop, and the stream time at SHARE. -/
def Twin.cost4 (w : Twin) : Nat := 4 * w.wpLastStop + w.wpLastStream * (w.wpShare + 1)

/-- The span of the events kept, in service-island cycles, and one less than their number. -/
def Twin.span (w : Twin) : Nat × Nat := ((w.events.getLast?).getD 0 - (w.events.head?).getD 0, w.events.length - 1)

/-- MTBF in ms (R420). -/
def Twin.mtbf (w : Twin) : Nat := if w.events.length < 2 then 0 else w.span.1 / (w.span.2 * 1000000)

/-- WP_INTERVAL in ms: √(2 × C × M), whole. (DEDUCED, log entry 50). -/
def Twin.interval (w : Twin) : Nat :=
  if w.events.length < 2 ∨ w.wpTaken = 0 then 0 else min (2 ^ 32 - 1) (Nat.sqrt (w.cost4 * w.span.1 / (2 * w.span.2)) / 1000000)

/-- The twin engine page (R425). -/
def State.readTwin (s : State) (o : Nat) : Nat :=
  let w := s.twin
  let e := tabGet {} w.rep w.repSel
  match o with
  | 0x100 => w.ackTimeout * 2 ^ 32 + bit w.fillTarget * 2 ^ 9 + bit w.sharedFeedOk * 2 ^ 8
  | 0x108 => w.state.code * 2 ^ 60 + w.reason * 2 ^ 56 + w.refuse * 2 ^ 52 + w.ownFeed * 2 ^ 48 + w.partnerFeed * 2 ^ 44 + bit w.fillSync * 2 ^ 33 +
             bit w.diverged * 2 ^ 32 + w.partnerPos
  | 0x110 => w.mirrorLog2 * 2 ^ 48 + w.mirrorBase * 4096
  | 0x118 => w.repSel
  | 0x120 => bit e.valid * 2 ^ 63 + e.first * 2 ^ 20
  | 0x128 => e.last * 2 ^ 20
  | 0x138 => w.wpShare
  | 0x140 => w.wpState * 2 ^ 60 + (w.wp.blocks.filter (·.streamed)).length
  | 0x148 => w.interval
  | 0x150 => min (2 ^ 32 - 1) (w.cost4 / 4000)
  | 0x158 => w.mtbf
  | _ => 0

/-- The Amber governor page (R445). -/
def State.readGov (s : State) (o : Nat) : Nat :=
  let g := s.gov
  match o with
  | 0x100 => g.tjTarget * 2 ^ 56 + g.noticeW * 2 ^ 32 + g.stagger * 2 ^ 20 + g.rampStep * 2 ^ 12 + g.powerCap
  | 0x108 => g.state * 2 ^ 60 + bit g.coolantWarn * 2 ^ 8 + g.throttle
  | 0x110 => g.vin * 2 ^ 48 + g.iin * 2 ^ 32 + g.pin
  | 0x118 => codeOf 8 g.towerMax * 2 ^ 24 + codeOf 8 g.dieMax * 2 ^ 16 + codeOf 8 g.diePredict * 2 ^ 8
  | 0x120 => g.flow * 2 ^ 32 + codeOf 8 g.outlet * 2 ^ 8 + codeOf 8 g.inlet
  | 0x128 => ((List.range 8).map (fun r => bit (s.region r).gated * 2 ^ r)).sum
  | _ => 0

/-- A singular engine's block registers. -/
def State.readEngine (s : State) (path : Path) (p o : Nat) : Nat :=
  match p with
  | 0 => s.readService o
  | 1 => s.readBoot o
  | 4 => s.readPerast path o
  | 5 => s.readTwin o
  | 6 => if o = 0x100 then (s.lnk.groups.filter (·.2.exist)).length else 0
  | 7 => s.readGov o
  | _ => 0

/-! ### The other pages -/

/-- Bits of the parts that are not fenced. -/
def upMask (n : Nat) (fenced : Nat → Bool) : Nat := ((List.range n).map (fun i => bit (!fenced i) * 2 ^ i)).sum

/-- A region page (R484). -/
def State.readRegion (s : State) (r o : Nat) : Nat :=
  let g := s.region r
  if o = 0x100 then
    s.regionLoad r * 2 ^ 48 + s.threadsIn r * 2 ^ 40 + upMask 4 (fun i => (g.array i).fenced) * 2 ^ 32 + upMask 2 (fun i => (g.vector i).fenced) * 2 ^ 28 +
    upMask 2 (fun i => (g.expander i).fenced) * 2 ^ 24
  else 0

/-- A block page of a region (R484). -/
def Region.readBlock (g : Region) (i o : Nat) : Nat :=
  if i < 5 then
    (let u := g.array (i - 1)
     if o = 0x100 then bit u.ramping * 2 ^ 12 + bit u.active * 2 ^ 8 + (if u.fenced then 0 else upMask 4 (fun c => tabGet false u.colFenced c)) else 0)
  else if i < 7 then
    (let u := g.vector (i - 5)
     if o = 0x100 then bit (!u.users.isEmpty) * 2 ^ 8 + (if u.fenced then 0 else upMask 8 (fun c => tabGet false u.groupFenced c)) else 0)
  else if i < 9 then 0
  else if i < 11 then
    (let u := g.expander (i - 9)
     if o = 0x100 then (if u.fenced then 0 else upMask 2 (fun c => tabGet false u.outFenced c)) else if o = 0x108 then u.errBlock else 0)
  else if o = 0x100 then g.sliceMiB * 2 ^ 16 + upMask 16 (fun b => tabGet false g.bankFenced b) else 0

/-- TOWER_STS.STATE (R267). -/
def TowerState.code : TowerState → Nat
  | .full => 0 | .rebuilding => 1 | .parity => 2 | .degraded => 3 | .lost => 4 | .unsynced => 5

/-- The tower complex page (R267 to R269). -/
def State.readComplex (s : State) (o : Nat) : Nat :=
  let w := s.tow
  let e := s.mem.umberPoison[w.poisonSel]?
  match o with
  | 0x100 => w.sts.code * 2 ^ 24 + w.lostB * 2 ^ 16 + w.lostA * 2 ^ 8 + w.spareFor
  | 0x108 => bit w.lostValid * 2 ^ 63 + w.lostFrom * 2 ^ 24 + (if w.running then w.cursor else 0)
  | 0x110 => w.ivoryScrubMin * 2 ^ 24 + w.scrubHours * 2 ^ 16 + w.rebuildShare
  | 0x120 => w.segSel
  | 0x128 => if w.segSel < s.dataTowers * 64 then tabGet 1 s.mem.granule w.segSel else 0
  | 0x130 => w.poisonSel
  | 0x138 => (match e with | some x => 2 ^ 63 + x.1 / 2 ^ 24 * 2 ^ 48 + x.1 % 2 ^ 24 | none => 0)
  | 0x140 => (match e with | some x => x.2.toNat | none => 0)
  | 0x148 => s.mem.poisonCount
  | 0x150 => s.mem.parity.length
  | _ => 0

/-- A tower page (R311). -/
def State.readTower (s : State) (t o : Nat) : Nat :=
  let w := s.tower t
  match o with
  | 0x100 => w.cmds.length * 2 ^ 24 + w.owed * 2 ^ 16 + bit w.hot * 2 ^ 8 + bit (s.unitBusy t)
  | 0x108 => w.postponeMax
  | _ => 0

/-- The link fabric page (R402). -/
def LinkComplex.read (k : LinkComplex) (o : Nat) : Nat :=
  let w := tabGet {} k.windows k.winSel
  let r := tabGet {} k.routes k.routeSel
  match o with
  | 0x100 => k.position
  | 0x108 => k.sizeZ * 2 ^ 16 + k.sizeY * 2 ^ 8 + k.sizeX
  | 0x110 => k.peerTimeout
  | 0x118 => k.winSel
  | 0x120 => bit w.enable * 2 ^ 48 + w.base
  | 0x128 => w.limit
  | 0x130 => k.routeSel
  | 0x138 => bit r.valid * 2 ^ 63 + r.links * 2 ^ 24 + r.target
  | 0x140 => bit k.fenceFailed * 2 ^ 63 + k.fenceFail
  | _ => 0

/-- LINK_STS.STATE (R402). -/
def LinkState.code : LinkState → Nat
  | .down => 0 | .training => 1 | .up => 2 | .narrow => 3 | .failed => 4 | .unused => 5

/-- A link page (R402). -/
def Link.read (k : Link) (o : Nat) : Nat :=
  match o with
  | 0x100 => k.farLink * 2 ^ 32 + k.state.code * 2 ^ 28 + k.reason * 2 ^ 24 + k.spareFor * 2 ^ 20 + k.use * 2 ^ 16 + k.farPos
  | 0x108 => bit k.enable
  | _ => 0

/-- The block is OFF, or a reset of its region runs (R475). -/
def State.silent (s : State) (p : Nat) : Bool :=
  s.pageState p == .off || (match pageKind p with | .region r | .blockOf r _ => s.boot.resetting r | _ => false)

/-- A block-specific register. -/
def State.blockRead (s : State) (path : Path) (p o : Nat) : Nat :=
  if s.silent p then 0
  else
    match pageKind p with
    | .engine => s.readEngine path p o
    | .copy e => if o = 0x100 then bit (s.engine e).piece.isSome * 2 ^ 8 + engineDir e else 0
    | .region r => s.readRegion r o
    | .blockOf r i => (s.region r).readBlock i o
    | .complex => s.readComplex o
    | .tower t => s.readTower t o
    | .fabric => s.lnk.read o
    | .link l => (s.link l).read o
    | _ => 0

/-- The register at an 8-byte-aligned offset of a page. -/
def State.regRead (s : State) (path : Path) (off : Nat) : Nat :=
  let p := off / 4096
  let o := off % 4096
  (if o < 0x100 then s.headerRead p o else s.blockRead path p o) % 2 ^ 64

end Sys2Proof.Machine
end

