-- ==== Sys2Proof/Machine/Window.lean ====
section
/-! DEFINITION. The window and the register pages' writes: WINDOW_READ, WINDOW_WRITE, REGISTER_WRITE, ERR_STS_CLEAR, ERR_INJECT, EV_CLEAR,
EV_FREEZE, ERROR_IRQ_REPEAT (R13 to R16, R333, R473 to R489). -/

namespace Sys2Proof.Machine

/-! ### The common header (R479 to R483) -/

/-- A page's ERR_STS with bits cleared; the latch goes with its bit (R480). -/
def Page.clearSts (clear : Word) (h : Page) : Page :=
  let sts := h.errSts &&& ~~~clear
  { h with errSts := sts, latched := h.latched && hasBit sts h.infoBit }

/-- The bits of ERR_STS that a page has (R479, R482). -/
def errBits (p : Nat) : List Nat :=
  [0, 1, 2, 3, 8] ++
  (if p = pgPerast then [16, 17, 18, 19] else if p = pgGov ∨ p = pgTwin then [16] else if p = pgFabric then [16, 17]
   else match pageKind p with | .tower _ | .link _ => [16] | _ => []) ++ [63]

/-- A bit that an event sets in the cycle of the write; the event's detail is not known here. -/
def State.raiseSame (s : State) (p bit : Nat) : State :=
  ({ s with freeCount := s.freeCount + 1 } : State).modPage p (·.raiseBit bit (Config.freeValue s.freeCount 48).toNat false)

/-- ERR_STS_CLEAR: a bit that the hardware sets in the same cycle stays set, or is set (R15). (DESIGN CHOICE, log entry 76). -/
def errStsClear (p : Nat) (value hwSet : Word) (s : State) : State :=
  if s.answers && pageExists p then
    (let t := s.modPage p (Page.clearSts (value &&& ~~~hwSet))
     ((errBits p).filter (fun b => hasBit hwSet b && !hasBit (t.page p).errSts b)).foldl (fun (u : State) b => u.raiseSame p b) t)
  else s

/-- ERR_STS_CLEAR. -/
def execErrStsClear (page : Nat) (value hwSet : Word) (s : State) : Host.Outcome State Fault Refusal := .next (errStsClear page value hwSet s)

/-- A page in a compute region's group. -/
def regionOfPage (p : Nat) : Option Nat := match pageKind p with | .region r | .blockOf r _ => some r | _ => none

/-- INJECTED is set when the injection latched ERR_INFO (R481). -/
def State.markInjected (s : State) (p : Nat) (was : Bool) : State :=
  if !was && (s.page p).latched then s.modPage p (fun h => { h with errSts := setBit h.errSts 9 true }) else s

/-- ERR_INJECT (R481). -/
def errInject (p : Nat) (v : Nat) (s : State) : State :=
  if !s.answers || !pageExists p || !bitAt v 8 then s
  else
    let st := s.pageState p
    let debug := s.grey.level == .debug
    if st = .off ∨ st = .fencedOut ∨ st = .testing then s.badWrite p 0x038
    else
      match v % 4 with
      | 0 => s.recordIn p .corrected 0 true
      | 1 => if debug then (s.recordIn p .contained 0 true).modPage p (fun h => { h with injectNext := true }) else s.badWrite p 0x038
      | 2 =>
        (match regionOfPage p with
         | some r => if debug then (s.regionFault r p).markInjected p (s.page p).latched else s.badWrite p 0x038
         | none => s.badWrite p 0x038)
      | _ => s.badWrite p 0x038

/-- ERR_INJECT. -/
def execErrInject (page : Nat) (value : Word) (s : State) : Host.Outcome State Fault Refusal := .next (errInject page value.toNat s)

/-- EVCNT0 to EVCNT3 zeroed. -/
def Page.evClear (h : Page) : Page := { h with ev := h.ev.map (fun e => (e.1, { e.2 with count := 0 })) }

/-- EV_CLEAR (R479). -/
def execEvClear (page : Nat) (s : State) : Host.Outcome State Fault Refusal :=
  .next (if s.answers && pageExists page then s.modPage page Page.evClear else s)
/-- EV_FREEZE (R479). -/
def execEvFreeze (page : Nat) (on : Bool) (s : State) : Host.Outcome State Fault Refusal :=
  .next (if s.answers && pageExists page then s.modPage page (fun h => { h with evFreeze := on }) else s)

/-- ERROR_IRQ_REPEAT (R483): a further message while the summary stays non-zero and a further bit has been set. -/
def execErrorIrqRepeat (s : State) : Host.Outcome State Fault Refusal :=
  .next (if s.answers && s.errIrqEnable && s.errIrqMore && errSummaryAny s.pages then { s.send (.irq s.errIrqVec) with errIrqMore := false } else s)

/-- How many block sources a page type has (R493). -/
def sourcesOf (ty : Nat) : Nat :=
  match ty with
  | 0x01 => 4 | 0x02 => 6 | 0x03 => 3 | 0x04 => 1 | 0x05 => 3 | 0x06 => 4 | 0x07 => 4 | 0x10 => 3 | 0x14 => 8 | 0x15 => 4 | 0x16 => 2 | 0x17 => 3
  | 0x19 => 2 | 0x1A => 1 | 0x20 => 5 | 0x21 => 7 | 0x30 => 2 | 0x31 => 5 | _ => 0

/-- A SOURCE code that the page has (R490 to R493). -/
def sourceOk (p code : Nat) : Bool :=
  decide (code ≤ 5) || (code / 256 == pageType p && decide (1 ≤ code % 256) && decide (code % 256 ≤ sourcesOf (pageType p)))

/-- EVSELn written: WRAPPED clears with a 1, unless the counter wraps in that cycle (R15); a SOURCE that the page has not leaves the field and sets BAD_WRITE. -/
def State.writeEvsel (s : State) (p n o v : Nat) (hw : Word) : State :=
  let e := tabGet {} (s.page p).ev n
  let code := v % 65536
  let e : EvCounter := { e with wrapped := (e.wrapped && !bitAt v 31) || hasBit hw 31, source := if sourceOk p code then code else e.source }
  let t := s.modPage p (fun h => { h with ev := tabSet {} h.ev n e })
  if sourceOk p code then t else t.badWrite p o

/-- EVCNTn written. -/
def State.writeEvcnt (s : State) (p n v : Nat) : State :=
  s.modPage p (fun h => { h with ev := tabSet {} h.ev n { tabGet {} h.ev n with count := v % 2 ^ 48 } })

/-- PAGE_CTL (R486): EV_CLEAR, then EV_FREEZE, then the one action asked for. -/
def State.pageCtl (s : State) (p v : Nat) : State :=
  let t := if bitAt v 9 then s.modPage p Page.evClear else s
  let t := t.modPage p (fun h => { h with evFreeze := bitAt v 8 })
  match v % 8 with
  | 0 => t
  | 1 => t.pageEnable p
  | 2 => t.pageDrain p
  | 4 => t.pageAbort p
  | _ => t.badCtl p

/-- A header register written; `hw` are the W1C bits of it that the hardware sets in the same cycle (R15). -/
def State.headerWrite (s : State) (p o v : Nat) (hw : Word) : State :=
  match o with
  | 0x018 => s.pageCtl p v
  | 0x028 => errStsClear p (BitVec.ofNat 64 v) hw s
  | 0x030 => s.modPage p (fun h => { h with errMask := BitVec.ofNat 64 v })
  | 0x038 => errInject p v s
  | 0x080 => s.writeEvsel p 0 o v hw
  | 0x088 => s.writeEvsel p 1 o v hw
  | 0x090 => s.writeEvsel p 2 o v hw
  | 0x098 => s.writeEvsel p 3 o v hw
  | 0x0A0 => s.writeEvcnt p 0 v
  | 0x0A8 => s.writeEvcnt p 1 v
  | 0x0B0 => s.writeEvcnt p 2 v
  | 0x0B8 => s.writeEvcnt p 3 v
  | _ => s

/-! ### The service region's pages -/

/-- RESET_CTL (R472). A cold reset or Purge written here finds nothing broken at its self-test. (DESIGN CHOICE, log entry 31). -/
def State.resetCtl (s : State) (path : Path) (v : Nat) : State :=
  let cause : Cause := match path with | .window => .register | .greyline => .greyline
  let key : BitVec 8 := BitVec.ofNat 8 (bitsOf v 63 56)
  if key ≠ 0xA5 then s.badReset
  else
    match v % 8 with
    | 1 => regionReset cause key (bitsOf v 15 8) s
    | 2 => workReset cause key s
    | 3 => coldReset cause key {} s
    | 4 => purge cause key {} s
    | _ => s.badReset

/-- The boot core page. -/
def State.writeBoot (s : State) (path : Path) (o v : Nat) : State :=
  match o with
  | 0x100 => s.resetCtl path v
  | 0x110 => { s with boot := { s.boot with purgeAddr := bitsOf v 47 12 } }
  | 0x120 => bootLock v s
  | 0x128 => { s with boot := { s.boot with fwLoadAddr := bitsOf v 47 12 } }
  | 0x130 => (match v % 4 with | 1 => fwStage s | 2 => fwActivate s | 3 => fwCommitSvn s | _ => s)
  | _ => s

/-- SLATE_CTL: TIMEOUT from 10,000 to 100,000,000, else unchanged with BAD_WRITE; SIZE_GIB until the lock. -/
def State.slateCtl (s : State) (v : Nat) : State :=
  let w := bitsOf v 58 32
  let t : State := if s.boot.locked then s else { s with per := { s.per with sizeGib := bitsOf v 12 0 } }
  if 10000 ≤ w ∧ w ≤ 100000000 then { t with per := { t.per with slateTimeout := w } } else t.badWrite pgPerast 0x100

/-- QCTX_SEL of a path (R487). -/
def Perast.select (k : Perast) (path : Path) (v : Nat) : Perast :=
  match path with
  | .window => { k with selWindowWord := bitsOf v 27 24, selWindowQueue := bitsOf v 17 0 }
  | .greyline => { k with selGreyWord := bitsOf v 27 24, selGreyQueue := bitsOf v 17 0 }

/-- The Perast controller page. -/
def State.writePerast (s : State) (path : Path) (o v : Nat) : State :=
  match o with
  | 0x100 => s.slateCtl v
  | 0x108 => if s.boot.locked then s else { s with per := { s.per with slatePa := bitsOf v 55 30 } }
  | 0x110 => if s.boot.locked then s else { s with per := { s.per with journalLog2 := bitsOf v 53 48, journalBase := bitsOf v 47 12 } }
  | 0x118 => if bitAt v 0 then replayGo s else s
  | 0x128 => { s with per := s.per.select path v }
  | 0x130 => qctxDataWrite path v s
  | 0x138 => (match v % 4 with | 1 => queueEnable path s | 2 => queueDisable path s | 3 => queueAbort path s | _ => s)
  | _ => s

/-- TWIN_CTL: its fields and the action of its OP. -/
def State.twinCtl (s : State) (v : Nat) : State :=
  let t := s.setTwinCtl v
  match twinOpField v with
  | 0 => t
  | 1 => if t.twin.state == .solo then t.pair else t.badTwinOp
  | 2 => if t.isPaired then (t.tellTwin "UNPAIR" [] []).goSolo else t.badTwinOp
  | 3 => if t.hasPartner then t.goAlone 3 else t.badTwinOp
  | 4 => if t.twin.state == .alone then t.fill else t.badTwinOp
  | 5 => if t.mayJoin then t.join else t.badTwinOp
  | _ => t.badTwinOp

/-- A REP entry is written only while STATE is SOLO. -/
def State.writeRep (s : State) (o : Nat) (f : RepEntry → RepEntry) : State :=
  if s.twin.state = .solo then { s with twin := { s.twin with rep := tabMod {} s.twin.rep s.twin.repSel f } } else s.badWrite pgTwin o

/-- The twin engine page. -/
def State.writeTwin (s : State) (o v : Nat) (hw : Word) : State :=
  match o with
  | 0x100 => s.twinCtl v
  | 0x108 => { s with twin := { s.twin with diverged := (s.twin.diverged && !bitAt v 32) || hasBit hw 32 } }
  | 0x110 => if s.boot.locked then s else { s with twin := { s.twin with mirrorLog2 := bitsOf v 53 48, mirrorBase := bitsOf v 47 12 } }
  | 0x118 => { s with twin := { s.twin with repSel := bitsOf v 5 0 } }
  | 0x120 => s.writeRep o (fun e => { e with valid := bitAt v 63, first := bitsOf v 47 20 })
  | 0x128 => s.writeRep o (fun e => { e with last := bitsOf v 47 20 })
  | 0x130 => failEvent v s
  | 0x138 => { s with twin := { s.twin with wpShare := v % 4 } }
  | _ => s

/-- GOV_CTL: TJ_TARGET and RAMP_STEP outside their ranges are ignored, with BAD_WRITE (R432, R445). (DEDUCED, log entry 45). -/
def State.govCtl (s : State) (v : Nat) : State :=
  let tj := bitsOf v 63 56
  let ramp := bitsOf v 18 12
  let tjOk := decide (70 ≤ tj) && decide (tj ≤ 95)
  let rampOk := decide (6 ≤ ramp) && decide (ramp ≤ 96)
  let g := s.gov
  let t : State := { s with gov := { g with tjTarget := if tjOk then tj else g.tjTarget, rampStep := if rampOk then ramp else g.rampStep,
                                            noticeW := bitsOf v 47 32, stagger := bitsOf v 27 20, powerCap := bitsOf v 10 0 } }
  if tjOk && rampOk then t else t.badWrite pgGov 0x100

/-- A singular engine's block registers. -/
def State.writeEngine (s : State) (path : Path) (p o v : Nat) (hw : Word) : State :=
  match p with
  | 0 => if o = 0x108 then { s with errIrqEnable := bitAt v 16, errIrqVec := bitsOf v 10 0 } else s
  | 1 => s.writeBoot path o v
  | 4 => s.writePerast path o v
  | 5 => s.writeTwin o v hw
  | 7 => if o = 0x100 then s.govCtl v else if o = 0x128 then s.gateRegions (v % 256) else s
  | _ => s

/-! ### The other pages -/

/-- The tower complex page. -/
def State.writeComplex (s : State) (o v : Nat) : State :=
  match o with
  | 0x110 => towerCtl (BitVec.ofNat 64 v) s
  | 0x118 => towerFail (BitVec.ofNat 64 v) s
  | 0x120 => s.modTow (fun w => { w with segSel := bitsOf v 9 0 })
  | 0x128 => segData (BitVec.ofNat 64 v) s
  | 0x130 => s.modTow (fun w => { w with poisonSel := bitsOf v 15 0 })
  | _ => s

/-- A tower page: POSTPONE_MAX from 1 to 8 (R311); more owed refreshes than it allows are issued (R309). -/
def State.writeTower (s : State) (t o v : Nat) : State :=
  if o ≠ 0x108 then s
  else if 1 ≤ v % 16 ∧ v % 16 ≤ 8 then s.putTower t { s.tower t with postponeMax := v % 16, owed := if v % 16 < (s.tower t).owed then 0 else (s.tower t).owed }
  else s.badWrite (pgTower t) 0x108

/-- TOPO: a product above 8,192 is ignored (R402). -/
def State.writeTopo (s : State) (v : Nat) : State :=
  let x := bitsOf v 6 0
  let y := bitsOf v 14 8
  let z := bitsOf v 22 16
  if 8192 < x * y * z then s.badWrite pgFabric 0x108 else { s with lnk := { s.lnk with sizeX := x, sizeY := y, sizeZ := z } }

/-- The link complex changed. -/
def State.modLnk (s : State) (f : LinkComplex → LinkComplex) : State := { s with lnk := f s.lnk }

/-- The link fabric page. -/
def State.writeFabric (s : State) (o v : Nat) (hw : Word) : State :=
  match o with
  | 0x100 => positionWrite v s
  | 0x108 => s.writeTopo v
  | 0x110 => s.modLnk (fun k => { k with peerTimeout := bitsOf v 19 0 })
  | 0x118 => s.modLnk (fun k => { k with winSel := bitsOf v 2 0 })
  | 0x120 => s.modLnk (fun k => { k with windows := tabMod {} k.windows k.winSel (fun w => { w with enable := bitAt v 48, base := bitsOf v 47 0 }) })
  | 0x128 => s.modLnk (fun k => { k with windows := tabMod {} k.windows k.winSel (fun w => { w with limit := bitsOf v 47 0 }) })
  | 0x130 => s.modLnk (fun k => { k with routeSel := bitsOf v 4 0 })
  | 0x138 => s.modLnk (fun k => { k with routes := tabSet {} k.routes k.routeSel { valid := bitAt v 63, links := bitsOf v 47 24, target := bitsOf v 15 0 } })
  | 0x140 => s.modLnk (fun k => { k with fenceFailed := (k.fenceFailed && !bitAt v 63) || hasBit hw 63 })
  | _ => s

/-- LINK_CTL: ENABLE, then FAIL and RECAL. -/
def State.writeLink (s : State) (l o v : Nat) : State :=
  if o ≠ 0x108 then s
  else
    let t := linkCtlEnable l (bitAt v 0) s
    let t := if bitAt v 2 then linkCtlFail l t else t
    if bitAt v 1 then linkCtlRecal l t else t

/-- A page has a block-specific register at an offset (R475). -/
def blockRegs (p o : Nat) : Bool :=
  match pageKind p with
  | .region _ => o == 0x100
  | .blockOf _ i => (o == 0x100 && !(i == 7 || i == 8)) || (o == 0x108 && (i == 9 || i == 10))
  | .tower _ | .link _ => o == 0x100 || o == 0x108
  | _ => false

/-- A block-specific register written. An OFF block's, or one in a region's reset, is ignored with BAD_WRITE; LINK_CTL takes ENABLE. -/
def State.blockWrite (s : State) (path : Path) (p o v : Nat) (hw : Word) : State :=
  match pageKind p with
  | .link l => if s.silent p && o == 0x100 then s.badWrite p o else s.writeLink l o v
  | .engine => s.writeEngine path p o v hw
  | .complex => s.writeComplex o v
  | .tower t => if s.silent p && blockRegs p o then s.badWrite p o else s.writeTower t o v
  | .fabric => s.writeFabric o v hw
  | _ => if s.silent p && blockRegs p o then s.badWrite p o else s

/-! ### The apertures (R333, R473, R476) -/

/-- An access that touched an unmapped granule; `a` is the aperture offset of the first. -/
def State.unmappedWindow (s : State) (a : Nat) : State := s.raiseBlockBit pgPerast 16 a

/-- A doorbell's place in the register aperture. -/
def isDoorbell (off : Nat) : Bool := decide (0x1000000 ≤ off) && decide (off < 0x1200000)

/-- A write to a doorbell's address (R342); one narrower than 8 bytes or misaligned is refused with its queue. -/
def doorbellWrite (off size v : Nat) (s : State) : State :=
  let value : BitVec 32 := BitVec.ofNat 32 (bitsOf v 63 32)
  let reserved : BitVec 13 := BitVec.ofNat 13 (bitsOf v 30 18)
  let queue : BitVec 18 := BitVec.ofNat 18 (bitsOf v 17 0)
  if bitAt v 31 then doorbellConsumed off size value reserved queue s else doorbellTail off size value reserved queue s

/-- The first unmapped granule of the register aperture that an access touches is reported (R333). -/
def State.noteUnmapped (s : State) (off len : Nat) : State :=
  match (granulesOf off len).find? (fun g => !isDoorbell g && !pageExists (g / 4096)) with
  | some g => s.unmappedWindow g
  | none => s

/-- What a register write that touches only mapped granules, or none at its start, does (R13, R473): by page and offset; doorbells
by R342. -/
def registerStore (path : Path) (off size v : Nat) (hw : Word) (s : State) : State :=
  if isDoorbell off then doorbellWrite off size v s
  else if !pageExists (off / 4096) then s
  else if size ≠ 8 ∨ off % 8 ≠ 0 then s.badWrite (off / 4096) off
  else if off % 4096 < 0x100 then s.headerWrite (off / 4096) (off % 4096) v hw
  else s.blockWrite path (off / 4096) (off % 4096) v hw

/-- REGISTER_WRITE (R13, R333, R473). -/
def registerWrite (path : Path) (off size v : Nat) (hw : Word) (s : State) : State :=
  if !s.answers && !(path == .greyline && decide (s.power = .on)) then s
  else (registerStore path off size v hw s).noteUnmapped off size

/-- REGISTER_WRITE. -/
def execRegisterWrite (path : Path) (offset size : Nat) (data : RegData) (s : State) : Host.Outcome State Fault Refusal :=
  .next (registerWrite path offset size data.value.toNat data.hwSet s)

/-- Bytes that a read returns. -/
def State.returnData (s : State) (bs : Bytes) : State := s.send (.windowData (bs.map some))

/-- All-ones bytes. -/
def onesBytes (n : Nat) : Bytes := List.replicate n 0xFF

/-- Half, or all, of a register's 8 bytes. -/
def regPart (off len v : Nat) : Bytes := sliceOf (natBytes 8 v) (off % 8) len

/-- A read of the register aperture (R333, R473). A read of a path fence, of 8 bytes or of either half, serves a fence (R360). -/
def registerRead (off len : Nat) (s : State) : State :=
  if isDoorbell off then (s.noteUnmapped off len).returnData ((List.range len).map (fun i => if isDoorbell (off + i) then 0 else 0xFF))
  else if !pageExists (off / 4096) then (s.noteUnmapped off len).returnData (onesBytes len)
  else if (len ≠ 8 ∧ len ≠ 4) ∨ off % len ≠ 0 then ((s.badWrite (off / 4096) off).noteUnmapped off len).returnData (onesBytes len)
  else if off / 8 = 0x4140 / 8 then pathFenceLink (off % 8) len s
  else if off / 8 = 0x4148 / 8 then pathFenceWindow (off % 8) len s
  else if off / 8 = 0x4150 / 8 then pathFencePeer (off % 8) len s
  else s.returnData (regPart off len (s.regRead .window (off / 8 * 8)))

/-- A granule of the memory aperture is mapped there: Ivory or Umber. -/
def State.windowMapped (s : State) (g : Nat) : Bool := s.tierOf g == some .ivory || s.tierOf g == some .umber

/-- The bytes of a read that fall in one granule. -/
def State.windowGranule (s : State) (a len g : Nat) : List (Option Byte) :=
  let lo := max a g
  let n := min (a + len) (g + 64) - lo
  if !s.windowMapped g then List.replicate n (some 0xFF)
  else if s.poisonedAt g then List.replicate n none
  else (s.rawBytes lo n).map some

/-- The first unmapped granule of an access is reported. -/
def State.reportUnmapped (s : State) (gs : List Nat) : State :=
  match gs.find? (fun g => !s.windowMapped g) with
  | some g => s.unmappedWindow g
  | none => s

/-- A read of the memory aperture (R333). -/
def memoryRead (a len : Nat) (s : State) : State :=
  let gs := granulesOf a len
  let data := gs.flatMap (s.windowGranule a len)
  let bad := (gs.filter (fun g => s.windowMapped g && s.poisonedAt g)).length
  ((s.count pgPerast 0x1406 bad).reportUnmapped gs).send (.windowData data)

/-- WINDOW_READ. -/
def windowRead (registers : Bool) (off len : Nat) (s : State) : State :=
  if !s.answers then s else if registers then registerRead off len s else memoryRead off len s

/-- WINDOW_READ (R333, R473). -/
def execWindowRead (registers : Bool) (offset length : Nat) (s : State) : Host.Outcome State Fault Refusal := .next (windowRead registers offset length s)

/-- A write covers what its granule's poison is kept for: the granule, or in the lost range the half of 2 KiB (R240, R250, R258). -/
def coversPoison (s : State) (a len g : Nat) : Bool :=
  if s.tierOf g = some .umber ∧ (let p := s.placeOf (g - umberBase); s.inLost p.1 p.2) then coversHalf s a len g else coversGranule a len g

/-- The first poisoned granule that a window write reaches without covering its poison. -/
def State.windowStop (s : State) (a len : Nat) : Option Nat :=
  (granulesOf a len).find? (fun g => s.windowMapped g && s.poisonedAt g && !coversPoison s a len g)

/-- The part of a write that falls in one granule: stored, or discarded where unmapped. -/
def windowPiece (a : Nat) (bs : Bytes) (s : State) (g : Nat) : State :=
  let lo := max a g
  if s.windowMapped g then s.storeBytes lo (sliceOf bs (lo - a) (min (a + bs.length) (g + 64) - lo)) else s

/-- The bytes of a write that fall in mapped granules are stored. -/
def windowStore (a : Nat) (bs : Bytes) (s : State) : State :=
  if (granulesOf a bs.length).all s.windowMapped then s.storeBytes a bs
  else if !(granulesOf a bs.length).any s.windowMapped then s
  else (granulesOf a bs.length).foldl (windowPiece a bs) (((s.beforeWrite a bs.length).recomputeFirst a bs.length).clearCovered a bs.length)

/-- WINDOW_WRITE: a write to part of a poisoned granule is discarded whole and counted. (DEDUCED, log entry 49). -/
def windowWrite (a : Nat) (bs : Bytes) (s : State) : State :=
  if !s.answers then s else
  (match s.windowStop a bs.length with
   | some g => (s.raiseBlockBit pgPerast 19 g).count pgPerast 0x1406 1
   | none => windowStore a bs s).reportUnmapped (granulesOf a bs.length)

/-- WINDOW_WRITE (R333). -/
def execWindowWrite (addr : Nat) (bytes : Bytes) (s : State) : Host.Outcome State Fault Refusal := .next (windowWrite addr bytes s)

end Sys2Proof.Machine
end

