-- ==== Sys2Proof/Machine/Grey.lean ====
section
/-! DEFINITION. The Greyline monitor: GREYLINE_CHAL, GREYLINE_UNLOCK, GREYLINE_LOCK, GREYLINE_BAUD, GREYLINE_BREAK, GREYLINE_IDLE_LOCK,
GREYLINE_NONCE_EXPIRY, GREYLINE_BACKOFF_END, GREYLINE_RD, GREYLINE_WR, GREYLINE_PAGES, GREYLINE_CNT, GREYLINE_DRAIN, GREYLINE_ABORT,
GREYLINE_ADMIT, GREYLINE_RESET, GREYLINE_PURGE, GREYLINE_SCAN (R466, R468 to R470). -/

namespace Sys2Proof.Machine

/-! ### Replies and levels -/

/-- Greyline answers whenever the feed is present (R468). -/
def State.greyFed (s : State) : Bool := decide (s.power = .on) || decide (s.power = .tripped)

/-- A reply that starts OK, with what follows it. -/
def State.greyOk (s : State) (words : List Nat) (bytes : Bytes) : State := s.send (.grey "OK" words bytes)
/-- A reply that starts ERR. -/
def State.greyErr (s : State) : State := s.send (.grey "ERR" [] [])

/-- The level is at least the one a command asks for (R470). -/
def Level.allows (need held : Level) : Bool := decide (need.code ≤ held.code)

/-- A command that Greyline takes at a level; below it the reply is ERR and nothing changes. -/
def State.greyAt (s : State) (need : Level) (act : State → State) : State :=
  if !s.greyFed then s else if need.allows s.grey.level then act s else s.greyErr

/-- Greyline's own registers changed. -/
def State.modGrey (s : State) (f : Grey → Grey) : State := { s with grey := f s.grey }

/-! ### Locking and unlocking (R468, R469) -/

/-- GREYLINE_CHAL: a fresh nonce, unless a failed UNLOCK's wait runs. (DESIGN CHOICE, log entry 11). -/
def greylineChal (nonce : Bytes) (s : State) : State :=
  s.greyAt .locked (fun t => if t.grey.backingOff then t.greyErr else (t.modGrey (fun g => { g with nonce := some nonce })).greyOk [] nonce)

/-- GREYLINE_CHAL. -/
def execGreylineChal (nonce : Bytes) (s : State) : Host.Outcome State Fault Refusal := .next (greylineChal nonce s)

/-- The bytes that an UNLOCK signs. -/
def State.unlockText (s : State) (key : Nat) (nonce : Bytes) : Bytes := nonce ++ s.boot.idKey ++ natBytes 1 key

/-- The signature answers the nonce that stands. -/
def State.unlockOk (s : State) (key : Nat) (sig : Bytes) : Bool :=
  match s.grey.nonce, s.boot.debugKeys[key]? with
  | some nonce, some pk => edVerify pk (s.unlockText key nonce) sig
  | _, _ => false

/-- The level that a debug key opens. -/
def levelOfKey (key : Nat) : Level := if key = 0 then .operate else .debug

/-- GREYLINE_UNLOCK: the nonce serves once; a failure starts the wait. (DEDUCED, log entry 60). -/
def greylineUnlock (key : Nat) (sig : Bytes) (s : State) : State :=
  s.greyAt .locked (fun t =>
    if t.unlockOk key sig then (t.modGrey (fun g => { g with level := levelOfKey key, nonce := none })).greyOk [] []
    else (t.modGrey (fun g => { g with nonce := none, fails := g.fails + 1, backingOff := true })).greyErr)

/-- GREYLINE_UNLOCK. -/
def execGreylineUnlock (key : Fin 2) (signature : Bytes) (s : State) : Host.Outcome State Fault Refusal := .next (greylineUnlock key.val signature s)

/-- Greyline locks. -/
def Grey.lock (g : Grey) : Grey := { g with level := .locked }

/-- GREYLINE_LOCK. -/
def execGreylineLock (s : State) : Host.Outcome State Fault Refusal := .next (s.greyAt .locked (fun t => (t.modGrey Grey.lock).greyOk [] []))
/-- GREYLINE_BAUD: the rate switches after its OK. -/
def execGreylineBaud (high : Bool) (s : State) : Host.Outcome State Fault Refusal :=
  .next (s.greyAt .locked (fun t => (t.greyOk [] []).modGrey (fun g => { g with baudHigh := high })))
/-- GREYLINE_BREAK: of at least 100 ms. -/
def execGreylineBreak (milliseconds : Nat) (s : State) : Host.Outcome State Fault Refusal :=
  .next (if s.greyFed && decide (100 ≤ milliseconds) then s.modGrey (fun g => { g.lock with baudHigh := false }) else s)
/-- GREYLINE_IDLE_LOCK. -/
def execGreylineIdleLock (s : State) : Host.Outcome State Fault Refusal := .next (if s.greyFed then s.modGrey Grey.lock else s)
/-- GREYLINE_NONCE_EXPIRY. -/
def execGreylineNonceExpiry (s : State) : Host.Outcome State Fault Refusal := .next (if s.greyFed then s.modGrey (fun g => { g with nonce := none }) else s)
/-- GREYLINE_BACKOFF_END. -/
def execGreylineBackoffEnd (s : State) : Host.Outcome State Fault Refusal := .next (if s.greyFed then s.modGrey (fun g => { g with backingOff := false }) else s)

/-! ### Registers (R470, R473) -/

/-- A fence whose read would still wait. (DEDUCED, log entry 32). -/
def State.fenceWaits (s : State) (off : Nat) : Bool :=
  (off == 0x4140 && s.per.requests.any (fun r => r.write && (s.cmd? r.q r.n).isNone)) || (off == 0x4150 && !s.lnk.unacked.isEmpty)

/-- A fence register's read serves one fence. -/
def Perast.serveFence (k : Perast) (off : Nat) : Perast :=
  if off = 0x4140 then { k with fenceLink := k.fenceLink + 1 }
  else if off = 0x4148 then { k with fenceWindow := k.fenceWindow + 1 }
  else if off = 0x4150 then { k with fencePeer := k.fencePeer + 1 }
  else k

/-- What reading at an offset does. -/
def State.greyTouch (s : State) (off : Nat) : State :=
  if isDoorbell off then s
  else if !pageExists (off / 4096) then s.unmappedWindow (off / 64 * 64)
  else if off % 8 ≠ 0 then s.badWrite (off / 4096) off
  else { s with per := s.per.serveFence off }

/-- What reading at an offset returns. -/
def State.greyValue (s : State) (off : Nat) : Nat :=
  if isDoorbell off then 0
  else if !pageExists (off / 4096) ∨ off % 8 ≠ 0 then 2 ^ 64 - 1
  else s.regRead .greyline off

/-- Registers read one after the other: the state after, and their values. -/
def State.greyReads (s : State) (offs : List Nat) : State × List Nat :=
  offs.foldl (fun (x : State × List Nat) off => (x.1.greyTouch off, x.2 ++ [(x.1.greyTouch off).greyValue off])) (s, [])

/-- A reply with the registers at some offsets; a read that a fence holds has not returned yet (log entry 32). -/
def State.greyReply (s : State) (offs : List Nat) : State :=
  if offs.any s.fenceWaits then s else (s.greyReads offs).1.greyOk (s.greyReads offs).2 []

/-- GREYLINE_RD. -/
def greylineRd (off n : Nat) (s : State) : State :=
  s.greyAt .operate (fun t => if 1 ≤ n ∧ n ≤ 16 then t.greyReply ((List.range n).map (fun i => off + 8 * i)) else t.greyErr)

/-- GREYLINE_RD. -/
def execGreylineRd (offset count : Nat) (s : State) : Host.Outcome State Fault Refusal := .next (greylineRd offset count s)

/-- GREYLINE_WR: the path of a window write. -/
def execGreylineWr (offset : Nat) (data : RegData) (s : State) : Host.Outcome State Fault Refusal :=
  .next (s.greyAt .operate (fun t => (registerWrite .greyline offset 8 data.value.toNat data.hwSet t).greyOk [] []))

/-- Every page there is. -/
def pageList : List Nat := (List.range 0xA19).filter pageExists

/-- GREYLINE_PAGES: offset, PAGE_ID and PAGE_STS of each page. -/
def execGreylinePages (s : State) : Host.Outcome State Fault Refusal :=
  .next (s.greyAt .operate (fun t => t.greyOk (pageList.flatMap (fun p => [p * 4096, t.headerRead p 0x000, t.headerRead p 0x020])) []))

/-- The event registers of the page that an offset lies in. -/
def eventOffsets (off : Nat) : List Nat := [0x80, 0x88, 0x90, 0x98, 0xA0, 0xA8, 0xB0, 0xB8].map (off / 4096 * 4096 + ·)

/-- GREYLINE_CNT. -/
def execGreylineCnt (offset : Nat) (s : State) : Host.Outcome State Fault Refusal :=
  .next (s.greyAt .operate (fun t => t.greyReply (eventOffsets offset)))

/-! ### Drain, reset, scan (R466, R470) -/

/-- GREYLINE_DRAIN. -/
def execGreylineDrain (region : Fin 8) (s : State) : Host.Outcome State Fault Refusal :=
  .next (s.greyAt .operate (fun t => (t.pageDrain (pgRegion region.val)).greyOk [] []))
/-- GREYLINE_ABORT. -/
def execGreylineAbort (region : Fin 8) (s : State) : Host.Outcome State Fault Refusal :=
  .next (s.greyAt .operate (fun t => (t.pageAbort (pgRegion region.val)).greyOk [] []))
/-- GREYLINE_ADMIT. -/
def execGreylineAdmit (region : Fin 8) (s : State) : Host.Outcome State Fault Refusal :=
  .next (s.greyAt .operate (fun t => (t.pageEnable (pgRegion region.val)).greyOk [] []))

/-- RESET_CTL with KIND from 1 to 3. -/
def greyReset (kind mask : Nat) (p : Post) (s : State) : State :=
  if kind = 1 then regionReset .greyline 0xA5 mask s else if kind = 2 then workReset .greyline 0xA5 s else coldReset .greyline 0xA5 p s

/-- GREYLINE_RESET. -/
def execGreylineReset (kind : Fin 3) (regions : BitVec 8) (post : Post) (s : State) : Host.Outcome State Fault Refusal :=
  .next (s.greyAt .operate (fun t => greyReset (kind.val + 1) regions.toNat post (t.greyOk [] [])))

/-- GREYLINE_PURGE. -/
def execGreylinePurge (post : Post) (s : State) : Host.Outcome State Fault Refusal :=
  .next (s.greyAt .debug (fun t => purge .greyline 0xA5 post (t.greyOk [] [])))

/-- Every secret is zeroed and the fused seed's read path closes. -/
def Boot.enableScan (k : Boot) : Boot := { k with privateKey := [], seedOpen := false, scanned := true }

/-- SCAN may be taken: every queue DISABLED, the module SOLO. -/
def State.mayScan (s : State) : Bool := s.queues.all (fun e => e.2.state == .disabled) && s.twin.state == .solo

/-- GREYLINE_SCAN. -/
def execGreylineScan (s : State) : Host.Outcome State Fault Refusal :=
  .next (s.greyAt .debug (fun t => if t.mayScan then ({ t with boot := t.boot.enableScan } : State).greyOk [] [] else t.greyErr))

end Sys2Proof.Machine
end

