-- ==== Sys2Proof/Machine/Dispatch.lean ====
section
/-! DEFINITION. The dispatch: one arm per command. -/

namespace Sys2Proof.Machine

/-- The meaning of a command: its effect on everything but the queue. -/
def exec (i : Instr) (s : State) : Host.Outcome State Fault Refusal :=
  match i with
  | .copy q n => Sys2Proof.Machine.execCopy q n s
  | .copyInline q n => Sys2Proof.Machine.execCopyInline q n s
  | .gather q n => Sys2Proof.Machine.execGather q n s
  | .scatter q n => Sys2Proof.Machine.execScatter q n s
  | .stream q n turn => Sys2Proof.Machine.execStream q n turn s
  | .hqOpen q n => Sys2Proof.Machine.execHqOpen q n s
  | .hqClose q n => Sys2Proof.Machine.execHqClose q n s
  | .hqStatus q n => Sys2Proof.Machine.execHqStatus q n s
  | .trackOpen q n => Sys2Proof.Machine.execTrackOpen q n s
  | .trackWriteback q n => Sys2Proof.Machine.execTrackWriteback q n s
  | .trackClose q n => Sys2Proof.Machine.execTrackClose q n s
  | .trackStatus q n => Sys2Proof.Machine.execTrackStatus q n s
  | .trackClean q n => Sys2Proof.Machine.execTrackClean q n s
  | .gemm q n => Sys2Proof.Machine.execGemm q n s
  | .gemmF64x q n => Sys2Proof.Machine.execGemmF64x q n s
  | .thinGemm q n => Sys2Proof.Machine.execThinGemm q n s
  | .elementwise q n => Sys2Proof.Machine.execElementwise q n s
  | .reduce q n => Sys2Proof.Machine.execReduce q n s
  | .softmax q n => Sys2Proof.Machine.execSoftmax q n s
  | .softmaxBwd q n => Sys2Proof.Machine.execSoftmaxBwd q n s
  | .compact q n => Sys2Proof.Machine.execCompact q n s
  | .expand q n => Sys2Proof.Machine.execExpand q n s
  | .attnFwd q n ring => Sys2Proof.Machine.execAttnFwd q n ring s
  | .attnBwd q n => Sys2Proof.Machine.execAttnBwd q n s
  | .kvAppend q n => Sys2Proof.Machine.execKvAppend q n s
  | .bucketSort q n => Sys2Proof.Machine.execBucketSort q n s
  | .kvTruncate q n => Sys2Proof.Machine.execKvTruncate q n s
  | .kvPoolInit q n => Sys2Proof.Machine.execKvPoolInit q n s
  | .kvPoolGrow q n => Sys2Proof.Machine.execKvPoolGrow q n s
  | .kvPoolStatus q n => Sys2Proof.Machine.execKvPoolStatus q n s
  | .kvPoolRetire q n => Sys2Proof.Machine.execKvPoolRetire q n s
  | .stackOpen q n => Sys2Proof.Machine.execStackOpen q n s
  | .stackClose q n => Sys2Proof.Machine.execStackClose q n s
  | .stackMarkPlace q n => Sys2Proof.Machine.execStackMarkPlace q n s
  | .stackMarkPop q n => Sys2Proof.Machine.execStackMarkPop q n s
  | .stackMarkCut q n => Sys2Proof.Machine.execStackMarkCut q n s
  | .stackMarkCutAll q n => Sys2Proof.Machine.execStackMarkCutAll q n s
  | .stackPush q n => Sys2Proof.Machine.execStackPush q n s
  | .stackPop q n => Sys2Proof.Machine.execStackPop q n s
  | .gradQuant q n => Sys2Proof.Machine.execGradQuant q n s
  | .optUpdate q n => Sys2Proof.Machine.execOptUpdate q n s
  | .shardInit q n => Sys2Proof.Machine.execShardInit q n s
  | .shardCheck q n => Sys2Proof.Machine.execShardCheck q n s
  | .shardFetch q n answer => Sys2Proof.Machine.execShardFetch q n answer s
  | .shardExport q n => Sys2Proof.Machine.execShardExport q n s
  | .shardStatus q n => Sys2Proof.Machine.execShardStatus q n s
  | .sepiaBuild q n => Sys2Proof.Machine.execSepiaBuild q n s
  | .sepiaEncode q n => Sys2Proof.Machine.execSepiaEncode q n s
  | .tintEncode q n => Sys2Proof.Machine.execTintEncode q n s
  | .fence q n => Sys2Proof.Machine.execFence q n s
  | .signal q n => Sys2Proof.Machine.execSignal q n s
  | .wait q n => Sys2Proof.Machine.execWait q n s
  | .waitTimeout q n => Sys2Proof.Machine.execWaitTimeout q n s
  | .whitepointTake q n stopCycles => Sys2Proof.Machine.execWhitepointTake q n stopCycles s
  | .whitepointVerify q n partnerLive => Sys2Proof.Machine.execWhitepointVerify q n partnerLive s
  | .wpBlockStream q n cycles => Sys2Proof.Machine.execWpBlockStream q n cycles s
  | .wpDigestReceive q n versions digests => Sys2Proof.Machine.execWpDigestReceive q n versions digests s
  | .serviceSelfTest q n => Sys2Proof.Machine.execServiceSelfTest q n s
  | .serviceCalibrate q n => Sys2Proof.Machine.execServiceCalibrate q n s
  | .serviceAttest q n => Sys2Proof.Machine.execServiceAttest q n s
  | .testEnd q n cells blocks duration => Sys2Proof.Machine.execTestEnd q n cells blocks duration s
  | .allreduce q n members => Sys2Proof.Machine.execAllreduce q n members s
  | .reduceScatter q n members => Sys2Proof.Machine.execReduceScatter q n members s
  | .allgather q n members => Sys2Proof.Machine.execAllgather q n members s
  | .ringShift q n neighbour => Sys2Proof.Machine.execRingShift q n neighbour s
  | .peerPut q n => Sys2Proof.Machine.execPeerPut q n s
  | .collGroupCreate q n => Sys2Proof.Machine.execCollGroupCreate q n s
  | .collGroupDestroy q n => Sys2Proof.Machine.execCollGroupDestroy q n s
  | .collSignatureReceive q n signature => Sys2Proof.Machine.execCollSignatureReceive q n signature s
  | .collReportReceive q n rank => Sys2Proof.Machine.execCollReportReceive q n rank s
  | .collPeerTimeout q n position => Sys2Proof.Machine.execCollPeerTimeout q n position s
  | .collRestartReceive group number => Sys2Proof.Machine.execCollRestartReceive group number s
  | .halt q n => Sys2Proof.Machine.execHalt q n s
  | .setp q n => Sys2Proof.Machine.execSetp q n s
  | .addp q n => Sys2Proof.Machine.execAddp q n s
  | .loop q n => Sys2Proof.Machine.execLoop q n s
  | .endl q n => Sys2Proof.Machine.execEndl q n s
  | .move q n => Sys2Proof.Machine.execMove q n s
  | .conv q n => Sys2Proof.Machine.execConv q n s
  | .gath q n => Sys2Proof.Machine.execGath q n s
  | .scat q n => Sys2Proof.Machine.execScat q n s
  | .skipz q n => Sys2Proof.Machine.execSkipz q n s
  | .take q n => Sys2Proof.Machine.execTake q n s
  | .give q n => Sys2Proof.Machine.execGive q n s
  | .givei q n => Sys2Proof.Machine.execGivei q n s
  | .hqWaiterServed hq => Sys2Proof.Machine.execHqWaiterServed hq s
  | .streamFence q n => Sys2Proof.Machine.execStreamFence q n s
  | .run q n turn => Sys2Proof.Machine.execRun q n turn s
  | .idxp q n => Sys2Proof.Machine.execIdxp q n s
  | .streamMoveDone command mover => Sys2Proof.Machine.execStreamMoveDone command mover s
  | .doorbellTail offset size value reserved queue => Sys2Proof.Machine.execDoorbellTail offset size value reserved queue s
  | .doorbellConsumed offset size value reserved queue => Sys2Proof.Machine.execDoorbellConsumed offset size value reserved queue s
  | .descFetch => Sys2Proof.Machine.execDescFetch s
  | .descFetchReturn q read => Sys2Proof.Machine.execDescFetchReturn q read s
  | .descRefetch q => Sys2Proof.Machine.execDescRefetch q s
  | .commandAccept q => Sys2Proof.Machine.execCommandAccept q s
  | .commandDispatch q n region rise => Sys2Proof.Machine.execCommandDispatch q n region rise s
  | .commitPoint q n => Sys2Proof.Machine.execCommitPoint q n s
  | .commandComplete q n => Sys2Proof.Machine.execCommandComplete q n s
  | .completionRecordWrite q => Sys2Proof.Machine.execCompletionRecordWrite q s
  | .consumedRecordWrite q => Sys2Proof.Machine.execConsumedRecordWrite q s
  | .queueEnable path => Sys2Proof.Machine.execQueueEnable path s
  | .queueDisable path => Sys2Proof.Machine.execQueueDisable path s
  | .queueAbort path => Sys2Proof.Machine.execQueueAbort path s
  | .qctxDataWrite path value => Sys2Proof.Machine.execQctxDataWrite path value s
  | .journalScan => Sys2Proof.Machine.execJournalScan s
  | .replayGo => Sys2Proof.Machine.execReplayGo s
  | .pathFenceLink => Sys2Proof.Machine.execPathFenceLink s
  | .pathFenceWindow => Sys2Proof.Machine.execPathFenceWindow s
  | .pathFencePeer => Sys2Proof.Machine.execPathFencePeer s
  | .peerFenceTimeout => Sys2Proof.Machine.execPeerFenceTimeout s
  | .windowRead registers offset length => Sys2Proof.Machine.execWindowRead registers offset length s
  | .windowWrite addr bytes => Sys2Proof.Machine.execWindowWrite addr bytes s
  | .ivoryRequest port write addr length bytes error => Sys2Proof.Machine.execIvoryRequest port write addr length bytes error s
  | .umberRequest write addr length bytes turn => Sys2Proof.Machine.execUmberRequest write addr length bytes turn s
  | .towerSelfRefreshEntry tower => Sys2Proof.Machine.execTowerSelfRefreshEntry tower s
  | .slateRequest q n write addr length bytes => Sys2Proof.Machine.execSlateRequest q n write addr length bytes s
  | .slateResponse id answer => Sys2Proof.Machine.execSlateResponse id answer s
  | .slateTimeout id => Sys2Proof.Machine.execSlateTimeout id s
  | .towerCtlFlush value => Sys2Proof.Machine.execTowerCtlFlush value s
  | .segDataWrite value => Sys2Proof.Machine.execSegDataWrite value s
  | .towerFailWrite value => Sys2Proof.Machine.execTowerFailWrite value s
  | .towerRequestTimeout tower => Sys2Proof.Machine.execTowerRequestTimeout tower s
  | .towerFailDetect tower => Sys2Proof.Machine.execTowerFailDetect tower s
  | .spareWakeDone => Sys2Proof.Machine.execSpareWakeDone s
  | .rebuildStripe => Sys2Proof.Machine.execRebuildStripe s
  | .lostStripeRecompute => Sys2Proof.Machine.execLostStripeRecompute s
  | .resyncStripe => Sys2Proof.Machine.execResyncStripe s
  | .umberPatrolStep tower stripe granule finding => Sys2Proof.Machine.execUmberPatrolStep tower stripe granule finding s
  | .ivoryPatrolStep addr error => Sys2Proof.Machine.execIvoryPatrolStep addr error s
  | .ivoryBankFail region bank => Sys2Proof.Machine.execIvoryBankFail region bank s
  | .refreshDue tower => Sys2Proof.Machine.execRefreshDue tower s
  | .towerUnitEnd tower q n turn => Sys2Proof.Machine.execTowerUnitEnd tower q n turn s
  | .towerAttnBlockEnd tower command turn => Sys2Proof.Machine.execTowerAttnBlockEnd tower command turn s
  | .overflowFlagReceive tower q n tile flag => Sys2Proof.Machine.execOverflowFlagReceive tower q n tile flag s
  | .arrayPassEnd region array q n boundary => Sys2Proof.Machine.execArrayPassEnd region array q n boundary s
  | .arrayIdle region array => Sys2Proof.Machine.execArrayIdle region array s
  | .expanderBlockDone region pair q n turn => Sys2Proof.Machine.execExpanderBlockDone region pair q n turn s
  | .vectorChunkEnd region engine q n boundary => Sys2Proof.Machine.execVectorChunkEnd region engine q n boundary s
  | .keyBlockEnd region q n boundary => Sys2Proof.Machine.execKeyBlockEnd region q n boundary s
  | .copyPieceCommit mover q n boundary => Sys2Proof.Machine.execCopyPieceCommit mover q n boundary s
  | .encodeChunkCommit q n boundary => Sys2Proof.Machine.execEncodeChunkCommit q n boundary s
  | .collectivePieceCommit q n members boundary => Sys2Proof.Machine.execCollectivePieceCommit q n members boundary s
  | .arbPromote port path => Sys2Proof.Machine.execArbPromote port path s
  | .cellFail cell => Sys2Proof.Machine.execCellFail cell s
  | .blockFail block => Sys2Proof.Machine.execBlockFail block s
  | .regionFail region => Sys2Proof.Machine.execRegionFail region s
  | .errorIrqRepeat => Sys2Proof.Machine.execErrorIrqRepeat s
  | .errStsClear page value hwSet => Sys2Proof.Machine.execErrStsClear page value hwSet s
  | .errInject page value => Sys2Proof.Machine.execErrInject page value s
  | .evClear page => Sys2Proof.Machine.execEvClear page s
  | .evFreeze page on => Sys2Proof.Machine.execEvFreeze page on s
  | .pageDrain page => Sys2Proof.Machine.execPageDrain page s
  | .pageAbort page => Sys2Proof.Machine.execPageAbort page s
  | .pageEnable page => Sys2Proof.Machine.execPageEnable page s
  | .pageDrained page => Sys2Proof.Machine.execPageDrained page s
  | .pageAdmitDone page => Sys2Proof.Machine.execPageAdmitDone page s
  | .regionGateWrite value => Sys2Proof.Machine.execRegionGateWrite value s
  | .govPowerTick pin vin iin belowFor1ms => Sys2Proof.Machine.execGovPowerTick pin vin iin belowFor1ms s
  | .govThermalTick dieMax towerMax inlet outlet predict hotTowers belowFor10ms => Sys2Proof.Machine.execGovThermalTick dieMax towerMax inlet outlet predict hotTowers belowFor10ms s
  | .flowEstimate watts rise => Sys2Proof.Machine.execFlowEstimate watts rise s
  | .coolantWarn on => Sys2Proof.Machine.execCoolantWarn on s
  | .noticeHoldEnd => Sys2Proof.Machine.execNoticeHoldEnd s
  | .loadNoticeSettle => Sys2Proof.Machine.execLoadNoticeSettle s
  | .feedSample millivolts => Sys2Proof.Machine.execFeedSample millivolts s
  | .feedLowEnter => Sys2Proof.Machine.execFeedLowEnter s
  | .feedLowExit => Sys2Proof.Machine.execFeedLowExit s
  | .feedLoss => Sys2Proof.Machine.execFeedLoss s
  | .feedLossShutdown => Sys2Proof.Machine.execFeedLossShutdown s
  | .feedReturnColdReset post => Sys2Proof.Machine.execFeedReturnColdReset post s
  | .thermalTrip sensor celsius => Sys2Proof.Machine.execThermalTrip sensor celsius s
  | .thermalResetRelease hottest post => Sys2Proof.Machine.execThermalResetRelease hottest post s
  | .i2cWrite index bytes => Sys2Proof.Machine.execI2cWrite index bytes s
  | .regionReset cause key regions => Sys2Proof.Machine.execRegionReset cause key regions s
  | .workReset cause key => Sys2Proof.Machine.execWorkReset cause key s
  | .workResetForced => Sys2Proof.Machine.execWorkResetForced s
  | .coldReset cause key post => Sys2Proof.Machine.execColdReset cause key post s
  | .purge cause key post => Sys2Proof.Machine.execPurge cause key post s
  | .bootLock value => Sys2Proof.Machine.execBootLock value s
  | .fwStage => Sys2Proof.Machine.execFwStage s
  | .fwStageDone flashOk => Sys2Proof.Machine.execFwStageDone flashOk s
  | .fwActivate => Sys2Proof.Machine.execFwActivate s
  | .fwCommitSvn => Sys2Proof.Machine.execFwCommitSvn s
  | .linkLaneTrim link lane done late => Sys2Proof.Machine.execLinkLaneTrim link lane done late s
  | .towerZqCal tower late => Sys2Proof.Machine.execTowerZqCal tower late s
  | .towerTimingTrim tower done late => Sys2Proof.Machine.execTowerTimingTrim tower done late s
  | .flitReceive link bytes arrival => Sys2Proof.Machine.execFlitReceive link bytes arrival s
  | .nakReceive link seq => Sys2Proof.Machine.execNakReceive link seq s
  | .linkSilence link => Sys2Proof.Machine.execLinkSilence link s
  | .laneFail link lane => Sys2Proof.Machine.execLaneFail link lane s
  | .spareLaneTrained link => Sys2Proof.Machine.execSpareLaneTrained link s
  | .linkTrained link farPosition farLink => Sys2Proof.Machine.execLinkTrained link farPosition farLink s
  | .linkTrainTimeout link => Sys2Proof.Machine.execLinkTrainTimeout link s
  | .linkCtlFail link => Sys2Proof.Machine.execLinkCtlFail link s
  | .linkCtlRecal link => Sys2Proof.Machine.execLinkCtlRecal link s
  | .linkCtlEnable link on => Sys2Proof.Machine.execLinkCtlEnable link on s
  | .positionWrite value => Sys2Proof.Machine.execPositionWrite value s
  | .peerWriteArrive write => Sys2Proof.Machine.execPeerWriteArrive write s
  | .peerReadArrive source addr length => Sys2Proof.Machine.execPeerReadArrive source addr length s
  | .peerRefusalReceive q n unmapped target addr => Sys2Proof.Machine.execPeerRefusalReceive q n unmapped target addr s
  | .peerVisibilityAck target => Sys2Proof.Machine.execPeerVisibilityAck target s
  | .twinPair value => Sys2Proof.Machine.execTwinPair value s
  | .pairingRecordReceive record => Sys2Proof.Machine.execPairingRecordReceive record s
  | .twinUnpair value => Sys2Proof.Machine.execTwinUnpair value s
  | .unpairNoticeReceive => Sys2Proof.Machine.execUnpairNoticeReceive s
  | .twinPartnerLost value => Sys2Proof.Machine.execTwinPartnerLost value s
  | .twinFill value => Sys2Proof.Machine.execTwinFill value s
  | .fillBlockSend => Sys2Proof.Machine.execFillBlockSend s
  | .twinJoin value => Sys2Proof.Machine.execTwinJoin value s
  | .mirrorRecordReceive item => Sys2Proof.Machine.execMirrorRecordReceive item s
  | .twinAckReceive => Sys2Proof.Machine.execTwinAckReceive s
  | .twinAckTimeout noRoute => Sys2Proof.Machine.execTwinAckTimeout noRoute s
  | .stopNoticeReceive => Sys2Proof.Machine.execStopNoticeReceive s
  | .failEvent value => Sys2Proof.Machine.execFailEvent value s
  | .greylineChal nonce => Sys2Proof.Machine.execGreylineChal nonce s
  | .greylineUnlock key signature => Sys2Proof.Machine.execGreylineUnlock key signature s
  | .greylineLock => Sys2Proof.Machine.execGreylineLock s
  | .greylineBaud high => Sys2Proof.Machine.execGreylineBaud high s
  | .greylineBreak milliseconds => Sys2Proof.Machine.execGreylineBreak milliseconds s
  | .greylineIdleLock => Sys2Proof.Machine.execGreylineIdleLock s
  | .greylineNonceExpiry => Sys2Proof.Machine.execGreylineNonceExpiry s
  | .greylineBackoffEnd => Sys2Proof.Machine.execGreylineBackoffEnd s
  | .greylineRd offset count => Sys2Proof.Machine.execGreylineRd offset count s
  | .greylineWr offset data => Sys2Proof.Machine.execGreylineWr offset data s
  | .greylinePages => Sys2Proof.Machine.execGreylinePages s
  | .greylineCnt offset => Sys2Proof.Machine.execGreylineCnt offset s
  | .greylineDrain region => Sys2Proof.Machine.execGreylineDrain region s
  | .greylineAbort region => Sys2Proof.Machine.execGreylineAbort region s
  | .greylineAdmit region => Sys2Proof.Machine.execGreylineAdmit region s
  | .greylineReset kind regions post => Sys2Proof.Machine.execGreylineReset kind regions post s
  | .greylinePurge post => Sys2Proof.Machine.execGreylinePurge post s
  | .greylineScan => Sys2Proof.Machine.execGreylineScan s
  | .registerWrite path offset size data => Sys2Proof.Machine.execRegisterWrite path offset size data s
  | .pairingTimeout => Sys2Proof.Machine.execPairingTimeout s
  | .fillBlockReceive item => Sys2Proof.Machine.execFillBlockReceive item s
  | .shardFetchServe source shardAddr want => Sys2Proof.Machine.execShardFetchServe source shardAddr want s
  | .perastLinkDown => Sys2Proof.Machine.execPerastLinkDown s
  | .perastLinkUp => Sys2Proof.Machine.execPerastLinkUp s
  | .ivoryRingFault uncorrectable => Sys2Proof.Machine.execIvoryRingFault uncorrectable s
  | .towerFabricFault => Sys2Proof.Machine.execTowerFabricFault s

end Sys2Proof.Machine
end

