-- ==== Sys2Proof/Machine/Idle.lean ====
section
/-! DEFINITION. What a step does while no command waits: one quantum of 160 ns passes (log entry 2). -/

namespace Sys2Proof.Machine

/-- Cycles of a page's island in one quantum of 160 ns (R29, R30), by page number. (DESIGN CHOICE, log entry 2). -/
def islandQuantum (page : Nat) : Nat :=
  if page < 0x100 then 160
  else if page < 0x900 then 136
  else if page = 0x900 then 256
  else if page < 0xA00 then 125
  else 170

/-- The condition of a cycles source holds in page `p` now (R491 to R493). The sources of work in progress are those of rows
that do their work at once: no quantum passes under them (log entry 3). -/
def State.condition (s : State) (p source : Nat) : Bool :=
  match source with
  | 0x0001 => true
  | 0x0104 => (match pageKind p with | .region r => decide (512 ≤ s.regionLoad r) | _ => false)
  | 0x1003 => decide (4096 ≤ s.inFlight)
  | 0x1403 => s.alive && decide (0 < s.journalSlots) && !(s.makeRoom s.roomNeeded s.jnl.live.length).roomFor s.roomNeeded
  | 0x1502 => !s.twin.unacked.isEmpty
  | 0x1701 => decide (0 < s.gov.throttle)
  | 0x1702 => s.gov.holding
  | 0x1703 => s.regions.any (fun e => e.2.arrays.any (fun a => a.2.ramping))
  | 0x2107 => (match pageKind p with | .tower t => (s.tower t).selfRefresh | _ => false)
  | _ => false

/-- The cycle counters of one page advance, unless frozen. -/
def Page.tick (holds : Nat → Bool) (cycles : Nat) (h : Page) : Page :=
  if h.evFreeze then h else { h with ev := h.ev.map (fun e => if holds e.2.source then (e.1, e.2.add cycles) else e) }

/-- One quantum with no command waiting: the clocks and the cycle counters go on while the feed is there, and a work reset that
nothing holds any longer completes (R449). (DESIGN CHOICE, log entry 2). -/
def idleStep (s : State) : State :=
  if s.power ≠ .on then s
  else
    ({ s with cycles := s.cycles + 1, pages := s.pages.map (fun p => (p.1, p.2.tick (s.condition p.1) (islandQuantum p.1))) } : State).settleWork

end Sys2Proof.Machine
end

