-- ==== Sys2Proof/Safety.lean ====
section
/-! DEFINITION. What a safe run is, in the terms the statements use. -/

namespace Sys2Proof.Machine

/-- The command runs to a next state. -/
def Completes (c : Instr) (s : State) : Prop := ∃ t, exec c s = .next t

/-- Memory is in its canonical form: cells, poison lists and granule codes list no default and rise in key. -/
abbrev Mem.wf (m : Mem) : Bool :=
  tabWf 0 m.cells && tabWf false m.ivoryPoison && tabWf false m.slicePoison && tabWf 0 m.umberPoison && tabWf false m.lostCleared && tabWf 1 m.granule

/-- What a command's own row makes of it when nothing stops it: every unit not committed yet is committed and none waits, no injected
error waits in a block that serves it, granules held back are written, and its end gives a report and a status. Nothing otherwise. -/
def Op.outcome (op : Op) (s : State) (c : Cmd) : Option (State × Cmd) :=
  match injectedPage s (op.pages s c) with
  | some _ => none
  | none =>
    match op.runUnits (List.range (op.total s c)) s c with
    | (u, e, none) =>
      if (op.nextUnit u e).isNone then ((releaseWithheld u e).bind (fun v => op.finish v { e with withheld := [] })).toOption else none
    | (_, _, some _) => none

/-- Unit `k` of the command is still to do, nothing hinders it, it commits to `t` and `d`, and units are left to do. -/
def Op.CommitsOne (op : Op) (s : State) (c : Cmd) (k : Nat) (t : State) (d : Cmd) : Prop :=
  injectedPage s (op.pages s c) = none ∧ c.done.contains k = false ∧ op.ready s c k = true ∧
  (∃ b e, b = c.keepTables s (op.tables s c) ∧ op.unit s b k = .ok (t, e) ∧
    d = { e with done := insertNat k e.done, units := e.units + op.weight s b k }) ∧
  (op.nextUnit t d).isSome = true ∧ d.phase = .started ∧ d.done ≠ c.done

/-- What the command holds back to write whole granules lies in what it has recorded as written. -/
def Cmd.heldNoted (c : Cmd) : Bool :=
  c.withheld.all (fun w => c.wrote.any (fun r => decide (r.1 ≤ w.1) && decide (w.1 + w.2.length ≤ r.1 + r.2)))

/-- A command row runs in place: started, its opcode's row, with `t` and `d` what it comes to. -/
def Op.Runs (op : Op) (sel : Cmd → Bool) (s : State) (q n : Nat) (t : State) (d : Cmd) : Prop :=
  ∃ c, s.runnable q n sel = some c ∧ c.heldNoted = true ∧ op.outcome s c = some (t, d)

/-- The thread of STREAM `c` stands at instruction `i` and may issue it: it holds a region in service, waits for nothing, and its program
has not ended; no injected error waits there. -/
def AtIns (code : Nat) (s : State) (q n : Nat) (c : Cmd) (t : Thread) (i : Ins) : Prop :=
  s.runnable q n (Cmd.isOp 0x105) = some c ∧ s.thread? q n = some t ∧ t.saved = false ∧ t.waiting = false ∧ t.ending = none ∧
  (s.region t.region).state = .inService ∧ (s.page (pgRegion t.region)).injectNext = false ∧ t.pc < stCount c ∧ stIns c t.pc = i ∧ i.op = code

/-- The byte at `a` lies in a range that the command has written. -/
def Cmd.hasWritten (d : Cmd) (a : Nat) : Bool := d.wrote.any (fun r => decide (r.1 ≤ a) && decide (a < r.1 + r.2))

/-- The byte at `a` lies in the bitmap of an open tracked range. -/
def State.inBitmap (s : State) (a : Nat) : Bool :=
  s.tracks.any (fun e => e.2.isOpen && decide (e.2.bitmap ≤ a) && decide (a ≤ e.2.bitmap + (e.2.length - 1) / 32768))

/-- `t` differs from `s` at most in memory, in the free values drawn, in what the twin engine, the links and the outbox hold of writes
forwarded or saved, and in event counters and error records. -/
def SameElse (s t : State) : Prop :=
  t = { s with mem := t.mem, freeCount := t.freeCount, twin := t.twin, lnk := { s.lnk with links := t.lnk.links, nextTag := t.lnk.nextTag },
               outbox := t.outbox, pages := t.pages, errIrqMore := t.errIrqMore }

/-- `t` differs from `s` at most in messages sent: the links' flits and tags, the free values drawn for their padding, their counts and the
outbox. -/
def SendsOnly (s t : State) : Prop :=
  t = { s with freeCount := t.freeCount, lnk := { s.lnk with links := t.lnk.links, nextTag := t.lnk.nextTag }, outbox := t.outbox, pages := t.pages } ∧
  s.freeCount ≤ t.freeCount

/-- `t` differs from `s` at most as a command that only writes makes it differ: from a memory in its canonical form, of Ivory and Slate
only in bytes that `d` has written, in bits of open tracked ranges, and in bytes it has left undefined (fresh free values). -/
def WritesOnly (s t : State) (d : Cmd) : Prop :=
  SameElse s t ∧ (s.mem.wf = true →
  ∀ a, (a < umberBase ∨ (slateBase ≤ a ∧ a < 2 ^ 48)) → d.hasWritten a = false → s.inBitmap a = false →
    t.rawByte a = s.rawByte a ∨ ∃ id, s.freeCount ≤ id ∧ t.mem.openAt a = some id)

end Sys2Proof.Machine
end

