-- ==== Sys2Proof/Certificates/Slice0/Obligations.lean ====
section
/-! DEFINITION. The statements about the model, for the provers. -/

open Sys2Proof Sys2Proof.Machine

/-- A step runs the command at the front of the queue, on the state with the queue's rest. For every command c, every list of commands behind it and every
state s: a step of s with c at the front of its queue is exec of c on s with that list as its queue. First in, first out is the model's own form (log
entry 2). (R1, R336.) -/
def Obligations.StepRunsFrontCommand : Prop :=
  ∀ (c : Instr) (rest : List Instr) (s : State),
    step { s with pending := c :: rest } = exec c { s with pending := rest }

/-- Every step answers a next state; with no command waiting, time passes and nothing else. For every state s, step s is next t for some t: errors,
refusals and stops of the module are states the manual describes (a status, a BAD_WRITE, a fence, class DEVICE, power off), never an end of the model.
On an empty queue: while power is not on, the step answers the same state; while it is on and no reset quiesces, one quantum passes, the cycle
counters of the pages may advance, and every other field stays. The quantum on an empty queue is the model's choice (log entry 2). (R10, R26, R29,
R30, R346, R449.) -/
def Obligations.EveryStepAnswersNextAndIdleKeepsState : Prop :=
  (∀ s : State, ∃ t : State, step s = .next t) ∧
  (∀ s : State, s.pending = [] → s.power ≠ .on → step s = .next s) ∧
  (∀ s : State, s.pending = [] → s.power = .on → s.boot.running = none →
    ∃ p : Tab Page, step s = .next { s with cycles := s.cycles + 1, pages := p } ∧ p.map (·.1) = s.pages.map (·.1))

/-- Every step keeps the memories in their canonical form. For every state whose cells, poison lists, lost-range halves and granule codes stand in
canonical form (keys strictly rising, no entry equal to what an unlisted key reads as), if step answers next t, then t's do too. With it equal
memories are equal data, whichever command or idle quantum ran. (R232, R236, R240, R243, R250, R251, R258.) -/
def Obligations.StepKeepsMemoryCanonical : Prop :=
  ∀ s t : State, s.mem.wf = true → step s = .next t → t.mem.wf = true

/-- The memories are in canonical form at reset, and nothing is listed or waits. State.reset lists no memory cell, no poison and no waiting command, so
that the invariant of the memories holds there. (R17, R447.) -/
def Obligations.ResetMemoryCanonical : Prop :=
  State.reset.mem.wf = true ∧ State.reset.mem.cells = [] ∧ State.reset.pending = [] ∧ State.reset.cmds = [] ∧ State.reset.outbox = []

/-- A step removes the front command from the queue and changes nothing else there. For every state s, if step answers next t, then t's queue of waiting
commands is s's queue without its first entry (empty when it was empty). No command's effect adds, drops or reorders waiting commands: writes take
effect in the order in which they arrived. (R336, R474.) -/
def Obligations.StepTakesFrontAlone : Prop :=
  ∀ s t : State, step s = .next t → t.pending = s.pending.tail

/-- No step changes the part, the fused keys or the identity seed, and SVN_MIN never falls. For every state s, if step answers next t: the part, the debug
and vendor key fuses and the fused identity seed of t are those of s, and the fused minimum security version number of t is at least that of s,
through every command, reset and Purge included. (R2, R447, R454, R455, R456, R470.) -/
def Obligations.StepKeepsFuses : Prop :=
  ∀ s t : State, step s = .next t →
    t.part = s.part ∧ t.boot.debugKeys = s.boot.debugKeys ∧ t.boot.vendorKeys = s.boot.vendorKeys ∧
    t.boot.identitySeed = s.boot.identitySeed ∧ s.boot.svnMin ≤ t.boot.svnMin

/-- At reset the registers hold the values that the register tables give. State.reset holds the reset columns of the tables: queue contexts (SIZE_LOG2 4,
NEXT_SEQ 1, DISABLED), SLATE_TIMEOUT, PEER_TIMEOUT, POSITION, TOPO, ACK_TIMEOUT, the governor's TJ_TARGET, NOTICE_W, STAGGER, RAMP_STEP and POWER_CAP,
the tower complex's LOST_A, LOST_B, SPARE_FOR, scrub periods and REBUILD_SHARE, POSTPONE_MAX of each tower, GRANULE of each segment, and Greyline
LOCKED at 115,200 baud. (R17, R243, R259, R267, R311, R338, R370, R402, R425, R444, R472.) -/
def Obligations.ResetValues : Prop :=
  (∀ q : Nat, (State.reset.queue q).sizeLog2 = 4 ∧ (State.reset.queue q).nextSeq = 1 ∧ (State.reset.queue q).state = .disabled ∧
    (State.reset.queue q).tailSeq = 0 ∧ (State.reset.queue q).doneSeq = 0 ∧ (State.reset.queue q).cqHead = 0) ∧
  State.reset.per.slateTimeout = 1000000 ∧ State.reset.lnk.peerTimeout = 100000 ∧ State.reset.lnk.position = 0xFFFF ∧
  State.reset.lnk.sizeX = 1 ∧ State.reset.lnk.sizeY = 1 ∧ State.reset.lnk.sizeZ = 1 ∧
  State.reset.twin.ackTimeout = 1000 ∧ State.reset.twin.state = .solo ∧
  State.reset.gov.tjTarget = 95 ∧ State.reset.gov.noticeW = 100 ∧ State.reset.gov.stagger = 25 ∧ State.reset.gov.rampStep = 6 ∧
  State.reset.gov.powerCap = 1600 ∧
  State.reset.tow.lostA = 0x1F ∧ State.reset.tow.lostB = 0x1F ∧ State.reset.tow.spareFor = 0x1F ∧
  State.reset.tow.ivoryScrubMin = 60 ∧ State.reset.tow.scrubHours = 24 ∧ State.reset.tow.rebuildShare = 1 ∧ State.reset.tow.sts = .full ∧
  (∀ t : Nat, (State.reset.tower t).postponeMax = 8) ∧ (∀ k : Nat, tabGet 1 State.reset.mem.granule k = 1) ∧
  (∀ p : Nat, State.reset.page p = {}) ∧ State.reset.grey.level = .locked ∧ State.reset.grey.baudHigh = false ∧
  State.reset.deviceStop = false ∧ State.reset.boot.stage = .rom

/-- A doorbell that breaks no rule raises TAIL_SEQ or CQ_HEAD, un-parks the queue and is counted; nothing else changes. While the window answers: an
aligned 8-byte write at queue q's doorbell address with reserved bits zero and QUEUE equal to q, to a queue ACTIVE, PARKED_STALE or HELD.
DOORBELL_TAIL: VALUE is extended from CQ_HEAD, lies at most one ring above it, and TAIL_SEQ becomes the larger. DOORBELL_CONSUMED: the extended value
lies above CQ_HEAD and at most at DONE_SEQ, becomes CQ_HEAD, a CONSUMED record is due for q, and the queue's commands up to it whose records were
written are forgotten; in a replay the queue held for them may be released. A queue in PARKED_STALE returns to ACTIVE. Source 0x1404 counts one.
(R340, R342, R345, R355, R367.) -/
def Obligations.DoorbellTaken : Prop :=
  (∀ (s : State) (offset : Nat) (value : BitVec 32) (queue : BitVec 18) (x y : QueueCtx) (v : Nat),
    s.answers = true → offset = 0x1000000 + 8 * queue.toNat → x = s.queue queue.toNat →
    (x.state = .active ∨ x.state = .parkedStale ∨ x.state = .held) →
    v = x.cqHead + (value.toNat + 2 ^ 32 - x.cqHead % 2 ^ 32) % 2 ^ 32 → v ≤ x.cqHead + 2 ^ x.sizeLog2 →
    y = (if x.state = .parkedStale then { x with state := .active, stale := false, tries := 0 } else x) →
    exec (.doorbellTail offset 8 value 0 queue) s =
      .next ((s.putQueue queue.toNat { y with tailSeq := max x.tailSeq v }).count pgPerast 0x1404 1)) ∧
  (∀ (s u : State) (offset : Nat) (value : BitVec 32) (queue : BitVec 18) (x y : QueueCtx) (v : Nat),
    s.answers = true → offset = 0x1000000 + 8 * queue.toNat → x = s.queue queue.toNat →
    (x.state = .active ∨ x.state = .parkedStale ∨ x.state = .held) →
    v = x.cqHead + (value.toNat + 2 ^ 32 - x.cqHead % 2 ^ 32) % 2 ^ 32 → x.cqHead < v → v ≤ x.doneSeq →
    y = (if x.state = .parkedStale then { x with state := .active, stale := false, tries := 0 } else x) →
    u = ({ s with
      jnl := { s.jnl with consume := insertNat queue.toNat s.jnl.consume }
      cmds := s.cmds.filter (fun c : Cmd => !(c.q == queue.toNat && c.phase == Phase.journaled && decide (c.n ≤ v)))
      }.putQueue queue.toNat { y with cqHead := v }).count pgPerast 0x1404 1 →
    (s.jnl.state ≠ .replaying → exec (.doorbellConsumed offset 8 value 0 queue) s = .next u) ∧
    (s.jnl.state = .replaying → exec (.doorbellConsumed offset 8 value 0 queue) s = .next (u.releaseHeld queue.toNat).settleReplay))

/-- A refused doorbell changes no queue: it records queue and reason, sets BAD_DOORBELL and is counted. For both kinds, while the window answers: not 8
bytes or misaligned gives reason 5; a reserved bit set, 6; QUEUE other than the address's queue, 4; a queue DISABLED, DRAINING or ABORTING, 1; a
TAIL_SEQ more than one ring above CQ_HEAD, 2; a CQ_HEAD not above the last or above DONE_SEQ, 3. The order among several reasons is the model's choice
(log entry 22). DOORBELL_ERR holds queue and reason, ERR_STS bit 17 of the Perast page is set, source 0x1405 counts one. (R340, R342, R370.) -/
def Obligations.DoorbellRefused : Prop :=
  ∀ (s : State) (offset size : Nat) (value : BitVec 32) (reserved : BitVec 13) (queue : BitVec 18) (q r : Nat) (tail : Bool) (x : QueueCtx) (v : Nat),
    s.answers = true → q = (offset - 0x1000000) / 8 → x = s.queue q →
    v = x.cqHead + (value.toNat + 2 ^ 32 - x.cqHead % 2 ^ 32) % 2 ^ 32 →
    (((size ≠ 8 ∨ offset % 8 ≠ 0) ∧ r = 5) ∨
     (size = 8 ∧ offset % 8 = 0 ∧ reserved ≠ 0 ∧ r = 6) ∨
     (size = 8 ∧ offset % 8 = 0 ∧ reserved = 0 ∧ queue.toNat ≠ q ∧ r = 4) ∨
     (size = 8 ∧ offset % 8 = 0 ∧ reserved = 0 ∧ queue.toNat = q ∧ (x.state = .disabled ∨ x.state = .draining ∨ x.state = .aborting) ∧ r = 1) ∨
     (size = 8 ∧ offset % 8 = 0 ∧ reserved = 0 ∧ queue.toNat = q ∧ (x.state = .active ∨ x.state = .parkedStale ∨ x.state = .held) ∧
      ((tail = true ∧ x.cqHead + 2 ^ x.sizeLog2 < v ∧ r = 2) ∨ (tail = false ∧ (v ≤ x.cqHead ∨ x.doneSeq < v) ∧ r = 3)))) →
    exec (if tail = true then .doorbellTail offset size value reserved queue else .doorbellConsumed offset size value reserved queue) s =
      .next (({ s with per := { s.per with dbReason := r, dbQueue := q % 2 ^ 18 } }.raiseBlockBit pgPerast 17 0).count pgPerast 0x1405 1)

/-- Descriptor fetches: one turn of at most 8, at most 64 outstanding; a good descriptor is used, a stale one fetched again. DESC_FETCH gives the queue
whose turn it is at most 8 consecutive fetches from its next sequence number, never more than 64 outstanding in all, changes only the list of fetches
and the round robin, and the queue served could fetch. DESC_FETCH_RETURN of a slot in Ivory or Umber, or in Slate as memory holds it, whose CRC and
ALIVE agree, makes the descriptor ready for acceptance. One that does not is dropped with the queue's later fetches: the queue is marked stale; after
the eighth re-fetch an ACTIVE queue all of whose earlier descriptors have been accepted parks, and a DRAINING one stops before that descriptor.
DESC_REFETCH fetches a stale descriptor again, at most eight times, and counts 0x1401. (R334, R344, R345, R365.) -/
def Obligations.DescriptorFetch : Prop :=
  (∀ (s : State) (q : Nat), s.alive = true → (s.jnl.state = .live ∨ s.jnl.state = .replaying) → s.fetchTurn = some q → s.fetches.length ≤ 64 →
    ∃ (k : Nat) (fs : List Fetch), k ≤ 8 ∧ fs = (List.range k).map (fun i => { q := q, n := s.nextFetch q + i }) ∧
      exec .descFetch s = .next { s with fetches := s.fetches ++ fs, rrQueue := q } ∧
      (s.fetches ++ fs).length ≤ 64 ∧ s.nextFetch q + k ≤ (s.queue q).fetchLimit + 1 ∧ s.canFetch q = true ∧
      (s.fetches.length < 64 → 1 ≤ k)) ∧
  (∀ (s : State) (q : Nat) (f : Fetch) (d : Bytes) (x : QueueCtx), s.alive = true → s.fetches.find? (fun f => f.q == q) = some f →
    x = s.queue q → s.readBytes (x.sqBase + 64 * (f.n % 2 ^ x.sizeLog2)) 64 = .ok d →
    (s.tierOf (x.sqBase + 64 * (f.n % 2 ^ x.sizeLog2)) = some .slate → s.per.linkUp = true) →
    (crc32c (d.take 60) = leNat ((d.drop 60).take 4) → leNat ((d.drop 56).take 4) = f.n % 2 ^ 32 →
      exec (.descFetchReturn q .ok) s =
        .next { s.putQueue q { x with tries := 0, stale := false } with
          fetches := s.fetches.erase f, ready := s.ready ++ [{ q := q, n := f.n, desc := d }] }) ∧
    (crc32c (d.take 60) ≠ leNat ((d.drop 60).take 4) ∨ leNat ((d.drop 56).take 4) ≠ f.n % 2 ^ 32 →
      (x.tries < 8 → exec (.descFetchReturn q .ok) s =
        .next ({ s with fetches := s.fetches.filter (fun g => g.q != q) }.putQueue q { x with stale := true })) ∧
      (8 ≤ x.tries → x.state = .active → (∀ r ∈ s.ready, r.q ≠ q) → (∀ c ∈ s.cmds, c.q = q → c.n < x.nextSeq) →
        exec (.descFetchReturn q .ok) s =
          .next (({ s with fetches := s.fetches.filter (fun g => g.q != q) }.putQueue q { x with state := .parkedStale, stale := true }).count
            pgPerast 0x1402 1)) ∧
      (8 ≤ x.tries → x.state = .draining →
        exec (.descFetchReturn q .ok) s =
          .next (({ s with fetches := s.fetches.filter (fun g => g.q != q) }.putQueue q
            { x with drainTail := f.n - 1, stale := false, tries := 0 }).settleQueue q)))) ∧
  (∀ (s : State) (q : Nat), s.alive = true → (s.queue q).stale = true → (s.queue q).tries < 8 →
    ((s.queue q).state = .active ∨ (s.queue q).state = .draining) → s.fetches.length < 64 →
    exec (.descRefetch q) s =
      .next (State.count { s.putQueue q { s.queue q with stale := false, tries := (s.queue q).tries + 1 } with
        fetches := s.fetches ++ [{ q := q, n := s.nextFetch q }] } pgPerast 0x1401 1))

/-- Acceptance without a partner writes the ACCEPT record, then raises NEXT_SEQ; nothing else of the queue's state moves. While the module runs unpaired,
with the journal open and room in it: the ready descriptor with sequence number NEXT_SEQ is accepted, COMMAND_ACCEPT answering a next state in which
the record slot of WRITE_REC holds the 128 bytes of an ACCEPT record with the descriptor, WRITE_REC is one higher, NEXT_SEQ is that number plus one,
LAST_STEP is the step read then where the command starts one, the descriptor is no longer among those ready, and the command is in flight, waiting,
marked refused exactly when its opcode, flags or reserved marks fail check 1 of R346. An ACTIVE queue whose stale descriptor has been fetched eight
times parks once its last earlier descriptor is accepted. Premises: no tracked range covers the journal, and memory stands in its canonical form.
(R344, R346, R349, R353, R354, R355.) -/
def Obligations.CommandAccepted : Prop :=
  ∀ (s : State) (q : Nat) (r : Ready) (c : Cmd) (x y : QueueCtx),
    s.alive = true → s.accepts q = true → s.ready.find? (fun r => r.q == q) = some r → x = s.queue q → r.n = x.nextSeq → r.desc.length = 64 →
    s.roomFor s.roomNeeded = true → s.twinned = false → s.cmd? q r.n = none → s.jnl.nextCopy ≤ 1 → s.mem.wf = true →
    s.per.journalBase * 4096 + s.journalSize ≤ 2 ^ 48 →
    (∀ e ∈ s.tracks, overlaps (s.per.journalBase * 4096) s.journalSize e.2.upper e.2.length = false) →
    c = { q := q, n := r.n, desc := r.desc,
          refused1 := (regOf { q := q, n := r.n, desc := r.desc }).isNone || decide (2 ≤ fieldAt r.desc 2 2) || bitsOf (fieldAt r.desc 4 4) 28 24 != 0 } →
    y = { x with nextSeq := r.n + 1, lastStep := ((s.stepOf c).getD x.lastStep) % 2 ^ 32 } →
    ∃ t : State, exec (.commandAccept q) s = .next t ∧
      t.cmds = s.cmds ++ [{ c with step := s.stepOf c }] ∧
      t.ready = s.ready.erase r ∧
      (x.stale = false ∨ x.tries < 8 ∨ x.state = .draining → t.queues = tabSet {} s.queues q y) ∧
      (x.stale = true → 8 ≤ x.tries → x.state = .active → (∀ f ∈ s.fetches, f.q ≠ q) → (∀ e ∈ s.ready.erase r, e.q ≠ q) →
        (∀ d ∈ s.cmds, d.q = q → d.n ≤ r.n) → t.queues = tabSet {} s.queues q { y with state := .parkedStale }) ∧
      t.jnl.writeRec = s.jnl.writeRec + 1 ∧
      t.rawBytes (s.recordAddr s.jnl.writeRec) 128 = recordBytesOf RecKind.accept q r.n s.jnl.writeRec r.desc 0 ∧
      t.fetches = s.fetches ∧ t.regions = s.regions ∧ t.threads = s.threads ∧ t.per = s.per ∧ t.tracks = s.tracks ∧ t.pools = s.pools ∧
      t.hqs = s.hqs ∧ t.tow = s.tow ∧ t.gov = s.gov ∧ t.boot = s.boot ∧ t.lnk = s.lnk

/-- Dispatch: a refused command ends MALFORMED in its turn, DEP_FAILED and failed start checks end it, else it starts. For an accepted command of a queue
that may run, in its turn in a replay: check 1 of R346 failed and every earlier command done: it ends MALFORMED. Its marks met but a named command's
live COMPLETE record barring it, without RUN_ANYWAY: DEP_FAILED. Otherwise a start check gives the status it ends with, its error noted and its report
left; and with the checks passed, room, its region, its stack's and its group's turn and the links there, its opcode's own start going on and every
peer it needs within reach, it starts: phase started, its places taken, behind every command in flight, and the governor's estimate raised by the
operand given (log entry 17). In a replay the queue may then be released (R367). (R24, R346, R361, R367, R430.) -/
def Obligations.CommandDispatched : Prop :=
  ∀ (s : State) (q n rise : Nat) (region : Option (Fin 8)) (c : Cmd),
    s.cmd? q n = some c → s.alive = true → s.mayRun q = true → c.phase = .accepted → c.mirrored = true → s.replayTurn c = true →
    (∀ v : State, s.jnl.state = .live → v.jnl.state = .live → (v.releaseHeld q).settleReplay = v) ∧
    (c.refused1 = true → n = (s.queue q).doneSeq + 1 →
      exec (.commandDispatch q n region rise) s = .next ((s.putCmd { c with phase := .ended, status := .malformed }).releaseHeld q).settleReplay) ∧
    (c.refused1 = false → s.marksMet c = true → bitAt c.marks 29 = false →
      (∃ m l, m ∈ c.named (s.queue c.q).firstSeq ∧ s.liveComplete c.q m = some l ∧ l.status.bars = true) →
      exec (.commandDispatch q n region rise) s = .next ((s.putCmd { c with phase := .ended, status := .depFailed }).releaseHeld q).settleReplay) ∧
    (∀ (r r' : Reg) (d : Cmd) (st : Status) (x : State × Cmd), c.refused1 = false → s.marksMet c = true → s.depFailed c = false → regOf c = some r →
      startChecks s c r = .error st → d = s.peekBody c → r' = (regOf d).getD r → x = r'.op.leave (r'.op.blame s d st) d st →
      exec (.commandDispatch q n region rise) s =
        .next ((x.1.putCmd { x.2 with phase := .ended, status := st.plain }).releaseHeld q).settleReplay) ∧
    (∀ (r r' : Reg) (d e : Cmd) (u : State), c.refused1 = false → s.marksMet c = true → s.depFailed c = false → regOf c = some r →
      startChecks s c r = .ok d → regOf d = some r' → hasRoom s (placesOf s d region) = true → streamPlace d region = true →
      s.stackMayStart d = true → s.groupMayStart d = true → (usesLinks d = true → s.lnk.fabric = .inService) → r'.start s d = .go u e →
      u.unreached e = none →
      ∃ t : State, exec (.commandDispatch q n region rise) s = .next (t.releaseHeld q).settleReplay ∧
        t.cmds = u.cmds.filter (fun x => !(x.q == e.q && x.n == e.n)) ++
          [{ e with
             phase := .started, dispatched := true, regions := (placesOf s d region).2, towers := (placesOf s d region).1,
             noticed := e.committed || !u.twinned, rise := rise }] ∧
        t.gov.estimate = u.gov.estimate + rise ∧ t.mem = u.mem ∧ t.queues = u.queues ∧ t.jnl = u.jnl ∧ t.regions = u.regions)

/-- A command passes its commit point; with a partner a commit notice goes out first and is awaited. For a started command not past its commit point,
COMMIT_POINT marks it committed. Without a partner, or once its notice is acknowledged, nothing else changes. With a partner, and no notice under way,
a commit notice with queue and sequence number goes to the twin, in the flits that carry it, and its acknowledgement is awaited. (R350, R406.) -/
def Obligations.CommitPointPassed : Prop :=
  ∀ (s : State) (q n : Nat) (c : Cmd), s.cmd? q n = some c → s.alive = true → c.phase = .started →
    ((c.committed && c.noticed) = false → (c.noticed = true ∨ s.twinned = false) →
      exec (.commitPoint q n) s = .next (s.putCmd { c with committed := true, noticed := true })) ∧
    (c.noticed = false → s.twinned = true → s.twin.unacked.contains (.notice q n) = false →
      exec (.commitPoint q n) s =
        .next { (s.putCmd { c with committed := true }).sendTwin "COMMIT" [q, n] [] with
          twin := { s.twin with unacked := s.twin.unacked ++ [.notice q n] } } ∧
      ∃ more, ((s.putCmd { c with committed := true }).sendTwin "COMMIT" [q, n] []).outbox = s.outbox ++ .twin "COMMIT" [q, n] [] :: more)

/-- COMMAND_COMPLETE writes a COMPLETE record that holds the completion record of R356, before anything reaches the ring. For an ended command, the
journal open, no follower's version owed, its Slate writes answered where its record goes to Slate, and the journaled CQ_HEAD below its number: the
next state's journal holds live a COMPLETE record of that queue and number whose BODY is the 32 bytes of R356 (SEQ, STATUS, SAT_COUNT held at its
limit, UNITS, SCOPE, CPL_FLAGS, OPCODE, ALIVE, zero, CRC-32C), WRITE_REC is one higher, the command waits for its completion record, and no DONE_SEQ
moves. (R352, R353, R356, R358.) -/
def Obligations.CommandCompleted : Prop :=
  ∀ (s : State) (q n : Nat) (c : Cmd) (b : Bytes), s.cmd? q n = some c → s.alive = true → c.phase = .ended → s.journalOpen = true →
    (s.jnl.state = .live ∨ s.jnl.state = .replaying) → s.versionOwed = false → s.outputsOut c = true → (s.queue q).jnlHead < n →
    b = natBytes 6 n ++ natBytes 2 c.status.code ++ natBytes 4 (min c.sat 0xFFFFFFFF) ++ natBytes 4 c.units ++
      natBytes 1 ((if s.tierOf (s.queue q).cqBase = some .slate then 1 else 0) + (if c.wroteLocal then 2 else 0) +
        (if c.wroteSlate then 4 else 0) + (if c.wrotePeer then 8 else 0)) ++
      natBytes 1 ((if c.resumed then 2 else 0) + (if c.replayed then 1 else 0)) ++ natBytes 2 c.opcode ++ natBytes 4 n ++ natBytes 4 0 →
    ∃ (t : State) (l : LiveRec), exec (.commandComplete q n) s = .next t ∧ l ∈ t.jnl.live ∧
      l.recno = s.jnl.writeRec ∧ l.kind = .complete ∧ l.q = q ∧ l.seq = n ∧ l.status = c.status ∧ l.record = b ++ natBytes 4 (crc32c b) ∧
      t.jnl.writeRec = s.jnl.writeRec + 1 ∧ t.queues = s.queues ∧ (∃ d ∈ t.cmds, d.q = q ∧ d.n = n ∧ d.phase = .journaled)

/-- The next completion record reaches its slot with the journal's bits; DONE_SEQ follows; the interrupt follows when asked. For an ACTIVE queue whose
next command's COMPLETE record is live and mirrored, with its slot in Ivory or Slate and not poisoned, the journal not replaying, no partner, no
tracked range over the slot and memory in its canonical form: the slot's 32 bytes are the journal's record, DONE_SEQ is at least that number (the next
is DONE_SEQ + 1, or after a reset an older one that is written again), the command is no longer in flight, and the outbox gains the interrupt with
IRQ_VEC exactly when IRQ is set. (R351, R352, R353.) -/
def Obligations.CompletionRecordWritten : Prop :=
  ∀ (s : State) (q n a : Nat) (c : Cmd) (l : LiveRec), n = s.recordNext q → s.cmd? q n = some c → s.liveComplete q n = some l →
    s.alive = true → c.phase = .journaled → c.mirrored = true → (s.queue q).state = .active → s.jnl.state = .live → l.record.length = 32 →
    a = (s.queue q).cqBase + 32 * (n % 2 ^ (s.queue q).sizeLog2) → (a + 32 ≤ umberBase ∨ (slateBase ≤ a ∧ a + 32 ≤ 2 ^ 48)) →
    (s.tierOf a = some .slate → s.per.linkUp = true) → s.poisonedAt a = false → s.mem.wf = true → s.twinned = false →
    (∀ e ∈ s.tracks, overlaps a 32 e.2.upper e.2.length = false) →
    ∃ t : State, exec (.completionRecordWrite q) s = .next t ∧ t.rawBytes a 32 = l.record ∧
      t.queues = tabSet {} s.queues q { s.queue q with doneSeq := max (s.queue q).doneSeq n } ∧ t.cmds = s.cmds.filter (fun d => !(d.q == q && d.n == n)) ∧
      t.outbox = s.outbox ++ (if fieldAt c.desc 2 2 % 2 = 1 then [.irq (s.queue q).irqVec] else []) ∧
      t.regions = s.regions ∧ t.threads = s.threads ∧ t.per = s.per ∧ t.tracks = s.tracks ∧ t.pools = s.pools ∧ t.hqs = s.hqs ∧ t.tow = s.tow ∧
      t.gov = s.gov ∧ t.boot = s.boot ∧ t.lnk = s.lnk ∧ t.fetches = s.fetches ∧ t.ready = s.ready

/-- A CONSUMED record carries the highest CQ_HEAD taken into the journal, and the journaled CQ_HEAD follows. For a queue whose raised CQ_HEAD waits for
its record, unpaired, with the journal open, one record's room, no CONTEXT record owed and no tracked range over the journal: the next state's
WRITE_REC is one higher, the queue no longer waits, and its journaled CQ_HEAD is its CQ_HEAD; no other queue, command or engine changes. (R353, R355.) -/
def Obligations.ConsumedRecordWritten : Prop :=
  ∀ (s : State) (q : Nat), s.alive = true → s.jnl.consume.contains q = true → s.journalOpen = true →
    (s.jnl.state = .live ∨ s.jnl.state = .replaying) → s.roomFor 1 = true → s.twinned = false → s.jnl.owed = [] →
    s.jnl.nextCopy ≤ 1 → s.mem.wf = true → s.per.journalBase * 4096 + s.journalSize ≤ 2 ^ 48 →
    (∀ e ∈ s.tracks, overlaps (s.per.journalBase * 4096) s.journalSize e.2.upper e.2.length = false) →
    ∃ t : State, exec (.consumedRecordWrite q) s = .next t ∧ t.jnl.writeRec = s.jnl.writeRec + 1 ∧
      t.jnl.consume = s.jnl.consume.filter (· != q) ∧ t.queues = tabSet {} s.queues q { s.queue q with jnlHead := (s.queue q).cqHead } ∧
      t.cmds = s.cmds ∧ t.fetches = s.fetches ∧ t.ready = s.ready ∧ t.regions = s.regions ∧ t.threads = s.threads ∧ t.per = s.per ∧
      t.tracks = s.tracks ∧ t.pools = s.pools ∧ t.hqs = s.hqs ∧ t.tow = s.tow ∧ t.gov = s.gov ∧ t.boot = s.boot ∧ t.lnk = s.lnk

/-- QCMD and QCTX_DATA act on the queue their own path selects: ENABLE, DISABLE, ABORT, and context words while DISABLED. ENABLE under the conditions of
R339, unpaired and with journal room: ACTIVE, with TAIL_SEQ, DONE_SEQ and CQ_HEAD at NEXT_SEQ − 1. DISABLE of an ACTIVE queue with accepted commands
unfinished: DRAINING up to the TAIL_SEQ held. ABORT of a queue ACTIVE, PARKED_STALE or DRAINING with accepted commands unfinished: ABORTING, fetches
and ready descriptors dropped, every command of it not past its commit point ended ABORTED_NOT_STARTED, the others unchanged. A QCMD that does not fit
sets BAD_WRITE. QCTX_DATA writes words 0 to 4 and 6 of a DISABLED queue, sets BAD_WRITE otherwise, and has no effect on other words. (R338, R339,
R340, R365, R366, R487.) -/
def Obligations.QueueCommands : Prop :=
  ∀ (s : State) (path : Path) (q : Nat) (x : QueueCtx), q = (match path with | .window => s.per.selWindowQueue | .greyline => s.per.selGreyQueue) →
    x = s.queue q → s.alive = true →
    (x.state = .disabled → 4 ≤ x.sizeLog2 → x.sizeLog2 ≤ 16 → x.sqBase % 64 = 0 → x.cqBase % 32 = 0 → s.mappedRange x.sqBase (64 * 2 ^ x.sizeLog2) = true →
      s.mappedRange x.cqBase (32 * 2 ^ x.sizeLog2) = true → 1 ≤ x.nextSeq → 0 < s.journalSlots → (s.jnl.state = .live ∨ s.jnl.state = .replaying) →
      s.boot.scanned = false → s.contextFits = true → s.twinned = false →
      ∃ t : State, exec (.queueEnable path) s = .next t ∧
        t.queues = tabSet {} s.queues q { x with
          state := .active, tailSeq := x.nextSeq - 1, doneSeq := x.nextSeq - 1, cqHead := x.nextSeq - 1,
          jnlHead := x.nextSeq - 1, firstSeq := x.nextSeq, stale := false, tries := 0 } ∧ t.cmds = s.cmds ∧ t.jnl.writeRec = s.jnl.writeRec + 1) ∧
    (x.state = .active → x.stale = false → x.doneSeq + 1 ≠ x.nextSeq →
      exec (.queueDisable path) s = .next (s.putQueue q { x with state := .draining, drainTail := x.tailSeq })) ∧
    ((x.state = .active ∨ x.state = .parkedStale ∨ x.state = .draining) → x.doneSeq + 1 ≠ x.nextSeq →
      ∃ t : State, exec (.queueAbort path) s = .next t ∧ t.queues = tabSet {} s.queues q { x with state := .aborting, stale := false } ∧
        t.cmds = s.cmds.map (fun c => if c.q = q ∧ c.committed = false ∧ c.mirrored = true ∧ (c.phase = .accepted ∨ c.phase = .started)
          then { c with phase := .ended, status := .abortedNotStarted, refused1 := false } else c) ∧
        t.fetches = s.fetches.filter (fun f => f.q != q) ∧ t.ready = s.ready.filter (fun r => r.q != q) ∧ t.mem = s.mem ∧ t.jnl = s.jnl) ∧
    (x.state ≠ .disabled → exec (.queueEnable path) s = .next (s.badWrite pgPerast 0x138)) ∧
    ((x.state = .disabled ∨ x.state = .held ∨ x.state = .aborting) → exec (.queueAbort path) s = .next (s.badWrite pgPerast 0x138)) ∧
    (x.state ≠ .active → x.state ≠ .parkedStale → exec (.queueDisable path) s = .next (s.badWrite pgPerast 0x138)) ∧
    (∀ (v : Word) (w : Nat), w = (match path with | .window => s.per.selWindowWord | .greyline => s.per.selGreyWord) →
      (x.state = .disabled → (w = 0 →
          exec (.qctxDataWrite path v) s = .next (s.putQueue q { x with sizeLog2 := bitsOf v.toNat 60 56, sqBase := bitsOf v.toNat 47 0 })) ∧
        (w = 1 → exec (.qctxDataWrite path v) s = .next (s.putQueue q { x with irqVec := bitsOf v.toNat 58 48, cqBase := bitsOf v.toNat 47 0 })) ∧
        (w = 2 → exec (.qctxDataWrite path v) s = .next (s.putQueue q { x with winBase := bitsOf v.toNat 47 0 })) ∧
        (w = 3 → exec (.qctxDataWrite path v) s = .next (s.putQueue q { x with winLimit := bitsOf v.toNat 47 0 })) ∧
        (w = 4 → exec (.qctxDataWrite path v) s = .next (s.putQueue q { x with jobSeed := v.toNat })) ∧
        (w = 6 → exec (.qctxDataWrite path v) s = .next (s.putQueue q { x with nextSeq := bitsOf v.toNat 47 0 }))) ∧
      ((4 < w ∧ w ≠ 6) → exec (.qctxDataWrite path v) s = .next s) ∧
      (w ≤ 4 ∨ w = 6 → x.state ≠ .disabled → exec (.qctxDataWrite path v) s = .next (s.modPage pgPerast (·.raiseBit 8 (q * 2 ^ 24 + 0x130) false))))

/-- The journal scan: no area, a journal that fails its check, or a rebuilt one that awaits REPLAY_GO. While SCANNING with the link up and no reset
quiescing: without a journal the state is AWAIT_GO. No valid header over an area that is not fresh breaks the journal with REASON 1, another OWNER_ID
with 2, another BASE with 3, BAD_RECORD all ones; a record that fails its check with that check's reason and slot; ERR_STS bit 18 is set, source
0x1407 counts, nothing else changes. A sound journal gives AWAIT_GO with WRITE_REC from its header and no fetch or ready descriptor; after a cold
reset every queue it holds is HELD. (R353, R367, R368, R370.) -/
def Obligations.JournalScanned : Prop :=
  ∀ s : State, s.alive = true → s.jnl.state = .scanning → s.per.linkUp = true → s.boot.running = none →
    (s.journalSlots = 0 → exec .journalScan s =
      .next { s with jnl := { s.jnl with state := .awaitGo, live := [] }, queues := if s.jnl.afterCold then [] else s.queues }) ∧
    (∀ (f : JFinding), 0 < s.journalSlots →
      ((s.header = none ∧ s.freshArea = false ∧ f = ⟨1, 0xFFFFFFFF⟩) ∨
       (∃ h, s.header = some h ∧ h.owner ≠ s.boot.ownerId ∧ f = ⟨2, 0xFFFFFFFF⟩) ∨
       (∃ h, s.header = some h ∧ h.owner = s.boot.ownerId ∧ h.base ≠ s.per.journalReg ∧ f = ⟨3, 0xFFFFFFFF⟩) ∨
       (∃ h, s.header = some h ∧ h.owner = s.boot.ownerId ∧ h.base = s.per.journalReg ∧ s.checkRecs (s.scanRecs h) = some f)) →
      exec .journalScan s =
        .next ((State.raiseBlockBit { s with jnl := { s.jnl with state := .broken, reason := f.reason, badRecord := f.bad } } pgPerast 18 0).count
          pgPerast 0x1407 1)) ∧
    (∀ (h : Header), 0 < s.journalSlots → s.header = some h → h.owner = s.boot.ownerId → h.base = s.per.journalReg →
      s.checkRecs (s.scanRecs h) = none →
      ∃ t : State, exec .journalScan s = .next t ∧ t.jnl.state = .awaitGo ∧ t.jnl.writeRec = h.write ∧ t.fetches = [] ∧ t.ready = [] ∧
        t.mem = s.mem ∧ t.per = s.per ∧ t.boot = s.boot ∧ (s.jnl.afterCold = true → ∀ e ∈ t.queues, e.2.state = .held))

/-- REPLAY_GO starts the replay: queues with nothing to run or write again leave HELD, and BROKEN refuses it. In AWAIT_GO, for a module that adopts no
journal and owes no CONTEXT record: the commands in flight stay as rebuilt but for those whose completion was consumed meanwhile. A HELD queue with a
completion record to write again, or whose next command to run again has its marks met, stays as it is; one without, held from ACTIVE, is ACTIVE. When
no command is left to run or write again, no queue is HELD, and with none listed so the journal is LIVE; it is REPLAYING while one is to run again. In
BROKEN the write sets BAD_WRITE with the register's offset and changes nothing else. (R367, R368, R370.) -/
def Obligations.ReplayReleases : Prop :=
  (∀ (s : State) (cs : List Cmd), s.alive = true → s.jnl.state = .awaitGo → s.twin.adopting = false → s.jnl.owed = [] →
    cs = s.cmds.filter (fun c => !(c.phase == .journaled && decide (c.n ≤ (s.queue c.q).cqHead))) →
    ∃ t : State, exec .replayGo s = .next t ∧ t.cmds = cs ∧
      (∀ q : Nat, (s.queue q).state = .held →
        ((∃ c ∈ cs, c.q = q ∧ c.refused1 = false ∧ ((c.phase = .journaled ∧ c.replayed = false) ∨
            (c.phase = .accepted ∧ c.replayed = true ∧ State.marksMet { s with cmds := cs } c = true ∧ ∀ d ∈ cs, d.q = q → d.n < c.n → d.phase ≠ .accepted))) →
          t.queue q = s.queue q) ∧
        ((∀ c ∈ cs, c.q ≠ q) → (s.queue q).heldFrom = .active → t.queue q = { s.queue q with state := .active })) ∧
      ((∃ c ∈ cs, c.replayed = true) → t.jnl.state = .replaying) ∧
      ((∀ c ∈ cs, c.replayed = false ∧ c.phase ≠ .journaled) → (∀ q : Nat, (t.queue q).state ≠ .held) ∧
        ((∀ e ∈ t.queues, e.2.state ≠ .held) → t.jnl.state = .live))) ∧
  (∀ s : State, s.alive = true → s.jnl.state = .broken → exec .replayGo s = .next (s.badWrite pgPerast 0x118))

/-- A path fence returns its path's count of fences once earlier output is visible; a peer fence that times out names the target. PATH_FENCE_LINK with no
write to Slate outstanding of a command that is over, PATH_FENCE_WINDOW at once, and PATH_FENCE_PEER with no acknowledgement outstanding: the count of
the path rises by one and is returned, nothing else changes. A link or a peer fence that must wait is kept, with the writes or the modules awaited,
behind those that wait already; the last acknowledgement returns it, or the timeout returns the oldest, setting FENCE_FAIL to its first target and its
ERR_STS bit. That what commands wrote inside the module is visible at once is the model's form (log entry 16). (R360, R387.) -/
def Obligations.PathFences : Prop :=
  ∀ (s : State) (ids : List Nat), s.answers = true → ids = (s.per.requests.filter (fun r => r.write && (s.cmd? r.q r.n).isNone)).map (·.id) →
    (ids = [] → s.per.linkFences = [] → exec .pathFenceLink s =
      .next { s with per := { s.per with fenceLink := s.per.fenceLink + 1 }, outbox := s.outbox ++ [.windowData ((natBytes 8 (s.per.fenceLink + 1)).map some)] }) ∧
    (ids ≠ [] → s.per.linkFences = [] → exec .pathFenceLink s = .next { s with per := { s.per with linkFences := [⟨0, 8, ids⟩] } }) ∧
    (exec .pathFenceWindow s =
      .next { s with per := { s.per with fenceWindow := s.per.fenceWindow + 1 }, outbox := s.outbox ++ [.windowData ((natBytes 8 (s.per.fenceWindow + 1)).map some)] }) ∧
    ((∀ f ∈ s.per.peerFences, f.awaits ≠ []) →
      (s.lnk.unacked = [] → exec .pathFencePeer s =
        .next { s with per := { s.per with fencePeer := s.per.fencePeer + 1 }, outbox := s.outbox ++ [.windowData ((natBytes 8 (s.per.fencePeer + 1)).map some)] }) ∧
      (s.lnk.unacked ≠ [] → exec .pathFencePeer s = .next { s with per := { s.per with peerFences := s.per.peerFences ++ [⟨0, 8, s.lnk.unacked⟩] } })) ∧
    (∀ (p : Nat) (ps : List Nat) (fs : List FenceRead), s.per.peerFences = ⟨0, 8, p :: ps⟩ :: fs →
      ∃ t : State, exec .peerFenceTimeout s = .next t ∧ t.per = { s.per with fencePeer := s.per.fencePeer + 1, peerFences := fs } ∧
        t.lnk = { s.lnk with fenceFail := p, fenceFailed := true } ∧ hasBit (t.page pgFabric).errSts 17 = true ∧
        Out.windowData ((natBytes 8 (s.per.fencePeer + 1)).map some) ∈ t.outbox) ∧
    (∀ p : Nat, s.alive = true → s.per.peerFences = [] →
      exec (.peerVisibilityAck p) s = .next { s with lnk := { s.lnk with unacked := s.lnk.unacked.filter (· != p) } }) ∧
    (∀ p : Nat, s.alive = true → s.per.peerFences = [⟨0, 8, [p]⟩] →
      exec (.peerVisibilityAck p) s = .next { s with
        lnk := { s.lnk with unacked := s.lnk.unacked.filter (· != p) }
        per := { s.per with fencePeer := s.per.fencePeer + 1, peerFences := [] }
        outbox := s.outbox ++ [.windowData ((natBytes 8 (s.per.fencePeer + 1)).map some)] }) ∧
    (∀ p a b : Nat, ∀ bs : List Nat, s.alive = true → s.per.peerFences = [⟨0, 8, a :: b :: bs⟩] → (a :: b :: bs).filter (· != p) ≠ [] →
      exec (.peerVisibilityAck p) s = .next { s with
        lnk := { s.lnk with unacked := s.lnk.unacked.filter (· != p) }
        per := { s.per with peerFences := [⟨0, 8, (a :: b :: bs).filter (· != p)⟩] } })

/-- A Slate request goes out while the link is up; an answer is stored, an error or a timeout ends its command TIER_ERROR. A started command's request at
a mapped Slate address in its window goes out under a fresh id to the companion's address SLATE_PA + o, and is outstanding; a write, once a partner
has heard of the commit, passes the commit point. With memory in its canonical form and no fence waiting, the companion's data for a read become the
bytes of the range, and a write taken stores its bytes. After a timeout, an error, or the link going down, the request is gone and its started command
has ended TIER_ERROR; a timeout counts 0x1408. The link coming up, with no CONTEXT record owed, changes the link alone. (R234, R260, R334, R346,
R350.) -/
def Obligations.SlateRequests : Prop :=
  (∀ (s : State) (q n a len : Nat) (w : Bool) (bs : Bytes) (c : Cmd), s.cmd? q n = some c → s.alive = true → c.phase = .started → (w = true → c.noticed = true) →
    s.tierOf a = some .slate → s.mappedRange a (if w then bs.length else len) = true → s.inWindow q a (if w then bs.length else len) = true →
    s.per.linkUp = true →
    exec (.slateRequest q n w a len bs) s = .next { (if w then s.putCmd { c with committed := true } else s) with
      per := { s.per with requests := s.per.requests ++ [{ id := s.per.nextRequest, q := q, n := n, write := w, addr := a,
                                                           length := (if w then bs.length else len), bytes := bs }],
                          nextRequest := s.per.nextRequest + 1 }
      outbox := s.outbox ++ [.slate s.per.nextRequest w (s.per.slatePa * 2 ^ 30 + (a - slateBase)) (if w then bs.length else len) bs] }) ∧
  (∀ (s : State) (id : Nat) (r : SlateReq) (bs : Bytes), s.alive = true → s.per.requests.find? (fun r => r.id == id) = some r →
    slateBase ≤ r.addr → r.addr + r.length ≤ 2 ^ 48 → r.write = false → bs.length = r.length → s.mem.wf = true → s.per.linkFences = [] →
    ∃ t : State, exec (.slateResponse id (.data bs)) s = .next t ∧ t.rawBytes r.addr r.length = bs ∧
      t.per = { s.per with requests := s.per.requests.filter (fun r => r.id != id) } ∧ t.cmds = s.cmds ∧ t.queues = s.queues) ∧
  (∀ (s : State) (id : Nat) (r : SlateReq), s.alive = true → s.per.requests.find? (fun r => r.id == id) = some r →
    slateBase ≤ r.addr → r.addr + r.bytes.length ≤ 2 ^ 48 → r.write = true → s.mem.wf = true → s.per.linkFences = [] →
    ∃ t : State, exec (.slateResponse id .written) s = .next t ∧ t.rawBytes r.addr r.bytes.length = r.bytes ∧
      t.per = { s.per with requests := s.per.requests.filter (fun r => r.id != id) } ∧ t.queues = s.queues) ∧
  (∀ (s : State) (id : Nat) (r : SlateReq) (c : Cmd), s.alive = true → s.per.requests.find? (fun r => r.id == id) = some r →
    s.cmd? r.q r.n = some c → c.phase = .started → (regOf c).isSome = true →
    (∃ t : State, exec (.slateTimeout id) s = .next t ∧ t.per.requests = s.per.requests.filter (fun r => r.id != id) ∧
      (∃ d ∈ t.cmds, d.q = r.q ∧ d.n = r.n ∧ d.phase = .ended ∧ d.status = .tierError)) ∧
    (∃ t : State, exec (.slateResponse id .error) s = .next t ∧ t.per.requests = s.per.requests.filter (fun r => r.id != id) ∧
      (∃ d ∈ t.cmds, d.q = r.q ∧ d.n = r.n ∧ d.phase = .ended ∧ d.status = .tierError))) ∧
  (∀ s : State, s.fed = true → ∃ t : State, exec .perastLinkDown s = .next t ∧ t.per.linkUp = false ∧ t.per.requests = [] ∧
    (∀ (r : SlateReq) (c : Cmd), r ∈ s.per.requests → s.cmd? r.q r.n = some c → c.phase = .started → (regOf c).isSome = true →
      ∃ d ∈ t.cmds, d.q = r.q ∧ d.n = r.n ∧ d.phase = .ended ∧ d.status = .tierError)) ∧
  (∀ s : State, s.fed = true → s.jnl.owed = [] → exec .perastLinkUp s = .next { s with per := { s.per with linkUp := true } })

/-- SETP, ADDP, IDXP, LOOP, ENDL, SKIPZ and FENCE change their thread alone, as the instruction table says. For a thread that stands at the instruction:
SETP loads Pa, ADDP adds a signed IMM64, IDXP forms Pb + counter × IMM64, all modulo 2^48; LOOP opens a level, or with IMM32 = 0 goes on behind its
ENDL; ENDL repeats or closes the innermost level; SKIPZ skips IMM32 instructions when the word at Pa is zero (SUB 0) or not zero (SUB 1); FENCE goes
on once no move is outstanding. The instruction counts as executed and takes an issue slot (event 0x102); nothing but the thread changes. (R321, R323,
R332.) -/
def Obligations.StreamRegisters : Prop :=
  ∀ (s : State) (q n : Nat) (c : Cmd) (t u : Thread) (i : Ins), u = { t with pc := t.pc + 1, executed := t.executed + 1 } →
    (AtIns 0x01 s q n c t i → exec (.setp q n) s = .next ((s.putThread { u with ptr := t.ptr.set i.pa (i.imm64 % 2 ^ 48) }).count (pgRegion t.region) 0x102 1)) ∧
    (AtIns 0x02 s q n c t i →
      exec (.addp q n) s = .next ((s.putThread { u with ptr := t.ptr.set i.pa ((nth 0 t.ptr i.pa + signedOf 64 i.imm64) % 2 ^ 48).toNat }).count (pgRegion t.region) 0x102 1)) ∧
    (AtIns 0x0E s q n c t i →
      exec (.idxp q n) s =
        .next ((s.putThread { u with ptr := t.ptr.set i.pa ((nth 0 t.ptr i.pb + nth 0 t.loops i.sub * signedOf 64 i.imm64) % 2 ^ 48).toNat }).count
          (pgRegion t.region) 0x102 1)) ∧
    (AtIns 0x03 s q n c t i → 0 < i.imm32 → exec (.loop q n) s = .next ((s.putThread { u with loops := t.loops ++ [0] }).count (pgRegion t.region) 0x102 1)) ∧
    (AtIns 0x03 s q n c t i → i.imm32 = 0 → exec (.loop q n) s = .next ((s.putThread { u with pc := matchEnd (stInss c) t.pc + 1 }).count (pgRegion t.region) 0x102 1)) ∧
    (AtIns 0x04 s q n c t i → t.loops.getLastD 0 + 1 < (stIns c (matchLoop (stInss c) t.pc)).imm32 →
      exec (.endl q n) s = .next ((s.putThread { u with pc := matchLoop (stInss c) t.pc + 1, loops := t.loops.dropLast ++ [t.loops.getLastD 0 + 1] }).count (pgRegion t.region) 0x102 1)) ∧
    (AtIns 0x04 s q n c t i → (stIns c (matchLoop (stInss c) t.pc)).imm32 ≤ t.loops.getLastD 0 + 1 →
      exec (.endl q n) s = .next ((s.putThread { u with loops := t.loops.dropLast }).count (pgRegion t.region) 0x102 1)) ∧
    (∀ b : Bytes, AtIns 0x09 s q n c t i → s.dynRead c.q (nth 0 t.ptr i.pa) 4 = .ok b →
      exec (.skipz q n) s = .next ((s.putThread { u with
        pc := if (bitAt i.sub 0 = false ∧ leNat b = 0) ∨ (bitAt i.sub 0 = true ∧ leNat b ≠ 0) then t.pc + 1 + i.imm32 else t.pc + 1 }).count
          (pgRegion t.region) 0x102 1)) ∧
    (AtIns 0x0C s q n c t i → t.moves = [] → exec (.streamFence q n) s = .next ((s.putThread u).count (pgRegion t.region) 0x102 1))

/-- MOVE, CONV, GATH and SCAT read at issue, take a place among the moves outstanding, and write when the move is done. With a place free, the ranges
mapped and in the window and no write refused: MOVE takes IMM32 bytes from Pa for Pb; CONV converts IMM32 elements, each to nearest even; GATH takes
2^SUB bytes at Pa + INDEX × 2^SUB for consecutive places at Pb; SCAT takes consecutive data at Pb for those addresses; list and data pointers advance,
or by SUB's bits for MOVE and CONV. The thread goes on, the STREAM is past its commit point, memory is unchanged until STREAM_MOVE_DONE, on the copy
engines of the directions in which the move crosses Slate or on the region mover, commits the oldest move. That data are read at issue is the model's
choice (log entry 16). (R316, R323, R325.) -/
def Obligations.StreamMoves : Prop :=
  ∀ (s : State) (q n : Nat) (c : Cmd) (t u : Thread) (i : Ins) (dirs : List Nat), u = { t with pc := t.pc + 1, executed := t.executed + 1 } →
    t.moves.length < stInFlight c →
    dirs = (if s.tierOf (t.p i.pb) = some .slate then [0] else []) ++ (if s.tierOf (t.p i.pa) = some .slate then [1] else []) →
    (∀ (bs : Bytes), AtIns 0x05 s q n c t i → s.dynRead c.q (t.p i.pa) i.imm32 = .ok bs → s.dynRefusal c.q (t.p i.pb) bs.length = none →
      exec (.move q n) s = .next (((s.putThread { u with
        ptr := (((if bitAt i.sub 0 then t.setP i.pa (t.p i.pa + i.imm32) else t) : Thread).bump (bitAt i.sub 1) i.pb i.imm32).ptr
        moves := t.moves ++ [⟨[(t.p i.pb, bs)], bs.length, dirs⟩] }).putCmd { c with committed := true }).count (pgRegion t.region) 0x102 1)) ∧
    (∀ (F G : Fmt) (bs out : Bytes), AtIns 0x06 s q n c t i → fmtOf (i.imm64 % 256) = some F → fmtOf (i.imm64 / 256 % 256) = some G →
      s.dynRead c.q (t.p i.pa) (i.imm32 * F.bytes) = .ok bs →
      out = (pieces F.bytes bs).flatMap (fun b => natBytes G.bytes (encElem G .rne (decElem F (leNat b))).code) →
      s.dynRefusal c.q (t.p i.pb) out.length = none →
      ∃ sat : Nat, exec (.conv q n) s = .next (((s.putThread { u with
        ptr := ((t.bump (bitAt i.sub 0) i.pa (i.imm32 * F.bytes)).bump (bitAt i.sub 1) i.pb (i.imm32 * G.bytes)).ptr
        moves := t.moves ++ [⟨[(t.p i.pb, out)], out.length, dirs⟩] }).putCmd { c with sat := sat, committed := true }).count (pgRegion t.region) 0x102 1)) ∧
    (∀ (ws : Writes), AtIns 0x07 s q n c t i → ws.length = i.imm32 →
      (∀ k, k < i.imm32 → ∃ b bs : Bytes, s.dynRead c.q ((t.p i.pc + 4 * k) % 2 ^ 48) 4 = .ok b ∧
        s.dynRead c.q ((t.p i.pa + signedOf 32 (leNat b) * 2 ^ i.sub) % 2 ^ 48).toNat (2 ^ i.sub) = .ok bs ∧
        ws[k]? = some ((t.p i.pb + k * 2 ^ i.sub) % 2 ^ 48, bs)) →
      (∀ w ∈ joinWrites ws, s.dynRefusal c.q w.1 w.2.length = none) →
      ∃ (bytes : Nat) (ds : List Nat), exec (.gath q n) s = .next (((s.putThread { u with
        ptr := ((t.bump true i.pc (4 * i.imm32)).bump true i.pb (i.imm32 * 2 ^ i.sub)).ptr
        moves := t.moves ++ [⟨ws, bytes, ds⟩] }).putCmd { c with committed := true }).count (pgRegion t.region) 0x102 1)) ∧
    (∀ (ws : Writes), AtIns 0x08 s q n c t i → ws.length = i.imm32 →
      (∀ k, k < i.imm32 → ∃ b bs : Bytes, s.dynRead c.q ((t.p i.pc + 4 * k) % 2 ^ 48) 4 = .ok b ∧
        s.dynRead c.q ((t.p i.pb + k * 2 ^ i.sub) % 2 ^ 48) (2 ^ i.sub) = .ok bs ∧
        ws[k]? = some (((t.p i.pa + signedOf 32 (leNat b) * 2 ^ i.sub) % 2 ^ 48).toNat, bs)) →
      (∀ w ∈ joinWrites ws, s.dynRefusal c.q w.1 w.2.length = none) →
      ∃ (bytes : Nat) (ds : List Nat), exec (.scat q n) s = .next (((s.putThread { u with
        ptr := ((t.bump true i.pc (4 * i.imm32)).bump true i.pb (i.imm32 * 2 ^ i.sub)).ptr
        moves := t.moves ++ [⟨ws, bytes, ds⟩] }).putCmd { c with committed := true }).count (pgRegion t.region) 0x102 1)) ∧
    (∀ (m : StreamMove) (rest : List StreamMove) (mover : Mover) (v : State) (d : Cmd) (w : State × Cmd), s.runnable q n (Cmd.isOp 0x105) = some c →
      s.thread? q n = some t → t.saved = false → t.ending = none → t.moves = m :: rest → moveFits s c t m mover = true →
      commitWrites s c ⟨m.writes, 0⟩ = .ok (v, d) → w = (moverEngines mover).foldl (fun x e => x.1.movePieces x.2 m.bytes e) (v, d) →
      exec (.streamMoveDone ⟨q, n⟩ mover) s = .next ((w.1.putThread { t with moves := rest, moved := t.moved + m.bytes }).putCmd w.2))

/-- TAKE, GIVE, GIVEI and the service of waiters move handles first in, first out; HQ opens, closes and reports a handle queue. TAKE of an open queue
takes the oldest handle h when no thread waits before it and Pa becomes Pb + h × 2^SUB; else the thread waits, last. GIVE of the handle (Pa − Pb) /
2^SUB, and GIVEI of IMM32, add it behind the others while a place is free and no giver waits; else the thread waits. HQ_WAITER_SERVED gives the first
taker the oldest handle. HQ OPEN of a queue that is not open makes one of its depth holding its seeds, CLOSE of one without waiters closes it, STATUS
writes the 32-byte report; each ends OK. (R323, R330, R331.) -/
def Obligations.HandleQueues : Prop :=
  (∀ (s : State) (q n : Nat) (c : Cmd) (t u : Thread) (i : Ins) (h : HandleQueue), u = { t with pc := t.pc + 1, executed := t.executed + 1 } →
    (∀ (x : Nat) (rest : List Nat), AtIns 0x0A s q n c t i → h = s.hq (i.imm32 % 1024) → h.isOpen = true → h.handles = x :: rest → h.takers = [] →
      exec (.take q n) s = .next (((s.putHq (i.imm32 % 1024) { h with handles := rest }).putThread
        { u with ptr := t.ptr.set i.pa ((nth 0 t.ptr i.pb + x * 2 ^ i.sub) % 2 ^ 48) }).count (pgRegion t.region) 0x102 1)) ∧
    (AtIns 0x0A s q n c t i → h = s.hq (i.imm32 % 1024) → h.isOpen = true → (h.handles = [] ∨ h.takers ≠ []) →
      exec (.take q n) s =
        .next (((s.putHq (i.imm32 % 1024) { h with takers := h.takers ++ [⟨c.q, c.n, 0⟩] }).putThread { t with waiting := true }).count (pgRegion t.region) 0x102 0)) ∧
    (∀ v : Nat, AtIns 0x0B s q n c t i → h = s.hq (i.imm32 % 1024) → h.isOpen = true → v < 2 ^ 32 →
      nth 0 t.ptr i.pa = nth 0 t.ptr i.pb + v * 2 ^ i.sub →
      exec (.give q n) s = .next (if h.handles.length < h.depth ∧ h.givers = []
        then ((s.putHq (i.imm32 % 1024) { h with handles := h.handles ++ [v] }).putThread u).count (pgRegion t.region) 0x102 1
        else ((s.putHq (i.imm32 % 1024) { h with givers := h.givers ++ [⟨c.q, c.n, v⟩] }).putThread { t with waiting := true }).count (pgRegion t.region) 0x102 0)) ∧
    (AtIns 0x0F s q n c t i → h = s.hq (i.imm64 % 1024) → h.isOpen = true →
      exec (.givei q n) s = .next (if h.handles.length < h.depth ∧ h.givers = []
        then ((s.putHq (i.imm64 % 1024) { h with handles := h.handles ++ [i.imm32] }).putThread u).count (pgRegion t.region) 0x102 1
        else ((s.putHq (i.imm64 % 1024) { h with givers := h.givers ++ [⟨c.q, c.n, i.imm32⟩] }).putThread { t with waiting := true }).count (pgRegion t.region) 0x102 0))) ∧
  (∀ (s : State) (k x : Nat) (w : HqWaiter) (ws : List HqWaiter) (xs : List Nat) (c : Cmd) (t : Thread), s.alive = true → (s.hq k).isOpen = true →
    (s.hq k).takers = w :: ws → (s.hq k).handles = x :: xs → s.cmd? w.q w.n = some c → s.thread? w.q w.n = some t → t.saved = false →
    exec (.hqWaiterServed k) s = .next ((s.putHq k { s.hq k with takers := ws, handles := xs }).putThread { t with
      pc := t.pc + 1, executed := t.executed + 1, waiting := false,
      ptr := t.ptr.set (stIns c t.pc).pa ((nth 0 t.ptr (stIns c t.pc).pb + x * 2 ^ (stIns c t.pc).sub) % 2 ^ 48) })) ∧
  (∀ (s : State) (q n : Nat) (c : Cmd) (b : Bytes), s.runnable q n (Cmd.isSub 0x106 1) = some c → c.done = [] → c.withheld = [] → (s.hq (c.fld 2 2)).isOpen = false →
    s.readBytes (c.fld 8 8) (4 * c.fld 6 2) = .ok b →
    exec (.hqOpen q n) s = .next ((s.putHq (c.fld 2 2) { isOpen := true, depth := c.fld 4 2, handles := (pieces 4 b).map leNat }).putCmd
      { c with committed := true, wroteLocal := true, done := [0], units := c.units + 1, status := .ok, phase := .ended })) ∧
  (∀ (s : State) (q n : Nat) (c : Cmd), s.runnable q n (Cmd.isSub 0x106 2) = some c → c.done = [] → c.withheld = [] →
    (s.hq (c.fld 2 2)).takers = [] → (s.hq (c.fld 2 2)).givers = [] →
    exec (.hqClose q n) s = .next ((s.putHq (c.fld 2 2) {}).putCmd
      { c with committed := true, wroteLocal := true, done := [0], units := c.units + 1, status := .ok, phase := .ended })) ∧
  (∀ (s : State) (q n : Nat) (c d : Cmd) (t : State) (h : HandleQueue), s.runnable q n (Cmd.isSub 0x106 3) = some c → c.done = [] → c.withheld = [] → h = s.hq (c.fld 2 2) →
    commitWrites s c ⟨[(c.fld 16 8, natBytes 1 (if h.isOpen then 1 else 0) ++ natBytes 1 0 ++ natBytes 2 h.depth ++ natBytes 2 h.handles.length ++
      natBytes 2 h.takers.length ++ natBytes 2 h.givers.length ++ natBytes 22 0)], 0⟩ = .ok (t, d) →
    exec (.hqStatus q n) s = .next (t.putCmd { d with done := [0], units := d.units + 1, status := .ok, phase := .ended }))

/-- A STREAM takes a thread in an allowed region, RUN works a command to its end, HALT writes the report and ends OK. STREAM without a thread, the save
area holding another number: a fresh thread of the given region, in service with a place free, starts at instruction 0 with P0 to P3 from the body and
with nothing counted. A stopped thread goes on where it stood, in the given region: from its save area where that was written and holds its number.
RUN of an opcode that a program may run, its aligned body read and patched, its checks and start passed (no ring), all its units free to run: the
command does all its work, the thread goes on with one more RUN counted and the first status kept. HALT with no move outstanding and no RUN unfinished
writes instructions, bytes moved, RUNs and that status as the 32-byte report, frees the thread and ends OK. (R58, R321, R322, R326, R327, R328.) -/
def Obligations.StreamsRun : Prop :=
  (∀ (s : State) (q n : Nat) (region : Fin 8) (bd : Boundary) (c : Cmd) (b : Bytes), s.runnable q n (Cmd.isOp 0x105) = some c →
    (stRegion c = 255 ∨ stRegion c = region.val) → (s.region region.val).state = .inService → s.threadsIn region.val < 64 →
    s.thread? q n = none → s.readBytes (stSave c) 256 = .ok b → fieldAt b 0 8 % 2 ^ 48 ≠ n →
    exec (.stream q n ⟨region, bd⟩) s = .next (State.putCmd { s.dropThread q n with threads := (s.dropThread q n).threads ++
      [{ q := q, n := n, region := region.val, ptr := [c.fld 32 8, c.fld 40 8, c.fld 48 8, c.fld 56 8, 0, 0, 0, 0] }] }
      { c with sat := 0, units := 0, coll := {}, regions := insertNat region.val c.regions })) ∧
  (∀ (s : State) (q n : Nat) (region : Fin 8) (bd : Boundary) (c : Cmd) (t : Thread), s.runnable q n (Cmd.isOp 0x105) = some c →
    (stRegion c = 255 ∨ stRegion c = region.val) → (s.region region.val).state = .inService → s.threadsIn region.val < 64 →
    s.thread? q n = some t → t.saved = true →
    (t.stored = false → exec (.stream q n ⟨region, bd⟩) s = .next (State.putCmd { s.dropThread q n with threads := (s.dropThread q n).threads ++
      [{ t with region := region.val, saved := false, waiting := false }] } { c with regions := insertNat region.val c.regions })) ∧
    (∀ b : Bytes, t.stored = true → s.readBytes (stSave c) 256 = .ok b → fieldAt b 0 8 % 2 ^ 48 = n →
      exec (.stream q n ⟨region, bd⟩) s = .next (State.putCmd { s.dropThread q n with threads := (s.dropThread q n).threads ++
        [{ t with
           region := region.val, saved := false, waiting := false, stored := false, pc := fieldAt b 8 1,
           ptr := (List.range 8).map (fun k => fieldAt b (16 + 8 * k) 8), loops := (List.range (fieldAt b 9 1)).map (fun k => fieldAt b (80 + 4 * k) 4),
           running := if fieldAt b 10 1 = 1 then t.running else none, armed := t.armed && fieldAt b 10 1 == 1 }] }
        { c with resumed := true, regions := insertNat region.val c.regions }))) ∧
  (∀ (s u v : State) (q n len : Nat) (ring : List (List Bytes)) (c d d' e : Cmd) (t : Thread) (i : Ins) (r0 r : Reg) (b : Bytes),
    AtIns 0x0D s q n c t i → t.running = none → runReg ring i.imm32 (runCmd c i.imm32 (t.p i.pa) []) = some r0 →
    len = bodyLength s r0.len (t.p i.pa) → len ≤ 512 → t.p i.pa % 64 = 0 → s.dynRead c.q (t.p i.pa) len = .ok b →
    d = runCmd c i.imm32 (t.p i.pa) (patchField (patchField b (i.imm64 % 256) (t.p i.pb)) (i.imm64 / 256 % 256) (t.p i.pc)) →
    runReg ring i.imm32 d = some r → r.op.startStatus s { d with phase := .accepted } [(d.bodyAddr, d.body.length)] = none → d.isRing = false →
    r.start s d = .go u d' → r.op.outcome u d' = some (v, e) → runGoesOn e.status = true →
    ∃ w : State, exec (.run q n ⟨ring, none⟩) s = .next w ∧
      w.threads = v.threads.map (fun x => if x.q = t.q ∧ x.n = t.n then { t with
        pc := t.pc + 1, executed := t.executed + 1, runs := t.runs + 1, first := if t.first = 0 then e.status.plain.code else t.first, armed := false } else x) ∧
      w.queues = v.queues ∧ w.regions = v.regions ∧ w.jnl = v.jnl) ∧
  (∀ (s v : State) (q n : Nat) (c d : Cmd) (t : Thread) (i : Ins), AtIns 0x00 s q n c t i → t.moves = [] → t.running = none →
    commitWrites s c ⟨[(stReport c, natBytes 8 (t.executed + 1) ++ natBytes 8 t.moved ++ natBytes 4 t.runs ++ natBytes 2 t.first ++ natBytes 10 0)], 0⟩ = .ok (v, d) →
    exec (.halt q n) s = .next (((v.dropThread q n).putCmd { d with status := .ok, phase := .ended }).count (pgRegion t.region) 0x102 1))

/-- COPY, GATHER and SCATTER end with all their units committed, writing nothing but what they record as written. For a started COPY, GATHER or SCATTER
whose units commit and whose report is written: its row gives the state and status they come to, ended; queues, threads, regions, pools, registers and
every other command stay; of Ivory and Slate only bytes it has written change. The status is LIMIT exactly when a row was out of range, else OK.
COPY_PIECE_COMMIT of a unit with more to come commits that unit alone, by the engines of its directions whose turn it is, or by the mover of its
region, where the command then has a place, and the command goes on. (R314, R315, R316, R317, R318, R319.) -/
def Obligations.MovementRows : Prop :=
  (∀ (s t : State) (q n : Nat) (d : Cmd) (i : Instr) (code : Nat),
    ((i = .copy q n ∧ code = 0x101) ∨ (i = .gather q n ∧ code = 0x103) ∨ (i = .scatter q n ∧ code = 0x104)) →
    moveOp.Runs (Cmd.isOp code) s q n t d →
    exec i s = .next (t.putCmd { d with phase := .ended }) ∧ WritesOnly s t d ∧ d.status = (if 0 < nth 0 d.counts 2 then .limit else .ok)) ∧
  (∀ (s v t : State) (q n k : Nat) (mover : Mover) (c e d : Cmd), s.runnable q n (fun c => (pieceOp c).isSome) = some c →
    [0x101, 0x103, 0x104].contains c.opcode = true → moverFits s c moveOp mover = true →
    (match mover with | .region r => s.joinRegion c r.val | _ => some (s, c)) = some (v, e) → moveOp.nextUnit v e = some k → moveOp.CommitsOne v e k t d →
    ∃ u : State, exec (.copyPieceCommit mover q n .goOn) s = .next u ∧ u.mem = t.mem ∧
      u.cmds = t.cmds.map (fun x => if x.q = d.q ∧ x.n = d.n then
        { d with engines := (moverEngines mover).foldl (fun x e => tabSet 16 x (engineDir e) e) d.engines } else x) ∧
      u.queues = t.queues ∧ u.regions = t.regions ∧ u.threads = t.threads ∧ u.tow = t.tow)

/-- COPY_INLINE writes its LEN inline bytes to the destination, in any tier, and ends OK, or ends with what the destination meets. For a started
COPY_INLINE with its unit still to do and LEN from 1 to 32 within one granule: where the destination's bytes are not refused, the row ends it OK with
one more unit, past its commit point, and nothing but that write happens; the LEN destination bytes then read as the first LEN bytes of the inline
area (with memory in its canonical form, in Ivory and Slate always, in Umber with every tower in place). Where they are refused, it ends with that
status. (R236, R239, R320, R341.) -/
def Obligations.CopyInlineWrites : Prop :=
  ∀ (s : State) (q n a len : Nat) (c : Cmd), s.runnable q n (Cmd.isOp 0x102) = some c → c.done = [] → c.withheld = [] → a = fieldAt c.desc 8 8 →
    len = fieldAt c.desc 48 1 → 1 ≤ len → len ≤ 32 → c.desc.length = 64 → a % 64 + len ≤ 64 →
    (s.refusal a len true = none →
      ∃ (t : State) (d : Cmd), exec (.copyInline q n) s = .next (t.putCmd d) ∧ d.status = .ok ∧ d.phase = .ended ∧ d.units = c.units + 1 ∧
        d.committed = true ∧ WritesOnly s t d ∧
        (s.mem.wf = true →
          (a + len ≤ umberBase ∨ (slateBase ≤ a ∧ a + len ≤ 2 ^ 48) ∨ (umberBase ≤ a ∧ a + len ≤ slateBase ∧ s.tow.layout = .full)) →
          t.rawBytes a len = (c.desc.drop 16).take len)) ∧
    (∀ st : Status, s.refusal a len true = some st →
      ∃ (t : State) (d : Cmd), exec (.copyInline q n) s = .next (t.putCmd d) ∧ d.status = st.plain ∧ d.phase = .ended ∧ d.units = c.units)

/-- TRACK opens, closes, reports and cleans a range, and WRITEBACK copies home the blocks whose bits are set. OPEN stores the bitmap, clear or all dirty,
and the range is then open with the body's fields; CLOSE leaves it closed; CLEAN writes zeros over its bitmap; STATUS changes nothing but its report;
each then writes its report and ends OK. WRITEBACK of an open range with its blocks committed and its report written ends with only what it wrote, and
bits of tracked ranges, changed. (R261, R262, R263, R264, R265.) -/
def Obligations.TrackedRanges : Prop :=
  (∀ (s t u : State) (q n : Nat) (c d e : Cmd) (x : Track), s.runnable q n (Cmd.isSub 0x110 1) = some c → c.done = [] → c.withheld = [] →
    x = { isOpen := true, upper := c.fld 8 8, home := c.fld 16 8, length := c.fld 24 8, bitmap := c.fld 32 8, flags := c.fld 40 2 } →
    commitWrites s c ⟨[(x.bitmap, trkBits c)], 0⟩ = .ok (t, d) →
    trkFinish (t.putTrack (c.fld 2 2) x) { d with done := [0], units := d.units + 1 } = .ok (u, e) →
    exec (.trackOpen q n) s = .next (u.putCmd { e with phase := .ended }) ∧ e.status = .ok ∧ (t.putTrack (c.fld 2 2) x).track (c.fld 2 2) = x ∧
    u.tracks = tabSet {} s.tracks (c.fld 2 2) x) ∧
  (∀ (s u : State) (q n : Nat) (c e : Cmd), s.runnable q n (Cmd.isSub 0x110 3) = some c → c.done = [] → c.withheld = [] →
    trkFinish (s.putTrack (c.fld 2 2) {}) { c with committed := true, wroteLocal := true, done := [0], units := c.units + 1 } = .ok (u, e) →
    exec (.trackClose q n) s = .next (u.putCmd { e with phase := .ended }) ∧ e.status = .ok ∧ u.tracks = tabSet {} s.tracks (c.fld 2 2) {}) ∧
  (∀ (s u : State) (q n : Nat) (c e : Cmd), s.runnable q n (Cmd.isSub 0x110 4) = some c → c.done = [] → c.withheld = [] →
    trkFinish s { c with done := [0], units := c.units + 1 } = .ok (u, e) →
    exec (.trackStatus q n) s = .next (u.putCmd { e with phase := .ended }) ∧ e.status = .ok ∧ WritesOnly s u e) ∧
  (∀ (s t u : State) (q n : Nat) (c d e : Cmd), s.runnable q n (Cmd.isSub 0x110 5) = some c → c.done = [] → c.withheld = [] →
    commitWrites s c ⟨[((s.track (c.fld 2 2)).bitmap, natBytes (s.track (c.fld 2 2)).bitmapLen 0)], 0⟩ = .ok (t, d) →
    trkFinish t { d with done := [0], units := d.units + 1 } = .ok (u, e) →
    exec (.trackClean q n) s = .next (u.putCmd { e with phase := .ended }) ∧ e.status = .ok ∧ WritesOnly s u e) ∧
  (∀ (s t : State) (q n : Nat) (c d : Cmd), s.runnable q n (Cmd.isSub 0x110 2) = some c → c.withheld = [] → (s.track (c.fld 2 2)).isOpen = true →
    writebackOp.outcome s c = some (t, d) →
    exec (.trackWriteback q n) s = .next (t.putCmd { d with phase := .ended }) ∧ d.status = .ok ∧ WritesOnly s t d)

/-- GEMM, GEMM_F64X and THIN_GEMM end with every tile committed and the status of R79. For a started matrix command whose tiles commit and whose report is
written, its row gives the state and status they come to, ended: LIMIT where the manual limits its size, else SATURATED with a saturated tile, else
PARTIAL_EXACT for a spread over 24 of GEMM_F64X, else OK_SCALED with a repeated tile, else OK. Every other engine, queue and register stays; of Ivory
and Slate, unless it has claimed a stack entry, only bytes it has written, or left undefined, change. (R66, R76, R79, R94, R97, R101, R297.) -/
def Obligations.MatrixRows : Prop :=
  ∀ (s t : State) (q n : Nat) (d : Cmd) (g : Mat) (i : Instr) (code : Nat),
    ((i = .gemm q n ∧ code = 0x201) ∨ (i = .gemmF64x q n ∧ code = 0x202) ∨ (i = .thinGemm q n ∧ code = 0x203)) →
    matrixOp.Runs (Cmd.isOp code) s q n t d → d.mat = some g →
    exec i s = .next (t.putCmd { d with phase := .ended }) ∧ SameElse s t ∧
    (∀ c : Cmd, s.cmd? q n = some c → c.claim = none → WritesOnly s t d) ∧
    d.status = (if g.limit then .limit else if 0 < nth 0 d.counts 2 then .saturated
      else if g.wide = true ∧ 24 < nth 0 d.counts 4 then .partialExact else if 0 < nth 0 d.counts 1 then .okScaled else .ok)

/-- ELEMENTWISE, REDUCE, SOFTMAX, SOFTMAX_BWD, COMPACT and EXPAND end with every chunk committed, changing only what they write. For a started vector
command whose chunks commit and whose report is written, its row gives the state and status they come to, ended; queues, engines, registers and other
commands stay, and of Ivory and Slate only bytes it has written, or left undefined, change. (R110, R122, R127, R128, R131, R134, R137.) -/
def Obligations.VectorRows : Prop :=
  ∀ (s t : State) (q n : Nat) (d : Cmd) (i : Instr) (code : Nat),
    ((i = .elementwise q n ∧ code = 0x301) ∨ (i = .reduce q n ∧ code = 0x302) ∨ (i = .softmax q n ∧ code = 0x303) ∨
     (i = .compact q n ∧ code = 0x304) ∨ (i = .expand q n ∧ code = 0x305) ∨ (i = .softmaxBwd q n ∧ code = 0x306)) →
    vectorOp.Runs (Cmd.isOp code) s q n t d →
    exec i s = .next (t.putCmd { d with phase := .ended }) ∧ WritesOnly s t d

/-- An array's boundary commits a pass, repeats an overflowing tile at a lower scale, pauses it, drops it when stopped. For a matrix command's live tile w
in an unfenced array of a serving region: where the level pauses no slot, a slot that does not reach the tile's last column group leaves w those
groups further on; a pass that is not the last leaves w one pass on with the new sums; when an element left its format and repeats are left (fewer
than 4), w starts again with its scale lowered by 2, counted in 0x203. A paused slot keeps w, idles the array and counts 0x206. A pre-emption or drain
of a command that is not IN_PLACE discards w, and the command leaves the region. A first residue mismatch discards the attempt, notes the column, is
CORRECTED and counted in 0x204; the second in a row fences the column. An array that stops, and ARRAY_IDLE, run the stop ramp. (R33, R68, R75, R76,
R90, R91, R92, R93, R430, R435.) -/
def Obligations.ArrayBoundaries : Prop :=
  (∀ (s v k : State) (r : Fin 8) (x : Fin 4) (q n o : Nat) (c m d : Cmd) (g : Mat) (u u' on : ArrayUnit) (w : ArrayRun) (b : Boundary),
    s.runnable q n (onArrays s) = some c → c.mat = some g → arrayServes (s.region r) x = true → (s.page (pgArray r x)).injectNext = false →
    withMeasure s c g = .ok m → d = m.keepTables s (matTables s m) → v = s.putCmd d → u = (s.region r).array x → liveRun v u = some w →
    w.q = q → w.n = n → u' = { u with slot := (u.slot + 1) % 16 } → on = { u' with active := true, ramping := !u.active } →
    k = v.count (pgArray r x) 0x201 g.slotCycles → o = u.over w.cols (g.tileGroups w.tile) →
    (arrayPaused s.gov.throttle u.slot = false → (b = .goOn ∨ b = .throttle) → (s.gov.holding = false ∨ u.active = true) →
      (w.cols + u.groups < g.tileGroups w.tile →
        exec (.arrayPassEnd r x q n b) s = .next (k.putRun r x { on with run := some { w with cols := w.cols + u.groups } })) ∧
      (∀ accs : List Acc, g.tileGroups w.tile ≤ w.cols + u.groups → passTile k d g (nth 0 d.counts 3) w.tile w.scale w.pass w.accs = .ok accs →
        ((g.repeats = true → w.attempt < 4 → accs.any (·.isOver) = false) → w.pass + 1 < g.passes (nth 0 d.counts 3) →
          exec (.arrayPassEnd r x q n b) s = .next (k.putRun r x { on with run := some { w with cols := o, pass := w.pass + 1, accs := accs } })) ∧
        (g.repeats = true → w.attempt < 4 → accs.any (·.isOver) = true →
          exec (.arrayPassEnd r x q n b) s = .next ((k.putRun r x { on with
            suspect := none, run := some { w with scale := w.scale - 2, attempt := w.attempt + 1, pass := 0, cols := 0, accs := g.fresh w.tile } }).count
              (pgArray r x) 0x203 1)))) ∧
    (arrayPaused s.gov.throttle u.slot = true → (b = .goOn ∨ b = .throttle) →
      exec (.arrayPassEnd r x q n b) s = .next ((v.count (pgArray r x) 0x206 g.slotCycles).putRun r x { u' with
        run := some w, active := false, ramping := u.active })) ∧
    (w.inPlace = false → (b = .preempt ∨ b = .drain) → ∀ t : State, t = v.putRun r x { u' with run := none, active := false, ramping := u.active } →
      exec (.arrayPassEnd r x q n b) s = .next (t.quits d r)) ∧
    (∀ t : State, (t.quits d r).cmds = (t.putCmd (t.quitRegion d r)).cmds ∧ t.quits d r = { t with cmds := (t.quits d r).cmds, gov := (t.quits d r).gov }) ∧
    (∀ col : Fin 4, b = .residue col → u.suspect ≠ some col.val → ∃ w' : ArrayRun, w'.tile = w.tile ∧ w'.pass = 0 ∧ w'.scale = w.scale ∧
      exec (.arrayPassEnd r x q n b) s = .next (((v.putRun r x { u' with run := some w', suspect := some col.val }).record (pgArray r x) .corrected 0).count
        (pgArray r x) 0x204 1)) ∧
    (∀ col : Fin 4, b = .residue col → u.suspect = some col.val →
      exec (.arrayPassEnd r x q n b) s = .next (((v.putRun r x { u' with run := some w }).count (pgArray r x) 0x204 1).fenceColumn r x col))) ∧
  (∀ (s : State) (r : Fin 8) (x : Fin 4) (u : ArrayUnit), s.alive = true → u = (s.region r).array x → u.run = none →
    exec (.arrayIdle r x) s = .next (s.putRegion r ((s.region r).putArray x { u with active := false, ramping := u.active })))

/-- A vector chunk, an encode chunk, a page of KV_APPEND, a key block and an expanded block each commit alone and the command goes on. At a boundary that
the throttle level does not pause: VECTOR_CHUNK_END in a serving engine, no command of an overlapping window there, commits the command's next chunk;
KEY_BLOCK_END the next page of a KV_APPEND, or the walker's next key block, which moves only the region's walk and what the command keeps. The command
then has a place in the region. ENCODE_CHUNK_COMMIT commits the next chunk. Other commands, queues and engines stay. EXPANDER_BLOCK_DONE of a block
that passes its checks counts the block, its cycles of stall, RAW and escapes in its pair's page, and keeps the code table read. (R24, R106, R139,
R171, R279, R282, R283, R289, R435.) -/
def Obligations.EngineBoundaries : Prop :=
  (∀ (s v t : State) (r : Fin 8) (e : Fin 2) (q n k : Nat) (c b d : Cmd) (g : Region) (x : VectorUnit), s.runnable q n (onVectors s) = some c →
    g = s.region r → x = g.vector e → vectorServes g e = true → x.taken s c = false → unitPaused s.gov.throttle x.slot = false →
    nextChunk (s.putRegion r (g.putVector e x.pass)) c = some k → (s.putRegion r (g.putVector e x.pass)).joinRegion c r = some (v, b) →
    (chunkOp b).CommitsOne v b k t d →
    ∃ u : State, exec (.vectorChunkEnd r e q n .goOn) s = .next u ∧ u.mem = t.mem ∧ u.queues = t.queues ∧ u.threads = t.threads ∧
      u.cmds = t.cmds.map (fun x => if x.q = d.q ∧ x.n = d.n then d else x) ∧
      u.regions = tabSet {} t.regions r.val ((t.region r).putVector e (((t.region r).vector e).use b true))) ∧
  (∀ (s t : State) (q n k : Nat) (c d : Cmd), s.runnable q n (fun c => c.opcode == 0x702 || c.opcode == 0x703) = some c →
    encodeOp.nextUnit s c = some k → encodeOp.CommitsOne s c k t d → exec (.encodeChunkCommit q n .goOn) s = .next (t.putCmd d)) ∧
  (∀ (s w v : State) (r : Fin 8) (q n : Nat) (c b : Cmd), s.runnable q n (fun c => [0x401, 0x402, 0x403].contains c.opcode) = some c →
    walkerServes s r = true → (s.page (pgWalker r)).injectNext = false → unitPaused s.gov.throttle (s.region r).walkSlot = false →
    s.joinRegion c r = some (w, b) → v = (w.putCmd b).passWalk r →
    (∀ (t : State) (k : Nat) (d : Cmd), c.opcode = 0x403 → kvAppendOp.nextUnit v b = some k → kvAppendOp.CommitsOne v b k t d →
      exec (.keyBlockEnd r q n .goOn) s = .next (t.putCmd d)) ∧
    (∀ (a : Att) (u : AUnit) (w w' : Walk) (c' d : Cmd) (k : Keys) (x : Nat), c.opcode ≠ 0x403 → b.att = some a → a.ring = false → blockHome v r b a = none →
      walkOf v r b = some w → (v.attUnits b a)[w.unit]? = some u → attKeys v b a [] u = .ok (c', k) → (a.blocks k u)[w.key]? = some x →
      walkBlock v c' a k u (a.blocks k u) w x = .ok (d, w') → w'.key < (a.blocks k u).length →
      exec (.keyBlockEnd r q n .goOn) s = .next (((v.count (pgWalker r) 0x501 1).putWalk r (some w')).putCmd d))) ∧
  (∀ (s v : State) (r : Fin 8) (p : Fin 2) (q n block stall : Nat) (c : Cmd) (x : ExpSource) (e : Expanded),
    s.runnable q n (fun c => c.opcode == 0x201) = some c → expSource s c = some x → block < x.blocks s → ((s.region r).expander p).fenced = false →
    (s.region r).state = .inService → v = s.count (pgExpander r p) 0x601 stall → x.expand v block = .ok e →
    exec (.expanderBlockDone r p q n ⟨block, stall⟩) s = .next ((((v.count (pgExpander r p) 0x602 1).count (pgExpander r p) 0x603 (if e.raw then 1 else 0)).count
      (pgExpander r p) 0x604 e.escapes.sum).putCmd (c.keepTables v (matTables v c))))

/-- A tower unit commits its next unit and pays its refreshes; flags and partials of the other towers arrive one by one. TOWER_UNIT_END on a serving unit
that the level does not pause, for a command with a step there, which then has one of its 8 places: its next unit of an update, a SHARD CHECK or a
GRAD_QUANT commits, 0x2104 counts; of a THIN_GEMM one more group of 16 columns is done, or its step is split at a pass; owed refreshes are paid and
cycles of waiting counted. OVERFLOW_FLAG_RECEIVE before the last tower's adds that tower's flag; with the last, a tile that must repeat starts its
next attempt. TOWER_ATTN_BLOCK_END from the home tower of the next key block folds that block as the walker's own would, counted in 0x503. (R223,
R293, R294, R298, R299, R302, R308, R435.) -/
def Obligations.TowerUnitBoundaries : Prop :=
  (∀ (s u v t : State) (w : Fin 18) (q n wait : Nat) (c b d : Cmd), s.runnable q n (fun c => c.opcode == 0x203 || unitWork s c) = some c →
    s.unitServes w = true → hasStep s c w = true → (s.page (pgTower w)).injectNext = false → unitPaused s.gov.throttle (s.tower w).slot = false →
    s.joinTower c w = some (u, b) → v = (u.putCmd b).passStep w wait →
    (∀ k : Nat, c.opcode ≠ 0x203 → nextShare v b (some w.val) = some k →
      (chunkOp b).CommitsOne v b k t d →
      exec (.towerUnitEnd w q n ⟨.goOn, wait⟩) s = .next ((t.count (pgTower w) 0x2104 1).putCmd d)) ∧
    (∀ (g : Mat) (tile p : Nat), c.opcode = 0x203 → b.mat = some g → matrixOp.nextUnit v b = some tile → shareDone v b g tile (some w.val) = false →
      p = b.keptNat (passKey tile (some w.val)) + (v.tower w).passesPerPiece g →
      exec (.towerUnitEnd w q n ⟨.goOn, wait⟩) s = .next (if p < g.passes (nth 0 b.counts 3)
        then (v.count (pgTower w) 0x2102 1).putCmd (b.putKept (passKey tile (some w.val)) p)
        else v.putCmd ((b.putKept (passKey tile (some w.val)) 0).putKept (groupKey tile (some w.val)) (b.keptNat (groupKey tile (some w.val)) + 1))))) ∧
  (∀ (s : State) (w : Fin 18) (q n tile k : Nat) (flag : Bool) (c d : Cmd) (g : Mat) (es : List TileElem), s.runnable q n (Cmd.isOp 0x203) = some c →
    c.mat = some g → g.limit = false → matrixOp.nextUnit s c = some tile → (thinCols s g tile (some w.val)).isEmpty = false →
    c.flags.any (fun f => f.1 == w.val) = false → shareDone s c g tile (some w.val) = true → thinAttempt s c g tile = .ok es →
    flag = (g.repeats && ((g.tilePos tile).zip es).any (fun x => thinHome s g tile x.1.2 == some w.val && x.2.isOver)) →
    d = { c with flags := c.flags ++ [(w.val, flag)] } → k = d.keptNat (attemptKey tile) →
    (tileReady s d g tile = false → exec (.overflowFlagReceive w q n tile flag) s = .next (s.putCmd d)) ∧
    (tileReady s d g tile = true → thinAttempt s d g tile = .ok es →
      judge g tile (g.outScale - 2 * k) k es = .again →
      exec (.overflowFlagReceive w q n tile flag) s =
        .next (s.putCmd (({ d with flags := [], kept := d.kept.filter (fun e => decide (e.1 < 2 ^ 61)) } : Cmd).putKept (attemptKey tile) (k + 1))))) ∧
  (∀ (s x v : State) (t : Fin 18) (q n wait r : Nat) (c b c' d : Cmd) (a : Att) (u : AUnit) (w w' : Walk) (k : Keys) (i : Nat),
    s.runnable q n (onTowers s) = some c → walkerServes s (walkRegion s c) = true → s.unitServes t = true → hasStep s c t = true →
    (s.page (pgTower t)).injectNext = false → unitPaused s.gov.throttle (s.tower t).slot = false → s.joinTower c t = some (x, b) →
    v = (x.putCmd b).passStep t wait → b.att = some a → r = walkRegion v b → walkOf v r b = some w → (v.attUnits b a)[w.unit]? = some u →
    attKeys v b a [] u = .ok (c', k) → (a.blocks k u)[w.key]? = some i → walkBlock v c' a k u (a.blocks k u) w i = .ok (d, w') →
    w'.key < (a.blocks k u).length →
    exec (.towerAttnBlockEnd t ⟨q, n⟩ ⟨.goOn, wait⟩) s = .next (((v.count (pgWalker r) 0x503 1).putWalk r (some w')).putCmd d))

/-- KV_POOL INIT, GROW, STATUS and RETIRE: a live pool with the body's fields, more active pages, its counts, or no pool. For a started KV_POOL of its OP
whose checks still hold and no earlier command of the queue has still to allocate from or release to the pool: INIT makes the pool live with the
body's fields and generation 0; GROW adds pages up to its capacity, else ends LIMIT with nothing changed; STATUS writes free, deferred, linked and
active pages, the generation and the oldest latched one (open bytes when none is); RETIRE of a pool with no linked and no deferred page ends it, else
ends LIMIT. The module's own bytes of the pool state table are open after a change (log entry 15). (R141, R145, R146, R150, R153.) -/
def Obligations.KvPools : Prop :=
  ∀ (s : State) (q n p : Nat) (c e : Cmd) (x : Pool), c.done = [] → c.withheld = [] → p = c.fld 1 1 → x = s.pool p → kpCheck s c = none → kvTurn s c = true →
    e = { c with done := [0], units := c.units + 1, phase := .ended, status := .ok } → nth 0 c.counts 0 = 0 →
    (∀ y : Pool, s.runnable q n (Cmd.isSub 0x406 1) = some c →
      y = { live := true, format := c.fld 2 1, headDim := c.fld 4 2, base := c.fld 8 8, capacity := c.fld 16 4, active := c.fld 20 4,
            owner := c.fld 24 4, stateAddr := c.fld 32 8, gen := 0 } →
      exec (.kvPoolInit q n) s = .next ((State.openRange (s.putPool p y) y.stateAddr (64 + 8 * y.capacity)).putCmd { e with committed := true, wroteLocal := true })) ∧
    (s.runnable q n (Cmd.isSub 0x406 2) = some c → x.active + c.fld 20 4 ≤ x.capacity →
      exec (.kvPoolGrow q n) s = .next ((State.openRange (s.putPool p { x with active := x.active + c.fld 20 4 }) x.stateAddr (64 + 8 * x.capacity)).putCmd
        { e with committed := true, wroteLocal := true })) ∧
    (s.runnable q n (Cmd.isSub 0x406 2) = some c → x.capacity < x.active + c.fld 20 4 →
      ∃ d : Cmd, exec (.kvPoolGrow q n) s = .next (s.putCmd d) ∧ d.status = .limit ∧ d.phase = .ended) ∧
    (∀ (t : State) (d : Cmd) (g : Option Nat), s.runnable q n (Cmd.isSub 0x406 3) = some c → g = s.oldestLatch p →
      commitWrites s c ⟨[(c.fld 40 8, natBytes 4 (x.active - x.linked.length - x.deferred.length) ++ natBytes 4 x.deferred.length ++
        natBytes 4 x.linked.length ++ natBytes 4 x.active ++ natBytes 4 x.gen ++ natBytes 4 (g.getD 0) ++ natBytes 8 0)], 0⟩ = .ok (t, d) →
      exec (.kvPoolStatus q n) s = .next ((if g = none then t.openRange (c.fld 40 8 + 20) 4 else t).putCmd
        { d with done := [0], units := d.units + 1, phase := .ended, status := .ok })) ∧
    (s.runnable q n (Cmd.isSub 0x406 4) = some c → x.linked = [] → x.deferred = [] →
      exec (.kvPoolRetire q n) s = .next ((s.putPool p { x with live := false }).putCmd { e with committed := true, wroteLocal := true })) ∧
    (s.runnable q n (Cmd.isSub 0x406 4) = some c → (x.linked ≠ [] ∨ x.deferred ≠ []) →
      ∃ d : Cmd, exec (.kvPoolRetire q n) s = .next (s.putCmd d) ∧ d.status = .limit ∧ d.phase = .ended)

/-- ATTN_FWD, ATTN_BWD, BUCKET_SORT, KV_APPEND and KV_TRUNCATE end with every unit committed; only the last two touch pools. For a started command of
these whose units commit and whose report is written, its row gives the state and status they come to, ended. Queues, engines, registers and other
commands stay; pools change in KV_APPEND and KV_TRUNCATE alone; of Ivory and Slate only bytes it has written, or left undefined, change. A ring
ATTN_FWD runs once its signature is agreed. (R140, R149, R154, R156, R162, R168.) -/
def Obligations.AttentionRows : Prop :=
  ∀ (s t : State) (q n : Nat) (d : Cmd),
    (∀ ring : List (List Bytes), (attnOp ring).Runs (fun c => c.isOp 0x401 && ringMayRun c) s q n t d →
      exec (.attnFwd q n ring) s = .next (t.putCmd { d with phase := .ended }) ∧ WritesOnly s t d) ∧
    ((attnOp []).Runs (Cmd.isOp 0x402) s q n t d →
      exec (.attnBwd q n) s = .next (t.putCmd { d with phase := .ended }) ∧ WritesOnly s t d) ∧
    (bucketSortOp.Runs (Cmd.isOp 0x404) s q n t d →
      exec (.bucketSort q n) s = .next (t.putCmd { d with phase := .ended }) ∧ WritesOnly s t d) ∧
    (kvAppendOp.Runs (Cmd.isOp 0x403) s q n t d →
      exec (.kvAppend q n) s = .next (t.putCmd { d with phase := .ended }) ∧ WritesOnly { s with pools := t.pools } t d) ∧
    (kvTruncateOp.Runs (Cmd.isOp 0x405) s q n t d →
      exec (.kvTruncate q n) s = .next (t.putCmd { d with phase := .ended }) ∧ WritesOnly { s with pools := t.pools } t d)

/-- STACK_OPEN, CLOSE, MARK, PUSH and POP end OK; OPEN writes an empty head, CLOSE clears its state, CUTs wait for holders. For a started command of
these, its unit still to do: STACK_OPEN writes a head with the body's limit, owner, flags and table, no entries, and state 1 in a 4 KiB page that may
be written; STACK_CLOSE without a holder rewrites the head with state 0; PLACE and POP of a mark, which acted at their start, change nothing more;
CUT, of a mark that stands without a holder above it, and CUT_ALL without any holder write the head and end OK; PUSH and POP with their units
committed end with only what they wrote changed (a Sepia PUSH also codes its entry in memory). (R180, R185, R188, R191, R192, R205, R206, R207.) -/
def Obligations.StackRows : Prop :=
  (∀ (s : State) (q n a : Nat) (c : Cmd), a = c.fld 8 8 → c.done = [] → c.withheld = [] →
    (s.runnable q n (Cmd.isSub 0x502 1) = some c → s.refusal a 4096 true = none →
      ∃ (t : State) (d : Cmd), exec (.stackOpen q n) s = .next (t.putCmd d) ∧ d.status = .ok ∧ d.phase = .ended ∧ d.units = c.units + 1 ∧ WritesOnly s t d ∧
        (s.mem.wf = true → (a + 4096 ≤ umberBase ∨ (slateBase ≤ a ∧ a + 4096 ≤ 2 ^ 48)) →
          t.rawBytes a 4096 = natBytes 8 (c.fld 16 8) ++ natBytes 24 0 ++ natBytes 4 (c.fld 4 4) ++ natBytes 1 1 ++ natBytes 1 (c.fld 1 1) ++ natBytes 2 0 ++
            natBytes 8 (if c.fld 1 1 = 1 then c.fld 24 8 else 0) ++ natBytes 4048 0)) ∧
    (∀ b : Bytes, s.runnable q n (Cmd.isSub 0x502 2) = some c → s.stackHeld a 0 c = false → s.readBytes a 64 = .ok b → s.refusal a 64 true = none →
      ∃ (t : State) (d : Cmd), exec (.stackClose q n) s = .next (t.putCmd d) ∧ d.status = .ok ∧ d.phase = .ended ∧ d.units = c.units + 1 ∧ WritesOnly s t d ∧
        (s.mem.wf = true → (a + 64 ≤ umberBase ∨ (slateBase ≤ a ∧ a + 64 ≤ 2 ^ 48)) → t.rawBytes a 64 = { parseHead a b with state := 0 }.bytes)) ∧
    (∀ (h : SHead) (es : List SEntry), s.stackWith a = .ok (h, es) →
      (s.runnable q n (Cmd.isSub 0x501 1) = some c →
        exec (.stackMarkPlace q n) s = .next (s.putCmd { c with done := [0], units := c.units + 1, status := .ok, phase := .ended })) ∧
      (s.runnable q n (Cmd.isSub 0x501 2) = some c →
        exec (.stackMarkPop q n) s = .next (s.putCmd { c with done := [0], units := c.units + 1, status := .ok, phase := .ended })) ∧
      (∀ e : SEntry, s.runnable q n (Cmd.isSub 0x501 3) = some c → cutMark es (c.fld 4 4) = some e → s.stackHeld a e.off c = false →
        s.refusal a 64 true = none →
        ∃ (t : State) (d : Cmd), exec (.stackMarkCut q n) s = .next (t.putCmd d) ∧ d.status = .ok ∧ d.phase = .ended ∧ d.units = c.units + 1 ∧ WritesOnly s t d) ∧
      (s.runnable q n (Cmd.isSub 0x501 4) = some c → s.stackHeld a 0 c = false → s.refusal a 64 true = none →
        ∃ (t : State) (d : Cmd), exec (.stackMarkCutAll q n) s = .next (t.putCmd d) ∧ d.status = .ok ∧ d.phase = .ended ∧ d.units = c.units + 1 ∧ WritesOnly s t d))) ∧
  (∀ (s t : State) (q n : Nat) (d : Cmd),
    (stackPushOp.Runs (Cmd.isOp 0x503) s q n t d →
      exec (.stackPush q n) s = .next (t.putCmd { d with phase := .ended }) ∧ SameElse s t ∧ d.status = .ok) ∧
    (stackPopOp.Runs (Cmd.isOp 0x504) s q n t d →
      exec (.stackPop q n) s = .next (t.putCmd { d with phase := .ended }) ∧ WritesOnly s t d ∧ d.status = .ok))

/-- GRAD_QUANT, OPT_UPDATE and SHARD INIT, CHECK, FETCH, EXPORT and STATUS end with every unit committed, changing only what they write. For a started
command of these whose units commit and whose report is written, its row gives the state and status they come to, ended; FETCH with the owner's answer
given. Queues, engines, registers, threads and other commands stay, but for the shards that an OPT_UPDATE or an INIT has completed and the fetches
that it then serves; of Ivory and Slate only bytes it has written, or left undefined, change. (R209, R211, R214, R215, R219, R221, R227, R230.) -/
def Obligations.OptimiserRows : Prop :=
  ∀ (s t : State) (q n : Nat) (d : Cmd) (answer : FetchAnswer) (i : Instr) (op : Op) (sel : Cmd → Bool),
    ((i = .gradQuant q n ∧ op = gradQuantOp ∧ sel = Cmd.isOp 0x505) ∨ (i = .optUpdate q n ∧ op = optUpdateOp ∧ sel = Cmd.isOp 0x506) ∨
     (i = .shardInit q n ∧ op = shardInitOp ∧ sel = Cmd.isSub 0x507 1) ∨ (i = .shardCheck q n ∧ op = shardCheckOp ∧ sel = Cmd.isSub 0x507 2) ∨
     (i = .shardFetch q n answer ∧ op = shardFetchOp answer ∧ sel = Cmd.isSub 0x507 3) ∨
     (i = .shardExport q n ∧ op = shardExportOp ∧ sel = Cmd.isSub 0x507 4) ∨ (i = .shardStatus q n ∧ op = shardStatusOp ∧ sel = Cmd.isSub 0x507 5)) →
    op.Runs sel s q n t d →
    exec i s = .next (t.putCmd { d with phase := .ended }) ∧ WritesOnly { s with shards := t.shards, shardWaits := t.shardWaits } t d ∧
    (i ≠ .optUpdate q n → i ≠ .shardInit q n → t.shards = s.shards ∧ t.shardWaits = s.shardWaits)

/-- SEPIA_BUILD, SEPIA_ENCODE and TINT_ENCODE end with every chunk committed, changing only what they write. For a started command of these whose chunks
commit and whose report is written, its row gives the state and status they come to, ended; queues, engines, registers and other commands stay, and of
Ivory and Slate only bytes it has written, or left undefined, change. (R271, R278, R284, R288, R289.) -/
def Obligations.CompressionRows : Prop :=
  ∀ (s t : State) (q n : Nat) (d : Cmd) (i : Instr) (op : Op) (code : Nat),
    ((i = .sepiaBuild q n ∧ op = buildOp ∧ code = 0x701) ∨ (i = .sepiaEncode q n ∧ op = encodeOp ∧ code = 0x702) ∨
     (i = .tintEncode q n ∧ op = encodeOp ∧ code = 0x703)) →
    op.Runs (Cmd.isOp code) s q n t d →
    exec i s = .next (t.putCmd { d with phase := .ended }) ∧ WritesOnly s t d

/-- FENCE, SIGNAL and WAIT: visibility, the unsigned maximum, the watched word; a WAIT that times out ends LIMIT. SIGNAL of a readable word whose write is
not refused writes the larger of its value and VALUE, unsigned, and ends OK; in Ivory or Slate, memory in its canonical form, the word then reads so.
FENCE ends OK once no write to Slate is outstanding (path 0) and every peer written to has acknowledged (path 2). WAIT ends OK once its word is at
least TARGET, and waits below it; WAIT_TIMEOUT with TIMEOUT set and the word still below TARGET ends it LIMIT. Nothing else changes. (R360, R362.) -/
def Obligations.SyncRows : Prop :=
  (∀ (s : State) (q n a : Nat) (c : Cmd) (b : Bytes), s.runnable q n (Cmd.isOp 0x802) = some c → c.done = [] → c.withheld = [] → a = fieldAt c.desc 16 8 →
    s.readBytes a 8 = .ok b → s.refusal a 8 true = none →
    ∃ (t : State) (d : Cmd), exec (.signal q n) s = .next (t.putCmd d) ∧ d.status = .ok ∧ d.phase = .ended ∧ WritesOnly s t d ∧
      (s.mem.wf = true → (a + 8 ≤ umberBase ∨ (slateBase ≤ a ∧ a + 8 ≤ 2 ^ 48)) →
        t.rawBytes a 8 = natBytes 8 (max (leNat b) (fieldAt c.desc 24 8)))) ∧
  (∀ (s : State) (q n : Nat) (c : Cmd), s.runnable q n (Cmd.isOp 0x801) = some c → c.done = [] → c.withheld = [] →
    ((fieldAt c.desc 16 1).testBit 0 = true → ∀ r ∈ s.per.requests, r.write = false) → ((fieldAt c.desc 16 1).testBit 2 = true → s.lnk.unacked = []) →
    exec (.fence q n) s = .next (s.putCmd { c with done := [0], status := .ok, phase := .ended })) ∧
  (∀ (s : State) (q n : Nat) (c : Cmd) (b : Bytes), s.runnable q n (Cmd.isOp 0x803) = some c → c.done = [] → c.withheld = [] →
    s.readBytes (fieldAt c.desc 16 8) 8 = .ok b →
    (fieldAt c.desc 24 8 ≤ leNat b → exec (.wait q n) s = .next (s.putCmd { c with done := [0], status := .ok, phase := .ended })) ∧
    (leNat b < fieldAt c.desc 24 8 → exec (.wait q n) s = .next (s.putCmd c)) ∧
    (leNat b < fieldAt c.desc 24 8 → fieldAt c.desc 32 4 ≠ 0 →
      exec (.waitTimeout q n) s = .next (s.putCmd { c with phase := .ended, status := .limit })))

/-- TAKE marks at one moment, blocks are digested and streamed, a partner's digests are compared, VERIFY settles copies. TAKE with every shard idle,
unpaired: parity is flushed, and the blocks of the replicated and local ranges, the shards' versions and WRITE_REC are recorded; with a shard busy it
waits. WP_BLOCK_STREAM of the next block, not poisoned: its CRC-64 enters the digests, and this member's own block is written at its place at
DEST_ADDR (memory in its canonical form). WP_DIGEST_RECEIVE: other versions end the TAKE VERSION_MISMATCH, recorded as CONTAINED; equal digests let it
go on. VERIFY with no lost and no diverged block ends OK with its report. Copies: all equal confirm; two that differ diverge; of three or more, a
value held by two and by more than any other stands. (R408, R415, R416, R417, R418, R419, R422, R423.) -/
def Obligations.WhitepointRows : Prop :=
  (∀ (s : State) (q n stop : Nat) (c : Cmd) (ls : List (Nat × Nat)) (shs vs : List Nat), s.runnable q n (Cmd.isSub 0x804 1) = some c →
    s.twin.wp.running = false → s.wpLocals c = .ok ls → s.wpShards c = .ok shs → s.isPaired = false →
    (wpIdle s c = true → shs.mapM (fun a => (s.shard c.q a).map Shard.version) = .ok vs →
      ∃ t : State, exec (.whitepointTake q n stop) s = .next t ∧
        t.twin.wp = { q := c.q, n := c.n, running := true, blocks := wpMarks s ls, versions := vs, jrec := s.jnl.writeRec, stop := stop } ∧
        t.twin.wpState = 4 ∧ t.mem.parity = [] ∧ t.jnl = s.jnl ∧ t.queues = s.queues ∧ t.regions = s.regions) ∧
    (wpIdle s c = false → exec (.whitepointTake q n stop) s = .next { s with twin := { s.twin with wpState := 1 } })) ∧
  (∀ (s : State) (q n cycles : Nat) (c : Cmd) (b : WpBlock) (rest : List WpBlock), s.runnable q n (Cmd.isSub 0x804 1) = some c →
    s.twin.wp.running = true → s.twin.wp.q = q → s.twin.wp.n = n → s.twin.wp.blocks = b :: rest → rest ≠ [] → (wpContent s b).2 = false →
    (b.streamed = false →
      ∃ (t : State) (d : Cmd), exec (.wpBlockStream q n cycles) s = .next (t.putCmd d) ∧ d.units = c.units + 1 ∧ t.mem = s.mem ∧ t.twin.wp.blocks = rest ∧
        t.twin.wp.digests = s.twin.wp.digests ++ [{ mib := b.mib, loc := b.loc, streamed := false, crc := crc64 (wpContent s b).1 }] ∧
        t.twin.wp.sent = s.twin.wp.sent) ∧
    (b.streamed = true → slateBase ≤ wpDest c → s.refusal (wpDest c + 1048576 * b.slot) 1048576 true = none → (wpContent s b).1.length = 1048576 →
      (∀ x ∈ rest, x.mib ∉ mibsOf (wpDest c + 1048576 * b.slot) 1048576) → s.mem.wf = true →
      ∃ (t : State) (d : Cmd), exec (.wpBlockStream q n cycles) s = .next (t.putCmd d) ∧ d.units = c.units + 1 ∧ t.twin.wp.blocks = rest ∧
        t.twin.wp.digests = s.twin.wp.digests ++ [{ mib := b.mib, loc := b.loc, streamed := true, crc := crc64 (wpContent s b).1 }] ∧
        t.twin.wp.sent = s.twin.wp.sent + 1 ∧ t.rawBytes (wpDest c + 1048576 * b.slot) 1048576 = (wpContent s b).1)) ∧
  (∀ (s : State) (q n : Nat) (c : Cmd) (vs : List Nat) (ds : List (Nat × Word)), s.runnable q n (Cmd.isSub 0x804 1) = some c →
    s.twin.wp.running = true → s.twin.wp.q = q → s.twin.wp.n = n → s.isPaired = true →
    (vs = s.twin.wp.versions → (∀ d ∈ ds, ∀ x, wpOwnDigest s d.1 = some x → x = d.2) → s.twin.wp.blocks ≠ [] →
      exec (.wpDigestReceive q n vs ds) s = .next { s with twin := { s.twin with wp := { s.twin.wp with partnerOk := true } } }) ∧
    (∀ (t : State) (e : Cmd), vs ≠ s.twin.wp.versions → s.twin.wp.poisoned = false →
      commitWrites s.wpClose c ⟨[(wpReport c, wpReportBytes s.twin.wp.stop s.twin.wp.sent none s.twin.wp.stream)], 0⟩ = .ok (t, e) →
      exec (.wpDigestReceive q n vs ds) s = .next ((t.record pgTwin .contained 0).putCmd { e with phase := .ended, status := .versionMismatch }))) ∧
  (∀ (s t : State) (q n : Nat) (c d : Cmd) (live : List (Nat × Word)) (ms : List (Option (List (Nat × Nat × Word)))) (v : WpVerdict),
    s.runnable q n (Cmd.isSub 0x804 2) = some c →
    (wpManifest c :: (if wpManifest2 c = 0 then [] else [wpManifest2 c])).mapM (readManifest s c) = .ok ms → ms.filterMap id ≠ [] →
    verifyBlocks s c (ms.filterMap id) live = .ok v → v.lost = [] → v.diverged = false →
    commitWrites (s.count pgTwin 0x1503 v.majority) c ⟨[(wpReport c, natBytes 16 0 ++ natBytes 8 (v.diff.getD (2 ^ 64 - 1)) ++ natBytes 8 0)], 0⟩ = .ok (t, d) →
    exec (.whitepointVerify q n live) s = .next (t.putCmd { d with phase := .ended, status := .ok })) ∧
  (∀ (own : Word) (cs : List Word), (∀ x ∈ cs, x = own) → settleCopies (own :: cs) = .confirmed) ∧
  (∀ a b : Word, a ≠ b → settleCopies [a, b] = .diverged) ∧
  (∀ (own x : Word) (cs : List Word), 2 ≤ cs.length → (∃ y ∈ own :: cs, y ≠ own) → 2 ≤ ((own :: cs).filter (· == x)).length →
    (∀ y ∈ own :: cs, y ≠ x → ((own :: cs).filter (· == y)).length < ((own :: cs).filter (· == x)).length) →
    settleCopies (own :: cs) = .majority x (x != own))

/-- SERVICE tests take their part to TESTING or complete BUSY_IN_SERVICE; TEST_END reports; ATTEST signs the module's state. A self-test or calibration
not begun, of a target that does not meet its condition, ends BUSY_IN_SERVICE; of a drained region (not the slice test) the region is TESTING and the
command past its commit point. TEST_END that finds nothing in a sound region leaves it DRAINED, writes RESULT 0 with the duration, and ends OK. ATTEST
writes the 192-byte report and its Ed25519 signature with the identity key, and ends OK. (R457, R463, R464, R465.) -/
def Obligations.ServiceRows : Prop :=
  (∀ (s : State) (q n op : Nat) (c : Cmd) (i : Instr), ((i = .serviceSelfTest q n ∧ op = 1) ∨ (i = .serviceCalibrate q n ∧ op = 2)) →
    s.runnable q n (Cmd.isSub 0x805 op) = some c → nth 0 c.counts 0 = 0 →
    (testReady s c = false → exec i s = .next (s.putCmd { c with phase := .ended, status := .busyInService })) ∧
    (testKind (c.fld 1 1) = some .region → c.fld 1 1 ≠ 2 → (s.region (c.fld 2 2)).state = .drained →
      ∃ d : Cmd, exec i s = .next ((s.putRegion (c.fld 2 2) { s.region (c.fld 2 2) with state := .testing, faultSeen := false }).putCmd d) ∧
        d.committed = true ∧ d.phase = .started ∧ nth 0 d.counts 0 = 1)) ∧
  (∀ (s v t : State) (q n duration : Nat) (c d : Cmd), s.runnable q n (fun c => Cmd.isOp 0x805 c && decide (0 < nth 0 c.counts 0)) = some c →
    testKind (c.fld 1 1) = some .region → (s.region (c.fld 2 2)).sound = true →
    v = s.putRegion (c.fld 2 2) { s.region (c.fld 2 2) with state := .drained, faultSeen := false } →
    commitWrites v c ⟨[(c.fld 8 8, natBytes 16 0 ++ natBytes 8 duration ++ natBytes 8 0)], 0⟩ = .ok (t, d) →
    exec (.testEnd q n [] [] duration) s = .next (t.putCmd { d with phase := .ended, status := .ok, units := d.units + 1 })) ∧
  (∀ (s t : State) (q n : Nat) (c d : Cmd) (h : Bytes), s.runnable q n (Cmd.isSub 0x805 3) = some c → c.done = [] → c.withheld = [] →
    h = (c.body.drop 16).take 32 ++ natBytes 2 s.lnk.position ++ natBytes 1 s.fitted ++ natBytes 1 s.boot.bank ++
      natBytes 4 (s.cellsFenced + s.blocksFenced) ++ natBytes 4 s.boot.svnMin ++ natBytes 4 0 ++ s.measure ++ s.boot.publicKey ++
      natBytes 8 (160 * s.cycles) ++ natBytes 40 0 →
    commitWrites s c ⟨[(c.fld 8 8, h ++ edSign s.boot.privateKey h)], 0⟩ = .ok (t, d) →
    exec (.serviceAttest q n) s = .next (t.putCmd { d with done := [0], units := d.units + 1, status := .ok, phase := .ended }))

/-- Collectives complete on the delivered members' data and record their number; groups are created and destroyed; PEER_PUT sends. ALLREDUCE,
REDUCE_SCATTER, ALLGATHER and RING_SHIFT whose peers' data has arrived, with pieces, reports and report committed: the row ends the command and the
group records its number as done; COLLECTIVE_PIECE_COMMIT commits the next piece alone, unless the throttle level is 9 or more and pauses it.
COLL_GROUP CREATE of a group not there makes the group of the listed positions with this module's rank and owner; DESTROY of one with no command in
flight removes it; each ends OK. PEER_PUT with every chunk sent ends with nothing changed but messages sent and the peer owing its visibility
acknowledgement. (R386, R388, R389, R391, R393, R396, R435.) -/
def Obligations.CollectiveRows : Prop :=
  (∀ (s t : State) (q n code : Nat) (c d : Cmd) (i : Instr) (members : List PeerTensor) (p : PeerTensor),
    ((i = .allreduce q n members ∧ code = 0x601) ∨ (i = .reduceScatter q n members ∧ code = 0x602) ∨ (i = .allgather q n members ∧ code = 0x603) ∨
     (i = .ringShift q n p ∧ code = 0x604 ∧ members = List.replicate (s.group c.coll.group).members.length p)) →
    s.runnable q n (Cmd.isOp code) = some c → (delivered s c members = true ∨ (s.group c.coll.group).done.contains c.coll.number = true) →
    (collOp members).outcome s c = some (t, d) →
    exec i s = .next (t.putCmd { d with phase := .ended }) ∧ d.status = .ok ∧ (t.group d.coll.group).done.contains d.coll.number = true ∧
    t.queues = s.queues ∧ t.threads = s.threads ∧ t.regions = s.regions ∧ t.cmds = s.cmds ∧ t.jnl = s.jnl) ∧
  (∀ (s t : State) (q n k : Nat) (c d : Cmd) (members : List PeerTensor),
    s.runnable q n (fun c => decide (0x601 ≤ c.opcode) && decide (c.opcode ≤ 0x604)) = some c → delivered s c members = true →
    (collOp members).nextUnit s c = some k → (collOp members).CommitsOne s c k t d →
    exec (.collectivePieceCommit q n members .goOn) s = .next (t.putCmd d) ∧
    (s.gov.throttle < 9 → exec (.collectivePieceCommit q n members .throttle) s = .next (t.putCmd d)) ∧
    (9 ≤ s.gov.throttle → exec (.collectivePieceCommit q n members .throttle) s = .next s)) ∧
  (∀ (s : State) (q n : Nat) (c e : Cmd) (ps : List Nat) (b : Bytes), c.done = [] → c.withheld = [] →
    e = { c with committed := true, wroteLocal := true, done := [0], units := c.units + 1, status := .ok, phase := .ended } →
    (s.runnable q n (Cmd.isSub 0x606 1) = some c → (s.group (c.fld 2 2)).exist = false → s.readBytes (c.fld 8 8) (2 * c.fld 4 2) = .ok b → ps = (pieces 2 b).map leNat →
      exec (.collGroupCreate q n) s =
        .next ((s.putGroup (c.fld 2 2) { exist := true, members := ps, rank := ps.idxOf s.lnk.position, owner := c.fld 16 4 }).putCmd e)) ∧
    (s.runnable q n (Cmd.isSub 0x606 2) = some c → (s.group (c.fld 2 2)).exist = true → (s.group (c.fld 2 2)).taken = [] →
      exec (.collGroupDestroy q n) s = .next ((s.putGroup (c.fld 2 2) {}).putCmd e))) ∧
  (∀ (s t : State) (q n : Nat) (c d : Cmd), s.runnable q n (Cmd.isOp 0x605) = some c → c.withheld = [] → peerPutOp.outcome s c = some (t, d) →
    exec (.peerPut q n) s = .next (t.putCmd { d with phase := .ended }) ∧
    SendsOnly { s with lnk := { s.lnk with unacked := t.lnk.unacked } } t ∧ d.status = (if 0 < nth 0 d.counts 0 then .limit else .ok))

/-- Signatures that agree let a collective run, others end it CHECK_FAIL; a silent peer LIMIT; a refusal by its target's answer. For a started collective
awaiting its signature: an equal one is agreed, another ends it CHECK_FAIL, recorded as CONTAINED, with nothing written but its report. A report of a
rank with pieces left is remembered. A peer's silence ends a command that needs it LIMIT, DST undefined; its report names the position (byte counts
undefined once it ran). RESTART of a number not recorded as done in a group of one runs the command again from its first piece, its counts at 0. A
peer's refusal ends the sending command WINDOW_FAULT, or UNMAPPED, and is CONTAINED in the collective page with the address. The messages' layouts are
the model's (log entry 18). (R385, R389, R395, R396, R397, R398.) -/
def Obligations.CollectiveMessages : Prop :=
  (∀ (s : State) (q n : Nat) (c : Cmd) (sig : Bytes), s.runnable q n awaitsSignature = some c →
    (sig = collSignature c → exec (.collSignatureReceive q n sig) s = .next (s.putCmd { c with coll := { c.coll with signed := true } })) ∧
    (sig ≠ collSignature c → c.isRing = false →
      (clReports c = false → exec (.collSignatureReceive q n sig) s =
        .next ((s.record pgColl .contained 0).putCmd { c with phase := .ended, status := .checkFail })) ∧
      (∀ (t : State) (d : Cmd), clReports c = true → commitWrites s c ⟨[(clReport c, natBytes 16 0 ++ natBytes 2 0xFFFF ++ natBytes 14 0)], 0⟩ = .ok (t, d) →
        exec (.collSignatureReceive q n sig) s = .next ((t.record pgColl .contained 0).putCmd { d with phase := .ended, status := .checkFail })))) ∧
  (∀ (s : State) (q n rank : Nat) (c : Cmd), s.runnable q n (fun c => decide (0x601 ≤ c.opcode) && decide (c.opcode ≤ 0x604)) = some c →
    (∃ k, k < clPieces c ∧ c.done.contains k = false) →
    exec (.collReportReceive q n rank) s = .next (s.putCmd { c with coll := { c.coll with reports := insertNat rank c.coll.reports } })) ∧
  (∀ (s : State) (q n p : Nat) (c : Cmd), s.runnable q n needsPeer = some c → c.opcode ≤ 0x604 → 0x601 ≤ c.opcode →
    (s.group c.coll.group).done.contains c.coll.number = false → p ∈ (s.group c.coll.group).others →
    (clReports c = false → exec (.collPeerTimeout q n p) s =
      .next ((s.openRange (clDst c).range.1 (clDst c).range.2).putCmd { c with phase := .ended, status := .limit })) ∧
    (∀ (t : State) (d : Cmd), clReports c = true →
      commitWrites (s.openRange (clDst c).range.1 (clDst c).range.2) c ⟨[(clReport c, natBytes 16 0 ++ natBytes 2 p ++ natBytes 14 0)], 0⟩ = .ok (t, d) →
      exec (.collPeerTimeout q n p) s =
        .next ((if c.coll.signed = true then t.openRange (clReport c) 16 else t).putCmd { d with phase := .ended, status := .limit }))) ∧
  (∀ (s : State) (q n p : Nat) (c : Cmd), s.runnable q n needsPeer = some c → c.opcode = 0x605 → p = c.fld 24 2 →
    exec (.collPeerTimeout q n p) s = .next (s.putCmd { c with phase := .ended, status := .limit })) ∧
  (∀ (s : State) (g k : Nat) (c : Cmd), s.alive = true → (s.group g).done.contains k = false → (s.group g).others = [] →
    s.cmds.find? (fun c => c.phase == .started && decide (0x601 ≤ c.opcode) && decide (c.opcode ≤ 0x604) && c.coll.group == g && c.coll.number == k) = some c →
    exec (.collRestartReceive g k) s =
      .next ((s.putCmd { c with done := [], sat := 0, units := 0, counts := [], coll := { group := g, number := k, restarted := true, signed := true } }).count pgColl 0x1602 1)) ∧
  (∀ (s : State) (q n p a : Nat) (unmapped : Bool) (c : Cmd), p ≠ s.lnk.position → s.cmd? q n = some c → s.alive = true →
    (c.phase = .started ∨ c.phase = .ended) → c.opcode = 0x605 → c.withheld = [] →
    exec (.peerRefusalReceive q n unmapped p a) s =
      .next ((s.record pgColl .contained a).putCmd { c with phase := .ended, status := if unmapped then .unmapped else .windowFault }))

/-- Window reads return the bytes stored; window writes store theirs alone; poisoned and unmapped granules as R333 says. A read of Ivory or Umber whose
granules are mapped and clean returns its bytes and changes nothing but the outbox. A write whose granules are mapped and clean in Ivory, memory in
its canonical form, leaves each byte it covers equal to the byte written and every other byte of Ivory and Slate, the bitmaps of open tracked ranges
apart, as it was. A read of a poisoned granule returns no data (a response error) and counts 0x1406; part of a poisoned granule is not written, sets
ERR_STS bit 19 and counts 0x1406; a read of an unmapped granule returns all-ones and sets bit 16. A register read of 8 aligned bytes returns the
register, a doorbell's address reads zero; one of another size reads all-ones and sets BAD_WRITE. (R12, R333, R236, R240, R473.) -/
def Obligations.WindowAccesses : Prop :=
  ∀ (s : State) (a n : Nat), s.answers = true → 0 < n →
    ((∀ g ∈ granulesOf a n, s.windowMapped g = true ∧ s.poisonedAt g = false) →
      ∃ t : State, exec (.windowRead false a n) s = .next t ∧ t = { s with outbox := s.outbox ++ [.windowData ((s.rawBytes a n).map some)], pages := t.pages }) ∧
    (∀ bs : Bytes, bs.length = n → (∀ g ∈ granulesOf a n, s.windowMapped g = true ∧ s.poisonedAt g = false) → a + n ≤ umberBase →
      s.mem.wf = true →
      ∃ t : State, exec (.windowWrite a bs) s = .next t ∧ SameElse s t ∧ (s.twin.state ≠ .filling → t.freeCount = s.freeCount) ∧
        (∀ i, i < n → some (t.rawByte (a + i)) = bs[i]?) ∧
        (∀ x, (x < umberBase ∨ (slateBase ≤ x ∧ x < 2 ^ 48)) → (x < a ∨ a + n ≤ x) → s.inBitmap x = false → t.rawByte x = s.rawByte x)) ∧
    (∀ bs : Bytes, bs.length = n → (∀ g ∈ granulesOf a n, s.tierOf g = some .umber ∧ s.poisonedAt g = false) →
      ∃ t : State, exec (.windowWrite a bs) s = .next t ∧ SameElse s t ∧ (s.twin.state ≠ .filling → t.freeCount = s.freeCount)) ∧
    (a / 64 = (a + n - 1) / 64 → s.windowMapped (a / 64 * 64) = true → s.poisonedAt (a / 64 * 64) = true →
      exec (.windowRead false a n) s = .next ((s.count pgPerast 0x1406 1).send (.windowData (List.replicate n none))) ∧
      (∀ bs : Bytes, bs.length = n → n < 64 →
        exec (.windowWrite a bs) s = .next ((s.raiseBlockBit pgPerast 19 (a / 64 * 64)).count pgPerast 0x1406 1))) ∧
    (a / 64 = (a + n - 1) / 64 → s.windowMapped (a / 64 * 64) = false →
      exec (.windowRead false a n) s =
        .next (((s.count pgPerast 0x1406 0).raiseBlockBit pgPerast 16 (a / 64 * 64)).send (.windowData (List.replicate n (some 0xFF)))) ∧
      (∀ bs : Bytes, bs.length = n → exec (.windowWrite a bs) s = .next (s.raiseBlockBit pgPerast 16 (a / 64 * 64)))) ∧
    (0x1000000 ≤ a → a + n ≤ 0x1200000 → exec (.windowRead true a n) s = .next (s.send (.windowData ((List.replicate n (0 : Byte)).map some)))) ∧
    ((a < 0x1000000 ∨ 0x1200000 ≤ a) → pageExists (a / 4096) = true → a % 8 = 0 → a ≠ 0x4140 → a ≠ 0x4148 → a ≠ 0x4150 →
      exec (.windowRead true a 8) s = .next (s.send (.windowData ((natBytes 8 (s.regRead .window a)).map some)))) ∧
    ((a < 0x1000000 ∨ 0x1200000 ≤ a) → pageExists (a / 4096) = true → n ≠ 4 → n ≠ 8 →
      exec (.windowRead true a n) s = .next (((s.badWrite (a / 4096) a).noteUnmapped a n).send (.windowData ((List.replicate n (0xFF : Byte)).map some))))

/-- Register writes: RW fields keep what is written, read-only registers nothing, and misplaced writes set BAD_WRITE. On both paths while the window
answers: the listed RW registers read back the written value's field bits, reserved bits zero, and nothing outside their register group changes; the
read-only header registers take no write; an access not of 8 aligned bytes sets BAD_WRITE with its offset; a page that does not exist records
UNMAPPED. ERR_MASK takes the value; ERR_STS_CLEAR clears the bits written 1 that the hardware does not set in the same cycle, which stay or become
set, and unlatches ERR_INFO with its bit; EV_CLEAR zeroes the page's counters, EV_FREEZE stops them; an injected CORRECTED error is recorded as
injected. A pending further error sends one more error interrupt while the summary is not zero. (R13, R15, R16, R473, R475, R479, R480, R481, R483,
R489.) -/
def Obligations.RegisterWrites : Prop :=
  ∀ s : State, s.answers = true →
    (∀ (path : Path) (v hw : Word) (r m : Nat),
      (r, m) ∈ [(0x1110, 0xFFFFFFFFF000), (0x1128, 0xFFFFFFFFF000), (0x5118, 0x3F), (0x5138, 0x3), (0x900120, 0x3FF), (0x900130, 0xFFFF),
                (0xA00110, 0xFFFFF), (0xA00118, 0x7), (0xA00130, 0x1F), (0x108, 0x107FF)] → s.silent (r / 4096) = false →
      ∃ t : State, exec (.registerWrite path r 8 ⟨v, hw⟩) s = .next t ∧ t.regRead path r = v.toNat &&& m ∧
        t = { s with boot := t.boot, twin := t.twin, tow := t.tow, lnk := t.lnk, errIrqEnable := t.errIrqEnable, errIrqVec := t.errIrqVec }) ∧
    (∀ (path : Path) (v hw : Word) (p o : Nat), pageExists p = true → o ∈ [0x000, 0x008, 0x010, 0x020, 0x040, 0x048, 0x0C0] →
      exec (.registerWrite path (p * 4096 + o) 8 ⟨v, hw⟩) s = .next s) ∧
    (∀ (path : Path) (v hw : Word) (p : Nat), pageExists p = true →
      exec (.registerWrite path (p * 4096 + 0x030) 8 ⟨v, hw⟩) s = .next (s.modPage p (fun h => { h with errMask := v }))) ∧
    (∀ (path : Path) (v hw : Word) (off size : Nat), (off < 0x1000000 ∨ 0x1200000 ≤ off) → pageExists (off / 4096) = true →
      (size ≠ 8 ∨ off % 8 ≠ 0) → exec (.registerWrite path off size ⟨v, hw⟩) s = .next ((s.badWrite (off / 4096) off).noteUnmapped off size)) ∧
    (∀ (path : Path) (v hw : Word) (off size : Nat), (off < 0x1000000 ∨ 0x1200000 ≤ off) → pageExists (off / 4096) = false → 0 < size →
      exec (.registerWrite path off size ⟨v, hw⟩) s = .next (s.raiseBlockBit pgPerast 16 (off / 64 * 64))) ∧
    (∀ (p : Nat) (v hwSet : Word), pageExists p = true →
      ((∀ b ∈ errBits p, hasBit hwSet b = true → hasBit (s.page p).errSts b = true) →
        exec (.errStsClear p v hwSet) s = .next (s.modPage p (fun h => { h with
          errSts := h.errSts &&& ~~~(v &&& ~~~hwSet), latched := h.latched && hasBit (h.errSts &&& ~~~(v &&& ~~~hwSet)) h.infoBit }))) ∧
      (∀ b ∈ errBits p, hasBit hwSet b = true → ∃ t : State, exec (.errStsClear p v hwSet) s = .next t ∧ hasBit (t.page p).errSts b = true)) ∧
    (∀ p : Nat, pageExists p = true →
      exec (.evClear p) s = .next (s.modPage p (fun h => { h with ev := h.ev.map (fun e => (e.1, { e.2 with count := 0 })) })) ∧
      (∀ on : Bool, exec (.evFreeze p on) s = .next (s.modPage p (fun h => { h with evFreeze := on })))) ∧
    (∀ (p : Nat) (v : Word), pageExists p = true → v.toNat.testBit 8 = true → v.toNat % 4 = 0 →
      s.pageState p ≠ .off → s.pageState p ≠ .fencedOut → s.pageState p ≠ .testing →
      exec (.errInject p v) s = .next (s.recordIn p .corrected 0 true)) ∧
    (s.errIrqEnable = true → s.errIrqMore = true → (∃ e ∈ s.pages, e.2.errSts &&& ~~~e.2.errMask ≠ 0) →
      exec .errorIrqRepeat s = .next { s with outbox := s.outbox ++ [.irq s.errIrqVec], errIrqMore := false })

/-- The window and Greyline each have their own QCTX_SEL: a QCTX_DATA access addresses the word its own path selected. For every state in which the window
answers, both paths p and every value: a write of QCTX_SEL on p sets p's queue and word, as the register then reads, and leaves the other path's; a
read of QCTX_DATA on p returns the word that p has selected in the queue it has selected; a write of QCTX_DATA on p changes that queue's context or
none. So after p's write of QCTX_SEL, p's QCTX_DATA addresses the word just selected, whatever the other path writes between. (R487.) -/
def Obligations.EachPathSelectsItsOwnWord : Prop :=
  ∀ (s : State) (p : Path) (v w hw : Word), s.answers = true →
    (∃ t : State, exec (.registerWrite p 0x4128 8 ⟨v, hw⟩) s = .next t ∧ t = { s with per := t.per } ∧
      t.per.selQueue p = v.toNat % 2 ^ 18 ∧ t.per.selWord p = v.toNat / 2 ^ 24 % 16 ∧
      t.regRead p 0x4128 = t.per.selWord p * 2 ^ 24 + t.per.selQueue p ∧
      t.regRead p 0x4130 = (s.queue (v.toNat % 2 ^ 18)).word (v.toNat / 2 ^ 24 % 16) % 2 ^ 64 ∧
      ∀ p' : Path, p' ≠ p → t.per.selQueue p' = s.per.selQueue p' ∧ t.per.selWord p' = s.per.selWord p' ∧
        t.regRead p' 0x4128 = s.regRead p' 0x4128 ∧ t.regRead p' 0x4130 = s.regRead p' 0x4130) ∧
    s.regRead p 0x4130 = (s.queue (s.per.selQueue p)).word (s.per.selWord p) % 2 ^ 64 ∧
    exec (.registerWrite p 0x4130 8 ⟨w, hw⟩) s = exec (.qctxDataWrite p w) s ∧
    (exec (.qctxDataWrite p w) s =
        .next (s.putQueue (s.per.selQueue p) ((s.queue (s.per.selQueue p)).setWord (s.per.selWord p) w.toNat)) ∨
      exec (.qctxDataWrite p w) s = .next (s.modPage pgPerast (·.raiseBit 8 (s.per.selQueue p * 2 ^ 24 + 0x130) false)) ∨
      exec (.qctxDataWrite p w) s = .next s)

/-- Negative zero converts to −0 in every floating-point format and to 0 in every integer format. For every format, rounding mode and exponent: the code
of −0 in a floating-point format (the element format of SB8E included) has the sign bit alone, and that code reads as −0; in an integer format (the
element format of SB8I included) it is 0. Neither is counted as saturated. (R38.) -/
def Obligations.NegativeZeroIsKept : Prop :=
  (∀ (F : Fmt) (m : RMode) (e : Int), F.isInt = false → F.isBlock = false →
    encElem F m (.fin true 0 e) = ⟨2 ^ (8 * F.bytes - 1), 0⟩ ∧ ∃ k : Int, decElem F (2 ^ (8 * F.bytes - 1)) = .fin true 0 k) ∧
  (∀ (F : Fmt) (m : RMode) (e : Int), F.isInt = true → encElem F m (.fin true 0 e) = ⟨0, 0⟩) ∧
  (∀ (m : RMode) (e : Int) (sc : Nat), sc < 255 →
    encBlockElem .sb8e m sc (.fin true 0 e) = ⟨0x80, 0⟩ ∧ (∃ k : Int, decBlockElem .sb8e 0x80 sc = .fin true 0 k) ∧
    encBlockElem .sb8i m sc (.fin true 0 e) = ⟨0, 0⟩)

/-- Every number a format holds converts back to its own code; rounding gives a nearest multiple, ties to the even one. For every format but the block
formats, every code of its width that is no NaN and every rounding mode, stochastic ones included: encoding the number that the code spells gives that
code, and nothing is counted as saturated; so subnormals, signed zeros and infinities survive. Rounding m × 2^e to units of 2^u to nearest: no
multiple is nearer, and of two equally near it takes the even one. (R34, R35, R36, R44, R46, R47.) -/
def Obligations.FormatsRoundTripAndRoundToNearest : Prop :=
  (∀ (F : Fmt) (mode : RMode) (code : Nat), F.isBlock = false → code < 2 ^ (8 * F.bytes) → (decElem F code).isNan = false →
    encElem F mode (decElem F code) = ⟨code, 0⟩) ∧
  (∀ (m k q : Nat) (e : Int), q = roundUnits .rne m e (e + k) →
    2 * q * 2 ^ k ≤ 2 * m + 2 ^ k ∧ 2 * m ≤ 2 * q * 2 ^ k + 2 ^ k ∧
    ((2 * q * 2 ^ k = 2 * m + 2 ^ k ∨ 2 * m = 2 * q * 2 ^ k + 2 ^ k) → q % 2 = 0))

/-- Requests to Ivory and Umber are arbitrated and answered from memory; errors, patrols, refresh and self-refresh as R240 to R309 say. While the module
runs. A request that its arbiter does not grant waits: one of a lower class waits before it. IVORY_REQUEST and UMBER_REQUEST granted and without an
error, on a range nothing refuses: a read answers the range's bytes, a write (memory in its canonical form) stores them; the request waits no longer
and its port is the last of its class; a tower asked leaves self-refresh. A corrected error of Ivory is recorded CORRECTED and counted, and the read
still answers. ARB_PROMOTE puts a waiting request in class 1 and counts 0x0103. The patrols count their granule or pass. A refresh due while a step
runs is postponed up to POSTPONE_MAX (OWED rises, 0x2101), and at the limit all owed are issued; ten idle microseconds put a tower in self-refresh.
(R21, R23, R240, R242, R249, R252, R253, R308, R309, R429.) -/
def Obligations.MemoryRequests : Prop :=
  ∀ s : State, s.alive = true →
    (∀ (p : Port) (w : Bool) (a n r : Nat) (bs : Bytes) (e : ReadError) (x y : ArbReq), s.tierOf a = some .ivory → r = a / sliceSize →
      x = arbReq r false p.region p.requester p.request → y ∈ (s.region r).waiting → y.umber = false → x.same y = false →
      y.cls < ((s.region r).classed x).cls → exec (.ivoryRequest p w a n bs e) s = .next (s.queueRequest r x)) ∧
    (∀ (p : Port) (u : State) (a n r : Nat) (b : Bytes) (x : ArbReq), s.tierOf a = some .ivory → r = a / sliceSize →
      x = arbReq r false p.region p.requester p.request → (s.region r).grants x = true → u = s.grant r x → u.readBytes a n = .ok b →
      exec (.ivoryRequest p false a n [] .none) s =
        .next ((u.send (.served a false .ok b)).count (pgSlice r) (if r = p.region then 0x702 else 0x703) ((n + 63) / 64)) ∧
      exec (.ivoryRequest p false a n [] .single) s =
        .next (((((u.record (pgSlice r) .corrected a).count (pgSlice r) 0x701 1).send (.served a false .ok b)).count
          (pgSlice r) (if r = p.region then 0x702 else 0x703) ((n + 63) / 64)))) ∧
    (∀ (p : Port) (u : State) (a n r : Nat) (bs : Bytes) (x : ArbReq), s.tierOf a = some .ivory → r = a / sliceSize →
      x = arbReq r false p.region p.requester p.request → (s.region r).grants x = true → u = s.grant r x →
      u.refusal a bs.length true = none → s.mem.wf = true →
      ∃ t : State, exec (.ivoryRequest p true a n bs .none) s = .next t ∧ SameElse u t ∧ t.outbox.getLast? = some (.served a true .ok []) ∧
        (∀ i, i < bs.length → some (t.rawByte (a + i)) = bs[i]?) ∧
        (∀ x, x < umberBase → (x < a ∨ a + bs.length ≤ x) → s.inBitmap x = false → t.rawByte x = s.rawByte x)) ∧
    (∀ (turn : UmberTurn) (u : State) (a n w : Nat), s.tierOf a = some .umber → turn.error = .none →
      ((turn.port = none ∧ u = s) ∨ (∃ (p : Port) (x : ArbReq), turn.port = some p ∧ x = arbReq p.region true p.region p.requester p.request ∧
        (s.region p.region).grants x = true ∧ u = s.grant p.region x)) →
      s.tow.readAt (s.placeOf (a - umberBase)).1 ((s.placeOf (a - umberBase)).2 / 4096) = some w →
      (∀ b : Bytes, u.readBytes a n = .ok b → exec (.umberRequest false a n [] turn) s =
        .next ((u.putTower w { u.tower w with selfRefresh := false, unanswered := 0 }).send (.served a false .ok b))) ∧
      (∀ bs : Bytes, u.refusal a bs.length true = none → s.mem.wf = true →
        ∃ t : State, exec (.umberRequest true a n bs turn) s = .next t ∧ t.outbox.getLast? = some (.served a true .ok []) ∧
          t.tow = (u.putTower w { u.tower w with selfRefresh := false, unanswered := 0 }).tow ∧ SameElse { u with tow := t.tow } t ∧
          (∀ x, (x < umberBase ∨ (slateBase ≤ x ∧ x < 2 ^ 48)) → s.inBitmap x = false → t.rawByte x = s.rawByte x))) ∧
    (∀ (p : Port) (path : PortPath) (x : ArbReq) (u : State),
      x = arbReq p.region (path.umber && path.source.isNone) ((path.source.map (·.val)).getD p.region) p.requester p.request →
      u = s.queueRequest p.region x →
      exec (.arbPromote p path) s = .next (if ((u.region p.region).classed x).cls = 1 then s else
        (u.putRegion p.region { u.region p.region with
          waiting := (u.region p.region).waiting.map (fun y => if x.same y then { y with cls := 1 } else y) }).count (pgRegion p.region) 0x103 1)) ∧
    (∀ a : Nat, s.tierOf a = some .ivory → s.tow.ivoryScrubMin ≠ 0 →
      exec (.ivoryPatrolStep a .none) s =
        .next ({ s with tow := { s.tow with ivoryPatrol := s.tow.ivoryPatrol + 1 } }.count (pgSlice (a / sliceSize)) 0x704 1)) ∧
    (∀ (n : Fin 18) (i j : Nat), s.towerFitted n = true → (s.tower n).failed = false → s.tow.scrubHours ≠ 0 →
      exec (.umberPatrolStep n i j .clean) s =
        .next (if s.tow.umberPatrol + 1 < s.patrolTowers * 2 ^ 24 * 64 then { s with tow := { s.tow with umberPatrol := s.tow.umberPatrol + 1 } }
          else { s with tow := { s.tow with umberPatrol := 0 } }.count pgComplex 0x2001 1)) ∧
    (∀ t : Fin 18, s.towerFitted t = true → (s.tower t).failed = false →
      (s.unitBusy t = false → exec (.towerSelfRefreshEntry t) s = .next (s.putTower t { s.tower t with selfRefresh := true })) ∧
      ((s.tower t).selfRefresh = false → s.unitBusy t = true → (s.tower t).owed < (s.tower t).postponeMax →
        exec (.refreshDue t) s = .next ((s.putTower t { s.tower t with owed := (s.tower t).owed + 1 }).count (pgTower t) 0x2101 1)) ∧
      ((s.tower t).selfRefresh = false → s.unitBusy t = true → (s.tower t).postponeMax ≤ (s.tower t).owed →
        exec (.refreshDue t) s = .next ((s.putTower t { s.tower t with owed := 0 }).count (pgTower t) 0x2102 1)) ∧
      (s.unitBusy t = false → exec (.refreshDue t) s = .next s))

/-- TOWER_CTL, SEG_DATA and TOWER_FAIL act as their fields say; unanswered requests and calibrations are noted. TOWER_CTL with FLUSH takes its three
fields and flushes every parity line. SEG_DATA sets the selected segment's GRANULE, codes 0 to 9; another code, or a segment that does not exist, sets
BAD_WRITE and changes nothing. TOWER_FAIL with GO names a tower for detection, or sets BAD_WRITE for one not fitted. The first unanswered request of a
tower is counted, the second in a row is a failure to detect. A ZQ calibration in time changes nothing, a late one sets CAL_LATE; a timing trim pauses
one tower at a time and ends. (R243, R246, R253, R268, R269, R467.) -/
def Obligations.TowerRegistersAndCalibration : Prop :=
  ∀ s : State,
    (s.answers = true →
      (∀ v : Word, v.toNat.testBit 8 = true → exec (.towerCtlFlush v) s =
        .next ({ s with tow := { s.tow with ivoryScrubMin := bitsOf v.toNat 31 24, scrubHours := bitsOf v.toNat 23 16, rebuildShare := bitsOf v.toNat 1 0 } }.flushParity)) ∧
      (∀ v : Word, v.toNat % 16 ≤ 9 → s.tow.segSel < s.dataTowers * 64 →
        exec (.segDataWrite v) s = .next { s with mem := { s.mem with granule := tabSet 1 s.mem.granule s.tow.segSel (v.toNat % 16) } }) ∧
      (∀ v : Word, (9 < v.toNat % 16 ∨ s.dataTowers * 64 ≤ s.tow.segSel) → exec (.segDataWrite v) s = .next (s.badWrite pgComplex 0x128)) ∧
      (∀ (v : Word) (t : Nat), v.toNat.testBit 8 = true → t = v.toNat % 32 →
        (s.towerFitted t = true → (s.tower t).failed = false → exec (.towerFailWrite v) s = .next (s.putTower t { s.tower t with failFound := true })) ∧
        (s.towerFitted t = false → exec (.towerFailWrite v) s = .next (s.badWrite pgComplex 0x118)))) ∧
    (s.fed = true → ∀ t : Fin 18, s.towerFitted t = true → (s.tower t).failed = false →
      ((s.tower t).unanswered = 0 → exec (.towerRequestTimeout t) s = .next (s.putTower t { s.tower t with unanswered := 1 })) ∧
      (∀ u : Tower, u = { s.tower t with unanswered := 0 } → (s.putTower t u).tower t = u → (s.tower t).unanswered = 1 →
        exec (.towerRequestTimeout t) s = .next ((s.putTower t u).putTower t { u with failFound := true })) ∧
      exec (.towerZqCal t false) s = .next s ∧
      exec (.towerZqCal t true) s = .next (s.raiseBlockBit (pgTower t) 16 0) ∧
      ((s.tow.towers.any (fun w => w.2.trimming)) = false → s.tow.sts ≠ .rebuilding →
        exec (.towerTimingTrim t false false) s = .next (s.putTower t { s.tower t with trimming := true })) ∧
      exec (.towerTimingTrim t true false) s = .next (s.putTower t { s.tower t with trimming := false }) ∧
      exec (.towerTimingTrim t false true) s = .next (s.raiseBlockBit (pgTower t) 16 0))

/-- A failed tower is fenced and TOWER_STS moves on; rebuild, recomputation and resync go stripe by stripe to their end. While fed and not stopped, a
failure found of tower t: it is fenced and its commands leave it. A data tower or T16: FULL becomes REBUILDING with LOST_A = t, the parity buffer
flushed; PARITY becomes DEGRADED; REBUILDING becomes LOST with LOST_B = t from CURSOR on, recorded CONTAINED; in DEGRADED and LOST the module stops.
T17: FULL becomes PARITY, PARITY and REBUILDING become DEGRADED. The spare's wake flushes the parity buffer. A rebuild step writes the missing block
to T17 and moves CURSOR, and the last ends in PARITY with T17 in the lost tower's place; recomputation and resync move CURSOR and end; a resync step
from FULL leaves the stripe's parity equal to the XOR of its data towers. (R246, R248, R253, R254, R257, R258, R259.) -/
def Obligations.TowerFailures : Prop :=
  ∀ s : State, s.fed = true →
    (∀ (t : Fin 18) (F : State), (s.tower t).failFound = true → (s.tower t).failed = false →
      F = { s.putTower t { s.tower t with failed := true, failFound := false, owed := 0, cmds := [] } with
        cmds := s.cmds.map (fun c => { c with towers := c.towers.filter (· != t.val) }) } →
      (t.val ≠ 17 → s.tow.sts = .full → exec (.towerFailDetect t) s =
        .next (State.recordUp { F.flushParity with tow := { F.flushParity.tow with sts := .rebuilding, lostA := t, cursor := 0, running := true, spareAwake := false } } (pgTower t) .corrected 0)) ∧
      (t.val ≠ 17 → s.tow.sts = .parity → exec (.towerFailDetect t) s =
        .next (State.recordUp { F with tow := { F.tow with sts := .degraded, lostA := t, cursor := 0, running := false } } (pgTower t) .corrected 0)) ∧
      (t.val ≠ 17 → s.tow.sts = .rebuilding → exec (.towerFailDetect t) s =
        .next (State.recordUp { F with tow := { F.tow with
          sts := .lost, lostB := t, spareFor := 0x1F, lostValid := true, lostFrom := s.tow.cursor, lostAFrom := s.tow.cursor, running := true,
          pausedRunning := false, pausedCursor := 0 } } (pgTower t) .contained 0)) ∧
      ((s.tow.sts = .degraded ∨ s.tow.sts = .lost) →
        exec (.towerFailDetect t) s = .next (F.deviceStopAt (pgTower t) 0) ∧ (F.deviceStopAt (pgTower t) 0).deviceStop = true) ∧
      (t.val = 17 → s.tow.sts = .full → exec (.towerFailDetect t) s =
        .next (State.recordUp { F with tow := { F.tow with sts := .parity, spareFor := 0x1F } } (pgTower t) .corrected 0)) ∧
      (t.val = 17 → s.tow.sts = .parity → exec (.towerFailDetect t) s =
        .next (State.recordUp { F with tow := { F.tow with
          sts := .degraded, lostA := s.tow.spareFor, spareFor := 0x1F, cursor := 0, running := false } } (pgTower t) .corrected 0)) ∧
      (t.val = 17 → s.tow.sts = .rebuilding → exec (.towerFailDetect t) s =
        .next (State.recordUp { F with tow := { F.tow with sts := .degraded, spareFor := 0x1F, cursor := 0, running := false } } (pgTower t) .corrected 0))) ∧
    (s.tow.sts = .rebuilding → s.tow.spareAwake = false → exec .spareWakeDone s =
      .next { s.flushParity with tow := { s.flushParity.tow with
        towers := tabSet {} s.flushParity.tow.towers 17 { s.tower 17 with selfRefresh := false }, spareAwake := true } }) ∧
    (s.tow.sts = .rebuilding → s.tow.spareAwake = true → s.tow.lostA ≠ 16 → s.mem.wf = true →
      ∃ t : State, exec .rebuildStripe s = .next t ∧
        t.tow = (if s.tow.cursor + 1 < 2 ^ 24 then { s.tow with cursor := s.tow.cursor + 1 }
          else { s.tow with sts := .parity, spareFor := s.tow.lostA, lostA := 0x1F, cursor := 0, running := false }) ∧
        (∀ j, j < 4096 → t.mem.cell (towerKey 17 (s.tow.cursor * 4096 + j)) = s.reconstruct s.tow.lostA (s.tow.cursor * 4096 + j)) ∧
        (∀ key, (key < towerKey 17 (s.tow.cursor * 4096) ∨ towerKey 17 (s.tow.cursor * 4096) + 4096 ≤ key) → t.mem.cell key = s.mem.cell key)) ∧
    (s.tow.sts = .lost → s.tow.running = true →
      ∃ t : State, exec .lostStripeRecompute s = .next t ∧ t.mem = (s.recomputeLost s.tow.cursor).mem ∧
        t.tow = (if s.tow.cursor + 1 < 2 ^ 24 then { s.tow with cursor := s.tow.cursor + 1 } else { s.tow with cursor := 0, running := false })) ∧
    (s.tow.sts = .unsynced →
      ∃ t : State, exec .resyncStripe s = .next t ∧
        t.tow = (if s.tow.cursor + 1 < s.tow.unsyncEnd then { s.tow with cursor := s.tow.cursor + 1 }
          else { s.tow with
            sts := s.tow.unsyncBack, cursor := if s.tow.pausedRunning then s.tow.pausedCursor else 0, running := s.tow.pausedRunning,
            pausedRunning := false, pausedCursor := 0 }) ∧
        (s.tow.unsyncBack = .full → s.mem.wf = true → ∀ j, j < 4096 →
          t.mem.cell (towerKey 16 (s.tow.cursor * 4096 + j)) = s.dataXor (s.tow.cursor * 4096 + j)))

/-- Failed cells and blocks are fenced and settled one level up; a failed region loses its work and its slice; the rest stops the module. While fed and
not stopped. A first column of a working array, a lane group with at least four left, a bank group: fenced and recorded CORRECTED in the block's page.
A bank of a region that stays complete: fenced, its slice poisoned, recorded CONTAINED one level up; CORRECTED likewise a check-value unit, a copy
engine with another of its direction, a tower's unit. REGION_FAIL of a region in service: FAULTED, every granule of its slice poisoned, no command has
work there, its threads are saved; with fewer than four regions left the module has stopped. A singular engine, the tower fabric or an uncorrectable
ring fault stop the module; a corrected ring fault is recorded. (R18, R19, R25, R26, R28, R91, R241.) -/
def Obligations.PartsThatFail : Prop :=
  ∀ s : State, s.fed = true →
    (∀ (r : Fin 8) (x k : Fin 4) (u : ArrayUnit), u = (s.region r).array x → u.fenced = false → u.colFenced = [] →
      exec (.cellFail (.arrayColumn r x k)) s = .next ((s.putRegion r ((s.region r).putArray x { u with
        colFenced := [(k.val, true)], suspect := none, run := u.run.map (fun w => { w with pass := 0, cols := 0, accs := w.accs.map (fun _ => {}) }) })).record
          (pgArray r x) .corrected 0)) ∧
    (∀ (r : Fin 8) (v : Fin 2) (k : Fin 8) (u : VectorUnit), u = (s.region r).vector v → u.fenced = false → tabGet false u.groupFenced k = false →
      u.groupFenced.length < 4 →
      exec (.cellFail (.laneGroup r v k)) s =
        .next ((s.putRegion r ((s.region r).putVector v { u with groupFenced := tabSet false u.groupFenced k true })).record (pgVector r v) .corrected 0)) ∧
    (∀ (t : Fin 18) (k : Fin 64), tabGet false (s.tower t).bankFenced k = false →
      exec (.cellFail (.bankGroup t k)) s =
        .next ((s.putTower t { s.tower t with bankFenced := tabSet false (s.tower t).bankFenced k true }).record (pgTower t) .corrected 0)) ∧
    (∀ (r : Fin 8) (b : Fin 16) (g : Region), g = { s.region r with bankFenced := tabSet false (s.region r).bankFenced b true } →
      tabGet false (s.region r).bankFenced b = false → g.complete = true → g.state = .inService →
      exec (.ivoryBankFail r b) s = .next (((s.poisonSlice r).putRegion r g).recordUp (pgSlice r) .contained 0) ∧
      exec (.cellFail (.ivoryBank r b)) s = .next (((s.poisonSlice r).putRegion r g).recordUp (pgSlice r) .contained 0)) ∧
    (∀ u : Fin 4, tabGet false s.checkFenced u = false →
      exec (.blockFail (.checkUnit u)) s = .next (State.recordUp { s with checkFenced := tabSet false s.checkFenced u true } (pgCheck u) .corrected 0)) ∧
    (∀ e : Fin 16, (s.engine e).state ≠ .fencedOut → State.enginesLeft { s with copy := tabSet {} s.copy e { state := .fencedOut } } (e / 8) ≠ 0 →
      exec (.blockFail (.copyEngine e)) s = .next (State.recordUp { s with copy := tabSet {} s.copy e { state := .fencedOut } } (pgCopy e) .corrected 0)) ∧
    (∀ t : Fin 18, (s.tower t).unitFenced = false →
      exec (.blockFail (.towerUnit t)) s = .next (State.recordUp { s.putTower t { s.tower t with unitFenced := true, cmds := [] } with
        cmds := s.cmds.map (fun c => { c with towers := c.towers.filter (· != t.val) }) } (pgTower t) .corrected 0)) ∧
    (∀ i : Fin 9, ∃ t : State, exec (.blockFail (.engine i)) s = .next t ∧ t.deviceStop = true ∧ t.mem = s.mem ∧ t.cmds = s.cmds ∧ t.queues = s.queues) ∧
    (∀ r : Fin 8, (s.region r).state = .inService →
      ∃ t : State, exec (.regionFail r) s = .next t ∧ (t.region r).state = .faulted ∧ (∀ c ∈ t.cmds, r.val ∉ c.regions) ∧
        (∀ w ∈ t.threads, w.region = r → w.saved = true) ∧ (∀ i, i < 2 ^ 22 → t.mem.ivoryPoisoned (r * 2 ^ 22 + i) = true) ∧
        (t.regionsIn.length < 4 ↔ t.deviceStop = true)) ∧
    exec (.ivoryRingFault false) s = .next (s.record pgService .corrected 0) ∧
    (∃ t : State, exec (.ivoryRingFault true) s = .next t ∧ t.deviceStop = true ∧ t.mem = s.mem ∧ t.cmds = s.cmds ∧ t.queues = s.queues) ∧
    (∃ t : State, exec .towerFabricFault s = .next t ∧ t.deviceStop = true ∧ t.mem = s.mem ∧ t.cmds = s.cmds ∧ t.queues = s.queues)

/-- DRAIN, ABORT, ENABLE, the end of a drain, admission and REGION_GATE move a page between its states; else BAD_WRITE. DRAIN of a region in service with
four others: DRAINING; ABORT too, and nothing holds work there any longer; with fewer than five in service both set BAD_WRITE. DRAIN of a tower's unit
sends its work to the logic die; of a copy engine with another of its direction, of the fabric: DRAINING. ENABLE takes a DRAINED page to ADMITTING (a
link or the fabric back into service) and sets BAD_WRITE in any other state. A draining region without work, and any other part without work, is
DRAINED. A sound ADMITTING region whose image fits comes into service with it, as do a tower's unit and a copy engine. REGION_GATE, when each region
it changes is DRAINED or OFF, takes effect as a whole, poisoning the slices it changes; otherwise BAD_WRITE. (R293, R428, R458, R459, R460, R461,
R485, R486.) -/
def Obligations.PageStates : Prop :=
  ∀ s : State,
    (s.answers = true →
      (∀ r : Fin 8, (s.region r).state = .inService → 5 ≤ s.regionsIn.length →
        (∃ t : State, exec (.pageDrain (pgRegion r)) s = .next t ∧ (t.region r).state = .draining ∧ (t.region r).aborting = false) ∧
        (∃ t : State, exec (.pageAbort (pgRegion r)) s = .next t ∧ (t.region r).state = .draining ∧ (t.region r).aborting = true ∧
          (∀ c ∈ t.cmds, r.val ∉ c.regions) ∧ (t.region r).walk = none ∧ (t.region r).arrays.all (fun u => u.2.run.isNone) = true ∧
          (t.region r).vectors.all (fun u => u.2.users.isEmpty) = true)) ∧
      (∀ r : Fin 8, ((s.region r).state ≠ .inService ∨ s.regionsIn.length < 5) →
        exec (.pageDrain (pgRegion r)) s = .next (s.badWrite (pgRegion r) 0x018) ∧
        exec (.pageAbort (pgRegion r)) s = .next (s.badWrite (pgRegion r) 0x018)) ∧
      (∀ t : Fin 18, s.pageState (pgTower t) = .inService →
        exec (.pageDrain (pgTower t)) s = .next { s.putTower t { s.tower t with unit := .draining, cmds := [] } with
          cmds := s.cmds.map (fun c => { c with towers := c.towers.filter (· != t.val) }) }) ∧
      (∀ e : Fin 16, (s.engine e).state = .inService → 2 ≤ s.enginesIn (e / 8) →
        exec (.pageDrain (pgCopy e)) s = .next { s with copy := tabSet {} s.copy e { state := .draining } }) ∧
      (s.lnk.fabric = .inService → s.twinned = false → s.twin.state ≠ .fillTarget →
        exec (.pageDrain pgFabric) s = .next { s with lnk := { s.lnk with fabric := .draining } }) ∧
      (∀ r : Fin 8, (s.region r).state = .drained → exec (.pageEnable (pgRegion r)) s = .next (s.putRegion r { s.region r with state := .admitting })) ∧
      (∀ t : Fin 18, s.pageState (pgTower t) = .drained →
        exec (.pageEnable (pgTower t)) s = .next (s.putTower t { s.tower t with unit := .admitting })) ∧
      (∀ p : Nat, pageExists p = true → s.pageState p ≠ .drained → exec (.pageEnable p) s = .next (s.badWrite p 0x018)) ∧
      (∀ v : Word, (∀ r, r < 8 → v.toNat.testBit r ≠ (s.region r).gated → (s.region r).state = .drained ∨ (s.region r).state = .off) →
        ∃ t : State, exec (.regionGateWrite v) s = .next t ∧ t = { s with regions := t.regions, mem := t.mem } ∧
          ∀ r, r < 8 → (t.region r).gated = v.toNat.testBit r ∧
            (v.toNat.testBit r = (s.region r).gated → (t.region r) = s.region r) ∧
            (v.toNat.testBit r ≠ (s.region r).gated → (t.region r).state = (if v.toNat.testBit r then .off else .drained) ∧
              ∀ i, i < 2 ^ 22 → t.mem.ivoryPoisoned (r * 2 ^ 22 + i) = true)) ∧
      (∀ (v : Word) (r : Nat), r < 8 → v.toNat.testBit r ≠ (s.region r).gated → (s.region r).state ≠ .drained → (s.region r).state ≠ .off →
        exec (.regionGateWrite v) s = .next (s.badWrite pgGov 0x128))) ∧
    (s.fed = true →
      (∀ r : Fin 8, (s.region r).state = .draining → s.boot.running = none → s.regionEmpty r = true →
        exec (.pageDrained (pgRegion r)) s = .next (s.putRegion r { s.region r with state := .drained, aborting := false })) ∧
      (∀ e : Fin 16, (s.engine e).state = .draining → (s.engine e).piece = none →
        exec (.pageDrained (pgCopy e)) s = .next { s with copy := tabSet {} s.copy e { s.engine e with state := .drained } }) ∧
      (∀ r : Fin 8, (s.region r).state = .admitting → s.boot.fits 2 = true → (s.region r).sound = true →
        exec (.pageAdmitDone (pgRegion r)) s =
          .next (s.putRegion r { s.region r with state := .inService, fw := (s.boot.image s.boot.preferred 2).take 256 })) ∧
      (∀ t : Fin 18, s.pageState (pgTower t) = .admitting → s.boot.fits 3 = true →
        exec (.pageAdmitDone (pgTower t)) s =
          .next (s.putTower t { s.tower t with unit := .inService, fw := (s.boot.image s.boot.preferred 3).take 256 })) ∧
      (∀ e : Fin 16, (s.engine e).state = .admitting →
        exec (.pageAdmitDone (pgCopy e)) s = .next { s with copy := tabSet {} s.copy e { s.engine e with state := .inService } }))

/-- The governor's ticks, the coolant, LOAD_NOTICE, the feed, the trip and I²C act as chapter 15 says. While powered on. The power tick keeps the
readings, and raises the cap's level above the effective cap or lowers it after 1 ms below 95 %; the thermal tick by TJ_TARGET, and 10 ms more than 3
°C below; the higher level is THROTTLE, and a change of it is a planned fall or a rise of a sixteenth of the estimate a level (log entry 46),
announced above NOTICE_W. Flow is watts × 60 over 4.186 × rise. COOLANT_WARN follows 1 s outside or inside both limits; NOTICE_HOLD_END starts the
held ramps; a settled estimate lowers the pins. FEED_SAMPLE sets FEED_HIGH above 60 V to 63 V; FEED_LOW caps at 1,200 W. FEED_LOSS raises both pins
and stops all work; its shutdown takes the links down and the power off. A trip stops the module with DEVICE and holds it. I²C takes I2C_CAP of 0 or
600 to 1,600 and refuses others; an index without data reads the map from there on (log entry 48). (R308, R426, R427, R430, R433, R434, R436, R437,
R438, R440, R442, R443.) -/
def Obligations.GovernorRows : Prop :=
  (∀ s : State, s.power = .on →
    (∀ (pin vin iin : Nat) (long : Bool) (cap l m : Nat),
      cap = (let a := if s.gov.i2cCap = 0 then s.gov.powerCap else min s.gov.powerCap s.gov.i2cCap; if s.gov.feedLow then min a 1200 else a) →
      l = (if cap < pin then min 15 (s.gov.capLevel + 1) else if long = true ∧ 100 * pin < 95 * cap then s.gov.capLevel - 1 else s.gov.capLevel) →
      m = max l s.gov.thermalLevel →
      exec (.govPowerTick pin vin iin long) s = .next ((State.expectFall { s with gov := { s.gov with
        pin := pin % 65536, vin := vin % 65536, iin := iin % 65536, capLevel := l, throttle := m
        state := if s.gov.feedLow then 3 else if m = 0 then 0 else if s.gov.thermalLevel ≤ l then 1 else 2 } }
        (s.gov.estimate * (m - s.gov.throttle) / 16)).expectRise (s.gov.estimate * (s.gov.throttle - m) / 16))) ∧
    (∀ (die tow inl outl predict : Int) (hot : List (Fin 18)) (long : Bool) (l m : Nat),
      l = (if (s.gov.tjTarget : Int) < predict then min 15 (s.gov.thermalLevel + 1)
        else if long = true ∧ predict + 3 < (s.gov.tjTarget : Int) then s.gov.thermalLevel - 1 else s.gov.thermalLevel) →
      m = max s.gov.capLevel l →
      exec (.govThermalTick die tow inl outl predict hot long) s = .next ((State.expectFall { s.markHot hot with gov := { s.gov with
        dieMax := die, towerMax := tow, inlet := inl, outlet := outl, diePredict := predict, thermalLevel := l, throttle := m
        state := if s.gov.feedLow then 3 else if m = 0 then 0 else if l ≤ s.gov.capLevel then 1 else 2 } }
        (s.gov.estimate * (m - s.gov.throttle) / 16)).expectRise (s.gov.estimate * (s.gov.throttle - m) / 16))) ∧
    (∀ w : Nat, 0 < w → s.gov.noticeW < w → s.gov.falls = [] → (s.expectFall w).gov.noticeDown = true ∧ s.expectFall w = { s with gov := (s.expectFall w).gov }) ∧
    (∀ w : Nat, 0 < w → s.gov.noticeW < w → s.gov.rises = [] → (s.expectRise w).gov.noticeUp = true ∧ (s.expectRise w).gov.holding = true) ∧
    (∀ w : Nat, w ≤ s.gov.noticeW → s.gov.falls = [] → s.gov.rises = [] → (s.expectFall w).gov.noticeDown = s.gov.noticeDown ∧
      (s.expectRise w).gov.noticeUp = s.gov.noticeUp ∧ (s.expectRise w).gov.holding = s.gov.holding) ∧
    (∀ watts rise : Nat, rise ≠ 0 →
      exec (.flowEstimate watts rise) s = .next { s with gov := { s.gov with flow := watts * 6000 / (4186 * rise) % 65536 } }) ∧
    (∀ watts : Nat, ∃ f : Nat, exec (.flowEstimate watts 0) s = .next { s with gov := { s.gov with flow := f }, freeCount := s.freeCount + 1 }) ∧
    (∀ on : Bool, (on = true ↔ (35 < s.gov.inlet ∨ s.gov.flow < 240)) →
      exec (.coolantWarn on) s = .next { s with gov := { s.gov with coolantWarn := on } }) ∧
    exec .noticeHoldEnd s = .next { s with gov := { s.gov with holding := false } } ∧
    exec .loadNoticeSettle s =
      .next { s with gov := { s.gov with noticeUp := s.gov.noticeUp && s.gov.holding, noticeDown := false, rises := [], falls := [] } } ∧
    (∀ mv : Nat, exec (.feedSample mv) s =
      .next (if 60000 < mv ∧ mv ≤ 63000 then State.raiseBlockBit { s with gov := { s.gov with vin := mv % 65536 } } pgGov 16 0
        else { s with gov := { s.gov with vin := mv % 65536 } })) ∧
    (∃ t : State, exec .feedLowEnter s = .next t ∧ t = { s with gov := t.gov } ∧ t.gov.feedLow = true ∧ t.gov.state = 3 ∧ t.gov.capEff ≤ 1200) ∧
    (∃ t : State, exec .feedLowExit s = .next t ∧ t = { s with gov := t.gov } ∧ t.gov.feedLow = false ∧ t.gov.state ≠ 3) ∧
    (∃ t : State, exec .feedLoss s = .next t ∧ t.power = .holdUp ∧ t.gov.noticeUp = true ∧ t.gov.noticeDown = true ∧ t.threads = [] ∧ t.fetches = [] ∧
      t.mem = s.mem ∧ t.jnl = s.jnl ∧ t.cmds = s.cmds ∧ t.queues = s.queues ∧ (∀ e ∈ t.copy, e.2.piece = none) ∧ (∀ w ∈ t.tow.towers, w.2.cmds = []) ∧
      (∀ g ∈ t.regions, g.2.walk = none ∧ (∀ a ∈ g.2.arrays, a.2.run = none) ∧ (∀ v ∈ g.2.vectors, v.2.users = []))) ∧
    (∀ (x : Sensor) (c : Int), ((∃ b, x = .buffer b) ∧ 100 ≤ c ∨ (¬ ∃ b, x = .buffer b) ∧ 105 ≤ c) →
      ∃ t : State, exec (.thermalTrip x c) s = .next t ∧ t.power = .tripped ∧ t.deviceStop = true ∧ t.grey.level = .locked ∧
        ∀ l, l < 24 → (t.link l).state = .down) ∧
    (∀ index : Nat, exec (.i2cWrite index []) s =
      .next { s with gov := { s.gov with i2cIndex := index % 256 }, outbox := s.outbox ++ [.i2c true (s.i2cRead (index % 256))] }) ∧
    s.i2cRead 0x14 = natBytes 2 s.gov.flow ++ natBytes 1 s.gov.throttle ++ natBytes 1 (bit s.gov.coolantWarn * 128 + s.gov.state) ++ natBytes 232 0 ∧
    (∀ bs : Bytes, bs.length = 2 → (leNat bs = 0 ∨ (600 ≤ leNat bs ∧ leNat bs ≤ 1600)) → exec (.i2cWrite 0x0C bs) s =
      .next { s with gov := { s.gov with i2cIndex := 0x0C, i2cCap := leNat bs }, outbox := s.outbox ++ [.i2c true []] }) ∧
    (∀ (index : Nat) (bs : Bytes), bs ≠ [] → (index ≠ 0x0C ∨ bs.length ≠ 2 ∨ (0 < leNat bs ∧ leNat bs < 600) ∨ 1600 < leNat bs) →
      exec (.i2cWrite index bs) s = .next { s with gov := { s.gov with i2cIndex := index % 256 }, outbox := s.outbox ++ [.i2c false []] })) ∧
  (∀ s : State, s.power = .holdUp → ∃ t : State, exec .feedLossShutdown s = .next t ∧ t.power = .off ∧ (∀ l, l < 24 → (t.link l).state = .down) ∧
    (s.hasPartner = true → s.deviceStop = false → Out.twin "STOP" [] [] ∈ t.outbox))

/-- The four resets, the boot, its lock and the firmware update leave what R446 to R455 and R462 say. A reset without its KEY sets BAD_WRITE; after a
DEVICE stop only cold reset and Purge are taken, others set REFUSED. Region reset of a region out of service resets its pages but for ERR_STS,
ERR_INFO, ERR_COUNT, and keeps queues, journal and memory, the parity buffer flushed; one in service drains first. Work reset holds every queue, saves
threads, ends fetches, scans the journal; forced, it closes handle queues and leaves the towers UNSYNCED. A cold reset that finds nothing broken
reaches AWAIT_CONFIG with no queue, command or lock, Slate kept; Purge, whose report has a place, empties the same, and sets BAD_WRITE otherwise.
BOOT_LOCK locks, runs and scans. Firmware staging writes the other bank, ACTIVATE prefers it, COMMIT_SVN never lowers the minimum. (R14, R437, R441,
R446, R447, R449, R450, R451, R452, R454, R462, R472.) -/
def Obligations.ResetRows : Prop :=
  (∀ s : State, s.answers = true →
    (∀ (k m : BitVec 8), k ≠ 0xA5 → exec (.regionReset .register k m) s = .next (s.badWrite pgBoot 0x100)) ∧
    (∀ k : BitVec 8, k ≠ 0xA5 → exec (.workReset .register k) s = .next (s.badWrite pgBoot 0x100)) ∧
    (s.deviceStop = true → (∀ m : BitVec 8, exec (.regionReset .register 0xA5 m) s = .next { s with boot := { s.boot with refused := true } }) ∧
      exec (.workReset .register 0xA5) s = .next { s with boot := { s.boot with refused := true } }) ∧
    (∀ r : Fin 8, s.deviceStop = false → s.boot.stage = .run → s.jnl.state ≠ .scanning → s.boot.running = none → s.twinned = false →
      ((s.region r).state ≠ .inService →
        ∃ t : State, exec (.regionReset .register 0xA5 (BitVec.ofNat 8 (2 ^ r.val))) s = .next t ∧
          t = { s.flushParity with pages := t.pages, regions := t.regions, boot := { s.boot with lastKind := 1, cause := 2 }
                                   grey := { fails := s.grey.fails, backingOff := s.grey.backingOff } } ∧
          t.pages = s.flushParity.pages.map (fun e => if pgRegion r ≤ e.1 ∧ e.1 < pgRegion r + 12 then (e.1, { e.2 with errMask := 0, ev := [], evFreeze := false, injectNext := false }) else e)) ∧
      ((s.region r).state = .inService →
        ∃ t : State, exec (.regionReset .register 0xA5 (BitVec.ofNat 8 (2 ^ r.val))) s = .next t ∧
          t.boot.lastKind = 1 ∧ t.queues = s.queues ∧ t.jnl = s.jnl ∧
          (((t.region r).state = .draining ∧ t.boot.running = some (1, 2 ^ r.val)) ∨ ((t.region r).state = .inService ∧ t.boot.running = none)))) ∧
    (s.deviceStop = false → s.boot.stage = .run → s.jnl.state ≠ .scanning → s.quiet = true → s.boot.running = none →
      ∃ t : State, exec (.workReset .register 0xA5) s = .next t ∧ t.boot.lastKind = 2 ∧ t.boot.running = none ∧ t.boot.forced = false ∧
        (∀ w ∈ t.threads, w.saved = true) ∧ t.fetches = [] ∧ t.ready = [] ∧ (∀ c ∈ t.cmds, c.phase ≠ .started) ∧ (s.threads = [] → t.hqs = s.hqs) ∧ t.mem.parity = [] ∧
        t.jnl.state = (if s.jnl.state = .broken then .broken else .scanning) ∧ (∀ e ∈ t.queues, e.2.state = .disabled ∨ e.2.state = .held)) ∧
    (s.boot.stage = .awaitConfig → s.per.sizeGib ≤ 4096 → ∀ v : Word, v.toNat.testBit 0 = true →
      exec (.bootLock v) s = .next { s with boot := { s.boot with stage := .run, locked := true }, jnl := { s.jnl with state := .scanning, afterCold := true } }) ∧
    (s.boot.stage ≠ .awaitConfig → ∀ v : Word, v.toNat.testBit 0 = true → exec (.bootLock v) s = .next (s.badWrite pgBoot 0x120)) ∧
    (s.boot.fwState = 2 → imCompat (s.boot.image (1 - s.boot.preferred) 1) = imCompat s.boot.fw →
      exec .fwActivate s = .next { s with boot := { s.boot with preferred := 1 - s.boot.preferred, fwState := 0 } }) ∧
    (s.boot.fwState = 2 → imCompat (s.boot.image (1 - s.boot.preferred) 1) ≠ imCompat s.boot.fw →
      exec .fwActivate s = .next { s with boot := { s.boot with fwFail := 6 } }) ∧
    (s.boot.fwState ≠ 2 → exec .fwActivate s = .next (s.badWrite pgBoot 0x130)) ∧
    exec .fwCommitSvn s = .next { s with boot := { s.boot with svnMin := max s.boot.svnMin (min (imSvn (s.boot.image s.boot.preferred 1))
      (min (imSvn (s.boot.image s.boot.preferred 2)) (imSvn (s.boot.image s.boot.preferred 3)))) } } ∧
    (s.alive = true → exec .fwStage s = .next { s with boot := { s.boot with fwState := 1, fwFail := 0 } } ∧
      (s.boot.fwState = 1 → ∀ (x y z : Bytes), s.bundleFrom (s.boot.fwLoadAddr * 4096) = .ok [x, y, z] →
        imFail s.boot 1 x = none → imFail s.boot 2 y = none → imFail s.boot 3 z = none → x.length + (y.length + z.length) ≤ bankBytes →
        ∃ t : State, exec (.fwStageDone true) s = .next t ∧ t = { s with boot := { s.boot with flash := t.boot.flash, fwState := 2, fwFail := 0 } } ∧
          t.boot.image (1 - s.boot.preferred) 1 = x ∧ t.boot.image (1 - s.boot.preferred) 2 = y ∧ t.boot.image (1 - s.boot.preferred) 3 = z) ∧
      (s.boot.fwState = 1 → ∀ e : Status, s.bundleFrom (s.boot.fwLoadAddr * 4096) = .error e →
        exec (.fwStageDone true) s = .next { s with boot := { s.boot with fwState := 3, fwFail := 2 } }))) ∧
  (∀ s : State, s.alive = true → (∃ m, s.boot.running = some (2, m)) →
    ∃ t : State, exec .workResetForced s = .next t ∧ t.boot.forced = true ∧ t.boot.running = none ∧ t.hqs = [] ∧ t.per.requests = [] ∧ t.mem.parity = [] ∧
      (¬ (s.tow.sts = .rebuilding ∧ s.tow.cursor = 0) → t.tow.sts = .unsynced ∧ t.tow.cursor = 0)) ∧
  (∀ (s : State) (b cause : Nat) (i : Instr), s.boot.bootBank = some b → s.boot.imageOk b 2 = true →
    imCompat (s.boot.image b 2) = imCompat ((s.boot.image b 1).take 256) → s.mem.wf = true →
    ((s.power = .on ∧ s.boot.stage ≠ .halted ∧ s.boot.stage ≠ .rom ∧ s.booting = false ∧ cause = 2 ∧ i = .coldReset .register 0xA5 {}) ∨
     (s.power = .off ∧ cause = 4 ∧ i = .feedReturnColdReset {}) ∨
     (s.power = .tripped ∧ cause = 5 ∧ i = .thermalResetRelease 84 {})) →
    ∃ t : State, exec i s = .next t ∧ t.power = .on ∧ t.boot.stage = .awaitConfig ∧ t.boot.locked = false ∧ t.boot.lastKind = 3 ∧ t.boot.cause = cause ∧ t.boot.bank = b ∧
    t.queues = [] ∧ t.cmds = [] ∧ t.deviceStop = false ∧ t.twin.state = .solo ∧ t.boot.svnMin = s.boot.svnMin ∧
    (∀ a, slateBase ≤ a → a < 2 ^ 48 → t.mem.cell a = s.mem.cell a) ∧ (∀ r, r < 8 → (t.region r).state = .inService)) ∧
  (∀ s : State, s.power = .on → s.boot.stage = .rom →
    exec (.coldReset .powerOn 0 { fuseOk := false }) s = .next ((s.coldBase 3 .powerOn).halt 2) ∧ ((s.coldBase 3 .powerOn).halt 2).boot.stage = .halted) ∧
  (∀ s : State, s.answers = true → s.purgeFits = true →
    ∃ t : State, exec (.purge .register 0xA5 {}) s = .next t ∧ t.boot.lastKind = 4 ∧ t.queues = [] ∧ t.cmds = [] ∧ t.twin.state = .solo) ∧
  (∀ s : State, s.answers = true → s.purgeFits = false → exec (.purge .register 0xA5 {}) s = .next (s.badWrite pgBoot 0x100))

/-- Flits are taken, refused or replayed; lanes and links fail, train, trim and go down; POSITION trains all links anew. While the module runs and has a
position: a flit with more than 5 bad bytes or a wrong CRC is answered with a NAK of the SEQ awaited; the flit awaited for this position is taken
once, opens its chunk or brings its payload, and frees what it acknowledges; a NAK replays the retry buffer from the SEQ named, and fails the link
with REASON 1 once that flit has been replayed 16 times. Silence, LINK_CTL.FAIL and a training timeout fail it with REASON 2, 5, 4. A first failed
data lane awaits the spare, whose training takes its place. A trained link reports its far end, twin links in USE 1, and is UNUSED when the far end
has no position. LINK_CTL.ENABLE 0 takes an idle link down, 1 trains a link that is down; RECAL names every working lane for a re-trim. A lane's trim
swaps a free spare in and out, else holds the link, and CAL_LATE marks a late one. POSITION is written only while the fabric is DRAINED; groups end
and every enabled link trains. (R372, R373, R374, R375, R376, R379, R383, R402, R467.) -/
def Obligations.LinkRows : Prop :=
  (∀ (s : State) (l : Fin 24) (k : Link), k = s.link l → s.alive = true → k.carries = true → s.lnk.position ≠ 0xFFFF →
    (∀ (b : Bytes) (bad : Nat) (opens : Option ChunkHead), (5 < bad ∨ (bad = 0 ∧ flitCrcOk b = false)) →
      exec (.flitReceive l b ⟨bad, opens⟩) s = .next { s with outbox := s.outbox ++ [.nak l k.rxSeq] }) ∧
    (∀ (b : Bytes) (bad : Nat) (opens : Option ChunkHead), 0 < bad → bad ≤ 5 →
      exec (.flitReceive l b ⟨bad, opens⟩) s = exec (.flitReceive l b ⟨0, opens⟩) ((s.count (pgLink l) 0x3103 bad).record (pgLink l) .corrected 0)) ∧
    (∀ (b : Bytes) (opens : Option ChunkHead), flitCrcOk b = true → flType b ≠ 0 → flSeq b = k.rxSeq → flDest b = s.lnk.position → k.enable = true →
      ∃ (kept more : List (Nat × Bytes)) (t : State), exec (.flitReceive l b ⟨0, opens⟩) s = .next t ∧
        SendsOnly { s with lnk := { s.lnk with ingress := t.lnk.ingress } } t ∧ (t.link l).rxSeq = (k.rxSeq + 1) % 1024 ∧
        (t.link l).retry = kept ++ more ∧ kept <:+ k.retry ∧ (flAck b ∉ k.retry.map (·.1) → kept = k.retry) ∧ (k.held = [] → more = []) ∧
        (∀ h : ChunkHead, flType b = 2 → opens = some h → t.inbound (flTag b) = { tag := flTag b, head := some h }) ∧
        (flType b = 1 → tabGet [] (t.inbound (flTag b)).flits (flIndex b) = sliceOf b 8 250 ∧
          (t.inbound (flTag b)).head = (s.inbound (flTag b)).head)) ∧
    (∀ n : BitVec 10, n.toNat ∈ k.retry.map (·.1) → tabGet 0 k.replays n.toNat < 16 →
      ∃ (t : State) (more : List Out), exec (.nakReceive l n) s = .next t ∧
        t.link l = { k with retry := k.retry.dropWhile (fun f => f.1 != n.toNat), replays := k.replayed (k.retry.dropWhile (fun f => f.1 != n.toNat)) } ∧
        t.outbox = s.outbox ++ (k.retry.dropWhile (fun f => f.1 != n.toNat)).map (fun f => .flit l f.1 f.2) ++ more) ∧
    (∀ n : BitVec 10, n.toNat ∈ k.retry.map (·.1) → 16 ≤ tabGet 0 k.replays n.toNat →
      ∃ t : State, exec (.nakReceive l n) s = .next t ∧ (t.link l).state = .failed ∧ (t.link l).reason = 1 ∧ (t.link l).retry = [])) ∧
  (∀ (s : State) (l : Fin 24) (k : Link), k = s.link l → s.fed = true →
    (k.carries = true → ∃ t : State, exec (.linkSilence l) s = .next t ∧ (t.link l).state = .failed ∧ (t.link l).reason = 2 ∧ (t.link l).retry = []) ∧
    (k.state = .training → ∃ t : State, exec (.linkTrainTimeout l) s = .next t ∧ (t.link l).state = .failed ∧ (t.link l).reason = 4 ∧ (t.link l).retry = []) ∧
    (∀ n : Fin 9, n.val < 8 → k.state = .up → k.failedLanes = [] →
      exec (.laneFail l n) s =
        .next (((s.putLink l { k with failedLanes := [(n.val, true)] }).record (pgLink l) .corrected 0).putLink l { k with
          failedLanes := [(n.val, true)], sparePending := true })) ∧
    (k.sparePending = true → ∃ t : State, exec (.spareLaneTrained l) s = .next t ∧
      (∃ more : List Out, t = { s with lnk := t.lnk, outbox := s.outbox ++ k.retry.map (fun f => .flit l f.1 f.2) ++ more, pages := t.pages
                                       errIrqMore := t.errIrqMore }) ∧
      t.link l = { k with sparePending := false, spareFor := (((List.range 8).filter (fun i => tabGet false k.failedLanes i)).head?).getD 0xF,
                                replays := k.replayed k.retry }) ∧
    (∀ far n : Nat, k.state = .training → k.failedLanes = [] → far < 0xFFFF →
      ∃ t : State, exec (.linkTrained l far n) s = .next t ∧ (t.link l).state = .up ∧ (t.link l).farPos = far ∧ (t.link l).farLink = n % 32 ∧
        (t.link l).retry = [] ∧ (far = twinOf s.lnk.position → far < 16384 → s.lnk.position < 16384 → (t.link l).use = 1)) ∧
    (∀ n : Nat, k.state = .training → k.failedLanes = [] →
      exec (.linkTrained l 0xFFFF n) s = .next (s.putLink l { k with
        state := .unused, use := 0, farPos := 0xFFFF, farLink := n % 32, spareFor := 0xF, txSeq := 0, rxSeq := 0, retry := [], held := [], replays := [] })) ∧
    (∀ n : Fin 9, n.val < 8 → k.carries = true → k.trimming = [] → tabGet false k.failedLanes n = false → s.trimFree l = true →
      k.spareFor = 0xF → k.spareOk = true → k.sparePending = false →
      exec (.linkLaneTrim l n false false) s = .next ((s.putLink l { k with trimming := [(n.val, true)], spareFor := n }).count (pgLink l) 0x3105 1)) ∧
    (∀ n : Fin 9, k.carries = true → k.trimming = [] → tabGet false k.failedLanes n = false → s.trimFree l = true →
      (n.val = 8 ∨ k.spareFor ≠ 0xF ∨ k.spareOk = false ∨ k.sparePending = true) →
      exec (.linkLaneTrim l n false false) s = .next (s.putLink l { k with trimming := [(n.val, true)] })) ∧
    (∀ n : Fin 9, k.carries = true → k.trimming = [(n.val, true)] → ∃ t : State, exec (.linkLaneTrim l n true false) s = .next (t.sendHeld l) ∧
      ((k.spareFor = n ∧ tabGet false k.failedLanes n = false) →
        t = (s.putLink l { k with trimming := [], recal := k.recal.filter (· != n.val), spareFor := 0xF }).count (pgLink l) 0x3105 1) ∧
      ((k.spareFor ≠ n ∨ tabGet false k.failedLanes n = true) → t = s.putLink l { k with trimming := [], recal := k.recal.filter (· != n.val) })) ∧
    (∀ n : Fin 9, tabGet false k.trimming n = false →
      exec (.linkLaneTrim l n false true) s = .next (s.raiseBlockBit (pgLink l) 16 0))) ∧
  (∀ (s : State) (l : Fin 24) (k : Link), k = s.link l → s.answers = true →
    (k.enable = true → k.state ≠ .failed →
      (∃ t : State, exec (.linkCtlFail l) s = .next t ∧ (t.link l).state = .failed ∧ (t.link l).reason = 5 ∧ (t.link l).retry = [])) ∧
    (k.enable = true → exec (.linkCtlRecal l) s =
      .next (s.putLink l { k with recal := (List.range 9).filter (fun i => !tabGet false k.failedLanes i) })) ∧
    (k.enable = false → exec (.linkCtlRecal l) s = .next (s.badWrite (pgLink l) 0x108)) ∧
    (k.enable = true → (k.retry ≠ [] ∨ k.held ≠ []) → exec (.linkCtlEnable l false) s = .next (s.putLink l { k with enable := false })) ∧
    (k.enable = true → k.retry = [] → k.held = [] → k.state ≠ .failed → ∃ t : State, exec (.linkCtlEnable l false) s = .next t ∧
      t = { s with lnk := { s.lnk with links := t.lnk.links } } ∧ t.link l = { k with enable := false, state := .down }) ∧
    (k.enable = false → k.state = .down → exec (.linkCtlEnable l true) s = .next (s.putLink l { k with enable := true, state := .training })) ∧
    (k.enable = false → k.state ≠ .down → exec (.linkCtlEnable l true) s = .next (s.putLink l { k with enable := true }))) ∧
  (∀ (s : State) (v : Word), s.answers = true →
    (s.lnk.fabric = .drained → v.toNat % 65536 ≠ s.lnk.position →
      ∃ t : State, exec (.positionWrite v) s = .next t ∧ t.lnk.position = v.toNat % 65536 ∧ t.lnk.groups = [] ∧
        (∀ l, l < 24 → (s.link l).enable = true → (s.link l).state ≠ .failed → (t.link l).state = .training) ∧
        t = { s with lnk := { s.lnk with position := v.toNat % 65536, groups := [], links := t.lnk.links } }) ∧
    (s.lnk.fabric ≠ .drained → exec (.positionWrite v) s = .next (s.badWrite pgFabric 0x100)))

/-- A peer's write or read is served inside one enabled window alone; a shard fetch answers the planes of the version wanted. A module without a position
takes no access. While the module runs with one: an access wholly inside one enabled window, the fabric in service, and mapped, is served: a write's
bytes, and its flag, stand in memory before the sender hears of receipt and visibility, a read returns the bytes. An access outside every window, or
unmapped, is refused: its sender hears so, ERR_STS bit 16 of the fabric is set and 0x3002 counted, and memory stays. A write whose chunk waits at the
ingress takes its bytes from there. SHARD FETCH of a shard that is neither BUSY nor broken answers its planes when VERSION is the one wanted, else
VERSION; of a BUSY one it is kept until the update completes. (R228, R377, R385, R386, R387.) -/
def Obligations.PeerAccesses : Prop :=
  (∀ (s : State), s.lnk.position = 0xFFFF →
    (∀ w : PeerWrite, exec (.peerWriteArrive w) s = .next s) ∧ (∀ source a n : Nat, exec (.peerReadArrive source a n) s = .next s)) ∧
  ∀ s : State, s.alive = true → s.lnk.position ≠ 0xFFFF →
    (∀ (w0 w : PeerWrite) (u v : State), s.takeIngress w0 = (u, w) → u.peerRefusal w.addr w.bytes.length = none → s.mem.wf = true →
      ((w.flag = none ∧ u.writeBytes w.addr w.bytes = .ok v) ∨
       (∃ (f : Nat × Nat) (x : State), w.flag = some f ∧ u.peerRefusal f.1 8 = none ∧ u.writeBytes w.addr w.bytes = .ok x ∧ x.raiseWord f.1 f.2 = .ok v)) →
      exec (.peerWriteArrive w0) s = .next ((v.sendPeer w.source "RECEIVED" [w.addr] []).sendPeer w.source "VISIBLE" [w.addr] []) ∧ SameElse u v ∧
      (w.flag = none →
        (w.addr + w.bytes.length ≤ umberBase ∨ (slateBase ≤ w.addr ∧ w.addr + w.bytes.length ≤ 2 ^ 48) →
          ∀ i, i < w.bytes.length → some (v.rawByte (w.addr + i)) = w.bytes[i]?) ∧
        (∀ x, (x < umberBase ∨ (slateBase ≤ x ∧ x < 2 ^ 48)) → (x < w.addr ∨ w.addr + w.bytes.length ≤ x) → s.inBitmap x = false →
          v.rawByte x = s.rawByte x))) ∧
    (∀ (w0 w : PeerWrite) (u : State) (un : Bool), s.takeIngress w0 = (u, w) → u.peerRefusal w.addr w.bytes.length = some un →
      exec (.peerWriteArrive w0) s =
        .next (((u.raiseBlockBit pgFabric 16 0).count pgFabric 0x3002 1).sendPeer w.source "REFUSED" [bit un, s.lnk.position, w.addr] [])) ∧
    (∀ w : PeerWrite, s.lnk.ingress.any (fun x => x.head.any (fun h => h.source == w.source && h.addr == w.addr)) = false → s.takeIngress w = (s, w)) ∧
    (∀ (source a n : Nat) (b : Bytes), s.peerRefusal a n = none → s.readBytes a n = .ok b →
      exec (.peerReadArrive source a n) s = .next (s.sendPeer source "DATA" [a] b)) ∧
    (∀ (source a n : Nat) (u : Bool), s.peerRefusal a n = some u →
      exec (.peerReadArrive source a n) s =
        .next (((s.raiseBlockBit pgFabric 16 0).count pgFabric 0x3002 1).sendPeer source "REFUSED" [bit u, s.lnk.position, a] [])) ∧
    (∀ a n : Nat, s.peerRefusal a n = some false ↔ ¬ (s.lnk.fabric = .inService ∧ ∃ w, w < 8 ∧ (s.peerWindow w).enable = true ∧ (s.peerWindow w).base ≤ a ∧
      a + n ≤ (s.peerWindow w).limit + 1)) ∧
    (∀ (source a want : Nat) (r : Shard) (w wt : Bytes), s.readBytes a 256 = .ok r.raw → r.addr = a →
      (r.busySeq ≠ 0 → exec (.shardFetchServe source a want) s = .next { s with shardWaits := s.shardWaits ++ [⟨source, a, want⟩] }) ∧
      (r.busySeq = 0 → r.phase = 0xFF → exec (.shardFetchServe source a want) s = .next (s.sendPeer source "SHARD_BROKEN" [a] [])) ∧
      (r.busySeq = 0 → r.phase ≠ 0xFF → r.version ≠ want →
        exec (.shardFetchServe source a want) s = .next (s.sendPeer source "SHARD_VERSION" [a, r.version] [])) ∧
      (r.busySeq = 0 → r.phase ≠ 0xFF → r.version = want → s.readBytes r.work.range.1 r.work.range.2 = .ok w →
        ((r.hasT = false ∧ wt = []) ∨ (r.hasT = true ∧ s.readBytes r.workT.range.1 r.workT.range.2 = .ok wt)) →
        exec (.shardFetchServe source a want) s = .next (s.sendPeer source "SHARD_PLANES" [a, want, w.length] (w ++ wt))))

/-- TWIN_CTL and the partner move TWIN_STS.STATE: pairing, its refusals, unpairing, losing the partner; failure events. PAIR from SOLO enters PAIRING and
sends this member's record, or as FILL_TARGET waits to be filled, or is refused with REFUSE 1 without an active position. A pairing record without a
finding makes PAIRED, or SHARED on one feed; one from another position than the twin's gives REFUSE 1, one on the same feed without both
SHARED_FEED_OK gives 3, silence gives 2, all back to SOLO. UNPAIR, sent or received, makes SOLO again. PARTNER_LOST, a missing acknowledgement and the
stop notice make ALONE with REASON 3, 1 or 4, and 2: nothing awaits an acknowledgement any longer and PARTNER_LOST is set. FAIL_EVENT keeps the last
64 cycle counts. The cycle count's grain is the model's choice (log entry 2). (R403, R404, R405, R407, R409, R410, R420, R425.) -/
def Obligations.TwinPairing : Prop :=
  (∀ (s u : State) (v : Word), s.answers = true → u = s.setTwinCtl v.toNat →
    (v.toNat % 8 = 1 → s.twin.state = .solo → s.lnk.position < 16384 → u.twin.fillTarget = false →
      exec (.twinPair v) s = .next (State.sendTwin { u with twin := { u.twin with state := .pairing, refuse := 0 } } "PAIR" u.pairWords u.pairBytes)) ∧
    (v.toNat % 8 = 1 → s.twin.state = .solo → s.lnk.position < 16384 → u.twin.fillTarget = true →
      exec (.twinPair v) s = .next (State.sendTwin { u with twin := { u.twin with
        state := .fillTarget, partnerPos := twinOf s.lnk.position, refuse := 0, adopting := false, adoptNotices := [], fillSync := false } }
        "FILL_TARGET" u.pairWords [])) ∧
    (v.toNat % 8 = 1 → s.twin.state = .solo → 16384 ≤ s.lnk.position →
      exec (.twinPair v) s = .next { u with twin := { u.twin with state := .solo, refuse := 1 } }) ∧
    (v.toNat % 8 = 1 → s.twin.state ≠ .solo → exec (.twinPair v) s = .next (u.badWrite pgTwin 0x100)) ∧
    (v.toNat % 8 = 2 → s.isPaired = true →
      ∃ t : State, exec (.twinUnpair v) s = .next t ∧ t.twin.state = .solo ∧ t.twin.partnerPos = 0xFFFF ∧ t.twin.unacked = [] ∧
        .twin "UNPAIR" [] [] ∈ t.outbox ∧ (∀ c ∈ t.cmds, c.noticed = true)) ∧
    (v.toNat % 8 = 3 → s.hasPartner = true →
      ∃ t : State, exec (.twinPartnerLost v) s = .next t ∧ t.twin.state = .alone ∧ t.twin.reason = 3 ∧ t.twin.unacked = [] ∧
        hasBit (t.page pgTwin).errSts 16 = true ∧ (∀ c ∈ t.cmds, c.noticed = true)) ∧
    (v.toNat.testBit 0 = true → ∃ es : List Nat, exec (.failEvent v) s = .next { s with twin := { s.twin with events := es } } ∧
      es <:+ s.twin.events ++ [160 * s.cycles] ∧ es.getLast? = some (160 * s.cycles) ∧ es.length = min 64 (s.twin.events.length + 1))) ∧
  (∀ s : State, s.alive = true →
    (∀ p : PairRecord, s.twin.state = .pairing → pairFinding s p = none →
      ∃ t : State, exec (.pairingRecordReceive p) s = .next t ∧ t.twin.state = (if p.feedId = s.twin.ownFeed then .shared else .paired) ∧
        t.twin.partnerPos = p.position ∧ t.twin.partnerFeed = p.feedId ∧ t.twin.unacked = [] ∧ t.twin.refuse = 0) ∧
    (∀ p : PairRecord, s.twin.state = .pairing → p.position ≠ twinOf s.lnk.position →
      exec (.pairingRecordReceive p) s =
        .next (State.sendTwin { s with twin := { s.twin with state := .solo, refuse := 1 } } "REFUSED" [1] [])) ∧
    (∀ p : PairRecord, s.twin.state = .pairing → p.position = twinOf s.lnk.position → s.lnk.position < 16384 → p.position < 16384 →
      p.feedId = s.twin.ownFeed → (p.sharedFeedOk = false ∨ s.twin.sharedFeedOk = false) →
      exec (.pairingRecordReceive p) s =
        .next (State.sendTwin { s with twin := { s.twin with state := .solo, refuse := 3 } } "REFUSED" [3] [])) ∧
    (s.twin.state = .pairing → exec .pairingTimeout s = .next { s with twin := { s.twin with state := .solo, refuse := 2 } }) ∧
    (s.isPaired = true → ∃ t : State, exec .unpairNoticeReceive s = .next t ∧ t.twin.state = .solo ∧ t.twin.partnerPos = 0xFFFF ∧ t.twin.unacked = [] ∧
      (∀ c ∈ t.cmds, c.noticed = true)) ∧
    (s.hasPartner = true → s.twin.unacked ≠ [] → ∀ noRoute : Bool,
      ∃ t : State, exec (.twinAckTimeout noRoute) s = .next t ∧ t.twin.state = .alone ∧ t.twin.reason = (if noRoute then 4 else 1) ∧ t.twin.unacked = [] ∧
        hasBit (t.page pgTwin).errSts 16 = true ∧ (∀ c ∈ t.cmds, c.noticed = true)) ∧
    (s.hasPartner = true → ∃ t : State, exec .stopNoticeReceive s = .next t ∧ t.twin.state = .alone ∧ t.twin.reason = 2 ∧ t.twin.unacked = [] ∧
      hasBit (t.page pgTwin).errSts 16 = true ∧ (∀ c ∈ t.cmds, c.noticed = true)))

/-- The partner's records and notices are kept and acknowledged; FILL, its blocks and JOIN take a spare into the pair. While the module runs: a partner's
commit notice, follower version and record are kept and acknowledged; a trim notice drops the records below it. An acknowledged commit notice lets its
command go on. FILL from ALONE lists the replicated blocks and the lost member's records; each FILL_BLOCK_SEND sends the next block, then the next
record, and once all are sent and acknowledged FILL_SYNC reads 1. A spare stores each block it receives and acknowledges it, and learns the feed of
its partner from the partner's record (log entry 43). JOIN pairs the survivor whose FILL_SYNC reads 1, and the spare, which then scans the journal it
took over. (R406, R407, R412, R413, R425.) -/
def Obligations.TwinFilling : Prop :=
  (∀ s : State, s.alive = true → s.per.linkUp = true → s.twinned = true →
    (∀ (r : Nat) (bs : Bytes), ∃ t : State, exec (.mirrorRecordReceive (.record r bs)) s = .next (t.sendTwin "ACK" [] []) ∧
      t.twin.mirrored = s.twin.mirrored.filter (fun x => x.1 != r) ++ [(r, bs)] ∧ t.cmds = s.cmds ∧ t.queues = s.queues ∧ t.jnl = s.jnl) ∧
    (∀ q n : Nat, exec (.mirrorRecordReceive (.commitNotice q n)) s = .next (State.sendTwin { s with
      twin := { s.twin with notices := s.twin.notices.filter (· != (q, n)) ++ [(q, n)] } } "ACK" [] [])) ∧
    (∀ a v : Nat, exec (.mirrorRecordReceive (.followerVersion a v)) s = .next (State.sendTwin { s with
      twin := { s.twin with followers := tabSet 0 s.twin.followers a v } } "ACK" [] [])) ∧
    (∀ r : Nat, ∃ t : State, exec (.mirrorRecordReceive (.trim r)) s = .next t ∧
      t.twin.mirrored = s.twin.mirrored.filter (fun x => decide (r ≤ x.1)) ∧ t.cmds = s.cmds ∧ t.queues = s.queues ∧ t.jnl = s.jnl) ∧
    (∀ (q n : Nat) (rest : List MirrorWait), s.twin.unacked = .notice q n :: rest → s.twin.state ≠ .filling →
      exec .twinAckReceive s = .next { s with
        twin := { s.twin with unacked := rest }, cmds := s.cmds.map (fun c => if c.q = q ∧ c.n = n then { c with noticed := true } else c) }) ∧
    (s.twin.state = .filling → ∀ rest : List MirrorWait, s.twin.unacked = .fill :: rest →
      exec .twinAckReceive s = .next { s with twin := { s.twin with
        unacked := rest, fillSync := s.twin.fillSync || (s.twin.fillLeft.isEmpty && s.twin.fillRecs.isEmpty && !rest.contains .fill) } })) ∧
  (∀ s : State, s.alive = true → s.twin.state = .filling →
    (∀ (b : Nat) (rest : List Nat), s.twin.fillLeft = b :: rest →
      exec .fillBlockSend s = .next { (s.sendTwin "FILL_BLOCK" (b * 1048576 :: (granulesOf (b * 1048576) 1048576).filter s.poisonedAt)
        (s.rawBytes (b * 1048576) 1048576)).count pgTwin 0x1504 1 with
          twin := { s.twin with fillLeft := s.twin.fillLeft.filter (· != b), unacked := s.twin.unacked ++ [.fill] } }) ∧
    (∀ (r : Nat) (bs : Bytes) (rest : List (Nat × Bytes)), s.twin.fillLeft = [] → s.twin.fillRecs = (r, bs) :: rest →
      exec .fillBlockSend s = .next { s.sendTwin "FILL_RECORD" [r] bs with
        twin := { s.twin with fillRecs := rest, unacked := s.twin.unacked ++ [.fill] } }) ∧
    (s.twin.fillLeft = [] → s.twin.fillRecs = [] → s.twin.unacked.contains .fill = false →
      exec .fillBlockSend s = .next { s with twin := { s.twin with fillSync := true } })) ∧
  (∀ (s u : State) (v : Word), s.answers = true → u = s.setTwinCtl v.toNat →
    (v.toNat % 8 = 4 → s.twin.state = .alone →
      ∃ t : State, exec (.twinFill v) s = .next t ∧ t.twin.state = .filling ∧ t.twin.fillLeft = s.twin.repBlocks ∧ t.twin.fillRecs = s.twin.mirrored ∧
        t.twin.unacked = [] ∧ t.twin.fillSync = (s.twin.repBlocks.isEmpty && s.twin.mirrored.isEmpty) ∧ t.cmds = s.cmds ∧ t.mem = s.mem ∧
        .twin "FILL" u.pairWords u.pairBytes ∈ t.outbox) ∧
    (v.toNat % 8 = 5 → s.twin.state = .filling → s.twin.fillSync = true →
      exec (.twinJoin v) s = .next { u with twin := { u.twin with
        state := if u.twin.sharedFeedOk = true ∧ s.twin.partnerFeed = s.twin.ownFeed then .shared else .paired, reason := 0, fillSync := false } }) ∧
    (v.toNat % 8 = 5 → s.twin.state = .fillTarget →
      exec (.twinJoin v) s = .next { u with
        twin := { u.twin with
          state := if u.twin.sharedFeedOk = true ∧ s.twin.partnerFeed = s.twin.ownFeed then .shared else .paired, reason := 0, fillSync := false, adopting := true }
        jnl := { s.jnl with state := .scanning, afterCold := true } }) ∧
    (v.toNat % 8 = 5 → s.mayJoin = false → exec (.twinJoin v) s = .next (u.badWrite pgTwin 0x100))) ∧
  (∀ s : State, s.alive = true → s.twin.state = .fillTarget →
    (∀ (a : Nat) (bs : Bytes), s.mappedRange a bs.length = true → s.mem.wf = true →
      ∃ t : State, exec (.fillBlockReceive (.block a bs [])) s = .next (t.sendTwin "ACK" [] []) ∧ SameElse s t ∧
        (a + bs.length ≤ umberBase ∨ (slateBase ≤ a ∧ a + bs.length ≤ 2 ^ 48) → ∀ i, i < bs.length → some (t.rawByte (a + i)) = bs[i]?)) ∧
    (∀ q n : Nat, exec (.fillBlockReceive (.notice q n)) s =
      .next { s with twin := { s.twin with adoptNotices := s.twin.adoptNotices ++ [(q, n)] } }) ∧
    (∀ p : PairRecord, p.position = twinOf s.lnk.position → ∃ t : State, exec (.pairingRecordReceive p) s = .next t ∧
      t.twin.state = .fillTarget ∧ t.twin.partnerFeed = p.feedId ∧ t.twin.partnerPos = p.position ∧ t.cmds = s.cmds ∧ t.queues = s.queues))

/-- Greyline answers by level: CHAL, UNLOCK, LOCK and BAUD always, registers and drains from OPERATE, Purge and SCAN from DEBUG. With the feed present,
tripped included: CHAL gives a nonce unless a failed UNLOCK's wait runs; UNLOCK with a good signature of the standing nonce opens OPERATE (key 0) or
DEBUG (key 1) and spends it, a bad one starts the wait; LOCK, ten idle minutes and a break lock; BAUD switches after its OK; an expired nonce is gone.
Below its level every other command answers ERR and changes nothing. From OPERATE: RD, CNT and PAGES return registers, WR writes one as the window
does, DRAIN, ABORT and ADMIT act as PAGE_CTL, RESET as RESET_CTL. From DEBUG: PURGE; SCAN, with every queue DISABLED and SOLO, zeroes the private key,
else ERR. The nonce's value is the command's operand (log entry 11). (R466, R468, R469, R470, R473.) -/
def Obligations.GreylineRows : Prop :=
  ∀ s : State, (s.power = .on ∨ s.power = .tripped) →
    (∀ nonce : Bytes, (s.grey.backingOff = false →
        exec (.greylineChal nonce) s = .next { s with grey := { s.grey with nonce := some nonce }, outbox := s.outbox ++ [.grey "OK" [] nonce] }) ∧
      (s.grey.backingOff = true → exec (.greylineChal nonce) s = .next { s with outbox := s.outbox ++ [.grey "ERR" [] []] })) ∧
    (∀ (k : Fin 2) (sig nonce pk : Bytes), s.grey.nonce = some nonce → s.boot.debugKeys[k.val]? = some pk →
      (edVerify pk (nonce ++ s.boot.idKey ++ natBytes 1 k) sig = true →
        exec (.greylineUnlock k sig) s = .next { s with
          grey := { s.grey with level := if k.val = 0 then .operate else .debug, nonce := none }, outbox := s.outbox ++ [.grey "OK" [] []] }) ∧
      (edVerify pk (nonce ++ s.boot.idKey ++ natBytes 1 k) sig = false →
        exec (.greylineUnlock k sig) s = .next { s with
          grey := { s.grey with nonce := none, fails := s.grey.fails + 1, backingOff := true }, outbox := s.outbox ++ [.grey "ERR" [] []] })) ∧
    exec .greylineLock s = .next { s with grey := { s.grey with level := .locked }, outbox := s.outbox ++ [.grey "OK" [] []] } ∧
    (∀ high : Bool, exec (.greylineBaud high) s = .next { s with grey := { s.grey with baudHigh := high }, outbox := s.outbox ++ [.grey "OK" [] []] }) ∧
    (∀ ms : Nat, 100 ≤ ms → exec (.greylineBreak ms) s = .next { s with grey := { s.grey with level := .locked, baudHigh := false } }) ∧
    exec .greylineIdleLock s = .next { s with grey := { s.grey with level := .locked } } ∧
    exec .greylineNonceExpiry s = .next { s with grey := { s.grey with nonce := none } } ∧
    exec .greylineBackoffEnd s = .next { s with grey := { s.grey with backingOff := false } } ∧
    (s.grey.level = .locked → ∀ (i : Instr), (∃ (o n : Nat) (v : RegData) (r : Fin 8) (k : Fin 3) (m : BitVec 8) (p : Post),
        i ∈ [.greylineRd o n, .greylineWr o v, .greylinePages, .greylineCnt o, .greylineDrain r, .greylineAbort r, .greylineAdmit r, .greylineReset k m p,
             .greylinePurge p, .greylineScan]) →
      exec i s = .next { s with outbox := s.outbox ++ [.grey "ERR" [] []] }) ∧
    (s.grey.level = .operate → (∀ p : Post, exec (.greylinePurge p) s = .next { s with outbox := s.outbox ++ [.grey "ERR" [] []] }) ∧
      exec .greylineScan s = .next { s with outbox := s.outbox ++ [.grey "ERR" [] []] }) ∧
    (s.grey.level ≠ .locked →
      (∀ o : Nat, o < 0x1000000 → pageExists (o / 4096) = true → o % 8 = 0 → o ≠ 0x4140 → o ≠ 0x4148 → o ≠ 0x4150 →
        exec (.greylineRd o 1) s = .next { s with outbox := s.outbox ++ [.grey "OK" [s.regRead .greyline o] []] }) ∧
      (∀ (o : Nat) (v : RegData), ∃ t : State, exec (.registerWrite .greyline o 8 v) s = .next t ∧
        exec (.greylineWr o v) s = .next { t with outbox := t.outbox ++ [.grey "OK" [] []] }) ∧
      exec .greylinePages s = .next { s with outbox := s.outbox ++ [.grey "OK" (pageList.flatMap (fun p =>
        [p * 4096, pageType p * 2 ^ 24 + pageGroup p * 2 ^ 16 + pageIndex p, (s.pageState p).code])) []] } ∧
      (∀ p : Nat, p < 0x1000 → pageExists p = true →
        exec (.greylineCnt (p * 4096)) s = .next { s with outbox := s.outbox ++ [.grey "OK" ([0x80, 0x88, 0x90, 0x98, 0xA0, 0xA8, 0xB0, 0xB8].map
          (fun o => s.headerRead p o % 2 ^ 64)) []] }) ∧
      (∀ r : Fin 8, ∃ d a e : State, d = s.pageDrain (pgRegion r) ∧ a = s.pageAbort (pgRegion r) ∧ e = s.pageEnable (pgRegion r) ∧
        exec (.greylineDrain r) s = .next { d with outbox := d.outbox ++ [.grey "OK" [] []] } ∧
        exec (.greylineAbort r) s = .next { a with outbox := a.outbox ++ [.grey "OK" [] []] } ∧
        exec (.greylineAdmit r) s = .next { e with outbox := e.outbox ++ [.grey "OK" [] []] }) ∧
      (∀ (m : BitVec 8) (p : Post) (u : State), u = { s with outbox := s.outbox ++ [.grey "OK" [] []] } →
        exec (.greylineReset 0 m p) s = exec (.regionReset .greyline 0 m) u ∧
        exec (.greylineReset 1 m p) s = exec (.workReset .greyline 0) u ∧
        exec (.greylineReset 2 m p) s = exec (.coldReset .greyline 0 p) u)) ∧
    (s.grey.level = .debug →
      (∀ (p : Post) (u : State), u = { s with outbox := s.outbox ++ [.grey "OK" [] []] } → exec (.greylinePurge p) s = exec (.purge .greyline 0 p) u) ∧
      ((∀ e ∈ s.queues, e.2.state = .disabled) → s.twin.state = .solo →
        exec .greylineScan s = .next { s with
          boot := { s.boot with privateKey := [], seedOpen := false, scanned := true }, outbox := s.outbox ++ [.grey "OK" [] []] }) ∧
      ((∃ e ∈ s.queues, e.2.state ≠ .disabled) → exec .greylineScan s = .next { s with outbox := s.outbox ++ [.grey "ERR" [] []] }))
end

