-- ==== Sys2Proof/Laws/State.lean ====
section
/-! SUPPORT. What each update of the state leaves and what it writes: one lemma per field and update, each true by `rfl`. -/

namespace Sys2Proof.Machine

/-! ### withMem -/

@[simp] theorem State.withMem_part (s : State) (m : Mem) : (s.withMem m).part = s.part := rfl
@[simp] theorem State.withMem_power (s : State) (m : Mem) : (s.withMem m).power = s.power := rfl
@[simp] theorem State.withMem_deviceStop (s : State) (m : Mem) : (s.withMem m).deviceStop = s.deviceStop := rfl
@[simp] theorem State.withMem_cycles (s : State) (m : Mem) : (s.withMem m).cycles = s.cycles := rfl
@[simp] theorem State.withMem_freeCount (s : State) (m : Mem) : (s.withMem m).freeCount = s.freeCount := rfl
@[simp] theorem State.withMem_mem (s : State) (m : Mem) : (s.withMem m).mem = m := rfl
@[simp] theorem State.withMem_tow (s : State) (m : Mem) : (s.withMem m).tow = s.tow := rfl
@[simp] theorem State.withMem_regions (s : State) (m : Mem) : (s.withMem m).regions = s.regions := rfl
@[simp] theorem State.withMem_copy (s : State) (m : Mem) : (s.withMem m).copy = s.copy := rfl
@[simp] theorem State.withMem_checkFenced (s : State) (m : Mem) : (s.withMem m).checkFenced = s.checkFenced := rfl
@[simp] theorem State.withMem_pages (s : State) (m : Mem) : (s.withMem m).pages = s.pages := rfl
@[simp] theorem State.withMem_errIrqEnable (s : State) (m : Mem) : (s.withMem m).errIrqEnable = s.errIrqEnable := rfl
@[simp] theorem State.withMem_errIrqVec (s : State) (m : Mem) : (s.withMem m).errIrqVec = s.errIrqVec := rfl
@[simp] theorem State.withMem_errIrqMore (s : State) (m : Mem) : (s.withMem m).errIrqMore = s.errIrqMore := rfl
@[simp] theorem State.withMem_queues (s : State) (m : Mem) : (s.withMem m).queues = s.queues := rfl
@[simp] theorem State.withMem_fetches (s : State) (m : Mem) : (s.withMem m).fetches = s.fetches := rfl
@[simp] theorem State.withMem_ready (s : State) (m : Mem) : (s.withMem m).ready = s.ready := rfl
@[simp] theorem State.withMem_rrQueue (s : State) (m : Mem) : (s.withMem m).rrQueue = s.rrQueue := rfl
@[simp] theorem State.withMem_cmds (s : State) (m : Mem) : (s.withMem m).cmds = s.cmds := rfl
@[simp] theorem State.withMem_jnl (s : State) (m : Mem) : (s.withMem m).jnl = s.jnl := rfl
@[simp] theorem State.withMem_per (s : State) (m : Mem) : (s.withMem m).per = s.per := rfl
@[simp] theorem State.withMem_threads (s : State) (m : Mem) : (s.withMem m).threads = s.threads := rfl
@[simp] theorem State.withMem_hqs (s : State) (m : Mem) : (s.withMem m).hqs = s.hqs := rfl
@[simp] theorem State.withMem_pools (s : State) (m : Mem) : (s.withMem m).pools = s.pools := rfl
@[simp] theorem State.withMem_tracks (s : State) (m : Mem) : (s.withMem m).tracks = s.tracks := rfl
@[simp] theorem State.withMem_shards (s : State) (m : Mem) : (s.withMem m).shards = s.shards := rfl
@[simp] theorem State.withMem_shardWaits (s : State) (m : Mem) : (s.withMem m).shardWaits = s.shardWaits := rfl
@[simp] theorem State.withMem_lnk (s : State) (m : Mem) : (s.withMem m).lnk = s.lnk := rfl
@[simp] theorem State.withMem_twin (s : State) (m : Mem) : (s.withMem m).twin = s.twin := rfl
@[simp] theorem State.withMem_gov (s : State) (m : Mem) : (s.withMem m).gov = s.gov := rfl
@[simp] theorem State.withMem_boot (s : State) (m : Mem) : (s.withMem m).boot = s.boot := rfl
@[simp] theorem State.withMem_grey (s : State) (m : Mem) : (s.withMem m).grey = s.grey := rfl
@[simp] theorem State.withMem_outbox (s : State) (m : Mem) : (s.withMem m).outbox = s.outbox := rfl
@[simp] theorem State.withMem_pending (s : State) (m : Mem) : (s.withMem m).pending = s.pending := rfl

/-! ### putRegion -/

@[simp] theorem State.putRegion_part (s : State) (r : Nat) (g : Region) : (s.putRegion r g).part = s.part := rfl
@[simp] theorem State.putRegion_power (s : State) (r : Nat) (g : Region) : (s.putRegion r g).power = s.power := rfl
@[simp] theorem State.putRegion_deviceStop (s : State) (r : Nat) (g : Region) : (s.putRegion r g).deviceStop = s.deviceStop := rfl
@[simp] theorem State.putRegion_cycles (s : State) (r : Nat) (g : Region) : (s.putRegion r g).cycles = s.cycles := rfl
@[simp] theorem State.putRegion_freeCount (s : State) (r : Nat) (g : Region) : (s.putRegion r g).freeCount = s.freeCount := rfl
@[simp] theorem State.putRegion_mem (s : State) (r : Nat) (g : Region) : (s.putRegion r g).mem = s.mem := rfl
@[simp] theorem State.putRegion_tow (s : State) (r : Nat) (g : Region) : (s.putRegion r g).tow = s.tow := rfl
@[simp] theorem State.putRegion_regions (s : State) (r : Nat) (g : Region) : (s.putRegion r g).regions = tabSet {} s.regions r g := rfl
@[simp] theorem State.putRegion_copy (s : State) (r : Nat) (g : Region) : (s.putRegion r g).copy = s.copy := rfl
@[simp] theorem State.putRegion_checkFenced (s : State) (r : Nat) (g : Region) : (s.putRegion r g).checkFenced = s.checkFenced := rfl
@[simp] theorem State.putRegion_pages (s : State) (r : Nat) (g : Region) : (s.putRegion r g).pages = s.pages := rfl
@[simp] theorem State.putRegion_errIrqEnable (s : State) (r : Nat) (g : Region) : (s.putRegion r g).errIrqEnable = s.errIrqEnable := rfl
@[simp] theorem State.putRegion_errIrqVec (s : State) (r : Nat) (g : Region) : (s.putRegion r g).errIrqVec = s.errIrqVec := rfl
@[simp] theorem State.putRegion_errIrqMore (s : State) (r : Nat) (g : Region) : (s.putRegion r g).errIrqMore = s.errIrqMore := rfl
@[simp] theorem State.putRegion_queues (s : State) (r : Nat) (g : Region) : (s.putRegion r g).queues = s.queues := rfl
@[simp] theorem State.putRegion_fetches (s : State) (r : Nat) (g : Region) : (s.putRegion r g).fetches = s.fetches := rfl
@[simp] theorem State.putRegion_ready (s : State) (r : Nat) (g : Region) : (s.putRegion r g).ready = s.ready := rfl
@[simp] theorem State.putRegion_rrQueue (s : State) (r : Nat) (g : Region) : (s.putRegion r g).rrQueue = s.rrQueue := rfl
@[simp] theorem State.putRegion_cmds (s : State) (r : Nat) (g : Region) : (s.putRegion r g).cmds = s.cmds := rfl
@[simp] theorem State.putRegion_jnl (s : State) (r : Nat) (g : Region) : (s.putRegion r g).jnl = s.jnl := rfl
@[simp] theorem State.putRegion_per (s : State) (r : Nat) (g : Region) : (s.putRegion r g).per = s.per := rfl
@[simp] theorem State.putRegion_threads (s : State) (r : Nat) (g : Region) : (s.putRegion r g).threads = s.threads := rfl
@[simp] theorem State.putRegion_hqs (s : State) (r : Nat) (g : Region) : (s.putRegion r g).hqs = s.hqs := rfl
@[simp] theorem State.putRegion_pools (s : State) (r : Nat) (g : Region) : (s.putRegion r g).pools = s.pools := rfl
@[simp] theorem State.putRegion_tracks (s : State) (r : Nat) (g : Region) : (s.putRegion r g).tracks = s.tracks := rfl
@[simp] theorem State.putRegion_shards (s : State) (r : Nat) (g : Region) : (s.putRegion r g).shards = s.shards := rfl
@[simp] theorem State.putRegion_shardWaits (s : State) (r : Nat) (g : Region) : (s.putRegion r g).shardWaits = s.shardWaits := rfl
@[simp] theorem State.putRegion_lnk (s : State) (r : Nat) (g : Region) : (s.putRegion r g).lnk = s.lnk := rfl
@[simp] theorem State.putRegion_twin (s : State) (r : Nat) (g : Region) : (s.putRegion r g).twin = s.twin := rfl
@[simp] theorem State.putRegion_gov (s : State) (r : Nat) (g : Region) : (s.putRegion r g).gov = s.gov := rfl
@[simp] theorem State.putRegion_boot (s : State) (r : Nat) (g : Region) : (s.putRegion r g).boot = s.boot := rfl
@[simp] theorem State.putRegion_grey (s : State) (r : Nat) (g : Region) : (s.putRegion r g).grey = s.grey := rfl
@[simp] theorem State.putRegion_outbox (s : State) (r : Nat) (g : Region) : (s.putRegion r g).outbox = s.outbox := rfl
@[simp] theorem State.putRegion_pending (s : State) (r : Nat) (g : Region) : (s.putRegion r g).pending = s.pending := rfl

/-! ### putTower -/

@[simp] theorem State.putTower_part (s : State) (k : Nat) (w : Tower) : (s.putTower k w).part = s.part := rfl
@[simp] theorem State.putTower_power (s : State) (k : Nat) (w : Tower) : (s.putTower k w).power = s.power := rfl
@[simp] theorem State.putTower_deviceStop (s : State) (k : Nat) (w : Tower) : (s.putTower k w).deviceStop = s.deviceStop := rfl
@[simp] theorem State.putTower_cycles (s : State) (k : Nat) (w : Tower) : (s.putTower k w).cycles = s.cycles := rfl
@[simp] theorem State.putTower_freeCount (s : State) (k : Nat) (w : Tower) : (s.putTower k w).freeCount = s.freeCount := rfl
@[simp] theorem State.putTower_mem (s : State) (k : Nat) (w : Tower) : (s.putTower k w).mem = s.mem := rfl
@[simp] theorem State.putTower_tow (s : State) (k : Nat) (w : Tower) : (s.putTower k w).tow = { s.tow with towers := tabSet {} s.tow.towers k w } := rfl
@[simp] theorem State.putTower_regions (s : State) (k : Nat) (w : Tower) : (s.putTower k w).regions = s.regions := rfl
@[simp] theorem State.putTower_copy (s : State) (k : Nat) (w : Tower) : (s.putTower k w).copy = s.copy := rfl
@[simp] theorem State.putTower_checkFenced (s : State) (k : Nat) (w : Tower) : (s.putTower k w).checkFenced = s.checkFenced := rfl
@[simp] theorem State.putTower_pages (s : State) (k : Nat) (w : Tower) : (s.putTower k w).pages = s.pages := rfl
@[simp] theorem State.putTower_errIrqEnable (s : State) (k : Nat) (w : Tower) : (s.putTower k w).errIrqEnable = s.errIrqEnable := rfl
@[simp] theorem State.putTower_errIrqVec (s : State) (k : Nat) (w : Tower) : (s.putTower k w).errIrqVec = s.errIrqVec := rfl
@[simp] theorem State.putTower_errIrqMore (s : State) (k : Nat) (w : Tower) : (s.putTower k w).errIrqMore = s.errIrqMore := rfl
@[simp] theorem State.putTower_queues (s : State) (k : Nat) (w : Tower) : (s.putTower k w).queues = s.queues := rfl
@[simp] theorem State.putTower_fetches (s : State) (k : Nat) (w : Tower) : (s.putTower k w).fetches = s.fetches := rfl
@[simp] theorem State.putTower_ready (s : State) (k : Nat) (w : Tower) : (s.putTower k w).ready = s.ready := rfl
@[simp] theorem State.putTower_rrQueue (s : State) (k : Nat) (w : Tower) : (s.putTower k w).rrQueue = s.rrQueue := rfl
@[simp] theorem State.putTower_cmds (s : State) (k : Nat) (w : Tower) : (s.putTower k w).cmds = s.cmds := rfl
@[simp] theorem State.putTower_jnl (s : State) (k : Nat) (w : Tower) : (s.putTower k w).jnl = s.jnl := rfl
@[simp] theorem State.putTower_per (s : State) (k : Nat) (w : Tower) : (s.putTower k w).per = s.per := rfl
@[simp] theorem State.putTower_threads (s : State) (k : Nat) (w : Tower) : (s.putTower k w).threads = s.threads := rfl
@[simp] theorem State.putTower_hqs (s : State) (k : Nat) (w : Tower) : (s.putTower k w).hqs = s.hqs := rfl
@[simp] theorem State.putTower_pools (s : State) (k : Nat) (w : Tower) : (s.putTower k w).pools = s.pools := rfl
@[simp] theorem State.putTower_tracks (s : State) (k : Nat) (w : Tower) : (s.putTower k w).tracks = s.tracks := rfl
@[simp] theorem State.putTower_shards (s : State) (k : Nat) (w : Tower) : (s.putTower k w).shards = s.shards := rfl
@[simp] theorem State.putTower_shardWaits (s : State) (k : Nat) (w : Tower) : (s.putTower k w).shardWaits = s.shardWaits := rfl
@[simp] theorem State.putTower_lnk (s : State) (k : Nat) (w : Tower) : (s.putTower k w).lnk = s.lnk := rfl
@[simp] theorem State.putTower_twin (s : State) (k : Nat) (w : Tower) : (s.putTower k w).twin = s.twin := rfl
@[simp] theorem State.putTower_gov (s : State) (k : Nat) (w : Tower) : (s.putTower k w).gov = s.gov := rfl
@[simp] theorem State.putTower_boot (s : State) (k : Nat) (w : Tower) : (s.putTower k w).boot = s.boot := rfl
@[simp] theorem State.putTower_grey (s : State) (k : Nat) (w : Tower) : (s.putTower k w).grey = s.grey := rfl
@[simp] theorem State.putTower_outbox (s : State) (k : Nat) (w : Tower) : (s.putTower k w).outbox = s.outbox := rfl
@[simp] theorem State.putTower_pending (s : State) (k : Nat) (w : Tower) : (s.putTower k w).pending = s.pending := rfl

/-! ### modTow -/

@[simp] theorem State.modTow_part (s : State) (f : TowerComplex → TowerComplex) : (s.modTow f).part = s.part := rfl
@[simp] theorem State.modTow_power (s : State) (f : TowerComplex → TowerComplex) : (s.modTow f).power = s.power := rfl
@[simp] theorem State.modTow_deviceStop (s : State) (f : TowerComplex → TowerComplex) : (s.modTow f).deviceStop = s.deviceStop := rfl
@[simp] theorem State.modTow_cycles (s : State) (f : TowerComplex → TowerComplex) : (s.modTow f).cycles = s.cycles := rfl
@[simp] theorem State.modTow_freeCount (s : State) (f : TowerComplex → TowerComplex) : (s.modTow f).freeCount = s.freeCount := rfl
@[simp] theorem State.modTow_mem (s : State) (f : TowerComplex → TowerComplex) : (s.modTow f).mem = s.mem := rfl
@[simp] theorem State.modTow_tow (s : State) (f : TowerComplex → TowerComplex) : (s.modTow f).tow = f s.tow := rfl
@[simp] theorem State.modTow_regions (s : State) (f : TowerComplex → TowerComplex) : (s.modTow f).regions = s.regions := rfl
@[simp] theorem State.modTow_copy (s : State) (f : TowerComplex → TowerComplex) : (s.modTow f).copy = s.copy := rfl
@[simp] theorem State.modTow_checkFenced (s : State) (f : TowerComplex → TowerComplex) : (s.modTow f).checkFenced = s.checkFenced := rfl
@[simp] theorem State.modTow_pages (s : State) (f : TowerComplex → TowerComplex) : (s.modTow f).pages = s.pages := rfl
@[simp] theorem State.modTow_errIrqEnable (s : State) (f : TowerComplex → TowerComplex) : (s.modTow f).errIrqEnable = s.errIrqEnable := rfl
@[simp] theorem State.modTow_errIrqVec (s : State) (f : TowerComplex → TowerComplex) : (s.modTow f).errIrqVec = s.errIrqVec := rfl
@[simp] theorem State.modTow_errIrqMore (s : State) (f : TowerComplex → TowerComplex) : (s.modTow f).errIrqMore = s.errIrqMore := rfl
@[simp] theorem State.modTow_queues (s : State) (f : TowerComplex → TowerComplex) : (s.modTow f).queues = s.queues := rfl
@[simp] theorem State.modTow_fetches (s : State) (f : TowerComplex → TowerComplex) : (s.modTow f).fetches = s.fetches := rfl
@[simp] theorem State.modTow_ready (s : State) (f : TowerComplex → TowerComplex) : (s.modTow f).ready = s.ready := rfl
@[simp] theorem State.modTow_rrQueue (s : State) (f : TowerComplex → TowerComplex) : (s.modTow f).rrQueue = s.rrQueue := rfl
@[simp] theorem State.modTow_cmds (s : State) (f : TowerComplex → TowerComplex) : (s.modTow f).cmds = s.cmds := rfl
@[simp] theorem State.modTow_jnl (s : State) (f : TowerComplex → TowerComplex) : (s.modTow f).jnl = s.jnl := rfl
@[simp] theorem State.modTow_per (s : State) (f : TowerComplex → TowerComplex) : (s.modTow f).per = s.per := rfl
@[simp] theorem State.modTow_threads (s : State) (f : TowerComplex → TowerComplex) : (s.modTow f).threads = s.threads := rfl
@[simp] theorem State.modTow_hqs (s : State) (f : TowerComplex → TowerComplex) : (s.modTow f).hqs = s.hqs := rfl
@[simp] theorem State.modTow_pools (s : State) (f : TowerComplex → TowerComplex) : (s.modTow f).pools = s.pools := rfl
@[simp] theorem State.modTow_tracks (s : State) (f : TowerComplex → TowerComplex) : (s.modTow f).tracks = s.tracks := rfl
@[simp] theorem State.modTow_shards (s : State) (f : TowerComplex → TowerComplex) : (s.modTow f).shards = s.shards := rfl
@[simp] theorem State.modTow_shardWaits (s : State) (f : TowerComplex → TowerComplex) : (s.modTow f).shardWaits = s.shardWaits := rfl
@[simp] theorem State.modTow_lnk (s : State) (f : TowerComplex → TowerComplex) : (s.modTow f).lnk = s.lnk := rfl
@[simp] theorem State.modTow_twin (s : State) (f : TowerComplex → TowerComplex) : (s.modTow f).twin = s.twin := rfl
@[simp] theorem State.modTow_gov (s : State) (f : TowerComplex → TowerComplex) : (s.modTow f).gov = s.gov := rfl
@[simp] theorem State.modTow_boot (s : State) (f : TowerComplex → TowerComplex) : (s.modTow f).boot = s.boot := rfl
@[simp] theorem State.modTow_grey (s : State) (f : TowerComplex → TowerComplex) : (s.modTow f).grey = s.grey := rfl
@[simp] theorem State.modTow_outbox (s : State) (f : TowerComplex → TowerComplex) : (s.modTow f).outbox = s.outbox := rfl
@[simp] theorem State.modTow_pending (s : State) (f : TowerComplex → TowerComplex) : (s.modTow f).pending = s.pending := rfl

/-! ### putEngine -/

@[simp] theorem State.putEngine_part (s : State) (e : Nat) (x : CopyEngine) : (s.putEngine e x).part = s.part := rfl
@[simp] theorem State.putEngine_power (s : State) (e : Nat) (x : CopyEngine) : (s.putEngine e x).power = s.power := rfl
@[simp] theorem State.putEngine_deviceStop (s : State) (e : Nat) (x : CopyEngine) : (s.putEngine e x).deviceStop = s.deviceStop := rfl
@[simp] theorem State.putEngine_cycles (s : State) (e : Nat) (x : CopyEngine) : (s.putEngine e x).cycles = s.cycles := rfl
@[simp] theorem State.putEngine_freeCount (s : State) (e : Nat) (x : CopyEngine) : (s.putEngine e x).freeCount = s.freeCount := rfl
@[simp] theorem State.putEngine_mem (s : State) (e : Nat) (x : CopyEngine) : (s.putEngine e x).mem = s.mem := rfl
@[simp] theorem State.putEngine_tow (s : State) (e : Nat) (x : CopyEngine) : (s.putEngine e x).tow = s.tow := rfl
@[simp] theorem State.putEngine_regions (s : State) (e : Nat) (x : CopyEngine) : (s.putEngine e x).regions = s.regions := rfl
@[simp] theorem State.putEngine_copy (s : State) (e : Nat) (x : CopyEngine) : (s.putEngine e x).copy = tabSet {} s.copy e x := rfl
@[simp] theorem State.putEngine_checkFenced (s : State) (e : Nat) (x : CopyEngine) : (s.putEngine e x).checkFenced = s.checkFenced := rfl
@[simp] theorem State.putEngine_pages (s : State) (e : Nat) (x : CopyEngine) : (s.putEngine e x).pages = s.pages := rfl
@[simp] theorem State.putEngine_errIrqEnable (s : State) (e : Nat) (x : CopyEngine) : (s.putEngine e x).errIrqEnable = s.errIrqEnable := rfl
@[simp] theorem State.putEngine_errIrqVec (s : State) (e : Nat) (x : CopyEngine) : (s.putEngine e x).errIrqVec = s.errIrqVec := rfl
@[simp] theorem State.putEngine_errIrqMore (s : State) (e : Nat) (x : CopyEngine) : (s.putEngine e x).errIrqMore = s.errIrqMore := rfl
@[simp] theorem State.putEngine_queues (s : State) (e : Nat) (x : CopyEngine) : (s.putEngine e x).queues = s.queues := rfl
@[simp] theorem State.putEngine_fetches (s : State) (e : Nat) (x : CopyEngine) : (s.putEngine e x).fetches = s.fetches := rfl
@[simp] theorem State.putEngine_ready (s : State) (e : Nat) (x : CopyEngine) : (s.putEngine e x).ready = s.ready := rfl
@[simp] theorem State.putEngine_rrQueue (s : State) (e : Nat) (x : CopyEngine) : (s.putEngine e x).rrQueue = s.rrQueue := rfl
@[simp] theorem State.putEngine_cmds (s : State) (e : Nat) (x : CopyEngine) : (s.putEngine e x).cmds = s.cmds := rfl
@[simp] theorem State.putEngine_jnl (s : State) (e : Nat) (x : CopyEngine) : (s.putEngine e x).jnl = s.jnl := rfl
@[simp] theorem State.putEngine_per (s : State) (e : Nat) (x : CopyEngine) : (s.putEngine e x).per = s.per := rfl
@[simp] theorem State.putEngine_threads (s : State) (e : Nat) (x : CopyEngine) : (s.putEngine e x).threads = s.threads := rfl
@[simp] theorem State.putEngine_hqs (s : State) (e : Nat) (x : CopyEngine) : (s.putEngine e x).hqs = s.hqs := rfl
@[simp] theorem State.putEngine_pools (s : State) (e : Nat) (x : CopyEngine) : (s.putEngine e x).pools = s.pools := rfl
@[simp] theorem State.putEngine_tracks (s : State) (e : Nat) (x : CopyEngine) : (s.putEngine e x).tracks = s.tracks := rfl
@[simp] theorem State.putEngine_shards (s : State) (e : Nat) (x : CopyEngine) : (s.putEngine e x).shards = s.shards := rfl
@[simp] theorem State.putEngine_shardWaits (s : State) (e : Nat) (x : CopyEngine) : (s.putEngine e x).shardWaits = s.shardWaits := rfl
@[simp] theorem State.putEngine_lnk (s : State) (e : Nat) (x : CopyEngine) : (s.putEngine e x).lnk = s.lnk := rfl
@[simp] theorem State.putEngine_twin (s : State) (e : Nat) (x : CopyEngine) : (s.putEngine e x).twin = s.twin := rfl
@[simp] theorem State.putEngine_gov (s : State) (e : Nat) (x : CopyEngine) : (s.putEngine e x).gov = s.gov := rfl
@[simp] theorem State.putEngine_boot (s : State) (e : Nat) (x : CopyEngine) : (s.putEngine e x).boot = s.boot := rfl
@[simp] theorem State.putEngine_grey (s : State) (e : Nat) (x : CopyEngine) : (s.putEngine e x).grey = s.grey := rfl
@[simp] theorem State.putEngine_outbox (s : State) (e : Nat) (x : CopyEngine) : (s.putEngine e x).outbox = s.outbox := rfl
@[simp] theorem State.putEngine_pending (s : State) (e : Nat) (x : CopyEngine) : (s.putEngine e x).pending = s.pending := rfl

/-! ### putCmd -/

@[simp] theorem State.putCmd_part (s : State) (c : Cmd) : (s.putCmd c).part = s.part := rfl
@[simp] theorem State.putCmd_power (s : State) (c : Cmd) : (s.putCmd c).power = s.power := rfl
@[simp] theorem State.putCmd_deviceStop (s : State) (c : Cmd) : (s.putCmd c).deviceStop = s.deviceStop := rfl
@[simp] theorem State.putCmd_cycles (s : State) (c : Cmd) : (s.putCmd c).cycles = s.cycles := rfl
@[simp] theorem State.putCmd_freeCount (s : State) (c : Cmd) : (s.putCmd c).freeCount = s.freeCount := rfl
@[simp] theorem State.putCmd_mem (s : State) (c : Cmd) : (s.putCmd c).mem = s.mem := rfl
@[simp] theorem State.putCmd_tow (s : State) (c : Cmd) : (s.putCmd c).tow = s.tow := rfl
@[simp] theorem State.putCmd_regions (s : State) (c : Cmd) : (s.putCmd c).regions = s.regions := rfl
@[simp] theorem State.putCmd_copy (s : State) (c : Cmd) : (s.putCmd c).copy = s.copy := rfl
@[simp] theorem State.putCmd_checkFenced (s : State) (c : Cmd) : (s.putCmd c).checkFenced = s.checkFenced := rfl
@[simp] theorem State.putCmd_pages (s : State) (c : Cmd) : (s.putCmd c).pages = s.pages := rfl
@[simp] theorem State.putCmd_errIrqEnable (s : State) (c : Cmd) : (s.putCmd c).errIrqEnable = s.errIrqEnable := rfl
@[simp] theorem State.putCmd_errIrqVec (s : State) (c : Cmd) : (s.putCmd c).errIrqVec = s.errIrqVec := rfl
@[simp] theorem State.putCmd_errIrqMore (s : State) (c : Cmd) : (s.putCmd c).errIrqMore = s.errIrqMore := rfl
@[simp] theorem State.putCmd_queues (s : State) (c : Cmd) : (s.putCmd c).queues = s.queues := rfl
@[simp] theorem State.putCmd_fetches (s : State) (c : Cmd) : (s.putCmd c).fetches = s.fetches := rfl
@[simp] theorem State.putCmd_ready (s : State) (c : Cmd) : (s.putCmd c).ready = s.ready := rfl
@[simp] theorem State.putCmd_rrQueue (s : State) (c : Cmd) : (s.putCmd c).rrQueue = s.rrQueue := rfl
@[simp] theorem State.putCmd_cmds (s : State) (c : Cmd) : (s.putCmd c).cmds = s.cmds.map (fun d => if d.q = c.q ∧ d.n = c.n then c else d) := rfl
@[simp] theorem State.putCmd_jnl (s : State) (c : Cmd) : (s.putCmd c).jnl = s.jnl := rfl
@[simp] theorem State.putCmd_per (s : State) (c : Cmd) : (s.putCmd c).per = s.per := rfl
@[simp] theorem State.putCmd_threads (s : State) (c : Cmd) : (s.putCmd c).threads = s.threads := rfl
@[simp] theorem State.putCmd_hqs (s : State) (c : Cmd) : (s.putCmd c).hqs = s.hqs := rfl
@[simp] theorem State.putCmd_pools (s : State) (c : Cmd) : (s.putCmd c).pools = s.pools := rfl
@[simp] theorem State.putCmd_tracks (s : State) (c : Cmd) : (s.putCmd c).tracks = s.tracks := rfl
@[simp] theorem State.putCmd_shards (s : State) (c : Cmd) : (s.putCmd c).shards = s.shards := rfl
@[simp] theorem State.putCmd_shardWaits (s : State) (c : Cmd) : (s.putCmd c).shardWaits = s.shardWaits := rfl
@[simp] theorem State.putCmd_lnk (s : State) (c : Cmd) : (s.putCmd c).lnk = s.lnk := rfl
@[simp] theorem State.putCmd_twin (s : State) (c : Cmd) : (s.putCmd c).twin = s.twin := rfl
@[simp] theorem State.putCmd_gov (s : State) (c : Cmd) : (s.putCmd c).gov = s.gov := rfl
@[simp] theorem State.putCmd_boot (s : State) (c : Cmd) : (s.putCmd c).boot = s.boot := rfl
@[simp] theorem State.putCmd_grey (s : State) (c : Cmd) : (s.putCmd c).grey = s.grey := rfl
@[simp] theorem State.putCmd_outbox (s : State) (c : Cmd) : (s.putCmd c).outbox = s.outbox := rfl
@[simp] theorem State.putCmd_pending (s : State) (c : Cmd) : (s.putCmd c).pending = s.pending := rfl

/-! ### dropCmd -/

@[simp] theorem State.dropCmd_part (s : State) (q n : Nat) : (s.dropCmd q n).part = s.part := rfl
@[simp] theorem State.dropCmd_power (s : State) (q n : Nat) : (s.dropCmd q n).power = s.power := rfl
@[simp] theorem State.dropCmd_deviceStop (s : State) (q n : Nat) : (s.dropCmd q n).deviceStop = s.deviceStop := rfl
@[simp] theorem State.dropCmd_cycles (s : State) (q n : Nat) : (s.dropCmd q n).cycles = s.cycles := rfl
@[simp] theorem State.dropCmd_freeCount (s : State) (q n : Nat) : (s.dropCmd q n).freeCount = s.freeCount := rfl
@[simp] theorem State.dropCmd_mem (s : State) (q n : Nat) : (s.dropCmd q n).mem = s.mem := rfl
@[simp] theorem State.dropCmd_tow (s : State) (q n : Nat) : (s.dropCmd q n).tow = s.tow := rfl
@[simp] theorem State.dropCmd_regions (s : State) (q n : Nat) : (s.dropCmd q n).regions = s.regions := rfl
@[simp] theorem State.dropCmd_copy (s : State) (q n : Nat) : (s.dropCmd q n).copy = s.copy := rfl
@[simp] theorem State.dropCmd_checkFenced (s : State) (q n : Nat) : (s.dropCmd q n).checkFenced = s.checkFenced := rfl
@[simp] theorem State.dropCmd_pages (s : State) (q n : Nat) : (s.dropCmd q n).pages = s.pages := rfl
@[simp] theorem State.dropCmd_errIrqEnable (s : State) (q n : Nat) : (s.dropCmd q n).errIrqEnable = s.errIrqEnable := rfl
@[simp] theorem State.dropCmd_errIrqVec (s : State) (q n : Nat) : (s.dropCmd q n).errIrqVec = s.errIrqVec := rfl
@[simp] theorem State.dropCmd_errIrqMore (s : State) (q n : Nat) : (s.dropCmd q n).errIrqMore = s.errIrqMore := rfl
@[simp] theorem State.dropCmd_queues (s : State) (q n : Nat) : (s.dropCmd q n).queues = s.queues := rfl
@[simp] theorem State.dropCmd_fetches (s : State) (q n : Nat) : (s.dropCmd q n).fetches = s.fetches := rfl
@[simp] theorem State.dropCmd_ready (s : State) (q n : Nat) : (s.dropCmd q n).ready = s.ready := rfl
@[simp] theorem State.dropCmd_rrQueue (s : State) (q n : Nat) : (s.dropCmd q n).rrQueue = s.rrQueue := rfl
@[simp] theorem State.dropCmd_cmds (s : State) (q n : Nat) : (s.dropCmd q n).cmds = s.cmds.filter (fun d => !(d.q == q && d.n == n)) := rfl
@[simp] theorem State.dropCmd_jnl (s : State) (q n : Nat) : (s.dropCmd q n).jnl = s.jnl := rfl
@[simp] theorem State.dropCmd_per (s : State) (q n : Nat) : (s.dropCmd q n).per = s.per := rfl
@[simp] theorem State.dropCmd_threads (s : State) (q n : Nat) : (s.dropCmd q n).threads = s.threads := rfl
@[simp] theorem State.dropCmd_hqs (s : State) (q n : Nat) : (s.dropCmd q n).hqs = s.hqs := rfl
@[simp] theorem State.dropCmd_pools (s : State) (q n : Nat) : (s.dropCmd q n).pools = s.pools := rfl
@[simp] theorem State.dropCmd_tracks (s : State) (q n : Nat) : (s.dropCmd q n).tracks = s.tracks := rfl
@[simp] theorem State.dropCmd_shards (s : State) (q n : Nat) : (s.dropCmd q n).shards = s.shards := rfl
@[simp] theorem State.dropCmd_shardWaits (s : State) (q n : Nat) : (s.dropCmd q n).shardWaits = s.shardWaits := rfl
@[simp] theorem State.dropCmd_lnk (s : State) (q n : Nat) : (s.dropCmd q n).lnk = s.lnk := rfl
@[simp] theorem State.dropCmd_twin (s : State) (q n : Nat) : (s.dropCmd q n).twin = s.twin := rfl
@[simp] theorem State.dropCmd_gov (s : State) (q n : Nat) : (s.dropCmd q n).gov = s.gov := rfl
@[simp] theorem State.dropCmd_boot (s : State) (q n : Nat) : (s.dropCmd q n).boot = s.boot := rfl
@[simp] theorem State.dropCmd_grey (s : State) (q n : Nat) : (s.dropCmd q n).grey = s.grey := rfl
@[simp] theorem State.dropCmd_outbox (s : State) (q n : Nat) : (s.dropCmd q n).outbox = s.outbox := rfl
@[simp] theorem State.dropCmd_pending (s : State) (q n : Nat) : (s.dropCmd q n).pending = s.pending := rfl

/-! ### putQueue -/

@[simp] theorem State.putQueue_part (s : State) (q : Nat) (x : QueueCtx) : (s.putQueue q x).part = s.part := rfl
@[simp] theorem State.putQueue_power (s : State) (q : Nat) (x : QueueCtx) : (s.putQueue q x).power = s.power := rfl
@[simp] theorem State.putQueue_deviceStop (s : State) (q : Nat) (x : QueueCtx) : (s.putQueue q x).deviceStop = s.deviceStop := rfl
@[simp] theorem State.putQueue_cycles (s : State) (q : Nat) (x : QueueCtx) : (s.putQueue q x).cycles = s.cycles := rfl
@[simp] theorem State.putQueue_freeCount (s : State) (q : Nat) (x : QueueCtx) : (s.putQueue q x).freeCount = s.freeCount := rfl
@[simp] theorem State.putQueue_mem (s : State) (q : Nat) (x : QueueCtx) : (s.putQueue q x).mem = s.mem := rfl
@[simp] theorem State.putQueue_tow (s : State) (q : Nat) (x : QueueCtx) : (s.putQueue q x).tow = s.tow := rfl
@[simp] theorem State.putQueue_regions (s : State) (q : Nat) (x : QueueCtx) : (s.putQueue q x).regions = s.regions := rfl
@[simp] theorem State.putQueue_copy (s : State) (q : Nat) (x : QueueCtx) : (s.putQueue q x).copy = s.copy := rfl
@[simp] theorem State.putQueue_checkFenced (s : State) (q : Nat) (x : QueueCtx) : (s.putQueue q x).checkFenced = s.checkFenced := rfl
@[simp] theorem State.putQueue_pages (s : State) (q : Nat) (x : QueueCtx) : (s.putQueue q x).pages = s.pages := rfl
@[simp] theorem State.putQueue_errIrqEnable (s : State) (q : Nat) (x : QueueCtx) : (s.putQueue q x).errIrqEnable = s.errIrqEnable := rfl
@[simp] theorem State.putQueue_errIrqVec (s : State) (q : Nat) (x : QueueCtx) : (s.putQueue q x).errIrqVec = s.errIrqVec := rfl
@[simp] theorem State.putQueue_errIrqMore (s : State) (q : Nat) (x : QueueCtx) : (s.putQueue q x).errIrqMore = s.errIrqMore := rfl
@[simp] theorem State.putQueue_queues (s : State) (q : Nat) (x : QueueCtx) : (s.putQueue q x).queues = tabSet {} s.queues q x := rfl
@[simp] theorem State.putQueue_fetches (s : State) (q : Nat) (x : QueueCtx) : (s.putQueue q x).fetches = s.fetches := rfl
@[simp] theorem State.putQueue_ready (s : State) (q : Nat) (x : QueueCtx) : (s.putQueue q x).ready = s.ready := rfl
@[simp] theorem State.putQueue_rrQueue (s : State) (q : Nat) (x : QueueCtx) : (s.putQueue q x).rrQueue = s.rrQueue := rfl
@[simp] theorem State.putQueue_cmds (s : State) (q : Nat) (x : QueueCtx) : (s.putQueue q x).cmds = s.cmds := rfl
@[simp] theorem State.putQueue_jnl (s : State) (q : Nat) (x : QueueCtx) : (s.putQueue q x).jnl = s.jnl := rfl
@[simp] theorem State.putQueue_per (s : State) (q : Nat) (x : QueueCtx) : (s.putQueue q x).per = s.per := rfl
@[simp] theorem State.putQueue_threads (s : State) (q : Nat) (x : QueueCtx) : (s.putQueue q x).threads = s.threads := rfl
@[simp] theorem State.putQueue_hqs (s : State) (q : Nat) (x : QueueCtx) : (s.putQueue q x).hqs = s.hqs := rfl
@[simp] theorem State.putQueue_pools (s : State) (q : Nat) (x : QueueCtx) : (s.putQueue q x).pools = s.pools := rfl
@[simp] theorem State.putQueue_tracks (s : State) (q : Nat) (x : QueueCtx) : (s.putQueue q x).tracks = s.tracks := rfl
@[simp] theorem State.putQueue_shards (s : State) (q : Nat) (x : QueueCtx) : (s.putQueue q x).shards = s.shards := rfl
@[simp] theorem State.putQueue_shardWaits (s : State) (q : Nat) (x : QueueCtx) : (s.putQueue q x).shardWaits = s.shardWaits := rfl
@[simp] theorem State.putQueue_lnk (s : State) (q : Nat) (x : QueueCtx) : (s.putQueue q x).lnk = s.lnk := rfl
@[simp] theorem State.putQueue_twin (s : State) (q : Nat) (x : QueueCtx) : (s.putQueue q x).twin = s.twin := rfl
@[simp] theorem State.putQueue_gov (s : State) (q : Nat) (x : QueueCtx) : (s.putQueue q x).gov = s.gov := rfl
@[simp] theorem State.putQueue_boot (s : State) (q : Nat) (x : QueueCtx) : (s.putQueue q x).boot = s.boot := rfl
@[simp] theorem State.putQueue_grey (s : State) (q : Nat) (x : QueueCtx) : (s.putQueue q x).grey = s.grey := rfl
@[simp] theorem State.putQueue_outbox (s : State) (q : Nat) (x : QueueCtx) : (s.putQueue q x).outbox = s.outbox := rfl
@[simp] theorem State.putQueue_pending (s : State) (q : Nat) (x : QueueCtx) : (s.putQueue q x).pending = s.pending := rfl

/-! ### count -/

@[simp] theorem State.count_part (s : State) (p source k : Nat) : (s.count p source k).part = s.part := rfl
@[simp] theorem State.count_power (s : State) (p source k : Nat) : (s.count p source k).power = s.power := rfl
@[simp] theorem State.count_deviceStop (s : State) (p source k : Nat) : (s.count p source k).deviceStop = s.deviceStop := rfl
@[simp] theorem State.count_cycles (s : State) (p source k : Nat) : (s.count p source k).cycles = s.cycles := rfl
@[simp] theorem State.count_freeCount (s : State) (p source k : Nat) : (s.count p source k).freeCount = s.freeCount := rfl
@[simp] theorem State.count_mem (s : State) (p source k : Nat) : (s.count p source k).mem = s.mem := rfl
@[simp] theorem State.count_tow (s : State) (p source k : Nat) : (s.count p source k).tow = s.tow := rfl
@[simp] theorem State.count_regions (s : State) (p source k : Nat) : (s.count p source k).regions = s.regions := rfl
@[simp] theorem State.count_copy (s : State) (p source k : Nat) : (s.count p source k).copy = s.copy := rfl
@[simp] theorem State.count_checkFenced (s : State) (p source k : Nat) : (s.count p source k).checkFenced = s.checkFenced := rfl
@[simp] theorem State.count_pages (s : State) (p source k : Nat) : (s.count p source k).pages = s.pages.map (fun e => if e.1 = p then (e.1, e.2.countEvent source k) else e) := rfl
@[simp] theorem State.count_errIrqEnable (s : State) (p source k : Nat) : (s.count p source k).errIrqEnable = s.errIrqEnable := rfl
@[simp] theorem State.count_errIrqVec (s : State) (p source k : Nat) : (s.count p source k).errIrqVec = s.errIrqVec := rfl
@[simp] theorem State.count_errIrqMore (s : State) (p source k : Nat) : (s.count p source k).errIrqMore = s.errIrqMore := rfl
@[simp] theorem State.count_queues (s : State) (p source k : Nat) : (s.count p source k).queues = s.queues := rfl
@[simp] theorem State.count_fetches (s : State) (p source k : Nat) : (s.count p source k).fetches = s.fetches := rfl
@[simp] theorem State.count_ready (s : State) (p source k : Nat) : (s.count p source k).ready = s.ready := rfl
@[simp] theorem State.count_rrQueue (s : State) (p source k : Nat) : (s.count p source k).rrQueue = s.rrQueue := rfl
@[simp] theorem State.count_cmds (s : State) (p source k : Nat) : (s.count p source k).cmds = s.cmds := rfl
@[simp] theorem State.count_jnl (s : State) (p source k : Nat) : (s.count p source k).jnl = s.jnl := rfl
@[simp] theorem State.count_per (s : State) (p source k : Nat) : (s.count p source k).per = s.per := rfl
@[simp] theorem State.count_threads (s : State) (p source k : Nat) : (s.count p source k).threads = s.threads := rfl
@[simp] theorem State.count_hqs (s : State) (p source k : Nat) : (s.count p source k).hqs = s.hqs := rfl
@[simp] theorem State.count_pools (s : State) (p source k : Nat) : (s.count p source k).pools = s.pools := rfl
@[simp] theorem State.count_tracks (s : State) (p source k : Nat) : (s.count p source k).tracks = s.tracks := rfl
@[simp] theorem State.count_shards (s : State) (p source k : Nat) : (s.count p source k).shards = s.shards := rfl
@[simp] theorem State.count_shardWaits (s : State) (p source k : Nat) : (s.count p source k).shardWaits = s.shardWaits := rfl
@[simp] theorem State.count_lnk (s : State) (p source k : Nat) : (s.count p source k).lnk = s.lnk := rfl
@[simp] theorem State.count_twin (s : State) (p source k : Nat) : (s.count p source k).twin = s.twin := rfl
@[simp] theorem State.count_gov (s : State) (p source k : Nat) : (s.count p source k).gov = s.gov := rfl
@[simp] theorem State.count_boot (s : State) (p source k : Nat) : (s.count p source k).boot = s.boot := rfl
@[simp] theorem State.count_grey (s : State) (p source k : Nat) : (s.count p source k).grey = s.grey := rfl
@[simp] theorem State.count_outbox (s : State) (p source k : Nat) : (s.count p source k).outbox = s.outbox := rfl
@[simp] theorem State.count_pending (s : State) (p source k : Nat) : (s.count p source k).pending = s.pending := rfl

/-! ### send -/

@[simp] theorem State.send_part (s : State) (o : Out) : (s.send o).part = s.part := rfl
@[simp] theorem State.send_power (s : State) (o : Out) : (s.send o).power = s.power := rfl
@[simp] theorem State.send_deviceStop (s : State) (o : Out) : (s.send o).deviceStop = s.deviceStop := rfl
@[simp] theorem State.send_cycles (s : State) (o : Out) : (s.send o).cycles = s.cycles := rfl
@[simp] theorem State.send_freeCount (s : State) (o : Out) : (s.send o).freeCount = s.freeCount := rfl
@[simp] theorem State.send_mem (s : State) (o : Out) : (s.send o).mem = s.mem := rfl
@[simp] theorem State.send_tow (s : State) (o : Out) : (s.send o).tow = s.tow := rfl
@[simp] theorem State.send_regions (s : State) (o : Out) : (s.send o).regions = s.regions := rfl
@[simp] theorem State.send_copy (s : State) (o : Out) : (s.send o).copy = s.copy := rfl
@[simp] theorem State.send_checkFenced (s : State) (o : Out) : (s.send o).checkFenced = s.checkFenced := rfl
@[simp] theorem State.send_pages (s : State) (o : Out) : (s.send o).pages = s.pages := rfl
@[simp] theorem State.send_errIrqEnable (s : State) (o : Out) : (s.send o).errIrqEnable = s.errIrqEnable := rfl
@[simp] theorem State.send_errIrqVec (s : State) (o : Out) : (s.send o).errIrqVec = s.errIrqVec := rfl
@[simp] theorem State.send_errIrqMore (s : State) (o : Out) : (s.send o).errIrqMore = s.errIrqMore := rfl
@[simp] theorem State.send_queues (s : State) (o : Out) : (s.send o).queues = s.queues := rfl
@[simp] theorem State.send_fetches (s : State) (o : Out) : (s.send o).fetches = s.fetches := rfl
@[simp] theorem State.send_ready (s : State) (o : Out) : (s.send o).ready = s.ready := rfl
@[simp] theorem State.send_rrQueue (s : State) (o : Out) : (s.send o).rrQueue = s.rrQueue := rfl
@[simp] theorem State.send_cmds (s : State) (o : Out) : (s.send o).cmds = s.cmds := rfl
@[simp] theorem State.send_jnl (s : State) (o : Out) : (s.send o).jnl = s.jnl := rfl
@[simp] theorem State.send_per (s : State) (o : Out) : (s.send o).per = s.per := rfl
@[simp] theorem State.send_threads (s : State) (o : Out) : (s.send o).threads = s.threads := rfl
@[simp] theorem State.send_hqs (s : State) (o : Out) : (s.send o).hqs = s.hqs := rfl
@[simp] theorem State.send_pools (s : State) (o : Out) : (s.send o).pools = s.pools := rfl
@[simp] theorem State.send_tracks (s : State) (o : Out) : (s.send o).tracks = s.tracks := rfl
@[simp] theorem State.send_shards (s : State) (o : Out) : (s.send o).shards = s.shards := rfl
@[simp] theorem State.send_shardWaits (s : State) (o : Out) : (s.send o).shardWaits = s.shardWaits := rfl
@[simp] theorem State.send_lnk (s : State) (o : Out) : (s.send o).lnk = s.lnk := rfl
@[simp] theorem State.send_twin (s : State) (o : Out) : (s.send o).twin = s.twin := rfl
@[simp] theorem State.send_gov (s : State) (o : Out) : (s.send o).gov = s.gov := rfl
@[simp] theorem State.send_boot (s : State) (o : Out) : (s.send o).boot = s.boot := rfl
@[simp] theorem State.send_grey (s : State) (o : Out) : (s.send o).grey = s.grey := rfl
@[simp] theorem State.send_outbox (s : State) (o : Out) : (s.send o).outbox = s.outbox ++ [o] := rfl
@[simp] theorem State.send_pending (s : State) (o : Out) : (s.send o).pending = s.pending := rfl

/-! ### putThread -/

@[simp] theorem State.putThread_part (s : State) (t : Thread) : (s.putThread t).part = s.part := rfl
@[simp] theorem State.putThread_power (s : State) (t : Thread) : (s.putThread t).power = s.power := rfl
@[simp] theorem State.putThread_deviceStop (s : State) (t : Thread) : (s.putThread t).deviceStop = s.deviceStop := rfl
@[simp] theorem State.putThread_cycles (s : State) (t : Thread) : (s.putThread t).cycles = s.cycles := rfl
@[simp] theorem State.putThread_freeCount (s : State) (t : Thread) : (s.putThread t).freeCount = s.freeCount := rfl
@[simp] theorem State.putThread_mem (s : State) (t : Thread) : (s.putThread t).mem = s.mem := rfl
@[simp] theorem State.putThread_tow (s : State) (t : Thread) : (s.putThread t).tow = s.tow := rfl
@[simp] theorem State.putThread_regions (s : State) (t : Thread) : (s.putThread t).regions = s.regions := rfl
@[simp] theorem State.putThread_copy (s : State) (t : Thread) : (s.putThread t).copy = s.copy := rfl
@[simp] theorem State.putThread_checkFenced (s : State) (t : Thread) : (s.putThread t).checkFenced = s.checkFenced := rfl
@[simp] theorem State.putThread_pages (s : State) (t : Thread) : (s.putThread t).pages = s.pages := rfl
@[simp] theorem State.putThread_errIrqEnable (s : State) (t : Thread) : (s.putThread t).errIrqEnable = s.errIrqEnable := rfl
@[simp] theorem State.putThread_errIrqVec (s : State) (t : Thread) : (s.putThread t).errIrqVec = s.errIrqVec := rfl
@[simp] theorem State.putThread_errIrqMore (s : State) (t : Thread) : (s.putThread t).errIrqMore = s.errIrqMore := rfl
@[simp] theorem State.putThread_queues (s : State) (t : Thread) : (s.putThread t).queues = s.queues := rfl
@[simp] theorem State.putThread_fetches (s : State) (t : Thread) : (s.putThread t).fetches = s.fetches := rfl
@[simp] theorem State.putThread_ready (s : State) (t : Thread) : (s.putThread t).ready = s.ready := rfl
@[simp] theorem State.putThread_rrQueue (s : State) (t : Thread) : (s.putThread t).rrQueue = s.rrQueue := rfl
@[simp] theorem State.putThread_cmds (s : State) (t : Thread) : (s.putThread t).cmds = s.cmds := rfl
@[simp] theorem State.putThread_jnl (s : State) (t : Thread) : (s.putThread t).jnl = s.jnl := rfl
@[simp] theorem State.putThread_per (s : State) (t : Thread) : (s.putThread t).per = s.per := rfl
@[simp] theorem State.putThread_threads (s : State) (t : Thread) : (s.putThread t).threads = s.threads.map (fun u => if u.q = t.q ∧ u.n = t.n then t else u) := rfl
@[simp] theorem State.putThread_hqs (s : State) (t : Thread) : (s.putThread t).hqs = s.hqs := rfl
@[simp] theorem State.putThread_pools (s : State) (t : Thread) : (s.putThread t).pools = s.pools := rfl
@[simp] theorem State.putThread_tracks (s : State) (t : Thread) : (s.putThread t).tracks = s.tracks := rfl
@[simp] theorem State.putThread_shards (s : State) (t : Thread) : (s.putThread t).shards = s.shards := rfl
@[simp] theorem State.putThread_shardWaits (s : State) (t : Thread) : (s.putThread t).shardWaits = s.shardWaits := rfl
@[simp] theorem State.putThread_lnk (s : State) (t : Thread) : (s.putThread t).lnk = s.lnk := rfl
@[simp] theorem State.putThread_twin (s : State) (t : Thread) : (s.putThread t).twin = s.twin := rfl
@[simp] theorem State.putThread_gov (s : State) (t : Thread) : (s.putThread t).gov = s.gov := rfl
@[simp] theorem State.putThread_boot (s : State) (t : Thread) : (s.putThread t).boot = s.boot := rfl
@[simp] theorem State.putThread_grey (s : State) (t : Thread) : (s.putThread t).grey = s.grey := rfl
@[simp] theorem State.putThread_outbox (s : State) (t : Thread) : (s.putThread t).outbox = s.outbox := rfl
@[simp] theorem State.putThread_pending (s : State) (t : Thread) : (s.putThread t).pending = s.pending := rfl

/-! ### putHq -/

@[simp] theorem State.putHq_part (s : State) (k : Nat) (h : HandleQueue) : (s.putHq k h).part = s.part := rfl
@[simp] theorem State.putHq_power (s : State) (k : Nat) (h : HandleQueue) : (s.putHq k h).power = s.power := rfl
@[simp] theorem State.putHq_deviceStop (s : State) (k : Nat) (h : HandleQueue) : (s.putHq k h).deviceStop = s.deviceStop := rfl
@[simp] theorem State.putHq_cycles (s : State) (k : Nat) (h : HandleQueue) : (s.putHq k h).cycles = s.cycles := rfl
@[simp] theorem State.putHq_freeCount (s : State) (k : Nat) (h : HandleQueue) : (s.putHq k h).freeCount = s.freeCount := rfl
@[simp] theorem State.putHq_mem (s : State) (k : Nat) (h : HandleQueue) : (s.putHq k h).mem = s.mem := rfl
@[simp] theorem State.putHq_tow (s : State) (k : Nat) (h : HandleQueue) : (s.putHq k h).tow = s.tow := rfl
@[simp] theorem State.putHq_regions (s : State) (k : Nat) (h : HandleQueue) : (s.putHq k h).regions = s.regions := rfl
@[simp] theorem State.putHq_copy (s : State) (k : Nat) (h : HandleQueue) : (s.putHq k h).copy = s.copy := rfl
@[simp] theorem State.putHq_checkFenced (s : State) (k : Nat) (h : HandleQueue) : (s.putHq k h).checkFenced = s.checkFenced := rfl
@[simp] theorem State.putHq_pages (s : State) (k : Nat) (h : HandleQueue) : (s.putHq k h).pages = s.pages := rfl
@[simp] theorem State.putHq_errIrqEnable (s : State) (k : Nat) (h : HandleQueue) : (s.putHq k h).errIrqEnable = s.errIrqEnable := rfl
@[simp] theorem State.putHq_errIrqVec (s : State) (k : Nat) (h : HandleQueue) : (s.putHq k h).errIrqVec = s.errIrqVec := rfl
@[simp] theorem State.putHq_errIrqMore (s : State) (k : Nat) (h : HandleQueue) : (s.putHq k h).errIrqMore = s.errIrqMore := rfl
@[simp] theorem State.putHq_queues (s : State) (k : Nat) (h : HandleQueue) : (s.putHq k h).queues = s.queues := rfl
@[simp] theorem State.putHq_fetches (s : State) (k : Nat) (h : HandleQueue) : (s.putHq k h).fetches = s.fetches := rfl
@[simp] theorem State.putHq_ready (s : State) (k : Nat) (h : HandleQueue) : (s.putHq k h).ready = s.ready := rfl
@[simp] theorem State.putHq_rrQueue (s : State) (k : Nat) (h : HandleQueue) : (s.putHq k h).rrQueue = s.rrQueue := rfl
@[simp] theorem State.putHq_cmds (s : State) (k : Nat) (h : HandleQueue) : (s.putHq k h).cmds = s.cmds := rfl
@[simp] theorem State.putHq_jnl (s : State) (k : Nat) (h : HandleQueue) : (s.putHq k h).jnl = s.jnl := rfl
@[simp] theorem State.putHq_per (s : State) (k : Nat) (h : HandleQueue) : (s.putHq k h).per = s.per := rfl
@[simp] theorem State.putHq_threads (s : State) (k : Nat) (h : HandleQueue) : (s.putHq k h).threads = s.threads := rfl
@[simp] theorem State.putHq_hqs (s : State) (k : Nat) (h : HandleQueue) : (s.putHq k h).hqs = tabSet {} s.hqs k h := rfl
@[simp] theorem State.putHq_pools (s : State) (k : Nat) (h : HandleQueue) : (s.putHq k h).pools = s.pools := rfl
@[simp] theorem State.putHq_tracks (s : State) (k : Nat) (h : HandleQueue) : (s.putHq k h).tracks = s.tracks := rfl
@[simp] theorem State.putHq_shards (s : State) (k : Nat) (h : HandleQueue) : (s.putHq k h).shards = s.shards := rfl
@[simp] theorem State.putHq_shardWaits (s : State) (k : Nat) (h : HandleQueue) : (s.putHq k h).shardWaits = s.shardWaits := rfl
@[simp] theorem State.putHq_lnk (s : State) (k : Nat) (h : HandleQueue) : (s.putHq k h).lnk = s.lnk := rfl
@[simp] theorem State.putHq_twin (s : State) (k : Nat) (h : HandleQueue) : (s.putHq k h).twin = s.twin := rfl
@[simp] theorem State.putHq_gov (s : State) (k : Nat) (h : HandleQueue) : (s.putHq k h).gov = s.gov := rfl
@[simp] theorem State.putHq_boot (s : State) (k : Nat) (h : HandleQueue) : (s.putHq k h).boot = s.boot := rfl
@[simp] theorem State.putHq_grey (s : State) (k : Nat) (h : HandleQueue) : (s.putHq k h).grey = s.grey := rfl
@[simp] theorem State.putHq_outbox (s : State) (k : Nat) (h : HandleQueue) : (s.putHq k h).outbox = s.outbox := rfl
@[simp] theorem State.putHq_pending (s : State) (k : Nat) (h : HandleQueue) : (s.putHq k h).pending = s.pending := rfl

/-! ### putPool -/

@[simp] theorem State.putPool_part (s : State) (p : Nat) (x : Pool) : (s.putPool p x).part = s.part := rfl
@[simp] theorem State.putPool_power (s : State) (p : Nat) (x : Pool) : (s.putPool p x).power = s.power := rfl
@[simp] theorem State.putPool_deviceStop (s : State) (p : Nat) (x : Pool) : (s.putPool p x).deviceStop = s.deviceStop := rfl
@[simp] theorem State.putPool_cycles (s : State) (p : Nat) (x : Pool) : (s.putPool p x).cycles = s.cycles := rfl
@[simp] theorem State.putPool_freeCount (s : State) (p : Nat) (x : Pool) : (s.putPool p x).freeCount = s.freeCount := rfl
@[simp] theorem State.putPool_mem (s : State) (p : Nat) (x : Pool) : (s.putPool p x).mem = s.mem := rfl
@[simp] theorem State.putPool_tow (s : State) (p : Nat) (x : Pool) : (s.putPool p x).tow = s.tow := rfl
@[simp] theorem State.putPool_regions (s : State) (p : Nat) (x : Pool) : (s.putPool p x).regions = s.regions := rfl
@[simp] theorem State.putPool_copy (s : State) (p : Nat) (x : Pool) : (s.putPool p x).copy = s.copy := rfl
@[simp] theorem State.putPool_checkFenced (s : State) (p : Nat) (x : Pool) : (s.putPool p x).checkFenced = s.checkFenced := rfl
@[simp] theorem State.putPool_pages (s : State) (p : Nat) (x : Pool) : (s.putPool p x).pages = s.pages := rfl
@[simp] theorem State.putPool_errIrqEnable (s : State) (p : Nat) (x : Pool) : (s.putPool p x).errIrqEnable = s.errIrqEnable := rfl
@[simp] theorem State.putPool_errIrqVec (s : State) (p : Nat) (x : Pool) : (s.putPool p x).errIrqVec = s.errIrqVec := rfl
@[simp] theorem State.putPool_errIrqMore (s : State) (p : Nat) (x : Pool) : (s.putPool p x).errIrqMore = s.errIrqMore := rfl
@[simp] theorem State.putPool_queues (s : State) (p : Nat) (x : Pool) : (s.putPool p x).queues = s.queues := rfl
@[simp] theorem State.putPool_fetches (s : State) (p : Nat) (x : Pool) : (s.putPool p x).fetches = s.fetches := rfl
@[simp] theorem State.putPool_ready (s : State) (p : Nat) (x : Pool) : (s.putPool p x).ready = s.ready := rfl
@[simp] theorem State.putPool_rrQueue (s : State) (p : Nat) (x : Pool) : (s.putPool p x).rrQueue = s.rrQueue := rfl
@[simp] theorem State.putPool_cmds (s : State) (p : Nat) (x : Pool) : (s.putPool p x).cmds = s.cmds := rfl
@[simp] theorem State.putPool_jnl (s : State) (p : Nat) (x : Pool) : (s.putPool p x).jnl = s.jnl := rfl
@[simp] theorem State.putPool_per (s : State) (p : Nat) (x : Pool) : (s.putPool p x).per = s.per := rfl
@[simp] theorem State.putPool_threads (s : State) (p : Nat) (x : Pool) : (s.putPool p x).threads = s.threads := rfl
@[simp] theorem State.putPool_hqs (s : State) (p : Nat) (x : Pool) : (s.putPool p x).hqs = s.hqs := rfl
@[simp] theorem State.putPool_pools (s : State) (p : Nat) (x : Pool) : (s.putPool p x).pools = tabSet {} s.pools p x := rfl
@[simp] theorem State.putPool_tracks (s : State) (p : Nat) (x : Pool) : (s.putPool p x).tracks = s.tracks := rfl
@[simp] theorem State.putPool_shards (s : State) (p : Nat) (x : Pool) : (s.putPool p x).shards = s.shards := rfl
@[simp] theorem State.putPool_shardWaits (s : State) (p : Nat) (x : Pool) : (s.putPool p x).shardWaits = s.shardWaits := rfl
@[simp] theorem State.putPool_lnk (s : State) (p : Nat) (x : Pool) : (s.putPool p x).lnk = s.lnk := rfl
@[simp] theorem State.putPool_twin (s : State) (p : Nat) (x : Pool) : (s.putPool p x).twin = s.twin := rfl
@[simp] theorem State.putPool_gov (s : State) (p : Nat) (x : Pool) : (s.putPool p x).gov = s.gov := rfl
@[simp] theorem State.putPool_boot (s : State) (p : Nat) (x : Pool) : (s.putPool p x).boot = s.boot := rfl
@[simp] theorem State.putPool_grey (s : State) (p : Nat) (x : Pool) : (s.putPool p x).grey = s.grey := rfl
@[simp] theorem State.putPool_outbox (s : State) (p : Nat) (x : Pool) : (s.putPool p x).outbox = s.outbox := rfl
@[simp] theorem State.putPool_pending (s : State) (p : Nat) (x : Pool) : (s.putPool p x).pending = s.pending := rfl

/-! ### putTrack -/

@[simp] theorem State.putTrack_part (s : State) (i : Nat) (t : Track) : (s.putTrack i t).part = s.part := rfl
@[simp] theorem State.putTrack_power (s : State) (i : Nat) (t : Track) : (s.putTrack i t).power = s.power := rfl
@[simp] theorem State.putTrack_deviceStop (s : State) (i : Nat) (t : Track) : (s.putTrack i t).deviceStop = s.deviceStop := rfl
@[simp] theorem State.putTrack_cycles (s : State) (i : Nat) (t : Track) : (s.putTrack i t).cycles = s.cycles := rfl
@[simp] theorem State.putTrack_freeCount (s : State) (i : Nat) (t : Track) : (s.putTrack i t).freeCount = s.freeCount := rfl
@[simp] theorem State.putTrack_mem (s : State) (i : Nat) (t : Track) : (s.putTrack i t).mem = s.mem := rfl
@[simp] theorem State.putTrack_tow (s : State) (i : Nat) (t : Track) : (s.putTrack i t).tow = s.tow := rfl
@[simp] theorem State.putTrack_regions (s : State) (i : Nat) (t : Track) : (s.putTrack i t).regions = s.regions := rfl
@[simp] theorem State.putTrack_copy (s : State) (i : Nat) (t : Track) : (s.putTrack i t).copy = s.copy := rfl
@[simp] theorem State.putTrack_checkFenced (s : State) (i : Nat) (t : Track) : (s.putTrack i t).checkFenced = s.checkFenced := rfl
@[simp] theorem State.putTrack_pages (s : State) (i : Nat) (t : Track) : (s.putTrack i t).pages = s.pages := rfl
@[simp] theorem State.putTrack_errIrqEnable (s : State) (i : Nat) (t : Track) : (s.putTrack i t).errIrqEnable = s.errIrqEnable := rfl
@[simp] theorem State.putTrack_errIrqVec (s : State) (i : Nat) (t : Track) : (s.putTrack i t).errIrqVec = s.errIrqVec := rfl
@[simp] theorem State.putTrack_errIrqMore (s : State) (i : Nat) (t : Track) : (s.putTrack i t).errIrqMore = s.errIrqMore := rfl
@[simp] theorem State.putTrack_queues (s : State) (i : Nat) (t : Track) : (s.putTrack i t).queues = s.queues := rfl
@[simp] theorem State.putTrack_fetches (s : State) (i : Nat) (t : Track) : (s.putTrack i t).fetches = s.fetches := rfl
@[simp] theorem State.putTrack_ready (s : State) (i : Nat) (t : Track) : (s.putTrack i t).ready = s.ready := rfl
@[simp] theorem State.putTrack_rrQueue (s : State) (i : Nat) (t : Track) : (s.putTrack i t).rrQueue = s.rrQueue := rfl
@[simp] theorem State.putTrack_cmds (s : State) (i : Nat) (t : Track) : (s.putTrack i t).cmds = s.cmds := rfl
@[simp] theorem State.putTrack_jnl (s : State) (i : Nat) (t : Track) : (s.putTrack i t).jnl = s.jnl := rfl
@[simp] theorem State.putTrack_per (s : State) (i : Nat) (t : Track) : (s.putTrack i t).per = s.per := rfl
@[simp] theorem State.putTrack_threads (s : State) (i : Nat) (t : Track) : (s.putTrack i t).threads = s.threads := rfl
@[simp] theorem State.putTrack_hqs (s : State) (i : Nat) (t : Track) : (s.putTrack i t).hqs = s.hqs := rfl
@[simp] theorem State.putTrack_pools (s : State) (i : Nat) (t : Track) : (s.putTrack i t).pools = s.pools := rfl
@[simp] theorem State.putTrack_tracks (s : State) (i : Nat) (t : Track) : (s.putTrack i t).tracks = tabSet {} s.tracks i t := rfl
@[simp] theorem State.putTrack_shards (s : State) (i : Nat) (t : Track) : (s.putTrack i t).shards = s.shards := rfl
@[simp] theorem State.putTrack_shardWaits (s : State) (i : Nat) (t : Track) : (s.putTrack i t).shardWaits = s.shardWaits := rfl
@[simp] theorem State.putTrack_lnk (s : State) (i : Nat) (t : Track) : (s.putTrack i t).lnk = s.lnk := rfl
@[simp] theorem State.putTrack_twin (s : State) (i : Nat) (t : Track) : (s.putTrack i t).twin = s.twin := rfl
@[simp] theorem State.putTrack_gov (s : State) (i : Nat) (t : Track) : (s.putTrack i t).gov = s.gov := rfl
@[simp] theorem State.putTrack_boot (s : State) (i : Nat) (t : Track) : (s.putTrack i t).boot = s.boot := rfl
@[simp] theorem State.putTrack_grey (s : State) (i : Nat) (t : Track) : (s.putTrack i t).grey = s.grey := rfl
@[simp] theorem State.putTrack_outbox (s : State) (i : Nat) (t : Track) : (s.putTrack i t).outbox = s.outbox := rfl
@[simp] theorem State.putTrack_pending (s : State) (i : Nat) (t : Track) : (s.putTrack i t).pending = s.pending := rfl

/-! ### putGroup -/

@[simp] theorem State.putGroup_part (s : State) (g : Nat) (x : Group) : (s.putGroup g x).part = s.part := rfl
@[simp] theorem State.putGroup_power (s : State) (g : Nat) (x : Group) : (s.putGroup g x).power = s.power := rfl
@[simp] theorem State.putGroup_deviceStop (s : State) (g : Nat) (x : Group) : (s.putGroup g x).deviceStop = s.deviceStop := rfl
@[simp] theorem State.putGroup_cycles (s : State) (g : Nat) (x : Group) : (s.putGroup g x).cycles = s.cycles := rfl
@[simp] theorem State.putGroup_freeCount (s : State) (g : Nat) (x : Group) : (s.putGroup g x).freeCount = s.freeCount := rfl
@[simp] theorem State.putGroup_mem (s : State) (g : Nat) (x : Group) : (s.putGroup g x).mem = s.mem := rfl
@[simp] theorem State.putGroup_tow (s : State) (g : Nat) (x : Group) : (s.putGroup g x).tow = s.tow := rfl
@[simp] theorem State.putGroup_regions (s : State) (g : Nat) (x : Group) : (s.putGroup g x).regions = s.regions := rfl
@[simp] theorem State.putGroup_copy (s : State) (g : Nat) (x : Group) : (s.putGroup g x).copy = s.copy := rfl
@[simp] theorem State.putGroup_checkFenced (s : State) (g : Nat) (x : Group) : (s.putGroup g x).checkFenced = s.checkFenced := rfl
@[simp] theorem State.putGroup_pages (s : State) (g : Nat) (x : Group) : (s.putGroup g x).pages = s.pages := rfl
@[simp] theorem State.putGroup_errIrqEnable (s : State) (g : Nat) (x : Group) : (s.putGroup g x).errIrqEnable = s.errIrqEnable := rfl
@[simp] theorem State.putGroup_errIrqVec (s : State) (g : Nat) (x : Group) : (s.putGroup g x).errIrqVec = s.errIrqVec := rfl
@[simp] theorem State.putGroup_errIrqMore (s : State) (g : Nat) (x : Group) : (s.putGroup g x).errIrqMore = s.errIrqMore := rfl
@[simp] theorem State.putGroup_queues (s : State) (g : Nat) (x : Group) : (s.putGroup g x).queues = s.queues := rfl
@[simp] theorem State.putGroup_fetches (s : State) (g : Nat) (x : Group) : (s.putGroup g x).fetches = s.fetches := rfl
@[simp] theorem State.putGroup_ready (s : State) (g : Nat) (x : Group) : (s.putGroup g x).ready = s.ready := rfl
@[simp] theorem State.putGroup_rrQueue (s : State) (g : Nat) (x : Group) : (s.putGroup g x).rrQueue = s.rrQueue := rfl
@[simp] theorem State.putGroup_cmds (s : State) (g : Nat) (x : Group) : (s.putGroup g x).cmds = s.cmds := rfl
@[simp] theorem State.putGroup_jnl (s : State) (g : Nat) (x : Group) : (s.putGroup g x).jnl = s.jnl := rfl
@[simp] theorem State.putGroup_per (s : State) (g : Nat) (x : Group) : (s.putGroup g x).per = s.per := rfl
@[simp] theorem State.putGroup_threads (s : State) (g : Nat) (x : Group) : (s.putGroup g x).threads = s.threads := rfl
@[simp] theorem State.putGroup_hqs (s : State) (g : Nat) (x : Group) : (s.putGroup g x).hqs = s.hqs := rfl
@[simp] theorem State.putGroup_pools (s : State) (g : Nat) (x : Group) : (s.putGroup g x).pools = s.pools := rfl
@[simp] theorem State.putGroup_tracks (s : State) (g : Nat) (x : Group) : (s.putGroup g x).tracks = s.tracks := rfl
@[simp] theorem State.putGroup_shards (s : State) (g : Nat) (x : Group) : (s.putGroup g x).shards = s.shards := rfl
@[simp] theorem State.putGroup_shardWaits (s : State) (g : Nat) (x : Group) : (s.putGroup g x).shardWaits = s.shardWaits := rfl
@[simp] theorem State.putGroup_lnk (s : State) (g : Nat) (x : Group) : (s.putGroup g x).lnk = { s.lnk with groups := tabSet {} s.lnk.groups g x } := rfl
@[simp] theorem State.putGroup_twin (s : State) (g : Nat) (x : Group) : (s.putGroup g x).twin = s.twin := rfl
@[simp] theorem State.putGroup_gov (s : State) (g : Nat) (x : Group) : (s.putGroup g x).gov = s.gov := rfl
@[simp] theorem State.putGroup_boot (s : State) (g : Nat) (x : Group) : (s.putGroup g x).boot = s.boot := rfl
@[simp] theorem State.putGroup_grey (s : State) (g : Nat) (x : Group) : (s.putGroup g x).grey = s.grey := rfl
@[simp] theorem State.putGroup_outbox (s : State) (g : Nat) (x : Group) : (s.putGroup g x).outbox = s.outbox := rfl
@[simp] theorem State.putGroup_pending (s : State) (g : Nat) (x : Group) : (s.putGroup g x).pending = s.pending := rfl

/-! ### putLink -/

@[simp] theorem State.putLink_part (s : State) (l : Nat) (k : Link) : (s.putLink l k).part = s.part := rfl
@[simp] theorem State.putLink_power (s : State) (l : Nat) (k : Link) : (s.putLink l k).power = s.power := rfl
@[simp] theorem State.putLink_deviceStop (s : State) (l : Nat) (k : Link) : (s.putLink l k).deviceStop = s.deviceStop := rfl
@[simp] theorem State.putLink_cycles (s : State) (l : Nat) (k : Link) : (s.putLink l k).cycles = s.cycles := rfl
@[simp] theorem State.putLink_freeCount (s : State) (l : Nat) (k : Link) : (s.putLink l k).freeCount = s.freeCount := rfl
@[simp] theorem State.putLink_mem (s : State) (l : Nat) (k : Link) : (s.putLink l k).mem = s.mem := rfl
@[simp] theorem State.putLink_tow (s : State) (l : Nat) (k : Link) : (s.putLink l k).tow = s.tow := rfl
@[simp] theorem State.putLink_regions (s : State) (l : Nat) (k : Link) : (s.putLink l k).regions = s.regions := rfl
@[simp] theorem State.putLink_copy (s : State) (l : Nat) (k : Link) : (s.putLink l k).copy = s.copy := rfl
@[simp] theorem State.putLink_checkFenced (s : State) (l : Nat) (k : Link) : (s.putLink l k).checkFenced = s.checkFenced := rfl
@[simp] theorem State.putLink_pages (s : State) (l : Nat) (k : Link) : (s.putLink l k).pages = s.pages := rfl
@[simp] theorem State.putLink_errIrqEnable (s : State) (l : Nat) (k : Link) : (s.putLink l k).errIrqEnable = s.errIrqEnable := rfl
@[simp] theorem State.putLink_errIrqVec (s : State) (l : Nat) (k : Link) : (s.putLink l k).errIrqVec = s.errIrqVec := rfl
@[simp] theorem State.putLink_errIrqMore (s : State) (l : Nat) (k : Link) : (s.putLink l k).errIrqMore = s.errIrqMore := rfl
@[simp] theorem State.putLink_queues (s : State) (l : Nat) (k : Link) : (s.putLink l k).queues = s.queues := rfl
@[simp] theorem State.putLink_fetches (s : State) (l : Nat) (k : Link) : (s.putLink l k).fetches = s.fetches := rfl
@[simp] theorem State.putLink_ready (s : State) (l : Nat) (k : Link) : (s.putLink l k).ready = s.ready := rfl
@[simp] theorem State.putLink_rrQueue (s : State) (l : Nat) (k : Link) : (s.putLink l k).rrQueue = s.rrQueue := rfl
@[simp] theorem State.putLink_cmds (s : State) (l : Nat) (k : Link) : (s.putLink l k).cmds = s.cmds := rfl
@[simp] theorem State.putLink_jnl (s : State) (l : Nat) (k : Link) : (s.putLink l k).jnl = s.jnl := rfl
@[simp] theorem State.putLink_per (s : State) (l : Nat) (k : Link) : (s.putLink l k).per = s.per := rfl
@[simp] theorem State.putLink_threads (s : State) (l : Nat) (k : Link) : (s.putLink l k).threads = s.threads := rfl
@[simp] theorem State.putLink_hqs (s : State) (l : Nat) (k : Link) : (s.putLink l k).hqs = s.hqs := rfl
@[simp] theorem State.putLink_pools (s : State) (l : Nat) (k : Link) : (s.putLink l k).pools = s.pools := rfl
@[simp] theorem State.putLink_tracks (s : State) (l : Nat) (k : Link) : (s.putLink l k).tracks = s.tracks := rfl
@[simp] theorem State.putLink_shards (s : State) (l : Nat) (k : Link) : (s.putLink l k).shards = s.shards := rfl
@[simp] theorem State.putLink_shardWaits (s : State) (l : Nat) (k : Link) : (s.putLink l k).shardWaits = s.shardWaits := rfl
@[simp] theorem State.putLink_lnk (s : State) (l : Nat) (k : Link) : (s.putLink l k).lnk = { s.lnk with links := tabSet {} s.lnk.links l k } := rfl
@[simp] theorem State.putLink_twin (s : State) (l : Nat) (k : Link) : (s.putLink l k).twin = s.twin := rfl
@[simp] theorem State.putLink_gov (s : State) (l : Nat) (k : Link) : (s.putLink l k).gov = s.gov := rfl
@[simp] theorem State.putLink_boot (s : State) (l : Nat) (k : Link) : (s.putLink l k).boot = s.boot := rfl
@[simp] theorem State.putLink_grey (s : State) (l : Nat) (k : Link) : (s.putLink l k).grey = s.grey := rfl
@[simp] theorem State.putLink_outbox (s : State) (l : Nat) (k : Link) : (s.putLink l k).outbox = s.outbox := rfl
@[simp] theorem State.putLink_pending (s : State) (l : Nat) (k : Link) : (s.putLink l k).pending = s.pending := rfl

/-! ### modLnk -/

@[simp] theorem State.modLnk_part (s : State) (f : LinkComplex → LinkComplex) : (s.modLnk f).part = s.part := rfl
@[simp] theorem State.modLnk_power (s : State) (f : LinkComplex → LinkComplex) : (s.modLnk f).power = s.power := rfl
@[simp] theorem State.modLnk_deviceStop (s : State) (f : LinkComplex → LinkComplex) : (s.modLnk f).deviceStop = s.deviceStop := rfl
@[simp] theorem State.modLnk_cycles (s : State) (f : LinkComplex → LinkComplex) : (s.modLnk f).cycles = s.cycles := rfl
@[simp] theorem State.modLnk_freeCount (s : State) (f : LinkComplex → LinkComplex) : (s.modLnk f).freeCount = s.freeCount := rfl
@[simp] theorem State.modLnk_mem (s : State) (f : LinkComplex → LinkComplex) : (s.modLnk f).mem = s.mem := rfl
@[simp] theorem State.modLnk_tow (s : State) (f : LinkComplex → LinkComplex) : (s.modLnk f).tow = s.tow := rfl
@[simp] theorem State.modLnk_regions (s : State) (f : LinkComplex → LinkComplex) : (s.modLnk f).regions = s.regions := rfl
@[simp] theorem State.modLnk_copy (s : State) (f : LinkComplex → LinkComplex) : (s.modLnk f).copy = s.copy := rfl
@[simp] theorem State.modLnk_checkFenced (s : State) (f : LinkComplex → LinkComplex) : (s.modLnk f).checkFenced = s.checkFenced := rfl
@[simp] theorem State.modLnk_pages (s : State) (f : LinkComplex → LinkComplex) : (s.modLnk f).pages = s.pages := rfl
@[simp] theorem State.modLnk_errIrqEnable (s : State) (f : LinkComplex → LinkComplex) : (s.modLnk f).errIrqEnable = s.errIrqEnable := rfl
@[simp] theorem State.modLnk_errIrqVec (s : State) (f : LinkComplex → LinkComplex) : (s.modLnk f).errIrqVec = s.errIrqVec := rfl
@[simp] theorem State.modLnk_errIrqMore (s : State) (f : LinkComplex → LinkComplex) : (s.modLnk f).errIrqMore = s.errIrqMore := rfl
@[simp] theorem State.modLnk_queues (s : State) (f : LinkComplex → LinkComplex) : (s.modLnk f).queues = s.queues := rfl
@[simp] theorem State.modLnk_fetches (s : State) (f : LinkComplex → LinkComplex) : (s.modLnk f).fetches = s.fetches := rfl
@[simp] theorem State.modLnk_ready (s : State) (f : LinkComplex → LinkComplex) : (s.modLnk f).ready = s.ready := rfl
@[simp] theorem State.modLnk_rrQueue (s : State) (f : LinkComplex → LinkComplex) : (s.modLnk f).rrQueue = s.rrQueue := rfl
@[simp] theorem State.modLnk_cmds (s : State) (f : LinkComplex → LinkComplex) : (s.modLnk f).cmds = s.cmds := rfl
@[simp] theorem State.modLnk_jnl (s : State) (f : LinkComplex → LinkComplex) : (s.modLnk f).jnl = s.jnl := rfl
@[simp] theorem State.modLnk_per (s : State) (f : LinkComplex → LinkComplex) : (s.modLnk f).per = s.per := rfl
@[simp] theorem State.modLnk_threads (s : State) (f : LinkComplex → LinkComplex) : (s.modLnk f).threads = s.threads := rfl
@[simp] theorem State.modLnk_hqs (s : State) (f : LinkComplex → LinkComplex) : (s.modLnk f).hqs = s.hqs := rfl
@[simp] theorem State.modLnk_pools (s : State) (f : LinkComplex → LinkComplex) : (s.modLnk f).pools = s.pools := rfl
@[simp] theorem State.modLnk_tracks (s : State) (f : LinkComplex → LinkComplex) : (s.modLnk f).tracks = s.tracks := rfl
@[simp] theorem State.modLnk_shards (s : State) (f : LinkComplex → LinkComplex) : (s.modLnk f).shards = s.shards := rfl
@[simp] theorem State.modLnk_shardWaits (s : State) (f : LinkComplex → LinkComplex) : (s.modLnk f).shardWaits = s.shardWaits := rfl
@[simp] theorem State.modLnk_lnk (s : State) (f : LinkComplex → LinkComplex) : (s.modLnk f).lnk = f s.lnk := rfl
@[simp] theorem State.modLnk_twin (s : State) (f : LinkComplex → LinkComplex) : (s.modLnk f).twin = s.twin := rfl
@[simp] theorem State.modLnk_gov (s : State) (f : LinkComplex → LinkComplex) : (s.modLnk f).gov = s.gov := rfl
@[simp] theorem State.modLnk_boot (s : State) (f : LinkComplex → LinkComplex) : (s.modLnk f).boot = s.boot := rfl
@[simp] theorem State.modLnk_grey (s : State) (f : LinkComplex → LinkComplex) : (s.modLnk f).grey = s.grey := rfl
@[simp] theorem State.modLnk_outbox (s : State) (f : LinkComplex → LinkComplex) : (s.modLnk f).outbox = s.outbox := rfl
@[simp] theorem State.modLnk_pending (s : State) (f : LinkComplex → LinkComplex) : (s.modLnk f).pending = s.pending := rfl

/-! ### putGov -/

@[simp] theorem State.putGov_part (s : State) (g : Governor) : (s.putGov g).part = s.part := rfl
@[simp] theorem State.putGov_power (s : State) (g : Governor) : (s.putGov g).power = s.power := rfl
@[simp] theorem State.putGov_deviceStop (s : State) (g : Governor) : (s.putGov g).deviceStop = s.deviceStop := rfl
@[simp] theorem State.putGov_cycles (s : State) (g : Governor) : (s.putGov g).cycles = s.cycles := rfl
@[simp] theorem State.putGov_freeCount (s : State) (g : Governor) : (s.putGov g).freeCount = s.freeCount := rfl
@[simp] theorem State.putGov_mem (s : State) (g : Governor) : (s.putGov g).mem = s.mem := rfl
@[simp] theorem State.putGov_tow (s : State) (g : Governor) : (s.putGov g).tow = s.tow := rfl
@[simp] theorem State.putGov_regions (s : State) (g : Governor) : (s.putGov g).regions = s.regions := rfl
@[simp] theorem State.putGov_copy (s : State) (g : Governor) : (s.putGov g).copy = s.copy := rfl
@[simp] theorem State.putGov_checkFenced (s : State) (g : Governor) : (s.putGov g).checkFenced = s.checkFenced := rfl
@[simp] theorem State.putGov_pages (s : State) (g : Governor) : (s.putGov g).pages = s.pages := rfl
@[simp] theorem State.putGov_errIrqEnable (s : State) (g : Governor) : (s.putGov g).errIrqEnable = s.errIrqEnable := rfl
@[simp] theorem State.putGov_errIrqVec (s : State) (g : Governor) : (s.putGov g).errIrqVec = s.errIrqVec := rfl
@[simp] theorem State.putGov_errIrqMore (s : State) (g : Governor) : (s.putGov g).errIrqMore = s.errIrqMore := rfl
@[simp] theorem State.putGov_queues (s : State) (g : Governor) : (s.putGov g).queues = s.queues := rfl
@[simp] theorem State.putGov_fetches (s : State) (g : Governor) : (s.putGov g).fetches = s.fetches := rfl
@[simp] theorem State.putGov_ready (s : State) (g : Governor) : (s.putGov g).ready = s.ready := rfl
@[simp] theorem State.putGov_rrQueue (s : State) (g : Governor) : (s.putGov g).rrQueue = s.rrQueue := rfl
@[simp] theorem State.putGov_cmds (s : State) (g : Governor) : (s.putGov g).cmds = s.cmds := rfl
@[simp] theorem State.putGov_jnl (s : State) (g : Governor) : (s.putGov g).jnl = s.jnl := rfl
@[simp] theorem State.putGov_per (s : State) (g : Governor) : (s.putGov g).per = s.per := rfl
@[simp] theorem State.putGov_threads (s : State) (g : Governor) : (s.putGov g).threads = s.threads := rfl
@[simp] theorem State.putGov_hqs (s : State) (g : Governor) : (s.putGov g).hqs = s.hqs := rfl
@[simp] theorem State.putGov_pools (s : State) (g : Governor) : (s.putGov g).pools = s.pools := rfl
@[simp] theorem State.putGov_tracks (s : State) (g : Governor) : (s.putGov g).tracks = s.tracks := rfl
@[simp] theorem State.putGov_shards (s : State) (g : Governor) : (s.putGov g).shards = s.shards := rfl
@[simp] theorem State.putGov_shardWaits (s : State) (g : Governor) : (s.putGov g).shardWaits = s.shardWaits := rfl
@[simp] theorem State.putGov_lnk (s : State) (g : Governor) : (s.putGov g).lnk = s.lnk := rfl
@[simp] theorem State.putGov_twin (s : State) (g : Governor) : (s.putGov g).twin = s.twin := rfl
@[simp] theorem State.putGov_gov (s : State) (g : Governor) : (s.putGov g).gov = g := rfl
@[simp] theorem State.putGov_boot (s : State) (g : Governor) : (s.putGov g).boot = s.boot := rfl
@[simp] theorem State.putGov_grey (s : State) (g : Governor) : (s.putGov g).grey = s.grey := rfl
@[simp] theorem State.putGov_outbox (s : State) (g : Governor) : (s.putGov g).outbox = s.outbox := rfl
@[simp] theorem State.putGov_pending (s : State) (g : Governor) : (s.putGov g).pending = s.pending := rfl

/-! ### modGrey -/

@[simp] theorem State.modGrey_part (s : State) (f : Grey → Grey) : (s.modGrey f).part = s.part := rfl
@[simp] theorem State.modGrey_power (s : State) (f : Grey → Grey) : (s.modGrey f).power = s.power := rfl
@[simp] theorem State.modGrey_deviceStop (s : State) (f : Grey → Grey) : (s.modGrey f).deviceStop = s.deviceStop := rfl
@[simp] theorem State.modGrey_cycles (s : State) (f : Grey → Grey) : (s.modGrey f).cycles = s.cycles := rfl
@[simp] theorem State.modGrey_freeCount (s : State) (f : Grey → Grey) : (s.modGrey f).freeCount = s.freeCount := rfl
@[simp] theorem State.modGrey_mem (s : State) (f : Grey → Grey) : (s.modGrey f).mem = s.mem := rfl
@[simp] theorem State.modGrey_tow (s : State) (f : Grey → Grey) : (s.modGrey f).tow = s.tow := rfl
@[simp] theorem State.modGrey_regions (s : State) (f : Grey → Grey) : (s.modGrey f).regions = s.regions := rfl
@[simp] theorem State.modGrey_copy (s : State) (f : Grey → Grey) : (s.modGrey f).copy = s.copy := rfl
@[simp] theorem State.modGrey_checkFenced (s : State) (f : Grey → Grey) : (s.modGrey f).checkFenced = s.checkFenced := rfl
@[simp] theorem State.modGrey_pages (s : State) (f : Grey → Grey) : (s.modGrey f).pages = s.pages := rfl
@[simp] theorem State.modGrey_errIrqEnable (s : State) (f : Grey → Grey) : (s.modGrey f).errIrqEnable = s.errIrqEnable := rfl
@[simp] theorem State.modGrey_errIrqVec (s : State) (f : Grey → Grey) : (s.modGrey f).errIrqVec = s.errIrqVec := rfl
@[simp] theorem State.modGrey_errIrqMore (s : State) (f : Grey → Grey) : (s.modGrey f).errIrqMore = s.errIrqMore := rfl
@[simp] theorem State.modGrey_queues (s : State) (f : Grey → Grey) : (s.modGrey f).queues = s.queues := rfl
@[simp] theorem State.modGrey_fetches (s : State) (f : Grey → Grey) : (s.modGrey f).fetches = s.fetches := rfl
@[simp] theorem State.modGrey_ready (s : State) (f : Grey → Grey) : (s.modGrey f).ready = s.ready := rfl
@[simp] theorem State.modGrey_rrQueue (s : State) (f : Grey → Grey) : (s.modGrey f).rrQueue = s.rrQueue := rfl
@[simp] theorem State.modGrey_cmds (s : State) (f : Grey → Grey) : (s.modGrey f).cmds = s.cmds := rfl
@[simp] theorem State.modGrey_jnl (s : State) (f : Grey → Grey) : (s.modGrey f).jnl = s.jnl := rfl
@[simp] theorem State.modGrey_per (s : State) (f : Grey → Grey) : (s.modGrey f).per = s.per := rfl
@[simp] theorem State.modGrey_threads (s : State) (f : Grey → Grey) : (s.modGrey f).threads = s.threads := rfl
@[simp] theorem State.modGrey_hqs (s : State) (f : Grey → Grey) : (s.modGrey f).hqs = s.hqs := rfl
@[simp] theorem State.modGrey_pools (s : State) (f : Grey → Grey) : (s.modGrey f).pools = s.pools := rfl
@[simp] theorem State.modGrey_tracks (s : State) (f : Grey → Grey) : (s.modGrey f).tracks = s.tracks := rfl
@[simp] theorem State.modGrey_shards (s : State) (f : Grey → Grey) : (s.modGrey f).shards = s.shards := rfl
@[simp] theorem State.modGrey_shardWaits (s : State) (f : Grey → Grey) : (s.modGrey f).shardWaits = s.shardWaits := rfl
@[simp] theorem State.modGrey_lnk (s : State) (f : Grey → Grey) : (s.modGrey f).lnk = s.lnk := rfl
@[simp] theorem State.modGrey_twin (s : State) (f : Grey → Grey) : (s.modGrey f).twin = s.twin := rfl
@[simp] theorem State.modGrey_gov (s : State) (f : Grey → Grey) : (s.modGrey f).gov = s.gov := rfl
@[simp] theorem State.modGrey_boot (s : State) (f : Grey → Grey) : (s.modGrey f).boot = s.boot := rfl
@[simp] theorem State.modGrey_grey (s : State) (f : Grey → Grey) : (s.modGrey f).grey = f s.grey := rfl
@[simp] theorem State.modGrey_outbox (s : State) (f : Grey → Grey) : (s.modGrey f).outbox = s.outbox := rfl
@[simp] theorem State.modGrey_pending (s : State) (f : Grey → Grey) : (s.modGrey f).pending = s.pending := rfl

/-! ### dropRequest -/

@[simp] theorem State.dropRequest_part (s : State) (id : Nat) : (s.dropRequest id).part = s.part := rfl
@[simp] theorem State.dropRequest_power (s : State) (id : Nat) : (s.dropRequest id).power = s.power := rfl
@[simp] theorem State.dropRequest_deviceStop (s : State) (id : Nat) : (s.dropRequest id).deviceStop = s.deviceStop := rfl
@[simp] theorem State.dropRequest_cycles (s : State) (id : Nat) : (s.dropRequest id).cycles = s.cycles := rfl
@[simp] theorem State.dropRequest_freeCount (s : State) (id : Nat) : (s.dropRequest id).freeCount = s.freeCount := rfl
@[simp] theorem State.dropRequest_mem (s : State) (id : Nat) : (s.dropRequest id).mem = s.mem := rfl
@[simp] theorem State.dropRequest_tow (s : State) (id : Nat) : (s.dropRequest id).tow = s.tow := rfl
@[simp] theorem State.dropRequest_regions (s : State) (id : Nat) : (s.dropRequest id).regions = s.regions := rfl
@[simp] theorem State.dropRequest_copy (s : State) (id : Nat) : (s.dropRequest id).copy = s.copy := rfl
@[simp] theorem State.dropRequest_checkFenced (s : State) (id : Nat) : (s.dropRequest id).checkFenced = s.checkFenced := rfl
@[simp] theorem State.dropRequest_pages (s : State) (id : Nat) : (s.dropRequest id).pages = s.pages := rfl
@[simp] theorem State.dropRequest_errIrqEnable (s : State) (id : Nat) : (s.dropRequest id).errIrqEnable = s.errIrqEnable := rfl
@[simp] theorem State.dropRequest_errIrqVec (s : State) (id : Nat) : (s.dropRequest id).errIrqVec = s.errIrqVec := rfl
@[simp] theorem State.dropRequest_errIrqMore (s : State) (id : Nat) : (s.dropRequest id).errIrqMore = s.errIrqMore := rfl
@[simp] theorem State.dropRequest_queues (s : State) (id : Nat) : (s.dropRequest id).queues = s.queues := rfl
@[simp] theorem State.dropRequest_fetches (s : State) (id : Nat) : (s.dropRequest id).fetches = s.fetches := rfl
@[simp] theorem State.dropRequest_ready (s : State) (id : Nat) : (s.dropRequest id).ready = s.ready := rfl
@[simp] theorem State.dropRequest_rrQueue (s : State) (id : Nat) : (s.dropRequest id).rrQueue = s.rrQueue := rfl
@[simp] theorem State.dropRequest_cmds (s : State) (id : Nat) : (s.dropRequest id).cmds = s.cmds := rfl
@[simp] theorem State.dropRequest_jnl (s : State) (id : Nat) : (s.dropRequest id).jnl = s.jnl := rfl
@[simp] theorem State.dropRequest_per (s : State) (id : Nat) : (s.dropRequest id).per = { s.per with requests := s.per.requests.filter (fun r => r.id != id) } := rfl
@[simp] theorem State.dropRequest_threads (s : State) (id : Nat) : (s.dropRequest id).threads = s.threads := rfl
@[simp] theorem State.dropRequest_hqs (s : State) (id : Nat) : (s.dropRequest id).hqs = s.hqs := rfl
@[simp] theorem State.dropRequest_pools (s : State) (id : Nat) : (s.dropRequest id).pools = s.pools := rfl
@[simp] theorem State.dropRequest_tracks (s : State) (id : Nat) : (s.dropRequest id).tracks = s.tracks := rfl
@[simp] theorem State.dropRequest_shards (s : State) (id : Nat) : (s.dropRequest id).shards = s.shards := rfl
@[simp] theorem State.dropRequest_shardWaits (s : State) (id : Nat) : (s.dropRequest id).shardWaits = s.shardWaits := rfl
@[simp] theorem State.dropRequest_lnk (s : State) (id : Nat) : (s.dropRequest id).lnk = s.lnk := rfl
@[simp] theorem State.dropRequest_twin (s : State) (id : Nat) : (s.dropRequest id).twin = s.twin := rfl
@[simp] theorem State.dropRequest_gov (s : State) (id : Nat) : (s.dropRequest id).gov = s.gov := rfl
@[simp] theorem State.dropRequest_boot (s : State) (id : Nat) : (s.dropRequest id).boot = s.boot := rfl
@[simp] theorem State.dropRequest_grey (s : State) (id : Nat) : (s.dropRequest id).grey = s.grey := rfl
@[simp] theorem State.dropRequest_outbox (s : State) (id : Nat) : (s.dropRequest id).outbox = s.outbox := rfl
@[simp] theorem State.dropRequest_pending (s : State) (id : Nat) : (s.dropRequest id).pending = s.pending := rfl

/-! ### fwIs -/

@[simp] theorem State.fwIs_part (s : State) (st fail : Nat) : (s.fwIs st fail).part = s.part := rfl
@[simp] theorem State.fwIs_power (s : State) (st fail : Nat) : (s.fwIs st fail).power = s.power := rfl
@[simp] theorem State.fwIs_deviceStop (s : State) (st fail : Nat) : (s.fwIs st fail).deviceStop = s.deviceStop := rfl
@[simp] theorem State.fwIs_cycles (s : State) (st fail : Nat) : (s.fwIs st fail).cycles = s.cycles := rfl
@[simp] theorem State.fwIs_freeCount (s : State) (st fail : Nat) : (s.fwIs st fail).freeCount = s.freeCount := rfl
@[simp] theorem State.fwIs_mem (s : State) (st fail : Nat) : (s.fwIs st fail).mem = s.mem := rfl
@[simp] theorem State.fwIs_tow (s : State) (st fail : Nat) : (s.fwIs st fail).tow = s.tow := rfl
@[simp] theorem State.fwIs_regions (s : State) (st fail : Nat) : (s.fwIs st fail).regions = s.regions := rfl
@[simp] theorem State.fwIs_copy (s : State) (st fail : Nat) : (s.fwIs st fail).copy = s.copy := rfl
@[simp] theorem State.fwIs_checkFenced (s : State) (st fail : Nat) : (s.fwIs st fail).checkFenced = s.checkFenced := rfl
@[simp] theorem State.fwIs_pages (s : State) (st fail : Nat) : (s.fwIs st fail).pages = s.pages := rfl
@[simp] theorem State.fwIs_errIrqEnable (s : State) (st fail : Nat) : (s.fwIs st fail).errIrqEnable = s.errIrqEnable := rfl
@[simp] theorem State.fwIs_errIrqVec (s : State) (st fail : Nat) : (s.fwIs st fail).errIrqVec = s.errIrqVec := rfl
@[simp] theorem State.fwIs_errIrqMore (s : State) (st fail : Nat) : (s.fwIs st fail).errIrqMore = s.errIrqMore := rfl
@[simp] theorem State.fwIs_queues (s : State) (st fail : Nat) : (s.fwIs st fail).queues = s.queues := rfl
@[simp] theorem State.fwIs_fetches (s : State) (st fail : Nat) : (s.fwIs st fail).fetches = s.fetches := rfl
@[simp] theorem State.fwIs_ready (s : State) (st fail : Nat) : (s.fwIs st fail).ready = s.ready := rfl
@[simp] theorem State.fwIs_rrQueue (s : State) (st fail : Nat) : (s.fwIs st fail).rrQueue = s.rrQueue := rfl
@[simp] theorem State.fwIs_cmds (s : State) (st fail : Nat) : (s.fwIs st fail).cmds = s.cmds := rfl
@[simp] theorem State.fwIs_jnl (s : State) (st fail : Nat) : (s.fwIs st fail).jnl = s.jnl := rfl
@[simp] theorem State.fwIs_per (s : State) (st fail : Nat) : (s.fwIs st fail).per = s.per := rfl
@[simp] theorem State.fwIs_threads (s : State) (st fail : Nat) : (s.fwIs st fail).threads = s.threads := rfl
@[simp] theorem State.fwIs_hqs (s : State) (st fail : Nat) : (s.fwIs st fail).hqs = s.hqs := rfl
@[simp] theorem State.fwIs_pools (s : State) (st fail : Nat) : (s.fwIs st fail).pools = s.pools := rfl
@[simp] theorem State.fwIs_tracks (s : State) (st fail : Nat) : (s.fwIs st fail).tracks = s.tracks := rfl
@[simp] theorem State.fwIs_shards (s : State) (st fail : Nat) : (s.fwIs st fail).shards = s.shards := rfl
@[simp] theorem State.fwIs_shardWaits (s : State) (st fail : Nat) : (s.fwIs st fail).shardWaits = s.shardWaits := rfl
@[simp] theorem State.fwIs_lnk (s : State) (st fail : Nat) : (s.fwIs st fail).lnk = s.lnk := rfl
@[simp] theorem State.fwIs_twin (s : State) (st fail : Nat) : (s.fwIs st fail).twin = s.twin := rfl
@[simp] theorem State.fwIs_gov (s : State) (st fail : Nat) : (s.fwIs st fail).gov = s.gov := rfl
@[simp] theorem State.fwIs_boot (s : State) (st fail : Nat) : (s.fwIs st fail).boot = { s.boot with fwState := st, fwFail := fail } := rfl
@[simp] theorem State.fwIs_grey (s : State) (st fail : Nat) : (s.fwIs st fail).grey = s.grey := rfl
@[simp] theorem State.fwIs_outbox (s : State) (st fail : Nat) : (s.fwIs st fail).outbox = s.outbox := rfl
@[simp] theorem State.fwIs_pending (s : State) (st fail : Nat) : (s.fwIs st fail).pending = s.pending := rfl

/-! ### halt -/

@[simp] theorem State.halt_part (s : State) (reason : Nat) : (s.halt reason).part = s.part := rfl
@[simp] theorem State.halt_power (s : State) (reason : Nat) : (s.halt reason).power = s.power := rfl
@[simp] theorem State.halt_deviceStop (s : State) (reason : Nat) : (s.halt reason).deviceStop = s.deviceStop := rfl
@[simp] theorem State.halt_cycles (s : State) (reason : Nat) : (s.halt reason).cycles = s.cycles := rfl
@[simp] theorem State.halt_freeCount (s : State) (reason : Nat) : (s.halt reason).freeCount = s.freeCount := rfl
@[simp] theorem State.halt_mem (s : State) (reason : Nat) : (s.halt reason).mem = s.mem := rfl
@[simp] theorem State.halt_tow (s : State) (reason : Nat) : (s.halt reason).tow = s.tow := rfl
@[simp] theorem State.halt_regions (s : State) (reason : Nat) : (s.halt reason).regions = s.regions := rfl
@[simp] theorem State.halt_copy (s : State) (reason : Nat) : (s.halt reason).copy = s.copy := rfl
@[simp] theorem State.halt_checkFenced (s : State) (reason : Nat) : (s.halt reason).checkFenced = s.checkFenced := rfl
@[simp] theorem State.halt_pages (s : State) (reason : Nat) : (s.halt reason).pages = s.pages := rfl
@[simp] theorem State.halt_errIrqEnable (s : State) (reason : Nat) : (s.halt reason).errIrqEnable = s.errIrqEnable := rfl
@[simp] theorem State.halt_errIrqVec (s : State) (reason : Nat) : (s.halt reason).errIrqVec = s.errIrqVec := rfl
@[simp] theorem State.halt_errIrqMore (s : State) (reason : Nat) : (s.halt reason).errIrqMore = s.errIrqMore := rfl
@[simp] theorem State.halt_queues (s : State) (reason : Nat) : (s.halt reason).queues = s.queues := rfl
@[simp] theorem State.halt_fetches (s : State) (reason : Nat) : (s.halt reason).fetches = s.fetches := rfl
@[simp] theorem State.halt_ready (s : State) (reason : Nat) : (s.halt reason).ready = s.ready := rfl
@[simp] theorem State.halt_rrQueue (s : State) (reason : Nat) : (s.halt reason).rrQueue = s.rrQueue := rfl
@[simp] theorem State.halt_cmds (s : State) (reason : Nat) : (s.halt reason).cmds = s.cmds := rfl
@[simp] theorem State.halt_jnl (s : State) (reason : Nat) : (s.halt reason).jnl = s.jnl := rfl
@[simp] theorem State.halt_per (s : State) (reason : Nat) : (s.halt reason).per = s.per := rfl
@[simp] theorem State.halt_threads (s : State) (reason : Nat) : (s.halt reason).threads = s.threads := rfl
@[simp] theorem State.halt_hqs (s : State) (reason : Nat) : (s.halt reason).hqs = s.hqs := rfl
@[simp] theorem State.halt_pools (s : State) (reason : Nat) : (s.halt reason).pools = s.pools := rfl
@[simp] theorem State.halt_tracks (s : State) (reason : Nat) : (s.halt reason).tracks = s.tracks := rfl
@[simp] theorem State.halt_shards (s : State) (reason : Nat) : (s.halt reason).shards = s.shards := rfl
@[simp] theorem State.halt_shardWaits (s : State) (reason : Nat) : (s.halt reason).shardWaits = s.shardWaits := rfl
@[simp] theorem State.halt_lnk (s : State) (reason : Nat) : (s.halt reason).lnk = s.lnk := rfl
@[simp] theorem State.halt_twin (s : State) (reason : Nat) : (s.halt reason).twin = s.twin := rfl
@[simp] theorem State.halt_gov (s : State) (reason : Nat) : (s.halt reason).gov = s.gov := rfl
@[simp] theorem State.halt_boot (s : State) (reason : Nat) : (s.halt reason).boot = { s.boot with stage := .halted, haltReason := reason } := rfl
@[simp] theorem State.halt_grey (s : State) (reason : Nat) : (s.halt reason).grey = s.grey := rfl
@[simp] theorem State.halt_outbox (s : State) (reason : Nat) : (s.halt reason).outbox = s.outbox := rfl
@[simp] theorem State.halt_pending (s : State) (reason : Nat) : (s.halt reason).pending = s.pending := rfl

/-! ### putPage and modPage: a header changes, and the error interrupt may follow -/

@[simp] theorem State.putPage_part (s : State) (p : Nat) (h : Page) : (s.putPage p h).part = s.part := by unfold State.putPage; simp only []; split <;> rfl
@[simp] theorem State.modPage_part (s : State) (p : Nat) (f : Page → Page) : (s.modPage p f).part = s.part := State.putPage_part s p _
@[simp] theorem State.putPage_power (s : State) (p : Nat) (h : Page) : (s.putPage p h).power = s.power := by unfold State.putPage; simp only []; split <;> rfl
@[simp] theorem State.modPage_power (s : State) (p : Nat) (f : Page → Page) : (s.modPage p f).power = s.power := State.putPage_power s p _
@[simp] theorem State.putPage_deviceStop (s : State) (p : Nat) (h : Page) : (s.putPage p h).deviceStop = s.deviceStop := by unfold State.putPage; simp only []; split <;> rfl
@[simp] theorem State.modPage_deviceStop (s : State) (p : Nat) (f : Page → Page) : (s.modPage p f).deviceStop = s.deviceStop := State.putPage_deviceStop s p _
@[simp] theorem State.putPage_cycles (s : State) (p : Nat) (h : Page) : (s.putPage p h).cycles = s.cycles := by unfold State.putPage; simp only []; split <;> rfl
@[simp] theorem State.modPage_cycles (s : State) (p : Nat) (f : Page → Page) : (s.modPage p f).cycles = s.cycles := State.putPage_cycles s p _
@[simp] theorem State.putPage_freeCount (s : State) (p : Nat) (h : Page) : (s.putPage p h).freeCount = s.freeCount := by unfold State.putPage; simp only []; split <;> rfl
@[simp] theorem State.modPage_freeCount (s : State) (p : Nat) (f : Page → Page) : (s.modPage p f).freeCount = s.freeCount := State.putPage_freeCount s p _
@[simp] theorem State.putPage_mem (s : State) (p : Nat) (h : Page) : (s.putPage p h).mem = s.mem := by unfold State.putPage; simp only []; split <;> rfl
@[simp] theorem State.modPage_mem (s : State) (p : Nat) (f : Page → Page) : (s.modPage p f).mem = s.mem := State.putPage_mem s p _
@[simp] theorem State.putPage_tow (s : State) (p : Nat) (h : Page) : (s.putPage p h).tow = s.tow := by unfold State.putPage; simp only []; split <;> rfl
@[simp] theorem State.modPage_tow (s : State) (p : Nat) (f : Page → Page) : (s.modPage p f).tow = s.tow := State.putPage_tow s p _
@[simp] theorem State.putPage_regions (s : State) (p : Nat) (h : Page) : (s.putPage p h).regions = s.regions := by unfold State.putPage; simp only []; split <;> rfl
@[simp] theorem State.modPage_regions (s : State) (p : Nat) (f : Page → Page) : (s.modPage p f).regions = s.regions := State.putPage_regions s p _
@[simp] theorem State.putPage_copy (s : State) (p : Nat) (h : Page) : (s.putPage p h).copy = s.copy := by unfold State.putPage; simp only []; split <;> rfl
@[simp] theorem State.modPage_copy (s : State) (p : Nat) (f : Page → Page) : (s.modPage p f).copy = s.copy := State.putPage_copy s p _
@[simp] theorem State.putPage_checkFenced (s : State) (p : Nat) (h : Page) : (s.putPage p h).checkFenced = s.checkFenced := by unfold State.putPage; simp only []; split <;> rfl
@[simp] theorem State.modPage_checkFenced (s : State) (p : Nat) (f : Page → Page) : (s.modPage p f).checkFenced = s.checkFenced := State.putPage_checkFenced s p _
@[simp] theorem State.putPage_errIrqEnable (s : State) (p : Nat) (h : Page) : (s.putPage p h).errIrqEnable = s.errIrqEnable := by unfold State.putPage; simp only []; split <;> rfl
@[simp] theorem State.modPage_errIrqEnable (s : State) (p : Nat) (f : Page → Page) : (s.modPage p f).errIrqEnable = s.errIrqEnable := State.putPage_errIrqEnable s p _
@[simp] theorem State.putPage_errIrqVec (s : State) (p : Nat) (h : Page) : (s.putPage p h).errIrqVec = s.errIrqVec := by unfold State.putPage; simp only []; split <;> rfl
@[simp] theorem State.modPage_errIrqVec (s : State) (p : Nat) (f : Page → Page) : (s.modPage p f).errIrqVec = s.errIrqVec := State.putPage_errIrqVec s p _
@[simp] theorem State.putPage_queues (s : State) (p : Nat) (h : Page) : (s.putPage p h).queues = s.queues := by unfold State.putPage; simp only []; split <;> rfl
@[simp] theorem State.modPage_queues (s : State) (p : Nat) (f : Page → Page) : (s.modPage p f).queues = s.queues := State.putPage_queues s p _
@[simp] theorem State.putPage_fetches (s : State) (p : Nat) (h : Page) : (s.putPage p h).fetches = s.fetches := by unfold State.putPage; simp only []; split <;> rfl
@[simp] theorem State.modPage_fetches (s : State) (p : Nat) (f : Page → Page) : (s.modPage p f).fetches = s.fetches := State.putPage_fetches s p _
@[simp] theorem State.putPage_ready (s : State) (p : Nat) (h : Page) : (s.putPage p h).ready = s.ready := by unfold State.putPage; simp only []; split <;> rfl
@[simp] theorem State.modPage_ready (s : State) (p : Nat) (f : Page → Page) : (s.modPage p f).ready = s.ready := State.putPage_ready s p _
@[simp] theorem State.putPage_rrQueue (s : State) (p : Nat) (h : Page) : (s.putPage p h).rrQueue = s.rrQueue := by unfold State.putPage; simp only []; split <;> rfl
@[simp] theorem State.modPage_rrQueue (s : State) (p : Nat) (f : Page → Page) : (s.modPage p f).rrQueue = s.rrQueue := State.putPage_rrQueue s p _
@[simp] theorem State.putPage_cmds (s : State) (p : Nat) (h : Page) : (s.putPage p h).cmds = s.cmds := by unfold State.putPage; simp only []; split <;> rfl
@[simp] theorem State.modPage_cmds (s : State) (p : Nat) (f : Page → Page) : (s.modPage p f).cmds = s.cmds := State.putPage_cmds s p _
@[simp] theorem State.putPage_jnl (s : State) (p : Nat) (h : Page) : (s.putPage p h).jnl = s.jnl := by unfold State.putPage; simp only []; split <;> rfl
@[simp] theorem State.modPage_jnl (s : State) (p : Nat) (f : Page → Page) : (s.modPage p f).jnl = s.jnl := State.putPage_jnl s p _
@[simp] theorem State.putPage_per (s : State) (p : Nat) (h : Page) : (s.putPage p h).per = s.per := by unfold State.putPage; simp only []; split <;> rfl
@[simp] theorem State.modPage_per (s : State) (p : Nat) (f : Page → Page) : (s.modPage p f).per = s.per := State.putPage_per s p _
@[simp] theorem State.putPage_threads (s : State) (p : Nat) (h : Page) : (s.putPage p h).threads = s.threads := by unfold State.putPage; simp only []; split <;> rfl
@[simp] theorem State.modPage_threads (s : State) (p : Nat) (f : Page → Page) : (s.modPage p f).threads = s.threads := State.putPage_threads s p _
@[simp] theorem State.putPage_hqs (s : State) (p : Nat) (h : Page) : (s.putPage p h).hqs = s.hqs := by unfold State.putPage; simp only []; split <;> rfl
@[simp] theorem State.modPage_hqs (s : State) (p : Nat) (f : Page → Page) : (s.modPage p f).hqs = s.hqs := State.putPage_hqs s p _
@[simp] theorem State.putPage_pools (s : State) (p : Nat) (h : Page) : (s.putPage p h).pools = s.pools := by unfold State.putPage; simp only []; split <;> rfl
@[simp] theorem State.modPage_pools (s : State) (p : Nat) (f : Page → Page) : (s.modPage p f).pools = s.pools := State.putPage_pools s p _
@[simp] theorem State.putPage_tracks (s : State) (p : Nat) (h : Page) : (s.putPage p h).tracks = s.tracks := by unfold State.putPage; simp only []; split <;> rfl
@[simp] theorem State.modPage_tracks (s : State) (p : Nat) (f : Page → Page) : (s.modPage p f).tracks = s.tracks := State.putPage_tracks s p _
@[simp] theorem State.putPage_shards (s : State) (p : Nat) (h : Page) : (s.putPage p h).shards = s.shards := by unfold State.putPage; simp only []; split <;> rfl
@[simp] theorem State.modPage_shards (s : State) (p : Nat) (f : Page → Page) : (s.modPage p f).shards = s.shards := State.putPage_shards s p _
@[simp] theorem State.putPage_shardWaits (s : State) (p : Nat) (h : Page) : (s.putPage p h).shardWaits = s.shardWaits := by unfold State.putPage; simp only []; split <;> rfl
@[simp] theorem State.modPage_shardWaits (s : State) (p : Nat) (f : Page → Page) : (s.modPage p f).shardWaits = s.shardWaits := State.putPage_shardWaits s p _
@[simp] theorem State.putPage_lnk (s : State) (p : Nat) (h : Page) : (s.putPage p h).lnk = s.lnk := by unfold State.putPage; simp only []; split <;> rfl
@[simp] theorem State.modPage_lnk (s : State) (p : Nat) (f : Page → Page) : (s.modPage p f).lnk = s.lnk := State.putPage_lnk s p _
@[simp] theorem State.putPage_twin (s : State) (p : Nat) (h : Page) : (s.putPage p h).twin = s.twin := by unfold State.putPage; simp only []; split <;> rfl
@[simp] theorem State.modPage_twin (s : State) (p : Nat) (f : Page → Page) : (s.modPage p f).twin = s.twin := State.putPage_twin s p _
@[simp] theorem State.putPage_gov (s : State) (p : Nat) (h : Page) : (s.putPage p h).gov = s.gov := by unfold State.putPage; simp only []; split <;> rfl
@[simp] theorem State.modPage_gov (s : State) (p : Nat) (f : Page → Page) : (s.modPage p f).gov = s.gov := State.putPage_gov s p _
@[simp] theorem State.putPage_boot (s : State) (p : Nat) (h : Page) : (s.putPage p h).boot = s.boot := by unfold State.putPage; simp only []; split <;> rfl
@[simp] theorem State.modPage_boot (s : State) (p : Nat) (f : Page → Page) : (s.modPage p f).boot = s.boot := State.putPage_boot s p _
@[simp] theorem State.putPage_grey (s : State) (p : Nat) (h : Page) : (s.putPage p h).grey = s.grey := by unfold State.putPage; simp only []; split <;> rfl
@[simp] theorem State.modPage_grey (s : State) (p : Nat) (f : Page → Page) : (s.modPage p f).grey = s.grey := State.putPage_grey s p _
@[simp] theorem State.putPage_pending (s : State) (p : Nat) (h : Page) : (s.putPage p h).pending = s.pending := by unfold State.putPage; simp only []; split <;> rfl
@[simp] theorem State.modPage_pending (s : State) (p : Nat) (f : Page → Page) : (s.modPage p f).pending = s.pending := State.putPage_pending s p _
@[simp] theorem State.putPage_pages (s : State) (p : Nat) (h : Page) : (s.putPage p h).pages = tabSet {} s.pages p h := by
  unfold State.putPage; simp only []; split <;> rfl
@[simp] theorem State.modPage_pages (s : State) (p : Nat) (f : Page → Page) : (s.modPage p f).pages = tabSet {} s.pages p (f (s.page p)) :=
  State.putPage_pages s p _

end Sys2Proof.Machine
end

