-- ==== Sys2Proof/Laws/Tab.lean ====
section
/-! SUPPORT. Laws of sparse tables: reading after writing, and the canonical form that every operation keeps. -/

namespace Sys2Proof.Machine

variable {α : Type}

/-- Every listed key lies above a bound. -/
theorem tabWfFrom_some_iff [DecidableEq α] (d : α) (l k : Nat) (v : α) (t : Tab α) :
    tabWfFrom d (some l) ((k, v) :: t) = true ↔ l < k ∧ v ≠ d ∧ tabWfFrom d (some k) t = true := by
  simp [tabWfFrom, and_assoc]

/-- A table without a bound. -/
theorem tabWfFrom_none_iff [DecidableEq α] (d : α) (k : Nat) (v : α) (t : Tab α) :
    tabWfFrom d none ((k, v) :: t) = true ↔ v ≠ d ∧ tabWfFrom d (some k) t = true := by
  simp [tabWfFrom]

/-- A lower bound serves as well. -/
theorem tabWfFrom_mono [DecidableEq α] {d : α} {l m : Nat} (h : m ≤ l) {t : Tab α} (ht : tabWfFrom d (some l) t = true) :
    tabWfFrom d (some m) t = true := by
  cases t with
  | nil => rfl
  | cons e t =>
    obtain ⟨k, v⟩ := e
    rw [tabWfFrom_some_iff] at ht ⊢
    exact ⟨by omega, ht.2⟩

/-- A bounded table is canonical. -/
theorem tabWf_of_some [DecidableEq α] {d : α} {l : Nat} {t : Tab α} (ht : tabWfFrom d (some l) t = true) : tabWf d t = true := by
  cases t with
  | nil => rfl
  | cons e t =>
    obtain ⟨k, v⟩ := e
    rw [tabWfFrom_some_iff] at ht
    exact (tabWfFrom_none_iff d k v t).mpr ht.2

/-- The empty table is canonical. -/
@[simp] theorem tabWf_nil [DecidableEq α] (d : α) : tabWf d ([] : Tab α) = true := rfl

/-- A sublist of the entries is canonical. -/
theorem tabFilter_wf [DecidableEq α] {d : α} {t : Tab α} (p : Nat × α → Bool) :
    ∀ {lo : Option Nat}, tabWfFrom d lo t = true → tabWfFrom d lo (t.filter p) = true := by
  induction t with
  | nil => intro lo _; cases lo <;> rfl
  | cons e t ih =>
    obtain ⟨m, w⟩ := e
    intro lo ht
    simp only [List.filter]
    cases p (m, w) with
    | true =>
      cases lo with
      | none => rw [tabWfFrom_none_iff] at ht ⊢; exact ⟨ht.1, ih ht.2⟩
      | some l => rw [tabWfFrom_some_iff] at ht ⊢; exact ⟨ht.1, ht.2.1, ih ht.2.2⟩
    | false =>
      cases lo with
      | none => rw [tabWfFrom_none_iff] at ht; exact tabWf_of_some (ih ht.2)
      | some l => rw [tabWfFrom_some_iff] at ht; exact tabWfFrom_mono (by omega) (ih ht.2.2)

theorem tabErase_wf [DecidableEq α] {d : α} {t : Tab α} (k : Nat) {lo : Option Nat} (h : tabWfFrom d lo t = true) :
    tabWfFrom d lo (tabErase t k) = true := tabFilter_wf _ h

theorem tabInsert_wf [DecidableEq α] {d : α} {t : Tab α} {k : Nat} {v : α} (hv : v ≠ d) :
    ∀ {lo : Option Nat}, (∀ l, lo = some l → l < k) → tabWfFrom d lo t = true → tabWfFrom d lo (tabInsert t k v) = true := by
  induction t with
  | nil => intro lo hlo _; cases lo <;> simp [tabInsert, tabWfFrom, hv, hlo]
  | cons e t ih =>
    obtain ⟨m, w⟩ := e
    intro lo hlo ht
    unfold tabInsert
    split
    · rename_i h
      subst h
      cases lo with
      | none => rw [tabWfFrom_none_iff] at ht ⊢; exact ⟨hv, ht.2⟩
      | some l => rw [tabWfFrom_some_iff] at ht ⊢; exact ⟨ht.1, hv, ht.2.2⟩
    · split
      · rename_i h
        cases lo with
        | none => rw [tabWfFrom_none_iff] at ht; rw [tabWfFrom_none_iff, tabWfFrom_some_iff]; exact ⟨hv, h, ht⟩
        | some l => rw [tabWfFrom_some_iff] at ht; rw [tabWfFrom_some_iff, tabWfFrom_some_iff]; exact ⟨hlo l rfl, hv, h, ht.2⟩
      · have hk : m < k := by omega
        cases lo with
        | none => rw [tabWfFrom_none_iff] at ht ⊢; exact ⟨ht.1, ih (by intro l hl; cases hl; exact hk) ht.2⟩
        | some l => rw [tabWfFrom_some_iff] at ht ⊢; exact ⟨ht.1, ht.2.1, ih (by intro l hl; cases hl; exact hk) ht.2.2⟩

/-- Writing keeps the canonical form. -/
theorem tabSet_wf [DecidableEq α] {d : α} {t : Tab α} (k : Nat) (v : α) (ht : tabWf d t = true) : tabWf d (tabSet d t k v) = true := by
  unfold tabSet
  split
  · exact tabErase_wf k ht
  · exact tabInsert_wf ‹_› (by intro l hl; cases hl) ht

theorem tabGet_tabInsert (d : α) {t : Tab α} {k j : Nat} {v : α} :
    tabGet d (tabInsert t k v) j = if j = k then v else tabGet d t j := by
  induction t with
  | nil => simp only [tabInsert, tabGet]
  | cons e t ih =>
    obtain ⟨m, w⟩ := e
    simp only [tabInsert]
    split
    · subst_vars; simp only [tabGet]; split <;> rfl
    · split
      · simp only [tabGet]
      · simp only [tabGet, ih]; split <;> (try split) <;> first | rfl | omega

theorem tabGet_tabErase {d : α} {t : Tab α} {k j : Nat} : tabGet d (tabErase t k) j = if j = k then d else tabGet d t j := by
  unfold tabErase
  induction t with
  | nil => simp [tabGet]
  | cons e t ih =>
    obtain ⟨m, w⟩ := e
    by_cases h : m = k
    · subst h; simp only [List.filter, bne_self_eq_false, tabGet, ih]; split <;> rfl
    · simp only [List.filter, bne_iff_ne.mpr h, tabGet, ih]; split <;> (try split) <;> first | rfl | omega

/-- READ AFTER WRITE: the key written reads as written, and every other key reads as before. -/
theorem tabGet_tabSet [DecidableEq α] {d : α} {t : Tab α} (k j : Nat) (v : α) :
    tabGet d (tabSet d t k v) j = if j = k then v else tabGet d t j := by
  unfold tabSet
  split
  · subst_vars; exact tabGet_tabErase
  · exact tabGet_tabInsert d

/-- The key written reads as written. -/
@[simp] theorem tabGet_tabSet_same [DecidableEq α] {d : α} {t : Tab α} (k : Nat) (v : α) :
    tabGet d (tabSet d t k v) k = v := by simp [tabGet_tabSet]

end Sys2Proof.Machine
end

