-- ==== Sys2Proof/Laws/Keeps.lean ====
section
/-! SUPPORT. What every part of a step keeps: the queue of waiting commands, the part and its fuses, and the canonical form of memory. -/

namespace Sys2Proof.Machine

/-- `t` has `s`'s waiting commands, part and key fuses, a minimum SVN not below `s`'s, and a canonical memory when `s` has one. -/
structure Keeps (s t : State) : Prop where
  pending : t.pending = s.pending
  part    : t.part = s.part
  debug   : t.boot.debugKeys = s.boot.debugKeys
  vendor  : t.boot.vendorKeys = s.boot.vendorKeys
  seed    : t.boot.identitySeed = s.boot.identitySeed
  svn     : s.boot.svnMin ≤ t.boot.svnMin
  wf      : s.mem.wf = true → t.mem.wf = true

theorem Keeps.refl (s : State) : Keeps s s := ⟨rfl, rfl, rfl, rfl, rfl, Nat.le_refl _, id⟩

theorem Keeps.trans {s t u : State} (h : Keeps s t) (k : Keeps t u) : Keeps s u :=
  ⟨k.pending.trans h.pending, k.part.trans h.part, (Keeps.debug k).trans (Keeps.debug h), k.vendor.trans h.vendor, k.seed.trans h.seed,
   Nat.le_trans h.svn k.svn, fun w => k.wf (h.wf w)⟩

/-- A state that differs in none of these. -/
theorem Keeps.same {s t u : State} (h : Keeps s t) (hp : u.pending = t.pending) (hq : u.part = t.part) (hb : u.boot = t.boot) (hm : u.mem = t.mem) :
    Keeps s u :=
  ⟨hp.trans h.pending, hq.trans h.part, by rw [hb]; exact h.debug, by rw [hb]; exact h.vendor, by rw [hb]; exact h.seed,
   by rw [hb]; exact h.svn, fun w => by rw [hm]; exact h.wf w⟩

/-- A state whose memory alone differs, and is canonical when it was. -/
theorem Keeps.mem {s t u : State} (h : Keeps s t) (hp : u.pending = t.pending) (hq : u.part = t.part) (hb : u.boot = t.boot)
    (hm : t.mem.wf = true → u.mem.wf = true) : Keeps s u :=
  ⟨hp.trans h.pending, hq.trans h.part, by rw [hb]; exact h.debug, by rw [hb]; exact h.vendor, by rw [hb]; exact h.seed,
   by rw [hb]; exact h.svn, fun w => hm (h.wf w)⟩

/-- A state whose boot core alone differs, but not in its fuses. -/
theorem Keeps.bootSame {s t u : State} (h : Keeps s t) (hp : u.pending = t.pending) (hq : u.part = t.part) (hm : u.mem = t.mem)
    (h1 : u.boot.debugKeys = t.boot.debugKeys) (h2 : u.boot.vendorKeys = t.boot.vendorKeys) (h3 : u.boot.identitySeed = t.boot.identitySeed)
    (h4 : u.boot.svnMin = t.boot.svnMin) : Keeps s u :=
  ⟨hp.trans h.pending, hq.trans h.part, h1.trans h.debug, h2.trans h.vendor, h3.trans h.seed, by rw [h4]; exact h.svn,
   fun w => by rw [hm]; exact h.wf w⟩

/-- An update of other registers. -/
theorem Keeps.mkSame {s t : State} {xpower : Power} {xdeviceStop : Bool} {xcycles : Nat} {xfreeCount : Nat} {xtow : TowerComplex} {xregions : Tab Region} {xcopy : Tab CopyEngine} {xcheckFenced : Tab Bool} {xpages : Tab Page} {xerrIrqEnable : Bool} {xerrIrqVec : Nat} {xerrIrqMore : Bool} {xqueues : Tab QueueCtx} {xfetches : List Fetch} {xready : List Ready} {xrrQueue : Nat} {xcmds : List Cmd} {xjnl : Journal} {xper : Perast} {xthreads : List Thread} {xhqs : Tab HandleQueue} {xpools : Tab Pool} {xtracks : Tab Track} {xshards : List (Nat × Bytes)} {xshardWaits : List ShardWait} {xlnk : LinkComplex} {xtwin : Twin} {xgov : Governor} {xgrey : Grey} {xoutbox : List Out} (h : Keeps s t) :
    Keeps s (State.mk t.part xpower xdeviceStop xcycles xfreeCount t.mem xtow xregions xcopy xcheckFenced xpages xerrIrqEnable xerrIrqVec xerrIrqMore xqueues xfetches xready xrrQueue xcmds xjnl xper xthreads xhqs xpools xtracks xshards xshardWaits xlnk xtwin xgov t.boot xgrey xoutbox t.pending) := h.same rfl rfl rfl rfl

/-- An update of the boot core that leaves the fuses. -/
theorem Keeps.mkBoot {s t : State} {xpower : Power} {xdeviceStop : Bool} {xcycles : Nat} {xfreeCount : Nat} {xtow : TowerComplex} {xregions : Tab Region} {xcopy : Tab CopyEngine} {xcheckFenced : Tab Bool} {xpages : Tab Page} {xerrIrqEnable : Bool} {xerrIrqVec : Nat} {xerrIrqMore : Bool} {xqueues : Tab QueueCtx} {xfetches : List Fetch} {xready : List Ready} {xrrQueue : Nat} {xcmds : List Cmd} {xjnl : Journal} {xper : Perast} {xthreads : List Thread} {xhqs : Tab HandleQueue} {xpools : Tab Pool} {xtracks : Tab Track} {xshards : List (Nat × Bytes)} {xshardWaits : List ShardWait} {xlnk : LinkComplex} {xtwin : Twin} {xgov : Governor} {xboot : Boot} {xgrey : Grey} {xoutbox : List Out} (h : Keeps s t)
    (h1 : xboot.debugKeys = t.boot.debugKeys) (h2 : xboot.vendorKeys = t.boot.vendorKeys) (h3 : xboot.identitySeed = t.boot.identitySeed)
    (h4 : xboot.svnMin = t.boot.svnMin) :
    Keeps s (State.mk t.part xpower xdeviceStop xcycles xfreeCount t.mem xtow xregions xcopy xcheckFenced xpages xerrIrqEnable xerrIrqVec xerrIrqMore xqueues xfetches xready xrrQueue xcmds xjnl xper xthreads xhqs xpools xtracks xshards xshardWaits xlnk xtwin xgov xboot xgrey xoutbox t.pending) := h.bootSame rfl rfl rfl h1 h2 h3 h4

/-- An update of memory that keeps its canonical form. -/
theorem Keeps.mkMem {s t : State} {xpower : Power} {xdeviceStop : Bool} {xcycles : Nat} {xfreeCount : Nat} {xmem : Mem} {xtow : TowerComplex} {xregions : Tab Region} {xcopy : Tab CopyEngine} {xcheckFenced : Tab Bool} {xpages : Tab Page} {xerrIrqEnable : Bool} {xerrIrqVec : Nat} {xerrIrqMore : Bool} {xqueues : Tab QueueCtx} {xfetches : List Fetch} {xready : List Ready} {xrrQueue : Nat} {xcmds : List Cmd} {xjnl : Journal} {xper : Perast} {xthreads : List Thread} {xhqs : Tab HandleQueue} {xpools : Tab Pool} {xtracks : Tab Track} {xshards : List (Nat × Bytes)} {xshardWaits : List ShardWait} {xlnk : LinkComplex} {xtwin : Twin} {xgov : Governor} {xgrey : Grey} {xoutbox : List Out} (h : Keeps s t) (hm : t.mem.wf = true → xmem.wf = true) :
    Keeps s (State.mk t.part xpower xdeviceStop xcycles xfreeCount xmem xtow xregions xcopy xcheckFenced xpages xerrIrqEnable xerrIrqVec xerrIrqMore xqueues xfetches xready xrrQueue xcmds xjnl xper xthreads xhqs xpools xtracks xshards xshardWaits xlnk xtwin xgov t.boot xgrey xoutbox t.pending) := h.mem rfl rfl rfl hm

/-- A fold of a function that keeps them. -/
theorem Keeps.foldl {α : Type} {s t : State} {f : State → α → State} {l : List α} (hf : ∀ u x, Keeps s u → Keeps s (f u x)) (h : Keeps s t) :
    Keeps s (l.foldl f t) := by
  induction l generalizing t with
  | nil => exact h
  | cons x l ih => exact ih (hf t x h)

/-- What a computation that may stop with a status keeps when it goes on. -/
def KeepsR (s : State) (r : Except Status (State × Cmd)) : Prop := ∀ p, r = .ok p → Keeps s p.1

theorem KeepsR.ok {s t : State} {c : Cmd} (h : Keeps s t) : KeepsR s (.ok (t, c)) := by intro p e; cases e; exact h
theorem KeepsR.ok' {s : State} {p : State × Cmd} (h : Keeps s p.1) : KeepsR s (.ok p) := by intro p e; cases e; exact h
theorem KeepsR.error {s : State} {st : Status} : KeepsR s (.error st) := by intro p e; cases e
theorem KeepsR.bind {s : State} {x : Except Status (State × Cmd)} {f : State × Cmd → Except Status (State × Cmd)} (hx : KeepsR s x)
    (hf : ∀ p, Keeps s p.1 → KeepsR s (f p)) : KeepsR s (x >>= f) := by
  cases x with
  | error st => exact KeepsR.error
  | ok p => exact hf p (hx p rfl)
theorem KeepsR.bindV {α : Type} {s : State} {x : Except Status α} {f : α → Except Status (State × Cmd)} (hf : ∀ a, KeepsR s (f a)) :
    KeepsR s (x >>= f) := by
  cases x with
  | error st => exact KeepsR.error
  | ok a => exact hf a

theorem KeepsR.map {s : State} {x : Except Status (State × Cmd)} {f : State × Cmd → State × Cmd} (hx : KeepsR s x)
    (hf : ∀ p, Keeps s p.1 → Keeps s (f p).1) : KeepsR s (x.map f) := by
  cases x with
  | error st => exact KeepsR.error
  | ok p => exact KeepsR.ok' (hf p (hx p rfl))

/-- What a computation that went on has kept. -/
theorem KeepsR.of {s t : State} {c : Cmd} {r : Except Status (State × Cmd)} (hr : KeepsR s r) (e : r = .ok (t, c)) : Keeps s t := hr _ e

/-- A fold that may stop. -/
theorem Keeps.foldlM {α : Type} {s0 : State} {f : State → α → Except Status State} (hf : ∀ s x t, Keeps s0 s → f s x = .ok t → Keeps s0 t)
    (l : List α) {s t : State} (hk : Keeps s0 s) (e : l.foldlM f s = .ok t) : Keeps s0 t := by
  induction l generalizing s with
  | nil => cases e; exact hk
  | cons x l ih =>
    simp only [List.foldlM_cons, bind, Except.bind] at e
    split at e
    · cases e
    · exact ih (hf _ _ _ hk ‹_›) e

/-! ### Memory -/

theorem Mem.wf_def (m : Mem) : m.wf = true ↔ tabWf 0 m.cells = true ∧ tabWf false m.ivoryPoison = true ∧ tabWf false m.slicePoison = true ∧
    tabWf 0 m.umberPoison = true ∧ tabWf false m.lostCleared = true ∧ tabWf 1 m.granule = true := by
  simp [Mem.wf, and_assoc]

theorem Mem.setCell_wf {m : Mem} (k : Nat) (v : Byte) (h : m.wf = true) : (m.setCell k v).wf = true := by
  rw [Mem.wf_def] at h ⊢; exact ⟨tabSet_wf k v h.1, h.2⟩
theorem Mem.markIvory_wf {m : Mem} (g : Nat) (on : Bool) (h : m.wf = true) : (m.markIvory g on).wf = true := by
  rw [Mem.wf_def] at h ⊢; exact ⟨h.1, tabSet_wf _ _ h.2.1, h.2.2⟩
theorem Mem.markSlice_wf {m : Mem} (r : Nat) (on : Bool) (h : m.wf = true) : (m.markSlice r on).wf = true := by
  rw [Mem.wf_def] at h ⊢; exact ⟨h.1, tabFilter_wf _ h.2.1, tabSet_wf _ _ h.2.2.1, h.2.2.2⟩
theorem Mem.markUmber_wf {m : Mem} (k j : Nat) (on : Bool) (h : m.wf = true) : (m.markUmber k j on).wf = true := by
  rw [Mem.wf_def] at h ⊢; exact ⟨h.1, h.2.1, h.2.2.1, tabSet_wf _ _ h.2.2.2.1, h.2.2.2.2⟩
theorem Mem.markLost_wf {m : Mem} (k : Nat) (v : Bool) (h : m.wf = true) : ({ m with lostCleared := tabSet false m.lostCleared k v } : Mem).wf = true := by
  rw [Mem.wf_def] at h ⊢; exact ⟨h.1, h.2.1, h.2.2.1, h.2.2.2.1, tabSet_wf _ _ h.2.2.2.2.1, h.2.2.2.2.2⟩
theorem Mem.setGranule_wf {m : Mem} (k g : Nat) (h : m.wf = true) : ({ m with granule := tabSet 1 m.granule k g } : Mem).wf = true := by
  rw [Mem.wf_def] at h ⊢; exact ⟨h.1, h.2.1, h.2.2.1, h.2.2.2.1, h.2.2.2.2.1, tabSet_wf _ _ h.2.2.2.2.2⟩
theorem Mem.parity_wf {m : Mem} (p : List ParityLine) (h : m.wf = true) : ({ m with parity := p } : Mem).wf = true := h
theorem Mem.addOpen_wf {m : Mem} (o : OpenRange) (h : m.wf = true) : (m.addOpen o).wf = true := h
theorem Mem.closeBytes_wf {m : Mem} (a len : Nat) (h : m.wf = true) : (m.closeBytes a len).wf = true := by
  unfold Mem.closeBytes; split <;> exact h
theorem Mem.slateOnly_wf {m : Mem} (h : m.wf = true) : m.slateOnly.wf = true := by
  rw [Mem.wf_def] at h ⊢
  exact ⟨tabFilter_wf _ h.1, tabWf_nil _, tabWf_nil _, tabWf_nil _, tabWf_nil _, tabWf_nil _⟩

end Sys2Proof.Machine
end

