-- ==== Sys2Proof/Laws/KeepPages.lean ====
section
/-! SUPPORT. What the functions of Machine/Pages.lean keep: waiting commands, part, fuses and the canonical form of memory. -/

namespace Sys2Proof.Machine

theorem State.putPage_keeps {s0 : State} (s : State) (p : Nat) (h : Page) (hk : Keeps s0 s) : Keeps s0 (State.putPage s p h) := by
  unfold State.putPage
  dsimp only
  iterate 24 try any_goals
    first
    | with_reducible assumption | split | (with_reducible refine Keeps.mkBoot ?_ rfl rfl rfl rfl)

theorem State.modPage_keeps {s0 : State} (s : State) (p : Nat) (f : Page → Page) (hk : Keeps s0 s) : Keeps s0 (State.modPage s p f) := by
  unfold State.modPage
  iterate 24 try any_goals
    first
    | with_reducible assumption | with_reducible apply State.putPage_keeps | split

theorem State.count_keeps {s0 : State} (s : State) (p source k : Nat) (hk : Keeps s0 s) : Keeps s0 (State.count s p source k) := by
  unfold State.count
  iterate 24 try any_goals
    first
    | with_reducible assumption | split | (with_reducible refine Keeps.mkBoot ?_ rfl rfl rfl rfl)

theorem State.recordIn_keeps {s0 : State} (s : State) (p : Nat) (c : ErrClass) (detail : Nat) (injected : Bool) (hk : Keeps s0 s) : Keeps s0 (State.recordIn s p c detail injected) := by
  unfold State.recordIn
  iterate 24 try any_goals
    first
    | with_reducible assumption | with_reducible apply State.modPage_keeps | split

theorem State.escIn_keeps {s0 : State} (s : State) (p child : Nat) (hk : Keeps s0 s) : Keeps s0 (State.escIn s p child) := by
  unfold State.escIn
  iterate 24 try any_goals
    first
    | with_reducible assumption | with_reducible apply State.modPage_keeps | split

theorem State.record_keeps {s0 : State} (s : State) (p : Nat) (c : ErrClass) (detail : Nat) (hk : Keeps s0 s) : Keeps s0 (State.record s p c detail) := by
  unfold State.record
  iterate 24 try any_goals
    first
    | with_reducible assumption | with_reducible apply State.recordIn_keeps | split

theorem State.recordUp_keeps {s0 : State} (s : State) (p : Nat) (c : ErrClass) (detail : Nat) (hk : Keeps s0 s) : Keeps s0 (State.recordUp s p c detail) := by
  unfold State.recordUp
  iterate 24 try any_goals
    first
    | with_reducible assumption | with_reducible apply State.escIn_keeps | with_reducible apply State.record_keeps | split
    | (with_reducible refine Keeps.mkBoot ?_ rfl rfl rfl rfl)

theorem State.recordChip_keeps {s0 : State} (s : State) (p : Nat) (c : ErrClass) (detail : Nat) (hk : Keeps s0 s) : Keeps s0 (State.recordChip s p c detail) := by
  unfold State.recordChip
  iterate 24 try any_goals
    first
    | with_reducible assumption | with_reducible apply State.escIn_keeps | with_reducible apply State.record_keeps | split
    | (with_reducible refine Keeps.mkBoot ?_ rfl rfl rfl rfl)

theorem State.badWrite_keeps {s0 : State} (s : State) (p offset : Nat) (hk : Keeps s0 s) : Keeps s0 (State.badWrite s p offset) := by
  unfold State.badWrite
  iterate 24 try any_goals
    first
    | with_reducible assumption | with_reducible apply State.modPage_keeps | split

theorem State.raiseBlockBit_keeps {s0 : State} (s : State) (p bit detail : Nat) (hk : Keeps s0 s) : Keeps s0 (State.raiseBlockBit s p bit detail) := by
  unfold State.raiseBlockBit
  iterate 24 try any_goals
    first
    | with_reducible assumption | with_reducible apply State.modPage_keeps | split

theorem State.send_keeps {s0 : State} (s : State) (o : Out) (hk : Keeps s0 s) : Keeps s0 (State.send s o) := by
  unfold State.send
  iterate 24 try any_goals
    first
    | with_reducible assumption | split | (with_reducible refine Keeps.mkBoot ?_ rfl rfl rfl rfl)

end Sys2Proof.Machine
end

