-- ==== Sys2Proof/Laws/KeepRoute.lean ====
section
/-! SUPPORT. What the functions of Machine/Route.lean keep: waiting commands, part, fuses and the canonical form of memory. -/

namespace Sys2Proof.Machine

theorem State.putLink_keeps {s0 : State} (s : State) (l : Nat) (k : Link) (hk : Keeps s0 s) : Keeps s0 (State.putLink s l k) := by
  unfold State.putLink
  iterate 24 try any_goals
    first
    | with_reducible assumption | split | (with_reducible refine Keeps.mkBoot ?_ rfl rfl rfl rfl)

end Sys2Proof.Machine
end

