-- ==== Sys2Proof/Laws/KeepFlit.lean ====
section
/-! SUPPORT. What the functions of Machine/Flit.lean keep: waiting commands, part, fuses and the canonical form of memory. -/

namespace Sys2Proof.Machine

theorem State.emitFlit_keeps {s0 : State} (s : State) (l vc : Nat) (b : Bytes) (hk : Keeps s0 s) : Keeps s0 (State.emitFlit s l vc b) := by
  unfold State.emitFlit
  dsimp only
  iterate 24 try any_goals
    first
    | with_reducible assumption | with_reducible apply State.count_keeps | with_reducible apply State.send_keeps
    | with_reducible apply State.putLink_keeps | split | (with_reducible refine Keeps.mkBoot ?_ rfl rfl rfl rfl)

theorem State.sendFlit_keeps {s0 : State} (s : State) (l vc : Nat) (b : Bytes) (hk : Keeps s0 s) : Keeps s0 (State.sendFlit s l vc b) := by
  unfold State.sendFlit
  dsimp only
  iterate 24 try any_goals
    first
    | with_reducible assumption | with_reducible apply State.putLink_keeps | with_reducible apply State.emitFlit_keeps | split
    | (with_reducible refine Keeps.mkBoot ?_ rfl rfl rfl rfl)

theorem State.sendHeld_keeps {s0 : State} (s : State) (l : Nat) (hk : Keeps s0 s) : Keeps s0 (State.sendHeld s l) := by
  unfold State.sendHeld
  dsimp only
  iterate 24 try any_goals
    first
    | with_reducible assumption | with_reducible apply State.putLink_keeps | with_reducible apply State.emitFlit_keeps
    | (with_reducible apply Keeps.foldl; intro _ _ _; try dsimp only) | split | (with_reducible refine Keeps.mkBoot ?_ rfl rfl rfl rfl)

theorem State.sendChunk_keeps {s0 : State} (s : State) (links : List Nat) (dest : Nat) (bs : Bytes) (hk : Keeps s0 s) : Keeps s0 (State.sendChunk s links dest bs) := by
  unfold State.sendChunk
  dsimp only
  iterate 24 try any_goals
    first
    | with_reducible assumption | with_reducible apply State.sendFlit_keeps | (with_reducible apply Keeps.foldl; intro _ _ _; try dsimp only) | split
    | (with_reducible refine Keeps.mkBoot ?_ rfl rfl rfl rfl)

theorem State.sendChunks_keeps {s0 : State} (s : State) (links : List Nat) (dest : Nat) (bs : Bytes) (hk : Keeps s0 s) : Keeps s0 (State.sendChunks s links dest bs) := by
  unfold State.sendChunks
  iterate 24 try any_goals
    first
    | with_reducible assumption | with_reducible apply State.sendChunk_keeps | (with_reducible apply Keeps.foldl; intro _ _ _; try dsimp only) | split

theorem State.sendPeer_keeps {s0 : State} (s : State) (dest : Nat) (kind : String) (words : List Nat) (bs : Bytes) (hk : Keeps s0 s) : Keeps s0 (State.sendPeer s dest kind words bs) := by
  unfold State.sendPeer
  iterate 24 try any_goals
    first
    | with_reducible assumption | with_reducible apply State.send_keeps | with_reducible apply State.sendChunks_keeps | split

theorem State.sendTwin_keeps {s0 : State} (s : State) (kind : String) (words : List Nat) (bs : Bytes) (hk : Keeps s0 s) : Keeps s0 (State.sendTwin s kind words bs) := by
  unfold State.sendTwin
  iterate 24 try any_goals
    first
    | with_reducible assumption | with_reducible apply State.send_keeps | with_reducible apply State.sendChunks_keeps | split

theorem State.deviceStopAt_keeps {s0 : State} (s : State) (p detail : Nat) (hk : Keeps s0 s) : Keeps s0 (State.deviceStopAt s p detail) := by
  unfold State.deviceStopAt
  dsimp only
  iterate 24 try any_goals
    first
    | with_reducible assumption | with_reducible apply State.recordChip_keeps | with_reducible apply State.sendTwin_keeps | split
    | (with_reducible refine Keeps.mkBoot ?_ rfl rfl rfl rfl)

end Sys2Proof.Machine
end

