-- ==== Sys2Proof/Laws/KeepOps.lean ====
section
/-! SUPPORT. What the functions of Machine/Ops.lean keep: waiting commands, part, fuses and the canonical form of memory. -/

namespace Sys2Proof.Machine

theorem State.putRegion_keeps {s0 : State} (s : State) (r : Nat) (g : Region) (hk : Keeps s0 s) : Keeps s0 (State.putRegion s r g) := by
  unfold State.putRegion
  iterate 24 try any_goals
    first
    | with_reducible assumption | split | (with_reducible refine Keeps.mkBoot ?_ rfl rfl rfl rfl)

theorem State.putTower_keeps {s0 : State} (s : State) (t : Nat) (w : Tower) (hk : Keeps s0 s) : Keeps s0 (State.putTower s t w) := by
  unfold State.putTower
  iterate 24 try any_goals
    first
    | with_reducible assumption | split | (with_reducible refine Keeps.mkBoot ?_ rfl rfl rfl rfl)

theorem State.parityXor_keeps {s0 : State} (s : State) (x : Nat) (d : Byte) (hk : Keeps s0 s) : Keeps s0 (State.parityXor s x d) := by
  unfold State.parityXor
  iterate 24 try any_goals
    first
    | with_reducible assumption | split | (with_reducible refine Keeps.mkBoot ?_ rfl rfl rfl rfl)
    | (with_reducible refine Keeps.mkMem ?_ (fun w => ?_)) | with_reducible apply Mem.setCell_wf | with_reducible apply Mem.closeBytes_wf
    | with_reducible apply Mem.addOpen_wf | with_reducible apply Mem.markLost_wf | with_reducible apply Mem.markIvory_wf
    | with_reducible apply Mem.markSlice_wf | with_reducible apply Mem.markUmber_wf | with_reducible apply Mem.setGranule_wf
    | with_reducible apply Mem.slateOnly_wf | with_reducible apply Mem.parity_wf | intro w

theorem State.evictLine_keeps {s0 : State} (s : State) (l : ParityLine) (hk : Keeps s0 s) : Keeps s0 (State.evictLine s l) := by
  unfold State.evictLine
  iterate 24 try any_goals
    first
    | with_reducible assumption | with_reducible apply State.count_keeps | with_reducible apply State.parityXor_keeps
    | (with_reducible apply Keeps.foldl; intro _ _ _; try dsimp only) | split

theorem State.flushParity_keeps {s0 : State} (s : State) (hk : Keeps s0 s) : Keeps s0 (State.flushParity s) := by
  unfold State.flushParity
  iterate 24 try any_goals
    first
    | with_reducible assumption | with_reducible apply State.evictLine_keeps | (with_reducible apply Keeps.foldl; intro _ _ _; try dsimp only) | split
    | (with_reducible refine Keeps.mkBoot ?_ rfl rfl rfl rfl) | (with_reducible refine Keeps.mkMem ?_ (fun w => ?_))
    | with_reducible apply Mem.setCell_wf | with_reducible apply Mem.closeBytes_wf | with_reducible apply Mem.addOpen_wf
    | with_reducible apply Mem.markLost_wf | with_reducible apply Mem.markIvory_wf | with_reducible apply Mem.markSlice_wf
    | with_reducible apply Mem.markUmber_wf | with_reducible apply Mem.setGranule_wf | with_reducible apply Mem.slateOnly_wf
    | with_reducible apply Mem.parity_wf | intro w

theorem State.evictOldest_keeps {s0 : State} (s : State) (hk : Keeps s0 s) : Keeps s0 (State.evictOldest s) := by
  unfold State.evictOldest
  iterate 24 try any_goals
    first
    | with_reducible assumption | with_reducible apply State.evictLine_keeps | split | (with_reducible refine Keeps.mkBoot ?_ rfl rfl rfl rfl)
    | (with_reducible refine Keeps.mkMem ?_ (fun w => ?_)) | with_reducible apply Mem.setCell_wf | with_reducible apply Mem.closeBytes_wf
    | with_reducible apply Mem.addOpen_wf | with_reducible apply Mem.markLost_wf | with_reducible apply Mem.markIvory_wf
    | with_reducible apply Mem.markSlice_wf | with_reducible apply Mem.markUmber_wf | with_reducible apply Mem.setGranule_wf
    | with_reducible apply Mem.slateOnly_wf | with_reducible apply Mem.parity_wf | intro w

theorem State.parityDelta_keeps {s0 : State} (s : State) (x : Nat) (d : Byte) (hk : Keeps s0 s) : Keeps s0 (State.parityDelta s x d) := by
  unfold State.parityDelta
  dsimp only
  iterate 24 try any_goals
    first
    | with_reducible assumption | with_reducible apply State.parityXor_keeps | with_reducible apply State.evictOldest_keeps | split
    | (with_reducible refine Keeps.mkBoot ?_ rfl rfl rfl rfl) | (with_reducible refine Keeps.mkMem ?_ (fun w => ?_))
    | with_reducible apply Mem.setCell_wf | with_reducible apply Mem.closeBytes_wf | with_reducible apply Mem.addOpen_wf
    | with_reducible apply Mem.markLost_wf | with_reducible apply Mem.markIvory_wf | with_reducible apply Mem.markSlice_wf
    | with_reducible apply Mem.markUmber_wf | with_reducible apply Mem.setGranule_wf | with_reducible apply Mem.slateOnly_wf
    | with_reducible apply Mem.parity_wf | intro w

theorem State.pokePosition_keeps {s0 : State} (s : State) (n x : Nat) (v : Byte) (hk : Keeps s0 s) : Keeps s0 (State.pokePosition s n x v) := by
  unfold State.pokePosition
  dsimp only
  iterate 24 try any_goals
    first
    | with_reducible assumption | with_reducible apply State.parityDelta_keeps | split | (with_reducible refine Keeps.mkBoot ?_ rfl rfl rfl rfl)
    | (with_reducible refine Keeps.mkMem ?_ (fun w => ?_)) | with_reducible apply Mem.setCell_wf | with_reducible apply Mem.closeBytes_wf
    | with_reducible apply Mem.addOpen_wf | with_reducible apply Mem.markLost_wf | with_reducible apply Mem.markIvory_wf
    | with_reducible apply Mem.markSlice_wf | with_reducible apply Mem.markUmber_wf | with_reducible apply Mem.setGranule_wf
    | with_reducible apply Mem.slateOnly_wf | with_reducible apply Mem.parity_wf | intro w

theorem State.withMem_keeps {s0 : State} (s : State) (m : Mem) (hk : Keeps s0 s) (hm : s.mem.wf = true → m.wf = true) : Keeps s0 (State.withMem s m) :=
  Keeps.mkMem hk hm

theorem State.listPoison_keeps {s0 : State} (s : State) (n x : Nat) (hk : Keeps s0 s) : Keeps s0 (State.listPoison s n x) := by
  unfold State.listPoison
  dsimp only
  iterate 24 try any_goals
    first
    | with_reducible assumption | with_reducible apply State.deviceStopAt_keeps | with_reducible apply State.withMem_keeps | split
    | (with_reducible refine Keeps.mkBoot ?_ rfl rfl rfl rfl) | (with_reducible refine Keeps.mkMem ?_ (fun w => ?_))
    | with_reducible apply Mem.setCell_wf | with_reducible apply Mem.closeBytes_wf | with_reducible apply Mem.addOpen_wf
    | with_reducible apply Mem.markLost_wf | with_reducible apply Mem.markIvory_wf | with_reducible apply Mem.markSlice_wf
    | with_reducible apply Mem.markUmber_wf | with_reducible apply Mem.setGranule_wf | with_reducible apply Mem.slateOnly_wf
    | with_reducible apply Mem.parity_wf | intro w

theorem State.poisonUmber_keeps {s0 : State} (s : State) (n x : Nat) (hk : Keeps s0 s) : Keeps s0 (State.poisonUmber s n x) := by
  unfold State.poisonUmber
  iterate 24 try any_goals
    first
    | with_reducible assumption | with_reducible apply State.pokePosition_keeps | with_reducible apply State.listPoison_keeps
    | (with_reducible apply Keeps.foldl; intro _ _ _; try dsimp only) | split

theorem State.poisonGranule_keeps {s0 : State} (s : State) (a : Nat) (hk : Keeps s0 s) : Keeps s0 (State.poisonGranule s a) := by
  unfold State.poisonGranule
  dsimp only
  iterate 24 try any_goals
    first
    | with_reducible assumption | with_reducible apply State.withMem_keeps | with_reducible apply State.poisonUmber_keeps | split
    | (with_reducible refine Keeps.mkBoot ?_ rfl rfl rfl rfl) | (with_reducible refine Keeps.mkMem ?_ (fun w => ?_))
    | with_reducible apply Mem.setCell_wf | with_reducible apply Mem.closeBytes_wf | with_reducible apply Mem.addOpen_wf
    | with_reducible apply Mem.markLost_wf | with_reducible apply Mem.markIvory_wf | with_reducible apply Mem.markSlice_wf
    | with_reducible apply Mem.markUmber_wf | with_reducible apply Mem.setGranule_wf | with_reducible apply Mem.slateOnly_wf
    | with_reducible apply Mem.parity_wf | intro w

theorem State.poisonSlice_keeps {s0 : State} (s : State) (r : Nat) (hk : Keeps s0 s) : Keeps s0 (State.poisonSlice s r) := by
  unfold State.poisonSlice
  iterate 24 try any_goals
    first
    | with_reducible assumption | with_reducible apply State.withMem_keeps | split | (with_reducible refine Keeps.mkBoot ?_ rfl rfl rfl rfl)
    | (with_reducible refine Keeps.mkMem ?_ (fun w => ?_)) | with_reducible apply Mem.setCell_wf | with_reducible apply Mem.closeBytes_wf
    | with_reducible apply Mem.addOpen_wf | with_reducible apply Mem.markLost_wf | with_reducible apply Mem.markIvory_wf
    | with_reducible apply Mem.markSlice_wf | with_reducible apply Mem.markUmber_wf | with_reducible apply Mem.setGranule_wf
    | with_reducible apply Mem.slateOnly_wf | with_reducible apply Mem.parity_wf | intro w

theorem State.clearPoison_keeps {s0 : State} (s : State) (a : Nat) (hk : Keeps s0 s) : Keeps s0 (State.clearPoison s a) := by
  unfold State.clearPoison
  dsimp only
  iterate 24 try any_goals
    first
    | with_reducible assumption | with_reducible apply State.withMem_keeps | split | (with_reducible refine Keeps.mkBoot ?_ rfl rfl rfl rfl)
    | (with_reducible refine Keeps.mkMem ?_ (fun w => ?_)) | with_reducible apply Mem.setCell_wf | with_reducible apply Mem.closeBytes_wf
    | with_reducible apply Mem.addOpen_wf | with_reducible apply Mem.markLost_wf | with_reducible apply Mem.markIvory_wf
    | with_reducible apply Mem.markSlice_wf | with_reducible apply Mem.markUmber_wf | with_reducible apply Mem.setGranule_wf
    | with_reducible apply Mem.slateOnly_wf | with_reducible apply Mem.parity_wf | intro w

theorem State.recomputeParity_keeps {s0 : State} (s : State) (i : Nat) (hk : Keeps s0 s) : Keeps s0 (State.recomputeParity s i) := by
  unfold State.recomputeParity
  generalize List.range 4096 = l
  refine Keeps.mkMem (Keeps.foldl (fun u x hu => ?_) hk) (fun w => Mem.parity_wf _ w)
  split
  · exact Keeps.mkMem hu (fun w => Mem.setCell_wf _ _ w)
  · exact hu

theorem State.recomputeLost_keeps {s0 : State} (s : State) (i : Nat) (hk : Keeps s0 s) : Keeps s0 (State.recomputeLost s i) := by
  unfold State.recomputeLost
  dsimp only
  iterate 24 try any_goals
    first
    | with_reducible assumption | with_reducible apply State.recomputeParity_keeps | (with_reducible apply Keeps.foldl; intro _ _ _; try dsimp only)
    | split | (with_reducible refine Keeps.mkBoot ?_ rfl rfl rfl rfl) | (with_reducible refine Keeps.mkMem ?_ (fun w => ?_))
    | with_reducible apply Mem.setCell_wf | with_reducible apply Mem.closeBytes_wf | with_reducible apply Mem.addOpen_wf
    | with_reducible apply Mem.markLost_wf | with_reducible apply Mem.markIvory_wf | with_reducible apply Mem.markSlice_wf
    | with_reducible apply Mem.markUmber_wf | with_reducible apply Mem.setGranule_wf | with_reducible apply Mem.slateOnly_wf
    | with_reducible apply Mem.parity_wf | intro w

theorem State.openRange_keeps {s0 : State} (s : State) (a len : Nat) (hk : Keeps s0 s) : Keeps s0 (State.openRange s a len) := by
  unfold State.openRange
  iterate 24 try any_goals
    first
    | with_reducible assumption | split | (with_reducible refine Keeps.mkBoot ?_ rfl rfl rfl rfl)
    | (with_reducible refine Keeps.mkMem ?_ (fun w => ?_)) | with_reducible apply Mem.setCell_wf | with_reducible apply Mem.closeBytes_wf
    | with_reducible apply Mem.addOpen_wf | with_reducible apply Mem.markLost_wf | with_reducible apply Mem.markIvory_wf
    | with_reducible apply Mem.markSlice_wf | with_reducible apply Mem.markUmber_wf | with_reducible apply Mem.setGranule_wf
    | with_reducible apply Mem.slateOnly_wf | with_reducible apply Mem.parity_wf | intro w

theorem State.pokeByte_keeps {s0 : State} (s : State) (a : Nat) (v : Byte) (hk : Keeps s0 s) : Keeps s0 (State.pokeByte s a v) := by
  unfold State.pokeByte
  dsimp only
  iterate 24 try any_goals
    first
    | with_reducible assumption | with_reducible apply State.pokePosition_keeps | split | (with_reducible refine Keeps.mkBoot ?_ rfl rfl rfl rfl)
    | (with_reducible refine Keeps.mkMem ?_ (fun w => ?_)) | with_reducible apply Mem.setCell_wf | with_reducible apply Mem.closeBytes_wf
    | with_reducible apply Mem.addOpen_wf | with_reducible apply Mem.markLost_wf | with_reducible apply Mem.markIvory_wf
    | with_reducible apply Mem.markSlice_wf | with_reducible apply Mem.markUmber_wf | with_reducible apply Mem.setGranule_wf
    | with_reducible apply Mem.slateOnly_wf | with_reducible apply Mem.parity_wf | intro w

theorem State.pokeBytes_keeps {s0 : State} (s : State) (a : Nat) (bs : Bytes) (hk : Keeps s0 s) : Keeps s0 (State.pokeBytes s a bs) := by
  induction bs generalizing s a with
  | nil => exact hk
  | cons b bs ih => exact ih _ _ (State.pokeByte_keeps s a b hk)

theorem State.dirtyTracks_keeps {s0 : State} (s : State) (a len : Nat) (hk : Keeps s0 s) : Keeps s0 (State.dirtyTracks s a len) := by
  unfold State.dirtyTracks
  dsimp only
  iterate 24 try any_goals
    first
    | with_reducible assumption | (with_reducible apply Keeps.foldl; intro _ _ _; try dsimp only) | split
    | (with_reducible refine Keeps.mkBoot ?_ rfl rfl rfl rfl) | (with_reducible refine Keeps.mkMem ?_ (fun w => ?_))
    | with_reducible apply Mem.setCell_wf | with_reducible apply Mem.closeBytes_wf | with_reducible apply Mem.addOpen_wf
    | with_reducible apply Mem.markLost_wf | with_reducible apply Mem.markIvory_wf | with_reducible apply Mem.markSlice_wf
    | with_reducible apply Mem.markUmber_wf | with_reducible apply Mem.setGranule_wf | with_reducible apply Mem.slateOnly_wf
    | with_reducible apply Mem.parity_wf | intro w

theorem State.clearCovered_keeps {s0 : State} (s : State) (a len : Nat) (hk : Keeps s0 s) : Keeps s0 (State.clearCovered s a len) := by
  unfold State.clearCovered
  dsimp only
  iterate 24 try any_goals
    first
    | with_reducible assumption | with_reducible apply State.clearPoison_keeps | (with_reducible apply Keeps.foldl; intro _ _ _; try dsimp only)
    | split | (with_reducible refine Keeps.mkBoot ?_ rfl rfl rfl rfl) | (with_reducible refine Keeps.mkMem ?_ (fun w => ?_))
    | with_reducible apply Mem.setCell_wf | with_reducible apply Mem.closeBytes_wf | with_reducible apply Mem.addOpen_wf
    | with_reducible apply Mem.markLost_wf | with_reducible apply Mem.markIvory_wf | with_reducible apply Mem.markSlice_wf
    | with_reducible apply Mem.markUmber_wf | with_reducible apply Mem.setGranule_wf | with_reducible apply Mem.slateOnly_wf
    | with_reducible apply Mem.parity_wf | intro w

theorem State.recomputeFirst_keeps {s0 : State} (s : State) (a len : Nat) (hk : Keeps s0 s) : Keeps s0 (State.recomputeFirst s a len) := by
  unfold State.recomputeFirst
  dsimp only
  iterate 24 try any_goals
    first
    | with_reducible assumption | with_reducible apply State.recomputeLost_keeps | (with_reducible apply Keeps.foldl; intro _ _ _; try dsimp only)
    | split

theorem State.readFirst_keeps {s0 : State} (s : State) (b : Nat) (hk : Keeps s0 s) : Keeps s0 (State.readFirst s b) := by
  unfold State.readFirst
  dsimp only
  iterate 24 try any_goals
    first
    | with_reducible assumption | split | (with_reducible refine Keeps.mkBoot ?_ rfl rfl rfl rfl)

theorem State.sendFill_keeps {s0 : State} (s : State) (b : Nat) (hk : Keeps s0 s) : Keeps s0 (State.sendFill s b) := by
  unfold State.sendFill
  dsimp only
  iterate 24 try any_goals
    first
    | with_reducible assumption | with_reducible apply State.count_keeps | with_reducible apply State.sendTwin_keeps | split
    | (with_reducible refine Keeps.mkBoot ?_ rfl rfl rfl rfl)

theorem State.beforeWrite_keeps {s0 : State} (s : State) (a len : Nat) (hk : Keeps s0 s) : Keeps s0 (State.beforeWrite s a len) := by
  unfold State.beforeWrite
  dsimp only
  iterate 24 try any_goals
    first
    | with_reducible assumption | with_reducible apply State.readFirst_keeps | with_reducible apply State.sendFill_keeps
    | (with_reducible apply Keeps.foldl; intro _ _ _; try dsimp only) | split

theorem State.forwardWrite_keeps {s0 : State} (s : State) (a : Nat) (bs : Bytes) (hk : Keeps s0 s) : Keeps s0 (State.forwardWrite s a bs) := by
  unfold State.forwardWrite
  dsimp only
  iterate 24 try any_goals
    first
    | with_reducible assumption | with_reducible apply State.sendTwin_keeps | (with_reducible apply Keeps.foldl; intro _ _ _; try dsimp only) | split
    | (with_reducible refine Keeps.mkBoot ?_ rfl rfl rfl rfl)

theorem State.storeBytes_keeps {s0 : State} (s : State) (a : Nat) (bs : Bytes) (hk : Keeps s0 s) : Keeps s0 (State.storeBytes s a bs) := by
  unfold State.storeBytes
  dsimp only
  iterate 24 try any_goals
    first
    | with_reducible assumption | with_reducible apply State.pokeBytes_keeps | with_reducible apply State.dirtyTracks_keeps
    | with_reducible apply State.clearCovered_keeps | with_reducible apply State.recomputeFirst_keeps | with_reducible apply State.beforeWrite_keeps
    | with_reducible apply State.forwardWrite_keeps | split | (with_reducible refine Keeps.mkBoot ?_ rfl rfl rfl rfl)
    | (with_reducible refine Keeps.mkMem ?_ (fun w => ?_)) | with_reducible apply Mem.setCell_wf | with_reducible apply Mem.closeBytes_wf
    | with_reducible apply Mem.addOpen_wf | with_reducible apply Mem.markLost_wf | with_reducible apply Mem.markIvory_wf
    | with_reducible apply Mem.markSlice_wf | with_reducible apply Mem.markUmber_wf | with_reducible apply Mem.setGranule_wf
    | with_reducible apply Mem.slateOnly_wf | with_reducible apply Mem.parity_wf | intro w

theorem State.storeOpen_keeps {s0 : State} (s : State) (a len : Nat) (hk : Keeps s0 s) : Keeps s0 (State.storeOpen s a len) := by
  unfold State.storeOpen
  dsimp only
  iterate 24 try any_goals
    first
    | with_reducible assumption | with_reducible apply State.openRange_keeps | with_reducible apply State.dirtyTracks_keeps
    | with_reducible apply State.clearCovered_keeps | with_reducible apply State.recomputeFirst_keeps | with_reducible apply State.beforeWrite_keeps
    | split

theorem State.writeBytes_keeps {s0 s : State} {a : Nat} {bs : Bytes} {t : State} (hk : Keeps s0 s) (e : State.writeBytes s a bs = .ok t) : Keeps s0 t := by
  unfold State.writeBytes at e
  split at e <;> cases e
  exact State.storeBytes_keeps _ _ _ hk

end Sys2Proof.Machine
end

