-- ==== Sys2Proof/Laws/Frame.lean ====
section
/-! SUPPORT. What a write to memory leaves as it was: the frame of every operation of Machine/Ops.lean that stores bytes or opens a range,
and reading after writing. -/

namespace Sys2Proof.Machine

/-! ### The relation -/

/-- `t` differs from `s` as a write differs; of the bytes below 2^48 only those at which `P` holds have another cell, and a byte left
undefined has a fresh free value. -/
structure Frame (P : Nat → Prop) (s t : State) : Prop where
  same : SameElse s t
  free : s.freeCount ≤ t.freeCount
  byte : s.mem.wf = true → t.mem.wf = true ∧ ∀ a, a < 2 ^ 48 → ¬ P a → t.mem.cell a = s.mem.cell a ∧
    (t.mem.openAt a = s.mem.openAt a ∨ ∃ id, s.freeCount ≤ id ∧ t.mem.openAt a = some id)

theorem SameElse.refl (s : State) : SameElse s s := rfl

theorem SameElse.trans {s t u : State} (h : SameElse s t) (k : SameElse t u) : SameElse s u := by
  unfold SameElse at h k ⊢
  rw [k, h]

theorem SameElse.tracks {s t : State} (h : SameElse s t) : t.tracks = s.tracks := by rw [h]

theorem SameElse.inBitmap {s t : State} (h : SameElse s t) (a : Nat) : t.inBitmap a = s.inBitmap a := by
  unfold State.inBitmap; rw [h.tracks]

theorem Frame.refl {P : Nat → Prop} (s : State) : Frame P s s :=
  ⟨SameElse.refl s, Nat.le_refl _, fun w => ⟨w, fun _ _ _ => ⟨rfl, .inl rfl⟩⟩⟩

theorem Frame.trans {P : Nat → Prop} {s t u : State} (h : Frame P s t) (k : Frame P t u) : Frame P s u := by
  refine ⟨h.same.trans k.same, Nat.le_trans h.free k.free, fun w => ?_⟩
  obtain ⟨w1, h1⟩ := h.byte w
  obtain ⟨w2, k1⟩ := k.byte w1
  refine ⟨w2, fun a ha hp => ?_⟩
  obtain ⟨c1, o1⟩ := h1 a ha hp
  obtain ⟨c2, o2⟩ := k1 a ha hp
  refine ⟨c2.trans c1, ?_⟩
  rcases o2 with o2 | ⟨id, hid, o2⟩
  · rw [o2]; exact o1
  · exact .inr ⟨id, Nat.le_trans h.free hid, o2⟩

theorem Frame.mono {P Q : Nat → Prop} {s t : State} (h : Frame P s t) (pq : ∀ a, P a → Q a) : Frame Q s t :=
  ⟨h.same, h.free, fun w => ⟨(h.byte w).1, fun a ha hq => (h.byte w).2 a ha (fun hp => hq (pq a hp))⟩⟩

/-- A state that differs only where a write may, with the same memory. -/
theorem Frame.sameMem {P : Nat → Prop} {s t u : State} (h : Frame P s t) (k : SameElse t u) (hm : u.mem = t.mem) (hf : u.freeCount = t.freeCount) :
    Frame P s u :=
  h.trans ⟨k, by omega, fun w => ⟨by rw [hm]; exact w, fun _ _ _ => by rw [hm]; exact ⟨rfl, .inl rfl⟩⟩⟩

/-- A state whose memory alone differs, in no cell below 2^48 but those of `P`, and in no open byte. -/
theorem Frame.withMem {P : Nat → Prop} {s t u : State} (h : Frame P s t) (hu : u = { t with mem := u.mem })
    (hm : t.mem.wf = true → u.mem.wf = true ∧ ∀ a, a < 2 ^ 48 → ¬ P a → u.mem.cell a = t.mem.cell a ∧ u.mem.openAt a = t.mem.openAt a) :
    Frame P s u := by
  refine h.trans ⟨by unfold SameElse; rw [hu], Nat.le_of_eq (congrArg State.freeCount hu).symm, fun w => ?_⟩
  obtain ⟨w1, h1⟩ := hm w
  exact ⟨w1, fun a ha hp => ⟨(h1 a ha hp).1, .inl (h1 a ha hp).2⟩⟩

theorem Frame.foldl {α : Type} {P : Nat → Prop} {s t : State} {f : State → α → State} {l : List α} (hf : ∀ u x, Frame P s u → Frame P s (f u x))
    (h : Frame P s t) : Frame P s (l.foldl f t) := by
  induction l generalizing t with
  | nil => exact h
  | cons x l ih => exact ih (hf _ _ h)

theorem Frame.foldlMem {α : Type} {P : Nat → Prop} {s t : State} {f : State → α → State} {l : List α}
    (hf : ∀ u x, x ∈ l → Frame P s u → Frame P s (f u x)) (h : Frame P s t) : Frame P s (l.foldl f t) := by
  induction l generalizing t with
  | nil => exact h
  | cons x l ih => exact ih (fun u y hy => hf u y (List.mem_cons_of_mem _ hy)) (hf _ _ List.mem_cons_self h)

/-! ### Cells -/

/-- Reading a cell after setting one. -/
theorem Mem.cell_setCell {m : Mem} (_ : m.wf = true) (k j : Nat) (v : Byte) : (m.setCell k v).cell j = if j = k then v else m.cell j := by
  unfold Mem.cell Mem.setCell
  simpa [eq_comm] using tabGet_tabSet k j v

@[simp] theorem Mem.openAt_setCell (m : Mem) (k a : Nat) (v : Byte) : (m.setCell k v).openAt a = m.openAt a := rfl

/-- A cell at which `P` holds, or of a tower, is set. -/
theorem Frame.setCell {P : Nat → Prop} {s t : State} {k : Nat} {v : Byte} (h : Frame P s t) (hk : P k ∨ 2 ^ 48 ≤ k) :
    Frame P s { t with mem := t.mem.setCell k v } := by
  refine h.withMem rfl (fun w => ⟨Mem.setCell_wf _ _ w, fun a ha hp => ⟨?_, rfl⟩⟩)
  dsimp only
  rw [Mem.cell_setCell w, if_neg]
  rintro rfl
  rcases hk with hk | hk
  · exact hp hk
  · omega

theorem le_towerKey (t x : Nat) : 2 ^ 48 ≤ towerKey t x := by unfold towerKey; omega

/-! ### What Machine/Ops.lean's operations leave -/

theorem Frame.count {P : Nat → Prop} {s t : State} (h : Frame P s t) (p source k : Nat) : Frame P s (t.count p source k) :=
  h.sameMem rfl rfl rfl

theorem Frame.send {P : Nat → Prop} {s t : State} (h : Frame P s t) (o : Out) : Frame P s (t.send o) := h.sameMem rfl rfl rfl

theorem Frame.parityXor {P : Nat → Prop} {s t : State} (h : Frame P s t) (x : Nat) (d : Byte) : Frame P s (t.parityXor x d) := by
  unfold State.parityXor
  split
  · exact h.setCell (.inr (le_towerKey _ _))
  · exact h

theorem Frame.evictLine {P : Nat → Prop} {s t : State} (h : Frame P s t) (l : ParityLine) : Frame P s (t.evictLine l) :=
  (Frame.foldl (fun _ _ hu => hu.parityXor _ _) h).count _ _ _

theorem Frame.setParity {P : Nat → Prop} {s t : State} (h : Frame P s t) (p : List ParityLine) : Frame P s { t with mem := { t.mem with parity := p } } :=
  h.withMem rfl (fun w => ⟨w, fun _ _ _ => ⟨rfl, rfl⟩⟩)

theorem Frame.evictOldest {P : Nat → Prop} {s t : State} (h : Frame P s t) : Frame P s t.evictOldest := by
  unfold State.evictOldest
  split
  · exact h
  · split
    · exact (h.setParity _).evictLine _
    · exact h

theorem Frame.parityDelta {P : Nat → Prop} {s t : State} (h : Frame P s t) (x : Nat) (d : Byte) : Frame P s (t.parityDelta x d) := by
  unfold State.parityDelta
  split
  · exact h.parityXor _ _
  · split
    · exact h.setParity _
    · exact h.evictOldest.setParity _

theorem Frame.pokePosition {P : Nat → Prop} {s t : State} (h : Frame P s t) (n x : Nat) (v : Byte) : Frame P s (t.pokePosition n x v) := by
  unfold State.pokePosition
  dsimp only
  apply Frame.parityDelta
  split
  · exact h.setCell (.inr (le_towerKey _ _))
  · exact h

theorem Frame.pokeByte {P : Nat → Prop} {s t : State} (h : Frame P s t) (a : Nat) (v : Byte) (ha : (a < umberBase ∨ slateBase ≤ a) → P a) :
    Frame P s (t.pokeByte a v) := by
  unfold State.pokeByte
  split
  · exact h.pokePosition _ _ _
  · exact h.setCell (.inl (ha (by omega)))

/-- Storing bytes one after another leaves every byte outside them. -/
theorem Frame.pokeBytes {P : Nat → Prop} {s t : State} (h : Frame P s t) (a : Nat) (bs : Bytes)
    (ha : ∀ x, a ≤ x → x < a + bs.length → (x < umberBase ∨ slateBase ≤ x) → P x) : Frame P s (t.pokeBytes a bs) := by
  induction bs generalizing t a with
  | nil => exact h
  | cons b bs ih =>
    refine ih (h.pokeByte a b (ha a (Nat.le_refl _) (by simp))) (a + 1) (fun x h1 h2 => ha x (by omega) ?_)
    simp only [List.length_cons]; omega

theorem Frame.clearPoison {P : Nat → Prop} {s t : State} (h : Frame P s t) (a : Nat) : Frame P s (t.clearPoison a) := by
  unfold State.clearPoison
  split
  · exact h.withMem rfl (fun w => ⟨Mem.markIvory_wf _ _ w, fun _ _ _ => ⟨rfl, rfl⟩⟩)
  · exact h.withMem rfl (fun w => ⟨Mem.markUmber_wf _ _ _ w, fun _ _ _ => ⟨rfl, rfl⟩⟩)
  · exact h

theorem Frame.markLost {P : Nat → Prop} {s t : State} (h : Frame P s t) (k : Nat) :
    Frame P s { t with mem := { t.mem with lostCleared := tabSet false t.mem.lostCleared k true } } :=
  h.withMem rfl (fun w => ⟨Mem.markLost_wf _ _ w, fun _ _ _ => ⟨rfl, rfl⟩⟩)

theorem Frame.clearCovered {P : Nat → Prop} {s t : State} (h : Frame P s t) (a len : Nat) : Frame P s (t.clearCovered a len) := by
  unfold State.clearCovered
  refine Frame.foldl (fun u g hu => ?_) h
  dsimp only
  split
  · split
    · exact (hu.markLost _).clearPoison _
    · exact hu
  · split
    · exact hu.clearPoison _
    · exact hu

theorem Frame.recomputeParity {P : Nat → Prop} {s t : State} (h : Frame P s t) (i : Nat) : Frame P s (t.recomputeParity i) := by
  unfold State.recomputeParity
  generalize List.range 4096 = l
  refine Frame.setParity (Frame.foldl (fun u x hu => ?_) h) _
  split
  · exact hu.setCell (.inr (le_towerKey _ _))
  · exact hu

theorem Frame.recomputeLost {P : Nat → Prop} {s t : State} (h : Frame P s t) (i : Nat) : Frame P s (t.recomputeLost i) := by
  unfold State.recomputeLost
  generalize List.range 4096 = l
  split
  · exact h
  · apply Frame.recomputeParity
    split
    · exact h
    · exact Frame.foldl (fun u x hu => hu.setCell (.inr (le_towerKey _ _))) h

theorem Frame.recomputeFirst {P : Nat → Prop} {s t : State} (h : Frame P s t) (a len : Nat) : Frame P s (t.recomputeFirst a len) := by
  unfold State.recomputeFirst
  split
  · refine Frame.foldl (fun u g hu => ?_) h
    dsimp only
    split
    · exact hu.recomputeLost _
    · exact hu
  · exact h

theorem Frame.readFirst {P : Nat → Prop} {s t : State} (h : Frame P s t) (b : Nat) : Frame P s (t.readFirst b) := by
  unfold State.readFirst
  dsimp only
  split
  · exact h
  · split
    · exact h
    · exact h.sameMem rfl rfl rfl

theorem SendsOnly.refl (s : State) : SendsOnly s s := ⟨rfl, Nat.le_refl _⟩

theorem SendsOnly.trans {s t u : State} (h : SendsOnly s t) (k : SendsOnly t u) : SendsOnly s u := by
  refine ⟨?_, Nat.le_trans h.2 k.2⟩
  rw [k.1, h.1]

theorem SendsOnly.foldl {α : Type} {s t : State} {f : State → α → State} {l : List α} (hf : ∀ u x, SendsOnly s u → SendsOnly s (f u x))
    (h : SendsOnly s t) : SendsOnly s (l.foldl f t) := by
  induction l generalizing t with
  | nil => exact h
  | cons x l ih => exact ih (hf _ _ h)

theorem SendsOnly.mem {s t : State} (h : SendsOnly s t) : t.mem = s.mem := by rw [h.1]
theorem SendsOnly.twin {s t : State} (h : SendsOnly s t) : t.twin = s.twin := by rw [h.1]

theorem SendsOnly.sameElse {s t : State} (h : SendsOnly s t) : SameElse s t := by
  unfold SameElse
  rw [h.1]

/-- What the links send, and count, stays in the links, the counters and the outbox. -/
theorem sendFlit_sends (s : State) (l vc : Nat) (b : Bytes) : SendsOnly s (s.sendFlit l vc b) := by
  unfold State.sendFlit State.emitFlit
  dsimp only
  split <;> exact ⟨rfl, Nat.le_refl _⟩

theorem sendChunk_sends (s : State) (links : List Nat) (dest : Nat) (bs : Bytes) : SendsOnly s (s.sendChunk links dest bs) := by
  unfold State.sendChunk
  dsimp only
  split
  · exact SendsOnly.refl s
  · exact SendsOnly.foldl (fun _ _ hu => hu.trans (sendFlit_sends _ _ _ _)) ⟨rfl, Nat.le_succ _⟩

theorem sendChunks_sends (s : State) (links : List Nat) (dest : Nat) (bs : Bytes) : SendsOnly s (s.sendChunks links dest bs) := by
  unfold State.sendChunks
  exact SendsOnly.foldl (fun _ _ hu => hu.trans (sendChunk_sends _ _ _ _)) (SendsOnly.refl s)

theorem send_sends (s : State) (o : Out) : SendsOnly s (s.send o) := ⟨rfl, Nat.le_refl _⟩

theorem sendTwin_sends (s : State) (kind : String) (words : List Nat) (bs : Bytes) : SendsOnly s (s.sendTwin kind words bs) :=
  (send_sends s _).trans (sendChunks_sends _ _ _ _)

theorem sendPeer_sends (s : State) (dest : Nat) (kind : String) (words : List Nat) (bs : Bytes) : SendsOnly s (s.sendPeer dest kind words bs) :=
  (send_sends s _).trans (sendChunks_sends _ _ _ _)

theorem Frame.sends {P : Nat → Prop} {s t u : State} (h : Frame P s t) (k : SendsOnly t u) : Frame P s u :=
  h.trans ⟨k.sameElse, k.2, fun w => by rw [k.mem]; exact ⟨w, fun _ _ _ => ⟨rfl, .inl rfl⟩⟩⟩

theorem Frame.sendTwin {P : Nat → Prop} {s t : State} (h : Frame P s t) (kind : String) (words : List Nat) (bs : Bytes) :
    Frame P s (t.sendTwin kind words bs) := h.sends (sendTwin_sends _ _ _ _)

theorem Frame.setTwin {P : Nat → Prop} {s t : State} (h : Frame P s t) (w : Twin) : Frame P s { t with twin := w } := h.sameMem rfl rfl rfl

theorem Frame.sendFill {P : Nat → Prop} {s t : State} (h : Frame P s t) (b : Nat) : Frame P s (t.sendFill b) := by
  unfold State.sendFill
  exact ((h.sendTwin _ _ _).count _ _ _).setTwin _

theorem Frame.beforeWrite {P : Nat → Prop} {s t : State} (h : Frame P s t) (a len : Nat) : Frame P s (t.beforeWrite a len) := by
  unfold State.beforeWrite
  have k : Frame P s (if t.twin.wp.running then (mibsOf a len).foldl State.readFirst t else t) := by
    split
    · exact Frame.foldl (fun u b hu => hu.readFirst b) h
    · exact h
  dsimp only
  generalize (if t.twin.wp.running then (mibsOf a len).foldl State.readFirst t else t) = v at k ⊢
  split
  · refine Frame.foldl (fun u b hu => ?_) k
    split
    · exact hu.sendFill _
    · exact hu
  · exact k

theorem Frame.forwardWrite {P : Nat → Prop} {s t : State} (h : Frame P s t) (a : Nat) (bs : Bytes) : Frame P s (t.forwardWrite a bs) := by
  unfold State.forwardWrite
  split
  · exact h
  · refine Frame.foldl (fun u b hu => ?_) h
    split
    · exact (hu.sendTwin _ _ _).setTwin _
    · exact hu

/-- Finding the open range of a byte in a list that begins with `o`. -/
theorem openFind_cons (o : OpenRange) (os : List OpenRange) (x : Nat) :
    ((o :: os).find? (fun o => decide (o.first ≤ x) && decide (x < o.first + o.count))).map (·.id) =
    if o.first ≤ x ∧ x < o.first + o.count then some o.id
    else (os.find? (fun o => decide (o.first ≤ x) && decide (x < o.first + o.count))).map (·.id) := by
  rw [List.find?_cons]
  by_cases ho : o.first ≤ x ∧ x < o.first + o.count
  · have hb : (decide (o.first ≤ x) && decide (x < o.first + o.count)) = true := by simp [ho]
    rw [hb, if_pos ho]; rfl
  · have hb : (decide (o.first ≤ x) && decide (x < o.first + o.count)) = false := by simpa using ho
    rw [hb, if_neg ho]

/-- Cutting a range out of the open ranges leaves the free value of every other byte. -/
theorem openAt_cut (os : List OpenRange) {a len x : Nat} (hx : x < a ∨ a + len ≤ x) :
    ((os.flatMap (OpenRange.cut a len)).find? (fun o => decide (o.first ≤ x) && decide (x < o.first + o.count))).map (·.id) =
    (os.find? (fun o => decide (o.first ≤ x) && decide (x < o.first + o.count))).map (·.id) := by
  induction os with
  | nil => rfl
  | cons o os ih =>
    rw [openFind_cons, ← ih, List.flatMap_cons]
    generalize os.flatMap (OpenRange.cut a len) = l
    unfold OpenRange.cut
    by_cases hv : overlaps a len o.first o.count = true
    · have hw := hv
      simp only [overlaps, Bool.and_eq_true, decide_eq_true_eq] at hw
      simp only [hv, Bool.not_true, Bool.false_eq_true, if_false]
      by_cases h1 : o.first < a <;> by_cases h2 : a + len < o.first + o.count <;>
        simp only [h1, h2, if_true, if_false, List.nil_append, List.append_nil, List.cons_append, openFind_cons] <;>
        by_cases h3 : o.first ≤ x ∧ x < o.first + o.count <;> (repeat' split) <;> first | rfl | (exfalso; omega)
    · simp only [hv, Bool.not_false, if_true, List.cons_append, List.nil_append, openFind_cons]

/-- Inside the range that is cut out, no byte is open. -/
theorem openAt_cut_inside (os : List OpenRange) {a len x : Nat} (h1 : a ≤ x) (h2 : x < a + len) :
    ((os.flatMap (OpenRange.cut a len)).find? (fun o => decide (o.first ≤ x) && decide (x < o.first + o.count))).map (·.id) = none := by
  induction os with
  | nil => rfl
  | cons o os ih =>
    rw [List.flatMap_cons]
    generalize os.flatMap (OpenRange.cut a len) = l at ih ⊢
    unfold OpenRange.cut
    by_cases hv : overlaps a len o.first o.count = true
    · have hw := hv
      simp only [overlaps, Bool.and_eq_true, decide_eq_true_eq] at hw
      simp only [hv, Bool.not_true, Bool.false_eq_true, if_false]
      by_cases h3 : o.first < a <;> by_cases h4 : a + len < o.first + o.count <;>
        simp only [h3, h4, if_true, if_false, List.nil_append, List.append_nil, List.cons_append, openFind_cons] <;>
        (repeat' split) <;> first | exact ih | (exfalso; omega)
    · simp only [hv, Bool.not_false, if_true, List.cons_append, List.nil_append, openFind_cons]
      have hw := hv
      simp only [overlaps, Bool.and_eq_true, decide_eq_true_eq] at hw
      rw [if_neg (by omega)]
      exact ih

theorem Mem.openAt_closed (m : Mem) {a len x : Nat} (h1 : a ≤ x) (h2 : x < a + len) : (m.closeBytes a len).openAt x = none := by
  unfold Mem.closeBytes Mem.openAt
  split
  · rename_i h; rw [List.isEmpty_iff.mp h]; rfl
  · exact openAt_cut_inside _ h1 h2

theorem Mem.openAt_closeBytes (m : Mem) {a len x : Nat} (hx : x < a ∨ a + len ≤ x) : (m.closeBytes a len).openAt x = m.openAt x := by
  unfold Mem.closeBytes Mem.openAt
  split
  · rfl
  · exact openAt_cut _ hx

theorem Mem.cell_closeBytes (m : Mem) (a len x : Nat) : (m.closeBytes a len).cell x = m.cell x := by
  unfold Mem.closeBytes; split <;> rfl

/-- The bits that a write sets lie in the bitmaps of open tracked ranges. -/
theorem Frame.dirtyTracks {P : Nat → Prop} {s t : State} (h : Frame P s t) (a len : Nat) (hp : ∀ x, t.inBitmap x = true → P x) :
    Frame P s (t.dirtyTracks a len) := by
  unfold State.dirtyTracks
  refine Frame.foldlMem (fun u e he hu => ?_) h
  split
  · rename_i ho
    simp only [overlaps, Bool.and_eq_true, decide_eq_true_eq] at ho
    refine Frame.foldlMem (fun v i hi hv => hv.setCell (.inl (hp _ ?_))) hu
    rw [List.mem_range] at hi
    unfold State.inBitmap
    refine List.any_eq_true.mpr ⟨e, he, ?_⟩
    simp only [Bool.and_eq_true, decide_eq_true_eq]
    refine ⟨⟨ho.1, Nat.le_add_right _ _⟩, Nat.add_le_add_left ?_ _⟩
    omega
  · exact hu

/-- What a store changes: the bytes stored, and bits of open tracked ranges. -/
theorem Frame.storeBytes {P : Nat → Prop} {s t : State} (h : Frame P s t) (a : Nat) (bs : Bytes)
    (ha : ∀ x, a ≤ x → x < a + bs.length → P x) (hp : ∀ x, t.inBitmap x = true → P x) : Frame P s (t.storeBytes a bs) := by
  unfold State.storeBytes
  have h1 : Frame P t (((t.beforeWrite a bs.length).recomputeFirst a bs.length).clearCovered a bs.length) :=
    (((Frame.refl t).beforeWrite _ _).recomputeFirst _ _).clearCovered _ _
  have h2 := h1.dirtyTracks a bs.length (fun x hx => hp x (by rw [← h1.same.inBitmap]; exact hx))
  have h3 := h2.pokeBytes a bs (fun x l r _ => ha x l r)
  refine h.trans (Frame.forwardWrite (Frame.withMem h3 rfl (fun w => ⟨Mem.closeBytes_wf _ _ w, fun x _ hx => ⟨Mem.cell_closeBytes _ _ _ _, ?_⟩⟩)) _ _)
  refine Mem.openAt_closeBytes _ ?_
  by_cases hlo : a ≤ x
  · by_cases hhi : x < a + bs.length
    · exact absurd (ha x hlo hhi) hx
    · omega
  · omega

/-- Opening a range leaves every cell; its bytes get a fresh free value. -/
theorem Frame.openRange {P : Nat → Prop} {s t : State} (h : Frame P s t) (a len : Nat) : Frame P s (t.openRange a len) := by
  unfold State.openRange
  split
  · exact h
  · refine h.trans ⟨rfl, Nat.le_succ _, fun w => ⟨Mem.addOpen_wf _ (Mem.closeBytes_wf _ _ w), fun x _ _ => ⟨Mem.cell_closeBytes _ _ _ _, ?_⟩⟩⟩
    show Mem.openAt (Mem.addOpen _ _) x = _ ∨ ∃ id, _ ∧ Mem.openAt (Mem.addOpen _ _) x = _
    have key : Mem.openAt ((t.mem.closeBytes a len).addOpen ⟨a, len, t.freeCount⟩) x =
        ((t.mem.closeBytes a len).openAt x).or (if a ≤ x ∧ x < a + len then some t.freeCount else none) := by
      unfold Mem.openAt Mem.addOpen
      rw [List.find?_append, Option.map_or]
      congr 1
      by_cases hin : a ≤ x ∧ x < a + len <;> simp [hin]
    rw [key]
    by_cases hin : a ≤ x ∧ x < a + len
    · rw [if_pos hin]
      rw [Mem.openAt_closed _ hin.1 hin.2]
      exact .inr ⟨t.freeCount, Nat.le_refl _, rfl⟩
    · rw [if_neg hin, Option.or_none, Mem.openAt_closeBytes _ (by omega)]
      exact .inl rfl

/-! ### Reading after writing -/

/-- The stored byte of Ivory or Slate. -/
theorem State.rawByte_plain (s : State) {a : Nat} (ha : a < umberBase ∨ slateBase ≤ a) :
    s.rawByte a = match s.mem.openAt a with | some id => Config.openByte id a | none => s.mem.cell a := by
  unfold State.rawByte
  rw [if_neg (by omega)] <;> rfl

/-- Bytes of Ivory or Slate that a run of pokes has stored. -/
theorem State.cell_pokeBytes (s : State) (h : s.mem.wf = true) (a : Nat) (bs : Bytes)
    (ha : a + bs.length ≤ umberBase ∨ (slateBase ≤ a ∧ a + bs.length ≤ 2 ^ 48)) (i : Nat) (hi : i < bs.length) :
    (s.pokeBytes a bs).mem.cell (a + i) = bs[i] := by
  induction bs generalizing s a i with
  | nil => exact absurd hi (Nat.not_lt_zero _)
  | cons b bs ih =>
    simp only [List.length_cons] at ha hi
    have hu : umberBase ≤ 2 ^ 48 := by decide
    have hp : s.pokeByte a b = { s with mem := s.mem.setCell a b } := by
      unfold State.pokeByte
      rw [if_neg (by omega)]
    have hw : (s.pokeByte a b).mem.wf = true := by rw [hp]; exact Mem.setCell_wf _ _ h
    show ((s.pokeByte a b).pokeBytes (a + 1) bs).mem.cell (a + i) = _
    cases i with
    | zero =>
      have f := (Frame.refl (P := fun x => a + 1 ≤ x) (s.pokeByte a b)).pokeBytes (a + 1) bs (fun x l _ _ => l)
      rw [((f.byte hw).2 (a + 0) (by omega) (by omega)).1, hp]
      dsimp only
      rw [Mem.cell_setCell h, if_pos (by omega)]
      rfl
    | succ i =>
      have := ih (s.pokeByte a b) hw (a + 1) (by omega) i (by omega)
      rw [show a + (i + 1) = a + 1 + i by omega, this]
      rfl

theorem State.forwardWrite_mem (s : State) (a : Nat) (bs : Bytes) : (s.forwardWrite a bs).mem = s.mem := by
  unfold State.forwardWrite
  split
  · rfl
  · generalize mibsOf a bs.length = l
    induction l generalizing s with
    | nil => rfl
    | cons b l ih =>
      have hb := fun ks ws bs => sendTwin_sends s ks ws bs
      rw [List.foldl_cons, ih]
      · split
        · exact (hb _ _ _).mem
        · rfl
      · split
        · rename_i hs _
          intro h
          exact hs (by dsimp only at h; rw [(hb _ _ _).twin] at h; exact h)
        · assumption

/-- A read of Ivory or Slate after a store gives the bytes stored. -/
theorem State.rawByte_storeBytes (s : State) (h : s.mem.wf = true) (a : Nat) (bs : Bytes)
    (ha : a + bs.length ≤ umberBase ∨ (slateBase ≤ a ∧ a + bs.length ≤ 2 ^ 48)) (i : Nat) (hi : i < bs.length) :
    (s.storeBytes a bs).rawByte (a + i) = bs[i] := by
  have hu : umberBase < slateBase := by decide
  unfold State.storeBytes
  have h1 : Frame (fun _ => True) s ((((s.beforeWrite a bs.length).recomputeFirst a bs.length).clearCovered a bs.length).dirtyTracks a bs.length) :=
    ((((Frame.refl s).beforeWrite _ _).recomputeFirst _ _).clearCovered _ _).dirtyTracks _ _ (fun _ _ => trivial)
  dsimp only
  generalize (((s.beforeWrite a bs.length).recomputeFirst a bs.length).clearCovered a bs.length).dirtyTracks a bs.length = u at h1 ⊢
  have w := (h1.byte h).1
  rw [State.rawByte_plain _ (by omega), State.forwardWrite_mem]
  dsimp only
  rw [Mem.openAt_closed _ (by omega) (by omega), Mem.cell_closeBytes]
  exact State.cell_pokeBytes u w a bs ha i hi

/-- The whole run. -/
theorem State.rawBytes_storeBytes (s : State) (h : s.mem.wf = true) (a : Nat) (bs : Bytes)
    (ha : a + bs.length ≤ umberBase ∨ (slateBase ≤ a ∧ a + bs.length ≤ 2 ^ 48)) : (s.storeBytes a bs).rawBytes a bs.length = bs := by
  unfold State.rawBytes
  refine List.ext_getElem (by simp) (fun i h1 h2 => ?_)
  rw [List.getElem_map, List.getElem_range]
  exact State.rawByte_storeBytes s h a bs ha i h2

end Sys2Proof.Machine
end

