-- ==== Sys2Proof/Laws/Bytes.lean ====
section
/-! SUPPORT. Laws of byte lists: little-endian numbers, fields, runs of memory read as one, and a journal header read back from its bytes. -/

namespace Sys2Proof.Machine

@[simp] theorem natBytes_length (n v : Nat) : (natBytes n v).length = n := by
  induction n generalizing v with
  | zero => rfl
  | succ n ih => simp [natBytes, ih]

/-- A number comes back from its `n` bytes, modulo 2^(8n). -/
theorem leNat_natBytes (n v : Nat) : leNat (natBytes n v) = v % 2 ^ (8 * n) := by
  induction n generalizing v with
  | zero => simp [natBytes, leNat, Nat.mod_one]
  | succ n ih =>
    have e : 2 ^ (8 * (n + 1)) = 256 * 2 ^ (8 * n) := by rw [Nat.mul_succ, Nat.pow_add, Nat.mul_comm]
    rw [natBytes, leNat, ih, e, Nat.mod_mul, BitVec.toNat_ofNat]

theorem crc32c_lt (bs : Bytes) : crc32c bs < 2 ^ 32 := by unfold crc32c; exact BitVec.isLt _

@[simp] theorem rawBytes_length (s : State) (a n : Nat) : (s.rawBytes a n).length = n := by unfold State.rawBytes; simp

/-- Part of a run of memory is a run of memory. -/
theorem sliceOf_rawBytes (s : State) (a n off len : Nat) (h : off + len ≤ n) : sliceOf (s.rawBytes a n) off len = s.rawBytes (a + off) len := by
  unfold sliceOf State.rawBytes
  apply List.ext_getElem
  · simp; omega
  · intro i h1 h2; simp [Nat.add_assoc]

theorem fieldAt_rawBytes (s : State) (a n off len : Nat) (h : off + len ≤ n) : fieldAt (s.rawBytes a n) off len = leNat (s.rawBytes (a + off) len) := by
  unfold fieldAt; rw [sliceOf_rawBytes s a n off len h]

/-- A field of a byte string made of a front part, the field's bytes and a rest. -/
theorem fieldAt_mid (x y z : Bytes) (off len : Nat) (hx : x.length = off) (hy : y.length = len) : fieldAt (x ++ y ++ z) off len = leNat y := by
  subst hx hy; unfold fieldAt sliceOf; rw [List.append_assoc, List.drop_left, List.take_left]

/-- A header copy whose bytes are a header's is that header. -/
theorem State.headerCopy_of (s : State) (k owner base w t : Nat) (hb : s.rawBytes (s.per.journalBase * 4096 + 4096 * k) 4096 = headerBytes owner base w t)
    (ho : owner < 2 ^ 64) (hbase : base < 2 ^ 64) (hw : w < 2 ^ 64) (ht : t ≤ w) (hs : w - t ≤ s.journalSlots) :
    s.headerCopy k = some { copy := k, owner := owner, base := base, write := w, trim := t } := by
  have f0 : fieldAt (headerBytes owner base w t) 0 8 = owner := by
    rw [show headerBytes owner base w t = [] ++ natBytes 8 owner ++ (natBytes 8 base ++ natBytes 8 w ++ natBytes 8 t ++ natBytes 4060 0 ++
      natBytes 4 (crc32c (natBytes 8 owner ++ natBytes 8 base ++ natBytes 8 w ++ natBytes 8 t ++ natBytes 4060 0))) by
        simp only [headerBytes, withCrc, List.append_assoc, List.nil_append], fieldAt_mid _ _ _ 0 8 rfl (natBytes_length 8 _), leNat_natBytes]
    exact Nat.mod_eq_of_lt (by simpa using ho)
  have f1 : fieldAt (headerBytes owner base w t) 8 8 = base := by
    rw [show headerBytes owner base w t = natBytes 8 owner ++ natBytes 8 base ++ (natBytes 8 w ++ natBytes 8 t ++ natBytes 4060 0 ++
      natBytes 4 (crc32c (natBytes 8 owner ++ natBytes 8 base ++ natBytes 8 w ++ natBytes 8 t ++ natBytes 4060 0))) by
        simp only [headerBytes, withCrc, List.append_assoc], fieldAt_mid _ _ _ 8 8 (natBytes_length 8 _) (natBytes_length 8 _), leNat_natBytes]
    exact Nat.mod_eq_of_lt (by simpa using hbase)
  have f2 : fieldAt (headerBytes owner base w t) 16 8 = w := by
    rw [show headerBytes owner base w t = (natBytes 8 owner ++ natBytes 8 base) ++ natBytes 8 w ++ (natBytes 8 t ++ natBytes 4060 0 ++
      natBytes 4 (crc32c (natBytes 8 owner ++ natBytes 8 base ++ natBytes 8 w ++ natBytes 8 t ++ natBytes 4060 0))) by
        simp only [headerBytes, withCrc, List.append_assoc],
      fieldAt_mid _ _ _ 16 8 (by rw [List.length_append, natBytes_length, natBytes_length]) (natBytes_length 8 _), leNat_natBytes]
    exact Nat.mod_eq_of_lt (by simpa using hw)
  have f3 : fieldAt (headerBytes owner base w t) 24 8 = t := by
    rw [show headerBytes owner base w t = (natBytes 8 owner ++ natBytes 8 base ++ natBytes 8 w) ++ natBytes 8 t ++ (natBytes 4060 0 ++
      natBytes 4 (crc32c (natBytes 8 owner ++ natBytes 8 base ++ natBytes 8 w ++ natBytes 8 t ++ natBytes 4060 0))) by
        simp only [headerBytes, withCrc, List.append_assoc],
      fieldAt_mid _ _ _ 24 8 (by simp only [List.length_append, natBytes_length]) (natBytes_length 8 _), leNat_natBytes]
    exact Nat.mod_eq_of_lt (by have : (2:Nat)^(8*8) = 2^64 := rfl; omega)
  have fc : crc32c (sliceOf (headerBytes owner base w t) 0 4092) = fieldAt (headerBytes owner base w t) 4092 4 := by
    have hl : (natBytes 8 owner ++ natBytes 8 base ++ natBytes 8 w ++ natBytes 8 t ++ natBytes 4060 0).length = 4092 := by
      simp only [List.length_append, natBytes_length]
    unfold headerBytes withCrc
    generalize natBytes 8 owner ++ natBytes 8 base ++ natBytes 8 w ++ natBytes 8 t ++ natBytes 4060 0 = x at hl
    have e := fieldAt_mid x (natBytes 4 (crc32c x)) [] 4092 4 hl (natBytes_length 4 _)
    rw [List.append_nil] at e
    rw [e, leNat_natBytes, Nat.mod_eq_of_lt (by simpa using crc32c_lt x)]
    unfold sliceOf
    rw [List.drop_zero, ← hl, List.take_left]
  unfold State.headerCopy
  simp only [hb, f0, f1, f2, f3]
  rw [if_pos ⟨fc, ht, hs⟩]

/-- A copy whose TRIM is above its WRITE is no header. -/
theorem State.headerCopy_none (s : State) (k : Nat)
    (h : leNat (s.rawBytes (s.per.journalBase * 4096 + 4096 * k + 16) 8) < leNat (s.rawBytes (s.per.journalBase * 4096 + 4096 * k + 24) 8)) :
    s.headerCopy k = none := by
  unfold State.headerCopy
  simp only [fieldAt_rawBytes _ _ 4096 16 8 (by omega), fieldAt_rawBytes _ _ 4096 24 8 (by omega)]
  rw [if_neg (fun x => absurd x.2.1 (by omega))]

end Sys2Proof.Machine
end

