-- ==== Sys2Proof/Laws/KeepFaults.lean ====
section
/-! SUPPORT. What the functions of Machine/Faults.lean keep: waiting commands, part, fuses and the canonical form of memory. -/

namespace Sys2Proof.Machine

theorem State.poisonRanges_keeps {s0 : State} (s : State) (rs : List (Nat × Nat)) (hk : Keeps s0 s) : Keeps s0 (State.poisonRanges s rs) := by
  unfold State.poisonRanges
  iterate 24 try any_goals
    first
    | with_reducible assumption | with_reducible apply State.poisonGranule_keeps | (with_reducible apply Keeps.foldl; intro _ _ _; try dsimp only)
    | split

theorem State.endInPlace_keeps {s0 : State} (s : State) (rs : List ArrayRun) (hk : Keeps s0 s) : Keeps s0 (State.endInPlace s rs) := by
  unfold State.endInPlace
  dsimp only
  iterate 24 try any_goals
    first
    | with_reducible assumption | with_reducible apply State.poisonRanges_keeps | (with_reducible apply Keeps.foldl; intro _ _ _; try dsimp only)
    | split | (with_reducible refine Keeps.mkBoot ?_ rfl rfl rfl rfl)

theorem State.leaveRegion_keeps {s0 : State} (s : State) (r : Nat) (hk : Keeps s0 s) : Keeps s0 (State.leaveRegion s r) := by
  unfold State.leaveRegion
  iterate 24 try any_goals
    first
    | with_reducible assumption | split | (with_reducible refine Keeps.mkBoot ?_ rfl rfl rfl rfl)

theorem State.moveWork_keeps {s0 : State} (s : State) (r : Nat) (hk : Keeps s0 s) : Keeps s0 (State.moveWork s r) := by
  unfold State.moveWork
  dsimp only
  iterate 24 try any_goals
    first
    | with_reducible assumption | with_reducible apply State.putRegion_keeps | with_reducible apply State.endInPlace_keeps
    | with_reducible apply State.leaveRegion_keeps | split

theorem State.recordRegion_keeps {s0 : State} (s : State) (r p : Nat) (hk : Keeps s0 s) : Keeps s0 (State.recordRegion s r p) := by
  unfold State.recordRegion
  iterate 24 try any_goals
    first
    | with_reducible assumption | with_reducible apply State.recordUp_keeps | with_reducible apply State.recordChip_keeps | split

theorem State.regionDown_keeps {s0 : State} (s : State) (r p : Nat) (hk : Keeps s0 s) : Keeps s0 (State.regionDown s r p) := by
  unfold State.regionDown
  dsimp only
  iterate 24 try any_goals
    first
    | with_reducible assumption | with_reducible apply State.deviceStopAt_keeps | with_reducible apply State.putRegion_keeps
    | with_reducible apply State.poisonSlice_keeps | with_reducible apply State.moveWork_keeps | with_reducible apply State.recordRegion_keeps | split
    | (with_reducible refine Keeps.mkBoot ?_ rfl rfl rfl rfl)

theorem State.regionFault_keeps {s0 : State} (s : State) (r p : Nat) (hk : Keeps s0 s) : Keeps s0 (State.regionFault s r p) := by
  unfold State.regionFault
  iterate 24 try any_goals
    first
    | with_reducible assumption | with_reducible apply State.record_keeps | with_reducible apply State.recordUp_keeps
    | with_reducible apply State.putRegion_keeps | with_reducible apply State.poisonSlice_keeps | with_reducible apply State.recordRegion_keeps
    | with_reducible apply State.regionDown_keeps | split | (with_reducible refine Keeps.mkBoot ?_ rfl rfl rfl rfl)

theorem State.settleAs_keeps {s0 : State} (s : State) (c : ErrClass) (r p : Nat) (g : Region) (hk : Keeps s0 s) : Keeps s0 (State.settleAs s c r p g) := by
  unfold State.settleAs
  dsimp only
  iterate 24 try any_goals
    first
    | with_reducible assumption | with_reducible apply State.recordUp_keeps | with_reducible apply State.putRegion_keeps
    | with_reducible apply State.regionFault_keeps | split

theorem State.settleBlock_keeps {s0 : State} (s : State) (r p : Nat) (g : Region) (hk : Keeps s0 s) : Keeps s0 (State.settleBlock s r p g) := by
  unfold State.settleBlock
  iterate 24 try any_goals
    first
    | with_reducible assumption | with_reducible apply State.settleAs_keeps | split

theorem State.fenceColumn_keeps {s0 : State} (s : State) (r x col : Nat) (hk : Keeps s0 s) : Keeps s0 (State.fenceColumn s r x col) := by
  unfold State.fenceColumn
  dsimp only
  iterate 24 try any_goals
    first
    | with_reducible assumption | with_reducible apply State.record_keeps | with_reducible apply State.putRegion_keeps
    | with_reducible apply State.settleBlock_keeps | split | (with_reducible refine Keeps.mkBoot ?_ rfl rfl rfl rfl)

theorem State.fenceLanes_keeps {s0 : State} (s : State) (r v k : Nat) (hk : Keeps s0 s) : Keeps s0 (State.fenceLanes s r v k) := by
  unfold State.fenceLanes
  dsimp only
  iterate 24 try any_goals
    first
    | with_reducible assumption | with_reducible apply State.record_keeps | with_reducible apply State.putRegion_keeps
    | with_reducible apply State.settleBlock_keeps | split | (with_reducible refine Keeps.mkBoot ?_ rfl rfl rfl rfl)

theorem State.fenceExpander_keeps {s0 : State} (s : State) (r p k : Nat) (hk : Keeps s0 s) : Keeps s0 (State.fenceExpander s r p k) := by
  unfold State.fenceExpander
  dsimp only
  iterate 24 try any_goals
    first
    | with_reducible assumption | with_reducible apply State.record_keeps | with_reducible apply State.putRegion_keeps
    | with_reducible apply State.settleBlock_keeps | split | (with_reducible refine Keeps.mkBoot ?_ rfl rfl rfl rfl)

theorem State.fenceBank_keeps {s0 : State} (s : State) (r b : Nat) (hk : Keeps s0 s) : Keeps s0 (State.fenceBank s r b) := by
  unfold State.fenceBank
  dsimp only
  iterate 24 try any_goals
    first
    | with_reducible assumption | with_reducible apply State.poisonSlice_keeps | with_reducible apply State.settleAs_keeps | split
    | (with_reducible refine Keeps.mkBoot ?_ rfl rfl rfl rfl)

theorem State.fenceBankGroup_keeps {s0 : State} (s : State) (t k : Nat) (hk : Keeps s0 s) : Keeps s0 (State.fenceBankGroup s t k) := by
  unfold State.fenceBankGroup
  dsimp only
  iterate 24 try any_goals
    first
    | with_reducible assumption | with_reducible apply State.record_keeps | with_reducible apply State.putTower_keeps | split
    | (with_reducible refine Keeps.mkBoot ?_ rfl rfl rfl rfl)

theorem State.markLane_keeps {s0 : State} (s : State) (l k : Nat) (hk : Keeps s0 s) : Keeps s0 (State.markLane s l k) := by
  unfold State.markLane
  dsimp only
  iterate 24 try any_goals
    first
    | with_reducible assumption | with_reducible apply State.record_keeps | split | (with_reducible refine Keeps.mkBoot ?_ rfl rfl rfl rfl)

theorem State.fenceCell_keeps {s0 : State} (s : State) (y : Cell) (hk : Keeps s0 s) : Keeps s0 (State.fenceCell s y) := by
  unfold State.fenceCell
  iterate 24 try any_goals
    first
    | with_reducible assumption | with_reducible apply State.fenceColumn_keeps | with_reducible apply State.fenceLanes_keeps
    | with_reducible apply State.fenceExpander_keeps | with_reducible apply State.fenceBank_keeps | with_reducible apply State.fenceBankGroup_keeps
    | with_reducible apply State.markLane_keeps | split

theorem State.fenceEngine_keeps {s0 : State} (s : State) (e : Nat) (hk : Keeps s0 s) : Keeps s0 (State.fenceEngine s e) := by
  unfold State.fenceEngine
  dsimp only
  iterate 24 try any_goals
    first
    | with_reducible assumption | with_reducible apply State.recordUp_keeps | with_reducible apply State.deviceStopAt_keeps | split
    | (with_reducible refine Keeps.mkBoot ?_ rfl rfl rfl rfl)

theorem State.leaveTower_keeps {s0 : State} (s : State) (t : Nat) (hk : Keeps s0 s) : Keeps s0 (State.leaveTower s t) := by
  unfold State.leaveTower
  iterate 24 try any_goals
    first
    | with_reducible assumption | split | (with_reducible refine Keeps.mkBoot ?_ rfl rfl rfl rfl)

theorem State.fenceTowerUnit_keeps {s0 : State} (s : State) (t : Nat) (hk : Keeps s0 s) : Keeps s0 (State.fenceTowerUnit s t) := by
  unfold State.fenceTowerUnit
  dsimp only
  iterate 24 try any_goals
    first
    | with_reducible assumption | with_reducible apply State.recordUp_keeps | with_reducible apply State.putTower_keeps
    | with_reducible apply State.leaveTower_keeps | split | (with_reducible refine Keeps.mkBoot ?_ rfl rfl rfl rfl)

theorem State.fenceBlock_keeps {s0 : State} (s : State) (y : Block) (hk : Keeps s0 s) : Keeps s0 (State.fenceBlock s y) := by
  unfold State.fenceBlock
  iterate 24 try any_goals
    first
    | with_reducible assumption | with_reducible apply State.recordUp_keeps | with_reducible apply State.deviceStopAt_keeps
    | with_reducible apply State.settleBlock_keeps | with_reducible apply State.fenceEngine_keeps | with_reducible apply State.fenceTowerUnit_keeps
    | split | (with_reducible refine Keeps.mkBoot ?_ rfl rfl rfl rfl)

end Sys2Proof.Machine
end

