-- ==== Sys2Proof/Laws/KeepOperands.lean ====
section
/-! SUPPORT. What the functions of Machine/Operands.lean keep: waiting commands, part, fuses and the canonical form of memory. -/

namespace Sys2Proof.Machine

theorem State.writeAll_keeps {s0 s : State} {ws : Writes} {t : State} (hk : Keeps s0 s) (e : State.writeAll s ws = .ok t) : Keeps s0 t := by
  unfold State.writeAll at e
  split at e <;> cases e
  exact Keeps.foldl (fun u w hu => State.storeBytes_keeps _ _ _ hu) hk

end Sys2Proof.Machine
end

