-- ==== Sys2Proof/Laws/KeepRun.lean ====
section
/-! SUPPORT. What the functions of Machine/Run.lean keep: waiting commands, part, fuses and the canonical form of memory. -/

namespace Sys2Proof.Machine

theorem State.putCmd_keeps {s0 : State} (s : State) (c : Cmd) (hk : Keeps s0 s) : Keeps s0 (State.putCmd s c) := by
  unfold State.putCmd
  iterate 24 try any_goals
    first
    | with_reducible assumption | split | (with_reducible refine Keeps.mkBoot ?_ rfl rfl rfl rfl)

theorem State.dropCmd_keeps {s0 : State} (s : State) (q n : Nat) (hk : Keeps s0 s) : Keeps s0 (State.dropCmd s q n) := by
  unfold State.dropCmd
  iterate 24 try any_goals
    first
    | with_reducible assumption | split | (with_reducible refine Keeps.mkBoot ?_ rfl rfl rfl rfl)

theorem State.putQueue_keeps {s0 : State} (s : State) (q : Nat) (x : QueueCtx) (hk : Keeps s0 s) : Keeps s0 (State.putQueue s q x) := by
  unfold State.putQueue
  iterate 24 try any_goals
    first
    | with_reducible assumption | split | (with_reducible refine Keeps.mkBoot ?_ rfl rfl rfl rfl)

theorem commitWrites_keeps {s0 : State} (s : State) (c : Cmd) (p : Packed) (hk : Keeps s0 s) : KeepsR s0 (commitWrites s c p) := by
  unfold commitWrites
  split
  · exact KeepsR.error
  · exact KeepsR.ok (State.writeAll_keeps hk ‹_›)

theorem commitGranules_keeps {s0 : State} (s : State) (c : Cmd) (p : Packed) (hk : Keeps s0 s) : KeepsR s0 (commitGranules s c p) := by
  unfold commitGranules
  refine KeepsR.bind (commitWrites_keeps s c p hk) (fun x _ => ?_)
  dsimp only
  cases e : s.writeAll (List.flatMap (fun x => x.1) (List.map wholeGranules (joinWrites p.writes))) with
  | error st => exact KeepsR.error
  | ok t => exact KeepsR.ok (State.writeAll_keeps hk e)

theorem releaseWithheld_keeps {s0 s : State} {c : Cmd} {t : State} (hk : Keeps s0 s) (e : releaseWithheld s c = .ok t) : Keeps s0 t := by
  unfold releaseWithheld at e
  split at e
  · cases e; exact hk
  · exact State.writeAll_keeps hk e

theorem State.noteStop_keeps {s0 : State} (s : State) (page : Nat) (y : Status) (hk : Keeps s0 s) : Keeps s0 (State.noteStop s page y) := by
  unfold State.noteStop
  iterate 24 try any_goals
    first
    | with_reducible assumption | with_reducible apply State.record_keeps | split

theorem State.recordExpander_keeps {s0 : State} (s : State) (r p frame block : Nat) (hk : Keeps s0 s) : Keeps s0 (State.recordExpander s r p frame block) := by
  unfold State.recordExpander
  dsimp only
  iterate 24 try any_goals
    first
    | with_reducible assumption | with_reducible apply State.record_keeps | with_reducible apply State.putRegion_keeps | split
    | (with_reducible refine Keeps.mkBoot ?_ rfl rfl rfl rfl)

theorem State.blameAt_keeps {s0 : State} (s : State) (page r p : Nat) (y : Status) (hk : Keeps s0 s) : Keeps s0 (State.blameAt s page r p y) := by
  unfold State.blameAt
  iterate 24 try any_goals
    first
    | with_reducible assumption | with_reducible apply State.noteStop_keeps | with_reducible apply State.recordExpander_keeps | split

theorem State.endCmd_keeps {s0 : State} (s : State) (page : Nat) (c : Cmd) (st : Status) (hk : Keeps s0 s) : Keeps s0 (State.endCmd s page c st) := by
  unfold State.endCmd
  iterate 24 try any_goals
    first
    | with_reducible assumption | with_reducible apply State.putCmd_keeps | with_reducible apply State.noteStop_keeps | split
    | (with_reducible refine Keeps.mkBoot ?_ rfl rfl rfl rfl)

theorem endWith_keeps {s0 : State} (s : State) (c : Cmd) (st : Status) (outs : List (Nat × Nat)) (hk : Keeps s0 s) : Keeps s0 (endWith s c st outs).1 := by
  unfold endWith
  dsimp only
  split
  · exact Keeps.foldl (fun u r hu => State.openRange_keeps _ _ _ hu) hk
  · exact hk

/-- What the running of an opcode keeps. -/
structure OpKeeps (op : Op) : Prop where
  unit   : ∀ s0 s c k, Keeps s0 s → KeepsR s0 (op.unit s c k)
  finish : ∀ s0 s c, Keeps s0 s → KeepsR s0 (op.finish s c)
  blame  : ∀ s0 s c st, Keeps s0 s → Keeps s0 (op.blame s c st)
  leave  : ∀ s0 s c st, Keeps s0 s → Keeps s0 (op.leave s c st).1

theorem Op.quit_keeps {s0 : State} {op : Op} (ho : OpKeeps op) (s : State) (c : Cmd) (st : Status) (hk : Keeps s0 s) : Keeps s0 (op.quit s c st).1 := by
  unfold Op.quit
  refine endWith_keeps _ _ _ _ (ho.leave s0 _ _ st ?_)
  cases e : releaseWithheld s c with
  | error x => exact hk
  | ok t => exact releaseWithheld_keeps hk e

theorem Op.stop_keeps {s0 : State} {op : Op} (ho : OpKeeps op) (s : State) (c : Cmd) (st : Status) (hk : Keeps s0 s) : Keeps s0 (op.stop s c st).1 :=
  Op.quit_keeps ho _ _ _ (ho.blame s0 s c st hk)

theorem Op.endAtStart_keeps {s0 : State} {op : Op} (ho : OpKeeps op) (s : State) (c : Cmd) (st : Status) (hk : Keeps s0 s) :
    Keeps s0 (op.endAtStart s c st) :=
  State.putCmd_keeps _ _ (ho.leave s0 _ _ st (ho.blame s0 s c st hk))

theorem Op.stopIn_keeps {s0 : State} {op : Op} (ho : OpKeeps op) (s : State) (c : Cmd) (st : Status) (hk : Keeps s0 s) : Keeps s0 (op.stopIn s c st) :=
  State.putCmd_keeps _ _ (Op.stop_keeps ho s c st hk)

theorem Op.runUnits_keeps {s0 : State} {op : Op} (ho : OpKeeps op) (ks : List Nat) (s : State) (c : Cmd) (hk : Keeps s0 s) :
    Keeps s0 (op.runUnits ks s c).1 := by
  induction ks generalizing s c with
  | nil => exact hk
  | cons k ks ih =>
    unfold Op.runUnits
    split
    · exact ih s c hk
    · split
      · exact hk
      · dsimp only
        split
        · exact hk
        · next t d e => exact ih _ _ (ho.unit s0 s _ k hk (t, d) e)

theorem Op.close_keeps {s0 : State} {op : Op} (ho : OpKeeps op) (s : State) (c : Cmd) (hk : Keeps s0 s) : Keeps s0 (op.close s c).1 := by
  unfold Op.close
  cases e : releaseWithheld s c with
  | error x => exact Op.stop_keeps ho _ _ _ hk
  | ok t =>
    dsimp only [Except.bind]
    split
    · exact Op.stop_keeps ho _ _ _ hk
    · next u d e2 => exact ho.finish s0 t _ (releaseWithheld_keeps hk e) (u, d) e2

theorem Op.settle_keeps {s0 : State} {op : Op} (ho : OpKeeps op) (r : State × Cmd × Option Status) (hk : Keeps s0 r.1) : Keeps s0 (op.settle r).1 := by
  unfold Op.settle
  split
  · exact Op.stop_keeps ho _ _ _ hk
  · split
    · exact Op.close_keeps ho _ _ hk
    · exact hk

theorem Op.runSome_keeps {s0 : State} {op : Op} (ho : OpKeeps op) (ks : List Nat) (s : State) (c : Cmd) (hk : Keeps s0 s) :
    Keeps s0 (op.runSome ks s c).1 := by
  unfold Op.runSome
  split
  · exact Op.quit_keeps ho _ _ _ (State.modPage_keeps _ _ _ hk)
  · exact Op.settle_keeps ho _ (Op.runUnits_keeps ho _ _ _ hk)

theorem Op.runAll_keeps {s0 : State} {op : Op} (ho : OpKeeps op) (s : State) (c : Cmd) (hk : Keeps s0 s) : Keeps s0 (op.runAll s c).1 :=
  Op.runSome_keeps ho _ s c hk

theorem Op.runOne_keeps {s0 : State} {op : Op} (ho : OpKeeps op) (s : State) (c : Cmd) (hk : Keeps s0 s) : Keeps s0 (op.runOne s c).1 :=
  Op.runSome_keeps ho _ s c hk

theorem runRow_keeps {s0 : State} {op : Op} (ho : OpKeeps op) (sel : Cmd → Bool) (q n : Nat) (s : State) (hk : Keeps s0 s) :
    Keeps s0 (runRow op sel q n s) := by
  unfold runRow
  split
  · exact hk
  · exact State.putCmd_keeps _ _ (Op.runAll_keeps ho _ _ hk)

theorem State.expectRise_keeps {s0 : State} (s : State) (w : Nat) (hk : Keeps s0 s) : Keeps s0 (s.expectRise w) := by
  unfold State.expectRise
  dsimp only
  split
  · exact hk
  · refine Keeps.mkBoot ?_ rfl rfl rfl rfl
    exact hk

theorem State.expectFall_keeps {s0 : State} (s : State) (w : Nat) (hk : Keeps s0 s) : Keeps s0 (s.expectFall w) := by
  unfold State.expectFall
  dsimp only
  split
  · exact hk
  · refine Keeps.mkBoot ?_ rfl rfl rfl rfl
    exact hk

theorem State.quits_keeps {s0 : State} (s : State) (c : Cmd) (r : Nat) (hk : Keeps s0 s) : Keeps s0 (s.quits c r) := by
  unfold State.quits
  dsimp only
  split
  · exact State.putCmd_keeps _ _ hk
  · exact State.expectFall_keeps _ _ (State.putCmd_keeps _ _ hk)

theorem State.joinRegion_keeps {s0 s : State} {c : Cmd} {r : Nat} {p : State × Cmd} (hk : Keeps s0 s) (e : s.joinRegion c r = some p) : Keeps s0 p.1 := by
  unfold State.joinRegion at e
  split at e
  · cases e; exact hk
  · split at e <;> cases e
    exact State.expectRise_keeps _ _ (State.count_keeps _ _ _ _ hk)

theorem State.joinTower_keeps {s0 s : State} {c : Cmd} {r : Nat} {p : State × Cmd} (hk : Keeps s0 s) (e : s.joinTower c r = some p) : Keeps s0 p.1 := by
  unfold State.joinTower at e
  split at e
  · cases e; exact hk
  · split at e <;> cases e
    exact State.putTower_keeps _ _ _ hk

theorem State.quitTower_keeps {s0 : State} (s : State) (c : Cmd) (t : Nat) (hk : Keeps s0 s) : Keeps s0 (State.quitTower s c t) := by
  unfold State.quitTower
  iterate 24 try any_goals
    first
    | with_reducible assumption | with_reducible apply State.putTower_keeps | with_reducible apply State.putCmd_keeps | split
    | (with_reducible refine Keeps.mkBoot ?_ rfl rfl rfl rfl)

theorem writeReport_keeps {s0 : State} (s : State) (c : Cmd) (on : Bool) (a : Nat) (bs : Bytes) (hk : Keeps s0 s) : KeepsR s0 (writeReport s c on a bs) := by
  unfold writeReport
  iterate 24 try any_goals
    first
    | with_reducible assumption | with_reducible exact KeepsR.error | with_reducible apply KeepsR.ok | with_reducible apply commitWrites_keeps
    | (with_reducible refine KeepsR.map ?_ (fun p hp => ?_)) | (with_reducible refine KeepsR.bind ?_ (fun p hp => ?_))
    | (with_reducible refine KeepsR.bindV (fun a => ?_)) | split | (with_reducible refine KeepsR.of ?_ (by assumption))

theorem leaveReport_keeps {s0 : State} (on : Cmd → Bool) (addr : Cmd → Nat) (bs : State → Cmd → Bytes) (s : State) (c : Cmd) (st : Status) (hk : Keeps s0 s) : Keeps s0 (leaveReport on addr bs s c st).1 := by
  unfold leaveReport
  iterate 24 try any_goals
    first
    | with_reducible assumption | with_reducible apply writeReport_keeps | split | (with_reducible refine KeepsR.of ?_ (by assumption))
    | (with_reducible refine Keeps.mkBoot ?_ rfl rfl rfl rfl)

theorem openRest_keeps {s0 : State} (s : State) (c : Cmd) (rs : List (Nat × Nat)) (hk : Keeps s0 s) : Keeps s0 (openRest s c rs) := by
  unfold openRest
  iterate 24 try any_goals
    first
    | with_reducible assumption | with_reducible apply State.openRange_keeps | (with_reducible apply Keeps.foldl; intro _ _ _; try dsimp only) | split

end Sys2Proof.Machine
end

