-- ==== Sys2Proof/Laws/KeepStack.lean ====
section
/-! SUPPORT. What the functions of Machine/Stack.lean keep: waiting commands, part, fuses and the canonical form of memory. -/

namespace Sys2Proof.Machine

/-- What a start keeps. -/
def StartKeeps (s0 : State) : Start → Prop
  | .go t _ => Keeps s0 t
  | .wait => True
  | .stop t _ => Keeps s0 t

theorem StartKeeps.go {s0 t : State} {c : Cmd} (h : Keeps s0 t) : StartKeeps s0 (.go t c) := h
theorem StartKeeps.wait {s0 : State} : StartKeeps s0 .wait := trivial
theorem StartKeeps.stop {s0 t : State} {st : Status} (h : Keeps s0 t) : StartKeeps s0 (.stop t st) := h

theorem State.putHead_keeps {s0 : State} (s : State) (h : SHead) (hk : Keeps s0 s) : Keeps s0 (State.putHead s h) := by
  unfold State.putHead
  iterate 24 try any_goals
    first
    | with_reducible assumption | with_reducible apply State.storeBytes_keeps | split

theorem State.putEntry_keeps {s0 : State} (s : State) (h : SHead) (e : SEntry) (hk : Keeps s0 s) : Keeps s0 (State.putEntry s h e) := by
  unfold State.putEntry
  iterate 24 try any_goals
    first
    | with_reducible assumption | with_reducible apply State.storeBytes_keeps | split

theorem State.dropReleased_keeps {s0 : State} (s : State) (h : SHead) (hk : Keeps s0 s) : Keeps s0 (State.dropReleased s h) := by
  unfold State.dropReleased
  dsimp only
  iterate 24 try any_goals
    first
    | with_reducible assumption | with_reducible apply State.putHead_keeps | split | (with_reducible refine KeepsR.of ?_ (by assumption))
    | (with_reducible refine Keeps.mkBoot ?_ rfl rfl rfl rfl)

theorem stackReserve_keeps {s0 : State} (s : State) (c : Cmd) (a : Nat) (need : SNeed) (hk : Keeps s0 s) : StartKeeps s0 (stackReserve s c a need) := by
  unfold stackReserve
  dsimp only
  iterate 24 try any_goals
    first
    | with_reducible assumption | with_reducible apply Op.stop_keeps | with_reducible apply State.putHead_keeps
    | with_reducible apply State.putEntry_keeps | with_reducible apply StartKeeps.go | with_reducible exact StartKeeps.wait
    | with_reducible apply StartKeeps.stop | split | (with_reducible refine KeepsR.of ?_ (by assumption))
    | (with_reducible refine Keeps.mkBoot ?_ rfl rfl rfl rfl)

theorem stackClaim_keeps {s0 : State} (s : State) (c : Cmd) (a : Nat) (fits : SEntry → Bool) (hk : Keeps s0 s) : StartKeeps s0 (stackClaim s c a fits) := by
  unfold stackClaim
  dsimp only
  iterate 24 try any_goals
    first
    | with_reducible assumption | with_reducible apply Op.stop_keeps | with_reducible apply State.putHead_keeps
    | with_reducible apply State.putEntry_keeps | with_reducible apply StartKeeps.go | with_reducible exact StartKeeps.wait
    | with_reducible apply StartKeeps.stop | split | (with_reducible refine KeepsR.of ?_ (by assumption))
    | (with_reducible refine Keeps.mkBoot ?_ rfl rfl rfl rfl)

theorem State.dropClaim_keeps {s0 : State} (s : State) (k : StackClaim) (hk : Keeps s0 s) : Keeps s0 (State.dropClaim s k) := by
  unfold State.dropClaim
  dsimp only
  iterate 24 try any_goals
    first
    | with_reducible assumption | split | (with_reducible refine Keeps.mkBoot ?_ rfl rfl rfl rfl)

theorem stackDone_keeps {s0 : State} (s : State) (c : Cmd) (ok : Bool) (hk : Keeps s0 s) : Keeps s0 (stackDone s c ok) := by
  unfold stackDone
  dsimp only
  iterate 24 try any_goals
    first
    | with_reducible assumption | with_reducible apply State.putHead_keeps | with_reducible apply State.putEntry_keeps
    | with_reducible apply State.dropReleased_keeps | with_reducible apply State.dropClaim_keeps | split
    | (with_reducible refine KeepsR.of ?_ (by assumption)) | (with_reducible refine Keeps.mkBoot ?_ rfl rfl rfl rfl)

theorem State.codeEntry_keeps {s0 s : State} {k : StackClaim} {t : State} (hk : Keeps s0 s) (e : State.codeEntry s k = .ok t) : Keeps s0 t := by
  unfold State.codeEntry at e
  dsimp only at e
  split at e
  · cases e; exact hk
  · revert e
    cases s.entryTable k with
    | error st => intro e; cases e
    | ok tb =>
      intro e
      refine Keeps.foldlM (fun u n v hu ev => ?_) _ hk e
      clear e
      revert ev
      cases u.readBytes (k.addr + (s.heldEntry k).dataOff + 4096 * n) (2 * min 2048 (List.foldl (fun x1 x2 => x1 * x2) 1 (s.heldEntry k).sizes - 2048 * n)) with
      | error st => intro ev; cases ev
      | ok bs =>
        intro ev
        simp only [bind, Except.bind] at ev
        generalize (encodeBlock tb none false (List.map leNat (pieces 2 bs))) = f at ev
        split at ev
        · cases ev
        · next v hv => exact State.writeBytes_keeps (State.writeBytes_keeps hu hv) ev

theorem openUnit_keeps {s0 : State} (s : State) (c : Cmd) (k1 : Nat) (hk : Keeps s0 s) : KeepsR s0 (openUnit s c k1) := by
  unfold openUnit
  dsimp only
  iterate 24 try any_goals
    first
    | with_reducible assumption | with_reducible exact KeepsR.error | with_reducible apply KeepsR.ok | with_reducible apply commitWrites_keeps
    | (with_reducible refine KeepsR.map ?_ (fun p hp => ?_)) | (with_reducible refine KeepsR.bind ?_ (fun p hp => ?_))
    | (with_reducible refine KeepsR.bindV (fun a => ?_)) | split | (with_reducible refine KeepsR.of ?_ (by assumption))

theorem closeUnit_keeps {s0 : State} (s : State) (c : Cmd) (k1 : Nat) (hk : Keeps s0 s) : KeepsR s0 (closeUnit s c k1) := by
  unfold closeUnit
  try dsimp only
  iterate 24 try any_goals
    first
    | with_reducible assumption | with_reducible exact KeepsR.error | with_reducible apply KeepsR.ok | with_reducible apply commitWrites_keeps
    | (with_reducible refine KeepsR.map ?_ (fun p hp => ?_)) | (with_reducible refine KeepsR.bind ?_ (fun p hp => ?_))
    | (with_reducible refine KeepsR.bindV (fun a => ?_)) | (with_reducible apply Keeps.foldl; intro _ _ _; try dsimp only) | split
    | (with_reducible refine KeepsR.of ?_ (by assumption)) | dsimp only | intro _ _ | (with_reducible refine Keeps.mkBoot ?_ rfl rfl rfl rfl)

theorem finishOk_keeps {s0 : State} (s : State) (c : Cmd) (hk : Keeps s0 s) : KeepsR s0 (finishOk s c) := KeepsR.ok hk

theorem stackOpenOp_keeps  : OpKeeps (stackOpenOp ) := by
  refine ⟨fun s0 s c k hk => ?_, fun s0 s c hk => ?_, fun s0 s c st hk => ?_, fun s0 s c st hk => ?_⟩ <;> dsimp only [stackOpenOp]
  all_goals (iterate 8 try any_goals (first | with_reducible assumption | with_reducible exact KeepsR.error | with_reducible apply KeepsR.ok | with_reducible apply State.blameAt_keeps | with_reducible apply openUnit_keeps | with_reducible apply closeUnit_keeps | with_reducible apply finishOk_keeps | split))

theorem cutTo_keeps {s0 : State} (s : State) (c : Cmd) (h : SHead) (es : List SEntry) (off : Nat) (hk : Keeps s0 s) :
    KeepsR s0 (cutTo s c h es off) := by
  unfold cutTo
  dsimp only
  generalize ({ h with top := off, state := 1, entries := _, marks := _ } : SHead) = h'
  split
  · exact KeepsR.error
  · next e => exact KeepsR.ok (State.dropReleased_keeps _ _ (commitWrites_keeps _ _ _ hk _ e))

theorem markUnit_keeps {s0 : State} (s : State) (c : Cmd) (k1 : Nat) (hk : Keeps s0 s) : KeepsR s0 (markUnit s c k1) := by
  unfold markUnit
  iterate 24 try any_goals
    first
    | with_reducible assumption | with_reducible exact KeepsR.error | with_reducible apply KeepsR.ok | with_reducible apply cutTo_keeps
    | (with_reducible refine KeepsR.map ?_ (fun p hp => ?_)) | (with_reducible refine KeepsR.bind ?_ (fun p hp => ?_))
    | (with_reducible refine KeepsR.bindV (fun a => ?_)) | split | (with_reducible refine KeepsR.of ?_ (by assumption))
    | (with_reducible refine Keeps.mkBoot ?_ rfl rfl rfl rfl)

theorem stackMarkOp_keeps  : OpKeeps (stackMarkOp ) := by
  refine ⟨fun s0 s c k hk => ?_, fun s0 s c hk => ?_, fun s0 s c st hk => ?_, fun s0 s c st hk => ?_⟩ <;> dsimp only [stackMarkOp]
  all_goals (iterate 8 try any_goals (first | with_reducible assumption | with_reducible exact KeepsR.error | with_reducible apply KeepsR.ok | with_reducible apply State.blameAt_keeps | with_reducible apply finishOk_keeps | with_reducible apply markUnit_keeps | split))

theorem markStart_keeps {s0 : State} (s : State) (c : Cmd) (hk : Keeps s0 s) : StartKeeps s0 (markStart s c) := by
  unfold markStart
  iterate 24 try any_goals
    first
    | with_reducible assumption | with_reducible apply stackReserve_keeps | with_reducible apply stackClaim_keeps | with_reducible apply StartKeeps.go
    | with_reducible exact StartKeeps.wait | with_reducible apply StartKeeps.stop | split

theorem pushUnit_keeps {s0 : State} (s : State) (c : Cmd) (j : Nat) (hk : Keeps s0 s) : KeepsR s0 (pushUnit s c j) := by
  unfold pushUnit
  dsimp only
  iterate 24 try any_goals
    first
    | with_reducible assumption | with_reducible exact KeepsR.error | with_reducible apply KeepsR.ok | with_reducible apply commitWrites_keeps
    | (with_reducible refine KeepsR.map ?_ (fun p hp => ?_)) | (with_reducible refine KeepsR.bind ?_ (fun p hp => ?_))
    | (with_reducible refine KeepsR.bindV (fun a => ?_)) | split | (with_reducible refine KeepsR.of ?_ (by assumption))
    | (with_reducible refine Keeps.mkBoot ?_ rfl rfl rfl rfl)

theorem pushFinish_keeps {s0 : State} (s : State) (c : Cmd) (hk : Keeps s0 s) : KeepsR s0 (pushFinish s c) := by
  unfold pushFinish
  split
  · exact finishOk_keeps _ _ hk
  · split
    · exact KeepsR.error
    · exact KeepsR.ok (State.codeEntry_keeps hk ‹_›)

theorem stackPushOp_keeps  : OpKeeps (stackPushOp ) := by
  refine ⟨fun s0 s c k hk => ?_, fun s0 s c hk => ?_, fun s0 s c st hk => ?_, fun s0 s c st hk => ?_⟩ <;> dsimp only [stackPushOp]
  all_goals (iterate 8 try any_goals (first | with_reducible assumption | with_reducible exact KeepsR.error | with_reducible apply KeepsR.ok | with_reducible apply State.blameAt_keeps | with_reducible apply pushUnit_keeps | with_reducible apply pushFinish_keeps | split))

theorem pushStart_keeps {s0 : State} (s : State) (c : Cmd) (hk : Keeps s0 s) : StartKeeps s0 (pushStart s c) := by
  unfold pushStart
  dsimp only
  iterate 24 try any_goals
    first
    | with_reducible assumption | with_reducible apply stackReserve_keeps | with_reducible apply StartKeeps.go | with_reducible exact StartKeeps.wait
    | with_reducible apply StartKeeps.stop | split | (with_reducible refine Keeps.mkBoot ?_ rfl rfl rfl rfl)

theorem popStart_keeps {s0 : State} (s : State) (c : Cmd) (hk : Keeps s0 s) : StartKeeps s0 (popStart s c) := by
  unfold popStart
  dsimp only
  split
  · exact hk
  · next t _ =>
    have h := stackClaim_keeps s c (c.sctl 64).addr (fun e => popFits e (c.sctl 64).tag (c.sctl 64).fmt t.sizes none) hk
    split
    · next u d e =>
      rw [e] at h
      split
      · exact hk
      · exact h
    · exact h

theorem popUnit_keeps {s0 : State} (s : State) (c : Cmd) (k1 : Nat) (hk : Keeps s0 s) : KeepsR s0 (popUnit s c k1) := by
  unfold popUnit
  dsimp only
  iterate 24 try any_goals
    first
    | with_reducible assumption | with_reducible exact KeepsR.error | with_reducible apply KeepsR.ok | with_reducible apply State.count_keeps
    | with_reducible apply commitWrites_keeps | (with_reducible refine KeepsR.map ?_ (fun p hp => ?_))
    | (with_reducible refine KeepsR.bind ?_ (fun p hp => ?_)) | (with_reducible refine KeepsR.bindV (fun a => ?_)) | split
    | (with_reducible refine KeepsR.of ?_ (by assumption)) | (with_reducible refine Keeps.mkBoot ?_ rfl rfl rfl rfl)

theorem stackPopOp_keeps  : OpKeeps (stackPopOp ) := by
  refine ⟨fun s0 s c k hk => ?_, fun s0 s c hk => ?_, fun s0 s c st hk => ?_, fun s0 s c st hk => ?_⟩ <;> dsimp only [stackPopOp]
  all_goals (iterate 8 try any_goals (first | with_reducible assumption | with_reducible exact KeepsR.error | with_reducible apply KeepsR.ok | with_reducible apply State.blameAt_keeps | with_reducible apply finishOk_keeps | with_reducible apply popUnit_keeps | split))

end Sys2Proof.Machine
end

