-- ==== Sys2Proof/Laws/KeepKv.lean ====
section
/-! SUPPORT. What the functions of Machine/Kv.lean keep: waiting commands, part, fuses and the canonical form of memory. -/

namespace Sys2Proof.Machine

theorem State.putPool_keeps {s0 : State} (s : State) (p : Nat) (x : Pool) (hk : Keeps s0 s) : Keeps s0 (State.putPool s p x) := by
  unfold State.putPool
  iterate 24 try any_goals
    first
    | with_reducible assumption | split | (with_reducible refine Keeps.mkBoot ?_ rfl rfl rfl rfl)

theorem State.touchPool_keeps {s0 : State} (s : State) (p : Nat) (hk : Keeps s0 s) : Keeps s0 (State.touchPool s p) := by
  unfold State.touchPool
  iterate 24 try any_goals
    first
    | with_reducible assumption | with_reducible apply State.openRange_keeps | split

theorem State.releasePages_keeps {s0 : State} (s : State) (hk : Keeps s0 s) : Keeps s0 (State.releasePages s) := by
  unfold State.releasePages
  dsimp only
  iterate 24 try any_goals
    first
    | with_reducible assumption | with_reducible apply State.putPool_keeps | with_reducible apply State.touchPool_keeps
    | (with_reducible apply Keeps.foldl; intro _ _ _; try dsimp only) | split | (with_reducible refine Keeps.mkBoot ?_ rfl rfl rfl rfl)

theorem latchStart_keeps {s0 : State} (s : State) (c : Cmd) (hk : Keeps s0 s) : StartKeeps s0 (latchStart s c) := by
  unfold latchStart
  iterate 24 try any_goals
    first
    | with_reducible assumption | with_reducible apply StartKeeps.go | with_reducible exact StartKeeps.wait | with_reducible apply StartKeeps.stop
    | split | (with_reducible refine Keeps.mkBoot ?_ rfl rfl rfl rfl)

theorem kpUnit_keeps {s0 : State} (s : State) (c : Cmd) (k1 : Nat) (hk : Keeps s0 s) : KeepsR s0 (kpUnit s c k1) := by
  unfold kpUnit
  dsimp only
  iterate 24 try any_goals
    first
    | with_reducible assumption | with_reducible exact KeepsR.error | with_reducible apply KeepsR.ok | with_reducible apply State.openRange_keeps
    | with_reducible apply commitWrites_keeps | with_reducible apply State.putPool_keeps | with_reducible apply State.touchPool_keeps
    | (with_reducible refine KeepsR.map ?_ (fun p hp => ?_)) | (with_reducible refine KeepsR.bind ?_ (fun p hp => ?_))
    | (with_reducible refine KeepsR.bindV (fun a => ?_)) | split | (with_reducible refine KeepsR.of ?_ (by assumption))
    | (with_reducible refine Keeps.mkBoot ?_ rfl rfl rfl rfl)

theorem kpFinish_keeps {s0 : State} (s : State) (c : Cmd) (hk : Keeps s0 s) : KeepsR s0 (kpFinish s c) := by
  unfold kpFinish
  iterate 24 try any_goals
    first
    | with_reducible assumption | with_reducible exact KeepsR.error | with_reducible apply KeepsR.ok
    | (with_reducible refine KeepsR.map ?_ (fun p hp => ?_)) | (with_reducible refine KeepsR.bind ?_ (fun p hp => ?_))
    | (with_reducible refine KeepsR.bindV (fun a => ?_)) | split | (with_reducible refine KeepsR.of ?_ (by assumption))
    | (with_reducible refine Keeps.mkBoot ?_ rfl rfl rfl rfl)

theorem walkerBlame_keeps {s0 : State} (s : State) (c : Cmd) (st : Status) (hk : Keeps s0 s) : Keeps s0 (walkerBlame s c st) := by
  unfold walkerBlame
  iterate 24 try any_goals
    first
    | with_reducible assumption | with_reducible apply State.noteStop_keeps | split

theorem kvPoolOp_keeps  : OpKeeps (kvPoolOp ) := by
  refine ⟨fun s0 s c k hk => ?_, fun s0 s c hk => ?_, fun s0 s c st hk => ?_, fun s0 s c st hk => ?_⟩ <;> dsimp only [kvPoolOp]
  all_goals (iterate 8 try any_goals (first | with_reducible assumption | with_reducible exact KeepsR.error | with_reducible apply KeepsR.ok | with_reducible apply State.blameAt_keeps | with_reducible apply kpUnit_keeps | with_reducible apply kpFinish_keeps | split))

theorem appUnit_keeps {s0 : State} (s : State) (c : Cmd) (k : Nat) (hk : Keeps s0 s) : KeepsR s0 (appUnit s c k) := by
  unfold appUnit
  dsimp only
  iterate 24 try any_goals
    first
    | with_reducible assumption | with_reducible exact KeepsR.error | with_reducible apply KeepsR.ok | with_reducible apply commitWrites_keeps
    | with_reducible apply Op.stop_keeps | with_reducible apply State.putPool_keeps | with_reducible apply State.touchPool_keeps
    | (with_reducible refine KeepsR.map ?_ (fun p hp => ?_)) | (with_reducible refine KeepsR.bind ?_ (fun p hp => ?_))
    | (with_reducible refine KeepsR.bindV (fun a => ?_)) | (with_reducible apply Keeps.foldl; intro _ _ _; try dsimp only) | split
    | (with_reducible refine KeepsR.of ?_ (by assumption)) | (with_reducible refine Keeps.mkBoot ?_ rfl rfl rfl rfl)

theorem appFinish_keeps {s0 : State} (s : State) (c : Cmd) (hk : Keeps s0 s) : KeepsR s0 (appFinish s c) := by
  unfold appFinish
  dsimp only
  iterate 24 try any_goals
    first
    | with_reducible assumption | with_reducible exact KeepsR.error | with_reducible apply KeepsR.ok | with_reducible apply writeReport_keeps
    | (with_reducible refine KeepsR.map ?_ (fun p hp => ?_)) | (with_reducible refine KeepsR.bind ?_ (fun p hp => ?_))
    | (with_reducible refine KeepsR.bindV (fun a => ?_)) | split | (with_reducible refine KeepsR.of ?_ (by assumption))
    | (with_reducible refine Keeps.mkBoot ?_ rfl rfl rfl rfl)

theorem appLeave_keeps {s0 : State} (s : State) (c : Cmd) (st : Status) (hk : Keeps s0 s) : Keeps s0 (appLeave s c st).1 := by
  unfold appLeave
  iterate 24 try any_goals
    first
    | with_reducible assumption | with_reducible apply leaveReport_keeps | with_reducible apply openRest_keeps | split

theorem kvAppendOp_keeps  : OpKeeps (kvAppendOp ) := by
  refine ⟨fun s0 s c k hk => ?_, fun s0 s c hk => ?_, fun s0 s c st hk => ?_, fun s0 s c st hk => ?_⟩ <;> dsimp only [kvAppendOp]
  all_goals (iterate 8 try any_goals (first | with_reducible assumption | with_reducible exact KeepsR.error | with_reducible apply KeepsR.ok | with_reducible apply State.blameAt_keeps | with_reducible apply walkerBlame_keeps | with_reducible apply appUnit_keeps | with_reducible apply appFinish_keeps | with_reducible apply appLeave_keeps | split))

theorem truncUnit_keeps {s0 : State} (s : State) (c : Cmd) (k1 : Nat) (hk : Keeps s0 s) : KeepsR s0 (truncUnit s c k1) := by
  unfold truncUnit
  dsimp only
  iterate 24 try any_goals
    first
    | with_reducible assumption | with_reducible exact KeepsR.error | with_reducible apply KeepsR.ok | with_reducible apply commitWrites_keeps
    | with_reducible apply State.putPool_keeps | with_reducible apply State.touchPool_keeps | with_reducible apply State.releasePages_keeps
    | (with_reducible refine KeepsR.map ?_ (fun p hp => ?_)) | (with_reducible refine KeepsR.bind ?_ (fun p hp => ?_))
    | (with_reducible refine KeepsR.bindV (fun a => ?_)) | (with_reducible apply Keeps.foldl; intro _ _ _; try dsimp only) | split
    | (with_reducible refine KeepsR.of ?_ (by assumption)) | (with_reducible refine Keeps.mkBoot ?_ rfl rfl rfl rfl)

theorem truncLeave_keeps {s0 : State} (s : State) (c : Cmd) (st : Status) (hk : Keeps s0 s) : Keeps s0 (truncLeave s c st).1 := by
  unfold truncLeave
  try dsimp only
  iterate 24 try any_goals
    first
    | with_reducible assumption | with_reducible exact KeepsR.error | with_reducible apply KeepsR.ok | with_reducible apply openRest_keeps
    | (with_reducible apply Keeps.foldl; intro _ _ _; try dsimp only) | split | (with_reducible refine KeepsR.of ?_ (by assumption)) | dsimp only
    | intro _ _ | (with_reducible refine Keeps.mkBoot ?_ rfl rfl rfl rfl)

theorem kvTruncateOp_keeps  : OpKeeps (kvTruncateOp ) := by
  refine ⟨fun s0 s c k hk => ?_, fun s0 s c hk => ?_, fun s0 s c st hk => ?_, fun s0 s c st hk => ?_⟩ <;> dsimp only [kvTruncateOp]
  all_goals (iterate 8 try any_goals (first | with_reducible assumption | with_reducible exact KeepsR.error | with_reducible apply KeepsR.ok | with_reducible apply State.blameAt_keeps | with_reducible apply finishOk_keeps | with_reducible apply walkerBlame_keeps | with_reducible apply truncUnit_keeps | with_reducible apply truncLeave_keeps | split))

theorem sortUnit_keeps {s0 : State} (s : State) (c : Cmd) (k1 : Nat) (hk : Keeps s0 s) : KeepsR s0 (sortUnit s c k1) := by
  unfold sortUnit
  dsimp only
  iterate 24 try any_goals
    first
    | with_reducible assumption | with_reducible exact KeepsR.error | with_reducible apply KeepsR.ok | with_reducible apply commitWrites_keeps
    | (with_reducible refine KeepsR.map ?_ (fun p hp => ?_)) | (with_reducible refine KeepsR.bind ?_ (fun p hp => ?_))
    | (with_reducible refine KeepsR.bindV (fun a => ?_)) | split | (with_reducible refine KeepsR.of ?_ (by assumption))

theorem bucketSortOp_keeps  : OpKeeps (bucketSortOp ) := by
  refine ⟨fun s0 s c k hk => ?_, fun s0 s c hk => ?_, fun s0 s c st hk => ?_, fun s0 s c st hk => ?_⟩ <;> dsimp only [bucketSortOp]
  all_goals (iterate 8 try any_goals (first | with_reducible assumption | with_reducible exact KeepsR.error | with_reducible apply KeepsR.ok | with_reducible apply State.blameAt_keeps | with_reducible apply kpFinish_keeps | with_reducible apply walkerBlame_keeps | with_reducible apply sortUnit_keeps | split))

end Sys2Proof.Machine
end

