-- ==== Sys2Proof/Laws/KeepMatrix.lean ====
section
/-! SUPPORT. What the functions of Machine/Matrix.lean keep: waiting commands, part, fuses and the canonical form of memory. -/

namespace Sys2Proof.Machine

theorem commitTiles_keeps {s0 : State} (s : State) (c : Cmd) (g : Mat) (ts : List TileDone) (hk : Keeps s0 s) : KeepsR s0 (commitTiles s c g ts) := by
  unfold commitTiles
  split
  · exact KeepsR.error
  · next t d e =>
    refine KeepsR.ok ?_
    cases h : s.heldReadable c with
    | error st => rw [h] at e; cases e
    | ok u =>
      simp only [h, Except.bind] at e
      split at e
      · exact (commitGranules_keeps _ _ _ hk).of e
      · exact (commitWrites_keeps _ _ _ hk).of e

theorem matUnit_keeps {s0 : State} (s : State) (c : Cmd) (k : Nat) (hk : Keeps s0 s) : KeepsR s0 (matUnit s c k) := by
  unfold matUnit
  try dsimp only
  iterate 24 try any_goals
    first
    | with_reducible assumption | with_reducible exact KeepsR.error | with_reducible apply KeepsR.ok | with_reducible apply commitTiles_keeps
    | (with_reducible refine KeepsR.map ?_ (fun p hp => ?_)) | (with_reducible refine KeepsR.bind ?_ (fun p hp => ?_))
    | (with_reducible refine KeepsR.bindV (fun a => ?_)) | (with_reducible apply Keeps.foldl; intro _ _ _; try dsimp only) | split
    | (with_reducible refine KeepsR.of ?_ (by assumption)) | dsimp only | intro _ _ | (with_reducible refine Keeps.mkBoot ?_ rfl rfl rfl rfl)

theorem writeMatReport_keeps {s0 : State} (s : State) (c : Cmd) (g : Mat) (hk : Keeps s0 s) : KeepsR s0 (writeMatReport s c g) := by
  unfold writeMatReport
  iterate 24 try any_goals
    first
    | with_reducible assumption | with_reducible exact KeepsR.error | with_reducible apply KeepsR.ok | with_reducible apply State.openRange_keeps
    | with_reducible apply writeReport_keeps | (with_reducible refine KeepsR.map ?_ (fun p hp => ?_))
    | (with_reducible refine KeepsR.bind ?_ (fun p hp => ?_)) | (with_reducible refine KeepsR.bindV (fun a => ?_)) | split
    | (with_reducible refine KeepsR.of ?_ (by assumption))

theorem matLeave_keeps {s0 : State} (s : State) (c : Cmd) (st : Status) (hk : Keeps s0 s) : Keeps s0 (matLeave s c st).1 := by
  unfold matLeave
  iterate 24 try any_goals
    first
    | with_reducible assumption | with_reducible apply writeMatReport_keeps | split | (with_reducible refine KeepsR.of ?_ (by assumption))
    | (with_reducible refine Keeps.mkBoot ?_ rfl rfl rfl rfl)

theorem matFinish_keeps {s0 : State} (s : State) (c : Cmd) (hk : Keeps s0 s) : KeepsR s0 (matFinish s c) := by
  unfold matFinish
  split
  · exact KeepsR.error
  · dsimp only
    refine KeepsR.map ?_ (fun p hp => hp)
    split
    · split
      · next k _ _ =>
        cases h : s.codeEntry k with
        | error st => exact KeepsR.error
        | ok t => exact writeMatReport_keeps _ _ _ (State.codeEntry_keeps hk h)
      · exact writeMatReport_keeps _ _ _ hk
    · exact writeMatReport_keeps _ _ _ hk

theorem matrixOp_keeps  : OpKeeps (matrixOp ) := by
  refine ⟨fun s0 s c k hk => ?_, fun s0 s c hk => ?_, fun s0 s c st hk => ?_, fun s0 s c st hk => ?_⟩ <;> dsimp only [matrixOp]
  all_goals (iterate 8 try any_goals (first | with_reducible assumption | with_reducible exact KeepsR.error | with_reducible apply KeepsR.ok | with_reducible apply State.blameAt_keeps | with_reducible apply matUnit_keeps | with_reducible apply matLeave_keeps | with_reducible apply matFinish_keeps | split))

theorem matStart_keeps {s0 : State} (s : State) (c : Cmd) (hk : Keeps s0 s) : StartKeeps s0 (matStart s c) := by
  unfold matStart
  iterate 24 try any_goals
    first
    | with_reducible assumption | with_reducible apply stackReserve_keeps | with_reducible apply stackClaim_keeps | with_reducible apply StartKeeps.go
    | with_reducible exact StartKeeps.wait | with_reducible apply StartKeeps.stop | split | (with_reducible refine Keeps.mkBoot ?_ rfl rfl rfl rfl)

theorem State.putRun_keeps {s0 : State} (s : State) (r x : Nat) (u : ArrayUnit) (hk : Keeps s0 s) : Keeps s0 (State.putRun s r x u) := by
  unfold State.putRun
  iterate 24 try any_goals
    first
    | with_reducible assumption | with_reducible apply State.putRegion_keeps | split

theorem matStop_keeps {s0 : State} (s : State) (c : Cmd) (r x : Nat) (st : Status) (hk : Keeps s0 s) : Keeps s0 (matStop s c r x st) := by
  unfold matStop
  dsimp only
  iterate 24 try any_goals
    first
    | with_reducible assumption | with_reducible apply State.putCmd_keeps | with_reducible apply State.quits_keeps | with_reducible apply State.blameAt_keeps
    | with_reducible apply Op.quit_keeps | with_reducible apply matrixOp_keeps | split

theorem tileDone_keeps {s0 : State} (s : State) (c : Cmd) (g : Mat) (r x : Nat) (u : ArrayUnit) (w : ArrayRun) (t : TileDone) (hk : Keeps s0 s) : Keeps s0 (tileDone s c g r x u w t) := by
  unfold tileDone
  dsimp only
  iterate 24 try any_goals
    first
    | with_reducible assumption | with_reducible apply State.count_keeps | with_reducible apply State.putCmd_keeps | with_reducible apply State.quits_keeps
    | with_reducible apply Op.close_keeps | with_reducible apply commitTiles_keeps | with_reducible apply matrixOp_keeps
    | with_reducible apply State.putRun_keeps | with_reducible apply matStop_keeps | split | (with_reducible refine KeepsR.of ?_ (by assumption))
    | (with_reducible refine Keeps.mkBoot ?_ rfl rfl rfl rfl)

theorem passWhole_keeps {s0 : State} (s : State) (c : Cmd) (g : Mat) (r x : Nat) (u : ArrayUnit) (w : ArrayRun) (hk : Keeps s0 s) : Keeps s0 (passWhole s c g r x u w) := by
  unfold passWhole
  dsimp only
  iterate 24 try any_goals
    first
    | with_reducible assumption | with_reducible apply State.count_keeps | with_reducible apply State.putRun_keeps
    | with_reducible apply matStop_keeps | with_reducible apply tileDone_keeps | split | (with_reducible refine KeepsR.of ?_ (by assumption))
    | (with_reducible refine Keeps.mkBoot ?_ rfl rfl rfl rfl)

theorem passOn_keeps {s0 : State} (s : State) (c : Cmd) (g : Mat) (r x : Nat) (u : ArrayUnit) (w : ArrayRun) (hk : Keeps s0 s) : Keeps s0 (passOn s c g r x u w) := by
  unfold passOn
  dsimp only
  iterate 24 try any_goals
    first
    | with_reducible assumption | with_reducible apply State.count_keeps | with_reducible apply State.putRun_keeps
    | with_reducible apply passWhole_keeps | split | (with_reducible refine Keeps.mkBoot ?_ rfl rfl rfl rfl)

theorem residueRetry_keeps {s0 : State} (s : State) (r x col : Nat) (u : ArrayUnit) (w : ArrayRun) (hk : Keeps s0 s) : Keeps s0 (residueRetry s r x col u w) := by
  unfold residueRetry
  iterate 24 try any_goals
    first
    | with_reducible assumption | with_reducible apply State.count_keeps | with_reducible apply State.record_keeps
    | with_reducible apply State.fenceColumn_keeps | with_reducible apply State.putRun_keeps | split
    | (with_reducible refine Keeps.mkBoot ?_ rfl rfl rfl rfl)

theorem pausePass_keeps {s0 : State} (s : State) (g : Mat) (r x : Nat) (u : ArrayUnit) (w : ArrayRun) (hk : Keeps s0 s) : Keeps s0 (pausePass s g r x u w) := by
  unfold pausePass
  iterate 24 try any_goals
    first
    | with_reducible assumption | with_reducible apply State.count_keeps | with_reducible apply State.putRun_keeps | split
    | (with_reducible refine Keeps.mkBoot ?_ rfl rfl rfl rfl)

theorem stopPass_keeps {s0 : State} (s : State) (c : Cmd) (r x : Nat) (u : ArrayUnit) (hk : Keeps s0 s) : Keeps s0 (stopPass s c r x u) := by
  unfold stopPass
  iterate 24 try any_goals
    first
    | with_reducible assumption | with_reducible apply State.putCmd_keeps | with_reducible apply State.quits_keeps | with_reducible apply State.putRun_keeps | split
    | (with_reducible refine Keeps.mkBoot ?_ rfl rfl rfl rfl)

theorem boundaryRun_keeps {s0 : State} (s : State) (c : Cmd) (g : Mat) (r x : Nat) (u : ArrayUnit) (w : ArrayRun) (b : Boundary) (hk : Keeps s0 s) : Keeps s0 (boundaryRun s c g r x u w b) := by
  unfold boundaryRun
  dsimp only
  iterate 24 try any_goals
    first
    | with_reducible assumption | with_reducible apply passOn_keeps | with_reducible apply residueRetry_keeps | with_reducible apply pausePass_keeps
    | with_reducible apply stopPass_keeps | split | (with_reducible refine Keeps.mkBoot ?_ rfl rfl rfl rfl)

theorem arrayPass_keeps {s0 : State} (region array q n : Nat) (b : Boundary) (s : State) (hk : Keeps s0 s) : Keeps s0 (arrayPass region array q n b s) := by
  unfold arrayPass
  dsimp only
  split
  · exact hk
  · split
    · exact hk
    · split
      · exact hk
      · split
        · exact matStop_keeps _ _ _ _ _ (State.modPage_keeps _ _ _ hk)
        · split
          · exact matStop_keeps _ _ _ _ _ hk
          · split
            · split
              · exact boundaryRun_keeps _ _ _ _ _ _ _ _ (State.putCmd_keeps _ _ hk)
              · exact State.putCmd_keeps _ _ hk
            · split
              · next e => exact boundaryRun_keeps _ _ _ _ _ _ _ _ (State.putCmd_keeps _ _ (State.joinRegion_keeps (State.putCmd_keeps _ _ hk) e))
              · exact State.putCmd_keeps _ _ hk

end Sys2Proof.Machine
end

