-- ==== Sys2Proof/Laws/KeepVector.lean ====
section
/-! SUPPORT. What the functions of Machine/Vector.lean keep: waiting commands, part, fuses and the canonical form of memory. -/

namespace Sys2Proof.Machine

theorem ewUnit_keeps {s0 : State} (s : State) (c : Cmd) (k : Nat) (hk : Keeps s0 s) : KeepsR s0 (ewUnit s c k) := by
  unfold ewUnit
  dsimp only
  iterate 24 try any_goals
    first
    | with_reducible assumption | with_reducible exact KeepsR.error | with_reducible apply KeepsR.ok | with_reducible apply State.count_keeps
    | with_reducible apply commitWrites_keeps | (with_reducible refine KeepsR.map ?_ (fun p hp => ?_))
    | (with_reducible refine KeepsR.bind ?_ (fun p hp => ?_)) | (with_reducible refine KeepsR.bindV (fun a => ?_))
    | (with_reducible apply Keeps.foldl; intro _ _ _; try dsimp only) | split | (with_reducible refine KeepsR.of ?_ (by assumption))

theorem redUnit_keeps {s0 : State} (s : State) (c : Cmd) (k : Nat) (hk : Keeps s0 s) : KeepsR s0 (redUnit s c k) := by
  unfold redUnit
  dsimp only
  iterate 24 try any_goals
    first
    | with_reducible assumption | with_reducible exact KeepsR.error | with_reducible apply KeepsR.ok | with_reducible apply commitWrites_keeps
    | (with_reducible refine KeepsR.map ?_ (fun p hp => ?_)) | (with_reducible refine KeepsR.bind ?_ (fun p hp => ?_))
    | (with_reducible refine KeepsR.bindV (fun a => ?_)) | (with_reducible apply Keeps.foldl; intro _ _ _; try dsimp only) | split
    | (with_reducible refine KeepsR.of ?_ (by assumption))

theorem softOne_keeps {s0 : State} (s : State) (c : Cmd) (row : Nat) (hk : Keeps s0 s) : KeepsR s0 (softOne s c row) := by
  unfold softOne
  dsimp only
  iterate 24 try any_goals
    first
    | with_reducible assumption | with_reducible exact KeepsR.error | with_reducible apply KeepsR.ok | with_reducible apply commitWrites_keeps
    | (with_reducible refine KeepsR.map ?_ (fun p hp => ?_)) | (with_reducible refine KeepsR.bind ?_ (fun p hp => ?_))
    | (with_reducible refine KeepsR.bindV (fun a => ?_)) | split | (with_reducible refine KeepsR.of ?_ (by assumption))

theorem softBwdOne_keeps {s0 : State} (s : State) (c : Cmd) (row : Nat) (hk : Keeps s0 s) : KeepsR s0 (softBwdOne s c row) := by
  unfold softBwdOne
  dsimp only
  iterate 24 try any_goals
    first
    | with_reducible assumption | with_reducible exact KeepsR.error | with_reducible apply KeepsR.ok | with_reducible apply commitWrites_keeps
    | (with_reducible refine KeepsR.map ?_ (fun p hp => ?_)) | (with_reducible refine KeepsR.bind ?_ (fun p hp => ?_))
    | (with_reducible refine KeepsR.bindV (fun a => ?_)) | split | (with_reducible refine KeepsR.of ?_ (by assumption))

theorem rowsFrom_keeps {s0 : State} {f : State → Cmd → Nat → Except Status (State × Cmd)} (hf : ∀ s c k, Keeps s0 s → KeepsR s0 (f s c k))
    (a n : Nat) (s : State) (c : Cmd) (hk : Keeps s0 s) : KeepsR s0 (rowsFrom f a n s c) := by
  induction n with
  | zero => exact KeepsR.ok hk
  | succ n ih => exact KeepsR.bind ih (fun p hp => hf _ _ _ hp)

theorem softUnit_keeps {s0 : State} (s : State) (c : Cmd) (k : Nat) (hk : Keeps s0 s) : KeepsR s0 (softUnit s c k) :=
  rowsFrom_keeps (fun s c k h => softOne_keeps s c k h) _ _ s c hk

theorem softBwdUnit_keeps {s0 : State} (s : State) (c : Cmd) (k : Nat) (hk : Keeps s0 s) : KeepsR s0 (softBwdUnit s c k) :=
  rowsFrom_keeps (fun s c k h => softBwdOne_keeps s c k h) _ _ s c hk

theorem runsFrom_keeps {s0 : State} {f : State → Cmd → Nat → Nat → Except Status (State × Cmd)} (hf : ∀ s c a b, Keeps s0 s → KeepsR s0 (f s c a b))
    (l : List (Nat × Nat)) (s : State) (c : Cmd) (hk : Keeps s0 s) : KeepsR s0 (runsFrom f l s c) := by
  induction l generalizing s c with
  | nil => exact KeepsR.ok hk
  | cons r rs ih => exact KeepsR.bind (hf _ _ _ _ hk) (fun x hx => ih x.1 x.2 hx)

theorem compactRun_keeps {s0 : State} (s : State) (c : Cmd) (first n : Nat) (hk : Keeps s0 s) : KeepsR s0 (compactRun s c first n) := by
  unfold compactRun
  dsimp only
  iterate 24 try any_goals
    first
    | with_reducible assumption | with_reducible exact KeepsR.error | with_reducible apply KeepsR.ok | with_reducible apply commitWrites_keeps
    | (with_reducible refine KeepsR.map ?_ (fun p hp => ?_)) | (with_reducible refine KeepsR.bind ?_ (fun p hp => ?_))
    | (with_reducible refine KeepsR.bindV (fun a => ?_)) | split | (with_reducible refine KeepsR.of ?_ (by assumption))
    | (with_reducible refine Keeps.mkBoot ?_ rfl rfl rfl rfl)

theorem compactUnit_keeps {s0 : State} (s : State) (c : Cmd) (k : Nat) (hk : Keeps s0 s) : KeepsR s0 (compactUnit s c k) :=
  runsFrom_keeps (fun s c a b h => compactRun_keeps s c a b h) _ s c hk

theorem expandRun_keeps {s0 : State} (s : State) (c : Cmd) (first n : Nat) (hk : Keeps s0 s) : KeepsR s0 (expandRun s c first n) := by
  unfold expandRun
  dsimp only
  iterate 24 try any_goals
    first
    | with_reducible assumption | with_reducible exact KeepsR.error | with_reducible apply KeepsR.ok | with_reducible apply State.count_keeps
    | with_reducible apply commitWrites_keeps | (with_reducible refine KeepsR.map ?_ (fun p hp => ?_))
    | (with_reducible refine KeepsR.bind ?_ (fun p hp => ?_)) | (with_reducible refine KeepsR.bindV (fun a => ?_)) | split
    | (with_reducible refine KeepsR.of ?_ (by assumption)) | (with_reducible refine Keeps.mkBoot ?_ rfl rfl rfl rfl)

theorem expandUnit_keeps {s0 : State} (s : State) (c : Cmd) (k : Nat) (hk : Keeps s0 s) : KeepsR s0 (expandUnit s c k) :=
  runsFrom_keeps (fun s c a b h => expandRun_keeps s c a b h) _ s c hk

theorem vFinish_keeps {s0 : State} (s : State) (c : Cmd) (hk : Keeps s0 s) : KeepsR s0 (vFinish s c) := by
  unfold vFinish
  dsimp only
  iterate 24 try any_goals
    first
    | with_reducible assumption | with_reducible exact KeepsR.error | with_reducible apply KeepsR.ok | with_reducible apply writeReport_keeps
    | (with_reducible refine KeepsR.map ?_ (fun p hp => ?_)) | (with_reducible refine KeepsR.bind ?_ (fun p hp => ?_))
    | (with_reducible refine KeepsR.bindV (fun a => ?_)) | split | (with_reducible refine KeepsR.of ?_ (by assumption))
    | (with_reducible refine Keeps.mkBoot ?_ rfl rfl rfl rfl)

theorem vUnit_keeps {s0 : State} (s : State) (c : Cmd) (k : Nat) (hk : Keeps s0 s) : KeepsR s0 (vUnit s c k) := by
  unfold vUnit
  iterate 24 try any_goals
    first
    | with_reducible assumption | with_reducible exact KeepsR.error | with_reducible apply KeepsR.ok | with_reducible apply ewUnit_keeps
    | with_reducible apply redUnit_keeps | with_reducible apply softUnit_keeps | with_reducible apply softBwdUnit_keeps
    | with_reducible apply compactUnit_keeps | with_reducible apply expandUnit_keeps | (with_reducible refine KeepsR.map ?_ (fun p hp => ?_))
    | (with_reducible refine KeepsR.bind ?_ (fun p hp => ?_)) | (with_reducible refine KeepsR.bindV (fun a => ?_)) | split
    | (with_reducible refine KeepsR.of ?_ (by assumption)) | (with_reducible refine Keeps.mkBoot ?_ rfl rfl rfl rfl)

theorem vectorOp_keeps  : OpKeeps (vectorOp ) := by
  refine ⟨fun s0 s c k hk => ?_, fun s0 s c hk => ?_, fun s0 s c st hk => ?_, fun s0 s c st hk => ?_⟩ <;> dsimp only [vectorOp]
  all_goals (iterate 8 try any_goals (first | with_reducible assumption | with_reducible exact KeepsR.error | with_reducible apply KeepsR.ok | with_reducible apply State.blameAt_keeps | with_reducible apply leaveReport_keeps | with_reducible apply vFinish_keeps | with_reducible apply vUnit_keeps | split))

end Sys2Proof.Machine
end

