-- ==== Sys2Proof/Laws/KeepAttn.lean ====
section
/-! SUPPORT. What the functions of Machine/Attn.lean keep: waiting commands, part, fuses and the canonical form of memory. -/

namespace Sys2Proof.Machine

theorem walkCommit_keeps {s0 : State} (s : State) (c : Cmd) (a : Att) (k : Keys) (u : AUnit) (bs : List Nat) (w : Walk) (hk : Keeps s0 s) : KeepsR s0 (walkCommit s c a k u bs w) := by
  unfold walkCommit
  dsimp only
  iterate 24 try any_goals
    first
    | with_reducible assumption | with_reducible exact KeepsR.error | with_reducible apply KeepsR.ok | with_reducible apply commitWrites_keeps
    | with_reducible apply commitGranules_keeps | (with_reducible refine KeepsR.map ?_ (fun p hp => ?_))
    | (with_reducible refine KeepsR.bind ?_ (fun p hp => ?_)) | (with_reducible refine KeepsR.bindV (fun a => ?_)) | split
    | (with_reducible refine KeepsR.of ?_ (by assumption))

theorem attWalk_keeps {s0 : State} (s : State) (c : Cmd) (a : Att) (ring : List (List Bytes)) (u : AUnit) (unit : Nat) (hk : Keeps s0 s) : KeepsR s0 (attWalk s c a ring u unit) := by
  unfold attWalk
  dsimp only
  iterate 24 try any_goals
    first
    | with_reducible assumption | with_reducible exact KeepsR.error | with_reducible apply KeepsR.ok | with_reducible apply walkCommit_keeps
    | (with_reducible refine KeepsR.map ?_ (fun p hp => ?_)) | (with_reducible refine KeepsR.bind ?_ (fun p hp => ?_))
    | (with_reducible refine KeepsR.bindV (fun a => ?_)) | (with_reducible apply Keeps.foldl; intro _ _ _; try dsimp only) | split
    | (with_reducible refine KeepsR.of ?_ (by assumption))

theorem attUnit_keeps {s0 : State} (ring : List (List Bytes)) (s : State) (c : Cmd) (n : Nat) (hk : Keeps s0 s) : KeepsR s0 (attUnit ring s c n) := by
  unfold attUnit
  iterate 24 try any_goals
    first
    | with_reducible assumption | with_reducible exact KeepsR.error | with_reducible apply KeepsR.ok | with_reducible apply attWalk_keeps
    | (with_reducible refine KeepsR.map ?_ (fun p hp => ?_)) | (with_reducible refine KeepsR.bind ?_ (fun p hp => ?_))
    | (with_reducible refine KeepsR.bindV (fun a => ?_)) | split | (with_reducible refine KeepsR.of ?_ (by assumption))
    | (with_reducible refine Keeps.mkBoot ?_ rfl rfl rfl rfl)

theorem ringSend_keeps {s0 : State} (s : State) (c : Cmd) (a : Att) (ring : List (List Bytes)) (hk : Keeps s0 s) : Keeps s0 (ringSend s c a ring) := by
  unfold ringSend
  dsimp only
  iterate 24 try any_goals
    first
    | with_reducible assumption | with_reducible apply State.sendPeer_keeps | with_reducible apply State.openRange_keeps
    | (with_reducible apply Keeps.foldl; intro _ _ _; try dsimp only) | split | (with_reducible refine Keeps.mkBoot ?_ rfl rfl rfl rfl)

theorem attFinish_keeps {s0 : State} (ring : List (List Bytes)) (s : State) (c : Cmd) (hk : Keeps s0 s) : KeepsR s0 (attFinish ring s c) := by
  unfold attFinish
  iterate 24 try any_goals
    first
    | with_reducible assumption | with_reducible exact KeepsR.error | with_reducible apply KeepsR.ok | with_reducible apply endWith_keeps
    | with_reducible apply writeReport_keeps | with_reducible apply walkerBlame_keeps | with_reducible apply ringSend_keeps
    | (with_reducible refine KeepsR.map ?_ (fun p hp => ?_)) | (with_reducible refine KeepsR.bind ?_ (fun p hp => ?_))
    | (with_reducible refine KeepsR.bindV (fun a => ?_)) | split | (with_reducible refine KeepsR.of ?_ (by assumption))
    | (with_reducible refine Keeps.mkBoot ?_ rfl rfl rfl rfl)

theorem attnOp_keeps (ring : List (List Bytes)) : OpKeeps (attnOp ring) := by
  refine ⟨fun s0 s c k hk => ?_, fun s0 s c hk => ?_, fun s0 s c st hk => ?_, fun s0 s c st hk => ?_⟩ <;> dsimp only [attnOp]
  all_goals (iterate 8 try any_goals (first | with_reducible assumption | with_reducible exact KeepsR.error | with_reducible apply KeepsR.ok | with_reducible apply State.blameAt_keeps | with_reducible apply leaveReport_keeps | with_reducible apply walkerBlame_keeps | with_reducible apply attUnit_keeps | with_reducible apply attFinish_keeps | split))

theorem takeNumber_keeps {s0 : State} (s : State) (c : Cmd) (g : Nat) (hk : Keeps s0 s) : Keeps s0 (takeNumber s c g).1 := by
  unfold takeNumber
  dsimp only
  iterate 24 try any_goals
    first
    | with_reducible assumption | split | (with_reducible refine Keeps.mkBoot ?_ rfl rfl rfl rfl)

theorem numberDone_keeps {s0 : State} (s : State) (n g : Nat) (hk : Keeps s0 s) : Keeps s0 (numberDone s n g) := by
  unfold numberDone
  dsimp only
  iterate 24 try any_goals
    first
    | with_reducible assumption | split | (with_reducible refine Keeps.mkBoot ?_ rfl rfl rfl rfl)

theorem attStart_keeps {s0 : State} (s : State) (c : Cmd) (hk : Keeps s0 s) : StartKeeps s0 (attStart s c) := by
  unfold attStart
  iterate 24 try any_goals
    first
    | with_reducible assumption | with_reducible apply latchStart_keeps | with_reducible apply takeNumber_keeps | with_reducible apply StartKeeps.go
    | with_reducible exact StartKeeps.wait | with_reducible apply StartKeeps.stop | split | (with_reducible refine Keeps.mkBoot ?_ rfl rfl rfl rfl)

theorem State.putWalk_keeps {s0 : State} (s : State) (r : Nat) (w : Option Walk) (hk : Keeps s0 s) : Keeps s0 (State.putWalk s r w) := by
  unfold State.putWalk
  iterate 24 try any_goals
    first
    | with_reducible assumption | with_reducible apply State.putRegion_keeps | split | (with_reducible refine Keeps.mkBoot ?_ rfl rfl rfl rfl)

theorem walkBoundary_keeps {s0 : State} (s : State) (r : Nat) (c : Cmd) (w : Walk) (b : Boundary) (hk : Keeps s0 s) : Keeps s0 (walkBoundary s r c w b) := by
  unfold walkBoundary
  iterate 24 try any_goals
    first
    | with_reducible assumption | with_reducible apply State.putCmd_keeps | with_reducible apply State.quits_keeps | with_reducible apply State.putWalk_keeps | split

theorem walkEnd_keeps {s0 : State} (s : State) (r : Nat) (c : Cmd) (a : Att) (k : Keys) (u : AUnit) (w : Walk) (b : Boundary) (hk : Keeps s0 s) : Keeps s0 (walkEnd s r c a k u w b) := by
  unfold walkEnd
  dsimp only
  iterate 24 try any_goals
    first
    | with_reducible assumption | with_reducible apply State.count_keeps | with_reducible apply State.putCmd_keeps | with_reducible apply State.quits_keeps
    | with_reducible apply Op.stopIn_keeps | with_reducible apply Op.close_keeps | with_reducible apply walkCommit_keeps
    | with_reducible apply attnOp_keeps | with_reducible apply State.putWalk_keeps | split | (with_reducible refine KeepsR.of ?_ (by assumption))
    | (with_reducible refine Keeps.mkBoot ?_ rfl rfl rfl rfl)

theorem walkOn_keeps {s0 : State} (s : State) (r src : Nat) (c : Cmd) (a : Att) (u : AUnit) (w : Walk) (b : Boundary) (hk : Keeps s0 s) : Keeps s0 (walkOn s r src c a u w b) := by
  unfold walkOn
  dsimp only
  iterate 24 try any_goals
    first
    | with_reducible assumption | with_reducible apply State.count_keeps | with_reducible apply State.putCmd_keeps | with_reducible apply State.quits_keeps
    | with_reducible apply Op.stopIn_keeps | with_reducible apply Op.close_keeps | with_reducible apply attnOp_keeps
    | with_reducible apply State.putWalk_keeps | with_reducible apply walkBoundary_keeps | with_reducible apply walkEnd_keeps | split
    | (with_reducible refine KeepsR.of ?_ (by assumption)) | (with_reducible refine Keeps.mkBoot ?_ rfl rfl rfl rfl)

theorem walkStep_keeps {s0 : State} (s : State) (r src : Nat) (c : Cmd) (a : Att) (b : Boundary) (hk : Keeps s0 s) : Keeps s0 (walkStep s r src c a b) := by
  unfold walkStep
  iterate 24 try any_goals
    first
    | with_reducible assumption | with_reducible apply Op.stopIn_keeps | with_reducible apply attnOp_keeps | with_reducible apply walkOn_keeps | split
    | (with_reducible refine KeepsR.of ?_ (by assumption)) | (with_reducible refine Keeps.mkBoot ?_ rfl rfl rfl rfl)

theorem appendStep_keeps {s0 : State} (s : State) (r : Nat) (c : Cmd) (b : Boundary) (hk : Keeps s0 s) : Keeps s0 (appendStep s r c b) := by
  unfold appendStep
  dsimp only
  iterate 24 try any_goals
    first
    | with_reducible assumption | with_reducible apply State.putCmd_keeps | with_reducible apply State.quits_keeps | with_reducible apply Op.runOne_keeps
    | with_reducible apply kvAppendOp_keeps | split

theorem State.passWalk_keeps {s0 : State} (s : State) (r : Nat) (hk : Keeps s0 s) : Keeps s0 (State.passWalk s r) := by
  unfold State.passWalk
  iterate 24 try any_goals
    first
    | with_reducible assumption | with_reducible apply State.putRegion_keeps | split | (with_reducible refine Keeps.mkBoot ?_ rfl rfl rfl rfl)

theorem walkPause_keeps {s0 : State} (s : State) (r : Nat) (c : Cmd) (b : Boundary) (hk : Keeps s0 s) : Keeps s0 (walkPause s r c b) := by
  unfold walkPause
  dsimp only
  iterate 24 try any_goals
    first
    | with_reducible assumption | with_reducible apply State.putRegion_keeps | with_reducible apply State.putCmd_keeps | with_reducible apply State.quits_keeps | split
    | (with_reducible refine Keeps.mkBoot ?_ rfl rfl rfl rfl)

theorem walkerStep_keeps {s0 : State} (s : State) (r : Nat) (c : Cmd) (b : Boundary) (hk : Keeps s0 s) : Keeps s0 (walkerStep s r c b) := by
  unfold walkerStep
  iterate 24 try any_goals
    first
    | with_reducible assumption | with_reducible apply walkStep_keeps | with_reducible apply appendStep_keeps | split
    | (with_reducible refine Keeps.mkBoot ?_ rfl rfl rfl rfl)

theorem keyBlockEnd_keeps {s0 : State} (r q n : Nat) (b : Boundary) (s : State) (hk : Keeps s0 s) : Keeps s0 (keyBlockEnd r q n b s) := by
  unfold keyBlockEnd
  split
  · exact hk
  · split
    · exact hk
    · split
      · exact Op.stopIn_keeps (attnOp_keeps []) _ _ _ (State.modPage_keeps _ _ _ hk)
      · split
        · exact walkPause_keeps _ _ _ _ (State.passWalk_keeps _ _ hk)
        · split
          · exact hk
          · next e => exact walkerStep_keeps _ _ _ _ (State.passWalk_keeps _ _ (State.putCmd_keeps _ _ (State.joinRegion_keeps hk e)))

end Sys2Proof.Machine
end

