-- ==== Sys2Proof/Laws/KeepMirror.lean ====
section
/-! SUPPORT. What the functions of Machine/Mirror.lean keep: waiting commands, part, fuses and the canonical form of memory. -/

namespace Sys2Proof.Machine

theorem State.mirror_keeps {s0 : State} (s : State) (wait : Option MirrorWait) (kind : String) (words : List Nat) (bytes : Bytes) (hk : Keeps s0 s) : Keeps s0 (State.mirror s wait kind words bytes) := by
  unfold State.mirror
  dsimp only
  iterate 24 try any_goals
    first
    | with_reducible assumption | with_reducible apply State.sendTwin_keeps | split | (with_reducible refine Keeps.mkBoot ?_ rfl rfl rfl rfl)

end Sys2Proof.Machine
end

