-- ==== Sys2Proof/Laws/KeepCompress.lean ====
section
/-! SUPPORT. What the functions of Machine/Compress.lean keep: waiting commands, part, fuses and the canonical form of memory. -/

namespace Sys2Proof.Machine

theorem buildUnit_keeps {s0 : State} (s : State) (c : Cmd) (k1 : Nat) (hk : Keeps s0 s) : KeepsR s0 (buildUnit s c k1) := by
  unfold buildUnit
  try dsimp only
  iterate 24 try any_goals
    first
    | with_reducible assumption | with_reducible exact KeepsR.error | with_reducible apply KeepsR.ok | with_reducible apply State.count_keeps
    | with_reducible apply commitWrites_keeps | (with_reducible refine KeepsR.map ?_ (fun p hp => ?_))
    | (with_reducible refine KeepsR.bind ?_ (fun p hp => ?_)) | (with_reducible refine KeepsR.bindV (fun a => ?_))
    | (with_reducible apply Keeps.foldl; intro _ _ _; try dsimp only) | split | (with_reducible refine KeepsR.of ?_ (by assumption)) | dsimp only
    | intro _ _ | (with_reducible refine Keeps.mkBoot ?_ rfl rfl rfl rfl)

theorem buildOp_keeps  : OpKeeps (buildOp ) := by
  refine ⟨fun s0 s c k hk => ?_, fun s0 s c hk => ?_, fun s0 s c st hk => ?_, fun s0 s c st hk => ?_⟩ <;> dsimp only [buildOp]
  all_goals (iterate 8 try any_goals (first | with_reducible assumption | with_reducible exact KeepsR.error | with_reducible apply KeepsR.ok | with_reducible apply State.blameAt_keeps | with_reducible apply finishOk_keeps | with_reducible apply buildUnit_keeps | split))

theorem encUnit_keeps {s0 : State} (s : State) (c : Cmd) (k : Nat) (hk : Keeps s0 s) : KeepsR s0 (encUnit s c k) := by
  unfold encUnit
  dsimp only
  iterate 24 try any_goals
    first
    | with_reducible assumption | with_reducible exact KeepsR.error | with_reducible apply KeepsR.ok | with_reducible apply commitWrites_keeps
    | (with_reducible refine KeepsR.map ?_ (fun p hp => ?_)) | (with_reducible refine KeepsR.bind ?_ (fun p hp => ?_))
    | (with_reducible refine KeepsR.bindV (fun a => ?_)) | (with_reducible apply Keeps.foldl; intro _ _ _; try dsimp only) | split
    | (with_reducible refine KeepsR.of ?_ (by assumption)) | (with_reducible refine Keeps.mkBoot ?_ rfl rfl rfl rfl)

theorem encFinish_keeps {s0 : State} (s : State) (c : Cmd) (hk : Keeps s0 s) : KeepsR s0 (encFinish s c) := by
  unfold encFinish
  dsimp only
  iterate 24 try any_goals
    first
    | with_reducible assumption | with_reducible exact KeepsR.error | with_reducible apply KeepsR.ok | with_reducible apply commitWrites_keeps
    | with_reducible apply writeReport_keeps | (with_reducible refine KeepsR.map ?_ (fun p hp => ?_))
    | (with_reducible refine KeepsR.bind ?_ (fun p hp => ?_)) | (with_reducible refine KeepsR.bindV (fun a => ?_)) | split
    | (with_reducible refine KeepsR.of ?_ (by assumption)) | (with_reducible refine Keeps.mkBoot ?_ rfl rfl rfl rfl)

theorem encodeOp_keeps  : OpKeeps (encodeOp ) := by
  refine ⟨fun s0 s c k hk => ?_, fun s0 s c hk => ?_, fun s0 s c st hk => ?_, fun s0 s c st hk => ?_⟩ <;> dsimp only [encodeOp]
  all_goals (iterate 8 try any_goals (first | with_reducible assumption | with_reducible exact KeepsR.error | with_reducible apply KeepsR.ok | with_reducible apply State.blameAt_keeps | with_reducible apply leaveReport_keeps | with_reducible apply encUnit_keeps | with_reducible apply encFinish_keeps | split))

theorem State.countExpanded_keeps {s0 : State} (s : State) (page : Nat) (e : Expanded) (hk : Keeps s0 s) : Keeps s0 (State.countExpanded s page e) := by
  unfold State.countExpanded
  iterate 24 try any_goals
    first
    | with_reducible assumption | with_reducible apply State.count_keeps | split

theorem expanderBlock_keeps {s0 : State} (region pair q n block stall : Nat) (s : State) (hk : Keeps s0 s) : Keeps s0 (expanderBlock region pair q n block stall s) := by
  unfold expanderBlock
  dsimp only
  iterate 24 try any_goals
    first
    | with_reducible assumption | with_reducible apply State.count_keeps | with_reducible apply State.putCmd_keeps
    | with_reducible apply State.blameAt_keeps | with_reducible apply Op.quit_keeps | with_reducible apply matrixOp_keeps
    | with_reducible apply State.countExpanded_keeps | split | (with_reducible refine KeepsR.of ?_ (by assumption))
    | (with_reducible refine Keeps.mkBoot ?_ rfl rfl rfl rfl)

end Sys2Proof.Machine
end

