-- ==== Sys2Proof/Laws/KeepTrack.lean ====
section
/-! SUPPORT. What the functions of Machine/Track.lean keep: waiting commands, part, fuses and the canonical form of memory. -/

namespace Sys2Proof.Machine

theorem State.putTrack_keeps {s0 : State} (s : State) (i : Nat) (t : Track) (hk : Keeps s0 s) : Keeps s0 (State.putTrack s i t) := by
  unfold State.putTrack
  iterate 24 try any_goals
    first
    | with_reducible assumption | split | (with_reducible refine Keeps.mkBoot ?_ rfl rfl rfl rfl)

theorem State.cleanBit_keeps {s0 : State} (s : State) (t : Track) (b : Nat) (hk : Keeps s0 s) : Keeps s0 (State.cleanBit s t b) := by
  unfold State.cleanBit
  iterate 24 try any_goals
    first
    | with_reducible assumption | with_reducible apply State.pokeByte_keeps | split

theorem trkFinish_keeps {s0 : State} (s : State) (c : Cmd) (hk : Keeps s0 s) : KeepsR s0 (trkFinish s c) := by
  unfold trkFinish
  iterate 24 try any_goals
    first
    | with_reducible assumption | with_reducible exact KeepsR.error | with_reducible apply KeepsR.ok | with_reducible apply writeReport_keeps
    | (with_reducible refine KeepsR.map ?_ (fun p hp => ?_)) | (with_reducible refine KeepsR.bind ?_ (fun p hp => ?_))
    | (with_reducible refine KeepsR.bindV (fun a => ?_)) | split | (with_reducible refine KeepsR.of ?_ (by assumption))
    | (with_reducible refine Keeps.mkBoot ?_ rfl rfl rfl rfl)

theorem trkUnit_keeps {s0 : State} (s : State) (c : Cmd) (k1 : Nat) (hk : Keeps s0 s) : KeepsR s0 (trkUnit s c k1) := by
  unfold trkUnit
  dsimp only
  iterate 24 try any_goals
    first
    | with_reducible assumption | with_reducible exact KeepsR.error | with_reducible apply KeepsR.ok | with_reducible apply commitWrites_keeps
    | with_reducible apply State.putTrack_keeps | (with_reducible refine KeepsR.map ?_ (fun p hp => ?_))
    | (with_reducible refine KeepsR.bind ?_ (fun p hp => ?_)) | (with_reducible refine KeepsR.bindV (fun a => ?_)) | split
    | (with_reducible refine KeepsR.of ?_ (by assumption)) | (with_reducible refine Keeps.mkBoot ?_ rfl rfl rfl rfl)

theorem wbUnit_keeps {s0 : State} (s : State) (c : Cmd) (b : Nat) (hk : Keeps s0 s) : KeepsR s0 (wbUnit s c b) := by
  unfold wbUnit
  dsimp only
  iterate 24 try any_goals
    first
    | with_reducible assumption | with_reducible exact KeepsR.error | with_reducible apply KeepsR.ok | with_reducible apply commitWrites_keeps
    | with_reducible apply State.cleanBit_keeps | (with_reducible refine KeepsR.map ?_ (fun p hp => ?_))
    | (with_reducible refine KeepsR.bind ?_ (fun p hp => ?_)) | (with_reducible refine KeepsR.bindV (fun a => ?_)) | split
    | (with_reducible refine KeepsR.of ?_ (by assumption))

theorem trackOp_keeps  : OpKeeps (trackOp ) := by
  refine ⟨fun s0 s c k hk => ?_, fun s0 s c hk => ?_, fun s0 s c st hk => ?_, fun s0 s c st hk => ?_⟩ <;> dsimp only [trackOp]
  all_goals (iterate 8 try any_goals (first | with_reducible assumption | with_reducible exact KeepsR.error | with_reducible apply KeepsR.ok | with_reducible apply State.blameAt_keeps | with_reducible apply leaveReport_keeps | with_reducible apply trkFinish_keeps | with_reducible apply trkUnit_keeps | split))

theorem writebackOp_keeps : OpKeeps writebackOp :=
  ⟨fun _ s c k hk => wbUnit_keeps s c k hk, trackOp_keeps.finish, trackOp_keeps.blame, trackOp_keeps.leave⟩

end Sys2Proof.Machine
end

