-- ==== Sys2Proof/Laws/KeepMove.lean ====
section
/-! SUPPORT. What the functions of Machine/Move.lean keep: waiting commands, part, fuses and the canonical form of memory. -/

namespace Sys2Proof.Machine

theorem moveElems_keeps {s0 : State} (s : State) (c : Cmd) (k : Nat) (hk : Keeps s0 s) : KeepsR s0 (moveElems s c k) := by
  unfold moveElems
  dsimp only
  iterate 24 try any_goals
    first
    | with_reducible assumption | with_reducible exact KeepsR.error | with_reducible apply KeepsR.ok | with_reducible apply commitWrites_keeps
    | (with_reducible refine KeepsR.map ?_ (fun p hp => ?_)) | (with_reducible refine KeepsR.bind ?_ (fun p hp => ?_))
    | (with_reducible refine KeepsR.bindV (fun a => ?_)) | (with_reducible apply Keeps.foldl; intro _ _ _; try dsimp only) | split
    | (with_reducible refine KeepsR.of ?_ (by assumption)) | (with_reducible refine Keeps.mkBoot ?_ rfl rfl rfl rfl)

theorem moveBlocks_keeps {s0 : State} (s : State) (c : Cmd) (k : Nat) (hk : Keeps s0 s) : KeepsR s0 (moveBlocks s c k) := by
  unfold moveBlocks
  dsimp only
  iterate 24 try any_goals
    first
    | with_reducible assumption | with_reducible exact KeepsR.error | with_reducible apply KeepsR.ok | with_reducible apply commitWrites_keeps
    | (with_reducible refine KeepsR.map ?_ (fun p hp => ?_)) | (with_reducible refine KeepsR.bind ?_ (fun p hp => ?_))
    | (with_reducible refine KeepsR.bindV (fun a => ?_)) | split | (with_reducible refine KeepsR.of ?_ (by assumption))

theorem mvUnit_keeps {s0 : State} (s : State) (c : Cmd) (k : Nat) (hk : Keeps s0 s) : KeepsR s0 (mvUnit s c k) := by
  unfold mvUnit
  iterate 24 try any_goals
    first
    | with_reducible assumption | with_reducible exact KeepsR.error | with_reducible apply KeepsR.ok | with_reducible apply moveElems_keeps
    | with_reducible apply moveBlocks_keeps | (with_reducible refine KeepsR.map ?_ (fun p hp => ?_))
    | (with_reducible refine KeepsR.bind ?_ (fun p hp => ?_)) | (with_reducible refine KeepsR.bindV (fun a => ?_)) | split
    | (with_reducible refine KeepsR.of ?_ (by assumption))

theorem mvFinish_keeps {s0 : State} (s : State) (c : Cmd) (hk : Keeps s0 s) : KeepsR s0 (mvFinish s c) := by
  unfold mvFinish
  iterate 24 try any_goals
    first
    | with_reducible assumption | with_reducible exact KeepsR.error | with_reducible apply KeepsR.ok | with_reducible apply writeReport_keeps
    | (with_reducible refine KeepsR.map ?_ (fun p hp => ?_)) | (with_reducible refine KeepsR.bind ?_ (fun p hp => ?_))
    | (with_reducible refine KeepsR.bindV (fun a => ?_)) | split | (with_reducible refine KeepsR.of ?_ (by assumption))
    | (with_reducible refine Keeps.mkBoot ?_ rfl rfl rfl rfl)

theorem moveOp_keeps  : OpKeeps (moveOp ) := by
  refine ⟨fun s0 s c k hk => ?_, fun s0 s c hk => ?_, fun s0 s c st hk => ?_, fun s0 s c st hk => ?_⟩ <;> dsimp only [moveOp]
  all_goals (iterate 8 try any_goals (first | with_reducible assumption | with_reducible exact KeepsR.error | with_reducible apply KeepsR.ok | with_reducible apply State.blameAt_keeps | with_reducible apply leaveReport_keeps | with_reducible apply mvUnit_keeps | with_reducible apply mvFinish_keeps | split))

theorem copyInlineOp_keeps  : OpKeeps (copyInlineOp ) := by
  refine ⟨fun s0 s c k hk => ?_, fun s0 s c hk => ?_, fun s0 s c st hk => ?_, fun s0 s c st hk => ?_⟩ <;> dsimp only [copyInlineOp]
  all_goals (iterate 8 try any_goals (first | with_reducible assumption | with_reducible exact KeepsR.error | with_reducible apply KeepsR.ok | with_reducible apply State.blameAt_keeps | with_reducible apply commitWrites_keeps | split))

theorem pieceOp_keeps {c : Cmd} {op : Op} (e : pieceOp c = some op) : OpKeeps op := by
  unfold pieceOp at e
  split at e
  · cases e; exact moveOp_keeps
  · split at e
    · cases e; exact writebackOp_keeps
    · cases e

theorem State.dealPieces_keeps {s0 : State} (s : State) (c : Cmd) (ks : List Nat) (es : List Nat) (hk : Keeps s0 s) : Keeps s0 (State.dealPieces s c ks es) := by
  induction es generalizing s ks with
  | nil => exact hk
  | cons e es ih =>
    refine ih _ _ ?_
    repeat' split
    all_goals first | exact Keeps.mkSame hk | exact hk

theorem State.enginePiece_keeps {s0 : State} (s : State) (c : Cmd) (op : Op) (bytes : Nat) (on : Bool) (e : Nat) (hk : Keeps s0 s) : Keeps s0 (State.enginePiece s c op bytes on e) := by
  unfold State.enginePiece
  dsimp only
  iterate 24 try any_goals
    first
    | with_reducible assumption | with_reducible apply State.count_keeps | with_reducible apply State.dealPieces_keeps | split

theorem pieceCommit_keeps {s0 : State} (mover : Mover) (q n : Nat) (b : Boundary) (s : State) (hk : Keeps s0 s) :
    Keeps s0 (pieceCommit mover q n b s) := by
  unfold pieceCommit
  split
  · exact hk
  · split
    · exact hk
    · next op ho =>
      split
      · exact hk
      · split
        · exact hk
        · next s' c' e =>
          have h' : Keeps s0 s' := by
            split at e
            · exact State.joinRegion_keeps hk e
            · cases e; exact hk
          dsimp only
          have h2 := Op.runSome_keeps (pieceOp_keeps ho) (pieceUnits s' c' op) s' c' h'
          iterate 8 try any_goals
            first
            | with_reducible assumption | with_reducible apply State.putCmd_keeps | with_reducible apply State.quits_keeps
            | (with_reducible refine Keeps.foldl (fun u x hu => State.enginePiece_keeps _ _ _ _ _ _ hu) ?_) | split

end Sys2Proof.Machine
end

