-- ==== Sys2Proof/Laws/KeepOpt.lean ====
section
/-! SUPPORT. What the functions of Machine/Opt.lean keep: waiting commands, part, fuses and the canonical form of memory. -/

namespace Sys2Proof.Machine

theorem gqUnit_keeps {s0 : State} (s : State) (c : Cmd) (k : Nat) (hk : Keeps s0 s) : KeepsR s0 (gqUnit s c k) := by
  unfold gqUnit
  dsimp only
  iterate 24 try any_goals
    first
    | with_reducible assumption | with_reducible exact KeepsR.error | with_reducible apply KeepsR.ok | with_reducible apply commitWrites_keeps
    | with_reducible apply commitGranules_keeps | (with_reducible refine KeepsR.map ?_ (fun p hp => ?_))
    | (with_reducible refine KeepsR.bind ?_ (fun p hp => ?_)) | (with_reducible refine KeepsR.bindV (fun a => ?_)) | split
    | (with_reducible refine KeepsR.of ?_ (by assumption))

theorem gqFinish_keeps {s0 : State} (s : State) (c : Cmd) (hk : Keeps s0 s) : KeepsR s0 (gqFinish s c) := by
  unfold gqFinish
  iterate 24 try any_goals
    first
    | with_reducible assumption | with_reducible exact KeepsR.error | with_reducible apply KeepsR.ok | with_reducible apply writeReport_keeps
    | (with_reducible refine KeepsR.map ?_ (fun p hp => ?_)) | (with_reducible refine KeepsR.bind ?_ (fun p hp => ?_))
    | (with_reducible refine KeepsR.bindV (fun a => ?_)) | split | (with_reducible refine KeepsR.of ?_ (by assumption))
    | (with_reducible refine Keeps.mkBoot ?_ rfl rfl rfl rfl)

theorem gradQuantOp_keeps  : OpKeeps (gradQuantOp ) := by
  refine ⟨fun s0 s c k hk => ?_, fun s0 s c hk => ?_, fun s0 s c st hk => ?_, fun s0 s c st hk => ?_⟩ <;> dsimp only [gradQuantOp]
  all_goals (iterate 8 try any_goals (first | with_reducible assumption | with_reducible exact KeepsR.error | with_reducible apply KeepsR.ok | with_reducible apply State.blameAt_keeps | with_reducible apply leaveReport_keeps | with_reducible apply gqUnit_keeps | with_reducible apply gqFinish_keeps | split))

theorem writeRec_keeps {s0 : State} (s : State) (c : Cmd) (r : Shard) (off : Nat) (bs : Bytes) (hk : Keeps s0 s) : KeepsR s0 (writeRec s c r off bs) := by
  unfold writeRec
  iterate 24 try any_goals
    first
    | with_reducible assumption | with_reducible exact KeepsR.error | with_reducible apply KeepsR.ok | with_reducible apply commitWrites_keeps
    | (with_reducible refine KeepsR.map ?_ (fun p hp => ?_)) | (with_reducible refine KeepsR.bind ?_ (fun p hp => ?_))
    | (with_reducible refine KeepsR.bindV (fun a => ?_)) | split | (with_reducible refine KeepsR.of ?_ (by assumption))

theorem takeShard_keeps {s0 s : State} {c : Cmd} {r : Shard} {t : State} {d : Cmd} {r' : Shard} (hk : Keeps s0 s) (e : takeShard s c r = .ok (t, d, r')) :
    Keeps s0 t := by
  unfold takeShard at e
  dsimp only [bind, Except.bind] at e
  split at e
  · cases e
  · next p hp =>
    cases e
    exact writeRec_keeps _ _ _ _ _ hk _ hp

theorem commitDyn_keeps {s0 : State} (s : State) (c : Cmd) (p : Packed) (hk : Keeps s0 s) : KeepsR s0 (commitDyn s c p) := by
  unfold commitDyn
  iterate 24 try any_goals
    first
    | with_reducible assumption | with_reducible exact KeepsR.error | with_reducible apply KeepsR.ok | with_reducible apply commitWrites_keeps
    | (with_reducible refine KeepsR.map ?_ (fun p hp => ?_)) | (with_reducible refine KeepsR.bind ?_ (fun p hp => ?_))
    | (with_reducible refine KeepsR.bindV (fun a => ?_)) | split | (with_reducible refine KeepsR.of ?_ (by assumption))
    | (with_reducible refine Keeps.mkBoot ?_ rfl rfl rfl rfl)

theorem sweepUnit_keeps {s0 : State} (s : State) (c : Cmd) (r : Shard) (hk : Keeps s0 s) : KeepsR s0 (sweepUnit s c r) := by
  unfold sweepUnit
  try dsimp only
  iterate 24 try any_goals
    first
    | with_reducible assumption | with_reducible exact KeepsR.error | with_reducible apply KeepsR.ok | with_reducible apply commitDyn_keeps
    | (with_reducible refine KeepsR.map ?_ (fun p hp => ?_)) | (with_reducible refine KeepsR.bind ?_ (fun p hp => ?_))
    | (with_reducible refine KeepsR.bindV (fun a => ?_)) | (with_reducible apply Keeps.foldl; intro _ _ _; try dsimp only) | split
    | (with_reducible refine KeepsR.of ?_ (by assumption)) | dsimp only | intro _ _ | (with_reducible refine Keeps.mkBoot ?_ rfl rfl rfl rfl)

theorem writeShadow_keeps {s0 s : State} {c : Cmd} {a len : Nat} {t : State} (hk : Keeps s0 s) (e : writeShadow s c a len = .ok t) : Keeps s0 t := by
  unfold writeShadow at e
  split at e <;> cases e
  exact State.storeOpen_keeps _ _ _ hk

theorem commitUpdate_keeps {s0 : State} (s : State) (c : Cmd) (r : Shard) (rows : List Nat) (u : Nat) (unit : Nat × Nat) (hk : Keeps s0 s) :
    KeepsR s0 (commitUpdate s c r rows u unit) := by
  unfold commitUpdate
  dsimp only
  refine KeepsR.bindV (fun f => KeepsR.bindV (fun vs => KeepsR.bindV (fun work => KeepsR.bindV (fun workT => ?_))))
  cases h : writeShadow s c (r.shadow (unitTower s r u unit.1)).1 (r.shadow (unitTower s r u unit.1)).2 with
  | error st => exact KeepsR.error
  | ok t => exact commitDyn_keeps _ _ _ (writeShadow_keeps hk h)

theorem countUnit_keeps {s0 : State} (s : State) (c : Cmd) (r : Shard) (unit : Nat × Nat) (hk : Keeps s0 s) : KeepsR s0 (countUnit s c r unit) := by
  unfold countUnit
  try dsimp only
  iterate 24 try any_goals
    first
    | with_reducible assumption | with_reducible exact KeepsR.error | with_reducible apply KeepsR.ok
    | (with_reducible refine KeepsR.map ?_ (fun p hp => ?_)) | (with_reducible refine KeepsR.bind ?_ (fun p hp => ?_))
    | (with_reducible refine KeepsR.bindV (fun a => ?_)) | (with_reducible apply Keeps.foldl; intro _ _ _; try dsimp only) | split
    | (with_reducible refine KeepsR.of ?_ (by assumption)) | dsimp only | intro _ _ | (with_reducible refine Keeps.mkBoot ?_ rfl rfl rfl rfl)

theorem upStep_keeps {s0 : State} (s : State) (c : Cmd) (r : Shard) (rows : List Nat) (k : Nat) (hk : Keeps s0 s) : KeepsR s0 (upStep s c r rows k) := by
  unfold upStep
  dsimp only
  iterate 24 try any_goals
    first
    | with_reducible assumption | with_reducible exact KeepsR.error | with_reducible apply KeepsR.ok | with_reducible apply sweepUnit_keeps
    | with_reducible apply commitUpdate_keeps | with_reducible apply countUnit_keeps | (with_reducible refine KeepsR.map ?_ (fun p hp => ?_))
    | (with_reducible refine KeepsR.bind ?_ (fun p hp => ?_)) | (with_reducible refine KeepsR.bindV (fun a => ?_)) | split
    | (with_reducible refine KeepsR.of ?_ (by assumption)) | (with_reducible refine Keeps.mkBoot ?_ rfl rfl rfl rfl)

theorem upUnit_keeps {s0 : State} (s : State) (c : Cmd) (k : Nat) (hk : Keeps s0 s) : KeepsR s0 (upUnit s c k) := by
  unfold upUnit
  refine KeepsR.bindV (fun r => ?_)
  split
  · exact KeepsR.ok hk
  · refine KeepsR.bindV (fun rows => ?_)
    split
    · exact KeepsR.error
    · exact KeepsR.ok hk
    · exact KeepsR.ok hk
    · exact upStep_keeps _ _ _ _ _ hk
    · cases h : takeShard s c r with
      | error st => exact KeepsR.error
      | ok p => exact upStep_keeps _ _ _ _ _ (takeShard_keeps hk h)

theorem shardFetchServe_keeps {s0 : State} (source a want : Nat) (s : State) (hk : Keeps s0 s) : Keeps s0 (shardFetchServe source a want s) := by
  unfold shardFetchServe
  dsimp only
  iterate 24 try any_goals
    first
    | with_reducible assumption | with_reducible apply State.sendPeer_keeps | split | (with_reducible refine KeepsR.of ?_ (by assumption))
    | (with_reducible refine Keeps.mkBoot ?_ rfl rfl rfl rfl)

theorem State.serveFetches_keeps {s0 : State} (s : State) (hk : Keeps s0 s) : Keeps s0 (State.serveFetches s) := by
  unfold State.serveFetches
  iterate 24 try any_goals
    first
    | with_reducible assumption | with_reducible apply shardFetchServe_keeps | (with_reducible apply Keeps.foldl; intro _ _ _; try dsimp only) | split
    | (with_reducible refine Keeps.mkBoot ?_ rfl rfl rfl rfl)

theorem upFinish_keeps {s0 : State} (s : State) (c : Cmd) (hk : Keeps s0 s) : KeepsR s0 (upFinish s c) := by
  unfold upFinish
  dsimp only
  iterate 24 try any_goals
    first
    | with_reducible assumption | with_reducible exact KeepsR.error | with_reducible apply KeepsR.ok | with_reducible apply State.noteStop_keeps
    | with_reducible apply endWith_keeps | with_reducible apply writeReport_keeps | with_reducible apply writeRec_keeps
    | with_reducible apply commitDyn_keeps | with_reducible apply State.serveFetches_keeps | (with_reducible refine KeepsR.map ?_ (fun p hp => ?_))
    | (with_reducible refine KeepsR.bind ?_ (fun p hp => ?_)) | (with_reducible refine KeepsR.bindV (fun a => ?_)) | split
    | (with_reducible refine KeepsR.of ?_ (by assumption)) | (with_reducible refine Keeps.mkBoot ?_ rfl rfl rfl rfl)

theorem upEarly_keeps {s0 : State} (s : State) (c : Cmd) (st : Status) (hk : Keeps s0 s) : Keeps s0 (upEarly s c st).1 :=
  leaveReport_keeps _ _ _ _ _ _ hk

theorem upLeave_keeps {s0 : State} (s : State) (c : Cmd) (st : Status) (hk : Keeps s0 s) : Keeps s0 (upLeave s c st).1 := by
  unfold upLeave
  split
  · exact upEarly_keeps _ _ _ hk
  · split
    · exact upEarly_keeps _ _ _ hk
    · exact upEarly_keeps _ _ _ (State.serveFetches_keeps _ (State.storeBytes_keeps _ _ _ hk))

theorem optUpdateOp_keeps  : OpKeeps (optUpdateOp ) := by
  refine ⟨fun s0 s c k hk => ?_, fun s0 s c hk => ?_, fun s0 s c st hk => ?_, fun s0 s c st hk => ?_⟩ <;> dsimp only [optUpdateOp]
  all_goals (iterate 8 try any_goals (first | with_reducible assumption | with_reducible exact KeepsR.error | with_reducible apply KeepsR.ok | with_reducible apply State.blameAt_keeps | with_reducible apply upUnit_keeps | with_reducible apply upFinish_keeps | with_reducible apply upLeave_keeps | split))

theorem initUnit_keeps {s0 : State} (s : State) (c : Cmd) (k1 : Nat) (hk : Keeps s0 s) : KeepsR s0 (initUnit s c k1) := by
  unfold initUnit
  dsimp only
  iterate 24 try any_goals
    first
    | with_reducible assumption | with_reducible exact KeepsR.error | with_reducible apply KeepsR.ok | with_reducible apply State.count_keeps
    | with_reducible apply commitWrites_keeps | with_reducible apply State.serveFetches_keeps | (with_reducible refine KeepsR.map ?_ (fun p hp => ?_))
    | (with_reducible refine KeepsR.bind ?_ (fun p hp => ?_)) | (with_reducible refine KeepsR.bindV (fun a => ?_)) | split
    | (with_reducible refine KeepsR.of ?_ (by assumption)) | (with_reducible refine Keeps.mkBoot ?_ rfl rfl rfl rfl)

theorem shFinish_keeps {s0 : State} (s : State) (c : Cmd) (hk : Keeps s0 s) : KeepsR s0 (shFinish s c) := by
  unfold shFinish
  dsimp only
  iterate 24 try any_goals
    first
    | with_reducible assumption | with_reducible exact KeepsR.error | with_reducible apply KeepsR.ok | with_reducible apply State.noteStop_keeps
    | with_reducible apply endWith_keeps | with_reducible apply writeReport_keeps | (with_reducible refine KeepsR.map ?_ (fun p hp => ?_))
    | (with_reducible refine KeepsR.bind ?_ (fun p hp => ?_)) | (with_reducible refine KeepsR.bindV (fun a => ?_)) | split
    | (with_reducible refine KeepsR.of ?_ (by assumption)) | (with_reducible refine Keeps.mkBoot ?_ rfl rfl rfl rfl)

theorem shLeave_keeps {s0 : State} (s : State) (c : Cmd) (st : Status) (hk : Keeps s0 s) : Keeps s0 (shLeave s c st).1 := by
  unfold shLeave
  iterate 24 try any_goals
    first
    | with_reducible assumption | with_reducible apply leaveReport_keeps | split | (with_reducible refine KeepsR.of ?_ (by assumption))
    | (with_reducible refine Keeps.mkBoot ?_ rfl rfl rfl rfl)

theorem shardInitOp_keeps  : OpKeeps (shardInitOp ) := by
  refine ⟨fun s0 s c k hk => ?_, fun s0 s c hk => ?_, fun s0 s c st hk => ?_, fun s0 s c st hk => ?_⟩ <;> dsimp only [shardInitOp]
  all_goals (iterate 8 try any_goals (first | with_reducible assumption | with_reducible exact KeepsR.error | with_reducible apply KeepsR.ok | with_reducible apply State.blameAt_keeps | with_reducible apply initUnit_keeps | with_reducible apply shFinish_keeps | with_reducible apply shLeave_keeps | split))

theorem checkUnit_keeps {s0 : State} (s : State) (c : Cmd) (u : Nat) (hk : Keeps s0 s) : KeepsR s0 (checkUnit s c u) := by
  unfold checkUnit
  dsimp only
  iterate 24 try any_goals
    first
    | with_reducible assumption | with_reducible exact KeepsR.error | with_reducible apply KeepsR.ok | with_reducible apply State.count_keeps
    | (with_reducible refine KeepsR.map ?_ (fun p hp => ?_)) | (with_reducible refine KeepsR.bind ?_ (fun p hp => ?_))
    | (with_reducible refine KeepsR.bindV (fun a => ?_)) | (with_reducible apply Keeps.foldl; intro _ _ _; try dsimp only) | split
    | (with_reducible refine KeepsR.of ?_ (by assumption)) | (with_reducible refine Keeps.mkBoot ?_ rfl rfl rfl rfl)

theorem checkFinish_keeps {s0 : State} (s : State) (c : Cmd) (hk : Keeps s0 s) : KeepsR s0 (checkFinish s c) := by
  unfold checkFinish
  dsimp only
  iterate 24 try any_goals
    first
    | with_reducible assumption | with_reducible exact KeepsR.error | with_reducible apply KeepsR.ok | with_reducible apply State.record_keeps
    | with_reducible apply endWith_keeps | with_reducible apply writeReport_keeps | (with_reducible refine KeepsR.map ?_ (fun p hp => ?_))
    | (with_reducible refine KeepsR.bind ?_ (fun p hp => ?_)) | (with_reducible refine KeepsR.bindV (fun a => ?_)) | split
    | (with_reducible refine KeepsR.of ?_ (by assumption)) | (with_reducible refine Keeps.mkBoot ?_ rfl rfl rfl rfl)

theorem shardCheckOp_keeps  : OpKeeps (shardCheckOp ) := by
  refine ⟨fun s0 s c k hk => ?_, fun s0 s c hk => ?_, fun s0 s c st hk => ?_, fun s0 s c st hk => ?_⟩ <;> dsimp only [shardCheckOp]
  all_goals (iterate 8 try any_goals (first | with_reducible assumption | with_reducible exact KeepsR.error | with_reducible apply KeepsR.ok | with_reducible apply State.blameAt_keeps | with_reducible apply State.count_keeps | with_reducible apply shLeave_keeps | with_reducible apply checkUnit_keeps | with_reducible apply checkFinish_keeps | split))

theorem State.mirrorVersion_keeps {s0 : State} (s : State) (a v : Nat) (hk : Keeps s0 s) : Keeps s0 (State.mirrorVersion s a v) := by
  unfold State.mirrorVersion
  iterate 24 try any_goals
    first
    | with_reducible assumption | with_reducible apply State.mirror_keeps | split

theorem fetchUnit_keeps {s0 : State} (answer : FetchAnswer) (s : State) (c : Cmd) (k1 : Nat) (hk : Keeps s0 s) : KeepsR s0 (fetchUnit answer s c k1) := by
  unfold fetchUnit
  dsimp only
  iterate 24 try any_goals
    first
    | with_reducible assumption | with_reducible exact KeepsR.error | with_reducible apply KeepsR.ok | with_reducible apply State.count_keeps
    | with_reducible apply State.sendPeer_keeps | with_reducible apply commitWrites_keeps | with_reducible apply State.mirrorVersion_keeps
    | (with_reducible refine KeepsR.map ?_ (fun p hp => ?_)) | (with_reducible refine KeepsR.bind ?_ (fun p hp => ?_))
    | (with_reducible refine KeepsR.bindV (fun a => ?_)) | split | (with_reducible refine KeepsR.of ?_ (by assumption))
    | (with_reducible refine Keeps.mkBoot ?_ rfl rfl rfl rfl)

theorem fetchFinish_keeps {s0 : State} (s : State) (c : Cmd) (hk : Keeps s0 s) : KeepsR s0 (fetchFinish s c) := by
  unfold fetchFinish
  dsimp only
  iterate 24 try any_goals
    first
    | with_reducible assumption | with_reducible exact KeepsR.error | with_reducible apply KeepsR.ok | with_reducible apply State.noteStop_keeps
    | with_reducible apply endWith_keeps | with_reducible apply writeReport_keeps | (with_reducible refine KeepsR.map ?_ (fun p hp => ?_))
    | (with_reducible refine KeepsR.bind ?_ (fun p hp => ?_)) | (with_reducible refine KeepsR.bindV (fun a => ?_)) | split
    | (with_reducible refine KeepsR.of ?_ (by assumption)) | (with_reducible refine Keeps.mkBoot ?_ rfl rfl rfl rfl)

theorem shardFetchOp_keeps (answer : FetchAnswer) : OpKeeps (shardFetchOp answer) := by
  refine ⟨fun s0 s c k hk => ?_, fun s0 s c hk => ?_, fun s0 s c st hk => ?_, fun s0 s c st hk => ?_⟩ <;> dsimp only [shardFetchOp]
  all_goals (iterate 8 try any_goals (first | with_reducible assumption | with_reducible exact KeepsR.error | with_reducible apply KeepsR.ok | with_reducible apply State.blameAt_keeps | with_reducible apply shLeave_keeps | with_reducible apply fetchUnit_keeps | with_reducible apply fetchFinish_keeps | split))

theorem exportUnit_keeps {s0 : State} (s : State) (c : Cmd) (k1 : Nat) (hk : Keeps s0 s) : KeepsR s0 (exportUnit s c k1) := by
  unfold exportUnit
  dsimp only
  iterate 24 try any_goals
    first
    | with_reducible assumption | with_reducible exact KeepsR.error | with_reducible apply KeepsR.ok | with_reducible apply State.count_keeps
    | with_reducible apply commitWrites_keeps | (with_reducible refine KeepsR.map ?_ (fun p hp => ?_))
    | (with_reducible refine KeepsR.bind ?_ (fun p hp => ?_)) | (with_reducible refine KeepsR.bindV (fun a => ?_)) | split
    | (with_reducible refine KeepsR.of ?_ (by assumption)) | (with_reducible refine Keeps.mkBoot ?_ rfl rfl rfl rfl)

theorem shardExportOp_keeps  : OpKeeps (shardExportOp ) := by
  refine ⟨fun s0 s c k hk => ?_, fun s0 s c hk => ?_, fun s0 s c st hk => ?_, fun s0 s c st hk => ?_⟩ <;> dsimp only [shardExportOp]
  all_goals (iterate 8 try any_goals (first | with_reducible assumption | with_reducible exact KeepsR.error | with_reducible apply KeepsR.ok | with_reducible apply State.blameAt_keeps | with_reducible apply shFinish_keeps | with_reducible apply shLeave_keeps | with_reducible apply exportUnit_keeps | split))

theorem statusUnit_keeps {s0 : State} (s : State) (c : Cmd) (k1 : Nat) (hk : Keeps s0 s) : KeepsR s0 (statusUnit s c k1) := by
  unfold statusUnit
  try dsimp only
  iterate 24 try any_goals
    first
    | with_reducible assumption | with_reducible exact KeepsR.error | with_reducible apply KeepsR.ok | with_reducible apply commitWrites_keeps
    | (with_reducible refine KeepsR.map ?_ (fun p hp => ?_)) | (with_reducible refine KeepsR.bind ?_ (fun p hp => ?_))
    | (with_reducible refine KeepsR.bindV (fun a => ?_)) | (with_reducible apply Keeps.foldl; intro _ _ _; try dsimp only) | split
    | (with_reducible refine KeepsR.of ?_ (by assumption)) | dsimp only | intro _ _ | (with_reducible refine Keeps.mkBoot ?_ rfl rfl rfl rfl)

theorem shardStatusOp_keeps  : OpKeeps (shardStatusOp ) := by
  refine ⟨fun s0 s c k hk => ?_, fun s0 s c hk => ?_, fun s0 s c st hk => ?_, fun s0 s c st hk => ?_⟩ <;> dsimp only [shardStatusOp]
  all_goals (iterate 8 try any_goals (first | with_reducible assumption | with_reducible exact KeepsR.error | with_reducible apply KeepsR.ok | with_reducible apply State.blameAt_keeps | with_reducible apply finishOk_keeps | with_reducible apply statusUnit_keeps | split))

end Sys2Proof.Machine
end

