-- ==== Sys2Proof/Laws/KeepTowerUnit.lean ====
section
/-! SUPPORT. What the functions of Machine/TowerUnit.lean keep: waiting commands, part, fuses and the canonical form of memory. -/

namespace Sys2Proof.Machine

theorem chunkOp_keeps (c : Cmd) : OpKeeps (chunkOp c) := by
  unfold chunkOp
  split
  · exact stackPushOp_keeps
  · exact gradQuantOp_keeps
  · exact optUpdateOp_keeps
  · exact shardCheckOp_keeps
  · exact vectorOp_keeps

theorem vectorStop_keeps {s0 : State} (s : State) (region engine : Nat) (c : Cmd) (hk : Keeps s0 s) : Keeps s0 (vectorStop s region engine c) := by
  unfold vectorStop
  iterate 24 try any_goals
    first
    | with_reducible assumption | with_reducible apply State.putRegion_keeps | with_reducible apply State.putCmd_keeps | with_reducible apply State.quits_keeps | split

theorem State.countChunk_keeps {s0 : State} (s : State) (region engine : Nat) (c : Cmd) (elems : Nat) (hk : Keeps s0 s) : Keeps s0 (State.countChunk s region engine c elems) := by
  unfold State.countChunk
  iterate 24 try any_goals
    first
    | with_reducible assumption | with_reducible apply State.count_keeps | split

theorem vectorChunk_keeps {s0 : State} (s : State) (region engine : Nat) (c : Cmd) (k : Nat) (b : Boundary) (hk : Keeps s0 s) : Keeps s0 (vectorChunk s region engine c k b) := by
  unfold vectorChunk
  dsimp only
  iterate 24 try any_goals
    first
    | with_reducible assumption | with_reducible apply State.putRegion_keeps | with_reducible apply State.putCmd_keeps | with_reducible apply State.quits_keeps
    | with_reducible apply Op.runSome_keeps | with_reducible apply chunkOp_keeps | with_reducible apply vectorStop_keeps
    | with_reducible apply State.countChunk_keeps | split

theorem vectorChunkEnd_keeps {s0 : State} (region engine q n : Nat) (b : Boundary) (s : State) (hk : Keeps s0 s) :
    Keeps s0 (vectorChunkEnd region engine q n b s) := by
  unfold vectorChunkEnd
  dsimp only
  split
  · exact hk
  · split
    · exact hk
    · split
      · split
        · exact vectorStop_keeps _ _ _ _ (State.putRegion_keeps _ _ _ hk)
        · exact State.putRegion_keeps _ _ _ hk
      · split
        · next e => exact vectorChunk_keeps _ _ _ _ _ _ (State.joinRegion_keeps (State.putRegion_keeps _ _ _ hk) e)
        · exact hk

theorem thinPiece_keeps {s0 : State} (s : State) (c : Cmd) (g : Mat) (tile tower : Nat) (hk : Keeps s0 s) : Keeps s0 (thinPiece s c g tile tower).1 := by
  unfold thinPiece
  dsimp only
  iterate 24 try any_goals
    first
    | with_reducible assumption | with_reducible apply State.count_keeps | split

theorem thinJudge_keeps {s0 : State} (s : State) (c : Cmd) (g : Mat) (tile : Nat) (es : List TileElem) (hk : Keeps s0 s) : Keeps s0 (thinJudge s c g tile es) := by
  unfold thinJudge
  dsimp only
  iterate 24 try any_goals
    first
    | with_reducible assumption | with_reducible apply State.count_keeps | with_reducible apply State.putCmd_keeps | with_reducible apply State.quits_keeps
    | with_reducible apply Op.stopIn_keeps | with_reducible apply Op.close_keeps | with_reducible apply commitTiles_keeps
    | with_reducible apply matrixOp_keeps | (with_reducible apply Keeps.foldl; intro _ _ _; try dsimp only) | split
    | (with_reducible refine KeepsR.of ?_ (by assumption)) | (with_reducible refine Keeps.mkBoot ?_ rfl rfl rfl rfl)

theorem thinSettle_keeps {s0 : State} (s : State) (c : Cmd) (g : Mat) (tile : Nat) (hk : Keeps s0 s) : Keeps s0 (thinSettle s c g tile) := by
  unfold thinSettle
  iterate 24 try any_goals
    first
    | with_reducible assumption | with_reducible apply State.putCmd_keeps | with_reducible apply State.quits_keeps | with_reducible apply Op.stopIn_keeps | with_reducible apply matrixOp_keeps
    | with_reducible apply thinJudge_keeps | split | (with_reducible refine KeepsR.of ?_ (by assumption))
    | (with_reducible refine Keeps.mkBoot ?_ rfl rfl rfl rfl)

theorem overflowFlag_keeps {s0 : State} (tower q n tile : Nat) (flag : Bool) (s : State) (hk : Keeps s0 s) : Keeps s0 (overflowFlag tower q n tile flag s) := by
  unfold overflowFlag
  dsimp only
  iterate 24 try any_goals
    first
    | with_reducible assumption | with_reducible apply Op.stopIn_keeps | with_reducible apply matrixOp_keeps | with_reducible apply thinSettle_keeps
    | split | (with_reducible refine KeepsR.of ?_ (by assumption)) | (with_reducible refine Keeps.mkBoot ?_ rfl rfl rfl rfl)

theorem thinArray_keeps {s0 : State} (s : State) (c : Cmd) (g : Mat) (r x tile : Nat) (b : Boundary) (hk : Keeps s0 s) : Keeps s0 (thinArray s c g r x tile b) := by
  unfold thinArray
  dsimp only
  iterate 24 try any_goals
    first
    | with_reducible assumption | with_reducible apply State.count_keeps | with_reducible apply State.record_keeps
    | with_reducible apply State.fenceColumn_keeps | with_reducible apply State.putCmd_keeps | with_reducible apply State.quits_keeps | with_reducible apply State.putRun_keeps
    | with_reducible apply thinSettle_keeps | split | (with_reducible refine Keeps.mkBoot ?_ rfl rfl rfl rfl)

theorem thinPass_keeps {s0 : State} (r x q n : Nat) (b : Boundary) (s : State) (hk : Keeps s0 s) : Keeps s0 (thinPass r x q n b s) := by
  unfold thinPass
  split
  · exact hk
  · split
    · split
      · exact hk
      · split
        · exact matStop_keeps _ _ _ _ _ (State.modPage_keeps _ _ _ hk)
        · split
          · exact hk
          · next e => exact thinArray_keeps _ _ _ _ _ _ _ (State.putCmd_keeps _ _ (State.joinRegion_keeps hk e))
    · exact hk

theorem State.passStep_keeps {s0 : State} (s : State) (t wait : Nat) (hk : Keeps s0 s) : Keeps s0 (State.passStep s t wait) := by
  unfold State.passStep
  iterate 24 try any_goals
    first
    | with_reducible assumption | with_reducible apply State.count_keeps | with_reducible apply State.putTower_keeps | split
    | (with_reducible refine Keeps.mkBoot ?_ rfl rfl rfl rfl)

theorem towerStop_keeps {s0 : State} (s : State) (c : Cmd) (t : Nat) (hk : Keeps s0 s) : Keeps s0 (towerStop s c t) := by
  unfold towerStop
  iterate 24 try any_goals
    first
    | with_reducible assumption | with_reducible apply State.quitTower_keeps | with_reducible apply matrixOp_keeps | split
    | (with_reducible refine Keeps.mkBoot ?_ rfl rfl rfl rfl)

theorem towerStep_keeps {s0 : State} (s : State) (c : Cmd) (t : Nat) (hk : Keeps s0 s) : Keeps s0 (towerStep s c t) := by
  unfold towerStep
  dsimp only
  iterate 24 try any_goals
    first
    | with_reducible assumption | with_reducible apply State.count_keeps | with_reducible apply State.putCmd_keeps | with_reducible apply State.quits_keeps
    | with_reducible apply Op.runSome_keeps | with_reducible apply matrixOp_keeps | with_reducible apply walkStep_keeps
    | with_reducible apply chunkOp_keeps | with_reducible apply thinPiece_keeps | split | (with_reducible refine Keeps.mkBoot ?_ rfl rfl rfl rfl)

theorem towerInjected_keeps {s0 : State} (s : State) (c : Cmd) (t : Nat) (hk : Keeps s0 s) : Keeps s0 (towerInjected s c t) := by
  unfold towerInjected
  dsimp only
  iterate 24 try any_goals
    first
    | with_reducible assumption | with_reducible apply State.modPage_keeps | with_reducible apply State.putCmd_keeps | with_reducible apply State.quits_keeps
    | with_reducible apply Op.quit_keeps | with_reducible apply matrixOp_keeps | with_reducible apply attnOp_keeps
    | with_reducible apply chunkOp_keeps | split | (with_reducible refine Keeps.mkBoot ?_ rfl rfl rfl rfl)

theorem towerBoundary_keeps {s0 : State} (s : State) (c : Cmd) (t wait : Nat) (b : Boundary) (hk : Keeps s0 s) : Keeps s0 (towerBoundary s c t wait b) := by
  unfold towerBoundary
  split
  · exact hk
  · split
    · exact towerInjected_keeps _ _ _ hk
    · split
      · exact hk
      · next u d e =>
        have hu : Keeps s0 ((u.putCmd d).passStep t wait) := State.passStep_keeps _ _ _ (State.putCmd_keeps _ _ (State.joinTower_keeps hk e))
        dsimp only
        generalize hv : (if unitPaused s.gov.throttle (s.tower t).slot then (u.putCmd d).passStep t wait
          else towerStep ((u.putCmd d).passStep t wait) d t) = v
        have hv' : Keeps s0 v := by
          rw [← hv]; split
          · exact hu
          · exact towerStep_keeps _ _ _ hu
        split
        · split
          · exact towerStop_keeps _ _ _ hv'
          · exact hv'
        · exact hv'

theorem towerUnitEnd_keeps {s0 : State} (tower q n : Nat) (b : Boundary) (wait : Nat) (s : State) (hk : Keeps s0 s) : Keeps s0 (towerUnitEnd tower q n b wait s) := by
  unfold towerUnitEnd
  iterate 24 try any_goals
    first
    | with_reducible assumption | with_reducible apply towerBoundary_keeps | split | (with_reducible refine Keeps.mkBoot ?_ rfl rfl rfl rfl)

theorem dropPartials_keeps {s0 : State} (s : State) (q n : Nat) (b : Boundary) (hk : Keeps s0 s) : Keeps s0 (dropPartials s q n b) := by
  unfold dropPartials
  iterate 24 try any_goals
    first
    | with_reducible assumption | with_reducible apply State.putWalk_keeps | split | (with_reducible refine Keeps.mkBoot ?_ rfl rfl rfl rfl)

theorem towerAttnBlockEnd_keeps {s0 : State} (tower q n : Nat) (b : Boundary) (wait : Nat) (s : State) (hk : Keeps s0 s) : Keeps s0 (towerAttnBlockEnd tower q n b wait s) := by
  unfold towerAttnBlockEnd
  iterate 24 try any_goals
    first
    | with_reducible assumption | with_reducible apply towerBoundary_keeps | with_reducible apply dropPartials_keeps | split
    | (with_reducible refine Keeps.mkBoot ?_ rfl rfl rfl rfl)

theorem refreshDue_keeps {s0 : State} (tower : Nat) (s : State) (hk : Keeps s0 s) : Keeps s0 (refreshDue tower s) := by
  unfold refreshDue
  dsimp only
  iterate 24 try any_goals
    first
    | with_reducible assumption | with_reducible apply State.count_keeps | with_reducible apply State.putTower_keeps | split
    | (with_reducible refine Keeps.mkBoot ?_ rfl rfl rfl rfl)

end Sys2Proof.Machine
end

