-- ==== Sys2Proof/Laws/KeepRegistry.lean ====
section
/-! SUPPORT. What the functions of Machine/Registry.lean keep: waiting commands, part, fuses and the canonical form of memory. -/

namespace Sys2Proof.Machine

/-- What an entry of the registry keeps. -/
structure RegKeeps (r : Reg) : Prop where
  op    : OpKeeps r.op
  start : ∀ s0 s c, Keeps s0 s → StartKeeps s0 (r.start s c)

/-- An entry without a start of its own. -/
theorem RegKeeps.plain {op : Op} (h : OpKeeps op) (len : Option Nat) : RegKeeps { op := op, len := len } := ⟨h, fun _ _ _ hk => hk⟩

theorem moveReg_keeps {code : Nat} {c : Cmd} {r : Reg} (e : moveReg code c = some r) : RegKeeps r := by
  unfold moveReg at e
  split at e
  · cases e; exact RegKeeps.plain moveOp_keeps _
  · split at e
    · cases e; exact RegKeeps.plain copyInlineOp_keeps _
    · split at e
      · cases e
        refine RegKeeps.plain ?_ _
        split
        · exact writebackOp_keeps
        · exact trackOp_keeps
      · cases e

theorem matrixReg_keeps {code : Nat} {r : Reg} (e : matrixReg code = some r) : RegKeeps r := by
  unfold matrixReg at e
  split at e
  · cases e; exact ⟨matrixOp_keeps, fun _ _ _ hk => matStart_keeps _ _ hk⟩
  · split at e
    · cases e; exact ⟨matrixOp_keeps, fun _ _ _ hk => matStart_keeps _ _ hk⟩
    · cases e

theorem vectorReg_keeps {code : Nat} {r : Reg} (e : vectorReg code = some r) : RegKeeps r := by
  unfold vectorReg at e
  split at e
  · cases e; exact RegKeeps.plain vectorOp_keeps _
  · cases e

theorem attentionReg_keeps {ring : List (List Bytes)} {code : Nat} {r : Reg} (e : attentionReg ring code = some r) : RegKeeps r := by
  unfold attentionReg at e
  split at e <;> cases e
  · exact ⟨attnOp_keeps _, fun _ _ _ hk => attStart_keeps _ _ hk⟩
  · exact ⟨attnOp_keeps _, fun _ _ _ hk => attStart_keeps _ _ hk⟩
  · exact RegKeeps.plain kvAppendOp_keeps _
  · exact ⟨bucketSortOp_keeps, fun _ _ _ hk => latchStart_keeps _ _ hk⟩
  · exact RegKeeps.plain kvTruncateOp_keeps _
  · exact RegKeeps.plain kvPoolOp_keeps _

theorem runReg_keeps {ring : List (List Bytes)} {code : Nat} {c : Cmd} {r : Reg} (e : runReg ring code c = some r) : RegKeeps r := by
  unfold runReg at e
  rcases Option.or_eq_some_iff.mp e with h | ⟨_, h⟩
  · rcases Option.or_eq_some_iff.mp h with h | ⟨_, h⟩
    · exact moveReg_keeps h
    · exact matrixReg_keeps h
  · rcases Option.or_eq_some_iff.mp h with h | ⟨_, h⟩
    · exact vectorReg_keeps h
    · exact attentionReg_keeps h

theorem shardOp_keeps (c : Cmd) : OpKeeps (shardOp c) := by
  unfold shardOp
  split
  · exact shardInitOp_keeps
  · exact shardCheckOp_keeps
  · exact shardFetchOp_keeps _
  · exact shardExportOp_keeps
  · exact shardStatusOp_keeps

theorem trainReg_keeps {code : Nat} {c : Cmd} {r : Reg} (e : trainReg code c = some r) : RegKeeps r := by
  unfold trainReg at e
  split at e <;> cases e
  · exact ⟨stackMarkOp_keeps, fun _ _ _ hk => markStart_keeps _ _ hk⟩
  · exact RegKeeps.plain stackOpenOp_keeps _
  · exact ⟨stackPushOp_keeps, fun _ _ _ hk => pushStart_keeps _ _ hk⟩
  · exact ⟨stackPopOp_keeps, fun _ _ _ hk => popStart_keeps _ _ hk⟩
  · exact RegKeeps.plain gradQuantOp_keeps _
  · exact RegKeeps.plain optUpdateOp_keeps _
  · exact RegKeeps.plain (shardOp_keeps c) _

theorem compressReg_keeps {code : Nat} {r : Reg} (e : compressReg code = some r) : RegKeeps r := by
  unfold compressReg at e
  split at e <;> cases e
  · exact RegKeeps.plain buildOp_keeps _
  · exact RegKeeps.plain encodeOp_keeps _
  · exact RegKeeps.plain encodeOp_keeps _

end Sys2Proof.Machine
end

