-- ==== Sys2Proof/Laws/KeepStream.lean ====
section
/-! SUPPORT. What the functions of Machine/Stream.lean keep: waiting commands, part, fuses and the canonical form of memory. -/

namespace Sys2Proof.Machine

theorem streamStart_keeps {s0 : State} (s : State) (c : Cmd) (hk : Keeps s0 s) : StartKeeps s0 (streamStart s c) := by
  unfold streamStart
  iterate 24 try any_goals
    first
    | with_reducible assumption | with_reducible apply Op.stop_keeps | with_reducible apply StartKeeps.go | with_reducible exact StartKeeps.wait
    | with_reducible apply StartKeeps.stop | split | (with_reducible refine KeepsR.of ?_ (by assumption))
    | (with_reducible refine Keeps.mkBoot ?_ rfl rfl rfl rfl)

theorem State.putThread_keeps {s0 : State} (s : State) (t : Thread) (hk : Keeps s0 s) : Keeps s0 (State.putThread s t) := by
  unfold State.putThread
  iterate 24 try any_goals
    first
    | with_reducible assumption | split | (with_reducible refine Keeps.mkBoot ?_ rfl rfl rfl rfl)

theorem State.forgetWaiter_keeps {s0 : State} (s : State) (q n : Nat) (hk : Keeps s0 s) : Keeps s0 (State.forgetWaiter s q n) := by
  unfold State.forgetWaiter
  iterate 24 try any_goals
    first
    | with_reducible assumption | split | (with_reducible refine Keeps.mkBoot ?_ rfl rfl rfl rfl)

theorem State.dropThread_keeps {s0 : State} (s : State) (q n : Nat) (hk : Keeps s0 s) : Keeps s0 (State.dropThread s q n) := by
  unfold State.dropThread
  iterate 24 try any_goals
    first
    | with_reducible assumption | with_reducible apply State.forgetWaiter_keeps | split | (with_reducible refine Keeps.mkBoot ?_ rfl rfl rfl rfl)

theorem dropRun_keeps {s0 : State} (s : State) (t : Thread) (st : Status) (hk : Keeps s0 s) : Keeps s0 (dropRun s t st) := by
  unfold dropRun
  split
  · exact hk
  · next x e =>
    obtain ⟨d, _, e2⟩ := Option.bind_eq_some_iff.mp e
    obtain ⟨r, hr, rfl⟩ := Option.map_eq_some_iff.mp e2
    exact stackDone_keeps _ _ _ (Op.quit_keeps (runReg_keeps hr).op _ _ _ hk)

theorem finishStream_keeps {s0 : State} (s : State) (c : Cmd) (t : Thread) (st : Status) (hk : Keeps s0 s) : Keeps s0 (finishStream s c t st) := by
  unfold finishStream
  have hd := dropRun_keeps s t st hk
  refine State.putCmd_keeps _ _ (State.dropThread_keeps _ _ _ ?_)
  dsimp only
  split
  · next r e => have h := commitWrites_keeps _ _ _ hd _ e; exact h
  · exact State.noteStop_keeps _ _ _ hd

theorem settleThread_keeps {s0 : State} (s : State) (c : Cmd) (t : Thread) (hk : Keeps s0 s) : Keeps s0 (settleThread s c t) := by
  unfold settleThread
  split
  · split
    · exact finishStream_keeps _ _ _ _ hk
    · exact State.putCmd_keeps _ _ (State.putThread_keeps _ _ hk)
  · exact State.putCmd_keeps _ _ (State.putThread_keeps _ _ hk)

theorem endQuiet_keeps {s0 : State} (s : State) (c : Cmd) (t : Thread) (st : Status) (hk : Keeps s0 s) : Keeps s0 (endQuiet s c t st) := by
  unfold endQuiet
  iterate 24 try any_goals
    first
    | with_reducible assumption | with_reducible apply settleThread_keeps | split

theorem endThread_keeps {s0 : State} (s : State) (c : Cmd) (t : Thread) (st : Status) (hk : Keeps s0 s) : Keeps s0 (endThread s c t st) := by
  unfold endThread
  iterate 24 try any_goals
    first
    | with_reducible assumption | with_reducible apply State.noteStop_keeps | with_reducible apply endQuiet_keeps | split

theorem State.movePieces_keeps {s0 : State} (s : State) (c : Cmd) (bytes e : Nat) (hk : Keeps s0 s) : Keeps s0 (State.movePieces s c bytes e).1 :=
  Keeps.foldl (fun _ _ hu => State.count_keeps _ _ _ _ (State.count_keeps _ _ _ _ hu)) hk

theorem retireMove_keeps {s0 : State} (s : State) (c : Cmd) (t : Thread) (es : List Nat) (hk : Keeps s0 s) : Keeps s0 (retireMove s c t es).1 := by
  have fold : ∀ (b : Nat) (l : List Nat) (x : State × Cmd), Keeps s0 x.1 → Keeps s0 (l.foldl (fun (x : State × Cmd) e => x.1.movePieces x.2 b e) x).1 := by
    intro b l
    induction l with
    | nil => exact fun _ h => h
    | cons e l ih => exact fun x h => ih _ (State.movePieces_keeps _ _ _ _ h)
  unfold retireMove
  split
  · exact hk
  · split
    · next r e => exact fold _ _ _ (commitWrites_keeps _ _ _ hk r e)
    · exact State.noteStop_keeps _ _ _ hk

theorem retireAll_keeps {s0 : State} (n : Nat) (s : State) (c : Cmd) (t : Thread) (hk : Keeps s0 s) : Keeps s0 (retireAll n s c t).1 := by
  induction n generalizing s c t with
  | zero => exact hk
  | succ n ih => exact ih _ _ _ (retireMove_keeps _ _ _ _ hk)

theorem saveThread_keeps {s0 : State} (s : State) (c : Cmd) (t : Thread) (hk : Keeps s0 s) : KeepsR s0 (saveThread s c t) := by
  refine KeepsR.map (commitWrites_keeps _ _ _ hk) (fun p hp => ?_)
  dsimp only
  split
  · exact State.openRange_keeps _ _ _ hp
  · exact hp

theorem stopThread_keeps {s0 : State} (s : State) (t0 : Thread) (hk : Keeps s0 s) : Keeps s0 (stopThread s t0) := by
  unfold stopThread
  split
  · exact hk
  · next c0 _ =>
    have hr := retireAll_keeps t0.moves.length s c0 t0 hk
    dsimp only
    split
    · exact finishStream_keeps _ _ _ _ hr
    · split
      · exact endThread_keeps _ _ _ _ hr
      · next w e =>
        exact State.putCmd_keeps _ _ (State.putThread_keeps _ _ (State.forgetWaiter_keeps _ _ _ (saveThread_keeps _ _ _ hr w e)))

theorem State.stopThreads_keeps {s0 : State} (s : State) (sel : Thread → Bool) (hk : Keeps s0 s) : Keeps s0 (State.stopThreads s sel) := by
  unfold State.stopThreads
  iterate 24 try any_goals
    first
    | with_reducible assumption | with_reducible apply stopThread_keeps | (with_reducible apply Keeps.foldl; intro _ _ _; try dsimp only) | split

theorem streamLeave_keeps {s0 : State} (s : State) (c : Cmd) (st : Status) (hk : Keeps s0 s) : Keeps s0 (streamLeave s c st).1 := by
  unfold streamLeave
  dsimp only
  iterate 24 try any_goals
    first
    | with_reducible assumption | with_reducible apply leaveReport_keeps | with_reducible apply State.dropThread_keeps
    | with_reducible apply dropRun_keeps | with_reducible apply retireAll_keeps | split | (with_reducible refine Keeps.mkBoot ?_ rfl rfl rfl rfl)

theorem streamOp_keeps  : OpKeeps (streamOp ) := by
  refine ⟨fun s0 s c k hk => ?_, fun s0 s c hk => ?_, fun s0 s c st hk => ?_, fun s0 s c st hk => ?_⟩ <;> dsimp only [streamOp]
  all_goals (iterate 8 try any_goals (first | with_reducible assumption | with_reducible exact KeepsR.error | with_reducible apply KeepsR.ok | with_reducible apply State.blameAt_keeps | with_reducible apply streamLeave_keeps | split))

theorem enterThread_keeps {s0 : State} (s : State) (c : Cmd) (t : Thread) (hk : Keeps s0 s) : Keeps s0 (enterThread s c t) := by
  unfold enterThread
  dsimp only
  iterate 24 try any_goals
    first
    | with_reducible assumption | with_reducible apply State.putCmd_keeps | with_reducible apply State.dropThread_keeps | split
    | (with_reducible refine Keeps.mkBoot ?_ rfl rfl rfl rfl)

theorem freshStream_keeps {s0 : State} (s : State) (c : Cmd) (region : Nat) (hk : Keeps s0 s) : Keeps s0 (freshStream s c region) := by
  unfold freshStream
  iterate 24 try any_goals
    first
    | with_reducible assumption | with_reducible apply enterThread_keeps | split | (with_reducible refine Keeps.mkBoot ?_ rfl rfl rfl rfl)

theorem resumeStream_keeps {s0 : State} (s : State) (c : Cmd) (region : Nat) (kept : Option Thread) (hk : Keeps s0 s) : Keeps s0 (resumeStream s c region kept) := by
  unfold resumeStream
  iterate 24 try any_goals
    first
    | with_reducible assumption | with_reducible apply endThread_keeps | with_reducible apply enterThread_keeps
    | with_reducible apply freshStream_keeps | split | (with_reducible refine KeepsR.of ?_ (by assumption))
    | (with_reducible refine Keeps.mkBoot ?_ rfl rfl rfl rfl)

theorem streamRow_keeps {s0 : State} (q n region : Nat) (b : Boundary) (s : State) (hk : Keeps s0 s) : Keeps s0 (streamRow q n region b s) := by
  unfold streamRow
  iterate 24 try any_goals
    first
    | with_reducible assumption | with_reducible apply stopThread_keeps | with_reducible apply enterThread_keeps
    | with_reducible apply freshStream_keeps | with_reducible apply resumeStream_keeps | split
    | (with_reducible refine Keeps.mkBoot ?_ rfl rfl rfl rfl)

theorem noteIssue_keeps {s0 : State} (t : Thread) (s : State) (hk : Keeps s0 s) : Keeps s0 (noteIssue t s) := by
  unfold noteIssue
  iterate 24 try any_goals
    first
    | with_reducible assumption | with_reducible apply State.count_keeps | split

theorem insRow_keeps {s0 : State} (code : Nat) {f : State → Cmd → Thread → Ins → State} (hf : ∀ s c t i, Keeps s0 s → Keeps s0 (f s c t i)) (q n : Nat)
    (s : State) (hk : Keeps s0 s) : Keeps s0 (insRow code f q n s) := by
  unfold insRow
  split
  · split
    · exact hk
    · split
      · exact hk
      · split
        · exact endQuiet_keeps _ _ _ _ (State.modPage_keeps _ _ _ hk)
        · exact noteIssue_keeps _ _ (hf _ _ _ _ hk)
  · exact hk

theorem insHalt_keeps {s0 : State} (s : State) (c : Cmd) (t : Thread) (i : Ins) (hk : Keeps s0 s) : Keeps s0 (insHalt s c t i) := by
  unfold insHalt
  split
  · exact finishStream_keeps _ _ _ _ hk
  · exact hk

theorem insSetp_keeps {s0 : State} (s : State) (k1 : Cmd) (t : Thread) (i : Ins) (hk : Keeps s0 s) : Keeps s0 (insSetp s k1 t i) := by
  unfold insSetp
  iterate 24 try any_goals
    first
    | with_reducible assumption | with_reducible apply State.putThread_keeps | split

theorem insAddp_keeps {s0 : State} (s : State) (k1 : Cmd) (t : Thread) (i : Ins) (hk : Keeps s0 s) : Keeps s0 (insAddp s k1 t i) := by
  unfold insAddp
  iterate 24 try any_goals
    first
    | with_reducible assumption | with_reducible apply State.putThread_keeps | split

theorem insLoop_keeps {s0 : State} (s : State) (c : Cmd) (t : Thread) (i : Ins) (hk : Keeps s0 s) : Keeps s0 (insLoop s c t i) := by
  unfold insLoop
  iterate 24 try any_goals
    first
    | with_reducible assumption | with_reducible apply State.putThread_keeps | split | (with_reducible refine Keeps.mkBoot ?_ rfl rfl rfl rfl)

theorem insEndl_keeps {s0 : State} (s : State) (c : Cmd) (t : Thread) (k1 : Ins) (hk : Keeps s0 s) : Keeps s0 (insEndl s c t k1) := by
  unfold insEndl
  dsimp only
  iterate 24 try any_goals
    first
    | with_reducible assumption | with_reducible apply State.putThread_keeps | split | (with_reducible refine Keeps.mkBoot ?_ rfl rfl rfl rfl)

theorem insIdxp_keeps {s0 : State} (s : State) (k1 : Cmd) (t : Thread) (i : Ins) (hk : Keeps s0 s) : Keeps s0 (insIdxp s k1 t i) := by
  unfold insIdxp
  iterate 24 try any_goals
    first
    | with_reducible assumption | with_reducible apply State.putThread_keeps | split

theorem issueMove_keeps {s0 : State} (s : State) (c : Cmd) (t' : Thread) (srcs : List Nat) (ws : Writes) (hk : Keeps s0 s) : Keeps s0 (issueMove s c t' srcs ws) := by
  unfold issueMove
  dsimp only
  iterate 24 try any_goals
    first
    | with_reducible assumption | with_reducible apply State.putCmd_keeps | with_reducible apply State.putThread_keeps
    | with_reducible apply endThread_keeps | split | (with_reducible refine Keeps.mkBoot ?_ rfl rfl rfl rfl)

theorem insMove_keeps {s0 : State} (s : State) (c : Cmd) (t : Thread) (i : Ins) (hk : Keeps s0 s) : Keeps s0 (insMove s c t i) := by
  unfold insMove
  iterate 24 try any_goals
    first
    | with_reducible assumption | with_reducible apply endThread_keeps | with_reducible apply issueMove_keeps | split
    | (with_reducible refine KeepsR.of ?_ (by assumption)) | (with_reducible refine Keeps.mkBoot ?_ rfl rfl rfl rfl)

theorem insConv_keeps {s0 : State} (s : State) (c : Cmd) (t : Thread) (i : Ins) (hk : Keeps s0 s) : Keeps s0 (insConv s c t i) := by
  unfold insConv
  iterate 24 try any_goals
    first
    | with_reducible assumption | with_reducible apply endThread_keeps | with_reducible apply issueMove_keeps | split
    | (with_reducible refine KeepsR.of ?_ (by assumption)) | (with_reducible refine Keeps.mkBoot ?_ rfl rfl rfl rfl)

theorem insGath_keeps {s0 : State} (s : State) (c : Cmd) (t : Thread) (i : Ins) (hk : Keeps s0 s) : Keeps s0 (insGath s c t i) := by
  unfold insGath
  dsimp only
  iterate 24 try any_goals
    first
    | with_reducible assumption | with_reducible apply endThread_keeps | with_reducible apply issueMove_keeps | split
    | (with_reducible refine KeepsR.of ?_ (by assumption)) | (with_reducible refine Keeps.mkBoot ?_ rfl rfl rfl rfl)

theorem insScat_keeps {s0 : State} (s : State) (c : Cmd) (t : Thread) (i : Ins) (hk : Keeps s0 s) : Keeps s0 (insScat s c t i) := by
  unfold insScat
  dsimp only
  iterate 24 try any_goals
    first
    | with_reducible assumption | with_reducible apply endThread_keeps | with_reducible apply issueMove_keeps | split
    | (with_reducible refine KeepsR.of ?_ (by assumption)) | (with_reducible refine Keeps.mkBoot ?_ rfl rfl rfl rfl)

theorem insSkipz_keeps {s0 : State} (s : State) (c : Cmd) (t : Thread) (i : Ins) (hk : Keeps s0 s) : Keeps s0 (insSkipz s c t i) := by
  unfold insSkipz
  iterate 24 try any_goals
    first
    | with_reducible assumption | with_reducible apply State.putThread_keeps | with_reducible apply endThread_keeps | split
    | (with_reducible refine KeepsR.of ?_ (by assumption)) | (with_reducible refine Keeps.mkBoot ?_ rfl rfl rfl rfl)

theorem insFence_keeps {s0 : State} (s : State) (k1 : Cmd) (t : Thread) (k2 : Ins) (hk : Keeps s0 s) : Keeps s0 (insFence s k1 t k2) := by
  unfold insFence
  iterate 24 try any_goals
    first
    | with_reducible assumption | with_reducible apply State.putThread_keeps | split

theorem State.putHq_keeps {s0 : State} (s : State) (k : Nat) (h : HandleQueue) (hk : Keeps s0 s) : Keeps s0 (State.putHq s k h) := by
  unfold State.putHq
  iterate 24 try any_goals
    first
    | with_reducible assumption | split | (with_reducible refine Keeps.mkBoot ?_ rfl rfl rfl rfl)

theorem insTake_keeps {s0 : State} (s : State) (c : Cmd) (t : Thread) (i : Ins) (hk : Keeps s0 s) : Keeps s0 (insTake s c t i) := by
  unfold insTake
  dsimp only
  iterate 24 try any_goals
    first
    | with_reducible assumption | with_reducible apply State.putThread_keeps | with_reducible apply endThread_keeps
    | with_reducible apply State.putHq_keeps | split | (with_reducible refine Keeps.mkBoot ?_ rfl rfl rfl rfl)

theorem giveHandle_keeps {s0 : State} (s : State) (c : Cmd) (t : Thread) (k v : Nat) (hk : Keeps s0 s) : Keeps s0 (giveHandle s c t k v) := by
  unfold giveHandle
  dsimp only
  iterate 24 try any_goals
    first
    | with_reducible assumption | with_reducible apply State.putThread_keeps | with_reducible apply endThread_keeps
    | with_reducible apply State.putHq_keeps | split | (with_reducible refine Keeps.mkBoot ?_ rfl rfl rfl rfl)

theorem insGive_keeps {s0 : State} (s : State) (c : Cmd) (t : Thread) (i : Ins) (hk : Keeps s0 s) : Keeps s0 (insGive s c t i) := by
  unfold insGive
  dsimp only
  iterate 24 try any_goals
    first
    | with_reducible assumption | with_reducible apply endThread_keeps | with_reducible apply giveHandle_keeps | split

theorem insGivei_keeps {s0 : State} (s : State) (c : Cmd) (t : Thread) (i : Ins) (hk : Keeps s0 s) : Keeps s0 (insGivei s c t i) := by
  unfold insGivei
  iterate 24 try any_goals
    first
    | with_reducible assumption | with_reducible apply giveHandle_keeps | split

theorem hqServe_keeps {s0 : State} (k : Nat) (s : State) (hk : Keeps s0 s) : Keeps s0 (hqServe k s) := by
  unfold hqServe
  dsimp only
  iterate 24 try any_goals
    first
    | with_reducible assumption | with_reducible apply State.putThread_keeps | with_reducible apply State.putHq_keeps | split
    | (with_reducible refine Keeps.mkBoot ?_ rfl rfl rfl rfl)

theorem closeWaiter_keeps {s0 : State} (s : State) (w : HqWaiter) (hk : Keeps s0 s) : Keeps s0 (closeWaiter s w) := by
  unfold closeWaiter
  iterate 24 try any_goals
    first
    | with_reducible assumption | with_reducible apply endThread_keeps | split | (with_reducible refine Keeps.mkBoot ?_ rfl rfl rfl rfl)

theorem hqUnit_keeps {s0 : State} (s : State) (c : Cmd) (k : Nat) (hk : Keeps s0 s) : KeepsR s0 (hqUnit s c k) := by
  unfold hqUnit
  dsimp only
  split
  · split
    · exact KeepsR.error
    · cases s.readBytes (hqSeedAt c) (4 * hqSeeds c) with
      | error st => exact KeepsR.error
      | ok b => exact KeepsR.ok (State.putHq_keeps _ _ _ hk)
  · exact KeepsR.ok (Keeps.foldl (fun u x hu => closeWaiter_keeps _ _ hu) (State.putHq_keeps _ _ _ hk))
  · exact commitWrites_keeps _ _ _ hk

theorem hqOp_keeps  : OpKeeps (hqOp ) := by
  refine ⟨fun s0 s c k hk => ?_, fun s0 s c hk => ?_, fun s0 s c st hk => ?_, fun s0 s c st hk => ?_⟩ <;> dsimp only [hqOp]
  all_goals (iterate 8 try any_goals (first | with_reducible assumption | with_reducible exact KeepsR.error | with_reducible apply KeepsR.ok | with_reducible apply State.blameAt_keeps | with_reducible apply hqUnit_keeps | split))

theorem runEnds_keeps {s0 : State} (s : State) (c d : Cmd) (t : Thread) (st : Status) (hk : Keeps s0 s) : Keeps s0 (runEnds s c d t st) := by
  unfold runEnds
  dsimp only
  iterate 24 try any_goals
    first
    | with_reducible assumption | with_reducible apply State.putCmd_keeps | with_reducible apply stackDone_keeps
    | with_reducible apply State.releasePages_keeps | with_reducible apply numberDone_keeps | with_reducible apply State.putThread_keeps
    | with_reducible apply endQuiet_keeps | split | (with_reducible refine Keeps.mkBoot ?_ rfl rfl rfl rfl)

theorem runUnits_keeps {s0 : State} (s : State) (c d : Cmd) (t : Thread) {op : Op} (ho : OpKeeps op) (units : Option Nat) (hk : Keeps s0 s) :
    Keeps s0 (runUnits s c d t op units) := by
  unfold runUnits
  have h := fun l => Op.runSome_keeps ho l s d hk
  dsimp only
  cases units <;> dsimp only <;> split
  all_goals first | exact runEnds_keeps _ _ _ _ _ (h _) | exact State.putCmd_keeps _ _ (State.putThread_keeps _ _ (h _))

theorem runOn_keeps {s0 : State} (s : State) (c d : Cmd) (t : Thread) {r : Reg} (hr : RegKeeps r) (units : Option Nat) (hk : Keeps s0 s) :
    Keeps s0 (runOn s c d t r units) := by
  unfold runOn
  dsimp only
  split
  · exact runUnits_keeps _ _ _ _ hr.op _ hk
  · split
    · exact State.putThread_keeps _ _ (State.putCmd_keeps _ _ (takeNumber_keeps _ _ _ hk))
    · split
      · exact hk
      · suffices h : ∀ e : Cmd, Keeps s0 (match (if e.isRing then latchStart s e else r.start s e) with
            | .wait => s.putThread { t with running := some d }
            | .stop u st => runEnds (r.op.blame u e st) c e t st
            | .go u e => runUnits u c e t r.op units) from h _
        intro e
        have hs : StartKeeps s0 (if e.isRing then latchStart s e else r.start s e) := by
          split
          · exact latchStart_keeps _ _ hk
          · exact hr.start _ _ _ hk
        generalize (if e.isRing then latchStart s e else r.start s e) = x at hs
        cases x with
        | wait => exact State.putThread_keeps _ _ hk
        | stop u st => exact runEnds_keeps _ _ _ _ _ (hr.op.blame _ _ _ _ hs)
        | go u e => exact runUnits_keeps _ _ _ _ hr.op _ hs

theorem runPatched_keeps {s0 : State} (s : State) (c d : Cmd) (t : Thread) {r : Reg} (hr : RegKeeps r) (units : Option Nat) (hk : Keeps s0 s) :
    Keeps s0 (runPatched s c d t r units) := by
  unfold runPatched
  dsimp only
  split
  · exact runEnds_keeps _ _ _ _ _ (hr.op.leave _ _ _ _ (hr.op.blame _ _ _ _ hk))
  · exact runOn_keeps _ _ _ _ hr _ hk

theorem runNew_keeps {s0 : State} (ring : List (List Bytes)) (units : Option Nat) (s : State) (c : Cmd) (t : Thread) (i : Ins) (hk : Keeps s0 s) :
    Keeps s0 (runNew ring units s c t i) := by
  unfold runNew
  dsimp only
  repeat' split
  all_goals first | exact endThread_keeps _ _ _ _ hk | exact runEnds_keeps _ _ _ _ _ (State.noteStop_keeps _ _ _ hk) | exact runPatched_keeps _ _ _ _ (runReg_keeps ‹_›) _ hk

theorem insRun_keeps {s0 : State} (ring : List (List Bytes)) (units : Option Nat) (s : State) (c : Cmd) (t : Thread) (i : Ins) (hk : Keeps s0 s) :
    Keeps s0 (insRun ring units s c t i) := by
  unfold insRun
  split
  · exact runNew_keeps _ _ _ _ _ _ hk
  · split
    · exact hk
    · exact runOn_keeps _ _ _ _ (runReg_keeps ‹_›) _ hk

theorem moveDone_keeps {s0 : State} (mover : Mover) (q n : Nat) (s : State) (hk : Keeps s0 s) : Keeps s0 (moveDone mover q n s) := by
  unfold moveDone
  split
  · split
    · exact hk
    · split
      · exact hk
      · exact settleThread_keeps _ _ _ (retireMove_keeps _ _ _ _ hk)
  · exact hk

end Sys2Proof.Machine
end

