-- ==== Sys2Proof/Laws/KeepJournal.lean ====
section
/-! SUPPORT. What the functions of Machine/Journal.lean keep: waiting commands, part, fuses and the canonical form of memory. -/

namespace Sys2Proof.Machine

theorem State.writeHeader_keeps {s0 : State} (s : State) (hk : Keeps s0 s) : Keeps s0 (State.writeHeader s) := by
  unfold State.writeHeader
  dsimp only
  iterate 24 try any_goals
    first
    | with_reducible assumption | with_reducible apply State.storeBytes_keeps | with_reducible apply writeRec_keeps | split
    | (with_reducible refine Keeps.mkBoot ?_ rfl rfl rfl rfl)

theorem State.freeRecords_keeps {s0 : State} (s : State) (hk : Keeps s0 s) : Keeps s0 (State.freeRecords s) := by
  unfold State.freeRecords
  dsimp only
  iterate 24 try any_goals
    first
    | with_reducible assumption | with_reducible apply State.mirror_keeps | split | (with_reducible refine Keeps.mkBoot ?_ rfl rfl rfl rfl)

theorem State.headJournaled_keeps {s0 : State} (s : State) (l : LiveRec) (hk : Keeps s0 s) : Keeps s0 (State.headJournaled s l) := by
  unfold State.headJournaled
  iterate 24 try any_goals
    first
    | with_reducible assumption | with_reducible apply State.putQueue_keeps | split | (with_reducible refine Keeps.mkBoot ?_ rfl rfl rfl rfl)

theorem State.appendRec_keeps {s0 : State} (s : State) (k : RecKind) (q seq : Nat) (body : Bytes) (head : Nat) (st : Status) (hk : Keeps s0 s) : Keeps s0 (State.appendRec s k q seq body head st) := by
  unfold State.appendRec
  dsimp only
  iterate 24 try any_goals
    first
    | with_reducible assumption | with_reducible apply State.record_keeps | with_reducible apply State.storeBytes_keeps
    | with_reducible apply State.mirror_keeps | with_reducible apply writeRec_keeps | with_reducible apply State.writeHeader_keeps
    | with_reducible apply State.freeRecords_keeps | with_reducible apply State.headJournaled_keeps | split
    | (with_reducible refine Keeps.mkBoot ?_ rfl rfl rfl rfl)

theorem State.appendContext_keeps {s0 : State} (s : State) (q : Nat) (hk : Keeps s0 s) : Keeps s0 (State.appendContext s q) := by
  unfold State.appendContext
  iterate 24 try any_goals
    first
    | with_reducible assumption | with_reducible apply State.appendRec_keeps | split | (with_reducible refine KeepsR.of ?_ (by assumption))

theorem State.appendDisabled_keeps {s0 : State} (s : State) (q : Nat) (hk : Keeps s0 s) : Keeps s0 (State.appendDisabled s q) := by
  unfold State.appendDisabled
  dsimp only
  iterate 24 try any_goals
    first
    | with_reducible assumption | with_reducible apply State.freeRecords_keeps | with_reducible apply State.appendRec_keeps | split
    | (with_reducible refine KeepsR.of ?_ (by assumption)) | (with_reducible refine Keeps.mkBoot ?_ rfl rfl rfl rfl)

theorem State.oweContext_keeps {s0 : State} (s : State) (q : Nat) (dis : Bool) (hk : Keeps s0 s) : Keeps s0 (State.oweContext s q dis) := by
  unfold State.oweContext
  iterate 24 try any_goals
    first
    | with_reducible assumption | split | (with_reducible refine Keeps.mkBoot ?_ rfl rfl rfl rfl)

theorem State.writeContext_keeps {s0 : State} (s : State) (q : Nat) (hk : Keeps s0 s) : Keeps s0 (State.writeContext s q) := by
  unfold State.writeContext
  iterate 24 try any_goals
    first
    | with_reducible assumption | with_reducible apply State.appendContext_keeps | with_reducible apply State.oweContext_keeps | split

theorem State.payOwed_keeps {s0 : State} (s : State) (hk : Keeps s0 s) : Keeps s0 (State.payOwed s) := by
  unfold State.payOwed
  dsimp only
  iterate 24 try any_goals
    first
    | with_reducible assumption | with_reducible apply State.appendContext_keeps | with_reducible apply State.appendDisabled_keeps
    | (with_reducible apply Keeps.foldl; intro _ _ _; try dsimp only) | split | (with_reducible refine Keeps.mkBoot ?_ rfl rfl rfl rfl)

theorem State.makeRoom_keeps {s0 : State} (k fuel : Nat) (s : State) (hk : Keeps s0 s) : Keeps s0 (State.makeRoom k fuel s) := by
  induction fuel generalizing s with
  | zero => exact hk
  | succ n ih =>
    unfold State.makeRoom
    split
    · exact hk
    · split
      · exact hk
      · split
        · exact ih _ (State.writeContext_keeps _ _ hk)
        · exact hk

theorem State.vacate_keeps {s0 : State} (s : State) (q n : Nat) (hk : Keeps s0 s) : Keeps s0 (State.vacate s q n) := by
  unfold State.vacate
  iterate 24 try any_goals
    first
    | with_reducible assumption | split | (with_reducible refine Keeps.mkBoot ?_ rfl rfl rfl rfl)

theorem State.disableQueue_keeps {s0 : State} (s : State) (q : Nat) (hk : Keeps s0 s) : Keeps s0 (State.disableQueue s q) := by
  unfold State.disableQueue
  dsimp only
  iterate 24 try any_goals
    first
    | with_reducible assumption | with_reducible apply State.putQueue_keeps | with_reducible apply State.appendDisabled_keeps
    | with_reducible apply State.oweContext_keeps | split | (with_reducible refine Keeps.mkBoot ?_ rfl rfl rfl rfl)

theorem State.settleQueue_keeps {s0 : State} (s : State) (q : Nat) (hk : Keeps s0 s) : Keeps s0 (State.settleQueue s q) := by
  unfold State.settleQueue
  dsimp only
  iterate 24 try any_goals
    first
    | with_reducible assumption | with_reducible apply State.disableQueue_keeps | split

theorem State.releaseHeld_keeps {s0 : State} (s : State) (q : Nat) (hk : Keeps s0 s) : Keeps s0 (State.releaseHeld s q) := by
  unfold State.releaseHeld
  iterate 24 try any_goals
    first
    | with_reducible assumption | with_reducible apply State.putQueue_keeps | with_reducible apply State.settleQueue_keeps | split
    | (with_reducible refine Keeps.mkBoot ?_ rfl rfl rfl rfl)

theorem State.settleReplay_keeps {s0 : State} (s : State) (hk : Keeps s0 s) : Keeps s0 (State.settleReplay s) := by
  unfold State.settleReplay
  iterate 24 try any_goals
    first
    | with_reducible assumption | split | (with_reducible refine Keeps.mkBoot ?_ rfl rfl rfl rfl)

theorem State.abortQueue_keeps {s0 : State} (s : State) (q : Nat) (hk : Keeps s0 s) : Keeps s0 (State.abortQueue s q) := by
  unfold State.abortQueue
  dsimp only
  iterate 24 try any_goals
    first
    | with_reducible assumption | with_reducible apply State.putQueue_keeps | with_reducible apply State.dropThread_keeps
    | with_reducible apply State.vacate_keeps | with_reducible apply State.settleQueue_keeps
    | (with_reducible apply Keeps.foldl; intro _ _ _; try dsimp only) | split | (with_reducible refine Keeps.mkBoot ?_ rfl rfl rfl rfl)

end Sys2Proof.Machine
end

