-- ==== Sys2Proof/Laws/KeepSync.lean ====
section
/-! SUPPORT. What the functions of Machine/Sync.lean keep: waiting commands, part, fuses and the canonical form of memory. -/

namespace Sys2Proof.Machine

theorem fenceOp_keeps  : OpKeeps (fenceOp ) := by
  refine ⟨fun s0 s c k hk => ?_, fun s0 s c hk => ?_, fun s0 s c st hk => ?_, fun s0 s c st hk => ?_⟩ <;> dsimp only [fenceOp]
  all_goals (iterate 8 try any_goals (first | with_reducible assumption | with_reducible exact KeepsR.error | with_reducible apply KeepsR.ok | with_reducible apply State.blameAt_keeps | with_reducible apply finishOk_keeps | split))

theorem signalUnit_keeps {s0 : State} (s : State) (c : Cmd) (k1 : Nat) (hk : Keeps s0 s) : KeepsR s0 (signalUnit s c k1) := by
  unfold signalUnit
  try dsimp only
  iterate 24 try any_goals
    first
    | with_reducible assumption | with_reducible exact KeepsR.error | with_reducible apply KeepsR.ok | with_reducible apply commitWrites_keeps
    | (with_reducible refine KeepsR.map ?_ (fun p hp => ?_)) | (with_reducible refine KeepsR.bind ?_ (fun p hp => ?_))
    | (with_reducible refine KeepsR.bindV (fun a => ?_)) | (with_reducible apply Keeps.foldl; intro _ _ _; try dsimp only) | split
    | (with_reducible refine KeepsR.of ?_ (by assumption)) | dsimp only | intro _ _ | (with_reducible refine Keeps.mkBoot ?_ rfl rfl rfl rfl)

theorem signalOp_keeps  : OpKeeps (signalOp ) := by
  refine ⟨fun s0 s c k hk => ?_, fun s0 s c hk => ?_, fun s0 s c st hk => ?_, fun s0 s c st hk => ?_⟩ <;> dsimp only [signalOp]
  all_goals (iterate 8 try any_goals (first | with_reducible assumption | with_reducible exact KeepsR.error | with_reducible apply KeepsR.ok | with_reducible apply State.blameAt_keeps | with_reducible apply finishOk_keeps | with_reducible apply signalUnit_keeps | split))

theorem waitOp_keeps : OpKeeps waitOp := by
  refine ⟨fun s0 s c k hk => ?_, fun s0 s c hk => finishOk_keeps s c hk, fun s0 s c st hk => ?_, fun s0 s c st hk => hk⟩
  · dsimp only [waitOp]
    cases s.readBytes (syAddr c) 8 with
    | error st => exact KeepsR.error
    | ok b => exact KeepsR.ok hk
  · dsimp only [waitOp]
    exact State.blameAt_keeps _ _ _ _ _ hk

theorem waitTimeout_keeps {s0 : State} (q n : Nat) (s : State) (hk : Keeps s0 s) : Keeps s0 (waitTimeout q n s) := by
  unfold waitTimeout
  iterate 24 try any_goals
    first
    | with_reducible assumption | with_reducible apply State.putCmd_keeps | split | (with_reducible refine Keeps.mkBoot ?_ rfl rfl rfl rfl)

end Sys2Proof.Machine
end

