-- ==== Sys2Proof/Laws/KeepColl.lean ====
section
/-! SUPPORT. What the functions of Machine/Coll.lean keep: waiting commands, part, fuses and the canonical form of memory. -/

namespace Sys2Proof.Machine

theorem State.putGroup_keeps {s0 : State} (s : State) (g : Nat) (x : Group) (hk : Keeps s0 s) : Keeps s0 (State.putGroup s g x) := by
  unfold State.putGroup
  iterate 24 try any_goals
    first
    | with_reducible assumption | split | (with_reducible refine Keeps.mkBoot ?_ rfl rfl rfl rfl)

theorem cgUnit_keeps {s0 : State} (s : State) (c : Cmd) (k : Nat) (hk : Keeps s0 s) : KeepsR s0 (cgUnit s c k) := by
  unfold cgUnit
  split
  · exact KeepsR.error
  · split
    · exact KeepsR.ok (State.putGroup_keeps _ _ _ hk)
    · cases cgList s c with
      | error st => exact KeepsR.error
      | ok ps => exact KeepsR.ok (State.putGroup_keeps _ _ _ hk)

theorem collGroupOp_keeps  : OpKeeps (collGroupOp ) := by
  refine ⟨fun s0 s c k hk => ?_, fun s0 s c hk => ?_, fun s0 s c st hk => ?_, fun s0 s c st hk => ?_⟩ <;> dsimp only [collGroupOp]
  all_goals (iterate 8 try any_goals (first | with_reducible assumption | with_reducible exact KeepsR.error | with_reducible apply KeepsR.ok | with_reducible apply State.blameAt_keeps | with_reducible apply finishOk_keeps | with_reducible apply cgUnit_keeps | split))

theorem State.tell_keeps {s0 : State} (s : State) (ps : List Nat) (kind : String) (words : List Nat) (bytes : Bytes) (hk : Keeps s0 s) : Keeps s0 (State.tell s ps kind words bytes) := by
  unfold State.tell
  iterate 24 try any_goals
    first
    | with_reducible assumption | with_reducible apply State.sendPeer_keeps | (with_reducible apply Keeps.foldl; intro _ _ _; try dsimp only) | split

theorem sendSrc_keeps {s0 s : State} {c : Cmd} {t : State} (hk : Keeps s0 s) (e : sendSrc s c = .ok t) : Keeps s0 t := by
  have one : ∀ (u v : State) (x : Except Status Bytes) (p : Nat) (kind : String) (ws : List Nat), Keeps s0 u →
      x.map (fun b => u.sendPeer p kind ws b) = .ok v → Keeps s0 v := by
    intro u v x p kind ws hu h
    cases x with
    | error st => cases h
    | ok b => cases h; exact State.sendPeer_keeps _ _ _ _ _ hu
  unfold sendSrc at e
  dsimp only at e
  split at e
  · cases e; exact hk
  · split at e
    · exact one _ _ _ _ _ _ hk e
    · exact Keeps.foldlM (fun u r v hu h => one _ _ _ _ _ _ hu h) _ hk e

theorem sendResults_keeps {s0 s : State} {c : Cmd} {t : State} (hk : Keeps s0 s) (e : sendResults s c = .ok t) : Keeps s0 t := by
  unfold sendResults at e
  dsimp only at e
  split at e
  · cases e; exact hk
  · revert e
    cases wireBytes s (clDst c) (sliceAt (clCount c) (s.group c.coll.group).members.length (s.group c.coll.group).rank).1
      (sliceAt (clCount c) (s.group c.coll.group).members.length (s.group c.coll.group).rank).2 with
    | error st => intro e; cases e
    | ok b => intro e; cases e; exact State.tell_keeps _ _ _ _ _ hk

theorem clUnit_keeps {s0 : State} (ms : List PeerTensor) (s : State) (c : Cmd) (k : Nat) (hk : Keeps s0 s) : KeepsR s0 (clUnit ms s c k) := by
  unfold clUnit
  split
  · exact KeepsR.ok hk
  · refine KeepsR.bindV (fun p => ?_)
    cases h1 : (if k = 0 then sendSrc s c else .ok s) with
    | error st => exact KeepsR.error
    | ok u =>
      have hu : Keeps s0 u := by
        split at h1
        · exact sendSrc_keeps hk h1
        · cases h1; exact hk
      refine KeepsR.bind (commitWrites_keeps u c p hu) (fun x hx => ?_)
      dsimp only
      cases h2 : (if k + 1 = clPieces c then sendResults x.1 c else .ok x.1) with
      | error st => exact KeepsR.error
      | ok v =>
        have hv : Keeps s0 v := by
          split at h2
          · exact sendResults_keeps hx h2
          · cases h2; exact hx
        refine KeepsR.ok ?_
        split
        · exact State.tell_keeps _ _ _ _ _ hv
        · exact hv

theorem State.recordDone_keeps {s0 : State} (s : State) (g k : Nat) (hk : Keeps s0 s) : Keeps s0 (State.recordDone s g k) := by
  unfold State.recordDone
  dsimp only
  iterate 24 try any_goals
    first
    | with_reducible assumption | with_reducible apply State.putGroup_keeps | split | (with_reducible refine Keeps.mkBoot ?_ rfl rfl rfl rfl)

theorem clFinish_keeps {s0 : State} (s : State) (c : Cmd) (hk : Keeps s0 s) : KeepsR s0 (clFinish s c) := by
  unfold clFinish
  iterate 24 try any_goals
    first
    | with_reducible assumption | with_reducible exact KeepsR.error | with_reducible apply KeepsR.ok | with_reducible apply State.count_keeps
    | with_reducible apply writeReport_keeps | with_reducible apply State.recordDone_keeps | (with_reducible refine KeepsR.map ?_ (fun p hp => ?_))
    | (with_reducible refine KeepsR.bind ?_ (fun p hp => ?_)) | (with_reducible refine KeepsR.bindV (fun a => ?_)) | split
    | (with_reducible refine KeepsR.of ?_ (by assumption)) | (with_reducible refine Keeps.mkBoot ?_ rfl rfl rfl rfl)

theorem clLeave_keeps {s0 : State} (silent : Nat) (s : State) (c : Cmd) (hk : Keeps s0 s) : Keeps s0 (clLeave silent s c).1 := by
  unfold clLeave
  iterate 24 try any_goals
    first
    | with_reducible assumption | with_reducible apply State.openRange_keeps | with_reducible apply writeReport_keeps | split
    | (with_reducible refine KeepsR.of ?_ (by assumption)) | (with_reducible refine Keeps.mkBoot ?_ rfl rfl rfl rfl)

theorem collOp_keeps (members : List PeerTensor) : OpKeeps (collOp members) := by
  refine ⟨fun s0 s c k hk => ?_, fun s0 s c hk => ?_, fun s0 s c st hk => ?_, fun s0 s c st hk => ?_⟩ <;> dsimp only [collOp]
  all_goals (iterate 8 try any_goals (first | with_reducible assumption | with_reducible exact KeepsR.error | with_reducible apply KeepsR.ok | with_reducible apply State.blameAt_keeps | with_reducible apply clUnit_keeps | with_reducible apply clFinish_keeps | with_reducible apply clLeave_keeps | split))

theorem collRow_keeps {s0 : State} (code : Nat) (members : State → Cmd → List PeerTensor) (q n : Nat) (s : State) (hk : Keeps s0 s) : Keeps s0 (collRow code members q n s) := by
  unfold collRow
  iterate 24 try any_goals
    first
    | with_reducible assumption | with_reducible apply runRow_keeps | with_reducible apply collOp_keeps | split
    | (with_reducible refine Keeps.mkBoot ?_ rfl rfl rfl rfl)

theorem collectivePiece_keeps {s0 : State} (q n : Nat) (members : List PeerTensor) (b : Boundary) (s : State) (hk : Keeps s0 s) : Keeps s0 (collectivePiece q n members b s) := by
  unfold collectivePiece
  dsimp only
  iterate 24 try any_goals
    first
    | with_reducible assumption | with_reducible apply State.putCmd_keeps | with_reducible apply Op.runOne_keeps | with_reducible apply collOp_keeps
    | split | (with_reducible refine Keeps.mkBoot ?_ rfl rfl rfl rfl)

theorem openSignature_keeps {s0 : State} (s : State) (c : Cmd) (hk : Keeps s0 s) : Keeps s0 (openSignature s c).1 := by
  unfold openSignature
  dsimp only
  iterate 24 try any_goals
    first
    | with_reducible assumption | with_reducible apply State.tell_keeps | split | (with_reducible refine Keeps.mkBoot ?_ rfl rfl rfl rfl)

theorem collStart_keeps {s0 : State} (s : State) (c : Cmd) (hk : Keeps s0 s) : StartKeeps s0 (collStart s c) := by
  unfold collStart
  dsimp only
  iterate 24 try any_goals
    first
    | with_reducible assumption | with_reducible apply State.count_keeps | with_reducible apply takeNumber_keeps
    | with_reducible apply State.tell_keeps | with_reducible apply openSignature_keeps | with_reducible apply StartKeeps.go
    | with_reducible exact StartKeeps.wait | with_reducible apply StartKeeps.stop | split | (with_reducible refine Keeps.mkBoot ?_ rfl rfl rfl rfl)

theorem signatureReceive_keeps {s0 : State} (q n : Nat) (sig : Bytes) (s : State) (hk : Keeps s0 s) : Keeps s0 (signatureReceive q n sig s) := by
  unfold signatureReceive
  split
  · exact hk
  · split
    · split
      · exact State.putCmd_keeps _ _ hk
      · refine State.endCmd_keeps _ _ _ _ ?_
        split
        · exact (attnOp_keeps []).leave _ _ _ _ hk
        · exact clLeave_keeps _ _ _ hk
    · split
      · exact hk
      · split
        · exact hk
        · split
          · exact State.putCmd_keeps _ _ hk
          · exact runEnds_keeps _ _ _ _ _ ((attnOp_keeps []).leave _ _ _ _ (State.noteStop_keeps _ _ _ hk))

theorem reportReceive_keeps {s0 : State} (q n rank : Nat) (s : State) (hk : Keeps s0 s) : Keeps s0 (reportReceive q n rank s) := by
  unfold reportReceive
  dsimp only
  iterate 24 try any_goals
    first
    | with_reducible assumption | with_reducible apply State.putCmd_keeps | with_reducible apply Op.runSome_keeps | with_reducible apply collOp_keeps
    | split | (with_reducible refine Keeps.mkBoot ?_ rfl rfl rfl rfl)

theorem endSilent_keeps {s0 : State} (s : State) (c : Cmd) (p : Nat) (hk : Keeps s0 s) : Keeps s0 (endSilent s c p) := by
  unfold endSilent
  split
  · exact State.putCmd_keeps _ _ (clLeave_keeps _ _ _ (State.openRange_keeps _ _ _ hk))
  · refine State.putCmd_keeps _ _ ?_
    generalize (if c.isRing then attOuts s c else []) = l
    have h : Keeps s0 (l.foldl (fun t r => t.openRange r.1 r.2) s) := Keeps.foldl (fun _ r hu => State.openRange_keeps _ _ _ hu) hk
    split
    · exact (attnOp_keeps []).leave _ _ _ _ h
    · exact h

theorem State.endUnreached_keeps {s0 : State} (s : State) (q n : Nat) (hk : Keeps s0 s) : Keeps s0 (State.endUnreached s q n) := by
  unfold State.endUnreached
  iterate 24 try any_goals
    first
    | with_reducible assumption | with_reducible apply endSilent_keeps | split | (with_reducible refine Keeps.mkBoot ?_ rfl rfl rfl rfl)

theorem runSilent_keeps {s0 : State} (s : State) (c : Cmd) (t : Thread) (hk : Keeps s0 s) : Keeps s0 (runSilent s c t) := by
  unfold runSilent
  have h : Keeps s0 ((attOuts s (pendingRun c t)).foldl (fun u r => u.openRange r.1 r.2) s) :=
    Keeps.foldl (fun _ r hu => State.openRange_keeps _ _ _ hu) hk
  exact runEnds_keeps _ _ _ _ _ ((attnOp_keeps []).leave _ _ _ _ h)

theorem State.endRunUnreached_keeps {s0 : State} (s : State) (q n : Nat) (hk : Keeps s0 s) : Keeps s0 (State.endRunUnreached s q n) := by
  unfold State.endRunUnreached
  iterate 24 try any_goals
    first
    | with_reducible assumption | with_reducible apply runSilent_keeps | split | (with_reducible refine Keeps.mkBoot ?_ rfl rfl rfl rfl)

theorem restartReceive_keeps {s0 : State} (group number : Nat) (s : State) (hk : Keeps s0 s) : Keeps s0 (restartReceive group number s) := by
  unfold restartReceive
  dsimp only
  iterate 24 try any_goals
    first
    | with_reducible assumption | with_reducible apply State.count_keeps | with_reducible apply State.putCmd_keeps
    | with_reducible apply openSignature_keeps | split | (with_reducible refine Keeps.mkBoot ?_ rfl rfl rfl rfl)

theorem State.owesAck_keeps {s0 : State} (s : State) (p : Nat) (hk : Keeps s0 s) : Keeps s0 (State.owesAck s p) := by
  unfold State.owesAck
  iterate 24 try any_goals
    first
    | with_reducible assumption | split | (with_reducible refine Keeps.mkBoot ?_ rfl rfl rfl rfl)

theorem ppUnit_keeps {s0 : State} (s : State) (c : Cmd) (k : Nat) (hk : Keeps s0 s) : KeepsR s0 (ppUnit s c k) := by
  unfold ppUnit
  dsimp only
  iterate 24 try any_goals
    first
    | with_reducible assumption | with_reducible exact KeepsR.error | with_reducible apply KeepsR.ok | with_reducible apply State.sendPeer_keeps
    | with_reducible apply State.owesAck_keeps | (with_reducible refine KeepsR.map ?_ (fun p hp => ?_))
    | (with_reducible refine KeepsR.bind ?_ (fun p hp => ?_)) | (with_reducible refine KeepsR.bindV (fun a => ?_)) | split
    | (with_reducible refine KeepsR.of ?_ (by assumption)) | (with_reducible refine Keeps.mkBoot ?_ rfl rfl rfl rfl)

theorem peerPutOp_keeps  : OpKeeps (peerPutOp ) := by
  refine ⟨fun s0 s c k hk => ?_, fun s0 s c hk => ?_, fun s0 s c st hk => ?_, fun s0 s c st hk => ?_⟩ <;> dsimp only [peerPutOp]
  all_goals (iterate 8 try any_goals (first | with_reducible assumption | with_reducible exact KeepsR.error | with_reducible apply KeepsR.ok | with_reducible apply State.blameAt_keeps | with_reducible apply ppUnit_keeps | split))

theorem peerOp_keeps (c : Cmd) : OpKeeps (peerOp c) := by
  unfold peerOp
  repeat' split
  · exact collOp_keeps _
  · exact peerPutOp_keeps
  · exact attnOp_keeps _
  · exact shardOp_keeps c

theorem refusalReceive_keeps {s0 : State} (q n : Nat) (unmapped : Bool) (addr : Nat) (s : State) (hk : Keeps s0 s) : Keeps s0 (refusalReceive q n unmapped addr s) := by
  unfold refusalReceive
  dsimp only
  iterate 24 try any_goals
    first
    | with_reducible assumption | with_reducible apply State.record_keeps | with_reducible apply State.putCmd_keeps
    | with_reducible apply Op.quit_keeps | with_reducible apply peerOp_keeps | split | (with_reducible refine Keeps.mkBoot ?_ rfl rfl rfl rfl)

theorem collReg_keeps {code : Nat} {r : Reg} (e : collReg code = some r) : RegKeeps r := by
  unfold collReg at e
  split at e
  · cases e; exact ⟨collOp_keeps _, fun _ _ _ hk => collStart_keeps _ _ hk⟩
  · split at e
    · cases e; exact ⟨peerPutOp_keeps, fun _ _ _ hk => hk⟩
    · split at e
      · cases e; exact RegKeeps.plain collGroupOp_keeps _
      · cases e

end Sys2Proof.Machine
end

