-- ==== Sys2Proof/Laws/KeepFirmware.lean ====
section
/-! SUPPORT. What the functions of Machine/Firmware.lean keep: waiting commands, part, fuses and the canonical form of memory. -/

namespace Sys2Proof.Machine

theorem State.fwIs_keeps {s0 : State} (s : State) (st fail : Nat) (hk : Keeps s0 s) : Keeps s0 (State.fwIs s st fail) := by
  unfold State.fwIs
  iterate 24 try any_goals
    first
    | with_reducible assumption | split | (with_reducible refine Keeps.mkBoot ?_ rfl rfl rfl rfl)

theorem fwStage_keeps {s0 : State} (s : State) (hk : Keeps s0 s) : Keeps s0 (fwStage s) := by
  unfold fwStage
  iterate 24 try any_goals
    first
    | with_reducible assumption | with_reducible apply State.fwIs_keeps | split

theorem fwStageDone_keeps {s0 : State} (flashOk : Bool) (s : State) (hk : Keeps s0 s) : Keeps s0 (fwStageDone flashOk s) := by
  unfold fwStageDone
  dsimp only
  iterate 24 try any_goals
    first
    | with_reducible assumption | with_reducible apply State.fwIs_keeps | (with_reducible apply Keeps.foldl; intro _ _ _; try dsimp only) | split
    | (with_reducible refine KeepsR.of ?_ (by assumption)) | (with_reducible refine Keeps.mkBoot ?_ rfl rfl rfl rfl)

theorem fwActivate_keeps {s0 : State} (s : State) (hk : Keeps s0 s) : Keeps s0 (fwActivate s) := by
  unfold fwActivate
  dsimp only
  iterate 24 try any_goals
    first
    | with_reducible assumption | with_reducible apply State.badWrite_keeps | split | (with_reducible refine Keeps.mkBoot ?_ rfl rfl rfl rfl)

theorem fwCommitSvn_keeps {s0 : State} (s : State) (hk : Keeps s0 s) : Keeps s0 (fwCommitSvn s) := by
  unfold fwCommitSvn
  split
  · exact hk
  · exact ⟨hk.pending, hk.part, hk.debug, hk.vendor, hk.seed, Nat.le_trans hk.svn (Nat.le_max_left _ _), hk.wf⟩

end Sys2Proof.Machine
end

