-- ==== Sys2Proof/Laws/KeepTowers.lean ====
section
/-! SUPPORT. What the functions of Machine/Towers.lean keep: waiting commands, part, fuses and the canonical form of memory. -/

namespace Sys2Proof.Machine

theorem State.serve_keeps {s0 : State} (s : State) (a : Nat) (write : Bool) (st : Status) (bs : Bytes) (hk : Keeps s0 s) : Keeps s0 (State.serve s a write st bs) := by
  unfold State.serve
  iterate 24 try any_goals
    first
    | with_reducible assumption | with_reducible apply State.send_keeps | split

theorem State.request_keeps {s0 : State} (s : State) (write : Bool) (a len : Nat) (bs : Bytes) (hk : Keeps s0 s) : Keeps s0 (s.request write a len bs) := by
  unfold State.request
  split
  · split
    · exact State.serve_keeps _ _ _ _ _ (State.writeBytes_keeps hk ‹_›)
    · exact State.serve_keeps _ _ _ _ _ hk
  · split <;> exact State.serve_keeps _ _ _ _ _ hk

theorem State.ivoryError_keeps {s0 : State} (s : State) (a : Nat) (y : ReadError) (hk : Keeps s0 s) : Keeps s0 (State.ivoryError s a y) := by
  unfold State.ivoryError
  iterate 24 try any_goals
    first
    | with_reducible assumption | with_reducible apply State.count_keeps | with_reducible apply State.record_keeps
    | with_reducible apply State.poisonGranule_keeps | split

theorem State.grant_keeps {s0 : State} (s : State) (r : Nat) (x : ArbReq) (hk : Keeps s0 s) : Keeps s0 (State.grant s r x) := by
  unfold State.grant
  dsimp only
  iterate 24 try any_goals
    first
    | with_reducible assumption | with_reducible apply State.putRegion_keeps | split | (with_reducible refine Keeps.mkBoot ?_ rfl rfl rfl rfl)

theorem State.queueRequest_keeps {s0 : State} (s : State) (r : Nat) (x : ArbReq) (hk : Keeps s0 s) : Keeps s0 (State.queueRequest s r x) := by
  unfold State.queueRequest
  dsimp only
  iterate 24 try any_goals
    first
    | with_reducible assumption | with_reducible apply State.putRegion_keeps | split | (with_reducible refine Keeps.mkBoot ?_ rfl rfl rfl rfl)

theorem arbPromote_keeps {s0 : State} (r : Nat) (x : ArbReq) (s : State) (hk : Keeps s0 s) : Keeps s0 (arbPromote r x s) := by
  unfold arbPromote
  dsimp only
  iterate 24 try any_goals
    first
    | with_reducible assumption | with_reducible apply State.count_keeps | with_reducible apply State.putRegion_keeps
    | with_reducible apply State.queueRequest_keeps | split | (with_reducible refine Keeps.mkBoot ?_ rfl rfl rfl rfl)

theorem ivoryRequest_keeps {s0 : State} (region : Nat) (by_ : Requester) (request : Nat) (write : Bool) (a len : Nat) (bs : Bytes) (e : ReadError) (s : State) (hk : Keeps s0 s) : Keeps s0 (ivoryRequest region by_ request write a len bs e s) := by
  unfold ivoryRequest
  dsimp only
  iterate 24 try any_goals
    first
    | with_reducible assumption | with_reducible apply State.count_keeps | with_reducible apply State.request_keeps
    | with_reducible apply State.ivoryError_keeps | with_reducible apply State.grant_keeps | with_reducible apply State.queueRequest_keeps | split

theorem State.poisonData_keeps {s0 : State} (s : State) (ns : List Nat) (x : Nat) (hk : Keeps s0 s) : Keeps s0 (State.poisonData s ns x) := by
  unfold State.poisonData
  iterate 24 try any_goals
    first
    | with_reducible assumption | with_reducible apply State.record_keeps | with_reducible apply State.poisonUmber_keeps
    | (with_reducible apply Keeps.foldl; intro _ _ _; try dsimp only) | split

theorem State.rewriteParity_keeps {s0 : State} (s : State) (x : Nat) (hk : Keeps s0 s) : Keeps s0 (State.rewriteParity s x) := by
  unfold State.rewriteParity
  dsimp only
  iterate 24 try any_goals
    first
    | with_reducible assumption | (with_reducible apply Keeps.foldl; intro _ _ _; try dsimp only) | split
    | (with_reducible refine Keeps.mkBoot ?_ rfl rfl rfl rfl) | (with_reducible refine Keeps.mkMem ?_ (fun w => ?_))
    | with_reducible apply Mem.setCell_wf | with_reducible apply Mem.closeBytes_wf | with_reducible apply Mem.addOpen_wf
    | with_reducible apply Mem.markLost_wf | with_reducible apply Mem.markIvory_wf | with_reducible apply Mem.markSlice_wf
    | with_reducible apply Mem.markUmber_wf | with_reducible apply Mem.setGranule_wf | with_reducible apply Mem.slateOnly_wf
    | with_reducible apply Mem.parity_wf | intro w

theorem State.noteBadRead_keeps {s0 : State} (s : State) (n x : Nat) (hk : Keeps s0 s) : Keeps s0 (State.noteBadRead s n x) := by
  unfold State.noteBadRead
  iterate 24 try any_goals
    first
    | with_reducible assumption | with_reducible apply State.putTower_keeps | split | (with_reducible refine Keeps.mkBoot ?_ rfl rfl rfl rfl)

theorem State.umberError_keeps {s0 : State} (s : State) (n x : Nat) (y : ReadError) (hk : Keeps s0 s) : Keeps s0 (State.umberError s n x y) := by
  unfold State.umberError
  dsimp only
  iterate 24 try any_goals
    first
    | with_reducible assumption | with_reducible apply State.count_keeps | with_reducible apply State.record_keeps
    | with_reducible apply State.poisonData_keeps | with_reducible apply State.rewriteParity_keeps | with_reducible apply State.noteBadRead_keeps
    | split | (with_reducible refine Keeps.mkBoot ?_ rfl rfl rfl rfl)

theorem State.parityError_keeps {s0 : State} (s : State) (x : Nat) (y : ReadError) (hk : Keeps s0 s) : Keeps s0 (State.parityError s x y) := by
  unfold State.parityError
  iterate 24 try any_goals
    first
    | with_reducible assumption | with_reducible apply State.count_keeps | with_reducible apply State.record_keeps
    | with_reducible apply State.poisonData_keeps | with_reducible apply State.rewriteParity_keeps | with_reducible apply State.noteBadRead_keeps
    | split

theorem State.idleTowerError_keeps {s0 : State} (s : State) (t x : Nat) (y : ReadError) (hk : Keeps s0 s) : Keeps s0 (State.idleTowerError s t x y) := by
  unfold State.idleTowerError
  iterate 24 try any_goals
    first
    | with_reducible assumption | with_reducible apply State.count_keeps | with_reducible apply State.record_keeps
    | with_reducible apply State.putTower_keeps | split

theorem State.wakeTower_keeps {s0 : State} (s : State) (t : Nat) (hk : Keeps s0 s) : Keeps s0 (State.wakeTower s t) := by
  unfold State.wakeTower
  iterate 24 try any_goals
    first
    | with_reducible assumption | with_reducible apply State.putTower_keeps | split | (with_reducible refine Keeps.mkBoot ?_ rfl rfl rfl rfl)

theorem umberServe_keeps {s0 : State} (write : Bool) (a len : Nat) (bs : Bytes) (e : ReadError) (s : State) (hk : Keeps s0 s) : Keeps s0 (umberServe write a len bs e s) := by
  unfold umberServe
  dsimp only
  iterate 24 try any_goals
    first
    | with_reducible assumption | with_reducible apply State.count_keeps | with_reducible apply State.request_keeps
    | with_reducible apply State.umberError_keeps | with_reducible apply State.wakeTower_keeps | split
    | (with_reducible refine Keeps.mkBoot ?_ rfl rfl rfl rfl)

theorem umberRequest_keeps {s0 : State} (port : Option (Fin 8 × Requester × Nat)) (write : Bool) (a len : Nat) (bs : Bytes) (e : ReadError) (s : State) (hk : Keeps s0 s) : Keeps s0 (umberRequest port write a len bs e s) := by
  unfold umberRequest
  dsimp only
  iterate 24 try any_goals
    first
    | with_reducible assumption | with_reducible apply State.grant_keeps | with_reducible apply State.queueRequest_keeps
    | with_reducible apply umberServe_keeps | split | (with_reducible refine Keeps.mkBoot ?_ rfl rfl rfl rfl)

theorem towerCtl_keeps {s0 : State} (value : Word) (s : State) (hk : Keeps s0 s) : Keeps s0 (towerCtl value s) := by
  unfold towerCtl
  dsimp only
  iterate 24 try any_goals
    first
    | with_reducible assumption | with_reducible apply State.flushParity_keeps | split | (with_reducible refine Keeps.mkBoot ?_ rfl rfl rfl rfl)

theorem segData_keeps {s0 : State} (value : Word) (s : State) (hk : Keeps s0 s) : Keeps s0 (segData value s) := by
  unfold segData
  dsimp only
  iterate 24 try any_goals
    first
    | with_reducible assumption | with_reducible apply State.badWrite_keeps | split | (with_reducible refine Keeps.mkBoot ?_ rfl rfl rfl rfl)
    | (with_reducible refine Keeps.mkMem ?_ (fun w => ?_)) | with_reducible apply Mem.setCell_wf | with_reducible apply Mem.closeBytes_wf
    | with_reducible apply Mem.addOpen_wf | with_reducible apply Mem.markLost_wf | with_reducible apply Mem.markIvory_wf
    | with_reducible apply Mem.markSlice_wf | with_reducible apply Mem.markUmber_wf | with_reducible apply Mem.setGranule_wf
    | with_reducible apply Mem.slateOnly_wf | with_reducible apply Mem.parity_wf | intro w

theorem State.towerFound_keeps {s0 : State} (s : State) (t : Nat) (hk : Keeps s0 s) : Keeps s0 (State.towerFound s t) := by
  unfold State.towerFound
  iterate 24 try any_goals
    first
    | with_reducible assumption | with_reducible apply State.putTower_keeps | split | (with_reducible refine Keeps.mkBoot ?_ rfl rfl rfl rfl)

theorem towerFail_keeps {s0 : State} (value : Word) (s : State) (hk : Keeps s0 s) : Keeps s0 (towerFail value s) := by
  unfold towerFail
  dsimp only
  iterate 24 try any_goals
    first
    | with_reducible assumption | with_reducible apply State.badWrite_keeps | with_reducible apply State.towerFound_keeps | split

theorem State.fenceTower_keeps {s0 : State} (s : State) (t : Nat) (hk : Keeps s0 s) : Keeps s0 (State.fenceTower s t) := by
  unfold State.fenceTower
  dsimp only
  iterate 24 try any_goals
    first
    | with_reducible assumption | with_reducible apply State.putTower_keeps | split | (with_reducible refine Keeps.mkBoot ?_ rfl rfl rfl rfl)

theorem State.towerCorrected_keeps {s0 : State} (s : State) (t : Nat) (hk : Keeps s0 s) : Keeps s0 (State.towerCorrected s t) := by
  unfold State.towerCorrected
  iterate 24 try any_goals
    first
    | with_reducible assumption | with_reducible apply State.recordUp_keeps | split

theorem State.modTow_keeps {s0 : State} (s : State) (f : TowerComplex → TowerComplex) (hk : Keeps s0 s) : Keeps s0 (State.modTow s f) := by
  unfold State.modTow
  iterate 24 try any_goals
    first
    | with_reducible assumption | split | (with_reducible refine Keeps.mkBoot ?_ rfl rfl rfl rfl)

theorem State.loseRange_keeps {s0 : State} (s : State) (t lostA lostB spareFor from' aFrom : Nat) (hk : Keeps s0 s) : Keeps s0 (State.loseRange s t lostA lostB spareFor from' aFrom) := by
  unfold State.loseRange
  iterate 24 try any_goals
    first
    | with_reducible assumption | with_reducible apply State.recordUp_keeps | with_reducible apply State.modTow_keeps | split
    | (with_reducible refine Keeps.mkBoot ?_ rfl rfl rfl rfl)

theorem State.degrade_keeps {s0 : State} (s : State) (t lostA spareFor : Nat) (hk : Keeps s0 s) : Keeps s0 (State.degrade s t lostA spareFor) := by
  unfold State.degrade
  iterate 24 try any_goals
    first
    | with_reducible assumption | with_reducible apply State.towerCorrected_keeps | with_reducible apply State.modTow_keeps | split
    | (with_reducible refine Keeps.mkBoot ?_ rfl rfl rfl rfl)

theorem State.spareFails_keeps {s0 : State} (s : State) (hk : Keeps s0 s) : Keeps s0 (State.spareFails s) := by
  unfold State.spareFails
  dsimp only
  iterate 24 try any_goals
    first
    | with_reducible assumption | with_reducible apply State.deviceStopAt_keeps | with_reducible apply State.fenceTower_keeps
    | with_reducible apply State.towerCorrected_keeps | with_reducible apply State.modTow_keeps | with_reducible apply State.loseRange_keeps
    | with_reducible apply State.degrade_keeps | split | (with_reducible refine Keeps.mkBoot ?_ rfl rfl rfl rfl)

theorem State.positionFails_keeps {s0 : State} (s : State) (p : Nat) (hk : Keeps s0 s) : Keeps s0 (State.positionFails s p) := by
  unfold State.positionFails
  dsimp only
  iterate 24 try any_goals
    first
    | with_reducible assumption | with_reducible apply State.deviceStopAt_keeps | with_reducible apply State.flushParity_keeps
    | with_reducible apply State.fenceTower_keeps | with_reducible apply State.towerCorrected_keeps | with_reducible apply State.modTow_keeps
    | with_reducible apply State.loseRange_keeps | with_reducible apply State.degrade_keeps | split
    | (with_reducible refine Keeps.mkBoot ?_ rfl rfl rfl rfl)

theorem towerFailDetect_keeps {s0 : State} (tower : Nat) (s : State) (hk : Keeps s0 s) : Keeps s0 (towerFailDetect tower s) := by
  unfold towerFailDetect
  iterate 24 try any_goals
    first
    | with_reducible assumption | with_reducible apply State.spareFails_keeps | with_reducible apply State.positionFails_keeps | split

theorem State.rebuildBlock_keeps {s0 : State} (s : State) (i : Nat) (hk : Keeps s0 s) : Keeps s0 (State.rebuildBlock s i) := by
  unfold State.rebuildBlock
  iterate 24 try any_goals
    first
    | with_reducible assumption | with_reducible apply State.recomputeParity_keeps | (with_reducible apply Keeps.foldl; intro _ _ _; try dsimp only)
    | split | (with_reducible refine Keeps.mkBoot ?_ rfl rfl rfl rfl) | (with_reducible refine Keeps.mkMem ?_ (fun w => ?_))
    | with_reducible apply Mem.setCell_wf | with_reducible apply Mem.closeBytes_wf | with_reducible apply Mem.addOpen_wf
    | with_reducible apply Mem.markLost_wf | with_reducible apply Mem.markIvory_wf | with_reducible apply Mem.markSlice_wf
    | with_reducible apply Mem.markUmber_wf | with_reducible apply Mem.setGranule_wf | with_reducible apply Mem.slateOnly_wf
    | with_reducible apply Mem.parity_wf | intro w

theorem rebuildStripe_keeps {s0 : State} (s : State) (hk : Keeps s0 s) : Keeps s0 (rebuildStripe s) := by
  unfold rebuildStripe
  dsimp only
  iterate 24 try any_goals
    first
    | with_reducible assumption | with_reducible apply State.count_keeps | with_reducible apply State.modTow_keeps
    | with_reducible apply State.rebuildBlock_keeps | split | (with_reducible refine Keeps.mkBoot ?_ rfl rfl rfl rfl)

theorem lostStripe_keeps {s0 : State} (s : State) (hk : Keeps s0 s) : Keeps s0 (lostStripe s) := by
  unfold lostStripe
  dsimp only
  iterate 24 try any_goals
    first
    | with_reducible assumption | with_reducible apply State.count_keeps | with_reducible apply State.recomputeLost_keeps
    | with_reducible apply State.modTow_keeps | split | (with_reducible refine Keeps.mkBoot ?_ rfl rfl rfl rfl)

theorem resyncStripe_keeps {s0 : State} (s : State) (hk : Keeps s0 s) : Keeps s0 (resyncStripe s) := by
  unfold resyncStripe
  dsimp only
  iterate 24 try any_goals
    first
    | with_reducible assumption | with_reducible apply State.count_keeps | with_reducible apply State.recomputeParity_keeps
    | with_reducible apply State.modTow_keeps | split | (with_reducible refine Keeps.mkBoot ?_ rfl rfl rfl rfl)

theorem State.patrolFinds_keeps {s0 : State} (s : State) (t x : Nat) (y : PatrolFinding) (hk : Keeps s0 s) : Keeps s0 (State.patrolFinds s t x y) := by
  unfold State.patrolFinds
  iterate 24 try any_goals
    first
    | with_reducible assumption | with_reducible apply State.count_keeps | with_reducible apply State.record_keeps
    | with_reducible apply State.poisonData_keeps | with_reducible apply State.rewriteParity_keeps | with_reducible apply State.noteBadRead_keeps
    | with_reducible apply State.umberError_keeps | with_reducible apply State.parityError_keeps | with_reducible apply State.idleTowerError_keeps
    | split | (with_reducible refine Keeps.mkBoot ?_ rfl rfl rfl rfl)

theorem umberPatrol_keeps {s0 : State} (t i j : Nat) (f : PatrolFinding) (s : State) (hk : Keeps s0 s) : Keeps s0 (umberPatrol t i j f s) := by
  unfold umberPatrol
  dsimp only
  iterate 24 try any_goals
    first
    | with_reducible assumption | with_reducible apply State.count_keeps | with_reducible apply State.modTow_keeps
    | with_reducible apply State.patrolFinds_keeps | split | (with_reducible refine Keeps.mkBoot ?_ rfl rfl rfl rfl)

theorem ivoryPatrol_keeps {s0 : State} (a : Nat) (e : ReadError) (s : State) (hk : Keeps s0 s) : Keeps s0 (ivoryPatrol a e s) := by
  unfold ivoryPatrol
  iterate 24 try any_goals
    first
    | with_reducible assumption | with_reducible apply State.count_keeps | with_reducible apply State.ivoryError_keeps
    | with_reducible apply State.modTow_keeps | split | (with_reducible refine Keeps.mkBoot ?_ rfl rfl rfl rfl)

theorem towerTrim_keeps {s0 : State} (tower : Nat) (done late : Bool) (s : State) (hk : Keeps s0 s) : Keeps s0 (towerTrim tower done late s) := by
  unfold towerTrim
  dsimp only
  iterate 24 try any_goals
    first
    | with_reducible assumption | with_reducible apply State.raiseBlockBit_keeps | with_reducible apply State.putTower_keeps | split
    | (with_reducible refine Keeps.mkBoot ?_ rfl rfl rfl rfl)

end Sys2Proof.Machine
end

