-- ==== Sys2Proof/Laws/KeepLinks.lean ====
section
/-! SUPPORT. What the functions of Machine/Links.lean keep: waiting commands, part, fuses and the canonical form of memory. -/

namespace Sys2Proof.Machine

theorem State.forwardFlit_keeps {s0 : State} (s : State) (b : Bytes) (hk : Keeps s0 s) : Keeps s0 (State.forwardFlit s b) := by
  unfold State.forwardFlit
  iterate 24 try any_goals
    first
    | with_reducible assumption | with_reducible apply State.count_keeps | with_reducible apply State.sendFlit_keeps | split
    | (with_reducible refine Keeps.mkBoot ?_ rfl rfl rfl rfl)

theorem State.settleLink_keeps {s0 : State} (s : State) (l : Nat) (hk : Keeps s0 s) : Keeps s0 (State.settleLink s l) := by
  unfold State.settleLink
  dsimp only
  iterate 24 try any_goals
    first
    | with_reducible assumption | with_reducible apply State.putLink_keeps | split | (with_reducible refine Keeps.mkBoot ?_ rfl rfl rfl rfl)

theorem State.nakFlit_keeps {s0 : State} (s : State) (l : Nat) (hk : Keeps s0 s) : Keeps s0 (State.nakFlit s l) := by
  unfold State.nakFlit
  iterate 24 try any_goals
    first
    | with_reducible assumption | with_reducible apply State.send_keeps | split

theorem State.putInbound_keeps {s0 : State} (s : State) (x : Inbound) (hk : Keeps s0 s) : Keeps s0 (State.putInbound s x) := by
  unfold State.putInbound
  iterate 24 try any_goals
    first
    | with_reducible assumption | split | (with_reducible refine Keeps.mkBoot ?_ rfl rfl rfl rfl)

theorem State.deliverFlit_keeps {s0 : State} (s : State) (b : Bytes) (opens : Option ChunkHead) (hk : Keeps s0 s) : Keeps s0 (State.deliverFlit s b opens) := by
  unfold State.deliverFlit
  dsimp only
  iterate 24 try any_goals
    first
    | with_reducible assumption | with_reducible apply State.putInbound_keeps | split | (with_reducible refine Keeps.mkBoot ?_ rfl rfl rfl rfl)

theorem State.takeFlit_keeps {s0 : State} (s : State) (l : Nat) (b : Bytes) (opens : Option ChunkHead) (hk : Keeps s0 s) : Keeps s0 (State.takeFlit s l b opens) := by
  unfold State.takeFlit
  dsimp only
  iterate 24 try any_goals
    first
    | with_reducible assumption | with_reducible apply State.count_keeps | with_reducible apply State.putLink_keeps
    | with_reducible apply State.sendHeld_keeps | with_reducible apply State.forwardFlit_keeps | with_reducible apply State.settleLink_keeps
    | with_reducible apply State.deliverFlit_keeps | split | (with_reducible refine Keeps.mkBoot ?_ rfl rfl rfl rfl)

theorem flitReceive_keeps {s0 : State} (l : Nat) (b : Bytes) (bad : Nat) (opens : Option ChunkHead) (s : State) (hk : Keeps s0 s) : Keeps s0 (flitReceive l b bad opens s) := by
  unfold flitReceive
  dsimp only
  iterate 24 try any_goals
    first
    | with_reducible assumption | with_reducible apply State.count_keeps | with_reducible apply State.record_keeps
    | with_reducible apply State.nakFlit_keeps | with_reducible apply State.takeFlit_keeps | split

theorem State.endUnreachable_keeps {s0 : State} (s : State) (hk : Keeps s0 s) : Keeps s0 (State.endUnreachable s) := by
  unfold State.endUnreachable
  iterate 24 try any_goals
    first
    | with_reducible assumption | with_reducible apply State.endUnreached_keeps | with_reducible apply State.endRunUnreached_keeps
    | (with_reducible apply Keeps.foldl; intro _ _ _; try dsimp only) | split

theorem State.resend_keeps {s0 : State} (s : State) (use : Nat) (fs : List (Nat × Bytes)) (hk : Keeps s0 s) : Keeps s0 (State.resend s use fs) := by
  unfold State.resend
  iterate 24 try any_goals
    first
    | with_reducible assumption | with_reducible apply State.sendFlit_keeps | with_reducible apply State.forwardFlit_keeps
    | (with_reducible apply Keeps.foldl; intro _ _ _; try dsimp only) | split | (with_reducible refine Keeps.mkBoot ?_ rfl rfl rfl rfl)

theorem State.failLink_keeps {s0 : State} (s : State) (l reason : Nat) (hk : Keeps s0 s) : Keeps s0 (State.failLink s l reason) := by
  unfold State.failLink
  dsimp only
  iterate 24 try any_goals
    first
    | with_reducible assumption | with_reducible apply State.recordUp_keeps | with_reducible apply State.putLink_keeps
    | with_reducible apply State.endUnreachable_keeps | with_reducible apply State.resend_keeps | split
    | (with_reducible refine Keeps.mkBoot ?_ rfl rfl rfl rfl)

theorem nakReceive_keeps {s0 : State} (l seq : Nat) (s : State) (hk : Keeps s0 s) : Keeps s0 (nakReceive l seq s) := by
  unfold nakReceive
  dsimp only
  iterate 24 try any_goals
    first
    | with_reducible assumption | with_reducible apply State.count_keeps | with_reducible apply State.record_keeps
    | with_reducible apply State.send_keeps | with_reducible apply State.putLink_keeps | with_reducible apply State.failLink_keeps
    | (with_reducible apply Keeps.foldl; intro _ _ _; try dsimp only) | split | (with_reducible refine Keeps.mkBoot ?_ rfl rfl rfl rfl)

theorem State.laneFails_keeps {s0 : State} (s : State) (l lane : Nat) (hk : Keeps s0 s) : Keeps s0 (State.laneFails s l lane) := by
  unfold State.laneFails
  dsimp only
  iterate 24 try any_goals
    first
    | with_reducible assumption | with_reducible apply State.putLink_keeps | with_reducible apply State.markLane_keeps
    | with_reducible apply State.failLink_keeps | split | (with_reducible refine Keeps.mkBoot ?_ rfl rfl rfl rfl)

theorem spareTrained_keeps {s0 : State} (l : Nat) (s : State) (hk : Keeps s0 s) : Keeps s0 (spareTrained l s) := by
  unfold spareTrained
  dsimp only
  iterate 24 try any_goals
    first
    | with_reducible assumption | with_reducible apply State.count_keeps | with_reducible apply State.record_keeps
    | with_reducible apply State.send_keeps | with_reducible apply State.putLink_keeps
    | (with_reducible apply Keeps.foldl; intro _ _ _; try dsimp only) | split | (with_reducible refine Keeps.mkBoot ?_ rfl rfl rfl rfl)

theorem laneTrim_keeps {s0 : State} (l lane : Nat) (done late : Bool) (s : State) (hk : Keeps s0 s) : Keeps s0 (laneTrim l lane done late s) := by
  unfold laneTrim
  dsimp only
  iterate 24 try any_goals
    first
    | with_reducible assumption | with_reducible apply State.count_keeps | with_reducible apply State.raiseBlockBit_keeps
    | with_reducible apply State.putLink_keeps | with_reducible apply State.sendHeld_keeps | split
    | (with_reducible refine Keeps.mkBoot ?_ rfl rfl rfl rfl)

theorem State.setUses_keeps {s0 : State} (s : State) (p : Nat) (hk : Keeps s0 s) : Keeps s0 (State.setUses s p) := by
  unfold State.setUses
  iterate 24 try any_goals
    first
    | with_reducible assumption | with_reducible apply State.putLink_keeps | (with_reducible apply Keeps.foldl; intro _ _ _; try dsimp only) | split
    | (with_reducible refine Keeps.mkBoot ?_ rfl rfl rfl rfl)

theorem linkTrained_keeps {s0 : State} (l far farLink : Nat) (s : State) (hk : Keeps s0 s) : Keeps s0 (linkTrained l far farLink s) := by
  unfold linkTrained
  dsimp only
  iterate 24 try any_goals
    first
    | with_reducible assumption | with_reducible apply State.putLink_keeps | with_reducible apply State.failLink_keeps
    | with_reducible apply State.setUses_keeps | split | (with_reducible refine Keeps.mkBoot ?_ rfl rfl rfl rfl)

theorem linkCtlFail_keeps {s0 : State} (l : Nat) (s : State) (hk : Keeps s0 s) : Keeps s0 (linkCtlFail l s) := by
  unfold linkCtlFail
  iterate 24 try any_goals
    first
    | with_reducible assumption | with_reducible apply State.badWrite_keeps | with_reducible apply State.failLink_keeps | split

theorem linkCtlRecal_keeps {s0 : State} (l : Nat) (s : State) (hk : Keeps s0 s) : Keeps s0 (linkCtlRecal l s) := by
  unfold linkCtlRecal
  dsimp only
  iterate 24 try any_goals
    first
    | with_reducible assumption | with_reducible apply State.badWrite_keeps | with_reducible apply State.putLink_keeps | split
    | (with_reducible refine Keeps.mkBoot ?_ rfl rfl rfl rfl)

theorem linkCtlEnable_keeps {s0 : State} (l : Nat) (on : Bool) (s : State) (hk : Keeps s0 s) : Keeps s0 (linkCtlEnable l on s) := by
  unfold linkCtlEnable
  dsimp only
  iterate 24 try any_goals
    first
    | with_reducible assumption | with_reducible apply State.putLink_keeps | with_reducible apply State.settleLink_keeps | split
    | (with_reducible refine Keeps.mkBoot ?_ rfl rfl rfl rfl)

theorem positionWrite_keeps {s0 : State} (v : Nat) (s : State) (hk : Keeps s0 s) : Keeps s0 (positionWrite v s) := by
  unfold positionWrite
  dsimp only
  iterate 24 try any_goals
    first
    | with_reducible assumption | with_reducible apply State.badWrite_keeps | with_reducible apply State.putLink_keeps
    | (with_reducible apply Keeps.foldl; intro _ _ _; try dsimp only) | split | (with_reducible refine Keeps.mkBoot ?_ rfl rfl rfl rfl)

theorem State.refusePeer_keeps {s0 : State} (s : State) (source a : Nat) (unmapped : Bool) (hk : Keeps s0 s) : Keeps s0 (State.refusePeer s source a unmapped) := by
  unfold State.refusePeer
  iterate 24 try any_goals
    first
    | with_reducible assumption | with_reducible apply State.count_keeps | with_reducible apply State.raiseBlockBit_keeps
    | with_reducible apply State.sendPeer_keeps | split

theorem State.raiseWord_keeps {s0 s : State} {a v : Nat} {t : State} (hk : Keeps s0 s) (e : State.raiseWord s a v = .ok t) : Keeps s0 t := by
  unfold State.raiseWord at e
  cases hb : s.readBytes a 8 with
  | error st => simp [hb, bind, Except.bind] at e
  | ok b =>
    simp only [hb, bind, Except.bind] at e
    exact State.writeBytes_keeps hk e

theorem State.takeIngress_keeps {s0 : State} (s : State) (w : PeerWrite) (hk : Keeps s0 s) : Keeps s0 (State.takeIngress s w).1 := by
  unfold State.takeIngress
  dsimp only
  split
  · exact Keeps.mkSame hk
  · exact hk

theorem peerWrite_keeps {s0 : State} (w : PeerWrite) (s : State) (hk : Keeps s0 s) : Keeps s0 (peerWrite w s) := by
  unfold peerWrite
  split
  · exact hk
  · have hx : Keeps s0 (s.takeIngress w).1 := State.takeIngress_keeps _ _ hk
    dsimp only
    split
    · exact State.refusePeer_keeps _ _ _ _ hx
    · split
      · exact State.refusePeer_keeps _ _ _ _ hx
      · split
        · exact State.sendPeer_keeps _ _ _ _ _ (State.sendPeer_keeps _ _ _ _ _ hx)
        · rename_i t e
          refine State.sendPeer_keeps _ _ _ _ _ (State.sendPeer_keeps _ _ _ _ _ ?_)
          revert e
          cases hw : (s.takeIngress w).1.writeBytes (s.takeIngress w).2.addr (s.takeIngress w).2.bytes with
          | error st => intro e; cases e
          | ok u =>
            intro e
            simp only [Except.bind] at e
            split at e
            · cases e; exact State.writeBytes_keeps hx hw
            · exact State.raiseWord_keeps (State.writeBytes_keeps hx hw) e

theorem peerRead_keeps {s0 : State} (source a len : Nat) (s : State) (hk : Keeps s0 s) : Keeps s0 (peerRead source a len s) := by
  unfold peerRead
  iterate 24 try any_goals
    first
    | with_reducible assumption | with_reducible apply State.sendPeer_keeps | with_reducible apply State.refusePeer_keeps | split
    | (with_reducible refine KeepsR.of ?_ (by assumption)) | (with_reducible refine Keeps.mkBoot ?_ rfl rfl rfl rfl)

theorem State.cellFails_keeps {s0 : State} (s : State) (y : Cell) (hk : Keeps s0 s) : Keeps s0 (State.cellFails s y) := by
  unfold State.cellFails
  iterate 24 try any_goals
    first
    | with_reducible assumption | with_reducible apply State.fenceCell_keeps | with_reducible apply State.laneFails_keeps | split

theorem State.blockFails_keeps {s0 : State} (s : State) (y : Block) (hk : Keeps s0 s) : Keeps s0 (State.blockFails s y) := by
  unfold State.blockFails
  iterate 24 try any_goals
    first
    | with_reducible assumption | with_reducible apply State.fenceBlock_keeps | with_reducible apply State.towerFound_keeps
    | with_reducible apply towerFailDetect_keeps | split

end Sys2Proof.Machine
end

