-- ==== Sys2Proof/Laws/KeepPageCtl.lean ====
section
/-! SUPPORT. What the functions of Machine/PageCtl.lean keep: waiting commands, part, fuses and the canonical form of memory. -/

namespace Sys2Proof.Machine

theorem State.badCtl_keeps {s0 : State} (s : State) (p : Nat) (hk : Keeps s0 s) : Keeps s0 (State.badCtl s p) := by
  unfold State.badCtl
  iterate 24 try any_goals
    first
    | with_reducible assumption | with_reducible apply State.badWrite_keeps | split

theorem State.stopWork_keeps {s0 : State} (s : State) (r : Nat) (hk : Keeps s0 s) : Keeps s0 (State.stopWork s r) := by
  unfold State.stopWork
  dsimp only
  iterate 24 try any_goals
    first
    | with_reducible assumption | with_reducible apply State.putRegion_keeps | with_reducible apply State.stopThreads_keeps | with_reducible apply State.expectFall_keeps | split
    | (with_reducible refine Keeps.mkBoot ?_ rfl rfl rfl rfl)

theorem State.drainRegion_keeps {s0 : State} (s : State) (r : Nat) (hk : Keeps s0 s) : Keeps s0 (State.drainRegion s r) := by
  unfold State.drainRegion
  iterate 24 try any_goals
    first
    | with_reducible assumption | with_reducible apply State.putRegion_keeps | with_reducible apply State.badCtl_keeps
    | with_reducible apply State.stopWork_keeps | split | (with_reducible refine Keeps.mkBoot ?_ rfl rfl rfl rfl)

theorem State.abortRegion_keeps {s0 : State} (s : State) (r : Nat) (hk : Keeps s0 s) : Keeps s0 (State.abortRegion s r) := by
  unfold State.abortRegion
  dsimp only
  iterate 24 try any_goals
    first
    | with_reducible assumption | with_reducible apply State.putRegion_keeps | with_reducible apply State.moveWork_keeps
    | with_reducible apply State.stopThreads_keeps | with_reducible apply State.badCtl_keeps | split
    | (with_reducible refine Keeps.mkBoot ?_ rfl rfl rfl rfl)

theorem State.drainTower_keeps {s0 : State} (s : State) (t : Nat) (hk : Keeps s0 s) : Keeps s0 (State.drainTower s t) := by
  unfold State.drainTower
  iterate 24 try any_goals
    first
    | with_reducible assumption | with_reducible apply State.putTower_keeps | with_reducible apply State.leaveTower_keeps
    | with_reducible apply State.badCtl_keeps | split | (with_reducible refine Keeps.mkBoot ?_ rfl rfl rfl rfl)

theorem State.putEngine_keeps {s0 : State} (s : State) (e : Nat) (x : CopyEngine) (hk : Keeps s0 s) : Keeps s0 (State.putEngine s e x) := by
  unfold State.putEngine
  iterate 24 try any_goals
    first
    | with_reducible assumption | split | (with_reducible refine Keeps.mkBoot ?_ rfl rfl rfl rfl)

theorem State.drainEngine_keeps {s0 : State} (s : State) (e : Nat) (hk : Keeps s0 s) : Keeps s0 (State.drainEngine s e) := by
  unfold State.drainEngine
  iterate 24 try any_goals
    first
    | with_reducible assumption | with_reducible apply State.badCtl_keeps | with_reducible apply State.putEngine_keeps | split
    | (with_reducible refine Keeps.mkBoot ?_ rfl rfl rfl rfl)

theorem State.drainLink_keeps {s0 : State} (s : State) (l : Nat) (hk : Keeps s0 s) : Keeps s0 (State.drainLink s l) := by
  unfold State.drainLink
  dsimp only
  iterate 24 try any_goals
    first
    | with_reducible assumption | with_reducible apply State.putLink_keeps | with_reducible apply State.resend_keeps
    | with_reducible apply State.badCtl_keeps | split | (with_reducible refine Keeps.mkBoot ?_ rfl rfl rfl rfl)

theorem State.drainFabric_keeps {s0 : State} (s : State) (hk : Keeps s0 s) : Keeps s0 (State.drainFabric s) := by
  unfold State.drainFabric
  iterate 24 try any_goals
    first
    | with_reducible assumption | with_reducible apply State.badCtl_keeps | split | (with_reducible refine Keeps.mkBoot ?_ rfl rfl rfl rfl)

theorem State.pageDrain_keeps {s0 : State} (s : State) (p : Nat) (hk : Keeps s0 s) : Keeps s0 (State.pageDrain s p) := by
  unfold State.pageDrain
  iterate 24 try any_goals
    first
    | with_reducible assumption | with_reducible apply State.badCtl_keeps | with_reducible apply State.drainRegion_keeps
    | with_reducible apply State.drainTower_keeps | with_reducible apply State.drainEngine_keeps | with_reducible apply State.drainLink_keeps
    | with_reducible apply State.drainFabric_keeps | split | (with_reducible refine Keeps.mkBoot ?_ rfl rfl rfl rfl)

theorem State.pageAbort_keeps {s0 : State} (s : State) (p : Nat) (hk : Keeps s0 s) : Keeps s0 (State.pageAbort s p) := by
  unfold State.pageAbort
  iterate 24 try any_goals
    first
    | with_reducible assumption | with_reducible apply State.abortRegion_keeps | with_reducible apply State.pageDrain_keeps | split
    | (with_reducible refine Keeps.mkBoot ?_ rfl rfl rfl rfl)

theorem State.pageEnable_keeps {s0 : State} (s : State) (p : Nat) (hk : Keeps s0 s) : Keeps s0 (State.pageEnable s p) := by
  unfold State.pageEnable
  iterate 24 try any_goals
    first
    | with_reducible assumption | with_reducible apply State.putLink_keeps | with_reducible apply State.putRegion_keeps
    | with_reducible apply State.putTower_keeps | with_reducible apply State.badCtl_keeps | with_reducible apply State.putEngine_keeps | split
    | (with_reducible refine Keeps.mkBoot ?_ rfl rfl rfl rfl)

theorem State.pageDrained_keeps {s0 : State} (s : State) (p : Nat) (hk : Keeps s0 s) : Keeps s0 (State.pageDrained s p) := by
  unfold State.pageDrained
  iterate 24 try any_goals
    first
    | with_reducible assumption | with_reducible apply State.putLink_keeps | with_reducible apply State.putRegion_keeps
    | with_reducible apply State.putTower_keeps | with_reducible apply State.putEngine_keeps | split
    | (with_reducible refine Keeps.mkBoot ?_ rfl rfl rfl rfl)

theorem State.pageAdmitDone_keeps {s0 : State} (s : State) (p : Nat) (hk : Keeps s0 s) : Keeps s0 (State.pageAdmitDone s p) := by
  unfold State.pageAdmitDone
  iterate 24 try any_goals
    first
    | with_reducible assumption | with_reducible apply State.putRegion_keeps | with_reducible apply State.putTower_keeps
    | with_reducible apply State.regionFault_keeps | with_reducible apply State.putEngine_keeps | split
    | (with_reducible refine Keeps.mkBoot ?_ rfl rfl rfl rfl)

theorem State.gateRegions_keeps {s0 : State} (s : State) (v : Nat) (hk : Keeps s0 s) : Keeps s0 (State.gateRegions s v) := by
  unfold State.gateRegions
  dsimp only
  iterate 24 try any_goals
    first
    | with_reducible assumption | with_reducible apply State.badWrite_keeps | with_reducible apply State.putRegion_keeps
    | with_reducible apply State.poisonSlice_keeps | (with_reducible apply Keeps.foldl; intro _ _ _; try dsimp only) | split
    | (with_reducible refine Keeps.mkBoot ?_ rfl rfl rfl rfl)

end Sys2Proof.Machine
end

