-- ==== Sys2Proof/Laws/KeepService.lean ====
section
/-! SUPPORT. What the functions of Machine/Service.lean keep: waiting commands, part, fuses and the canonical form of memory. -/

namespace Sys2Proof.Machine

theorem beginTest_keeps {s0 : State} (s : State) (c : Cmd) (hk : Keeps s0 s) : Keeps s0 (beginTest s c) := by
  unfold beginTest
  dsimp only
  iterate 24 try any_goals
    first
    | with_reducible assumption | with_reducible apply State.putLink_keeps | with_reducible apply State.putRegion_keeps
    | with_reducible apply State.putTower_keeps | with_reducible apply State.poisonSlice_keeps | with_reducible apply State.putEngine_keeps | split
    | (with_reducible refine Keeps.mkBoot ?_ rfl rfl rfl rfl)

theorem testStart_keeps {s0 : State} (q n op : Nat) (s : State) (hk : Keeps s0 s) : Keeps s0 (testStart q n op s) := by
  unfold testStart
  iterate 24 try any_goals
    first
    | with_reducible assumption | with_reducible apply State.putCmd_keeps | with_reducible apply beginTest_keeps | split
    | (with_reducible refine Keeps.mkBoot ?_ rfl rfl rfl rfl)

theorem leaveTest_keeps {s0 : State} (s : State) (c : Cmd) (k : TestKind) (hk : Keeps s0 s) : Keeps s0 (leaveTest s c k) := by
  unfold leaveTest
  dsimp only
  iterate 24 try any_goals
    first
    | with_reducible assumption | with_reducible apply State.putLink_keeps | with_reducible apply State.putRegion_keeps
    | with_reducible apply State.putTower_keeps | with_reducible apply State.putEngine_keeps | split
    | (with_reducible refine Keeps.mkBoot ?_ rfl rfl rfl rfl)

theorem fenceFound_keeps {s0 : State} (s : State) (k : TestKind) (t : Nat) (cells : List Cell) (blocks : List Block) (hk : Keeps s0 s) :
    Keeps s0 (fenceFound s k t cells blocks) :=
  Keeps.foldl (fun u x hu => State.blockFails_keeps u x hu) (Keeps.foldl (fun u x hu => State.cellFails_keeps u x hu) hk)

theorem testEnd_keeps {s0 : State} (q n : Nat) (cells : List Cell) (blocks : List Block) (duration : Nat) (s : State) (hk : Keeps s0 s) : Keeps s0 (testEnd q n cells blocks duration s) := by
  unfold testEnd
  dsimp only
  iterate 24 try any_goals
    first
    | with_reducible assumption | with_reducible apply State.putCmd_keeps | with_reducible apply State.endCmd_keeps
    | with_reducible apply writeReport_keeps | with_reducible apply leaveTest_keeps | with_reducible apply fenceFound_keeps | split
    | (with_reducible refine KeepsR.of ?_ (by assumption)) | (with_reducible refine Keeps.mkBoot ?_ rfl rfl rfl rfl)

theorem serviceOp_keeps  : OpKeeps (serviceOp ) := by
  refine ⟨fun s0 s c k hk => ?_, fun s0 s c hk => ?_, fun s0 s c st hk => ?_, fun s0 s c st hk => ?_⟩ <;> dsimp only [serviceOp]
  all_goals (iterate 8 try any_goals (first | with_reducible assumption | with_reducible exact KeepsR.error | with_reducible apply KeepsR.ok | with_reducible apply State.blameAt_keeps | with_reducible apply writeReport_keeps | with_reducible apply finishOk_keeps | split))

end Sys2Proof.Machine
end

