-- ==== Sys2Proof/Laws/KeepWhitepoint.lean ====
section
/-! SUPPORT. What the functions of Machine/Whitepoint.lean keep: waiting commands, part, fuses and the canonical form of memory. -/

namespace Sys2Proof.Machine

theorem wpEnd_keeps {s0 : State} (s : State) (c : Cmd) (st : Status) (report : Bytes) (hk : Keeps s0 s) : Keeps s0 (wpEnd s c st report) := by
  unfold wpEnd
  iterate 24 try any_goals
    first
    | with_reducible assumption | with_reducible apply State.endCmd_keeps | with_reducible apply writeReport_keeps | split
    | (with_reducible refine KeepsR.of ?_ (by assumption)) | (with_reducible refine Keeps.mkBoot ?_ rfl rfl rfl rfl)

theorem jobStop_keeps {s0 : State} (s : State) (q : Nat) (hk : Keeps s0 s) : Keeps s0 (jobStop s q) := by
  unfold jobStop
  dsimp only
  iterate 24 try any_goals
    first
    | with_reducible assumption | with_reducible apply State.abortQueue_keeps | (with_reducible apply Keeps.foldl; intro _ _ _; try dsimp only)
    | split | (with_reducible refine Keeps.mkBoot ?_ rfl rfl rfl rfl)

theorem State.wpClose_keeps {s0 : State} (s : State) (hk : Keeps s0 s) : Keeps s0 (State.wpClose s) := by
  unfold State.wpClose
  iterate 24 try any_goals
    first
    | with_reducible assumption | with_reducible apply Op.stop_keeps | split | (with_reducible refine Keeps.mkBoot ?_ rfl rfl rfl rfl)

theorem wpLeave_keeps {s0 : State} (s : State) (c : Cmd) (st : Status) (hk : Keeps s0 s) : Keeps s0 (wpLeave s c st).1 := by
  unfold wpLeave
  dsimp only
  iterate 24 try any_goals
    first
    | with_reducible assumption | with_reducible apply Op.stop_keeps | with_reducible apply leaveReport_keeps
    | with_reducible apply State.wpClose_keeps | split | (with_reducible refine Keeps.mkBoot ?_ rfl rfl rfl rfl)

theorem whitepointOp_keeps  : OpKeeps (whitepointOp ) := by
  refine ⟨fun s0 s c k hk => ?_, fun s0 s c hk => ?_, fun s0 s c st hk => ?_, fun s0 s c st hk => ?_⟩ <;> dsimp only [whitepointOp]
  all_goals (iterate 8 try any_goals (first | with_reducible assumption | with_reducible exact KeepsR.error | with_reducible apply KeepsR.ok | with_reducible apply State.blameAt_keeps | with_reducible apply finishOk_keeps | with_reducible apply wpLeave_keeps | split))

theorem takeEnd_keeps {s0 : State} (s : State) (c : Cmd) (st : Status) (diff : Option Nat) (hk : Keeps s0 s) : Keeps s0 (takeEnd s c st diff) := by
  unfold takeEnd
  iterate 24 try any_goals
    first
    | with_reducible assumption | with_reducible apply Op.stop_keeps | with_reducible apply wpEnd_keeps | with_reducible apply State.wpClose_keeps
    | split

theorem wpMark_keeps {s0 : State} (s : State) (c : Cmd) (stop : Nat) (ls : List (Nat × Nat)) (vs : List Nat) (hk : Keeps s0 s) : Keeps s0 (wpMark s c stop ls vs) := by
  unfold wpMark
  dsimp only
  iterate 24 try any_goals
    first
    | with_reducible assumption | with_reducible apply State.flushParity_keeps | with_reducible apply Op.stop_keeps
    | with_reducible apply State.sendTwin_keeps | with_reducible apply writeRec_keeps | split | (with_reducible refine Keeps.mkBoot ?_ rfl rfl rfl rfl)

theorem whitepointTake_keeps {s0 : State} (q n stop : Nat) (s : State) (hk : Keeps s0 s) : Keeps s0 (whitepointTake q n stop s) := by
  unfold whitepointTake
  iterate 24 try any_goals
    first
    | with_reducible assumption | with_reducible apply State.putCmd_keeps | with_reducible apply Op.stop_keeps | with_reducible apply wpEnd_keeps
    | with_reducible apply wpMark_keeps | split | (with_reducible refine KeepsR.of ?_ (by assumption))
    | (with_reducible refine Keeps.mkBoot ?_ rfl rfl rfl rfl)

theorem wpFinal_keeps {s0 : State} (s : State) (c : Cmd) (hk : Keeps s0 s) : Keeps s0 (wpFinal s c) := by
  unfold wpFinal
  dsimp only
  iterate 24 try any_goals
    first
    | with_reducible assumption | with_reducible apply commitWrites_keeps | with_reducible apply takeEnd_keeps | split
    | (with_reducible refine KeepsR.of ?_ (by assumption)) | (with_reducible refine Keeps.mkBoot ?_ rfl rfl rfl rfl)

theorem State.countDigest_keeps {s0 : State} (s : State) (b : Nat) (hk : Keeps s0 s) : Keeps s0 (State.countDigest s b) := by
  unfold State.countDigest
  iterate 24 try any_goals
    first
    | with_reducible assumption | with_reducible apply State.count_keeps | split

theorem wpStreamNext_keeps {s0 : State} (s : State) (c : Cmd) (b : WpBlock) (rest : List WpBlock) (cycles : Nat) (hk : Keeps s0 s) : KeepsR s0 (wpStreamNext s c b rest cycles) := by
  unfold wpStreamNext
  dsimp only
  iterate 24 try any_goals
    first
    | with_reducible assumption | with_reducible exact KeepsR.error | with_reducible apply KeepsR.ok | with_reducible apply commitWrites_keeps
    | with_reducible apply State.countDigest_keeps | (with_reducible refine KeepsR.map ?_ (fun p hp => ?_))
    | (with_reducible refine KeepsR.bind ?_ (fun p hp => ?_)) | (with_reducible refine KeepsR.bindV (fun a => ?_)) | split
    | (with_reducible refine KeepsR.of ?_ (by assumption)) | (with_reducible refine Keeps.mkBoot ?_ rfl rfl rfl rfl)

theorem wpBlockStream_keeps {s0 : State} (q n cycles : Nat) (s : State) (hk : Keeps s0 s) : Keeps s0 (wpBlockStream q n cycles s) := by
  unfold wpBlockStream
  dsimp only
  iterate 24 try any_goals
    first
    | with_reducible assumption | with_reducible apply State.putCmd_keeps | with_reducible apply State.sendTwin_keeps
    | with_reducible apply takeEnd_keeps | with_reducible apply wpFinal_keeps | with_reducible apply wpStreamNext_keeps | split
    | (with_reducible refine KeepsR.of ?_ (by assumption)) | (with_reducible refine Keeps.mkBoot ?_ rfl rfl rfl rfl)

theorem wpDigestReceive_keeps {s0 : State} (q n : Nat) (versions : List Nat) (digests : List (Nat × Word)) (s : State) (hk : Keeps s0 s) : Keeps s0 (wpDigestReceive q n versions digests s) := by
  unfold wpDigestReceive
  dsimp only
  iterate 24 try any_goals
    first
    | with_reducible assumption | with_reducible apply jobStop_keeps | with_reducible apply takeEnd_keeps | with_reducible apply wpFinal_keeps | split
    | (with_reducible refine Keeps.mkBoot ?_ rfl rfl rfl rfl)

theorem verifyEnd_keeps {s0 : State} (s : State) (c : Cmd) (v : WpVerdict) (hk : Keeps s0 s) : Keeps s0 (verifyEnd s c v) := by
  unfold verifyEnd
  dsimp only
  iterate 24 try any_goals
    first
    | with_reducible assumption | with_reducible apply State.count_keeps | with_reducible apply wpEnd_keeps | with_reducible apply jobStop_keeps
    | split | (with_reducible refine KeepsR.of ?_ (by assumption))

theorem whitepointVerify_keeps {s0 : State} (q n : Nat) (live : List (Nat × Word)) (s : State) (hk : Keeps s0 s) : Keeps s0 (whitepointVerify q n live s) := by
  unfold whitepointVerify
  dsimp only
  iterate 24 try any_goals
    first
    | with_reducible assumption | with_reducible apply wpEnd_keeps | with_reducible apply verifyEnd_keeps | split
    | (with_reducible refine KeepsR.of ?_ (by assumption)) | (with_reducible refine Keeps.mkBoot ?_ rfl rfl rfl rfl)

end Sys2Proof.Machine
end

