-- ==== Sys2Proof/Laws/KeepQueue.lean ====
section
/-! SUPPORT. What the functions of Machine/Queue.lean keep: waiting commands, part, fuses and the canonical form of memory. -/

namespace Sys2Proof.Machine

theorem syncReg_keeps {code : Nat} {r : Reg} (e : syncReg code = some r) : RegKeeps r := by
  unfold syncReg at e
  split at e <;> cases e
  · exact RegKeeps.plain fenceOp_keeps _
  · exact RegKeeps.plain signalOp_keeps _
  · exact RegKeeps.plain waitOp_keeps _
  · exact RegKeeps.plain whitepointOp_keeps _
  · exact RegKeeps.plain serviceOp_keeps _

theorem streamReg_keeps {code : Nat} {r : Reg} (e : streamReg code = some r) : RegKeeps r := by
  unfold streamReg at e
  split at e
  · cases e; exact ⟨streamOp_keeps, fun _ _ _ hk => streamStart_keeps _ _ hk⟩
  · split at e
    · cases e; exact RegKeeps.plain hqOp_keeps _
    · cases e

theorem regOf_keeps {c : Cmd} {r : Reg} (e : regOf c = some r) : RegKeeps r := by
  unfold regOf at e
  rcases Option.or_eq_some_iff.mp e with h | ⟨_, h⟩
  · rcases Option.or_eq_some_iff.mp h with h | ⟨_, h⟩
    · exact runReg_keeps h
    · exact trainReg_keeps h
  · rcases Option.or_eq_some_iff.mp h with h | ⟨_, h⟩
    · exact compressReg_keeps h
    · rcases Option.or_eq_some_iff.mp h with h | ⟨_, h⟩
      · exact collReg_keeps h
      · rcases Option.or_eq_some_iff.mp h with h | ⟨_, h⟩
        · exact streamReg_keeps h
        · exact syncReg_keeps h

theorem State.refuseDoorbell_keeps {s0 : State} (s : State) (q reason : Nat) (hk : Keeps s0 s) : Keeps s0 (State.refuseDoorbell s q reason) := by
  unfold State.refuseDoorbell
  iterate 24 try any_goals
    first
    | with_reducible assumption | with_reducible apply State.count_keeps | with_reducible apply State.raiseBlockBit_keeps | split
    | (with_reducible refine Keeps.mkBoot ?_ rfl rfl rfl rfl)

theorem State.tookDoorbell_keeps {s0 : State} (s : State) (q : Nat) (x : QueueCtx) (hk : Keeps s0 s) : Keeps s0 (State.tookDoorbell s q x) := by
  unfold State.tookDoorbell
  iterate 24 try any_goals
    first
    | with_reducible assumption | with_reducible apply State.count_keeps | with_reducible apply State.putQueue_keeps | split

theorem doorbellTail_keeps {s0 : State} (offset size : Nat) (value : BitVec 32) (reserved : BitVec 13) (queue : BitVec 18) (s : State) (hk : Keeps s0 s) : Keeps s0 (doorbellTail offset size value reserved queue s) := by
  unfold doorbellTail
  dsimp only
  iterate 24 try any_goals
    first
    | with_reducible assumption | with_reducible apply State.refuseDoorbell_keeps | with_reducible apply State.tookDoorbell_keeps | split
    | (with_reducible refine Keeps.mkBoot ?_ rfl rfl rfl rfl)

theorem State.dropConsumed_keeps {s0 : State} (s : State) (q t : Nat) (hk : Keeps s0 s) : Keeps s0 (State.dropConsumed s q t) := by
  unfold State.dropConsumed
  iterate 24 try any_goals
    first
    | with_reducible assumption | split | (with_reducible refine Keeps.mkBoot ?_ rfl rfl rfl rfl)

theorem doorbellConsumed_keeps {s0 : State} (offset size : Nat) (value : BitVec 32) (reserved : BitVec 13) (queue : BitVec 18) (s : State) (hk : Keeps s0 s) : Keeps s0 (doorbellConsumed offset size value reserved queue s) := by
  unfold doorbellConsumed
  dsimp only
  iterate 24 try any_goals
    first
    | with_reducible assumption | with_reducible apply State.releaseHeld_keeps | with_reducible apply State.settleReplay_keeps
    | with_reducible apply State.refuseDoorbell_keeps | with_reducible apply State.tookDoorbell_keeps | with_reducible apply State.dropConsumed_keeps
    | split | (with_reducible refine Keeps.mkBoot ?_ rfl rfl rfl rfl)

theorem descFetch_keeps {s0 : State} (s : State) (hk : Keeps s0 s) : Keeps s0 (descFetch s) := by
  unfold descFetch
  dsimp only
  iterate 24 try any_goals
    first
    | with_reducible assumption | split | (with_reducible refine Keeps.mkBoot ?_ rfl rfl rfl rfl)

theorem fetchBytes_keeps {s0 : State} (s : State) (q n : Nat) (read : FetchRead) (hk : Keeps s0 s) : Keeps s0 (fetchBytes s q n read).1 := by
  unfold fetchBytes
  dsimp only
  split
  · split
    · exact hk
    · split
      · exact hk
      · exact State.pokeBytes_keeps _ _ _ hk
      · exact hk
      · exact State.count_keeps _ _ _ _ hk
  · exact hk

theorem State.settlePark_keeps {s0 : State} (s : State) (q : Nat) (hk : Keeps s0 s) : Keeps s0 (State.settlePark s q) := by
  unfold State.settlePark
  dsimp only
  iterate 24 try any_goals
    first
    | with_reducible assumption | with_reducible apply State.count_keeps | with_reducible apply State.putQueue_keeps | split
    | (with_reducible refine Keeps.mkBoot ?_ rfl rfl rfl rfl)

theorem State.staleFetch_keeps {s0 : State} (s : State) (q n : Nat) (hk : Keeps s0 s) : Keeps s0 (State.staleFetch s q n) := by
  unfold State.staleFetch
  dsimp only
  iterate 24 try any_goals
    first
    | with_reducible assumption | with_reducible apply State.putQueue_keeps | with_reducible apply State.settleQueue_keeps
    | with_reducible apply State.settlePark_keeps | split | (with_reducible refine Keeps.mkBoot ?_ rfl rfl rfl rfl)

theorem descFetchReturn_keeps {s0 : State} (q : Nat) (read : FetchRead) (s : State) (hk : Keeps s0 s) : Keeps s0 (descFetchReturn q read s) := by
  unfold descFetchReturn
  dsimp only
  split
  · exact hk
  · split
    · exact hk
    · next f _ =>
      have hf : Keeps s0 (fetchBytes { s with fetches := s.fetches.erase f } q f.n read).1 := fetchBytes_keeps _ _ _ _ (Keeps.mkSame hk)
      split
      · next t e => rw [e] at hf; exact State.staleFetch_keeps _ _ _ hf
      · next t d e =>
        rw [e] at hf
        split
        · exact Keeps.mkSame (State.putQueue_keeps _ _ _ hf)
        · exact State.staleFetch_keeps _ _ _ hf

theorem descRefetch_keeps {s0 : State} (q : Nat) (s : State) (hk : Keeps s0 s) : Keeps s0 (descRefetch q s) := by
  unfold descRefetch
  dsimp only
  iterate 24 try any_goals
    first
    | with_reducible assumption | with_reducible apply State.count_keeps | with_reducible apply State.putQueue_keeps | split
    | (with_reducible refine Keeps.mkBoot ?_ rfl rfl rfl rfl)

theorem State.finishAccept_keeps {s0 : State} (s : State) (q n : Nat) (hk : Keeps s0 s) : Keeps s0 (State.finishAccept s q n) := by
  unfold State.finishAccept
  dsimp only
  iterate 24 try any_goals
    first
    | with_reducible assumption | with_reducible apply State.count_keeps | with_reducible apply State.putCmd_keeps
    | with_reducible apply State.putQueue_keeps | with_reducible apply State.settleQueue_keeps | with_reducible apply State.settlePark_keeps | split
    | (with_reducible refine Keeps.mkBoot ?_ rfl rfl rfl rfl)

theorem commandAccept_keeps {s0 : State} (q : Nat) (s : State) (hk : Keeps s0 s) : Keeps s0 (commandAccept q s) := by
  unfold commandAccept
  have hm := State.makeRoom_keeps s.roomNeeded s.jnl.live.length s hk
  split
  · exact hk
  · split
    · exact hk
    · split
      · exact hk
      · generalize State.makeRoom s.roomNeeded s.jnl.live.length s = u at hm
        dsimp only
        split
        · exact hm
        · next r _ _ _ =>
          have ha := State.appendRec_keeps u .accept q r.n r.desc 0 .ok hm
          generalize u.appendRec .accept q r.n r.desc 0 .ok = v at ha
          split
          · exact Keeps.mkSame ha
          · exact State.finishAccept_keeps _ _ _ (Keeps.mkSame ha)

theorem State.noteRise_keeps {s0 : State} (s : State) (rise : Nat) (hk : Keeps s0 s) : Keeps s0 (State.noteRise s rise) := by
  unfold State.noteRise
  refine State.expectRise_keeps _ _ (Keeps.mkBoot ?_ rfl rfl rfl rfl)
  exact hk

theorem State.noteFall_keeps {s0 : State} (s : State) (fall : Nat) (hk : Keeps s0 s) : Keeps s0 (State.noteFall s fall) := by
  unfold State.noteFall
  refine State.expectFall_keeps _ _ (Keeps.mkBoot ?_ rfl rfl rfl rfl)
  exact hk

theorem State.enter_keeps {s0 : State} (s : State) (c : Cmd) (places : List Nat × List Nat) (rise : Nat) (hk : Keeps s0 s) : Keeps s0 (State.enter s c places rise) := by
  unfold State.enter
  dsimp only
  iterate 24 try any_goals
    first
    | with_reducible assumption | with_reducible apply State.count_keeps | with_reducible apply State.putTower_keeps
    | with_reducible apply State.noteRise_keeps | (with_reducible apply Keeps.foldl; intro _ _ _; try dsimp only) | split
    | (with_reducible refine Keeps.mkBoot ?_ rfl rfl rfl rfl)

theorem dispatchChecked_keeps {s0 : State} (s : State) (c : Cmd) {r : Reg} (hr : RegKeeps r) (region : Option (Fin 8)) (rise : Nat) (hk : Keeps s0 s) :
    Keeps s0 (dispatchChecked s c r region rise) := by
  have hr' : ∀ d, RegKeeps ((regOf d).getD r) := by
    intro d
    cases h : regOf d with
    | none => exact hr
    | some r' => exact regOf_keeps h
  unfold dispatchChecked
  split
  · exact Op.endAtStart_keeps (hr' _).op _ _ _ hk
  · next c' _ =>
    dsimp only
    split
    · exact hk
    · have hs := (hr' c').start s0 s c' hk
      split
      · exact hk
      · next e => rw [e] at hs; exact Op.endAtStart_keeps (hr' _).op _ _ _ hs
      · next e => rw [e] at hs; exact State.endUnreached_keeps _ _ _ (State.enter_keeps _ _ _ _ hs)

theorem commandDispatch_keeps {s0 : State} (q n : Nat) (region : Option (Fin 8)) (rise : Nat) (s : State) (hk : Keeps s0 s) :
    Keeps s0 (commandDispatch q n region rise s) := by
  unfold commandDispatch
  repeat' split
  all_goals first | exact hk | exact State.putCmd_keeps _ _ hk | exact dispatchChecked_keeps _ _ (regOf_keeps ‹_›) _ _ hk

theorem commitPoint_keeps {s0 : State} (q n : Nat) (s : State) (hk : Keeps s0 s) : Keeps s0 (commitPoint q n s) := by
  unfold commitPoint
  iterate 24 try any_goals
    first
    | with_reducible assumption | with_reducible apply State.putCmd_keeps | with_reducible apply State.mirror_keeps | split
    | (with_reducible refine Keeps.mkBoot ?_ rfl rfl rfl rfl)

theorem State.giveBack_keeps {s0 : State} (s : State) (c : Cmd) (hk : Keeps s0 s) : Keeps s0 (State.giveBack s c) := by
  unfold State.giveBack
  dsimp only
  iterate 24 try any_goals
    first
    | with_reducible assumption | with_reducible apply State.putCmd_keeps | with_reducible apply stackDone_keeps
    | with_reducible apply State.releasePages_keeps | with_reducible apply numberDone_keeps | with_reducible apply State.dropThread_keeps
    | with_reducible apply State.vacate_keeps | with_reducible apply State.noteFall_keeps | split
    | (with_reducible refine Keeps.mkBoot ?_ rfl rfl rfl rfl)

theorem commandComplete_keeps {s0 : State} (q n : Nat) (s : State) (hk : Keeps s0 s) : Keeps s0 (commandComplete q n s) := by
  unfold commandComplete
  dsimp only
  iterate 24 try any_goals
    first
    | with_reducible assumption | with_reducible apply State.putCmd_keeps | with_reducible apply State.appendRec_keeps
    | with_reducible apply State.giveBack_keeps | split | (with_reducible refine Keeps.mkBoot ?_ rfl rfl rfl rfl)

theorem State.splitLost_keeps {s0 : State} (s : State) (g : Nat) (hk : Keeps s0 s) : Keeps s0 (State.splitLost s g) := by
  unfold State.splitLost
  dsimp only
  iterate 24 try any_goals
    first
    | with_reducible assumption | with_reducible apply State.withMem_keeps | with_reducible apply State.listPoison_keeps
    | (with_reducible apply Keeps.foldl; intro _ _ _; try dsimp only) | split | (with_reducible refine Keeps.mkBoot ?_ rfl rfl rfl rfl)
    | (with_reducible refine Keeps.mkMem ?_ (fun w => ?_)) | with_reducible apply Mem.setCell_wf | with_reducible apply Mem.closeBytes_wf
    | with_reducible apply Mem.addOpen_wf | with_reducible apply Mem.markLost_wf | with_reducible apply Mem.markIvory_wf
    | with_reducible apply Mem.markSlice_wf | with_reducible apply Mem.markUmber_wf | with_reducible apply Mem.setGranule_wf
    | with_reducible apply Mem.slateOnly_wf | with_reducible apply Mem.parity_wf | intro w

theorem State.storeRecord_keeps {s0 : State} (s : State) (q n : Nat) (rec' : Bytes) (hk : Keeps s0 s) : Keeps s0 (State.storeRecord s q n rec') := by
  unfold State.storeRecord
  dsimp only
  iterate 24 try any_goals
    first
    | with_reducible assumption | with_reducible apply State.record_keeps | with_reducible apply State.recomputeFirst_keeps
    | with_reducible apply State.storeBytes_keeps | with_reducible apply State.splitLost_keeps | split

theorem completionRecordWrite_keeps {s0 : State} (q : Nat) (s : State) (hk : Keeps s0 s) : Keeps s0 (completionRecordWrite q s) := by
  unfold completionRecordWrite
  dsimp only
  iterate 24 try any_goals
    first
    | with_reducible assumption | with_reducible apply State.count_keeps | with_reducible apply State.record_keeps
    | with_reducible apply State.send_keeps | with_reducible apply State.dropCmd_keeps | with_reducible apply State.putQueue_keeps
    | with_reducible apply State.freeRecords_keeps | with_reducible apply State.settleQueue_keeps | with_reducible apply State.releaseHeld_keeps
    | with_reducible apply State.settleReplay_keeps | with_reducible apply State.storeRecord_keeps | split
    | (with_reducible refine Keeps.mkBoot ?_ rfl rfl rfl rfl)

theorem consumedRecordWrite_keeps {s0 : State} (q : Nat) (s : State) (hk : Keeps s0 s) : Keeps s0 (consumedRecordWrite q s) := by
  unfold consumedRecordWrite
  iterate 24 try any_goals
    first
    | with_reducible assumption | with_reducible apply State.appendRec_keeps | with_reducible apply State.payOwed_keeps | split
    | (with_reducible refine KeepsR.of ?_ (by assumption)) | (with_reducible refine Keeps.mkBoot ?_ rfl rfl rfl rfl)

theorem State.badQcmd_keeps {s0 : State} (s : State) (hk : Keeps s0 s) : Keeps s0 (State.badQcmd s) := by
  unfold State.badQcmd
  iterate 24 try any_goals
    first
    | with_reducible assumption | with_reducible apply State.badWrite_keeps | split

theorem queueEnable_keeps {s0 : State} (path : Path) (s : State) (hk : Keeps s0 s) : Keeps s0 (queueEnable path s) := by
  unfold queueEnable
  dsimp only
  iterate 24 try any_goals
    first
    | with_reducible assumption | with_reducible apply State.putQueue_keeps | with_reducible apply State.writeContext_keeps
    | with_reducible apply State.badQcmd_keeps | split | (with_reducible refine Keeps.mkBoot ?_ rfl rfl rfl rfl)

theorem queueDisable_keeps {s0 : State} (path : Path) (s : State) (hk : Keeps s0 s) : Keeps s0 (queueDisable path s) := by
  unfold queueDisable
  dsimp only
  iterate 24 try any_goals
    first
    | with_reducible assumption | with_reducible apply State.putQueue_keeps | with_reducible apply State.settleQueue_keeps
    | with_reducible apply State.badQcmd_keeps | split | (with_reducible refine Keeps.mkBoot ?_ rfl rfl rfl rfl)

theorem queueAbort_keeps {s0 : State} (path : Path) (s : State) (hk : Keeps s0 s) : Keeps s0 (queueAbort path s) := by
  unfold queueAbort
  dsimp only
  iterate 24 try any_goals
    first
    | with_reducible assumption | with_reducible apply State.abortQueue_keeps | with_reducible apply State.badQcmd_keeps | split

theorem qctxDataWrite_keeps {s0 : State} (path : Path) (v : Nat) (s : State) (hk : Keeps s0 s) : Keeps s0 (qctxDataWrite path v s) := by
  unfold qctxDataWrite
  dsimp only
  iterate 24 try any_goals
    first
    | with_reducible assumption | with_reducible apply State.modPage_keeps | with_reducible apply State.putQueue_keeps | split

end Sys2Proof.Machine
end

