-- ==== Sys2Proof/Laws/KeepReplay.lean ====
section
/-! SUPPORT. What the functions of Machine/Replay.lean keep: waiting commands, part, fuses and the canonical form of memory. -/

namespace Sys2Proof.Machine

theorem State.breakJournal_keeps {s0 : State} (s : State) (f : JFinding) (hk : Keeps s0 s) : Keeps s0 (State.breakJournal s f) := by
  unfold State.breakJournal
  iterate 24 try any_goals
    first
    | with_reducible assumption | with_reducible apply State.count_keeps | with_reducible apply State.raiseBlockBit_keeps | split
    | (with_reducible refine Keeps.mkBoot ?_ rfl rfl rfl rfl)

theorem State.rebuild_keeps {s0 : State} (s : State) (h : Header) (rs : List ScanRec) (hk : Keeps s0 s) : Keeps s0 (State.rebuild s h rs) := by
  unfold State.rebuild
  dsimp only
  iterate 24 try any_goals
    first
    | with_reducible assumption | with_reducible apply writeRec_keeps | with_reducible apply State.freeRecords_keeps
    | (with_reducible apply Keeps.foldl; intro _ _ _; try dsimp only) | split | (with_reducible refine Keeps.mkBoot ?_ rfl rfl rfl rfl)

theorem State.freshJournal_keeps {s0 : State} (s : State) (hk : Keeps s0 s) : Keeps s0 (State.freshJournal s) := by
  unfold State.freshJournal
  dsimp only
  iterate 24 try any_goals
    first
    | with_reducible assumption | with_reducible apply writeRec_keeps | with_reducible apply State.writeHeader_keeps
    | with_reducible apply State.rebuild_keeps | split | (with_reducible refine Keeps.mkBoot ?_ rfl rfl rfl rfl)

theorem journalScan_keeps {s0 : State} (s : State) (hk : Keeps s0 s) : Keeps s0 (journalScan s) := by
  unfold journalScan
  iterate 24 try any_goals
    first
    | with_reducible assumption | with_reducible apply State.breakJournal_keeps | with_reducible apply State.rebuild_keeps
    | with_reducible apply State.freshJournal_keeps | split | (with_reducible refine Keeps.mkBoot ?_ rfl rfl rfl rfl)

theorem replayGo_keeps {s0 : State} (s : State) (hk : Keeps s0 s) : Keeps s0 (replayGo s) := by
  unfold replayGo
  dsimp only
  iterate 24 try any_goals
    first
    | with_reducible assumption | with_reducible apply State.badWrite_keeps | with_reducible apply State.payOwed_keeps
    | with_reducible apply State.releaseHeld_keeps | with_reducible apply State.settleReplay_keeps
    | (with_reducible apply Keeps.foldl; intro _ _ _; try dsimp only) | split | (with_reducible refine Keeps.mkBoot ?_ rfl rfl rfl rfl)

theorem State.fenceData_keeps {s0 : State} (s : State) (f : FenceRead) (n : Nat) (hk : Keeps s0 s) : Keeps s0 (State.fenceData s f n) := by
  unfold State.fenceData
  iterate 24 try any_goals
    first
    | with_reducible assumption | with_reducible apply State.send_keeps | split

theorem State.serveLinkFence_keeps {s0 : State} (s : State) (f : FenceRead) (hk : Keeps s0 s) : Keeps s0 (State.serveLinkFence s f) := by
  unfold State.serveLinkFence
  iterate 24 try any_goals
    first
    | with_reducible assumption | with_reducible apply State.fenceData_keeps | split | (with_reducible refine Keeps.mkBoot ?_ rfl rfl rfl rfl)

theorem State.settleLinkFences_keeps {s0 : State} (s : State) (hk : Keeps s0 s) : Keeps s0 (State.settleLinkFences s) := by
  unfold State.settleLinkFences
  iterate 24 try any_goals
    first
    | with_reducible assumption | with_reducible apply State.serveLinkFence_keeps | (with_reducible apply Keeps.foldl; intro _ _ _; try dsimp only)
    | split | (with_reducible refine Keeps.mkBoot ?_ rfl rfl rfl rfl)

theorem pathFenceLink_keeps {s0 : State} (offset len : Nat) (s : State) (hk : Keeps s0 s) : Keeps s0 (pathFenceLink offset len s) := by
  unfold pathFenceLink
  dsimp only
  iterate 24 try any_goals
    first
    | with_reducible assumption | with_reducible apply State.settleLinkFences_keeps | split | (with_reducible refine Keeps.mkBoot ?_ rfl rfl rfl rfl)

theorem pathFenceWindow_keeps {s0 : State} (offset len : Nat) (s : State) (hk : Keeps s0 s) : Keeps s0 (pathFenceWindow offset len s) := by
  unfold pathFenceWindow
  iterate 24 try any_goals
    first
    | with_reducible assumption | with_reducible apply State.fenceData_keeps | split | (with_reducible refine Keeps.mkBoot ?_ rfl rfl rfl rfl)

theorem State.servePeerFence_keeps {s0 : State} (s : State) (f : FenceRead) (hk : Keeps s0 s) : Keeps s0 (State.servePeerFence s f) := by
  unfold State.servePeerFence
  iterate 24 try any_goals
    first
    | with_reducible assumption | with_reducible apply State.fenceData_keeps | split | (with_reducible refine Keeps.mkBoot ?_ rfl rfl rfl rfl)

theorem State.settlePeerFences_keeps {s0 : State} (s : State) (hk : Keeps s0 s) : Keeps s0 (State.settlePeerFences s) := by
  unfold State.settlePeerFences
  iterate 24 try any_goals
    first
    | with_reducible assumption | with_reducible apply State.servePeerFence_keeps | (with_reducible apply Keeps.foldl; intro _ _ _; try dsimp only)
    | split | (with_reducible refine Keeps.mkBoot ?_ rfl rfl rfl rfl)

theorem pathFencePeer_keeps {s0 : State} (offset len : Nat) (s : State) (hk : Keeps s0 s) : Keeps s0 (pathFencePeer offset len s) := by
  unfold pathFencePeer
  iterate 24 try any_goals
    first
    | with_reducible assumption | with_reducible apply State.settlePeerFences_keeps | split | (with_reducible refine Keeps.mkBoot ?_ rfl rfl rfl rfl)

theorem peerFenceTimeout_keeps {s0 : State} (s : State) (hk : Keeps s0 s) : Keeps s0 (peerFenceTimeout s) := by
  unfold peerFenceTimeout
  iterate 24 try any_goals
    first
    | with_reducible assumption | with_reducible apply State.raiseBlockBit_keeps | with_reducible apply State.servePeerFence_keeps | split
    | (with_reducible refine Keeps.mkBoot ?_ rfl rfl rfl rfl)

theorem visibilityAck_keeps {s0 : State} (p : Nat) (s : State) (hk : Keeps s0 s) : Keeps s0 (visibilityAck p s) := by
  unfold visibilityAck
  iterate 24 try any_goals
    first
    | with_reducible assumption | with_reducible apply State.settlePeerFences_keeps | split | (with_reducible refine Keeps.mkBoot ?_ rfl rfl rfl rfl)

theorem State.stopCmd_keeps {s0 : State} (s : State) (q n : Nat) (st : Status) (hk : Keeps s0 s) : Keeps s0 (s.stopCmd q n st) := by
  unfold State.stopCmd
  repeat' split
  all_goals first | exact hk | exact Op.stopIn_keeps (regOf_keeps ‹_›).op _ _ _ hk

theorem State.failSlate_keeps {s0 : State} (s : State) (r : SlateReq) (hk : Keeps s0 s) : Keeps s0 (State.failSlate s r) := by
  unfold State.failSlate
  dsimp only
  iterate 24 try any_goals
    first
    | with_reducible assumption | with_reducible apply State.openRange_keeps | with_reducible apply State.vacate_keeps
    | with_reducible apply State.stopCmd_keeps | split

theorem slateRequest_keeps {s0 : State} (q n : Nat) (write : Bool) (a len : Nat) (bs : Bytes) (s : State) (hk : Keeps s0 s) : Keeps s0 (slateRequest q n write a len bs s) := by
  unfold slateRequest
  dsimp only
  iterate 24 try any_goals
    first
    | with_reducible assumption | with_reducible apply State.send_keeps | with_reducible apply State.putCmd_keeps
    | with_reducible apply State.stopCmd_keeps | with_reducible apply State.failSlate_keeps | split
    | (with_reducible refine Keeps.mkBoot ?_ rfl rfl rfl rfl)

theorem State.dropRequest_keeps {s0 : State} (s : State) (id : Nat) (hk : Keeps s0 s) : Keeps s0 (State.dropRequest s id) := by
  unfold State.dropRequest
  iterate 24 try any_goals
    first
    | with_reducible assumption | split | (with_reducible refine Keeps.mkBoot ?_ rfl rfl rfl rfl)

theorem noteReply_keeps {s0 : State} (t : State) (r : SlateReq) (hk : Keeps s0 t) : Keeps s0 (noteReply t r) := by
  unfold noteReply
  iterate 24 try any_goals
    first
    | with_reducible assumption | with_reducible apply State.putCmd_keeps | split | (with_reducible refine Keeps.mkBoot ?_ rfl rfl rfl rfl)

theorem slateResponse_keeps {s0 : State} (id : Nat) (answer : SlateAnswer) (s : State) (hk : Keeps s0 s) : Keeps s0 (slateResponse id answer s) := by
  unfold slateResponse
  dsimp only
  iterate 24 try any_goals
    first
    | with_reducible assumption | with_reducible apply State.pokeBytes_keeps | with_reducible apply State.storeBytes_keeps
    | with_reducible apply State.settleLinkFences_keeps | with_reducible apply State.failSlate_keeps | with_reducible apply State.dropRequest_keeps
    | with_reducible apply noteReply_keeps | split | (with_reducible refine Keeps.mkBoot ?_ rfl rfl rfl rfl)
    | (with_reducible refine Keeps.mkMem ?_ (fun w => ?_)) | with_reducible apply Mem.setCell_wf | with_reducible apply Mem.closeBytes_wf
    | with_reducible apply Mem.addOpen_wf | with_reducible apply Mem.markLost_wf | with_reducible apply Mem.markIvory_wf
    | with_reducible apply Mem.markSlice_wf | with_reducible apply Mem.markUmber_wf | with_reducible apply Mem.setGranule_wf
    | with_reducible apply Mem.slateOnly_wf | with_reducible apply Mem.parity_wf | intro w

theorem slateTimeout_keeps {s0 : State} (id : Nat) (s : State) (hk : Keeps s0 s) : Keeps s0 (slateTimeout id s) := by
  unfold slateTimeout
  iterate 24 try any_goals
    first
    | with_reducible assumption | with_reducible apply State.count_keeps | with_reducible apply State.settleLinkFences_keeps
    | with_reducible apply State.failSlate_keeps | with_reducible apply State.dropRequest_keeps | split
    | (with_reducible refine Keeps.mkBoot ?_ rfl rfl rfl rfl)

theorem linkDown_keeps {s0 : State} (s : State) (hk : Keeps s0 s) : Keeps s0 (linkDown s) := by
  unfold linkDown
  dsimp only
  iterate 24 try any_goals
    first
    | with_reducible assumption | with_reducible apply State.settleLinkFences_keeps | with_reducible apply State.failSlate_keeps
    | (with_reducible apply Keeps.foldl; intro _ _ _; try dsimp only) | split | (with_reducible refine Keeps.mkBoot ?_ rfl rfl rfl rfl)

theorem linkUp_keeps {s0 : State} (s : State) (hk : Keeps s0 s) : Keeps s0 (linkUp s) := by
  unfold linkUp
  iterate 24 try any_goals
    first
    | with_reducible assumption | with_reducible apply State.payOwed_keeps | split | (with_reducible refine Keeps.mkBoot ?_ rfl rfl rfl rfl)

end Sys2Proof.Machine
end

