-- ==== Sys2Proof/Laws/KeepTwins.lean ====
section
/-! SUPPORT. What the functions of Machine/Twins.lean keep: waiting commands, part, fuses and the canonical form of memory. -/

namespace Sys2Proof.Machine

theorem State.setTwinCtl_keeps {s0 : State} (s : State) (v : Nat) (hk : Keeps s0 s) : Keeps s0 (State.setTwinCtl s v) := by
  unfold State.setTwinCtl
  dsimp only
  iterate 24 try any_goals
    first
    | with_reducible assumption | with_reducible apply State.badWrite_keeps | split | (with_reducible refine Keeps.mkBoot ?_ rfl rfl rfl rfl)

theorem State.badTwinOp_keeps {s0 : State} (s : State) (hk : Keeps s0 s) : Keeps s0 (State.badTwinOp s) := by
  unfold State.badTwinOp
  iterate 24 try any_goals
    first
    | with_reducible assumption | with_reducible apply State.badWrite_keeps | split

theorem twinRow_keeps {s0 : State} (op : Nat) (fits : State → Bool) {act : State → State} (ha : ∀ t, Keeps s0 t → Keeps s0 (act t)) (v : Nat) (s : State)
    (hk : Keeps s0 s) : Keeps s0 (twinRow op fits act v s) := by
  unfold twinRow
  split
  · exact hk
  · split
    · exact ha _ (State.setTwinCtl_keeps _ _ hk)
    · exact State.badTwinOp_keeps _ (State.setTwinCtl_keeps _ _ hk)

theorem State.tellTwin_keeps {s0 : State} (s : State) (kind : String) (words : List Nat) (bytes : Bytes) (hk : Keeps s0 s) : Keeps s0 (State.tellTwin s kind words bytes) := by
  unfold State.tellTwin
  iterate 24 try any_goals
    first
    | with_reducible assumption | with_reducible apply State.sendTwin_keeps | split

theorem State.mirrorHeader_keeps {s0 : State} (s : State) (hk : Keeps s0 s) : Keeps s0 (State.mirrorHeader s) := by
  unfold State.mirrorHeader
  dsimp only
  iterate 24 try any_goals
    first
    | with_reducible assumption | with_reducible apply State.storeBytes_keeps | split | (with_reducible refine Keeps.mkBoot ?_ rfl rfl rfl rfl)

theorem State.keepMirror_keeps {s0 : State} (s : State) (r : Nat) (bs : Bytes) (hk : Keeps s0 s) : Keeps s0 (State.keepMirror s r bs) := by
  unfold State.keepMirror
  dsimp only
  iterate 24 try any_goals
    first
    | with_reducible assumption | with_reducible apply State.storeBytes_keeps | with_reducible apply State.mirrorHeader_keeps | split
    | (with_reducible refine Keeps.mkBoot ?_ rfl rfl rfl rfl)

theorem State.refusePair_keeps {s0 : State} (s : State) (k : Nat) (hk : Keeps s0 s) : Keeps s0 (State.refusePair s k) := by
  unfold State.refusePair
  iterate 24 try any_goals
    first
    | with_reducible assumption | split | (with_reducible refine Keeps.mkBoot ?_ rfl rfl rfl rfl)

theorem State.pair_keeps {s0 : State} (s : State) (hk : Keeps s0 s) : Keeps s0 (State.pair s) := by
  unfold State.pair
  iterate 24 try any_goals
    first
    | with_reducible assumption | with_reducible apply State.tellTwin_keeps | with_reducible apply State.refusePair_keeps | split
    | (with_reducible refine Keeps.mkBoot ?_ rfl rfl rfl rfl)

theorem State.takeRecords_keeps {s0 : State} (s : State) (p : PairRecord) (hk : Keeps s0 s) : Keeps s0 (State.takeRecords s p) := by
  unfold State.takeRecords
  dsimp only
  iterate 24 try any_goals
    first
    | with_reducible assumption | with_reducible apply State.mirrorHeader_keeps | with_reducible apply State.keepMirror_keeps
    | (with_reducible apply Keeps.foldl; intro _ _ _; try dsimp only) | split | (with_reducible refine Keeps.mkBoot ?_ rfl rfl rfl rfl)

theorem State.fillRecord_keeps {s0 : State} (s : State) (p : PairRecord) (hk : Keeps s0 s) : Keeps s0 (State.fillRecord s p) := by
  unfold State.fillRecord
  dsimp only
  iterate 24 try any_goals
    first
    | with_reducible assumption | with_reducible apply State.takeRecords_keeps | split | (with_reducible refine Keeps.mkBoot ?_ rfl rfl rfl rfl)

theorem State.formPair_keeps {s0 : State} (s : State) (p : PairRecord) (hk : Keeps s0 s) : Keeps s0 (State.formPair s p) := by
  unfold State.formPair
  dsimp only
  iterate 24 try any_goals
    first
    | with_reducible assumption | with_reducible apply State.takeRecords_keeps | (with_reducible refine Keeps.mkBoot ?_ rfl rfl rfl rfl)

theorem pairingRecord_keeps {s0 : State} (p : PairRecord) (s : State) (hk : Keeps s0 s) : Keeps s0 (pairingRecord p s) := by
  unfold pairingRecord
  iterate 24 try any_goals
    first
    | with_reducible assumption | with_reducible apply State.tellTwin_keeps | with_reducible apply State.refusePair_keeps
    | with_reducible apply State.formPair_keeps | with_reducible apply State.fillRecord_keeps | split | (with_reducible refine Keeps.mkBoot ?_ rfl rfl rfl rfl)

theorem State.releaseRecord_keeps {s0 : State} (s : State) (r : Nat) (hk : Keeps s0 s) : Keeps s0 (State.releaseRecord s r) := by
  unfold State.releaseRecord
  dsimp only
  iterate 24 try any_goals
    first
    | with_reducible assumption | with_reducible apply State.freeRecords_keeps | with_reducible apply State.headJournaled_keeps
    | with_reducible apply State.finishAccept_keeps | split | (with_reducible refine Keeps.mkBoot ?_ rfl rfl rfl rfl)

theorem State.release_keeps {s0 : State} (s : State) (y : MirrorWait) (hk : Keeps s0 s) : Keeps s0 (s.release y) := by
  unfold State.release
  split
  · exact State.releaseRecord_keeps _ _ hk
  · exact Keeps.mkSame hk
  · exact hk

theorem State.releaseAll_keeps {s0 : State} (s : State) (hk : Keeps s0 s) : Keeps s0 (State.releaseAll s) := by
  unfold State.releaseAll
  dsimp only
  iterate 24 try any_goals
    first
    | with_reducible assumption | with_reducible apply State.release_keeps | (with_reducible apply Keeps.foldl; intro _ _ _; try dsimp only) | split
    | (with_reducible refine Keeps.mkBoot ?_ rfl rfl rfl rfl)

theorem State.noteSync_keeps {s0 : State} (s : State) (hk : Keeps s0 s) : Keeps s0 (State.noteSync s) := by
  unfold State.noteSync
  iterate 24 try any_goals
    first
    | with_reducible assumption | split | (with_reducible refine Keeps.mkBoot ?_ rfl rfl rfl rfl)

theorem twinAck_keeps {s0 : State} (s : State) (hk : Keeps s0 s) : Keeps s0 (twinAck s) := by
  unfold twinAck
  dsimp only
  iterate 24 try any_goals
    first
    | with_reducible assumption | with_reducible apply State.count_keeps | with_reducible apply State.record_keeps
    | with_reducible apply State.release_keeps | with_reducible apply State.noteSync_keeps | split
    | (with_reducible refine Keeps.mkBoot ?_ rfl rfl rfl rfl)

theorem State.goAlone_keeps {s0 : State} (s : State) (reason : Nat) (hk : Keeps s0 s) : Keeps s0 (State.goAlone s reason) := by
  unfold State.goAlone
  dsimp only
  iterate 24 try any_goals
    first
    | with_reducible assumption | with_reducible apply State.modPage_keeps | with_reducible apply State.releaseAll_keeps | split
    | (with_reducible refine Keeps.mkBoot ?_ rfl rfl rfl rfl)

theorem twinAckTimeout_keeps {s0 : State} (noRoute : Bool) (s : State) (hk : Keeps s0 s) : Keeps s0 (twinAckTimeout noRoute s) := by
  unfold twinAckTimeout
  iterate 24 try any_goals
    first
    | with_reducible assumption | with_reducible apply State.goAlone_keeps | split

theorem State.goSolo_keeps {s0 : State} (s : State) (hk : Keeps s0 s) : Keeps s0 (State.goSolo s) := by
  unfold State.goSolo
  iterate 24 try any_goals
    first
    | with_reducible assumption | with_reducible apply State.releaseAll_keeps | split | (with_reducible refine Keeps.mkBoot ?_ rfl rfl rfl rfl)

theorem State.fill_keeps {s0 : State} (s : State) (hk : Keeps s0 s) : Keeps s0 (State.fill s) := by
  unfold State.fill
  dsimp only
  iterate 24 try any_goals
    first
    | with_reducible assumption | with_reducible apply State.tellTwin_keeps | with_reducible apply State.noteSync_keeps
    | (with_reducible apply Keeps.foldl; intro _ _ _; try dsimp only) | split | (with_reducible refine Keeps.mkBoot ?_ rfl rfl rfl rfl)

theorem fillBlockSend_keeps {s0 : State} (s : State) (hk : Keeps s0 s) : Keeps s0 (fillBlockSend s) := by
  unfold fillBlockSend
  dsimp only
  iterate 24 try any_goals
    first
    | with_reducible assumption | with_reducible apply State.sendFill_keeps | with_reducible apply State.tellTwin_keeps
    | with_reducible apply State.noteSync_keeps | with_reducible apply State.fill_keeps | split
    | (with_reducible refine Keeps.mkBoot ?_ rfl rfl rfl rfl)

theorem State.adoptRecord_keeps {s0 : State} (s : State) (r : Nat) (bs : Bytes) (hk : Keeps s0 s) : Keeps s0 (State.adoptRecord s r bs) := by
  unfold State.adoptRecord
  dsimp only
  iterate 24 try any_goals
    first
    | with_reducible assumption | with_reducible apply State.storeBytes_keeps | with_reducible apply writeRec_keeps
    | with_reducible apply State.writeHeader_keeps | split | (with_reducible refine Keeps.mkBoot ?_ rfl rfl rfl rfl)

theorem fillReceive_keeps {s0 : State} (i : FillItem) (s : State) (hk : Keeps s0 s) : Keeps s0 (fillReceive i s) := by
  unfold fillReceive
  split
  · exact hk
  · split
    · split
      · exact State.tellTwin_keeps _ _ _ _ (State.count_keeps _ _ _ _ (Keeps.foldl (fun u x hu => State.poisonGranule_keeps _ _ hu) (State.storeBytes_keeps _ _ _ hk)))
      · exact hk
    · split
      · exact State.tellTwin_keeps _ _ _ _ (State.writeBytes_keeps hk ‹_›)
      · exact State.tellTwin_keeps _ _ _ _ hk
    · exact State.tellTwin_keeps _ _ _ _ (State.adoptRecord_keeps _ _ _ hk)
    · exact Keeps.mkSame hk

theorem State.join_keeps {s0 : State} (s : State) (hk : Keeps s0 s) : Keeps s0 (State.join s) := by
  unfold State.join
  dsimp only
  iterate 24 try any_goals
    first
    | with_reducible assumption | split | (with_reducible refine Keeps.mkBoot ?_ rfl rfl rfl rfl)

theorem mirrorReceive_keeps {s0 : State} (i : MirrorItem) (s : State) (hk : Keeps s0 s) : Keeps s0 (mirrorReceive i s) := by
  unfold mirrorReceive
  iterate 24 try any_goals
    first
    | with_reducible assumption | with_reducible apply State.record_keeps | with_reducible apply linkUp_keeps
    | with_reducible apply State.tellTwin_keeps | with_reducible apply State.mirrorHeader_keeps | with_reducible apply State.keepMirror_keeps | split
    | (with_reducible refine Keeps.mkBoot ?_ rfl rfl rfl rfl)

theorem failEvent_keeps {s0 : State} (v : Nat) (s : State) (hk : Keeps s0 s) : Keeps s0 (failEvent v s) := by
  unfold failEvent
  dsimp only
  iterate 24 try any_goals
    first
    | with_reducible assumption | split | (with_reducible refine Keeps.mkBoot ?_ rfl rfl rfl rfl)

end Sys2Proof.Machine
end

