-- ==== Sys2Proof/Laws/KeepGovernor.lean ====
section
/-! SUPPORT. What the functions of Machine/Governor.lean keep: waiting commands, part, fuses and the canonical form of memory. -/

namespace Sys2Proof.Machine

theorem State.putGov_keeps {s0 : State} (s : State) (g : Governor) (hk : Keeps s0 s) : Keeps s0 (State.putGov s g) := by
  unfold State.putGov
  iterate 24 try any_goals
    first
    | with_reducible assumption | split | (with_reducible refine Keeps.mkBoot ?_ rfl rfl rfl rfl)

theorem State.settleGov_keeps {s0 : State} (s : State) (g : Governor) (hk : Keeps s0 s) : Keeps s0 (s.settleGov g) := by
  unfold State.settleGov
  exact State.expectRise_keeps _ _ (State.expectFall_keeps _ _ (State.putGov_keeps _ _ hk))

theorem govPowerTick_keeps {s0 : State} (pin vin iin : Nat) (long : Bool) (s : State) (hk : Keeps s0 s) : Keeps s0 (govPowerTick pin vin iin long s) := by
  unfold govPowerTick
  dsimp only
  iterate 24 try any_goals
    first
    | with_reducible assumption | with_reducible apply State.settleGov_keeps | with_reducible apply State.putGov_keeps | split
    | (with_reducible refine Keeps.mkBoot ?_ rfl rfl rfl rfl)

theorem State.markHot_keeps {s0 : State} (s : State) (hot : List (Fin 18)) (hk : Keeps s0 s) : Keeps s0 (State.markHot s hot) := by
  unfold State.markHot
  iterate 24 try any_goals
    first
    | with_reducible assumption | with_reducible apply State.putTower_keeps | (with_reducible apply Keeps.foldl; intro _ _ _; try dsimp only) | split
    | (with_reducible refine Keeps.mkBoot ?_ rfl rfl rfl rfl)

theorem govThermalTick_keeps {s0 : State} (dieMax towerMax inlet outlet predict : Int) (hot : List (Fin 18)) (long : Bool) (s : State) (hk : Keeps s0 s) : Keeps s0 (govThermalTick dieMax towerMax inlet outlet predict hot long s) := by
  unfold govThermalTick
  dsimp only
  iterate 24 try any_goals
    first
    | with_reducible assumption | with_reducible apply State.settleGov_keeps | with_reducible apply State.putGov_keeps
    | with_reducible apply State.markHot_keeps | split | (with_reducible refine Keeps.mkBoot ?_ rfl rfl rfl rfl)

theorem flowEstimate_keeps {s0 : State} (watts rise : Nat) (s : State) (hk : Keeps s0 s) : Keeps s0 (flowEstimate watts rise s) := by
  unfold flowEstimate
  iterate 24 try any_goals
    first
    | with_reducible assumption | split | (with_reducible refine Keeps.mkBoot ?_ rfl rfl rfl rfl)

theorem feedSample_keeps {s0 : State} (mv : Nat) (s : State) (hk : Keeps s0 s) : Keeps s0 (feedSample mv s) := by
  unfold feedSample
  dsimp only
  iterate 24 try any_goals
    first
    | with_reducible assumption | with_reducible apply State.raiseBlockBit_keeps | split | (with_reducible refine Keeps.mkBoot ?_ rfl rfl rfl rfl)

theorem setFeedLow_keeps {s0 : State} (on : Bool) (s : State) (hk : Keeps s0 s) : Keeps s0 (setFeedLow on s) := by
  unfold setFeedLow
  iterate 24 try any_goals
    first
    | with_reducible assumption | with_reducible apply State.settleGov_keeps | with_reducible apply State.putGov_keeps | split
    | (with_reducible refine Keeps.mkBoot ?_ rfl rfl rfl rfl)

theorem State.dropAllWork_keeps {s0 : State} (s : State) (hk : Keeps s0 s) : Keeps s0 (State.dropAllWork s) := by
  unfold State.dropAllWork
  iterate 24 try any_goals
    first
    | with_reducible assumption | split | (with_reducible refine Keeps.mkBoot ?_ rfl rfl rfl rfl)

theorem State.losePower_keeps {s0 : State} (s : State) (hk : Keeps s0 s) : Keeps s0 (State.losePower s) := by
  unfold State.losePower
  iterate 24 try any_goals
    first
    | with_reducible assumption | with_reducible apply State.dropAllWork_keeps | split | (with_reducible refine Keeps.mkBoot ?_ rfl rfl rfl rfl)

theorem State.cutJournal_keeps {s0 : State} (s : State) (hk : Keeps s0 s) : Keeps s0 (State.cutJournal s) := by
  unfold State.cutJournal
  dsimp only
  iterate 24 try any_goals
    first
    | with_reducible assumption | with_reducible apply writeRec_keeps | with_reducible apply State.writeHeader_keeps
    | with_reducible apply linkUp_keeps | split | (with_reducible refine Keeps.mkBoot ?_ rfl rfl rfl rfl)

theorem State.linksDown_keeps {s0 : State} (s : State) (hk : Keeps s0 s) : Keeps s0 (State.linksDown s) := by
  unfold State.linksDown
  iterate 24 try any_goals
    first
    | with_reducible assumption | (with_reducible apply Keeps.foldl; intro _ _ _; try dsimp only) | split
    | (with_reducible refine Keeps.mkBoot ?_ rfl rfl rfl rfl)

theorem State.shutDown_keeps {s0 : State} (s : State) (hk : Keeps s0 s) : Keeps s0 (State.shutDown s) := by
  unfold State.shutDown
  dsimp only
  iterate 24 try any_goals
    first
    | with_reducible assumption | with_reducible apply State.sendTwin_keeps | with_reducible apply State.cutJournal_keeps
    | with_reducible apply State.linksDown_keeps | split | (with_reducible refine Keeps.mkBoot ?_ rfl rfl rfl rfl)

theorem thermalTrip_keeps {s0 : State} (sensor : Sensor) (celsius : Int) (s : State) (hk : Keeps s0 s) : Keeps s0 (thermalTrip sensor celsius s) := by
  unfold thermalTrip
  dsimp only
  iterate 24 try any_goals
    first
    | with_reducible assumption | with_reducible apply State.deviceStopAt_keeps | with_reducible apply State.losePower_keeps
    | with_reducible apply State.shutDown_keeps | split | (with_reducible refine Keeps.mkBoot ?_ rfl rfl rfl rfl)

theorem i2cWrite_keeps {s0 : State} (index : Nat) (bs : Bytes) (s : State) (hk : Keeps s0 s) : Keeps s0 (i2cWrite index bs s) := by
  unfold i2cWrite
  dsimp only
  iterate 24 try any_goals
    first
    | with_reducible assumption | with_reducible apply State.send_keeps | split | (with_reducible refine Keeps.mkBoot ?_ rfl rfl rfl rfl)

end Sys2Proof.Machine
end

