-- ==== Sys2Proof/Laws/KeepReset.lean ====
section
/-! SUPPORT. What the functions of Machine/Reset.lean keep: waiting commands, part, fuses and the canonical form of memory. -/

namespace Sys2Proof.Machine

theorem State.badReset_keeps {s0 : State} (s : State) (hk : Keeps s0 s) : Keeps s0 (State.badReset s) := by
  unfold State.badReset
  iterate 24 try any_goals
    first
    | with_reducible assumption | with_reducible apply State.badWrite_keeps | split

theorem State.refuseReset_keeps {s0 : State} (s : State) (hk : Keeps s0 s) : Keeps s0 (State.refuseReset s) := by
  unfold State.refuseReset
  iterate 24 try any_goals
    first
    | with_reducible assumption | split | (with_reducible refine Keeps.mkBoot ?_ rfl rfl rfl rfl)

theorem State.resetStarts_keeps {s0 : State} (s : State) (kind : Nat) (cause : Cause) (hk : Keeps s0 s) : Keeps s0 (State.resetStarts s kind cause) := by
  unfold State.resetStarts
  iterate 24 try any_goals
    first
    | with_reducible assumption | split | (with_reducible refine Keeps.mkBoot ?_ rfl rfl rfl rfl)

theorem State.resetRegionRegs_keeps {s0 : State} (s : State) (r : Nat) (hk : Keeps s0 s) : Keeps s0 (State.resetRegionRegs s r) := by
  unfold State.resetRegionRegs
  dsimp only
  iterate 24 try any_goals
    first
    | with_reducible assumption | with_reducible apply State.putRegion_keeps | split | (with_reducible refine Keeps.mkBoot ?_ rfl rfl rfl rfl)

theorem State.endRegionReset_keeps {s0 : State} (s : State) (r : Nat) (hk : Keeps s0 s) : Keeps s0 (State.endRegionReset s r) := by
  unfold State.endRegionReset
  dsimp only
  iterate 24 try any_goals
    first
    | with_reducible assumption | with_reducible apply State.putRegion_keeps | with_reducible apply State.resetRegionRegs_keeps | split
    | (with_reducible refine Keeps.mkBoot ?_ rfl rfl rfl rfl)

theorem State.resetRegion_keeps {s0 : State} (s : State) (r : Nat) (hk : Keeps s0 s) : Keeps s0 (State.resetRegion s r) := by
  unfold State.resetRegion
  dsimp only
  iterate 24 try any_goals
    first
    | with_reducible assumption | with_reducible apply State.putRegion_keeps | with_reducible apply State.stopWork_keeps
    | with_reducible apply State.resetRegionRegs_keeps | with_reducible apply State.endRegionReset_keeps | split
    | (with_reducible refine Keeps.mkBoot ?_ rfl rfl rfl rfl)

theorem State.resendMirror_keeps {s0 : State} (s : State) (hk : Keeps s0 s) : Keeps s0 (State.resendMirror s) := by
  unfold State.resendMirror
  iterate 24 try any_goals
    first
    | with_reducible assumption | with_reducible apply State.record_keeps | with_reducible apply State.tellTwin_keeps
    | (with_reducible apply Keeps.foldl; intro _ _ _; try dsimp only) | split | (with_reducible refine Keeps.mkBoot ?_ rfl rfl rfl rfl)

theorem regionReset_keeps {s0 : State} (cause : Cause) (key : BitVec 8) (mask : Nat) (s : State) (hk : Keeps s0 s) : Keeps s0 (regionReset cause key mask s) := by
  unfold regionReset
  dsimp only
  iterate 24 try any_goals
    first
    | with_reducible assumption | with_reducible apply State.flushParity_keeps | with_reducible apply State.badReset_keeps
    | with_reducible apply State.refuseReset_keeps | with_reducible apply State.resetStarts_keeps | with_reducible apply State.resetRegion_keeps
    | with_reducible apply State.resendMirror_keeps | (with_reducible apply Keeps.foldl; intro _ _ _; try dsimp only) | split

theorem pageDrainedRow_keeps {s0 : State} (p : Nat) (s : State) (hk : Keeps s0 s) : Keeps s0 (pageDrainedRow p s) := by
  unfold pageDrainedRow
  iterate 24 try any_goals
    first
    | with_reducible assumption | with_reducible apply State.pageDrained_keeps | with_reducible apply State.endRegionReset_keeps | split
    | (with_reducible refine Keeps.mkBoot ?_ rfl rfl rfl rfl)

theorem State.endTests_keeps {s0 : State} (s : State) (hk : Keeps s0 s) : Keeps s0 (State.endTests s) := by
  unfold State.endTests
  iterate 24 try any_goals
    first
    | with_reducible assumption | split | (with_reducible refine Keeps.mkBoot ?_ rfl rfl rfl rfl)

theorem State.quiesce_keeps {s0 : State} (s : State) (hk : Keeps s0 s) : Keeps s0 (State.quiesce s) := by
  unfold State.quiesce
  dsimp only
  iterate 24 try any_goals
    first
    | with_reducible assumption | with_reducible apply State.count_keeps | with_reducible apply State.stopThreads_keeps
    | with_reducible apply State.dropAllWork_keeps | with_reducible apply State.endTests_keeps | split
    | (with_reducible refine Keeps.mkBoot ?_ rfl rfl rfl rfl)

theorem State.unsync_keeps {s0 : State} (s : State) (hk : Keeps s0 s) : Keeps s0 (State.unsync s) := by
  unfold State.unsync
  dsimp only
  iterate 24 try any_goals
    first
    | with_reducible assumption | split | (with_reducible refine Keeps.mkBoot ?_ rfl rfl rfl rfl)
    | (with_reducible refine Keeps.mkMem ?_ (fun w => ?_)) | with_reducible apply Mem.setCell_wf | with_reducible apply Mem.closeBytes_wf
    | with_reducible apply Mem.addOpen_wf | with_reducible apply Mem.markLost_wf | with_reducible apply Mem.markIvory_wf
    | with_reducible apply Mem.markSlice_wf | with_reducible apply Mem.markUmber_wf | with_reducible apply Mem.setGranule_wf
    | with_reducible apply Mem.slateOnly_wf | with_reducible apply Mem.parity_wf | intro w

theorem State.finishWork_keeps {s0 : State} (s : State) (forced : Bool) (hk : Keeps s0 s) : Keeps s0 (State.finishWork s forced) := by
  unfold State.finishWork
  dsimp only
  iterate 24 try any_goals
    first
    | with_reducible assumption | with_reducible apply State.flushParity_keeps | with_reducible apply State.settleLinkFences_keeps
    | with_reducible apply State.resendMirror_keeps | with_reducible apply State.unsync_keeps | split
    | (with_reducible refine Keeps.mkBoot ?_ rfl rfl rfl rfl)

theorem State.settleWork_keeps {s0 : State} (s : State) (hk : Keeps s0 s) : Keeps s0 (State.settleWork s) := by
  unfold State.settleWork
  iterate 24 try any_goals
    first
    | with_reducible assumption | with_reducible apply State.finishWork_keeps | split | (with_reducible refine Keeps.mkBoot ?_ rfl rfl rfl rfl)

theorem State.stopRegionReset_keeps {s0 : State} (s : State) (hk : Keeps s0 s) : Keeps s0 (State.stopRegionReset s) := by
  unfold State.stopRegionReset
  iterate 24 try any_goals
    first
    | with_reducible assumption | with_reducible apply State.putRegion_keeps | (with_reducible apply Keeps.foldl; intro _ _ _; try dsimp only) | split
    | (with_reducible refine Keeps.mkBoot ?_ rfl rfl rfl rfl)

theorem workReset_keeps {s0 : State} (cause : Cause) (key : BitVec 8) (s : State) (hk : Keeps s0 s) : Keeps s0 (workReset cause key s) := by
  unfold workReset
  dsimp only
  iterate 24 try any_goals
    first
    | with_reducible assumption | with_reducible apply State.badReset_keeps | with_reducible apply State.refuseReset_keeps
    | with_reducible apply State.resetStarts_keeps | with_reducible apply State.quiesce_keeps | with_reducible apply State.settleWork_keeps
    | with_reducible apply State.stopRegionReset_keeps | split | (with_reducible refine Keeps.mkBoot ?_ rfl rfl rfl rfl)

theorem State.coldBase_keeps {s0 : State} (s : State) (kind : Nat) (cause : Cause) (hk : Keeps s0 s) : Keeps s0 (State.coldBase s kind cause) :=
  ⟨hk.pending, hk.part, hk.debug, hk.vendor, hk.seed, hk.svn, fun w => Mem.slateOnly_wf (hk.wf w)⟩

theorem State.halt_keeps {s0 : State} (s : State) (reason : Nat) (hk : Keeps s0 s) : Keeps s0 (State.halt s reason) := by
  unfold State.halt
  iterate 24 try any_goals
    first
    | with_reducible assumption | split | (with_reducible refine Keeps.mkBoot ?_ rfl rfl rfl rfl)

theorem State.identify_keeps {s0 : State} (s : State) (bank : Nat) (hk : Keeps s0 s) : Keeps s0 (State.identify s bank) := by
  unfold State.identify
  dsimp only
  iterate 24 try any_goals
    first
    | with_reducible assumption | split | (with_reducible refine Keeps.mkBoot ?_ rfl rfl rfl rfl)

theorem State.loadAll_keeps {s0 : State} (s : State) (hk : Keeps s0 s) : Keeps s0 (State.loadAll s) := by
  unfold State.loadAll
  dsimp only
  iterate 24 try any_goals
    first
    | with_reducible assumption | with_reducible apply State.putRegion_keeps | with_reducible apply State.putTower_keeps
    | (with_reducible apply Keeps.foldl; intro _ _ _; try dsimp only) | split | (with_reducible refine Keeps.mkBoot ?_ rfl rfl rfl rfl)

theorem State.postTowers_keeps {s0 : State} (s : State) (fs : List Nat) (hk : Keeps s0 s) : Keeps s0 (State.postTowers s fs) := by
  unfold State.postTowers
  dsimp only
  iterate 24 try any_goals
    first
    | with_reducible assumption | with_reducible apply State.recordUp_keeps | with_reducible apply State.deviceStopAt_keeps
    | with_reducible apply State.fenceTower_keeps | (with_reducible apply Keeps.foldl; intro _ _ _; try dsimp only) | split
    | (with_reducible refine Keeps.mkBoot ?_ rfl rfl rfl rfl)

theorem State.postLinks_keeps {s0 : State} (s : State) (ls : List (Fin 24)) (hk : Keeps s0 s) : Keeps s0 (State.postLinks s ls) := by
  unfold State.postLinks
  dsimp only
  iterate 24 try any_goals
    first
    | with_reducible assumption | with_reducible apply State.putLink_keeps | with_reducible apply State.failLink_keeps
    | (with_reducible apply Keeps.foldl; intro _ _ _; try dsimp only) | split | (with_reducible refine Keeps.mkBoot ?_ rfl rfl rfl rfl)

theorem State.postFences_keeps {s0 : State} (s : State) (p : Post) (hk : Keeps s0 s) : Keeps s0 (State.postFences s p) := by
  unfold State.postFences
  dsimp only
  iterate 24 try any_goals
    first
    | with_reducible assumption | with_reducible apply State.fenceBlock_keeps | with_reducible apply State.cellFails_keeps
    | with_reducible apply State.postTowers_keeps | with_reducible apply State.postLinks_keeps
    | (with_reducible apply Keeps.foldl; intro _ _ _; try dsimp only) | split | (with_reducible refine Keeps.mkBoot ?_ rfl rfl rfl rfl)

theorem State.bootParts_keeps {s0 : State} (s : State) (p : Post) (hk : Keeps s0 s) : Keeps s0 (State.bootParts s p) := by
  unfold State.bootParts
  dsimp only
  iterate 24 try any_goals
    first
    | with_reducible assumption | with_reducible apply State.deviceStopAt_keeps | with_reducible apply State.loadAll_keeps
    | with_reducible apply State.postFences_keeps | split | (with_reducible refine Keeps.mkBoot ?_ rfl rfl rfl rfl)

theorem State.bootUp_keeps {s0 : State} (s : State) (p : Post) (hk : Keeps s0 s) : Keeps s0 (State.bootUp s p) := by
  unfold State.bootUp
  iterate 24 try any_goals
    first
    | with_reducible assumption | with_reducible apply State.halt_keeps | with_reducible apply State.identify_keeps
    | with_reducible apply State.bootParts_keeps | split | (with_reducible refine Keeps.mkBoot ?_ rfl rfl rfl rfl)

theorem State.coldStart_keeps {s0 : State} (s : State) (kind : Nat) (cause : Cause) (p : Post) (hk : Keeps s0 s) : Keeps s0 (State.coldStart s kind cause p) := by
  unfold State.coldStart
  iterate 24 try any_goals
    first
    | with_reducible assumption | with_reducible apply State.coldBase_keeps | with_reducible apply State.bootUp_keeps | split

theorem coldReset_keeps {s0 : State} (cause : Cause) (key : BitVec 8) (p : Post) (s : State) (hk : Keeps s0 s) : Keeps s0 (coldReset cause key p s) := by
  unfold coldReset
  iterate 24 try any_goals
    first
    | with_reducible assumption | with_reducible apply thermalTrip_keeps | with_reducible apply State.badReset_keeps
    | with_reducible apply State.coldStart_keeps | split

theorem State.emptyJournal_keeps {s0 : State} (s : State) (hk : Keeps s0 s) : Keeps s0 (State.emptyJournal s) := by
  unfold State.emptyJournal
  dsimp only
  iterate 24 try any_goals
    first
    | with_reducible assumption | with_reducible apply writeRec_keeps | with_reducible apply State.writeHeader_keeps
    | with_reducible apply State.mirrorHeader_keeps | split | (with_reducible refine Keeps.mkBoot ?_ rfl rfl rfl rfl)

theorem purge_keeps {s0 : State} (cause : Cause) (key : BitVec 8) (p : Post) (s : State) (hk : Keeps s0 s) : Keeps s0 (purge cause key p s) := by
  unfold purge
  dsimp only
  iterate 24 try any_goals
    first
    | with_reducible assumption | with_reducible apply State.storeBytes_keeps | with_reducible apply State.tellTwin_keeps
    | with_reducible apply State.badReset_keeps | with_reducible apply State.coldStart_keeps | with_reducible apply State.emptyJournal_keeps | split

theorem bootLock_keeps {s0 : State} (v : Nat) (s : State) (hk : Keeps s0 s) : Keeps s0 (bootLock v s) := by
  unfold bootLock
  dsimp only
  iterate 24 try any_goals
    first
    | with_reducible assumption | with_reducible apply State.badWrite_keeps | split | (with_reducible refine Keeps.mkBoot ?_ rfl rfl rfl rfl)

end Sys2Proof.Machine
end

