-- ==== Sys2Proof/Laws/KeepWindow.lean ====
section
/-! SUPPORT. What the functions of Machine/Window.lean keep: waiting commands, part, fuses and the canonical form of memory. -/

namespace Sys2Proof.Machine

theorem State.raiseSame_keeps {s0 : State} (s : State) (p bit : Nat) (hk : Keeps s0 s) : Keeps s0 (State.raiseSame s p bit) := by
  unfold State.raiseSame
  iterate 24 try any_goals
    first
    | with_reducible assumption | with_reducible apply State.modPage_keeps | split | (with_reducible refine Keeps.mkBoot ?_ rfl rfl rfl rfl)

theorem errStsClear_keeps {s0 : State} (p : Nat) (value hwSet : Word) (s : State) (hk : Keeps s0 s) : Keeps s0 (errStsClear p value hwSet s) := by
  unfold errStsClear
  dsimp only
  iterate 24 try any_goals
    first
    | with_reducible assumption | with_reducible apply State.modPage_keeps | with_reducible apply State.raiseSame_keeps
    | (with_reducible apply Keeps.foldl; intro _ _ _; try dsimp only) | split

theorem State.markInjected_keeps {s0 : State} (s : State) (p : Nat) (was : Bool) (hk : Keeps s0 s) : Keeps s0 (State.markInjected s p was) := by
  unfold State.markInjected
  iterate 24 try any_goals
    first
    | with_reducible assumption | with_reducible apply State.modPage_keeps | split | (with_reducible refine Keeps.mkBoot ?_ rfl rfl rfl rfl)

theorem errInject_keeps {s0 : State} (p : Nat) (v : Nat) (s : State) (hk : Keeps s0 s) : Keeps s0 (errInject p v s) := by
  unfold errInject
  dsimp only
  iterate 24 try any_goals
    first
    | with_reducible assumption | with_reducible apply State.modPage_keeps | with_reducible apply State.recordIn_keeps
    | with_reducible apply State.badWrite_keeps | with_reducible apply State.regionFault_keeps | with_reducible apply State.markInjected_keeps | split
    | (with_reducible refine Keeps.mkBoot ?_ rfl rfl rfl rfl)

theorem State.writeEvsel_keeps {s0 : State} (s : State) (p n o v : Nat) (hw : Word) (hk : Keeps s0 s) : Keeps s0 (State.writeEvsel s p n o v hw) := by
  unfold State.writeEvsel
  dsimp only
  iterate 24 try any_goals
    first
    | with_reducible assumption | with_reducible apply State.modPage_keeps | with_reducible apply State.badWrite_keeps | split
    | (with_reducible refine Keeps.mkBoot ?_ rfl rfl rfl rfl)

theorem State.writeEvcnt_keeps {s0 : State} (s : State) (p n v : Nat) (hk : Keeps s0 s) : Keeps s0 (State.writeEvcnt s p n v) := by
  unfold State.writeEvcnt
  iterate 24 try any_goals
    first
    | with_reducible assumption | with_reducible apply State.modPage_keeps | with_reducible apply State.count_keeps | split
    | (with_reducible refine Keeps.mkBoot ?_ rfl rfl rfl rfl)

theorem State.pageCtl_keeps {s0 : State} (s : State) (p v : Nat) (hk : Keeps s0 s) : Keeps s0 (State.pageCtl s p v) := by
  unfold State.pageCtl
  dsimp only
  iterate 24 try any_goals
    first
    | with_reducible assumption | with_reducible apply State.modPage_keeps | with_reducible apply State.badCtl_keeps
    | with_reducible apply State.pageDrain_keeps | with_reducible apply State.pageAbort_keeps | with_reducible apply State.pageEnable_keeps | split
    | (with_reducible refine Keeps.mkBoot ?_ rfl rfl rfl rfl)

theorem State.headerWrite_keeps {s0 : State} (s : State) (p o v : Nat) (hw : Word) (hk : Keeps s0 s) : Keeps s0 (State.headerWrite s p o v hw) := by
  unfold State.headerWrite
  iterate 24 try any_goals
    first
    | with_reducible assumption | with_reducible apply State.modPage_keeps | with_reducible apply errStsClear_keeps
    | with_reducible apply errInject_keeps | with_reducible apply State.writeEvsel_keeps | with_reducible apply State.writeEvcnt_keeps
    | with_reducible apply State.pageCtl_keeps | split | (with_reducible refine Keeps.mkBoot ?_ rfl rfl rfl rfl)

theorem State.resetCtl_keeps {s0 : State} (s : State) (path : Path) (v : Nat) (hk : Keeps s0 s) : Keeps s0 (State.resetCtl s path v) := by
  unfold State.resetCtl
  dsimp only
  iterate 24 try any_goals
    first
    | with_reducible assumption | with_reducible apply State.badReset_keeps | with_reducible apply regionReset_keeps
    | with_reducible apply workReset_keeps | with_reducible apply coldReset_keeps | with_reducible apply purge_keeps | split
    | (with_reducible refine Keeps.mkBoot ?_ rfl rfl rfl rfl)

theorem State.writeBoot_keeps {s0 : State} (s : State) (path : Path) (o v : Nat) (hk : Keeps s0 s) : Keeps s0 (State.writeBoot s path o v) := by
  unfold State.writeBoot
  iterate 24 try any_goals
    first
    | with_reducible assumption | with_reducible apply fwStage_keeps | with_reducible apply fwActivate_keeps | with_reducible apply fwCommitSvn_keeps
    | with_reducible apply bootLock_keeps | with_reducible apply State.resetCtl_keeps | split
    | (with_reducible refine Keeps.mkBoot ?_ rfl rfl rfl rfl)

theorem State.slateCtl_keeps {s0 : State} (s : State) (v : Nat) (hk : Keeps s0 s) : Keeps s0 (State.slateCtl s v) := by
  unfold State.slateCtl
  dsimp only
  iterate 24 try any_goals
    first
    | with_reducible assumption | with_reducible apply State.badWrite_keeps | with_reducible apply slateTimeout_keeps | split
    | (with_reducible refine Keeps.mkBoot ?_ rfl rfl rfl rfl)

theorem State.writePerast_keeps {s0 : State} (s : State) (path : Path) (o v : Nat) (hk : Keeps s0 s) : Keeps s0 (State.writePerast s path o v) := by
  unfold State.writePerast
  iterate 24 try any_goals
    first
    | with_reducible assumption | with_reducible apply queueEnable_keeps | with_reducible apply queueDisable_keeps
    | with_reducible apply queueAbort_keeps | with_reducible apply qctxDataWrite_keeps | with_reducible apply replayGo_keeps
    | with_reducible apply State.slateCtl_keeps | split | (with_reducible refine Keeps.mkBoot ?_ rfl rfl rfl rfl)

theorem State.twinCtl_keeps {s0 : State} (s : State) (v : Nat) (hk : Keeps s0 s) : Keeps s0 (State.twinCtl s v) := by
  unfold State.twinCtl
  dsimp only
  iterate 24 try any_goals
    first
    | with_reducible assumption | with_reducible apply State.setTwinCtl_keeps | with_reducible apply State.badTwinOp_keeps
    | with_reducible apply State.tellTwin_keeps | with_reducible apply State.pair_keeps | with_reducible apply State.goAlone_keeps
    | with_reducible apply State.goSolo_keeps | with_reducible apply State.fill_keeps | with_reducible apply State.join_keeps | split
    | (with_reducible refine Keeps.mkBoot ?_ rfl rfl rfl rfl)

theorem State.writeRep_keeps {s0 : State} (s : State) (o : Nat) (f : RepEntry → RepEntry) (hk : Keeps s0 s) : Keeps s0 (State.writeRep s o f) := by
  unfold State.writeRep
  iterate 24 try any_goals
    first
    | with_reducible assumption | with_reducible apply State.badWrite_keeps | split | (with_reducible refine Keeps.mkBoot ?_ rfl rfl rfl rfl)

theorem State.writeTwin_keeps {s0 : State} (s : State) (o v : Nat) (hw : Word) (hk : Keeps s0 s) : Keeps s0 (State.writeTwin s o v hw) := by
  unfold State.writeTwin
  iterate 24 try any_goals
    first
    | with_reducible assumption | with_reducible apply failEvent_keeps | with_reducible apply State.twinCtl_keeps
    | with_reducible apply State.writeRep_keeps | split | (with_reducible refine Keeps.mkBoot ?_ rfl rfl rfl rfl)

theorem State.govCtl_keeps {s0 : State} (s : State) (v : Nat) (hk : Keeps s0 s) : Keeps s0 (State.govCtl s v) := by
  unfold State.govCtl
  dsimp only
  iterate 24 try any_goals
    first
    | with_reducible assumption | with_reducible apply State.badWrite_keeps | split | (with_reducible refine Keeps.mkBoot ?_ rfl rfl rfl rfl)

theorem State.writeEngine_keeps {s0 : State} (s : State) (path : Path) (p o v : Nat) (hw : Word) (hk : Keeps s0 s) : Keeps s0 (State.writeEngine s path p o v hw) := by
  unfold State.writeEngine
  iterate 24 try any_goals
    first
    | with_reducible assumption | with_reducible apply State.gateRegions_keeps | with_reducible apply State.writeBoot_keeps
    | with_reducible apply State.writePerast_keeps | with_reducible apply State.writeTwin_keeps | with_reducible apply State.govCtl_keeps | split
    | (with_reducible refine Keeps.mkBoot ?_ rfl rfl rfl rfl)

theorem State.writeComplex_keeps {s0 : State} (s : State) (o v : Nat) (hk : Keeps s0 s) : Keeps s0 (State.writeComplex s o v) := by
  unfold State.writeComplex
  iterate 24 try any_goals
    first
    | with_reducible assumption | with_reducible apply towerCtl_keeps | with_reducible apply segData_keeps | with_reducible apply towerFail_keeps
    | with_reducible apply State.modTow_keeps | split | (with_reducible refine Keeps.mkBoot ?_ rfl rfl rfl rfl)

theorem State.writeTower_keeps {s0 : State} (s : State) (t o v : Nat) (hk : Keeps s0 s) : Keeps s0 (State.writeTower s t o v) := by
  unfold State.writeTower
  iterate 24 try any_goals
    first
    | with_reducible assumption | with_reducible apply State.badWrite_keeps | with_reducible apply State.putTower_keeps | split
    | (with_reducible refine Keeps.mkBoot ?_ rfl rfl rfl rfl)

theorem State.writeTopo_keeps {s0 : State} (s : State) (v : Nat) (hk : Keeps s0 s) : Keeps s0 (State.writeTopo s v) := by
  unfold State.writeTopo
  dsimp only
  iterate 24 try any_goals
    first
    | with_reducible assumption | with_reducible apply State.badWrite_keeps | split | (with_reducible refine Keeps.mkBoot ?_ rfl rfl rfl rfl)

theorem State.modLnk_keeps {s0 : State} (s : State) (f : LinkComplex → LinkComplex) (hk : Keeps s0 s) : Keeps s0 (State.modLnk s f) := by
  unfold State.modLnk
  iterate 24 try any_goals
    first
    | with_reducible assumption | split | (with_reducible refine Keeps.mkBoot ?_ rfl rfl rfl rfl)

theorem State.writeFabric_keeps {s0 : State} (s : State) (o v : Nat) (hw : Word) (hk : Keeps s0 s) : Keeps s0 (State.writeFabric s o v hw) := by
  unfold State.writeFabric
  iterate 24 try any_goals
    first
    | with_reducible assumption | with_reducible apply positionWrite_keeps | with_reducible apply State.writeTopo_keeps
    | with_reducible apply State.modLnk_keeps | split | (with_reducible refine Keeps.mkBoot ?_ rfl rfl rfl rfl)

theorem State.writeLink_keeps {s0 : State} (s : State) (l o v : Nat) (hk : Keeps s0 s) : Keeps s0 (State.writeLink s l o v) := by
  unfold State.writeLink
  dsimp only
  iterate 24 try any_goals
    first
    | with_reducible assumption | with_reducible apply linkCtlFail_keeps | with_reducible apply linkCtlRecal_keeps
    | with_reducible apply linkCtlEnable_keeps | split

theorem State.blockWrite_keeps {s0 : State} (s : State) (path : Path) (p o v : Nat) (hw : Word) (hk : Keeps s0 s) : Keeps s0 (State.blockWrite s path p o v hw) := by
  unfold State.blockWrite
  iterate 24 try any_goals
    first
    | with_reducible assumption | with_reducible apply State.badWrite_keeps | with_reducible apply State.writeEngine_keeps
    | with_reducible apply State.writeComplex_keeps | with_reducible apply State.writeTower_keeps | with_reducible apply State.writeFabric_keeps
    | with_reducible apply State.writeLink_keeps | split | (with_reducible refine Keeps.mkBoot ?_ rfl rfl rfl rfl)

theorem State.unmappedWindow_keeps {s0 : State} (s : State) (a : Nat) (hk : Keeps s0 s) : Keeps s0 (State.unmappedWindow s a) := by
  unfold State.unmappedWindow
  iterate 24 try any_goals
    first
    | with_reducible assumption | with_reducible apply State.raiseBlockBit_keeps | split

theorem doorbellWrite_keeps {s0 : State} (off size v : Nat) (s : State) (hk : Keeps s0 s) : Keeps s0 (doorbellWrite off size v s) := by
  unfold doorbellWrite
  dsimp only
  iterate 24 try any_goals
    first
    | with_reducible assumption | with_reducible apply doorbellTail_keeps | with_reducible apply doorbellConsumed_keeps | split

theorem State.noteUnmapped_keeps {s0 : State} (s : State) (off len : Nat) (hk : Keeps s0 s) : Keeps s0 (State.noteUnmapped s off len) := by
  unfold State.noteUnmapped
  iterate 24 try any_goals
    first
    | with_reducible assumption | with_reducible apply State.unmappedWindow_keeps | split | (with_reducible refine Keeps.mkBoot ?_ rfl rfl rfl rfl)

theorem registerStore_keeps {s0 : State} (path : Path) (off size v : Nat) (hw : Word) (s : State) (hk : Keeps s0 s) : Keeps s0 (registerStore path off size v hw s) := by
  unfold registerStore
  iterate 24 try any_goals
    first
    | with_reducible assumption | with_reducible apply State.badWrite_keeps | with_reducible apply State.headerWrite_keeps
    | with_reducible apply State.blockWrite_keeps | with_reducible apply doorbellWrite_keeps | split

theorem registerWrite_keeps {s0 : State} (path : Path) (off size v : Nat) (hw : Word) (s : State) (hk : Keeps s0 s) : Keeps s0 (registerWrite path off size v hw s) := by
  unfold registerWrite
  iterate 24 try any_goals
    first
    | with_reducible assumption | with_reducible apply State.noteUnmapped_keeps | with_reducible apply registerStore_keeps | split

theorem State.returnData_keeps {s0 : State} (s : State) (bs : Bytes) (hk : Keeps s0 s) : Keeps s0 (State.returnData s bs) := by
  unfold State.returnData
  iterate 24 try any_goals
    first
    | with_reducible assumption | with_reducible apply State.send_keeps | split

theorem registerRead_keeps {s0 : State} (off len : Nat) (s : State) (hk : Keeps s0 s) : Keeps s0 (registerRead off len s) := by
  unfold registerRead
  iterate 24 try any_goals
    first
    | with_reducible assumption | with_reducible apply State.badWrite_keeps | with_reducible apply pathFenceLink_keeps
    | with_reducible apply pathFenceWindow_keeps | with_reducible apply pathFencePeer_keeps | with_reducible apply State.noteUnmapped_keeps
    | with_reducible apply State.returnData_keeps | split

theorem State.reportUnmapped_keeps {s0 : State} (s : State) (gs : List Nat) (hk : Keeps s0 s) : Keeps s0 (State.reportUnmapped s gs) := by
  unfold State.reportUnmapped
  iterate 24 try any_goals
    first
    | with_reducible assumption | with_reducible apply State.unmappedWindow_keeps | split | (with_reducible refine Keeps.mkBoot ?_ rfl rfl rfl rfl)

theorem memoryRead_keeps {s0 : State} (a len : Nat) (s : State) (hk : Keeps s0 s) : Keeps s0 (memoryRead a len s) := by
  unfold memoryRead
  dsimp only
  iterate 24 try any_goals
    first
    | with_reducible assumption | with_reducible apply State.count_keeps | with_reducible apply State.send_keeps
    | with_reducible apply State.reportUnmapped_keeps | split

theorem windowRead_keeps {s0 : State} (registers : Bool) (off len : Nat) (s : State) (hk : Keeps s0 s) : Keeps s0 (windowRead registers off len s) := by
  unfold windowRead
  iterate 24 try any_goals
    first
    | with_reducible assumption | with_reducible apply registerRead_keeps | with_reducible apply memoryRead_keeps | split

theorem windowPiece_keeps {s0 : State} (a : Nat) (bs : Bytes) (s : State) (g : Nat) (hk : Keeps s0 s) : Keeps s0 (windowPiece a bs s g) := by
  unfold windowPiece
  dsimp only
  iterate 24 try any_goals
    first
    | with_reducible assumption | with_reducible apply State.storeBytes_keeps | split

theorem windowStore_keeps {s0 : State} (a : Nat) (bs : Bytes) (s : State) (hk : Keeps s0 s) : Keeps s0 (windowStore a bs s) := by
  unfold windowStore
  iterate 24 try any_goals
    first
    | with_reducible assumption | with_reducible apply State.clearCovered_keeps | with_reducible apply State.recomputeFirst_keeps
    | with_reducible apply State.beforeWrite_keeps | with_reducible apply State.storeBytes_keeps | with_reducible apply windowPiece_keeps
    | (with_reducible apply Keeps.foldl; intro _ _ _; try dsimp only) | split

theorem windowWrite_keeps {s0 : State} (a : Nat) (bs : Bytes) (s : State) (hk : Keeps s0 s) : Keeps s0 (windowWrite a bs s) := by
  unfold windowWrite
  iterate 24 try any_goals
    first
    | with_reducible assumption | with_reducible apply State.count_keeps | with_reducible apply State.raiseBlockBit_keeps
    | with_reducible apply State.reportUnmapped_keeps | with_reducible apply windowStore_keeps | split
    | (with_reducible refine Keeps.mkBoot ?_ rfl rfl rfl rfl)

end Sys2Proof.Machine
end

