-- ==== Sys2Proof/Laws/KeepGrey.lean ====
section
/-! SUPPORT. What the functions of Machine/Grey.lean keep: waiting commands, part, fuses and the canonical form of memory. -/

namespace Sys2Proof.Machine

theorem State.greyOk_keeps {s0 : State} (s : State) (words : List Nat) (bytes : Bytes) (hk : Keeps s0 s) : Keeps s0 (State.greyOk s words bytes) := by
  unfold State.greyOk
  iterate 24 try any_goals
    first
    | with_reducible assumption | with_reducible apply State.send_keeps | split

theorem State.greyErr_keeps {s0 : State} (s : State) (hk : Keeps s0 s) : Keeps s0 (State.greyErr s) := by
  unfold State.greyErr
  iterate 24 try any_goals
    first
    | with_reducible assumption | with_reducible apply State.send_keeps | split

theorem State.greyAt_keeps {s0 : State} (s : State) (need : Level) {act : State → State} (ha : ∀ t, Keeps s0 t → Keeps s0 (act t)) (hk : Keeps s0 s) :
    Keeps s0 (s.greyAt need act) := by
  unfold State.greyAt
  split
  · exact hk
  · split
    · exact ha _ hk
    · exact State.greyErr_keeps _ hk

theorem State.modGrey_keeps {s0 : State} (s : State) (f : Grey → Grey) (hk : Keeps s0 s) : Keeps s0 (State.modGrey s f) := by
  unfold State.modGrey
  iterate 24 try any_goals
    first
    | with_reducible assumption | split | (with_reducible refine Keeps.mkBoot ?_ rfl rfl rfl rfl)

theorem greylineChal_keeps {s0 : State} (nonce : Bytes) (s : State) (hk : Keeps s0 s) : Keeps s0 (greylineChal nonce s) := by
  unfold greylineChal
  try dsimp only
  iterate 24 try any_goals
    first
    | with_reducible assumption | with_reducible exact KeepsR.error | with_reducible apply KeepsR.ok | with_reducible apply State.greyOk_keeps
    | with_reducible apply State.greyErr_keeps | with_reducible apply State.greyAt_keeps | with_reducible apply State.modGrey_keeps
    | (with_reducible apply Keeps.foldl; intro _ _ _; try dsimp only) | split | (with_reducible refine KeepsR.of ?_ (by assumption)) | dsimp only
    | intro _ _ | (with_reducible refine Keeps.mkBoot ?_ rfl rfl rfl rfl)

theorem greylineUnlock_keeps {s0 : State} (key : Nat) (sig : Bytes) (s : State) (hk : Keeps s0 s) : Keeps s0 (greylineUnlock key sig s) := by
  unfold greylineUnlock
  try dsimp only
  iterate 24 try any_goals
    first
    | with_reducible assumption | with_reducible exact KeepsR.error | with_reducible apply KeepsR.ok | with_reducible apply State.greyOk_keeps
    | with_reducible apply State.greyErr_keeps | with_reducible apply State.greyAt_keeps | with_reducible apply State.modGrey_keeps
    | (with_reducible apply Keeps.foldl; intro _ _ _; try dsimp only) | split | (with_reducible refine KeepsR.of ?_ (by assumption)) | dsimp only
    | intro _ _ | (with_reducible refine Keeps.mkBoot ?_ rfl rfl rfl rfl)

theorem State.greyTouch_keeps {s0 : State} (s : State) (off : Nat) (hk : Keeps s0 s) : Keeps s0 (State.greyTouch s off) := by
  unfold State.greyTouch
  iterate 24 try any_goals
    first
    | with_reducible assumption | with_reducible apply State.badWrite_keeps | with_reducible apply State.unmappedWindow_keeps | split
    | (with_reducible refine Keeps.mkBoot ?_ rfl rfl rfl rfl)

theorem State.greyReads_keeps {s0 : State} (s : State) (offs : List Nat) (hk : Keeps s0 s) : Keeps s0 (s.greyReads offs).1 := by
  unfold State.greyReads
  suffices h : ∀ (x : State × List Nat), Keeps s0 x.1 →
      Keeps s0 (offs.foldl (fun (x : State × List Nat) off => (x.1.greyTouch off, x.2 ++ [(x.1.greyTouch off).greyValue off])) x).1 from h (s, []) hk
  intro x hx
  induction offs generalizing x with
  | nil => exact hx
  | cons o l ih => exact ih _ (State.greyTouch_keeps _ _ hx)

theorem State.greyReply_keeps {s0 : State} (s : State) (offs : List Nat) (hk : Keeps s0 s) : Keeps s0 (s.greyReply offs) := by
  unfold State.greyReply
  split
  · exact hk
  · exact State.greyOk_keeps _ _ _ (State.greyReads_keeps _ _ hk)

theorem greylineRd_keeps {s0 : State} (off n : Nat) (s : State) (hk : Keeps s0 s) : Keeps s0 (greylineRd off n s) := by
  unfold greylineRd
  try dsimp only
  iterate 24 try any_goals
    first
    | with_reducible assumption | with_reducible exact KeepsR.error | with_reducible apply KeepsR.ok | with_reducible apply State.greyErr_keeps
    | with_reducible apply State.greyAt_keeps | with_reducible apply State.greyReply_keeps
    | (with_reducible apply Keeps.foldl; intro _ _ _; try dsimp only) | split | (with_reducible refine KeepsR.of ?_ (by assumption)) | dsimp only
    | intro _ _ | (with_reducible refine Keeps.mkBoot ?_ rfl rfl rfl rfl)

theorem greyReset_keeps {s0 : State} (kind mask : Nat) (p : Post) (s : State) (hk : Keeps s0 s) : Keeps s0 (greyReset kind mask p s) := by
  unfold greyReset
  iterate 24 try any_goals
    first
    | with_reducible assumption | with_reducible apply regionReset_keeps | with_reducible apply workReset_keeps | with_reducible apply coldReset_keeps
    | split

end Sys2Proof.Machine
end

