-- ==== Sys2Proof/Laws/KeepIdle.lean ====
section
/-! SUPPORT. What the functions of Machine/Idle.lean keep: waiting commands, part, fuses and the canonical form of memory. -/

namespace Sys2Proof.Machine

theorem idleStep_keeps {s0 : State} (s : State) (hk : Keeps s0 s) : Keeps s0 (idleStep s) := by
  unfold idleStep
  iterate 24 try any_goals
    first
    | with_reducible assumption | with_reducible apply State.settleWork_keeps | split | (with_reducible refine Keeps.mkBoot ?_ rfl rfl rfl rfl)

end Sys2Proof.Machine
end

