-- ==== Sys2Proof/Laws/Writes.lean ====
section
/-! SUPPORT. What a command's committed writes leave as it was, and what a row does when nothing stops its command. -/

namespace Sys2Proof.Machine

/-- From `s` with command `c` to `t` with command `d`, only bytes that `d` has written, bits of tracked ranges, and bytes left undefined
have changed; what `c` had written `d` has written too; what `d` holds back lies in what it has written, if that held of `c`. -/
structure Wrote (s : State) (c : Cmd) (t : State) (d : Cmd) : Prop where
  frame : Frame (fun a => d.hasWritten a = true ∨ s.inBitmap a = true) s t
  mono  : ∀ a, c.hasWritten a = true → d.hasWritten a = true
  held  : c.heldNoted = true → d.heldNoted = true

theorem Wrote.refl (s : State) (c : Cmd) : Wrote s c s c := ⟨Frame.refl s, fun _ h => h, id⟩

theorem Wrote.trans {s t u : State} {c d e : Cmd} (h : Wrote s c t d) (k : Wrote t d u e) : Wrote s c u e := by
  refine ⟨(h.frame.mono ?_).trans (k.frame.mono ?_), fun a ha => k.mono a (h.mono a ha), fun x => k.held (h.held x)⟩
  · rintro a (ha | ha)
    · exact .inl (k.mono a ha)
    · exact .inr ha
  · rintro a (ha | ha)
    · exact .inl ha
    · exact .inr (by rw [← h.frame.same.inBitmap]; exact ha)

theorem hasWritten_congr {c d : Cmd} (h : d.wrote = c.wrote) (a : Nat) : d.hasWritten a = c.hasWritten a := by
  unfold Cmd.hasWritten; rw [h]

theorem heldNoted_congr {c d : Cmd} (hw : d.wrote = c.wrote) (hh : d.withheld = c.withheld) : d.heldNoted = c.heldNoted := by
  unfold Cmd.heldNoted; rw [hw, hh]

/-- What is held back of a command that holds back no more lies in what it has written. -/
theorem Wrote.cmdHeld {s t : State} {c d e : Cmd} (h : Wrote s c t d) (he : e.wrote = d.wrote) (hh : d.heldNoted = true → e.heldNoted = true) :
    Wrote s c t e :=
  ⟨h.frame.mono (fun a ha => by rw [hasWritten_congr he]; exact ha), fun a ha => by rw [hasWritten_congr he]; exact h.mono a ha,
   fun x => hh (h.held x)⟩

/-- Other fields of the command do not matter. -/
theorem Wrote.cmd {s t : State} {c d e : Cmd} (h : Wrote s c t d) (he : e.wrote = d.wrote) (hh : e.withheld = d.withheld) : Wrote s c t e :=
  h.cmdHeld he (fun x => by rw [heldNoted_congr he hh]; exact x)

/-- Only the command's other fields differ. -/
theorem Wrote.same (s : State) {c d : Cmd} (h : d.wrote = c.wrote) (hh : d.withheld = c.withheld) : Wrote s c s d := (Wrote.refl s c).cmd h hh

/-- Nothing but what a write may change does. -/
theorem Wrote.writesOnly {s t : State} {c d : Cmd} (h : Wrote s c t d) : WritesOnly s t d := by
  refine ⟨h.frame.same, fun w a ha hd hb => ?_⟩
  have hu : umberBase ≤ 2 ^ 48 := by decide
  obtain ⟨hc, ho⟩ := (h.frame.byte w).2 a (by omega) (by rw [hd, hb]; simp)
  rcases ho with ho | ho
  · left
    rw [State.rawByte_plain _ (by omega), State.rawByte_plain _ (by omega), ho, hc]
  · exact .inr ho

/-! ### Committing -/

theorem hasWritten_noteWrite (s : State) (c : Cmd) (a len x : Nat) :
    (c.noteWrite s a len).hasWritten x = (c.hasWritten x || (decide (a ≤ x) && decide (x < a + len))) := by
  unfold Cmd.noteWrite
  split
  · rename_i h
    have : (decide (a ≤ x) && decide (x < a + len)) = false := by simp; omega
    rw [this, Bool.or_false]
  · rename_i h
    unfold Cmd.hasWritten addRange
    dsimp only
    rw [if_neg h]
    split
    · rename_i b l rest hw
      split
      · rename_i hb
        rw [hw, List.any_cons, List.any_cons]
        by_cases h1 : b ≤ x ∧ x < b + l <;> by_cases h2 : a ≤ x ∧ x < a + len <;> by_cases h3 : b ≤ x ∧ x < b + (l + len) <;>
          first
          | (exfalso; omega)
          | (rw [Bool.eq_iff_iff]; simp [Bool.and_eq_true, Bool.or_eq_true] at *; grind)
      · rw [hw, List.any_cons, List.any_cons]
        cases (List.any rest _) <;> cases (decide (b ≤ x) && decide (x < b + l)) <;> simp [Bool.or_comm]
    · rename_i hw
      rw [hw]; simp

theorem hasWritten_foldNote (s : State) (ws : Writes) (c : Cmd) (x : Nat) :
    (ws.foldl (fun c w => c.noteWrite s w.1 w.2.length) c).hasWritten x =
    (c.hasWritten x || ws.any (fun w => decide (w.1 ≤ x) && decide (x < w.1 + w.2.length))) := by
  induction ws generalizing c with
  | nil => simp
  | cons w ws ih => rw [List.foldl_cons, ih, hasWritten_noteWrite, List.any_cons, Bool.or_assoc]

theorem Frame.storeAll {P : Nat → Prop} {s t : State} (h : Frame P s t) (ws : Writes)
    (ha : ∀ w ∈ ws, ∀ x, w.1 ≤ x → x < w.1 + w.2.length → P x) (hp : ∀ x, t.inBitmap x = true → P x) :
    Frame P s (ws.foldl (fun t w => t.storeBytes w.1 w.2) t) := by
  have hs : ∀ x, s.inBitmap x = true → P x := fun x hx => hp x (by rw [h.same.inBitmap]; exact hx)
  exact Frame.foldlMem (fun u w hw hu => hu.storeBytes _ _ (ha w hw) (fun x hx => hs x (by rw [← hu.same.inBitmap]; exact hx))) h

/-- Joined writes cover what the writes cover. -/
theorem joinWrites_covers (ws : Writes) {w : Nat × Bytes} (hw : w ∈ joinWrites ws) {x : Nat} (h1 : w.1 ≤ x) (h2 : x < w.1 + w.2.length) :
    ∃ v ∈ ws, v.1 ≤ x ∧ x < v.1 + v.2.length := by
  induction ws generalizing w with
  | nil => cases hw
  | cons v ws ih =>
    obtain ⟨a, b⟩ := v
    have here : a ≤ x → x < a + b.length → ∃ v ∈ (a, b) :: ws, v.1 ≤ x ∧ x < v.1 + v.2.length :=
      fun h h' => ⟨(a, b), List.mem_cons_self, h, h'⟩
    have later : ∀ v ∈ joinWrites ws, v.1 ≤ x → x < v.1 + v.2.length → ∃ v ∈ (a, b) :: ws, v.1 ≤ x ∧ x < v.1 + v.2.length := by
      intro v hv h h'
      obtain ⟨u, hu, hx⟩ := ih hv h h'
      exact ⟨u, List.mem_cons_of_mem _ hu, hx⟩
    unfold joinWrites at hw
    split at hw
    · rename_i a' b' r hj
      split at hw
      · rename_i he
        rcases List.mem_cons.mp hw with rfl | hw
        · dsimp only at h1 h2
          rw [List.length_append] at h2
          by_cases hx : x < a + b.length
          · exact here h1 hx
          · exact later (a', b') (by rw [hj]; exact List.mem_cons_self) (by dsimp only; omega) (by dsimp only; omega)
        · exact later w (by rw [hj]; exact List.mem_cons_of_mem _ hw) h1 h2
      · rcases List.mem_cons.mp hw with rfl | hw
        · exact here h1 h2
        · exact later w (by rw [hj]; exact hw) h1 h2
    · rcases List.mem_cons.mp hw with rfl | hw
      · exact here h1 h2
      · cases hw

/-- A range stays within a recorded one when another is added. -/
theorem addRange_keeps (l : List (Nat × Nat)) (a len x k : Nat) (h : l.any (fun r => decide (r.1 ≤ x) && decide (x + k ≤ r.1 + r.2)) = true) :
    (addRange l a len).any (fun r => decide (r.1 ≤ x) && decide (x + k ≤ r.1 + r.2)) = true := by
  unfold addRange
  split
  · exact h
  · split
    · split
      · rename_i h1
        rw [List.any_cons, Bool.or_eq_true] at h ⊢
        rcases h with h | h
        · left; simp only [Bool.and_eq_true, decide_eq_true_eq] at h ⊢; omega
        · exact .inr h
      · rw [List.any_cons, h, Bool.or_true]
    · cases h

/-- The range added lies within a recorded one. -/
theorem addRange_self (l : List (Nat × Nat)) (a len x k : Nat) (hl : len ≠ 0) (h1 : a ≤ x) (h2 : x + k ≤ a + len) :
    (addRange l a len).any (fun r => decide (r.1 ≤ x) && decide (x + k ≤ r.1 + r.2)) = true := by
  unfold addRange
  rw [if_neg hl]
  split
  · split
    · rename_i h3
      rw [List.any_cons, Bool.or_eq_true]
      left; simp only [Bool.and_eq_true, decide_eq_true_eq]; omega
    · rw [List.any_cons, Bool.or_eq_true]
      left; simp only [Bool.and_eq_true, decide_eq_true_eq]; omega
  · rw [List.any_cons, Bool.or_eq_true]
    left; simp only [Bool.and_eq_true, decide_eq_true_eq]; omega

/-- A range within one that the command has recorded. -/
def Cmd.covers (c : Cmd) (x k : Nat) : Prop := c.wrote.any (fun r => decide (r.1 ≤ x) && decide (x + k ≤ r.1 + r.2)) = true

theorem covers_noteWrite (s : State) (c : Cmd) (a len x k : Nat) (h : c.covers x k) : (c.noteWrite s a len).covers x k := by
  unfold Cmd.noteWrite
  split
  · exact h
  · exact addRange_keeps _ _ _ _ _ h

theorem covers_foldNote (s : State) (ws : Writes) (c : Cmd) (x k : Nat) (h : c.covers x k) :
    (ws.foldl (fun c w => c.noteWrite s w.1 w.2.length) c).covers x k := by
  induction ws generalizing c with
  | nil => exact h
  | cons w ws ih => exact ih _ (covers_noteWrite _ _ _ _ _ _ h)

/-- What is committed is recorded, each joined write in one range. -/
theorem covers_committed (s : State) (ws : Writes) (c : Cmd) {w : Nat × Bytes} (hw : w ∈ ws) {x k : Nat} (h0 : w.2.length ≠ 0) (h1 : w.1 ≤ x)
    (h2 : x + k ≤ w.1 + w.2.length) : (ws.foldl (fun c w => c.noteWrite s w.1 w.2.length) c).covers x k := by
  induction ws generalizing c with
  | nil => cases hw
  | cons v ws ih =>
    rcases List.mem_cons.mp hw with rfl | hw
    · refine covers_foldNote s ws _ x k ?_
      show (Cmd.noteWrite s c w.1 w.2.length).covers x k
      unfold Cmd.noteWrite
      rw [if_neg h0]
      exact addRange_self _ _ _ _ _ h0 h1 h2
    · exact ih _ hw

theorem noteWrite_withheld (s : State) (c : Cmd) (a len : Nat) : (c.noteWrite s a len).withheld = c.withheld := by
  unfold Cmd.noteWrite; split <;> rfl

theorem foldNote_withheld (s : State) (ws : Writes) (c : Cmd) : (ws.foldl (fun c w => c.noteWrite s w.1 w.2.length) c).withheld = c.withheld := by
  induction ws generalizing c with
  | nil => rfl
  | cons w ws ih => rw [List.foldl_cons, ih, noteWrite_withheld]

theorem heldNoted_iff (c : Cmd) : c.heldNoted = true ↔ ∀ w ∈ c.withheld, c.covers w.1 w.2.length := by
  unfold Cmd.heldNoted Cmd.covers
  exact List.all_eq_true

/-- A commit changes what it writes alone. -/
theorem commitWrites_wrote {s t : State} {c d : Cmd} {p : Packed} (e : commitWrites s c p = .ok (t, d)) : Wrote s c t d := by
  unfold commitWrites State.writeAll at e
  split at e
  · cases e
  · rename_i u hu
    cases e
    split at hu
    · cases hu
    · cases hu
      refine ⟨(Frame.refl s).storeAll _ (fun w hw x h1 h2 => .inl ?_) (fun x hx => .inr hx), fun a ha => ?_, fun hh => ?_⟩
      · rw [hasWritten_foldNote]
        simp only [Bool.or_eq_true, List.any_eq_true]
        exact .inr ⟨w, hw, by simp [h1, h2]⟩
      · rw [hasWritten_foldNote]
        have : Cmd.hasWritten { c with sat := c.sat + p.sat } a = true := ha
        rw [this]; rfl
      · rw [heldNoted_iff] at hh ⊢
        intro w hw
        rw [foldNote_withheld] at hw
        exact covers_foldNote _ _ _ _ _ (hh w hw)

/-- The parts of a write that its whole granules leave lie in it. -/
theorem wholeGranules_within (w : Nat × Bytes) :
    (∀ v ∈ (wholeGranules w).1, w.1 ≤ v.1 ∧ v.1 + v.2.length ≤ w.1 + w.2.length) ∧
    (∀ v ∈ (wholeGranules w).2, w.1 ≤ v.1 ∧ v.1 + v.2.length ≤ w.1 + w.2.length ∧ v.2 ≠ []) := by
  obtain ⟨a, b⟩ := w
  unfold wholeGranules
  dsimp only
  generalize hh : min b.length ((64 - a % 64) % 64) = h
  have hb : h ≤ b.length := by omega
  generalize hm : (b.length - h) / 64 * 64 = m
  have hmb : h + m ≤ b.length := by
    have := Nat.div_mul_le_self (b.length - h) 64
    omega
  refine ⟨fun v hv => ?_, fun v hv => ?_⟩
  · split at hv
    · cases hv
    · rw [List.mem_singleton] at hv
      subst hv
      unfold sliceOf
      simp only [List.length_take, List.length_drop]
      omega
  · rw [List.mem_filter] at hv
    obtain ⟨hv, hne⟩ := hv
    have hne' : v.2 ≠ [] := by
      intro h0; rw [h0] at hne; simp at hne
    simp only [List.mem_cons, List.not_mem_nil, or_false] at hv
    rcases hv with rfl | rfl
    · refine ⟨by dsimp only; omega, ?_, hne'⟩
      simp only [List.length_take]; omega
    · refine ⟨by dsimp only; omega, ?_, hne'⟩
      simp only [List.length_drop]; omega

/-- A commit of whole granules changes what it writes alone, and what it holds back it has recorded. -/
theorem commitGranules_wrote {s t : State} {c d : Cmd} {p : Packed} (e : commitGranules s c p = .ok (t, d)) : Wrote s c t d := by
  unfold commitGranules at e
  cases hc : commitWrites s c p with
  | error st => rw [hc] at e; cases e
  | ok r =>
    rw [hc] at e
    have hw := commitWrites_wrote (t := r.1) (d := r.2) hc
    have hd : ∀ w ∈ joinWrites p.writes, w.2.length ≠ 0 → ∀ x k, w.1 ≤ x → x + k ≤ w.1 + w.2.length → r.2.covers x k := by
      intro w hj h0 x k h1 h2
      unfold commitWrites at hc
      split at hc
      · cases hc
      · cases hc
        exact covers_committed s _ _ hj h0 h1 h2
    simp only [bind, Except.bind] at e
    cases ha : s.writeAll (List.flatMap (fun x => x.1) (List.map wholeGranules (joinWrites p.writes))) with
    | error st => rw [ha] at e; cases e
    | ok u =>
      rw [ha] at e
      cases e
      unfold State.writeAll at ha
      split at ha
      · cases ha
      · cases ha
        refine ⟨(Frame.refl s).storeAll _ (fun w hj x h1 h2 => .inl ?_) (fun x hx => .inr hx), hw.mono, fun hh => ?_⟩
        · obtain ⟨v, hv, h3, h4⟩ := joinWrites_covers _ hj h1 h2
          rw [List.mem_flatMap] at hv
          obtain ⟨g, hg, hvg⟩ := hv
          obtain ⟨w', hw', rfl⟩ := List.mem_map.mp hg
          obtain ⟨h5, h6⟩ := (wholeGranules_within w').1 v hvg
          have hcv := hd w' hw' (by omega) x 1 (by omega) (by omega)
          unfold Cmd.covers at hcv
          obtain ⟨q, hq, hqd⟩ := List.any_eq_true.mp hcv
          refine List.any_eq_true.mpr ⟨q, hq, ?_⟩
          simp only [Bool.and_eq_true, decide_eq_true_eq] at hqd ⊢
          omega
        · rw [heldNoted_iff]
          intro w hwm
          dsimp only at hwm
          rcases List.mem_append.mp hwm with h | h
          · exact (heldNoted_iff r.2).mp (hw.held hh) w h
          · rw [List.mem_flatMap] at h
            obtain ⟨g, hg, hvg⟩ := h
            obtain ⟨w', hw', rfl⟩ := List.mem_map.mp hg
            obtain ⟨h5, h6, h7⟩ := (wholeGranules_within w').2 w hvg
            have hl : w.2.length ≠ 0 := fun h0 => h7 (List.length_eq_zero_iff.mp h0)
            exact hd w' hw' (by omega) w.1 w.2.length h5 h6

theorem openRange_wrote (s : State) (c : Cmd) (a len : Nat) : Wrote s c (s.openRange a len) c :=
  ⟨(Frame.refl s).openRange a len, fun _ h => h, id⟩

/-- An error record changes pages, the outbox and the summary's memory alone. -/
theorem wrote_of_same {s t : State} (c : Cmd) (h : SameElse s t) (hm : t.mem = s.mem) (hf : t.freeCount = s.freeCount) : Wrote s c t c :=
  ⟨(Frame.refl s).sameMem h hm hf, fun _ h => h, id⟩

/-! ### Rows -/

theorem keepTables_wrote (s : State) (c : Cmd) (as : List Nat) : (c.keepTables s as).wrote = c.wrote := by
  unfold Cmd.keepTables
  dsimp only
  split <;> rfl

theorem keepTables_withheld (s : State) (c : Cmd) (as : List Nat) : (c.keepTables s as).withheld = c.withheld := by
  unfold Cmd.keepTables
  dsimp only
  split <;> rfl

/-- What a command holds back lies in what it has written. -/
theorem hasWritten_of_held {c : Cmd} (h : c.heldNoted = true) {w : Nat × Bytes} (hw : w ∈ c.withheld) {x : Nat} (h1 : w.1 ≤ x)
    (h2 : x < w.1 + w.2.length) : c.hasWritten x = true := by
  obtain ⟨r, hr, hd⟩ := List.any_eq_true.mp (List.all_eq_true.mp h w hw)
  simp only [Bool.and_eq_true, decide_eq_true_eq] at hd
  refine List.any_eq_true.mpr ⟨r, hr, ?_⟩
  simp only [Bool.and_eq_true, decide_eq_true_eq]
  omega

/-- Granules held back are written. -/
theorem releaseWithheld_wrote {s t : State} {c : Cmd} (hh : c.heldNoted = true) (e : releaseWithheld s c = .ok t) : Wrote s c t c := by
  unfold releaseWithheld at e
  split at e
  · cases e; exact Wrote.refl s c
  · unfold State.writeAll at e
    split at e
    · cases e
    · cases e
      exact ⟨(Frame.refl s).storeAll _ (fun w hw x h1 h2 =>
        have ⟨_, hv, h3, h4⟩ := joinWrites_covers _ hw h1 h2
        .inl (hasWritten_of_held hh hv h3 h4)) (fun x hx => .inr hx), fun _ h => h, id⟩

/-- Units committed one after another. -/
theorem Op.runUnits_wrote {op : Op} (hu : ∀ s c k t d, op.unit s c k = .ok (t, d) → Wrote s c t d) (ks : List Nat) (s : State) (c : Cmd) :
    Wrote s c (op.runUnits ks s c).1 (op.runUnits ks s c).2.1 := by
  induction ks generalizing s c with
  | nil => exact Wrote.refl s c
  | cons k ks ih =>
    unfold Op.runUnits
    split
    · exact ih s c
    · split
      · exact Wrote.refl s c
      · have hk : Wrote s c s (c.keepTables s (op.tables s c)) :=
          (Wrote.refl s c).cmd (keepTables_wrote _ _ _) (keepTables_withheld _ _ _)
        dsimp only
        split
        · exact hk
        · rename_i t d e
          refine Wrote.trans (d := { d with done := insertNat k d.done, units := d.units + op.weight s (c.keepTables s (op.tables s c)) k }) ?_ (ih _ _)
          exact hk.trans ((hu _ _ _ _ _ e).cmd rfl rfl)

/-- A command that nothing stops changes what its units and its report write. -/
theorem Op.outcome_wrote {op : Op} (hu : ∀ s c k t d, op.unit s c k = .ok (t, d) → Wrote s c t d)
    (hf : ∀ s c t d, op.finish s c = .ok (t, d) → Wrote s c t d) {s t : State} {c d : Cmd} (hh : c.heldNoted = true)
    (e : op.outcome s c = some (t, d)) : Wrote s c t d := by
  unfold Op.outcome at e
  have h := Op.runUnits_wrote hu (List.range (op.total s c)) s c
  split at e
  · cases e
  · split at e
    · rename_i u v hr
      rw [hr] at h
      split at e
      · cases hw : releaseWithheld u v with
        | error => rw [hw] at e; cases e
        | ok w =>
          rw [hw] at e
          simp only [Except.bind] at e
          cases hfin : op.finish w { v with withheld := [] } with
          | error => rw [hfin] at e; cases e
          | ok r =>
            rw [hfin] at e
            cases e
            have h1 : Wrote s c w { v with withheld := [] } := (h.trans (releaseWithheld_wrote (h.held hh) hw)).cmdHeld rfl (fun _ => rfl)
            exact h1.trans (hf _ _ _ _ hfin)
      · cases e
    · cases e

/-- The row of a command that nothing stops. -/
theorem runRow_of_outcome {op : Op} {sel : Cmd → Bool} {s t : State} {q n : Nat} {c d : Cmd} (hc : s.runnable q n sel = some c)
    (ho : op.outcome s c = some (t, d)) : runRow op sel q n s = t.putCmd { d with phase := .ended } := by
  unfold Op.outcome at ho
  unfold runRow
  rw [hc]
  dsimp only
  unfold Op.runAll Op.runSome
  split at ho
  · cases ho
  · rename_i hi
    try rw [hi]
    try dsimp only
    unfold Op.settle
    split at ho
    · rename_i u e hr
      rw [hr]
      dsimp only
      split at ho
      · rename_i hn
        rw [if_pos hn]
        unfold Op.close
        cases hb : (releaseWithheld u e).bind (fun v => op.finish v { e with withheld := [] }) with
        | error => rw [hb] at ho; cases ho
        | ok r => rw [hb] at ho; cases ho; rfl
      · cases ho
    · cases ho

/-- The row of a command that nothing stops, as `Op.Runs` says it. -/
theorem runRow_of_runs {op : Op} {sel : Cmd → Bool} {s t : State} {q n : Nat} {d : Cmd} (h : op.Runs sel s q n t d) :
    runRow op sel q n s = t.putCmd { d with phase := .ended } := by
  obtain ⟨c, hc, _, ho⟩ := h
  exact runRow_of_outcome hc ho

end Sys2Proof.Machine
end

