-- ==== Sys2Proof/Laws/Wrote.lean ====
section
/-! SUPPORT. The units and ends of the opcodes that only write: each changes what `Wrote` says and nothing else. -/

namespace Sys2Proof.Machine

/-- An update of the command's other fields. -/
theorem Wrote.mkCmd {s t : State} {c d : Cmd} {xq : Nat} {xn : Nat} {xdesc : Bytes} {xphase : Phase} {xmirrored : Bool} {xbody : Bytes} {xrefused1 : Bool} {xstatus : Status} {xsat : Nat} {xunits : Nat} {xwroteLocal : Bool} {xwroteSlate : Bool} {xwrotePeer : Bool} {xresumed : Bool} {xreplayed : Bool} {xcommitted : Bool} {xnoticed : Bool} {xdone : List Nat} {xregions : List Nat} {xtowers : List Nat} {xlatches : List (Nat × Nat)} {xclaim : Option StackClaim} {xkept : List (Nat × List Nat)} {xcounts : List Nat} {xcoll : CollProgress} {xflags : List (Nat × Bool)} {xofStream : Bool} {xtables : List (Nat × Bytes)} {xengines : Tab Nat} {xdispatched : Bool} {xstep : Option Nat} {xrise : Nat} (h : Wrote s c t d) :
    Wrote s c t (Cmd.mk xq xn xdesc xphase xmirrored xbody xrefused1 xstatus xsat xunits xwroteLocal xwroteSlate xwrotePeer xresumed xreplayed xcommitted xnoticed xdone d.wrote xregions xtowers xlatches xclaim xkept xcounts xcoll xflags xofStream xtables xengines d.withheld xdispatched xstep xrise) := h.cmd rfl rfl

theorem Wrote.addCnt {s t : State} {c d : Cmd} (h : Wrote s c t d) (i k : Nat) : Wrote s c t (d.addCnt i k) := h.cmd rfl rfl

theorem Wrote.putCnt {s t : State} {c d : Cmd} (h : Wrote s c t d) (i k : Nat) : Wrote s c t (d.putCnt i k) := h.cmd rfl rfl

theorem Wrote.moved {s t : State} {c d : Cmd} (h : Wrote s c t d) (i j k : Nat) : Wrote s c t (d.moved i j k) := h.cmd rfl rfl

/-- What a computation that may stop with a status has written when it goes on. -/
def WroteR (s : State) (c : Cmd) (r : Except Status (State × Cmd)) : Prop := ∀ p, r = .ok p → Wrote s c p.1 p.2

theorem WroteR.ok {s t : State} {c d : Cmd} (h : Wrote s c t d) : WroteR s c (.ok (t, d)) := by intro p e; cases e; exact h
theorem WroteR.ok' {s : State} {c : Cmd} {p : State × Cmd} (h : Wrote s c p.1 p.2) : WroteR s c (.ok p) := by intro p e; cases e; exact h
theorem WroteR.error {s : State} {c : Cmd} {st : Status} : WroteR s c (.error st) := by intro p e; cases e
theorem WroteR.bind {s : State} {c : Cmd} {x : Except Status (State × Cmd)} {f : State × Cmd → Except Status (State × Cmd)} (hx : WroteR s c x)
    (hf : ∀ p, Wrote s c p.1 p.2 → WroteR s c (f p)) : WroteR s c (x >>= f) := by
  cases x with
  | error st => exact WroteR.error
  | ok p => exact hf p (hx p rfl)
theorem WroteR.bindV {α : Type} {s : State} {c : Cmd} {x : Except Status α} {f : α → Except Status (State × Cmd)} (hf : ∀ a, WroteR s c (f a)) :
    WroteR s c (x >>= f) := by
  cases x with
  | error st => exact WroteR.error
  | ok a => exact hf a
theorem WroteR.map {s : State} {c : Cmd} {x : Except Status (State × Cmd)} {f : State × Cmd → State × Cmd} (hx : WroteR s c x)
    (hf : ∀ p, Wrote s c p.1 p.2 → Wrote s c (f p).1 (f p).2) : WroteR s c (x.map f) := by
  cases x with
  | error st => exact WroteR.error
  | ok p => exact WroteR.ok' (hf p (hx p rfl))
theorem WroteR.of {s t : State} {c d : Cmd} {r : Except Status (State × Cmd)} (hr : WroteR s c r) (e : r = .ok (t, d)) : Wrote s c t d := hr _ e

theorem commitWrites_wroteR {s0 : State} {c0 : Cmd} {s : State} {c : Cmd} {p : Packed} (hk : Wrote s0 c0 s c) : WroteR s0 c0 (commitWrites s c p) :=
  fun r e => hk.trans (commitWrites_wrote (t := r.1) (d := r.2) e)

theorem commitGranules_wroteR {s0 : State} {c0 : Cmd} {s : State} {c : Cmd} {p : Packed} (hk : Wrote s0 c0 s c) : WroteR s0 c0 (commitGranules s c p) :=
  fun r e => hk.trans (commitGranules_wrote (t := r.1) (d := r.2) e)

theorem writeReport_wroteR {s0 : State} {c0 : Cmd} {s : State} {c : Cmd} {on : Bool} {a : Nat} {bs : Bytes} (hk : Wrote s0 c0 s c) :
    WroteR s0 c0 (writeReport s c on a bs) := by
  unfold writeReport
  split
  · exact commitWrites_wroteR hk
  · exact WroteR.ok hk

theorem Wrote.openRange {s0 : State} {c0 : Cmd} {s : State} {c : Cmd} (hk : Wrote s0 c0 s c) (a len : Nat) : Wrote s0 c0 (s.openRange a len) c :=
  hk.trans (openRange_wrote s c a len)

theorem Wrote.sameMem {s0 : State} {c0 : Cmd} {s t : State} {c : Cmd} (hk : Wrote s0 c0 s c) (h : SameElse s t) (hm : t.mem = s.mem) (hf : t.freeCount = s.freeCount) :
    Wrote s0 c0 t c := hk.trans (wrote_of_same c h hm hf)

theorem Wrote.send {s0 : State} {c0 : Cmd} {s : State} {c : Cmd} (hk : Wrote s0 c0 s c) (o : Out) : Wrote s0 c0 (s.send o) c := hk.sameMem rfl rfl rfl

theorem Wrote.foldl {α : Type} {s0 : State} {c0 : Cmd} {t : State} {d : Cmd} {f : State → α → State} {l : List α}
    (hf : ∀ u x, Wrote s0 c0 u d → Wrote s0 c0 (f u x) d) (h : Wrote s0 c0 t d) : Wrote s0 c0 (l.foldl f t) d := by
  induction l generalizing t with
  | nil => exact h
  | cons x l ih => exact ih (hf _ _ h)

theorem Wrote.foldCmd {α : Type} {s0 : State} {c0 : Cmd} {t : State} {d : Cmd} {f : Cmd → α → Cmd} {l : List α}
    (hf : ∀ u x, Wrote s0 c0 t u → Wrote s0 c0 t (f u x)) (h : Wrote s0 c0 t d) : Wrote s0 c0 t (l.foldl f d) := by
  induction l generalizing d with
  | nil => exact h
  | cons x l ih => exact ih (hf _ _ h)

theorem Wrote.putPage {s0 : State} {c0 : Cmd} {s : State} {c : Cmd} (hk : Wrote s0 c0 s c) (p : Nat) (h : Page) : Wrote s0 c0 (s.putPage p h) c := by
  unfold State.putPage
  dsimp only
  split <;> exact hk.sameMem rfl rfl rfl

theorem Wrote.record {s0 : State} {c0 : Cmd} {s : State} {c : Cmd} (hk : Wrote s0 c0 s c) (p : Nat) (e : ErrClass) (detail : Nat) :
    Wrote s0 c0 (s.record p e detail) c := by
  unfold State.record State.recordIn State.modPage
  exact hk.putPage _ _

theorem Wrote.noteStop {s0 : State} {c0 : Cmd} {s : State} {c : Cmd} (hk : Wrote s0 c0 s c) (p : Nat) (st : Status) :
    Wrote s0 c0 (s.noteStop p st) c := by
  unfold State.noteStop
  repeat' split
  all_goals first | exact hk | exact hk.record _ _ _

theorem Wrote.walkerBlame {s0 : State} {c0 : Cmd} {s : State} {c : Cmd} (hk : Wrote s0 c0 s c) (d : Cmd) (st : Status) :
    Wrote s0 c0 (Sys2Proof.Machine.walkerBlame s d st) c := hk.noteStop _ _

theorem Wrote.mirror {s0 : State} {c0 : Cmd} {s : State} {c : Cmd} (hk : Wrote s0 c0 s c) (w : Option MirrorWait) (kind : String) (ws : List Nat) (bs : Bytes) :
    Wrote s0 c0 (s.mirror w kind ws bs) c := by
  unfold State.mirror
  split
  · exact hk
  · have h : Wrote s0 c0 (s.sendTwin kind ws bs) c := hk.trans ⟨(Frame.refl s).sends (sendTwin_sends _ _ _ _), fun _ h => h, id⟩
    dsimp only
    split
    · exact h
    · exact h.sameMem rfl rfl rfl

theorem endWith_wrote {s0 : State} {c0 : Cmd} {s : State} {c : Cmd} (hk : Wrote s0 c0 s c) (st : Status) (outs : List (Nat × Nat)) :
    Wrote s0 c0 (endWith s c st outs).1 (endWith s c st outs).2 := by
  unfold endWith
  dsimp only
  apply Wrote.mkCmd
  split
  · exact Wrote.foldl (fun u r hu => hu.openRange _ _) hk
  · exact hk

theorem moveElems_wrote {s0 : State} {c0 : Cmd} (s : State) (c : Cmd) (k : Nat) (hk : Wrote s0 c0 s c) : WroteR s0 c0 (moveElems s c k) := by
  unfold moveElems
  try dsimp only
  iterate 24 try any_goals
    first
    | with_reducible assumption | with_reducible exact WroteR.error | with_reducible apply WroteR.ok 
    | with_reducible apply commitWrites_wroteR | with_reducible apply commitGranules_wroteR | with_reducible apply writeReport_wroteR | with_reducible apply endWith_wrote
    | with_reducible apply Wrote.addCnt | with_reducible apply Wrote.putCnt | with_reducible apply Wrote.moved | with_reducible apply Wrote.openRange | with_reducible apply Wrote.send | with_reducible apply Wrote.record | with_reducible apply Wrote.noteStop
    | with_reducible apply Wrote.mirror | (with_reducible refine WroteR.map ?_ (fun p hp => ?_)) | (with_reducible refine WroteR.bind ?_ (fun p hp => ?_))
    | (with_reducible refine WroteR.bindV (fun a => ?_)) | split | (with_reducible refine WroteR.of ?_ (by assumption))
    | (with_reducible apply Wrote.foldl; intro _ _ _; try dsimp only) | (with_reducible apply Wrote.foldCmd; intro _ _ _; try dsimp only)
    | with_reducible apply Wrote.mkCmd | dsimp only

theorem moveBlocks_wrote {s0 : State} {c0 : Cmd} (s : State) (c : Cmd) (k : Nat) (hk : Wrote s0 c0 s c) : WroteR s0 c0 (moveBlocks s c k) := by
  unfold moveBlocks
  try dsimp only
  iterate 24 try any_goals
    first
    | with_reducible assumption | with_reducible exact WroteR.error | with_reducible apply WroteR.ok 
    | with_reducible apply commitWrites_wroteR | with_reducible apply commitGranules_wroteR | with_reducible apply writeReport_wroteR | with_reducible apply endWith_wrote
    | with_reducible apply Wrote.addCnt | with_reducible apply Wrote.putCnt | with_reducible apply Wrote.moved | with_reducible apply Wrote.openRange | with_reducible apply Wrote.send | with_reducible apply Wrote.record | with_reducible apply Wrote.noteStop
    | with_reducible apply Wrote.mirror | (with_reducible refine WroteR.map ?_ (fun p hp => ?_)) | (with_reducible refine WroteR.bind ?_ (fun p hp => ?_))
    | (with_reducible refine WroteR.bindV (fun a => ?_)) | split | (with_reducible refine WroteR.of ?_ (by assumption))
    | (with_reducible apply Wrote.foldl; intro _ _ _; try dsimp only) | (with_reducible apply Wrote.foldCmd; intro _ _ _; try dsimp only)
    | with_reducible apply Wrote.mkCmd | dsimp only

theorem mvUnit_wrote {s0 : State} {c0 : Cmd} (s : State) (c : Cmd) (k : Nat) (hk : Wrote s0 c0 s c) : WroteR s0 c0 (mvUnit s c k) := by
  unfold mvUnit
  try dsimp only
  iterate 24 try any_goals
    first
    | with_reducible assumption | with_reducible exact WroteR.error | with_reducible apply WroteR.ok | with_reducible apply moveElems_wrote | with_reducible apply moveBlocks_wrote
    | with_reducible apply commitWrites_wroteR | with_reducible apply commitGranules_wroteR | with_reducible apply writeReport_wroteR | with_reducible apply endWith_wrote
    | with_reducible apply Wrote.addCnt | with_reducible apply Wrote.putCnt | with_reducible apply Wrote.moved | with_reducible apply Wrote.openRange | with_reducible apply Wrote.send | with_reducible apply Wrote.record | with_reducible apply Wrote.noteStop
    | with_reducible apply Wrote.mirror | (with_reducible refine WroteR.map ?_ (fun p hp => ?_)) | (with_reducible refine WroteR.bind ?_ (fun p hp => ?_))
    | (with_reducible refine WroteR.bindV (fun a => ?_)) | split | (with_reducible refine WroteR.of ?_ (by assumption))
    | (with_reducible apply Wrote.foldl; intro _ _ _; try dsimp only) | (with_reducible apply Wrote.foldCmd; intro _ _ _; try dsimp only)
    | with_reducible apply Wrote.mkCmd | dsimp only

theorem mvFinish_wrote {s0 : State} {c0 : Cmd} (s : State) (c : Cmd) (hk : Wrote s0 c0 s c) : WroteR s0 c0 (mvFinish s c) := by
  unfold mvFinish
  try dsimp only
  iterate 24 try any_goals
    first
    | with_reducible assumption | with_reducible exact WroteR.error | with_reducible apply WroteR.ok 
    | with_reducible apply commitWrites_wroteR | with_reducible apply commitGranules_wroteR | with_reducible apply writeReport_wroteR | with_reducible apply endWith_wrote
    | with_reducible apply Wrote.addCnt | with_reducible apply Wrote.putCnt | with_reducible apply Wrote.moved | with_reducible apply Wrote.openRange | with_reducible apply Wrote.send | with_reducible apply Wrote.record | with_reducible apply Wrote.noteStop
    | with_reducible apply Wrote.mirror | (with_reducible refine WroteR.map ?_ (fun p hp => ?_)) | (with_reducible refine WroteR.bind ?_ (fun p hp => ?_))
    | (with_reducible refine WroteR.bindV (fun a => ?_)) | split | (with_reducible refine WroteR.of ?_ (by assumption))
    | (with_reducible apply Wrote.foldl; intro _ _ _; try dsimp only) | (with_reducible apply Wrote.foldCmd; intro _ _ _; try dsimp only)
    | with_reducible apply Wrote.mkCmd | dsimp only

theorem trkFinish_wrote {s0 : State} {c0 : Cmd} (s : State) (c : Cmd) (hk : Wrote s0 c0 s c) : WroteR s0 c0 (trkFinish s c) := by
  unfold trkFinish
  try dsimp only
  iterate 24 try any_goals
    first
    | with_reducible assumption | with_reducible exact WroteR.error | with_reducible apply WroteR.ok 
    | with_reducible apply commitWrites_wroteR | with_reducible apply commitGranules_wroteR | with_reducible apply writeReport_wroteR | with_reducible apply endWith_wrote
    | with_reducible apply Wrote.addCnt | with_reducible apply Wrote.putCnt | with_reducible apply Wrote.moved | with_reducible apply Wrote.openRange | with_reducible apply Wrote.send | with_reducible apply Wrote.record | with_reducible apply Wrote.noteStop
    | with_reducible apply Wrote.mirror | (with_reducible refine WroteR.map ?_ (fun p hp => ?_)) | (with_reducible refine WroteR.bind ?_ (fun p hp => ?_))
    | (with_reducible refine WroteR.bindV (fun a => ?_)) | split | (with_reducible refine WroteR.of ?_ (by assumption))
    | (with_reducible apply Wrote.foldl; intro _ _ _; try dsimp only) | (with_reducible apply Wrote.foldCmd; intro _ _ _; try dsimp only)
    | with_reducible apply Wrote.mkCmd | dsimp only

theorem commitTiles_wrote {s0 : State} {c0 : Cmd} (s : State) (c : Cmd) (g : Mat) (ts : List TileDone) (hk : Wrote s0 c0 s c) : WroteR s0 c0 (commitTiles s c g ts) := by
  unfold commitTiles
  split
  · exact WroteR.error
  · rename_i t d e
    refine WroteR.ok (Wrote.addCnt (Wrote.addCnt (Wrote.addCnt ?_ _ _) _ _) _ _)
    cases h : s.heldReadable c with
    | error st => rw [h] at e; cases e
    | ok u =>
      rw [h] at e
      simp only [Except.bind] at e
      split at e
      · exact (commitGranules_wroteR hk).of e
      · exact (commitWrites_wroteR hk).of e

theorem withMeasure_wrote {s : State} {c d : Cmd} {g : Mat} (e : withMeasure s c g = .ok d) : d.wrote = c.wrote ∧ d.withheld = c.withheld := by
  unfold withMeasure at e
  split at e
  · cases e; exact ⟨rfl, rfl⟩
  · split at e
    · cases e
    · cases e; exact ⟨rfl, rfl⟩

theorem matUnit_wrote {s0 : State} {c0 : Cmd} (s : State) (c : Cmd) (k : Nat) (hk : Wrote s0 c0 s c) : WroteR s0 c0 (matUnit s c k) := by
  unfold matUnit
  split
  · exact WroteR.error
  · rename_i g _
    cases hm : withMeasure s c g with
    | error st => exact WroteR.error
    | ok d => exact WroteR.bindV (f := fun ts => commitTiles s d g ts) (fun ts => commitTiles_wrote _ _ _ _ (hk.cmd (withMeasure_wrote hm).1 (withMeasure_wrote hm).2))

theorem ewUnit_wrote {s0 : State} {c0 : Cmd} (s : State) (c : Cmd) (k : Nat) (hk : Wrote s0 c0 s c) : WroteR s0 c0 (ewUnit s c k) := by
  unfold ewUnit
  try dsimp only
  iterate 24 try any_goals
    first
    | with_reducible assumption | with_reducible exact WroteR.error | with_reducible apply WroteR.ok 
    | with_reducible apply commitWrites_wroteR | with_reducible apply commitGranules_wroteR | with_reducible apply writeReport_wroteR | with_reducible apply endWith_wrote
    | with_reducible apply Wrote.addCnt | with_reducible apply Wrote.putCnt | with_reducible apply Wrote.moved | with_reducible apply Wrote.openRange | with_reducible apply Wrote.send | with_reducible apply Wrote.record | with_reducible apply Wrote.noteStop
    | with_reducible apply Wrote.mirror | (with_reducible refine WroteR.map ?_ (fun p hp => ?_)) | (with_reducible refine WroteR.bind ?_ (fun p hp => ?_))
    | (with_reducible refine WroteR.bindV (fun a => ?_)) | split | (with_reducible refine WroteR.of ?_ (by assumption))
    | (with_reducible apply Wrote.foldl; intro _ _ _; try dsimp only) | (with_reducible apply Wrote.foldCmd; intro _ _ _; try dsimp only)
    | with_reducible apply Wrote.mkCmd | dsimp only

theorem redUnit_wrote {s0 : State} {c0 : Cmd} (s : State) (c : Cmd) (k : Nat) (hk : Wrote s0 c0 s c) : WroteR s0 c0 (redUnit s c k) := by
  unfold redUnit
  try dsimp only
  iterate 24 try any_goals
    first
    | with_reducible assumption | with_reducible exact WroteR.error | with_reducible apply WroteR.ok 
    | with_reducible apply commitWrites_wroteR | with_reducible apply commitGranules_wroteR | with_reducible apply writeReport_wroteR | with_reducible apply endWith_wrote
    | with_reducible apply Wrote.addCnt | with_reducible apply Wrote.putCnt | with_reducible apply Wrote.moved | with_reducible apply Wrote.openRange | with_reducible apply Wrote.send | with_reducible apply Wrote.record | with_reducible apply Wrote.noteStop
    | with_reducible apply Wrote.mirror | (with_reducible refine WroteR.map ?_ (fun p hp => ?_)) | (with_reducible refine WroteR.bind ?_ (fun p hp => ?_))
    | (with_reducible refine WroteR.bindV (fun a => ?_)) | split | (with_reducible refine WroteR.of ?_ (by assumption))
    | (with_reducible apply Wrote.foldl; intro _ _ _; try dsimp only) | (with_reducible apply Wrote.foldCmd; intro _ _ _; try dsimp only)
    | with_reducible apply Wrote.mkCmd | dsimp only

theorem softOne_wrote {s0 : State} {c0 : Cmd} (s : State) (c : Cmd) (row : Nat) (hk : Wrote s0 c0 s c) : WroteR s0 c0 (softOne s c row) := by
  unfold softOne
  try dsimp only
  iterate 24 try any_goals
    first
    | with_reducible assumption | with_reducible exact WroteR.error | with_reducible apply WroteR.ok 
    | with_reducible apply commitWrites_wroteR | with_reducible apply commitGranules_wroteR | with_reducible apply writeReport_wroteR | with_reducible apply endWith_wrote
    | with_reducible apply Wrote.addCnt | with_reducible apply Wrote.putCnt | with_reducible apply Wrote.moved | with_reducible apply Wrote.openRange | with_reducible apply Wrote.send | with_reducible apply Wrote.record | with_reducible apply Wrote.noteStop
    | with_reducible apply Wrote.mirror | (with_reducible refine WroteR.map ?_ (fun p hp => ?_)) | (with_reducible refine WroteR.bind ?_ (fun p hp => ?_))
    | (with_reducible refine WroteR.bindV (fun a => ?_)) | split | (with_reducible refine WroteR.of ?_ (by assumption))
    | (with_reducible apply Wrote.foldl; intro _ _ _; try dsimp only) | (with_reducible apply Wrote.foldCmd; intro _ _ _; try dsimp only)
    | with_reducible apply Wrote.mkCmd | dsimp only

theorem softBwdOne_wrote {s0 : State} {c0 : Cmd} (s : State) (c : Cmd) (row : Nat) (hk : Wrote s0 c0 s c) : WroteR s0 c0 (softBwdOne s c row) := by
  unfold softBwdOne
  try dsimp only
  iterate 24 try any_goals
    first
    | with_reducible assumption | with_reducible exact WroteR.error | with_reducible apply WroteR.ok 
    | with_reducible apply commitWrites_wroteR | with_reducible apply commitGranules_wroteR | with_reducible apply writeReport_wroteR | with_reducible apply endWith_wrote
    | with_reducible apply Wrote.addCnt | with_reducible apply Wrote.putCnt | with_reducible apply Wrote.moved | with_reducible apply Wrote.openRange | with_reducible apply Wrote.send | with_reducible apply Wrote.record | with_reducible apply Wrote.noteStop
    | with_reducible apply Wrote.mirror | (with_reducible refine WroteR.map ?_ (fun p hp => ?_)) | (with_reducible refine WroteR.bind ?_ (fun p hp => ?_))
    | (with_reducible refine WroteR.bindV (fun a => ?_)) | split | (with_reducible refine WroteR.of ?_ (by assumption))
    | (with_reducible apply Wrote.foldl; intro _ _ _; try dsimp only) | (with_reducible apply Wrote.foldCmd; intro _ _ _; try dsimp only)
    | with_reducible apply Wrote.mkCmd | dsimp only

theorem compactRun_wrote {s0 : State} {c0 : Cmd} (s : State) (c : Cmd) (first n : Nat) (hk : Wrote s0 c0 s c) : WroteR s0 c0 (compactRun s c first n) := by
  unfold compactRun
  try dsimp only
  iterate 24 try any_goals
    first
    | with_reducible assumption | with_reducible exact WroteR.error | with_reducible apply WroteR.ok 
    | with_reducible apply commitWrites_wroteR | with_reducible apply commitGranules_wroteR | with_reducible apply writeReport_wroteR | with_reducible apply endWith_wrote
    | with_reducible apply Wrote.addCnt | with_reducible apply Wrote.putCnt | with_reducible apply Wrote.moved | with_reducible apply Wrote.openRange | with_reducible apply Wrote.send | with_reducible apply Wrote.record | with_reducible apply Wrote.noteStop
    | with_reducible apply Wrote.mirror | (with_reducible refine WroteR.map ?_ (fun p hp => ?_)) | (with_reducible refine WroteR.bind ?_ (fun p hp => ?_))
    | (with_reducible refine WroteR.bindV (fun a => ?_)) | split | (with_reducible refine WroteR.of ?_ (by assumption))
    | (with_reducible apply Wrote.foldl; intro _ _ _; try dsimp only) | (with_reducible apply Wrote.foldCmd; intro _ _ _; try dsimp only)
    | with_reducible apply Wrote.mkCmd | dsimp only

theorem runsFrom_wrote {f : State → Cmd → Nat → Nat → Except Status (State × Cmd)}
    (hf : ∀ {s0 : State} {c0 : Cmd} (s : State) (c : Cmd) (a b : Nat), Wrote s0 c0 s c → WroteR s0 c0 (f s c a b))
    (l : List (Nat × Nat)) {s0 : State} {c0 : Cmd} (s : State) (c : Cmd) (hk : Wrote s0 c0 s c) : WroteR s0 c0 (runsFrom f l s c) := by
  induction l generalizing s c with
  | nil => exact WroteR.ok hk
  | cons r rs ih => exact WroteR.bind (hf _ _ _ _ hk) (fun x hx => ih x.1 x.2 hx)

theorem compactUnit_wrote {s0 : State} {c0 : Cmd} (s : State) (c : Cmd) (k : Nat) (hk : Wrote s0 c0 s c) : WroteR s0 c0 (compactUnit s c k) :=
  runsFrom_wrote (fun s c a b h => compactRun_wrote s c a b h) _ _ _ hk

theorem expandRun_wrote {s0 : State} {c0 : Cmd} (s : State) (c : Cmd) (first n : Nat) (hk : Wrote s0 c0 s c) : WroteR s0 c0 (expandRun s c first n) := by
  unfold expandRun
  try dsimp only
  iterate 24 try any_goals
    first
    | with_reducible assumption | with_reducible exact WroteR.error | with_reducible apply WroteR.ok 
    | with_reducible apply commitWrites_wroteR | with_reducible apply commitGranules_wroteR | with_reducible apply writeReport_wroteR | with_reducible apply endWith_wrote
    | with_reducible apply Wrote.addCnt | with_reducible apply Wrote.putCnt | with_reducible apply Wrote.moved | with_reducible apply Wrote.openRange | with_reducible apply Wrote.send | with_reducible apply Wrote.record | with_reducible apply Wrote.noteStop
    | with_reducible apply Wrote.mirror | (with_reducible refine WroteR.map ?_ (fun p hp => ?_)) | (with_reducible refine WroteR.bind ?_ (fun p hp => ?_))
    | (with_reducible refine WroteR.bindV (fun a => ?_)) | split | (with_reducible refine WroteR.of ?_ (by assumption))
    | (with_reducible apply Wrote.foldl; intro _ _ _; try dsimp only) | (with_reducible apply Wrote.foldCmd; intro _ _ _; try dsimp only)
    | with_reducible apply Wrote.mkCmd | dsimp only

theorem expandUnit_wrote {s0 : State} {c0 : Cmd} (s : State) (c : Cmd) (k : Nat) (hk : Wrote s0 c0 s c) : WroteR s0 c0 (expandUnit s c k) :=
  runsFrom_wrote (fun s c a b h => expandRun_wrote s c a b h) _ _ _ hk

theorem vFinish_wrote {s0 : State} {c0 : Cmd} (s : State) (c : Cmd) (hk : Wrote s0 c0 s c) : WroteR s0 c0 (vFinish s c) := by
  unfold vFinish
  try dsimp only
  iterate 24 try any_goals
    first
    | with_reducible assumption | with_reducible exact WroteR.error | with_reducible apply WroteR.ok 
    | with_reducible apply commitWrites_wroteR | with_reducible apply commitGranules_wroteR | with_reducible apply writeReport_wroteR | with_reducible apply endWith_wrote
    | with_reducible apply Wrote.addCnt | with_reducible apply Wrote.putCnt | with_reducible apply Wrote.moved | with_reducible apply Wrote.openRange | with_reducible apply Wrote.send | with_reducible apply Wrote.record | with_reducible apply Wrote.noteStop
    | with_reducible apply Wrote.mirror | (with_reducible refine WroteR.map ?_ (fun p hp => ?_)) | (with_reducible refine WroteR.bind ?_ (fun p hp => ?_))
    | (with_reducible refine WroteR.bindV (fun a => ?_)) | split | (with_reducible refine WroteR.of ?_ (by assumption))
    | (with_reducible apply Wrote.foldl; intro _ _ _; try dsimp only) | (with_reducible apply Wrote.foldCmd; intro _ _ _; try dsimp only)
    | with_reducible apply Wrote.mkCmd | dsimp only

theorem rowsFrom_wrote {f : State → Cmd → Nat → Except Status (State × Cmd)} (hf : ∀ {s0 : State} {c0 : Cmd} (s : State) (c : Cmd) (k : Nat), Wrote s0 c0 s c → WroteR s0 c0 (f s c k))
    {s0 : State} {c0 : Cmd} (a n : Nat) (s : State) (c : Cmd) (hk : Wrote s0 c0 s c) : WroteR s0 c0 (rowsFrom f a n s c) := by
  induction n with
  | zero => exact WroteR.ok hk
  | succ n ih => exact WroteR.bind ih (fun p hp => hf _ _ _ hp)

theorem softUnit_wrote {s0 : State} {c0 : Cmd} (s : State) (c : Cmd) (k : Nat) (hk : Wrote s0 c0 s c) : WroteR s0 c0 (softUnit s c k) :=
  rowsFrom_wrote (fun s c k h => softOne_wrote s c k h) _ _ _ _ hk

theorem softBwdUnit_wrote {s0 : State} {c0 : Cmd} (s : State) (c : Cmd) (k : Nat) (hk : Wrote s0 c0 s c) : WroteR s0 c0 (softBwdUnit s c k) :=
  rowsFrom_wrote (fun s c k h => softBwdOne_wrote s c k h) _ _ _ _ hk

theorem vUnit_wrote {s0 : State} {c0 : Cmd} (s : State) (c : Cmd) (k : Nat) (hk : Wrote s0 c0 s c) : WroteR s0 c0 (vUnit s c k) := by
  unfold vUnit
  try dsimp only
  iterate 24 try any_goals
    first
    | with_reducible assumption | with_reducible exact WroteR.error | with_reducible apply WroteR.ok | with_reducible apply ewUnit_wrote | with_reducible apply redUnit_wrote | with_reducible apply compactUnit_wrote | with_reducible apply expandUnit_wrote | with_reducible apply softUnit_wrote | with_reducible apply softBwdUnit_wrote
    | with_reducible apply commitWrites_wroteR | with_reducible apply commitGranules_wroteR | with_reducible apply writeReport_wroteR | with_reducible apply endWith_wrote
    | with_reducible apply Wrote.addCnt | with_reducible apply Wrote.putCnt | with_reducible apply Wrote.moved | with_reducible apply Wrote.openRange | with_reducible apply Wrote.send | with_reducible apply Wrote.record | with_reducible apply Wrote.noteStop
    | with_reducible apply Wrote.mirror | (with_reducible refine WroteR.map ?_ (fun p hp => ?_)) | (with_reducible refine WroteR.bind ?_ (fun p hp => ?_))
    | (with_reducible refine WroteR.bindV (fun a => ?_)) | split | (with_reducible refine WroteR.of ?_ (by assumption))
    | (with_reducible apply Wrote.foldl; intro _ _ _; try dsimp only) | (with_reducible apply Wrote.foldCmd; intro _ _ _; try dsimp only)
    | with_reducible apply Wrote.mkCmd | dsimp only

theorem finishOk_wrote {s0 : State} {c0 : Cmd} (s : State) (c : Cmd) (hk : Wrote s0 c0 s c) : WroteR s0 c0 (finishOk s c) := by
  unfold finishOk
  try dsimp only
  iterate 24 try any_goals
    first
    | with_reducible assumption | with_reducible exact WroteR.error | with_reducible apply WroteR.ok 
    | with_reducible apply commitWrites_wroteR | with_reducible apply commitGranules_wroteR | with_reducible apply writeReport_wroteR | with_reducible apply endWith_wrote
    | with_reducible apply Wrote.addCnt | with_reducible apply Wrote.putCnt | with_reducible apply Wrote.moved | with_reducible apply Wrote.openRange | with_reducible apply Wrote.send | with_reducible apply Wrote.record | with_reducible apply Wrote.noteStop
    | with_reducible apply Wrote.mirror | (with_reducible refine WroteR.map ?_ (fun p hp => ?_)) | (with_reducible refine WroteR.bind ?_ (fun p hp => ?_))
    | (with_reducible refine WroteR.bindV (fun a => ?_)) | split | (with_reducible refine WroteR.of ?_ (by assumption))
    | (with_reducible apply Wrote.foldl; intro _ _ _; try dsimp only) | (with_reducible apply Wrote.foldCmd; intro _ _ _; try dsimp only)
    | with_reducible apply Wrote.mkCmd | dsimp only

theorem signalUnit_wrote {s0 : State} {c0 : Cmd} (s : State) (c : Cmd) (k1 : Nat) (hk : Wrote s0 c0 s c) : WroteR s0 c0 (signalUnit s c k1) := by
  unfold signalUnit
  try dsimp only
  iterate 24 try any_goals
    first
    | with_reducible assumption | with_reducible exact WroteR.error | with_reducible apply WroteR.ok 
    | with_reducible apply commitWrites_wroteR | with_reducible apply commitGranules_wroteR | with_reducible apply writeReport_wroteR | with_reducible apply endWith_wrote
    | with_reducible apply Wrote.addCnt | with_reducible apply Wrote.putCnt | with_reducible apply Wrote.moved | with_reducible apply Wrote.openRange | with_reducible apply Wrote.send | with_reducible apply Wrote.record | with_reducible apply Wrote.noteStop
    | with_reducible apply Wrote.mirror | (with_reducible refine WroteR.map ?_ (fun p hp => ?_)) | (with_reducible refine WroteR.bind ?_ (fun p hp => ?_))
    | (with_reducible refine WroteR.bindV (fun a => ?_)) | split | (with_reducible refine WroteR.of ?_ (by assumption))
    | (with_reducible apply Wrote.foldl; intro _ _ _; try dsimp only) | (with_reducible apply Wrote.foldCmd; intro _ _ _; try dsimp only)
    | with_reducible apply Wrote.mkCmd | dsimp only

theorem buildUnit_wrote {s0 : State} {c0 : Cmd} (s : State) (c : Cmd) (k1 : Nat) (hk : Wrote s0 c0 s c) : WroteR s0 c0 (buildUnit s c k1) := by
  unfold buildUnit
  try dsimp only
  iterate 24 try any_goals
    first
    | with_reducible assumption | with_reducible exact WroteR.error | with_reducible apply WroteR.ok 
    | with_reducible apply commitWrites_wroteR | with_reducible apply commitGranules_wroteR | with_reducible apply writeReport_wroteR | with_reducible apply endWith_wrote
    | with_reducible apply Wrote.addCnt | with_reducible apply Wrote.putCnt | with_reducible apply Wrote.moved | with_reducible apply Wrote.openRange | with_reducible apply Wrote.send | with_reducible apply Wrote.record | with_reducible apply Wrote.noteStop
    | with_reducible apply Wrote.mirror | (with_reducible refine WroteR.map ?_ (fun p hp => ?_)) | (with_reducible refine WroteR.bind ?_ (fun p hp => ?_))
    | (with_reducible refine WroteR.bindV (fun a => ?_)) | split | (with_reducible refine WroteR.of ?_ (by assumption))
    | (with_reducible apply Wrote.foldl; intro _ _ _; try dsimp only) | (with_reducible apply Wrote.foldCmd; intro _ _ _; try dsimp only)
    | with_reducible apply Wrote.mkCmd | dsimp only

theorem noteBlock_wrote (c : Cmd) (f : Framed) (count : Nat) : (noteBlock c f count).wrote = c.wrote ∧ (noteBlock c f count).withheld = c.withheld := by
  unfold noteBlock Cmd.maxCnt Cmd.addCnt; exact ⟨by with_reducible rfl, by with_reducible rfl⟩

theorem encUnit_wrote {s0 : State} {c0 : Cmd} (s : State) (c : Cmd) (k : Nat) (hk : Wrote s0 c0 s c) : WroteR s0 c0 (encUnit s c k) := by
  unfold encUnit
  split
  · refine WroteR.bindV (fun fs => commitWrites_wroteR ?_)
    exact Wrote.foldCmd (fun u x hu => hu.cmd (noteBlock_wrote _ _ _).1 (noteBlock_wrote _ _ _).2) hk
  · exact WroteR.error

theorem encFinish_wrote {s0 : State} {c0 : Cmd} (s : State) (c : Cmd) (hk : Wrote s0 c0 s c) : WroteR s0 c0 (encFinish s c) := by
  unfold encFinish
  try dsimp only
  iterate 24 try any_goals
    first
    | with_reducible assumption | with_reducible exact WroteR.error | with_reducible apply WroteR.ok 
    | with_reducible apply commitWrites_wroteR | with_reducible apply commitGranules_wroteR | with_reducible apply writeReport_wroteR | with_reducible apply endWith_wrote
    | with_reducible apply Wrote.addCnt | with_reducible apply Wrote.putCnt | with_reducible apply Wrote.moved | with_reducible apply Wrote.openRange | with_reducible apply Wrote.send | with_reducible apply Wrote.record | with_reducible apply Wrote.noteStop
    | with_reducible apply Wrote.mirror | (with_reducible refine WroteR.map ?_ (fun p hp => ?_)) | (with_reducible refine WroteR.bind ?_ (fun p hp => ?_))
    | (with_reducible refine WroteR.bindV (fun a => ?_)) | split | (with_reducible refine WroteR.of ?_ (by assumption))
    | (with_reducible apply Wrote.foldl; intro _ _ _; try dsimp only) | (with_reducible apply Wrote.foldCmd; intro _ _ _; try dsimp only)
    | with_reducible apply Wrote.mkCmd | dsimp only

theorem gqUnit_wrote {s0 : State} {c0 : Cmd} (s : State) (c : Cmd) (k : Nat) (hk : Wrote s0 c0 s c) : WroteR s0 c0 (gqUnit s c k) := by
  unfold gqUnit
  try dsimp only
  iterate 24 try any_goals
    first
    | with_reducible assumption | with_reducible exact WroteR.error | with_reducible apply WroteR.ok 
    | with_reducible apply commitWrites_wroteR | with_reducible apply commitGranules_wroteR | with_reducible apply writeReport_wroteR | with_reducible apply endWith_wrote
    | with_reducible apply Wrote.addCnt | with_reducible apply Wrote.putCnt | with_reducible apply Wrote.moved | with_reducible apply Wrote.openRange | with_reducible apply Wrote.send | with_reducible apply Wrote.record | with_reducible apply Wrote.noteStop
    | with_reducible apply Wrote.mirror | (with_reducible refine WroteR.map ?_ (fun p hp => ?_)) | (with_reducible refine WroteR.bind ?_ (fun p hp => ?_))
    | (with_reducible refine WroteR.bindV (fun a => ?_)) | split | (with_reducible refine WroteR.of ?_ (by assumption))
    | (with_reducible apply Wrote.foldl; intro _ _ _; try dsimp only) | (with_reducible apply Wrote.foldCmd; intro _ _ _; try dsimp only)
    | with_reducible apply Wrote.mkCmd | dsimp only

theorem gqFinish_wrote {s0 : State} {c0 : Cmd} (s : State) (c : Cmd) (hk : Wrote s0 c0 s c) : WroteR s0 c0 (gqFinish s c) := by
  unfold gqFinish
  try dsimp only
  iterate 24 try any_goals
    first
    | with_reducible assumption | with_reducible exact WroteR.error | with_reducible apply WroteR.ok 
    | with_reducible apply commitWrites_wroteR | with_reducible apply commitGranules_wroteR | with_reducible apply writeReport_wroteR | with_reducible apply endWith_wrote
    | with_reducible apply Wrote.addCnt | with_reducible apply Wrote.putCnt | with_reducible apply Wrote.moved | with_reducible apply Wrote.openRange | with_reducible apply Wrote.send | with_reducible apply Wrote.record | with_reducible apply Wrote.noteStop
    | with_reducible apply Wrote.mirror | (with_reducible refine WroteR.map ?_ (fun p hp => ?_)) | (with_reducible refine WroteR.bind ?_ (fun p hp => ?_))
    | (with_reducible refine WroteR.bindV (fun a => ?_)) | split | (with_reducible refine WroteR.of ?_ (by assumption))
    | (with_reducible apply Wrote.foldl; intro _ _ _; try dsimp only) | (with_reducible apply Wrote.foldCmd; intro _ _ _; try dsimp only)
    | with_reducible apply Wrote.mkCmd | dsimp only

theorem writeRec_wrote {s0 : State} {c0 : Cmd} (s : State) (c : Cmd) (r : Shard) (off : Nat) (bs : Bytes) (hk : Wrote s0 c0 s c) : WroteR s0 c0 (writeRec s c r off bs) := by
  unfold writeRec
  try dsimp only
  iterate 24 try any_goals
    first
    | with_reducible assumption | with_reducible exact WroteR.error | with_reducible apply WroteR.ok 
    | with_reducible apply commitWrites_wroteR | with_reducible apply commitGranules_wroteR | with_reducible apply writeReport_wroteR | with_reducible apply endWith_wrote
    | with_reducible apply Wrote.addCnt | with_reducible apply Wrote.putCnt | with_reducible apply Wrote.moved | with_reducible apply Wrote.openRange | with_reducible apply Wrote.send | with_reducible apply Wrote.record | with_reducible apply Wrote.noteStop
    | with_reducible apply Wrote.mirror | (with_reducible refine WroteR.map ?_ (fun p hp => ?_)) | (with_reducible refine WroteR.bind ?_ (fun p hp => ?_))
    | (with_reducible refine WroteR.bindV (fun a => ?_)) | split | (with_reducible refine WroteR.of ?_ (by assumption))
    | (with_reducible apply Wrote.foldl; intro _ _ _; try dsimp only) | (with_reducible apply Wrote.foldCmd; intro _ _ _; try dsimp only)
    | with_reducible apply Wrote.mkCmd | dsimp only

theorem takeShard_wrote {s0 : State} {c0 : Cmd} {s t : State} {c d : Cmd} {r r' : Shard} (hk : Wrote s0 c0 s c) (e : takeShard s c r = .ok (t, d, r')) :
    Wrote s0 c0 t d := by
  unfold takeShard at e
  simp only [bind, Except.bind] at e
  split at e
  · cases e
  · rename_i p hw
    cases e
    exact WroteR.of (writeRec_wrote _ _ _ _ _ (Wrote.mkCmd hk)) hw

theorem storeOpen_frame {P : Nat → Prop} {s t : State} (h : Frame P s t) (a len : Nat) (hp : ∀ x, t.inBitmap x = true → P x) :
    Frame P s (t.storeOpen a len) := by
  unfold State.storeOpen
  have h1 : Frame P t (((t.beforeWrite a len).recomputeFirst a len).clearCovered a len) :=
    (((Frame.refl t).beforeWrite _ _).recomputeFirst _ _).clearCovered _ _
  exact h.trans ((h1.dirtyTracks a len (fun x hx => hp x (by rw [← h1.same.inBitmap]; exact hx))).openRange _ _)

theorem writeShadow_wrote {s0 s : State} {c0 c : Cmd} {a len : Nat} {t : State} (hk : Wrote s0 c0 s c) (e : writeShadow s c a len = .ok t) : Wrote s0 c0 t c := by
  unfold writeShadow at e
  split at e <;> cases e
  exact hk.trans ⟨storeOpen_frame (Frame.refl s) _ _ (fun x hx => .inr hx), fun _ h => h, id⟩

theorem commitDyn_wrote {s0 : State} {c0 : Cmd} (s : State) (c : Cmd) (p : Packed) (hk : Wrote s0 c0 s c) : WroteR s0 c0 (commitDyn s c p) := by
  unfold commitDyn
  try dsimp only
  iterate 24 try any_goals
    first
    | with_reducible assumption | with_reducible exact WroteR.error | with_reducible apply WroteR.ok 
    | with_reducible apply commitWrites_wroteR | with_reducible apply commitGranules_wroteR | with_reducible apply writeReport_wroteR | with_reducible apply endWith_wrote
    | with_reducible apply Wrote.addCnt | with_reducible apply Wrote.putCnt | with_reducible apply Wrote.moved | with_reducible apply Wrote.openRange | with_reducible apply Wrote.send | with_reducible apply Wrote.record | with_reducible apply Wrote.noteStop
    | with_reducible apply Wrote.mirror | (with_reducible refine WroteR.map ?_ (fun p hp => ?_)) | (with_reducible refine WroteR.bind ?_ (fun p hp => ?_))
    | (with_reducible refine WroteR.bindV (fun a => ?_)) | split | (with_reducible refine WroteR.of ?_ (by assumption))
    | (with_reducible apply Wrote.foldl; intro _ _ _; try dsimp only) | (with_reducible apply Wrote.foldCmd; intro _ _ _; try dsimp only)
    | with_reducible apply Wrote.mkCmd | dsimp only

theorem commitUpdate_wrote {s0 : State} {c0 : Cmd} (s : State) (c : Cmd) (r : Shard) (rows : List Nat) (u : Nat) (unit : Nat × Nat) (hk : Wrote s0 c0 s c) :
    WroteR s0 c0 (commitUpdate s c r rows u unit) := by
  unfold commitUpdate
  dsimp only
  refine WroteR.bindV (fun f => WroteR.bindV (fun vs => WroteR.bindV (fun work => WroteR.bindV (fun workT => ?_))))
  cases h : writeShadow s c (r.shadow (unitTower s r u unit.1)).1 (r.shadow (unitTower s r u unit.1)).2 with
  | error st => exact WroteR.error
  | ok t => exact commitDyn_wrote _ _ _ (((writeShadow_wrote hk h).addCnt _ _).addCnt _ _)

theorem sweepUnit_wrote {s0 : State} {c0 : Cmd} (s : State) (c : Cmd) (r : Shard) (hk : Wrote s0 c0 s c) : WroteR s0 c0 (sweepUnit s c r) := by
  unfold sweepUnit
  try dsimp only
  iterate 24 try any_goals
    first
    | with_reducible assumption | with_reducible exact WroteR.error | with_reducible apply WroteR.ok | with_reducible apply commitDyn_wrote
    | with_reducible apply commitWrites_wroteR | with_reducible apply commitGranules_wroteR | with_reducible apply writeReport_wroteR | with_reducible apply endWith_wrote
    | with_reducible apply Wrote.addCnt | with_reducible apply Wrote.putCnt | with_reducible apply Wrote.moved | with_reducible apply Wrote.openRange | with_reducible apply Wrote.send | with_reducible apply Wrote.record | with_reducible apply Wrote.noteStop
    | with_reducible apply Wrote.mirror | (with_reducible refine WroteR.map ?_ (fun p hp => ?_)) | (with_reducible refine WroteR.bind ?_ (fun p hp => ?_))
    | (with_reducible refine WroteR.bindV (fun a => ?_)) | split | (with_reducible refine WroteR.of ?_ (by assumption))
    | (with_reducible apply Wrote.foldl; intro _ _ _; try dsimp only) | (with_reducible apply Wrote.foldCmd; intro _ _ _; try dsimp only)
    | with_reducible apply Wrote.mkCmd | dsimp only

theorem countUnit_wrote {s0 : State} {c0 : Cmd} (s : State) (c : Cmd) (r : Shard) (unit : Nat × Nat) (hk : Wrote s0 c0 s c) : WroteR s0 c0 (countUnit s c r unit) := by
  unfold countUnit
  try dsimp only
  iterate 24 try any_goals
    first
    | with_reducible assumption | with_reducible exact WroteR.error | with_reducible apply WroteR.ok 
    | with_reducible apply commitWrites_wroteR | with_reducible apply commitGranules_wroteR | with_reducible apply writeReport_wroteR | with_reducible apply endWith_wrote
    | with_reducible apply Wrote.addCnt | with_reducible apply Wrote.putCnt | with_reducible apply Wrote.moved | with_reducible apply Wrote.openRange | with_reducible apply Wrote.send | with_reducible apply Wrote.record | with_reducible apply Wrote.noteStop
    | with_reducible apply Wrote.mirror | (with_reducible refine WroteR.map ?_ (fun p hp => ?_)) | (with_reducible refine WroteR.bind ?_ (fun p hp => ?_))
    | (with_reducible refine WroteR.bindV (fun a => ?_)) | split | (with_reducible refine WroteR.of ?_ (by assumption))
    | (with_reducible apply Wrote.foldl; intro _ _ _; try dsimp only) | (with_reducible apply Wrote.foldCmd; intro _ _ _; try dsimp only)
    | with_reducible apply Wrote.mkCmd | dsimp only

theorem upStep_wrote {s0 : State} {c0 : Cmd} (s : State) (c : Cmd) (r : Shard) (rows : List Nat) (k : Nat) (hk : Wrote s0 c0 s c) : WroteR s0 c0 (upStep s c r rows k) := by
  unfold upStep
  try dsimp only
  iterate 24 try any_goals
    first
    | with_reducible assumption | with_reducible exact WroteR.error | with_reducible apply WroteR.ok | with_reducible apply commitUpdate_wrote | with_reducible apply sweepUnit_wrote | with_reducible apply countUnit_wrote
    | with_reducible apply commitWrites_wroteR | with_reducible apply commitGranules_wroteR | with_reducible apply writeReport_wroteR | with_reducible apply endWith_wrote
    | with_reducible apply Wrote.addCnt | with_reducible apply Wrote.putCnt | with_reducible apply Wrote.moved | with_reducible apply Wrote.openRange | with_reducible apply Wrote.send | with_reducible apply Wrote.record | with_reducible apply Wrote.noteStop
    | with_reducible apply Wrote.mirror | (with_reducible refine WroteR.map ?_ (fun p hp => ?_)) | (with_reducible refine WroteR.bind ?_ (fun p hp => ?_))
    | (with_reducible refine WroteR.bindV (fun a => ?_)) | split | (with_reducible refine WroteR.of ?_ (by assumption))
    | (with_reducible apply Wrote.foldl; intro _ _ _; try dsimp only) | (with_reducible apply Wrote.foldCmd; intro _ _ _; try dsimp only)
    | with_reducible apply Wrote.mkCmd | dsimp only

theorem upUnit_wrote {s0 : State} {c0 : Cmd} (s : State) (c : Cmd) (u : Nat) (hk : Wrote s0 c0 s c) : WroteR s0 c0 (upUnit s c u) := by
  unfold upUnit
  refine WroteR.bindV (fun r => ?_)
  split
  · exact WroteR.ok hk
  · refine WroteR.bindV (fun rows => ?_)
    split
    · exact WroteR.error
    · exact WroteR.ok (hk.addCnt _ _)
    · exact WroteR.ok (hk.addCnt _ _)
    · exact upStep_wrote _ _ _ _ _ hk
    · cases ht : takeShard s c r with
      | error st => exact WroteR.error
      | ok p => exact upStep_wrote _ _ _ _ _ (takeShard_wrote (t := p.1) (d := p.2.1) (r' := p.2.2) hk ht)

/-- The state without its pools, which KV_APPEND and KV_TRUNCATE change beside memory, or without what the shard engine remembers, which
OPT_UPDATE and SHARD INIT do. -/
def State.bare (kv : Bool) (s : State) : State :=
  { s with pools := if kv then [] else s.pools, shards := if kv then s.shards else [], shardWaits := if kv then s.shardWaits else [] }

theorem Wrote.bare {s t : State} {c d : Cmd} (h : Wrote s c t d) : Wrote (s.bare kv) c (t.bare kv) d := by
  refine ⟨⟨?_, h.frame.free, h.frame.byte⟩, h.mono, h.held⟩
  have e := h.frame.same
  unfold SameElse at e ⊢
  unfold State.bare
  rw [e]

theorem SendsOnly.bare {s t : State} (h : SendsOnly s t) : SendsOnly (s.bare kv) (t.bare kv) := by
  refine ⟨?_, h.2⟩
  have e := h.1
  unfold State.bare
  rw [e]

theorem Wrote.sends {s0 : State} {c0 : Cmd} {s t : State} {c : Cmd} (hk : Wrote s0 c0 s c) (h : SendsOnly s t) : Wrote s0 c0 t c :=
  hk.trans ⟨(Frame.refl s).sends h, fun _ h => h, id⟩

theorem shardFetchServe_bare (source a want : Nat) (s : State) : SendsOnly (s.bare false) ((shardFetchServe source a want s).bare false) := by
  unfold shardFetchServe
  dsimp only
  repeat' split
  all_goals first | exact SendsOnly.refl _ | exact (sendPeer_sends _ _ _ _ _).bare

theorem serveFetches_bare (s : State) : SendsOnly (s.bare false) (s.serveFetches.bare false) := by
  unfold State.serveFetches
  have main : ∀ (l : List ShardWait) (t : State), SendsOnly (t.bare false) ((l.foldl (fun t w => shardFetchServe w.source w.addr w.want t) t).bare false) := by
    intro l
    induction l with
    | nil => exact fun t => SendsOnly.refl _
    | cons w l ih => exact fun t => (shardFetchServe_bare _ _ _ _).trans (ih _)
  exact main _ { s with shardWaits := [] }

theorem writesOnly_of_kv {s t : State} {c d : Cmd} (h : Wrote (s.bare true) c (t.bare true) d) : WritesOnly { s with pools := t.pools } t d := by
  obtain ⟨h1, h2⟩ := h.writesOnly
  refine ⟨?_, h2⟩
  exact congrArg (fun u : State => { u with pools := t.pools }) h1

theorem writesOnly_of_shards {s t : State} {c d : Cmd} (h : Wrote (s.bare false) c (t.bare false) d) :
    WritesOnly { s with shards := t.shards, shardWaits := t.shardWaits } t d := by
  obtain ⟨h1, h2⟩ := h.writesOnly
  refine ⟨?_, h2⟩
  exact congrArg (fun u : State => { u with shards := t.shards, shardWaits := t.shardWaits }) h1

/-- Units that change pools or shards too. -/
theorem Op.outcome_bare {op : Op} (hu : ∀ s c k t d, op.unit s c k = .ok (t, d) → Wrote (s.bare kv) c (t.bare kv) d)
    (hf : ∀ s c t d, op.finish s c = .ok (t, d) → Wrote (s.bare kv) c (t.bare kv) d) {s t : State} {c d : Cmd} (hh : c.heldNoted = true)
    (e : op.outcome s c = some (t, d)) : Wrote (s.bare kv) c (t.bare kv) d := by
  have main : ∀ (ks : List Nat) (s : State) (c : Cmd), Wrote (s.bare kv) c ((op.runUnits ks s c).1.bare kv) (op.runUnits ks s c).2.1 := by
    intro ks
    induction ks with
    | nil => intro s c; exact Wrote.refl _ c
    | cons k ks ih =>
      intro s c
      unfold Op.runUnits
      split
      · exact ih s c
      · split
        · exact Wrote.refl _ c
        · have hk : Wrote (s.bare kv) c (s.bare kv) (c.keepTables s (op.tables s c)) :=
            (Wrote.refl _ c).cmd (keepTables_wrote _ _ _) (keepTables_withheld _ _ _)
          dsimp only
          split
          · exact hk
          · rename_i t d e
            refine Wrote.trans (d := { d with done := insertNat k d.done, units := d.units + op.weight s (c.keepTables s (op.tables s c)) k }) ?_ (ih _ _)
            exact hk.trans ((hu _ _ _ _ _ e).cmd rfl rfl)
  unfold Op.outcome at e
  have h := main (List.range (op.total s c)) s c
  split at e
  · cases e
  · split at e
    · rename_i u v hr
      rw [hr] at h
      split at e
      · cases hw : releaseWithheld u v with
        | error => rw [hw] at e; cases e
        | ok w =>
          rw [hw] at e
          simp only [Except.bind] at e
          cases hfin : op.finish w { v with withheld := [] } with
          | error => rw [hfin] at e; cases e
          | ok r =>
            rw [hfin] at e; cases e
            have h1 : Wrote (s.bare kv) c (w.bare kv) { v with withheld := [] } := (h.trans (releaseWithheld_wrote (h.held hh) hw).bare).cmdHeld rfl (fun _ => rfl)
            exact h1.trans (hf _ _ _ _ hfin)
      · cases e
    · cases e

theorem upFinish_wrote {s t : State} {c d : Cmd} (e : upFinish s c = .ok (t, d)) : Wrote (s.bare false) c (t.bare false) d := by
  unfold upFinish at e
  simp only [bind, Except.bind] at e
  split at e
  · cases e
  · split at e
    · split at e
      · cases e
      · rename_i x hx
        cases e
        exact (endWith_wrote ((WroteR.of (writeReport_wroteR (Wrote.refl s c)) hx).noteStop _ _) _ _).bare
    · split at e
      · split at e
        · cases e
        · rename_i x hx
          cases e
          exact ((WroteR.of (writeReport_wroteR (Wrote.refl s c)) hx).mkCmd).bare
      · split at e
        · cases e
        · split at e
          · cases e
          · split at e
            · cases e
            · split at e
              · cases e
              · rename_i x1 h1
                split at e
                · cases e
                · rename_i x2 h2
                  split at e
                  · cases e
                  · rename_i x3 h3
                    cases e
                    have w1 := WroteR.of (writeRec_wrote _ _ _ _ _ (Wrote.refl s c)) h1
                    have w2 := WroteR.of (commitDyn_wrote _ _ _ w1) h2
                    have w3 := WroteR.of (writeReport_wroteR w2) h3
                    exact ((Wrote.bare (kv := false) w3).sends (serveFetches_bare _)).mkCmd

theorem initUnit_wrote {s t : State} {c d : Cmd} {k : Nat} (e : initUnit s c k = .ok (t, d)) : Wrote (s.bare false) c (t.bare false) d := by
  unfold initUnit at e
  simp only [bind, Except.bind] at e
  split at e
  · cases e
  · split at e
    · cases e
    · split at e
      · cases e
      · split at e
        · cases e
        · split at e
          · cases e
          · split at e
            · cases e
            · rename_i x hx
              cases e
              have w := Wrote.bare (kv := false) (WroteR.of (commitWrites_wroteR ((Wrote.refl s c).addCnt 0 _)) hx)
              exact w.sends (serveFetches_bare _)

theorem shFinish_wrote {s0 : State} {c0 : Cmd} (s : State) (c : Cmd) (hk : Wrote s0 c0 s c) : WroteR s0 c0 (shFinish s c) := by
  unfold shFinish
  try dsimp only
  iterate 24 try any_goals
    first
    | with_reducible assumption | with_reducible exact WroteR.error | with_reducible apply WroteR.ok 
    | with_reducible apply commitWrites_wroteR | with_reducible apply commitGranules_wroteR | with_reducible apply writeReport_wroteR | with_reducible apply endWith_wrote
    | with_reducible apply Wrote.addCnt | with_reducible apply Wrote.putCnt | with_reducible apply Wrote.moved | with_reducible apply Wrote.openRange | with_reducible apply Wrote.send | with_reducible apply Wrote.record | with_reducible apply Wrote.noteStop
    | with_reducible apply Wrote.mirror | (with_reducible refine WroteR.map ?_ (fun p hp => ?_)) | (with_reducible refine WroteR.bind ?_ (fun p hp => ?_))
    | (with_reducible refine WroteR.bindV (fun a => ?_)) | split | (with_reducible refine WroteR.of ?_ (by assumption))
    | (with_reducible apply Wrote.foldl; intro _ _ _; try dsimp only) | (with_reducible apply Wrote.foldCmd; intro _ _ _; try dsimp only)
    | with_reducible apply Wrote.mkCmd | dsimp only

theorem checkUnit_wrote {s0 : State} {c0 : Cmd} (s : State) (c : Cmd) (u : Nat) (hk : Wrote s0 c0 s c) : WroteR s0 c0 (checkUnit s c u) := by
  unfold checkUnit
  try dsimp only
  iterate 24 try any_goals
    first
    | with_reducible assumption | with_reducible exact WroteR.error | with_reducible apply WroteR.ok 
    | with_reducible apply commitWrites_wroteR | with_reducible apply commitGranules_wroteR | with_reducible apply writeReport_wroteR | with_reducible apply endWith_wrote
    | with_reducible apply Wrote.addCnt | with_reducible apply Wrote.putCnt | with_reducible apply Wrote.moved | with_reducible apply Wrote.openRange | with_reducible apply Wrote.send | with_reducible apply Wrote.record | with_reducible apply Wrote.noteStop
    | with_reducible apply Wrote.mirror | (with_reducible refine WroteR.map ?_ (fun p hp => ?_)) | (with_reducible refine WroteR.bind ?_ (fun p hp => ?_))
    | (with_reducible refine WroteR.bindV (fun a => ?_)) | split | (with_reducible refine WroteR.of ?_ (by assumption))
    | (with_reducible apply Wrote.foldl; intro _ _ _; try dsimp only) | (with_reducible apply Wrote.foldCmd; intro _ _ _; try dsimp only)
    | with_reducible apply Wrote.mkCmd | dsimp only

theorem checkFinish_wrote {s0 : State} {c0 : Cmd} (s : State) (c : Cmd) (hk : Wrote s0 c0 s c) : WroteR s0 c0 (checkFinish s c) := by
  unfold checkFinish
  try dsimp only
  iterate 24 try any_goals
    first
    | with_reducible assumption | with_reducible exact WroteR.error | with_reducible apply WroteR.ok 
    | with_reducible apply commitWrites_wroteR | with_reducible apply commitGranules_wroteR | with_reducible apply writeReport_wroteR | with_reducible apply endWith_wrote
    | with_reducible apply Wrote.addCnt | with_reducible apply Wrote.putCnt | with_reducible apply Wrote.moved | with_reducible apply Wrote.openRange | with_reducible apply Wrote.send | with_reducible apply Wrote.record | with_reducible apply Wrote.noteStop
    | with_reducible apply Wrote.mirror | (with_reducible refine WroteR.map ?_ (fun p hp => ?_)) | (with_reducible refine WroteR.bind ?_ (fun p hp => ?_))
    | (with_reducible refine WroteR.bindV (fun a => ?_)) | split | (with_reducible refine WroteR.of ?_ (by assumption))
    | (with_reducible apply Wrote.foldl; intro _ _ _; try dsimp only) | (with_reducible apply Wrote.foldCmd; intro _ _ _; try dsimp only)
    | with_reducible apply Wrote.mkCmd | dsimp only

theorem Wrote.sendPeer {s0 : State} {c0 : Cmd} {s : State} {c : Cmd} (hk : Wrote s0 c0 s c) (dest : Nat) (kind : String) (ws : List Nat) (bs : Bytes) :
    Wrote s0 c0 (s.sendPeer dest kind ws bs) c := hk.sends (sendPeer_sends _ _ _ _ _)

theorem fetchUnit_wrote {s0 : State} {c0 : Cmd} (answer : FetchAnswer) (s : State) (c : Cmd) (k : Nat) (hk : Wrote s0 c0 s c) :
    WroteR s0 c0 (fetchUnit answer s c k) := by
  unfold fetchUnit
  refine WroteR.bindV (fun r => ?_)
  split
  · exact WroteR.ok (hk.addCnt _ _)
  · split
    · exact WroteR.ok (hk.addCnt _ _)
    · have h := hk.sendPeer (fieldAt r.raw 96 2) "SHARD_FETCH" [c.fld 24 8, shVersion c] []
      dsimp only
      split
      · split
        · exact WroteR.ok (h.addCnt _ _)
        · split
          · exact WroteR.error
          · exact WroteR.bind (commitWrites_wroteR (h.addCnt _ _)) (fun p hp => WroteR.ok (hp.mirror _ _ _ _))
      · exact WroteR.ok (h.addCnt _ _)
      · exact WroteR.ok (h.addCnt _ _)
      · exact WroteR.ok (h.addCnt _ _)

theorem fetchFinish_wrote {s0 : State} {c0 : Cmd} (s : State) (c : Cmd) (hk : Wrote s0 c0 s c) : WroteR s0 c0 (fetchFinish s c) := by
  unfold fetchFinish
  try dsimp only
  iterate 24 try any_goals
    first
    | with_reducible assumption | with_reducible exact WroteR.error | with_reducible apply WroteR.ok 
    | with_reducible apply commitWrites_wroteR | with_reducible apply commitGranules_wroteR | with_reducible apply writeReport_wroteR | with_reducible apply endWith_wrote
    | with_reducible apply Wrote.addCnt | with_reducible apply Wrote.putCnt | with_reducible apply Wrote.moved | with_reducible apply Wrote.openRange | with_reducible apply Wrote.send | with_reducible apply Wrote.record | with_reducible apply Wrote.noteStop
    | with_reducible apply Wrote.mirror | (with_reducible refine WroteR.map ?_ (fun p hp => ?_)) | (with_reducible refine WroteR.bind ?_ (fun p hp => ?_))
    | (with_reducible refine WroteR.bindV (fun a => ?_)) | split | (with_reducible refine WroteR.of ?_ (by assumption))
    | (with_reducible apply Wrote.foldl; intro _ _ _; try dsimp only) | (with_reducible apply Wrote.foldCmd; intro _ _ _; try dsimp only)
    | with_reducible apply Wrote.mkCmd | dsimp only

theorem exportUnit_wrote {s0 : State} {c0 : Cmd} (s : State) (c : Cmd) (k1 : Nat) (hk : Wrote s0 c0 s c) : WroteR s0 c0 (exportUnit s c k1) := by
  unfold exportUnit
  try dsimp only
  iterate 24 try any_goals
    first
    | with_reducible assumption | with_reducible exact WroteR.error | with_reducible apply WroteR.ok 
    | with_reducible apply commitWrites_wroteR | with_reducible apply commitGranules_wroteR | with_reducible apply writeReport_wroteR | with_reducible apply endWith_wrote
    | with_reducible apply Wrote.addCnt | with_reducible apply Wrote.putCnt | with_reducible apply Wrote.moved | with_reducible apply Wrote.openRange | with_reducible apply Wrote.send | with_reducible apply Wrote.record | with_reducible apply Wrote.noteStop
    | with_reducible apply Wrote.mirror | (with_reducible refine WroteR.map ?_ (fun p hp => ?_)) | (with_reducible refine WroteR.bind ?_ (fun p hp => ?_))
    | (with_reducible refine WroteR.bindV (fun a => ?_)) | split | (with_reducible refine WroteR.of ?_ (by assumption))
    | (with_reducible apply Wrote.foldl; intro _ _ _; try dsimp only) | (with_reducible apply Wrote.foldCmd; intro _ _ _; try dsimp only)
    | with_reducible apply Wrote.mkCmd | dsimp only

theorem statusUnit_wrote {s0 : State} {c0 : Cmd} (s : State) (c : Cmd) (k1 : Nat) (hk : Wrote s0 c0 s c) : WroteR s0 c0 (statusUnit s c k1) := by
  unfold statusUnit
  try dsimp only
  iterate 24 try any_goals
    first
    | with_reducible assumption | with_reducible exact WroteR.error | with_reducible apply WroteR.ok 
    | with_reducible apply commitWrites_wroteR | with_reducible apply commitGranules_wroteR | with_reducible apply writeReport_wroteR | with_reducible apply endWith_wrote
    | with_reducible apply Wrote.addCnt | with_reducible apply Wrote.putCnt | with_reducible apply Wrote.moved | with_reducible apply Wrote.openRange | with_reducible apply Wrote.send | with_reducible apply Wrote.record | with_reducible apply Wrote.noteStop
    | with_reducible apply Wrote.mirror | (with_reducible refine WroteR.map ?_ (fun p hp => ?_)) | (with_reducible refine WroteR.bind ?_ (fun p hp => ?_))
    | (with_reducible refine WroteR.bindV (fun a => ?_)) | split | (with_reducible refine WroteR.of ?_ (by assumption))
    | (with_reducible apply Wrote.foldl; intro _ _ _; try dsimp only) | (with_reducible apply Wrote.foldCmd; intro _ _ _; try dsimp only)
    | with_reducible apply Wrote.mkCmd | dsimp only

theorem joinWrites_one (a : Nat) (bs : Bytes) : joinWrites [(a, bs)] = [(a, bs)] := rfl

/-- After one run of bytes has been committed, its addresses are among those written. -/
theorem commitWrites_one {s t : State} {c d : Cmd} {a : Nat} {bs : Bytes} (e : commitWrites s c ⟨[(a, bs)], 0⟩ = .ok (t, d)) (x : Nat)
    (h1 : a ≤ x) (h2 : x < a + bs.length) : d.hasWritten x = true := by
  unfold commitWrites at e
  split at e
  · cases e
  · cases e
    rw [hasWritten_foldNote]
    simp only [joinWrites_one, List.any_cons, List.any_nil, Bool.or_false, Bool.or_eq_true, Bool.and_eq_true, decide_eq_true_eq]
    exact .inr ⟨h1, h2⟩

/-- A head is 64 bytes long. -/
theorem SHead.bytes_length (h : SHead) : h.bytes.length = 64 := by unfold SHead.bytes; simp [natBytes]

theorem cutTo_wrote {s0 : State} {c0 : Cmd} (s : State) (c : Cmd) (h : SHead) (es : List SEntry) (off : Nat) (hk : Wrote s0 c0 s c) : WroteR s0 c0 (cutTo s c h es off) := by
  unfold cutTo
  dsimp only
  split
  · exact WroteR.error
  · rename_i t d e
    refine WroteR.ok (Wrote.trans (hk.trans (commitWrites_wrote e)) ⟨?_, fun _ h => h, id⟩)
    unfold State.dropReleased State.putHead
    dsimp only
    split
    · refine (Frame.refl t).storeBytes _ _ (fun x h1 h2 => .inl (commitWrites_one e x h1 ?_)) (fun x hx => .inr hx)
      rw [SHead.bytes_length] at h2 ⊢
      exact h2
    refine (Frame.refl t).storeBytes _ _ (fun x h1 h2 => .inl (commitWrites_one e x h1 ?_)) (fun x hx => .inr hx)
    rw [SHead.bytes_length] at h2 ⊢
    exact h2

theorem markUnit_wrote {s0 : State} {c0 : Cmd} (s : State) (c : Cmd) (k1 : Nat) (hk : Wrote s0 c0 s c) : WroteR s0 c0 (markUnit s c k1) := by
  unfold markUnit
  try dsimp only
  iterate 24 try any_goals
    first
    | with_reducible assumption | with_reducible exact WroteR.error | with_reducible apply WroteR.ok | with_reducible apply cutTo_wrote
    | with_reducible apply commitWrites_wroteR | with_reducible apply commitGranules_wroteR | with_reducible apply writeReport_wroteR | with_reducible apply endWith_wrote
    | with_reducible apply Wrote.addCnt | with_reducible apply Wrote.putCnt | with_reducible apply Wrote.moved | with_reducible apply Wrote.openRange | with_reducible apply Wrote.send | with_reducible apply Wrote.record | with_reducible apply Wrote.noteStop
    | with_reducible apply Wrote.mirror | (with_reducible refine WroteR.map ?_ (fun p hp => ?_)) | (with_reducible refine WroteR.bind ?_ (fun p hp => ?_))
    | (with_reducible refine WroteR.bindV (fun a => ?_)) | split | (with_reducible refine WroteR.of ?_ (by assumption))
    | (with_reducible apply Wrote.foldl; intro _ _ _; try dsimp only) | (with_reducible apply Wrote.foldCmd; intro _ _ _; try dsimp only)
    | with_reducible apply Wrote.mkCmd | dsimp only

theorem popUnit_wrote {s0 : State} {c0 : Cmd} (s : State) (c : Cmd) (k1 : Nat) (hk : Wrote s0 c0 s c) : WroteR s0 c0 (popUnit s c k1) := by
  unfold popUnit
  try dsimp only
  iterate 24 try any_goals
    first
    | with_reducible assumption | with_reducible exact WroteR.error | with_reducible apply WroteR.ok 
    | with_reducible apply commitWrites_wroteR | with_reducible apply commitGranules_wroteR | with_reducible apply writeReport_wroteR | with_reducible apply endWith_wrote
    | with_reducible apply Wrote.addCnt | with_reducible apply Wrote.putCnt | with_reducible apply Wrote.moved | with_reducible apply Wrote.openRange | with_reducible apply Wrote.send | with_reducible apply Wrote.record | with_reducible apply Wrote.noteStop
    | with_reducible apply Wrote.mirror | (with_reducible refine WroteR.map ?_ (fun p hp => ?_)) | (with_reducible refine WroteR.bind ?_ (fun p hp => ?_))
    | (with_reducible refine WroteR.bindV (fun a => ?_)) | split | (with_reducible refine WroteR.of ?_ (by assumption))
    | (with_reducible apply Wrote.foldl; intro _ _ _; try dsimp only) | (with_reducible apply Wrote.foldCmd; intro _ _ _; try dsimp only)
    | with_reducible apply Wrote.mkCmd | dsimp only

theorem sortUnit_wrote {s0 : State} {c0 : Cmd} (s : State) (c : Cmd) (k1 : Nat) (hk : Wrote s0 c0 s c) : WroteR s0 c0 (sortUnit s c k1) := by
  unfold sortUnit
  try dsimp only
  iterate 24 try any_goals
    first
    | with_reducible assumption | with_reducible exact WroteR.error | with_reducible apply WroteR.ok 
    | with_reducible apply commitWrites_wroteR | with_reducible apply commitGranules_wroteR | with_reducible apply writeReport_wroteR | with_reducible apply endWith_wrote
    | with_reducible apply Wrote.addCnt | with_reducible apply Wrote.putCnt | with_reducible apply Wrote.moved | with_reducible apply Wrote.openRange | with_reducible apply Wrote.send | with_reducible apply Wrote.record | with_reducible apply Wrote.noteStop
    | with_reducible apply Wrote.mirror | (with_reducible refine WroteR.map ?_ (fun p hp => ?_)) | (with_reducible refine WroteR.bind ?_ (fun p hp => ?_))
    | (with_reducible refine WroteR.bindV (fun a => ?_)) | split | (with_reducible refine WroteR.of ?_ (by assumption))
    | (with_reducible apply Wrote.foldl; intro _ _ _; try dsimp only) | (with_reducible apply Wrote.foldCmd; intro _ _ _; try dsimp only)
    | with_reducible apply Wrote.mkCmd | dsimp only

theorem kpFinish_wrote {s0 : State} {c0 : Cmd} (s : State) (c : Cmd) (hk : Wrote s0 c0 s c) : WroteR s0 c0 (kpFinish s c) := by
  unfold kpFinish
  try dsimp only
  iterate 24 try any_goals
    first
    | with_reducible assumption | with_reducible exact WroteR.error | with_reducible apply WroteR.ok 
    | with_reducible apply commitWrites_wroteR | with_reducible apply commitGranules_wroteR | with_reducible apply writeReport_wroteR | with_reducible apply endWith_wrote
    | with_reducible apply Wrote.addCnt | with_reducible apply Wrote.putCnt | with_reducible apply Wrote.moved | with_reducible apply Wrote.openRange | with_reducible apply Wrote.send | with_reducible apply Wrote.record | with_reducible apply Wrote.noteStop
    | with_reducible apply Wrote.mirror | (with_reducible refine WroteR.map ?_ (fun p hp => ?_)) | (with_reducible refine WroteR.bind ?_ (fun p hp => ?_))
    | (with_reducible refine WroteR.bindV (fun a => ?_)) | split | (with_reducible refine WroteR.of ?_ (by assumption))
    | (with_reducible apply Wrote.foldl; intro _ _ _; try dsimp only) | (with_reducible apply Wrote.foldCmd; intro _ _ _; try dsimp only)
    | with_reducible apply Wrote.mkCmd | dsimp only

theorem countCases_wrote (c : Cmd) (l : List Nat) : (countCases c l).wrote = c.wrote ∧ (countCases c l).withheld = c.withheld := ⟨rfl, rfl⟩

theorem walkCommit_wrote {s0 : State} {c0 : Cmd} (s : State) (c : Cmd) (a : Att) (k : Keys) (u : AUnit) (bs : List Nat) (w : Walk) (hk : Wrote s0 c0 s c) :
    WroteR s0 c0 (walkCommit s c a k u bs w) := by
  unfold walkCommit
  dsimp only
  split
  · exact WroteR.bindV (fun x => commitWrites_wroteR ((hk.addCnt _ _).cmd (countCases_wrote _ _).1 (countCases_wrote _ _).2))
  · refine WroteR.bindV (fun x => WroteR.bindV (fun y => ?_))
    have h := fun l => (hk.addCnt 0 (a.scoreCount k u bs)).cmd (countCases_wrote _ l).1 (countCases_wrote _ l).2
    split
    · exact commitGranules_wroteR (h _)
    · exact commitWrites_wroteR (h _)

/-- Two commands that have written, and hold back, the same. -/
def SameNote (c d : Cmd) : Prop := d.wrote = c.wrote ∧ d.withheld = c.withheld

theorem SameNote.refl (c : Cmd) : SameNote c c := ⟨rfl, rfl⟩

theorem SameNote.trans {c d e : Cmd} (h : SameNote d e) (k : SameNote c d) : SameNote c e := ⟨h.1.trans k.1, h.2.trans k.2⟩

theorem Wrote.note {s0 s : State} {c0 c d : Cmd} (h : Wrote s0 c0 s c) (k : SameNote c d) : Wrote s0 c0 s d := h.cmd k.1 k.2

/-- A command that the walker hands on has written what it had. -/
theorem keepWord_wrote {s : State} {c d : Cmd} {a : Nat} (e : keepWord s c a = .ok d) : SameNote c d := by
  unfold keepWord at e
  split at e
  · cases e; exact SameNote.refl _
  · cases h : s.dynRead c.q a 8 with
    | error st => rw [h] at e; cases e
    | ok b => rw [h] at e; cases e; exact SameNote.refl _

theorem foldlM_wrote {α : Type} {f : Cmd → α → Except Status Cmd} (hf : ∀ c x d, f c x = .ok d → SameNote c d) (l : List α) {c d : Cmd}
    (e : l.foldlM f c = .ok d) : SameNote c d := by
  induction l generalizing c with
  | nil => cases e; exact SameNote.refl _
  | cons x l ih =>
    simp only [List.foldlM_cons, bind, Except.bind] at e
    split at e
    · cases e
    · rename_i v hv; exact (ih e).trans (hf _ _ _ hv)

theorem keepBlock_wrote {s : State} {c d : Cmd} {k : Keys} {b : Nat} (e : keepBlock s c k b = .ok d) : SameNote c d := by
  unfold keepBlock at e
  refine foldlM_wrote (fun c x d h => ?_) _ e
  split at h
  · cases h; exact SameNote.refl _
  · simp only [bind, Except.bind] at h
    split at h
    · cases h
    · rename_i v hv
      split at h
      · cases h
      · cases h; exact keepWord_wrote hv

theorem attKeys_wrote {s : State} {c : Cmd} {a : Att} {ring : List (List Bytes)} {u : AUnit} {p : Cmd × Keys} (e : attKeys s c a ring u = .ok p) :
    SameNote c p.1 := by
  unfold attKeys at e
  simp only [bind, Except.bind] at e
  split at e
  · cases e
  · split at e
    · cases e
    · rename_i d hd
      split at e
      · cases e
      · cases e; exact keepWord_wrote hd

theorem walkBlock_wrote {s : State} {c : Cmd} {a : Att} {k : Keys} {u : AUnit} {bs : List Nat} {w : Walk} {b : Nat} {p : Cmd × Walk}
    (e : walkBlock s c a k u bs w b = .ok p) : SameNote c p.1 := by
  have key : ∀ d : Cmd, (if a.bwd && bs.head? == some b then bs.foldlM (fun c x => keepBlock s c k x) c else keepBlock s c k b) = .ok d → SameNote c d := by
    intro d hd
    split at hd
    · exact foldlM_wrote (fun c x d h => keepBlock_wrote h) _ hd
    · exact keepBlock_wrote hd
  unfold walkBlock at e
  have e' : ((if a.bwd && bs.head? == some b then bs.foldlM (fun c x => keepBlock s c k x) c else keepBlock s c k b) >>= fun c =>
      if a.bwd then (bwdBlock s c a k u bs b w.dq >>= fun r =>
        .ok (c, { w with key := w.key + 1, dq := r.1, dkv := w.dkv ++ r.2.zipIdx.map (fun x => (128 * b + x.2, x.1)) }))
      else
        (fwdBlock s c a k u b (if (!w.cur.isEmpty && decide (w.chunk ≠ a.chunkOf b)) || w.cur.isEmpty then u.rows.map (fun _ => freshPartial a.d) else w.cur) >>= fun cur =>
          .ok (c, { w with key := w.key + 1, chunk := a.chunkOf b, acc := if !w.cur.isEmpty && decide (w.chunk ≠ a.chunkOf b) then foldChunks w.acc w.cur else w.acc,
                           cur := cur }))) = Except.ok p := by
    rw [← e]; split <;> rfl
  cases hx : (if a.bwd && bs.head? == some b then bs.foldlM (fun c x => keepBlock s c k x) c else keepBlock s c k b) with
  | error st => rw [hx] at e'; cases e'
  | ok d =>
    rw [hx] at e'
    simp only [bind, Except.bind] at e'
    split at e'
    · split at e'
      · cases e'
      · cases e'; exact key d hx
    · split at e'
      · cases e'
      · cases e'; exact key d hx

theorem attWalk_wrote {s0 : State} {c0 : Cmd} (s : State) (c : Cmd) (a : Att) (ring : List (List Bytes)) (u : AUnit) (unit : Nat) (hk : Wrote s0 c0 s c) :
    WroteR s0 c0 (attWalk s c a ring u unit) := by
  unfold attWalk
  intro p e
  simp only [bind, Except.bind] at e
  split at e
  · cases e
  · rename_i x hx
    split at e
    · cases e
    · split at e
      · cases e
      · rename_i y hy
        refine WroteR.of (walkCommit_wrote _ _ _ _ _ _ _ (hk.note ?_)) e
        have key : ∀ (l bs : List Nat) (k : Keys) (v w : Cmd × Walk), l.foldlM (fun x b => walkBlock s x.1 a k u bs x.2 b) v = .ok w → SameNote v.1 w.1 := by
          intro l bs k
          induction l with
          | nil => intro v w h; cases h; exact SameNote.refl _
          | cons b l ih =>
            intro v w h
            simp only [List.foldlM_cons, bind, Except.bind] at h
            split at h
            · cases h
            · rename_i z hz; exact (ih _ _ h).trans (walkBlock_wrote hz)
        exact (key _ _ _ _ _ hy).trans (attKeys_wrote hx)

theorem markBad_wrote (s : State) (c : Cmd) (a : Att) (ring : List (List Bytes)) (u : AUnit) : SameNote c (markBad s c a ring u) := by
  unfold markBad; split <;> exact SameNote.refl _

theorem attUnit_wrote {s0 : State} {c0 : Cmd} (ring : List (List Bytes)) (s : State) (c : Cmd) (n : Nat) (hk : Wrote s0 c0 s c) :
    WroteR s0 c0 (attUnit ring s c n) := by
  unfold attUnit
  split
  · exact WroteR.error
  · split
    · exact WroteR.error
    · split
      · exact WroteR.ok hk
      · split
        · exact WroteR.ok (hk.note (markBad_wrote _ _ _ _ _))
        · exact attWalk_wrote _ _ _ _ _ _ hk

theorem ringSend_wrote {s0 : State} {c0 : Cmd} {s : State} {d : Cmd} (hk : Wrote s0 c0 s d) (c : Cmd) (a : Att) (ring : List (List Bytes)) :
    Wrote s0 c0 (ringSend s c a ring) d := by
  unfold ringSend
  split
  · exact hk
  · exact Wrote.openRange (Wrote.foldl (fun _ _ hu => Wrote.foldl (fun _ _ hv => hv.sendPeer _ _ _ _) hu) hk) _ _

theorem attFinish_wrote {s0 : State} {c0 : Cmd} (ring : List (List Bytes)) (s : State) (c : Cmd) (hk : Wrote s0 c0 s c) :
    WroteR s0 c0 (attFinish ring s c) := by
  unfold attFinish
  split
  · exact WroteR.error
  · split
    · exact WroteR.error
    · rename_i r hr
      have h : Wrote s0 c0 r.1 r.2 := writeReport_wroteR hk _ hr
      split
      · exact WroteR.ok' (endWith_wrote (h.walkerBlame _ _) _ _)
      · exact WroteR.ok (Wrote.mkCmd (ringSend_wrote h _ _ _))

/-! ### The opcodes -/

theorem moveOp_wrote {s t : State} {c d : Cmd} (hh : c.heldNoted = true) (h : moveOp.outcome s c = some (t, d)) : Wrote s c t d :=
  Op.outcome_wrote (fun s c k _ _ e => WroteR.of (mvUnit_wrote _ _ k (Wrote.refl s c)) e) (fun s c _ _ e => WroteR.of (mvFinish_wrote _ _ (Wrote.refl s c)) e) hh h

theorem vectorOp_wrote {s t : State} {c d : Cmd} (hh : c.heldNoted = true) (h : vectorOp.outcome s c = some (t, d)) : Wrote s c t d :=
  Op.outcome_wrote (fun s c k _ _ e => WroteR.of (vUnit_wrote _ _ k (Wrote.refl s c)) e) (fun s c _ _ e => WroteR.of (vFinish_wrote _ _ (Wrote.refl s c)) e) hh h

theorem attnOp_wrote (ring : List (List Bytes)) {s t : State} {c d : Cmd} (hh : c.heldNoted = true) (h : (attnOp ring).outcome s c = some (t, d)) : Wrote s c t d :=
  Op.outcome_wrote (fun s c k _ _ e => WroteR.of (attUnit_wrote _ _ _ k (Wrote.refl s c)) e) (fun s c _ _ e => WroteR.of (attFinish_wrote _ _ _ (Wrote.refl s c)) e) hh h

theorem bucketSortOp_wrote {s t : State} {c d : Cmd} (hh : c.heldNoted = true) (h : bucketSortOp.outcome s c = some (t, d)) : Wrote s c t d :=
  Op.outcome_wrote (fun s c k _ _ e => WroteR.of (sortUnit_wrote _ _ k (Wrote.refl s c)) e) (fun s c _ _ e => WroteR.of (kpFinish_wrote _ _ (Wrote.refl s c)) e) hh h

theorem stackMarkOp_wrote {s t : State} {c d : Cmd} (hh : c.heldNoted = true) (h : stackMarkOp.outcome s c = some (t, d)) : Wrote s c t d :=
  Op.outcome_wrote (fun s c k _ _ e => WroteR.of (markUnit_wrote _ _ k (Wrote.refl s c)) e) (fun s c _ _ e => WroteR.of (finishOk_wrote _ _ (Wrote.refl s c)) e) hh h

theorem stackPopOp_wrote {s t : State} {c d : Cmd} (hh : c.heldNoted = true) (h : stackPopOp.outcome s c = some (t, d)) : Wrote s c t d :=
  Op.outcome_wrote (fun s c k _ _ e => WroteR.of (popUnit_wrote _ _ k (Wrote.refl s c)) e) (fun s c _ _ e => WroteR.of (finishOk_wrote _ _ (Wrote.refl s c)) e) hh h

theorem gradQuantOp_wrote {s t : State} {c d : Cmd} (hh : c.heldNoted = true) (h : gradQuantOp.outcome s c = some (t, d)) : Wrote s c t d :=
  Op.outcome_wrote (fun s c k _ _ e => WroteR.of (gqUnit_wrote _ _ k (Wrote.refl s c)) e) (fun s c _ _ e => WroteR.of (gqFinish_wrote _ _ (Wrote.refl s c)) e) hh h

theorem shardCheckOp_wrote {s t : State} {c d : Cmd} (hh : c.heldNoted = true) (h : shardCheckOp.outcome s c = some (t, d)) : Wrote s c t d :=
  Op.outcome_wrote (fun s c k _ _ e => WroteR.of (checkUnit_wrote _ _ k (Wrote.refl s c)) e) (fun s c _ _ e => WroteR.of (checkFinish_wrote _ _ (Wrote.refl s c)) e) hh h

theorem shardFetchOp_wrote (answer : FetchAnswer) {s t : State} {c d : Cmd} (hh : c.heldNoted = true) (h : (shardFetchOp answer).outcome s c = some (t, d)) : Wrote s c t d :=
  Op.outcome_wrote (fun s c k _ _ e => WroteR.of (fetchUnit_wrote _ _ _ k (Wrote.refl s c)) e) (fun s c _ _ e => WroteR.of (fetchFinish_wrote _ _ (Wrote.refl s c)) e) hh h

theorem shardExportOp_wrote {s t : State} {c d : Cmd} (hh : c.heldNoted = true) (h : shardExportOp.outcome s c = some (t, d)) : Wrote s c t d :=
  Op.outcome_wrote (fun s c k _ _ e => WroteR.of (exportUnit_wrote _ _ k (Wrote.refl s c)) e) (fun s c _ _ e => WroteR.of (shFinish_wrote _ _ (Wrote.refl s c)) e) hh h

theorem shardStatusOp_wrote {s t : State} {c d : Cmd} (hh : c.heldNoted = true) (h : shardStatusOp.outcome s c = some (t, d)) : Wrote s c t d :=
  Op.outcome_wrote (fun s c k _ _ e => WroteR.of (statusUnit_wrote _ _ k (Wrote.refl s c)) e) (fun s c _ _ e => WroteR.of (finishOk_wrote _ _ (Wrote.refl s c)) e) hh h

theorem buildOp_wrote {s t : State} {c d : Cmd} (hh : c.heldNoted = true) (h : buildOp.outcome s c = some (t, d)) : Wrote s c t d :=
  Op.outcome_wrote (fun s c k _ _ e => WroteR.of (buildUnit_wrote _ _ k (Wrote.refl s c)) e) (fun s c _ _ e => WroteR.of (finishOk_wrote _ _ (Wrote.refl s c)) e) hh h

theorem encodeOp_wrote {s t : State} {c d : Cmd} (hh : c.heldNoted = true) (h : encodeOp.outcome s c = some (t, d)) : Wrote s c t d :=
  Op.outcome_wrote (fun s c k _ _ e => WroteR.of (encUnit_wrote _ _ k (Wrote.refl s c)) e) (fun s c _ _ e => WroteR.of (encFinish_wrote _ _ (Wrote.refl s c)) e) hh h

theorem signalOp_wrote {s t : State} {c d : Cmd} (hh : c.heldNoted = true) (h : signalOp.outcome s c = some (t, d)) : Wrote s c t d :=
  Op.outcome_wrote (fun s c k _ _ e => WroteR.of (signalUnit_wrote _ _ k (Wrote.refl s c)) e) (fun s c _ _ e => WroteR.of (finishOk_wrote _ _ (Wrote.refl s c)) e) hh h

theorem optUpdateOp_wrote {s t : State} {c d : Cmd} (hh : c.heldNoted = true) (h : optUpdateOp.outcome s c = some (t, d)) :
    WritesOnly { s with shards := t.shards, shardWaits := t.shardWaits } t d :=
  writesOnly_of_shards (Op.outcome_bare (fun s c k _ _ e => (WroteR.of (upUnit_wrote _ _ k (Wrote.refl s c)) e).bare) (fun _ _ _ _ e => upFinish_wrote e) hh h)

theorem shardInitOp_wrote {s t : State} {c d : Cmd} (hh : c.heldNoted = true) (h : shardInitOp.outcome s c = some (t, d)) :
    WritesOnly { s with shards := t.shards, shardWaits := t.shardWaits } t d :=
  writesOnly_of_shards (Op.outcome_bare (fun _ _ k _ _ e => initUnit_wrote (k := k) e)
    (fun s c _ _ e => (WroteR.of (shFinish_wrote _ _ (Wrote.refl s c)) e).bare) hh h)

/-- A property of the command that units, and nothing else of the engine, could change. -/
theorem Op.runUnits_keep {op : Op} {P : Cmd → Prop} (hk : ∀ c s as, P c → P (c.keepTables s as)) (hd : ∀ (c : Cmd) ds u, P c → P { c with done := ds, units := u })
    (hu : ∀ s c k t d, op.unit s c k = .ok (t, d) → P c → P d) (ks : List Nat) (s : State) (c : Cmd) (hc : P c) : P (op.runUnits ks s c).2.1 := by
  induction ks generalizing s c with
  | nil => exact hc
  | cons k ks ih =>
    unfold Op.runUnits
    split
    · exact ih s c hc
    · split
      · exact hc
      · dsimp only
        split
        · exact hk _ _ _ hc
        · rename_i e; exact ih _ _ (hd _ _ _ (hu _ _ _ _ _ e (hk _ _ _ hc)))

theorem noteWrite_claim (s : State) (c : Cmd) (a len : Nat) : (c.noteWrite s a len).claim = c.claim := by
  unfold Cmd.noteWrite; split <;> rfl

theorem commitWrites_claim {s t : State} {c d : Cmd} {p : Packed} (e : commitWrites s c p = .ok (t, d)) : d.claim = c.claim := by
  unfold commitWrites at e
  split at e
  · cases e
  · cases e
    have : ∀ (ws : Writes) (c : Cmd), (ws.foldl (fun c w => c.noteWrite s w.1 w.2.length) c).claim = c.claim := by
      intro ws
      induction ws with
      | nil => intro c; rfl
      | cons w ws ih => intro c; rw [List.foldl_cons, ih, noteWrite_claim]
    exact this _ _

theorem commitGranules_claim {s t : State} {c d : Cmd} {p : Packed} (e : commitGranules s c p = .ok (t, d)) : d.claim = c.claim := by
  unfold commitGranules at e
  cases hc : commitWrites s c p with
  | error st => rw [hc] at e; cases e
  | ok r =>
    rw [hc] at e
    simp only [bind, Except.bind] at e
    split at e
    · cases e
    · cases e; exact commitWrites_claim (t := r.1) (d := r.2) hc

theorem matUnit_claim {s t : State} {c d : Cmd} {k : Nat} (e : matUnit s c k = .ok (t, d)) : d.claim = c.claim := by
  unfold matUnit at e
  split at e
  · cases e
  · rename_i g _
    cases hm : withMeasure s c g with
    | error st => rw [hm] at e; cases e
    | ok b =>
      rw [hm] at e
      have hb : b.claim = c.claim := by
        unfold withMeasure at hm
        split at hm
        · cases hm; rfl
        · split at hm
          · cases hm
          · cases hm; rfl
      simp only [bind, Except.bind] at e
      split at e
      · cases e
      · unfold commitTiles at e
        split at e
        · cases e
        · rename_i u v hu
          cases e
          refine Eq.trans ?_ hb
          cases h : s.heldReadable b with
          | error st => rw [h] at hu; cases hu
          | ok x =>
            rw [h] at hu
            simp only [Except.bind] at hu
            split at hu
            · exact commitGranules_claim (d := v) hu
            · exact commitWrites_claim (d := v) hu

theorem writeMatReport_wrote {s0 : State} {c0 : Cmd} (s : State) (c : Cmd) (g : Mat) (hk : Wrote s0 c0 s c) : WroteR s0 c0 (writeMatReport s c g) := by
  unfold writeMatReport
  refine WroteR.map (writeReport_wroteR hk) (fun p hp => ?_)
  dsimp only
  split
  · exact hp.openRange _ _
  · exact hp

/-- A matrix command that claims no stack entry changes what it writes alone. -/
theorem matrixOp_wrote {s t : State} {c d : Cmd} (hn : c.claim = none) (hh : c.heldNoted = true) (h : matrixOp.outcome s c = some (t, d)) : Wrote s c t d := by
  unfold Op.outcome at h
  have hm := Op.runUnits_wrote (op := matrixOp) (fun s c k _ _ e => WroteR.of (matUnit_wrote _ _ k (Wrote.refl s c)) e) (List.range (matrixOp.total s c)) s c
  have hc := Op.runUnits_keep (op := matrixOp) (P := fun c => c.claim = none)
    (fun c s as h => by unfold Cmd.keepTables; dsimp only; split <;> simp [h]) (fun _ _ _ h => h)
    (fun _ _ _ _ _ e h => (matUnit_claim e).trans h) (List.range (matrixOp.total s c)) s c hn
  split at h
  · cases h
  · split at h
    · rename_i u v hr
      rw [hr] at hm hc
      split at h
      · cases hw : releaseWithheld u v with
        | error => rw [hw] at h; cases h
        | ok w =>
          rw [hw] at h
          simp only [Except.bind] at h
          have h1 : Wrote s c w { v with withheld := [] } := (hm.trans (releaseWithheld_wrote (hm.held hh) hw)).cmdHeld rfl (fun _ => rfl)
          cases hfin : matrixOp.finish w { v with withheld := [] } with
          | error => rw [hfin] at h; cases h
          | ok r =>
            rw [hfin] at h; cases h
            change matFinish w { v with withheld := [] } = _ at hfin
            unfold matFinish at hfin
            split at hfin
            · cases hfin
            · rename_i g _
              have hy : ({ v with withheld := [] } : Cmd).claim = none := hc
              generalize ({ v with withheld := [] } : Cmd) = y at hfin hy h1
              dsimp only at hfin
              rw [hy] at hfin
              simp only [Except.bind] at hfin
              cases hrep : writeMatReport w y g with
              | error => rw [hrep] at hfin; cases hfin
              | ok x => rw [hrep] at hfin; cases hfin; exact Wrote.mkCmd (writeMatReport_wrote _ _ _ h1 x hrep)
      · cases h
    · cases h

/-! ### WRITEBACK, KV_APPEND, KV_TRUNCATE, STACK_PUSH -/

theorem State.inBitmap_track {s : State} {k b : Nat} (ho : (s.track k).isOpen = true) (hb : b < (s.track k).blocks) :
    s.inBitmap ((s.track k).bitmap + b / 8) = true := by
  have mem : ∀ l : Tab Track, (tabGet {} l k).isOpen = true → (k, tabGet {} l k) ∈ l := by
    intro l
    induction l with
    | nil => intro h; exact absurd h (by simp [tabGet])
    | cons e l ih =>
      obtain ⟨j, v⟩ := e
      intro h
      unfold tabGet at h ⊢
      split at h
      · rename_i hj; rw [if_pos hj, hj]; exact List.mem_cons_self
      · rename_i hj; rw [if_neg hj]; exact List.mem_cons_of_mem _ (ih h)
  unfold State.inBitmap
  refine List.any_eq_true.mpr ⟨_, mem s.tracks ho, ?_⟩
  have hlen : b ≤ ((s.track k).length - 1) / 4096 := by
    unfold Track.blocks at hb
    omega
  simp only [Bool.and_eq_true, decide_eq_true_eq]
  refine ⟨⟨ho, Nat.le_add_right _ _⟩, Nat.add_le_add_left ?_ _⟩
  change b / 8 ≤ ((s.track k).length - 1) / 32768
  omega

theorem commitWrites_body {s t : State} {c d : Cmd} {p : Packed} (e : commitWrites s c p = .ok (t, d)) : d.body = c.body := by
  unfold commitWrites at e
  split at e
  · cases e
  · cases e
    have : ∀ (ws : Writes) (c : Cmd), (ws.foldl (fun c w => c.noteWrite s w.1 w.2.length) c).body = c.body := by
      intro ws
      induction ws with
      | nil => intro c; rfl
      | cons w ws ih => intro c; rw [List.foldl_cons, ih]; unfold Cmd.noteWrite; split <;> rfl
    exact this _ _

theorem wbUnit_wrote {s t : State} {c d : Cmd} {k : Nat} (ho : (s.track (trkNo c)).isOpen = true) (hb : k < (s.track (trkNo c)).blocks)
    (e : wbUnit s c k = .ok (t, d)) : Wrote s c t d ∧ d.body = c.body := by
  unfold wbUnit at e
  dsimp only at e
  split at e
  · cases e; exact ⟨Wrote.refl _ _, rfl⟩
  · have h : Wrote s c (s.cleanBit (s.track (trkNo c)) k) c := by
      refine ⟨?_, fun _ h => h, id⟩
      unfold State.cleanBit
      exact (Frame.refl s).pokeByte _ _ (fun _ => .inr (State.inBitmap_track ho hb))
    generalize s.cleanBit (s.track (trkNo c)) k = u at e h
    simp only [bind, Except.bind] at e
    split at e
    · cases e
    · split at e
      · cases e
      · rename_i ws _
        cases hc : commitWrites u c ⟨ws, 0⟩ with
        | error st => rw [hc] at e; cases e
        | ok r =>
          rw [hc] at e
          cases e
          exact ⟨(h.trans (commitWrites_wrote (d := r.2) hc)).addCnt 0 1, commitWrites_body (d := r.2) hc⟩

theorem writebackOp_wrote {s t : State} {c d : Cmd} (ho : (s.track (trkNo c)).isOpen = true) (hh : c.heldNoted = true)
    (h : writebackOp.outcome s c = some (t, d)) : Wrote s c t d := by
  have main : ∀ (ks : List Nat) (s : State) (c : Cmd), (s.track (trkNo c)).isOpen = true → (∀ k ∈ ks, k < (s.track (trkNo c)).blocks) →
      Wrote s c (writebackOp.runUnits ks s c).1 (writebackOp.runUnits ks s c).2.1 := by
    intro ks
    induction ks with
    | nil => intro s c _ _; exact Wrote.refl s c
    | cons k ks ih =>
      intro s c ho hk
      unfold Op.runUnits
      split
      · exact ih s c ho (fun x hx => hk x (List.mem_cons_of_mem _ hx))
      · split
        · exact Wrote.refl s c
        · have hkt : Wrote s c s (c.keepTables s (writebackOp.tables s c)) :=
            (Wrote.refl s c).cmd (keepTables_wrote _ _ _) (keepTables_withheld _ _ _)
          have hbody : (c.keepTables s (writebackOp.tables s c)).body = c.body := by
            unfold Cmd.keepTables; dsimp only; split <;> rfl
          have hno : trkNo (c.keepTables s (writebackOp.tables s c)) = trkNo c := by unfold trkNo Cmd.fld; rw [hbody]
          dsimp only
          split
          · exact hkt
          · rename_i t d e
            obtain ⟨hw, hb⟩ := wbUnit_wrote (by rw [hno]; exact ho) (by rw [hno]; exact hk k List.mem_cons_self) e
            have hw := hkt.trans hw
            have hb := hb.trans hbody
            have ht : ∀ x y, t.track (trkNo { d with done := x, units := y }) = s.track (trkNo c) := by
              intro x y
              unfold State.track trkNo Cmd.fld
              rw [hw.frame.same.tracks, hb]
            refine Wrote.trans (d := { d with done := insertNat k d.done, units := d.units + _ }) (hw.cmd rfl rfl) (ih _ _ ?_ ?_)
            · rw [ht]; exact ho
            · rw [ht]; exact fun x hx => hk x (List.mem_cons_of_mem _ hx)
  have hm := main (List.range (writebackOp.total s c)) s c ho (fun k hk => List.mem_range.mp hk)
  unfold Op.outcome at h
  split at h
  · cases h
  · split at h
    · rename_i u v hr
      rw [hr] at hm
      split at h
      · cases hw : releaseWithheld u v with
        | error => rw [hw] at h; cases h
        | ok w =>
          rw [hw] at h
          simp only [Except.bind] at h
          have h1 : Wrote s c w { v with withheld := [] } := (hm.trans (releaseWithheld_wrote (hm.held hh) hw)).cmdHeld rfl (fun _ => rfl)
          cases hfin : writebackOp.finish w { v with withheld := [] } with
          | error => rw [hfin] at h; cases h
          | ok r => rw [hfin] at h; cases h; exact h1.trans (WroteR.of (trkFinish_wrote _ _ (Wrote.refl _ _)) hfin)
      · cases h
    · cases h

theorem Wrote.putPool {s0 : State} {c0 : Cmd} {s : State} {c : Cmd} (h : Wrote s0 c0 (s.bare true) c) (p : Nat) (x : Pool) : Wrote s0 c0 ((s.putPool p x).bare true) c := h

theorem Wrote.touchPool {s0 : State} {c0 : Cmd} {s : State} {c : Cmd} (h : Wrote s0 c0 (s.bare true) c) (p : Nat) : Wrote s0 c0 ((s.touchPool p).bare true) c := by
  have e : (s.touchPool p).bare true = (s.bare true).openRange (s.pool p).stateRange.1 (s.pool p).stateRange.2 := by
    unfold State.touchPool State.openRange State.bare
    split <;> rfl
  rw [e]
  exact h.openRange _ _

theorem Wrote.releasePages {s0 : State} {c0 : Cmd} {s : State} {c : Cmd} (h : Wrote s0 c0 (s.bare true) c) : Wrote s0 c0 (s.releasePages.bare true) c := by
  unfold State.releasePages
  generalize s.pools = l
  have main : ∀ (l : Tab Pool) (t : State), Wrote s0 c0 (t.bare true) c → Wrote s0 c0 ((l.foldl (fun t p =>
      let keep := p.2.deferred.filter (fun d => s.latchedBelow p.1 d.2)
      if keep.length = p.2.deferred.length then t else (t.putPool p.1 { p.2 with deferred := keep }).touchPool p.1) t).bare true) c := by
    intro l
    induction l with
    | nil => intro t ht; exact ht
    | cons p l ih =>
      intro t ht
      refine ih _ ?_
      dsimp only
      split
      · exact ht
      · exact Wrote.touchPool (Wrote.putPool ht _ _) _
  exact main l s h

theorem truncUnit_wrote {s t : State} {c d : Cmd} {k : Nat} (e : truncUnit s c k = .ok (t, d)) : Wrote (s.bare true) c (t.bare true) d := by
  unfold truncUnit at e
  simp only [bind, Except.bind] at e
  split at e
  · cases e
  · split at e
    · cases e
    · split at e
      · cases e
      · split at e
        · cases e
        · split at e
          · cases e
          · rename_i r hr
            have h := Wrote.bare (kv := true) (commitWrites_wrote (t := r.1) (d := r.2) hr)
            split at e
            · cases e; exact h
            · cases e; exact Wrote.releasePages (Wrote.touchPool (Wrote.putPool h _ _) _)

theorem kvTruncateOp_wrote {s t : State} {c d : Cmd} (hh : c.heldNoted = true) (h : kvTruncateOp.outcome s c = some (t, d)) :
    WritesOnly { s with pools := t.pools } t d :=
  writesOnly_of_kv (Op.outcome_bare (fun _ _ k _ _ e => truncUnit_wrote (k := k) e)
    (fun s c _ _ e => (WroteR.of (finishOk_wrote _ _ (Wrote.refl s c)) e).bare) hh h)

theorem appUnit_wrote {s t : State} {c d : Cmd} {k : Nat} (e : appUnit s c k = .ok (t, d)) : Wrote (s.bare true) c (t.bare true) d := by
  unfold appUnit at e
  split at e
  · split at e
    · cases e; exact Wrote.refl _ _
    · simp only [bind, Except.bind] at e
      split at e
      · cases e
      · split at e
        · cases e; exact Wrote.refl _ _
        · split at e
          · cases e; exact ((Wrote.refl _ _).addCnt _ _).addCnt _ _
          · split at e
            · cases e
            · split at e
              · cases e
              · split at e
                · cases e
                · split at e
                  · cases e
                  · rename_i r hr
                    have h := Wrote.bare (kv := true) (commitWrites_wrote (t := r.1) (d := r.2) hr)
                    cases e
                    refine Wrote.addCnt ?_ _ _
                    split
                    · exact h
                    · exact Wrote.touchPool (Wrote.putPool h _ _) _
  · cases e

theorem appFinish_wrote {s t : State} {c d : Cmd} (e : appFinish s c = .ok (t, d)) : Wrote s c t d := by
  unfold appFinish at e
  simp only [bind, Except.bind] at e
  split at e
  · cases e
  · rename_i v _
    exact (WroteR.map (f := fun r => (r.1, { r.2 with status := if appStopped c then .kvExhausted else .ok })) (writeReport_wroteR (Wrote.refl s c)) (fun p hp => hp.mkCmd)).of e

theorem kvAppendOp_wrote {s t : State} {c d : Cmd} (hh : c.heldNoted = true) (h : kvAppendOp.outcome s c = some (t, d)) :
    WritesOnly { s with pools := t.pools } t d :=
  writesOnly_of_kv (Op.outcome_bare (fun _ _ _ _ _ e => appUnit_wrote e) (fun _ _ _ _ e => (appFinish_wrote e).bare) hh h)

/-- A PUSH writes its entry, and codes a Sepia entry in memory; nothing but memory and what a write may change differs. -/
theorem codeEntry_same {s t : State} {k : StackClaim} (e : s.codeEntry k = .ok t) : Frame (fun _ => True) s t := by
  have wr : ∀ (s u t : State) (a : Nat) (bs : Bytes), Frame (fun _ => True) s u → u.writeBytes a bs = .ok t → Frame (fun _ => True) s t := by
    intro s u t a bs h e
    unfold State.writeBytes at e
    split at e <;> cases e
    exact h.storeBytes _ _ (fun _ _ _ => trivial) (fun _ _ => trivial)
  unfold State.codeEntry at e
  dsimp only at e
  split at e
  · cases e; exact Frame.refl _
  · simp only [bind, Except.bind] at e
    split at e
    · cases e
    · revert e
      generalize List.range _ = l
      have main : ∀ (l : List Nat) (f : State → Nat → Except Status State) (_ : ∀ u n v, Frame (fun _ => True) s u → f u n = .ok v → Frame (fun _ => True) s v)
          (u : State), Frame (fun _ => True) s u → l.foldlM f u = .ok t → Frame (fun _ => True) s t := by
        intro l f hf
        induction l with
        | nil => intro u hu e; cases e; exact hu
        | cons n l ih =>
          intro u hu e
          simp only [List.foldlM_cons, bind, Except.bind] at e
          split at e
          · cases e
          · exact ih _ (hf _ _ _ hu ‹_›) e
      refine main l _ (fun u n v hu e => ?_) s (Frame.refl s)
      split at e
      · cases e
      · split at e
        · cases e
        · rename_i w hw
          exact wr _ _ _ _ _ (wr _ _ _ _ _ hu hw) e

theorem pushUnit_wrote {s t : State} {c d : Cmd} {j : Nat} (e : pushUnit s c j = .ok (t, d)) : Wrote s c t d := by
  unfold pushUnit at e
  split at e
  · simp only [bind, Except.bind] at e
    split at e
    · cases e
    · split at e
      · cases e
      · exact commitWrites_wrote e
  · cases e

theorem stackPushOp_same {s t : State} {c d : Cmd} (hh : c.heldNoted = true) (h : stackPushOp.outcome s c = some (t, d)) : SameElse s t := by
  unfold Op.outcome at h
  have hm := Op.runUnits_wrote (op := stackPushOp) (fun _ _ _ _ _ e => pushUnit_wrote e) (List.range (stackPushOp.total s c)) s c
  split at h
  · cases h
  · split at h
    · rename_i u v hr
      rw [hr] at hm
      split at h
      · cases hw : releaseWithheld u v with
        | error => rw [hw] at h; cases h
        | ok w =>
          rw [hw] at h
          simp only [Except.bind] at h
          have h1 := hm.trans (releaseWithheld_wrote (hm.held hh) hw)
          cases hfin : stackPushOp.finish w { v with withheld := [] } with
          | error => rw [hfin] at h; cases h
          | ok r =>
            rw [hfin] at h; cases h
            refine h1.frame.same.trans ?_
            change pushFinish w { v with withheld := [] } = _ at hfin
            unfold pushFinish at hfin
            split at hfin
            · cases hfin; exact SameElse.refl _
            · split at hfin
              · cases hfin
              · cases hfin; exact (codeEntry_same ‹_›).same
      · cases h
    · cases h

end Sys2Proof.Machine
end

