-- ==== Sys2Proof/Tests/Slice0.lean ====
section
/-! SUPPORT. The author's own tests: commands that do not exist are refused by Instr.wf, and for every hypothesis of a statement a small
state that meets it. Expected values come from the spec's tables and words, never from a run. -/

namespace Sys2Proof.Tests

set_option Elab.async false

open Sys2Proof Sys2Proof.Machine

/-! ### Small states -/

/-- Cells of a run of bytes. -/
def put (a : Nat) (bs : Bytes) : Tab Byte := (bs.zipIdx.filter (fun x => x.1 != 0)).map (fun x => (a + x.2, x.1))

/-- The stage after boot. -/
def running : Boot := { stage := .run, fw := tabGet [] factoryFlash 1 }

/-- The Perast block after boot: 1 TiB of Slate, the link up, a journal of 16 MiB at the bottom of Slate. -/
def perast : Perast := { sizeGib := 1024, linkUp := true, journalBase := slateBase / 4096, journalLog2 := 24 }

/-- Eight regions in service. -/
def regionsIn : Tab Region := (List.range 8).map (fun r => (r, { state := .inService }))

/-- Queue 3, ACTIVE, with its rings in Slate. -/
def queue3 : QueueCtx := { state := .active, sqBase := slateBase + 2 ^ 30, cqBase := slateBase + 2 ^ 31, winLimit := 2 ^ 48 - 1, jobSeed := 7 }

/-- A module that runs, its journal LIVE, with queue 3 ACTIVE and the units of towers 0 and 1 in service. -/
def run0 : State :=
  { boot := running, per := perast, regions := regionsIn, queues := [(3, queue3)], jnl := { state := .live }, lnk := { position := 0 },
    tow := { towers := [(0, { unit := .inService }), (1, { unit := .inService })] } }

/-- A descriptor (R341): opcode, body address, inline area. -/
def descr (op addr : Nat) (inl : Bytes) (n : Nat := 1) (marks : Nat := 0) (flags : Nat := 0) : Bytes :=
  let b := natBytes 2 op ++ natBytes 2 flags ++ natBytes 4 marks ++ natBytes 8 addr ++ inl ++ natBytes (40 - inl.length) 0 ++ natBytes 4 n
  b ++ natBytes 4 (crc32c b)

/-- A started command of queue 3, number 1. -/
def started (op : Nat) (body : Bytes) (inl : Bytes := []) (addr : Nat := 0) : Cmd :=
  { q := 3, n := 1, desc := descr op addr inl, body := body, phase := .started }

/-- The module with one command in flight and some bytes in memory. -/
def with1 (c : Cmd) (cells : Tab Byte := []) : State :=
  { run0 with cmds := [c], mem := { cells := cells }, queues := [(3, { queue3 with nextSeq := 2 })] }

/-- Unit `k` of the command commits alone. -/
def commitsAt (op : Op) (s : State) (c : Cmd) (k : Nat) : Bool :=
  decide (injectedPage s (op.pages s c) = none) && !c.done.contains k && op.ready s c k &&
  (let b := c.keepTables s (op.tables s c)
   match op.unit s b k with
   | .ok (t, e) =>
     let d : Cmd := { e with done := insertNat k e.done, units := e.units + op.weight s b k }
     (op.nextUnit t d).isSome && decide (d.phase = .started) && decide (d.done ≠ c.done)
   | _ => false)
/-- The next unit does. -/
def commitsOne (op : Op) (s : State) (c : Cmd) : Bool := match op.nextUnit s c with | some k => commitsAt op s c k | none => false

/-- The command passes its start checks, and its row runs it to its end. -/
def runs (op : Op) (sel : Cmd → Bool) (s : State) : Bool :=
  match s.runnable 3 1 sel with
  | some c => c.heldNoted && (op.startStatus s c [(c.bodyAddr, c.body.length)]).isNone && (op.outcome s c).isSome
  | none => false

/-! ### The machine and its queue -/

/-- Hypotheses of StepKeepsMemoryCanonical and EveryStepAnswersNextAndIdleKeepsState. -/
theorem wit_idle : run0.mem.wf = true ∧ run0.pending = [] ∧ run0.power = .on ∧ run0.boot.running = none ∧
    ({ run0 with power := .off } : State).power ≠ .on := by decide
/-- A memory that lists something meets the invariant. -/
theorem wit_memory : (with1 (started 0x801 []) (put 64 (natBytes 4 0xA0B))).mem.wf = true := by decide
/-- The steps of the invariants answer next. -/
theorem wit_step : (match step { run0 with pending := [.replayGo] } with | .next t => t.pending | _ => [.replayGo]) = [] := by decide +kernel

/-! ### Doorbells and descriptors -/

/-- Queue 3 with commands 1 to 5 done and 9 wanted. -/
def bell (st : QState) : State := { run0 with queues := [(3, { queue3 with state := st, nextSeq := 6, tailSeq := 5, doneSeq := 5, cqHead := 2 })] }

theorem wit_doorbell_tail : (bell .active).answers = true ∧ (bell .active).jnl.state ≠ .replaying ∧ ({ bell .held with jnl := { state := .replaying } } : State).jnl.state = .replaying ∧ ((bell .active).queue 3).state = .active ∧
    (2 + (9 + 2 ^ 32 - 2 % 2 ^ 32) % 2 ^ 32 ≤ 2 + 2 ^ ((bell .active).queue 3).sizeLog2) ∧ ((bell .parkedStale).queue 3).state = .parkedStale ∧
    ((bell .held).queue 3).state = .held ∧ 0x1000000 + 8 * (3#18).toNat = 0x1000018 := by decide +kernel
theorem wit_doorbell_consumed : ((bell .active).queue 3).cqHead < 2 + (4 + 2 ^ 32 - 2 % 2 ^ 32) % 2 ^ 32 ∧
    2 + (4 + 2 ^ 32 - 2 % 2 ^ 32) % 2 ^ 32 ≤ ((bell .active).queue 3).doneSeq := by decide +kernel
theorem wit_doorbell_refused : (0x1000018 - 0x1000000) / 8 = 3 ∧ 0x1000018 % 8 = 0 ∧ (4 : Nat) ≠ 8 ∧ (0x100001C : Nat) % 8 ≠ 0 ∧ (1#13) ≠ 0 ∧ (4#18).toNat ≠ 3 ∧
    ((bell .disabled).queue 3).state = .disabled ∧ ((bell .draining).queue 3).state = .draining ∧ ((bell .aborting).queue 3).state = .aborting ∧
    2 + 2 ^ ((bell .active).queue 3).sizeLog2 < 2 + (19 + 2 ^ 32 - 2 % 2 ^ 32) % 2 ^ 32 ∧
    2 + (2 + 2 ^ 32 - 2 % 2 ^ 32) % 2 ^ 32 ≤ ((bell .active).queue 3).cqHead ∧
    ((bell .active).queue 3).doneSeq < 2 + (6 + 2 ^ 32 - 2 % 2 ^ 32) % 2 ^ 32 := by decide +kernel

/-- A descriptor of queue 3, number 1, in its slot in Slate. -/
def fetching (d : Bytes) (st : QState := .active) (tries : Nat := 0) : State :=
  { run0 with
    mem := { cells := put (slateBase + 2 ^ 30 + 64) d }
    queues := [(3, { queue3 with state := st, tailSeq := 5, tries := tries })]
    fetches := [{ q := 3, n := 1 }] }

theorem wit_fetch : ({ fetching [] with fetches := [] } : State).fetchTurn = some 3 ∧ (fetching []).alive = true ∧ (fetching []).fetches.length ≤ 64 := by
  decide +kernel
theorem wit_fetch_return : ∃ d, d = descr 0x801 0 [] ∧ (fetching d).fetches.find? (fun f => f.q == 3) = some { q := 3, n := 1 } ∧
    ((fetching d).readBytes (((fetching d).queue 3).sqBase + 64 * (1 % 2 ^ ((fetching d).queue 3).sizeLog2)) 64).toOption = some d ∧
    (fetching d).per.linkUp = true ∧ crc32c (d.take 60) = leNat ((d.drop 60).take 4) ∧ leNat ((d.drop 56).take 4) = 1 % 2 ^ 32 :=
  ⟨_, rfl, by decide +kernel⟩
theorem wit_fetch_stale : ∃ d, d = natBytes 64 0 ∧
    ((fetching d).readBytes (((fetching d).queue 3).sqBase + 64 * (1 % 2 ^ ((fetching d).queue 3).sizeLog2)) 64).toOption = some d ∧
    leNat ((d.drop 56).take 4) ≠ 1 % 2 ^ 32 ∧ ((fetching d .draining).queue 3).state = .draining ∧ ((fetching d .draining).queue 3).tries < 8 ∧
    ((fetching d .active 8).queue 3).state = .active ∧ (fetching d .active 8).ready = [] ∧ (fetching d .active 8).cmds = [] ∧ ((fetching d .draining 8).queue 3).tries = 8 ∧
    ¬((fetching d .active 8).queue 3).tries < 8 :=
  ⟨_, rfl, by decide +kernel⟩
theorem wit_refetch : ∃ s : State, s = { fetching [] with queues := [(3, { queue3 with stale := true })], fetches := [] } ∧ s.alive = true ∧
    (s.queue 3).stale = true ∧ (s.queue 3).tries < 8 ∧ (s.queue 3).state = .active ∧ s.fetches.length < 64 := ⟨_, rfl, by decide +kernel⟩

/-! ### Acceptance, dispatch, completion -/

/-- Queue 3's first command is ready. -/
def ready1 : State := { run0 with ready := [{ q := 3, n := 1, desc := descr 0x801 0 [] }] }

theorem wit_accept : ready1.alive = true ∧ ready1.accepts 3 = true ∧ ready1.ready.find? (fun r => r.q == 3) = some { q := 3, n := 1, desc := descr 0x801 0 [] } ∧
    1 = (ready1.queue 3).nextSeq ∧ (descr 0x801 0 []).length = 64 ∧ ready1.roomFor ready1.roomNeeded = true ∧ ready1.twinned = false ∧
    ready1.cmd? 3 1 = none ∧ ready1.jnl.nextCopy ≤ 1 ∧ ready1.mem.wf = true ∧ ready1.tracks = [] ∧
    ready1.per.journalBase * 4096 + ready1.journalSize ≤ 2 ^ 48 ∧ ready1.fetches = [] ∧ (ready1.queue 3).stale = false ∧ (ready1.queue 3).state = .active ∧
    ready1.ready.erase { q := 3, n := 1, desc := descr 0x801 0 [] } = [] ∧
    (({ ready1 with queues := [(3, { queue3 with stale := true, tries := 8 })] } : State).queue 3).tries = 8 := by decide +kernel

/-- Queue 3's command 2, accepted, behind its command 1 of status `st`. -/
def waits (c : Cmd) (st : Status) : State :=
  { run0 with
    cmds := [c], queues := [(3, { queue3 with nextSeq := 3, doneSeq := 1 })]
    jnl := { state := .live, writeRec := 1, live := [{ recno := 0, kind := .complete, q := 3, seq := 1, record := natBytes 32 0, status := st, head := 0 }] } }

/-- A command that awaits dispatch. -/
def accepted (op : Nat) (inl : Bytes) (marks : Nat := 0) : Cmd := { q := 3, n := 2, desc := descr op 0 inl 2 marks }

theorem wit_dispatch_refused : ∃ c : Cmd, c = { accepted 0xFFFF [] with refused1 := true } ∧ (waits c .ok).cmd? 3 2 = some c ∧ (waits c .ok).alive = true ∧
    (waits c .ok).mayRun 3 = true ∧ c.phase = .accepted ∧ c.mirrored = true ∧ (waits c .ok).replayTurn c = true ∧ c.refused1 = true ∧ 2 = ((waits c .ok).queue 3).doneSeq + 1 := ⟨_, rfl, by decide +kernel⟩
theorem wit_dispatch_depFailed : ∃ c : Cmd, c = accepted 0x801 [] 1 ∧ c.refused1 = false ∧ (waits c .poisoned).marksMet c = true ∧ bitAt c.marks 29 = false ∧
    (∃ m ∈ c.named ((waits c .poisoned).queue 3).firstSeq, ∃ l ∈ (waits c .poisoned).jnl.live, (waits c .poisoned).liveComplete 3 m = some l ∧ l.status.bars = true) :=
  ⟨_, rfl, by decide +kernel⟩
theorem wit_dispatch_startCheck : ∃ c : Cmd, c = accepted 0x801 [8] ∧ c.refused1 = false ∧ (waits c .ok).marksMet c = true ∧ (waits c .ok).depFailed c = false ∧
    (match regOf c with | some r => (match startChecks (waits c .ok) c r with | .error .malformed => true | _ => false) | none => false) = true :=
  ⟨_, rfl, by decide +kernel⟩
theorem wit_dispatch_starts : ∃ c : Cmd, c = accepted 0x801 [1] ∧ (waits c .ok).depFailed c = false ∧
    (match regOf c with
     | some r => (match startChecks (waits c .ok) c r with
       | .ok d => hasRoom (waits c .ok) (placesOf (waits c .ok) d none) && streamPlace d none && (waits c .ok).stackMayStart d && (waits c .ok).groupMayStart d && !usesLinks d &&
           (match regOf d with | some r' => (match r'.start (waits c .ok) d with | .go u e => (u.unreached e).isNone | _ => false) | none => false)
       | _ => false)
     | none => false) = true :=
  ⟨_, rfl, by decide +kernel⟩

/-- Two members in state PAIRED. -/
def paired (s : State) : State := { s with twin := { s.twin with state := .paired } }

theorem wit_commit : ∃ c : Cmd, c = started 0x801 [] ∧ (with1 c).cmd? 3 1 = some c ∧ (with1 c).alive = true ∧ c.phase = .started ∧
    (c.committed && c.noticed) = false ∧ c.noticed = true ∧ (with1 { c with noticed := false }).twinned = false ∧
    (paired (with1 { c with noticed := false })).twinned = true ∧ (paired (with1 c)).twin.unacked.contains (.notice 3 1) = false ∧
    ({ c with noticed := false } : Cmd).noticed = false := ⟨_, rfl, by decide +kernel⟩

/-- A command that has ended. -/
def ended1 : Cmd := { started 0x801 [1] with phase := .ended, status := .ok }

theorem wit_complete : (with1 ended1).cmd? 3 1 = some ended1 ∧ (with1 ended1).alive = true ∧ ended1.phase = .ended ∧ (with1 ended1).jnl.state = .live ∧
    (with1 ended1).outputsOut ended1 = true ∧ (with1 ended1).journalOpen = true ∧ (with1 ended1).versionOwed = false ∧
    ((with1 ended1).queue 3).jnlHead < 1 := by decide +kernel

/-- A command whose COMPLETE record is live. -/
def journaled1 : State :=
  { with1 { ended1 with phase := .journaled } with
    jnl := { state := .live, writeRec := 1, live := [{ recno := 0, kind := .complete, q := 3, seq := 1, record := natBytes 32 1, status := .ok, head := 0 }] } }

theorem wit_completion : 1 = journaled1.recordNext 3 ∧ journaled1.twinned = false ∧ journaled1.tracks = [] ∧ journaled1.jnl.state = .live ∧
    (journaled1.cmd? 3 1).map (fun c => (c.phase, c.mirrored)) = some (.journaled, true) ∧ journaled1.per.linkUp = true ∧ (journaled1.cmd? 3 1).isSome = true ∧
    (journaled1.liveComplete 3 1).any (fun l => l.record.length == 32) = true ∧ journaled1.alive = true ∧ (journaled1.queue 3).state = .active ∧
    slateBase ≤ (journaled1.queue 3).cqBase + 32 * (1 % 2 ^ (journaled1.queue 3).sizeLog2) ∧
    (journaled1.queue 3).cqBase + 32 * (1 % 2 ^ (journaled1.queue 3).sizeLog2) + 32 ≤ 2 ^ 48 ∧
    journaled1.poisonedAt ((journaled1.queue 3).cqBase + 32 * (1 % 2 ^ (journaled1.queue 3).sizeLog2)) = false ∧ journaled1.mem.wf = true := by decide +kernel

theorem wit_consumed : ∃ s : State, s = { bell .active with jnl := { state := .live, consume := [3] } } ∧ s.alive = true ∧ s.jnl.consume.contains 3 = true ∧
    s.journalOpen = true ∧ s.roomFor 1 = true ∧ s.twinned = false ∧ s.jnl.owed = [] ∧
    s.jnl.nextCopy ≤ 1 ∧ s.mem.wf = true ∧ s.per.journalBase * 4096 + s.journalSize ≤ 2 ^ 48 ∧ s.tracks = [] ∧ s.jnl.state = .live := ⟨_, rfl, by decide +kernel⟩

/-- Queue 3 selected on the window path, in a state. -/
def chosen (st : QState) (word : Nat := 0) : State :=
  { run0 with per := { perast with selWindowQueue := 3, selWindowWord := word }, queues := [(3, { queue3 with state := st, nextSeq := 3 })] }

theorem wit_enable : (chosen .disabled).alive = true ∧ ((chosen .disabled).queue 3).state = .disabled ∧ 4 ≤ ((chosen .disabled).queue 3).sizeLog2 ∧
    (chosen .disabled).mappedRange (slateBase + 2 ^ 30) (64 * 2 ^ 4) = true ∧ (chosen .disabled).mappedRange (slateBase + 2 ^ 31) (32 * 2 ^ 4) = true ∧
    0 < (chosen .disabled).journalSlots ∧ (chosen .disabled).boot.scanned = false ∧ (chosen .disabled).contextFits = true ∧ (chosen .disabled).twinned = false ∧
    ((chosen .disabled).queue 3).sqBase % 64 = 0 ∧ ((chosen .disabled).queue 3).cqBase % 32 = 0 ∧ 1 ≤ ((chosen .disabled).queue 3).nextSeq := by
  decide +kernel
theorem wit_disable_abort : ((chosen .active).queue 3).state = .active ∧ ((chosen .active).queue 3).doneSeq + 1 ≠ ((chosen .active).queue 3).nextSeq ∧
    ((chosen .held).queue 3).state ≠ .disabled ∧ ((chosen .held).queue 3).state ≠ .active ∧ ((chosen .held).queue 3).state ≠ .parkedStale ∧
    ((chosen .active).queue 3).stale = false ∧ ((chosen .aborting).queue 3).state = .aborting ∧ ((chosen .draining).queue 3).state = .draining := by decide +kernel
theorem wit_qctx : (∀ w ∈ [0, 1, 2, 3, 4, 5, 6, 7], (chosen .disabled w).per.selWindowWord = w) ∧ ((chosen .disabled 6).queue 3).state = .disabled := by decide +kernel

/-! ### The journal's scan -/

/-- Scanning, with no journal configured, or with an area of the given bytes. -/
def scanning (log2 : Nat) (cells : Tab Byte) (cold : Bool := true) : State :=
  { run0 with
    per := { perast with journalLog2 := log2 }, jnl := { state := .scanning, afterCold := cold }, queues := [], mem := { cells := cells } }

theorem wit_scan_none : (scanning 0 []).alive = true ∧ (scanning 0 []).jnl.state = .scanning ∧ (scanning 0 []).journalSlots = 0 ∧ (scanning 0 []).per.linkUp = true ∧
    (scanning 0 []).boot.running = none := by decide +kernel
/-- An area: header copy 0, a copy 1 that is no header (its TRIM_REC is above its WRITE_REC), record 0. -/
def area (owner base w : Nat) (rec : Bytes) : State :=
  (scanning 24 []).storeBytes slateBase (headerBytes owner base w 0 ++ (natBytes 24 0 ++ natBytes 8 1 ++ natBytes 4064 0) ++ rec)

theorem headerBytes_length (owner base w t : Nat) : (headerBytes owner base w t).length = 4096 := by
  unfold headerBytes withCrc; simp only [List.length_append, natBytes_length]

/-- The rest of a byte string. -/
theorem sliceOf_mid (x y z : Bytes) (off len : Nat) (hx : x.length = off) (hy : y.length = len) : sliceOf (x ++ y ++ z) off len = y := by
  subst hx hy; unfold sliceOf; rw [List.append_assoc, List.drop_left, List.take_left]

theorem area_same (owner base w : Nat) (rec : Bytes) : SameElse (scanning 24 []) (area owner base w rec) :=
  (Frame.storeBytes (P := fun _ => True) (Frame.refl _) _ _ (fun _ _ _ => trivial) (fun _ _ => trivial)).same

theorem area_slice (owner base w off n : Nat) (rec : Bytes) (h : off + n ≤ 8192 + rec.length) (hr : rec.length ≤ 128) :
    (area owner base w rec).rawBytes (slateBase + off) n =
      sliceOf (headerBytes owner base w 0 ++ (natBytes 24 0 ++ natBytes 8 1 ++ natBytes 4064 0) ++ rec) off n := by
  have l : (headerBytes owner base w 0 ++ (natBytes 24 0 ++ natBytes 8 1 ++ natBytes 4064 0) ++ rec).length = 8192 + rec.length := by
    simp only [List.length_append, natBytes_length, headerBytes_length]
  rw [← sliceOf_rawBytes _ slateBase (8192 + rec.length) off n h]
  congr 1
  rw [← l]
  exact State.rawBytes_storeBytes _ (by decide) _ _ (Or.inr ⟨Nat.le_refl _, by rw [l]; have : slateBase + 8320 ≤ 2 ^ 48 := by decide
                                                                               omega⟩)

theorem same_journal {s t : State} (h : SameElse s t) : t.per = s.per ∧ t.journalSlots = s.journalSlots ∧ t.jnl = s.jnl := by
  have e : t.tierOf = s.tierOf := by rw [h]; rfl
  have m : t.mappedRange = s.mappedRange := by rw [h]; rfl
  have p : t.per = s.per := by rw [h]
  refine ⟨p, ?_, by rw [h]⟩
  unfold State.journalSlots State.journalSize
  rw [e, m, p]

theorem area_slots (owner base w : Nat) (rec : Bytes) : (area owner base w rec).journalSlots = 131008 := by
  rw [(same_journal (area_same owner base w rec)).2.1]; decide +kernel

theorem area_base (owner base w : Nat) (rec : Bytes) : (area owner base w rec).per.journalBase * 4096 = slateBase := by
  rw [(same_journal (area_same owner base w rec)).1]; decide

/-- Copy 1 is no header. -/
theorem area_copy1 (owner base w : Nat) (rec : Bytes) (hr : rec.length ≤ 128) : (area owner base w rec).headerCopy 1 = none := by
  apply State.headerCopy_none
  rw [area_base, show slateBase + 4096 * 1 + 16 = slateBase + 4112 from rfl, show slateBase + 4096 * 1 + 24 = slateBase + 4120 from rfl,
    area_slice _ _ _ _ _ _ (by omega) hr, area_slice _ _ _ _ _ _ (by omega) hr]
  have e1 : headerBytes owner base w 0 ++ (natBytes 24 0 ++ natBytes 8 1 ++ natBytes 4064 0) ++ rec =
      (headerBytes owner base w 0 ++ natBytes 16 0) ++ natBytes 8 0 ++ (natBytes 8 1 ++ natBytes 4064 0 ++ rec) := by
    rw [show natBytes 24 0 = natBytes 16 0 ++ natBytes 8 0 by decide]; simp only [List.append_assoc]
  have e2 : headerBytes owner base w 0 ++ (natBytes 24 0 ++ natBytes 8 1 ++ natBytes 4064 0) ++ rec =
      (headerBytes owner base w 0 ++ natBytes 24 0) ++ natBytes 8 1 ++ (natBytes 4064 0 ++ rec) := by simp only [List.append_assoc]
  rw [show sliceOf (headerBytes owner base w 0 ++ (natBytes 24 0 ++ natBytes 8 1 ++ natBytes 4064 0) ++ rec) 4112 8 = natBytes 8 0 by
      rw [e1]; exact sliceOf_mid _ _ _ _ _ (by rw [List.length_append, headerBytes_length, natBytes_length]) (natBytes_length 8 _),
    show sliceOf (headerBytes owner base w 0 ++ (natBytes 24 0 ++ natBytes 8 1 ++ natBytes 4064 0) ++ rec) 4120 8 = natBytes 8 1 by
      rw [e2]; exact sliceOf_mid _ _ _ _ _ (by rw [List.length_append, headerBytes_length, natBytes_length]) (natBytes_length 8 _)]
  decide

theorem header_none1 (s : State) (h : Header) (e : s.headerCopy 0 = some h) (f : s.headerCopy 1 = none) : s.header = some h := by
  unfold State.header; rw [e, f]; rfl
theorem header_none2 (s : State) (e : s.headerCopy 0 = none) (f : s.headerCopy 1 = none) : s.header = none := by
  unfold State.header; rw [e, f]; rfl

/-- Copy 0 is the header. -/
theorem area_header (owner base w : Nat) (rec : Bytes) (hr : rec.length ≤ 128) (ho : owner < 2 ^ 64) (hb : base < 2 ^ 64) (hw : w ≤ 1) :
    (area owner base w rec).header = some { copy := 0, owner := owner, base := base, write := w, trim := 0 } := by
  have e : (area owner base w rec).headerCopy 0 = some { copy := 0, owner := owner, base := base, write := w, trim := 0 } := by
    refine State.headerCopy_of _ 0 _ _ _ _ ?_ ho hb (by omega) (by omega) (by rw [area_slots]; omega)
    rw [area_base, show slateBase + 4096 * 0 = slateBase + 0 from rfl, area_slice _ _ _ _ _ _ (by omega) hr, List.append_assoc]
    have e := sliceOf_mid [] (headerBytes owner base w 0) ((natBytes 24 0 ++ natBytes 8 1 ++ natBytes 4064 0) ++ rec) 0 4096 rfl (headerBytes_length _ _ _ _)
    rw [List.nil_append] at e
    exact e
  exact header_none1 _ _ e (area_copy1 _ _ _ _ hr)

/-- Record 0, read back. -/
theorem area_rec (owner base : Nat) (rec : Bytes) (hr : rec.length = 128) :
    (area owner base 1 rec).scanRecs { copy := 0, owner := owner, base := base, write := 1, trim := 0 } = [{ no := 0, bytes := rec }] := by
  unfold State.scanRecs State.scanRec State.recordAddr
  rw [area_base, area_slots]
  show [{ no := 0, bytes := (area owner base 1 rec).rawBytes (slateBase + 8192) 128 : ScanRec }] = _
  rw [area_slice _ _ _ _ _ _ (by omega) (by omega)]
  have e := sliceOf_mid (headerBytes owner base 1 0 ++ (natBytes 24 0 ++ natBytes 8 1 ++ natBytes 4064 0)) rec [] 8192 128
    (by simp only [List.length_append, natBytes_length, headerBytes_length]) hr
  rw [List.append_nil] at e
  rw [e]

/-- The CONTEXT record of queue 3, with a record number. -/
def ctxRec (recno : Nat) : Bytes := recordBytesOf .context 3 0 recno queue3.bytes 0

theorem ctxRec_length (k : Nat) : (ctxRec k).length = 128 := by
  unfold ctxRec recordBytesOf withCrc
  simp only [List.length_append, natBytes_length, show queue3.bytes.length = 64 by decide +kernel]

theorem ctxRec_sound (k : Nat) (hk : k < 2) : ({ no := 0, bytes := ctxRec k } : ScanRec).sound = true := by
  have l : (natBytes 1 RecKind.context.code ++ natBytes 3 0 ++ natBytes 4 3 ++ natBytes 8 0 ++ natBytes 8 k ++ (queue3.bytes ++ natBytes (64 - queue3.bytes.length) 0) ++
      natBytes 8 0 ++ natBytes 28 0).length = 124 := by
    simp only [List.length_append, natBytes_length, show queue3.bytes.length = 64 by decide +kernel]
  have c : crc32c (sliceOf (ctxRec k) 0 124) = fieldAt (ctxRec k) 124 4 := by
    unfold ctxRec recordBytesOf withCrc
    generalize natBytes 1 RecKind.context.code ++ natBytes 3 0 ++ natBytes 4 3 ++ natBytes 8 0 ++ natBytes 8 k ++ (queue3.bytes ++ natBytes (64 - queue3.bytes.length) 0) ++
      natBytes 8 0 ++ natBytes 28 0 = x at l
    have e := fieldAt_mid x (natBytes 4 (crc32c x)) [] 124 4 l (natBytes_length 4 _)
    rw [List.append_nil] at e
    rw [e, leNat_natBytes, Nat.mod_eq_of_lt (by simpa using crc32c_lt x)]
    unfold sliceOf
    rw [List.drop_zero, ← l, List.take_left]
  unfold ScanRec.sound
  rw [c, beq_self_eq_true]
  rcases (show k = 0 ∨ k = 1 by omega) with e | e <;> subst e <;> decide +kernel

theorem wit_scan_noHeader : ∃ s : State, 0 < s.journalSlots ∧ s.header = none ∧ s.freshArea = false := by
  refine ⟨{ scanning 24 (put slateBase (natBytes 24 0 ++ [1]) ++ put (slateBase + 4096) (natBytes 24 0 ++ [1])) with queues := [] }, by decide +kernel, ?_, ?_⟩
  · exact header_none2 _ (State.headerCopy_none _ 0 (by decide +kernel)) (State.headerCopy_none _ 1 (by decide +kernel))
  · unfold State.freshArea State.rawBytes
    rw [List.all_eq_false]
    exact ⟨_, List.mem_map_of_mem (List.mem_range.mpr (show 24 < 8192 by decide)), by decide +kernel⟩
theorem wit_scan_owner : ((area 9 0 0 []).header).map (fun h => decide (h.owner ≠ (0 : Nat))) = some true := by
  rw [area_header _ _ _ _ (by decide) (by decide) (by decide) (by decide)]; decide
theorem wit_scan_base : ((area 0 9 0 []).header).map (fun h => (h.owner, decide (h.base ≠ perast.journalReg))) = some (0, true) := by
  rw [area_header _ _ _ _ (by decide) (by decide) (by decide) (by decide)]; decide
theorem area_check (rec : Bytes) (hr : rec.length = 128) (f : Option JFinding)
    (hf : (scanning 24 []).checkRecs [{ no := 0, bytes := rec }] = f) : ∃ s h, s.header = some h ∧ h.owner = 0 ∧ h.base = perast.journalReg ∧
      State.checkRecs s (s.scanRecs h) = f ∧ s.jnl.afterCold = true := by
  have sm := area_same 0 perast.journalReg 1 rec
  refine ⟨_, _, area_header 0 perast.journalReg 1 rec (by omega) (by decide) (by decide) (by decide), rfl, rfl, ?_, by rw [(same_journal sm).2.2]; rfl⟩
  rw [area_rec _ _ _ hr, ← hf]
  unfold State.checkRecs State.heldQueues
  rw [(same_journal sm).2.1, (same_journal sm).2.2, sm]
/-- A journal of one record: out of its place, or a CONTEXT record in place. -/
theorem check_place (s : State) (r : ScanRec) (h : r.sound = true) (n : (r.recno != r.no) = true) : s.checkRecs [r] = some ⟨5, r.no % s.journalSlots⟩ := by
  unfold State.checkRecs alteredRec
  rw [List.find?_cons_of_pos (by rw [h, n]; rfl), Option.map_some, if_pos h]
theorem check_context (s : State) (r : ScanRec) (h : r.sound = true) (n : (r.recno != r.no) = false) (k : r.kind = 3) (d : r.disabled = false)
    (a : s.jnl.afterCold = true) : s.checkRecs [r] = none := by
  have hc : counted [r] r.q = [r] := by simp [counted, d]
  have ha : unaccounted [r] r = false := by simp [unaccounted, hc, k]
  unfold State.checkRecs alteredRec
  rw [List.find?_cons_of_neg (by rw [h, n]; decide), List.find?_nil, Option.map_none]
  dsimp only
  rw [List.find?_cons_of_neg (by rw [ha]; decide), List.find?_nil]
  dsimp only
  rw [a]
  rfl

/-- The record of number 1 stands in slot 0: REASON 5. -/
theorem wit_scan_record : ∃ s h, s.header = some h ∧ h.owner = 0 ∧ h.base = perast.journalReg ∧ State.checkRecs s (s.scanRecs h) = some ⟨5, 0⟩ ∧
    s.jnl.afterCold = true :=
  area_check (ctxRec 1) (ctxRec_length 1) _ (check_place (scanning 24 []) _ (ctxRec_sound 1 (by decide)) (by decide +kernel))
theorem wit_scan_sound : ∃ s h, s.header = some h ∧ h.owner = 0 ∧ h.base = perast.journalReg ∧ State.checkRecs s (s.scanRecs h) = none ∧
    s.jnl.afterCold = true :=
  area_check (ctxRec 0) (ctxRec_length 0) _
    (check_context _ _ (ctxRec_sound 0 (by decide)) (by decide +kernel) (by decide +kernel) (by decide +kernel) (by decide))
/-- A journal rebuilt, with queue 3 held; its command 1 stands at a phase. -/
def rebuilt (p : Phase) (replayed : Bool) : State :=
  { with1 { started 0x801 [1] with phase := p, replayed := replayed } with
    queues := [(3, { queue3 with state := .held, heldFrom := .active, nextSeq := 2 })], jnl := { state := .awaitGo } }
theorem wit_replay : (∀ x ∈ [(Phase.journaled, false), (.accepted, true), (.accepted, false)], (rebuilt x.1 x.2).alive = true ∧ (rebuilt x.1 x.2).jnl.state = .awaitGo ∧
      (rebuilt x.1 x.2).twin.adopting = false ∧ (rebuilt x.1 x.2).jnl.owed = [] ∧ ((rebuilt x.1 x.2).queue 3).state = .held ∧
      (rebuilt x.1 x.2).cmds.any (fun c => c.q == 3 && c.refused1 == false && c.phase == x.1 && c.replayed == x.2) = true ∧
      ((rebuilt x.1 x.2).queue 3).cqHead < 1) ∧
    (rebuilt .accepted true).cmds.all (fun c => (rebuilt .accepted true).marksMet c) = true ∧
    (({ rebuilt .accepted true with cmds := [] } : State).queue 3).heldFrom = .active ∧
    ({ run0 with jnl := { state := .broken } } : State).jnl.state = .broken := by decide +kernel

/-- A queue whose next command to run again waits for a mark returns at once, and stays while the marks are met (R367). -/
theorem test_replay_returns : ([1, 0].map (fun m => (({ rebuilt .accepted true with jnl := { state := .replaying }, cmds :=
    [{ accepted 0x101 [] m with replayed := true }] } : State).releaseHeld 3).queue 3 |>.state)) = [.active, .held] := by decide +kernel

/-! ### Fences and requests to Slate -/

/-- Peers 5 and 6 have not acknowledged; some peer fences wait. -/
def fencing (fs : List FenceRead) : State := { run0 with lnk := { unacked := [5, 6] }, per := { perast with peerFences := fs } }

theorem wit_fences : run0.answers = true ∧ run0.alive = true ∧ run0.per.requests = [] ∧ run0.per.linkFences = [] ∧ run0.lnk.unacked = [] ∧ run0.per.peerFences = [] ∧
    (fencing [⟨0, 8, [5, 6]⟩]).lnk.unacked ≠ [] ∧ (∀ f ∈ (fencing [⟨0, 8, [5, 6]⟩]).per.peerFences, f.awaits ≠ []) ∧
    (fencing [⟨0, 8, [5]⟩]).per.peerFences = [⟨0, 8, [5]⟩] ∧ [5, 6].filter (· != 5) ≠ ([] : List Nat) := by decide +kernel

/-- A request of the command outstanding. -/
def asking (write : Bool) : State :=
  { with1 (started 0x101 []) with
    per := { perast with requests := [{ id := 4, q := 3, n := 1, write := write, addr := slateBase + 4096, length := 2, bytes := [1, 2] }] } }

theorem wit_slateRequest : (with1 (started 0x101 [])).cmd? 3 1 = some (started 0x101 []) ∧ (with1 (started 0x101 [])).tierOf (slateBase + 4096) = some .slate ∧
    (with1 (started 0x101 [])).mappedRange (slateBase + 4096) 2 = true ∧ (with1 (started 0x101 [])).inWindow 3 (slateBase + 4096) 2 = true ∧
    (with1 (started 0x101 [])).per.linkUp = true ∧ (started 0x101 []).noticed = true ∧ (started 0x101 []).phase = .started := by decide +kernel
/-- A write outstanding of a command that is over makes the link fence wait. -/
theorem wit_linkFence : (({ asking true with cmds := [] } : State).per.requests.filter (fun r => r.write && (({ asking true with cmds := [] } : State).cmd? r.q r.n).isNone)).map (·.id) = [4] := by decide +kernel
theorem wit_slateAnswer : (asking true).alive = true ∧ (asking true).per.linkFences = [] ∧ slateBase + 4096 + 2 ≤ 2 ^ 48 ∧ ((asking false).per.requests.find? (fun r => r.id == 4)).map (·.write) = some false ∧
    ((asking true).per.requests.find? (fun r => r.id == 4)).map (·.write) = some true ∧ (asking true).mem.wf = true ∧ (asking true).fed = true ∧
    (asking true).jnl.owed = [] ∧ ((asking true).cmd? 3 1).map (fun c => (c.phase, (regOf c).isSome)) = some (.started, true) := by decide +kernel

/-! ### STREAM -/

/-- A body of `n` bytes with little-endian fields (offset, size, value). -/
def body (n : Nat) (fs : List (Nat × Nat × Nat)) : Bytes :=
  fs.foldl (fun b f => b.take f.1 ++ natBytes f.2.1 f.2.2 ++ b.drop (f.1 + f.2.1)) (natBytes n 0)

/-- An instruction's 16 bytes (R322). -/
def ins (op : Nat) (pa pb pc sub imm32 imm64 : Nat := 0) : Bytes :=
  natBytes 8 imm64 ++ natBytes 4 imm32 ++ [BitVec.ofNat 8 sub, BitVec.ofNat 8 (pc * 16), BitVec.ofNat 8 (pa * 16 + pb), BitVec.ofNat 8 op]

/-- A started STREAM with a program in its body's tail: any region, two moves, save area 0x2000, report 0x3000, P0 to P3. -/
def streamCmd (prog : List Bytes) : Cmd :=
  started 0x105 (body 64 [(0, 8, 0x1000), (8, 1, prog.length), (9, 1, 255), (10, 1, 2), (16, 8, 0x2000), (24, 8, 0x3000), (32, 8, 0x100), (40, 8, 0x200),
    (48, 8, 0x300), (56, 8, 0x400)] ++ prog.flatten)

/-- Its thread in region 0. -/
def thread1 : Thread := { q := 3, n := 1, region := 0, ptr := [0x100, 0x200, 0x300, 0x400, 0, 0, 0, 0] }

/-- The STREAM with its thread. -/
def streamAt (prog : List Bytes) (t : Thread) (cells : Tab Byte := []) : State := { with1 (streamCmd prog) cells with threads := [t] }

/-- The thread stands at an instruction of the operation. -/
def standsAt (code : Nat) (s : State) (prog : List Bytes) (t : Thread) : Bool :=
  decide (s.runnable 3 1 (Cmd.isOp 0x105) = some (streamCmd prog)) && decide (s.thread? 3 1 = some t) && !t.saved && !t.waiting &&
  decide (t.ending = none) && decide ((s.region t.region).state = .inService) && !(s.page (pgRegion t.region)).injectNext && decide (t.pc < stCount (streamCmd prog)) &&
  decide ((stIns (streamCmd prog) t.pc).op = code)

theorem atIns_of {code : Nat} {s : State} {prog : List Bytes} {t : Thread} (h : standsAt code s prog t = true) :
    AtIns code s 3 1 (streamCmd prog) t (stIns (streamCmd prog) t.pc) := by
  simp only [standsAt, Bool.and_eq_true, decide_eq_true_eq, Bool.not_eq_true'] at h
  obtain ⟨⟨⟨⟨⟨⟨⟨⟨a, b⟩, c⟩, d⟩, e⟩, f⟩, j⟩, g⟩, i⟩ := h
  exact ⟨a, b, c, d, e, f, j, g, rfl, i⟩

theorem wit_setp : standsAt 0x01 (streamAt [ins 1 2 0 0 0 0 0x77, ins 0] thread1) [ins 1 2 0 0 0 0 0x77, ins 0] thread1 = true := by decide +kernel
theorem wit_addp : standsAt 0x02 (streamAt [ins 2 2 0 0 0 0 (2 ^ 64 - 8), ins 0] thread1) [ins 2 2 0 0 0 0 (2 ^ 64 - 8), ins 0] thread1 = true := by decide +kernel

/-- A loop of two rounds with an IDXP in it. -/
def loopProg : List Bytes := [ins 3 0 0 0 0 2, ins 0x0E 0 1 0 0 0 64, ins 4, ins 0]
theorem wit_loops : standsAt 0x03 (streamAt loopProg thread1) loopProg thread1 = true ∧ 0 < (stIns (streamCmd loopProg) 0).imm32 ∧
    standsAt 0x0E (streamAt loopProg { thread1 with pc := 1, loops := [1] }) loopProg { thread1 with pc := 1, loops := [1] } = true ∧
    standsAt 0x04 (streamAt loopProg { thread1 with pc := 2, loops := [0] }) loopProg { thread1 with pc := 2, loops := [0] } = true ∧
    ([0].getLastD 0 + 1 < (stIns (streamCmd loopProg) (matchLoop (stInss (streamCmd loopProg)) 2)).imm32) ∧
    standsAt 0x04 (streamAt loopProg { thread1 with pc := 2, loops := [1] }) loopProg { thread1 with pc := 2, loops := [1] } = true ∧
    (stIns (streamCmd loopProg) (matchLoop (stInss (streamCmd loopProg)) 2)).imm32 ≤ [1].getLastD 0 + 1 := by decide +kernel
theorem wit_loop0 : standsAt 0x03 (streamAt [ins 3, ins 4, ins 0] thread1) [ins 3, ins 4, ins 0] thread1 = true ∧ (stIns (streamCmd [ins 3, ins 4, ins 0]) 0).imm32 = 0 := by
  decide +kernel
theorem wit_skipz : standsAt 0x09 (streamAt [ins 9 0 0 0 1 1, ins 0x0C, ins 0] thread1) [ins 9 0 0 0 1 1, ins 0x0C, ins 0] thread1 = true ∧
    ((streamAt [ins 9 0 0 0 1 1, ins 0x0C, ins 0] thread1).dynRead 3 0x100 4).toOption = some [0, 0, 0, 0] := by decide +kernel
theorem wit_streamFence : standsAt 0x0C (streamAt [ins 0x0C, ins 0] thread1) [ins 0x0C, ins 0] thread1 = true ∧ thread1.moves = [] := by decide +kernel

/-- MOVE of 16 bytes from P0 to P1, CONV of two elements BF16 to FP32, GATH and SCAT of two elements of 4 bytes by the list at P2. -/
def moveProg : List Bytes := [ins 5 0 1 0 3 16, ins 6 0 1 0 0 2 0x203, ins 7 0 1 2 2 2, ins 8 0 1 2 2 2, ins 0]
def moving (k : Nat) : Thread := { thread1 with pc := k }
def moveState (k : Nat) : State := streamAt moveProg (moving k) (put 0x100 [1, 2, 3, 0x3F] ++ put 0x300 [1, 0, 0, 0, 2])

theorem wit_moves : (moving 0).moves.length < stInFlight (streamCmd moveProg) ∧
    (∀ k ∈ [0, 1, 2, 3], standsAt (k + 5) (moveState k) moveProg (moving k) = true) ∧
    ((moveState 0).dynRead 3 0x100 16).toOption = some ([1, 2, 3, 0x3F] ++ natBytes 12 0) ∧ (moveState 0).dynRefusal 3 0x200 16 = none ∧
    fmtOf ((stIns (streamCmd moveProg) 1).imm64 % 256) = some .bf16 ∧ fmtOf ((stIns (streamCmd moveProg) 1).imm64 / 256 % 256) = some .fp32 ∧
    ((moveState 1).dynRead 3 0x100 4).toOption = some [1, 2, 3, 0x3F] ∧ (moveState 1).dynRefusal 3 0x200 8 = none := by decide +kernel
theorem wit_gath : ((moveState 2).dynRead 3 0x300 4).toOption = some [1, 0, 0, 0] ∧ ((moveState 2).dynRead 3 0x304 4).toOption = some [2, 0, 0, 0] ∧
    ((moveState 2).dynRead 3 0x104 4).toOption = some [0, 0, 0, 0] ∧ ((moveState 2).dynRead 3 0x108 4).toOption = some [0, 0, 0, 0] ∧
    (joinWrites [(0x200, [0, 0, 0, 0]), (0x204, [0, 0, 0, 0])]).all (fun w => (moveState 2).dynRefusal 3 w.1 w.2.length == none) = true := by decide +kernel
theorem wit_scat : ((moveState 3).dynRead 3 0x300 4).toOption = some [1, 0, 0, 0] ∧ ((moveState 3).dynRead 3 0x304 4).toOption = some [2, 0, 0, 0] ∧
    ((moveState 3).dynRead 3 0x200 4).toOption = some [0, 0, 0, 0] ∧ ((moveState 3).dynRead 3 0x204 4).toOption = some [0, 0, 0, 0] ∧
    (joinWrites [(0x104, [0, 0, 0, 0]), (0x108, [0, 0, 0, 0])]).all (fun w => (moveState 3).dynRefusal 3 w.1 w.2.length == none) = true := by decide +kernel
theorem wit_moveDone : ∃ t : Thread, t = { moving 1 with moves := [⟨[(0x200, [1, 2])], 2, []⟩] } ∧
    (streamAt moveProg t).runnable 3 1 (Cmd.isOp 0x105) = some (streamCmd moveProg) ∧ (streamAt moveProg t).thread? 3 1 = some t ∧ t.saved = false ∧
    t.ending = none ∧ moveFits (streamAt moveProg t) (streamCmd moveProg) t ⟨[(0x200, [1, 2])], 2, []⟩ (.region 0) = true ∧ moverEngines (.region 0) = [] ∧
    (commitWrites (streamAt moveProg t) (streamCmd moveProg) ⟨[(0x200, [1, 2])], 0⟩).toOption.isSome = true := ⟨_, rfl, by decide +kernel⟩

/-- TAKE and GIVE of queue 5, handles of 2^SUB = 256 bytes, and GIVEI. -/
def hqProg : List Bytes := [ins 0x0A 1 0 0 8 5, ins 0x0B 1 0 0 8 5, ins 0x0F 0 0 0 0 9 5, ins 0]
def hqState (k : Nat) (h : HandleQueue) : State := { streamAt hqProg (moving k) with hqs := [(5, h)] }

theorem wit_take : ∃ h : HandleQueue, h = { isOpen := true, depth := 4, handles := [7] } ∧ standsAt 0x0A (hqState 0 h) hqProg (moving 0) = true ∧
    h = (hqState 0 h).hq ((stIns (streamCmd hqProg) 0).imm32 % 1024) ∧ h.isOpen = true ∧ h.handles = [7] ∧ h.takers = [] := ⟨_, rfl, by decide +kernel⟩
theorem wit_take_waits : ∃ h : HandleQueue, h = { isOpen := true, depth := 4 } ∧ standsAt 0x0A (hqState 0 h) hqProg (moving 0) = true ∧
    h = (hqState 0 h).hq ((stIns (streamCmd hqProg) 0).imm32 % 1024) ∧ (h.handles = [] ∨ h.takers ≠ []) := ⟨_, rfl, by decide +kernel⟩
theorem wit_give : ∃ h : HandleQueue, h = { isOpen := true, depth := 1, handles := [7] } ∧ standsAt 0x0B (hqState 1 h) hqProg (moving 1) = true ∧
    h = (hqState 1 h).hq ((stIns (streamCmd hqProg) 1).imm32 % 1024) ∧ nth 0 (moving 1).ptr 1 = nth 0 (moving 1).ptr 0 + 1 * 2 ^ 8 ∧
    standsAt 0x0F (hqState 2 h) hqProg (moving 2) = true ∧ h = (hqState 2 h).hq ((stIns (streamCmd hqProg) 2).imm64 % 1024) := ⟨_, rfl, by decide +kernel⟩
theorem wit_waiter : ∃ (h : HandleQueue) (s : State), h = { isOpen := true, depth := 4, handles := [7], takers := [⟨3, 1, 0⟩] } ∧
    s = hqState 0 h ∧ s.alive = true ∧ s.hq 5 = h ∧ s.cmd? 3 1 = some (streamCmd hqProg) ∧ s.thread? 3 1 = some (moving 0) ∧ (moving 0).saved = false :=
  ⟨_, _, rfl, rfl, by decide +kernel⟩
theorem wit_hq : ∃ c : Cmd, c = started 0x106 (body 64 [(0, 1, 1), (2, 2, 5), (4, 2, 2), (6, 2, 1), (8, 8, 0x100)]) ∧
    (with1 c).runnable 3 1 (Cmd.isSub 0x106 1) = some c ∧ c.done = [] ∧ c.withheld = [] ∧ ((with1 c).hq (c.fld 2 2)).isOpen = false ∧ ((with1 c).readBytes 0x100 4).toOption = some [0, 0, 0, 0] := ⟨_, rfl, by decide +kernel⟩
theorem wit_hqClose : ∃ c : Cmd, c = started 0x106 (body 64 [(0, 1, 2), (2, 2, 5)]) ∧ (with1 c).runnable 3 1 (Cmd.isSub 0x106 2) = some c ∧ c.done = [] ∧ c.withheld = [] ∧
    ((with1 c).hq (c.fld 2 2)).takers = [] ∧ ((with1 c).hq (c.fld 2 2)).givers = [] := ⟨_, rfl, by decide +kernel⟩
theorem wit_hqStatus : ∃ c : Cmd, c = started 0x106 (body 64 [(0, 1, 3), (2, 2, 5), (16, 8, 0x1000)]) ∧ (with1 c).runnable 3 1 (Cmd.isSub 0x106 3) = some c ∧ c.done = [] ∧ c.withheld = [] ∧
    (commitWrites (with1 c) c ⟨[(0x1000, natBytes 32 0)], 0⟩).toOption.isSome = true := ⟨_, rfl, by decide +kernel⟩

theorem wit_stream_new : ∃ s : State, s = with1 (streamCmd [ins 0]) ∧ s.runnable 3 1 (Cmd.isOp 0x105) = some (streamCmd [ins 0]) ∧
    stRegion (streamCmd [ins 0]) = 255 ∧ (s.region 0).state = .inService ∧ s.threadsIn 0 < 64 ∧ s.thread? 3 1 = none ∧
    (s.readBytes (stSave (streamCmd [ins 0])) 256).toOption = some (natBytes 256 0) ∧ fieldAt (natBytes 256 0) 0 8 % 2 ^ 48 ≠ 1 := ⟨_, rfl, by decide +kernel⟩
theorem wit_stream_saved : ∃ t : Thread, t = { thread1 with saved := true } ∧ (streamAt [ins 0] t).runnable 3 1 (Cmd.isOp 0x105) = some (streamCmd [ins 0]) ∧
    (streamAt [ins 0] t).threadsIn 0 < 64 ∧ (streamAt [ins 0] t).thread? 3 1 = some t ∧ t.saved = true ∧ t.stored = false ∧
    ((streamAt [ins 0] t).region 0).state = .inService := ⟨_, rfl, by decide +kernel⟩
theorem wit_stream_stored : ∃ t : Thread, t = { thread1 with saved := true, stored := true } ∧
    (streamAt [ins 0] t (put 0x2000 [1])).runnable 3 1 (Cmd.isOp 0x105) = some (streamCmd [ins 0]) ∧ (streamAt [ins 0] t (put 0x2000 [1])).thread? 3 1 = some t ∧
    ((streamAt [ins 0] t (put 0x2000 [1])).readBytes 0x2000 256).toOption.map (fun b => fieldAt b 0 8 % 2 ^ 48) = some 1 := ⟨_, rfl, by decide +kernel⟩

/-- RUN of a SIGNAL's like: a COPY of 8 bytes, its body of 256 bytes at P0 = 0x100. -/
def runProg : List Bytes := [ins 0x0D 0 0 0 0 0x101 0xFFFF, ins 0]
theorem wit_halt : standsAt 0x00 (streamAt [ins 0] thread1) [ins 0] thread1 = true ∧ thread1.moves = [] ∧ thread1.running = none ∧
    (commitWrites (streamAt [ins 0] thread1) (streamCmd [ins 0]) ⟨[(0x3000, natBytes 32 1)], 0⟩).toOption.isSome = true := by decide +kernel
/-! ### Movement, matrix and vector rows -/

/-- A tensor descriptor (R48): base, format, sizes, strides; the tier follows the base. -/
def tens (base fmt : Nat) (sizes strides : List Nat) (flags : Nat := 0) (scales : Nat := 0) : Bytes :=
  natBytes 8 base ++ natBytes 1 fmt ++ natBytes 1 sizes.length ++
  natBytes 2 (flags + 2 * (if base < umberBase then 0 else if base < slateBase then 1 else 2)) ++ natBytes 4 scales ++
  (sizes ++ List.replicate (6 - sizes.length) 1).flatMap (natBytes 4) ++ (strides ++ List.replicate (6 - strides.length) 0).flatMap (natBytes 4)

/-- COPY of four BF16 elements. -/
def copyBody : Bytes := tens 0x10000 3 [4] [1] ++ tens 0x20000 3 [4] [1] ++ natBytes 128 0
/-- GATHER and SCATTER of rows 1 and 0 of a 2 × 2 tensor. -/
def gatherBody : Bytes := tens 0x10000 3 [2, 2] [1, 2] ++ tens 0x20000 3 [2, 2] [1, 2] ++ tens 0x30000 10 [2] [1] ++ natBytes 64 0

theorem wit_copy : runs moveOp (Cmd.isOp 0x101) (with1 (started 0x101 copyBody) (put 0x10000 (natBytes 8 0x3F80))) = true := by decide +kernel
theorem wit_gather : runs moveOp (Cmd.isOp 0x103) (with1 (started 0x103 gatherBody) (put 0x30000 [1])) = true := by decide +kernel
theorem wit_scatter : runs moveOp (Cmd.isOp 0x104) (with1 (started 0x104 gatherBody) (put 0x30000 [1])) = true := by decide +kernel

/-- A verbatim COPY to Slate of 17 blocks of a compressed tensor: two pieces. -/
def longCopy : Cmd := started 0x101 (tens 0x10000 3 [34816] [0] 8 69632 ++ tens (slateBase + 2 ^ 32) 3 [34816] [0] 8 69632 ++ body 128 [(72, 2, 1)])
def longState : State := { with1 longCopy with copy := [(0, { state := .inService })] }
theorem wit_piece : longState.runnable 3 1 (fun c => (pieceOp c).isSome) = some longCopy ∧ moverFits longState longCopy moveOp (.engine 0) = true ∧
    commitsOne moveOp longState longCopy = true := by decide +kernel
/-- A SCATTER within Ivory of one row of two chunks whose index is −1, by the mover of region 0. -/
def inIvory : Cmd := started 0x104 (tens 0x1000000 3 [1048576, 1] [1, 1048576] ++ tens 0x400000 3 [1048576, 1] [1, 1048576] ++ tens 0x30000 10 [1] [1] ++ natBytes 64 0)
def ivoryState : State := with1 inIvory (put 0x30000 [255, 255, 255, 255])
theorem wit_piece_region : ivoryState.runnable 3 1 (fun c => (pieceOp c).isSome) = some inIvory ∧ moverFits ivoryState inIvory moveOp (.region 0) = true ∧
    (match ivoryState.joinRegion inIvory 0 with | some (v, e) => commitsOne moveOp v e | none => false) = true := by decide +kernel
theorem wit_run : ∃ (s : State) (c : Cmd) (b : Bytes) (d : Cmd) (r : Reg),
    c = streamCmd runProg ∧ b = copyBody ∧ d = runCmd c 0x101 0x100 b ∧ s = streamAt runProg thread1 (put 0x100 b) ∧
    standsAt 0x0D s runProg thread1 = true ∧ thread1.running = none ∧ bodyLength s (some 256) (thread1.p 0) = 256 ∧ (runReg [] 0x101 (runCmd c 0x101 0x100 [])).map (·.len) = some (some 256) ∧ thread1.p 0 % 64 = 0 ∧
    (s.dynRead 3 0x100 256).toOption = some b ∧ patchField (patchField b 255 0x200) 255 0x100 = b ∧
    runReg [] 0x101 d = some r ∧ r.op = moveOp ∧ r.start = Reg.start { op := moveOp, len := some 256 } ∧
    moveOp.startStatus s { d with phase := .accepted } [(d.bodyAddr, d.body.length)] = none ∧ d.isRing = false ∧
    ((moveOp.outcome s d).map (fun x => runGoesOn x.2.status)) = some true :=
  ⟨_, _, _, _, _, rfl, rfl, rfl, rfl, by decide +kernel, by decide +kernel, by decide +kernel, by decide +kernel, by decide +kernel, by decide +kernel, by decide +kernel, rfl, rfl, rfl,
    by decide +kernel, by decide +kernel, by decide +kernel⟩

theorem wit_copyInline : ∃ c : Cmd, c = started 0x102 [] ([1, 2, 3] ++ natBytes 29 0 ++ [3]) 0x1005 ∧ (with1 c).runnable 3 1 (Cmd.isOp 0x102) = some c ∧
    c.done = [] ∧ c.withheld = [] ∧ fieldAt c.desc 8 8 = 0x1005 ∧ fieldAt c.desc 48 1 = 3 ∧ c.desc.length = 64 ∧ 0x1005 % 64 + 3 ≤ 64 ∧ (with1 c).refusal 0x1005 3 true = none ∧
    (with1 c).mem.wf = true := ⟨_, rfl, by decide +kernel⟩
theorem wit_copyInline_refused : (with1 (started 0x102 [] ([1] ++ natBytes 31 0 ++ [1]) (2 ^ 46))).refusal (2 ^ 46) 1 true = some (.met .unmapped (2 ^ 46)) := by
  decide +kernel

/-- TRACK by its OP of range 2: upper 0x1000000, home in Slate, one block, bitmap at 0x8000, report at 0x9000. -/
def trackCmd (op : Nat) (flags : Nat := 0) : Cmd :=
  started 0x110 (body 64 [(0, 1, op), (2, 2, 2), (8, 8, 0x1000000), (16, 8, slateBase + 2 ^ 32), (24, 8, 32768), (32, 8, 0x8000), (40, 2, flags), (48, 8, 0x9000)])
/-- The range open. -/
def tracked (op : Nat) : State := { with1 (trackCmd op) with tracks := [(2, trkNew (trackCmd 1))] }

theorem wit_trackOpen : ((with1 (trackCmd 1)).runnable 3 1 (Cmd.isSub 0x110 1) = some (trackCmd 1)) ∧ (∀ k ∈ [1, 2, 3, 4, 5], (trackCmd k).done = [] ∧ (trackCmd k).withheld = []) ∧
    (match commitWrites (with1 (trackCmd 1)) (trackCmd 1) ⟨[(0x8000, trkBits (trackCmd 1))], 0⟩ with
     | .ok (t, d) => (trkFinish (t.putTrack 2 (trkNew (trackCmd 1))) { d with done := [0], units := d.units + 1 }).toOption.isSome
     | _ => false) = true := by decide +kernel
theorem wit_trackClose : (tracked 3).runnable 3 1 (Cmd.isSub 0x110 3) = some (trackCmd 3) ∧
    (trkFinish ((tracked 3).putTrack 2 {}) { trackCmd 3 with committed := true, wroteLocal := true, done := [0], units := 1 }).toOption.isSome = true ∧
    (tracked 4).runnable 3 1 (Cmd.isSub 0x110 4) = some (trackCmd 4) ∧ (trkFinish (tracked 4) { trackCmd 4 with done := [0], units := 1 }).toOption.isSome = true := by
  decide +kernel
theorem wit_trackClean : (tracked 5).runnable 3 1 (Cmd.isSub 0x110 5) = some (trackCmd 5) ∧
    (match commitWrites (tracked 5) (trackCmd 5) ⟨[(((tracked 5).track 2).bitmap, natBytes ((tracked 5).track 2).bitmapLen 0)], 0⟩ with
     | .ok (t, d) => (trkFinish t { d with done := [0], units := d.units + 1 }).toOption.isSome
     | _ => false) = true := by decide +kernel
theorem wit_writeback : (tracked 2).runnable 3 1 (Cmd.isSub 0x110 2) = some (trackCmd 2) ∧ ((tracked 2).track 2).isOpen = true ∧
    (writebackOp.outcome (tracked 2) (trackCmd 2)).isSome = true := by decide +kernel

/-- A 1 × 1 × 1 product of BF16 into FP32, and of FP64. -/
def gemmBody : Bytes := tens 0x10000 3 [1, 1] [1, 1] ++ tens 0x20000 3 [1, 1] [1, 1] ++ tens 0x30000 2 [1, 1] [1, 1] ++ natBytes 64 0 ++ body 64 [(16, 8, 0x40000)]
def thinBody : Bytes := tens 0x10000 3 [1, 1] [1, 1] ++ tens umberBase 3 [1, 1] [1, 1] ++ tens 0x30000 2 [1, 1] [1, 1] ++ natBytes 64 0 ++ body 64 [(16, 8, 0x40000)]
def gemm64Body : Bytes := tens 0x10000 1 [1, 1] [1, 1] ++ tens 0x20000 1 [1, 1] [1, 1] ++ tens 0x30000 1 [1, 1] [1, 1] ++ body 64 [(0, 8, 0x40000), (8, 8, 0x50000)]

theorem wit_gemm : runs matrixOp (Cmd.isOp 0x201) (with1 (started 0x201 gemmBody)) = true ∧ (started 0x201 gemmBody).mat.isSome = true := by decide +kernel
theorem wit_thinGemm : runs matrixOp (Cmd.isOp 0x203) (with1 (started 0x203 thinBody)) = true ∧ (started 0x203 thinBody).mat.isSome = true := by decide +kernel
theorem wit_gemmF64x : runs matrixOp (Cmd.isOp 0x202) (with1 (started 0x202 gemm64Body)) = true ∧ (started 0x202 gemm64Body).mat.isSome = true := by decide +kernel
/-- A vector body: inputs, outputs, program, header fields (R133). -/
def vecBody (ins outs : List Bytes) (prog : List Nat) (hdr : List (Nat × Nat × Nat) := []) : Bytes :=
  body 384 ([(36, 1, ins.length), (37, 1, outs.length), (38, 1, prog.length), (39, 1, 2), (52, 4, 65536)] ++ hdr ++
    (prog.zipIdx.map (fun x => (128 + 8 * x.2, 8, x.1)))) ++ ins.flatten ++ outs.flatten
/-- A vector of FP32 elements. -/
def v32 (a n : Nat) : Bytes := tens a 2 [n] [1]
/-- ELEMENTWISE that adds register 0 to itself and stores it. -/
def vecCmd (op : Nat) : Cmd :=
  started op (match op with
    | 0x301 => vecBody [v32 0x10000 2] [v32 0x20000 2] [0x01 * 2 ^ 56, 0x12 * 2 ^ 56 + 16 * 2 ^ 48]
    | 0x302 => vecBody [v32 0x10000 2] [v32 0x20000 1] [] [(42, 1, 0), (43, 1, 1)]
    | 0x303 => vecBody [tens 0x10000 2 [2, 1] [1, 2]] [tens 0x20000 2 [2, 1] [1, 2]] []
    | 0x306 => vecBody [tens 0x10000 2 [2, 1] [1, 2], tens 0x11000 2 [2, 1] [1, 2]] [tens 0x20000 2 [2, 1] [1, 2]] []
    | 0x304 => vecBody [v32 0x10000 2, tens 0x11000 11 [2] [1]] [v32 0x20000 2, tens 0x21000 10 [2] [1]] []
    | _ => vecBody [v32 0x10000 2, tens 0x11000 11 [2] [1]] [v32 0x20000 2] [])
def vecRuns (op : Nat) : Bool := runs vectorOp (Cmd.isOp op) (with1 (vecCmd op) (put 0x10000 [0, 0, 0x80, 0x3F]))
theorem wit_elementwise : vecRuns 0x301 = true := by decide +kernel
theorem wit_reduce : vecRuns 0x302 = true := by decide +kernel
theorem wit_softmax : vecRuns 0x303 = true := by decide +kernel
theorem wit_compact : vecRuns 0x304 = true := by decide +kernel
theorem wit_expand : vecRuns 0x305 = true := by decide +kernel
theorem wit_softmaxBwd : vecRuns 0x306 = true := by decide +kernel
/-! ### KV pools and attention -/

/-- Pool 1 of queue 3: BF16, head dimension 64, four pages, page 0 linked. -/
def pool1 : Pool :=
  { live := true, format := 3, headDim := 64, base := 0x100000, capacity := 4, active := 4, owner := 3, stateAddr := 0x180000, gen := 0, linked := [(0, true)] }
/-- A sequence of one layer and one group with `n` tokens in page 0, and a list that names it. -/
def kvCells (n : Nat) (entry : Bytes) : Tab Byte :=
  put 0x8000 (natBytes 4 1 ++ natBytes 2 1 ++ natBytes 1 1 ++ natBytes 1 0 ++ natBytes 4 1 ++ natBytes 52 0 ++ natBytes 8 n ++ natBytes 8 (mkEntry 1 0)) ++
  put 0x9000 (natBytes 8 0x8000 ++ entry)
/-- The module with pool 1 and a command. -/
def withPool (c : Cmd) (cells : Tab Byte := []) : State := { with1 c cells with pools := [(1, pool1)] }

/-- KV_POOL by its OP. -/
def poolCmd (op extra : Nat) : Cmd :=
  started 0x406 (body 64 [(0, 1, op), (1, 1, 1), (2, 1, 3), (4, 2, 64), (8, 8, 0x100000), (16, 4, 4), (20, 4, extra), (24, 4, 3), (32, 8, 0x180000), (40, 8, 0x6000)])
theorem wit_poolInit : (with1 (poolCmd 1 4)).runnable 3 1 (Cmd.isSub 0x406 1) = some (poolCmd 1 4) ∧ (poolCmd 1 4).done = [] ∧ nth 0 (poolCmd 1 4).counts 0 = 0 ∧
    (poolCmd 1 4).withheld = [] ∧ kpCheck (with1 (poolCmd 1 4)) (poolCmd 1 4) = none ∧
    kvTurn (with1 (poolCmd 1 4)) (poolCmd 1 4) = true := by decide +kernel
theorem wit_poolGrow : ∃ s : State, s = { withPool (poolCmd 2 2) with pools := [(1, { pool1 with active := 2 })] } ∧
    s.runnable 3 1 (Cmd.isSub 0x406 2) = some (poolCmd 2 2) ∧ (s.pool 1).live = true ∧ kpCheck s (poolCmd 2 2) = none ∧ kvTurn s (poolCmd 2 2) = true ∧
    (s.pool 1).active + (poolCmd 2 2).fld 20 4 ≤ (s.pool 1).capacity :=
  ⟨_, rfl, by decide +kernel⟩
theorem wit_poolGrow_limit : (withPool (poolCmd 2 2)).runnable 3 1 (Cmd.isSub 0x406 2) = some (poolCmd 2 2) ∧ kpCheck (withPool (poolCmd 2 2)) (poolCmd 2 2) = none ∧
    kvTurn (withPool (poolCmd 2 2)) (poolCmd 2 2) = true ∧ pool1.capacity < pool1.active + (poolCmd 2 2).fld 20 4 := by
  decide +kernel
theorem wit_poolStatus : kpCheck (withPool (poolCmd 3 0)) { poolCmd 3 0 with latches := [(1, 0)] } = none ∧ kvTurn (withPool (poolCmd 3 0)) { poolCmd 3 0 with latches := [(1, 0)] } = true ∧
    (withPool (poolCmd 3 0)).oldestLatch 1 = none ∧ (withPool { poolCmd 3 0 with latches := [(1, 0)] }).runnable 3 1 (Cmd.isSub 0x406 3) = some { poolCmd 3 0 with latches := [(1, 0)] } ∧
    (withPool { poolCmd 3 0 with latches := [(1, 0)] }).oldestLatch 1 = some 0 ∧
    (commitWrites (withPool { poolCmd 3 0 with latches := [(1, 0)] }) { poolCmd 3 0 with latches := [(1, 0)] } ⟨[(0x6000, natBytes 32 3)], 0⟩).toOption.isSome = true := by
  decide +kernel
theorem wit_poolRetire : ∃ s : State, s = { withPool (poolCmd 4 0) with pools := [(1, { pool1 with linked := [] })] } ∧
    s.runnable 3 1 (Cmd.isSub 0x406 4) = some (poolCmd 4 0) ∧ kpCheck s (poolCmd 4 0) = none ∧ kvTurn s (poolCmd 4 0) = true ∧ (s.pool 1).linked = [] ∧ (s.pool 1).deferred = [] ∧
    (withPool (poolCmd 4 0)).runnable 3 1 (Cmd.isSub 0x406 4) = some (poolCmd 4 0) ∧ ((withPool (poolCmd 4 0)).pool 1).linked ≠ [] := ⟨_, rfl, by decide +kernel⟩

/-- KV_APPEND of a second token, BUCKET_SORT of the list, KV_TRUNCATE to no token. -/
def appendCmd : Cmd := started 0x403 (tens 0x20000 3 [64, 1, 2, 1] [1, 64, 64, 128] ++ body 64 [(0, 8, 0x9000), (8, 4, 1), (24, 8, 0xA000)])
theorem wit_append : runs kvAppendOp (Cmd.isOp 0x403) (withPool appendCmd (kvCells 1 (natBytes 4 0 ++ natBytes 4 1 ++ natBytes 4 1))) = true := by decide +kernel
def sortCmd : Cmd := started 0x404 (body 64 [(0, 8, 0x9000), (8, 8, 0xA000), (16, 8, 0xB000), (24, 4, 1)])
theorem wit_sort : runs bucketSortOp (Cmd.isOp 0x404) (withPool sortCmd (kvCells 1 [])) = true := by decide +kernel
def truncCmd : Cmd := started 0x405 (body 64 [(0, 8, 0x8000), (10, 2, 1)])
theorem wit_truncate : runs kvTruncateOp (Cmd.isOp 0x405) (withPool truncCmd (kvCells 1 [])) = true := by decide +kernel

/-- ATTN_FWD and ATTN_BWD of one row of one head. -/
def q64 (a : Nat) (fmt : Nat := 3) : Bytes := tens a fmt [64, 1, 1] [1, 64, 64]
def fwdCmd : Cmd :=
  { started 0x401 (q64 0x10000 ++ q64 0x11000 ++ natBytes 64 0 ++ body 128 [(12, 4, 0x3F800000), (16, 8, 0x9000), (24, 4, 1), (38, 2, 1), (40, 2, 1)]) with
    latches := [(1, 0)] }
def bwdCmd : Cmd :=
  { started 0x402 (q64 0x10000 ++ q64 0x11000 ++ q64 0x12000 ++ tens 0x13000 2 [1, 1] [1, 1] ++ q64 0x14000 2 ++ q64 0x15000 2 ++ q64 0x16000 2 ++
      body 64 [(16, 4, 0x3F800000), (20, 4, 1), (24, 8, 0x9000), (32, 8, 0x17000), (50, 2, 1), (52, 2, 1)]) with
    latches := [(1, 0)] }
theorem wit_attnFwd : runs (attnOp []) (fun c => c.isOp 0x401 && ringMayRun c) (withPool fwdCmd (kvCells 0 (natBytes 4 0 ++ natBytes 4 1))) = true := by decide +kernel
theorem wit_attnBwd : runs (attnOp []) (Cmd.isOp 0x402) (withPool bwdCmd (kvCells 1 (natBytes 4 0 ++ natBytes 4 1))) = true := by decide +kernel
/-! ### Stack, optimiser, compression -/

/-- The start's effect, then the row to its end. -/
def startsRuns (op : Op) (start : State → Cmd → Start) (sel : Cmd → Bool) (s : State) : Bool :=
  match s.runnable 3 1 sel with
  | some c =>
    (match start s c with
     | .go t d => (op.startStatus s c [(c.bodyAddr, c.body.length)]).isNone && (t.putCmd d).runnable 3 1 sel == some d && (op.outcome (t.putCmd d) d).isSome
     | _ => false)
  | none => false

/-- A stack at 0x100000 of queue 3 with one mark (id 9) and, above it, one complete entry (tag 8) of two FP32 elements. -/
def mark9 : SEntry := ⟨0, 64, 0, 0, 9, 2, 0, 4, 0, 0, [0, 0, 0, 0, 0, 0]⟩
def entry8 : SEntry := ⟨64, 128, 0, 0, 8, 1, 2, 4, 0, 64, [2, 1, 1, 1, 1, 1]⟩
def head1 (top entries marks : Nat) : SHead := ⟨0x100000, 65536, top, top, entries, marks, 3, 1, 0, 0, 0, 0⟩
def stackCells : Tab Byte := put 0x100000 (head1 192 1 1).bytes ++ put 0x101000 mark9.bytes ++ put 0x101040 entry8.bytes
def markCells : Tab Byte := put 0x100000 (head1 64 0 1).bytes ++ put 0x101000 mark9.bytes
/-- The commands. -/
def openCmd : Cmd := started 0x502 (body 64 [(0, 1, 1), (4, 4, 3), (8, 8, 0x100000), (16, 8, 65536)])
def closeCmd : Cmd := started 0x502 (body 64 [(0, 1, 2), (8, 8, 0x100000)])
def markCmd (op : Nat) : Cmd := started 0x501 (body 64 [(0, 1, op), (4, 4, 9), (8, 8, 0x100000)])
def pushCmd : Cmd := started 0x503 (tens 0x20000 2 [2] [1] ++ body 64 [(0, 1, 1), (1, 1, 2), (4, 4, 8), (8, 8, 0x100000)])
def popCmd : Cmd := started 0x504 (tens 0x20000 2 [2] [1] ++ body 64 [(0, 1, 4), (1, 1, 2), (4, 4, 8), (8, 8, 0x100000)])

theorem wit_stackOpen : (with1 openCmd).runnable 3 1 (Cmd.isSub 0x502 1) = some openCmd ∧ openCmd.done = [] ∧ openCmd.withheld = [] ∧ openCmd.fld 8 8 = 0x100000 ∧
    (with1 openCmd).refusal 0x100000 4096 true = none ∧ (with1 openCmd).mem.wf = true ∧ stackOpenOp.startStatus (with1 openCmd) openCmd [] = none := by
  decide +kernel
theorem wit_stackClose : (with1 closeCmd stackCells).runnable 3 1 (Cmd.isSub 0x502 2) = some closeCmd ∧ closeCmd.done = [] ∧ closeCmd.withheld = [] ∧
    (with1 closeCmd stackCells).stackHeld 0x100000 0 closeCmd = false ∧ ((with1 closeCmd stackCells).readBytes 0x100000 64).toOption = some (head1 192 1 1).bytes ∧
    (with1 closeCmd stackCells).refusal 0x100000 64 true = none ∧ (with1 closeCmd stackCells).mem.wf = true := by decide +kernel
theorem wit_markPlace : startsRuns stackMarkOp markStart (Cmd.isSub 0x501 1) (with1 (markCmd 1) stackCells) = true ∧ (markCmd 1).done = [] ∧ (markCmd 1).withheld = [] ∧
    ((with1 (markCmd 1) stackCells).stackWith 0x100000).toOption = some (head1 192 1 1, [mark9, entry8]) := by decide +kernel
theorem wit_markPop : startsRuns stackMarkOp markStart (Cmd.isSub 0x501 2) (with1 (markCmd 2) markCells) = true ∧
    ((with1 (markCmd 2) markCells).stackWith 0x100000).toOption = some (head1 64 0 1, [mark9]) := by decide +kernel
theorem wit_markCut : runs stackMarkOp (Cmd.isSub 0x501 3) (with1 (markCmd 3) stackCells) = true ∧ cutMark [mark9, entry8] ((markCmd 3).fld 4 4) = some mark9 ∧
    ((with1 (markCmd 3) stackCells).stackWith 0x100000).toOption = some (head1 192 1 1, [mark9, entry8]) ∧
    (with1 (markCmd 3) stackCells).stackHeld 0x100000 mark9.off (markCmd 3) = false ∧ (with1 (markCmd 3) stackCells).refusal 0x100000 64 true = none := by decide +kernel
theorem wit_markCutAll : runs stackMarkOp (Cmd.isSub 0x501 4) (with1 (markCmd 4) stackCells) = true ∧
    (with1 (markCmd 4) stackCells).stackHeld 0x100000 0 (markCmd 4) = false ∧ (with1 (markCmd 4) stackCells).refusal 0x100000 64 true = none := by decide +kernel
theorem wit_push : startsRuns stackPushOp pushStart (Cmd.isOp 0x503) (with1 pushCmd stackCells) = true := by decide +kernel
theorem wit_pop : startsRuns stackPopOp popStart (Cmd.isOp 0x504) (with1 popCmd stackCells) = true := by decide +kernel

/-- A shard record at 0x8000: version 5, a role, rule SGD, a BF16 working copy, two elements; every plane in Ivory. -/
def shardRec (role rule : Nat) (slot : Nat := 0x11000) : Bytes :=
  body 256 [(0, 8, 5), (36, 1, role), (37, 1, rule), (38, 1, 3), (40, 4, 2), (44, 4, 1), (48, 8, 0x10000), (56, 8, slot), (72, 8, 0x13000), (88, 8, 0x200000)]
def shardCmd (op : Nat) : Cmd :=
  started 0x507 (body 128 [(0, 1, op), (8, 8, 0x8000), (16, 8, 5), (24, 8, 0x8000), (32, 8, 0x14000), (40, 8, 0x15000)])
def shardState (op role : Nat) : State := with1 (shardCmd op) (put 0x8000 (shardRec role 1))

theorem wit_gradQuant : runs gradQuantOp (Cmd.isOp 0x505)
    (with1 (started 0x505 (tens 0x10000 2 [2] [1] ++ tens 0x11000 3 [2] [1] ++ tens 0x12000 8 [2] [1] 0 32 ++ body 64 []))) = true := by decide +kernel
/-- OPT_UPDATE of a shard that it has taken, with its units committed: PHASE is FINAL. -/
theorem wit_optUpdate : runs optUpdateOp (Cmd.isOp 0x506)
    (with1 (started 0x506 (tens 0x20000 8 [2, 1] [1, 32] 0 32 ++ body 64 [(0, 1, 1)] ++ body 64 [(0, 8, 0x8000), (8, 8, 5)]))
      [(0x8000, 5), (0x8018, 1), (0x8020, 3), (0x8024, 1), (0x8025, 1), (0x8026, 3), (0x8028, 2), (0x802C, 1), (0x8032, 1), (0x8039, 0x10), (0x803A, 1), (0x8049, 0x30),
       (0x804A, 1), (0x805A, 0x20), (0x8064, 4)]) = true := by
  decide +kernel
theorem wit_shardInit : runs shardInitOp (Cmd.isSub 0x507 1) (shardState 1 1) = true := by decide +kernel
theorem wit_shardCheck : runs shardCheckOp (Cmd.isSub 0x507 2) (shardState 2 1) = true := by decide +kernel
theorem wit_shardFetch : runs (shardFetchOp (.served 5 [1, 2, 3, 4] [])) (Cmd.isSub 0x507 3) (shardState 3 3) = true := by decide +kernel
theorem wit_shardExport : runs shardExportOp (Cmd.isSub 0x507 4) (shardState 4 1) = true := by decide +kernel
theorem wit_shardStatus : runs shardStatusOp (Cmd.isSub 0x507 5) (shardState 5 1) = true := by decide +kernel

/-- A table that codes exponent 127. -/
def tableCells : Tab Byte := put 0x6000 (buildTable [(127, 1)] 0) ++ put 0x7000 (buildTable [(0, 1)] 0)
theorem wit_build : runs buildOp (Cmd.isOp 0x701) (with1 (started 0x701 (tens 0x10000 3 [2] [1] ++ natBytes 64 0 ++ body 64 [(0, 8, 0x6000)]))) = true := by decide +kernel
/-- The encoders with their one chunk committed and a report to write. -/
theorem wit_encode : runs encodeOp (Cmd.isOp 0x702)
    (with1 { started 0x702 (tens 0x10000 3 [2] [1] ++ tens 0x20000 3 [2] [0] 8 4096 ++ body 64 [(0, 8, 0x6000), (8, 2, 1), (16, 8, 0x40000)]) with done := [0] } tableCells) = true := by
  decide +kernel
theorem wit_tint : runs encodeOp (Cmd.isOp 0x703)
    (with1 { started 0x703 (tens 0x10000 3 [2] [1] ++ tens 0x30000 3 [2] [1] ++ tens 0x20000 3 [2] [0] 16 4096 ++
      body 64 [(0, 8, 0x7000), (8, 8, 0x6000), (16, 2, 1), (24, 8, 0x40000)]) with done := [0] } tableCells) = true := by
  decide +kernel
/-! ### Synchronisation, and the boundaries of engines and towers -/

theorem wit_signal : ∃ c : Cmd, c = started 0x802 [] (natBytes 8 0x1000 ++ natBytes 8 9) ∧ (with1 c).runnable 3 1 (Cmd.isOp 0x802) = some c ∧
    c.done = [] ∧ c.withheld = [] ∧ (with1 c).mem.wf = true ∧ fieldAt c.desc 16 8 = 0x1000 ∧ ((with1 c).readBytes 0x1000 8).toOption = some (natBytes 8 0) ∧ (with1 c).refusal 0x1000 8 true = none := ⟨_, rfl, by decide +kernel⟩
theorem wit_fence : ∃ c : Cmd, c = started 0x801 [] [7] ∧ (with1 c).runnable 3 1 (Cmd.isOp 0x801) = some c ∧ c.done = [] ∧ c.withheld = [] ∧ (fieldAt c.desc 16 1).testBit 0 = true ∧
    (fieldAt c.desc 16 1).testBit 2 = true ∧ (with1 c).per.requests = [] ∧ (with1 c).lnk.unacked = [] := ⟨_, rfl, by decide +kernel⟩
theorem wit_wait : ∃ (c d : Cmd), c = started 0x803 [] (natBytes 8 0x1000 ++ natBytes 8 0) ∧ d = started 0x803 [] (natBytes 8 0x1000 ++ natBytes 8 1 ++ natBytes 4 5) ∧
    (with1 c).runnable 3 1 (Cmd.isOp 0x803) = some c ∧ ((with1 c).readBytes 0x1000 8).toOption = some (natBytes 8 0) ∧ fieldAt c.desc 24 8 ≤ 0 ∧ c.done = [] ∧ c.withheld = [] ∧ d.done = [] ∧ d.withheld = [] ∧
    (with1 d).runnable 3 1 (Cmd.isOp 0x803) = some d ∧ 0 < fieldAt d.desc 24 8 ∧ fieldAt d.desc 32 4 ≠ 0 := ⟨_, _, rfl, rfl, by decide +kernel⟩

/-- A 1 × 1 × 1 product of FP32 operands: three passes. Its tile stands in array 0 of region 0. -/
def splitCmd : Cmd := started 0x201 (tens 0x10000 2 [1, 1] [1, 1] ++ tens 0x20000 2 [1, 1] [1, 1] ++ tens 0x30000 2 [1, 1] [1, 1] ++ natBytes 64 0 ++ body 64 [(16, 8, 0x40000)])
def run1 : ArrayRun := { q := 3, n := 1, unit := 0, tile := 0, scale := 0, accs := [{}] }
/-- The operands: 1, or values whose product leaves FP32. -/
def arrayState (a : Nat) (u : ArrayUnit := {}) : State :=
  let s := with1 splitCmd (put 0x10000 (natBytes 4 a) ++ put 0x20000 (natBytes 4 a))
  s.putRegion 0 ((s.region 0).putArray 0 { u with run := some run1, active := true })
def arrayHyps (a : Nat) (u : ArrayUnit := {}) : Bool :=
  let s := arrayState a u
  let u := (s.region 0).array 0
  s.runnable 3 1 (onArrays s) == some splitCmd && arrayServes (s.region 0) 0 && !(s.page (pgArray 0 0)).injectNext &&
  (match splitCmd.mat with
   | some g => (withMeasure s splitCmd g).toOption == some splitCmd && g.repeats && decide (run1.pass + 1 < g.passes 0) &&
       decide (g.tileGroups run1.tile ≤ run1.cols + u.groups)
   | none => false) &&
  splitCmd.keepTables s (matTables s splitCmd) == splitCmd && liveRun (s.putCmd splitCmd) u == some run1 && !s.gov.holding && !arrayPaused s.gov.throttle u.slot
def passOver (a p : Nat) : Option Bool :=
  splitCmd.mat.bind (fun g => (passTile (arrayState a) splitCmd g 0 0 0 p [{}]).toOption.map (fun l => l.any (·.isOver)))
theorem wit_array : arrayHyps 0x3F800000 = true ∧ passOver 0x3F800000 0 = some false ∧ run1.inPlace = false := by decide +kernel
theorem wit_array_over : arrayHyps 0x7F000000 = true ∧ passOver 0x7F000000 2 = some true ∧ run1.attempt < 4 := by decide +kernel
/-- The column that failed before, and another. -/
theorem wit_array_residue : arrayHyps 0x3F800000 { suspect := some 2 } = true ∧ some 2 ≠ some (1 : Fin 4).val ∧ some (2 : Fin 4).val = some 2 := by decide +kernel
/-- A level pauses a late slot. -/
theorem wit_array_paused : arrayHyps 0x3F800000 { slot := 15 } = true ∧ arrayPaused 1 15 = true ∧ arrayPaused 0 15 = false := by decide +kernel
/-- Four column groups on an array with one column fenced: the pass takes two slots (R92). -/
def wideCmd : Cmd := started 0x201 (tens 0x10000 3 [1, 1] [1, 1] ++ tens 0x20000 3 [128, 1] [1, 128] ++ tens 0x30000 2 [128, 1] [1, 128] ++ natBytes 64 0 ++ body 64 [(16, 8, 0x40000)])
theorem wit_array_slots : (wideCmd.mat.map (fun g => decide (0 + ({ colFenced := [(2, true)] } : ArrayUnit).groups < g.tileGroups 0))) = some true := by decide +kernel
theorem wit_arrayIdle : run0.alive = true ∧ (arrayState 0).gov.throttle = 0 ∧ ((run0.region 0).array 0).run = none := by decide +kernel

/-- A pool in Umber of head dimension 1, and a sequence of `n` tokens over three pages. -/
def thinPool : Pool := { pool1 with headDim := 1, base := umberBase }
def longSeq (n : Nat) (entry : Bytes) : Tab Byte :=
  put 0x8000 (natBytes 4 1 ++ natBytes 2 1 ++ natBytes 1 1 ++ natBytes 1 0 ++ natBytes 4 3 ++ natBytes 52 0 ++ natBytes 8 n ++ natBytes 8 (mkEntry 1 0) ++
    natBytes 8 (mkEntry 1 1) ++ natBytes 8 (mkEntry 1 2)) ++ put 0x9000 (natBytes 8 0x8000 ++ entry)
/-- KV_APPEND of two tokens over a page's end. -/
def append2 : Cmd := started 0x403 (tens 0x20000 3 [1, 1, 2, 2] [1, 1, 1, 2] ++ body 64 [(0, 8, 0x9000), (8, 4, 1), (24, 8, 0xA000)])
def append2State : State := { with1 append2 (longSeq 63 (natBytes 4 0 ++ natBytes 4 63 ++ natBytes 4 2)) with pools := [(1, thinPool)] }
/-- What the walker of region 0 starts a boundary from. -/
def walkerHyps (s : State) (c : Cmd) (sel : Cmd → Bool) : Bool :=
  s.runnable 3 1 sel == some c && walkerServes s 0 && !(s.page (pgWalker 0)).injectNext && !unitPaused s.gov.throttle (s.region 0).walkSlot
theorem wit_appendPage : walkerHyps append2State append2 (fun c => [0x401, 0x402, 0x403].contains c.opcode) = true ∧
    (match append2State.joinRegion append2 0 with
     | some (w, b) => commitsOne kvAppendOp ((w.putCmd b).passWalk 0) b
     | none => false) = true := by
  decide +kernel

/-- ATTN_FWD of one query over 129 keys, for the walker or the towers; region 0 walks it. -/
def walkCmd : Cmd :=
  { started 0x401 (tens 0x10000 3 [1, 1, 1] [1, 1, 1] ++ tens 0x11000 3 [1, 1, 1] [1, 1, 1] ++ natBytes 64 0 ++
      body 128 [(12, 4, 0x3F800000), (16, 8, 0x9000), (24, 4, 1), (38, 2, 1), (40, 2, 1), (43, 1, 1), (44, 4, 128)]) with latches := [(1, 0)] }
def walkState : State :=
  let s : State := { with1 walkCmd (longSeq 129 (natBytes 4 0 ++ natBytes 4 1)) with pools := [(1, thinPool)] }
  s.putRegion 0 { s.region 0 with walk := some { q := 3, n := 1, unit := 0 } }
/-- The hypotheses on the block, from a state and the command as they are at the boundary. -/
def blockHyps (s : State) (c : Cmd) (home : Option Nat) : Bool :=
  match c.att with
  | none => false
  | some a => !a.ring && walkOf s 0 c == some { q := 3, n := 1, unit := 0 } && blockHome s 0 c a == home &&
    (match (s.attUnits c a)[0]? with
     | none => false
     | some u =>
        (match attKeys s c a [] u with
         | .ok (c', k) => decide (1 < (a.blocks k u).length) && (a.blocks k u)[0]? == some 0 &&
           (match walkBlock s c' a k u (a.blocks k u) { q := 3, n := 1, unit := 0 } 0 with
            | .ok (_, w') => decide (w'.key < (a.blocks k u).length)
            | _ => false)
         | _ => false))
/-- The same command without the towers. -/
def walkerCmd : Cmd := { walkCmd with body := walkCmd.body.take 235 ++ [0] ++ walkCmd.body.drop 236 }
theorem wit_keyBlock : (let s := { walkState with cmds := [walkerCmd] }
    walkerHyps s walkerCmd (fun c => [0x401, 0x402, 0x403].contains c.opcode) && decide (walkerCmd.opcode ≠ 0x403) &&
    (match s.joinRegion walkerCmd 0 with | some (w, b) => blockHyps ((w.putCmd b).passWalk 0) b none | none => false)) = true := by
  decide +kernel
theorem wit_towerBlock : walkState.runnable 3 1 (onTowers walkState) = some walkCmd ∧ walkRegion walkState walkCmd = 0 ∧ walkerServes walkState 0 = true ∧
    walkState.unitServes 0 = true ∧ hasStep walkState walkCmd 0 = true ∧ (walkState.page (pgTower 0)).injectNext = false ∧
    unitPaused walkState.gov.throttle (walkState.tower 0).slot = false ∧
    (match walkState.joinTower walkCmd 0 with | some (x, b) => walkRegion ((x.putCmd b).passStep 0 5) b == 0 && blockHyps ((x.putCmd b).passStep 0 5) b (some 0) | none => false) = true := by
  decide +kernel

theorem ok_of {α : Type} {x : Except Status α} {v : α} (h : x.toOption = some v) : x = .ok v := by
  cases x with
  | error e => simp [Except.toOption] at h
  | ok w => simp only [Except.toOption, Option.some.injEq] at h; rw [h]

/-- A code table as a command keeps it. -/
def table0 : Bytes := natBytes 320 0

/-- A GEMM whose A is one RAW block of one element. -/
def rawCmd : Cmd :=
  { started 0x201 (tens 0x10000 3 [1] [0] 8 4096 ++ tens 0x20000 3 [1, 1] [1, 1] ++ tens 0x30000 2 [1, 1] [1, 1] ++ natBytes 64 0 ++ body 64 [(16, 8, 0x40000)]) with
    tables := [(0x6000, table0)] }
def rawRecord : Bytes := body 64 [(0, 8, 0x6000), (24, 8, 1), (32, 4, 1), (36, 1, 1)]
def rawHeader : Bytes := body 32 [(0, 4, crc32c [0x80, 0x3F]), (4, 2, 2), (8, 2, 2), (10, 1, 1)]
def rawState : State := with1 rawCmd (put 0x10000 [0x80, 0x3F] ++ put 0x11000 rawRecord ++ put 0x11040 rawHeader)
theorem wit_expander : rawState.runnable 3 1 (fun c => c.opcode == 0x201) = some rawCmd ∧ ((rawState.region 0).expander 0).fenced = false ∧
    (rawState.region 0).state = .inService ∧
    (match expSource rawState rawCmd with
     | some x => decide (0 < x.blocks rawState) && (x.expand (rawState.count (pgExpander 0 0) 0x601 3) 0).toOption.isSome
     | none => false) = true := by decide +kernel

/-- What a tower unit starts a boundary from. -/
def unitHyps (s : State) (c : Cmd) (t : Nat) : Bool :=
  s.runnable 3 1 (fun c => c.opcode == 0x203 || unitWork s c) == some c && s.unitServes t && hasStep s c t && !(s.page (pgTower t)).injectNext &&
  !unitPaused s.gov.throttle (s.tower t).slot
/-- A THIN_GEMM with its column group to do: its last pass is the next, or more are left. -/
def thinHyps (c : Cmd) (pieces : Nat → Nat → Bool) : Bool :=
  let s := with1 c
  unitHyps s c 0 &&
  (match s.joinTower c 0 with
   | some (u, b) =>
     let v := (u.putCmd b).passStep 0 7
     (match b.mat with
      | some g => matrixOp.nextUnit v b == some 0 && !shareDone v b g 0 (some 0) &&
          pieces (b.keptNat (passKey 0 (some 0)) + (v.tower 0).passesPerPiece g) (g.passes (nth 0 b.counts 3))
      | none => false)
   | none => false)
theorem wit_thinUnit : thinHyps (started 0x203 thinBody) (fun p n => decide (n ≤ p)) = true := by decide +kernel
/-- One of FP32 operands with 1,024 rows: three passes, more than one piece. -/
def tallCmd : Cmd := started 0x203 (tens 0x10000 2 [1, 1024] [1, 1] ++ tens umberBase 2 [1, 1] [1, 1] ++ tens 0x30000 2 [1, 1024] [1, 1] ++ natBytes 64 0 ++ body 64 [(16, 8, 0x40000)])
theorem wit_thinSplit : thinHyps tallCmd (fun p n => decide (p < n)) = true := by decide +kernel

/-- A THIN_GEMM of two columns of two towers whose FP16 outputs overflow. -/
def flagCmd : Cmd :=
  { started 0x203 (tens 0x10000 3 [1, 1] [1, 1] ++ tens umberBase 3 [2, 1] [2048, 1] ++ tens 0x30000 4 [2, 1] [1, 2] ++ natBytes 64 0 ++ body 64 [(16, 8, 0x40000)]) with
    kept := [(groupKey 0 (some 0), [1]), (groupKey 0 (some 1), [1])] }
def flagState : State :=
  let s := with1 flagCmd (put 0x10000 (natBytes 2 0x7000))
  { s with mem := { cells := put 0x10000 (natBytes 2 0x7000) ++ (put (towerKey 0 0) (natBytes 2 0x7000)) ++ (put (towerKey 1 0) (natBytes 2 0x7000)) } }
def flagHyps (ready : Bool) (t : Nat) (f : List (Nat × Bool)) : Bool :=
  let c := { flagCmd with flags := f }
  let d := { c with flags := f ++ [(t, true)] }
  match c.mat with
  | none => false
  | some g => !g.limit && matrixOp.nextUnit flagState c == some 0 && !(thinCols flagState g 0 (some t)).isEmpty && !c.flags.any (fun f => f.1 == t) &&
    shareDone flagState c g 0 (some t) && tileReady flagState d g 0 == ready && (thinAttempt flagState d g 0).toOption.isSome &&
    (match thinAttempt flagState c g 0 with
     | .ok xs => (g.repeats && ((g.tilePos 0).zip xs).any (fun x => thinHome flagState g 0 x.1.2 == some t && x.2.isOver)) &&
       (match judge g 0 (g.outScale - 2 * (d.keptNat (attemptKey 0))) (d.keptNat (attemptKey 0)) xs with | .again => true | _ => false)
     | _ => false)
theorem wit_flags : flagState.runnable 3 1 (Cmd.isOp 0x203) = some flagCmd ∧ flagHyps false 0 [] = true ∧ flagHyps true 1 [(0, true)] = true := by decide +kernel

/-- SHARD CHECK of 4,096 zeros whose first working copy is another: two units, of towers 0 and 1. -/
def checkCmd : Cmd := shardCmd 2
def checkState : State :=
  with1 checkCmd [(0x8000, 5), (0x8024, 1), (0x8025, 1), (0x8026, 3), (0x8029, 0x10), (0x802C, 1), (0x8032, 2), (0x803A, 3), (0x804A, 1), (0x805A, 0x20), (0x10001, 0x40)]
theorem wit_towerUnit : unitHyps checkState checkCmd 0 = true ∧ checkCmd.opcode ≠ 0x203 ∧
    (match checkState.joinTower checkCmd 0 with
     | some (u, b) => nextShare ((u.putCmd b).passStep 0 0) b (some 0) == some 0 && commitsAt (chunkOp b) ((u.putCmd b).passStep 0 0) b 0
     | none => false) = true := by decide +kernel
/-- GRAD_QUANT of two rows of one element in Ivory: two chunks. -/
def quantCmd : Cmd := started 0x505 (tens 0x10000 2 [1, 2] [1, 1] ++ tens 0x11000 3 [1, 2] [1, 1] ++ tens 0x12000 8 [1, 2] [1, 32] 0 64 ++ body 64 [])
def quantState : State := with1 quantCmd
def quantBusy : State := quantState.putRegion 0 ((quantState.region 0).putVector 0 ((quantState.region 0).vector 0).pass)
theorem wit_vectorChunk : quantState.runnable 3 1 (onVectors quantState) = some quantCmd ∧ vectorServes (quantState.region 0) 0 = true ∧
    ((quantState.region 0).vector 0).taken quantState quantCmd = false ∧ unitPaused 0 15 = false ∧ nextChunk quantBusy quantCmd = some 0 ∧
    (match quantBusy.joinRegion quantCmd 0 with | some (v, b) => commitsAt (chunkOp b) v b 0 | none => false) = true := by decide +kernel

/-! ### Ranges of Slate -/

theorem tierOf_slate {s : State} {a : Nat} (d : s.dataTowers ≤ 16) (z : s.per.sizeGib = 1024) (h1 : slateBase ≤ a) (h2 : a < slateBase + 2 ^ 40) :
    s.tierOf a = some .slate := by
  have e1 : 8 * sliceSize ≤ slateBase := by decide
  have e2 : umberBase + 16 * 2 ^ 36 ≤ slateBase := by decide
  have e3 : s.dataTowers * 2 ^ 36 ≤ 16 * 2 ^ 36 := Nat.mul_le_mul_right _ d
  unfold State.tierOf
  rw [if_neg (by omega), if_neg (by simp only [Bool.and_eq_true, decide_eq_true_eq]; omega), if_pos (by
    simp only [Bool.and_eq_true, decide_eq_true_eq]; rw [z]; exact ⟨h1, by omega⟩)]

/-- A range of Slate refuses nothing while the link is up. -/
theorem refusal_slate {s : State} {a len : Nat} (d : s.dataTowers ≤ 16) (z : s.per.sizeGib = 1024) (l : s.per.linkUp = true) (h1 : slateBase ≤ a)
    (h2 : a + len ≤ slateBase + 2 ^ 40) (h3 : a < slateBase + 2 ^ 40) (w : Bool) : s.refusal a len w = none := by
  have hm : s.mappedRange a len = true := by
    unfold State.mappedRange
    by_cases h0 : len = 0
    · rw [if_pos h0]
    · rw [if_neg h0, tierOf_slate d z h1 h3, tierOf_slate d z (by omega) (by omega)]; rfl
  have hp : ∀ g ∈ granulesOf a len, s.poisonedAt g = false := by
    intro g hg
    unfold granulesOf at hg
    split at hg
    · exact absurd hg (by simp)
    · rename_i h0
      obtain ⟨i, hi, rfl⟩ := List.mem_map.mp hg
      rw [List.mem_range] at hi
      have b : slateBase = 64 * (slateBase / 64) := by decide
      have hb : slateBase / 64 ≤ a / 64 := Nat.div_le_div_right h1
      unfold State.poisonedAt
      rw [tierOf_slate d z (by omega) (by omega)]
  unfold State.refusal
  rw [hm, tierOf_slate d z h1 h3, l]
  simp only [Bool.not_true, Bool.false_eq_true, if_false, reduceCtorEq, and_false]
  have hn : s.poisonMet a len w = none := by
    unfold State.poisonMet
    rw [List.find?_eq_none]
    intro g hg
    rw [hp g hg]
    simp
  rw [hn]; rfl

/-! ### A chunk of SEPIA_ENCODE -/

theorem joinWrites_in {lo hi : Nat} (ws : Writes) (h : ∀ w ∈ ws, lo ≤ w.1 ∧ w.1 < hi ∧ w.1 + w.2.length ≤ hi) :
    ∀ w ∈ joinWrites ws, lo ≤ w.1 ∧ w.1 < hi ∧ w.1 + w.2.length ≤ hi := by
  induction ws with
  | nil => intro w hw; exact absurd hw (by simp [joinWrites])
  | cons x xs ih =>
    have ih' := ih (fun w hw => h w (List.mem_cons_of_mem _ hw))
    have hx := h x List.mem_cons_self
    obtain ⟨a, b⟩ := x
    intro w hw
    rw [joinWrites] at hw
    generalize joinWrites xs = js at hw ih'
    cases js with
    | nil =>
      simp only [List.mem_cons, List.not_mem_nil, or_false] at hw
      subst hw; exact hx
    | cons y ys =>
      obtain ⟨a', b'⟩ := y
      have hy := ih' (a', b') List.mem_cons_self
      dsimp only at hw hx hy
      split at hw
      · rcases List.mem_cons.mp hw with hw | hw
        · subst hw; simp only [List.length_append]; omega
        · exact ih' w (List.mem_cons_of_mem _ hw)
      · rcases List.mem_cons.mp hw with hw | hw
        · subst hw; exact hx
        · exact ih' w hw

/-- What a chunk's writes and notes leave as it is. -/
def chunkKey (c : Cmd) := (c.done, c.phase, c.body, c.desc, c.q, c.tables)

/-- Writes into Slate commit. -/
theorem commit_slate {s : State} {c : Cmd} {p : Packed} (d : s.dataTowers ≤ 16) (z : s.per.sizeGib = 1024) (l : s.per.linkUp = true)
    (h : ∀ w ∈ p.writes, slateBase ≤ w.1 ∧ w.1 < slateBase + 2 ^ 40 ∧ w.1 + w.2.length ≤ slateBase + 2 ^ 40) :
    ∃ t e, commitWrites s c p = .ok (t, e) ∧ chunkKey e = chunkKey c := by
  have hn : (joinWrites p.writes).findSome? (fun w => s.refusal w.1 w.2.length true) = none := by
    rw [List.findSome?_eq_none_iff]
    intro w hw
    obtain ⟨a, b, e⟩ := joinWrites_in p.writes h w hw
    exact refusal_slate d z l a e b true
  have keep : ∀ (ws : Writes) (c : Cmd), chunkKey (ws.foldl (fun c w => c.noteWrite s w.1 w.2.length) c) = chunkKey c := by
    intro ws
    induction ws with
    | nil => exact fun c => rfl
    | cons w ws ih =>
      intro c
      rw [List.foldl_cons, ih]
      unfold Cmd.noteWrite; split <;> rfl
  unfold commitWrites State.writeAll
  rw [hn]
  exact ⟨_, _, rfl, keep _ _⟩

theorem mapM_ok {α β : Type} {f : α → Except Status β} {g : α → β} (xs : List α) (h : ∀ x ∈ xs, f x = .ok (g x)) : xs.mapM f = .ok (xs.map g) := by
  induction xs with
  | nil => rfl
  | cons x xs ih =>
    rw [List.mapM_cons, h x List.mem_cons_self, ih (fun y hy => h y (List.mem_cons_of_mem _ hy))]
    rfl

theorem plain_length (xs : List Nat) : (xs.flatMap (natBytes 2)).length = 2 * xs.length := by
  induction xs with
  | nil => rfl
  | cons x xs ih => rw [List.flatMap_cons, List.length_append, ih, natBytes_length, List.length_cons]; omega

/-- A frame is no longer than its elements. -/
theorem encode_length (tb : Bytes) (ns : Bool) (xs : List Nat) : (encodeBlock tb none ns xs).frame.length ≤ 2 * xs.length ∧
    (encodeBlock tb none ns xs).header.length = 32 := by
  have hd : ∀ (f : Bytes) (a b c d e : Nat), (blockHeader f a b c d e).length = 32 := by
    intro f a b c d e; unfold blockHeader; simp only [List.length_append, natBytes_length]
  unfold encodeBlock
  simp only [Option.bind_none, Option.isSome_none, Option.getD_none, Bool.false_eq_true, if_false]
  split
  · exact ⟨Nat.le_of_eq (plain_length _), hd _ _ _ _ _ _⟩
  · rename_i h
    rw [not_or, Nat.not_le] at h
    refine ⟨?_, hd _ _ _ _ _ _⟩
    have := h.1
    rw [plain_length] at this
    exact Nat.le_of_lt this

/-- SEPIA_ENCODE of 34,816 zeros, all of it in Slate: 17 blocks, two chunks. -/
def chunkCmd : Cmd :=
  { started 0x702 (tens (slateBase + 2 ^ 35) 3 [34816] [0] ++ tens (slateBase + 2 ^ 36) 3 [34816] [0] 8 131072 ++ body 64 [(0, 8, 0x6000)]) with
    tables := [(0x6000, table0)] }
def chunkState : State := with1 chunkCmd
def chunkSrc : Tens := (chunkCmd.tens 0).getD noTens
def chunkDst : Tens := (chunkCmd.tens 64).getD noTens

theorem chunk_elem (ix : List Nat) : chunkState.elemCode chunkSrc ix = .ok 0 := by
  have a : chunkSrc.addrOf ix = slateBase + 2 ^ 35 := by
    have z : ∀ d, chunkSrc.stride d = 0 := by
      intro d
      match d with
      | 0 | 1 | 2 | 3 | 4 | 5 => decide +kernel
      | d + 6 => rfl
    unfold Tens.addrOf
    simp only [z, Nat.mul_zero]
    decide +kernel
  unfold State.elemCode
  rw [if_neg (by decide +kernel), a, show chunkState.readBytes (slateBase + 2 ^ 35) chunkSrc.fmt.bytes = .ok [0, 0] from ok_of (by decide +kernel)]
  rfl

theorem chunk_table : chunkState.tableAt none chunkCmd.tables 0x6000 = .ok table0 := rfl

theorem chunk_frame (n : Nat) : ∃ xs, frameOf chunkState chunkCmd chunkSrc chunkDst n = .ok (encodeBlock table0 none false xs) ∧ xs.length = chunkDst.blockCount n := by
  have b : blockElems chunkState chunkDst chunkSrc n = .ok ((chunkDst.blockIndices n).map (fun _ => 0)) := by
    unfold blockElems
    refine mapM_ok (g := fun _ => 0) _ (fun o _ => ?_)
    cases o with
    | none => rfl
    | some ix => exact chunk_elem ix
  refine ⟨(chunkDst.blockIndices n).map (fun _ => 0), ?_, ?_⟩
  · have e1 : encTable chunkCmd = 0x6000 := by decide +kernel
    have e2 : bitAt (encFlags chunkCmd) 1 = false := by decide +kernel
    have e3 : ¬ chunkCmd.opcode = 0x703 := by decide +kernel
    unfold frameOf
    rw [e1, e2, chunk_table, b]
    simp only [bind, Except.bind]
    rw [if_neg e3]
  · unfold Tens.blockIndices
    rw [if_pos (by decide +kernel), List.length_map, List.length_map, List.length_range]

theorem addCnt_key (c : Cmd) (i k : Nat) : chunkKey (c.addCnt i k) = chunkKey c := rfl

theorem note_keeps (fs : List (Nat × Framed)) (g : Nat → Nat) (c : Cmd) : chunkKey (fs.foldl (fun c x => noteBlock c x.2 (g x.1)) c) = chunkKey c := by
  induction fs generalizing c with
  | nil => rfl
  | cons f fs ih => rw [List.foldl_cons, ih]; simp only [noteBlock, Cmd.maxCnt, addCnt_key]

theorem map_ok {α β : Type} (f : α → β) {x : Except Status α} {v : α} (h : x = .ok v) : x.map f = .ok (f v) := by rw [h]; rfl

theorem chunk_frames (ns : List Nat) (hn : ∀ n ∈ ns, n < 16) :
    ∃ fs : List (Nat × Framed), ns.mapM (fun n => (frameOf chunkState chunkCmd chunkSrc chunkDst n).map (fun f => (n, f))) = .ok fs ∧
      ∀ x ∈ fs, x.1 < 16 ∧ x.2.frame.length ≤ 4096 ∧ x.2.header.length = 32 := by
  refine ⟨_, mapM_ok (g := fun n => (n, encodeBlock table0 none false (chunk_frame n).choose)) _ (fun n _ => ?_), ?_⟩
  · exact map_ok _ (chunk_frame n).choose_spec.1
  · intro x hx
    obtain ⟨n, hn', rfl⟩ := List.mem_map.mp hx
    have h1 := encode_length table0 false (chunk_frame n).choose
    have h2 := (chunk_frame n).choose_spec.2
    have h3 : chunkDst.blockCount n ≤ 2048 := by
      unfold Tens.blockCount; rw [if_pos (by decide +kernel)]; exact Nat.min_le_left _ _
    exact ⟨hn n hn', by dsimp only; omega, h1.2⟩

theorem chunk_base : chunkDst.base = slateBase + 2 ^ 36 ∧ chunkDst.scaleOff = 131072 ∧ chunkDst.compBlocks = 17 ∧ encSrc chunkCmd = some chunkSrc ∧
    encDst chunkCmd = some chunkDst ∧ chunkState.dataTowers ≤ 16 ∧ chunkState.per.sizeGib = 1024 ∧ chunkState.per.linkUp = true ∧
    chunkCmd.keepTables chunkState (encodeOp.tables chunkState chunkCmd) = chunkCmd := by decide +kernel

theorem chunk_places (d : Tens) (fs : List (Nat × Framed)) (h1 : d.base = slateBase + 2 ^ 36) (h2 : d.scaleOff = 131072)
    (hb : ∀ x ∈ fs, x.1 < 16 ∧ x.2.frame.length ≤ 4096 ∧ x.2.header.length = 32) :
    ∀ w ∈ fs.map (fun x => (d.base + 4096 * x.1, x.2.frame)) ++ fs.map (fun x => (d.base + d.scaleOff + 64 + 32 * x.1, x.2.header)),
      slateBase ≤ w.1 ∧ w.1 < slateBase + 2 ^ 40 ∧ w.1 + w.2.length ≤ slateBase + 2 ^ 40 := by
  intro w hw
  rcases List.mem_append.mp hw with hw | hw <;> obtain ⟨x, hx, rfl⟩ := List.mem_map.mp hw <;> obtain ⟨c1, c2, c3⟩ := hb x hx <;> dsimp only
  · rw [h1]; omega
  · rw [h1, h2, c3]; omega

theorem unit_of {s : State} {c : Cmd} {x d : Tens} {fs : List (Nat × Framed)} (hs : encSrc c = some x) (hd : encDst c = some d)
    (hf : ((List.range (min 16 (d.compBlocks - 16 * 0))).map (16 * 0 + ·)).mapM (fun n => (frameOf s c x d n).map (fun f => (n, f))) = .ok fs) :
    encUnit s c 0 = commitWrites s (fs.foldl (fun c x => noteBlock c x.2 (d.blockCount x.1)) c)
      ⟨fs.map (fun x => (d.base + 4096 * x.1, x.2.frame)) ++ fs.map (fun x => (d.base + d.scaleOff + 64 + 32 * x.1, x.2.header)), 0⟩ := by
  unfold encUnit
  rw [hs, hd]
  simp only [hf, bind, Except.bind]

theorem chunk_unit : ∃ t e, encUnit chunkState chunkCmd 0 = .ok (t, e) ∧ chunkKey e = chunkKey chunkCmd := by
  obtain ⟨b1, b2, b3, b4, b5, b6, b7, b8, _⟩ := chunk_base
  obtain ⟨fs, hf, hb⟩ := chunk_frames ((List.range (min 16 (chunkDst.compBlocks - 16 * 0))).map (16 * 0 + ·)) (by
    intro n hn
    obtain ⟨m, hm, rfl⟩ := List.mem_map.mp hn
    rw [b3, List.mem_range] at hm
    omega)
  obtain ⟨t, e, he, h1⟩ := commit_slate (c := fs.foldl (fun c x => noteBlock c x.2 (chunkDst.blockCount x.1)) chunkCmd)
    (p := ⟨_, 0⟩) b6 b7 b8 (chunk_places chunkDst fs b1 b2 hb)
  exact ⟨t, e, (unit_of b4 b5 hf).trans he, h1.trans (note_keeps fs chunkDst.blockCount chunkCmd)⟩

/-- A chunk of SEPIA_ENCODE that another one follows. -/
theorem wit_encodeChunk : ∃ t d, chunkState.runnable 3 1 (fun c => c.opcode == 0x702 || c.opcode == 0x703) = some chunkCmd ∧
    encodeOp.nextUnit chunkState chunkCmd = some 0 ∧ encodeOp.CommitsOne chunkState chunkCmd 0 t d := by
  obtain ⟨t, e, h, k⟩ := chunk_unit
  obtain ⟨h1, h2, h3, h4, h5, h6⟩ := by simpa only [chunkKey, Prod.mk.injEq] using k
  obtain ⟨-, -, -, -, -, -, -, -, bt⟩ := chunk_base
  refine ⟨t, _, by decide +kernel, by decide +kernel, by decide +kernel, by decide +kernel, rfl, ⟨chunkCmd, e, bt.symm, h, rfl⟩, ?_, h2, ?_⟩
  · have d : encDst { e with done := insertNat 0 e.done, units := e.units + encodeOp.weight chunkState chunkCmd 0 } = encDst chunkCmd := by
      unfold encDst Cmd.opcode Cmd.tens
      dsimp only
      rw [h3, h4, h5, h6]
    have tt : encodeOp.total t { e with done := insertNat 0 e.done, units := e.units + encodeOp.weight chunkState chunkCmd 0 } = 2 := by
      change (match encDst _ with | none => 0 | some d => ceilDiv d.compBlocks 16) = 2
      rw [d]; decide +kernel
    unfold Op.nextUnit
    rw [tt]
    dsimp only
    rw [h1]
    rfl
  · dsimp only
    rw [h1]
    decide

/-! ### WHITEPOINT, SERVICE, collectives -/

/-- TAKE with one local block and one shard; DEST_ADDR in Slate, the report at 0x40000. -/
def takeCmd (locals shards : Nat := 1) : Cmd :=
  started 0x804 (body 128 [(0, 1, 1), (2, 2, locals), (4, 4, shards), (8, 8, slateBase + 2 ^ 36), (16, 8, 2 ^ 24), (32, 8, 0x5000), (40, 8, 0x5100), (56, 8, 0x40000)])
/-- The list of locals names block 7; the one shard is at version 5, busy or not. -/
def takeState (busy : Nat) : State := with1 takeCmd (put 0x5000 (natBytes 8 0x700000 ++ natBytes 8 0x100000) ++ put 0x5100 (natBytes 8 0x8000) ++
  put 0x8000 (body 256 [(0, 8, 5), (24, 8, busy)]))

theorem wit_wpTake : (∀ k ∈ [0, 9], (takeState k).runnable 3 1 (Cmd.isSub 0x804 1) = some takeCmd ∧ (takeState k).twin.wp.running = false ∧
    ((takeState k).wpLocals takeCmd).toOption = some [(0x700000, 0x100000)] ∧ ((takeState k).wpShards takeCmd).toOption = some [0x8000] ∧
    (takeState k).isPaired = false) ∧ wpIdle (takeState 0) takeCmd = true ∧ (([0x8000].mapM (fun a => ((takeState 0).shard 3 a).map Shard.version)).toOption = some [5]) ∧
    wpIdle (takeState 9) takeCmd = false := by decide +kernel

/-- The TAKE with two blocks marked, the first one already read. -/
def takingState (first : WpBlock) : State :=
  { with1 takeCmd with twin := { wp := { q := 3, n := 1, running := true, blocks := [first, ⟨9, true, true, 1⟩], versions := [5],
                                         saved := [{ mib := 7, bytes := List.replicate 1048576 0, poisoned := false }] } } }
/-- A block the partner streams, and one of this member's own. -/
def keptBlock : WpBlock := ⟨7, false, false, 0⟩
def ownBlock : WpBlock := ⟨7, true, true, 0⟩

theorem wit_wpBlock (b : WpBlock) (h : b = keptBlock ∨ b = ownBlock) : (takingState b).runnable 3 1 (Cmd.isSub 0x804 1) = some takeCmd ∧
    (takingState b).twin.wp.running = true ∧ (takingState b).twin.wp.q = 3 ∧ (takingState b).twin.wp.n = 1 ∧
    (takingState b).twin.wp.blocks = [b, ⟨9, true, true, 1⟩] ∧ (wpContent (takingState b) b).2 = false := by
  rcases h with rfl | rfl <;> exact ⟨by decide +kernel, rfl, rfl, rfl, rfl, rfl⟩
theorem wit_wpStreamed : slateBase ≤ wpDest takeCmd ∧ (takingState ownBlock).refusal (wpDest takeCmd + 1048576 * ownBlock.slot) 1048576 true = none ∧
    (wpContent (takingState ownBlock) ownBlock).1.length = 1048576 ∧ (∀ x ∈ [(⟨9, true, true, 1⟩ : WpBlock)], x.mib ∉ mibsOf (wpDest takeCmd + 1048576 * ownBlock.slot) 1048576) ∧
    (takingState ownBlock).mem.wf = true := by
  have e : wpDest takeCmd + 1048576 * ownBlock.slot = slateBase + 2 ^ 36 := by decide +kernel
  refine ⟨by decide +kernel, ?_, ?_, by decide +kernel, by decide +kernel⟩
  · rw [e]; exact refusal_slate (by decide) rfl rfl (by decide) (by decide) (by decide) true
  · exact List.length_replicate

/-- The partner's digests: the same versions, and none of another value; or other versions. -/
theorem wit_wpDigests : ∃ s : State, s = { takingState keptBlock with twin := { (takingState keptBlock).twin with state := .shared } } ∧
    s.runnable 3 1 (Cmd.isSub 0x804 1) = some takeCmd ∧ s.isPaired = true ∧ s.twin.wp.poisoned = false ∧ s.twin.wp.blocks ≠ [] ∧
    (∀ d ∈ [((8 : Nat), (77 : Word))], (wpOwnDigest s d.1).all (fun x => x == d.2) = true) ∧
    [6] ≠ s.twin.wp.versions ∧ (commitWrites s.wpClose takeCmd ⟨[(wpReport takeCmd, wpReportBytes s.twin.wp.stop s.twin.wp.sent none s.twin.wp.stream)], 0⟩).toOption.isSome = true := by
  exact ⟨_, rfl, by decide +kernel, by decide +kernel, by decide +kernel, by decide +kernel, by decide +kernel, by decide +kernel, by decide +kernel⟩

/-- VERIFY of one manifest with no entry, its key and its signature the neutral point's. -/
def verifyCmd : Cmd := started 0x804 (body 128 [(0, 1, 2), (24, 8, 0x6000), (56, 8, 0x40000)])
def verifyState : State := with1 verifyCmd (put 0x6000 (natBytes 32 0 ++
  natBytes 64 3291835376408573590478209986637364656599265025014012802863049622424083630783948306431999498413285667939592978357630573418285899181951386474024455144309711 ++
  natBytes 32 1 ++ natBytes 64 1 ++ natBytes 64 0))
theorem wit_verify : verifyState.runnable 3 1 (Cmd.isSub 0x804 2) = some verifyCmd ∧
    (((wpManifest verifyCmd :: (if wpManifest2 verifyCmd = 0 then [] else [wpManifest2 verifyCmd])).mapM (readManifest verifyState verifyCmd)).toOption = some [some []]) ∧
    ((verifyBlocks verifyState verifyCmd [[]] []).toOption.map (fun v => (v.lost, v.diverged))) = some ([], false) ∧
    (commitWrites (verifyState.count pgTwin 0x1503 0) verifyCmd ⟨[(wpReport verifyCmd, natBytes 16 0 ++ natBytes 8 ((none : Option Nat).getD (2 ^ 64 - 1)) ++ natBytes 8 0)], 0⟩).toOption.isSome
      = true := by decide +kernel

/-- Copies: one that stands against two that agree. -/
theorem wit_copies : 2 ≤ [(1 : Word), 1].length ∧ (∃ y ∈ [(2 : Word), 1, 1], y ≠ 2) ∧ 2 ≤ ([(2 : Word), 1, 1].filter (· == 1)).length ∧
    ∀ y ∈ [(2 : Word), 1, 1], y ≠ 1 → ([(2 : Word), 1, 1].filter (· == y)).length < ([(2 : Word), 1, 1].filter (· == 1)).length := by
  refine ⟨by decide, ⟨1, by decide, by decide⟩, by decide +kernel, ?_⟩
  intro y hy
  simp only [List.mem_cons, List.not_mem_nil, or_false] at hy
  rcases hy with rfl | rfl | rfl <;> decide +kernel

/-- A self-test of region 2's arrays and its end, and a calibration of it. -/
def testCmd (op code : Nat) : Cmd := started 0x805 (body 64 [(0, 1, op), (1, 1, code), (2, 2, 2), (8, 8, 0x40000)])
def testState (c : Cmd) (st : PageState) : State := { with1 c with regions := tabSet {} regionsIn 2 { state := st } }
theorem wit_selfTest : ∀ x ∈ [(1, 1), (2, 0x12)], (testState (testCmd x.1 x.2) .inService).runnable 3 1 (Cmd.isSub 0x805 x.1) = some (testCmd x.1 x.2) ∧
    nth 0 (testCmd x.1 x.2).counts 0 = 0 ∧ testReady (testState (testCmd x.1 x.2) .inService) (testCmd x.1 x.2) = false ∧
    testKind ((testCmd x.1 x.2).fld 1 1) = some .region ∧ (testCmd x.1 x.2).fld 1 1 ≠ 2 ∧
    (testState (testCmd x.1 x.2) .drained).runnable 3 1 (Cmd.isSub 0x805 x.1) = some (testCmd x.1 x.2) ∧
    ((testState (testCmd x.1 x.2) .drained).region ((testCmd x.1 x.2).fld 2 2)).state = .drained := by decide +kernel
theorem wit_testEnd : ∃ (c : Cmd) (s v : State), c = { testCmd 1 1 with committed := true, counts := [1] } ∧ s = testState c .testing ∧
    s.runnable 3 1 (fun c => Cmd.isOp 0x805 c && decide (0 < nth 0 c.counts 0)) = some c ∧ testKind (c.fld 1 1) = some .region ∧ (s.region (c.fld 2 2)).sound = true ∧
    v = s.putRegion (c.fld 2 2) { s.region (c.fld 2 2) with state := .drained, faultSeen := false } ∧
    (commitWrites v c ⟨[(c.fld 8 8, natBytes 16 0 ++ natBytes 8 500 ++ natBytes 8 0)], 0⟩).toOption.isSome = true :=
  ⟨_, _, _, rfl, rfl, by decide +kernel, by decide +kernel, by decide +kernel, rfl, by decide +kernel⟩

/-- ATTEST. -/
def attestCmd : Cmd := started 0x805 (body 64 [(0, 1, 3), (8, 8, 0x40000), (16, 8, 99)])
def attestHead : Bytes :=
  (attestCmd.body.drop 16).take 32 ++ natBytes 2 (with1 attestCmd).lnk.position ++ natBytes 1 (with1 attestCmd).fitted ++ natBytes 1 (with1 attestCmd).boot.bank ++
  natBytes 4 ((with1 attestCmd).cellsFenced + (with1 attestCmd).blocksFenced) ++ natBytes 4 (with1 attestCmd).boot.svnMin ++ natBytes 4 0 ++ (with1 attestCmd).measure ++
  (with1 attestCmd).boot.publicKey ++ natBytes 8 (160 * (with1 attestCmd).cycles) ++ natBytes 40 0
theorem wit_attest : (with1 attestCmd).runnable 3 1 (Cmd.isSub 0x805 3) = some attestCmd ∧ attestCmd.done = [] ∧ attestCmd.withheld = [] ∧
    (commitWrites (with1 attestCmd) attestCmd ⟨[(attestCmd.fld 8 8, attestHead ++ edSign (with1 attestCmd).boot.privateKey attestHead)], 0⟩).toOption.isSome = true := by
  decide +kernel

/-! ### Collectives -/

/-- A collective of two members on group 5, signed: `e` elements of FP32 into `d`. -/
def collCmd (op e d : Nat) (piece : List Nat := []) : Cmd :=
  { started op (tens 0x10000 2 [e] [1] ++ tens 0x20000 2 [d] [1] ++ body 128 [(0, 2, 5)]) with
    coll := { group := 5, number := 1, signed := true, reports := [1] }, done := piece }
/-- The module is position 0 of group 5's two. -/
def collState (c : Cmd) (n : Nat := 2) : State :=
  { with1 c with lnk := { groups := [(5, { exist := true, members := List.range n, rank := 0, owner := 3, number := 2, taken := [(1, 1)] })] } }
/-- The data of both members. -/
def bothData (e : Nat) : List PeerTensor := List.replicate 2 { elems := natBytes (4 * e) 0 }

/-- Every collective, its piece committed, comes to its end. -/
theorem wit_collRows : ∀ x ∈ [(0x601, 2, 2), (0x602, 64, 32), (0x603, 2, 4), (0x604, 2, 2)],
    (let c := collCmd x.1 x.2.1 x.2.2
     c.withheld.isEmpty && (collState c).runnable 3 1 (Cmd.isOp x.1) == some c && delivered (collState c) c (bothData x.2.1) && ((collOp (bothData x.2.1)).outcome (collState c) c).isSome) = true := by
  decide +kernel
/-- A collective of one piece commits it alone: the reports are left. -/
theorem wit_collPiece : (let c := collCmd 0x601 2 2
     (collState c).runnable 3 1 (fun c => decide (0x601 ≤ c.opcode) && decide (c.opcode ≤ 0x604)) == some c && delivered (collState c) c (bothData 2) &&
     commitsOne (collOp (bothData 2)) (collState c) c) = true := by decide +kernel

/-- COLL_GROUP. -/
def groupCmd (op : Nat) : Cmd := started 0x606 (body 64 [(0, 1, op), (2, 2, 6), (4, 2, 2), (8, 8, 0x9000), (16, 4, 3)])
theorem wit_collGroup : (with1 (groupCmd 1) (put 0x9002 [1])).runnable 3 1 (Cmd.isSub 0x606 1) = some (groupCmd 1) ∧ (groupCmd 1).done = [] ∧ (groupCmd 1).withheld = [] ∧
    ((with1 (groupCmd 1)).group ((groupCmd 1).fld 2 2)).exist = false ∧
    ((with1 (groupCmd 1) (put 0x9002 [1])).readBytes ((groupCmd 1).fld 8 8) (2 * (groupCmd 1).fld 4 2)).toOption = some [0, 0, 1, 0] ∧
    (let s := { with1 (groupCmd 2) with lnk := { groups := [(6, { exist := true, members := [0, 1], owner := 3 })] } }
     s.runnable 3 1 (Cmd.isSub 0x606 2) = some (groupCmd 2) ∧ (s.group ((groupCmd 2).fld 2 2)).exist = true ∧ (s.group ((groupCmd 2).fld 2 2)).taken = []) := by decide +kernel

/-- PEER_PUT of 16 bytes to a module that this one reaches, or to one that it does not. -/
def putCmd (pos : Nat) : Cmd := started 0x605 (body 64 [(0, 8, 0x1000), (8, 8, 0x2000), (16, 8, 16), (24, 2, pos)])
theorem wit_peerPut : runs peerPutOp (Cmd.isOp 0x605) (with1 (putCmd 1)) = true := by decide +kernel

/-- A collective that awaits its signature, and one with a piece left. -/
def unsignedCmd : Cmd := { collCmd 0x601 2 2 with coll := { group := 5, number := 1 } }
/-- One that asks for a report. -/
def reportCmd : Cmd := { unsignedCmd with body := unsignedCmd.body.take 128 ++ body 128 [(0, 2, 5), (3, 1, 2), (16, 8, 0x40000)] }
theorem wit_signature : (collState unsignedCmd).runnable 3 1 awaitsSignature = some unsignedCmd ∧ unsignedCmd.isRing = false ∧ clReports unsignedCmd = false ∧
    collSignature unsignedCmd ≠ [0] ∧
    (collState unsignedCmd).runnable 3 1 (fun c => decide (0x601 ≤ c.opcode) && decide (c.opcode ≤ 0x604)) = some unsignedCmd ∧
    (∃ k, k < clPieces unsignedCmd ∧ unsignedCmd.done.contains k = false) :=
  ⟨by decide +kernel, by decide +kernel, by decide +kernel, by decide +kernel, by decide +kernel, 0, by decide +kernel, by decide +kernel⟩
theorem wit_signature_report : (collState reportCmd).runnable 3 1 awaitsSignature = some reportCmd ∧ clReports reportCmd = true ∧ reportCmd.isRing = false ∧
    (commitWrites (collState reportCmd) reportCmd ⟨[(clReport reportCmd, natBytes 16 0 ++ natBytes 2 0xFFFF ++ natBytes 14 0)], 0⟩).toOption.isSome = true ∧
    (commitWrites ((collState reportCmd).openRange (clDst reportCmd).range.1 (clDst reportCmd).range.2) reportCmd
      ⟨[(clReport reportCmd, natBytes 16 0 ++ natBytes 2 1 ++ natBytes 14 0)], 0⟩).toOption.isSome = true ∧
    (collState reportCmd).runnable 3 1 needsPeer = some reportCmd := by decide +kernel
theorem wit_silence : (collState unsignedCmd).runnable 3 1 needsPeer = some unsignedCmd ∧ clReports unsignedCmd = false ∧ ((collState unsignedCmd).group 5).done.contains 1 = false ∧
    1 ∈ ((collState unsignedCmd).group 5).others ∧ (putCmd 1).fld 24 2 = 1 ∧ unsignedCmd.opcode = 0x601 ∧
    (with1 (putCmd 1)).runnable 3 1 needsPeer = some (putCmd 1) ∧ (putCmd 1).opcode = 0x605 ∧ 1 ≠ (with1 (putCmd 1)).lnk.position ∧
    (with1 (putCmd 1)).cmd? 3 1 = some (putCmd 1) ∧ (putCmd 1).withheld = [] ∧ (putCmd 1).phase = .started ∧ (with1 (putCmd 1)).alive = true := by decide +kernel
/-- A position that no link leads to ends a collective at once (R383, R397). -/
theorem test_unreached : (((collState unsignedCmd).endUnreached 3 1).cmd? 3 1).map (fun c => (c.phase, c.status)) = some (.ended, .limit) := by decide +kernel
theorem wit_restart : (collState unsignedCmd 1).alive = true ∧ ((collState unsignedCmd 1).group 5).done.contains 1 = false ∧ ((collState unsignedCmd 1).group 5).others = [] ∧
    (collState unsignedCmd 1).cmds.find? (fun c => c.phase == .started && decide (0x601 ≤ c.opcode) && decide (c.opcode ≤ 0x604) && c.coll.group == 5 && c.coll.number == 1)
      = some unsignedCmd := by decide +kernel

/-! ### The window, registers, memories -/

/-- A module with granule 5 of Ivory poisoned, an error unmasked in page 1 and a further one waiting to be told. -/
def poisoned5 : State :=
  let s := { run0 with mem := { run0.mem with ivoryPoison := [(5, true)] } }
  { s with pages := [(1, { errSts := 2 })], errIrqEnable := true, errIrqMore := true }

theorem wit_window : run0.answers = true ∧ poisoned5.answers = true ∧
    (∀ x ∈ [(0, 64), (60, 8), (8 * sliceSize - 4, 4)], ∀ g ∈ granulesOf x.1 x.2, run0.windowMapped g = true ∧ run0.poisonedAt g = false) ∧ 8 * sliceSize - 4 + 4 ≤ umberBase ∧
    run0.mem.wf = true ∧ (∀ g ∈ granulesOf umberBase 100, run0.tierOf g = some .umber ∧ run0.poisonedAt g = false) ∧
    poisoned5.windowMapped (383 / 64 * 64) = true ∧ poisoned5.poisonedAt (383 / 64 * 64) = true ∧ (380 / 64 = (380 + 4 - 1) / 64) ∧
    run0.windowMapped (2 ^ 47 / 64 * 64) = false ∧
    pageExists (0x100 / 4096) = true ∧ (3 : Nat) ≠ 4 ∧ (3 : Nat) ≠ 8 := by decide +kernel
theorem wit_registers : (∀ r ∈ [0x1110, 0x1128, 0x5118, 0x5138, 0x900120, 0x900130, 0xA00110, 0xA00118, 0xA00130, 0x108], run0.silent (r / 4096) = false) ∧
    (∀ p ∈ pageList, pageExists p = true) ∧ pageExists (0xFFF000 / 4096) = false ∧ (0x100 : Word).toNat.testBit 8 = true ∧ (0x100 : Word).toNat % 4 = 0 ∧
    (∀ b ∈ errBits 1, b < 64) ∧ hasBit (2 : Word) 1 = true ∧ 1 ∈ errBits 1 ∧ hasBit (poisoned5.page 1).errSts 1 = true ∧
    run0.pageState 1 ≠ .off ∧ run0.pageState 1 ≠ .fencedOut ∧ run0.pageState 1 ≠ .testing ∧ poisoned5.errIrqEnable = true ∧ poisoned5.errIrqMore = true ∧
    (∃ e ∈ poisoned5.pages, e.2.errSts &&& ~~~e.2.errMask ≠ 0) :=
  ⟨by decide +kernel, by decide +kernel, by decide +kernel, by decide, by decide, by decide +kernel, by decide +kernel, by decide +kernel, by decide +kernel, by decide +kernel, by decide +kernel, by decide +kernel, rfl, rfl,
   ⟨_, List.mem_singleton_self _, by decide +kernel⟩⟩
theorem wit_formats : (∀ F ∈ [Fmt.fp64, .fp32, .bf16, .fp16], F.isInt = false ∧ F.isBlock = false) ∧ (∀ F ∈ [Fmt.int8, .int32, .uint8], F.isInt = true) ∧
    (decElem .fp16 0x7BFF).isNan = false ∧ (0x7BFF < 2 ^ (8 * Fmt.fp16.bytes)) ∧ roundUnits .rne 3 (0 : Int) (0 + (1 : Nat)) = 2 := by decide +kernel

/-- A region's arbiter with a request waiting, of another's. -/
def waitsAt (x : ArbReq) : State := run0.putRegion 0 { run0.region 0 with waiting := [x] }
/-- Requests of a drain, a feeder and another region's walker at the arbiter of region 0. -/
def drainReq : ArbReq := arbReq 0 false 0 (.drain 1) 4
def feederReq : ArbReq := arbReq 0 false 0 (.feeder 1) 5
def remoteReq : ArbReq := arbReq 0 false 2 .walker 6
theorem wit_requests : run0.alive = true ∧ run0.tierOf 0 = some .ivory ∧
    (∀ x ∈ [drainReq, feederReq, remoteReq], (run0.region 0).grants x = true ∧ (let u := run0.grant 0 x
      (u.readBytes 0 64).toOption.isSome = true ∧ u.refusal 0 64 true = none)) ∧ run0.mem.wf = true ∧
    drainReq ∈ ((waitsAt drainReq).region 0).waiting ∧ drainReq.umber = false ∧ feederReq.same drainReq = false ∧
    drainReq.cls < (((waitsAt drainReq).region 0).classed feederReq).cls ∧ remoteReq.cls = 4 ∧
    (let u := run0.queueRequest 0 feederReq
     ((u.region 0).classed feederReq).cls ≠ 1 ∧ ((run0.queueRequest 0 drainReq).region 0).classed drainReq = drainReq ∧ drainReq.cls = 1) ∧
    (let x := arbReq 0 true 0 .stream 7
     (run0.region 0).grants x = true ∧ ((run0.grant 0 x).readBytes umberBase 64).toOption.isSome = true) ∧
    run0.tierOf umberBase = some .umber ∧ (run0.readBytes umberBase 64).toOption.isSome = true ∧ run0.refusal umberBase 64 true = none ∧
    run0.tow.readAt (run0.placeOf (umberBase - umberBase)).1 ((run0.placeOf (umberBase - umberBase)).2 / 4096) = some 0 ∧
    run0.tow.ivoryScrubMin ≠ 0 ∧ run0.towerFitted 16 = true ∧ (run0.tower 16).failed = false ∧ run0.tow.scrubHours ≠ 0 := by decide +kernel
/-- Tower 0's unit has a step of a THIN_GEMM, some refreshes owed. -/
def busyTower (owed : Nat) : State :=
  let c := { started 0x203 thinBody with towers := [0] }
  (with1 c).putTower 0 { (with1 c).tower 0 with owed := owed, cmds := [(3, 1)] }
theorem wit_refresh : run0.towerFitted 0 = true ∧ (run0.tower 0).failed = false ∧ run0.unitBusy 0 = false ∧ (run0.tower 0).selfRefresh = false ∧
    (∀ k ∈ [0, (run0.tower 0).postponeMax], (busyTower k).alive = true ∧ (busyTower k).towerFitted 0 = true ∧ ((busyTower k).tower 0).failed = false ∧
      (busyTower k).unitBusy 0 = true ∧ ((busyTower k).tower 0).selfRefresh = false) ∧
    ((busyTower 0).tower 0).owed < ((busyTower 0).tower 0).postponeMax ∧
    ((busyTower (run0.tower 0).postponeMax).tower 0).postponeMax ≤ ((busyTower (run0.tower 0).postponeMax).tower 0).owed := by decide +kernel
theorem wit_towerRegs : (0x100 : Word).toNat.testBit 8 = true ∧ (9 : Word).toNat % 16 ≤ 9 ∧ run0.tow.segSel < run0.dataTowers * 64 ∧ 9 < (10 : Word).toNat % 16 ∧
    run0.towerFitted ((0x100 : Word).toNat % 32) = true ∧ (run0.tower ((0x100 : Word).toNat % 32)).failed = false ∧
    run0.towerFitted ((0x11F : Word).toNat % 32) = false ∧ run0.fed = true ∧ (run0.tower 0).unanswered = 0 ∧
    (let s := run0.putTower 0 { run0.tower 0 with unanswered := 1 }
     s.fed = true ∧ s.towerFitted 0 = true ∧ (s.tower 0).failed = false ∧ (s.tower 0).unanswered = 1 ∧
     (s.putTower 0 { s.tower 0 with unanswered := 0 }).tower 0 = { s.tower 0 with unanswered := 0 }) ∧
    (run0.tow.towers.any (fun w => w.2.trimming)) = false ∧ run0.tow.sts ≠ .rebuilding := by decide +kernel

/-! ### Failures and page states -/

/-- The towers in a state, tower 2's failure found (or the spare's). -/
def failing (sts : TowerState) (t : Nat) : State :=
  let s := { run0 with tow := { run0.tow with sts := sts } }
  s.putTower t { s.tower t with failFound := true }
theorem wit_towerFail : ∀ x ∈ [(TowerState.full, 2), (.parity, 2), (.rebuilding, 16), (.degraded, 2), (.lost, 2), (.full, 17), (.parity, 17), (.rebuilding, 17)],
    (failing x.1 x.2).fed = true ∧ ((failing x.1 x.2).tower x.2).failFound = true ∧ ((failing x.1 x.2).tower x.2).failed = false ∧ (failing x.1 x.2).tow.sts = x.1 := by
  decide +kernel
/-- A rebuild, a recomputation, a resync, each before its first stripe or its last. -/
def stripeState (sts : TowerState) (cursor : Nat) : State :=
  { run0 with tow := { run0.tow with sts := sts, lostA := 2, cursor := cursor, running := true, spareAwake := decide (0 < cursor), unsyncEnd := 2 ^ 24, unsyncBack := .full } }
theorem wit_stripes : (∀ k ∈ [0, 1, 2 ^ 24 - 1], ∀ sts ∈ [TowerState.rebuilding, .lost, .unsynced], (stripeState sts k).fed = true ∧ (stripeState sts k).tow.sts = sts ∧
    (stripeState sts k).tow.running = true ∧ (stripeState sts k).tow.lostA ≠ 16 ∧ (stripeState sts k).mem.wf = true ∧ (stripeState sts k).tow.unsyncBack = .full) ∧
    (stripeState .rebuilding 0).tow.spareAwake = false ∧ (stripeState .rebuilding 1).tow.spareAwake = true ∧ (stripeState .rebuilding (2 ^ 24 - 1)).tow.spareAwake = true := by
  decide +kernel
/-- Three regions left beside the one that fails. -/
def fourRegions : State := { run0 with regions := (List.range 4).map (fun r => (r, { state := .inService })) }
theorem wit_parts : run0.fed = true ∧ fourRegions.fed = true ∧ ((run0.region 0).array 3).fenced = false ∧ ((run0.region 0).array 3).colFenced = [] ∧
    ((run0.region 7).vector 1).fenced = false ∧ tabGet false ((run0.region 7).vector 1).groupFenced 7 = false ∧ ((run0.region 7).vector 1).groupFenced.length < 4 ∧
    tabGet false (run0.tower 17).bankFenced 63 = false ∧ tabGet false (run0.region 7).bankFenced 15 = false ∧
    ({ run0.region 7 with bankFenced := tabSet false (run0.region 7).bankFenced 15 true } : Region).complete = true ∧ (run0.region 7).state = .inService ∧
    tabGet false run0.checkFenced 3 = false ∧ (run0.engine 15).state ≠ .fencedOut ∧
    State.enginesLeft { run0 with copy := tabSet {} run0.copy 15 { state := .fencedOut } } (15 / 8) ≠ 0 ∧ (run0.region 7).midPass = [] ∧
    (fourRegions.region 0).state = .inService ∧ (((List.range 8).filter (fun k => k != 0 && (fourRegions.region k).state == .inService)).length < 4) := by decide +kernel
/-- Region 0, tower 0's unit and copy engine 0 in a state. -/
def pagesAt (p : PageState) : State :=
  let s := run0.putRegion 0 { state := p }
  let s := s.putTower 0 { s.tower 0 with unit := p }
  { s with copy := tabSet {} s.copy 0 { state := p } }
theorem wit_pages : run0.answers = true ∧ 5 ≤ run0.regionsIn.length ∧ fourRegions.answers = true ∧ fourRegions.regionsIn.length < 5 ∧
    (pagesAt .inService).answers = true ∧ (pagesAt .inService).pageState (pgTower 0) = .inService ∧ ((pagesAt .inService).engine 0).state = .inService ∧
    2 ≤ (pagesAt .inService).enginesIn (0 / 8) ∧ run0.lnk.fabric = .inService ∧ run0.twinned = false ∧ run0.twin.state ≠ .fillTarget ∧
    (pagesAt .drained).answers = true ∧ ((pagesAt .drained).region 0).state = .drained ∧ (pagesAt .drained).pageState (pgTower 0) = .drained ∧
    run0.pageState (pgRegion 0) ≠ .drained ∧
    (∀ r, r < 8 → (1 : Word).toNat.testBit r ≠ ((pagesAt .drained).region r).gated → ((pagesAt .drained).region r).state = .drained ∨ ((pagesAt .drained).region r).state = .off) ∧
    ((1 : Word).toNat.testBit 0 ≠ (run0.region 0).gated ∧ (run0.region 0).state ≠ .drained ∧ (run0.region 0).state ≠ .off) ∧
    (pagesAt .draining).fed = true ∧ ((pagesAt .draining).region 0).state = .draining ∧ (pagesAt .draining).boot.running = none ∧ (pagesAt .draining).regionEmpty 0 = true ∧
    ((pagesAt .draining).engine 0).state = .draining ∧ ((pagesAt .draining).engine 0).piece = none ∧
    (pagesAt .admitting).fed = true ∧ ((pagesAt .admitting).region 0).state = .admitting ∧ (pagesAt .admitting).boot.fits 2 = true ∧ ((pagesAt .admitting).region 0).sound = true ∧
    (pagesAt .admitting).pageState (pgTower 0) = .admitting ∧ (pagesAt .admitting).boot.fits 3 = true ∧ ((pagesAt .admitting).engine 0).state = .admitting := by decide +kernel

/-! ### The governor, resets, firmware -/

/-- The coolant's limits hold or fail; the feed is lost. -/
theorem wit_governor : run0.power = .on ∧ (35 < run0.gov.inlet ∨ run0.gov.flow < 240) ∧
    (let s := { run0 with gov := { run0.gov with inlet := 35, flow := 240 } }
     s.power = .on ∧ ¬ (35 < s.gov.inlet ∨ s.gov.flow < 240)) ∧ leNat ([0x58, 2] : Bytes) = 600 ∧ leNat ([0x40, 6] : Bytes) = 1600 ∧ leNat ([0x41, 6] : Bytes) = 1601 ∧
    (let s := { run0 with power := .holdUp, twin := { state := .paired } }
     s.power = .holdUp ∧ s.hasPartner = true ∧ s.deviceStop = false) := by decide +kernel

/-- The module stopped; waiting for its configuration; a reset that quiesces. -/
def stopped : State := { run0 with deviceStop := true }
def awaiting : State := { run0 with boot := { running with stage := .awaitConfig } }
def quiescing : State := { run0 with boot := { running with running := some (2, 0) } }
theorem wit_resets : run0.answers = true ∧ stopped.answers = true ∧ stopped.deviceStop = true ∧ run0.deviceStop = false ∧ run0.boot.stage = .run ∧ run0.jnl.state ≠ .scanning ∧
    run0.boot.running = none ∧ run0.twinned = false ∧ (run0.region 0).state = .inService ∧
    (let s := run0.putRegion 0 { state := .drained }
     s.answers = true ∧ s.boot.running = none ∧ (s.region 0).state ≠ .inService) ∧
    run0.quiet = true ∧ run0.threads = [] ∧ awaiting.answers = true ∧ awaiting.boot.stage = .awaitConfig ∧ awaiting.per.sizeGib ≤ 4096 ∧ run0.boot.stage ≠ .awaitConfig ∧
    quiescing.alive = true ∧ quiescing.boot.running = some (2, 0) ∧ ¬ (quiescing.tow.sts = .rebuilding ∧ quiescing.tow.cursor = 0) ∧ run0.purgeFits = false ∧
    (let s := { run0 with boot := { running with purgeAddr := slateBase / 4096 } }
     s.answers = true ∧ s.purgeFits = true) := by decide +kernel

/-- Bank 1 holds the factory's images too, verified; it holds none. -/
def bothBanks : Boot := { running with fwState := 2, flash := factoryFlash ++ factoryFlash.map (fun e => (e.1 + 4, e.2)) }
theorem wit_activate : imCompat (bothBanks.image (1 - bothBanks.preferred) 1) = imCompat bothBanks.fw ∧
    imCompat (({ running with fwState := 2 } : Boot).image (1 - 0) 1) ≠ imCompat running.fw ∧ running.fwState ≠ 2 := by decide +kernel

/-- Three images signed with the neutral point's key, as a bundle in Ivory; a bundle where nothing is mapped. -/
def bundled : State :=
  { run0 with boot := { running with fwState := 1, fwLoadAddr := 2, vendorKeys := [natBytes 32 1] },
              mem := { cells := put 0x2000 (factoryImage 1 1 ++ factoryImage 2 1 ++ factoryImage 3 1) } }
theorem wit_bundle : bundled.alive = true ∧ bundled.boot.fwState = 1 ∧
    (bundled.bundleFrom (bundled.boot.fwLoadAddr * 4096)).toOption = some [factoryImage 1 1, factoryImage 2 1, factoryImage 3 1] := by decide +kernel
theorem wit_images : imFail bundled.boot 1 (factoryImage 1 1) = none ∧ imFail bundled.boot 2 (factoryImage 2 1) = none ∧
    imFail bundled.boot 3 (factoryImage 3 1) = none := by decide +kernel
theorem wit_noBundle : (({ run0 with boot := { running with fwState := 1, fwLoadAddr := 2 ^ 35 } } : State).bundleFrom (2 ^ 35 * 4096)).toOption = none := by decide +kernel

/-- Every cause of a cold reset, on the factory's images. -/
theorem wit_cold : run0.boot.bootBank = some 0 ∧ run0.boot.imageOk 0 2 = true ∧ imCompat (run0.boot.image 0 2) = imCompat ((run0.boot.image 0 1).take 256) ∧
    run0.mem.wf = true ∧ run0.power = .on ∧ run0.boot.stage ≠ .halted ∧ run0.boot.stage ≠ .rom ∧ run0.booting = false ∧
    ({ run0 with power := .off } : State).power = .off ∧ ({ run0 with power := .tripped } : State).power = .tripped ∧ State.reset.power = .on ∧ State.reset.boot.stage = .rom := by
  decide +kernel

/-! ### Links, peers, twins, Greyline -/

/-- Link 0 in a state, two flits sent and not acknowledged. -/
def linkAt (k : Link) : State := { run0 with lnk := { position := 0, links := [(0, k)] } }
def upLink : Link := { state := .up, txSeq := 2, retry := [(0, [1]), (1, [2])] }
/-- Flits of SEQ 0 for position 0: a payload, and one that opens a chunk of TAG 5. -/
def zeros62 : Bytes := natBytes 62 0
def flitOf (head : Bytes) (crc : Nat) : Bytes := head ++ zeros62 ++ zeros62 ++ zeros62 ++ zeros62 ++ [0, 0] ++ natBytes 4 crc
def flit1 : Bytes := flitOf (natBytes 8 (2 ^ 60)) 2493128308
def flit2 : Bytes := flitOf (natBytes 8 (2 * 2 ^ 60 + 5 * 2 ^ 10)) 1855530692
/-- The CRC of such a flit, piece by piece. -/
theorem flit_ok {head : Bytes} {crc : Nat} (c0 c1 c2 c3 : BitVec 32) (h0 : head.foldl crc32cByte 0xFFFFFFFF#32 = c0) (h1 : zeros62.foldl crc32cByte c0 = c1)
    (h2 : zeros62.foldl crc32cByte c1 = c2) (h3 : zeros62.foldl crc32cByte c2 = c3)
    (h4 : (fieldAt (flitOf head crc) 258 4 == ((zeros62 ++ [0, 0]).foldl crc32cByte c3 ^^^ 0xFFFFFFFF#32).toNat) = true) (hl : (flitOf head crc).length = 262)
    (hs : sliceOf (flitOf head crc) 0 258 = head ++ (zeros62 ++ (zeros62 ++ (zeros62 ++ (zeros62 ++ [0, 0]))))) : flitCrcOk (flitOf head crc) = true := by
  unfold flitCrcOk
  rw [hl, hs]
  unfold crc32c
  rw [List.foldl_append, h0, List.foldl_append, h1, List.foldl_append, h2, List.foldl_append, h3]
  exact h4
theorem flit1_ok : flitCrcOk flit1 = true :=
  flit_ok 0x63898a1a#32 0xee0625eb#32 0xf073ca7b#32 0x4075f3ab#32 (by decide +kernel) (by decide +kernel) (by decide +kernel) (by decide +kernel) (by decide +kernel)
    (by decide +kernel) (by decide +kernel)
theorem flit2_ok : flitCrcOk flit2 = true :=
  flit_ok 0x6ad1fcdc#32 0x50cb7253#32 0x35c111b8#32 0x732e78fa#32 (by decide +kernel) (by decide +kernel) (by decide +kernel) (by decide +kernel) (by decide +kernel)
    (by decide +kernel) (by decide +kernel)
theorem wit_flit : (linkAt upLink).link 0 = upLink ∧ (linkAt upLink).alive = true ∧ upLink.carries = true ∧ flitCrcOk [] = false ∧
    (∀ b ∈ [flit1, flit2], flType b ≠ 0 ∧ flSeq b = upLink.rxSeq ∧ flDest b = (linkAt upLink).lnk.position ∧ flAck b ∈ upLink.retry.map (·.1)) ∧
    upLink.enable = true ∧ upLink.held = [] ∧ flType flit1 = 1 ∧ flType flit2 = 2 ∧ flTag flit2 = 5 ∧
    (1 : BitVec 10).toNat ∈ upLink.retry.map (·.1) ∧ tabGet 0 upLink.replays (1 : BitVec 10).toNat < 16 ∧
    (linkAt upLink).lnk.position ≠ 0xFFFF ∧ tabGet 0 ({ upLink with replays := [(1, 16)] } : Link).replays 1 = 16 := by decide +kernel
theorem wit_links : (linkAt upLink).fed = true ∧ upLink.failedLanes = [] ∧ ({ state := .training } : Link).state = .training ∧
    (linkAt { upLink with sparePending := true, failedLanes := [(7, true)] }).fed = true ∧ (1 = twinOf (linkAt upLink).lnk.position) ∧ (linkAt upLink).lnk.position < 16384 ∧
    upLink.trimming = [] ∧ tabGet false upLink.failedLanes 7 = false ∧ (linkAt upLink).trimFree 0 = true ∧ upLink.spareFor = 0xF ∧ upLink.spareOk = true ∧
    upLink.sparePending = false ∧ upLink.state ≠ .failed ∧ upLink.retry ≠ [] ∧ upLink.held = [] ∧ (1 : Nat) < 0xFFFF ∧ tabGet false upLink.trimming 3 = false ∧ (linkAt { upLink with trimming := [(8, true)], spareFor := 8 }).fed = true ∧ ({ upLink with trimming := [(8, true)], spareFor := 8 } : Link).carries = true ∧
    (linkAt upLink).answers = true ∧ ({ upLink with retry := [] } : Link).enable = true ∧ ({ upLink with enable := false, state := .down } : Link).state = .down ∧ ({ upLink with enable := false } : Link).state ≠ .down ∧
    (let s := { run0 with lnk := { fabric := .drained } }
     s.answers = true ∧ s.lnk.fabric = .drained ∧ (5 : Word).toNat % 65536 ≠ s.lnk.position) ∧ run0.lnk.fabric ≠ .drained := by decide +kernel

/-- Window 0 open on the first page of Ivory, the shard at 0x800 in it, two elements with its planes at 0x900 to 0xB00. -/
def openWindow (cells : Tab Byte := []) : State := { run0 with lnk := { position := 0, windows := [(0, { enable := true, base := 0, limit := 4095 })] }, mem := { cells := cells } }
def peerShard : Shard := ⟨0x800, body 256 [(0, 8, 5), (36, 1, 1), (37, 1, 1), (38, 1, 3), (40, 4, 2), (44, 4, 1), (48, 8, 0x900)]⟩
theorem wit_peer : openWindow.alive = true ∧ openWindow.lnk.position ≠ 0xFFFF ∧ ({ openWindow with lnk := {} } : State).lnk.position = 0xFFFF ∧ openWindow.takeIngress { source := 1, addr := 0, bytes := [7, 8], flag := none } =
      (openWindow, { source := 1, addr := 0, bytes := [7, 8], flag := none }) ∧ openWindow.lnk.ingress = [] ∧ openWindow.peerRefusal 0 2 = none ∧
    (openWindow.writeBytes 0 [7, 8]).toOption.isSome = true ∧ openWindow.peerRefusal 64 8 = none ∧
    ((openWindow.writeBytes 0 [7, 8]).bind (fun x => x.raiseWord 64 9)).toOption.isSome = true ∧ openWindow.peerRefusal 0 4096 = none ∧ openWindow.refusal 0 16 true = none ∧ openWindow.mem.wf = true ∧ openWindow.peerRefusal 0 16 = none ∧
    openWindow.peerRefusal 4095 2 = some false ∧ (openWindow.readBytes 0 16).toOption.isSome = true ∧
    (let s := { run0 with lnk := { position := 0, windows := [(0, { enable := true, base := 0, limit := 2 ^ 48 - 1 })] } }
     s.alive = true ∧ s.peerRefusal (2 ^ 47) 16 = some true) := by decide +kernel
/-- The shard taken by a command, broken, or with a transposed copy. -/
theorem wit_shardServe_other : (let at_ (f : List (Nat × Nat × Nat)) : Shard := ⟨0x800, body 256 ([(0, 8, 5), (36, 1, 1), (37, 1, 1), (38, 1, 3), (40, 4, 2), (44, 4, 1), (48, 8, 0x900)] ++ f)⟩
    let s (r : Shard) := openWindow (put 0x800 r.raw)
    (∀ f ∈ [[(24, 8, 9)], [(100, 1, 0xFF)], [(39, 1, 1), (80, 8, 0xA00)]], ((s (at_ f)).readBytes 0x800 256).toOption = some (at_ f).raw) ∧ (at_ [(24, 8, 9)]).busySeq ≠ 0 ∧
    (at_ [(100, 1, 0xFF)]).phase = 0xFF ∧ (at_ [(39, 1, 1), (80, 8, 0xA00)]).hasT = true ∧
    ((s (at_ [(39, 1, 1), (80, 8, 0xA00)])).readBytes (at_ [(39, 1, 1), (80, 8, 0xA00)]).workT.range.1 (at_ [(39, 1, 1), (80, 8, 0xA00)]).workT.range.2).toOption.isSome = true) := by
  decide +kernel
theorem wit_shardServe : (let s := openWindow (put 0x800 peerShard.raw)
    s.alive = true ∧ (s.readBytes 0x800 256).toOption = some peerShard.raw ∧ peerShard.addr = 0x800 ∧ peerShard.busySeq = 0 ∧ peerShard.phase ≠ 0xFF ∧ peerShard.version ≠ 6 ∧
    peerShard.version = 5 ∧ peerShard.hasT = false ∧ (s.readBytes peerShard.work.range.1 peerShard.work.range.2).toOption.isSome = true) := by decide +kernel

/-- The module in a state of its pair, items unacknowledged. -/
def twinAt (st : TwinState) (unacked : List MirrorWait := []) : State := { run0 with twin := { state := st, unacked := unacked, mirrorBase := slateBase / 4096 + 2 ^ 12, mirrorLog2 := 24 } }
/-- The partner's record, on its own feed or on this one. -/
def record1 (feed : Nat) (ok : Bool) : PairRecord :=
  { position := 1, owner := 0, base := 0, feedId := feed, sharedFeedOk := ok, hasJournal := true, journalLog2 := 24, mirrorLog2 := 24, rep := [], records := [], refused := false }
theorem wit_twinCtl : run0.answers = true ∧ (1 : Word).toNat % 8 = 1 ∧ run0.twin.state = .solo ∧ run0.lnk.position < 16384 ∧ (run0.setTwinCtl 1).twin.fillTarget = false ∧
    ({ run0 with lnk := { position := 16384 } } : State).answers = true ∧ (twinAt .paired).answers = true ∧ (twinAt .paired).twin.state ≠ .solo ∧
    (twinAt .paired).isPaired = true ∧ (twinAt .filling).hasPartner = true ∧ (1 : Word).toNat.testBit 0 = true := by decide +kernel
theorem wit_pairing : (twinAt .pairing).alive = true ∧ (twinAt .pairing).twin.state = .pairing ∧ pairFinding (twinAt .pairing) (record1 7 false) = none ∧
    twinOf (twinAt .pairing).lnk.position ≠ 3 ∧ (record1 7 false).position = twinOf (twinAt .pairing).lnk.position ∧ (record1 (twinAt .pairing).twin.ownFeed false).sharedFeedOk = false ∧
    (twinAt .pairing).lnk.position < 16384 ∧ (twinAt .paired).alive = true ∧ (twinAt .paired [.notice 3 1]).alive = true ∧ (twinAt .paired [.notice 3 1]).hasPartner = true ∧
    (twinAt .paired [.notice 3 1]).twin.unacked ≠ [] := by decide +kernel
/-- A survivor that fills a spare with block 7 and record 2; a spare. -/
def fillingState (left : List Nat) (recs : List (Nat × Bytes)) (sync : Bool) : State :=
  { run0 with twin := { state := .filling, unacked := [], fillLeft := left, fillRecs := recs, fillSync := sync } }
theorem wit_filling : (twinAt .shared [.notice 3 1]).alive = true ∧ (twinAt .shared [.notice 3 1]).per.linkUp = true ∧ (twinAt .shared [.notice 3 1]).twinned = true ∧
    (twinAt .shared [.notice 3 1]).twin.state ≠ .filling ∧ (twinAt .filling [.fill]).alive = true ∧ (twinAt .filling [.fill]).twinned = true ∧
    (fillingState [7] [(2, [])] false).alive = true ∧ (fillingState [] [(2, [])] false).twin.fillRecs = [(2, [])] ∧ (fillingState [] [] false).twin.unacked.contains .fill = false ∧
    (twinAt .alone).answers = true ∧ (4 : Word).toNat % 8 = 4 ∧ (twinAt .alone).twin.state = .alone ∧ (fillingState [] [] true).answers = true ∧
    (5 : Word).toNat % 8 = 5 ∧ (fillingState [] [] true).twin.fillSync = true ∧ (twinAt .fillTarget).answers = true ∧ (twinAt .fillTarget).twin.state = .fillTarget ∧
    run0.mayJoin = false ∧ (twinAt .fillTarget).alive = true ∧ (twinAt .fillTarget).mappedRange 0x100000 4 = true ∧ (twinAt .fillTarget).mem.wf = true := by decide +kernel

/-- Greyline at a level, a nonce outstanding, debug key 1 the neutral point's. -/
def greyAt (l : Level) : State := { run0 with grey := { level := l, nonce := some [5] }, boot := { running with debugKeys := [natBytes 32 0, natBytes 32 1] } }
theorem wit_grey : (greyAt .locked).power = .on ∧ (greyAt .locked).grey.backingOff = false ∧ ({ backingOff := true } : Grey).backingOff = true ∧
    (greyAt .locked).grey.nonce = some [5] ∧ (greyAt .locked).boot.debugKeys[1]? = some (natBytes 32 1) ∧ (greyAt .operate).grey.level ≠ .locked ∧
    pageExists (0x110 / 4096) = true ∧ (∀ e ∈ ({ greyAt .debug with queues := [] } : State).queues, e.2.state = .disabled) ∧ (greyAt .debug).twin.state = .solo ∧
    (greyAt .debug).queues.any (fun e => decide (e.2.state ≠ .disabled)) = true := by decide +kernel
theorem wit_unlock : edVerify (natBytes 32 1) ([5] ++ (greyAt .locked).boot.idKey ++ natBytes 1 1) (natBytes 32 1 ++ natBytes 32 0) = true ∧
    edVerify (natBytes 32 1) ([5] ++ (greyAt .locked).boot.idKey ++ natBytes 1 1) (natBytes 64 0) = false := by decide +kernel

/-! ### Commands that do not exist -/

theorem test_wf_queue : (Instr.fence (2 ^ 18) 1).wf = false ∧ (Instr.descFetchReturn (2 ^ 18) .error).wf = false ∧ (Instr.fence (2 ^ 18 - 1) 1).wf = true := by decide
theorem test_wf_number : (Instr.fence 3 0).wf = false ∧ (Instr.fence 3 (2 ^ 48)).wf = false ∧ (Instr.fence 3 (2 ^ 48 - 1)).wf = true := by decide
theorem test_wf_ring : (Instr.attnFwd 3 1 [[[0]]]).wf = false ∧ (Instr.run 3 1 { ring := [[[0], [1]]] }).wf = true := by decide
theorem test_wf_u64 : (Instr.shardFetch 3 1 (.mismatch (2 ^ 64))).wf = false ∧ (Instr.wpDigestReceive 3 1 [2 ^ 64] []).wf = false ∧
    (Instr.whitepointVerify 3 1 [(2 ^ 64, 0)]).wf = false ∧ (Instr.collRestartReceive 4096 0).wf = false ∧ (Instr.shardFetch 3 1 .silent).wf = true := by decide
theorem test_wf_collective : (Instr.collSignatureReceive 3 1 [0]).wf = false ∧ (Instr.collReportReceive 3 1 16384).wf = false ∧ (Instr.collReportReceive 3 1 16383).wf = true ∧
    (Instr.collPeerTimeout 3 1 (2 ^ 16)).wf = false ∧ (Instr.hqWaiterServed 1024).wf = false := by decide
theorem test_wf_aperture : (Instr.registerWrite .window (2 ^ 25) 8 { value := 0 }).wf = false ∧ (Instr.registerWrite .window 0 0 { value := 0 }).wf = false ∧ (Instr.registerWrite .window 0 65 { value := 0 }).wf = false ∧
    (Instr.greylineRd 0 256).wf = false ∧ (Instr.registerWrite .window (2 ^ 25 - 8) 8 { value := 0 }).wf = true := by decide
theorem test_wf_window : (Instr.windowRead false (2 ^ 41) 1).wf = false ∧ (Instr.windowRead false 0 0).wf = false ∧ (Instr.windowWrite 0 []).wf = false ∧
    (Instr.windowRead true 0 8).wf = true ∧ (Instr.windowWrite (2 ^ 41 - 1) [0]).wf = true := by decide
theorem test_wf_memory : (Instr.ivoryRequest ⟨0, .walker, 1⟩ true 0 2 [0] .none).wf = false ∧ (Instr.umberRequest false 0 2 [0] {}).wf = false ∧ (Instr.umberRequest false (2 ^ 48) 1 [] {}).wf = false ∧
    (Instr.slateRequest 3 1 false 0 0 []).wf = false ∧ (Instr.ivoryRequest ⟨0, .walker, 1⟩ true 0 1 [0] .none).wf = true := by decide
theorem test_wf_patrol : (Instr.umberPatrolStep 0 (2 ^ 24) 0 .clean).wf = false ∧ (Instr.umberPatrolStep 0 0 64 .clean).wf = false ∧ (Instr.ivoryPatrolStep 8 .none).wf = false ∧
    (Instr.ivoryPatrolStep (2 ^ 48) .none).wf = false ∧ (Instr.umberPatrolStep 0 (2 ^ 24 - 1) 63 .clean).wf = true := by decide
theorem test_wf_page : (Instr.evClear 9).wf = false ∧ (Instr.evClear 0x10C).wf = false ∧ (Instr.evClear 0x913).wf = false ∧ (Instr.evClear 0xA18).wf = true := by decide
theorem test_wf_links : (Instr.flitReceive 0 [] { bad := 0 }).wf = false ∧ (Instr.linkTrained 0 (2 ^ 16) 0).wf = false ∧ (Instr.linkTrained 0 0 24).wf = false ∧
    (Instr.peerReadArrive (2 ^ 16) 0 1).wf = false ∧ (Instr.peerRefusalReceive 3 1 true 0 (2 ^ 48)).wf = false ∧ (Instr.shardFetchServe 0 (2 ^ 48) 0).wf = false ∧
    (Instr.linkTrained 0 0xFFFF 23).wf = true := by decide
theorem test_wf_outside : (Instr.i2cWrite 256 []).wf = false ∧ (Instr.i2cWrite 0 (List.replicate 17 0)).wf = false ∧ (Instr.greylineChal []).wf = false ∧ (Instr.greylineUnlock 0 []).wf = false ∧
    (Instr.greylineChal (List.replicate 32 0)).wf = true := by decide

/-! ### The spec's worked examples -/

/-- "The nine ASCII bytes 123456789 give 0xE306_9283" (chapter 9), and 0x6C40_DF5F_0B49_7347 (chapter 14). -/
theorem test_crcs : crc32c [0x31, 0x32, 0x33, 0x34, 0x35, 0x36, 0x37, 0x38, 0x39] = 0xE3069283 ∧
    crc64 [0x31, 0x32, 0x33, 0x34, 0x35, 0x36, 0x37, 0x38, 0x39] = 0x6C40DF5F0B497347 := by decide +kernel
/-- Chapter 2, "one block quantised two ways": 3.0, 1.234, −0.7 and 0.01 in FP32. -/
theorem test_block : encBlock .sb8i (fun _ => .rne) ([0x40400000, 0x3F9DF3B6, 0xBF333333, 0x3C23D70A].map (decElem .fp32)) = ⟨0x7A, [0x60, 0x27, 0xEA, 0x00], 0⟩ ∧
    encBlock .sb8e (fun _ => .rne) ([0x40400000, 0x3F9DF3B6, 0xBF333333, 0x3C23D70A].map (decElem .fp32)) = ⟨0x78, [0x7C, 0x72, 0xEB, 0x3A], 0⟩ := by decide +kernel
/-- Chapter 2, "0.3 to BF16". -/
theorem test_bf16 : (encElem .bf16 .rne (decElem .fp32 0x3E99999A)).code = 0x3E9A ∧ (encElem .bf16 (.sr 0x40000000) (decElem .fp32 0x3E99999A)).code = 0x3E99 ∧
    (encElem .bf16 (.sr 0x70000000) (decElem .fp32 0x3E99999A)).code = 0x3E9A := by decide +kernel
/-- Chapter 3, "a tile repeated twice": 18,750 and 11,875 round to 18,752 and 11,872 in FP16. -/
theorem test_fp16 : encElem .fp16 .rne (nNat 18750) = encElem .fp16 .rne (nNat 18752) ∧ encElem .fp16 .rne (nNat 11875) = encElem .fp16 .rne (nNat 11872) := by decide +kernel
/-- Chapter 17, "finding two errors": the registers seen after an expander failure of region 2 and the failure of T6. -/
theorem test_two_errors : ∃ s : State, s = (run0.record (pgRegion 2 + 10) .contained 0x01003A407000).recordUp (pgTower 6) .corrected 0 ∧
    s.regRead .window 0x100 = 0x204 ∧ s.regRead .window 0x120 = 0x400 ∧ s.regRead .window 0x30A000 % 2 ^ 32 = 0x0602000A ∧ s.regRead .window 0x30A028 = 2 ∧
    s.regRead .window 0x30A040 = 0x010001003A407000 ∧ s.regRead .window 0x158 = 0x81 ∧ s.regRead .window 0x900028 = 0x8000000000000000 ∧
    s.regRead .window 0x900040 = 0x3F00000000907000 ∧ s.regRead .window 0x907028 = 1 := ⟨_, rfl, by decide +kernel⟩

/-- The costs of the function table (R119), in quarters of a cycle, FP32; and two that "Rates" gives for FP64 (R121). -/
theorem test_func_costs : ([0x00, 0x01, 0x02, 0x03, 0x04, 0x05, 0x06, 0x80, 0x81, 0x82, 0x83, 0x84, 0x85, 0x86].map (fun f => PIns.cost .fp32 [] ⟨0x0B, 16, 0, 0, f, 0⟩ / 4))
    = [0, 1, 12, 8, 11, 10, 4, 1, 1, 20, 16, 14, 12, 6] ∧ PIns.cost .fp64 [] ⟨0x0B, 16, 0, 0, 0x02, 0⟩ = 4 * 32 ∧ PIns.cost .fp64 [] ⟨0x0B, 16, 0, 0, 0x05, 0⟩ = 4 * 36 := by decide

end Sys2Proof.Tests
end

section
/-! PROOFS. What every step keeps, and the answers of a step: the scope of the model. -/

open Sys2Proof Sys2Proof.Machine

namespace Sys2Proof.Machine

theorem Keeps.ite {s t u : State} {p : Prop} [Decidable p] (ht : Keeps s t) (hu : Keeps s u) : Keeps s (if p then t else u) := by
  split
  · exact ht
  · exact hu

/-- Every command answers a next state, and that state keeps the waiting commands, the part, the fuses and a canonical memory: each arm by
the law of the function that gives the command its meaning. -/
theorem exec_keeps (i : Instr) (s : State) : ∃ t, exec i s = .next t ∧ Keeps s t := by
  have k := Keeps.refl s
  cases i with
  | copy q n => exact ⟨_, rfl, runRow_keeps (ho := moveOp_keeps) (hk := k) ..⟩
  | copyInline q n => exact ⟨_, rfl, runRow_keeps (ho := copyInlineOp_keeps) (hk := k) ..⟩
  | gather q n => exact ⟨_, rfl, runRow_keeps (ho := moveOp_keeps) (hk := k) ..⟩
  | scatter q n => exact ⟨_, rfl, runRow_keeps (ho := moveOp_keeps) (hk := k) ..⟩
  | stream q n turn => exact ⟨_, rfl, streamRow_keeps (hk := k) ..⟩
  | hqOpen q n => exact ⟨_, rfl, runRow_keeps (ho := hqOp_keeps) (hk := k) ..⟩
  | hqClose q n => exact ⟨_, rfl, runRow_keeps (ho := hqOp_keeps) (hk := k) ..⟩
  | hqStatus q n => exact ⟨_, rfl, runRow_keeps (ho := hqOp_keeps) (hk := k) ..⟩
  | trackOpen q n => exact ⟨_, rfl, runRow_keeps (ho := trackOp_keeps) (hk := k) ..⟩
  | trackWriteback q n => exact ⟨_, rfl, runRow_keeps (ho := writebackOp_keeps) (hk := k) ..⟩
  | trackClose q n => exact ⟨_, rfl, runRow_keeps (ho := trackOp_keeps) (hk := k) ..⟩
  | trackStatus q n => exact ⟨_, rfl, runRow_keeps (ho := trackOp_keeps) (hk := k) ..⟩
  | trackClean q n => exact ⟨_, rfl, runRow_keeps (ho := trackOp_keeps) (hk := k) ..⟩
  | gemm q n => exact ⟨_, rfl, runRow_keeps (ho := matrixOp_keeps) (hk := k) ..⟩
  | gemmF64x q n => exact ⟨_, rfl, runRow_keeps (ho := matrixOp_keeps) (hk := k) ..⟩
  | thinGemm q n => exact ⟨_, rfl, runRow_keeps (ho := matrixOp_keeps) (hk := k) ..⟩
  | elementwise q n => exact ⟨_, rfl, runRow_keeps (ho := vectorOp_keeps) (hk := k) ..⟩
  | reduce q n => exact ⟨_, rfl, runRow_keeps (ho := vectorOp_keeps) (hk := k) ..⟩
  | softmax q n => exact ⟨_, rfl, runRow_keeps (ho := vectorOp_keeps) (hk := k) ..⟩
  | softmaxBwd q n => exact ⟨_, rfl, runRow_keeps (ho := vectorOp_keeps) (hk := k) ..⟩
  | compact q n => exact ⟨_, rfl, runRow_keeps (ho := vectorOp_keeps) (hk := k) ..⟩
  | expand q n => exact ⟨_, rfl, runRow_keeps (ho := vectorOp_keeps) (hk := k) ..⟩
  | attnFwd q n ring => exact ⟨_, rfl, runRow_keeps (ho := attnOp_keeps ring) (hk := k) ..⟩
  | attnBwd q n => exact ⟨_, rfl, runRow_keeps (ho := attnOp_keeps []) (hk := k) ..⟩
  | kvAppend q n => exact ⟨_, rfl, runRow_keeps (ho := kvAppendOp_keeps) (hk := k) ..⟩
  | bucketSort q n => exact ⟨_, rfl, runRow_keeps (ho := bucketSortOp_keeps) (hk := k) ..⟩
  | kvTruncate q n => exact ⟨_, rfl, runRow_keeps (ho := kvTruncateOp_keeps) (hk := k) ..⟩
  | kvPoolInit q n => exact ⟨_, rfl, runRow_keeps (ho := kvPoolOp_keeps) (hk := k) ..⟩
  | kvPoolGrow q n => exact ⟨_, rfl, runRow_keeps (ho := kvPoolOp_keeps) (hk := k) ..⟩
  | kvPoolStatus q n => exact ⟨_, rfl, runRow_keeps (ho := kvPoolOp_keeps) (hk := k) ..⟩
  | kvPoolRetire q n => exact ⟨_, rfl, runRow_keeps (ho := kvPoolOp_keeps) (hk := k) ..⟩
  | stackOpen q n => exact ⟨_, rfl, runRow_keeps (ho := stackOpenOp_keeps) (hk := k) ..⟩
  | stackClose q n =>
    refine ⟨_, rfl, ?_⟩
    split
    · exact k
    · exact .ite k (runRow_keeps (ho := stackOpenOp_keeps) (hk := k) ..)
  | stackMarkPlace q n => exact ⟨_, rfl, runRow_keeps (ho := stackMarkOp_keeps) (hk := k) ..⟩
  | stackMarkPop q n => exact ⟨_, rfl, runRow_keeps (ho := stackMarkOp_keeps) (hk := k) ..⟩
  | stackMarkCut q n =>
    refine ⟨_, rfl, ?_⟩
    split
    · exact k
    · exact .ite k (runRow_keeps (ho := stackMarkOp_keeps) (hk := k) ..)
  | stackMarkCutAll q n =>
    refine ⟨_, rfl, ?_⟩
    split
    · exact k
    · exact .ite k (runRow_keeps (ho := stackMarkOp_keeps) (hk := k) ..)
  | stackPush q n => exact ⟨_, rfl, runRow_keeps (ho := stackPushOp_keeps) (hk := k) ..⟩
  | stackPop q n => exact ⟨_, rfl, runRow_keeps (ho := stackPopOp_keeps) (hk := k) ..⟩
  | gradQuant q n => exact ⟨_, rfl, runRow_keeps (ho := gradQuantOp_keeps) (hk := k) ..⟩
  | optUpdate q n => exact ⟨_, rfl, runRow_keeps (ho := optUpdateOp_keeps) (hk := k) ..⟩
  | shardInit q n => exact ⟨_, rfl, runRow_keeps (ho := shardInitOp_keeps) (hk := k) ..⟩
  | shardCheck q n => exact ⟨_, rfl, runRow_keeps (ho := shardCheckOp_keeps) (hk := k) ..⟩
  | shardFetch q n answer => exact ⟨_, rfl, runRow_keeps (ho := shardFetchOp_keeps answer) (hk := k) ..⟩
  | shardExport q n => exact ⟨_, rfl, runRow_keeps (ho := shardExportOp_keeps) (hk := k) ..⟩
  | shardStatus q n => exact ⟨_, rfl, runRow_keeps (ho := shardStatusOp_keeps) (hk := k) ..⟩
  | sepiaBuild q n => exact ⟨_, rfl, runRow_keeps (ho := buildOp_keeps) (hk := k) ..⟩
  | sepiaEncode q n => exact ⟨_, rfl, runRow_keeps (ho := encodeOp_keeps) (hk := k) ..⟩
  | tintEncode q n => exact ⟨_, rfl, runRow_keeps (ho := encodeOp_keeps) (hk := k) ..⟩
  | fence q n => exact ⟨_, rfl, runRow_keeps (ho := fenceOp_keeps) (hk := k) ..⟩
  | signal q n => exact ⟨_, rfl, runRow_keeps (ho := signalOp_keeps) (hk := k) ..⟩
  | wait q n => exact ⟨_, rfl, runRow_keeps (ho := waitOp_keeps) (hk := k) ..⟩
  | waitTimeout q n => exact ⟨_, rfl, waitTimeout_keeps (hk := k) ..⟩
  | whitepointTake q n stopCycles => exact ⟨_, rfl, whitepointTake_keeps (hk := k) ..⟩
  | whitepointVerify q n partnerLive => exact ⟨_, rfl, whitepointVerify_keeps (hk := k) ..⟩
  | wpBlockStream q n cycles => exact ⟨_, rfl, wpBlockStream_keeps (hk := k) ..⟩
  | wpDigestReceive q n versions digests => exact ⟨_, rfl, wpDigestReceive_keeps (hk := k) ..⟩
  | serviceSelfTest q n => exact ⟨_, rfl, testStart_keeps (hk := k) ..⟩
  | serviceCalibrate q n => exact ⟨_, rfl, testStart_keeps (hk := k) ..⟩
  | serviceAttest q n => exact ⟨_, rfl, runRow_keeps (ho := serviceOp_keeps) (hk := k) ..⟩
  | testEnd q n cells blocks duration => exact ⟨_, rfl, testEnd_keeps (hk := k) ..⟩
  | allreduce q n members => exact ⟨_, rfl, collRow_keeps (hk := k) ..⟩
  | reduceScatter q n members => exact ⟨_, rfl, collRow_keeps (hk := k) ..⟩
  | allgather q n members => exact ⟨_, rfl, collRow_keeps (hk := k) ..⟩
  | ringShift q n neighbour => exact ⟨_, rfl, collRow_keeps (hk := k) ..⟩
  | peerPut q n => exact ⟨_, rfl, runRow_keeps (ho := peerPutOp_keeps) (hk := k) ..⟩
  | collGroupCreate q n => exact ⟨_, rfl, runRow_keeps (ho := collGroupOp_keeps) (hk := k) ..⟩
  | collGroupDestroy q n => exact ⟨_, rfl, runRow_keeps (ho := collGroupOp_keeps) (hk := k) ..⟩
  | collSignatureReceive q n signature => exact ⟨_, rfl, signatureReceive_keeps (hk := k) ..⟩
  | collReportReceive q n rank => exact ⟨_, rfl, reportReceive_keeps (hk := k) ..⟩
  | collPeerTimeout q n position =>
    refine ⟨_, rfl, ?_⟩
    split
    · split
      · exact .ite (runSilent_keeps (hk := k) ..) k
      · exact k
    · exact .ite (endSilent_keeps (hk := k) ..) k
  | collRestartReceive group number => exact ⟨_, rfl, restartReceive_keeps (hk := k) ..⟩
  | halt q n => exact ⟨_, rfl, insRow_keeps (hf := fun _ _ _ _ => insHalt_keeps _ _ _ _) (hk := k) ..⟩
  | setp q n => exact ⟨_, rfl, insRow_keeps (hf := fun _ _ _ _ => insSetp_keeps _ _ _ _) (hk := k) ..⟩
  | addp q n => exact ⟨_, rfl, insRow_keeps (hf := fun _ _ _ _ => insAddp_keeps _ _ _ _) (hk := k) ..⟩
  | loop q n => exact ⟨_, rfl, insRow_keeps (hf := fun _ _ _ _ => insLoop_keeps _ _ _ _) (hk := k) ..⟩
  | endl q n => exact ⟨_, rfl, insRow_keeps (hf := fun _ _ _ _ => insEndl_keeps _ _ _ _) (hk := k) ..⟩
  | move q n => exact ⟨_, rfl, insRow_keeps (hf := fun _ _ _ _ => insMove_keeps _ _ _ _) (hk := k) ..⟩
  | conv q n => exact ⟨_, rfl, insRow_keeps (hf := fun _ _ _ _ => insConv_keeps _ _ _ _) (hk := k) ..⟩
  | gath q n => exact ⟨_, rfl, insRow_keeps (hf := fun _ _ _ _ => insGath_keeps _ _ _ _) (hk := k) ..⟩
  | scat q n => exact ⟨_, rfl, insRow_keeps (hf := fun _ _ _ _ => insScat_keeps _ _ _ _) (hk := k) ..⟩
  | skipz q n => exact ⟨_, rfl, insRow_keeps (hf := fun _ _ _ _ => insSkipz_keeps _ _ _ _) (hk := k) ..⟩
  | take q n => exact ⟨_, rfl, insRow_keeps (hf := fun _ _ _ _ => insTake_keeps _ _ _ _) (hk := k) ..⟩
  | give q n => exact ⟨_, rfl, insRow_keeps (hf := fun _ _ _ _ => insGive_keeps _ _ _ _) (hk := k) ..⟩
  | givei q n => exact ⟨_, rfl, insRow_keeps (hf := fun _ _ _ _ => insGivei_keeps _ _ _ _) (hk := k) ..⟩
  | hqWaiterServed hq => exact ⟨_, rfl, .ite (hqServe_keeps (hk := k) ..) k⟩
  | streamFence q n => exact ⟨_, rfl, insRow_keeps (hf := fun _ _ _ _ => insFence_keeps _ _ _ _) (hk := k) ..⟩
  | run q n turn => exact ⟨_, rfl, insRow_keeps (hf := fun _ _ _ _ => insRun_keeps _ _ _ _ _ _) (hk := k) ..⟩
  | idxp q n => exact ⟨_, rfl, insRow_keeps (hf := fun _ _ _ _ => insIdxp_keeps _ _ _ _) (hk := k) ..⟩
  | streamMoveDone command mover => exact ⟨_, rfl, moveDone_keeps (hk := k) ..⟩
  | doorbellTail offset size value reserved queue => exact ⟨_, rfl, doorbellTail_keeps (hk := k) ..⟩
  | doorbellConsumed offset size value reserved queue => exact ⟨_, rfl, doorbellConsumed_keeps (hk := k) ..⟩
  | descFetch => exact ⟨_, rfl, descFetch_keeps (hk := k) ..⟩
  | descFetchReturn q read => exact ⟨_, rfl, descFetchReturn_keeps (hk := k) ..⟩
  | descRefetch q => exact ⟨_, rfl, descRefetch_keeps (hk := k) ..⟩
  | commandAccept q => exact ⟨_, rfl, commandAccept_keeps (hk := k) ..⟩
  | commandDispatch q n region rise => exact ⟨_, rfl, State.settleReplay_keeps (hk := State.releaseHeld_keeps (hk := commandDispatch_keeps (hk := k) ..) ..) ..⟩
  | commitPoint q n => exact ⟨_, rfl, commitPoint_keeps (hk := k) ..⟩
  | commandComplete q n => exact ⟨_, rfl, commandComplete_keeps (hk := k) ..⟩
  | completionRecordWrite q => exact ⟨_, rfl, completionRecordWrite_keeps (hk := k) ..⟩
  | consumedRecordWrite q => exact ⟨_, rfl, consumedRecordWrite_keeps (hk := k) ..⟩
  | queueEnable path => exact ⟨_, rfl, queueEnable_keeps (hk := k) ..⟩
  | queueDisable path => exact ⟨_, rfl, queueDisable_keeps (hk := k) ..⟩
  | queueAbort path => exact ⟨_, rfl, queueAbort_keeps (hk := k) ..⟩
  | qctxDataWrite path value => exact ⟨_, rfl, qctxDataWrite_keeps (hk := k) ..⟩
  | journalScan => exact ⟨_, rfl, journalScan_keeps (hk := k) ..⟩
  | replayGo => exact ⟨_, rfl, replayGo_keeps (hk := k) ..⟩
  | pathFenceLink => exact ⟨_, rfl, pathFenceLink_keeps (hk := k) ..⟩
  | pathFenceWindow => exact ⟨_, rfl, pathFenceWindow_keeps (hk := k) ..⟩
  | pathFencePeer => exact ⟨_, rfl, pathFencePeer_keeps (hk := k) ..⟩
  | peerFenceTimeout => exact ⟨_, rfl, peerFenceTimeout_keeps (hk := k) ..⟩
  | windowRead registers offset length => exact ⟨_, rfl, windowRead_keeps (hk := k) ..⟩
  | windowWrite addr bytes => exact ⟨_, rfl, windowWrite_keeps (hk := k) ..⟩
  | ivoryRequest port write addr length bytes error => exact ⟨_, rfl, ivoryRequest_keeps (hk := k) ..⟩
  | umberRequest write addr length bytes turn => exact ⟨_, rfl, umberRequest_keeps (hk := k) ..⟩
  | towerSelfRefreshEntry tower => exact ⟨_, rfl, .ite (State.putTower_keeps (hk := k) ..) k⟩
  | slateRequest q n write addr length bytes => exact ⟨_, rfl, slateRequest_keeps (hk := k) ..⟩
  | slateResponse id answer => exact ⟨_, rfl, slateResponse_keeps (hk := k) ..⟩
  | slateTimeout id => exact ⟨_, rfl, slateTimeout_keeps (hk := k) ..⟩
  | towerCtlFlush value => exact ⟨_, rfl, .ite (towerCtl_keeps (hk := k) ..) k⟩
  | segDataWrite value => exact ⟨_, rfl, .ite (segData_keeps (hk := k) ..) k⟩
  | towerFailWrite value => exact ⟨_, rfl, .ite (towerFail_keeps (hk := k) ..) k⟩
  | towerRequestTimeout tower =>
    exact ⟨_, rfl, .ite k (.ite (State.towerFound_keeps (hk := State.putTower_keeps (hk := k) ..) ..) (State.putTower_keeps (hk := k) ..))⟩
  | towerFailDetect tower => exact ⟨_, rfl, towerFailDetect_keeps (hk := k) ..⟩
  | spareWakeDone => exact ⟨_, rfl, .ite (State.modTow_keeps (hk := State.putTower_keeps (hk := State.flushParity_keeps (hk := k) ..) ..) ..) k⟩
  | rebuildStripe => exact ⟨_, rfl, rebuildStripe_keeps (hk := k) ..⟩
  | lostStripeRecompute => exact ⟨_, rfl, lostStripe_keeps (hk := k) ..⟩
  | resyncStripe => exact ⟨_, rfl, resyncStripe_keeps (hk := k) ..⟩
  | umberPatrolStep tower stripe granule finding => exact ⟨_, rfl, umberPatrol_keeps (hk := k) ..⟩
  | ivoryPatrolStep addr error => exact ⟨_, rfl, ivoryPatrol_keeps (hk := k) ..⟩
  | ivoryBankFail region bank => exact ⟨_, rfl, .ite (State.fenceBank_keeps (hk := k) ..) k⟩
  | refreshDue tower => exact ⟨_, rfl, refreshDue_keeps (hk := k) ..⟩
  | towerUnitEnd tower q n turn => exact ⟨_, rfl, towerUnitEnd_keeps (hk := k) ..⟩
  | towerAttnBlockEnd tower command turn => exact ⟨_, rfl, towerAttnBlockEnd_keeps (hk := k) ..⟩
  | overflowFlagReceive tower q n tile flag => exact ⟨_, rfl, overflowFlag_keeps (hk := k) ..⟩
  | arrayPassEnd region array q n boundary => exact ⟨_, rfl, .ite (thinPass_keeps (hk := k) ..) (arrayPass_keeps (hk := k) ..)⟩
  | arrayIdle region array => exact ⟨_, rfl, .ite (State.putRun_keeps (hk := k) ..) k⟩
  | expanderBlockDone region pair q n turn => exact ⟨_, rfl, expanderBlock_keeps (hk := k) ..⟩
  | vectorChunkEnd region engine q n boundary => exact ⟨_, rfl, vectorChunkEnd_keeps (hk := k) ..⟩
  | keyBlockEnd region q n boundary => exact ⟨_, rfl, keyBlockEnd_keeps (hk := k) ..⟩
  | copyPieceCommit mover q n boundary => exact ⟨_, rfl, pieceCommit_keeps (hk := k) ..⟩
  | encodeChunkCommit q n boundary =>
    refine ⟨_, rfl, ?_⟩
    split
    · exact k
    · exact State.putCmd_keeps (hk := Op.runOne_keeps (ho := encodeOp_keeps) (hk := k) ..) ..
  | collectivePieceCommit q n members boundary => exact ⟨_, rfl, collectivePiece_keeps (hk := k) ..⟩
  | arbPromote port path => exact ⟨_, rfl, arbPromote_keeps (hk := k) ..⟩
  | cellFail cell => exact ⟨_, rfl, .ite (State.cellFails_keeps (hk := k) ..) k⟩
  | blockFail block => exact ⟨_, rfl, .ite (State.blockFails_keeps (hk := k) ..) k⟩
  | regionFail region => exact ⟨_, rfl, .ite (State.regionFault_keeps (hk := k) ..) k⟩
  | errorIrqRepeat => exact ⟨_, rfl, .ite (.mkSame (State.send_keeps (hk := k) ..)) k⟩
  | errStsClear page value hwSet => exact ⟨_, rfl, errStsClear_keeps (hk := k) ..⟩
  | errInject page value => exact ⟨_, rfl, errInject_keeps (hk := k) ..⟩
  | evClear page => exact ⟨_, rfl, .ite (State.modPage_keeps (hk := k) ..) k⟩
  | evFreeze page on => exact ⟨_, rfl, .ite (State.modPage_keeps (hk := k) ..) k⟩
  | pageDrain page => exact ⟨_, rfl, .ite (State.pageDrain_keeps (hk := k) ..) k⟩
  | pageAbort page => exact ⟨_, rfl, .ite (State.pageAbort_keeps (hk := k) ..) k⟩
  | pageEnable page => exact ⟨_, rfl, .ite (State.pageEnable_keeps (hk := k) ..) k⟩
  | pageDrained page => exact ⟨_, rfl, .ite (pageDrainedRow_keeps (hk := k) ..) k⟩
  | pageAdmitDone page => exact ⟨_, rfl, .ite (State.pageAdmitDone_keeps (hk := k) ..) k⟩
  | regionGateWrite value => exact ⟨_, rfl, .ite (State.gateRegions_keeps (hk := k) ..) k⟩
  | govPowerTick pin vin iin belowFor1ms => exact ⟨_, rfl, govPowerTick_keeps (hk := k) ..⟩
  | govThermalTick dieMax towerMax inlet outlet predict hotTowers belowFor10ms => exact ⟨_, rfl, govThermalTick_keeps (hk := k) ..⟩
  | flowEstimate watts rise => exact ⟨_, rfl, flowEstimate_keeps (hk := k) ..⟩
  | coolantWarn on => exact ⟨_, rfl, .ite (.mkSame k) k⟩
  | noticeHoldEnd => exact ⟨_, rfl, .ite (.mkSame k) k⟩
  | loadNoticeSettle => exact ⟨_, rfl, .ite (.mkSame k) k⟩
  | feedSample millivolts => exact ⟨_, rfl, feedSample_keeps (hk := k) ..⟩
  | feedLowEnter => exact ⟨_, rfl, setFeedLow_keeps (hk := k) ..⟩
  | feedLowExit => exact ⟨_, rfl, setFeedLow_keeps (hk := k) ..⟩
  | feedLoss => exact ⟨_, rfl, .ite (State.losePower_keeps (hk := k) ..) k⟩
  | feedLossShutdown => exact ⟨_, rfl, .ite (State.shutDown_keeps (hk := k) ..) k⟩
  | feedReturnColdReset post => exact ⟨_, rfl, .ite (State.coldStart_keeps (hk := k) ..) k⟩
  | thermalTrip sensor celsius => exact ⟨_, rfl, thermalTrip_keeps (hk := k) ..⟩
  | thermalResetRelease hottest post => exact ⟨_, rfl, .ite (State.coldStart_keeps (hk := k) ..) k⟩
  | i2cWrite index bytes => exact ⟨_, rfl, i2cWrite_keeps (hk := k) ..⟩
  | regionReset cause key regions => exact ⟨_, rfl, regionReset_keeps (hk := k) ..⟩
  | workReset cause key => exact ⟨_, rfl, workReset_keeps (hk := k) ..⟩
  | workResetForced =>
    refine ⟨_, rfl, ?_⟩
    split
    · exact .ite (State.finishWork_keeps (hk := k) ..) k
    · exact k
  | coldReset cause key post => exact ⟨_, rfl, coldReset_keeps (hk := k) ..⟩
  | purge cause key post => exact ⟨_, rfl, purge_keeps (hk := k) ..⟩
  | bootLock value => exact ⟨_, rfl, bootLock_keeps (hk := k) ..⟩
  | fwStage => exact ⟨_, rfl, fwStage_keeps (hk := k) ..⟩
  | fwStageDone flashOk => exact ⟨_, rfl, fwStageDone_keeps (hk := k) ..⟩
  | fwActivate => exact ⟨_, rfl, fwActivate_keeps (hk := k) ..⟩
  | fwCommitSvn => exact ⟨_, rfl, fwCommitSvn_keeps (hk := k) ..⟩
  | linkLaneTrim link lane done late => exact ⟨_, rfl, laneTrim_keeps (hk := k) ..⟩
  | towerZqCal tower late => exact ⟨_, rfl, .ite k (.ite (State.raiseBlockBit_keeps (hk := k) ..) k)⟩
  | towerTimingTrim tower done late => exact ⟨_, rfl, towerTrim_keeps (hk := k) ..⟩
  | flitReceive link bytes arrival => exact ⟨_, rfl, flitReceive_keeps (hk := k) ..⟩
  | nakReceive link seq => exact ⟨_, rfl, nakReceive_keeps (hk := k) ..⟩
  | linkSilence link => exact ⟨_, rfl, .ite (State.failLink_keeps (hk := k) ..) k⟩
  | laneFail link lane => exact ⟨_, rfl, .ite (State.laneFails_keeps (hk := k) ..) k⟩
  | spareLaneTrained link => exact ⟨_, rfl, spareTrained_keeps (hk := k) ..⟩
  | linkTrained link farPosition farLink => exact ⟨_, rfl, linkTrained_keeps (hk := k) ..⟩
  | linkTrainTimeout link => exact ⟨_, rfl, .ite (State.failLink_keeps (hk := k) ..) k⟩
  | linkCtlFail link => exact ⟨_, rfl, .ite (linkCtlFail_keeps (hk := k) ..) k⟩
  | linkCtlRecal link => exact ⟨_, rfl, .ite (linkCtlRecal_keeps (hk := k) ..) k⟩
  | linkCtlEnable link on => exact ⟨_, rfl, .ite (linkCtlEnable_keeps (hk := k) ..) k⟩
  | positionWrite value => exact ⟨_, rfl, .ite (positionWrite_keeps (hk := k) ..) k⟩
  | peerWriteArrive write => exact ⟨_, rfl, peerWrite_keeps (hk := k) ..⟩
  | peerReadArrive source addr length => exact ⟨_, rfl, peerRead_keeps (hk := k) ..⟩
  | peerRefusalReceive q n unmapped target addr => exact ⟨_, rfl, .ite k (refusalReceive_keeps (hk := k) ..)⟩
  | peerVisibilityAck target => exact ⟨_, rfl, visibilityAck_keeps (hk := k) ..⟩
  | twinPair value => exact ⟨_, rfl, twinRow_keeps (ha := fun t h => State.pair_keeps t h) (hk := k) ..⟩
  | pairingRecordReceive record => exact ⟨_, rfl, pairingRecord_keeps (hk := k) ..⟩
  | twinUnpair value => exact ⟨_, rfl, twinRow_keeps (ha := fun t h => State.goSolo_keeps _ (State.tellTwin_keeps (hk := h) ..)) (hk := k) ..⟩
  | unpairNoticeReceive => exact ⟨_, rfl, .ite (State.goSolo_keeps (hk := k) ..) k⟩
  | twinPartnerLost value => exact ⟨_, rfl, twinRow_keeps (ha := fun t h => State.goAlone_keeps t 3 h) (hk := k) ..⟩
  | twinFill value => exact ⟨_, rfl, twinRow_keeps (ha := fun t h => State.fill_keeps t h) (hk := k) ..⟩
  | fillBlockSend => exact ⟨_, rfl, fillBlockSend_keeps (hk := k) ..⟩
  | twinJoin value => exact ⟨_, rfl, twinRow_keeps (ha := fun t h => State.join_keeps t h) (hk := k) ..⟩
  | mirrorRecordReceive item => exact ⟨_, rfl, mirrorReceive_keeps (hk := k) ..⟩
  | twinAckReceive => exact ⟨_, rfl, twinAck_keeps (hk := k) ..⟩
  | twinAckTimeout noRoute => exact ⟨_, rfl, twinAckTimeout_keeps (hk := k) ..⟩
  | stopNoticeReceive => exact ⟨_, rfl, .ite (State.goAlone_keeps (hk := k) ..) k⟩
  | failEvent value => exact ⟨_, rfl, failEvent_keeps (hk := k) ..⟩
  | greylineChal nonce => exact ⟨_, rfl, greylineChal_keeps (hk := k) ..⟩
  | greylineUnlock key signature => exact ⟨_, rfl, greylineUnlock_keeps (hk := k) ..⟩
  | greylineLock =>
    exact ⟨_, rfl, State.greyAt_keeps (ha := fun t h => State.greyOk_keeps (hk := State.modGrey_keeps (hk := h) ..) ..) (hk := k) ..⟩
  | greylineBaud high =>
    exact ⟨_, rfl, State.greyAt_keeps (ha := fun t h => State.modGrey_keeps (hk := State.greyOk_keeps (hk := h) ..) ..) (hk := k) ..⟩
  | greylineBreak milliseconds => exact ⟨_, rfl, .ite (State.modGrey_keeps (hk := k) ..) k⟩
  | greylineIdleLock => exact ⟨_, rfl, .ite (State.modGrey_keeps (hk := k) ..) k⟩
  | greylineNonceExpiry => exact ⟨_, rfl, .ite (State.modGrey_keeps (hk := k) ..) k⟩
  | greylineBackoffEnd => exact ⟨_, rfl, .ite (State.modGrey_keeps (hk := k) ..) k⟩
  | greylineRd offset count => exact ⟨_, rfl, greylineRd_keeps (hk := k) ..⟩
  | greylineWr offset data =>
    exact ⟨_, rfl, State.greyAt_keeps (ha := fun t h => State.greyOk_keeps (hk := registerWrite_keeps (hk := h) ..) ..) (hk := k) ..⟩
  | greylinePages => exact ⟨_, rfl, State.greyAt_keeps (ha := fun t h => State.greyOk_keeps (hk := h) ..) (hk := k) ..⟩
  | greylineCnt offset => exact ⟨_, rfl, State.greyAt_keeps (ha := fun t h => State.greyReply_keeps (hk := h) ..) (hk := k) ..⟩
  | greylineDrain region =>
    exact ⟨_, rfl, State.greyAt_keeps (ha := fun t h => State.greyOk_keeps (hk := State.pageDrain_keeps (hk := h) ..) ..) (hk := k) ..⟩
  | greylineAbort region =>
    exact ⟨_, rfl, State.greyAt_keeps (ha := fun t h => State.greyOk_keeps (hk := State.pageAbort_keeps (hk := h) ..) ..) (hk := k) ..⟩
  | greylineAdmit region =>
    exact ⟨_, rfl, State.greyAt_keeps (ha := fun t h => State.greyOk_keeps (hk := State.pageEnable_keeps (hk := h) ..) ..) (hk := k) ..⟩
  | greylineReset kind regions post => exact ⟨_, rfl, State.greyAt_keeps (ha := fun t h => greyReset_keeps (hk := State.greyOk_keeps (hk := h) ..) ..) (hk := k) ..⟩
  | greylinePurge post => exact ⟨_, rfl, State.greyAt_keeps (ha := fun t h => purge_keeps (hk := State.greyOk_keeps (hk := h) ..) ..) (hk := k) ..⟩
  | greylineScan =>
    exact ⟨_, rfl, State.greyAt_keeps (ha := fun t h => .ite (State.greyOk_keeps (hk := .mkBoot h rfl rfl rfl rfl) ..) (State.greyErr_keeps (hk := h) ..)) (hk := k) ..⟩
  | registerWrite path offset size data => exact ⟨_, rfl, registerWrite_keeps (hk := k) ..⟩
  | pairingTimeout => exact ⟨_, rfl, .ite (State.refusePair_keeps (hk := k) ..) k⟩
  | fillBlockReceive item => exact ⟨_, rfl, fillReceive_keeps (hk := k) ..⟩
  | shardFetchServe source shardAddr want => exact ⟨_, rfl, shardFetchServe_keeps (hk := k) ..⟩
  | perastLinkDown => exact ⟨_, rfl, linkDown_keeps (hk := k) ..⟩
  | perastLinkUp => exact ⟨_, rfl, linkUp_keeps (hk := k) ..⟩
  | ivoryRingFault uncorrectable => exact ⟨_, rfl, .ite k (.ite (State.deviceStopAt_keeps (hk := k) ..) (State.record_keeps (hk := k) ..))⟩
  | towerFabricFault => exact ⟨_, rfl, .ite (State.deviceStopAt_keeps (hk := k) ..) k⟩

theorem step_nil {s : State} (h : s.pending = []) : step s = .next (idleStep s) := by unfold step; rw [h]

theorem step_cons {s : State} {c : Instr} {rest : List Instr} (h : s.pending = c :: rest) : step s = exec c { s with pending := rest } := by
  unfold step; rw [h]

/-- Every step answers a next state, which keeps what the rest of the queue's state holds. -/
theorem step_keeps (s : State) : ∃ t, step s = .next t ∧ Keeps { s with pending := s.pending.tail } t := by
  cases h : s.pending with
  | nil => exact ⟨_, step_nil h, idleStep_keeps s (.same (.refl _) h rfl rfl rfl)⟩
  | cons c rest => rw [step_cons h]; exact exec_keeps c _

theorem settleWork_idle {s : State} (h : s.boot.running = none) : s.settleWork = s := by unfold State.settleWork; rw [h]

end Sys2Proof.Machine

/-- Settles O1: the front command is the head of the queue that `step` matches on. -/
theorem stepRunsFrontCommand : Obligations.StepRunsFrontCommand := by
  unfold Obligations.StepRunsFrontCommand
  intro c rest s
  exact step_cons rfl

/-- Settles O6: the arms of `exec` and the idle quantum keep part, fuses and identity seed, and lower no SVN_MIN. -/
theorem stepKeepsFuses : Obligations.StepKeepsFuses := by
  unfold Obligations.StepKeepsFuses
  intro s t h
  obtain ⟨u, hu, -, part, debug, vendor, seed, svn, -⟩ := step_keeps s
  cases h.symm.trans hu
  exact ⟨part, debug, vendor, seed, svn⟩

/-- Settles O2: every step answers (`step_keeps`), and an idle quantum with no reset under way ticks the counters of pages alone. -/
theorem everyStepAnswersNextAndIdleKeepsState : Obligations.EveryStepAnswersNextAndIdleKeepsState := by
  unfold Obligations.EveryStepAnswersNextAndIdleKeepsState
  refine ⟨fun s => ?_, fun s hq hp => ?_, fun s hq hp hr => ?_⟩
  · obtain ⟨t, ht, -⟩ := step_keeps s
    exact ⟨t, ht⟩
  · rw [step_nil hq, idleStep, if_pos hp]
  · rw [step_nil hq, idleStep, if_neg (not_not_intro hp), settleWork_idle (by exact hr)]
    exact ⟨_, rfl, by rw [List.map_map]; rfl⟩

/-- Settles O4: at reset no memory list, queue or outbox has an entry. -/
theorem resetMemoryCanonical : Obligations.ResetMemoryCanonical := by
  unfold Obligations.ResetMemoryCanonical
  exact ⟨rfl, rfl, rfl, rfl, rfl⟩

/-- Settles O7: an unlisted queue, tower, segment or page reads as its family's default, which holds the tables' reset column. -/
theorem resetValues : Obligations.ResetValues := by
  unfold Obligations.ResetValues
  refine ⟨fun _ => ⟨rfl, rfl, rfl, rfl, rfl, rfl⟩, rfl, rfl, rfl, rfl, rfl, rfl, rfl, rfl, rfl, rfl, rfl, rfl, rfl, rfl, rfl, rfl, rfl, rfl, rfl, rfl,
    fun _ => rfl, fun _ => rfl, fun _ => rfl, rfl, rfl, rfl, rfl⟩

end

section
/-! PROOFS. Register writes (R13 to R16, R473 to R489): where an aligned write goes, what its register then reads, and the header's own commands. -/

open Sys2Proof Sys2Proof.Machine

namespace Sys2Proof.Machine

/-! ### Bit fields -/

theorem bitsOf_lt (v hi lo : Nat) : bitsOf v hi lo < 2 ^ (hi + 1 - lo) := Nat.mod_lt _ (Nat.two_pow_pos _)

/-- A field put back at its place is the value under the field's mask. -/
theorem bitsOf_mul_two_pow (v hi lo : Nat) : bitsOf v hi lo * 2 ^ lo = v &&& ((2 ^ (hi + 1 - lo) - 1) * 2 ^ lo) := by
  unfold bitsOf
  refine Nat.eq_of_testBit_eq (fun i => ?_)
  simp only [Nat.testBit_mul_two_pow, Nat.testBit_and, Nat.testBit_mod_two_pow, Nat.testBit_two_pow_sub_one, Nat.testBit_div_two_pow]
  by_cases h : lo ≤ i
  · simp [h, Nat.sub_add_cancel h, Bool.and_comm]
  · simp [h]

/-- A field at bit 0 is the value under the field's mask. -/
theorem bitsOf_zero (v hi : Nat) : bitsOf v hi 0 = v &&& (2 ^ (hi + 1) - 1) := by
  simpa using bitsOf_mul_two_pow v hi 0

theorem testBit_bit_mul (b : Bool) (k i : Nat) : (bit b * 2 ^ k).testBit i = (b && decide (k = i)) := by
  cases b
  · rw [show bit false = 0 from rfl, Nat.zero_mul, Nat.zero_testBit, Bool.false_and]
  · rw [show bit true = 1 from rfl, Nat.one_mul, Nat.testBit_two_pow, Bool.true_and]

/-- The bit of a value under a mask of one bit. -/
theorem and_one_bit (v k : Nat) : v &&& 2 ^ k = bit (v.testBit k) * 2 ^ k := by
  refine Nat.eq_of_testBit_eq (fun i => ?_)
  rw [Nat.testBit_and, Nat.testBit_two_pow, testBit_bit_mul]
  by_cases hi : k = i
  · rw [hi]
  · rw [decide_eq_false hi, Bool.and_false, Bool.and_false]

/-- A flag above a field that stays below it: the value under both masks. -/
theorem bit_add_bitsOf (v k hi : Nat) (h : hi < k) : bit (v.testBit k) * 2 ^ k + bitsOf v hi 0 = v &&& (2 ^ k ||| (2 ^ (hi + 1) - 1)) := by
  have lt : bitsOf v hi 0 < 2 ^ k := Nat.lt_of_lt_of_le (bitsOf_lt v hi 0) (Nat.pow_le_pow_right (by omega) (by omega))
  rw [Nat.and_or_distrib_left, ← bitsOf_zero, and_one_bit]
  cases v.testBit k
  · simp [bit]
  · simpa [bit] using Nat.two_pow_add_eq_or_of_lt lt 1

/-! ### Where a write of the register aperture goes -/

theorem granulesOf_one {a n : Nat} (hn : 0 < n) (h : a / 64 = (a + n - 1) / 64) : granulesOf a n = [a / 64 * 64] := by
  unfold granulesOf
  rw [if_neg (by omega), ← h, Nat.sub_self]
  rfl

/-- Nothing is unmapped in an aligned register of a page that exists. -/
theorem noteUnmapped_aligned (s : State) {off : Nat} (h8 : off % 8 = 0) (he : pageExists (off / 4096) = true) : s.noteUnmapped off 8 = s := by
  unfold State.noteUnmapped
  rw [granulesOf_one (by omega) (by omega), List.find?_singleton, show off / 64 * 64 / 4096 = off / 4096 by omega, he]
  simp

theorem registerWrite_answers (path : Path) (off size v : Nat) (hw : Word) {s : State} (ha : s.answers = true) :
    registerWrite path off size v hw s = (registerStore path off size v hw s).noteUnmapped off size := by
  unfold registerWrite
  rw [ha]
  rfl

theorem registerStore_header (path : Path) {off : Nat} (v : Nat) (hw : Word) (s : State) (h8 : off % 8 = 0) (hd : isDoorbell off = false)
    (he : pageExists (off / 4096) = true) (ho : off % 4096 < 0x100) :
    registerStore path off 8 v hw s = s.headerWrite (off / 4096) (off % 4096) v hw := by
  unfold registerStore
  rw [hd, he, if_neg (by simp), if_neg (by simp), if_neg (by omega), if_pos ho]

theorem registerStore_block (path : Path) {off : Nat} (v : Nat) (hw : Word) (s : State) (h8 : off % 8 = 0) (hd : isDoorbell off = false)
    (he : pageExists (off / 4096) = true) (ho : 0x100 ≤ off % 4096) :
    registerStore path off 8 v hw s = s.blockWrite path (off / 4096) (off % 4096) v hw := by
  unfold registerStore
  rw [hd, he, if_neg (by simp), if_neg (by simp), if_neg (by omega), if_neg (by omega)]

/-- An aligned write of a block-specific register of a page that exists. -/
theorem exec_registerWrite_block (path : Path) {off : Nat} (v hw : Word) {s : State} (ha : s.answers = true) (h8 : off % 8 = 0)
    (hd : isDoorbell off = false) (he : pageExists (off / 4096) = true) (ho : 0x100 ≤ off % 4096) :
    exec (.registerWrite path off 8 ⟨v, hw⟩) s = .next (s.blockWrite path (off / 4096) (off % 4096) v.toNat hw) := by
  show Host.Outcome.next (registerWrite path off 8 v.toNat hw s) = _
  rw [registerWrite_answers _ _ _ _ _ ha, noteUnmapped_aligned _ h8 he, registerStore_block _ _ _ _ h8 hd he ho]

theorem pageExists_lt {p : Nat} (h : pageExists p = true) : p < 0x1000 := by
  simp only [pageExists, Bool.or_eq_true, Bool.and_eq_true, decide_eq_true_eq] at h
  omega

theorem isDoorbell_page {p o : Nat} (h : pageExists p = true) (ho : o < 4096) : isDoorbell (p * 4096 + o) = false := by
  have := pageExists_lt h
  simp only [isDoorbell, Bool.and_eq_false_iff, decide_eq_false_iff_not]
  omega

/-- An aligned write of a header register of a page that exists. -/
theorem exec_registerWrite_header (path : Path) {p o : Nat} (v hw : Word) {s : State} (ha : s.answers = true) (he : pageExists p = true)
    (ho : o < 0x100) (h8 : o % 8 = 0) : exec (.registerWrite path (p * 4096 + o) 8 ⟨v, hw⟩) s = .next (s.headerWrite p o v.toNat hw) := by
  have hp : (p * 4096 + o) / 4096 = p := by omega
  have hm : (p * 4096 + o) % 4096 = o := by omega
  show Host.Outcome.next (registerWrite path (p * 4096 + o) 8 v.toNat hw s) = _
  rw [registerWrite_answers _ _ _ _ _ ha, noteUnmapped_aligned _ (by omega) (by rw [hp]; exact he),
    registerStore_header _ _ _ _ (by omega) (isDoorbell_page he (by omega)) (by rw [hp]; exact he) (by omega), hp, hm]

theorem isDoorbell_outside {off : Nat} (h : off < 0x1000000 ∨ 0x1200000 ≤ off) : isDoorbell off = false := by
  simp only [isDoorbell, Bool.and_eq_false_iff, decide_eq_false_iff_not]
  omega

/-- The granule of an access outside the doorbells lies outside them. -/
theorem isDoorbell_granule {off : Nat} (h : off < 0x1000000 ∨ 0x1200000 ≤ off) : isDoorbell (off / 64 * 64) = false :=
  isDoorbell_outside (by omega)

theorem granulesOf_cons {a n : Nat} (hn : 0 < n) : ∃ gs, granulesOf a n = a / 64 * 64 :: gs := by
  unfold granulesOf
  rw [if_neg (by omega), List.range_succ_eq_map, List.map_cons]
  exact ⟨_, rfl⟩

/-- The first granule of an access lies in a page that does not exist. -/
theorem noteUnmapped_first (s : State) {off size : Nat} (hd : off < 0x1000000 ∨ 0x1200000 ≤ off) (he : pageExists (off / 4096) = false)
    (hn : 0 < size) : s.noteUnmapped off size = s.raiseBlockBit pgPerast 16 (off / 64 * 64) := by
  obtain ⟨gs, hg⟩ := granulesOf_cons (a := off) hn
  unfold State.noteUnmapped
  rw [hg, List.find?_cons_of_pos (by rw [isDoorbell_granule hd, show off / 64 * 64 / 4096 = off / 4096 by omega, he]; rfl)]
  rfl

/-! ### What the register then reads -/

theorem regRead_block (s : State) (path : Path) {off : Nat} (ho : 0x100 ≤ off % 4096) :
    s.regRead path off = s.blockRead path (off / 4096) (off % 4096) % 2 ^ 64 := by
  unfold State.regRead
  dsimp only
  rw [if_neg (by omega)]

theorem blockRead_engine {s : State} {p : Nat} (path : Path) (o : Nat) (hs : s.silent p = false) (hk : pageKind p = .engine) :
    s.blockRead path p o = s.readEngine path p o := by
  unfold State.blockRead
  rw [hs, hk]
  rfl

theorem blockRead_complex {s : State} {p : Nat} (path : Path) (o : Nat) (hs : s.silent p = false) (hk : pageKind p = .complex) :
    s.blockRead path p o = s.readComplex o := by
  unfold State.blockRead
  rw [hs, hk]
  rfl

theorem blockRead_fabric {s : State} {p : Nat} (path : Path) (o : Nat) (hs : s.silent p = false) (hk : pageKind p = .fabric) :
    s.blockRead path p o = s.lnk.read o := by
  unfold State.blockRead
  rw [hs, hk]
  rfl

/-! ### ERR_STS and its clearing (R15, R480) -/

theorem page_modPage (s : State) (p : Nat) (f : Page → Page) : (s.modPage p f).page p = f (s.page p) := by
  unfold State.page
  rw [State.modPage_pages, tabGet_tabSet_same]
  rfl

theorem hasBit_setBit (w : Word) (i j : Nat) (hi : i < 64) : hasBit (setBit w i true) j = (hasBit w j || decide (j = i)) := by
  unfold hasBit setBit
  rw [if_pos rfl, BitVec.getLsbD_or, BitVec.getLsbD_shiftLeft]
  by_cases h : j = i
  · subst h; simp [hi]
  · by_cases hl : j < i
    · simp [h, hl]
    · have : j - i ≠ 0 := by omega
      simp [h, hl, BitVec.getLsbD_one, this]

/-- A bit that is raised is set, and no bit falls. -/
theorem hasBit_raiseBit (h : Page) (b detail j : Nat) (injected : Bool) (hb : b < 64) (hj : hasBit h.errSts j = true ∨ j = b) :
    hasBit (h.raiseBit b detail injected).errSts j = true := by
  unfold Page.raiseBit
  split
  · simp [hasBit_setBit, hb, hj]
  · split
    · rcases hj with hj | rfl <;> assumption
    · cases injected <;> simp [hasBit_setBit, hb, hj]

theorem hasBit_raiseSame (s : State) (p b j : Nat) (hb : b < 64) (hj : hasBit (s.page p).errSts j = true ∨ j = b) :
    hasBit ((s.raiseSame p b).page p).errSts j = true := by
  unfold State.raiseSame
  rw [page_modPage]
  exact hasBit_raiseBit _ _ _ _ _ hb hj

/-- After the bits of a list are raised, each of them is set, and each that was set. -/
theorem hasBit_foldl_raiseSame (l : List Nat) (s : State) (p j : Nat) (hl : ∀ b ∈ l, b < 64) (hj : hasBit (s.page p).errSts j = true ∨ j ∈ l) :
    hasBit ((l.foldl (fun (u : State) b => u.raiseSame p b) s).page p).errSts j = true := by
  induction l generalizing s with
  | nil => simpa using hj
  | cons b l ih =>
    have hb := hl b List.mem_cons_self
    refine ih _ (fun x hx => hl x (List.mem_cons_of_mem _ hx)) ?_
    rcases hj with hj | hj
    · exact .inl (hasBit_raiseSame s p b j hb (.inl hj))
    · rcases List.mem_cons.mp hj with rfl | hj
      · exact .inl (hasBit_raiseSame s p j j hb (.inr rfl))
      · exact .inr hj

theorem errBits_lt {p b : Nat} (h : b ∈ errBits p) : b < 64 := by
  unfold errBits at h
  simp only [List.mem_append, List.mem_cons, List.not_mem_nil, or_false] at h
  rcases h with (h | h) | h
  · omega
  · split at h
    · simp at h; omega
    · split at h
      · simp at h; omega
      · split at h
        · simp at h; omega
        · split at h <;> simp at h <;> omega
  · omega

/-- A bit that the hardware sets in the cycle of the write is not cleared. -/
theorem hasBit_clearSts (v hw : Word) (h : Page) {b : Nat} (hb : b < 64) (hs : hasBit hw b = true) :
    hasBit (h.clearSts (v &&& ~~~hw)).errSts b = hasBit h.errSts b := by
  unfold hasBit at hs
  unfold Page.clearSts hasBit
  simp [hb, hs]

theorem errStsClear_answers {s : State} {p : Nat} (v hw : Word) (ha : s.answers = true) (he : pageExists p = true) : errStsClear p v hw s =
    ((errBits p).filter (fun b => hasBit hw b && !hasBit ((s.modPage p (Page.clearSts (v &&& ~~~hw))).page p).errSts b)).foldl
      (fun (u : State) b => u.raiseSame p b) (s.modPage p (Page.clearSts (v &&& ~~~hw))) := by
  unfold errStsClear
  rw [ha, he]
  rfl

/-- When every bit set in the cycle of the write is set already, the write only clears. -/
theorem errStsClear_clears {s : State} {p : Nat} (v hw : Word) (ha : s.answers = true) (he : pageExists p = true)
    (hs : ∀ b ∈ errBits p, hasBit hw b = true → hasBit (s.page p).errSts b = true) :
    errStsClear p v hw s = s.modPage p (Page.clearSts (v &&& ~~~hw)) := by
  rw [errStsClear_answers v hw ha he, List.filter_eq_nil_iff.mpr, List.foldl_nil]
  intro b hb
  rw [page_modPage, Bool.and_eq_true, not_and, Bool.not_eq_true, Bool.not_eq_false']
  intro hh
  rw [hasBit_clearSts v hw _ (errBits_lt hb) hh]
  exact hs b hb hh

/-- A bit that the hardware sets in the cycle of the write is set after it. -/
theorem hasBit_errStsClear {s : State} {p b : Nat} (v hw : Word) (ha : s.answers = true) (he : pageExists p = true) (hb : b ∈ errBits p)
    (hh : hasBit hw b = true) : hasBit ((errStsClear p v hw s).page p).errSts b = true := by
  rw [errStsClear_answers v hw ha he]
  refine hasBit_foldl_raiseSame _ _ p b (fun x hx => errBits_lt (List.mem_filter.mp hx).1) ?_
  by_cases h : hasBit ((s.modPage p (Page.clearSts (v &&& ~~~hw))).page p).errSts b = true
  · exact .inl h
  · exact .inr (List.mem_filter.mpr ⟨hb, by simp [hh, h]⟩)

/-! ### The listed RW registers -/

/-- A listed register read back: the field bits of the value written; nothing outside its register group changed. -/
def ReadsBack (s : State) (path : Path) (r m : Nat) (v hw : Word) : Prop :=
  ∃ t : State, exec (.registerWrite path r 8 ⟨v, hw⟩) s = .next t ∧ t.regRead path r = v.toNat &&& m ∧
    t = { s with boot := t.boot, twin := t.twin, tow := t.tow, lnk := t.lnk, errIrqEnable := t.errIrqEnable, errIrqVec := t.errIrqVec }

/-- A write that lands in `t`, in whose register the value's field bits stand. -/
theorem readsBack_of {s t : State} {path : Path} {r m : Nat} {v hw : Word} (ha : s.answers = true) (h8 : r % 8 = 0)
    (hd : isDoorbell r = false) (he : pageExists (r / 4096) = true) (ho : 0x100 ≤ r % 4096)
    (ht : s.blockWrite path (r / 4096) (r % 4096) v.toNat hw = t)
    (hr : t.blockRead path (r / 4096) (r % 4096) = v.toNat &&& m)
    (hu : t = { s with boot := t.boot, twin := t.twin, tow := t.tow, lnk := t.lnk, errIrqEnable := t.errIrqEnable, errIrqVec := t.errIrqVec }) :
    ReadsBack s path r m v hw := by
  refine ⟨t, by rw [exec_registerWrite_block path v hw ha h8 hd he ho, ht], ?_, hu⟩
  rw [regRead_block t path ho, hr]
  exact Nat.mod_eq_of_lt (Nat.lt_of_le_of_lt Nat.and_le_left v.isLt)

/-- Each listed register keeps its field: PURGE_ADDR, FW_LOAD_ADDR, REP_SEL, WP_SHARE, SEG_SEL, POISON_SEL, PEER_TIMEOUT, WIN_SEL, ROUTE_SEL, ERR_IRQ. -/
theorem readsBack_listed {s : State} (ha : s.answers = true) (path : Path) (v hw : Word) (r m : Nat)
    (hm : (r, m) ∈ [(0x1110, 0xFFFFFFFFF000), (0x1128, 0xFFFFFFFFF000), (0x5118, 0x3F), (0x5138, 0x3), (0x900120, 0x3FF), (0x900130, 0xFFFF),
      (0xA00110, 0xFFFFF), (0xA00118, 0x7), (0xA00130, 0x1F), (0x108, 0x107FF)]) (hs : s.silent (r / 4096) = false) : ReadsBack s path r m v hw := by
  simp only [List.mem_cons, Prod.mk.injEq, List.not_mem_nil, or_false] at hm
  rcases hm with ⟨rfl, rfl⟩ | ⟨rfl, rfl⟩ | ⟨rfl, rfl⟩ | ⟨rfl, rfl⟩ | ⟨rfl, rfl⟩ | ⟨rfl, rfl⟩ | ⟨rfl, rfl⟩ | ⟨rfl, rfl⟩ | ⟨rfl, rfl⟩ | ⟨rfl, rfl⟩
  · exact readsBack_of ha rfl rfl rfl (by decide) rfl (Eq.trans (blockRead_engine path _ (by exact hs) rfl) (bitsOf_mul_two_pow _ 47 12)) rfl
  · exact readsBack_of ha rfl rfl rfl (by decide) rfl (Eq.trans (blockRead_engine path _ (by exact hs) rfl) (bitsOf_mul_two_pow _ 47 12)) rfl
  · exact readsBack_of ha rfl rfl rfl (by decide) rfl (Eq.trans (blockRead_engine path _ (by exact hs) rfl) (bitsOf_zero _ 5)) rfl
  · exact readsBack_of ha rfl rfl rfl (by decide) rfl (Eq.trans (blockRead_engine path _ (by exact hs) rfl) (Nat.and_two_pow_sub_one_eq_mod _ 2).symm) rfl
  · exact readsBack_of ha rfl rfl rfl (by decide) rfl (Eq.trans (blockRead_complex path _ (by exact hs) rfl) (bitsOf_zero _ 9)) rfl
  · exact readsBack_of ha rfl rfl rfl (by decide) rfl (Eq.trans (blockRead_complex path _ (by exact hs) rfl) (bitsOf_zero _ 15)) rfl
  · exact readsBack_of ha rfl rfl rfl (by decide) rfl (Eq.trans (blockRead_fabric path _ (by exact hs) rfl) (bitsOf_zero _ 19)) rfl
  · exact readsBack_of ha rfl rfl rfl (by decide) rfl (Eq.trans (blockRead_fabric path _ (by exact hs) rfl) (bitsOf_zero _ 2)) rfl
  · exact readsBack_of ha rfl rfl rfl (by decide) rfl (Eq.trans (blockRead_fabric path _ (by exact hs) rfl) (bitsOf_zero _ 4)) rfl
  · exact readsBack_of ha rfl rfl rfl (by decide) rfl (Eq.trans (blockRead_engine path _ (by exact hs) rfl) (bit_add_bitsOf _ 16 10 (by decide))) rfl

/-! ### The header's other commands -/

/-- No write reaches a register of the header that is read-only. -/
theorem headerWrite_readOnly (s : State) (p v : Nat) (hw : Word) {o : Nat} (ho : o ∈ [0x000, 0x008, 0x010, 0x020, 0x040, 0x048, 0x0C0]) :
    s.headerWrite p o v hw = s := by
  simp only [List.mem_cons, List.not_mem_nil, or_false] at ho
  rcases ho with rfl | rfl | rfl | rfl | rfl | rfl | rfl <;> rfl

/-- A write not of 8 aligned bytes in a page that exists. -/
theorem registerStore_misplaced (path : Path) {off size : Nat} (v : Nat) (hw : Word) (s : State) (hd : isDoorbell off = false)
    (he : pageExists (off / 4096) = true) (hm : size ≠ 8 ∨ off % 8 ≠ 0) :
    registerStore path off size v hw s = s.badWrite (off / 4096) off := by
  unfold registerStore
  rw [hd, he, if_neg (by simp), if_neg (by simp), if_pos hm]

/-- A write in a page that does not exist. -/
theorem registerStore_absent (path : Path) {off : Nat} (size v : Nat) (hw : Word) (s : State) (hd : isDoorbell off = false)
    (he : pageExists (off / 4096) = false) : registerStore path off size v hw s = s := by
  unfold registerStore
  rw [hd, he]
  rfl

/-- An injected CORRECTED error, in a block that is there. -/
theorem errInject_corrected {s : State} {p v : Nat} (ha : s.answers = true) (he : pageExists p = true) (h8 : v.testBit 8 = true) (h4 : v % 4 = 0)
    (hst : ¬ (s.pageState p = .off ∨ s.pageState p = .fencedOut ∨ s.pageState p = .testing)) : errInject p v s = s.recordIn p .corrected 0 true := by
  unfold errInject bitAt
  rw [ha, he, h8, h4, if_neg (by simp)]
  exact if_neg hst

theorem errorIrqRepeat_sends {s : State} (ha : s.answers = true) (he : s.errIrqEnable = true) (hm : s.errIrqMore = true)
    (hs : ∃ e ∈ s.pages, e.2.errSts &&& ~~~e.2.errMask ≠ 0) :
    exec .errorIrqRepeat s = .next { s with outbox := s.outbox ++ [.irq s.errIrqVec], errIrqMore := false } := by
  have hsum : errSummaryAny s.pages = true := by
    obtain ⟨e, hp, h⟩ := hs
    exact List.any_eq_true.mpr ⟨e, hp, by simpa using h⟩
  exact congrArg Host.Outcome.next (if_pos (by rw [ha, he, hm, hsum]; rfl))

end Sys2Proof.Machine

/-- Settles O45: an aligned write is its page's header or block write, and each register's row gives the state it names. -/
theorem registerWrites : Obligations.RegisterWrites := by
  unfold Obligations.RegisterWrites
  intro s ha
  refine ⟨fun path v hw r m hm hs => readsBack_listed ha path v hw r m hm hs, fun path v hw p o he ho => ?_, fun path v hw p he => ?_,
    fun path v hw off size hd he hm => ?_, fun path v hw off size hd he hn => ?_, fun p v hw he => ⟨fun hs => ?_, fun b hb hh => ?_⟩,
    fun p he => ⟨?_, fun on => ?_⟩, fun p v he h8 h4 h1 h2 h3 => ?_, errorIrqRepeat_sends ha⟩
  · have hr : o < 0x100 ∧ o % 8 = 0 := by
      simp only [List.mem_cons, List.not_mem_nil, or_false] at ho
      omega
    rw [exec_registerWrite_header path v hw ha he hr.1 hr.2, headerWrite_readOnly s p _ hw ho]
  · rw [exec_registerWrite_header path v hw ha he (by omega) (by omega)]
    show Host.Outcome.next (s.modPage p (fun h => { h with errMask := BitVec.ofNat 64 v.toNat })) = _
    rw [BitVec.ofNat_toNat, BitVec.setWidth_eq]
  · show Host.Outcome.next (registerWrite path off size v.toNat hw s) = _
    rw [registerWrite_answers _ _ _ _ _ ha, registerStore_misplaced path _ hw s (isDoorbell_outside hd) he hm]
  · show Host.Outcome.next (registerWrite path off size v.toNat hw s) = _
    rw [registerWrite_answers _ _ _ _ _ ha, registerStore_absent path size _ hw s (isDoorbell_outside hd) he, noteUnmapped_first s hd he hn]
  · show Host.Outcome.next (errStsClear p v hw s) = _
    rw [errStsClear_clears v hw ha he hs]
    rfl
  · exact ⟨_, rfl, hasBit_errStsClear v hw ha he hb hh⟩
  · show Host.Outcome.next (if _ then _ else _) = _
    rw [ha, he]
    rfl
  · show Host.Outcome.next (if _ then _ else _) = _
    rw [ha, he]
    rfl
  · show Host.Outcome.next (errInject p v.toNat s) = _
    rw [errInject_corrected ha he h8 h4 (by rintro (h | h | h) <;> contradiction)]

end

section
/-! PROOFS. Window accesses (R12, R333): what a read of the memory and register apertures returns, and what a write stores. -/

open Sys2Proof Sys2Proof.Machine

namespace Sys2Proof.Machine

/-! ### A write opens no range (log entry 7), and draws a free value only for a fill's flits -/

/-- `t` has `s`'s open ranges and twin state, and, outside a fill, its count of free values. -/
structure OpensNone (s t : State) : Prop where
  ranges : t.mem.openBytes = s.mem.openBytes
  state  : t.twin.state = s.twin.state
  free   : s.twin.state ≠ .filling → t.freeCount = s.freeCount

theorem OpensNone.refl (s : State) : OpensNone s s := ⟨rfl, rfl, fun _ => rfl⟩

theorem OpensNone.same {s t u : State} (h : OpensNone s t) (hr : u.mem.openBytes = t.mem.openBytes) (hs : u.twin.state = t.twin.state)
    (hf : u.freeCount = t.freeCount) : OpensNone s u :=
  ⟨hr.trans h.ranges, hs.trans h.state, fun k => hf.trans (h.free k)⟩

theorem OpensNone.foldl {α : Type} {s t : State} {f : State → α → State} {l : List α} (hf : ∀ u x, OpensNone s u → OpensNone s (f u x))
    (h : OpensNone s t) : OpensNone s (l.foldl f t) := by
  induction l generalizing t with
  | nil => exact h
  | cons x l ih => exact ih (hf _ _ h)

/-- A memory with the same open ranges. -/
theorem OpensNone.mem {s t : State} (h : OpensNone s t) (m : Mem) (hm : m.openBytes = t.mem.openBytes) : OpensNone s { t with mem := m } :=
  h.same hm rfl rfl

theorem OpensNone.setParity {s t : State} (h : OpensNone s t) (p : List ParityLine) : OpensNone s { t with mem := { t.mem with parity := p } } :=
  h.mem _ rfl

theorem OpensNone.markLost {s t : State} (h : OpensNone s t) (k : Nat) :
    OpensNone s { t with mem := { t.mem with lostCleared := tabSet false t.mem.lostCleared k true } } := h.mem _ rfl

theorem OpensNone.count {s t : State} (h : OpensNone s t) (p source k : Nat) : OpensNone s (t.count p source k) := h.same rfl rfl rfl

/-- The blocks of a fill left to send, and what awaits the partner. -/
theorem OpensNone.setFill {s t : State} (h : OpensNone s t) (l : List Nat) (w : List MirrorWait) :
    OpensNone s { t with twin := { t.twin with fillLeft := l, unacked := w } } := h.same rfl rfl rfl

theorem OpensNone.setUnacked {s t : State} (h : OpensNone s t) (w : List MirrorWait) :
    OpensNone s { t with twin := { t.twin with unacked := w } } := h.same rfl rfl rfl

theorem OpensNone.setCell {s t : State} (h : OpensNone s t) (k : Nat) (v : Byte) : OpensNone s { t with mem := t.mem.setCell k v } :=
  h.same rfl rfl rfl

theorem OpensNone.parityXor {s t : State} (h : OpensNone s t) (x : Nat) (d : Byte) : OpensNone s (t.parityXor x d) := by
  unfold State.parityXor
  split
  · exact h.setCell _ _
  · exact h

theorem OpensNone.evictLine {s t : State} (h : OpensNone s t) (l : ParityLine) : OpensNone s (t.evictLine l) :=
  (OpensNone.foldl (fun _ _ hu => hu.parityXor _ _) h).count _ _ _

theorem OpensNone.evictOldest {s t : State} (h : OpensNone s t) : OpensNone s t.evictOldest := by
  unfold State.evictOldest
  split
  · exact h
  · split
    · exact (h.setParity _).evictLine _
    · exact h

theorem OpensNone.parityDelta {s t : State} (h : OpensNone s t) (x : Nat) (d : Byte) : OpensNone s (t.parityDelta x d) := by
  unfold State.parityDelta
  split
  · exact h.parityXor _ _
  · split
    · exact h.setParity _
    · exact h.evictOldest.setParity _

theorem OpensNone.pokePosition {s t : State} (h : OpensNone s t) (n x : Nat) (v : Byte) : OpensNone s (t.pokePosition n x v) := by
  unfold State.pokePosition
  dsimp only
  apply OpensNone.parityDelta
  split
  · exact h.setCell _ _
  · exact h

theorem OpensNone.pokeByte {s t : State} (h : OpensNone s t) (a : Nat) (v : Byte) : OpensNone s (t.pokeByte a v) := by
  unfold State.pokeByte
  split
  · exact h.pokePosition _ _ _
  · exact h.setCell _ _

theorem OpensNone.pokeBytes {s t : State} (h : OpensNone s t) (a : Nat) (bs : Bytes) : OpensNone s (t.pokeBytes a bs) := by
  induction bs generalizing t a with
  | nil => exact h
  | cons b bs ih => exact ih (h.pokeByte a b) (a + 1)

theorem OpensNone.clearPoison {s t : State} (h : OpensNone s t) (a : Nat) : OpensNone s (t.clearPoison a) := by
  unfold State.clearPoison
  split
  · exact h.same rfl rfl rfl
  · exact h.same rfl rfl rfl
  · exact h

theorem OpensNone.clearCovered {s t : State} (h : OpensNone s t) (a len : Nat) : OpensNone s (t.clearCovered a len) := by
  unfold State.clearCovered
  refine OpensNone.foldl (fun u g hu => ?_) h
  dsimp only
  split
  · split
    · exact (hu.markLost _).clearPoison _
    · exact hu
  · split
    · exact hu.clearPoison _
    · exact hu

theorem OpensNone.recomputeParity {s t : State} (h : OpensNone s t) (i : Nat) : OpensNone s (t.recomputeParity i) := by
  unfold State.recomputeParity
  generalize List.range 4096 = l
  refine OpensNone.setParity (OpensNone.foldl (fun u x hu => ?_) h) _
  split
  · exact hu.setCell _ _
  · exact hu

theorem OpensNone.recomputeLost {s t : State} (h : OpensNone s t) (i : Nat) : OpensNone s (t.recomputeLost i) := by
  unfold State.recomputeLost
  generalize List.range 4096 = l
  split
  · exact h
  · apply OpensNone.recomputeParity
    split
    · exact h
    · exact OpensNone.foldl (fun u x hu => hu.setCell _ _) h

theorem OpensNone.recomputeFirst {s t : State} (h : OpensNone s t) (a len : Nat) : OpensNone s (t.recomputeFirst a len) := by
  unfold State.recomputeFirst
  split
  · refine OpensNone.foldl (fun u g hu => ?_) h
    dsimp only
    split
    · exact hu.recomputeLost _
    · exact hu
  · exact h

theorem OpensNone.dirtyTracks {s t : State} (h : OpensNone s t) (a len : Nat) : OpensNone s (t.dirtyTracks a len) := by
  unfold State.dirtyTracks
  refine OpensNone.foldl (fun u e hu => ?_) h
  split
  · exact OpensNone.foldl (fun v i hv => hv.setCell _ _) hu
  · exact hu

theorem OpensNone.readFirst {s t : State} (h : OpensNone s t) (b : Nat) : OpensNone s (t.readFirst b) := by
  unfold State.readFirst
  dsimp only
  split
  · exact h
  · split
    · exact h
    · exact h.same rfl rfl rfl

/-- Sending during a fill. -/
theorem OpensNone.sends {s t u : State} (h : OpensNone s t) (hf : s.twin.state = .filling) (k : SendsOnly t u) : OpensNone s u :=
  ⟨by rw [k.mem]; exact h.ranges, by rw [k.twin]; exact h.state, fun n => absurd hf n⟩

theorem OpensNone.sendFill {s t : State} (h : OpensNone s t) (hf : s.twin.state = .filling) (b : Nat) : OpensNone s (t.sendFill b) := by
  unfold State.sendFill
  exact ((h.sends hf (sendTwin_sends _ _ _ _)).count _ _ _).setFill _ _

theorem OpensNone.beforeWrite {s t : State} (h : OpensNone s t) (a len : Nat) : OpensNone s (t.beforeWrite a len) := by
  unfold State.beforeWrite
  have k : OpensNone s (if t.twin.wp.running then (mibsOf a len).foldl State.readFirst t else t) := by
    split
    · exact OpensNone.foldl (fun u b hu => hu.readFirst b) h
    · exact h
  dsimp only
  generalize (if t.twin.wp.running then (mibsOf a len).foldl State.readFirst t else t) = v at k ⊢
  split
  · rename_i hf
    refine OpensNone.foldl (fun u b hu => ?_) k
    split
    · exact hu.sendFill (k.state.symm.trans hf) b
    · exact hu
  · exact k

theorem OpensNone.forwardWrite {s t : State} (h : OpensNone s t) (a : Nat) (bs : Bytes) : OpensNone s (t.forwardWrite a bs) := by
  unfold State.forwardWrite
  split
  · exact h
  · rename_i hf
    refine OpensNone.foldl (fun u b hu => ?_) h
    split
    · exact (hu.sends (h.state.symm.trans (Decidable.not_not.mp hf)) (sendTwin_sends _ _ _ _)).setUnacked _
    · exact hu

/-- A state with the ranges of a store's bytes closed. -/
def State.closed (s : State) (a len : Nat) : State := { s with mem := s.mem.closeBytes a len }

theorem closeBytes_openBytes {m m' : Mem} (h : m'.openBytes = m.openBytes) (a len : Nat) :
    (m'.closeBytes a len).openBytes = (m.closeBytes a len).openBytes := by
  unfold Mem.closeBytes
  rw [h]
  split
  · exact h
  · rfl

/-- A store closes its bytes and opens none. -/
theorem opensNone_storeBytes (s : State) (a : Nat) (bs : Bytes) : OpensNone (s.closed a bs.length) (s.storeBytes a bs) := by
  have h := ((((OpensNone.refl s).beforeWrite a bs.length).recomputeFirst a bs.length).clearCovered a bs.length).dirtyTracks a bs.length
  have k := h.pokeBytes a bs
  have c : OpensNone (s.closed a bs.length) (State.closed _ a bs.length) := ⟨closeBytes_openBytes k.ranges _ _, k.state, k.free⟩
  exact c.forwardWrite a bs

theorem openAt_of_ranges {m m' : Mem} (h : m'.openBytes = m.openBytes) (x : Nat) : m'.openAt x = m.openAt x := by
  unfold Mem.openAt; rw [h]

theorem storeBytes_freeCount {s : State} (a : Nat) (bs : Bytes) (h : s.twin.state ≠ .filling) : (s.storeBytes a bs).freeCount = s.freeCount :=
  (opensNone_storeBytes s a bs).free h

theorem storeBytes_sameElse (s : State) (a : Nat) (bs : Bytes) : SameElse s (s.storeBytes a bs) :=
  ((Frame.refl s).storeBytes (P := fun _ => True) a bs (fun _ _ _ => trivial) (fun _ _ => trivial)).same

/-- A byte of Ivory or Slate outside a store, and outside the bitmaps of open tracked ranges, stays. -/
theorem rawByte_storeBytes_other {s : State} (hw : s.mem.wf = true) (a : Nat) (bs : Bytes) {x : Nat}
    (hx : x < umberBase ∨ (slateBase ≤ x ∧ x < 2 ^ 48)) (ho : x < a ∨ a + bs.length ≤ x) (hb : s.inBitmap x = false) :
    (s.storeBytes a bs).rawByte x = s.rawByte x := by
  have hu : umberBase ≤ 2 ^ 48 := by decide
  have f := (Frame.refl s).storeBytes (P := fun x => (a ≤ x ∧ x < a + bs.length) ∨ s.inBitmap x = true) a bs
    (fun _ l r => .inl ⟨l, r⟩) (fun _ h => .inr h)
  have cell := ((f.byte hw).2 x (by omega) (by rw [hb]; simp; omega)).1
  have opened := (openAt_of_ranges (opensNone_storeBytes s a bs).ranges x).trans (Mem.openAt_closeBytes s.mem ho)
  rw [State.rawByte_plain _ (by omega), State.rawByte_plain _ (by omega), cell, opened]

/-! ### The granules of an access -/

theorem SameElse.windowMapped {s t : State} (h : SameElse s t) (g : Nat) : t.windowMapped g = s.windowMapped g := by
  unfold SameElse at h
  rw [h]
  rfl

theorem windowMapped_raiseBlockBit (s : State) (p b detail g : Nat) : (s.raiseBlockBit p b detail).windowMapped g = s.windowMapped g := by
  unfold State.windowMapped State.tierOf State.region State.dataTowers State.raiseBlockBit
  simp only [State.modPage_part, State.modPage_regions, State.modPage_per]

theorem reportUnmapped_mapped {s : State} {gs : List Nat} (h : ∀ g ∈ gs, s.windowMapped g = true) : s.reportUnmapped gs = s := by
  unfold State.reportUnmapped
  rw [List.find?_eq_none.mpr (fun g hg => by rw [h g hg]; decide)]

theorem reportUnmapped_one {s : State} {g : Nat} (h : s.windowMapped g = false) : s.reportUnmapped [g] = s.raiseBlockBit pgPerast 16 g := by
  unfold State.reportUnmapped
  rw [List.find?_cons_of_pos (by rw [h]; rfl)]
  rfl

theorem windowGranule_clean {s : State} {a len g : Nat} (hm : s.windowMapped g = true) (hp : s.poisonedAt g = false) :
    s.windowGranule a len g = (s.rawBytes (max a g) (min (a + len) (g + 64) - max a g)).map some := by
  unfold State.windowGranule
  rw [hm, hp]
  rfl

theorem windowGranule_poisoned {s : State} {a len g : Nat} (hm : s.windowMapped g = true) (hp : s.poisonedAt g = true) :
    s.windowGranule a len g = List.replicate (min (a + len) (g + 64) - max a g) none := by
  unfold State.windowGranule
  rw [hm, hp]
  rfl

theorem windowGranule_unmapped {s : State} {a len g : Nat} (hm : s.windowMapped g = false) :
    s.windowGranule a len g = List.replicate (min (a + len) (g + 64) - max a g) (some 0xFF) := by
  unfold State.windowGranule
  rw [hm]
  rfl

theorem rawBytes_add (s : State) (a m n : Nat) : s.rawBytes a (m + n) = s.rawBytes a m ++ s.rawBytes (a + m) n := by
  unfold State.rawBytes
  rw [List.range_add, List.map_append, List.map_map]
  simp only [Function.comp_def, Nat.add_assoc]

/-- The parts of a range that fall in its first `k` granules are its first bytes. -/
theorem rawBytes_granules (s : State) (a n k : Nat) (hk : (a / 64 + k) * 64 < a + n + 64) :
    ((List.range k).map (fun i => (a / 64 + i) * 64)).flatMap (fun g => s.rawBytes (max a g) (min (a + n) (g + 64) - max a g)) =
    s.rawBytes a (min (a + n) ((a / 64 + k) * 64) - a) := by
  induction k with
  | zero =>
    rw [show min (a + n) ((a / 64 + 0) * 64) - a = 0 by omega]
    rfl
  | succ k ih =>
    rw [List.range_succ, List.map_append, List.flatMap_append, ih (by omega), List.map_singleton, List.flatMap_singleton,
      show max a ((a / 64 + k) * 64) = a + (min (a + n) ((a / 64 + k) * 64) - a) by omega, ← rawBytes_add]
    congr 1
    omega

/-- The granules of a mapped, clean range give its bytes. -/
theorem windowGranules_clean {s : State} {a n : Nat} (hn : 0 < n) (h : ∀ g ∈ granulesOf a n, s.windowMapped g = true ∧ s.poisonedAt g = false) :
    (granulesOf a n).flatMap (s.windowGranule a n) = (s.rawBytes a n).map some := by
  have hc : (granulesOf a n).flatMap (s.windowGranule a n) =
      (granulesOf a n).flatMap (fun g => (s.rawBytes (max a g) (min (a + n) (g + 64) - max a g)).map some) := by
    rw [List.flatMap_def, List.flatMap_def, List.map_congr_left (fun g hg => windowGranule_clean (h g hg).1 (h g hg).2)]
  rw [hc, ← List.map_flatMap, granulesOf, if_neg (by omega), rawBytes_granules s a n _ (by omega)]
  congr 2
  omega

/-! ### Reads of the memory aperture -/

theorem exec_windowRead_memory {s : State} (ha : s.answers = true) (a n : Nat) :
    exec (.windowRead false a n) s = .next (memoryRead a n s) := by
  show Host.Outcome.next (windowRead false a n s) = _
  unfold windowRead
  rw [ha]
  rfl

theorem memoryRead_clean {s : State} {a n : Nat} (hn : 0 < n) (h : ∀ g ∈ granulesOf a n, s.windowMapped g = true ∧ s.poisonedAt g = false) :
    memoryRead a n s = (s.count pgPerast 0x1406 0).send (.windowData ((s.rawBytes a n).map some)) := by
  unfold memoryRead
  dsimp only
  rw [windowGranules_clean hn h, List.filter_eq_nil_iff.mpr (fun g hg => by rw [(h g hg).2]; simp), List.length_nil,
    reportUnmapped_mapped (s := s.count pgPerast 0x1406 0) (fun g hg => (h g hg).1)]

theorem memoryRead_poisoned {s : State} {a n : Nat} (hn : 0 < n) (h1 : a / 64 = (a + n - 1) / 64) (hm : s.windowMapped (a / 64 * 64) = true)
    (hp : s.poisonedAt (a / 64 * 64) = true) :
    memoryRead a n s = (s.count pgPerast 0x1406 1).send (.windowData (List.replicate n none)) := by
  unfold memoryRead
  dsimp only
  rw [granulesOf_one hn h1, List.flatMap_singleton, windowGranule_poisoned hm hp, List.filter_cons_of_pos (by rw [hm, hp]; rfl), List.filter_nil,
    List.length_singleton, reportUnmapped_mapped (fun g hg => by rw [List.mem_singleton.mp hg]; exact hm),
    show min (a + n) (a / 64 * 64 + 64) - max a (a / 64 * 64) = n by omega]

theorem memoryRead_unmapped {s : State} {a n : Nat} (hn : 0 < n) (h1 : a / 64 = (a + n - 1) / 64) (hm : s.windowMapped (a / 64 * 64) = false) :
    memoryRead a n s =
      ((s.count pgPerast 0x1406 0).raiseBlockBit pgPerast 16 (a / 64 * 64)).send (.windowData (List.replicate n (some 0xFF))) := by
  unfold memoryRead
  dsimp only
  rw [granulesOf_one hn h1, List.flatMap_singleton, windowGranule_unmapped hm, List.filter_cons_of_neg (by rw [hm]; simp), List.filter_nil,
    List.length_nil, reportUnmapped_one (by exact hm), show min (a + n) (a / 64 * 64 + 64) - max a (a / 64 * 64) = n by omega]

/-! ### Writes of the memory aperture -/

/-- A write that reaches part of a poisoned granule. -/
theorem exec_windowWrite_stops {s : State} (ha : s.answers = true) {a g : Nat} {bs : Bytes} (h : s.windowStop a bs.length = some g) :
    exec (.windowWrite a bs) s =
      .next (((s.raiseBlockBit pgPerast 19 g).count pgPerast 0x1406 1).reportUnmapped (granulesOf a bs.length)) := by
  show Host.Outcome.next (windowWrite a bs s) = _
  unfold windowWrite
  rw [ha, h]
  rfl

/-- A write that nothing stops. -/
theorem exec_windowWrite_stores {s : State} (ha : s.answers = true) {a : Nat} {bs : Bytes} (h : s.windowStop a bs.length = none) :
    exec (.windowWrite a bs) s = .next ((windowStore a bs s).reportUnmapped (granulesOf a bs.length)) := by
  show Host.Outcome.next (windowWrite a bs s) = _
  unfold windowWrite
  rw [ha, h]
  rfl

theorem windowStop_clean {s : State} {a n : Nat} (h : ∀ g ∈ granulesOf a n, s.windowMapped g = true → s.poisonedAt g = false) :
    s.windowStop a n = none := by
  unfold State.windowStop
  refine List.find?_eq_none.mpr (fun g hg => ?_)
  by_cases hm : s.windowMapped g = true
  · rw [h g hg hm]; simp
  · simp [hm]

/-- A write whose granules are mapped and clean is stored, and nothing else happens. -/
theorem exec_windowWrite_clean {s : State} (ha : s.answers = true) {a : Nat} {bs : Bytes}
    (h : ∀ g ∈ granulesOf a bs.length, s.windowMapped g = true ∧ s.poisonedAt g = false) :
    exec (.windowWrite a bs) s = .next (s.storeBytes a bs) := by
  rw [exec_windowWrite_stores ha (windowStop_clean (fun g hg _ => (h g hg).2))]
  unfold windowStore
  rw [if_pos (List.all_eq_true.mpr (fun g hg => (h g hg).1)),
    reportUnmapped_mapped (fun g hg => by rw [(storeBytes_sameElse s a bs).windowMapped]; exact (h g hg).1)]

/-- Fewer than 64 bytes cover no granule and no half of 2 KiB. -/
theorem coversPoison_small (s : State) (a g : Nat) {n : Nat} (hn : n < 64) : coversPoison s a n g = false := by
  unfold coversPoison coversHalf coversGranule
  dsimp only
  split
  · rw [Bool.and_eq_false_iff, decide_eq_false_iff_not, decide_eq_false_iff_not]
    omega
  · rw [Bool.and_eq_false_iff, decide_eq_false_iff_not, decide_eq_false_iff_not]
    omega

theorem exec_windowWrite_poisoned {s : State} (ha : s.answers = true) {a : Nat} {bs : Bytes} (hn : 0 < bs.length) (hl : bs.length < 64)
    (h1 : a / 64 = (a + bs.length - 1) / 64) (hm : s.windowMapped (a / 64 * 64) = true) (hp : s.poisonedAt (a / 64 * 64) = true) :
    exec (.windowWrite a bs) s = .next ((s.raiseBlockBit pgPerast 19 (a / 64 * 64)).count pgPerast 0x1406 1) := by
  have stop : s.windowStop a bs.length = some (a / 64 * 64) := by
    unfold State.windowStop
    rw [granulesOf_one hn h1, List.find?_cons_of_pos (by rw [hm, hp, coversPoison_small _ _ _ hl]; rfl)]
  rw [exec_windowWrite_stops ha stop, granulesOf_one hn h1]
  exact congrArg Host.Outcome.next (reportUnmapped_mapped (fun g hg => by rw [List.mem_singleton.mp hg]; exact (windowMapped_raiseBlockBit ..).trans hm))

theorem exec_windowWrite_unmapped {s : State} (ha : s.answers = true) {a : Nat} {bs : Bytes} (hn : 0 < bs.length)
    (h1 : a / 64 = (a + bs.length - 1) / 64) (hm : s.windowMapped (a / 64 * 64) = false) :
    exec (.windowWrite a bs) s = .next (s.raiseBlockBit pgPerast 16 (a / 64 * 64)) := by
  have store : windowStore a bs s = s := by
    unfold windowStore
    rw [granulesOf_one hn h1, if_neg (by simp [hm]), if_pos (by simp [hm])]
  have stop : s.windowStop a bs.length = none := by
    refine windowStop_clean (fun g hg hg' => ?_)
    rw [granulesOf_one hn h1, List.mem_singleton] at hg
    rw [hg, hm] at hg'
    cases hg'
  rw [exec_windowWrite_stores ha stop, granulesOf_one hn h1, store, reportUnmapped_one hm]

/-! ### Reads of the register aperture -/

theorem exec_windowRead_register {s : State} (ha : s.answers = true) (a n : Nat) :
    exec (.windowRead true a n) s = .next (registerRead a n s) := by
  show Host.Outcome.next (windowRead true a n s) = _
  unfold windowRead
  rw [ha]
  rfl

theorem isDoorbell_inside {x : Nat} (h1 : 0x1000000 ≤ x) (h2 : x < 0x1200000) : isDoorbell x = true := by
  simp only [isDoorbell, Bool.and_eq_true, decide_eq_true_eq]
  exact ⟨h1, h2⟩

/-- A doorbell's address reads zero. -/
theorem registerRead_doorbell (s : State) {a n : Nat} (hn : 0 < n) (h1 : 0x1000000 ≤ a) (h2 : a + n ≤ 0x1200000) :
    registerRead a n s = s.returnData (List.replicate n 0) := by
  have note : s.noteUnmapped a n = s := by
    unfold State.noteUnmapped
    rw [List.find?_eq_none.mpr]
    intro g hg
    unfold granulesOf at hg
    rw [if_neg (by omega)] at hg
    obtain ⟨i, hi, rfl⟩ := List.mem_map.mp hg
    rw [List.mem_range] at hi
    rw [isDoorbell_inside (by omega) (by omega)]
    simp
  unfold registerRead
  rw [if_pos (isDoorbell_inside h1 (by omega)), note]
  congr 1
  refine List.ext_getElem (by simp) (fun i hi _ => ?_)
  rw [List.length_map, List.length_range] at hi
  rw [List.getElem_map, List.getElem_range, isDoorbell_inside (by omega) (by omega), List.getElem_replicate]
  rfl

/-- The 8 bytes of an aligned register that is no path fence. -/
theorem registerRead_aligned (s : State) {a : Nat} (hd : isDoorbell a = false) (he : pageExists (a / 4096) = true) (h8 : a % 8 = 0)
    (hl : a ≠ 0x4140) (hw : a ≠ 0x4148) (hp : a ≠ 0x4150) : registerRead a 8 s = s.returnData (natBytes 8 (s.regRead .window a)) := by
  unfold registerRead regPart
  rw [hd, he, if_neg (by simp), if_neg (by simp), if_neg (by omega), if_neg (by omega), if_neg (by omega), if_neg (by omega),
    show a / 8 * 8 = a by omega, h8]
  unfold sliceOf
  rw [List.drop_zero, List.take_of_length_le (by simp)]

/-- A read of another size reads all-ones and sets BAD_WRITE. -/
theorem registerRead_misplaced (s : State) {a n : Nat} (hd : isDoorbell a = false) (he : pageExists (a / 4096) = true) (h4 : n ≠ 4) (h8 : n ≠ 8) :
    registerRead a n s = ((s.badWrite (a / 4096) a).noteUnmapped a n).returnData (List.replicate n 0xFF) := by
  unfold registerRead
  rw [hd, he, if_neg (by simp), if_neg (by simp), if_pos (.inl ⟨h8, h4⟩)]
  rfl

end Sys2Proof.Machine

/-- Settles O44: granule by granule what an access returns or stores; a write that is stored has the frame of `storeBytes`. -/
theorem windowAccesses : Obligations.WindowAccesses := by
  unfold Obligations.WindowAccesses
  intro s a n ha hn
  refine ⟨fun h => ⟨_, exec_windowRead_memory ha a n, ?_⟩, ?_, ?_, fun h1 hm hp => ⟨?_, ?_⟩, fun h1 hm => ⟨?_, ?_⟩, fun h1 h2 => ?_,
    fun hd he h8 hl hw hp => ?_, fun hd he h4 h8 => ?_⟩
  · rw [memoryRead_clean hn h]
    rfl
  · rintro bs rfl h hu hw
    exact ⟨_, exec_windowWrite_clean ha h, storeBytes_sameElse s a bs, storeBytes_freeCount a bs,
      fun i hi => by rw [State.rawByte_storeBytes s hw a bs (.inl hu) i hi, List.getElem?_eq_getElem hi],
      fun x hx ho hb => rawByte_storeBytes_other hw a bs hx ho hb⟩
  · rintro bs rfl h
    have clean : ∀ g ∈ granulesOf a bs.length, s.windowMapped g = true ∧ s.poisonedAt g = false :=
      fun g hg => ⟨by unfold State.windowMapped; rw [(h g hg).1]; rfl, (h g hg).2⟩
    exact ⟨_, exec_windowWrite_clean ha clean, storeBytes_sameElse s a bs, storeBytes_freeCount a bs⟩
  · rw [exec_windowRead_memory ha, memoryRead_poisoned hn h1 hm hp]
  · rintro bs rfl hl
    exact exec_windowWrite_poisoned ha hn hl h1 hm hp
  · rw [exec_windowRead_memory ha, memoryRead_unmapped hn h1 hm]
  · rintro bs rfl
    exact exec_windowWrite_unmapped ha hn h1 hm
  · rw [exec_windowRead_register ha, registerRead_doorbell s hn h1 h2]
    rfl
  · rw [exec_windowRead_register ha, registerRead_aligned s (isDoorbell_outside hd) he h8 hl hw hp]
    rfl
  · rw [exec_windowRead_register ha, registerRead_misplaced s (isDoorbell_outside hd) he h4 h8]
    rfl

end

section
/-! PROOFS. Stopping threads (R328, R438): what every stopped thread leaves as it was, as the resets need it. -/

open Sys2Proof Sys2Proof.Machine

namespace Sys2Proof.Machine

/-! ### What a status leaves behind differs only as writes differ -/

theorem putPage_sameElse (s : State) (p : Nat) (h : Page) : SameElse s (s.putPage p h) := by
  unfold State.putPage
  dsimp only
  split <;> rfl

theorem record_sameElse (s : State) (p : Nat) (c : ErrClass) (detail : Nat) : SameElse s (s.record p c detail) := putPage_sameElse _ _ _

theorem noteStop_sameElse (s : State) (p : Nat) (st : Status) : SameElse s (s.noteStop p st) := by
  unfold State.noteStop
  split
  · split
    · exact record_sameElse _ _ _ _
    · exact SameElse.refl s
  · exact record_sameElse _ _ _ _
  · exact record_sameElse _ _ _ _
  · exact SameElse.refl s
  · split
    · exact record_sameElse _ _ _ _
    · exact SameElse.refl s

theorem openRange_sameElse (s : State) (a len : Nat) : SameElse s (s.openRange a len) := ((Frame.refl (P := fun _ => True) s).openRange a len).same

theorem SameElse.foldl {α : Type} {s t : State} {f : State → α → State} {l : List α} (hf : ∀ u x, SameElse u (f u x)) (h : SameElse s t) :
    SameElse s (l.foldl f t) := by
  induction l generalizing t with
  | nil => exact h
  | cons x l ih => exact ih (h.trans (hf _ _))

theorem writeAll_sameElse {s t : State} {ws : Writes} (e : s.writeAll ws = .ok t) : SameElse s t := by
  unfold State.writeAll at e
  split at e <;> cases e
  exact SameElse.foldl (fun _ _ => storeBytes_sameElse _ _ _) (SameElse.refl s)

theorem commitWrites_sameElse {s : State} {c : Cmd} {p : Packed} {r : State × Cmd} (e : commitWrites s c p = .ok r) : SameElse s r.1 :=
  (commitWrites_wrote e).frame.same

theorem openRest_sameElse (s : State) (c : Cmd) (rs : List (Nat × Nat)) : SameElse s (openRest s c rs) :=
  SameElse.foldl (fun _ _ => openRange_sameElse _ _ _) (SameElse.refl s)

theorem leaveReport_sameElse (on : Cmd → Bool) (addr : Cmd → Nat) (bs : State → Cmd → Bytes) (s : State) (c : Cmd) (st : Status) :
    SameElse s (leaveReport on addr bs s c st).1 := by
  unfold leaveReport
  split
  · split
    · next r e => exact commitWrites_sameElse e
    · exact SameElse.refl s
  · exact SameElse.refl s

theorem matLeave_sameElse (s : State) (c : Cmd) (st : Status) : SameElse s (matLeave s c st).1 := by
  unfold matLeave
  split
  · exact SameElse.refl s
  · split
    · split
      · next r e => exact (writeMatReport_wrote s c _ (Wrote.refl s c) r e).frame.same
      · exact SameElse.refl s
    · exact SameElse.refl s

theorem appLeave_sameElse (s : State) (c : Cmd) (st : Status) : SameElse s (appLeave s c st).1 := by
  unfold appLeave
  split
  · exact SameElse.refl s
  · exact (openRest_sameElse _ _ _).trans (leaveReport_sameElse _ _ _ _ _ _)

theorem truncLeave_sameElse (s : State) (c : Cmd) (st : Status) : SameElse s (truncLeave s c st).1 := by
  unfold truncLeave
  split
  · exact SameElse.refl s
  · split
    · exact SameElse.refl s
    · exact openRest_sameElse _ _ _

/-- What an operation leaves behind at a status differs only as writes differ. -/
def Op.LeavesWrites (op : Op) : Prop := ∀ s c st, SameElse s (op.leave s c st).1

theorem moveReg_leaves {code : Nat} {c : Cmd} {r : Reg} (e : moveReg code c = some r) : r.op.LeavesWrites := by
  unfold moveReg at e
  split at e
  · cases e; exact leaveReport_sameElse _ _ _
  · split at e
    · cases e; exact fun s _ _ => SameElse.refl s
    · split at e <;> cases e
      dsimp only
      split <;> exact leaveReport_sameElse _ _ _

theorem matrixReg_leaves {code : Nat} {r : Reg} (e : matrixReg code = some r) : r.op.LeavesWrites := by
  unfold matrixReg at e
  split at e
  · cases e; exact matLeave_sameElse
  · split at e <;> cases e
    exact matLeave_sameElse

theorem vectorReg_leaves {code : Nat} {r : Reg} (e : vectorReg code = some r) : r.op.LeavesWrites := by
  unfold vectorReg at e
  split at e <;> cases e
  exact leaveReport_sameElse _ _ _

theorem attentionReg_leaves {ring : List (List Bytes)} {code : Nat} {r : Reg} (e : attentionReg ring code = some r) : r.op.LeavesWrites := by
  unfold attentionReg at e
  split at e <;> cases e
  · exact leaveReport_sameElse _ _ _
  · exact leaveReport_sameElse _ _ _
  · exact appLeave_sameElse
  · exact fun s _ _ => SameElse.refl s
  · exact truncLeave_sameElse
  · exact fun s _ _ => SameElse.refl s

theorem runReg_leaves {ring : List (List Bytes)} {code : Nat} {c : Cmd} {r : Reg} (e : runReg ring code c = some r) : r.op.LeavesWrites := by
  unfold runReg at e
  rcases Option.or_eq_some_iff.mp e with h | ⟨_, h⟩
  · rcases Option.or_eq_some_iff.mp h with h | ⟨_, h⟩
    · exact moveReg_leaves h
    · exact matrixReg_leaves h
  · rcases Option.or_eq_some_iff.mp h with h | ⟨_, h⟩
    · exact vectorReg_leaves h
    · exact attentionReg_leaves h

theorem endWith_sameElse (s : State) (c : Cmd) (st : Status) (outs : List (Nat × Nat)) : SameElse s (endWith s c st outs).1 := by
  unfold endWith
  dsimp only
  split
  · exact openRest_sameElse s c outs
  · exact SameElse.refl s

theorem Op.quit_sameElse {op : Op} (h : op.LeavesWrites) (s : State) (c : Cmd) (st : Status) : SameElse s (op.quit s c st).1 := by
  have withheld : SameElse s ((releaseWithheld s c).toOption.getD s) := by
    unfold releaseWithheld
    split
    · exact SameElse.refl s
    · cases e : s.writeAll c.withheld with
      | error _ => exact SameElse.refl s
      | ok t => exact writeAll_sameElse e
  exact (withheld.trans (h _ _ _)).trans (endWith_sameElse _ _ _ _)

/-! ### What stopping threads never touches -/

/-- The boot, the journal, the controller's requests and the queues stay. -/
structure Rests (s t : State) : Prop where
  boot   : t.boot = s.boot
  jnl    : t.jnl = s.jnl
  per    : t.per = s.per
  queues : t.queues = s.queues

theorem Rests.refl (s : State) : Rests s s := ⟨rfl, rfl, rfl, rfl⟩

theorem Rests.trans {s t u : State} (h : Rests s t) (k : Rests t u) : Rests s u :=
  ⟨k.boot.trans h.boot, k.jnl.trans h.jnl, k.per.trans h.per, k.queues.trans h.queues⟩

theorem Rests.foldl {α : Type} {s t : State} {f : State → α → State} {l : List α} (hf : ∀ u x, Rests u (f u x)) (h : Rests s t) :
    Rests s (l.foldl f t) := by
  induction l generalizing t with
  | nil => exact h
  | cons x l ih => exact ih (h.trans (hf _ _))

/-- Writes, messages and error records touch none of them. -/
theorem SameElse.rests {s t : State} (h : SameElse s t) : Rests s t := by
  unfold SameElse at h
  exact ⟨by rw [h], by rw [h], by rw [h], by rw [h]⟩

theorem putHead_sameElse (s : State) (h : SHead) : SameElse s (s.putHead h) := storeBytes_sameElse _ _ _

theorem dropReleased_sameElse (s : State) (h : SHead) : SameElse s (s.dropReleased h) := by
  unfold State.dropReleased
  split <;> exact putHead_sameElse _ _

theorem stackDone_rests (s : State) (c : Cmd) (ok : Bool) : Rests s (stackDone s c ok) := by
  unfold stackDone
  split
  · exact Rests.refl s
  · next k _ =>
    have drop : Rests s (s.dropClaim k) := ⟨rfl, rfl, rfl, rfl⟩
    refine drop.trans ?_
    dsimp only
    split
    · exact Rests.refl _
    · split
      · exact (storeBytes_sameElse _ _ _).rests
      · split
        · exact ((putHead_sameElse _ _).trans (dropReleased_sameElse _ _)).rests
        · exact Rests.refl _

theorem dropRun_rests (s : State) (t : Thread) (st : Status) : Rests s (dropRun s t st) := by
  unfold dropRun
  split
  · exact Rests.refl s
  · next x e =>
    obtain ⟨d, _, e2⟩ := Option.bind_eq_some_iff.mp e
    obtain ⟨r, hr, rfl⟩ := Option.map_eq_some_iff.mp e2
    exact (Op.quit_sameElse (runReg_leaves hr) _ _ _).rests.trans (stackDone_rests _ _ _)

theorem putCmd_rests (s : State) (c : Cmd) : Rests s (s.putCmd c) := ⟨rfl, rfl, rfl, rfl⟩
theorem putThread_rests (s : State) (t : Thread) : Rests s (s.putThread t) := ⟨rfl, rfl, rfl, rfl⟩
theorem forgetWaiter_rests (s : State) (q n : Nat) : Rests s (s.forgetWaiter q n) := ⟨rfl, rfl, rfl, rfl⟩
theorem dropThread_rests (s : State) (q n : Nat) : Rests s (s.dropThread q n) := ⟨rfl, rfl, rfl, rfl⟩

theorem finishStream_rests (s : State) (c : Cmd) (t : Thread) (st : Status) : Rests s (finishStream s c t st) := by
  unfold finishStream
  refine (dropRun_rests s t st).trans (Rests.trans ?_ ((dropThread_rests _ _ _).trans (putCmd_rests _ _)))
  split
  · next r e => exact (commitWrites_sameElse e).rests
  · exact (noteStop_sameElse _ _ _).rests

theorem settleThread_rests (s : State) (c : Cmd) (t : Thread) : Rests s (settleThread s c t) := by
  unfold settleThread
  split
  · split
    · exact finishStream_rests _ _ _ _
    · exact (putThread_rests _ _).trans (putCmd_rests _ _)
  · exact (putThread_rests _ _).trans (putCmd_rests _ _)

theorem endThread_rests (s : State) (c : Cmd) (t : Thread) (st : Status) : Rests s (endThread s c t st) := by
  unfold endThread endQuiet
  exact (noteStop_sameElse _ _ _).rests.trans (settleThread_rests _ _ _)

theorem movePieces_rests (s : State) (c : Cmd) (bytes e : Nat) : Rests s (s.movePieces c bytes e).1 :=
  Rests.foldl (fun _ _ => ⟨rfl, rfl, rfl, rfl⟩) (Rests.refl s)

theorem movesPieces_rests (bytes : Nat) (es : List Nat) (x : State × Cmd) :
    Rests x.1 (es.foldl (fun (x : State × Cmd) e => x.1.movePieces x.2 bytes e) x).1 := by
  induction es generalizing x with
  | nil => exact Rests.refl _
  | cons e es ih => exact (movePieces_rests _ _ _ _).trans (ih _)

theorem retireMove_rests (s : State) (c : Cmd) (t : Thread) (es : List Nat) : Rests s (retireMove s c t es).1 := by
  unfold retireMove
  split
  · exact Rests.refl s
  · split
    · next r e => exact (commitWrites_sameElse e).rests.trans (movesPieces_rests _ _ _)
    · exact (noteStop_sameElse _ _ _).rests

theorem retireAll_rests (n : Nat) (s : State) (c : Cmd) (t : Thread) : Rests s (retireAll n s c t).1 := by
  induction n generalizing s c t with
  | zero => exact Rests.refl s
  | succ n ih => exact (retireMove_rests _ _ _ _).trans (ih _ _ _)

theorem saveThread_rests {s : State} {c : Cmd} {t : Thread} {w : State × Cmd} (e : saveThread s c t = .ok w) : Rests s w.1 := by
  unfold saveThread at e
  cases h : commitWrites s c ⟨[(stSave c, t.area)], 0⟩ with
  | error x => rw [h] at e; cases e
  | ok r =>
    rw [h] at e
    cases e
    dsimp only
    split
    · exact ((commitWrites_sameElse h).trans (openRange_sameElse _ _ _)).rests
    · exact (commitWrites_sameElse h).rests

theorem stopThread_rests (s : State) (t0 : Thread) : Rests s (stopThread s t0) := by
  unfold stopThread
  split
  · exact Rests.refl s
  · next c0 _ =>
    refine (retireAll_rests t0.moves.length s c0 t0).trans ?_
    dsimp only
    split
    · exact finishStream_rests _ _ _ _
    · split
      · exact endThread_rests _ _ _ _
      · next w e => exact (saveThread_rests e).trans ((forgetWaiter_rests _ _ _).trans ((putThread_rests _ _).trans (putCmd_rests _ _)))

theorem stopThreads_rests (s : State) (sel : Thread → Bool) : Rests s (s.stopThreads sel) :=
  Rests.foldl stopThread_rests (Rests.refl s)

theorem stopWork_rests (s : State) (r : Nat) : Rests s (s.stopWork r) := by
  unfold State.stopWork
  refine Rests.trans ?_ (stopThreads_rests _ _)
  unfold State.expectFall
  split <;> exact ⟨rfl, rfl, rfl, rfl⟩

end Sys2Proof.Machine

end

section
/-! PROOFS. The four resets, the boot, its lock and the firmware update (R446 to R455, R462). -/

open Sys2Proof Sys2Proof.Machine

namespace Sys2Proof.Machine

/-! ### Which resets are taken (R446, R451) -/

theorem answers_power {s : State} (h : s.answers = true) : s.power = .on := by
  unfold State.answers at h
  simp only [Bool.and_eq_true, decide_eq_true_eq] at h
  exact h.1

theorem answers_not_halted {s : State} (h : s.answers = true) : s.boot.stage ≠ .halted := by
  unfold State.answers at h
  simp only [Bool.and_eq_true, decide_eq_true_eq] at h
  exact h.2

theorem keyOk_register (k : BitVec 8) : keyOk .register k = (k == 0xA5) := by simp [keyOk]

theorem regionReset_badKey {s : State} (h : s.answers = true) {k : BitVec 8} (hk : k ≠ 0xA5) (m : Nat) :
    regionReset .register k m s = s.badWrite pgBoot 0x100 := by
  have bad : keyOk .register k = false := by rw [keyOk_register]; exact beq_eq_false_iff_ne.mpr hk
  simp [regionReset, h, bad, State.badReset]

theorem regionReset_refused {s : State} (h : s.answers = true) (hd : s.deviceStop = true) (m : Nat) :
    regionReset .register 0xA5 m s = { s with boot := { s.boot with refused := true } } := by
  simp [regionReset, h, hd, keyOk_register, State.refuseReset]

theorem workReset_badKey {s : State} (h : s.answers = true) {k : BitVec 8} (hk : k ≠ 0xA5) :
    workReset .register k s = s.badWrite pgBoot 0x100 := by
  have bad : keyOk .register k = false := by rw [keyOk_register]; exact beq_eq_false_iff_ne.mpr hk
  simp [workReset, answers_power h, answers_not_halted h, bad, State.badReset]

theorem workReset_refused {s : State} (h : s.answers = true) (hd : s.deviceStop = true) :
    workReset .register 0xA5 s = { s with boot := { s.boot with refused := true } } := by
  simp [workReset, answers_power h, answers_not_halted h, hd, keyOk_register, State.refuseReset]

/-! ### The lock (R454 step 8) -/

theorem bootLock_taken {s : State} (h : s.answers = true) (hs : s.boot.stage = .awaitConfig) (hz : s.per.sizeGib ≤ 4096) {v : Nat}
    (hv : v.testBit 0 = true) :
    bootLock v s = { s with boot := { s.boot with stage := .run, locked := true }, jnl := { s.jnl with state := .scanning, afterCold := true } } := by
  have fits : ¬ 4096 < s.per.sizeGib := by omega
  simp [bootLock, bitAt, h, hs, fits, hv]

theorem bootLock_late {s : State} (h : s.answers = true) (hs : s.boot.stage ≠ .awaitConfig) {v : Nat} (hv : v.testBit 0 = true) :
    bootLock v s = s.badWrite pgBoot 0x120 := by
  simp [bootLock, bitAt, h, hs, hv]

/-! ### The firmware update (R462) -/

theorem fwActivate_not_staged {s : State} (h : s.answers = true) (hf : s.boot.fwState ≠ 2) : fwActivate s = s.badWrite pgBoot 0x130 := by
  simp [fwActivate, h, hf]

theorem fwActivate_otherCompat {s : State} (h : s.answers = true) (hf : s.boot.fwState = 2)
    (hc : imCompat (s.boot.image (1 - s.boot.preferred) 1) ≠ imCompat s.boot.fw) :
    fwActivate s = { s with boot := { s.boot with fwFail := 6 } } := by
  simp [fwActivate, h, hf, hc]

theorem fwActivate_prefers {s : State} (h : s.answers = true) (hf : s.boot.fwState = 2)
    (hc : imCompat (s.boot.image (1 - s.boot.preferred) 1) = imCompat s.boot.fw) :
    fwActivate s = { s with boot := { s.boot with preferred := 1 - s.boot.preferred, fwState := 0 } } := by
  simp [fwActivate, h, hf, hc]

theorem fwCommitSvn_eq {s : State} (h : s.answers = true) :
    fwCommitSvn s = { s with boot := { s.boot with svnMin := max s.boot.svnMin (s.boot.bankSvn s.boot.preferred) } } := by
  simp [fwCommitSvn, h]

/-- The flash with a bundle of three in a bank. -/
def bundleFlash (flash : Tab Bytes) (bank : Nat) (x y z : Bytes) : Tab Bytes :=
  tabSet [] (tabSet [] (tabSet [] flash (4 * bank + 1) x) (4 * bank + 2) y) (4 * bank + 3) z

theorem fwStageDone_verified {s : State} (ha : s.alive = true) (hf : s.boot.fwState = 1) {x y z : Bytes}
    (hb : s.bundleFrom (s.boot.fwLoadAddr * 4096) = .ok [x, y, z]) (hx : imFail s.boot 1 x = none) (hy : imFail s.boot 2 y = none)
    (hz : imFail s.boot 3 z = none) (hl : x.length + (y.length + z.length) ≤ bankBytes) :
    fwStageDone true s =
      { s with boot := { s.boot with flash := bundleFlash s.boot.flash (1 - s.boot.preferred) x y z, fwState := 2, fwFail := 0 } } := by
  have fits : ¬ bankBytes < x.length + (y.length + z.length) := by omega
  simp [fwStageDone, ha, hf, hb, hx, hy, hz, fits, State.fwIs, bundleFlash, List.zipIdx]

theorem fwStageDone_unreadable {s : State} (ha : s.alive = true) (hf : s.boot.fwState = 1) {e : Status}
    (hb : s.bundleFrom (s.boot.fwLoadAddr * 4096) = .error e) :
    fwStageDone true s = { s with boot := { s.boot with fwState := 3, fwFail := 2 } } := by
  simp [fwStageDone, ha, hf, hb, State.fwIs]

theorem bundleFlash_get (flash : Tab Bytes) (bank k : Nat) (x y z : Bytes) :
    tabGet [] (bundleFlash flash bank x y z) (4 * bank + k) =
      if k = 3 then z else if k = 2 then y else if k = 1 then x else tabGet [] flash (4 * bank + k) := by
  simp [bundleFlash, tabGet_tabSet]

/-- The firmware part of the statement. -/
theorem firmware_rows {s : State} (h : s.answers = true) :
    (s.boot.fwState = 2 → imCompat (s.boot.image (1 - s.boot.preferred) 1) = imCompat s.boot.fw →
      exec .fwActivate s = .next { s with boot := { s.boot with preferred := 1 - s.boot.preferred, fwState := 0 } }) ∧
    (s.boot.fwState = 2 → imCompat (s.boot.image (1 - s.boot.preferred) 1) ≠ imCompat s.boot.fw →
      exec .fwActivate s = .next { s with boot := { s.boot with fwFail := 6 } }) ∧
    (s.boot.fwState ≠ 2 → exec .fwActivate s = .next (s.badWrite pgBoot 0x130)) ∧
    exec .fwCommitSvn s = .next { s with boot := { s.boot with svnMin := max s.boot.svnMin (min (imSvn (s.boot.image s.boot.preferred 1))
      (min (imSvn (s.boot.image s.boot.preferred 2)) (imSvn (s.boot.image s.boot.preferred 3)))) } } :=
  ⟨fun hf hc => congrArg Host.Outcome.next (fwActivate_prefers h hf hc), fun hf hc => congrArg Host.Outcome.next (fwActivate_otherCompat h hf hc),
   fun hf => congrArg Host.Outcome.next (fwActivate_not_staged h hf), congrArg Host.Outcome.next (fwCommitSvn_eq h)⟩

theorem staging_rows {s : State} (ha : s.alive = true) :
    exec .fwStage s = .next { s with boot := { s.boot with fwState := 1, fwFail := 0 } } ∧
    (s.boot.fwState = 1 → ∀ (x y z : Bytes), s.bundleFrom (s.boot.fwLoadAddr * 4096) = .ok [x, y, z] →
      imFail s.boot 1 x = none → imFail s.boot 2 y = none → imFail s.boot 3 z = none → x.length + (y.length + z.length) ≤ bankBytes →
      ∃ t : State, exec (.fwStageDone true) s = .next t ∧ t = { s with boot := { s.boot with flash := t.boot.flash, fwState := 2, fwFail := 0 } } ∧
        t.boot.image (1 - s.boot.preferred) 1 = x ∧ t.boot.image (1 - s.boot.preferred) 2 = y ∧ t.boot.image (1 - s.boot.preferred) 3 = z) ∧
    (s.boot.fwState = 1 → ∀ e : Status, s.bundleFrom (s.boot.fwLoadAddr * 4096) = .error e →
      exec (.fwStageDone true) s = .next { s with boot := { s.boot with fwState := 3, fwFail := 2 } }) := by
  refine ⟨congrArg Host.Outcome.next (if_pos ha), fun hf x y z hb hx hy hz hl => ?_,
    fun hf e hb => congrArg Host.Outcome.next (fwStageDone_unreadable ha hf hb)⟩
  refine ⟨_, congrArg Host.Outcome.next (fwStageDone_verified ha hf hb hx hy hz hl), rfl, ?_, ?_, ?_⟩
  · exact (bundleFlash_get _ _ 1 x y z)
  · exact (bundleFlash_get _ _ 2 x y z)
  · exact (bundleFlash_get _ _ 3 x y z)

/-! ### Region reset (R447, R448) -/

/-- Flushing the parity buffer changes memory and the counters of pages alone. -/
def FlushOnly (s t : State) : Prop := t = { s with mem := t.mem, pages := t.pages }

theorem FlushOnly.refl (s : State) : FlushOnly s s := rfl

theorem FlushOnly.trans {s t u : State} (h : FlushOnly s t) (k : FlushOnly t u) : FlushOnly s u := by
  unfold FlushOnly at h k ⊢
  rw [k, h]

theorem FlushOnly.foldl {α : Type} {s t : State} {f : State → α → State} {l : List α} (hf : ∀ u x, FlushOnly u (f u x)) (h : FlushOnly s t) :
    FlushOnly s (l.foldl f t) := by
  induction l generalizing t with
  | nil => exact h
  | cons x l ih => exact ih (h.trans (hf _ _))

theorem parityXor_flushOnly (s : State) (x : Nat) (d : Byte) : FlushOnly s (s.parityXor x d) := by
  unfold State.parityXor
  split <;> rfl

theorem evictLine_flushOnly (s : State) (l : ParityLine) : FlushOnly s (s.evictLine l) := by
  have deltas : FlushOnly s (l.delta.foldl (fun t e => t.parityXor (l.stripe * 4096 + e.1) e.2) s) :=
    FlushOnly.foldl (fun _ _ => parityXor_flushOnly _ _ _) rfl
  exact deltas.trans rfl

theorem flushParity_flushOnly (s : State) : FlushOnly s s.flushParity :=
  have lines : FlushOnly s (s.mem.parity.foldl (fun t l => t.evictLine l) s) := FlushOnly.foldl evictLine_flushOnly (FlushOnly.refl s)
  lines.trans rfl

theorem flushParity_parity (s : State) : s.flushParity.mem.parity = [] := rfl

/-- The regions' own registers and the pages are all that their reset changes. -/
theorem resetRegionRegs_eq (s : State) (r : Nat) :
    s.resetRegionRegs r = { s with pages := (s.resetRegionRegs r).pages, regions := (s.resetRegionRegs r).regions } := rfl

theorem resetRegionRegs_pages (s : State) (r : Nat) :
    (s.resetRegionRegs r).pages = s.pages.map (fun e =>
      if pgRegion r ≤ e.1 ∧ e.1 < pgRegion r + 12 then (e.1, { e.2 with errMask := 0, ev := [], evFreeze := false, injectNext := false }) else e) := by
  unfold State.resetRegionRegs
  simp only [State.putRegion_pages, Bool.and_eq_true, decide_eq_true_eq]
  rfl

theorem resendMirror_sends (s : State) : SendsOnly s s.resendMirror := by
  unfold State.resendMirror
  split
  · exact SendsOnly.refl s
  · refine SendsOnly.foldl (fun u w h => ?_) (SendsOnly.refl s)
    split
    · exact h.trans (sendTwin_sends _ _ _ _)
    · exact h

theorem resendMirror_alone {s : State} (h : s.twinned = false) : s.resendMirror = s := by
  unfold State.resendMirror
  rw [h]
  rfl

theorem resetting_none {k : Boot} (h : k.running = none) (r : Nat) : k.resetting r = false := by
  unfold Boot.resetting
  rw [h]

theorem workRuns_none {k : Boot} (h : k.running = none) : k.workRuns = false := by
  unfold Boot.workRuns
  rw [h]
  rfl

/-- A mask of one bit names one region. -/
theorem range8_filter_mask : ∀ r : Fin 8, (List.range 8).filter (fun k => (BitVec.ofNat 8 (2 ^ r.val)).toNat.testBit k) = [r.val] := by decide

/-- A reset of one region: the buffer is flushed, and that region is reset. -/
theorem regionReset_one {s : State} (h : s.answers = true) (hd : s.deviceStop = false) (hs : s.boot.stage = .run) (hj : s.jnl.state ≠ .scanning)
    (hr : s.boot.running = none) (r : Fin 8) :
    regionReset .register 0xA5 (BitVec.ofNat 8 (2 ^ r.val)).toNat s = ((s.flushParity.resetStarts 1 .register).resetRegion r).resendMirror := by
  have named : (List.range 8).filter (fun k => (BitVec.ofNat 8 (2 ^ r.val)).toNat.testBit k && !s.boot.resetting k) = [r.val] := by
    simp only [resetting_none hr, Bool.not_false, Bool.and_true]
    exact range8_filter_mask r
  unfold regionReset
  rw [named]
  simp [h, hd, hs, hj, keyOk_register, workRuns_none hr]

theorem resetRegion_outOfService {s : State} {r : Nat} (h : (s.region r).state ≠ .inService) : s.resetRegion r = s.resetRegionRegs r := by
  unfold State.resetRegion
  rw [if_pos h]

/-- The region's work has stopped, and it drains for its reset with the regions of a mask. -/
def State.drainsForReset (s : State) (r mask : Nat) : State :=
  let t := (s.stopWork r).putRegion r { (s.stopWork r).region r with state := .draining }
  { t with boot := { t.boot with running := some (1, mask) } }

/-- The regions that drain for their reset. -/
def Boot.resetMask (k : Boot) : Nat := match k.running with | some (1, m) => m | _ => 0

theorem region_putRegion (s : State) (r : Nat) (g : Region) : (s.putRegion r g).region r = g := tabGet_tabSet_same r g

theorem resetRegion_inService {s : State} {r : Nat} (h : (s.region r).state = .inService) (hr : s.boot.running = none) :
    s.resetRegion r =
      if (s.drainsForReset r (2 ^ r)).regionEmpty r then (s.drainsForReset r (2 ^ r)).endRegionReset r else s.drainsForReset r (2 ^ r) := by
  have mask : (s.stopWork r).boot.resetMask + 2 ^ r = 2 ^ r := by
    unfold Boot.resetMask
    rw [(stopWork_rests s r).boot, hr]
    exact Nat.zero_add _
  rw [← mask]
  unfold State.resetRegion
  rw [if_neg (not_not_intro h)]
  rfl

theorem drainsForReset_boot (s : State) (r m : Nat) : (s.drainsForReset r m).boot = { s.boot with running := some (1, m) } := by
  rw [← (stopWork_rests s r).boot]
  rfl

theorem drainsForReset_rests (s : State) (r m : Nat) : (s.drainsForReset r m).queues = s.queues ∧ (s.drainsForReset r m).jnl = s.jnl :=
  ⟨(stopWork_rests s r).queues, (stopWork_rests s r).jnl⟩

theorem drainsForReset_state (s : State) (r m : Nat) : ((s.drainsForReset r m).region r).state = .draining := by
  show (((s.stopWork r).putRegion r { (s.stopWork r).region r with state := .draining }).region r).state = _
  rw [region_putRegion]

/-- The regions that still drain for their reset once region `r` does not. -/
def Boot.resetLeft (k : Boot) (r : Nat) : Nat := match k.running with | some (1, m) => m - bit (m.testBit r) * 2 ^ r | _ => 0

theorem endRegionReset_boot (s : State) (r : Nat) :
    (s.endRegionReset r).boot = { s.boot with running := if s.boot.resetLeft r = 0 then none else some (1, s.boot.resetLeft r) } := rfl

theorem endRegionReset_last {s : State} {r : Nat} (h : s.boot.running = some (1, 2 ^ r)) :
    (s.endRegionReset r).boot = { s.boot with running := none } := by
  have left : s.boot.resetLeft r = 0 := by
    unfold Boot.resetLeft
    rw [h]
    simp [bit]
  rw [endRegionReset_boot, left]
  rfl

theorem endRegionReset_state (s : State) (r : Nat) : ((s.endRegionReset r).region r).state = .inService := by
  show (((s.resetRegionRegs r).putRegion r { (s.resetRegionRegs r).region r with state := .inService, aborting := false }).region r).state = _
  rw [region_putRegion]

theorem endRegionReset_rests (s : State) (r : Nat) : (s.endRegionReset r).queues = s.queues ∧ (s.endRegionReset r).jnl = s.jnl := ⟨rfl, rfl⟩

/-- A region in service that is reset drains, or, with no work, is back in service; nothing that a stop of its threads keeps changes. -/
theorem resetRegion_drains {s : State} {r : Nat} (h : (s.region r).state = .inService) (hr : s.boot.running = none) :
    (s.resetRegion r).boot.lastKind = s.boot.lastKind ∧ (s.resetRegion r).queues = s.queues ∧ (s.resetRegion r).jnl = s.jnl ∧
    ((((s.resetRegion r).region r).state = .draining ∧ (s.resetRegion r).boot.running = some (1, 2 ^ r)) ∨
     (((s.resetRegion r).region r).state = .inService ∧ (s.resetRegion r).boot.running = none)) := by
  have boot := drainsForReset_boot s r (2 ^ r)
  obtain ⟨queues, jnl⟩ := drainsForReset_rests s r (2 ^ r)
  have draining := drainsForReset_state s r (2 ^ r)
  rw [resetRegion_inService h hr]
  generalize s.drainsForReset r (2 ^ r) = u at boot queues jnl draining
  split
  · obtain ⟨queues', jnl'⟩ := endRegionReset_rests u r
    have boot' : (u.endRegionReset r).boot = { u.boot with running := none } := endRegionReset_last (by rw [boot])
    exact ⟨by rw [boot', boot], queues'.trans queues, jnl'.trans jnl, .inr ⟨endRegionReset_state u r, by rw [boot']⟩⟩
  · exact ⟨by rw [boot], queues, jnl, .inl ⟨draining, by rw [boot]⟩⟩

theorem regionReset_outOfService_rows {s : State} (h : s.answers = true) (hd : s.deviceStop = false) (hs : s.boot.stage = .run)
    (hj : s.jnl.state ≠ .scanning) (hr : s.boot.running = none) (ht : s.twinned = false) (r : Fin 8) (ho : (s.region r).state ≠ .inService) :
    ∃ t : State, exec (.regionReset .register 0xA5 (BitVec.ofNat 8 (2 ^ r.val))) s = .next t ∧
      t = { s.flushParity with pages := t.pages, regions := t.regions, boot := { s.boot with lastKind := 1, cause := 2 }
                               grey := { fails := s.grey.fails, backingOff := s.grey.backingOff } } ∧
      t.pages = s.flushParity.pages.map (fun e => if pgRegion r ≤ e.1 ∧ e.1 < pgRegion r + 12 then (e.1, { e.2 with errMask := 0, ev := [], evFreeze := false, injectNext := false }) else e) := by
  have flush : FlushOnly s s.flushParity := flushParity_flushOnly s
  unfold FlushOnly at flush
  have out : ((s.flushParity.resetStarts 1 .register).region r).state ≠ .inService := by
    have same : (s.flushParity.resetStarts 1 .register).region r = s.region r := by
      show tabGet {} s.flushParity.regions r = _
      rw [flush]; rfl
    rw [same]; exact ho
  have alone : ((s.flushParity.resetStarts 1 .register).resetRegionRegs r).twinned = false := by
    rw [← ht]
    show s.flushParity.twinned = s.twinned
    rw [flush]; rfl
  refine ⟨(s.flushParity.resetStarts 1 .register).resetRegionRegs r, ?_, ?_, resetRegionRegs_pages _ _⟩
  · show Host.Outcome.next (regionReset .register 0xA5 (BitVec.ofNat 8 (2 ^ r.val)).toNat s) = _
    rw [regionReset_one h hd hs hj hr r, resetRegion_outOfService out, resendMirror_alone alone]
  · rw [resetRegionRegs_eq]
    have boot : s.flushParity.boot = s.boot := by rw [flush]
    have grey : s.flushParity.grey = s.grey := by rw [flush]
    unfold State.resetStarts
    rw [boot, grey]
    rfl

theorem regionReset_inService_rows {s : State} (h : s.answers = true) (hd : s.deviceStop = false) (hs : s.boot.stage = .run)
    (hj : s.jnl.state ≠ .scanning) (hr : s.boot.running = none) (r : Fin 8) (hi : (s.region r).state = .inService) :
    ∃ t : State, exec (.regionReset .register 0xA5 (BitVec.ofNat 8 (2 ^ r.val))) s = .next t ∧
      t.boot.lastKind = 1 ∧ t.queues = s.queues ∧ t.jnl = s.jnl ∧
      (((t.region r).state = .draining ∧ t.boot.running = some (1, 2 ^ r.val)) ∨ ((t.region r).state = .inService ∧ t.boot.running = none)) := by
  have flush : FlushOnly s s.flushParity := flushParity_flushOnly s
  unfold FlushOnly at flush
  have serves : ((s.flushParity.resetStarts 1 .register).region r).state = .inService := by
    rw [← hi]
    show (s.flushParity.region r).state = _
    rw [flush]; rfl
  have idle : (s.flushParity.resetStarts 1 .register).boot.running = none := by
    rw [← hr]
    show s.flushParity.boot.running = _
    rw [flush]
  obtain ⟨kind, queues, jnl, ends⟩ := resetRegion_drains serves idle
  have sent := resendMirror_sends ((s.flushParity.resetStarts 1 .register).resetRegion r)
  refine ⟨_, congrArg Host.Outcome.next (regionReset_one h hd hs hj hr r), ?_, ?_, ?_, ?_⟩
  · rw [sent.1]; exact kind
  · rw [sent.1]
    refine queues.trans ?_
    show s.flushParity.queues = _
    rw [flush]
  · rw [sent.1]
    refine jnl.trans ?_
    show s.flushParity.jnl = _
    rw [flush]
  · rw [sent.1]; exact ends

/-! ### Work reset (R407, R447 to R449) -/

/-- Fence reads that return change only how many were served, which still wait, and the outbox. -/
def FencesOnly (s t : State) : Prop :=
  t = { s with per := { s.per with fenceLink := t.per.fenceLink, linkFences := t.per.linkFences }, outbox := t.outbox }

theorem FencesOnly.trans {s t u : State} (h : FencesOnly s t) (k : FencesOnly t u) : FencesOnly s u := by
  unfold FencesOnly at h k ⊢
  rw [k, h]

theorem serveLinkFences_fencesOnly (fs : List FenceRead) (s : State) : FencesOnly s (fs.foldl State.serveLinkFence s) := by
  induction fs generalizing s with
  | nil => rfl
  | cons f fs ih =>
    have one : FencesOnly s (s.serveLinkFence f) := rfl
    exact one.trans (ih _)

theorem settleLinkFences_fencesOnly (s : State) : FencesOnly s s.settleLinkFences := by
  have kept : FencesOnly s { s with per := { s.per with linkFences := s.per.linkFences.filter (fun f => !s.linkFenceDue f) } } := rfl
  exact kept.trans (serveLinkFences_fencesOnly _ _)

/-- What ends a work reset, but for the messages that its end lets go. -/
structure WorkEnded (u t : State) : Prop where
  boot     : t.boot = u.boot
  cmds     : t.cmds = u.cmds
  hqs      : t.hqs = u.hqs
  threads  : t.threads = u.threads
  requests : t.per.requests = u.per.requests
  mem      : t.mem = u.mem
  tow      : t.tow = u.tow
  queues   : t.queues = u.queues
  jnl      : t.jnl = u.jnl
  fetches  : t.fetches = u.fetches
  ready    : t.ready = u.ready

theorem FencesOnly.workEnded {s t : State} (h : FencesOnly s t) : WorkEnded s t := by
  unfold FencesOnly at h
  constructor <;> rw [h]

theorem SendsOnly.workEnded {s t : State} (h : SendsOnly s t) : WorkEnded s t := by
  constructor <;> rw [h.1]

theorem WorkEnded.trans {s t u : State} (h : WorkEnded s t) (k : WorkEnded t u) : WorkEnded s u :=
  ⟨k.boot.trans h.boot, k.cmds.trans h.cmds, k.hqs.trans h.hqs, k.threads.trans h.threads, k.requests.trans h.requests, k.mem.trans h.mem,
   k.tow.trans h.tow, k.queues.trans h.queues, k.jnl.trans h.jnl, k.fetches.trans h.fetches, k.ready.trans h.ready⟩

/-- The service image that a work reset leaves running. -/
def Boot.reloaded (k : Boot) : Bytes := if k.imageOk k.preferred 1 then imHeader (k.image k.preferred 1) else k.fw

/-- The state at the end of a work reset, before fence reads return and records go out again. -/
def State.workDone (t : State) (forced : Bool) : State :=
  { t with boot := { t.boot with running := none, forced := forced, fw := t.boot.reloaded }, per := { t.per with requests := [] },
           cmds := t.cmds.map (Cmd.halt (fun _ => false)), hqs := if forced then [] else t.hqs, threads := if forced then [] else t.threads }

theorem workDone_ends (u : State) (forced : Bool) : WorkEnded (u.workDone forced) (u.workDone forced).settleLinkFences.resendMirror :=
  (settleLinkFences_fencesOnly _).workEnded.trans (resendMirror_sends _).workEnded

theorem finishWork_false (s : State) : WorkEnded (s.flushParity.workDone false) (s.finishWork false) := workDone_ends s.flushParity false

theorem finishWork_true (s : State) : WorkEnded (s.unsync.workDone true) (s.finishWork true) := workDone_ends s.unsync true

/-- A command that halts without a request of its own does not run. -/
theorem halt_not_started (c : Cmd) : (Cmd.halt (fun _ => false) c).phase ≠ .started := by
  unfold Cmd.halt
  split
  · exact Phase.noConfusion
  · next h => exact fun e => h ⟨e, rfl⟩

theorem hold_held (x : QueueCtx) : x.hold.state = .disabled ∨ x.hold.state = .held := by
  unfold QueueCtx.hold
  split
  · next h => exact .inl h
  · exact .inr rfl

theorem heldThreads_saved (s : State) (halt : Cmd → Cmd) : ∀ w ∈ s.heldThreads halt, w.saved = true := by
  intro w hw
  obtain ⟨x, hx, rfl⟩ := List.mem_map.mp hw
  exact (List.mem_filter.mp hx).2

theorem stopRegionReset_idle {s : State} (h : s.boot.running = none) : s.stopRegionReset = s := by
  have still : ∀ l : List Nat, l.foldl (fun (t : State) r =>
      if s.boot.resetting r && (t.region r).state == .draining then t.putRegion r { t.region r with state := .inService } else t) s = s := by
    intro l
    induction l with
    | nil => rfl
    | cons r l ih =>
      rw [List.foldl_cons, resetting_none h, Bool.false_and, if_neg Bool.false_ne_true]
      exact ih
  exact still (List.range 8)

theorem stopThreads_none {s : State} (h : s.threads = []) (sel : Thread → Bool) : s.stopThreads sel = s := by
  unfold State.stopThreads
  rw [h]
  rfl

/-- What the quiesce leaves. -/
structure Quiesced (s t : State) : Prop where
  boot     : t.boot = s.boot
  requests : t.per.requests = s.per.requests
  owed     : t.jnl.owed = s.jnl.owed
  scans    : t.jnl.state = if s.jnl.state = .broken then .broken else .scanning
  threads  : ∀ w ∈ t.threads, w.saved = true
  fetches  : t.fetches = []
  ready    : t.ready = []
  queues   : ∀ e ∈ t.queues, e.2.state = .disabled ∨ e.2.state = .held
  hqs      : s.threads = [] → t.hqs = s.hqs

theorem quiesce_quiesced (s : State) : Quiesced s s.quiesce := by
  have rests := stopThreads_rests s (fun _ => true)
  constructor
  case boot => exact rests.boot
  case requests => exact congrArg Perast.requests rests.per
  case owed =>
    show (s.stopThreads (fun _ => true)).jnl.owed = _
    rw [rests.jnl]
  case scans =>
    show (if (s.stopThreads (fun _ => true)).jnl.state = .broken then JState.broken else JState.scanning) = _
    rw [rests.jnl]
  case threads => exact heldThreads_saved _ _
  case fetches => rfl
  case ready => rfl
  case queues =>
    intro e he
    obtain ⟨x, _, rfl⟩ := List.mem_map.mp he
    exact hold_held x.2
  case hqs =>
    intro h
    show (s.stopThreads (fun _ => true)).hqs = s.hqs
    rw [stopThreads_none h]

/-- A work reset of a module that nothing holds completes at once. -/
theorem workReset_completes {s : State} (h : s.answers = true) (hd : s.deviceStop = false) (hs : s.boot.stage = .run)
    (hj : s.jnl.state ≠ .scanning) (hq : s.quiet = true) (hr : s.boot.running = none) :
    workReset .register 0xA5 s =
      ({ (s.resetStarts 2 .register).quiesce with
          boot := { (s.resetStarts 2 .register).quiesce.boot with running := some (2, 0) } } : State).finishWork false := by
  have quiesced := quiesce_quiesced (s.resetStarts 2 .register)
  have taken : workReset .register 0xA5 s = ({ (s.resetStarts 2 .register).quiesce with
      boot := { (s.resetStarts 2 .register).quiesce.boot with running := some (2, 0) } } : State).settleWork := by
    unfold workReset
    simp [answers_power h, hd, hs, hj, keyOk_register, workRuns_none hr, stopRegionReset_idle hr]
  have quiet : (s.resetStarts 2 .register).quiesce.quiet = true := by
    unfold State.quiet
    rw [quiesced.requests, quiesced.owed]
    exact hq
  rw [taken]
  exact if_pos quiet

theorem workReset_rows {s : State} (h : s.answers = true) (hd : s.deviceStop = false) (hs : s.boot.stage = .run) (hj : s.jnl.state ≠ .scanning)
    (hq : s.quiet = true) (hr : s.boot.running = none) :
    ∃ t : State, exec (.workReset .register 0xA5) s = .next t ∧ t.boot.lastKind = 2 ∧ t.boot.running = none ∧ t.boot.forced = false ∧
      (∀ w ∈ t.threads, w.saved = true) ∧ t.fetches = [] ∧ t.ready = [] ∧ (∀ c ∈ t.cmds, c.phase ≠ .started) ∧ (s.threads = [] → t.hqs = s.hqs) ∧
      t.mem.parity = [] ∧ t.jnl.state = (if s.jnl.state = .broken then .broken else .scanning) ∧
      (∀ e ∈ t.queues, e.2.state = .disabled ∨ e.2.state = .held) := by
  have quiesced := quiesce_quiesced (s.resetStarts 2 .register)
  refine ⟨_, congrArg Host.Outcome.next (workReset_completes h hd hs hj hq hr), ?_⟩
  generalize (s.resetStarts 2 .register).quiesce = u at quiesced
  have flush := flushParity_flushOnly ({ u with boot := { u.boot with running := some (2, 0) } } : State)
  have ended := finishWork_false ({ u with boot := { u.boot with running := some (2, 0) } } : State)
  generalize ({ u with boot := { u.boot with running := some (2, 0) } } : State).finishWork false = t at ended
  have parity := flushParity_parity ({ u with boot := { u.boot with running := some (2, 0) } } : State)
  generalize ({ u with boot := { u.boot with running := some (2, 0) } } : State).flushParity = v at flush ended parity
  unfold FlushOnly at flush
  refine ⟨?_, ?_, ?_, ?_, ?_, ?_, ?_, ?_, ?_, ?_, ?_⟩
  · rw [ended.boot]
    show v.boot.lastKind = 2
    rw [flush]
    exact congrArg Boot.lastKind quiesced.boot
  · rw [ended.boot]; rfl
  · rw [ended.boot]; rfl
  · rw [ended.threads]
    show ∀ w ∈ v.threads, _
    rw [flush]
    exact quiesced.threads
  · rw [ended.fetches]
    show v.fetches = []
    rw [flush]
    exact quiesced.fetches
  · rw [ended.ready]
    show v.ready = []
    rw [flush]
    exact quiesced.ready
  · rw [ended.cmds]
    intro c hc
    obtain ⟨d, _, rfl⟩ := List.mem_map.mp hc
    exact halt_not_started d
  · intro hn
    rw [ended.hqs]
    show v.hqs = s.hqs
    rw [flush]
    exact quiesced.hqs hn
  · rw [ended.mem]; exact parity
  · rw [ended.jnl]
    show v.jnl.state = _
    rw [flush]
    exact quiesced.scans
  · rw [ended.queues]
    show ∀ e ∈ v.queues, _
    rw [flush]
    exact quiesced.queues

/-! ### The forced completion (R248, R449) -/

theorem unsync_parity (s : State) : s.unsync.mem.parity = [] := by
  unfold State.unsync
  dsimp only
  split <;> rfl

theorem unsync_unsynced {s : State} (h : ¬ (s.tow.sts = .rebuilding ∧ s.tow.cursor = 0)) :
    s.unsync.tow.sts = .unsynced ∧ s.unsync.tow.cursor = 0 := by
  unfold State.unsync
  dsimp only
  rw [if_neg h]
  split
  · next hu => exact ⟨hu, rfl⟩
  · exact ⟨rfl, rfl⟩

theorem workResetForced_rows {s : State} (ha : s.alive = true) (hr : ∃ m, s.boot.running = some (2, m)) :
    ∃ t : State, exec .workResetForced s = .next t ∧ t.boot.forced = true ∧ t.boot.running = none ∧ t.hqs = [] ∧ t.per.requests = [] ∧
      t.mem.parity = [] ∧ (¬ (s.tow.sts = .rebuilding ∧ s.tow.cursor = 0) → t.tow.sts = .unsynced ∧ t.tow.cursor = 0) := by
  obtain ⟨m, hm⟩ := hr
  have taken : exec .workResetForced s = .next (s.finishWork true) := by
    show execWorkResetForced s = _
    unfold execWorkResetForced
    simp [hm, ha]
  have ended := finishWork_true s
  refine ⟨_, taken, ?_⟩
  generalize s.finishWork true = t at ended
  refine ⟨?_, ?_, ?_, ?_, ?_, fun h => ?_⟩
  · rw [ended.boot]; rfl
  · rw [ended.boot]; rfl
  · rw [ended.hqs]; rfl
  · rw [ended.requests]; rfl
  · rw [ended.mem]; exact unsync_parity s
  · rw [ended.tow]; exact unsync_unsynced h

/-! ### The boot of a cold reset (R447, R454) -/

theorem bootBank_coldBase (s : State) (kind : Nat) (cause : Cause) : (s.coldBase kind cause).boot.bootBank = s.boot.bootBank := rfl

/-- The boot's self-test and images change the regions, the towers' units and the links alone. -/
def LoadsOnly (s t : State) : Prop :=
  t = { s with regions := t.regions, tow := { s.tow with towers := t.tow.towers }, lnk := { s.lnk with links := t.lnk.links } }

theorem LoadsOnly.refl (s : State) : LoadsOnly s s := rfl

theorem LoadsOnly.trans {s t u : State} (h : LoadsOnly s t) (k : LoadsOnly t u) : LoadsOnly s u := by
  unfold LoadsOnly at h k ⊢
  rw [k, h]

theorem LoadsOnly.foldl {α : Type} {s t : State} {f : State → α → State} {l : List α} (hf : ∀ u x, LoadsOnly u (f u x)) (h : LoadsOnly s t) :
    LoadsOnly s (l.foldl f t) := by
  induction l generalizing t with
  | nil => exact h
  | cons x l ih => exact ih (h.trans (hf _ _))

/-- The regions of step 6. -/
def State.loadRegions (s : State) : State :=
  (List.range 8).foldl (fun (t : State) r => t.putRegion r { t.region r with
    state := if s.boot.loads 2 then .inService else .faulted
    fw    := if s.boot.loads 2 then imHeader (s.boot.image s.boot.bank 2) else [] }) s

/-- The tower units of step 6, by the boot of `s`. -/
def State.loadTowers (s t : State) : State :=
  (List.range 18).foldl (fun (t : State) k =>
    if t.towerFitted k then t.putTower k { t.tower k with
      unit := if s.boot.loads 3 then .inService else .drained
      fw   := if s.boot.loads 3 then imHeader (s.boot.image s.boot.bank 3) else [] } else t) t

theorem loadAll_eq (s : State) : s.loadAll = s.loadTowers s.loadRegions := rfl

theorem loadAll_loadsOnly (s : State) : LoadsOnly s s.loadAll := by
  have regions : LoadsOnly s s.loadRegions := LoadsOnly.foldl (fun _ _ => rfl) (LoadsOnly.refl s)
  rw [loadAll_eq]
  refine LoadsOnly.foldl (fun u k => ?_) regions
  dsimp only
  split
  · rfl
  · exact LoadsOnly.refl u

/-- Every link trains. -/
def State.trainLinks (s : State) : State := (List.range 24).foldl (fun (t : State) l => t.putLink l { t.link l with state := .training }) s

theorem towersFailing_none : towersFailing {} = [] := by decide

theorem postTowers_none (s : State) : s.postTowers [] = s := by
  unfold State.postTowers
  simp

theorem postLinks_none (s : State) : s.postLinks [] = s.trainLinks := by
  unfold State.postLinks State.trainLinks
  exact List.foldl_nil

/-- Where nothing fails, step 5 only trains the links. -/
theorem postFences_none (s : State) : s.postFences {} = s.trainLinks := by
  unfold State.postFences
  simp only [towersFailing_none, List.filter_nil, List.foldl_nil, postTowers_none, postLinks_none]

theorem postFences_loadsOnly (s : State) : LoadsOnly s (s.postFences {}) := by
  rw [postFences_none]
  exact LoadsOnly.foldl (fun _ _ => rfl) (LoadsOnly.refl s)

theorem region_foldl_keep {α : Type} {f : State → α → State} (hf : ∀ u x, (f u x).regions = u.regions) (l : List α) (s : State) :
    (l.foldl f s).regions = s.regions := by
  induction l generalizing s with
  | nil => rfl
  | cons x l ih => exact (ih _).trans (hf _ _)

/-- Regions replaced one after another, each by one in service: those named are in service. -/
theorem region_foldl_put {f : State → Nat → Region} (hf : ∀ u k, (f u k).state = .inService) {l : List Nat} {s : State} {r : Nat}
    (h : r ∈ l ∨ (s.region r).state = .inService) : ((l.foldl (fun t k => t.putRegion k (f t k)) s).region r).state = .inService := by
  induction l generalizing s with
  | nil => exact h.resolve_left List.not_mem_nil
  | cons k l ih =>
    refine ih ?_
    by_cases hk : r = k
    · right
      rw [hk, region_putRegion]
      exact hf _ _
    · rcases h with h | h
      · exact .inl ((List.mem_cons.mp h).resolve_left hk)
      · right
        show (tabGet {} (tabSet {} s.regions k _) r).state = _
        rw [tabGet_tabSet, if_neg hk]
        exact h

theorem loadTowers_regions (s t : State) : (s.loadTowers t).regions = t.regions := by
  refine region_foldl_keep (fun u k => ?_) _ _
  dsimp only
  split <;> rfl

theorem loadAll_inService {s : State} (h : s.boot.loads 2 = true) {r : Nat} (hr : r < 8) : (s.loadAll.region r).state = .inService := by
  have loaded : (s.loadRegions.region r).state = .inService := by
    unfold State.loadRegions
    rw [h]
    exact region_foldl_put (fun _ _ => rfl) (.inl (List.mem_range.mpr hr))
  rw [loadAll_eq]
  unfold State.region
  rw [loadTowers_regions]
  exact loaded

theorem postFences_region (s : State) (r : Nat) : (s.postFences {}).region r = s.region r := by
  have same : s.trainLinks.regions = s.regions := by
    unfold State.trainLinks
    refine region_foldl_keep (fun _ _ => ?_) _ _
    rfl
  rw [postFences_none]
  exact congrArg (fun g => tabGet {} g r) same

/-- The state after steps 5 and 6, before STAGE is written. -/
def State.bootTested (s : State) : State :=
  if (s.loadAll.postFences {}).regionsIn.length < 4 then (s.loadAll.postFences {}).deviceStopAt pgService 0 else s.loadAll.postFences {}

theorem bootParts_eq (s : State) :
    s.bootParts {} = { s.bootTested with boot := { s.bootTested.boot with stage := if s.bootTested.deviceStop then .load else .awaitConfig } } := by
  unfold State.bootParts State.bootTested
  rfl

theorem bootParts_runs {s : State} (h : s.bootTested.deviceStop = false) :
    s.bootParts {} = { s.bootTested with boot := { s.bootTested.boot with stage := .awaitConfig } } := by
  have stage : (if s.bootTested.deviceStop then Stage.load else .awaitConfig) = .awaitConfig := by rw [h]; rfl
  rw [← stage]
  exact bootParts_eq s

theorem regionsIn_all {s : State} (h : ∀ r, r < 8 → (s.region r).state = .inService) : s.regionsIn.length = 8 := by
  unfold State.regionsIn
  rw [List.filter_eq_self.mpr (fun r hr => by rw [h r (List.mem_range.mp hr)]; rfl)]
  rfl

/-- Where the regions load, nothing stops the module. -/
theorem bootTested_loads {s : State} (h : s.boot.loads 2 = true) :
    LoadsOnly s s.bootTested ∧ ∀ r, r < 8 → (s.bootTested.region r).state = .inService := by
  have serves : ∀ r, r < 8 → ((s.loadAll.postFences {}).region r).state = .inService := by
    intro r hr
    rw [postFences_region]
    exact loadAll_inService h hr
  unfold State.bootTested
  rw [regionsIn_all serves]
  exact ⟨(loadAll_loadsOnly s).trans (postFences_loadsOnly _), serves⟩

/-- The boot that finds its images good: nothing but the stage of the identified state, its regions, towers and links changes. -/
theorem bootUp_loads {s : State} {b : Nat} (hb : s.boot.bootBank = some b) (hl : (s.identify b).boot.loads 2 = true) (hd : s.deviceStop = false) :
    ∃ u : State, LoadsOnly (s.identify b) u ∧ (∀ r, r < 8 → (u.region r).state = .inService) ∧
      s.bootUp {} = { u with boot := { u.boot with stage := .awaitConfig } } := by
  obtain ⟨loads, serves⟩ := bootTested_loads hl
  refine ⟨(s.identify b).bootTested, loads, serves, ?_⟩
  have booted : s.bootUp {} = (s.identify b).bootParts {} := by
    unfold State.bootUp
    rw [hb]
    rfl
  have running : (s.identify b).bootTested.deviceStop = false := by
    rw [← hd]
    unfold LoadsOnly at loads
    rw [loads]
    rfl
  rw [booted, bootParts_runs running]

theorem tabGet_filter {α : Type} (d : α) (t : Tab α) (p : Nat → Bool) {k : Nat} (h : p k = true) :
    tabGet d (t.filter (fun e => p e.1)) k = tabGet d t k := by
  induction t with
  | nil => rfl
  | cons e t ih =>
    by_cases hp : p e.1 = true
    · rw [List.filter_cons_of_pos (p := fun e : Nat × α => p e.1) hp]
      show (if k = e.1 then e.2 else _) = (if k = e.1 then e.2 else _)
      rw [ih]
    · rw [List.filter_cons_of_neg (p := fun e : Nat × α => p e.1) hp, ih]
      have hk : k ≠ e.1 := fun hk => hp (hk ▸ h)
      exact (if_neg hk).symm

/-- Slate keeps its bytes (R17). -/
theorem slateOnly_cell (m : Mem) {a : Nat} (h1 : slateBase ≤ a) (h2 : a < 2 ^ 48) : m.slateOnly.cell a = m.cell a :=
  tabGet_filter 0 m.cells (fun k => decide (slateBase ≤ k) && decide (k < 2 ^ 48)) (by simp only [Bool.and_eq_true, decide_eq_true_eq]; exact ⟨h1, h2⟩)

/-- What a cold reset that finds nothing broken reaches. -/
structure ColdStarted (s : State) (b kind cause : Nat) (t : State) : Prop where
  power  : t.power = .on
  stage  : t.boot.stage = .awaitConfig
  locked : t.boot.locked = false
  kind   : t.boot.lastKind = kind
  cause  : t.boot.cause = cause
  bank   : t.boot.bank = b
  queues : t.queues = []
  cmds   : t.cmds = []
  runs   : t.deviceStop = false
  twin   : t.twin.state = .solo
  svnMin : t.boot.svnMin = s.boot.svnMin
  slate  : ∀ a, slateBase ≤ a → a < 2 ^ 48 → t.mem.cell a = s.mem.cell a
  serves : ∀ r, r < 8 → (t.region r).state = .inService

theorem coldStart_started {s : State} {b : Nat} (hb : s.boot.bootBank = some b) (hi : s.boot.imageOk b 2 = true)
    (hc : imCompat (s.boot.image b 2) = imCompat ((s.boot.image b 1).take 256)) (kind : Nat) (cause : Cause) :
    ColdStarted s b kind (causeCode cause) (s.coldStart kind cause {}) := by
  have loads : ((s.coldBase kind cause).identify b).boot.loads 2 = true := by
    show (s.boot.imageOk b 2 && imCompat (s.boot.image b 2) == imCompat (imHeader (s.boot.image b 1))) = true
    unfold imHeader sliceOf
    rw [hi, List.drop_zero, hc, beq_self_eq_true]
    rfl
  obtain ⟨u, same, serves, booted⟩ := bootUp_loads ((bootBank_coldBase s kind cause).trans hb) loads rfl
  show ColdStarted s b kind (causeCode cause) ((s.coldBase kind cause).bootUp {})
  rw [booted]
  unfold LoadsOnly at same
  constructor
  case serves => exact serves
  case slate =>
    intro a h1 h2
    show u.mem.cell a = _
    rw [same]
    exact slateOnly_cell s.mem h1 h2
  case stage => rfl
  case locked => show u.boot.locked = false; rw [same]; rfl
  case kind => show u.boot.lastKind = kind; rw [same]; rfl
  case cause => show u.boot.cause = causeCode cause; rw [same]; rfl
  case bank => show u.boot.bank = b; rw [same]; rfl
  case svnMin => show u.boot.svnMin = s.boot.svnMin; rw [same]; rfl
  case power => show u.power = .on; rw [same]; rfl
  case queues => show u.queues = []; rw [same]; rfl
  case cmds => show u.cmds = []; rw [same]; rfl
  case runs => show u.deviceStop = false; rw [same]; rfl
  case twin => show u.twin.state = .solo; rw [same]; rfl

theorem coldReset_starts {s : State} (hp : s.power = .on) (hh : s.boot.stage ≠ .halted) (hr : s.boot.stage ≠ .rom) (hb : s.booting = false) :
    coldReset .register 0xA5 {} s = s.coldStart 3 .register {} := by
  simp [coldReset, hp, hh, hr, hb, keyOk_register]

theorem coldReset_powerOn {s : State} (hp : s.power = .on) (hr : s.boot.stage = .rom) :
    coldReset .powerOn 0 { fuseOk := false } s = (s.coldBase 3 .powerOn).halt 2 := by
  simp [coldReset, hp, hr, State.coldStart, State.bootUp]

/-- The three ways to a cold reset of the statement. -/
theorem exec_coldStart {s : State} {cause : Nat} {i : Instr}
    (h : (s.power = .on ∧ s.boot.stage ≠ .halted ∧ s.boot.stage ≠ .rom ∧ s.booting = false ∧ cause = 2 ∧ i = .coldReset .register 0xA5 {}) ∨
      (s.power = .off ∧ cause = 4 ∧ i = .feedReturnColdReset {}) ∨ (s.power = .tripped ∧ cause = 5 ∧ i = .thermalResetRelease 84 {})) :
    ∃ c : Cause, causeCode c = cause ∧ exec i s = .next (s.coldStart 3 c {}) := by
  rcases h with ⟨hp, hh, hr, hb, rfl, rfl⟩ | ⟨hp, rfl, rfl⟩ | ⟨hp, rfl, rfl⟩
  · exact ⟨.register, rfl, congrArg Host.Outcome.next (coldReset_starts hp hh hr hb)⟩
  · exact ⟨.feedLoss, rfl, congrArg Host.Outcome.next (if_pos hp)⟩
  · exact ⟨.thermalTrip, rfl, congrArg Host.Outcome.next (if_pos ⟨hp, by decide⟩)⟩

/-! ### Purge (R452) -/

/-- What every boot of a cold reset leaves, whatever it finds. -/
structure Emptied (kind : Nat) (t : State) : Prop where
  kind   : t.boot.lastKind = kind
  queues : t.queues = []
  cmds   : t.cmds = []
  twin   : t.twin.state = .solo

theorem Emptied.loads {kind : Nat} {s t : State} (h : Emptied kind s) (k : LoadsOnly s t) : Emptied kind t := by
  unfold LoadsOnly at k
  rw [k]
  exact ⟨h.kind, h.queues, h.cmds, h.twin⟩

theorem Emptied.recordChip {kind : Nat} {s : State} (h : Emptied kind s) (p : Nat) (c : ErrClass) (detail : Nat) :
    Emptied kind (s.recordChip p c detail) := by
  have modPage : ∀ (u : State) (p : Nat) (f : Page → Page), Emptied kind u → Emptied kind (u.modPage p f) := by
    intro u p f k
    exact ⟨by rw [State.modPage_boot]; exact k.kind, by rw [State.modPage_queues]; exact k.queues, by rw [State.modPage_cmds]; exact k.cmds,
      by rw [State.modPage_twin]; exact k.twin⟩
  have here := modPage s p (fun h => ((h.raiseBit c.bit detail false).countClass c).countEvent c.source 1) h
  unfold State.recordChip
  split
  · exact here
  · split
    · exact modPage _ _ _ here
    · exact modPage _ _ _ (modPage _ _ _ here)

theorem Emptied.deviceStopAt {kind : Nat} {s : State} (h : Emptied kind s) (p detail : Nat) : Emptied kind (s.deviceStopAt p detail) := by
  have recorded := h.recordChip p .device detail
  unfold State.deviceStopAt
  split
  · exact h
  · dsimp only
    split
    · rw [(sendTwin_sends _ _ _ _).1]
      exact ⟨recorded.kind, recorded.queues, recorded.cmds, recorded.twin⟩
    · exact ⟨recorded.kind, recorded.queues, recorded.cmds, recorded.twin⟩

theorem Emptied.bootTested {kind : Nat} {s : State} (h : Emptied kind s) : Emptied kind s.bootTested := by
  have fenced := h.loads ((loadAll_loadsOnly s).trans (postFences_loadsOnly _))
  unfold State.bootTested
  split
  · exact fenced.deviceStopAt _ _
  · exact fenced

theorem Emptied.bootParts {kind : Nat} {s : State} (h : Emptied kind s) : Emptied kind (s.bootParts {}) := by
  obtain ⟨hk, hq, hc, ht⟩ := h.bootTested
  rw [bootParts_eq]
  exact ⟨hk, hq, hc, ht⟩

theorem coldStart_emptied (s : State) (kind : Nat) (cause : Cause) : Emptied kind (s.coldStart kind cause {}) := by
  have base : Emptied kind (s.coldBase kind cause) := ⟨rfl, rfl, rfl, rfl⟩
  show Emptied kind ((s.coldBase kind cause).bootUp {})
  generalize s.coldBase kind cause = u at base
  obtain ⟨hk, hq, hc, ht⟩ := base
  unfold State.bootUp
  split
  · exact ⟨hk, hq, hc, ht⟩
  · split
    · exact ⟨hk, hq, hc, ht⟩
    · exact Emptied.bootParts ⟨hk, hq, hc, ht⟩

/-- Purge's report is written, the journal emptied, and a cold reset follows. -/
theorem purge_coldStart {s : State} (h : s.answers = true) (hf : s.purgeFits = true) :
    ∃ u : State, purge .register 0xA5 {} s = u.coldStart 4 .register {} := by
  unfold purge
  rw [if_neg (by simp [h]), if_neg (by decide), if_neg (by decide), if_neg (by simp [hf])]
  exact ⟨_, rfl⟩

theorem purge_noPlace {s : State} (h : s.answers = true) (hf : s.purgeFits = false) : purge .register 0xA5 {} s = s.badWrite pgBoot 0x100 := by
  simp [purge, h, hf, keyOk_register, State.badReset]

theorem purge_rows {s : State} (h : s.answers = true) (hf : s.purgeFits = true) :
    ∃ t : State, exec (.purge .register 0xA5 {}) s = .next t ∧ t.boot.lastKind = 4 ∧ t.queues = [] ∧ t.cmds = [] ∧ t.twin.state = .solo := by
  obtain ⟨u, hu⟩ := purge_coldStart h hf
  obtain ⟨hk, hq, hc, ht⟩ := coldStart_emptied u 4 .register
  exact ⟨_, congrArg Host.Outcome.next hu, hk, hq, hc, ht⟩

end Sys2Proof.Machine

/-- Settles O55: the gates of each reset one by one; a region or work reset by what stopping threads never touches (`stopThreads_rests`); a
cold reset and Purge by what the boot changes after `coldBase`. -/
theorem resetRows : Obligations.ResetRows := by
  unfold Obligations.ResetRows
  refine ⟨fun s h => ⟨?_, ?_, ?_, ?_, ?_, ?_, ?_, ?_⟩, ?_, ?_, ?_, ?_, ?_⟩
  · exact fun k m hk => congrArg Host.Outcome.next (regionReset_badKey h hk m.toNat)
  · exact fun k hk => congrArg Host.Outcome.next (workReset_badKey h hk)
  · exact fun hd => ⟨fun m => congrArg Host.Outcome.next (regionReset_refused h hd m.toNat), congrArg Host.Outcome.next (workReset_refused h hd)⟩
  · exact fun r hd hs hj hr ht => ⟨regionReset_outOfService_rows h hd hs hj hr ht r, regionReset_inService_rows h hd hs hj hr r⟩
  · exact fun hd hs hj hq hr => workReset_rows h hd hs hj hq hr
  · exact fun hs hz v hv => congrArg Host.Outcome.next (bootLock_taken h hs hz hv)
  · exact fun hs v hv => congrArg Host.Outcome.next (bootLock_late h hs hv)
  · obtain ⟨prefers, otherCompat, unstaged, commits⟩ := firmware_rows h
    exact ⟨prefers, otherCompat, unstaged, commits, staging_rows⟩
  · exact fun s ha hr => workResetForced_rows ha hr
  · intro s b cause i hb hi hc _ hway
    obtain ⟨c, hcode, taken⟩ := exec_coldStart hway
    have started := coldStart_started hb hi hc 3 c
    rw [hcode] at started
    exact ⟨_, taken, started.power, started.stage, started.locked, started.kind, started.cause, started.bank, started.queues, started.cmds,
      started.runs, started.twin, started.svnMin, started.slate, started.serves⟩
  · exact fun s hp hr => ⟨congrArg Host.Outcome.next (coldReset_powerOn hp hr), rfl⟩
  · exact fun s h hf => purge_rows h hf
  · exact fun s h hf => congrArg Host.Outcome.next (purge_noPlace h hf)

end

section
/-! PROOFS. Number formats and rounding (R34 to R49): negative zero, the round trip of codes, and rounding to nearest. -/

open Sys2Proof Sys2Proof.Machine

namespace Sys2Proof.Machine

/-! ### Rounding to units (R47, R49) -/

/-- What is on the grid already does not round, in any mode. -/
theorem roundUnits_self (mode : RMode) (m : Nat) (e : Int) : roundUnits mode m e e = m := by
  simp [roundUnits]

theorem roundUnits_zero (mode : RMode) (e u : Int) : roundUnits mode 0 e u = 0 := by
  simp [roundUnits]

theorem roundUnits_finer (m k : Nat) (e : Int) :
    roundUnits .rne m e (e + k) = m / 2 ^ k +
      (if 2 * (m % 2 ^ k) < 2 ^ k then 0 else if 2 ^ k < 2 * (m % 2 ^ k) then 1 else m / 2 ^ k % 2) := by
  by_cases hk : k = 0
  · subst hk
    simp [roundUnits, Nat.mod_one]
  · have below : ¬ e + (k : Int) ≤ e := by omega
    have shift : (e + (k : Int) - e).toNat = k := by omega
    simp only [roundUnits, if_neg below, shift]
    by_cases exact : m % 2 ^ k = 0
    · simp [exact]
    · rw [if_neg exact]
      split
      · rfl
      · split <;> rfl

/-- Rounded to nearest: no multiple is nearer, and of two equally near the even one is taken. -/
theorem roundUnits_nearest (m k : Nat) (e : Int) :
    2 * roundUnits .rne m e (e + k) * 2 ^ k ≤ 2 * m + 2 ^ k ∧ 2 * m ≤ 2 * roundUnits .rne m e (e + k) * 2 ^ k + 2 ^ k ∧
    ((2 * roundUnits .rne m e (e + k) * 2 ^ k = 2 * m + 2 ^ k ∨ 2 * m = 2 * roundUnits .rne m e (e + k) * 2 ^ k + 2 ^ k) →
      roundUnits .rne m e (e + k) % 2 = 0) := by
  rw [roundUnits_finer]
  have unit : 0 < 2 ^ k := Nat.two_pow_pos k
  have rest := Nat.mod_lt m unit
  have split := Nat.div_add_mod' m (2 ^ k)
  have twice (q : Nat) : 2 * q * 2 ^ k = 2 * (q * 2 ^ k) := Nat.mul_assoc ..
  generalize 2 ^ k = w at *
  generalize m % w = r at *
  generalize m / w = q at *
  have next : (q + 1) * w = q * w + w := Nat.succ_mul q w
  rw [twice]
  by_cases low : 2 * r < w
  · rw [if_pos low, Nat.add_zero]
    omega
  rw [if_neg low]
  by_cases high : w < 2 * r
  · rw [if_pos high, next]
    omega
  rw [if_neg high]
  rcases Nat.mod_two_eq_zero_or_one q with h | h
  · rw [h, Nat.add_zero]
    omega
  · rw [h, next]
    omega

/-! ### The layouts (R34, R35) -/

/-- Sign, exponent and fraction fill the element. -/
theorem Fmt.flt_width {F : Fmt} (hi : F.isInt = false) (hb : F.isBlock = false) : 8 * F.bytes = F.flt.ebits + F.flt.fbits + 1 := by
  cases F with
  | int8 | int32 | uint8 => cases hi
  | sb8e | sb8i => cases hb
  | _ => rfl

/-- The exponent field of a code. -/
def Flt.expField (f : Flt) (code : Nat) : Nat := code / 2 ^ f.fbits % 2 ^ f.ebits

theorem Flt.expField_lt (f : Flt) (code : Nat) : f.expField code < 2 ^ f.ebits := Nat.mod_lt _ (Nat.two_pow_pos _)

/-- The sign bit's share of a code. -/
def Flt.signOf (f : Flt) (n : Bool) : Nat := if n then f.signBit else 0

/-- A code is its sign bit, its exponent field and its fraction. -/
theorem Flt.code_fields (f : Flt) {code : Nat} (h : code < 2 ^ (f.ebits + f.fbits + 1)) :
    f.signOf (code.testBit (f.ebits + f.fbits)) + (f.expField code * 2 ^ f.fbits + code % 2 ^ f.fbits) = code := by
  have top : code / 2 ^ (f.ebits + f.fbits) < 2 := Nat.div_lt_of_lt_mul (by rw [← Nat.pow_succ]; exact h)
  have sign : f.signOf (code.testBit (f.ebits + f.fbits)) = code / 2 ^ (f.ebits + f.fbits) * 2 ^ (f.ebits + f.fbits) := by
    rw [Flt.signOf, Nat.testBit_eq_decide_div_mod_eq, Flt.signBit, Nat.mod_eq_of_lt top]
    generalize code / 2 ^ (f.ebits + f.fbits) = b at top ⊢
    match b, top with
    | 0, _ => rw [if_neg (by decide), Nat.zero_mul]
    | 1, _ => rw [if_pos (by decide), Nat.one_mul]
  have low : f.expField code * 2 ^ f.fbits + code % 2 ^ f.fbits = code % 2 ^ (f.ebits + f.fbits) := by
    rw [Flt.expField, Nat.add_comm f.ebits, Nat.pow_add, Nat.mod_mul, Nat.add_comm, Nat.mul_comm (2 ^ f.fbits)]
  rw [sign, low, Nat.div_add_mod']

/-! ### Numbers on a format's grid -/

/-- The number is no larger than the largest finite one. -/
theorem fin_not_lt {M m : Nat} {E e : Int} (he : e ≤ E) (hm : m ≤ M * 2 ^ (E - e).toNat) : (Num.fin false M E).lt (.fin false m e) = false := by
  have here : alignTo m e e = m := by rw [alignTo, Int.sub_self, Int.toNat_zero, Nat.pow_zero, Nat.mul_one]
  show decide ((alignTo M E (min E e) : Int) < (alignTo m e (min E e) : Int)) = false
  rw [Int.min_eq_right he, here]
  exact decide_eq_false (Int.not_lt.2 (Int.ofNat_le.2 hm))

/-- A subnormal number is a multiple of the least unit, and its code is that multiple. -/
theorem Flt.subnormal (f : Flt) {m : Nat} (h0 : m ≠ 0) (h : m < 2 ^ f.fbits) :
    f.unit m (f.emin - f.fbits) = f.emin - f.fbits ∧ packMag f m (f.emin - f.fbits) = m := by
  have below : topExp m (f.emin - f.fbits) < f.emin := by
    have := (Nat.log2_lt h0).2 h
    unfold topExp
    omega
  constructor
  · rw [Flt.unit, Int.max_eq_right (Int.le_of_lt below)]
  · simp [packMag, h0, below]

theorem Flt.normal_ne_zero (f : Flt) (frac : Nat) : 2 ^ f.fbits + frac ≠ 0 := by
  have := Nat.two_pow_pos f.fbits
  omega

/-- A normal number is a multiple of its binade's unit, and its code is its exponent field and its fraction. -/
theorem Flt.normal (f : Flt) {E frac : Nat} (hE : E ≠ 0) (h : frac < 2 ^ f.fbits) :
    f.unit (2 ^ f.fbits + frac) ((E : Int) - f.bias - f.fbits) = (E : Int) - f.bias - f.fbits ∧
    packMag f (2 ^ f.fbits + frac) ((E : Int) - f.bias - f.fbits) = E * 2 ^ f.fbits + frac := by
  have h0 := f.normal_ne_zero frac
  have top : topExp (2 ^ f.fbits + frac) ((E : Int) - f.bias - f.fbits) = (E : Int) - f.bias := by
    have : (2 ^ f.fbits + frac).log2 = f.fbits := (Nat.log2_eq_iff h0).2 ⟨by omega, by rw [Nat.pow_succ]; omega⟩
    rw [topExp, this]
    omega
  have above : f.emin ≤ (E : Int) - f.bias := by
    unfold Flt.emin
    omega
  constructor
  · rw [Flt.unit, top, Int.max_eq_left above]
  · simp [packMag, top, Int.not_lt.2 above]

/-- A number on the grid and in range keeps its value in every rounding mode, and nothing is counted. -/
theorem encFloat_onGrid {F : Fmt} {m : Nat} {e : Int} (h0 : m ≠ 0) (grid : F.flt.unit m e = e)
    (fits : (Num.fin false F.maxFin.1 F.maxFin.2).lt (.fin false m e) = false) (mode : RMode) (n : Bool) :
    encFloat F mode (.fin n m e) = ⟨F.flt.signOf n + packMag F.flt m e, 0⟩ := by
  simp [encFloat, h0, grid, roundUnits_self, fits, Flt.signOf]

theorem encFloat_zero (F : Fmt) (mode : RMode) (n : Bool) (e : Int) : encFloat F mode (.fin n 0 e) = ⟨F.flt.signOf n, 0⟩ := by
  simp [encFloat, Flt.signOf]

theorem encFloat_inf {F : Fmt} (h : F ≠ .e4m3) (mode : RMode) (n : Bool) : encFloat F mode (.inf n) = ⟨F.flt.signOf n + F.flt.infMag, 0⟩ := by
  simp [encFloat, h, Flt.signOf]

/-- The largest finite number of a format but E4M3 has the last exponent field that spells no special and every fraction bit. -/
theorem Fmt.maxFin_eq {F : Fmt} (hi : F.isInt = false) (hb : F.isBlock = false) (h4 : F ≠ .e4m3) :
    F.maxFin = (2 ^ (F.flt.fbits + 1) - 1, ((2 ^ F.flt.ebits : Nat) : Int) - 2 - F.flt.bias - F.flt.fbits) := by
  cases F with
  | int8 | int32 | uint8 => cases hi
  | sb8e | sb8i => cases hb
  | e4m3 => exact absurd rfl h4
  | _ => decide +kernel

/-- In E4M3 the largest exponent field spells numbers too, but for the largest fraction (R35). -/
theorem e4m3_fits {E frac : Nat} (hE : E < 16) (hf : frac < 8) (h : ¬(E = 15 ∧ frac = 7)) :
    (Num.fin false 7 6).lt (.fin false (8 + frac) ((E : Int) - 7 - 3)) = false := by
  refine fin_not_lt (by omega) ?_
  rcases Nat.lt_or_ge E 15 with low | high
  · calc 8 + frac ≤ 7 * 2 ^ 2 := by omega
      _ ≤ 7 * 2 ^ (6 - ((E : Int) - 7 - 3)).toNat := Nat.mul_le_mul_left 7 (Nat.pow_le_pow_right (by decide) (by omega))
  · obtain rfl : E = 15 := by omega
    have : (6 - (((15 : Nat) : Int) - 7 - 3)).toNat = 1 := by decide
    rw [this]
    omega

theorem Fmt.fits_normal {F : Fmt} (hi : F.isInt = false) (hb : F.isBlock = false) {E frac : Nat} (hE : E < 2 ^ F.flt.ebits)
    (hf : frac < 2 ^ F.flt.fbits) (nan4 : F = .e4m3 → ¬(E = 15 ∧ frac = 7)) (special : F ≠ .e4m3 → E ≠ 2 ^ F.flt.ebits - 1) :
    (Num.fin false F.maxFin.1 F.maxFin.2).lt (.fin false (2 ^ F.flt.fbits + frac) ((E : Int) - F.flt.bias - F.flt.fbits)) = false := by
  by_cases h4 : F = .e4m3
  · subst h4
    exact e4m3_fits hE hf (nan4 rfl)
  · rw [Fmt.maxFin_eq hi hb h4]
    have field := special h4
    generalize 2 ^ F.flt.ebits = top at hE field
    refine fin_not_lt (by omega) (Nat.le_trans ?_ (Nat.le_mul_of_pos_right _ (Nat.two_pow_pos _)))
    rw [Nat.pow_succ]
    omega

theorem Fmt.fits_subnormal {F : Fmt} (hi : F.isInt = false) (hb : F.isBlock = false) {frac : Nat} (hf : frac < 2 ^ F.flt.fbits) :
    (Num.fin false F.maxFin.1 F.maxFin.2).lt (.fin false frac (F.flt.emin - F.flt.fbits)) = false := by
  have ends : F.flt.emin - F.flt.fbits ≤ F.maxFin.2 ∧ 2 ^ F.flt.fbits ≤ F.maxFin.1 + 1 := by
    cases F with
    | int8 | int32 | uint8 => cases hi
    | sb8e | sb8i => cases hb
    | _ => decide +kernel
  exact fin_not_lt ends.1 (Nat.le_trans (Nat.le_of_lt_succ (Nat.lt_of_lt_of_le hf ends.2)) (Nat.le_mul_of_pos_right _ (Nat.two_pow_pos _)))

/-! ### The round trip of codes (R34 to R36, R44) -/

/-- A floating-point code that is no NaN spells an infinity, a multiple of the least unit, or a normal number in range (R35). -/
theorem decFloat_cases {F : Fmt} (hb : F.isBlock = false) {code : Nat} (hn : (decFloat F code).isNan = false) :
    let n := code.testBit (F.flt.ebits + F.flt.fbits)
    let E := F.flt.expField code
    let frac := code % 2 ^ F.flt.fbits
    (F ≠ .e4m3 ∧ E = 2 ^ F.flt.ebits - 1 ∧ frac = 0 ∧ decFloat F code = .inf n) ∨
    (E = 0 ∧ decFloat F code = .fin n frac (F.flt.emin - F.flt.fbits)) ∨
    (E ≠ 0 ∧ decFloat F code = .fin n (2 ^ F.flt.fbits + frac) ((E : Int) - F.flt.bias - F.flt.fbits) ∧
      (F = .e4m3 → ¬(E = 15 ∧ frac = 7)) ∧ (F ≠ .e4m3 → E ≠ 2 ^ F.flt.ebits - 1)) := by
  have notE : F ≠ .sb8e := by rintro rfl; cases hb
  intro n E frac
  have spelled : decFloat F code =
      if F = .e4m3 ∧ E = 15 ∧ frac = 7 then .nan
      else if F ≠ .e4m3 ∧ E = 2 ^ F.flt.ebits - 1 then (if frac = 0 then .inf n else .nan)
      else if E = 0 then .fin n frac (F.flt.emin - F.flt.fbits)
      else .fin n (2 ^ F.flt.fbits + frac) ((E : Int) - F.flt.bias - F.flt.fbits) := by
    simp only [decFloat, notE, or_false]
    rfl
  by_cases nan : F = .e4m3 ∧ E = 15 ∧ frac = 7
  · rw [spelled, if_pos nan] at hn
    cases hn
  rw [if_neg nan] at spelled
  by_cases special : F ≠ .e4m3 ∧ E = 2 ^ F.flt.ebits - 1
  · rw [if_pos special] at spelled
    by_cases zero : frac = 0
    · exact .inl ⟨special.1, special.2, zero, spelled.trans (if_pos zero)⟩
    · rw [spelled, if_neg zero] at hn
      cases hn
  rw [if_neg special] at spelled
  by_cases sub : E = 0
  · exact .inr (.inl ⟨sub, spelled.trans (if_pos sub)⟩)
  · exact .inr (.inr ⟨sub, spelled.trans (if_neg sub), fun h k => nan ⟨h, k⟩, fun h k => special ⟨h, k⟩⟩)

/-- Every floating-point code that is no NaN converts back to itself, in every rounding mode. -/
theorem encFloat_decFloat {F : Fmt} (hi : F.isInt = false) (hb : F.isBlock = false) (mode : RMode) {code : Nat} (hc : code < 2 ^ (8 * F.bytes))
    (hn : (decFloat F code).isNan = false) : encFloat F mode (decFloat F code) = ⟨code, 0⟩ := by
  rw [Fmt.flt_width hi hb] at hc
  have fields := F.flt.code_fields hc
  have hE := F.flt.expField_lt code
  have hf : code % 2 ^ F.flt.fbits < 2 ^ F.flt.fbits := Nat.mod_lt _ (Nat.two_pow_pos _)
  rcases decFloat_cases hb hn with ⟨h4, top, frac0, dec⟩ | ⟨E0, dec⟩ | ⟨E0, dec, nan4, special⟩
  · rw [frac0, Nat.add_zero] at fields
    rw [dec, encFloat_inf h4, Flt.infMag, ← top, fields]
  · rw [E0, Nat.zero_mul, Nat.zero_add] at fields
    by_cases m0 : code % 2 ^ F.flt.fbits = 0
    · rw [m0, Nat.add_zero] at fields
      rw [dec, m0, encFloat_zero, fields]
    · obtain ⟨grid, mag⟩ := F.flt.subnormal m0 hf
      rw [dec, encFloat_onGrid m0 grid (Fmt.fits_subnormal hi hb hf), mag, fields]
  · obtain ⟨grid, mag⟩ := F.flt.normal E0 hf
    rw [dec, encFloat_onGrid (F.flt.normal_ne_zero _) grid (Fmt.fits_normal hi hb hE hf nan4 special), mag, fields]

/-- An integer in a format's range keeps its value in every rounding mode, and nothing is counted. -/
theorem encInt_nInt {F : Fmt} (mode : RMode) {v : Int} (low : F.intRange.1 ≤ v) (high : v ≤ F.intRange.2) :
    encInt F mode (nInt v) = ⟨codeOf (F.bytes * 8) v, 0⟩ := by
  have value : (if decide (v < 0) = true then -(v.natAbs : Int) else (v.natAbs : Int)) = v := by
    by_cases h : v < 0
    · rw [if_pos (decide_eq_true h)]
      omega
    · rw [if_neg (by simpa only [decide_eq_true_eq] using h)]
      omega
  simp only [encInt, nInt, roundUnits_self, value, if_neg (Int.not_lt.2 low), if_neg (Int.not_lt.2 high)]

theorem signedOf_bounds (w code : Nat) : -((2 ^ w : Nat) : Int) ≤ signedOf (w + 1) code ∧ signedOf (w + 1) code < (2 ^ w : Nat) := by
  have field := Nat.mod_lt code (Nat.two_pow_pos (w + 1))
  have twice := Nat.pow_succ 2 w
  unfold signedOf
  rw [Nat.add_sub_cancel]
  split <;> omega

theorem codeOf_natCast {w v : Nat} (h : v < 2 ^ w) : codeOf w v = v := by
  rw [codeOf, Int.emod_eq_of_lt (by omega) (by omega), Int.toNat_natCast]

/-- A two's-complement code is the code of the value it spells. -/
theorem codeOf_signedOf {w code : Nat} (h : code < 2 ^ w) : codeOf w (signedOf w code) = code := by
  unfold signedOf
  rw [Nat.mod_eq_of_lt h]
  split
  · exact codeOf_natCast h
  · rw [codeOf, Int.sub_emod_right]
    exact codeOf_natCast h

theorem nNat_eq_nInt (v : Nat) : nNat v = nInt v := by simp [nNat, nInt]

/-- Every integer code converts back to itself, in every rounding mode. -/
theorem encInt_decInt {F : Fmt} (hi : F.isInt = true) (mode : RMode) {code : Nat} (hc : code < 2 ^ (8 * F.bytes)) :
    encInt F mode (decInt F code) = ⟨code, 0⟩ := by
  cases F with
  | uint8 =>
    have byte : code < 256 := hc
    show encInt .uint8 mode (nNat (code % 256)) = _
    have high : (code : Int) ≤ 255 := by omega
    rw [Nat.mod_eq_of_lt byte, nNat_eq_nInt, encInt_nInt (F := .uint8) mode (Int.natCast_nonneg code) high]
    exact congrArg (Enc.mk · 0) (codeOf_natCast hc)
  | int8 =>
    obtain ⟨low, high⟩ := signedOf_bounds 7 code
    show encInt .int8 mode (nInt (signedOf 8 code)) = _
    rw [encInt_nInt mode low (Int.le_sub_one_of_lt high)]
    exact congrArg (Enc.mk · 0) (codeOf_signedOf hc)
  | int32 =>
    obtain ⟨low, high⟩ := signedOf_bounds 31 code
    show encInt .int32 mode (nInt (signedOf 32 code)) = _
    rw [encInt_nInt mode low (Int.le_sub_one_of_lt high)]
    exact congrArg (Enc.mk · 0) (codeOf_signedOf hc)
  | _ => cases hi

theorem encElem_decElem {F : Fmt} (hb : F.isBlock = false) (mode : RMode) {code : Nat} (hc : code < 2 ^ (8 * F.bytes))
    (hn : (decElem F code).isNan = false) : encElem F mode (decElem F code) = ⟨code, 0⟩ := by
  unfold encElem decElem at *
  cases hi : F.isInt with
  | true => exact encInt_decInt hi mode hc
  | false =>
    rw [hi] at hn
    exact encFloat_decFloat hi hb mode hc hn

/-! ### Negative zero (R38) -/

theorem Fmt.intRange_zero (F : Fmt) : F.intRange.1 ≤ 0 ∧ 0 ≤ F.intRange.2 := by
  cases F <;> decide

theorem encInt_zero (F : Fmt) (mode : RMode) (n : Bool) (e : Int) : encInt F mode (.fin n 0 e) = ⟨0, 0⟩ := by
  obtain ⟨low, high⟩ := F.intRange_zero
  simp [encInt, roundUnits_zero, Int.not_lt.2 low, Int.not_lt.2 high, codeOf]

/-- The code of −0 has the sign bit alone. -/
theorem Fmt.signBit_eq {F : Fmt} (hi : F.isInt = false) (hb : F.isBlock = false) : F.flt.signBit = 2 ^ (8 * F.bytes - 1) := by
  rw [Fmt.flt_width hi hb, Nat.add_sub_cancel, Flt.signBit]

theorem decFloat_signBit (F : Fmt) : decFloat F F.flt.signBit = .fin true 0 (F.flt.emin - F.flt.fbits) := by
  cases F <;> rfl

theorem scale_zero (n : Bool) (e k : Int) : (Num.fin n 0 e).scale k = .fin n 0 (e + k) := rfl

end Sys2Proof.Machine

/-- Settles O47: a zero rounds to no units, so its code is its sign bit alone, or 0 where the format has none. -/
theorem negativeZeroIsKept : Obligations.NegativeZeroIsKept := by
  unfold Obligations.NegativeZeroIsKept
  refine ⟨fun F m e hi hb => ?_, fun F m e hi => ?_, fun m e sc hsc => ⟨encFloat_zero .e4m3 m true (e + (127 - sc)), ?_, ?_⟩⟩
  · rw [← Fmt.signBit_eq hi hb, encElem, decElem, hi]
    exact ⟨encFloat_zero F m true e, _, decFloat_signBit F⟩
  · rw [encElem, hi]
    exact encInt_zero F m true e
  · have block : decBlockElem .sb8e 0x80 sc = (decFloat .e4m3 Fmt.e4m3.flt.signBit).scale ((sc : Int) - 127) := if_neg (by omega)
    rw [block, decFloat_signBit]
    exact ⟨_, rfl⟩
  · simp only [encBlockElem, scale_zero, encInt_zero]
    rfl

/-- Settles O48: a code's number lies on its format's grid and in its range, so nothing rounds or saturates; rounding to nearest by the
remainder's half. -/
theorem formatsRoundTripAndRoundToNearest : Obligations.FormatsRoundTripAndRoundToNearest := by
  unfold Obligations.FormatsRoundTripAndRoundToNearest
  refine ⟨fun F mode code hb hc hn => encElem_decElem hb mode hc hn, ?_⟩
  rintro m k q e rfl
  exact roundUnits_nearest m k e

end

section
/-! PROOFS. RUN in a stream program (R326), refuted on a state in which two RUN commands hold one stack entry. -/

open Sys2Proof Sys2Proof.Machine

namespace Sys2Proof.Machine

/-! ### Two threads, one claim

The end of a RUN command settles its stack entry, and `State.dropClaim` then takes the claim from every command that holds it, the unfinished RUN
commands of other threads among them. Below, the thread of STREAM (3, 1) runs a GEMM that pushes a 1 × 1 product onto an empty stack, while the RUN
command of thread (4, 1) holds a claim on the entry that the push takes. -/

/-- The cells of some bytes. -/
def cellsAt (a : Nat) (bs : Bytes) : Tab Byte := (bs.zipIdx.filter (fun x => x.1 != 0)).map (fun x => (a + x.2, x.1))

/-- The descriptor of a 1 × 1 tensor in Ivory. -/
def tensorOne (base fmt : Nat) : Bytes :=
  natBytes 8 base ++ natBytes 1 fmt ++ natBytes 1 2 ++ natBytes 6 0 ++ (List.replicate 6 1 ++ [1, 1, 0, 0, 0, 0]).flatMap (natBytes 4)

/-- A GEMM's body: BF16 times BF16 into FP32, NO_REPEAT, its sum pushed as FP32 with tag 8 onto the stack at 0x100000. -/
def pushBody : Bytes :=
  tensorOne 0x10000 3 ++ tensorOne 0x20000 3 ++ tensorOne 0x30000 2 ++ natBytes 72 0 ++ natBytes 24 0x20 ++
    natBytes 1 1 ++ natBytes 1 2 ++ natBytes 2 0 ++ natBytes 4 8 ++ natBytes 8 0x100000 ++ natBytes 16 0

/-- RUN of a GEMM whose body lies at P0, with no patch. -/
def runIns : Ins := { op := 0x0D, pa := 0, pb := 0, pc := 0, rsv := 0, sub := 0, imm32 := 0x201, imm64 := 0xFFFF }

/-- A started STREAM whose program, behind the 64 bytes of its body, is `runIns` alone. -/
def runStream : Cmd :=
  { q := 3, n := 1, desc := natBytes 2 0x105 ++ natBytes 62 0, phase := .started,
    body := natBytes 8 0x1000 ++ natBytes 56 1 ++ natBytes 8 0xFFFF ++ natBytes 4 0x201 ++ natBytes 3 0 ++ natBytes 1 0x0D }

/-- Its thread, at that instruction, with P0 = 0x4000. -/
def runThread : Thread := { q := 3, n := 1, region := 0, ptr := [0x4000, 0, 0, 0, 0, 0, 0, 0] }

/-- The thread whose unfinished RUN command holds the stack's first entry. -/
def claimThread : Thread :=
  { q := 4, n := 1, region := 0, running := some { q := 4, n := 1, desc := [], claim := some { stack := 0x100000, entry := 0, addr := 0x101000 } } }

/-- The module runs with both threads, an empty stack of queue 3 and the GEMM's body in Ivory. -/
def claimState : State :=
  { boot := { stage := .run }, jnl := { state := .live }, regions := [(0, { state := .inService })], queues := [(3, { winLimit := 2 ^ 48 - 1 })],
    mem := { cells := cellsAt 0x4000 pushBody ++ cellsAt 0x100000 (SHead.bytes ⟨0x100000, 65536, 0, 0, 0, 0, 3, 1, 0, 0, 0, 0⟩) },
    cmds := [runStream], threads := [runThread, claimThread] }

/-- What the dispatcher knows of GEMM. -/
def gemmReg : Reg := { op := matrixOp, len := some 320, start := matStart }

/-- The command that the RUN makes. -/
def pushCmd : Cmd := runCmd runStream 0x201 0x4000 pushBody

theorem claimState_atIns : AtIns 0x0D claimState 3 1 runStream runThread runIns := by
  unfold AtIns
  decide +kernel

theorem eq_ok_of_toOption {α : Type} {x : Except Status α} {v : α} (h : x.toOption = some v) : x = .ok v := by
  cases x with
  | error _ => cases h
  | ok w => exact congrArg Except.ok (Option.some.inj h)

theorem claimState_body : claimState.dynRead 3 0x4000 320 = .ok pushBody := eq_ok_of_toOption (by decide +kernel)

theorem pushCmd_checked : matrixOp.startStatus claimState { pushCmd with phase := .accepted } [(pushCmd.bodyAddr, pushCmd.body.length)] = none := by
  decide +kernel

/-- The push starts, reaches a status that goes on, and leaves both threads as they were. -/
def pushLeavesThreads : Bool :=
  match matStart claimState pushCmd with
  | .go u d => (matrixOp.outcome u d).any (fun x => runGoesOn x.2.status && decide (x.1.threads = [runThread, claimThread]))
  | _ => false

theorem pushCmd_outcome : ∃ (u : State) (d : Cmd) (v : State) (e : Cmd), matStart claimState pushCmd = .go u d ∧ matrixOp.outcome u d = some (v, e) ∧
    runGoesOn e.status = true ∧ v.threads = [runThread, claimThread] := by
  have run : pushLeavesThreads = true := by decide +kernel
  unfold pushLeavesThreads at run
  split at run
  · next u d started =>
    obtain ⟨⟨v, e⟩, outcome, ends⟩ := (Option.any_eq_true _ _).mp run
    obtain ⟨goesOn, threads⟩ := Bool.and_eq_true_iff.mp ends
    exact ⟨u, d, v, e, started, outcome, goesOn, of_decide_eq_true threads⟩
  · cases run

/-- After the RUN no thread's command holds a claim. -/
theorem run_dropsClaims : ∃ w : State, exec (.run 3 1 ⟨[], none⟩) claimState = .next w ∧
    w.threads.all (fun x => x.running.all (·.claim.isNone)) = true :=
  ⟨_, rfl, by decide +kernel⟩

end Sys2Proof.Machine

/-- Refutes O25: its clause on RUN says that the other threads stay as they were, but the end of a RUN command that holds a stack entry takes the
claim from every other RUN command that names the entry (`State.dropClaim`), as in `claimState`. -/
theorem not_streamsRun : ¬ Obligations.StreamsRun := by
  unfold Obligations.StreamsRun
  rintro ⟨-, -, runs, -⟩
  obtain ⟨u, d, v, e, started, outcome, goesOn, before⟩ := pushCmd_outcome
  obtain ⟨w, ran, threads, -⟩ := runs claimState u v 3 1 320 [] runStream pushCmd d e runThread runIns gemmReg gemmReg pushBody
    claimState_atIns rfl rfl rfl (by decide) (by decide) claimState_body (by decide +kernel) rfl pushCmd_checked (by decide +kernel) started outcome goesOn
  obtain ⟨w', ran', drops⟩ := run_dropsClaims
  obtain rfl : w = w' := Host.Outcome.next.inj (ran.symm.trans ran')
  have kept : claimThread ∈ w.threads := by
    rw [threads, before]
    exact List.mem_map.mpr ⟨claimThread, by simp, if_neg (by decide)⟩
  exact absurd (List.all_eq_true.mp drops claimThread kept) (by decide)

end

section
/-! PROOFS. The matrix commands (R66, R76, R79, R94, R97, R101, R297): what a run to the end is made of, its status and its frame. -/

open Sys2Proof Sys2Proof.Machine

namespace Sys2Proof.Machine

/-! ### A run to the end -/

/-- A runnable command is the listed one. -/
theorem State.cmd?_of_runnable {s : State} {q n : Nat} {sel : Cmd → Bool} {c : Cmd} (h : s.runnable q n sel = some c) : s.cmd? q n = some c := by
  unfold State.runnable at h
  split at h
  · obtain ⟨e, listed, chosen⟩ := Option.bind_eq_some_iff.mp h
    split at chosen
    · cases chosen; exact listed
    · cases chosen
  · cases h

/-- A run to the end: all units, the granules held back, the report and the status. -/
theorem Op.outcome_eq_some {op : Op} {s t : State} {c d : Cmd} (h : op.outcome s c = some (t, d)) :
    ∃ (u v : State) (e : Cmd), op.runUnits (List.range (op.total s c)) s c = (u, e, none) ∧ releaseWithheld u e = .ok v ∧
      op.finish v { e with withheld := [] } = .ok (t, d) := by
  unfold Op.outcome at h
  split at h
  · cases h
  · split at h
    · next u e units =>
      split at h
      · cases released : releaseWithheld u e with
        | error st => rw [released] at h; cases h
        | ok v =>
          rw [released] at h
          change (op.finish v { e with withheld := [] }).toOption = some (t, d) at h
          exact ⟨u, v, e, units, released, eq_ok_of_toOption h⟩
      · cases h
    · cases h

/-- `d` is `c` but for its record of what it wrote. -/
def Cmd.SameWork (c d : Cmd) : Prop :=
  d = { c with sat := d.sat, committed := d.committed, wrote := d.wrote, wroteSlate := d.wroteSlate, wroteLocal := d.wroteLocal }

theorem Cmd.SameWork.refl (c : Cmd) : c.SameWork c := rfl

theorem Cmd.SameWork.trans {c d e : Cmd} (h : c.SameWork d) (k : d.SameWork e) : c.SameWork e := by
  unfold Cmd.SameWork at h k ⊢
  rw [k, h]

theorem noteWrite_sameWork (s : State) (c : Cmd) (a len : Nat) : c.SameWork (c.noteWrite s a len) := by
  unfold Cmd.noteWrite
  split <;> rfl

theorem commitWrites_sameWork {s t : State} {c d : Cmd} {p : Packed} (h : commitWrites s c p = .ok (t, d)) : c.SameWork d := by
  have noted : ∀ (ws : Writes) (c : Cmd), c.SameWork (ws.foldl (fun c w => c.noteWrite s w.1 w.2.length) c) := by
    intro ws
    induction ws with
    | nil => exact Cmd.SameWork.refl
    | cons w ws ih => exact fun c => (noteWrite_sameWork s c _ _).trans (ih _)
  unfold commitWrites at h
  split at h <;> cases h
  exact noted _ { c with sat := c.sat + p.sat }

theorem writeReport_sameWork {s t : State} {c d : Cmd} {on : Bool} {a : Nat} {bs : Bytes} (h : writeReport s c on a bs = .ok (t, d)) :
    c.SameWork d := by
  unfold writeReport at h
  split at h
  · exact commitWrites_sameWork h
  · cases h; exact Cmd.SameWork.refl c

/-- The operands are read from the descriptor, the body and the tables. -/
theorem Cmd.SameWork.mat {c d : Cmd} (h : c.SameWork d) : d.mat = c.mat := by rw [h]; rfl

theorem Cmd.SameWork.counts {c d : Cmd} (h : c.SameWork d) : d.counts = c.counts := by rw [h]

/-! ### The end of a matrix command -/

/-- The status of R79: size limits first, then a saturated tile, a spread over 24, a repeated tile. -/
def Mat.endStatus (g : Mat) (counts : List Nat) : Status :=
  if g.limit then .limit else if 0 < nth 0 counts 2 then .saturated else if g.wide = true ∧ 24 < nth 0 counts 4 then .partialExact
    else if 0 < nth 0 counts 1 then .okScaled else .ok

theorem writeMatReport_sameWork {s t : State} {c d : Cmd} {g : Mat} (h : writeMatReport s c g = .ok (t, d)) : c.SameWork d := by
  unfold writeMatReport at h
  cases written : writeReport s c g.report g.repAddr (if g.wide then matReport c ++ natBytes 16 0 else matReport c) with
  | error st => rw [written] at h; cases h
  | ok r => rw [written] at h; cases h; exact writeReport_sameWork (t := r.1) (d := r.2) written

/-- The entry that the command pushes, coded where it is a Sepia entry (R184, R285). -/
def Mat.codePush (s : State) (c : Cmd) (g : Mat) : Except Status State :=
  match c.claim with
  | some k => if g.ctl.sop = 1 ∧ !g.limit then s.codeEntry k else .ok s
  | none => .ok s

theorem Mat.codePush_sameElse {s t : State} {c : Cmd} {g : Mat} (h : g.codePush s c = .ok t) : SameElse s t := by
  unfold Mat.codePush at h
  split at h
  · split at h
    · exact (codeEntry_same h).same
    · cases h; exact SameElse.refl s
  · cases h; exact SameElse.refl s

/-- The end of a matrix command: the entry is coded, the report written, the status set. -/
theorem matFinish_eq_ok {s t : State} {c d : Cmd} (h : matFinish s c = .ok (t, d)) :
    ∃ (g : Mat) (u : State) (e : Cmd), c.mat = some g ∧ g.codePush s c = .ok u ∧ writeMatReport u c g = .ok (t, e) ∧
      d = { e with status := g.endStatus c.counts } := by
  unfold matFinish at h
  split at h
  · cases h
  · next g named =>
    change ((g.codePush s c).bind fun u => writeMatReport u c g).map (fun x => (x.1, { x.2 with status := g.endStatus c.counts })) = .ok (t, d) at h
    cases coded : g.codePush s c with
    | error st => rw [coded] at h; cases h
    | ok u =>
      rw [coded, Except.bind] at h
      cases report : writeMatReport u c g with
      | error st => rw [report] at h; cases h
      | ok r => rw [report] at h; cases h; exact ⟨g, u, r.2, named, coded, report, rfl⟩

theorem releaseWithheld_sameElse {s t : State} {c : Cmd} (h : releaseWithheld s c = .ok t) : SameElse s t := by
  unfold releaseWithheld at h
  split at h
  · cases h; exact SameElse.refl s
  · exact writeAll_sameElse h

theorem matrixOp_unit_wrote (s : State) (c : Cmd) (k : Nat) (t : State) (d : Cmd) (h : matrixOp.unit s c k = .ok (t, d)) : Wrote s c t d :=
  (matUnit_wrote _ _ k (Wrote.refl s c)).of h

/-- A matrix command's run differs as writes differ, and its status follows from its own counts; a claim on a stack entry included. -/
theorem matrixOp_outcome {s t : State} {c d : Cmd} (h : matrixOp.outcome s c = some (t, d)) :
    SameElse s t ∧ ∃ g : Mat, d.mat = some g ∧ d.status = g.endStatus d.counts := by
  obtain ⟨u, v, e, units, released, finished⟩ := Op.outcome_eq_some h
  have unitsSame := (Op.runUnits_wrote matrixOp_unit_wrote (List.range (matrixOp.total s c)) s c).frame.same
  rw [units] at unitsSame
  obtain ⟨g, w, x, named, coded, report, rfl⟩ := matFinish_eq_ok (show matFinish v { e with withheld := [] } = .ok (t, d) from finished)
  have sameWork := writeMatReport_sameWork report
  have reportSame : SameElse w t := ((writeMatReport_wrote w _ g (Wrote.refl w _)).of report).frame.same
  refine ⟨((unitsSame.trans (releaseWithheld_sameElse released)).trans (Mat.codePush_sameElse coded)).trans reportSame,
    g, sameWork.mat.trans named, ?_⟩
  exact congrArg g.endStatus sameWork.counts.symm

theorem exec_matrix {s : State} {q n : Nat} {i : Instr} {code : Nat}
    (h : (i = .gemm q n ∧ code = 0x201) ∨ (i = .gemmF64x q n ∧ code = 0x202) ∨ (i = .thinGemm q n ∧ code = 0x203)) :
    exec i s = .next (runRow matrixOp (Cmd.isOp code) q n s) := by
  obtain ⟨rfl, rfl⟩ | ⟨rfl, rfl⟩ | ⟨rfl, rfl⟩ := h <;> rfl

end Sys2Proof.Machine

/-- Settles O29: the row is the run to the end (`runRow_of_runs`), whose status and frame `matrixOp_outcome` gives; without a claim the run writes
only what it records (`matrixOp_wrote`). -/
theorem matrixRows : Obligations.MatrixRows := by
  unfold Obligations.MatrixRows
  intro s t q n d g i code instr runs named
  have ⟨c, runnable, held, outcome⟩ := runs
  obtain ⟨same, g', named', status⟩ := matrixOp_outcome outcome
  obtain rfl : g' = g := Option.some.inj (named'.symm.trans named)
  refine ⟨?_, same, fun c' listed unclaimed => ?_, status⟩
  · rw [exec_matrix instr, runRow_of_runs runs]
  · obtain rfl : c = c' := Option.some.inj ((State.cmd?_of_runnable runnable).symm.trans listed)
    exact (matrixOp_wrote unclaimed held outcome).writesOnly

end

section
/-! PROOFS. The vector rows (R110 to R138). -/

open Sys2Proof Sys2Proof.Machine

namespace Sys2Proof.Machine

/-- Each vector instruction is the run of its opcode's commands. -/
theorem exec_vector {s : State} {q n : Nat} {i : Instr} {code : Nat}
    (h : (i = .elementwise q n ∧ code = 0x301) ∨ (i = .reduce q n ∧ code = 0x302) ∨ (i = .softmax q n ∧ code = 0x303) ∨
      (i = .compact q n ∧ code = 0x304) ∨ (i = .expand q n ∧ code = 0x305) ∨ (i = .softmaxBwd q n ∧ code = 0x306)) :
    exec i s = .next (runRow vectorOp (Cmd.isOp code) q n s) := by
  obtain ⟨rfl, rfl⟩ | ⟨rfl, rfl⟩ | ⟨rfl, rfl⟩ | ⟨rfl, rfl⟩ | ⟨rfl, rfl⟩ | ⟨rfl, rfl⟩ := h <;> rfl

end Sys2Proof.Machine

/-- Settles O30: the row is the run to the end (`runRow_of_runs`), and every chunk and the report write only what the command records
(`vectorOp_wrote`). -/
theorem vectorRows : Obligations.VectorRows := by
  unfold Obligations.VectorRows
  intro s t q n d i code instr runs
  have ⟨c, _, held, outcome⟩ := runs
  constructor
  · rw [exec_vector instr, runRow_of_runs runs]
  · exact (vectorOp_wrote held outcome).writesOnly

end

section
/-! PROOFS. The attention rows, BUCKET_SORT, KV_APPEND and KV_TRUNCATE (R140, R149, R154, R156, R162, R168). -/

open Sys2Proof Sys2Proof.Machine

namespace Sys2Proof.Machine

/-- An instruction that is the row of `op` comes to the run to the end, and has what every such run of a command has. -/
theorem exec_of_runs {op : Op} {sel : Cmd → Bool} {i : Instr} {s t : State} {q n : Nat} {d : Cmd} {P : Prop}
    (row : exec i s = .next (runRow op sel q n s))
    (frame : ∀ c : Cmd, c.heldNoted = true → op.outcome s c = some (t, d) → P) (runs : op.Runs sel s q n t d) :
    exec i s = .next (t.putCmd { d with phase := .ended }) ∧ P := by
  have ⟨c, _, held, outcome⟩ := runs
  exact ⟨by rw [row, runRow_of_runs runs], frame c held outcome⟩

end Sys2Proof.Machine

/-- Settles O35: each row is the run to the end (`exec_of_runs`), whose units and report write only what the command records (`attnOp_wrote`,
`bucketSortOp_wrote`), and beside that, in KV_APPEND and KV_TRUNCATE, the pools (`kvAppendOp_wrote`, `kvTruncateOp_wrote`). -/
theorem attentionRows : Obligations.AttentionRows := by
  unfold Obligations.AttentionRows
  intro s t q n d
  refine ⟨fun ring => ?attnFwd, ?attnBwd, ?bucketSort, ?kvAppend, ?kvTruncate⟩
  case attnFwd => exact exec_of_runs rfl fun _ held outcome => (attnOp_wrote ring held outcome).writesOnly
  case attnBwd => exact exec_of_runs rfl fun _ held outcome => (attnOp_wrote [] held outcome).writesOnly
  case bucketSort => exact exec_of_runs rfl fun _ held outcome => (bucketSortOp_wrote held outcome).writesOnly
  case kvAppend => exact exec_of_runs rfl fun _ held outcome => kvAppendOp_wrote held outcome
  case kvTruncate => exact exec_of_runs rfl fun _ held outcome => kvTruncateOp_wrote held outcome

end

section
/-! PROOFS. KV_POOL (R141, R145, R146, R150, R153): a command of one unit, what that unit does by its OP, and the row to its end. -/

open Sys2Proof Sys2Proof.Machine

namespace Sys2Proof.Machine

/-! ### A command of one unit -/

/-- The row of a runnable command accepts it. -/
theorem State.sel_of_runnable {s : State} {q n : Nat} {sel : Cmd → Bool} {c : Cmd} (h : s.runnable q n sel = some c) : sel c = true := by
  unfold State.runnable at h
  split at h
  · obtain ⟨e, -, chosen⟩ := Option.bind_eq_some_iff.mp h
    split at chosen
    · next accepted => cases chosen; exact accepted.2.1
    · cases chosen
  · cases h

/-- A command that names no tables keeps none. -/
theorem keepTables_nil (s : State) (c : Cmd) : c.keepTables s [] = c := rfl

/-- The first unit alone, of a command that has committed none: it need not wait, and it commits. -/
theorem Op.runUnits_one {op : Op} {s t : State} {c d : Cmd} (todo : c.done = []) (ready : op.ready s c 0 = true)
    (tables : op.tables s c = []) (unit : op.unit s c 0 = .ok (t, d)) :
    op.runUnits [0] s c = (t, { d with done := insertNat 0 d.done, units := d.units + op.weight s c 0 }, none) := by
  have undone : ¬ (c.done.contains 0 = true) := by rw [todo]; decide
  rw [Op.runUnits, if_neg undone, if_neg (by rw [ready]; decide), tables, keepTables_nil]
  simp only [unit, Op.runUnits]

/-- A command whose units are all committed, and which holds back no granule, comes to what its end makes of them. -/
theorem Op.outcome_of_runUnits {op : Op} {s t : State} {c d : Cmd} (clear : injectedPage s (op.pages s c) = none)
    (units : op.runUnits (List.range (op.total s c)) s c = (t, d, none)) (whole : op.nextUnit t d = none) (free : d.withheld = []) :
    op.outcome s c = (op.finish t d).toOption := by
  have released : releaseWithheld t d = .ok t := by rw [releaseWithheld, free]; rfl
  have bare : { d with withheld := [] } = d := by rw [← free]
  simp [Op.outcome, clear, units, whole, released, bare, Except.bind]

/-- A command of one unit that commits, and holds back no granule, comes to what its end makes of that. -/
theorem Op.outcome_of_unit {op : Op} {s t : State} {c d : Cmd} (one : op.total = fun _ _ => 1)
    (clear : injectedPage s (op.pages s c) = none) (todo : c.done = []) (ready : op.ready s c 0 = true) (tables : op.tables s c = [])
    (unit : op.unit s c 0 = .ok (t, d)) (fresh : d.done = []) (free : d.withheld = []) :
    op.outcome s c = (op.finish t { d with done := [0], units := d.units + op.weight s c 0 }).toOption := by
  have units := Op.runUnits_one todo ready tables unit
  rw [fresh] at units
  refine Op.outcome_of_runUnits clear ?_ ?_ free
  · rw [one]; exact units
  · rw [Op.nextUnit, one]; rfl

/-! ### Counts and pools -/

@[simp] theorem Cmd.cnt_addCnt (c : Cmd) (i k : Nat) : (c.addCnt i k).cnt i = c.cnt i + k := by
  have listed : i < (c.counts ++ List.replicate (i + 1 - c.counts.length) 0).length := by
    rw [List.length_append, List.length_replicate]
    omega
  simp only [Cmd.addCnt, Cmd.cnt, nth, List.getElem?_set_self listed, Option.getD_some]

@[simp] theorem State.pool_putPool (s : State) (p : Nat) (x : Pool) : (s.putPool p x).pool p = x := tabGet_tabSet_same p x

/-- The state table of a pool just changed is where the changed pool says. -/
theorem State.touchPool_putPool (s : State) (p : Nat) (x : Pool) :
    (s.putPool p x).touchPool p = (s.putPool p x).openRange x.stateAddr (64 + 8 * x.capacity) := by
  rw [State.touchPool, State.pool_putPool, Pool.stateRange]

/-! ### The unit of each OP (R146) -/

/-- A command that has changed the pools is past its commit point (R350). -/
def Cmd.poolChanged (c : Cmd) : Cmd := { c with committed := true, wroteLocal := true }

/-- The 32 bytes that STATUS writes of a pool whose oldest latched generation is `g`. -/
def Pool.statusBytes (x : Pool) (g : Nat) : Bytes :=
  natBytes 4 (x.active - x.linked.length - x.deferred.length) ++ natBytes 4 x.deferred.length ++ natBytes 4 x.linked.length ++
    natBytes 4 x.active ++ natBytes 4 x.gen ++ natBytes 4 g ++ natBytes 8 0

section
variable {s : State} {c : Cmd} (k : Nat) (checked : kpCheck s c = none)
include checked

theorem kpUnit_init (op : c.fld 0 1 = 1) :
    kpUnit s c k = .ok ((s.putPool (kpPool c) (kpNew c)).openRange (kpNew c).stateAddr (64 + 8 * (kpNew c).capacity), c.poolChanged) := by
  rw [← State.touchPool_putPool]
  simp [kpUnit, checked, op, Cmd.poolChanged]

theorem kpUnit_grow (op : c.fld 0 1 = 2) {x : Pool} (named : x = s.pool (kpPool c)) (fits : x.active + c.fld 20 4 ≤ x.capacity) :
    kpUnit s c k = .ok ((s.putPool (kpPool c) { x with active := x.active + c.fld 20 4 }).openRange x.stateAddr (64 + 8 * x.capacity),
      c.poolChanged) := by
  rw [← State.touchPool_putPool s (kpPool c) { x with active := x.active + c.fld 20 4 }, named]
  rw [named] at fits
  simp [kpUnit, checked, op, Nat.not_lt.mpr fits, Cmd.poolChanged]

theorem kpUnit_growBeyond (op : c.fld 0 1 = 2) (beyond : (s.pool (kpPool c)).capacity < (s.pool (kpPool c)).active + c.fld 20 4) :
    kpUnit s c k = .ok (s, c.addCnt 0 1) := by
  simp [kpUnit, checked, op, beyond]

theorem kpUnit_status {t : State} {d : Cmd} (op : c.fld 0 1 = 3)
    (written : commitWrites s c ⟨[(c.fld 40 8, (s.pool (kpPool c)).statusBytes ((s.oldestLatch (kpPool c)).getD 0))], 0⟩ = .ok (t, d)) :
    kpUnit s c k = .ok (if s.oldestLatch (kpPool c) = none then t.openRange (c.fld 40 8 + 20) 4 else t, d) := by
  simp only [kpUnit, checked, op]
  change (commitWrites s c ⟨[(c.fld 40 8, (s.pool (kpPool c)).statusBytes ((s.oldestLatch (kpPool c)).getD 0))], 0⟩).bind _ = _
  rw [written]
  simp [Except.bind]

theorem kpUnit_retire (op : c.fld 0 1 = 4) (unlinked : (s.pool (kpPool c)).linked = []) (undeferred : (s.pool (kpPool c)).deferred = []) :
    kpUnit s c k = .ok (s.putPool (kpPool c) { s.pool (kpPool c) with live := false }, c.poolChanged) := by
  simp [Cmd.poolChanged, kpUnit, checked, op, unlinked, undeferred]

theorem kpUnit_retireInUse (op : c.fld 0 1 = 4) (inUse : (s.pool (kpPool c)).linked ≠ [] ∨ (s.pool (kpPool c)).deferred ≠ []) :
    kpUnit s c k = .ok (s, c.addCnt 0 1) := by
  have pages : 0 < (s.pool (kpPool c)).linked.length + (s.pool (kpPool c)).deferred.length := by
    rcases inUse with h | h
    · exact Nat.add_pos_left (List.length_pos_iff.mpr h) _
    · exact Nat.add_pos_right _ (List.length_pos_iff.mpr h)
  simp only [kpUnit, checked, op, if_pos pages]
  rfl

end

/-! ### The row -/

/-- The row's command has the body's OP. -/
theorem fld_op_of_runnable {s : State} {q n code op : Nat} {c : Cmd} (h : s.runnable q n (Cmd.isSub code op) = some c) : c.fld 0 1 = op :=
  eq_of_beq (Bool.and_eq_true_iff.mp (State.sel_of_runnable h)).2

section
variable {i : Instr} {s : State} {q n op : Nat} {c : Cmd} (row : exec i s = .next (runRow kvPoolOp (Cmd.isSub 0x406 op) q n s))
  (runnable : s.runnable q n (Cmd.isSub 0x406 op) = some c) (todo : c.done = []) (free : c.withheld = []) (turn : kvTurn s c = true)
include row runnable todo free turn

/-- A KV_POOL whose turn it is ends with what its one unit does: LIMIT where that counted one, else OK. -/
theorem exec_kvPool {t : State} {d : Cmd} (unit : kpUnit s c 0 = .ok (t, d)) (fresh : d.done = c.done) (same : d.withheld = c.withheld) :
    exec i s = .next (t.putCmd
      { d with done := [0], units := d.units + 1, phase := .ended, status := if 0 < d.cnt 0 then .limit else .ok }) := by
  have outcome := Op.outcome_of_unit (op := kvPoolOp) rfl rfl todo turn rfl unit (fresh.trans todo) (same.trans free)
  rw [row, runRow_of_outcome runnable outcome]
  rfl

theorem exec_kvPool_ok {t : State} {d : Cmd} (unit : kpUnit s c 0 = .ok (t, d)) (fresh : d.done = c.done) (same : d.withheld = c.withheld)
    (uncounted : d.cnt 0 = 0) :
    exec i s = .next (t.putCmd { d with done := [0], units := d.units + 1, phase := .ended, status := .ok }) := by
  rw [exec_kvPool row runnable todo free turn unit fresh same, if_neg (by omega)]

theorem exec_kvPool_limit (unit : kpUnit s c 0 = .ok (s, c.addCnt 0 1)) :
    ∃ d : Cmd, exec i s = .next (s.putCmd d) ∧ d.status = .limit ∧ d.phase = .ended :=
  ⟨_, exec_kvPool row runnable todo free turn unit rfl rfl, if_pos (by rw [Cmd.cnt_addCnt]; omega), rfl⟩

end

end Sys2Proof.Machine

/-- Settles O34: the row is the command's one unit to its end (`exec_kvPool_ok`, `exec_kvPool_limit`), and what the unit does is said by OP
(`kpUnit_init` to `kpUnit_retireInUse`). -/
theorem kvPools : Obligations.KvPools := by
  unfold Obligations.KvPools
  rintro s q n p c e x todo free rfl rfl checked turn rfl uncounted
  refine ⟨?init, ?grow, ?growBeyond, ?status, ?retire, ?retireInUse⟩
  case init =>
    rintro y runnable rfl
    exact exec_kvPool_ok rfl runnable todo free turn (kpUnit_init 0 checked (fld_op_of_runnable runnable)) rfl rfl uncounted
  case grow =>
    intro runnable fits
    exact exec_kvPool_ok rfl runnable todo free turn (kpUnit_grow 0 checked (fld_op_of_runnable runnable) rfl fits) rfl rfl uncounted
  case growBeyond =>
    intro runnable beyond
    exact exec_kvPool_limit rfl runnable todo free turn (kpUnit_growBeyond 0 checked (fld_op_of_runnable runnable) beyond)
  case status =>
    rintro t d g runnable rfl written
    have same := commitWrites_sameWork written
    have still : d.cnt 0 = 0 := (congrArg (nth 0 · 0) same.counts).trans uncounted
    exact exec_kvPool_ok rfl runnable todo free turn (kpUnit_status 0 checked (fld_op_of_runnable runnable) written)
      (by rw [same]) (by rw [same]) still
  case retire =>
    intro runnable unlinked undeferred
    exact exec_kvPool_ok rfl runnable todo free turn (kpUnit_retire 0 checked (fld_op_of_runnable runnable) unlinked undeferred) rfl rfl uncounted
  case retireInUse =>
    intro runnable inUse
    exact exec_kvPool_limit rfl runnable todo free turn (kpUnit_retireInUse 0 checked (fld_op_of_runnable runnable) inUse)

end


section
/-! PROOFS. The stack rows (R180, R185, R188, R191, R192, R205 to R207): commands of one unit that end OK, the unit of each OP, and the end of PUSH
and POP. -/

open Sys2Proof Sys2Proof.Machine

namespace Sys2Proof.Machine

/-! ### Commands of one unit that end OK -/

/-- The opcode has one unit, which never waits, and its commands end OK when that is committed. -/
structure Op.OneUnit (op : Op) : Prop where
  total  : op.total = fun _ _ => 1
  weight : op.weight = fun _ _ _ => 1
  ready  : op.ready = fun _ _ _ => true
  pages  : op.pages = fun _ _ => []
  tables : op.tables = fun _ _ => []
  finish : op.finish = finishOk

theorem stackOpenOp_oneUnit : stackOpenOp.OneUnit := ⟨rfl, rfl, rfl, rfl, rfl, rfl⟩

theorem stackMarkOp_oneUnit : stackMarkOp.OneUnit := ⟨rfl, rfl, rfl, rfl, rfl, rfl⟩

/-- A run of bytes that nothing refuses is stored and noted. -/
theorem commitWrites_run {s : State} {a : Nat} {bs : Bytes} (c : Cmd) (allowed : s.refusal a bs.length true = none) :
    commitWrites s c ⟨[(a, bs)], 0⟩ = .ok (s.storeBytes a bs, c.noteWrite s a bs.length) := by
  simp [commitWrites, State.writeAll, joinWrites_one, allowed]

section
variable {op : Op} {sel : Cmd → Bool} {i : Instr} {s : State} {q n : Nat} {c : Cmd} (plain : op.OneUnit)
  (row : exec i s = .next (runRow op sel q n s)) (runnable : s.runnable q n sel = some c) (todo : c.done = []) (free : c.withheld = [])
include plain row runnable todo free

/-- The row of such a command, its unit still to do, is that unit and an OK. -/
theorem exec_oneUnit {t : State} {d : Cmd} (unit : op.unit s c 0 = .ok (t, d)) (same : c.SameWork d) :
    exec i s = .next (t.putCmd { d with done := [0], units := d.units + 1, status := .ok, phase := .ended }) := by
  have fresh : d.done = [] := by rw [same, ← todo]
  have bare : d.withheld = [] := by rw [same, ← free]
  have outcome := Op.outcome_of_unit plain.total (by rw [plain.pages]; rfl) todo (by rw [plain.ready]) (by rw [plain.tables]) unit fresh bare
  rw [plain.finish, plain.weight] at outcome
  rw [row, runRow_of_outcome runnable outcome]

/-- When the unit only writes, so does the row. -/
theorem exec_oneUnit_writes {t : State} {d : Cmd} (unit : op.unit s c 0 = .ok (t, d)) (same : c.SameWork d) (wrote : Wrote s c t d) :
    ∃ e : Cmd, exec i s = .next (t.putCmd e) ∧ e.status = .ok ∧ e.phase = .ended ∧ e.units = c.units + 1 ∧ WritesOnly s t e :=
  ⟨_, exec_oneUnit plain row runnable todo free unit same, rfl, rfl, by rw [same], (wrote.cmd rfl rfl).writesOnly⟩

/-- When the unit is one run of bytes that nothing refuses, Ivory or Slate then reads so. -/
theorem exec_oneUnit_stores {a len : Nat} {bs : Bytes} (unit : op.unit s c 0 = commitWrites s c ⟨[(a, bs)], 0⟩) (length : bs.length = len)
    (allowed : s.refusal a len true = none) :
    ∃ (t : State) (d : Cmd), exec i s = .next (t.putCmd d) ∧ d.status = .ok ∧ d.phase = .ended ∧ d.units = c.units + 1 ∧ WritesOnly s t d ∧
      (s.mem.wf = true → (a + len ≤ umberBase ∨ (slateBase ≤ a ∧ a + len ≤ 2 ^ 48)) → t.rawBytes a len = bs) := by
  subst length
  have committed := commitWrites_run c allowed
  have ⟨d, ran, ok, ended, units, writes⟩ := exec_oneUnit_writes plain row runnable todo free (unit.trans committed)
    (commitWrites_sameWork committed) (commitWrites_wrote committed)
  exact ⟨_, d, ran, ok, ended, units, writes, fun wf plainTier => State.rawBytes_storeBytes s wf a bs plainTier⟩

end

/-! ### The head that OPEN and CLOSE write (R179, R205) -/

/-- The head of the empty stack that a STACK_OPEN names. -/
def newHead (c : Cmd) : SHead :=
  { addr := c.fld 8 8, limit := c.fld 16 8, top := 0, high := 0, entries := 0, marks := 0, owner := c.fld 4 4, state := 1, flags := c.fld 1 1,
    table := if c.fld 1 1 = 1 then c.fld 24 8 else 0, haltSeq := 0, haltNeed := 0 }

theorem natBytes_zero_append (m n : Nat) : natBytes m 0 ++ natBytes n 0 = natBytes (m + n) 0 := by
  induction m with
  | zero => rw [Nat.zero_add]; rfl
  | succ m ih => rw [Nat.succ_add, natBytes, natBytes, List.cons_append, ih]

/-- The 4 KiB of a new head: its fields without an entry, and zeros. -/
theorem newHead_bytes (c : Cmd) :
    (newHead c).bytes ++ natBytes 4032 0 =
      natBytes 8 (c.fld 16 8) ++ natBytes 24 0 ++ natBytes 4 (c.fld 4 4) ++ natBytes 1 1 ++ natBytes 1 (c.fld 1 1) ++ natBytes 2 0 ++
        natBytes 8 (if c.fld 1 1 = 1 then c.fld 24 8 else 0) ++ natBytes 4048 0 := by
  have counts : natBytes 24 0 = natBytes 8 0 ++ (natBytes 8 0 ++ (natBytes 4 0 ++ natBytes 4 0)) := by simp only [natBytes_zero_append]
  have rest : natBytes 4048 0 = natBytes 8 0 ++ (natBytes 8 0 ++ natBytes 4032 0) := by simp only [natBytes_zero_append]
  simp only [counts, rest, SHead.bytes, newHead, List.append_assoc]

theorem stackOpenOp_open {s : State} {c : Cmd} (k : Nat) (op : c.fld 0 1 = 1) :
    stackOpenOp.unit s c k = commitWrites s c ⟨[(c.fld 8 8, (newHead c).bytes ++ natBytes 4032 0)], 0⟩ :=
  if_pos op

theorem stackHead_eq_ok {s : State} {a : Nat} {b : Bytes} (read : s.readBytes a 64 = .ok b) : s.stackHead a = .ok (parseHead a b) := by
  rw [State.stackHead, read]
  rfl

theorem stackOpenOp_close {s : State} {c : Cmd} {b : Bytes} (k : Nat) (op : c.fld 0 1 = 2) (read : s.readBytes (c.fld 8 8) 64 = .ok b) :
    stackOpenOp.unit s c k = commitWrites s c ⟨[(c.fld 8 8, { parseHead (c.fld 8 8) b with state := 0 }.bytes)], 0⟩ := by
  have unit : stackOpenOp.unit s c k = closeUnit s c k := if_neg (by omega)
  rw [unit, closeUnit, stackHead_eq_ok read]
  rfl

/-- CLOSE runs once no reservation or claim on its stack is in flight (R205). -/
theorem exec_stackClose {s : State} {q n : Nat} {c : Cmd} (runnable : s.runnable q n (Cmd.isSub 0x502 2) = some c)
    (unheld : s.stackHeld (c.fld 8 8) 0 c = false) :
    exec (.stackClose q n) s = .next (runRow stackOpenOp (Cmd.isSub 0x502 2) q n s) := by
  change execStackClose q n s = _
  simp [execStackClose, runnable, unheld]

/-! ### The unit of each MARK (R192) -/

/-- The head that is read for a stack is the one at its address. -/
theorem addr_of_stackWith {s : State} {a : Nat} {h : SHead} {es : List SEntry} (named : s.stackWith a = .ok (h, es)) : h.addr = a := by
  unfold State.stackWith State.stackHead at named
  cases read : s.readBytes a 64 with
  | error st => rw [read] at named; cases named
  | ok b =>
    rw [read] at named
    change (s.stackEntries (parseHead a b)).bind (fun es => .ok (parseHead a b, es)) = .ok (h, es) at named
    cases listed : s.stackEntries (parseHead a b) with
    | error st => rw [listed] at named; cases named
    | ok es' => rw [listed] at named; cases named; rfl

/-- A cut whose head may be written commits. -/
theorem cutTo_ok {s : State} {h : SHead} (c : Cmd) (es : List SEntry) (off : Nat) (allowed : s.refusal h.addr 64 true = none) :
    ∃ (t : State) (d : Cmd), cutTo s c h es off = .ok (t, d) ∧ c.SameWork d := by
  unfold cutTo
  dsimp only
  rw [commitWrites_run c (by rw [SHead.bytes_length]; exact allowed)]
  exact ⟨_, _, rfl, noteWrite_sameWork s c _ _⟩

section
variable {s : State} {c : Cmd} {h : SHead} {es : List SEntry} (k : Nat) (named : s.stackWith (c.fld 8 8) = .ok (h, es))
include named

/-- PLACE and POP acted at their start. -/
theorem markUnit_noCut (noCut : c.fld 0 1 ≠ 3) (noCutAll : c.fld 0 1 ≠ 4) : markUnit s c k = .ok (s, c) := by
  simp [markUnit, named, noCut, noCutAll]

theorem markUnit_cut {e : SEntry} (op : c.fld 0 1 = 3) (mark : cutMark es (c.fld 4 4) = some e) :
    markUnit s c k = cutTo s c h es e.off := by
  simp [markUnit, named, op, mark]

theorem markUnit_cutAll (op : c.fld 0 1 = 4) : markUnit s c k = cutTo s c h (es.filter (fun e => decide (e.off < 0))) 0 := by
  simp [markUnit, named, op]

/-- CUT runs once no reservation or claim at or above its mark is in flight. -/
theorem exec_stackMarkCut {q n : Nat} {e : SEntry} (runnable : s.runnable q n (Cmd.isSub 0x501 3) = some c) (op : c.fld 0 1 = 3)
    (mark : cutMark es (c.fld 4 4) = some e) (unheld : s.stackHeld (c.fld 8 8) e.off c = false) :
    exec (.stackMarkCut q n) s = .next (runRow stackMarkOp (Cmd.isSub 0x501 3) q n s) := by
  have offset : cutOffset s c = e.off := by simp [cutOffset, op, named, mark]
  change execStackMarkCut q n s = _
  simp [execStackMarkCut, runnable, offset, unheld]

end

/-- CUT_ALL runs once no reservation or claim on its stack is in flight. -/
theorem exec_stackMarkCutAll {s : State} {q n : Nat} {c : Cmd} (runnable : s.runnable q n (Cmd.isSub 0x501 4) = some c)
    (unheld : s.stackHeld (c.fld 8 8) 0 c = false) :
    exec (.stackMarkCutAll q n) s = .next (runRow stackMarkOp (Cmd.isSub 0x501 4) q n s) := by
  change execStackMarkCutAll q n s = _
  simp [execStackMarkCutAll, runnable, unheld]

/-- The row of a MARK whose unit is a cut of a head that may be written. -/
theorem exec_cut {i : Instr} {sel : Cmd → Bool} {s : State} {q n off : Nat} {c : Cmd} {h : SHead} {es : List SEntry}
    (row : exec i s = .next (runRow stackMarkOp sel q n s)) (runnable : s.runnable q n sel = some c) (todo : c.done = [])
    (free : c.withheld = []) (unit : markUnit s c 0 = cutTo s c h es off) (allowed : s.refusal h.addr 64 true = none) :
    ∃ (t : State) (d : Cmd), exec i s = .next (t.putCmd d) ∧ d.status = .ok ∧ d.phase = .ended ∧ d.units = c.units + 1 ∧ WritesOnly s t d := by
  have ⟨t, d, cut, same⟩ := cutTo_ok c es off allowed
  have ran := unit.trans cut
  exact ⟨t, exec_oneUnit_writes stackMarkOp_oneUnit row runnable todo free ran same ((markUnit_wrote s c 0 (Wrote.refl s c)).of ran)⟩

/-! ### The end of PUSH and POP -/

theorem pushFinish_status {s t : State} {c d : Cmd} (h : pushFinish s c = .ok (t, d)) : d.status = .ok := by
  unfold pushFinish at h
  split at h
  · cases h; rfl
  · split at h <;> cases h
    rfl

theorem stackPushOp_status {s t : State} {c d : Cmd} (h : stackPushOp.outcome s c = some (t, d)) : d.status = .ok := by
  obtain ⟨u, v, e, -, -, finished⟩ := Op.outcome_eq_some h
  exact pushFinish_status finished

theorem stackPopOp_status {s t : State} {c d : Cmd} (h : stackPopOp.outcome s c = some (t, d)) : d.status = .ok := by
  obtain ⟨u, v, e, -, -, finished⟩ := Op.outcome_eq_some h
  cases finished
  rfl

end Sys2Proof.Machine

/-- Settles O36: OPEN, CLOSE and MARK are one unit and an OK (`exec_oneUnit`), which stores one head (`exec_oneUnit_stores`), cuts (`exec_cut`), or
does nothing; PUSH and POP are the run to the end (`exec_of_runs`). -/
theorem stackRows : Obligations.StackRows := by
  unfold Obligations.StackRows
  refine ⟨?oneUnit, ?toEnd⟩
  case oneUnit =>
    rintro s q n a c rfl todo free
    refine ⟨?opens, ?closes, fun h es named => ⟨?place, ?pop, ?cut, ?cutAll⟩⟩
    case opens =>
      intro runnable allowed
      rw [← newHead_bytes]
      exact exec_oneUnit_stores stackOpenOp_oneUnit rfl runnable todo free (stackOpenOp_open 0 (fld_op_of_runnable runnable))
        (by rw [List.length_append, SHead.bytes_length, natBytes_length]) allowed
    case closes =>
      intro b runnable unheld read allowed
      exact exec_oneUnit_stores stackOpenOp_oneUnit (exec_stackClose runnable unheld) runnable todo free
        (stackOpenOp_close 0 (fld_op_of_runnable runnable) read) (SHead.bytes_length _) allowed
    case place =>
      intro runnable
      have op := fld_op_of_runnable runnable
      exact exec_oneUnit stackMarkOp_oneUnit rfl runnable todo free (markUnit_noCut 0 named (by omega) (by omega)) (.refl c)
    case pop =>
      intro runnable
      have op := fld_op_of_runnable runnable
      exact exec_oneUnit stackMarkOp_oneUnit rfl runnable todo free (markUnit_noCut 0 named (by omega) (by omega)) (.refl c)
    case cut =>
      intro e runnable mark unheld allowed
      have op := fld_op_of_runnable runnable
      rw [← addr_of_stackWith named] at allowed
      exact exec_cut (exec_stackMarkCut named runnable op mark unheld) runnable todo free (markUnit_cut 0 named op mark) allowed
    case cutAll =>
      intro runnable unheld allowed
      rw [← addr_of_stackWith named] at allowed
      exact exec_cut (exec_stackMarkCutAll runnable unheld) runnable todo free (markUnit_cutAll 0 named (fld_op_of_runnable runnable)) allowed
  case toEnd =>
    intro s t q n d
    exact ⟨exec_of_runs rfl fun _ held outcome => ⟨stackPushOp_same held outcome, stackPushOp_status outcome⟩,
      exec_of_runs rfl fun _ held outcome => ⟨(stackPopOp_wrote held outcome).writesOnly, stackPopOp_status outcome⟩⟩

end

section
/-! PROOFS. The rows of the optimiser family (R209, R211, R214, R215, R219, R221, R227, R230). -/

open Sys2Proof Sys2Proof.Machine

namespace Sys2Proof.Machine

/-- A command that only writes leaves the shards, and the fetches that wait for them, as they are. -/
theorem Wrote.leavesShards {s t : State} {c d : Cmd} (h : Wrote s c t d) :
    WritesOnly { s with shards := t.shards, shardWaits := t.shardWaits } t d ∧ t.shards = s.shards ∧ t.shardWaits = s.shardWaits := by
  have same := h.frame.same
  have shards : t.shards = s.shards := by rw [same]
  have waits : t.shardWaits = s.shardWaits := by rw [same]
  refine ⟨?_, shards, waits⟩
  rw [shards, waits]
  exact h.writesOnly

end Sys2Proof.Machine

/-- Settles O37: each row is the run to the end (`exec_of_runs`), whose units and report write only what the command records, and leave the shards
(`Wrote.leavesShards`), but for those of OPT_UPDATE and SHARD INIT (`optUpdateOp_wrote`, `shardInitOp_wrote`). -/
theorem optimiserRows : Obligations.OptimiserRows := by
  unfold Obligations.OptimiserRows
  intro s t q n d answer i op sel named runs
  have onlyWrites (row : exec i s = .next (runRow op sel q n s))
      (wrote : ∀ c : Cmd, c.heldNoted = true → op.outcome s c = some (t, d) → Wrote s c t d) :
      exec i s = .next (t.putCmd { d with phase := .ended }) ∧ WritesOnly { s with shards := t.shards, shardWaits := t.shardWaits } t d ∧
        (i ≠ .optUpdate q n → i ≠ .shardInit q n → t.shards = s.shards ∧ t.shardWaits = s.shardWaits) :=
    have ⟨ran, frame, shards⟩ := exec_of_runs row (fun c held outcome => (wrote c held outcome).leavesShards) runs
    ⟨ran, frame, fun _ _ => shards⟩
  obtain ⟨rfl, rfl, rfl⟩ | ⟨rfl, rfl, rfl⟩ | ⟨rfl, rfl, rfl⟩ | ⟨rfl, rfl, rfl⟩ | ⟨rfl, rfl, rfl⟩ | ⟨rfl, rfl, rfl⟩ | ⟨rfl, rfl, rfl⟩ := named
  · exact onlyWrites rfl fun _ => gradQuantOp_wrote
  · have ⟨ran, frame⟩ := exec_of_runs (i := .optUpdate q n) rfl (fun _ => optUpdateOp_wrote) runs
    exact ⟨ran, frame, fun other _ => absurd rfl other⟩
  · have ⟨ran, frame⟩ := exec_of_runs (i := .shardInit q n) rfl (fun _ => shardInitOp_wrote) runs
    exact ⟨ran, frame, fun _ other => absurd rfl other⟩
  · exact onlyWrites rfl fun _ => shardCheckOp_wrote
  · exact onlyWrites rfl fun _ => shardFetchOp_wrote answer
  · exact onlyWrites rfl fun _ => shardExportOp_wrote
  · exact onlyWrites rfl fun _ => shardStatusOp_wrote

end

section
/-! PROOFS. Accesses of peers, and shard fetches from other modules (R228, R377, R385 to R387). -/

open Sys2Proof Sys2Proof.Machine

namespace Sys2Proof.Machine

/-! ### The ingress and the windows -/

/-- Taking a chunk from the link ingress changes the ingress alone. -/
theorem State.takeIngress_state {s u : State} {w0 w : PeerWrite} (taken : s.takeIngress w0 = (u, w)) :
    ∃ waiting, u = { s with lnk := { s.lnk with ingress := waiting } } := by
  simp only [State.takeIngress] at taken
  split at taken <;> cases taken
  · exact ⟨_, rfl⟩
  · exact ⟨s.lnk.ingress, rfl⟩

/-- A write of which no chunk waits at the ingress arrives whole. -/
theorem State.takeIngress_none {s : State} {w : PeerWrite}
    (none : s.lnk.ingress.any (fun x => x.head.any (fun h => h.source == w.source && h.addr == w.addr)) = false) : s.takeIngress w = (s, w) := by
  have unfound : s.lnk.ingress.find? (fun x => x.head.any (fun h => h.source == w.source && h.addr == w.addr)) = Option.none :=
    List.find?_eq_none.mpr fun x listed found => absurd (List.any_eq_true.mpr ⟨x, listed, found⟩) (by rw [none]; decide)
  simp only [State.takeIngress, unfound, Option.bind_none]

theorem State.admits_iff (s : State) (a n : Nat) : s.admits a n = true ↔
    s.lnk.fabric = .inService ∧ ∃ w, w < 8 ∧ (s.peerWindow w).enable = true ∧ (s.peerWindow w).base ≤ a ∧ a + n ≤ (s.peerWindow w).limit + 1 := by
  simp only [State.admits, Bool.and_eq_true, beq_iff_eq, List.any_eq_true, List.mem_range, decide_eq_true_eq, and_assoc]

/-- The refusal that is no missing map is the one outside the windows. -/
theorem State.peerRefusal_outside (s : State) (a n : Nat) : s.peerRefusal a n = some false ↔ ¬ (s.admits a n = true) := by
  unfold State.peerRefusal
  cases s.admits a n
  · simp
  · cases s.mappedRange a n <;> simp

/-! ### What an access comes to -/

theorem State.writeBytes_eq_ok {s t : State} {a : Nat} {bs : Bytes} (h : s.writeBytes a bs = .ok t) : t = s.storeBytes a bs := by
  unfold State.writeBytes at h
  split at h <;> cases h
  rfl

theorem State.writeBytes_sameElse {s t : State} {a : Nat} {bs : Bytes} (h : s.writeBytes a bs = .ok t) : SameElse s t :=
  State.writeBytes_eq_ok h ▸ storeBytes_sameElse s a bs

theorem State.raiseWord_sameElse {s t : State} {a v : Nat} (h : s.raiseWord a v = .ok t) : SameElse s t := by
  unfold State.raiseWord at h
  cases read : s.readBytes a 8 with
  | error st => rw [read] at h; cases h
  | ok b => rw [read] at h; exact State.writeBytes_sameElse h

/-- The write's bytes are stored in `u`, then its flag, if it has one, is admitted and raised: `v`. -/
def State.StoresPeer (u : State) (w : PeerWrite) (v : State) : Prop :=
  (w.flag = none ∧ u.writeBytes w.addr w.bytes = .ok v) ∨
  (∃ (f : Nat × Nat) (x : State), w.flag = some f ∧ u.peerRefusal f.1 8 = none ∧ u.writeBytes w.addr w.bytes = .ok x ∧ x.raiseWord f.1 f.2 = .ok v)

theorem State.StoresPeer.sameElse {w : PeerWrite} {u v : State} (h : u.StoresPeer w v) : SameElse u v := by
  obtain ⟨-, stored⟩ | ⟨f, x, -, -, stored, raised⟩ := h
  · exact State.writeBytes_sameElse stored
  · exact (State.writeBytes_sameElse stored).trans (State.raiseWord_sameElse raised)

/-- Without a flag, what a write comes to is the store of its bytes. -/
theorem State.StoresPeer.of_noFlag {w : PeerWrite} {u v : State} (h : u.StoresPeer w v) (plain : w.flag = none) : v = u.storeBytes w.addr w.bytes := by
  obtain ⟨-, stored⟩ | ⟨f, x, flagged, -⟩ := h
  · exact State.writeBytes_eq_ok stored
  · rw [plain] at flagged; cases flagged

section
variable {s : State} (alive : s.alive = true) (placed : s.lnk.position ≠ 0xFFFF)
include alive placed

theorem exec_peerWrite_served {w0 w : PeerWrite} {u v : State} (taken : s.takeIngress w0 = (u, w))
    (admitted : u.peerRefusal w.addr w.bytes.length = none) (stores : u.StoresPeer w v) :
    exec (.peerWriteArrive w0) s = .next ((v.sendPeer w.source "RECEIVED" [w.addr] []).sendPeer w.source "VISIBLE" [w.addr] []) := by
  change Host.Outcome.next (peerWrite w0 s) = _
  obtain ⟨plain, stored⟩ | ⟨f, x, flagged, flagAdmitted, stored, raised⟩ := stores
  · simp [peerWrite, alive, placed, taken, admitted, plain, stored, Except.bind]
  · simp [peerWrite, alive, placed, taken, admitted, flagged, flagAdmitted, stored, raised, Except.bind]

theorem exec_peerWrite_refused {w0 w : PeerWrite} {u : State} {unmapped : Bool} (taken : s.takeIngress w0 = (u, w))
    (refused : u.peerRefusal w.addr w.bytes.length = some unmapped) :
    exec (.peerWriteArrive w0) s = .next (u.refusePeer w.source w.addr unmapped) := by
  change Host.Outcome.next (peerWrite w0 s) = _
  simp [peerWrite, alive, placed, taken, refused]

theorem exec_peerRead_served (source : Nat) {a n : Nat} {b : Bytes} (admitted : s.peerRefusal a n = none) (read : s.readBytes a n = .ok b) :
    exec (.peerReadArrive source a n) s = .next (s.sendPeer source "DATA" [a] b) := by
  change Host.Outcome.next (peerRead source a n s) = _
  simp [peerRead, alive, placed, admitted, read]

theorem exec_peerRead_refused (source : Nat) {a n : Nat} {unmapped : Bool} (refused : s.peerRefusal a n = some unmapped) :
    exec (.peerReadArrive source a n) s = .next (s.refusePeer source a unmapped) := by
  change Host.Outcome.next (peerRead source a n s) = _
  simp [peerRead, alive, placed, refused]

end

theorem exec_peerAccess_unplaced {s : State} (unplaced : s.lnk.position = 0xFFFF) :
    (∀ w : PeerWrite, exec (.peerWriteArrive w) s = .next s) ∧ (∀ source a n : Nat, exec (.peerReadArrive source a n) s = .next s) := by
  constructor
  · intro w
    change Host.Outcome.next (peerWrite w s) = _
    simp [peerWrite, unplaced]
  · intro source a n
    change Host.Outcome.next (peerRead source a n s) = _
    simp [peerRead, unplaced]

/-- The bytes of a write without a flag stand in Ivory or Slate as they came, and every byte there that it does not reach stays. -/
theorem State.StoresPeer.bytes {u v : State} {w : PeerWrite} (stores : u.StoresPeer w v) (wf : u.mem.wf = true) (plain : w.flag = none) :
    (w.addr + w.bytes.length ≤ umberBase ∨ (slateBase ≤ w.addr ∧ w.addr + w.bytes.length ≤ 2 ^ 48) →
      ∀ i, i < w.bytes.length → some (v.rawByte (w.addr + i)) = w.bytes[i]?) ∧
    (∀ x, (x < umberBase ∨ (slateBase ≤ x ∧ x < 2 ^ 48)) → (x < w.addr ∨ w.addr + w.bytes.length ≤ x) → u.inBitmap x = false →
      v.rawByte x = u.rawByte x) := by
  rw [stores.of_noFlag plain]
  constructor
  · intro tier i inside
    rw [State.rawByte_storeBytes _ wf w.addr w.bytes tier i inside, List.getElem?_eq_getElem inside]
  · exact fun x tier outside clean => rawByte_storeBytes_other wf w.addr w.bytes tier outside clean

/-! ### Shard fetches (R228) -/

section
variable {s : State} (alive : s.alive = true) (source want : Nat) {r : Shard} (read : s.readBytes r.addr 256 = .ok r.raw)
include alive read

theorem shardFetchServe_busy (busy : r.busySeq ≠ 0) :
    shardFetchServe source r.addr want s = { s with shardWaits := s.shardWaits ++ [⟨source, r.addr, want⟩] } := by
  simp [shardFetchServe, alive, read, busy]

theorem shardFetchServe_broken (idle : r.busySeq = 0) (broken : r.phase = 0xFF) :
    shardFetchServe source r.addr want s = s.sendPeer source "SHARD_BROKEN" [r.addr] [] := by
  simp [shardFetchServe, alive, read, idle, broken]

theorem shardFetchServe_otherVersion (idle : r.busySeq = 0) (whole : r.phase ≠ 0xFF) (other : r.version ≠ want) :
    shardFetchServe source r.addr want s = s.sendPeer source "SHARD_VERSION" [r.addr, r.version] [] := by
  simp [shardFetchServe, alive, read, idle, whole, other]

theorem shardFetchServe_planes (idle : r.busySeq = 0) (whole : r.phase ≠ 0xFF) {w wt : Bytes}
    (work : s.readBytes r.work.range.1 r.work.range.2 = .ok w)
    (transposed : (if r.hasT then s.readBytes r.workT.range.1 r.workT.range.2 else .ok []) = .ok wt) :
    shardFetchServe source r.addr r.version s = s.sendPeer source "SHARD_PLANES" [r.addr, r.version, w.length] (w ++ wt) := by
  simp [shardFetchServe, alive, read, idle, whole, work, transposed]

end

end Sys2Proof.Machine

/-- Settles O57: an access is refused or served as `State.peerRefusal` says (`exec_peerWrite_served` to `exec_peerRead_refused`), a served write is
a store (`State.StoresPeer.bytes`), and a shard fetch is answered by the shard's state (`shardFetchServe_busy` to `shardFetchServe_planes`). -/
theorem peerAccesses : Obligations.PeerAccesses := by
  unfold Obligations.PeerAccesses
  refine ⟨fun s => exec_peerAccess_unplaced, fun s alive placed =>
    ⟨?served, ?refused, fun w => State.takeIngress_none, fun source a n b => exec_peerRead_served alive placed source,
      fun source a n unmapped => exec_peerRead_refused alive placed source, ?outside, ?fetch⟩⟩
  case served =>
    intro w0 w u v taken admitted wf stores
    have bytes := State.StoresPeer.bytes stores
    obtain ⟨waiting, rfl⟩ := State.takeIngress_state taken
    exact ⟨exec_peerWrite_served alive placed taken admitted stores, State.StoresPeer.sameElse stores, bytes wf⟩
  case refused =>
    intro w0 w u unmapped taken refused
    obtain ⟨waiting, rfl⟩ := State.takeIngress_state taken
    exact exec_peerWrite_refused alive placed taken refused
  case outside =>
    intro a n
    rw [State.peerRefusal_outside, State.admits_iff]
  case fetch =>
    rintro source a want r w wt read rfl
    refine ⟨fun busy => congrArg _ (shardFetchServe_busy alive source want read busy),
      fun idle broken => congrArg _ (shardFetchServe_broken alive source want read idle broken),
      fun idle whole other => congrArg _ (shardFetchServe_otherVersion alive source want read idle whole other), ?_⟩
    rintro idle whole rfl work transposed
    refine congrArg _ (shardFetchServe_planes alive source read idle whole work ?_)
    obtain ⟨none, rfl⟩ | ⟨has, readT⟩ := transposed
    · rw [if_neg (by rw [none]; decide)]
    · rw [if_pos has, readT]

end

section
/-! PROOFS. The boundaries of the tower units: a step of a unit, the overflow flags of a THIN_GEMM, a key block's partial (R223, R293 to R302, R308,
R435). -/

open Sys2Proof Sys2Proof.Machine

namespace Sys2Proof.Machine

/-! ### One unit of a command -/

/-- The command that commits one unit and has units left goes on. -/
theorem Op.CommitsOne.runSome {op : Op} {s t : State} {c d : Cmd} {k : Nat} (h : op.CommitsOne s c k t d) : op.runSome [k] s c = (t, d) := by
  obtain ⟨clear, undone, ready, ⟨b, e, rfl, unit, rfl⟩, more, -, -⟩ := h
  have next : ¬ ((op.nextUnit t { e with done := insertNat k e.done, units := e.units + op.weight s (c.keepTables s (op.tables s c)) k }).isNone = true) := by
    rw [Option.isNone_iff_eq_none]
    exact fun none => by rw [none] at more; cases more
  rw [Op.runSome, clear]
  simp only [Op.runUnits, undone, ready, unit, Op.settle, if_neg next, Bool.not_true, Bool.false_eq_true, if_false]

/-- It has then committed a unit more. -/
theorem Op.CommitsOne.done_ne {op : Op} {s t : State} {c d : Cmd} {k : Nat} (h : op.CommitsOne s c k t d) : d.done ≠ c.done := by
  obtain ⟨-, -, -, -, -, -, committed⟩ := h
  exact committed

/-! ### A boundary of a tower unit -/

theorem unitWork_opcode {s : State} {c : Cmd} (h : unitWork s c = true) : c.opcode = 0x505 ∨ c.opcode = 0x506 ∨ c.opcode = 0x507 := by
  simp only [unitWork, Bool.or_eq_true, Bool.and_eq_true, beq_iff_eq] at h
  obtain (update | ⟨shard, -⟩) | ⟨quant, -⟩ := h
  · exact .inr (.inl update)
  · exact .inr (.inr shard)
  · exact .inl quant

theorem onTowers_opcode {s : State} {c : Cmd} (h : onTowers s c = true) : c.opcode = 0x401 := by
  simp only [onTowers, Bool.and_eq_true, beq_iff_eq] at h
  exact h.1

/-- A place at a tower unit is noted beside the command's descriptor. -/
theorem State.joinTower_opcode {s u : State} {c b : Cmd} {t : Nat} (joined : s.joinTower c t = some (u, b)) : b.opcode = c.opcode := by
  unfold State.joinTower at joined
  split at joined
  · cases joined; rfl
  · split at joined <;> cases joined
    rfl

/-- A boundary that no throttle pauses and no stop follows: the command takes its place, the owed refreshes are paid, the step ends. -/
theorem towerBoundary_goOn {s u : State} {c b : Cmd} {w wait : Nat} (serves : s.unitServes w = true) (step : hasStep s c w = true)
    (clear : (s.page (pgTower w)).injectNext = false) (runs : unitPaused s.gov.throttle (s.tower w).slot = false)
    (joined : s.joinTower c w = some (u, b)) : towerBoundary s c w wait .goOn = towerStep ((u.putCmd b).passStep w wait) b w := by
  simp only [towerBoundary, serves, step, clear, runs, joined, Boundary.stops, Bool.not_true, Bool.or_self, Bool.false_and, Bool.false_eq_true, if_false]
  split <;> rfl

/-- A step of a command of units is its next one there. -/
theorem towerStep_unit {v t : State} {b d : Cmd} {w k : Nat} (thin : b.opcode ≠ 0x203) (attention : b.opcode ≠ 0x401)
    (next : nextShare v b (some w) = some k) (commits : (chunkOp b).CommitsOne v b k t d) :
    towerStep v b w = (t.count (pgTower w) 0x2104 1).putCmd d := by
  simp only [towerStep, if_neg thin, if_neg attention, next, commits.runSome, if_pos commits.done_ne]

/-- A step of a THIN_GEMM splits its column group at a pass, or ends it. -/
theorem towerStep_thin {v : State} {b : Cmd} {w tile p : Nat} {g : Mat} (thin : b.opcode = 0x203) (named : b.mat = some g)
    (next : matrixOp.nextUnit v b = some tile) (undone : shareDone v b g tile (some w) = false)
    (passes : p = b.keptNat (passKey tile (some w)) + (v.tower w).passesPerPiece g) :
    towerStep v b w = if p < g.passes (b.cnt 3)
      then (v.count (pgTower w) 0x2102 1).putCmd (b.putKept (passKey tile (some w)) p)
      else v.putCmd ((b.putKept (passKey tile (some w)) 0).putKept (groupKey tile (some w)) (b.keptNat (groupKey tile (some w)) + 1)) := by
  subst passes
  simp only [towerStep, if_pos thin, named, next, thinPiece, undone, Bool.false_eq_true, if_false]
  split <;> rfl

/-- A step of an attention command is the walk's next key block. -/
theorem towerStep_attention {v : State} {b : Cmd} {a : Att} (w : Nat) (attention : b.opcode = 0x401) (named : b.att = some a) :
    towerStep v b w = walkStep v (walkRegion v b) 0x503 b a .goOn := by
  simp [towerStep, attention, named]

/-- A walk that is not at its last key block takes in the next one. -/
theorem walkStep_goesOn {s : State} {r src x : Nat} {c c' d : Cmd} {a : Att} {u : AUnit} {w w' : Walk} {k : Keys} (walk : walkOf s r c = some w)
    (unit : (s.attUnits c a)[w.unit]? = some u) (keys : attKeys s c a [] u = .ok (c', k)) (block : (a.blocks k u)[w.key]? = some x)
    (folds : walkBlock s c' a k u (a.blocks k u) w x = .ok (d, w')) (more : w'.key < (a.blocks k u).length) :
    walkStep s r src c a .goOn = ((s.count (pgWalker r) src 1).putWalk r (some w')).putCmd d := by
  simp only [walkStep, walk, unit, walkOn, keys, block, folds, if_neg (Nat.not_le.mpr more), walkBoundary, Boundary.stops, Bool.false_eq_true, if_false]

/-! ### Overflow flags (R299) -/

/-- The flag that the tower's columns have in the attempt in progress is added, and the tile judged if it was the last. -/
theorem exec_overflowFlag {s : State} {w : Fin 18} {q n tile : Nat} {flag : Bool} {c : Cmd} {g : Mat} {es : List TileElem}
    (runnable : s.runnable q n (Cmd.isOp 0x203) = some c) (named : c.mat = some g) (within : g.limit = false)
    (next : matrixOp.nextUnit s c = some tile) (owns : (thinCols s g tile (some w.val)).isEmpty = false)
    (first : c.flags.any (fun f => f.1 == w.val) = false) (finished : shareDone s c g tile (some w.val) = true)
    (attempt : thinAttempt s c g tile = .ok es)
    (found : flag = (g.repeats && ((g.tilePos tile).zip es).any (fun x => thinHome s g tile x.1.2 == some w.val && x.2.isOver))) :
    exec (.overflowFlagReceive w q n tile flag) s = .next (thinSettle s { c with flags := c.flags ++ [(w.val, flag)] } g tile) := by
  subst found
  change Host.Outcome.next (overflowFlag w q n tile _ s) = _
  simp [overflowFlag, runnable, named, within, next, owns, first, finished, attempt]

/-- A tile of which flags are missing waits. -/
theorem thinSettle_waits {s : State} {c : Cmd} {g : Mat} {tile : Nat} (missing : tileReady s c g tile = false) :
    thinSettle s c g tile = s.putCmd c := by
  simp [thinSettle, missing]

/-- A whole tile that must repeat starts its next attempt. -/
theorem thinSettle_again {s : State} {c : Cmd} {g : Mat} {tile : Nat} {es : List TileElem} (ready : tileReady s c g tile = true)
    (attempt : thinAttempt s c g tile = .ok es)
    (again : judge g tile (g.outScale - 2 * c.keptNat (attemptKey tile)) (c.keptNat (attemptKey tile)) es = .again) :
    thinSettle s c g tile = s.putCmd (({ c with flags := [], kept := c.kept.filter (fun e => decide (e.1 < 2 ^ 61)) } : Cmd).putKept
      (attemptKey tile) (c.keptNat (attemptKey tile) + 1)) := by
  simp [thinSettle, ready, attempt, thinJudge, again]

/-! ### The rows -/

theorem exec_towerUnit {s u : State} {w : Fin 18} {q n wait : Nat} {c b : Cmd}
    (runnable : s.runnable q n (fun c => c.opcode == 0x203 || unitWork s c) = some c) (serves : s.unitServes w = true) (step : hasStep s c w = true)
    (clear : (s.page (pgTower w)).injectNext = false) (runs : unitPaused s.gov.throttle (s.tower w).slot = false)
    (joined : s.joinTower c w = some (u, b)) :
    exec (.towerUnitEnd w q n ⟨.goOn, wait⟩) s = .next (towerStep ((u.putCmd b).passStep w wait) b w) := by
  change Host.Outcome.next (towerUnitEnd w q n .goOn wait s) = _
  simp only [towerUnitEnd, runnable, towerBoundary_goOn serves step clear runs joined]

theorem exec_towerAttnBlock {s u : State} {w : Fin 18} {q n wait : Nat} {c b : Cmd} (runnable : s.runnable q n (onTowers s) = some c)
    (walker : walkerServes s (walkRegion s c) = true) (serves : s.unitServes w = true) (step : hasStep s c w = true)
    (clear : (s.page (pgTower w)).injectNext = false) (runs : unitPaused s.gov.throttle (s.tower w).slot = false)
    (joined : s.joinTower c w = some (u, b)) :
    exec (.towerAttnBlockEnd w ⟨q, n⟩ ⟨.goOn, wait⟩) s = .next (towerStep ((u.putCmd b).passStep w wait) b w) := by
  change Host.Outcome.next (towerAttnBlockEnd w q n .goOn wait s) = _
  simp only [towerAttnBlockEnd, runnable, if_pos walker, towerBoundary_goOn serves step clear runs joined, dropPartials, Boundary.stops,
    Bool.false_eq_true, if_false]
  split <;> rfl

end Sys2Proof.Machine

/-- Settles O33: a boundary is the command's step at the unit (`exec_towerUnit`, `exec_towerAttnBlock`), which is a unit, a piece of a column group or
a key block (`towerStep_unit` to `walkStep_goesOn`); a flag lets its tile wait or be judged (`exec_overflowFlag`). -/
theorem towerUnitBoundaries : Obligations.TowerUnitBoundaries := by
  unfold Obligations.TowerUnitBoundaries
  refine ⟨?unitEnd, ?flagReceive, ?attnBlockEnd⟩
  case unitEnd =>
    rintro s u v t w q n wait c b d runnable serves step clear runs joined rfl
    have opcode := State.joinTower_opcode joined
    rw [exec_towerUnit runnable serves step clear runs joined]
    constructor
    · intro k thin next commits
      have work : unitWork s c = true := by
        have selected := State.sel_of_runnable runnable
        rw [Bool.or_eq_true, beq_iff_eq] at selected
        exact selected.resolve_left thin
      have attention : c.opcode ≠ 0x401 := by
        have := unitWork_opcode work
        omega
      rw [← opcode] at thin attention
      rw [towerStep_unit thin attention next commits]
    · intro g tile p thin named next undone passes
      exact congrArg _ (towerStep_thin (opcode.trans thin) named next undone passes)
  case flagReceive =>
    rintro s w q n tile k flag c d g es runnable named within next owns first finished attempt found rfl rfl
    rw [exec_overflowFlag runnable named within next owns first finished attempt found]
    exact ⟨fun missing => congrArg _ (thinSettle_waits missing), fun ready attempt again => congrArg _ (thinSettle_again ready attempt again)⟩
  case attnBlockEnd =>
    rintro s x v w q n wait r c b c' d a u walk walk' k i runnable walker serves step clear runs joined rfl named rfl walks unit keys block folds more
    have attention := (State.joinTower_opcode joined).trans (onTowers_opcode (State.sel_of_runnable runnable))
    rw [exec_towerAttnBlock runnable walker serves step clear runs joined, towerStep_attention w attention named,
      walkStep_goesOn walks unit keys block folds more]

end

section
/-! PROOFS. The memories stay canonical, and the towers' registers and calibrations (R243, R246, R253, R268, R269, R467). -/

open Sys2Proof Sys2Proof.Machine

/-- Settles O3: every arm of `exec` and the idle quantum keep the canonical form of the memories (`step_keeps`). -/
theorem stepKeepsMemoryCanonical : Obligations.StepKeepsMemoryCanonical := by
  unfold Obligations.StepKeepsMemoryCanonical
  intro s t canonical stepped
  obtain ⟨u, answered, keeps⟩ := step_keeps s
  cases stepped.symm.trans answered
  exact keeps.wf canonical

namespace Sys2Proof.Machine

theorem hasBit_eq_testBit (v : Word) (i : Nat) : hasBit v i = v.toNat.testBit i := (BitVec.testBit_toNat v).symm

/-- Only towers 0 to 17 are fitted (R2). -/
theorem lt_of_towerFitted {s : State} {t : Nat} (fitted : s.towerFitted t = true) : t < 18 := by
  unfold State.towerFitted at fitted
  split at fitted
  · exact of_decide_eq_true fitted
  · simp only [Bool.or_eq_true, decide_eq_true_eq] at fitted
    omega

/-! ### Registers of the complex (R243, R246, R268, R269) -/

section
variable {s : State} (answers : s.answers = true)
include answers

theorem exec_towerCtlFlush {v : Word} (flush : v.toNat.testBit 8 = true) : exec (.towerCtlFlush v) s =
    .next ({ s with tow := { s.tow with ivoryScrubMin := bitsOf v.toNat 31 24, scrubHours := bitsOf v.toNat 23 16,
                                        rebuildShare := bitsOf v.toNat 1 0 } }.flushParity) := by
  change Host.Outcome.next (if s.answers && hasBit v 8 then towerCtl v s else s) = _
  rw [answers, hasBit_eq_testBit, flush, towerCtl, bitAt, flush]
  rfl

theorem exec_segDataWrite (v : Word) : exec (.segDataWrite v) s = .next (segData v s) := by
  change Host.Outcome.next (if s.answers then segData v s else s) = _
  rw [if_pos answers]


theorem exec_towerFailWrite {v : Word} (go : v.toNat.testBit 8 = true) : exec (.towerFailWrite v) s =
    .next (if 17 < v.toNat % 32 ∨ s.towerFitted (v.toNat % 32) = false then s.badWrite pgComplex 0x118 else s.towerFound (v.toNat % 32)) := by
  change Host.Outcome.next (if s.answers then towerFail v s else s) = _
  rw [if_pos answers, towerFail, hasBit_eq_testBit, go]
  rfl

end

/-- Detection is told of a fitted tower that has not failed. -/
theorem towerFound_working {s : State} {t : Nat} (fitted : s.towerFitted t = true) (working : (s.tower t).failed = false) :
    s.towerFound t = s.putTower t { s.tower t with failFound := true } := by
  rw [State.towerFound, working, fitted]
  rfl

/-! ### Requests without an answer and calibrations (R253, R467) -/

section
variable {s : State} {t : Fin 18} (fed : s.fed = true) (fitted : s.towerFitted t = true) (working : (s.tower t).failed = false)
include fed fitted working

theorem exec_towerRequestTimeout : exec (.towerRequestTimeout t) s =
    .next (if 1 ≤ (s.tower t).unanswered then (s.putTower t { s.tower t with unanswered := 0 }).towerFound t
      else s.putTower t { s.tower t with unanswered := (s.tower t).unanswered + 1 }) := by
  change Host.Outcome.next (if !s.fed || !s.towerFitted t || (s.tower t).failed then s else _) = _
  rw [if_neg (by simp [fed, fitted, working])]

theorem exec_towerZqCal (late : Bool) : exec (.towerZqCal t late) s = .next (if late then s.raiseBlockBit (pgTower t) 16 0 else s) := by
  change Host.Outcome.next (if !s.fed || !s.towerFitted t || (s.tower t).failed then s else _) = _
  rw [if_neg (by simp [fed, fitted, working])]

theorem exec_towerTimingTrim (done late : Bool) : exec (.towerTimingTrim t done late) s =
    .next (if late then s.raiseBlockBit (pgTower t) 16 0
      else if done then s.putTower t { s.tower t with trimming := false }
      else if s.tow.towers.any (fun w => w.2.trimming) || s.rebuildTouches t then s
      else s.putTower t { s.tower t with trimming := true }) := by
  change Host.Outcome.next (towerTrim t done late s) = _
  rw [towerTrim, if_neg (by simp [fed, fitted, working])]

end

theorem rebuildTouches_other {s : State} (t : Nat) (other : s.tow.sts ≠ .rebuilding) : s.rebuildTouches t = false := by
  rw [State.rebuildTouches, decide_eq_false other, Bool.false_and, Bool.false_and]

end Sys2Proof.Machine

/-- Settles O50: a register's write is what its fields ask for (`exec_towerCtlFlush` to `exec_towerFailWrite`), and a row that finds its tower fitted
and working notes the request or the calibration there. -/
theorem towerRegistersAndCalibration : Obligations.TowerRegistersAndCalibration := by
  unfold Obligations.TowerRegistersAndCalibration
  intro s
  refine ⟨fun answers => ⟨fun v => exec_towerCtlFlush answers, ?segStores, ?segRefused, ?fail⟩, fun fed t fitted working => ⟨?first, ?second, ?zq⟩⟩
  case segStores =>
    intro v code selected
    rw [exec_segDataWrite answers, segData, if_neg (by omega)]
  case segRefused =>
    intro v bad
    rw [exec_segDataWrite answers, segData, if_pos bad]
  case fail =>
    rintro v t go rfl
    rw [exec_towerFailWrite answers go]
    constructor
    · intro fitted working
      have named := lt_of_towerFitted fitted
      rw [if_neg (by rw [fitted]; simpa using Nat.le_of_lt_succ named), towerFound_working fitted working]
    · intro unfitted
      rw [if_pos (.inr unfitted)]
  case first =>
    intro answered
    rw [exec_towerRequestTimeout fed fitted working, answered]
    rfl
  case second =>
    intro u cleared put once
    have still : ((s.putTower t u).tower t).failed = false := by rw [put, cleared]; exact working
    rw [exec_towerRequestTimeout fed fitted working, once, if_pos (Nat.le_refl 1), ← cleared,
      towerFound_working (s := s.putTower t u) fitted still, put]
  case zq =>
    refine ⟨exec_towerZqCal fed fitted working false, exec_towerZqCal fed fitted working true, ?_,
      exec_towerTimingTrim fed fitted working true false, exec_towerTimingTrim fed fitted working false true⟩
    intro alone still
    rw [exec_towerTimingTrim fed fitted working, alone, rebuildTouches_other t still]
    rfl

end

section
/-! PROOFS. Towers that fail, the spare's wake, rebuild, recomputation and resync (R246, R248, R253, R254, R257 to R259). -/

open Sys2Proof Sys2Proof.Machine

namespace Sys2Proof.Machine

/-! ### Failures (R254, R257 to R259) -/

theorem exec_towerFailDetect {s : State} {t : Fin 18} (fed : s.fed = true) (found : (s.tower t).failFound = true) (working : (s.tower t).failed = false) :
    exec (.towerFailDetect t) s = .next (if t.val = 17 then s.spareFails else s.positionFails t) := by
  change Host.Outcome.next (towerFailDetect t s) = _
  rw [towerFailDetect, if_neg (by simp [fed, found, working])]

/-- After a DEVICE stop the module has stopped (R26). -/
theorem deviceStopAt_stopped (s : State) (p detail : Nat) : (s.deviceStopAt p detail).deviceStop = true := by
  unfold State.deviceStopAt
  split
  · assumption
  · dsimp only
    split
    · rw [(sendTwin_sends _ _ _ _).1]
    · rfl

/-- A failure that the redundancy cannot take stops the module, whichever tower it is. -/
theorem towerFails_stops {s : State} (t : Fin 18) (spent : s.tow.sts = .degraded ∨ s.tow.sts = .lost) :
    (if t.val = 17 then s.spareFails else s.positionFails t) = (s.fenceTower t).deviceStopAt (pgTower t) 0 := by
  split
  · next spare => obtain sts | sts := spent <;> simp only [State.spareFails, sts, spare]
  · obtain sts | sts := spent <;> simp only [State.positionFails, sts]

/-! ### The block of one tower in one stripe -/

/-- From `s` to `t` the first `n` cells of tower `p` in stripe `i` have taken their values, and nothing else has changed. -/
structure Filled (p i : Nat) (value : Nat → Byte) (n : Nat) (s t : State) : Prop where
  same : t = { s with mem := { s.mem with cells := t.mem.cells } }
  wf   : t.mem.wf = true
  cell : ∀ key, t.mem.cell key =
    if towerKey p (i * 4096) ≤ key ∧ key < towerKey p (i * 4096) + n then value (key - towerKey p (i * 4096)) else s.mem.cell key

section
variable {p i n : Nat} {value : Nat → Byte} {s t : State}

theorem Filled.value_at (h : Filled p i value n s t) {j : Nat} (inside : j < n) : t.mem.cell (towerKey p (i * 4096 + j)) = value j := by
  have key : towerKey p (i * 4096 + j) = towerKey p (i * 4096) + j := by unfold towerKey; omega
  rw [h.cell, key, if_pos (by omega), Nat.add_sub_cancel_left]

theorem Filled.cell_outside (h : Filled p i value n s t) {key : Nat} (outside : key < towerKey p (i * 4096) ∨ towerKey p (i * 4096) + n ≤ key) :
    t.mem.cell key = s.mem.cell key := by
  rw [h.cell, if_neg (by omega)]

theorem Filled.other_tower (h : Filled p i value n s t) (part : n ≤ 4096) {q j : Nat} (inside : j < 4096) (other : q ≠ p) :
    t.mem.cell (towerKey q (i * 4096 + j)) = s.mem.cell (towerKey q (i * 4096 + j)) := by
  refine h.cell_outside ?_
  unfold towerKey
  omega

/-- The next cell takes its value. -/
theorem Filled.succ (h : Filled p i value n s t) :
    Filled p i value (n + 1) s { t with mem := t.mem.setCell (towerKey p (i * 4096 + n)) (value n) } := by
  have key : towerKey p (i * 4096 + n) = towerKey p (i * 4096) + n := by unfold towerKey; omega
  refine ⟨?_, Mem.setCell_wf _ _ h.wf, fun k => ?_⟩
  · have same := h.same
    rw [same]
    rfl
  · dsimp only
    rw [Mem.cell_setCell h.wf, h.cell, key]
    by_cases here : k = towerKey p (i * 4096) + n
    · rw [if_pos here, if_pos (by omega), here, Nat.add_sub_cancel_left]
    · rw [if_neg here]
      congr 1
      rw [eq_iff_iff]
      omega

/-- Steps that each set the next cell fill the block. -/
theorem filled_foldl {step : State → Nat → State} (wf : s.mem.wf = true)
    (sets : ∀ j u, j < n → Filled p i value j s u → step u j = { u with mem := u.mem.setCell (towerKey p (i * 4096 + j)) (value j) }) :
    Filled p i value n s ((List.range n).foldl step s) := by
  induction n with
  | zero => exact ⟨rfl, wf, fun key => (if_neg (by omega)).symm⟩
  | succ n ih =>
    have before := ih fun j u inside => sets j u (by omega)
    rw [List.range_succ, List.foldl_append, List.foldl_cons, List.foldl_nil, sets n _ (by omega) before]
    exact before.succ

end

/-! ### What a stripe is recomputed from -/

theorem dataTowers_le (s : State) : s.dataTowers ≤ 16 := by
  unfold State.dataTowers
  split <;> decide

theorem foldl_congr_mem {α β : Type} {f g : β → α → β} {l : List α} (h : ∀ b, ∀ a ∈ l, f b a = g b a) (b : β) : l.foldl f b = l.foldl g b := by
  induction l generalizing b with
  | nil => rfl
  | cons a l ih => rw [List.foldl_cons, List.foldl_cons, h b a List.mem_cons_self, ih fun b x hx => h b x (List.mem_cons_of_mem _ hx)]

/-- A byte is reconstructed from the parity byte and the towers of the other data positions alone (R249, R256). -/
theorem reconstruct_congr {s t : State} {n x : Nat} (tow : t.tow = s.tow) (part : t.part = s.part) (parity : t.parityByte x = s.parityByte x)
    (cells : ∀ m q, m < s.dataTowers → m ≠ n → s.tow.readAt m (x / 4096) = some q → t.mem.cell (towerKey q x) = s.mem.cell (towerKey q x)) :
    t.reconstruct n x = s.reconstruct n x := by
  have towers : t.dataTowers = s.dataTowers := by unfold State.dataTowers; rw [part]
  unfold State.reconstruct
  rw [tow, towers, parity]
  refine foldl_congr_mem (fun acc m listed => ?_) _
  by_cases missing : m = n
  · rw [if_pos missing, if_pos missing]
  · rw [if_neg missing, if_neg missing]
    cases read : s.tow.readAt m (x / 4096) with
    | none => rfl
    | some q =>
      dsimp only
      rw [cells m q (List.mem_range.mp listed) missing read]

/-- The XOR of the data positions is that of the towers that hold them. -/
theorem dataXor_congr {s t : State} {x : Nat} (tow : t.tow = s.tow) (part : t.part = s.part) (cleared : t.mem.lostCleared = s.mem.lostCleared)
    (cells : ∀ m q, m < s.dataTowers → s.tow.readAt m (x / 4096) = some q → t.mem.cell (towerKey q x) = s.mem.cell (towerKey q x)) :
    t.dataXor x = s.dataXor x := by
  have towers : t.dataTowers = s.dataTowers := by unfold State.dataTowers; rw [part]
  have lost : ∀ m, t.inLost m x = s.inLost m x := fun m => by unfold State.inLost; rw [tow, cleared]
  unfold State.dataXor
  rw [tow, towers]
  refine foldl_congr_mem (fun acc m listed => ?_) _
  rw [lost m]
  cases read : s.tow.readAt m (x / 4096) with
  | none => rfl
  | some q =>
    dsimp only
    rw [cells m q (List.mem_range.mp listed) read]

/-! ### Rebuild (R254, R256) -/

/-- At its cursor a rebuild reads every position but the lost one from its own tower. -/
theorem readAt_rebuilding {w : TowerComplex} (rebuilding : w.sts = .rebuilding) {p : Nat} (present : p ≠ w.lostA) (i : Nat) : w.readAt p i = some p := by
  have layout : w.layout = .rebuilding := by rw [TowerComplex.layout, rebuilding]; rfl
  rw [TowerComplex.readAt, layout]
  exact if_neg present

/-- The rebuild of a data position's block in the cursor's stripe writes T17's block as it is reconstructed there. -/
theorem rebuildBlock_filled {s : State} (wf : s.mem.wf = true) (rebuilding : s.tow.sts = .rebuilding) (data : s.tow.lostA ≠ 16) (i : Nat) :
    Filled 17 i (fun j => s.reconstruct s.tow.lostA (i * 4096 + j)) 4096 s (s.rebuildBlock i) := by
  rw [State.rebuildBlock, if_neg data]
  refine filled_foldl wf fun j u inside before => ?_
  have same := before.same
  have tow : u.tow = s.tow := by rw [same]
  have keeps : ∀ q, q ≠ 17 → u.mem.cell (towerKey q (i * 4096 + j)) = s.mem.cell (towerKey q (i * 4096 + j)) :=
    fun q => before.other_tower (Nat.le_of_lt inside) inside
  have parity : u.parityByte (i * 4096 + j) = s.parityByte (i * 4096 + j) := by
    unfold State.parityByte
    rw [tow, readAt_rebuilding rebuilding data.symm]
    dsimp only
    rw [keeps 16 (by decide), show u.mem.deltaAt (i * 4096 + j) = s.mem.deltaAt (i * 4096 + j) by rw [same]; rfl]
  rw [tow, reconstruct_congr tow (by rw [same]) parity]
  intro m q listed present read
  rw [readAt_rebuilding rebuilding present] at read
  cases read
  have := dataTowers_le s
  exact keeps m (by omega)

/-! ### Recomputation and resync (R248, R258) -/

theorem recomputeParity_tow (s : State) (i : Nat) : (s.recomputeParity i).tow = s.tow := by
  rw [((Frame.refl (P := fun _ => True) s).recomputeParity i).same]

theorem recomputeLost_tow (s : State) (i : Nat) : (s.recomputeLost i).tow = s.tow := by
  rw [((Frame.refl (P := fun _ => True) s).recomputeLost i).same]

/-- With every tower in place each position lies in its own (R242). -/
theorem readAt_full {w : TowerComplex} (full : w.layout = .full) (p i : Nat) : w.readAt p i = some p := by
  rw [TowerComplex.readAt, full]

theorem writeAt_full {w : TowerComplex} (full : w.layout = .full) (p i : Nat) : w.writeAt p i = some p := by
  rw [TowerComplex.writeAt, full]
  exact readAt_full full p i

@[simp] theorem Mem.cell_setParity (m : Mem) (p : List ParityLine) (key : Nat) : ({ m with parity := p } : Mem).cell key = m.cell key := rfl

/-- With every tower in place T16's block becomes the XOR of the data towers' blocks. -/
theorem recomputeParity_full {s : State} (wf : s.mem.wf = true) (full : s.tow.layout = .full) {i j : Nat} (inside : j < 4096) :
    (s.recomputeParity i).mem.cell (towerKey 16 (i * 4096 + j)) = s.dataXor (i * 4096 + j) := by
  rw [State.recomputeParity]
  dsimp only
  rw [Mem.cell_setParity]
  refine Filled.value_at (n := 4096) (value := fun j => s.dataXor (i * 4096 + j)) (filled_foldl wf fun j u inside before => ?_) inside
  have same := before.same
  have tow : u.tow = s.tow := by rw [same]
  rw [tow, writeAt_full full]
  dsimp only
  rw [dataXor_congr tow (by rw [same]) (by rw [same])]
  intro m q listed read
  rw [readAt_full full] at read
  cases read
  have := dataTowers_le s
  exact before.other_tower (Nat.le_of_lt inside) inside (by omega)

/-! ### The rows -/

section
variable {s : State} (fed : s.fed = true)
include fed

theorem exec_spareWakeDone (rebuilding : s.tow.sts = .rebuilding) (asleep : s.tow.spareAwake = false) : exec .spareWakeDone s =
    .next ((s.flushParity.putTower 17 { s.tower 17 with selfRefresh := false }).modTow (fun w => { w with spareAwake := true })) := by
  change Host.Outcome.next (if s.fed && decide (s.tow.sts = .rebuilding) && !s.tow.spareAwake then _ else s) = _
  rw [if_pos (by simp [fed, rebuilding, asleep])]

theorem exec_rebuildStripe (rebuilding : s.tow.sts = .rebuilding) (awake : s.tow.spareAwake = true) : exec .rebuildStripe s =
    .next (((s.rebuildBlock s.tow.cursor).count pgComplex 0x2005 1).modTow (fun w =>
      if s.tow.cursor + 1 < 2 ^ 24 then { w with cursor := w.cursor + 1 }
      else { w with sts := .parity, spareFor := w.lostA, lostA := 0x1F, cursor := 0, running := false })) := by
  change Host.Outcome.next (rebuildStripe s) = _
  rw [rebuildStripe, if_neg (by simp [fed, rebuilding, awake])]
  by_cases more : s.tow.cursor + 1 < 2 ^ 24
  · simp only [if_pos more]; exact congrArg _ (if_pos more)
  · simp only [if_neg more]; exact congrArg _ (if_neg more)

theorem exec_lostStripeRecompute (lost : s.tow.sts = .lost) (running : s.tow.running = true) : exec .lostStripeRecompute s =
    .next (((s.recomputeLost s.tow.cursor).count pgComplex 0x2005 1).modTow (fun w =>
      if s.tow.cursor + 1 < 2 ^ 24 then { w with cursor := w.cursor + 1 } else { w with cursor := 0, running := false })) := by
  change Host.Outcome.next (lostStripe s) = _
  rw [lostStripe, if_neg (by simp [fed, lost, running])]
  by_cases more : s.tow.cursor + 1 < 2 ^ 24
  · simp only [if_pos more]; exact congrArg _ (if_pos more)
  · simp only [if_neg more]; exact congrArg _ (if_neg more)

theorem exec_resyncStripe (unsynced : s.tow.sts = .unsynced) : exec .resyncStripe s =
    .next (((s.recomputeParity s.tow.cursor).count pgComplex 0x2005 1).modTow (fun w =>
      if s.tow.cursor + 1 < s.tow.unsyncEnd then { w with cursor := w.cursor + 1 }
      else { w with sts := w.unsyncBack, cursor := if w.pausedRunning then w.pausedCursor else 0, running := w.pausedRunning,
                    pausedRunning := false, pausedCursor := 0 })) := by
  change Host.Outcome.next (resyncStripe s) = _
  rw [resyncStripe, if_neg (by simp [fed, unsynced])]
  by_cases more : s.tow.cursor + 1 < s.tow.unsyncEnd
  · simp only [if_pos more]
  · simp only [if_neg more]

end

end Sys2Proof.Machine

/-- Settles O51: a failure is what `State.positionFails` or `State.spareFails` makes of TOWER_STS; a step of the rebuild fills T17's block
(`rebuildBlock_filled`), one of the resync T16's (`recomputeParity_full`), and every step leaves the complex but for its cursor and state. -/
theorem towerFailures : Obligations.TowerFailures := by
  unfold Obligations.TowerFailures
  intro s fed
  refine ⟨?fails, ?wakes, ?rebuilds, ?recomputes, ?resyncs⟩
  case fails =>
    intro t F found working fenced
    obtain rfl : F = s.fenceTower t := fenced
    rw [exec_towerFailDetect fed found working]
    refine ⟨fun data sts => ?_, fun data sts => ?_, fun data sts => ?_, fun spent => ⟨by rw [towerFails_stops t spent], deviceStopAt_stopped _ _ _⟩,
      fun spare sts => ?_, fun spare sts => ?_, fun spare sts => ?_⟩
    · rw [if_neg data]; simp only [State.positionFails, sts]; rfl
    · rw [if_neg data]; simp only [State.positionFails, sts]; rfl
    · rw [if_neg data]; simp only [State.positionFails, sts]; rfl
    · rw [if_pos spare, spare]; simp only [State.spareFails, sts]; rfl
    · rw [if_pos spare, spare]; simp only [State.spareFails, sts]; rfl
    · rw [if_pos spare, spare]; simp only [State.spareFails, sts]; rfl
  case wakes =>
    intro rebuilding asleep
    rw [exec_spareWakeDone fed rebuilding asleep]
    rfl
  case rebuilds =>
    intro rebuilding awake data wf
    have filled := rebuildBlock_filled wf rebuilding data s.tow.cursor
    have tow : (s.rebuildBlock s.tow.cursor).tow = s.tow := by rw [filled.same]
    refine ⟨_, exec_rebuildStripe fed rebuilding awake, by rw [State.modTow_tow, State.count_tow, tow], fun j inside => ?_, fun key outside => ?_⟩ <;>
      rw [State.modTow_mem, State.count_mem]
    · exact filled.value_at inside
    · exact filled.cell_outside outside
  case recomputes =>
    intro lost running
    refine ⟨_, exec_lostStripeRecompute fed lost running, rfl, ?_⟩
    rw [State.modTow_tow, State.count_tow, recomputeLost_tow]
  case resyncs =>
    intro unsynced
    refine ⟨_, exec_resyncStripe fed unsynced, by rw [State.modTow_tow, State.count_tow, recomputeParity_tow], fun full wf j inside => ?_⟩
    have layout : s.tow.layout = .full := by rw [TowerComplex.layout, if_pos unsynced, full]
    rw [State.modTow_mem, State.count_mem]
    exact recomputeParity_full wf layout inside

end

section
/-! PROOFS. Tracked ranges (R261 to R265): the unit of each OP of TRACK, its report, and WRITEBACK. -/

open Sys2Proof Sys2Proof.Machine

namespace Sys2Proof.Machine

/-! ### The end and the row -/

/-- A range stored is the one that is read. -/
@[simp] theorem State.track_putTrack (s : State) (k : Nat) (x : Track) : (s.putTrack k x).track k = x := tabGet_tabSet_same k x

/-- The end of a TRACK command is its report, if it asks for one, and OK. -/
theorem trkFinish_eq_ok {s t : State} {c d : Cmd} (h : trkFinish s c = .ok (t, d)) :
    ∃ e, writeReport s c (trkReports c) (c.fld 48 8) (trkReportBytes s c) = .ok (t, e) ∧ d = { e with status := .ok } := by
  unfold trkFinish at h
  cases reported : writeReport s c (trkReports c) (c.fld 48 8) (trkReportBytes s c) with
  | error st => rw [reported] at h; cases h
  | ok r => rw [reported] at h; cases h; exact ⟨r.2, rfl, rfl⟩

theorem trkFinish_status {s t : State} {c d : Cmd} (h : trkFinish s c = .ok (t, d)) : d.status = .ok := by
  obtain ⟨e, -, rfl⟩ := trkFinish_eq_ok h
  rfl

theorem trkFinish_wrote_self {s t : State} {c d : Cmd} (h : trkFinish s c = .ok (t, d)) : Wrote s c t d :=
  WroteR.of (trkFinish_wrote s c (Wrote.refl s c)) h

theorem trkFinish_tracks {s t : State} {c d : Cmd} (h : trkFinish s c = .ok (t, d)) : t.tracks = s.tracks :=
  (trkFinish_wrote_self h).frame.same.tracks

section
variable {i : Instr} {code : Nat} {s : State} {q n : Nat} {c : Cmd} (row : exec i s = .next (runRow trackOp (Cmd.isSub 0x110 code) q n s))
  (runnable : s.runnable q n (Cmd.isSub 0x110 code) = some c) (todo : c.done = []) (free : c.withheld = [])
include row runnable todo free

/-- The row of OPEN, CLOSE, STATUS and CLEAN is its one unit, its report and OK. -/
theorem exec_track {t u : State} {d e : Cmd} (unit : trkUnit s c 0 = .ok (t, d)) (same : d.done = c.done ∧ d.withheld = c.withheld)
    (finish : trkFinish t { d with done := [0], units := d.units + 1 } = .ok (u, e)) :
    exec i s = .next (u.putCmd { e with phase := .ended }) ∧ e.status = .ok := by
  have outcome := Op.outcome_of_unit (op := trackOp) rfl rfl todo rfl rfl unit (same.1.trans todo) (same.2.trans free)
  change _ = (trkFinish t { d with done := [0], units := d.units + 1 }).toOption at outcome
  rw [finish] at outcome
  exact ⟨by rw [row, runRow_of_outcome runnable outcome], trkFinish_status finish⟩

/-- When the unit only writes, so does the row. -/
theorem exec_track_writes {t u : State} {d e : Cmd} (unit : trkUnit s c 0 = .ok (t, d)) (same : d.done = c.done ∧ d.withheld = c.withheld)
    (wrote : Wrote s c t d) (finish : trkFinish t { d with done := [0], units := d.units + 1 } = .ok (u, e)) :
    exec i s = .next (u.putCmd { e with phase := .ended }) ∧ e.status = .ok ∧ WritesOnly s u e :=
  have ⟨ran, ok⟩ := exec_track row runnable todo free unit same finish
  have noted : Wrote s c t { d with done := [0], units := d.units + 1 } := wrote.cmd rfl rfl
  ⟨ran, ok, (noted.trans (trkFinish_wrote_self finish)).writesOnly⟩

end

/-! ### The unit of each OP (R262) -/

theorem trkUnit_open {s t : State} {c d : Cmd} (k : Nat) (op : c.fld 0 1 = 1)
    (stored : commitWrites s c ⟨[((trkNew c).bitmap, trkBits c)], 0⟩ = .ok (t, d)) :
    trkUnit s c k = .ok (t.putTrack (c.fld 2 2) (trkNew c), d) := by
  simp only [trkUnit, trkOp, trkNo, op, stored]
  rfl

theorem trkUnit_close {s : State} {c : Cmd} (k : Nat) (op : c.fld 0 1 = 3) :
    trkUnit s c k = .ok (s.putTrack (c.fld 2 2) {}, { c with committed := true, wroteLocal := true }) := by
  simp only [trkUnit, trkOp, trkNo, op]

theorem trkUnit_status {s : State} {c : Cmd} (k : Nat) (op : c.fld 0 1 = 4) : trkUnit s c k = .ok (s, c) := by
  simp only [trkUnit, trkOp, op]

theorem trkUnit_clean {s : State} {c : Cmd} (k : Nat) (op : c.fld 0 1 = 5) : trkUnit s c k =
    commitWrites s c ⟨[((s.track (c.fld 2 2)).bitmap, natBytes (s.track (c.fld 2 2)).bitmapLen 0)], 0⟩ := by
  simp only [trkUnit, trkOp, trkNo, op]

theorem Cmd.SameWork.done {c d : Cmd} (h : c.SameWork d) : d.done = c.done ∧ d.withheld = c.withheld := by
  rw [h]
  exact ⟨rfl, rfl⟩

/-- The row of WRITEBACK that nothing stops ends OK. -/
theorem writebackOp_status {s t : State} {c d : Cmd} (h : writebackOp.outcome s c = some (t, d)) : d.status = .ok := by
  obtain ⟨u, v, e, -, -, finish⟩ := Op.outcome_eq_some h
  exact trkFinish_status finish

theorem heldNoted_of_free {c : Cmd} (free : c.withheld = []) : c.heldNoted = true := by
  rw [Cmd.heldNoted, free]
  rfl

end Sys2Proof.Machine

/-- Settles O28: OPEN, CLOSE, STATUS and CLEAN are their one unit, a report and OK (`exec_track`); WRITEBACK is the run to its end, whose units write
only what the command records, and bits of the range's bitmap (`writebackOp_wrote`). -/
theorem trackedRanges : Obligations.TrackedRanges := by
  unfold Obligations.TrackedRanges
  refine ⟨?opens, ?closes, ?reports, ?cleans, ?writesBack⟩
  case opens =>
    rintro s t u q n c d e x runnable todo free rfl stored finish
    have unit := trkUnit_open 0 (fld_op_of_runnable runnable) stored
    have ⟨ran, ok⟩ := exec_track (i := .trackOpen q n) rfl runnable todo free unit (commitWrites_sameWork stored).done finish
    refine ⟨ran, ok, State.track_putTrack _ _ _, ?_⟩
    rw [trkFinish_tracks finish, ← (commitWrites_sameElse stored).tracks]
    rfl
  case closes =>
    intro s u q n c e runnable todo free finish
    have unit := trkUnit_close (s := s) 0 (fld_op_of_runnable runnable)
    have ⟨ran, ok⟩ := exec_track (i := .trackClose q n) rfl runnable todo free unit ⟨rfl, rfl⟩ finish
    exact ⟨ran, ok, trkFinish_tracks finish⟩
  case reports =>
    intro s u q n c e runnable todo free finish
    exact exec_track_writes (i := .trackStatus q n) rfl runnable todo free (trkUnit_status 0 (fld_op_of_runnable runnable)) ⟨rfl, rfl⟩ (Wrote.refl s c) finish
  case cleans =>
    intro s t u q n c d e runnable todo free stored finish
    exact exec_track_writes (i := .trackClean q n) rfl runnable todo free ((trkUnit_clean 0 (fld_op_of_runnable runnable)).trans stored)
      (commitWrites_sameWork stored).done (commitWrites_wrote stored) finish
  case writesBack =>
    intro s t q n c d runnable free isOpen outcome
    have row : exec (.trackWriteback q n) s = .next (t.putCmd { d with phase := .ended }) := by
      change Host.Outcome.next (runRow writebackOp (Cmd.isSub 0x110 2) q n s) = _
      rw [runRow_of_outcome runnable outcome]
    exact ⟨row, writebackOp_status outcome, (writebackOp_wrote isOpen (heldNoted_of_free free) outcome).writesOnly⟩

end

section
/-! PROOFS. COPY_INLINE (R236, R239, R243, R246, R320): a GRANULE code that the manual does not define lets a parity line's eviction reach the byte
that COPY_INLINE has just stored. -/

open Sys2Proof Sys2Proof.Machine

namespace Sys2Proof.Machine

/-! ### One cell, two names

A tower's offset lies below 2^36, so that `towerKey` keeps the cells of two towers apart. `State.placeOf` gives such an offset for the GRANULE codes 0
to 9 of R243; a canonical memory may list any code. Below, the last segment has code 25, a granule of 64 GiB: the last granule of Umber then lies in
tower 15 at an offset beyond 2^36, in a cell whose key is also that of a parity byte of T16. The parity buffer is full, and its oldest line holds a
delta of that byte; the delta of the stored byte evicts the line, and the eviction changes the byte. -/

/-- The last granule of Umber. -/
def lastGranule : Nat := umberBase + 2 ^ 40 - 64

/-- A COPY_INLINE of one zero byte to the last granule of Umber. -/
def inlineCmd : Cmd :=
  { q := 3, n := 1, desc := natBytes 2 0x102 ++ natBytes 6 0 ++ natBytes 8 lastGranule ++ natBytes 32 0 ++ natBytes 1 1 ++ natBytes 15 0,
    phase := .started }

/-- A full parity buffer, whose oldest line holds the delta of the byte of T16 whose cell is the last granule's first. -/
def fullBuffer : List ParityLine := ⟨2 ^ 24 - 2 ^ 14 - 1, 0, [(4032, 1)]⟩ :: List.replicate 4095 ⟨0, 0, []⟩

/-- The module runs with the command, a granule code of 25 in Umber's last segment, and a full parity buffer. -/
def inlineState : State :=
  { boot := { stage := .run }, jnl := { state := .live }, mem := { granule := [(1023, 25)], parity := fullBuffer }, cmds := [inlineCmd] }

theorem inlineState_copies : ∃ w : State, exec (.copyInline 3 1) inlineState = .next w ∧ w.rawBytes lastGranule 1 = [1] :=
  ⟨_, rfl, by decide +kernel⟩

end Sys2Proof.Machine

/-- Refutes O27: its clause on Umber says that the destination then reads as the inline bytes, but in `inlineState`, where a segment has a GRANULE code
that R243 does not define, the write's own parity delta evicts a line that changes the byte just stored. -/
theorem not_copyInlineWrites : ¬ Obligations.CopyInlineWrites := by
  unfold Obligations.CopyInlineWrites
  intro copies
  obtain ⟨stores, -⟩ := copies inlineState 3 1 lastGranule 1 inlineCmd (by decide +kernel) rfl rfl (by decide +kernel) (by decide +kernel) (by decide)
    (by decide) (by decide) (by decide)
  obtain ⟨t, d, ran, -, -, -, -, -, reads⟩ := stores (by decide +kernel)
  obtain ⟨w, ran', changed⟩ := inlineState_copies
  obtain rfl : t.putCmd d = w := Host.Outcome.next.inj (ran.symm.trans ran')
  have read : t.rawBytes lastGranule 1 = [0] := reads (by decide) (.inr (.inr ⟨by decide, by decide, rfl⟩))
  exact absurd (changed.symm.trans read) (by decide)

end

section
/-! PROOFS. Slate requests (R234, R260, R334, R350): what goes out, what an answer stores, and the end of a command whose request fails. -/

open Sys2Proof Sys2Proof.Machine

namespace Sys2Proof.Machine

/-! ### The ledger: the controller and the commands, but for their claims

A command that is stopped may give back a stack claim that others hold; nothing else of the other commands, and nothing of the controller, changes. -/

/-- The command without its claim. -/
def Cmd.unclaimed (c : Cmd) : Cmd := { c with claim := none }

/-- The controller's registers and the accepted commands without their claims. -/
def State.ledger (s : State) : Perast × List Cmd := (s.per, s.cmds.map Cmd.unclaimed)

/-- Queue and sequence number. -/
def Cmd.key (c : Cmd) : Nat × Nat := (c.q, c.n)

theorem SameElse.ledger {s t : State} (h : SameElse s t) : t.ledger = s.ledger := by
  unfold SameElse at h
  rw [h]
  rfl

theorem SameElse.cmds {s t : State} (h : SameElse s t) : t.cmds = s.cmds := by rw [h]

theorem Cmd.SameWork.key {c d : Cmd} (h : c.SameWork d) : d.key = c.key := by
  rw [h]
  rfl

theorem dropClaim_ledger (s : State) (k : StackClaim) : (s.dropClaim k).ledger = s.ledger := by
  have same : Cmd.unclaimed ∘ (fun d : Cmd => if d.claim = some k then { d with claim := none } else d) = Cmd.unclaimed := by
    funext d
    dsimp only [Function.comp]
    split <;> rfl
  unfold State.ledger State.dropClaim
  dsimp only
  rw [List.map_map, same]

theorem stackDone_ledger (s : State) (c : Cmd) (ok : Bool) : (stackDone s c ok).ledger = s.ledger := by
  unfold stackDone
  split
  · rfl
  · next k _ =>
    refine Eq.trans ?_ (dropClaim_ledger s k)
    dsimp only
    split
    · rfl
    · split
      · exact (storeBytes_sameElse _ _ _).ledger
      · split
        · exact ((putHead_sameElse _ _).trans (dropReleased_sameElse _ _)).ledger
        · rfl

theorem dropRun_ledger (s : State) (t : Thread) (st : Status) : (dropRun s t st).ledger = s.ledger := by
  unfold dropRun
  split
  · rfl
  · next x e =>
    obtain ⟨d, -, quits⟩ := Option.bind_eq_some_iff.mp e
    obtain ⟨r, known, rfl⟩ := Option.map_eq_some_iff.mp quits
    exact (stackDone_ledger _ _ _).trans (Op.quit_sameElse (runReg_leaves known) _ _ _).ledger

theorem serveFetches_ledger (s : State) : s.serveFetches.ledger = s.ledger := (serveFetches_bare s).sameElse.ledger

/-! ### What an operation leaves behind -/

/-- The ledger stays, and the command keeps its name. -/
def SteadyLeave (leave : State → Cmd → Status → State × Cmd) : Prop :=
  ∀ s c st, (leave s c st).1.ledger = s.ledger ∧ (leave s c st).2.key = c.key

theorem leaveNothing_steady : SteadyLeave (fun s c _ => (s, c)) := fun _ _ _ => ⟨rfl, rfl⟩

theorem leaveReport_steady (on : Cmd → Bool) (addr : Cmd → Nat) (bs : State → Cmd → Bytes) : SteadyLeave (leaveReport on addr bs) := by
  refine fun s c st => ⟨(leaveReport_sameElse on addr bs s c st).ledger, ?_⟩
  unfold leaveReport
  split
  · split
    · next r e => exact (writeReport_sameWork (t := r.1) (d := r.2) e).key
    · rfl
  · rfl

theorem matLeave_steady : SteadyLeave matLeave := by
  refine fun s c st => ⟨(matLeave_sameElse s c st).ledger, ?_⟩
  unfold matLeave
  split
  · rfl
  · split
    · split
      · next r e => exact (writeMatReport_sameWork (t := r.1) (d := r.2) e).key
      · rfl
    · rfl

theorem appLeave_steady : SteadyLeave appLeave := by
  refine fun s c st => ⟨(appLeave_sameElse s c st).ledger, ?_⟩
  unfold appLeave
  split
  · rfl
  · exact (leaveReport_steady _ _ _ _ _ _).2

theorem truncLeave_steady : SteadyLeave truncLeave := by
  refine fun s c st => ⟨(truncLeave_sameElse s c st).ledger, ?_⟩
  unfold truncLeave
  split
  · rfl
  · split <;> rfl

theorem upLeave_steady : SteadyLeave upLeave := by
  have early : SteadyLeave upEarly := leaveReport_steady _ _ _
  intro s c st
  unfold upLeave
  split
  · exact early s c st
  · split
    · exact early s c st
    · obtain ⟨ledger, key⟩ := early _ c st
      exact ⟨ledger.trans ((serveFetches_ledger _).trans (storeBytes_sameElse _ _ _).ledger), key⟩

theorem shLeave_steady : SteadyLeave shLeave := leaveReport_steady _ _ _

theorem wpLeave_steady : SteadyLeave wpLeave := by
  intro s c st
  obtain ⟨ledger, key⟩ := leaveReport_steady _ _ _ _ c st
  refine ⟨ledger.trans ?_, key⟩
  split <;> split <;> rfl

theorem clLeave_steady (silent : Nat) (s : State) (c : Cmd) : (clLeave silent s c).1.ledger = s.ledger ∧ (clLeave silent s c).2.key = c.key := by
  unfold clLeave
  split
  · exact ⟨rfl, rfl⟩
  · next r e =>
    have written : SameElse s r.1 := (WroteR.of (t := r.1) (d := r.2) (writeReport_wroteR (Wrote.refl s c)) e).frame.same
    refine ⟨?_, (writeReport_sameWork (t := r.1) (d := r.2) e).key⟩
    dsimp only
    split
    · exact (written.trans (openRange_sameElse _ _ _)).ledger
    · exact written.ledger

theorem collLeave_steady : SteadyLeave (fun s c st => if st.ends && c.phase == .started then clLeave 0xFFFF s c else (s, c)) := by
  intro s c st
  dsimp only
  split
  · exact clLeave_steady _ s c
  · exact ⟨rfl, rfl⟩

/-! ### A STREAM that is stopped -/

theorem movesPieces_ledger (bytes : Nat) (es : List Nat) (x : State × Cmd) :
    (es.foldl (fun (x : State × Cmd) e => x.1.movePieces x.2 bytes e) x).1.ledger = x.1.ledger ∧
    (es.foldl (fun (x : State × Cmd) e => x.1.movePieces x.2 bytes e) x).2.key = x.2.key := by
  have counted (s : State) (c : Cmd) (e : Nat) : SameElse s (s.movePieces c bytes e).1 := SameElse.foldl (fun _ _ => rfl) (SameElse.refl s)
  induction es generalizing x with
  | nil => exact ⟨rfl, rfl⟩
  | cons e es ih => exact ⟨(ih _).1.trans (counted _ _ _).ledger, (ih _).2⟩

theorem retireMove_steady (s : State) (c : Cmd) (t : Thread) (es : List Nat) :
    (retireMove s c t es).1.ledger = s.ledger ∧ (retireMove s c t es).2.1.key = c.key := by
  unfold retireMove
  split
  · exact ⟨rfl, rfl⟩
  · split
    · next r e =>
      obtain ⟨ledger, key⟩ := movesPieces_ledger _ es r
      exact ⟨ledger.trans (commitWrites_sameElse e).ledger, key.trans (commitWrites_sameWork (t := r.1) (d := r.2) e).key⟩
    · exact ⟨(noteStop_sameElse _ _ _).ledger, rfl⟩

theorem retireAll_steady (k : Nat) (s : State) (c : Cmd) (t : Thread) :
    (retireAll k s c t).1.ledger = s.ledger ∧ (retireAll k s c t).2.1.key = c.key := by
  induction k generalizing s c t with
  | zero => exact ⟨rfl, rfl⟩
  | succ k ih =>
    obtain ⟨ledger, key⟩ := retireMove_steady s c t (s.turnOf c ((t.moves.head?.map (·.dirs)).getD []))
    exact ⟨(ih _ _ _).1.trans ledger, (ih _ _ _).2.trans key⟩

theorem streamLeave_steady : SteadyLeave streamLeave := by
  intro s c st
  unfold streamLeave
  split
  · exact leaveReport_steady _ _ _ _ _ _
  · next t _ =>
    obtain ⟨moved, key⟩ := retireAll_steady t.moves.length s c t
    obtain ⟨reported, key'⟩ := leaveReport_steady (fun _ => true) stReport (fun _ _ => (retireAll t.moves.length s c t).2.2.report)
      (dropRun (retireAll t.moves.length s c t).1 (retireAll t.moves.length s c t).2.2 st) (retireAll t.moves.length s c t).2.1 st
    exact ⟨reported.trans ((dropRun_ledger _ _ _).trans moved), key'.trans key⟩

/-! ### Every opcode -/

/-- A tier error is recorded in Perast's page (R260), and what the operation leaves behind keeps the ledger. -/
def Op.Steady (op : Op) : Prop := (∀ s c a, op.blame s c (.met .tier a) = s.record pgPerast .contained a) ∧ SteadyLeave op.leave

theorem moveReg_steady {code : Nat} {c : Cmd} {r : Reg} (e : moveReg code c = some r) : r.op.Steady := by
  unfold moveReg at e
  split at e
  · cases e; exact ⟨fun _ _ _ => rfl, leaveReport_steady _ _ _⟩
  · split at e
    · cases e; exact ⟨fun _ _ _ => rfl, leaveNothing_steady⟩
    · split at e <;> cases e
      dsimp only
      split <;> exact ⟨fun _ _ _ => rfl, leaveReport_steady _ _ _⟩

theorem matrixReg_steady {code : Nat} {r : Reg} (e : matrixReg code = some r) : r.op.Steady := by
  unfold matrixReg at e
  split at e
  · cases e; exact ⟨fun _ _ _ => rfl, matLeave_steady⟩
  · split at e <;> cases e
    exact ⟨fun _ _ _ => rfl, matLeave_steady⟩

theorem vectorReg_steady {code : Nat} {r : Reg} (e : vectorReg code = some r) : r.op.Steady := by
  unfold vectorReg at e
  split at e <;> cases e
  exact ⟨fun _ _ _ => rfl, leaveReport_steady _ _ _⟩

theorem attentionReg_steady {ring : List (List Bytes)} {code : Nat} {r : Reg} (e : attentionReg ring code = some r) : r.op.Steady := by
  unfold attentionReg at e
  split at e <;> cases e
  · exact ⟨fun _ _ _ => rfl, leaveReport_steady _ _ _⟩
  · exact ⟨fun _ _ _ => rfl, leaveReport_steady _ _ _⟩
  · exact ⟨fun _ _ _ => rfl, appLeave_steady⟩
  · exact ⟨fun _ _ _ => rfl, leaveNothing_steady⟩
  · exact ⟨fun _ _ _ => rfl, truncLeave_steady⟩
  · exact ⟨fun _ _ _ => rfl, leaveNothing_steady⟩

theorem runReg_steady {ring : List (List Bytes)} {code : Nat} {c : Cmd} {r : Reg} (e : runReg ring code c = some r) : r.op.Steady := by
  unfold runReg at e
  rcases Option.or_eq_some_iff.mp e with h | ⟨-, h⟩
  · rcases Option.or_eq_some_iff.mp h with h | ⟨-, h⟩
    · exact moveReg_steady h
    · exact matrixReg_steady h
  · rcases Option.or_eq_some_iff.mp h with h | ⟨-, h⟩
    · exact vectorReg_steady h
    · exact attentionReg_steady h

theorem trainReg_steady {code : Nat} {c : Cmd} {r : Reg} (e : trainReg code c = some r) : r.op.Steady := by
  unfold trainReg at e
  split at e <;> cases e
  · exact ⟨fun _ _ _ => rfl, leaveNothing_steady⟩
  · exact ⟨fun _ _ _ => rfl, leaveNothing_steady⟩
  · exact ⟨fun _ _ _ => rfl, leaveNothing_steady⟩
  · exact ⟨fun _ _ _ => rfl, leaveNothing_steady⟩
  · exact ⟨fun _ _ _ => rfl, leaveReport_steady _ _ _⟩
  · exact ⟨fun _ _ _ => rfl, upLeave_steady⟩
  · dsimp only [shardOp]
    split
    · exact ⟨fun _ _ _ => rfl, shLeave_steady⟩
    · exact ⟨fun _ _ _ => rfl, shLeave_steady⟩
    · exact ⟨fun _ _ _ => rfl, shLeave_steady⟩
    · exact ⟨fun _ _ _ => rfl, shLeave_steady⟩
    · exact ⟨fun _ _ _ => rfl, leaveNothing_steady⟩

theorem compressReg_steady {code : Nat} {r : Reg} (e : compressReg code = some r) : r.op.Steady := by
  unfold compressReg at e
  split at e <;> cases e
  · exact ⟨fun _ _ _ => rfl, leaveNothing_steady⟩
  · exact ⟨fun _ _ _ => rfl, leaveReport_steady _ _ _⟩
  · exact ⟨fun _ _ _ => rfl, leaveReport_steady _ _ _⟩

theorem collReg_steady {code : Nat} {r : Reg} (e : collReg code = some r) : r.op.Steady := by
  unfold collReg at e
  split at e
  · cases e; exact ⟨fun _ _ _ => rfl, collLeave_steady⟩
  · split at e
    · cases e; exact ⟨fun _ _ _ => rfl, leaveNothing_steady⟩
    · split at e <;> cases e
      exact ⟨fun _ _ _ => rfl, leaveNothing_steady⟩

theorem streamReg_steady {code : Nat} {r : Reg} (e : streamReg code = some r) : r.op.Steady := by
  unfold streamReg at e
  split at e
  · cases e; exact ⟨fun _ _ _ => rfl, streamLeave_steady⟩
  · split at e <;> cases e
    exact ⟨fun _ _ _ => rfl, leaveNothing_steady⟩

theorem syncReg_steady {code : Nat} {r : Reg} (e : syncReg code = some r) : r.op.Steady := by
  unfold syncReg at e
  split at e <;> cases e
  · exact ⟨fun _ _ _ => rfl, leaveNothing_steady⟩
  · exact ⟨fun _ _ _ => rfl, leaveNothing_steady⟩
  · exact ⟨fun _ _ _ => rfl, leaveNothing_steady⟩
  · exact ⟨fun _ _ _ => rfl, wpLeave_steady⟩
  · exact ⟨fun _ _ _ => rfl, leaveNothing_steady⟩

theorem regOf_steady {c : Cmd} {r : Reg} (e : regOf c = some r) : r.op.Steady := by
  unfold regOf at e
  rcases Option.or_eq_some_iff.mp e with h | ⟨-, h⟩
  · rcases Option.or_eq_some_iff.mp h with h | ⟨-, h⟩
    · exact runReg_steady h
    · exact trainReg_steady h
  · rcases Option.or_eq_some_iff.mp h with h | ⟨-, h⟩
    · exact compressReg_steady h
    · rcases Option.or_eq_some_iff.mp h with h | ⟨-, h⟩
      · exact collReg_steady h
      · rcases Option.or_eq_some_iff.mp h with h | ⟨-, h⟩
        · exact streamReg_steady h
        · exact syncReg_steady h

/-! ### Accepted commands -/

theorem State.cmd?_putCmd (s : State) (d : Cmd) (q n : Nat) :
    (s.putCmd d).cmd? q n = (s.cmd? q n).map (fun c => if c.q = d.q ∧ c.n = d.n then d else c) := by
  have named : (fun c : Cmd => c.q == q && c.n == n) ∘ (fun c => if c.q = d.q ∧ c.n = d.n then d else c) = fun c => c.q == q && c.n == n := by
    funext c
    dsimp only [Function.comp]
    split
    · next same => rw [same.1, same.2]
    · rfl
  unfold State.cmd? State.putCmd
  rw [List.find?_map, named]

theorem State.key_of_cmd? {s : State} {q n : Nat} {c : Cmd} (h : s.cmd? q n = some c) : c.key = (q, n) := by
  have named := List.find?_some h
  simp only [Bool.and_eq_true, beq_iff_eq] at named
  exact Prod.ext named.1 named.2

theorem State.cmd?_ledger (s : State) (q n : Nat) : (s.cmd? q n).map Cmd.unclaimed = s.ledger.2.find? (fun c => c.q == q && c.n == n) := by
  unfold State.ledger
  rw [List.find?_map]
  rfl

/-- With the same ledger, a command is still there, but for its claim. -/
theorem State.cmd?_of_ledger {s t : State} {q n : Nat} {c : Cmd} (same : t.ledger = s.ledger) (h : s.cmd? q n = some c) :
    ∃ d, t.cmd? q n = some d ∧ d.unclaimed = c.unclaimed := by
  have kept : (t.cmd? q n).map Cmd.unclaimed = some c.unclaimed := by rw [t.cmd?_ledger, same, ← s.cmd?_ledger, h]; rfl
  exact Option.map_eq_some_iff.mp kept

/-! ### A command that is stopped -/

/-- A started command of a defined opcode has the name. -/
def State.Works (s : State) (q n : Nat) : Prop := ∃ c, s.cmd? q n = some c ∧ c.phase = .started ∧ (regOf c).isSome = true

/-- A command of the name has ended TIER_ERROR. -/
def State.Failed (s : State) (q n : Nat) : Prop := ∃ c, s.cmd? q n = some c ∧ c.phase = .ended ∧ c.status = .tierError

theorem regOf_unclaimed (c : Cmd) : regOf c.unclaimed = regOf c := rfl

theorem State.Works.of_ledger {s t : State} {q n : Nat} (h : s.Works q n) (same : t.ledger = s.ledger) : t.Works q n := by
  obtain ⟨c, listed, started, known⟩ := h
  obtain ⟨d, listed', e⟩ := State.cmd?_of_ledger same listed
  refine ⟨d, listed', (congrArg Cmd.phase e).trans started, ?_⟩
  rw [← known, ← regOf_unclaimed c, ← e, regOf_unclaimed]

theorem State.Failed.of_ledger {s t : State} {q n : Nat} (h : s.Failed q n) (same : t.ledger = s.ledger) : t.Failed q n := by
  obtain ⟨c, listed, ended, status⟩ := h
  obtain ⟨d, listed', e⟩ := State.cmd?_of_ledger same listed
  exact ⟨d, listed', (congrArg Cmd.phase e).trans ended, (congrArg Cmd.status e).trans status⟩

theorem State.Failed.exists_mem {s : State} {q n : Nat} (h : s.Failed q n) :
    ∃ d ∈ s.cmds, d.q = q ∧ d.n = n ∧ d.phase = .ended ∧ d.status = .tierError := by
  obtain ⟨c, listed, ended, status⟩ := h
  have key := State.key_of_cmd? listed
  exact ⟨c, List.mem_of_find?_eq_some listed, congrArg Prod.fst key, congrArg Prod.snd key, ended, status⟩

/-- An operation that a tier error stops keeps the ledger; its command has ended TIER_ERROR. -/
theorem Op.Steady.stop {op : Op} (h : op.Steady) (s : State) (c : Cmd) (a : Nat) :
    (op.stop s c (.met .tier a)).1.ledger = s.ledger ∧ (op.stop s c (.met .tier a)).2.key = c.key ∧
    (op.stop s c (.met .tier a)).2.phase = .ended ∧ (op.stop s c (.met .tier a)).2.status = .tierError := by
  have released (u : State) : SameElse u ((releaseWithheld u c).toOption.getD u) := by
    unfold releaseWithheld
    split
    · exact SameElse.refl u
    · cases e : u.writeAll c.withheld with
      | error _ => exact SameElse.refl u
      | ok t => exact writeAll_sameElse e
  have recorded : SameElse s (op.blame s c (.met .tier a)) := by
    rw [h.1]
    exact record_sameElse _ _ _ _
  obtain ⟨ledger, key⟩ := h.2 ((releaseWithheld (op.blame s c (.met .tier a)) c).toOption.getD (op.blame s c (.met .tier a)))
    { c with withheld := [] } (.met .tier a)
  exact ⟨(endWith_sameElse _ _ _ _).ledger.trans (ledger.trans (recorded.trans (released _)).ledger), key, rfl, rfl⟩

/-- A started command of a defined opcode is replaced by what its operation's stop leaves; any other stays as it is. -/
theorem State.stopCmd_eq (s : State) (q n a : Nat) :
    (s.stopCmd q n (.met .tier a) = s ∧ ¬ s.Works q n) ∨
    ∃ (t : State) (d : Cmd), s.stopCmd q n (.met .tier a) = t.putCmd d ∧ t.ledger = s.ledger ∧ s.Works q n ∧ d.key = (q, n) ∧ d.phase = .ended ∧
      d.status = .tierError := by
  unfold State.stopCmd
  split
  · next none => exact .inl ⟨rfl, fun ⟨c, listed, _⟩ => by rw [none] at listed; cases listed⟩
  · next c listed =>
    split
    · next started =>
      split
      · next r known =>
        obtain ⟨ledger, key, ended, status⟩ := (regOf_steady known).stop s c a
        exact .inr ⟨_, _, rfl, ledger, ⟨c, listed, started, by rw [known]; rfl⟩, key.trans (State.key_of_cmd? listed), ended, status⟩
      · next unknown =>
        refine .inl ⟨rfl, fun ⟨d, listed', _, known⟩ => ?_⟩
        cases listed.symm.trans listed'
        rw [unknown] at known
        cases known
    · next waits =>
      refine .inl ⟨rfl, fun ⟨d, listed', started, _⟩ => waits ?_⟩
      cases listed.symm.trans listed'
      exact started

theorem State.stopCmd_per (s : State) (q n a : Nat) : (s.stopCmd q n (.met .tier a)).per = s.per := by
  obtain ⟨e, -⟩ | ⟨t, d, e, ledger, -⟩ := s.stopCmd_eq q n a
  · rw [e]
  · rw [e]
    exact congrArg Prod.fst ledger

theorem State.Works.stopCmd {s : State} {q n : Nat} (h : s.Works q n) (a : Nat) : (s.stopCmd q n (.met .tier a)).Failed q n := by
  obtain ⟨-, idle⟩ | ⟨t, d, e, ledger, -, key, ended, status⟩ := s.stopCmd_eq q n a
  · exact absurd h idle
  · obtain ⟨c, listed, -⟩ := h.of_ledger ledger
    refine ⟨d, ?_, ended, status⟩
    have same : c.key = d.key := (State.key_of_cmd? listed).trans key.symm
    rw [e, State.cmd?_putCmd, listed]
    exact congrArg some (if_pos ⟨congrArg Prod.fst same, congrArg Prod.snd same⟩)

/-- Stopping a command of another name leaves this one, but for its claim. -/
theorem State.stopCmd_other {s : State} {q n q' n' : Nat} (other : (q', n') ≠ (q, n)) (a : Nat) :
    ∃ t : State, t.ledger = s.ledger ∧ (s.stopCmd q' n' (.met .tier a)).cmd? q n = t.cmd? q n := by
  obtain ⟨e, -⟩ | ⟨t, d, e, ledger, -, key, -⟩ := s.stopCmd_eq q' n' a
  · exact ⟨s, rfl, by rw [e]⟩
  · refine ⟨t, ledger, ?_⟩
    rw [e, State.cmd?_putCmd]
    cases listed : t.cmd? q n with
    | none => rfl
    | some c =>
      refine congrArg some (if_neg fun same => other ?_)
      rw [← key, ← State.key_of_cmd? listed]
      exact Prod.ext same.1.symm same.2.symm

theorem State.Works.stopCmd_other {s : State} {q n q' n' : Nat} (h : s.Works q n) (other : (q', n') ≠ (q, n)) (a : Nat) :
    (s.stopCmd q' n' (.met .tier a)).Works q n := by
  obtain ⟨t, ledger, same⟩ := State.stopCmd_other (s := s) other a
  unfold State.Works
  rw [same]
  exact h.of_ledger ledger

theorem State.Failed.stopCmd {s : State} {q n : Nat} (h : s.Failed q n) (q' n' a : Nat) : (s.stopCmd q' n' (.met .tier a)).Failed q n := by
  by_cases other : (q', n') = (q, n)
  · cases other
    obtain ⟨e, -⟩ | ⟨-, -, -, -, works, -⟩ := s.stopCmd_eq q n a
    · rw [e]; exact h
    · obtain ⟨c, listed, ended, -⟩ := h
      obtain ⟨c', listed', started, -⟩ := works
      cases listed.symm.trans listed'
      cases ended.symm.trans started
  · obtain ⟨t, ledger, same⟩ := State.stopCmd_other (s := s) other a
    unfold State.Failed
    rw [same]
    exact h.of_ledger ledger

/-! ### A request that fails -/

theorem vacate_ledger (s : State) (q n : Nat) : (s.vacate q n).ledger = s.ledger := rfl

/-- The range of a failed write is undefined; no command changes by it. -/
theorem failRange_ledger (s : State) (r : SlateReq) : (if r.write then s.openRange r.addr r.length else s).ledger = s.ledger := by
  split
  · exact (openRange_sameElse _ _ _).ledger
  · rfl

theorem State.failSlate_per (s : State) (r : SlateReq) : (s.failSlate r).per = s.per :=
  (State.stopCmd_per _ _ _ _).trans (congrArg Prod.fst (failRange_ledger s r))

theorem State.Works.failSlate {s : State} {r : SlateReq} (h : s.Works r.q r.n) : (s.failSlate r).Failed r.q r.n :=
  ((h.of_ledger (failRange_ledger s r)).stopCmd _).of_ledger (vacate_ledger _ _ _)

theorem State.Works.failSlate_other {s : State} {q n : Nat} (h : s.Works q n) {r : SlateReq} (other : (r.q, r.n) ≠ (q, n)) :
    (s.failSlate r).Works q n :=
  ((h.of_ledger (failRange_ledger s r)).stopCmd_other other _).of_ledger (vacate_ledger _ _ _)

theorem State.Failed.failSlate {s : State} {q n : Nat} (h : s.Failed q n) (r : SlateReq) : (s.failSlate r).Failed q n :=
  ((h.of_ledger (failRange_ledger s r)).stopCmd _ _ _).of_ledger (vacate_ledger _ _ _)

/-- When requests fail, the controller stays as it is. -/
theorem failSlates_per (rs : List SlateReq) (s : State) : (rs.foldl (fun (u : State) r => u.failSlate r) s).per = s.per := by
  induction rs generalizing s with
  | nil => rfl
  | cons r rs ih => exact (ih _).trans (s.failSlate_per r)

theorem State.Failed.failSlates {q n : Nat} (rs : List SlateReq) {s : State} (h : s.Failed q n) :
    (rs.foldl (fun (u : State) r => u.failSlate r) s).Failed q n := by
  induction rs generalizing s with
  | nil => exact h
  | cons r rs ih => exact ih (h.failSlate r)

/-- When requests fail, a started command that has one among them fails. -/
theorem State.Works.failSlates {q n : Nat} {rs : List SlateReq} (mine : ∃ r ∈ rs, (r.q, r.n) = (q, n)) {s : State} (h : s.Works q n) :
    (rs.foldl (fun (u : State) r => u.failSlate r) s).Failed q n := by
  induction rs generalizing s with
  | nil => obtain ⟨r, listed, -⟩ := mine; cases listed
  | cons r rs ih =>
    by_cases same : (r.q, r.n) = (q, n)
    · cases same
      exact h.failSlate.failSlates rs
    · obtain ⟨r', listed, named⟩ := mine
      rcases List.mem_cons.mp listed with rfl | later
      · exact absurd named same
      · exact ih ⟨r', later, named⟩ (h.failSlate_other same)

/-- A request that is dropped and fails: it is gone, and its started command has ended TIER_ERROR. -/
theorem State.Works.dropFail {s : State} {r : SlateReq} (id : Nat) (works : s.Works r.q r.n) :
    ((s.dropRequest id).failSlate r).per.requests = s.per.requests.filter (fun r => r.id != id) ∧ ((s.dropRequest id).failSlate r).Failed r.q r.n := by
  have kept : (s.dropRequest id).Works r.q r.n := works
  exact ⟨congrArg Perast.requests ((s.dropRequest id).failSlate_per r), kept.failSlate⟩

/-! ### The rows -/

/-- With no fence read waiting, none returns. -/
theorem settleLinkFences_none {s : State} (h : s.per.linkFences = []) : s.settleLinkFences = s := by
  unfold State.settleLinkFences
  rw [h]
  change ({ s with per := { s.per with linkFences := [] } } : State) = s
  rw [← h]

theorem State.Failed.settleLinkFences {s : State} {q n : Nat} (h : s.Failed q n) : s.settleLinkFences.Failed q n := by
  unfold State.Failed State.cmd?
  rw [(settleLinkFences_fencesOnly s).workEnded.cmds]
  exact h

theorem exec_slateRequest {s : State} {q n a len : Nat} {w : Bool} {bs : Bytes} {c : Cmd} (listed : s.cmd? q n = some c) (alive : s.alive = true)
    (started : c.phase = .started) (noticed : w = true → c.noticed = true) (slate : s.tierOf a = some .slate)
    (mapped : s.mappedRange a (if w then bs.length else len) = true) (window : s.inWindow q a (if w then bs.length else len) = true)
    (up : s.per.linkUp = true) :
    exec (.slateRequest q n w a len bs) s = .next { (if w then s.putCmd { c with committed := true } else s) with
      per := { s.per with requests := s.per.requests ++ [{ id := s.per.nextRequest, q := q, n := n, write := w, addr := a,
                                                           length := (if w then bs.length else len), bytes := bs }],
                          nextRequest := s.per.nextRequest + 1 }
      outbox := s.outbox ++ [.slate s.per.nextRequest w (s.per.slatePa * 2 ^ 30 + (a - slateBase)) (if w then bs.length else len) bs] } := by
  change Host.Outcome.next (slateRequest q n w a (if w then bs.length else len) bs s) = _
  have accepted : (!s.alive || c.phase != .started || s.tierOf a != some .slate || (w && !c.noticed)) = false := by
    rw [alive, started, slate]
    cases w with
    | false => rfl
    | true => rw [noticed rfl]; rfl
  have stays : (if w then s.putCmd { c with committed := true } else s).per = s.per := by split <;> rfl
  unfold slateRequest
  rw [listed]
  dsimp only
  rw [accepted, mapped, window, stays, up]
  cases w <;> rfl

section
variable {s : State} {id : Nat} {r : SlateReq} (alive : s.alive = true) (found : s.per.requests.find? (fun r => r.id == id) = some r)
include alive found

theorem exec_slateResponse_data {bs : Bytes} (low : slateBase ≤ r.addr) (high : r.addr + r.length ≤ 2 ^ 48) (read : r.write = false)
    (fits : bs.length = r.length) (wf : s.mem.wf = true) (none : s.per.linkFences = []) :
    ∃ t : State, exec (.slateResponse id (.data bs)) s = .next t ∧ t.rawBytes r.addr r.length = bs ∧
      t.per = { s.per with requests := s.per.requests.filter (fun r => r.id != id) } ∧ t.cmds = s.cmds ∧ t.queues = s.queues := by
  have same : SameElse (s.dropRequest id) ((s.dropRequest id).pokeBytes r.addr bs) :=
    ((Frame.refl (P := fun _ => True) (s.dropRequest id)).pokeBytes r.addr bs (fun _ _ _ _ => trivial)).same
  have rests := same.rests
  have ran : slateResponse id (.data bs) s =
      { (s.dropRequest id).pokeBytes r.addr bs with mem := ((s.dropRequest id).pokeBytes r.addr bs).mem.closeBytes r.addr r.length } := by
    unfold slateResponse
    rw [alive, found]
    dsimp only
    rw [read, fits, bne_self_eq_false]
    exact settleLinkFences_none ((congrArg Perast.linkFences rests.per).trans none)
  refine ⟨_, congrArg Host.Outcome.next ran, ?_, rests.per, same.cmds, rests.queues⟩
  unfold State.rawBytes
  refine List.ext_getElem (by simp [fits]) (fun i _ inside => ?_)
  rw [List.getElem_map, List.getElem_range, State.rawByte_plain _ (.inr (by omega))]
  dsimp only
  rw [Mem.openAt_closed _ (by omega) (by omega), Mem.cell_closeBytes]
  exact State.cell_pokeBytes (s.dropRequest id) wf r.addr bs (.inr ⟨low, by omega⟩) i inside

theorem exec_slateResponse_written (low : slateBase ≤ r.addr) (high : r.addr + r.bytes.length ≤ 2 ^ 48) (write : r.write = true)
    (wf : s.mem.wf = true) (none : s.per.linkFences = []) :
    ∃ t : State, exec (.slateResponse id .written) s = .next t ∧ t.rawBytes r.addr r.bytes.length = r.bytes ∧
      t.per = { s.per with requests := s.per.requests.filter (fun r => r.id != id) } ∧ t.queues = s.queues := by
  have rests := (storeBytes_sameElse (s.dropRequest id) r.addr r.bytes).rests
  have reads := (s.dropRequest id).rawBytes_storeBytes wf r.addr r.bytes (.inr ⟨low, high⟩)
  have noted : ∃ cmds, noteReply ((s.dropRequest id).storeBytes r.addr r.bytes) r = { (s.dropRequest id).storeBytes r.addr r.bytes with cmds := cmds } := by
    unfold noteReply
    split
    · exact ⟨_, rfl⟩
    · exact ⟨_, rfl⟩
  obtain ⟨cmds, noted⟩ := noted
  have ran : slateResponse id .written s = { (s.dropRequest id).storeBytes r.addr r.bytes with cmds := cmds } := by
    unfold slateResponse
    rw [alive, found]
    dsimp only
    rw [write, if_pos rfl, noted]
    exact settleLinkFences_none ((congrArg Perast.linkFences rests.per).trans none)
  exact ⟨_, congrArg Host.Outcome.next ran, reads, rests.per, rests.queues⟩

theorem exec_slateTimeout (works : s.Works r.q r.n) :
    ∃ t : State, exec (.slateTimeout id) s = .next t ∧ t.per.requests = s.per.requests.filter (fun r => r.id != id) ∧
      ∃ d ∈ t.cmds, d.q = r.q ∧ d.n = r.n ∧ d.phase = .ended ∧ d.status = .tierError := by
  obtain ⟨gone, failed⟩ := works.dropFail id
  have counted : (((s.dropRequest id).failSlate r).count pgPerast 0x1408 1).Failed r.q r.n := failed
  have ran : slateTimeout id s = (((s.dropRequest id).failSlate r).count pgPerast 0x1408 1).settleLinkFences := by
    unfold slateTimeout
    rw [alive, found]
    rfl
  exact ⟨_, congrArg Host.Outcome.next ran, (settleLinkFences_fencesOnly _).workEnded.requests.trans gone, counted.settleLinkFences.exists_mem⟩

theorem exec_slateResponse_error (works : s.Works r.q r.n) :
    ∃ t : State, exec (.slateResponse id .error) s = .next t ∧ t.per.requests = s.per.requests.filter (fun r => r.id != id) ∧
      ∃ d ∈ t.cmds, d.q = r.q ∧ d.n = r.n ∧ d.phase = .ended ∧ d.status = .tierError := by
  obtain ⟨gone, failed⟩ := works.dropFail id
  have ran : slateResponse id .error s = ((s.dropRequest id).failSlate r).settleLinkFences := by
    unfold slateResponse
    rw [alive, found]
    rfl
  exact ⟨_, congrArg Host.Outcome.next ran, (settleLinkFences_fencesOnly _).workEnded.requests.trans gone, failed.settleLinkFences.exists_mem⟩

end

theorem exec_linkDown {s : State} (fed : s.fed = true) :
    ∃ t : State, exec .perastLinkDown s = .next t ∧ t.per.linkUp = false ∧ t.per.requests = [] ∧
      ∀ r ∈ s.per.requests, s.Works r.q r.n → ∃ d ∈ t.cmds, d.q = r.q ∧ d.n = r.n ∧ d.phase = .ended ∧ d.status = .tierError := by
  have per := failSlates_per s.per.requests { s with per := { s.per with linkUp := false, requests := [] } }
  have ran : linkDown s = (s.per.requests.foldl (fun (u : State) r => u.failSlate r)
      { s with per := { s.per with linkUp := false, requests := [] } }).settleLinkFences := by
    unfold linkDown
    rw [fed]
    rfl
  have settled := settleLinkFences_fencesOnly (s.per.requests.foldl (fun (u : State) r => u.failSlate r)
    { s with per := { s.per with linkUp := false, requests := [] } })
  refine ⟨_, congrArg Host.Outcome.next ran, ?_, ?_, ?_⟩
  · exact (congrArg (fun u : State => u.per.linkUp) settled).trans (congrArg Perast.linkUp per)
  · exact settled.workEnded.requests.trans (congrArg Perast.requests per)
  · intro r listed works
    have down : ({ s with per := { s.per with linkUp := false, requests := [] } } : State).Works r.q r.n := works
    exact (down.failSlates ⟨r, listed, rfl⟩).settleLinkFences.exists_mem

theorem exec_linkUp {s : State} (fed : s.fed = true) (paid : s.jnl.owed = []) :
    exec .perastLinkUp s = .next { s with per := { s.per with linkUp := true } } := by
  refine congrArg Host.Outcome.next ?_
  unfold linkUp State.payOwed
  rw [fed]
  dsimp only
  rw [paid]
  rfl

end Sys2Proof.Machine

/-- Settles O21: a request that fails keeps the ledger of the other commands, so that link down ends each started command that has one. -/
theorem slateRequests : Obligations.SlateRequests := by
  unfold Obligations.SlateRequests
  refine ⟨?_, ?_, ?_, ?_, ?_, ?_⟩
  · exact fun s q n a len w bs c listed alive started noticed slate mapped window up =>
      exec_slateRequest listed alive started noticed slate mapped window up
  · exact fun s id r bs alive found low high read fits wf none => exec_slateResponse_data alive found low high read fits wf none
  · exact fun s id r alive found low high write wf none => exec_slateResponse_written alive found low high write wf none
  · intro s id r c alive found listed started known
    have works : s.Works r.q r.n := ⟨c, listed, started, known⟩
    exact ⟨exec_slateTimeout alive found works, exec_slateResponse_error alive found works⟩
  · intro s fed
    obtain ⟨t, ran, down, gone, ends⟩ := exec_linkDown fed
    exact ⟨t, ran, down, gone, fun r c listed accepted started known => ends r listed ⟨c, accepted, started, known⟩⟩
  · exact fun s fed paid => exec_linkUp fed paid

end

section
/-! PROOFS. The compression rows (R271, R278, R284, R288, R289). -/

open Sys2Proof Sys2Proof.Machine

/-- Settles O38: each row is the run to the end (`exec_of_runs`), whose chunks and report write only what the command records (`buildOp_wrote`,
`encodeOp_wrote`). -/
theorem compressionRows : Obligations.CompressionRows := by
  unfold Obligations.CompressionRows
  intro s t q n d i op code named runs
  obtain ⟨rfl, rfl, rfl⟩ | ⟨rfl, rfl, rfl⟩ | ⟨rfl, rfl, rfl⟩ := named
  case inl => exact exec_of_runs rfl (fun _ held outcome => (buildOp_wrote held outcome).writesOnly) runs
  case inr.inl => exact exec_of_runs rfl (fun _ held outcome => (encodeOp_wrote held outcome).writesOnly) runs
  case inr.inr => exact exec_of_runs rfl (fun _ held outcome => (encodeOp_wrote held outcome).writesOnly) runs

end

section
/-! PROOFS. Page states (R293, R428, R458 to R461, R485, R486): DRAIN, ABORT, ENABLE, the end of a drain, admission and REGION_GATE. -/

open Sys2Proof Sys2Proof.Machine

namespace Sys2Proof.Machine

/-! ### Which page is which (R476 to R478) -/

theorem pageKind_region (r : Fin 8) : pageKind (pgRegion r) = .region r := by revert r; decide

theorem pageKind_tower (t : Fin 18) : pageKind (pgTower t) = .tower t := by revert t; decide

theorem pageKind_copy (e : Fin 16) : pageKind (pgCopy e) = .copy e := by revert e; decide

theorem pageKind_fabric : pageKind pgFabric = .fabric := by decide

/-- A page that exists stands for a part. -/
theorem pageKind_ne_none {p : Nat} (there : pageExists p = true) : pageKind p ≠ .none := by
  rw [pageKind, there, if_neg (by decide)]
  repeat' split
  all_goals exact PageKind.noConfusion

theorem pageState_region (s : State) (r : Fin 8) : s.pageState (pgRegion r) = (s.region r).state := by
  rw [State.pageState, pageKind_region]

theorem pageState_copy (s : State) (e : Fin 16) : s.pageState (pgCopy e) = (s.engine e).state := by
  rw [State.pageState, pageKind_copy]
  rfl

/-! ### A region without work (R459, R460) -/

/-- The work of a region's blocks is gone once it is dropped. -/
theorem dropWork_arrays (g : Region) : ∀ u ∈ g.dropWork.arrays, u.2.run = none := by
  intro u listed
  obtain ⟨_, _, rfl⟩ := List.mem_map.mp listed
  rfl

theorem dropWork_vectors (g : Region) : ∀ u ∈ g.dropWork.vectors, u.2.users = [] := by
  intro u listed
  obtain ⟨_, _, rfl⟩ := List.mem_map.mp listed
  rfl

theorem dropWork_walk (g : Region) : g.dropWork.walk = none := rfl

/-- A region whose work has moved holds no command. -/
theorem leaveRegion_cmds (s : State) (r : Nat) : ∀ c ∈ (s.leaveRegion r).cmds, r ∉ c.regions := by
  intro c listed
  obtain ⟨d, _, rfl⟩ := List.mem_map.mp listed
  split
  · simp
  · next held => simpa using held

theorem moveWork_cmds (s : State) (r : Nat) : ∀ c ∈ (s.moveWork r).cmds, r ∉ c.regions := leaveRegion_cmds _ r

/-! ### The rows of a page, once its registers answer -/

section
variable {s : State} (answers : s.answers = true)
include answers

theorem exec_pageDrain (p : Nat) : exec (.pageDrain p) s = .next (s.pageDrain p) := by
  change Host.Outcome.next (if s.answers then _ else _) = _
  rw [answers, if_pos rfl]

theorem exec_pageAbort (p : Nat) : exec (.pageAbort p) s = .next (s.pageAbort p) := by
  change Host.Outcome.next (if s.answers then _ else _) = _
  rw [answers, if_pos rfl]

theorem exec_pageEnable (p : Nat) : exec (.pageEnable p) s = .next (s.pageEnable p) := by
  change Host.Outcome.next (if s.answers then _ else _) = _
  rw [answers, if_pos rfl]

theorem exec_regionGateWrite (v : Word) : exec (.regionGateWrite v) s = .next (s.gateRegions v.toNat) := by
  change Host.Outcome.next (if s.answers then _ else _) = _
  rw [answers, if_pos rfl]

theorem exec_drainRegion (r : Fin 8) : exec (.pageDrain (pgRegion r)) s = .next (s.drainRegion r) := by
  rw [exec_pageDrain answers, State.pageDrain, pageKind_region]

theorem exec_abortRegion (r : Fin 8) : exec (.pageAbort (pgRegion r)) s = .next (s.abortRegion r) := by
  rw [exec_pageAbort answers, State.pageAbort, pageKind_region]

end

/-! ### DRAIN and ABORT (R293, R458 to R460, R486) -/

theorem drainRegion_spared {s : State} {r : Nat} (serves : (s.region r).state = .inService) (others : 5 ≤ s.regionsIn.length) :
    ((s.drainRegion r).region r).state = .draining ∧ ((s.drainRegion r).region r).aborting = false := by
  rw [State.drainRegion, State.spareRegion, if_neg (by simp [serves, others]), region_putRegion]
  exact ⟨rfl, rfl⟩

/-- An ABORT takes the work of every block, and every command's place. -/
theorem abortRegion_spared {s : State} {r : Nat} (serves : (s.region r).state = .inService) (others : 5 ≤ s.regionsIn.length) :
    ∃ (t : State) (g : Region), s.abortRegion r = (t.moveWork r).putRegion r { g.dropWork with state := .draining, aborting := true } :=
  ⟨_, _, if_neg (by simp [State.spareRegion, serves, others])⟩

theorem drainRegion_last {s : State} {r : Nat} (last : (s.region r).state ≠ .inService ∨ s.regionsIn.length < 5) :
    s.drainRegion r = s.badWrite (pgRegion r) 0x018 := by
  rw [State.drainRegion, State.spareRegion, if_pos (by simpa using last), State.badCtl]

theorem abortRegion_last {s : State} {r : Nat} (last : (s.region r).state ≠ .inService ∨ s.regionsIn.length < 5) :
    s.abortRegion r = s.badWrite (pgRegion r) 0x018 := by
  rw [State.abortRegion, State.spareRegion, if_pos (by simpa using last), State.badCtl]

theorem exec_abortRegion_spared {s : State} (answers : s.answers = true) (r : Fin 8) (serves : (s.region r).state = .inService)
    (others : 5 ≤ s.regionsIn.length) :
    ∃ t : State, exec (.pageAbort (pgRegion r)) s = .next t ∧ (t.region r).state = .draining ∧ (t.region r).aborting = true ∧
      (∀ c ∈ t.cmds, r.val ∉ c.regions) ∧ (t.region r).walk = none ∧ (t.region r).arrays.all (fun u => u.2.run.isNone) = true ∧
      (t.region r).vectors.all (fun u => u.2.users.isEmpty) = true := by
  obtain ⟨u, g, aborted⟩ := abortRegion_spared serves others
  refine ⟨_, (exec_abortRegion answers r).trans (congrArg Host.Outcome.next aborted), ?_⟩
  rw [region_putRegion]
  exact ⟨rfl, rfl, moveWork_cmds u r, dropWork_walk g, List.all_eq_true.mpr fun a h => Option.isNone_iff_eq_none.mpr (dropWork_arrays g a h),
    List.all_eq_true.mpr fun v h => List.isEmpty_iff.mpr (dropWork_vectors g v h)⟩

theorem exec_drainTower {s : State} (answers : s.answers = true) (t : Fin 18) (serves : s.pageState (pgTower t) = .inService) :
    exec (.pageDrain (pgTower t)) s = .next ((s.putTower t { s.tower t with unit := .draining, cmds := [] }).leaveTower t) := by
  rw [exec_pageDrain answers, State.pageDrain, pageKind_tower]
  dsimp only
  rw [State.drainTower, if_neg (Decidable.not_not.mpr serves)]

theorem exec_drainEngine {s : State} (answers : s.answers = true) (e : Fin 16) (serves : (s.engine e).state = .inService)
    (others : 2 ≤ s.enginesIn (e / 8)) : exec (.pageDrain (pgCopy e)) s = .next (s.putEngine e { state := .draining }) := by
  rw [exec_pageDrain answers, State.pageDrain, pageKind_copy]
  dsimp only
  rw [State.drainEngine, engineDir, if_neg (not_or.mpr ⟨Decidable.not_not.mpr serves, Nat.not_lt.mpr others⟩)]

theorem exec_drainFabric {s : State} (answers : s.answers = true) (serves : s.lnk.fabric = .inService) (single : s.twinned = false)
    (whole : s.twin.state ≠ .fillTarget) : exec (.pageDrain pgFabric) s = .next { s with lnk := { s.lnk with fabric := .draining } } := by
  rw [exec_pageDrain answers, State.pageDrain, pageKind_fabric]
  dsimp only
  rw [State.drainFabric, if_neg (by simp [serves, single, whole])]

/-! ### ENABLE (R458, R461, R486) -/

theorem exec_enableRegion {s : State} (answers : s.answers = true) (r : Fin 8) (drained : (s.region r).state = .drained) :
    exec (.pageEnable (pgRegion r)) s = .next (s.putRegion r { s.region r with state := .admitting }) := by
  rw [exec_pageEnable answers, State.pageEnable, pageState_region, pageKind_region, if_neg PageKind.noConfusion, if_neg (Decidable.not_not.mpr drained)]

theorem exec_enableTower {s : State} (answers : s.answers = true) (t : Fin 18) (drained : s.pageState (pgTower t) = .drained) :
    exec (.pageEnable (pgTower t)) s = .next (s.putTower t { s.tower t with unit := .admitting }) := by
  rw [exec_pageEnable answers, State.pageEnable, pageKind_tower, if_neg PageKind.noConfusion, if_neg (Decidable.not_not.mpr drained)]

theorem exec_enable_badWrite {s : State} (answers : s.answers = true) {p : Nat} (there : pageExists p = true) (other : s.pageState p ≠ .drained) :
    exec (.pageEnable p) s = .next (s.badWrite p 0x018) := by
  rw [exec_pageEnable answers, State.pageEnable, if_neg (pageKind_ne_none there), if_pos other, State.badCtl]

/-! ### The end of a drain and of an admission (R458, R461, R485) -/

section
variable {s : State} (fed : s.fed = true)
include fed

theorem exec_pageDrained (p : Nat) : exec (.pageDrained p) s = .next (pageDrainedRow p s) := by
  change Host.Outcome.next (if s.fed then _ else _) = _
  rw [fed, if_pos rfl]

theorem exec_pageAdmitDone (p : Nat) : exec (.pageAdmitDone p) s = .next (s.pageAdmitDone p) := by
  change Host.Outcome.next (if s.fed then _ else _) = _
  rw [fed, if_pos rfl]

/-- Outside a region reset, a draining region without work is DRAINED. -/
theorem exec_regionDrained (r : Fin 8) (draining : (s.region r).state = .draining) (steady : s.boot.running = none)
    (empty : s.regionEmpty r = true) :
    exec (.pageDrained (pgRegion r)) s = .next (s.putRegion r { s.region r with state := .drained, aborting := false }) := by
  rw [exec_pageDrained fed, pageDrainedRow, pageKind_region]
  dsimp only
  rw [resetting_none steady, Bool.false_and, Bool.false_and, if_neg (by decide), State.pageDrained, pageState_region, pageKind_region,
    if_neg (Decidable.not_not.mpr draining)]
  exact congrArg Host.Outcome.next (if_pos empty)

theorem exec_engineDrained (e : Fin 16) (draining : (s.engine e).state = .draining) (idle : (s.engine e).piece = none) :
    exec (.pageDrained (pgCopy e)) s = .next (s.putEngine e { s.engine e with state := .drained }) := by
  rw [exec_pageDrained fed, pageDrainedRow, pageKind_copy]
  dsimp only
  rw [State.pageDrained, pageState_copy, pageKind_copy, if_neg (Decidable.not_not.mpr draining)]
  exact congrArg Host.Outcome.next (if_pos (Option.isNone_iff_eq_none.mpr idle))

theorem exec_regionAdmitted (r : Fin 8) (admitting : (s.region r).state = .admitting) (fits : s.boot.fits 2 = true)
    (sound : (s.region r).sound = true) :
    exec (.pageAdmitDone (pgRegion r)) s =
      .next (s.putRegion r { s.region r with state := .inService, fw := imHeader (s.boot.image s.boot.preferred 2) }) := by
  rw [exec_pageAdmitDone fed, State.pageAdmitDone, pageState_region, pageKind_region, if_neg (Decidable.not_not.mpr admitting)]
  exact congrArg Host.Outcome.next (if_pos ⟨fits, sound⟩)

theorem exec_towerAdmitted (t : Fin 18) (admitting : s.pageState (pgTower t) = .admitting) (fits : s.boot.fits 3 = true) :
    exec (.pageAdmitDone (pgTower t)) s =
      .next (s.putTower t { s.tower t with unit := .inService, fw := imHeader (s.boot.image s.boot.preferred 3) }) := by
  rw [exec_pageAdmitDone fed, State.pageAdmitDone, pageKind_tower, if_neg (Decidable.not_not.mpr admitting)]
  exact congrArg Host.Outcome.next (if_pos fits)

theorem exec_engineAdmitted (e : Fin 16) (admitting : (s.engine e).state = .admitting) :
    exec (.pageAdmitDone (pgCopy e)) s = .next (s.putEngine e { s.engine e with state := .inService }) := by
  rw [exec_pageAdmitDone fed, State.pageAdmitDone, pageState_copy, pageKind_copy, if_neg (Decidable.not_not.mpr admitting)]

end

/-! ### REGION_GATE (R428, R458) -/

/-- Region `g` gated as the bit says. -/
def Region.gate (on : Bool) (g : Region) : Region := { g with gated := on, state := if on then .off else .drained }

/-- One region takes its bit of REGION_GATE. -/
def State.gateRegion (v : Nat) (s : State) (r : Nat) : State := (s.putRegion r ((s.region r).gate (v.testBit r))).poisonSlice r

/-- The regions whose bit REGION_GATE changes. -/
def State.gateChanges (s : State) (v : Nat) : List Nat := (List.range 8).filter (fun r => v.testBit r != (s.region r).gated)

theorem mem_gateChanges {s : State} {v r : Nat} : r ∈ s.gateChanges v ↔ r < 8 ∧ v.testBit r ≠ (s.region r).gated := by
  rw [State.gateChanges, List.mem_filter, List.mem_range, bne_iff_ne]

/-- A key that no entry has reads as the default. -/
theorem tabGet_unlisted {α : Type} {d : α} {t : Tab α} {k : Nat} (unlisted : ∀ e ∈ t, e.1 ≠ k) : tabGet d t k = d := by
  induction t with
  | nil => rfl
  | cons e t ih => exact (if_neg (unlisted e List.mem_cons_self).symm).trans (ih fun x listed => unlisted x (List.mem_cons_of_mem e listed))

/-- Poisoning a slice poisons its granules, and leaves those of the others. -/
theorem ivoryPoisoned_markSlice (m : Mem) (r g : Nat) :
    (m.markSlice r true).ivoryPoisoned g = if g / 2 ^ 22 = r then true else m.ivoryPoisoned g := by
  have granules : sliceSize / 64 = 2 ^ 22 := rfl
  unfold Mem.ivoryPoisoned Mem.markSlice
  dsimp only
  rw [tabGet_tabSet, granules]
  split
  · next inside =>
    have unlisted : ∀ e ∈ m.ivoryPoison.filter (fun e => e.1 / 2 ^ 22 != r), e.1 ≠ g := fun e listed here =>
      bne_iff_ne.mp (List.mem_filter.mp listed).2 (by rw [here, inside])
    rw [tabGet_unlisted unlisted]
    rfl
  · next outside => rw [tabGet_filter false m.ivoryPoison (fun k => k / 2 ^ 22 != r) (bne_iff_ne.mpr outside)]

theorem region_gateRegion (v : Nat) (s : State) (r j : Nat) :
    (s.gateRegion v r).region j = if j = r then (s.region r).gate (v.testBit r) else s.region j :=
  tabGet_tabSet r j _

theorem ivoryPoisoned_gateRegion (v : Nat) (s : State) (r g : Nat) :
    (s.gateRegion v r).mem.ivoryPoisoned g = if g / 2 ^ 22 = r then true else s.mem.ivoryPoisoned g :=
  ivoryPoisoned_markSlice s.mem r g

/-- From `s` to `t` the regions of `rs` have taken their bit of `v`, and nothing else has changed. -/
structure Gated (v : Nat) (rs : List Nat) (s t : State) : Prop where
  same   : t = { s with regions := t.regions, mem := t.mem }
  taken  : ∀ r ∈ rs, t.region r = (s.region r).gate (v.testBit r)
  kept   : ∀ r, r ∉ rs → t.region r = s.region r
  poison : ∀ r ∈ rs, ∀ i, i < 2 ^ 22 → t.mem.ivoryPoisoned (r * 2 ^ 22 + i) = true

theorem Gated.none (v : Nat) (s : State) : Gated v [] s s :=
  ⟨rfl, fun _ listed => absurd listed List.not_mem_nil, fun _ _ => rfl, fun _ listed => absurd listed List.not_mem_nil⟩

/-- A region that has taken its bit already would take it again. -/
theorem Gated.next {v : Nat} {rs : List Nat} {s t : State} (h : Gated v rs s t) (r : Nat) : Gated v (r :: rs) s (t.gateRegion v r) := by
  have bit : (t.region r).gate (v.testBit r) = (s.region r).gate (v.testBit r) := by
    by_cases before : r ∈ rs
    · rw [h.taken r before]; rfl
    · rw [h.kept r before]
  refine ⟨?_, fun j listed => ?_, fun j other => ?_, fun j listed i inside => ?_⟩
  · unfold State.gateRegion
    rw [h.same]
    rfl
  · rw [region_gateRegion]
    split
    · next here => rw [bit, here]
    · next other => exact h.taken j ((List.mem_cons.mp listed).resolve_left other)
  · rw [region_gateRegion, if_neg (List.ne_of_not_mem_cons other)]
    exact h.kept j (List.not_mem_of_not_mem_cons other)
  · rw [ivoryPoisoned_gateRegion]
    split
    · rfl
    · next other => exact h.poison j ((List.mem_cons.mp listed).resolve_left (by omega)) i inside

theorem Gated.foldl {v : Nat} {rs : List Nat} {s t : State} (h : Gated v rs s t) (l : List Nat) :
    ∃ all : List Nat, (∀ r, r ∈ all ↔ r ∈ l ∨ r ∈ rs) ∧ Gated v all s (l.foldl (State.gateRegion v) t) := by
  induction l generalizing rs t with
  | nil => exact ⟨rs, fun r => by simp, h⟩
  | cons x l ih =>
    obtain ⟨all, members, gated⟩ := ih (h.next x)
    exact ⟨all, fun r => by rw [members, List.mem_cons, List.mem_cons, or_left_comm, or_assoc], gated⟩

theorem gateRegions_taken {s : State} {v : Nat} (free : ∀ r ∈ s.gateChanges v, (s.region r).state = .drained ∨ (s.region r).state = .off) :
    s.gateRegions v = (s.gateChanges v).foldl (State.gateRegion v) s := by
  have all : (s.gateChanges v).all (fun r => (s.region r).state == .drained || (s.region r).state == .off) = true :=
    List.all_eq_true.mpr fun r changes => by simpa using free r changes
  exact if_neg (by rw [← State.gateChanges, all]; decide)

theorem gateRegions_refused {s : State} {v r : Nat} (changes : r ∈ s.gateChanges v) (drained : (s.region r).state ≠ .drained)
    (off : (s.region r).state ≠ .off) : s.gateRegions v = s.badWrite pgGov 0x128 := by
  have blocked : (s.gateChanges v).all (fun r => (s.region r).state == .drained || (s.region r).state == .off) = false :=
    List.all_eq_false.mpr ⟨r, changes, by simp [drained, off]⟩
  exact if_pos (by rw [← State.gateChanges, blocked]; decide)

theorem exec_regionGateWrite_taken {s : State} (answers : s.answers = true) (v : Word)
    (free : ∀ r, r < 8 → v.toNat.testBit r ≠ (s.region r).gated → (s.region r).state = .drained ∨ (s.region r).state = .off) :
    ∃ t : State, exec (.regionGateWrite v) s = .next t ∧ t = { s with regions := t.regions, mem := t.mem } ∧
      ∀ r, r < 8 → (t.region r).gated = v.toNat.testBit r ∧
        (v.toNat.testBit r = (s.region r).gated → (t.region r) = s.region r) ∧
        (v.toNat.testBit r ≠ (s.region r).gated → (t.region r).state = (if v.toNat.testBit r then .off else .drained) ∧
          ∀ i, i < 2 ^ 22 → t.mem.ivoryPoisoned (r * 2 ^ 22 + i) = true) := by
  obtain ⟨all, members, gated⟩ := (Gated.none v.toNat s).foldl (s.gateChanges v.toNat)
  have changed : ∀ r, r ∈ all ↔ r < 8 ∧ v.toNat.testBit r ≠ (s.region r).gated := fun r => by
    rw [members, mem_gateChanges]; simp
  refine ⟨_, (exec_regionGateWrite answers v).trans (congrArg Host.Outcome.next
    (gateRegions_taken fun r changes => free r (mem_gateChanges.mp changes).1 (mem_gateChanges.mp changes).2)), gated.same, fun r inRange => ?_⟩
  by_cases same : v.toNat.testBit r = (s.region r).gated
  · have kept := gated.kept r fun listed => ((changed r).mp listed).2 same
    exact ⟨(congrArg Region.gated kept).trans same.symm, fun _ => kept, fun other => absurd same other⟩
  · have listed := (changed r).mpr ⟨inRange, same⟩
    have taken := gated.taken r listed
    exact ⟨congrArg Region.gated taken, fun equal => absurd equal same,
      fun _ => ⟨congrArg Region.state taken, gated.poison r listed⟩⟩

theorem exec_regionGateWrite_refused {s : State} (answers : s.answers = true) (v : Word) {r : Nat} (inRange : r < 8)
    (changes : v.toNat.testBit r ≠ (s.region r).gated) (drained : (s.region r).state ≠ .drained) (off : (s.region r).state ≠ .off) :
    exec (.regionGateWrite v) s = .next (s.badWrite pgGov 0x128) := by
  rw [exec_regionGateWrite answers, gateRegions_refused (mem_gateChanges.mpr ⟨inRange, changes⟩) drained off]

end Sys2Proof.Machine

/-- Settles O53: each page stands for one part (`pageKind_region` to `pageKind_fabric`), whose row decides by the state that the page reads;
a REGION_GATE that is taken gates one region after the other (`Gated.foldl`). -/
theorem pageStates : Obligations.PageStates := by
  unfold Obligations.PageStates
  refine fun s => ⟨fun answers => ⟨fun r serves others => ⟨?_, exec_abortRegion_spared answers r serves others⟩, fun r last => ⟨?_, ?_⟩, ?_⟩,
    fun fed => ?_⟩
  · exact ⟨_, exec_drainRegion answers r, drainRegion_spared serves others⟩
  · rw [exec_drainRegion answers, drainRegion_last last]
  · rw [exec_abortRegion answers, abortRegion_last last]
  · exact ⟨exec_drainTower answers, exec_drainEngine answers, exec_drainFabric answers, exec_enableRegion answers, exec_enableTower answers,
      fun p there other => exec_enable_badWrite answers there other, exec_regionGateWrite_taken answers,
      fun v r inRange changes drained off => exec_regionGateWrite_refused answers v inRange changes drained off⟩
  · exact ⟨exec_regionDrained fed, exec_engineDrained fed, exec_regionAdmitted fed, exec_towerAdmitted fed, exec_engineAdmitted fed⟩

end

section
/-! PROOFS. What a write leaves of the outbox (log entry 8): a write sends what a fill forwards (R413), and what has been sent stays sent. -/

open Sys2Proof Sys2Proof.Machine

namespace Sys2Proof.Machine

/-! ### The memory half of a write -/

theorem withMem_flushOnly (s : State) (m : Mem) : FlushOnly s { s with mem := m } := rfl

theorem evictOldest_flushOnly (s : State) : FlushOnly s s.evictOldest := by
  unfold State.evictOldest
  split
  · rfl
  · split
    · exact (withMem_flushOnly s _).trans (evictLine_flushOnly _ _)
    · rfl

theorem parityDelta_flushOnly (s : State) (x : Nat) (d : Byte) : FlushOnly s (s.parityDelta x d) := by
  unfold State.parityDelta
  split
  · exact parityXor_flushOnly s x d
  · split
    · rfl
    · exact (evictOldest_flushOnly s).trans (withMem_flushOnly _ _)

theorem pokeByte_flushOnly (s : State) (a : Nat) (v : Byte) : FlushOnly s (s.pokeByte a v) := by
  unfold State.pokeByte State.pokePosition
  split
  · dsimp only
    refine FlushOnly.trans ?_ (parityDelta_flushOnly _ _ _)
    split <;> rfl
  · rfl

theorem pokeBytes_flushOnly (s : State) (a : Nat) (bs : Bytes) : FlushOnly s (s.pokeBytes a bs) := by
  induction bs generalizing s a with
  | nil => rfl
  | cons b bs ih => exact (pokeByte_flushOnly s a b).trans (ih _ _)

theorem clearPoison_flushOnly (s : State) (a : Nat) : FlushOnly s (s.clearPoison a) := by
  unfold State.clearPoison
  split <;> rfl

theorem clearCovered_flushOnly (s : State) (a len : Nat) : FlushOnly s (s.clearCovered a len) := by
  refine FlushOnly.foldl (fun t g => ?_) rfl
  dsimp only
  split
  · split
    · exact (withMem_flushOnly t _).trans (clearPoison_flushOnly _ _)
    · rfl
  · split
    · exact clearPoison_flushOnly t g
    · rfl

theorem recomputeParity_flushOnly (s : State) (i : Nat) : FlushOnly s (s.recomputeParity i) := by
  unfold State.recomputeParity
  generalize List.range 4096 = l
  refine FlushOnly.trans (FlushOnly.foldl (fun t j => ?_) (FlushOnly.refl s)) (withMem_flushOnly _ _)
  split <;> rfl

theorem recomputeLost_flushOnly (s : State) (i : Nat) : FlushOnly s (s.recomputeLost i) := by
  unfold State.recomputeLost
  generalize List.range 4096 = l
  split
  · rfl
  · refine FlushOnly.trans ?_ (recomputeParity_flushOnly _ i)
    split
    · rfl
    · exact FlushOnly.foldl (fun t j => withMem_flushOnly t _) rfl

theorem recomputeFirst_flushOnly (s : State) (a len : Nat) : FlushOnly s (s.recomputeFirst a len) := by
  unfold State.recomputeFirst
  split
  · refine FlushOnly.foldl (fun t g => ?_) rfl
    dsimp only
    split
    · exact recomputeLost_flushOnly t _
    · rfl
  · rfl

theorem dirtyTracks_flushOnly (s : State) (a len : Nat) : FlushOnly s (s.dirtyTracks a len) := by
  refine FlushOnly.foldl (fun t e => ?_) rfl
  dsimp only
  split
  · exact FlushOnly.foldl (fun u i => withMem_flushOnly u _) rfl
  · rfl

/-! ### The messages of a write -/

/-- All that had left the module by `s` has left it by `t`, in the same order. -/
def Sent (s t : State) : Prop := s.outbox <+: t.outbox

theorem Sent.refl (s : State) : Sent s s := List.prefix_refl _

theorem Sent.same {s t u : State} (h : Sent s t) (k : u.outbox = t.outbox) : Sent s u := by
  unfold Sent
  rw [k]
  exact h

theorem Sent.trans {s t u : State} (h : Sent s t) (k : Sent t u) : Sent s u := List.IsPrefix.trans h k

theorem Sent.setJnl {s t : State} (h : Sent s t) (j : Journal) : Sent s { t with jnl := j } := h.same rfl

theorem Sent.setTwin {s t : State} (h : Sent s t) (w : Twin) : Sent s { t with twin := w } := h.same rfl

theorem Sent.count {s t : State} (h : Sent s t) (p source k : Nat) : Sent s (t.count p source k) := h.same rfl

theorem Sent.foldl {α : Type} {s t : State} {f : State → α → State} {l : List α} (each : ∀ u x, Sent s u → Sent s (f u x)) (h : Sent s t) :
    Sent s (l.foldl f t) :=
  List.foldlRecOn (motive := Sent s) l f h fun u sent x _ => each u x sent

theorem Sent.flush {s t u : State} (h : Sent s t) (k : FlushOnly t u) : Sent s u := h.same (by rw [k])

theorem Sent.emitFlit {s t : State} (h : Sent s t) (l vc : Nat) (b : Bytes) : Sent s (t.emitFlit l vc b) := h.trans (List.prefix_append _ _)

theorem Sent.sendFlit {s t : State} (h : Sent s t) (l vc : Nat) (b : Bytes) : Sent s (t.sendFlit l vc b) := by
  unfold State.sendFlit
  dsimp only
  split
  · exact h.emitFlit l vc b
  · exact h.same rfl

theorem Sent.sendChunks {s t : State} (h : Sent s t) (links : List Nat) (dest : Nat) (bs : Bytes) : Sent s (t.sendChunks links dest bs) := by
  unfold State.sendChunks
  refine Sent.foldl (fun u b hu => ?_) h
  unfold State.sendChunk
  dsimp only
  split
  · exact hu
  · exact Sent.foldl (fun v f hv => hv.sendFlit _ _ f) (hu.same rfl)

/-- A message of the twin engine is among what has left the module. -/
theorem mem_sendTwin (s : State) (kind : String) (words : List Nat) (bs : Bytes) : Out.twin kind words bs ∈ (s.sendTwin kind words bs).outbox :=
  ((Sent.refl (s.send (.twin kind words bs))).sendChunks _ _ _).subset (List.mem_append_right _ List.mem_cons_self)

theorem Sent.sendTwin {s t : State} (h : Sent s t) (kind : String) (words : List Nat) (bs : Bytes) : Sent s (t.sendTwin kind words bs) := by
  have begun : Sent s (t.send (.twin kind words bs)) := h.trans (List.prefix_append _ _)
  exact begun.sendChunks _ _ _

theorem Sent.readFirst {s t : State} (h : Sent s t) (b : Nat) : Sent s (t.readFirst b) := by
  unfold State.readFirst
  dsimp only
  split
  · exact h
  · split
    · exact h
    · exact h.same rfl

theorem Sent.sendFill {s t : State} (h : Sent s t) (b : Nat) : Sent s (t.sendFill b) := by
  unfold State.sendFill
  exact ((h.sendTwin _ _ _).count _ _ _).setTwin _

theorem Sent.beforeWrite {s t : State} (h : Sent s t) (a len : Nat) : Sent s (t.beforeWrite a len) := by
  have read : Sent s (if t.twin.wp.running then (mibsOf a len).foldl State.readFirst t else t) := by
    split
    · exact Sent.foldl (fun u b hu => hu.readFirst b) h
    · exact h
  unfold State.beforeWrite
  dsimp only
  generalize (if t.twin.wp.running then (mibsOf a len).foldl State.readFirst t else t) = v at read ⊢
  split
  · refine Sent.foldl (fun u b hu => ?_) read
    split
    · exact hu.sendFill b
    · exact hu
  · exact read

theorem Sent.forwardWrite {s t : State} (h : Sent s t) (a : Nat) (bs : Bytes) : Sent s (t.forwardWrite a bs) := by
  unfold State.forwardWrite
  split
  · exact h
  · refine Sent.foldl (fun u b hu => ?_) h
    split
    · exact (hu.sendTwin _ _ _).setTwin _
    · exact hu

/-- A write sends what a fill forwards, and takes nothing back. -/
theorem Sent.storeBytes {s t : State} (h : Sent s t) (a : Nat) (bs : Bytes) : Sent s (t.storeBytes a bs) := by
  unfold State.storeBytes
  have cleared := ((h.beforeWrite a bs.length).flush (recomputeFirst_flushOnly _ a bs.length)).flush (clearCovered_flushOnly _ a bs.length)
  have stored := (cleared.flush (dirtyTracks_flushOnly _ a bs.length)).flush (pokeBytes_flushOnly _ a bs)
  exact (stored.flush (withMem_flushOnly _ _)).forwardWrite a bs

end Sys2Proof.Machine
end

section
/-! PROOFS. The governor (R308, R426 to R443): its ticks, the coolant, LOAD_NOTICE, the feed, the trip and I²C. -/

open Sys2Proof Sys2Proof.Machine

namespace Sys2Proof.Machine

/-! ### LOAD_NOTICE (R430) -/

/-- A change with none before it is all that the last 2 µs hold. -/
theorem sumWatts_first (now w : Nat) : sumWatts (recentWatts now [] w) = w := by simp [sumWatts, recentWatts]

/-- A planned fall changes the governor's own record of falls alone. -/
theorem expectFall_eq (s : State) (w : Nat) :
    s.expectFall w = { s with gov := { s.gov with falls := (s.expectFall w).gov.falls, noticeDown := (s.expectFall w).gov.noticeDown } } := by
  unfold State.expectFall
  split <;> rfl

/-- A rise changes the governor's own record of rises alone. -/
theorem expectRise_eq (s : State) (w : Nat) :
    s.expectRise w = { s with gov := { s.gov with
      rises := (s.expectRise w).gov.rises, noticeUp := (s.expectRise w).gov.noticeUp, holding := (s.expectRise w).gov.holding } } := by
  unfold State.expectRise
  split <;> rfl

theorem expectFall_above {s : State} {w : Nat} (draw : 0 < w) (above : s.gov.noticeW < w) (first : s.gov.falls = []) :
    (s.expectFall w).gov.noticeDown = true := by
  rw [State.expectFall, if_neg (by omega), first]
  dsimp only
  rw [sumWatts_first, decide_eq_true above, Bool.or_true]

theorem expectRise_above {s : State} {w : Nat} (draw : 0 < w) (above : s.gov.noticeW < w) (first : s.gov.rises = []) :
    (s.expectRise w).gov.noticeUp = true ∧ (s.expectRise w).gov.holding = true := by
  rw [State.expectRise, if_neg (by omega), first]
  dsimp only
  rw [sumWatts_first, decide_eq_true above, Bool.or_true, Bool.or_true]
  exact ⟨rfl, rfl⟩

theorem expectFall_below {s : State} {w : Nat} (below : w ≤ s.gov.noticeW) (first : s.gov.falls = []) :
    (s.expectFall w).gov.noticeDown = s.gov.noticeDown := by
  rw [State.expectFall, first]
  split
  · rfl
  · dsimp only
    rw [sumWatts_first, decide_eq_false (Nat.not_lt.mpr below), Bool.or_false]

theorem expectRise_below {s : State} {w : Nat} (below : w ≤ s.gov.noticeW) (first : s.gov.rises = []) :
    (s.expectRise w).gov.noticeUp = s.gov.noticeUp ∧ (s.expectRise w).gov.holding = s.gov.holding := by
  rw [State.expectRise, first]
  split
  · exact ⟨rfl, rfl⟩
  · dsimp only
    rw [sumWatts_first, decide_eq_false (Nat.not_lt.mpr below), Bool.or_false, Bool.or_false]
    exact ⟨rfl, rfl⟩

/-! ### The two rules (R427, R434, R445) -/

/-- A level goes up, or down where it does not go up. -/
theorem stepLevel_eq {up down : Prop} [Decidable up] [Decidable down] (long : Bool) (l : Nat) :
    stepLevel (decide up) (long && decide down) l = if up then min 15 (l + 1) else if long = true ∧ down then l - 1 else l := by
  simp [stepLevel]

theorem markHot_gov (s : State) (hot : List (Fin 18)) : (s.markHot hot).gov = s.gov :=
  List.foldlRecOn (motive := fun t : State => t.gov = s.gov) (List.range 18) _ rfl fun _ same _ _ => same

/-- Settling the level changes the governor alone, and what the settled governor says of levels, caps and the feed stays. -/
theorem settleGov_eq (s : State) (g : Governor) : ∃ falls rises down up holding,
    s.settleGov g = { s with gov := { g.settle with falls := falls, noticeDown := down, rises := rises, noticeUp := up, holding := holding } } := by
  unfold State.settleGov
  dsimp only
  rw [expectRise_eq, expectFall_eq]
  exact ⟨_, _, _, _, _, rfl⟩

theorem capEff_feedLow {g : Governor} (low : g.feedLow = true) : g.capEff ≤ 1200 := by
  rw [Governor.capEff, low, if_pos rfl]
  exact Nat.min_le_right _ _

section
variable {s : State} (on : s.power = .on)
include on

theorem governed_on : s.governed = true := decide_eq_true on

theorem not_ungoverned : ¬ ((!s.governed) = true) := by rw [governed_on on]; decide

theorem exec_govPowerTick {pin vin iin : Nat} {long : Bool} {cap l m : Nat}
    (effective : cap = (let a := if s.gov.i2cCap = 0 then s.gov.powerCap else min s.gov.powerCap s.gov.i2cCap
      if s.gov.feedLow then min a 1200 else a))
    (level : l = (if cap < pin then min 15 (s.gov.capLevel + 1) else if long = true ∧ 100 * pin < 95 * cap then s.gov.capLevel - 1
      else s.gov.capLevel)) (higher : m = max l s.gov.thermalLevel) :
    exec (.govPowerTick pin vin iin long) s = .next ((State.expectFall { s with gov := { s.gov with
      pin := pin % 65536, vin := vin % 65536, iin := iin % 65536, capLevel := l, throttle := m
      state := if s.gov.feedLow then 3 else if m = 0 then 0 else if s.gov.thermalLevel ≤ l then 1 else 2 } }
      (s.gov.estimate * (m - s.gov.throttle) / 16)).expectRise (s.gov.estimate * (s.gov.throttle - m) / 16)) := by
  refine (congrArg Host.Outcome.next (if_neg (not_ungoverned on))).trans ?_
  rw [← stepLevel_eq] at level
  subst effective level higher
  rfl

theorem exec_govThermalTick {die tow inl outl predict : Int} {hot : List (Fin 18)} {long : Bool} {l m : Nat}
    (level : l = (if (s.gov.tjTarget : Int) < predict then min 15 (s.gov.thermalLevel + 1)
      else if long = true ∧ predict + 3 < (s.gov.tjTarget : Int) then s.gov.thermalLevel - 1 else s.gov.thermalLevel))
    (higher : m = max s.gov.capLevel l) :
    exec (.govThermalTick die tow inl outl predict hot long) s = .next ((State.expectFall { s.markHot hot with gov := { s.gov with
      dieMax := die, towerMax := tow, inlet := inl, outlet := outl, diePredict := predict, thermalLevel := l, throttle := m
      state := if s.gov.feedLow then 3 else if m = 0 then 0 else if l ≤ s.gov.capLevel then 1 else 2 } }
      (s.gov.estimate * (m - s.gov.throttle) / 16)).expectRise (s.gov.estimate * (s.gov.throttle - m) / 16)) := by
  refine (congrArg Host.Outcome.next (if_neg (not_ungoverned on))).trans ?_
  rw [State.settleGov, markHot_gov]
  rw [← stepLevel_eq] at level
  subst level higher
  rfl

/-! ### The coolant (R433, R436) -/

theorem exec_flowEstimate {watts rise : Nat} (warmer : rise ≠ 0) :
    exec (.flowEstimate watts rise) s = .next { s with gov := { s.gov with flow := watts * 6000 / (4186 * rise) % 65536 } } := by
  change Host.Outcome.next (flowEstimate watts rise s) = _
  rw [flowEstimate, governed_on on, State.flowOf, if_neg warmer, decide_eq_false warmer]
  rfl

/-- Without a rise the manual gives no flow. -/
theorem exec_flowEstimate_noRise (watts : Nat) :
    ∃ f : Nat, exec (.flowEstimate watts 0) s = .next { s with gov := { s.gov with flow := f }, freeCount := s.freeCount + 1 } := by
  refine ⟨s.flowOf watts 0, ?_⟩
  change Host.Outcome.next (flowEstimate watts 0 s) = _
  rw [flowEstimate, governed_on on]
  rfl

theorem exec_coolantWarn {warn : Bool} (limits : warn = true ↔ (35 < s.gov.inlet ∨ s.gov.flow < 240)) :
    exec (.coolantWarn warn) s = .next { s with gov := { s.gov with coolantWarn := warn } } := by
  have outside : s.gov.outside = warn := by rw [Bool.eq_iff_iff, limits]; simp [Governor.outside]
  change Host.Outcome.next (if s.governed && s.gov.outside == warn then _ else _) = _
  rw [governed_on on, outside, if_pos (by simp)]

/-! ### The rows of LOAD_NOTICE and of the feed (R426, R430, R438) -/

theorem exec_noticeHoldEnd : exec .noticeHoldEnd s = .next { s with gov := { s.gov with holding := false } } := by
  change Host.Outcome.next (if s.governed then _ else _) = _
  rw [governed_on on, if_pos rfl]

theorem exec_loadNoticeSettle : exec .loadNoticeSettle s =
    .next { s with gov := { s.gov with noticeUp := s.gov.noticeUp && s.gov.holding, noticeDown := false, rises := [], falls := [] } } := by
  change Host.Outcome.next (if s.governed then _ else _) = _
  rw [governed_on on, if_pos rfl]

theorem exec_feedSample (mv : Nat) : exec (.feedSample mv) s =
    .next (if 60000 < mv ∧ mv ≤ 63000 then State.raiseBlockBit { s with gov := { s.gov with vin := mv % 65536 } } pgGov 16 0
      else { s with gov := { s.gov with vin := mv % 65536 } }) := by
  change Host.Outcome.next (feedSample mv s) = _
  rw [feedSample, governed_on on]
  rfl

/-- FEED_LOW changes the governor alone, and stands over the levels (R426, R445). -/
theorem setFeedLow_eq (low : Bool) : ∃ g : Governor, setFeedLow low s = { s with gov := g } ∧ g.feedLow = low ∧
    g.state = (if low then 3 else if max s.gov.capLevel s.gov.thermalLevel = 0 then 0 else if s.gov.thermalLevel ≤ s.gov.capLevel then 1 else 2) := by
  obtain ⟨falls, rises, down, up, holding, settled⟩ := settleGov_eq s { s.gov with feedLow := low }
  exact ⟨_, (if_pos (governed_on on)).trans settled, rfl, rfl⟩

theorem exec_feedLowEnter : ∃ t : State, exec .feedLowEnter s = .next t ∧ t = { s with gov := t.gov } ∧ t.gov.feedLow = true ∧
    t.gov.state = 3 ∧ t.gov.capEff ≤ 1200 := by
  obtain ⟨g, entered, low, state⟩ := setFeedLow_eq on true
  exact ⟨_, congrArg Host.Outcome.next entered, rfl, low, state, capEff_feedLow low⟩

theorem exec_feedLowExit : ∃ t : State, exec .feedLowExit s = .next t ∧ t = { s with gov := t.gov } ∧ t.gov.feedLow = false ∧
    t.gov.state ≠ 3 := by
  obtain ⟨g, left, low, state⟩ := setFeedLow_eq on false
  refine ⟨_, congrArg Host.Outcome.next left, rfl, low, ?_⟩
  change g.state ≠ 3
  rw [state, if_neg Bool.false_ne_true]
  split
  · decide
  · split <;> decide

theorem exec_feedLoss : exec .feedLoss s = .next s.losePower :=
  congrArg Host.Outcome.next (if_pos (.inl on))

end

/-! ### Power lost, and the module off (R438, R439) -/

theorem dropAllWork_copy (s : State) : ∀ e ∈ s.dropAllWork.copy, e.2.piece = none := by
  intro e listed
  obtain ⟨_, _, rfl⟩ := List.mem_map.mp listed
  rfl

theorem dropAllWork_towers (s : State) : ∀ w ∈ s.dropAllWork.tow.towers, w.2.cmds = [] := by
  intro w listed
  obtain ⟨_, _, rfl⟩ := List.mem_map.mp listed
  rfl

theorem dropAllWork_regions (s : State) :
    ∀ g ∈ s.dropAllWork.regions, g.2.walk = none ∧ (∀ a ∈ g.2.arrays, a.2.run = none) ∧ (∀ v ∈ g.2.vectors, v.2.users = []) := by
  intro g listed
  obtain ⟨⟨r, g⟩, _, rfl⟩ := List.mem_map.mp listed
  exact ⟨dropWork_walk g, dropWork_arrays g, dropWork_vectors g⟩

/-- A table filled with values that have a property, from one whose default has it, has it at every key. -/
theorem tabGet_filled {α : Type} [DecidableEq α] {d : α} {P : α → Prop} {l : List (Nat × α)} (each : ∀ e ∈ l, P e.2) {t : Tab α} {k : Nat}
    (before : P (tabGet d t k)) : P (tabGet d (l.foldl (fun t e => tabSet d t e.1 e.2) t) k) := by
  induction l generalizing t with
  | nil => exact before
  | cons e l ih =>
    refine ih (fun x listed => each x (List.mem_cons_of_mem e listed)) ?_
    rw [tabGet_tabSet]
    split
    · exact each e List.mem_cons_self
    · exact before

theorem linksDown_link (s : State) (l : Nat) : (s.linksDown.link l).state = .down := by
  refine tabGet_filled (P := fun k : Link => k.state = .down) (fun e listed => ?_) rfl
  obtain ⟨_, _, rfl⟩ := List.mem_map.mp listed
  rfl

theorem shutDown_link (s : State) (l : Nat) : (s.shutDown.link l).state = .down := linksDown_link _ l

theorem SameElse.deviceStop {s t : State} (h : SameElse s t) : t.deviceStop = s.deviceStop := by rw [h]

theorem writeHeader_deviceStop (s : State) : s.writeHeader.deviceStop = s.deviceStop := by
  unfold State.writeHeader
  generalize headerBytes _ _ _ _ = bs
  exact (storeBytes_sameElse s _ bs).deviceStop

theorem cutJournal_deviceStop (s : State) : s.cutJournal.deviceStop = s.deviceStop := by
  unfold State.cutJournal
  split
  · rfl
  · split
    · rfl
    · exact (writeHeader_deviceStop _).trans (writeHeader_deviceStop _)

theorem shutDown_deviceStop (s : State) : s.shutDown.deviceStop = s.deviceStop := by
  refine (cutJournal_deviceStop _).trans ?_
  split
  · exact (sendTwin_sends s _ _ _).sameElse.deviceStop
  · rfl

/-! ### The shutdown (R438, R439) -/

theorem Sent.writeHeader {s t : State} (h : Sent s t) : Sent s t.writeHeader := by
  unfold State.writeHeader
  generalize headerBytes _ _ _ _ = bs
  exact (h.storeBytes _ bs).same rfl

theorem Sent.cutJournal {s t : State} (h : Sent s t) : Sent s t.cutJournal := by
  unfold State.cutJournal
  split
  · exact h
  · split
    · exact h
    · dsimp only
      exact (h.setJnl _).writeHeader.writeHeader

/-- A module with a partner that has not stopped says so before its power goes (R409, R438 step 4). -/
theorem shutDown_stopNotice {s : State} (partner : s.hasPartner = true) (runs : s.deviceStop = false) :
    Out.twin "STOP" [] [] ∈ s.shutDown.outbox := by
  have noticed : s.shutDown.outbox = (s.sendTwin "STOP" [] []).cutJournal.outbox := by
    unfold State.shutDown
    rw [partner, runs]
    rfl
  rw [noticed]
  exact (Sent.refl _).cutJournal.subset (mem_sendTwin s "STOP" [] [])

theorem exec_feedLossShutdown {s : State} (held : s.power = .holdUp) :
    ∃ t : State, exec .feedLossShutdown s = .next t ∧ t.power = .off ∧ (∀ l, l < 24 → (t.link l).state = .down) ∧
      (s.hasPartner = true → s.deviceStop = false → Out.twin "STOP" [] [] ∈ t.outbox) :=
  ⟨_, congrArg Host.Outcome.next (if_pos held), rfl, fun l _ => shutDown_link s l, shutDown_stopNotice⟩

/-! ### The thermal trip (R437) -/

/-- A trip stops the module with DEVICE, and holds it with its links down and Greyline locked (R437). -/
theorem exec_thermalTrip {s : State} (on : s.power = .on) {x : Sensor} {c : Int} (hot : overTrip x c = true) :
    ∃ t : State, exec (.thermalTrip x c) s = .next t ∧ t.power = .tripped ∧ t.deviceStop = true ∧ t.grey.level = .locked ∧
      ∀ l, l < 24 → (t.link l).state = .down := by
  have runs : ¬ (s.power ≠ .on ∨ overTrip x c = false) := by rw [on, hot]; decide
  refine ⟨_, congrArg Host.Outcome.next (if_neg runs), rfl, ?_, rfl, fun l _ => shutDown_link _ l⟩
  exact (shutDown_deviceStop _).trans (deviceStopAt_stopped s pgGov 0)

theorem overTrip_at {x : Sensor} {c : Int} (reached : (∃ b, x = .buffer b) ∧ 100 ≤ c ∨ (¬ ∃ b, x = .buffer b) ∧ 105 ≤ c) : overTrip x c = true := by
  obtain ⟨⟨b, rfl⟩, above⟩ | ⟨other, above⟩ := reached
  · exact decide_eq_true above
  · cases x with
    | buffer b => exact absurd ⟨b, rfl⟩ other
    | _ => exact decide_eq_true above

/-! ### I²C (R442, R443) -/

theorem capOk_iff (v : Nat) : capOk v = true ↔ v = 0 ∨ (600 ≤ v ∧ v ≤ 1600) := by simp [capOk]

section
variable {s : State} (on : s.power = .on)
include on

theorem exec_i2cWrite_index (index : Nat) : exec (.i2cWrite index []) s =
    .next { s with gov := { s.gov with i2cIndex := index % 256 }, outbox := s.outbox ++ [.i2c true (s.i2cRead (index % 256))] } := by
  change Host.Outcome.next (i2cWrite index [] s) = _
  rw [i2cWrite, if_neg (by simp [on])]
  rfl

theorem exec_i2cWrite_cap {bs : Bytes} (both : bs.length = 2) (taken : leNat bs = 0 ∨ (600 ≤ leNat bs ∧ leNat bs ≤ 1600)) :
    exec (.i2cWrite 0x0C bs) s =
      .next { s with gov := { s.gov with i2cIndex := 0x0C, i2cCap := leNat bs }, outbox := s.outbox ++ [.i2c true []] } := by
  have data : ¬ (bs.isEmpty = true) := by rw [List.isEmpty_iff_length_eq_zero]; omega
  change Host.Outcome.next (i2cWrite 0x0C bs s) = _
  rw [i2cWrite, if_neg (by simp [on])]
  dsimp only
  rw [if_neg data, if_pos ⟨rfl, both, (capOk_iff _).mpr taken⟩]
  rfl

theorem exec_i2cWrite_refused {index : Nat} {bs : Bytes} (data : bs ≠ [])
    (other : index ≠ 0x0C ∨ bs.length ≠ 2 ∨ (0 < leNat bs ∧ leNat bs < 600) ∨ 1600 < leNat bs) :
    exec (.i2cWrite index bs) s =
      .next { s with gov := { s.gov with i2cIndex := index % 256 }, outbox := s.outbox ++ [.i2c false []] } := by
  have refused : ¬ (index = 0x0C ∧ bs.length = 2 ∧ capOk (leNat bs) = true) := by rw [capOk_iff]; omega
  change Host.Outcome.next (i2cWrite index bs s) = _
  rw [i2cWrite, if_neg (by simp [on])]
  dsimp only
  rw [if_neg (mt List.isEmpty_iff.mp data), if_neg refused]
  rfl

end

/-- Above its last field the map reads zero. -/
theorem i2cByte_above (s : State) {i : Nat} (above : 0x18 ≤ i) : s.i2cByte i = 0 := by
  have none : s.i2cFields.find? (fun f => decide (f.1 ≤ i) && decide (i < f.1 + f.2.1)) = none := by
    rw [List.find?_eq_none]
    simp [State.i2cFields]
    omega
  rw [State.i2cByte, none]

theorem natBytes_zero (n : Nat) : natBytes n 0 = List.replicate n 0 := by
  induction n with
  | zero => rfl
  | succ n ih => exact congrArg (List.cons 0) ih

/-- The map from FLOW upward (R443). -/
theorem i2cRead_flow (s : State) :
    s.i2cRead 0x14 = natBytes 2 s.gov.flow ++ natBytes 1 s.gov.throttle ++ natBytes 1 (bit s.gov.coolantWarn * 128 + s.gov.state) ++ natBytes 232 0 := by
  have read : s.i2cRead 0x14 = (List.range (4 + 232)).map fun k => s.i2cByte (0x14 + k) := rfl
  have fields : (List.range 4).map (fun k => s.i2cByte (0x14 + k)) =
      [BitVec.ofNat 8 (s.gov.flow / 1), BitVec.ofNat 8 (s.gov.flow / 256), BitVec.ofNat 8 (s.gov.throttle / 1),
        BitVec.ofNat 8 ((bit s.gov.coolantWarn * 128 + s.gov.state) / 1)] := rfl
  have zeros : (List.range 232).map (fun k => s.i2cByte (0x14 + (4 + k))) = natBytes 232 0 := by
    rw [natBytes_zero, List.eq_replicate_iff]
    refine ⟨by simp, fun b listed => ?_⟩
    obtain ⟨k, _, rfl⟩ := List.mem_map.mp listed
    exact i2cByte_above s (by omega)
  rw [read, List.range_add, List.map_append, List.map_map]
  refine congr (congrArg HAppend.hAppend (fields.trans ?_)) zeros
  rw [Nat.div_one, Nat.div_one, Nat.div_one]
  rfl

end Sys2Proof.Machine

/-- Settles O54: each row while the power is on (`exec_govPowerTick` to `exec_i2cWrite_refused`); what settles the level changes the governor
alone (`settleGov_eq`), and a shutdown keeps DEVICE, downs the links and takes no message back (`shutDown_stopNotice`). -/
theorem governorRows : Obligations.GovernorRows := by
  unfold Obligations.GovernorRows
  refine ⟨fun s on => ⟨?_, ?_, ?_, ?_, ?_, fun _ _ => exec_flowEstimate on, exec_flowEstimate_noRise on, fun _ => exec_coolantWarn on,
    exec_noticeHoldEnd on, exec_loadNoticeSettle on, exec_feedSample on, exec_feedLowEnter on, exec_feedLowExit on, ?_, ?_,
    exec_i2cWrite_index on, i2cRead_flow s, fun _ => exec_i2cWrite_cap on, fun _ _ => exec_i2cWrite_refused on⟩,
    fun s held => exec_feedLossShutdown held⟩
  · exact fun pin vin iin long cap l m => exec_govPowerTick on
  · exact fun die tow inl outl predict hot long l m => exec_govThermalTick on
  · refine fun w draw above first => ⟨expectFall_above draw above first, ?_⟩
    rw [expectFall_eq]
  · exact fun w => expectRise_above
  · intro w below falls rises
    obtain ⟨up, holding⟩ := expectRise_below below rises
    exact ⟨expectFall_below below falls, up, holding⟩
  · exact ⟨_, exec_feedLoss on, rfl, rfl, rfl, rfl, rfl, rfl, rfl, rfl, rfl, dropAllWork_copy s, dropAllWork_towers s, dropAllWork_regions s⟩
  · exact fun x c reached => exec_thermalTrip on (overTrip_at reached)

end

section
/-! PROOFS. The queue of waiting commands (R336, R474), doorbells (R340, R342, R345, R355), the commit point (R350, R406) and QCTX (R487). -/

open Sys2Proof Sys2Proof.Machine

namespace Sys2Proof.Machine

/-! ### Doorbells (R340, R342) -/

theorem QState.takes_iff (x : QState) : x.takes = true ↔ x = .active ∨ x = .parkedStale ∨ x = .held := by
  cases x <;> decide

theorem QState.takes_eq_false_iff (x : QState) : x.takes = false ↔ x = .disabled ∨ x = .draining ∨ x = .aborting := by
  cases x <;> decide

/-- The address of a queue's doorbell names that queue. -/
theorem doorbellQueue_address (queue : Nat) : doorbellQueue (0x1000000 + 8 * queue) = queue := by
  unfold doorbellQueue; omega

theorem doorbellReason_none {s : State} {queue : BitVec 18} (takes : (s.queue queue.toNat).state.takes = true) :
    doorbellReason s (0x1000000 + 8 * queue.toNat) 8 0 queue = none := by
  have address : (0x1000000 + 8 * queue.toNat - 0x1000000) / 8 = queue.toNat := doorbellQueue_address _
  unfold doorbellReason
  rw [if_neg (by omega), if_neg (by simp), if_neg (by omega), if_pos (by rw [address]; exact takes)]

theorem unpark_eq (x : QueueCtx) (tail head : Nat) : ({ x with tailSeq := tail, cqHead := head } : QueueCtx).unpark =
    { (if x.state = .parkedStale then { x with state := .active, stale := false, tries := 0 } else x : QueueCtx) with
      tailSeq := tail, cqHead := head } := by
  unfold QueueCtx.unpark
  split <;> rfl

/-- While the window answers, a doorbell's fate is its reason to be refused, if it has one, or its queue's own check. -/
theorem doorbellTail_refused {s : State} {offset size : Nat} {value : BitVec 32} {reserved : BitVec 13} {queue : BitVec 18} {r : Nat}
    (answers : s.answers = true) (reason : doorbellReason s offset size reserved queue = some r) :
    doorbellTail offset size value reserved queue s = s.refuseDoorbell (doorbellQueue offset) r := by
  simp only [doorbellTail, answers, reason, Bool.not_true, Bool.false_eq_true, if_false]

theorem doorbellConsumed_refused {s : State} {offset size : Nat} {value : BitVec 32} {reserved : BitVec 13} {queue : BitVec 18} {r : Nat}
    (answers : s.answers = true) (reason : doorbellReason s offset size reserved queue = some r) :
    doorbellConsumed offset size value reserved queue s = s.refuseDoorbell (doorbellQueue offset) r := by
  simp only [doorbellConsumed, answers, reason, Bool.not_true, Bool.false_eq_true, if_false]

theorem doorbellTail_checked {s : State} {offset size : Nat} {value : BitVec 32} {reserved : BitVec 13} {queue : BitVec 18} {x : QueueCtx} {v : Nat}
    (answers : s.answers = true) (reason : doorbellReason s offset size reserved queue = none) (own : s.queue (doorbellQueue offset) = x)
    (extended : extendSeq x.cqHead value.toNat = v) :
    doorbellTail offset size value reserved queue s =
      if x.cqHead + x.slots < v then s.refuseDoorbell (doorbellQueue offset) 2
      else s.tookDoorbell (doorbellQueue offset) { x with tailSeq := max x.tailSeq v } := by
  subst own extended
  simp only [doorbellTail, answers, reason, Bool.not_true, Bool.false_eq_true, if_false]

/-- What a CONSUMED doorbell that is taken leaves before a replay may release the queue (R355). -/
def State.tookConsumed (s : State) (q : Nat) (x : QueueCtx) (v : Nat) : State :=
  let u := (s.tookDoorbell q { x with cqHead := v }).dropConsumed q v
  { u with jnl := { u.jnl with consume := insertNat q u.jnl.consume } }

theorem doorbellConsumed_checked {s : State} {offset size : Nat} {value : BitVec 32} {reserved : BitVec 13} {queue : BitVec 18} {x : QueueCtx} {v : Nat}
    (answers : s.answers = true) (reason : doorbellReason s offset size reserved queue = none) (own : s.queue (doorbellQueue offset) = x)
    (extended : extendSeq x.cqHead value.toNat = v) :
    doorbellConsumed offset size value reserved queue s =
      if v ≤ x.cqHead ∨ x.doneSeq < v then s.refuseDoorbell (doorbellQueue offset) 3
      else ((s.tookConsumed (doorbellQueue offset) x v).releaseHeld (doorbellQueue offset)).settleReplay := by
  subst own extended
  simp only [doorbellConsumed, State.tookConsumed, answers, reason, Bool.not_true, Bool.false_eq_true, if_false]

/-- Only a replay releases a queue (R367). -/
theorem releaseHeld_live {s : State} (live : s.jnl.state ≠ .replaying) (q : Nat) : s.releaseHeld q = s :=
  if_neg (fun h => live h.1)

/-- Only a replay ends. -/
theorem settleReplay_live {s : State} (live : s.jnl.state ≠ .replaying) : s.settleReplay = s :=
  if_neg (fun h => live h.1)

end Sys2Proof.Machine

/-- Settles O5: the rest of the queue is among what `step_keeps` keeps. -/
theorem stepTakesFrontAlone : Obligations.StepTakesFrontAlone := by
  unfold Obligations.StepTakesFrontAlone
  intro s t h
  obtain ⟨u, hu, keeps⟩ := step_keeps s
  cases h.symm.trans hu
  exact keeps.pending

/-- Settles O8: at its queue's address no reason stands against the doorbell (`doorbellReason_none`), and its queue's own check passes. -/
theorem doorbellTaken : Obligations.DoorbellTaken := by
  unfold Obligations.DoorbellTaken
  refine ⟨fun s offset value queue x y v answers place own takes extended inRing parked => ?_,
    fun s u offset value queue x y v answers place own takes extended above done parked after => ?_⟩
  all_goals
    subst place own parked
    have reason := doorbellReason_none (s := s) (queue := queue) ((QState.takes_iff _).mpr takes)
    have address := doorbellQueue_address queue.toNat
  · have taken := (doorbellTail_checked answers reason (by rw [address]) extended.symm).trans (if_neg (Nat.not_lt.mpr inRing))
    rw [address] at taken
    refine congrArg Host.Outcome.next (taken.trans ?_)
    unfold State.tookDoorbell
    rw [unpark_eq _ _ _]
    split <;> rfl
  · have taken := doorbellConsumed_checked answers reason (by rw [address]) extended.symm
    have same : s.tookConsumed queue.toNat (s.queue queue.toNat) v = u := by
      unfold State.tookConsumed State.tookDoorbell
      rw [unpark_eq _ _ _, after]
      split <;> rfl
    rw [if_neg (by omega), address, same] at taken
    refine ⟨fun live => congrArg Host.Outcome.next (taken.trans ?_), fun _ => congrArg Host.Outcome.next taken⟩
    have still : u.jnl.state ≠ .replaying := by rw [after]; exact live
    rw [releaseHeld_live still, settleReplay_live still]

/-- Settles O9: each reason of `doorbellReason`, and the two checks of the queue's own range. -/
theorem doorbellRefused : Obligations.DoorbellRefused := by
  unfold Obligations.DoorbellRefused
  intro s offset size value reserved queue q r tail x v answers place own extended why
  subst place own
  have refused : ∀ k, k = r → doorbellReason s offset size reserved queue = some k →
      exec (if tail = true then .doorbellTail offset size value reserved queue else .doorbellConsumed offset size value reserved queue) s =
        .next (s.refuseDoorbell (doorbellQueue offset) r) := by
    rintro k rfl reason
    cases tail
    · exact congrArg Host.Outcome.next (doorbellConsumed_refused answers reason)
    · exact congrArg Host.Outcome.next (doorbellTail_refused answers reason)
  unfold doorbellReason at refused
  rcases why with ⟨shape, rfl⟩ | ⟨size8, aligned, bits, rfl⟩ | ⟨size8, aligned, bits, other, rfl⟩ | ⟨size8, aligned, bits, same, shut, rfl⟩ |
    ⟨size8, aligned, bits, same, takes, range⟩
  · exact refused 5 rfl (if_pos shape)
  · exact refused 6 rfl (by rw [if_neg (by omega), if_pos bits])
  · exact refused 4 rfl (by rw [if_neg (by omega), if_neg (not_not_intro bits), if_pos other])
  · refine refused 1 rfl ?_
    rw [if_neg (by omega), if_neg (not_not_intro bits), if_neg (not_not_intro same), (QState.takes_eq_false_iff _).mpr shut]
    rfl
  · have reason : doorbellReason s offset size reserved queue = none := by
      unfold doorbellReason
      rw [if_neg (by omega), if_neg (not_not_intro bits), if_neg (not_not_intro same), (QState.takes_iff _).mpr takes]
      rfl
    rcases range with ⟨rfl, above, rfl⟩ | ⟨rfl, order, rfl⟩
    · exact congrArg Host.Outcome.next ((doorbellTail_checked answers reason rfl extended.symm).trans (if_pos above))
    · exact congrArg Host.Outcome.next ((doorbellConsumed_checked answers reason rfl extended.symm).trans (if_pos order))

end

section
/-! PROOFS. Path fences (R360, R387) and the commit point (R350, R406). -/

open Sys2Proof Sys2Proof.Machine

namespace Sys2Proof.Machine

/-! ### Path fences (R360, R387) -/

/-- A read of all eight bytes of a fence returns the count. -/
theorem fenceData_whole (s : State) (ids : List Nat) (k : Nat) :
    s.fenceData ⟨0, 8, ids⟩ k = { s with outbox := s.outbox ++ [.windowData ((natBytes 8 k).map some)] } := by
  unfold State.fenceData State.send sliceOf
  rw [List.drop_zero, List.take_of_length_le (Nat.le_of_eq (natBytes_length 8 k))]

section
variable {s : State}

theorem pathFenceLink_eq (answers : s.answers = true) (none : s.per.linkFences = []) {ids : List Nat}
    (owed : (s.per.requests.filter (fun r => r.write && (s.cmd? r.q r.n).isNone)).map (·.id) = ids) :
    pathFenceLink 0 8 s = ({ s with per := { s.per with linkFences := [⟨0, 8, ids⟩] } } : State).settleLinkFences := by
  unfold pathFenceLink
  rw [answers, none, owed]
  rfl

/-- A link fence that awaits a write still outstanding is not due. -/
theorem linkFenceDue_listed {ids : List Nat} (some : ids ≠ []) (listed : ∀ i ∈ ids, ∃ r ∈ s.per.requests, r.id = i) (o l : Nat) :
    s.linkFenceDue ⟨o, l, ids⟩ = false := by
  obtain ⟨i, rest, rfl⟩ := List.exists_cons_of_ne_nil some
  obtain ⟨r, there, same⟩ := listed i List.mem_cons_self
  have out : s.per.requests.any (fun r => r.id == i) = true := List.any_eq_true.mpr ⟨r, there, by simpa using same⟩
  simp only [State.linkFenceDue, List.all_cons, out, Bool.not_true, Bool.false_and]

theorem exec_pathFenceLink_due (answers : s.answers = true) (none : s.per.linkFences = [])
    (owed : (s.per.requests.filter (fun r => r.write && (s.cmd? r.q r.n).isNone)).map (·.id) = []) :
    exec .pathFenceLink s = .next { s with
      per := { s.per with fenceLink := s.per.fenceLink + 1 }
      outbox := s.outbox ++ [.windowData ((natBytes 8 (s.per.fenceLink + 1)).map some)] } := by
  have served : ({ s with per := { s.per with linkFences := [⟨0, 8, []⟩] } } : State).settleLinkFences =
      { s with per := { s.per with fenceLink := s.per.fenceLink + 1, linkFences := [] }
               outbox := s.outbox ++ [.windowData ((natBytes 8 (s.per.fenceLink + 1)).map some)] } := fenceData_whole _ _ _
  refine congrArg Host.Outcome.next ((pathFenceLink_eq answers none owed).trans (served.trans ?_))
  rw [← none]

theorem exec_pathFenceLink_waits (answers : s.answers = true) (none : s.per.linkFences = []) {ids : List Nat} (some : ids ≠ [])
    (owed : (s.per.requests.filter (fun r => r.write && (s.cmd? r.q r.n).isNone)).map (·.id) = ids) :
    exec .pathFenceLink s = .next { s with per := { s.per with linkFences := [⟨0, 8, ids⟩] } } := by
  refine congrArg Host.Outcome.next ((pathFenceLink_eq answers none owed).trans ?_)
  have waits := linkFenceDue_listed (s := { s with per := { s.per with linkFences := [⟨0, 8, ids⟩] } }) some (fun i listed => by
    rw [← owed] at listed
    obtain ⟨r, there, same⟩ := List.mem_map.mp listed
    exact ⟨r, (List.mem_filter.mp there).1, same⟩) 0 8
  simp only [State.settleLinkFences, List.filter_cons, List.filter_nil, waits, Bool.not_false, if_true, Bool.false_eq_true, if_false, List.foldl_nil]

theorem exec_pathFenceWindow (answers : s.answers = true) : exec .pathFenceWindow s = .next { s with
    per := { s.per with fenceWindow := s.per.fenceWindow + 1 }
    outbox := s.outbox ++ [.windowData ((natBytes 8 (s.per.fenceWindow + 1)).map some)] } := by
  refine congrArg Host.Outcome.next (Eq.trans ?_
    (fenceData_whole { s with per := { s.per with fenceWindow := s.per.fenceWindow + 1 } } [] (s.per.fenceWindow + 1)))
  unfold pathFenceWindow
  rw [answers]
  rfl

/-- Peer fences that all await something stay as they are. -/
theorem filter_awaiting {fs : List FenceRead} (awaiting : ∀ f ∈ fs, f.awaits ≠ []) :
    fs.filter (·.awaits.isEmpty) = [] ∧ fs.filter (fun f => !f.awaits.isEmpty) = fs := by
  constructor
  · exact List.filter_eq_nil_iff.mpr (fun f listed => by simpa using awaiting f listed)
  · exact List.filter_eq_self.mpr (fun f listed => by simpa using awaiting f listed)

/-- A peer fence behind those that await something: served at once when it awaits no module, kept otherwise. -/
theorem settlePeerFences_due {fs : List FenceRead} (awaiting : ∀ f ∈ fs, f.awaits ≠ []) :
    ({ s with per := { s.per with peerFences := fs ++ [⟨0, 8, []⟩] } } : State).settlePeerFences = { s with
      per := { s.per with fencePeer := s.per.fencePeer + 1, peerFences := fs }
      outbox := s.outbox ++ [.windowData ((natBytes 8 (s.per.fencePeer + 1)).map some)] } := by
  obtain ⟨due, rest⟩ := filter_awaiting awaiting
  simp only [State.settlePeerFences, List.filter_append, due, rest, List.nil_append, List.filter_cons, List.filter_nil, List.isEmpty_nil, Bool.not_true,
    if_true, Bool.false_eq_true, if_false, List.append_nil, List.foldl_cons, List.foldl_nil, State.servePeerFence]
  exact fenceData_whole _ _ _

theorem settlePeerFences_waits (awaiting : ∀ f ∈ s.per.peerFences, f.awaits ≠ []) : s.settlePeerFences = s := by
  obtain ⟨due, rest⟩ := filter_awaiting awaiting
  unfold State.settlePeerFences
  rw [due, rest]
  rfl

theorem exec_pathFencePeer (answers : s.answers = true) : exec .pathFencePeer s =
    .next ({ s with per := { s.per with peerFences := s.per.peerFences ++ [⟨0, 8, s.lnk.unacked⟩] } } : State).settlePeerFences := by
  refine congrArg Host.Outcome.next ?_
  unfold pathFencePeer
  rw [answers]
  rfl

theorem exec_peerVisibilityAck (alive : s.alive = true) (p : Nat) : exec (.peerVisibilityAck p) s = .next ({ s with
    lnk := { s.lnk with unacked := s.lnk.unacked.filter (· != p) }
    per := { s.per with peerFences := s.per.peerFences.map (fun f => { f with awaits := f.awaits.filter (· != p) }) } } : State).settlePeerFences := by
  refine congrArg Host.Outcome.next ?_
  unfold visibilityAck
  rw [alive]
  rfl

/-- The oldest peer fence returns anyway, its target named (R387). -/
theorem exec_peerFenceTimeout (answers : s.answers = true) {p : Nat} {ps : List Nat} {fs : List FenceRead}
    (oldest : s.per.peerFences = ⟨0, 8, p :: ps⟩ :: fs) :
    ∃ t : State, exec .peerFenceTimeout s = .next t ∧ t.per = { s.per with fencePeer := s.per.fencePeer + 1, peerFences := fs } ∧
      t.lnk = { s.lnk with fenceFail := p, fenceFailed := true } ∧ hasBit (t.page pgFabric).errSts 17 = true ∧
      Out.windowData ((natBytes 8 (s.per.fencePeer + 1)).map some) ∈ t.outbox := by
  let u : State := ({ s with lnk := { s.lnk with fenceFail := p, fenceFailed := true }
                             per := { s.per with peerFences := fs } } : State).raiseBlockBit pgFabric 17 0
  have per : u.per = { s.per with peerFences := fs } := State.modPage_per _ _ _
  have run : exec .peerFenceTimeout s = .next (u.servePeerFence ⟨0, 8, p :: ps⟩) := by
    refine congrArg Host.Outcome.next ?_
    unfold peerFenceTimeout
    rw [oldest]
    dsimp only
    rw [answers]
    rfl
  refine ⟨_, run, ?_, State.modPage_lnk _ _ _, ?_, ?_⟩ <;> unfold State.servePeerFence <;> rw [fenceData_whole]
  · show { u.per with fencePeer := u.per.fencePeer + 1 } = _
    rw [per]
  · show hasBit (u.page pgFabric).errSts 17 = true
    rw [show u.page pgFabric = _ from page_modPage _ _ _]
    exact hasBit_raiseBit _ _ _ _ _ (by decide) (.inr rfl)
  · rw [per]
    exact List.mem_append_right _ List.mem_cons_self

end

end Sys2Proof.Machine

/-- Settles O20: a fence that awaits nothing is served at once (`exec_pathFenceLink_due`, `settlePeerFences_due`), another is kept, and an
acknowledgement or the timeout serves it. -/
theorem pathFences : Obligations.PathFences := by
  unfold Obligations.PathFences
  intro s ids answers owed
  refine ⟨fun due none => exec_pathFenceLink_due answers none (owed.symm.trans due), fun waits none => exec_pathFenceLink_waits answers none waits owed.symm,
    exec_pathFenceWindow answers, fun awaiting => ⟨fun acked => ?_, fun unacked => ?_⟩,
    fun p ps fs oldest => exec_peerFenceTimeout answers oldest, fun p alive none => ?_, fun p alive last => ?_, fun p a b bs alive first left => ?_⟩
  · rw [exec_pathFencePeer answers, acked, settlePeerFences_due awaiting]
  · rw [exec_pathFencePeer answers, settlePeerFences_waits]
    intro f listed
    rcases List.mem_append.mp listed with old | new
    · exact awaiting f old
    · rw [List.mem_singleton.mp new]
      exact unacked
  all_goals
    rw [exec_peerVisibilityAck alive]
    refine congrArg Host.Outcome.next ?_
  · rw [none, List.map_nil, settlePeerFences_waits (by simp), ← none]
  · rw [last]
    have gone : [p].filter (· != p) = [] := by simp
    simp only [List.map_cons, List.map_nil, gone]
    exact settlePeerFences_due (s := { s with lnk := { s.lnk with unacked := s.lnk.unacked.filter (· != p) } }) (fs := []) (by simp)
  · rw [first]
    exact settlePeerFences_waits (by simpa using left)

end

section
/-! PROOFS. The commit point (R350, R406), and the two paths' own selects (R487). -/

open Sys2Proof Sys2Proof.Machine

namespace Sys2Proof.Machine

/-! ### The commit point (R350, R406) -/

/-- What a paired member mirrors goes to the twin, and is awaited (R405, R406). -/
theorem mirror_awaited {s : State} (twinned : s.twinned = true) (w : MirrorWait) (kind : String) (words : List Nat) (bs : Bytes) :
    s.mirror (some w) kind words bs = { s.sendTwin kind words bs with twin := { s.twin with unacked := s.twin.unacked ++ [w] } } := by
  unfold State.mirror
  rw [twinned, ← (sendTwin_sends s kind words bs).twin]
  rfl

/-- A member without a partner mirrors nothing. -/
theorem mirror_alone {s : State} (alone : s.twinned = false) (w : Option MirrorWait) (kind : String) (words : List Nat) (bs : Bytes) :
    s.mirror w kind words bs = s := by
  unfold State.mirror
  rw [alone]
  rfl

/-- A message to the twin comes before the flits that carry it. -/
theorem sendTwin_outbox (s : State) (kind : String) (words : List Nat) (bs : Bytes) :
    ∃ more, (s.sendTwin kind words bs).outbox = s.outbox ++ .twin kind words bs :: more := by
  obtain ⟨more, rest⟩ := (Sent.refl (s.send (.twin kind words bs))).sendChunks s.twinExits s.twin.partnerPos bs
  exact ⟨more, rest.symm.trans (List.append_assoc _ [_] more)⟩

section
variable {s : State} {q n : Nat} {c : Cmd}

theorem commitPoint_alone (listed : s.cmd? q n = some c) (alive : s.alive = true) (started : c.phase = .started)
    (first : (c.committed && c.noticed) = false) (heard : c.noticed = true ∨ s.twinned = false) :
    commitPoint q n s = s.putCmd { c with committed := true, noticed := true } := by
  have free : (c.noticed || !s.twinned) = true := by rcases heard with h | h <;> simp [h]
  unfold commitPoint
  rw [listed]
  dsimp only
  rw [if_neg (by simp [alive, started]), if_neg (by simp [first]), if_pos free]

theorem commitPoint_paired (listed : s.cmd? q n = some c) (alive : s.alive = true) (started : c.phase = .started)
    (unheard : c.noticed = false) (paired : s.twinned = true) (first : s.twin.unacked.contains (.notice q n) = false) :
    commitPoint q n s = { (s.putCmd { c with committed := true }).sendTwin "COMMIT" [q, n] [] with
      twin := { s.twin with unacked := s.twin.unacked ++ [.notice q n] } } := by
  unfold commitPoint
  rw [listed]
  dsimp only
  rw [if_neg (by simp [alive, started]), if_neg (by simp [unheard]), if_neg (by simp [unheard, paired]), if_neg (by rw [first]; decide)]
  exact mirror_awaited (s := s.putCmd { c with committed := true }) paired _ _ _ _

end

/-! ### QCTX_SEL and QCTX_DATA (R487) -/

theorem select_own (k : Perast) (p : Path) (v : Nat) :
    (k.select p v).selQueue p = v % 2 ^ 18 ∧ (k.select p v).selWord p = v / 2 ^ 24 % 16 := by
  cases p <;> exact ⟨by simp [Perast.select, Perast.selQueue, bitsOf], by simp [Perast.select, Perast.selWord, bitsOf]⟩

theorem select_other (k : Perast) {p p' : Path} (other : p' ≠ p) (v : Nat) :
    (k.select p v).selQueue p' = k.selQueue p' ∧ (k.select p v).selWord p' = k.selWord p' := by
  cases p <;> cases p' <;> first | exact absurd rfl other | exact ⟨rfl, rfl⟩

/-- The Perast page never falls silent: it has no OFF state. -/
theorem regRead_perast (s : State) (p : Path) {o : Nat} (low : 0x100 ≤ o) (high : o < 4096) :
    s.regRead p (0x4000 + o) = s.readPerast p o % 2 ^ 64 := by
  have page : (0x4000 + o) / 4096 = 4 := by omega
  have offset : (0x4000 + o) % 4096 = o := by omega
  have on : s.silent 4 = false := by
    unfold State.silent State.pageState
    rw [show pageKind 4 = .engine from rfl]
    cases s.deviceStop <;> rfl
  rw [regRead_block s p (by omega), page, offset, blockRead_engine p o on rfl]
  rfl

theorem regRead_select (s : State) (p : Path) :
    s.regRead p 0x4128 = (s.per.selWord p * 2 ^ 24 + s.per.selQueue p) % 2 ^ 64 := regRead_perast s p (o := 0x128) (by decide) (by decide)

theorem regRead_context (s : State) (p : Path) :
    s.regRead p 0x4130 = (s.queue (s.per.selQueue p)).word (s.per.selWord p) % 2 ^ 64 := regRead_perast s p (o := 0x130) (by decide) (by decide)

theorem exec_select {s : State} (answers : s.answers = true) (p : Path) (v hw : Word) :
    exec (.registerWrite p 0x4128 8 ⟨v, hw⟩) s = .next { s with per := s.per.select p v.toNat } :=
  exec_registerWrite_block p v hw answers rfl rfl rfl (by decide)

theorem exec_context {s : State} (answers : s.answers = true) (p : Path) (w hw : Word) :
    exec (.registerWrite p 0x4130 8 ⟨w, hw⟩) s = exec (.qctxDataWrite p w) s :=
  exec_registerWrite_block p w hw answers rfl rfl rfl (by decide)

/-- A write of QCTX_DATA changes the context its own path selected, sets BAD_WRITE, or has no effect. -/
theorem qctxDataWrite_cases (p : Path) (v : Nat) (s : State) :
    qctxDataWrite p v s = s.putQueue (s.per.selQueue p) ((s.queue (s.per.selQueue p)).setWord (s.per.selWord p) v) ∨
    qctxDataWrite p v s = s.modPage pgPerast (·.raiseBit 8 (s.per.selQueue p * 2 ^ 24 + 0x130) false) ∨ qctxDataWrite p v s = s := by
  unfold qctxDataWrite
  dsimp only
  split
  · exact .inr (.inr rfl)
  · split
    · exact .inr (.inr rfl)
    · split
      · exact .inl rfl
      · exact .inr (.inl rfl)

end Sys2Proof.Machine

/-- Settles O13: without a partner to hear of it the command is marked alone; else the notice is mirrored (`mirror_awaited`). -/
theorem commitPointPassed : Obligations.CommitPointPassed := by
  unfold Obligations.CommitPointPassed
  intro s q n c listed alive started
  refine ⟨fun first heard => congrArg Host.Outcome.next (commitPoint_alone listed alive started first heard),
    fun unheard paired first => ⟨congrArg Host.Outcome.next (commitPoint_paired listed alive started unheard paired first), ?_⟩⟩
  exact sendTwin_outbox (s.putCmd { c with committed := true }) "COMMIT" [q, n] []

/-- Settles O46: each path's select is a field of its own (`select_own`, `select_other`), and QCTX_DATA goes through it. -/
theorem eachPathSelectsItsOwnWord : Obligations.EachPathSelectsItsOwnWord := by
  unfold Obligations.EachPathSelectsItsOwnWord
  intro s p v w hw answers
  obtain ⟨queue, word⟩ := select_own s.per p v.toNat
  refine ⟨⟨_, exec_select answers p v hw, rfl, queue, word, ?_, ?_, fun p' other => ?_⟩, regRead_context s p, exec_context answers p w hw, ?_⟩
  · rw [regRead_select]
    refine Nat.mod_eq_of_lt ?_
    show (s.per.select p v.toNat).selWord p * 2 ^ 24 + (s.per.select p v.toNat).selQueue p < 2 ^ 64
    omega
  · rw [regRead_context, show State.per _ = _ from rfl, queue, word]
    rfl
  · obtain ⟨queue', word'⟩ := select_other s.per other v.toNat
    refine ⟨queue', word', ?_, ?_⟩
    · rw [regRead_select, regRead_select, show State.per _ = _ from rfl, queue', word']
    · rw [regRead_context, regRead_context, show State.per _ = _ from rfl, queue', word']
      rfl
  · rcases qctxDataWrite_cases p w.toNat s with h | h | h
    · exact .inl (congrArg Host.Outcome.next h)
    · exact .inr (.inl (congrArg Host.Outcome.next h))
    · exact .inr (.inr (congrArg Host.Outcome.next h))

end

section
/-! PROOFS. Fetching descriptors (R334, R344, R345, R365). -/

open Sys2Proof Sys2Proof.Machine

namespace Sys2Proof.Machine

/-! ### Queues -/

@[simp] theorem State.queue_putQueue (s : State) (q : Nat) (x : QueueCtx) : (s.putQueue q x).queue q = x := tabGet_tabSet_same q x

theorem tabInsert_tabInsert {α : Type} (t : Tab α) (k : Nat) (v w : α) : tabInsert (tabInsert t k v) k w = tabInsert t k w := by
  induction t with
  | nil => simp [tabInsert]
  | cons e t ih =>
    obtain ⟨m, u⟩ := e
    by_cases same : k = m
    · simp [tabInsert, same]
    · by_cases below : k < m <;> simp [tabInsert, same, below, ih]

theorem tabErase_tabInsert {α : Type} (t : Tab α) (k : Nat) (v : α) : tabErase (tabInsert t k v) k = tabErase t k := by
  unfold tabErase
  induction t with
  | nil => simp [tabInsert]
  | cons e t ih =>
    obtain ⟨m, u⟩ := e
    by_cases same : k = m
    · simp [tabInsert, same]
    · by_cases below : k < m
      · simp [tabInsert, same, below]
      · simp [tabInsert, same, below, List.filter_cons, ih]

/-- A second write of a key hides the first, if the first lists the key. -/
theorem tabSet_tabSet {α : Type} [DecidableEq α] {d v : α} (listed : v ≠ d) (t : Tab α) (k : Nat) (w : α) :
    tabSet d (tabSet d t k v) k w = tabSet d t k w := by
  rw [show tabSet d t k v = tabInsert t k v from if_neg listed]
  unfold tabSet
  split
  · exact tabErase_tabInsert t k v
  · exact tabInsert_tabInsert t k v w

/-- A second write of a queue's context hides the first, if the first is not the reset context. -/
theorem State.putQueue_putQueue {x : QueueCtx} (listed : x ≠ {}) (s : State) (q : Nat) (y : QueueCtx) : (s.putQueue q x).putQueue q y = s.putQueue q y := by
  unfold State.putQueue
  dsimp only
  rw [tabSet_tabSet listed]

/-! ### A turn of fetches (R344) -/

theorem canFetch_of_fetchTurn {s : State} {q : Nat} (turn : s.fetchTurn = some q) : s.canFetch q = true := by
  have among : q ∈ (s.queues.map (·.1)).filter s.canFetch := by
    unfold State.fetchTurn at turn
    dsimp only at turn
    rcases Option.or_eq_some_iff.mp turn with next | ⟨-, first⟩
    · exact List.mem_of_find?_eq_some next
    · exact List.mem_of_head? first
  exact (List.mem_filter.mp among).2

theorem nextFetch_le_of_canFetch {s : State} {q : Nat} (can : s.canFetch q = true) : s.nextFetch q ≤ (s.queue q).fetchLimit := by
  simp only [State.canFetch, Bool.and_eq_true, decide_eq_true_eq] at can
  exact can.2

/-- How many descriptors a turn of queue `q` fetches. -/
def State.fetchCount (s : State) (q : Nat) : Nat := min (min 8 (64 - s.fetches.length)) ((s.queue q).fetchLimit + 1 - s.nextFetch q)

theorem descFetch_turn {s : State} {q : Nat} (alive : s.alive = true) (open' : s.jnl.state = .live ∨ s.jnl.state = .replaying)
    (turn : s.fetchTurn = some q) : descFetch s = { s with
      fetches := s.fetches ++ (List.range (s.fetchCount q)).map (fun i => { q := q, n := s.nextFetch q + i }), rrQueue := q } := by
  unfold descFetch
  rw [if_neg (by rcases open' with h | h <;> simp [alive, h]), turn]
  rfl

theorem exec_descFetch {s : State} {q : Nat} (alive : s.alive = true) (open' : s.jnl.state = .live ∨ s.jnl.state = .replaying)
    (turn : s.fetchTurn = some q) (few : s.fetches.length ≤ 64) :
    ∃ (k : Nat) (fs : List Fetch), k ≤ 8 ∧ fs = (List.range k).map (fun i => { q := q, n := s.nextFetch q + i }) ∧
      exec .descFetch s = .next { s with fetches := s.fetches ++ fs, rrQueue := q } ∧
      (s.fetches ++ fs).length ≤ 64 ∧ s.nextFetch q + k ≤ (s.queue q).fetchLimit + 1 ∧ s.canFetch q = true ∧
      (s.fetches.length < 64 → 1 ≤ k) := by
  have can := canFetch_of_fetchTurn turn
  have next := nextFetch_le_of_canFetch can
  have bound : s.fetchCount q = min (min 8 (64 - s.fetches.length)) ((s.queue q).fetchLimit + 1 - s.nextFetch q) := rfl
  refine ⟨s.fetchCount q, _, by omega, rfl, congrArg Host.Outcome.next (descFetch_turn alive open' turn), ?_, by omega, can, by omega⟩
  rw [List.length_append, List.length_map, List.length_range]
  omega

/-! ### A fetch returns (R334, R344, R345) -/

theorem readBytes_eq {s : State} {a len : Nat} {d : Bytes} (read : s.readBytes a len = .ok d) : d = s.rawBytes a len := by
  unfold State.readBytes at read
  split at read
  · cases read
  · exact (Except.ok.inj read).symm

/-- The checks of step 1 of R344, for a slot's 64 bytes. -/
theorem descOk_iff {d : Bytes} (full : d.length = 64) (n : Nat) :
    descOk d n = true ↔ crc32c (d.take 60) = leNat ((d.drop 60).take 4) ∧ leNat ((d.drop 56).take 4) = n % 2 ^ 32 := by
  simp [descOk, full, fieldAt, sliceOf]

/-- A slot of Ivory or Umber, or of Slate as memory holds it, returns its bytes. -/
theorem fetchBytes_ok {s : State} {q n : Nat} {d : Bytes} (read : s.readBytes ((s.queue q).slotAddr n) 64 = .ok d)
    (up : s.tierOf ((s.queue q).slotAddr n) = some .slate → s.per.linkUp = true) : fetchBytes s q n .ok = (s, some d) := by
  unfold fetchBytes
  dsimp only
  split
  · rw [if_neg (by simp [up ‹_›]), read]
    rfl
  · rw [read]
    rfl

/-- Later fetches of the queue are dropped with the one that returned. -/
theorem filter_erase_fetch {q : Nat} {f : Fetch} (own : f.q = q) (fs : List Fetch) :
    (fs.erase f).filter (fun g => g.q != q) = fs.filter (fun g => g.q != q) := by
  induction fs with
  | nil => rfl
  | cons g fs ih =>
    rw [List.erase_cons]
    split
    · rename_i same
      rw [beq_iff_eq.mp same, List.filter_cons_of_neg (by simp [own])]
    · rw [List.filter_cons, List.filter_cons, ih]

section
variable {s : State} {q : Nat} {f : Fetch} {d : Bytes}

theorem descFetchReturn_eq (alive : s.alive = true) (oldest : s.fetches.find? (fun f => f.q == q) = some f)
    (read : s.readBytes ((s.queue q).slotAddr f.n) 64 = .ok d) (up : s.tierOf ((s.queue q).slotAddr f.n) = some .slate → s.per.linkUp = true) :
    descFetchReturn q .ok s =
      if descOk d f.n then { s.putQueue q { s.queue q with tries := 0, stale := false } with
        fetches := s.fetches.erase f, ready := s.ready ++ [{ q := q, n := f.n, desc := d }] }
      else ({ s with fetches := s.fetches.erase f } : State).staleFetch q f.n := by
  have back : fetchBytes { s with fetches := s.fetches.erase f } q f.n .ok = ({ s with fetches := s.fetches.erase f }, some d) := fetchBytes_ok read up
  unfold descFetchReturn
  rw [if_neg (by simp [alive]), oldest]
  dsimp only
  rw [back]
  rfl

/-- A stale descriptor drops the queue's fetches. -/
theorem staleFetch_erase (own : f.q = q) (n : Nat) :
    ({ s with fetches := s.fetches.erase f } : State).staleFetch q n = s.staleFetch q n := by
  unfold State.staleFetch
  dsimp only
  rw [filter_erase_fetch own]
  rfl

theorem staleFetch_again (few : (s.queue q).tries < 8) (n : Nat) : s.staleFetch q n =
    ({ s with fetches := s.fetches.filter (fun g => g.q != q) } : State).putQueue q { s.queue q with stale := true } := by
  unfold State.staleFetch
  rw [if_neg (by omega)]
  unfold State.settlePark
  rw [if_neg]
  rw [State.queue_putQueue]
  intro h
  obtain ⟨-, -, many, -⟩ := h
  exact absurd many (Nat.not_le.mpr few)

/-- With nothing fetched, ready or under acceptance, the next number to fetch is the next to accept. -/
theorem nextFetch_accepted (fetches : s.fetches.filter (fun f => f.q == q) = []) (ready : ∀ r ∈ s.ready, r.q ≠ q)
    (cmds : ∀ c ∈ s.cmds, c.q = q → c.n < (s.queue q).nextSeq) : s.nextFetch q = (s.queue q).nextSeq := by
  have none : s.ready.filter (fun r => r.q == q) = [] := List.filter_eq_nil_iff.mpr (fun r there => by simpa using ready r there)
  have before : s.cmds.filter (fun c => c.q == q && decide ((s.queue q).nextSeq ≤ c.n)) = [] :=
    List.filter_eq_nil_iff.mpr (fun c there => by simpa using fun own => Nat.not_le.mpr (cmds c there (by simpa using own)))
  unfold State.nextFetch
  rw [fetches, none, before]
  rfl

theorem staleFetch_parks (many : 8 ≤ (s.queue q).tries) (active : (s.queue q).state = .active) (ready : ∀ r ∈ s.ready, r.q ≠ q)
    (cmds : ∀ c ∈ s.cmds, c.q = q → c.n < (s.queue q).nextSeq) (n : Nat) : s.staleFetch q n =
    (({ s with fetches := s.fetches.filter (fun g => g.q != q) } : State).putQueue q
      { s.queue q with state := .parkedStale, stale := true }).count pgPerast 0x1402 1 := by
  have marked : ({ s.queue q with stale := true } : QueueCtx) ≠ {} := fun same => by cases congrArg QueueCtx.stale same
  have next : (({ s with fetches := s.fetches.filter (fun g => g.q != q) } : State).putQueue q { s.queue q with stale := true }).nextFetch q =
      (s.queue q).nextSeq := by
    refine Eq.trans (nextFetch_accepted ?_ (by exact ready) ?_) ?_
    · exact List.filter_eq_nil_iff.mpr (fun g there => by simpa using (List.mem_filter.mp there).2)
    · rw [State.queue_putQueue]
      exact cmds
    · rw [State.queue_putQueue]
  unfold State.staleFetch
  rw [if_neg (by rw [active]; simp)]
  unfold State.settlePark
  rw [next, State.queue_putQueue, if_pos ⟨active, rfl, many, rfl⟩, State.putQueue_putQueue marked]

theorem staleFetch_draining (many : 8 ≤ (s.queue q).tries) (draining : (s.queue q).state = .draining) (n : Nat) : s.staleFetch q n =
    (({ s with fetches := s.fetches.filter (fun g => g.q != q) } : State).putQueue q
      { s.queue q with drainTail := n - 1, stale := false, tries := 0 }).settleQueue q :=
  if_pos ⟨many, draining⟩

theorem descRefetch_again (alive : s.alive = true) (stale : (s.queue q).stale = true) (few : (s.queue q).tries < 8)
    (fetching : (s.queue q).state = .active ∨ (s.queue q).state = .draining) (room : s.fetches.length < 64) :
    descRefetch q s = State.count { s.putQueue q { s.queue q with stale := false, tries := (s.queue q).tries + 1 } with
      fetches := s.fetches ++ [{ q := q, n := s.nextFetch q }] } pgPerast 0x1401 1 :=
  if_pos (by rcases fetching with h | h <;> simp [alive, stale, few, h, room])

end

end Sys2Proof.Machine

/-- Settles O10: one turn (`exec_descFetch`), a return that passes or fails step 1 of R344 (`descFetchReturn_eq`), and a re-fetch. -/
theorem descriptorFetch : Obligations.DescriptorFetch := by
  unfold Obligations.DescriptorFetch
  refine ⟨fun s q alive open' turn few => exec_descFetch alive open' turn few, fun s q f d x alive oldest own read up => ?_,
    fun s q alive stale few fetching room => congrArg Host.Outcome.next (descRefetch_again alive stale few fetching room)⟩
  subst own
  have mine : f.q = q := by simpa using List.find?_some oldest
  have full : d.length = 64 := by rw [readBytes_eq read, rawBytes_length]
  have returned := descFetchReturn_eq alive oldest read up
  rw [staleFetch_erase mine] at returned
  refine ⟨fun crc alive' => ?_, fun bad => ?_⟩
  · rw [if_pos ((descOk_iff full f.n).mpr ⟨crc, alive'⟩)] at returned
    exact congrArg Host.Outcome.next returned
  · have stale : descOk d f.n ≠ true := by
      rw [Ne, descOk_iff full]
      exact fun both => bad.elim (fun not => not both.1) (fun not => not both.2)
    rw [if_neg stale] at returned
    exact ⟨fun few => congrArg Host.Outcome.next (returned.trans (staleFetch_again few f.n)),
      fun many active ready cmds => congrArg Host.Outcome.next (returned.trans (staleFetch_parks many active ready cmds f.n)),
      fun many draining => congrArg Host.Outcome.next (returned.trans (staleFetch_draining many draining f.n))⟩

end

section
/-! PROOFS. Journal records of a member without a partner (R353 to R355): what a record's writing leaves, the record's own bytes, and when a queue
settles. -/

open Sys2Proof Sys2Proof.Machine

namespace Sys2Proof.Machine

/-! ### A write outside a fill -/

/-- `t` differs from `s` as a write outside a fill makes it differ: in memory, in page counters, and in the blocks a snapshot has saved. -/
def StoresOnly (s t : State) : Prop := t = { s with mem := t.mem, pages := t.pages, twin := { s.twin with wp := t.twin.wp } }

theorem StoresOnly.refl (s : State) : StoresOnly s s := rfl

theorem StoresOnly.trans {s t u : State} (h : StoresOnly s t) (k : StoresOnly t u) : StoresOnly s u := by
  unfold StoresOnly at h k ⊢
  rw [k, h]

theorem StoresOnly.foldl {α : Type} {s t : State} {f : State → α → State} {l : List α} (each : ∀ u x, StoresOnly u (f u x)) (h : StoresOnly s t) :
    StoresOnly s (l.foldl f t) := by
  induction l generalizing t with
  | nil => exact h
  | cons x l ih => exact ih (h.trans (each _ _))

theorem FlushOnly.storesOnly {s t : State} (h : FlushOnly s t) : StoresOnly s t := by
  unfold FlushOnly at h
  unfold StoresOnly
  rw [h]

theorem StoresOnly.twinState {s t : State} (h : StoresOnly s t) : t.twin.state = s.twin.state := by rw [h]

theorem readFirst_storesOnly (s : State) (b : Nat) : StoresOnly s (s.readFirst b) := by
  unfold State.readFirst
  dsimp only
  split
  · rfl
  · split <;> rfl

theorem beforeWrite_storesOnly {s : State} (calm : s.twin.state ≠ .filling) (a len : Nat) : StoresOnly s (s.beforeWrite a len) := by
  have read : StoresOnly s (if s.twin.wp.running then (mibsOf a len).foldl State.readFirst s else s) := by
    split
    · exact StoresOnly.foldl readFirst_storesOnly (StoresOnly.refl s)
    · exact StoresOnly.refl s
  unfold State.beforeWrite
  dsimp only
  rw [if_neg (by rw [read.twinState]; exact calm)]
  exact read

theorem storeBytes_storesOnly {s : State} (calm : s.twin.state ≠ .filling) (a : Nat) (bs : Bytes) : StoresOnly s (s.storeBytes a bs) := by
  have poked := (((beforeWrite_storesOnly calm a bs.length).trans (recomputeFirst_flushOnly _ a bs.length).storesOnly).trans
    (clearCovered_flushOnly _ a bs.length).storesOnly).trans
    ((dirtyTracks_flushOnly _ a bs.length).storesOnly.trans (pokeBytes_flushOnly _ a bs).storesOnly)
  unfold State.storeBytes State.forwardWrite
  dsimp only
  rw [if_pos (by rw [poked.twinState]; exact calm)]
  exact poked.trans (withMem_flushOnly _ _).storesOnly

theorem calm_of_alone {s : State} (alone : s.twinned = false) : s.twin.state ≠ .filling := by
  intro filling
  rw [State.twinned, filling] at alone
  cases alone

/-! ### A write that no tracked range sees -/

theorem foldl_fixed {α β : Type} {f : β → α → β} {b : β} {l : List α} (fixed : ∀ x ∈ l, f b x = b) : l.foldl f b = b := by
  induction l with
  | nil => rfl
  | cons x l ih => rw [List.foldl_cons, fixed x List.mem_cons_self, ih (fun y there => fixed y (List.mem_cons_of_mem _ there))]

theorem dirtyTracks_untracked {s : State} {a len : Nat} (untracked : ∀ e ∈ s.tracks, overlaps a len e.2.upper e.2.length = false) :
    s.dirtyTracks a len = s :=
  foldl_fixed (fun e listed => by rw [untracked e listed, Bool.and_false]; rfl)

/-- A range inside one that overlaps nothing overlaps nothing. -/
theorem overlaps_inside {a la x lx b lb : Nat} (low : a ≤ x) (high : x + lx ≤ a + la) (apart : overlaps a la b lb = false) : overlaps x lx b lb = false := by
  simp only [overlaps, Bool.and_eq_false_iff, decide_eq_false_iff_not] at apart ⊢
  omega

/-- A byte of Ivory or Slate outside a store that no tracked range sees stays. -/
theorem rawByte_storeBytes_untracked {s : State} (wf : s.mem.wf = true) {a : Nat} {bs : Bytes}
    (untracked : ∀ e ∈ s.tracks, overlaps a bs.length e.2.upper e.2.length = false) {x : Nat}
    (plain : x < umberBase ∨ (slateBase ≤ x ∧ x < 2 ^ 48)) (outside : x < a ∨ a + bs.length ≤ x) : (s.storeBytes a bs).rawByte x = s.rawByte x := by
  have below : umberBase ≤ 2 ^ 48 := by decide
  have cleared : Frame (fun x => a ≤ x ∧ x < a + bs.length) s (((s.beforeWrite a bs.length).recomputeFirst a bs.length).clearCovered a bs.length) :=
    (((Frame.refl s).beforeWrite _ _).recomputeFirst _ _).clearCovered _ _
  have opened := (openAt_of_ranges (opensNone_storeBytes s a bs).ranges x).trans (Mem.openAt_closeBytes s.mem outside)
  have cell : (s.storeBytes a bs).mem.cell x = s.mem.cell x := by
    unfold State.storeBytes
    dsimp only
    rw [dirtyTracks_untracked (by rw [cleared.same.tracks]; exact untracked), State.forwardWrite_mem]
    exact (Mem.cell_closeBytes _ _ _ _).trans
      (((cleared.pokeBytes a bs (fun y low high _ => ⟨low, high⟩)).byte wf).2 x (by omega) (by omega)).1
  rw [State.rawByte_plain _ (by omega), State.rawByte_plain _ (by omega), cell, opened]

theorem rawBytes_congr {s t : State} {a n : Nat} (same : ∀ i, i < n → t.rawByte (a + i) = s.rawByte (a + i)) : t.rawBytes a n = s.rawBytes a n :=
  List.map_congr_left (fun i there => same i (List.mem_range.mp there))

/-! ### The journal's area (R353) -/

theorem slateBase_le_of_tier {s : State} {a : Nat} (slate : s.tierOf a = some .slate) : slateBase ≤ a := by
  unfold State.tierOf at slate
  split at slate
  · split at slate <;> cases slate
  · split at slate
    · cases slate
    · split at slate
      · rename_i inSlate
        simp only [Bool.and_eq_true, decide_eq_true_eq] at inSlate
        exact inSlate.1
      · cases slate

/-- A journal with record slots lies in Slate, and its slots lie behind the two headers. -/
theorem journal_place {s : State} (slots : 0 < s.journalSlots) (r : Nat) :
    slateBase ≤ s.per.journalBase * 4096 ∧ s.per.journalBase * 4096 + 8192 ≤ s.recordAddr r ∧
      s.recordAddr r + 128 ≤ s.per.journalBase * 4096 + s.journalSize := by
  have inside : r % s.journalSlots < (s.journalSize - 8192) / 128 := Nat.mod_lt _ slots
  have sized : 0 < s.journalSize := by
    refine Nat.pos_of_ne_zero (fun none => ?_)
    rw [State.journalSlots, none] at slots
    exact absurd slots (by decide)
  have slate : s.tierOf (s.per.journalBase * 4096) = some .slate := by
    unfold State.journalSize at sized
    split at sized
    · rename_i configured
      exact configured.2.2.1
    · exact absurd sized (by decide)
  refine ⟨slateBase_le_of_tier slate, ?_, ?_⟩ <;> unfold State.recordAddr
  · omega
  · omega

theorem recordBytesOf_length {body : Bytes} (fits : body.length ≤ 64) (k : RecKind) (q seq r head : Nat) :
    (recordBytesOf k q seq r body head).length = 128 := by
  simp only [recordBytesOf, withCrc, List.length_append, natBytes_length]
  omega

theorem headerBytes_length (owner base w t : Nat) : (headerBytes owner base w t).length = 4096 := by
  simp [headerBytes, withCrc, natBytes_length]

/-! ### A record is written (R353, R406) -/

/-- `t` differs from `s` as a journal record of a member without a partner makes it differ: as a write does, in the journal engine and in queues. -/
def JournalsOnly (s t : State) : Prop :=
  t = { s with mem := t.mem, pages := t.pages, twin := { s.twin with wp := t.twin.wp }, jnl := t.jnl, queues := t.queues }

theorem StoresOnly.journalsOnly {s t : State} (h : StoresOnly s t) : JournalsOnly s t := by
  unfold StoresOnly at h
  unfold JournalsOnly
  rw [h]

theorem JournalsOnly.trans {s t u : State} (h : JournalsOnly s t) (k : JournalsOnly t u) : JournalsOnly s u := by
  unfold JournalsOnly at h k ⊢
  rw [k, h]

theorem JournalsOnly.twinned {s t : State} (h : JournalsOnly s t) : t.twinned = s.twinned := by rw [h]; rfl

/-- The entry that the journal engine keeps of a record. -/
def State.liveRec (s : State) (k : RecKind) (q seq : Nat) (body : Bytes) (head : Nat) (st : Status) : LiveRec :=
  { recno := s.jnl.writeRec, kind := k, q := q, seq := seq, record := if k = .complete then body else [], status := st, head := head }

/-- The journal engine once a record is listed and the dead ones are freed from the oldest on. -/
def State.listed (s : State) (l : LiveRec) : State :=
  let t : State := State.headJournaled { s with jnl := { s.jnl with writeRec := s.jnl.writeRec + 1, live := s.jnl.live ++ [l] } } l
  let live := t.jnl.live.filter t.recLive
  { t with jnl := { t.jnl with live := live, trimRec := ({ t.jnl with live := live } : Journal).oldest } }

theorem freeRecords_alone {s : State} (alone : s.twinned = false) : s.freeRecords =
    { s with jnl := { s.jnl with live := s.jnl.live.filter s.recLive, trimRec := ({ s.jnl with live := s.jnl.live.filter s.recLive } : Journal).oldest } } := by
  unfold State.freeRecords
  dsimp only
  split
  · rfl
  · exact mirror_alone (by exact alone) _ _ _ _

theorem writeHeader_jnl (s : State) : s.writeHeader.jnl = { s.jnl with nextCopy := 1 - s.jnl.nextCopy } := by
  have same := (storeBytes_sameElse s (s.per.journalBase * 4096 + 4096 * s.jnl.nextCopy)
    (headerBytes s.boot.ownerId s.per.journalReg s.jnl.writeRec s.jnl.trimRec)).rests.jnl
  unfold State.writeHeader
  dsimp only
  rw [same]

theorem writeHeader_queues (s : State) : s.writeHeader.queues = s.queues := by
  have same := (storeBytes_sameElse s (s.per.journalBase * 4096 + 4096 * s.jnl.nextCopy)
    (headerBytes s.boot.ownerId s.per.journalReg s.jnl.writeRec s.jnl.trimRec)).rests.queues
  unfold State.writeHeader
  dsimp only
  exact same

theorem JournalsOnly.setJnl {s t : State} (h : JournalsOnly s t) (j : Journal) : JournalsOnly s { t with jnl := j } := h.trans rfl

theorem writeHeader_journalsOnly {s : State} (calm : s.twin.state ≠ .filling) : JournalsOnly s s.writeHeader := by
  unfold State.writeHeader
  exact (storeBytes_storesOnly calm _ _).journalsOnly.setJnl _

theorem headJournaled_journalsOnly (s : State) (l : LiveRec) : JournalsOnly s (s.headJournaled l) := by
  unfold State.headJournaled
  split <;> rfl

theorem headJournaled_jnl (s : State) (l : LiveRec) : (s.headJournaled l).jnl = s.jnl := by
  unfold State.headJournaled
  split <;> rfl

theorem headJournaled_mem (s : State) (l : LiveRec) : (s.headJournaled l).mem = s.mem := by
  unfold State.headJournaled
  split <;> rfl

theorem listed_journalsOnly (s : State) (l : LiveRec) : JournalsOnly s (s.listed l) := by
  have begun : JournalsOnly s { s with jnl := { s.jnl with writeRec := s.jnl.writeRec + 1, live := s.jnl.live ++ [l] } } := rfl
  exact (begun.trans (headJournaled_journalsOnly _ l)).setJnl _

theorem listed_mem (s : State) (l : LiveRec) : (s.listed l).mem = s.mem := headJournaled_mem _ l

theorem listed_jnl (s : State) (l : LiveRec) : ∃ live trim, (s.listed l).jnl = { s.jnl with writeRec := s.jnl.writeRec + 1, live := live, trimRec := trim } := by
  refine ⟨(s.listed l).jnl.live, (s.listed l).jnl.trimRec, ?_⟩
  unfold State.listed
  dsimp only
  rw [headJournaled_jnl]

theorem listed_queues (s : State) (l : LiveRec) : (s.listed l).queues =
    if l.kind = .context ∨ l.kind = .consumed then tabSet {} s.queues l.q { s.queue l.q with jnlHead := l.head } else s.queues := by
  unfold State.listed State.headJournaled
  dsimp only
  split <;> rfl

section
variable {s : State}

/-- A record of a member without a partner: its bytes are stored, it is listed, and the header follows. -/
theorem appendRec_alone (alone : s.twinned = false) (k : RecKind) (q seq : Nat) (body : Bytes) (head : Nat) (st : Status) :
    s.appendRec k q seq body head st =
      ((s.storeBytes (s.recordAddr s.jnl.writeRec) (recordBytesOf k q seq s.jnl.writeRec body head)).listed (s.liveRec k q seq body head st)).writeHeader := by
  have stored := storeBytes_storesOnly (calm_of_alone alone) (s.recordAddr s.jnl.writeRec) (recordBytesOf k q seq s.jnl.writeRec body head)
  have jnl := (storeBytes_sameElse s (s.recordAddr s.jnl.writeRec) (recordBytesOf k q seq s.jnl.writeRec body head)).rests.jnl
  unfold State.appendRec
  dsimp only
  generalize s.storeBytes (s.recordAddr s.jnl.writeRec) (recordBytesOf k q seq s.jnl.writeRec body head) = u at stored jnl ⊢
  have same : u.twinned = false := by rw [stored.journalsOnly.twinned, alone]
  rw [if_neg (by rw [Bool.not_eq_true]; exact same), freeRecords_alone]
  · unfold State.listed
    rw [jnl]
    rfl
  · rw [(headJournaled_journalsOnly _ _).twinned]
    exact same

theorem appendRec_journalsOnly (alone : s.twinned = false) (k : RecKind) (q seq : Nat) (body : Bytes) (head : Nat) (st : Status) :
    JournalsOnly s (s.appendRec k q seq body head st) := by
  rw [appendRec_alone alone]
  have stored := storeBytes_storesOnly (calm_of_alone alone) (s.recordAddr s.jnl.writeRec) (recordBytesOf k q seq s.jnl.writeRec body head)
  have marked := stored.journalsOnly.trans (listed_journalsOnly _ (s.liveRec k q seq body head st))
  exact marked.trans (writeHeader_journalsOnly (calm_of_alone (by rw [marked.twinned, alone])))

theorem appendRec_jnl (alone : s.twinned = false) (k : RecKind) (q seq : Nat) (body : Bytes) (head : Nat) (st : Status) :
    ∃ live trim copy, (s.appendRec k q seq body head st).jnl =
      { s.jnl with writeRec := s.jnl.writeRec + 1, live := live, trimRec := trim, nextCopy := copy } := by
  rw [appendRec_alone alone, writeHeader_jnl]
  obtain ⟨live, trim, marked⟩ := listed_jnl (s.storeBytes (s.recordAddr s.jnl.writeRec) (recordBytesOf k q seq s.jnl.writeRec body head))
    (s.liveRec k q seq body head st)
  rw [marked, (storeBytes_sameElse s _ _).rests.jnl]
  exact ⟨live, trim, _, rfl⟩

theorem appendRec_queues (alone : s.twinned = false) (k : RecKind) (q seq : Nat) (body : Bytes) (head : Nat) (st : Status) :
    (s.appendRec k q seq body head st).queues =
      if k = .context ∨ k = .consumed then tabSet {} s.queues q { s.queue q with jnlHead := head } else s.queues := by
  rw [appendRec_alone alone, writeHeader_queues, listed_queues]
  unfold State.queue
  rw [(storeBytes_sameElse s _ _).rests.queues]
  rfl

/-- A header's copy leaves what lies behind both headers, where no tracked range covers the journal. -/
theorem writeHeader_rawByte (copy : s.jnl.nextCopy ≤ 1) (wf : s.mem.wf = true) (sized : 8192 ≤ s.journalSize)
    (untracked : ∀ e ∈ s.tracks, overlaps (s.per.journalBase * 4096) s.journalSize e.2.upper e.2.length = false) {x : Nat}
    (slate : slateBase ≤ x) (top : x < 2 ^ 48) (behind : s.per.journalBase * 4096 + 8192 ≤ x) : s.writeHeader.rawByte x = s.rawByte x := by
  have length := headerBytes_length s.boot.ownerId s.per.journalReg s.jnl.writeRec s.jnl.trimRec
  unfold State.writeHeader
  dsimp only
  generalize headerBytes s.boot.ownerId s.per.journalReg s.jnl.writeRec s.jnl.trimRec = bytes at length
  generalize s.per.journalBase * 4096 = base at untracked behind ⊢
  generalize s.journalSize = size at untracked sized
  generalize s.jnl.nextCopy = half at copy ⊢
  generalize placed : base + 4096 * half = place
  have low : base ≤ place := by omega
  have high : place + bytes.length ≤ base + size := by omega
  have outside : place + bytes.length ≤ x := by omega
  have stored : (s.storeBytes place bytes).rawByte x = s.rawByte x :=
    rawByte_storeBytes_untracked wf (fun e there => overlaps_inside low high (untracked e there)) (.inr ⟨slate, top⟩) (.inr outside)
  rw [← stored]
  rfl

/-- The record's slot holds the record: the header copy that follows it lies before the slots, and no tracked range sees either. -/
theorem appendRec_bytes (alone : s.twinned = false) (slots : 0 < s.journalSlots) (copy : s.jnl.nextCopy ≤ 1) (wf : s.mem.wf = true)
    (top : s.per.journalBase * 4096 + s.journalSize ≤ 2 ^ 48)
    (untracked : ∀ e ∈ s.tracks, overlaps (s.per.journalBase * 4096) s.journalSize e.2.upper e.2.length = false)
    (k : RecKind) (q seq : Nat) {body : Bytes} (fits : body.length ≤ 64) (head : Nat) (st : Status) :
    (s.appendRec k q seq body head st).rawBytes (s.recordAddr s.jnl.writeRec) 128 = recordBytesOf k q seq s.jnl.writeRec body head := by
  obtain ⟨low, first, last⟩ := journal_place slots s.jnl.writeRec
  have length := recordBytesOf_length fits k q seq s.jnl.writeRec head
  rw [appendRec_alone alone]
  generalize s.liveRec k q seq body head st = entry
  generalize recordBytesOf k q seq s.jnl.writeRec body head = record at length
  have stored : (s.storeBytes (s.recordAddr s.jnl.writeRec) record).rawBytes (s.recordAddr s.jnl.writeRec) 128 = record := by
    rw [← length]
    exact State.rawBytes_storeBytes s wf _ _ (.inr ⟨by omega, by omega⟩)
  have frame := storeBytes_storesOnly (calm_of_alone alone) (s.recordAddr s.jnl.writeRec) record
  have jnlKept := (storeBytes_sameElse s (s.recordAddr s.jnl.writeRec) record).rests.jnl
  have wfKept := (State.storeBytes_keeps s (s.recordAddr s.jnl.writeRec) record (Keeps.refl s)).wf wf
  generalize s.storeBytes (s.recordAddr s.jnl.writeRec) record = u at stored frame jnlKept wfKept ⊢
  obtain ⟨live, trim, jnl⟩ := listed_jnl u entry
  have marked := frame.journalsOnly.trans (listed_journalsOnly u entry)
  have mem := listed_mem u entry
  generalize u.listed entry = v at jnl marked mem ⊢
  have samePer : v.per = s.per := by rw [marked]
  have sameSize : v.journalSize = s.journalSize := by rw [marked]; rfl
  refine Eq.trans (rawBytes_congr (s := u) (fun i inside => ?_)) stored
  have header : v.writeHeader.rawByte (s.recordAddr s.jnl.writeRec + i) = v.rawByte (s.recordAddr s.jnl.writeRec + i) := by
    refine writeHeader_rawByte ?_ ?_ ?_ ?_ ?_ ?_ ?_
    · rw [jnl, jnlKept]; exact copy
    · rw [mem]; exact wfKept
    · rw [sameSize]; omega
    · rw [samePer, sameSize, show v.tracks = s.tracks by rw [marked]]; exact untracked
    · omega
    · omega
    · rw [samePer]; omega
  rw [header, State.rawByte_plain _ (by omega), State.rawByte_plain _ (by omega), mem]

end

/-! ### When a queue settles (R340, R365, R366) -/

theorem settleQueue_serving {s : State} {q : Nat} (aborting : (s.queue q).state ≠ .aborting) (draining : (s.queue q).state ≠ .draining) :
    s.settleQueue q = s :=
  if_neg (fun leaves => leaves.elim (fun h => aborting h.1) (fun h => draining h.1))

theorem settleQueue_busy {s : State} {q : Nat} (busy : (s.queue q).doneSeq + 1 ≠ (s.queue q).nextSeq) : s.settleQueue q = s := by
  have unfinished : ((s.queue q).doneSeq + 1 == (s.queue q).nextSeq && !s.cmds.any (fun c => c.q == q)) = false := by simp [busy]
  unfold State.settleQueue
  dsimp only
  rw [unfinished]
  exact if_neg (by simp)

theorem settleQueue_listed {s : State} {q : Nat} {c : Cmd} (there : c ∈ s.cmds) (own : c.q = q) : s.settleQueue q = s := by
  have unfinished : ((s.queue q).doneSeq + 1 == (s.queue q).nextSeq && !s.cmds.any (fun c => c.q == q)) = false := by
    rw [List.any_eq_true.mpr ⟨c, there, by simpa using own⟩]
    exact Bool.and_false _
  unfold State.settleQueue
  dsimp only
  rw [unfinished]
  exact if_neg (by simp)

end Sys2Proof.Machine

end

section
/-! PROOFS. What acceptance and the CONSUMED record do to a queue of a member without a partner (R345, R349, R353 to R355). -/

open Sys2Proof Sys2Proof.Machine

namespace Sys2Proof.Machine

/-! ### CQ_HEAD goes into the journal (R355) -/

theorem payOwed_none {s : State} (none : s.jnl.owed = []) : s.payOwed = s := by
  unfold State.payOwed
  rw [none]
  rfl

theorem exec_consumedRecordWrite {s : State} {q : Nat} (alive : s.alive = true) (due : s.jnl.consume.contains q = true)
    (opened : s.journalOpen = true) (live : s.jnl.state = .live ∨ s.jnl.state = .replaying) (room : s.roomFor 1 = true)
    (alone : s.twinned = false) (none : s.jnl.owed = []) :
    exec (.consumedRecordWrite q) s = .next (State.appendRec { s with jnl := { s.jnl with consume := s.jnl.consume.filter (· != q) } }
      .consumed q (s.queue q).cqHead [] (s.queue q).cqHead .ok) := by
  have begun : (s.alive && s.jnl.consume.contains q && s.journalOpen && (s.jnl.state == .live || s.jnl.state == .replaying) && s.roomFor 1) = true := by
    rw [alive, due, opened, room, Bool.true_and, Bool.true_and, Bool.true_and, Bool.and_true]
    simpa using live
  obtain ⟨_, _, _, jnl⟩ := appendRec_jnl (s := { s with jnl := { s.jnl with consume := s.jnl.consume.filter (· != q) } }) alone
    .consumed q (s.queue q).cqHead [] (s.queue q).cqHead .ok
  exact congrArg Host.Outcome.next ((if_pos begun).trans (payOwed_none (by rw [jnl]; exact none)))

/-! ### A descriptor becomes a command in flight (R345, R349) -/

section
variable {s : State} {q n : Nat} {c : Cmd}

theorem cmd?_eq_none_iff : s.cmd? q n = none ↔ ∀ d ∈ s.cmds, ¬(d.q = q ∧ d.n = n) := by
  simp [State.cmd?]

/-- A write to the command listed last, the only one with its key, replaces it there. -/
theorem putCmd_last {cs : List Cmd} (cmds : s.cmds = cs ++ [c]) {d : Cmd} (queue : d.q = c.q) (number : d.n = c.n)
    (fresh : ∀ e ∈ cs, ¬(e.q = c.q ∧ e.n = c.n)) : s.putCmd d = { s with cmds := cs ++ [d] } := by
  have others : cs.map (fun e => if e.q = c.q ∧ e.n = c.n then d else e) = cs :=
    (List.map_congr_left (fun e there => if_neg (fresh e there))).trans (List.map_id cs)
  unfold State.putCmd
  rw [cmds, List.map_append, queue, number, others, List.map_cons, List.map_nil, if_pos ⟨rfl, rfl⟩]

/-- The queue once its command `n` is accepted (R349). -/
def QueueCtx.accepted (x : QueueCtx) (n : Nat) (step : Option Nat) : QueueCtx := { x with nextSeq := n + 1, lastStep := step.getD x.lastStep % 2 ^ 32 }

/-- Step 3 of R349 of a command just listed, on a queue that does not abort: NEXT_SEQ rises, LAST_STEP follows the step read, and the queue may park. -/
theorem finishAccept_listed {cs : List Cmd} (cmds : s.cmds = cs ++ [c]) (fresh : ∀ d ∈ cs, ¬(d.q = c.q ∧ d.n = c.n))
    (serving : (s.queue c.q).state ≠ .aborting) : s.finishAccept c.q c.n =
      (((State.count { s.putQueue c.q ((s.queue c.q).accepted c.n c.step) with cmds := cs ++ [{ c with mirrored := true }] } pgService 0x1001 1).settlePark
        c.q).settleQueue c.q) := by
  have found : s.cmd? c.q c.n = some c := by
    unfold State.cmd?
    rw [cmds, List.find?_append, List.find?_eq_none.mpr (fun d there => by simpa using fresh d there)]
    simp
  unfold State.finishAccept
  rw [found]
  dsimp only
  rw [if_neg serving]
  exact congrArg (fun t => ((State.count t pgService 0x1001 1).settlePark c.q).settleQueue c.q)
    (putCmd_last (s := s.putQueue c.q ((s.queue c.q).accepted c.n c.step)) cmds rfl rfl fresh)

theorem makeRoom_fits {k : Nat} (fits : s.roomFor k = true) (fuel : Nat) : s.makeRoom k fuel = s := by
  cases fuel with
  | zero => rfl
  | succ fuel => exact if_pos fits

/-- A ready descriptor has become the command `d`, listed, and its queue is raised; the queue may yet park (R349). -/
def State.acceptedAs (s : State) (r : Ready) (d : Cmd) : State :=
  State.count { s.putQueue d.q ((s.queue d.q).accepted d.n d.step) with ready := s.ready.erase r, cmds := s.cmds ++ [{ d with mirrored := true }] } pgService
    0x1001 1

theorem settlePark_frame (s : State) (q : Nat) :
    s.settlePark q = { s with queues := (s.settlePark q).queues, pages := (s.settlePark q).pages } := by
  unfold State.settlePark
  dsimp only
  split <;> rfl

theorem settlePark_cmds (s : State) (q : Nat) : (s.settlePark q).cmds = s.cmds := by
  unfold State.settlePark
  dsimp only
  split <;> rfl

theorem finishAccept_accepted {r : Ready} (fresh : ∀ e ∈ s.cmds, ¬(e.q = c.q ∧ e.n = c.n)) (serving : (s.queue c.q).state ≠ .aborting) :
    (s.withAccepted r c).finishAccept c.q c.n = (s.acceptedAs r c).settlePark c.q := by
  have listed : { c with mirrored := true } ∈ ((s.acceptedAs r c).settlePark c.q).cmds := by
    rw [settlePark_cmds]
    exact List.mem_append_right _ List.mem_cons_self
  exact (finishAccept_listed (s := s.withAccepted r c) rfl fresh serving).trans (settleQueue_listed listed rfl)

theorem exec_commandAccept {r : Ready} (alive : s.alive = true) (accepts : s.accepts q = true)
    (next : s.ready.find? (fun r => r.q == q) = some r) (number : r.n = (s.queue q).nextSeq) (room : s.roomFor s.roomNeeded = true)
    (alone : s.twinned = false) (fresh : s.cmd? q r.n = none) :
    exec (.commandAccept q) s = .next (((s.appendRec .accept q r.n r.desc 0 .ok).acceptedAs r (s.newCmd q r)).settlePark q) := by
  have frame := appendRec_journalsOnly alone .accept q r.n r.desc 0 .ok
  have queues := appendRec_queues alone .accept q r.n r.desc 0 .ok
  have serving : (s.queue q).state ≠ .aborting := by
    intro aborting
    rw [State.accepts, aborting] at accepts
    cases accepts
  refine congrArg Host.Outcome.next ?_
  unfold commandAccept
  rw [if_neg (by rw [alive, accepts]; decide), next]
  dsimp only
  rw [if_neg (by simpa using number), makeRoom_fits room, if_neg (by rw [room]; decide)]
  generalize s.appendRec .accept q r.n r.desc 0 .ok = t at frame queues ⊢
  have same : (t.withAccepted r (s.newCmd q r)).twinned = false := frame.twinned.trans alone
  rw [if_neg (by rw [same]; decide)]
  refine finishAccept_accepted (c := s.newCmd q r) ?_ ?_
  · rw [frame]
    exact cmd?_eq_none_iff.mp fresh
  · unfold State.queue at serving ⊢
    rw [queues]
    exact serving

/-- A queue that is not at the end of its re-fetches stays. -/
theorem settlePark_stays {s : State} {q : Nat} (early : (s.queue q).stale = false ∨ (s.queue q).tries < 8 ∨ (s.queue q).state = .draining) :
    s.settlePark q = s := by
  refine if_neg ?_
  rintro ⟨active, stale, many, -⟩
  rcases early with fresh | few | draining
  · rw [fresh] at stale; cases stale
  · omega
  · rw [draining] at active; cases active

/-- An ACTIVE queue at the end of its re-fetches, all of whose earlier descriptors are accepted, parks (R345). -/
theorem settlePark_parks {s : State} {q : Nat} (active : (s.queue q).state = .active) (stale : (s.queue q).stale = true) (many : 8 ≤ (s.queue q).tries)
    (fetches : ∀ f ∈ s.fetches, f.q ≠ q) (ready : ∀ r ∈ s.ready, r.q ≠ q) (cmds : ∀ c ∈ s.cmds, c.q = q → c.n < (s.queue q).nextSeq) :
    s.settlePark q = (s.putQueue q { s.queue q with state := .parkedStale }).count pgPerast 0x1402 1 :=
  if_pos ⟨active, stale, many, nextFetch_accepted (List.filter_eq_nil_iff.mpr (fun f there => by simpa using fetches f there)) ready cmds⟩

end

end Sys2Proof.Machine

/-- Settles O16: with nothing owed the CONSUMED record is the whole step, and its listing sets the journaled CQ_HEAD. -/
theorem consumedRecordWritten : Obligations.ConsumedRecordWritten := by
  unfold Obligations.ConsumedRecordWritten
  intro s q alive due opened live room alone none _ _ _ _
  have frame := appendRec_journalsOnly (s := { s with jnl := { s.jnl with consume := s.jnl.consume.filter (· != q) } }) alone
    .consumed q (s.queue q).cqHead [] (s.queue q).cqHead .ok
  have queues := appendRec_queues (s := { s with jnl := { s.jnl with consume := s.jnl.consume.filter (· != q) } }) alone
    .consumed q (s.queue q).cqHead [] (s.queue q).cqHead .ok
  obtain ⟨_, _, _, jnl⟩ := appendRec_jnl (s := { s with jnl := { s.jnl with consume := s.jnl.consume.filter (· != q) } }) alone
    .consumed q (s.queue q).cqHead [] (s.queue q).cqHead .ok
  refine ⟨_, exec_consumedRecordWrite alive due opened live room alone none, ?_⟩
  generalize State.appendRec _ _ _ _ _ _ _ = t at frame queues jnl ⊢
  refine ⟨by rw [jnl], by rw [jnl], queues, ?_⟩
  rw [frame]
  exact ⟨rfl, rfl, rfl, rfl, rfl, rfl, rfl, rfl, rfl, rfl, rfl, rfl, rfl⟩

/-- Settles O11: the ACCEPT record is the whole write; the command is listed last, NEXT_SEQ rises, and only the end of the re-fetches parks the queue. -/
theorem commandAccepted : Obligations.CommandAccepted := by
  unfold Obligations.CommandAccepted
  intro s q r c x y alive accepts next xIs number full room alone fresh copy wf top untracked cIs yIs
  subst xIs
  have slots : 0 < s.journalSlots := by
    simp only [State.accepts, State.journalOpen, Bool.and_eq_true, decide_eq_true_eq] at accepts
    omega
  have bytes := appendRec_bytes alone slots copy wf top untracked .accept q r.n (Nat.le_of_eq full) 0 .ok
  have frame := appendRec_journalsOnly alone .accept q r.n r.desc 0 .ok
  have queues := appendRec_queues alone .accept q r.n r.desc 0 .ok
  rw [if_neg (by simp)] at queues
  obtain ⟨_, _, _, jnl⟩ := appendRec_jnl alone .accept q r.n r.desc 0 .ok
  have step : s.stepOf c = (s.newCmd q r).step := by rw [cIs]; rfl
  have listed : ({ s.newCmd q r with mirrored := true } : Cmd) = { c with step := s.stepOf c } := by rw [step, cIs]; rfl
  refine ⟨_, exec_commandAccept alive accepts next number room alone fresh, ?_⟩
  generalize s.appendRec .accept q r.n r.desc 0 .ok = t at bytes frame queues jnl ⊢
  have kept : t.queue q = s.queue q := by unfold State.queue; rw [queues]
  have raised : (t.acceptedAs r (s.newCmd q r)).queues = tabSet {} s.queues q y := by
    rw [yIs, step, ← queues, ← kept]
    rfl
  have found : (t.acceptedAs r (s.newCmd q r)).queue q = y := by
    unfold State.queue
    rw [raised]
    exact tabGet_tabSet_same q y
  have cmds : (t.acceptedAs r (s.newCmd q r)).cmds = s.cmds ++ [{ c with step := s.stepOf c }] := by
    rw [← listed, show s.cmds = t.cmds by rw [frame]]
    rfl
  have ready : (t.acceptedAs r (s.newCmd q r)).ready = s.ready.erase r := by rw [show s.ready = t.ready by rw [frame]]; rfl
  have fetches : (t.acceptedAs r (s.newCmd q r)).fetches = s.fetches := by rw [show s.fetches = t.fetches by rw [frame]]; rfl
  refine ⟨(settlePark_cmds _ q).trans cmds, ?_, fun early => ?_, fun stale many active noFetch noReady earlier => ?_, ?_⟩
  · rw [settlePark_frame]
    exact ready
  · rw [settlePark_stays (by rw [found, yIs]; exact early)]
    exact raised
  · rw [settlePark_parks (by rw [found, yIs]; exact active) (by rw [found, yIs]; exact stale) (by rw [found, yIs]; exact many)
      (by rw [fetches]; exact noFetch) (by rw [ready]; exact noReady)]
    · refine (congrArg (fun u => tabSet {} u q _) raised).trans ?_
      rw [found]
      refine tabSet_tabSet (fun same => ?_) _ _ _
      rw [yIs] at same
      have fresh : (s.queue q).stale = false := congrArg QueueCtx.stale same
      rw [stale] at fresh
      cases fresh
    · rw [cmds, found, yIs]
      intro d there own
      rcases List.mem_append.mp there with old | new
      · exact Nat.lt_succ_of_le (earlier d old own)
      · rw [List.mem_singleton.mp new, cIs]
        exact Nat.lt_succ_self _
  · rw [settlePark_frame]
    refine ⟨by rw [show s.jnl.writeRec + 1 = t.jnl.writeRec by rw [jnl]]; rfl, bytes, ?_⟩
    rw [frame]
    exact ⟨rfl, rfl, rfl, rfl, rfl, rfl, rfl, rfl, rfl, rfl, rfl⟩

end

section
/-! PROOFS. QCMD and QCTX_DATA on the queue that their path selects (R338 to R340, R365, R366, R487). -/

open Sys2Proof Sys2Proof.Machine

namespace Sys2Proof.Machine

section
variable {s : State} {path : Path} {q : Nat}

theorem answers_of_alive (alive : s.alive = true) : s.answers = true := by
  simp only [State.alive, Bool.and_eq_true, decide_eq_true_eq] at alive
  obtain ⟨⟨power, -⟩, stage⟩ := alive
  simp [State.answers, power, stage]

/-! ### ENABLE (R339) -/

/-- The context of a queue just enabled. -/
def QueueCtx.enabled (x : QueueCtx) : QueueCtx :=
  { x with state := .active, tailSeq := x.nextSeq - 1, doneSeq := x.nextSeq - 1, cqHead := x.nextSeq - 1, jnlHead := x.nextSeq - 1,
           firstSeq := x.nextSeq, stale := false, tries := 0 }

theorem exec_queueEnable (own : s.per.selQueue path = q) (alive : s.alive = true) (enables : s.enables (s.queue q) = true) (fits : s.contextFits = true) :
    exec (.queueEnable path) s = .next ((s.putQueue q (s.queue q).enabled).appendContext q) := by
  refine congrArg Host.Outcome.next ?_
  unfold queueEnable
  dsimp only
  rw [own, if_neg (by rw [answers_of_alive alive]; decide), if_neg (by rw [alive, enables]; decide)]
  exact if_pos fits

theorem exec_queueEnable_bad (own : s.per.selQueue path = q) (alive : s.alive = true) (on : (s.queue q).state ≠ .disabled) :
    exec (.queueEnable path) s = .next (s.badWrite pgPerast 0x138) := by
  have refused : s.enables (s.queue q) = false := by simp [State.enables, on]
  refine congrArg Host.Outcome.next ?_
  unfold queueEnable
  dsimp only
  rw [own, if_neg (by rw [answers_of_alive alive]; decide), if_pos (by rw [refused]; simp)]
  rfl

/-- The CONTEXT record of a queue just enabled leaves its context as it is: CQ_HEAD is in the journal at once. -/
theorem appendContext_enabled (alone : s.twinned = false) (x : QueueCtx) :
    ((s.putQueue q x.enabled).appendContext q).queues = tabSet {} s.queues q x.enabled := by
  have on : x.enabled ≠ {} := fun same => by cases congrArg QueueCtx.state same
  unfold State.appendContext
  rw [appendRec_queues (by exact alone), if_pos (.inl rfl), State.queue_putQueue]
  exact tabSet_tabSet on _ _ _

/-! ### DISABLE (R365) -/

theorem exec_queueDisable (own : s.per.selQueue path = q) (alive : s.alive = true) (active : (s.queue q).state = .active)
    (fresh : (s.queue q).stale = false) (busy : (s.queue q).doneSeq + 1 ≠ (s.queue q).nextSeq) :
    exec (.queueDisable path) s = .next (s.putQueue q { s.queue q with state := .draining, drainTail := (s.queue q).tailSeq }) := by
  refine congrArg Host.Outcome.next ?_
  unfold queueDisable
  dsimp only
  rw [own, if_neg (by rw [answers_of_alive alive]; decide), if_pos (by rw [alive, active]; decide), settleQueue_busy (by rw [State.queue_putQueue]; exact busy)]
  rw [fresh]
  rfl

theorem exec_queueDisable_bad (own : s.per.selQueue path = q) (alive : s.alive = true) (active : (s.queue q).state ≠ .active)
    (parked : (s.queue q).state ≠ .parkedStale) : exec (.queueDisable path) s = .next (s.badWrite pgPerast 0x138) := by
  refine congrArg Host.Outcome.next ?_
  unfold queueDisable
  dsimp only
  rw [own, if_neg (by rw [answers_of_alive alive]; decide), if_neg (by simp [active, parked])]
  rfl

/-! ### ABORT (R366) -/

/-- `t` differs from `s` as commands that leave their places make it differ. -/
def LeavesOnly (s t : State) : Prop := t = { s with regions := t.regions, tow := t.tow, copy := t.copy, hqs := t.hqs, threads := t.threads }

theorem LeavesOnly.leave {s t : State} (h : LeavesOnly s t) (q n : Nat) : LeavesOnly s ((t.vacate q n).dropThread q n) := by
  unfold LeavesOnly at h ⊢
  rw [h]
  rfl

theorem LeavesOnly.refl (s : State) : LeavesOnly s s := rfl

theorem leave_foldl_leavesOnly {s t : State} (h : LeavesOnly s t) (cs : List Cmd) :
    LeavesOnly s (cs.foldl (fun t c => (t.vacate c.q c.n).dropThread c.q c.n) t) := by
  induction cs generalizing t with
  | nil => exact h
  | cons c cs ih => exact ih (h.leave c.q c.n)

theorem abortable_iff (c : Cmd) : c.abortable = true ↔ c.committed = false ∧ c.mirrored = true ∧ (c.phase = .accepted ∨ c.phase = .started) := by
  simp [Cmd.abortable, and_assoc]

theorem exec_queueAbort (own : s.per.selQueue path = q) (alive : s.alive = true) (fits : (s.queue q).state.canAbort = true) :
    exec (.queueAbort path) s = .next (s.abortQueue q) := by
  refine congrArg Host.Outcome.next ?_
  unfold queueAbort
  dsimp only
  rw [own, if_neg (by rw [answers_of_alive alive]; decide), if_pos (by rw [alive, fits]; rfl)]

theorem exec_queueAbort_bad (own : s.per.selQueue path = q) (alive : s.alive = true) (fits : (s.queue q).state.canAbort = false) :
    exec (.queueAbort path) s = .next (s.badWrite pgPerast 0x138) := by
  refine congrArg Host.Outcome.next ?_
  unfold queueAbort
  dsimp only
  rw [own, if_neg (by rw [answers_of_alive alive]; decide), if_neg (by rw [fits]; simp)]
  rfl

/-- ABORT of a queue with accepted commands unfinished: the aborted commands leave their places, and the queue stays ABORTING. -/
theorem abortQueue_busy (busy : (s.queue q).doneSeq + 1 ≠ (s.queue q).nextSeq) : ∃ t, LeavesOnly s t ∧
    s.abortQueue q = ({ t with
      cmds := s.cmds.map (fun c => if c.q = q ∧ c.abortable = true then c.abort else c), fetches := s.fetches.filter (fun f => f.q != q),
      ready := s.ready.filter (fun r => r.q != q) } : State).putQueue q { s.queue q with state := .aborting, stale := false } := by
  refine ⟨_, leave_foldl_leavesOnly (LeavesOnly.refl s) (s.cmds.filter (fun c => c.q == q && c.abortable)), ?_⟩
  have left := leave_foldl_leavesOnly (LeavesOnly.refl s) (s.cmds.filter (fun c => c.q == q && c.abortable))
  unfold State.abortQueue
  dsimp only
  generalize (s.cmds.filter (fun c => c.q == q && c.abortable)).foldl (fun t c => (t.vacate c.q c.n).dropThread c.q c.n) s = t at left ⊢
  have same : t.queue q = s.queue q := by unfold State.queue; rw [left]
  have busy : (t.queue q).doneSeq + 1 ≠ (t.queue q).nextSeq := by rw [same]; exact busy
  rw [settleQueue_busy (by rw [State.queue_putQueue]; exact busy), ← show t.cmds = s.cmds by rw [left], ← show t.fetches = s.fetches by rw [left],
    ← show t.ready = s.ready by rw [left]]
  exact congrArg (fun x : QueueCtx => State.putQueue _ q { x with state := .aborting, stale := false }) same

/-! ### QCTX_DATA (R338) -/

theorem exec_qctxData (own : s.per.selQueue path = q) (answers : s.answers = true) {v : Word} {w : Nat} (word : s.per.selWord path = w)
    (writable : w ≤ 4 ∨ w = 6) (disabled : (s.queue q).state = .disabled) :
    exec (.qctxDataWrite path v) s = .next (s.putQueue q ((s.queue q).setWord w v.toNat)) := by
  refine congrArg Host.Outcome.next ?_
  unfold qctxDataWrite
  dsimp only
  rw [own, word, if_neg (by rw [answers]; decide), if_neg (by omega), if_pos disabled]

theorem exec_qctxData_none (answers : s.answers = true) {v : Word} (other : 4 < s.per.selWord path ∧ s.per.selWord path ≠ 6) :
    exec (.qctxDataWrite path v) s = .next s := by
  refine congrArg Host.Outcome.next ?_
  unfold qctxDataWrite
  dsimp only
  rw [if_neg (by rw [answers]; decide), if_pos other]

theorem exec_qctxData_bad (own : s.per.selQueue path = q) (answers : s.answers = true) {v : Word} (writable : s.per.selWord path ≤ 4 ∨ s.per.selWord path = 6)
    (on : (s.queue q).state ≠ .disabled) : exec (.qctxDataWrite path v) s = .next (s.modPage pgPerast (·.raiseBit 8 (q * 2 ^ 24 + 0x130) false)) := by
  refine congrArg Host.Outcome.next ?_
  unfold qctxDataWrite
  dsimp only
  rw [own, if_neg (by rw [answers]; decide), if_neg (by omega), if_neg on]

end

end Sys2Proof.Machine

/-- Settles O17: each command by the lemma about it; a queue with accepted commands unfinished settles into nothing further (`settleQueue_busy`). -/
theorem queueCommands : Obligations.QueueCommands := by
  unfold Obligations.QueueCommands
  intro s path q x qIs xIs alive
  have own : s.per.selQueue path = q := by rw [qIs]; rfl
  have answers := answers_of_alive alive
  subst xIs
  refine ⟨?_, exec_queueDisable own alive, ?_, exec_queueEnable_bad own alive, ?_, exec_queueDisable_bad own alive, ?_⟩
  · intro disabled small large sq cq sqMapped cqMapped first slots live open' fits alone
    have enables : s.enables (s.queue q) = true := by
      simp only [State.enables, QueueCtx.slots, disabled, small, large, sq, cq, sqMapped, cqMapped, first, slots, open']
      rcases live with live | live <;> rw [live] <;> rfl
    have frame := appendRec_journalsOnly (s := s.putQueue q (s.queue q).enabled) alone
    refine ⟨_, exec_queueEnable own alive enables fits, appendContext_enabled alone _, ?_, ?_⟩
    · unfold State.appendContext
      rw [frame]
      rfl
    · obtain ⟨_, _, _, jnl⟩ := appendRec_jnl (s := s.putQueue q (s.queue q).enabled) alone .context q _ _ _ _
      unfold State.appendContext
      rw [jnl]
      rfl
  · intro state busy
    obtain ⟨t, left, aborted⟩ := abortQueue_busy busy
    refine ⟨_, exec_queueAbort own alive (by rcases state with h | h | h <;> rw [h] <;> rfl), ?_⟩
    rw [aborted, left]
    refine ⟨rfl, List.map_congr_left (fun c _ => ?_), rfl, rfl, rfl, rfl⟩
    simp only [abortable_iff]
    rfl
  · intro state
    exact exec_queueAbort_bad own alive (by rcases state with h | h | h <;> rw [h] <;> rfl)
  · intro v w wIs
    have word : s.per.selWord path = w := by rw [wIs]; rfl
    refine ⟨fun disabled => ⟨?_, ?_, ?_, ?_, ?_, ?_⟩, fun other => exec_qctxData_none answers (word ▸ other),
      fun writable on => exec_qctxData_bad own answers (word ▸ writable) on⟩ <;> intro number <;> rw [exec_qctxData own answers word (by omega) disabled, number] <;> rfl

end

section
/-! PROOFS. The completion record of a member without a partner reaches its slot (R351 to R353). -/

open Sys2Proof Sys2Proof.Machine

namespace Sys2Proof.Machine

section
variable {s : State} {q n : Nat} {c : Cmd} {l : LiveRec}

/-- The interrupts of a completion record: one, where the descriptor asks for it. -/
def irqOf (s : State) (q : Nat) (c : Cmd) : List Out := if fieldAt c.desc 2 2 % 2 = 1 then [.irq (s.queue q).irqVec] else []

/-- The state in which a completion record stands in its slot and DONE_SEQ follows it, before dead records are freed. -/
def State.recordWritten (s : State) (q n : Nat) (c : Cmd) (record : Bytes) : State :=
  let t := s.storeBytes ((s.queue q).recordAt n) record
  let u := State.count { t with queues := tabSet {} t.queues q { t.queue q with doneSeq := max (t.queue q).doneSeq n } } pgService 0x1002 1
  { u with outbox := u.outbox ++ irqOf t q c, cmds := u.cmds.filter (fun d => !(d.q == q && d.n == n)) }

/-- The interrupt leaves when the descriptor asks for it (R351). -/
theorem send_irq (t : State) (v : Nat) : (if c.descFlags % 2 = 1 then t.send (.irq v) else t) =
    { t with outbox := t.outbox ++ if fieldAt c.desc 2 2 % 2 = 1 then [.irq v] else [] } := by
  show (if fieldAt c.desc 2 2 % 2 = 1 then t.send (.irq v) else t) = _
  split
  · rfl
  · rw [List.append_nil]

theorem exec_completionRecordWrite (next : n = s.recordNext q) (listed : s.cmd? q n = some c) (journaled : s.liveComplete q n = some l)
    (alive : s.alive = true) (phase : c.phase = .journaled) (mirrored : c.mirrored = true) (active : (s.queue q).state = .active)
    (live : s.jnl.state = .live) (link : s.tierOf ((s.queue q).recordAt n) = some .slate → s.per.linkUp = true)
    (clean : s.poisonedAt ((s.queue q).recordAt n) = false) :
    exec (.completionRecordWrite q) s = .next (s.recordWritten q n c l.record).freeRecords := by
  have mayRun : s.mayRun q = true := by simp [State.mayRun, active, live]
  have up : (s.tierOf ((s.queue q).recordAt n) == some .slate && !s.per.linkUp) = false := by
    by_cases slate : s.tierOf ((s.queue q).recordAt n) = some .slate
    · rw [link slate, Bool.not_true, Bool.and_false]
    · simp [slate]
  have stored : s.storeRecord q n l.record = s.storeBytes ((s.queue q).recordAt n) l.record := if_neg (by rw [clean]; decide)
  have rests := (storeBytes_sameElse s ((s.queue q).recordAt n) l.record).rests
  refine congrArg Host.Outcome.next ?_
  unfold completionRecordWrite
  dsimp only
  rw [← next, listed, journaled]
  dsimp only
  rw [if_neg (by rw [alive, phase, mirrored, mayRun, up]; decide), stored]
  unfold State.recordWritten
  generalize s.storeBytes ((s.queue q).recordAt n) l.record = t at rests
  have same : t.queue q = s.queue q := by unfold State.queue; rw [rests.queues]
  generalize put : State.count _ pgService 0x1002 1 = w
  have irq : (w.queue q).irqVec = (t.queue q).irqVec := by
    rw [← put]
    exact Eq.trans (congrArg QueueCtx.irqVec (State.queue_putQueue t q { t.queue q with doneSeq := max (t.queue q).doneSeq n })) rfl
  rw [send_irq, irq]
  generalize written : State.dropCmd _ q n = u
  have uIs : u = { State.count { t with queues := tabSet {} t.queues q { t.queue q with doneSeq := max (t.queue q).doneSeq n } } pgService 0x1002 1 with
      outbox := t.outbox ++ irqOf t q c, cmds := t.cmds.filter (fun d => !(d.q == q && d.n == n)) } := by
    rw [← written, ← put]
    rfl
  have found : u.queue q = { t.queue q with doneSeq := max (t.queue q).doneSeq n } := by rw [uIs]; exact State.queue_putQueue _ _ _
  have still : u.jnl.state ≠ .replaying := by
    rw [show u.jnl = s.jnl by rw [uIs, ← rests.jnl]; rfl, live]
    decide
  have open' : (u.queue q).state = .active := by rw [found]; exact (congrArg QueueCtx.state same).trans active
  rw [releaseHeld_live still, settleQueue_serving (by rw [open']; decide) (by rw [open']; decide), settleReplay_live still, uIs]
  rfl

end

end Sys2Proof.Machine

/-- Settles O15: outside the record's slot only pages, queue, outbox and the command list move, and a write that no tracked range sees stores the record's bits. -/
theorem completionRecordWritten : Obligations.CompletionRecordWritten := by
  unfold Obligations.CompletionRecordWritten
  intro s q n a c l next listed journaled alive phase mirrored active live length aIs plain link clean wf alone untracked
  have place : (s.queue q).recordAt n = a := aIs.symm
  have stored : (s.storeBytes a l.record).rawBytes a 32 = l.record := by
    rw [← length] at plain ⊢
    exact State.rawBytes_storeBytes s wf _ _ plain
  have frame := storeBytes_storesOnly (calm_of_alone alone) a l.record
  refine ⟨_, exec_completionRecordWrite next listed journaled alive phase mirrored active live (by rw [place]; exact link) (by rw [place]; exact clean), ?_⟩
  have left : (s.recordWritten q n c l.record).twinned = false := by
    unfold State.recordWritten
    rw [place, frame]
    exact alone
  rw [freeRecords_alone left]
  unfold State.recordWritten
  rw [place]
  generalize s.storeBytes a l.record = t at stored frame ⊢
  have same : t.queue q = s.queue q := by rw [frame]; rfl
  refine ⟨stored, ?_⟩
  rw [← same, frame]
  exact ⟨rfl, rfl, rfl, rfl, rfl, rfl, rfl, rfl, rfl, rfl, rfl, rfl, rfl, rfl, rfl⟩

end

section
/-! PROOFS. COMMAND_COMPLETE: what a command gives back leaves the journal, and the COMPLETE record of R356 is listed live (R352, R353, R356). -/

open Sys2Proof Sys2Proof.Machine

namespace Sys2Proof.Machine

/-! ### What a command gives back (R352) -/

/-- The journal, the queues and the keys of the commands stay. -/
structure Lists (s t : State) : Prop where
  jnl    : t.jnl = s.jnl
  queues : t.queues = s.queues
  keys   : t.cmds.map Cmd.key = s.cmds.map Cmd.key

theorem Lists.trans {s t u : State} (h : Lists s t) (k : Lists t u) : Lists s u :=
  ⟨k.jnl.trans h.jnl, k.queues.trans h.queues, k.keys.trans h.keys⟩

theorem Lists.foldl {α : Type} {s t : State} {f : State → α → State} {l : List α} (each : ∀ u x, Lists u (f u x)) (h : Lists s t) :
    Lists s (l.foldl f t) := by
  induction l generalizing t with
  | nil => exact h
  | cons x l ih => exact ih (h.trans (each _ _))

theorem SameElse.lists {s t : State} (h : SameElse s t) : Lists s t := ⟨h.rests.jnl, h.rests.queues, by rw [h.cmds]⟩

theorem stackDone_lists (s : State) (c : Cmd) (ok : Bool) : Lists s (stackDone s c ok) := by
  have cmds : (stackDone s c ok).cmds.map Cmd.unclaimed = s.cmds.map Cmd.unclaimed := congrArg Prod.snd (stackDone_ledger s c ok)
  have keys := congrArg (List.map Cmd.key) cmds
  rw [List.map_map, List.map_map] at keys
  exact ⟨(stackDone_rests s c ok).jnl, (stackDone_rests s c ok).queues, keys⟩

theorem putCmd_keys (s : State) (c : Cmd) : (s.putCmd c).cmds.map Cmd.key = s.cmds.map Cmd.key := by
  unfold State.putCmd
  rw [List.map_map]
  refine List.map_congr_left (fun d _ => ?_)
  dsimp only [Function.comp]
  split
  · next same => exact Prod.ext same.1.symm same.2.symm
  · rfl

theorem putCmd_lists (s : State) (c : Cmd) : Lists s (s.putCmd c) := ⟨rfl, rfl, putCmd_keys s c⟩

theorem releasePages_lists (s : State) : Lists s s.releasePages := by
  refine Lists.foldl (fun t p => ?_) ⟨rfl, rfl, rfl⟩
  dsimp only
  split
  · exact ⟨rfl, rfl, rfl⟩
  · have put : ∀ x, Lists t (t.putPool p.1 x) := fun x => ⟨rfl, rfl, rfl⟩
    exact (put _).trans (openRange_sameElse _ _ _).lists

theorem numberDone_lists (s : State) (n g : Nat) : Lists s (numberDone s n g) := by
  unfold numberDone
  dsimp only
  split <;> exact ⟨rfl, rfl, rfl⟩

theorem noteFall_lists (s : State) (w : Nat) : Lists s (s.noteFall w) := by
  unfold State.noteFall State.expectFall
  split <;> exact ⟨rfl, rfl, rfl⟩

theorem giveBack_lists (s : State) (c : Cmd) : Lists s (s.giveBack c) := by
  have done := stackDone_lists s c (!c.status.bars)
  unfold State.giveBack
  dsimp only
  generalize stackDone s c (!c.status.bars) = t at done ⊢
  have freed := done.trans ((putCmd_lists t { c with latches := [], claim := none }).trans (releasePages_lists _))
  generalize (t.putCmd { c with latches := [], claim := none }).releasePages = u at freed ⊢
  have gone := freed.trans (numberDone_lists u c.n c.coll.group)
  generalize numberDone u c.n c.coll.group = v at gone ⊢
  have left : Lists v ((v.vacate c.q c.n).dropThread c.q c.n) := ⟨rfl, rfl, rfl⟩
  exact gone.trans (left.trans (noteFall_lists _ _))

/-! ### The COMPLETE record, with or without a partner (R353, R406) -/

theorem mirror_sameElse (s : State) (w : Option MirrorWait) (kind : String) (words : List Nat) (bs : Bytes) : SameElse s (s.mirror w kind words bs) := by
  unfold State.mirror
  split
  · exact SameElse.refl s
  · refine (sendTwin_sends s kind words bs).sameElse.trans ?_
    dsimp only
    split <;> rfl

theorem freeRecords_lists (s : State) : (s.freeRecords).queues = s.queues ∧ s.freeRecords.cmds = s.cmds ∧
    ∃ trim, s.freeRecords.jnl = { s.jnl with live := s.jnl.live.filter s.recLive, trimRec := trim } := by
  unfold State.freeRecords
  dsimp only
  split
  · exact ⟨rfl, rfl, _, rfl⟩
  · have same := mirror_sameElse { s with jnl := { s.jnl with live := s.jnl.live.filter s.recLive, trimRec := ({ s.jnl with live := s.jnl.live.filter s.recLive } : Journal).oldest } }
      none "TRIM" [({ s.jnl with live := s.jnl.live.filter s.recLive } : Journal).oldest] []
    exact ⟨same.rests.queues, same.cmds, _, same.rests.jnl⟩

theorem writeHeader_cmds (s : State) : s.writeHeader.cmds = s.cmds := by
  have same := (storeBytes_sameElse s (s.per.journalBase * 4096 + 4096 * s.jnl.nextCopy)
    (headerBytes s.boot.ownerId s.per.journalReg s.jnl.writeRec s.jnl.trimRec)).cmds
  unfold State.writeHeader
  dsimp only
  exact same

theorem ite_sameElse {s t u : State} {p : Prop} [Decidable p] (h : SameElse s t) (k : SameElse s u) : SameElse s (if p then t else u) := by
  split
  · exact h
  · exact k

theorem liveRec_record (s : State) (q n : Nat) (body : Bytes) (st : Status) : (s.liveRec .complete q n body 0 st).record = body := by
  simp [State.liveRec]

/-- A COMPLETE record above the journaled CQ_HEAD is listed live; no queue and no command moves. -/
theorem appendRec_complete {s : State} {q n : Nat} (above : (s.queue q).jnlHead < n) (body : Bytes) (st : Status) :
    s.liveRec .complete q n body 0 st ∈ (s.appendRec .complete q n body 0 st).jnl.live ∧
    (s.appendRec .complete q n body 0 st).jnl.writeRec = s.jnl.writeRec + 1 ∧ (s.appendRec .complete q n body 0 st).queues = s.queues ∧
    (s.appendRec .complete q n body 0 st).cmds = s.cmds := by
  have stored := storeBytes_sameElse s (s.recordAddr s.jnl.writeRec) (recordBytesOf .complete q n s.jnl.writeRec body 0)
  unfold State.appendRec
  dsimp only
  generalize s.storeBytes (s.recordAddr s.jnl.writeRec) (recordBytesOf .complete q n s.jnl.writeRec body 0) = u at stored ⊢
  generalize sent : (if State.twinned _ = true then State.mirror _ _ _ _ _ else State.headJournaled _ _) = v
  have same : SameElse { u with jnl := { u.jnl with writeRec := s.jnl.writeRec + 1, live := u.jnl.live ++ [s.liveRec .complete q n body 0 st] } } v := by
    rw [← sent]
    exact ite_sameElse (mirror_sameElse _ _ _ _ _) rfl
  obtain ⟨queues, cmds, trim, jnl⟩ := freeRecords_lists v
  have live : v.recLive (s.liveRec .complete q n body 0 st) = true := by
    have head : (v.queue q).jnlHead = (s.queue q).jnlHead := by
      unfold State.queue
      rw [same.rests.queues]
      exact congrArg (fun l => (tabGet {} l q).jnlHead) stored.rests.queues
    show (decide ((v.queue q).jnlHead < n) || _) = true
    rw [head, decide_eq_true above, Bool.true_or]
  rw [writeHeader_jnl, writeHeader_queues, writeHeader_cmds, jnl, queues, cmds, same.rests.jnl, same.rests.queues, same.cmds]
  refine ⟨List.mem_filter.mpr ⟨List.mem_append_right _ List.mem_cons_self, live⟩, rfl, stored.rests.queues, stored.cmds⟩

theorem bit_eq_ite (b : Bool) (k : Nat) : k * bit b = if b then k else 0 := by
  cases b <;> simp [bit]

theorem completionBytes_eq {s : State} {q n : Nat} {c : Cmd} (own : c.q = q) (number : c.n = n) {b : Bytes}
    (b_eq : b = natBytes 6 n ++ natBytes 2 c.status.code ++ natBytes 4 (min c.sat 0xFFFFFFFF) ++ natBytes 4 c.units ++
      natBytes 1 ((if s.tierOf (s.queue q).cqBase = some .slate then 1 else 0) + (if c.wroteLocal then 2 else 0) +
        (if c.wroteSlate then 4 else 0) + (if c.wrotePeer then 8 else 0)) ++
      natBytes 1 ((if c.resumed then 2 else 0) + (if c.replayed then 1 else 0)) ++ natBytes 2 c.opcode ++ natBytes 4 n ++ natBytes 4 0) :
    completionBytes s c = b ++ natBytes 4 (crc32c b) := by
  have scope : scopeOf s c = (if s.tierOf (s.queue q).cqBase = some .slate then 1 else 0) + (if c.wroteLocal then 2 else 0) +
      (if c.wroteSlate then 4 else 0) + (if c.wrotePeer then 8 else 0) := by
    unfold scopeOf
    rw [bit_eq_ite, bit_eq_ite, bit_eq_ite, own]
    simp [bit]
  have flags : 2 * bit c.resumed + bit c.replayed = (if c.resumed then 2 else 0) + (if c.replayed then 1 else 0) := by
    rw [bit_eq_ite]
    rfl
  unfold completionBytes
  dsimp only
  rw [scope, flags, number, show (2 ^ 32 - 1 : Nat) = 0xFFFFFFFF from rfl, ← b_eq]

theorem commandComplete_eq {s : State} {q n : Nat} {c : Cmd} (listed : s.cmd? q n = some c) (alive : s.alive = true) (ended : c.phase = .ended)
    (opened : s.journalOpen = true) (live : s.jnl.state = .live ∨ s.jnl.state = .replaying) (owed : s.versionOwed = false)
    (out : s.outputsOut c = true) : ∃ d : Cmd, d.key = c.key ∧ d.phase = .journaled ∧
    exec (.commandComplete q n) s = .next (((s.giveBack c).appendRec .complete q n (completionBytes s c) 0 c.status).putCmd d) := by
  have serving : (s.jnl.state == .live || s.jnl.state == .replaying) = true := by simpa using live
  refine ⟨{ c with
    phase := .journaled, latches := [], claim := none, regions := [], towers := [],
    mirrored := !((s.giveBack c).appendRec .complete q n (completionBytes s c) 0 c.status).twinned }, rfl, rfl, ?_⟩
  refine congrArg Host.Outcome.next ?_
  unfold commandComplete
  rw [listed]
  dsimp only
  rw [if_neg (by rw [alive, ended, opened, serving, owed, out]; decide)]

/-- A command of the key that `d` has is replaced by `d`. -/
theorem mem_putCmd {s : State} {d : Cmd} (there : d.key ∈ s.cmds.map Cmd.key) : d ∈ (s.putCmd d).cmds := by
  obtain ⟨e, old, same⟩ := List.mem_map.mp there
  obtain ⟨queue, number⟩ := Prod.mk.inj same
  exact List.mem_map.mpr ⟨e, old, if_pos ⟨queue, number⟩⟩

end Sys2Proof.Machine

/-- Settles O14: what the command gives back leaves journal and queues (`giveBack_lists`), and its COMPLETE record is listed live. -/
theorem commandCompleted : Obligations.CommandCompleted := by
  unfold Obligations.CommandCompleted
  intro s q n c b listed alive ended opened live owed out above bIs
  have key := State.key_of_cmd? listed
  obtain ⟨own, number⟩ := Prod.mk.inj key
  obtain ⟨d, same, phase, step⟩ := commandComplete_eq listed alive ended opened live owed out
  have record := completionBytes_eq (s := s) own number bIs
  have gave := giveBack_lists s c
  rw [record] at step
  generalize s.giveBack c = t at gave step
  obtain ⟨there, next, queues, cmds⟩ := appendRec_complete (s := t) (q := q) (n := n) (by unfold State.queue at above ⊢; rw [gave.queues]; exact above)
    (b ++ natBytes 4 (crc32c b)) c.status
  refine ⟨_, _, step, there, congrArg Journal.writeRec gave.jnl, rfl, rfl, rfl, rfl, liveRec_record t q n _ c.status, ?_, (putCmd_rests _ _).queues.trans (queues.trans gave.queues), d, ?_, ?_⟩
  · exact next.trans (congrArg (fun j => j.writeRec + 1) gave.jnl)
  · refine mem_putCmd ?_
    rw [cmds, gave.keys, same]
    exact List.mem_map.mpr ⟨c, List.mem_of_find?_eq_some listed, rfl⟩
  · obtain ⟨queue, place⟩ := Prod.mk.inj (same.trans key)
    exact ⟨queue, place, phase⟩

end

section
/-! PROOFS. The journal's scan (R367, R368). -/

open Sys2Proof Sys2Proof.Machine

namespace Sys2Proof.Machine

/-! ### Entries of a table -/

theorem mem_tabInsert {α : Type} {t : Tab α} {k : Nat} {v : α} {e : Nat × α} (there : e ∈ tabInsert t k v) : e ∈ t ∨ e = (k, v) := by
  induction t with
  | nil => exact .inr (List.mem_singleton.mp there)
  | cons x t ih =>
    obtain ⟨key, value⟩ := x
    unfold tabInsert at there
    split at there
    · rcases List.mem_cons.mp there with new | old
      · exact .inr new
      · exact .inl (List.mem_cons_of_mem _ old)
    · split at there
      · rcases List.mem_cons.mp there with new | old
        · exact .inr new
        · exact .inl old
      · rcases List.mem_cons.mp there with same | later
        · exact .inl (same ▸ List.mem_cons_self)
        · exact (ih later).imp (List.mem_cons_of_mem _) id

theorem mem_tabSet {α : Type} [DecidableEq α] {d : α} {t : Tab α} {k : Nat} {v : α} {e : Nat × α} (there : e ∈ tabSet d t k v) : e ∈ t ∨ e = (k, v) := by
  unfold tabSet at there
  split at there
  · exact .inl ((List.mem_filter.mp there).1)
  · exact mem_tabInsert there

section
variable {s : State}

/-! ### The scan's outcomes -/

theorem exec_journalScan_none (alive : s.alive = true) (scanning : s.jnl.state = .scanning) (link : s.per.linkUp = true) (calm : s.boot.running = none)
    (slots : s.journalSlots = 0) : exec .journalScan s =
      .next { s with jnl := { s.jnl with state := .awaitGo, live := [] }, queues := if s.jnl.afterCold then [] else s.queues } := by
  refine congrArg Host.Outcome.next ?_
  unfold journalScan
  rw [if_neg (by rw [alive, scanning, link, calm]; decide), if_pos slots]

theorem exec_journalScan_header {h : Header} (alive : s.alive = true) (scanning : s.jnl.state = .scanning) (link : s.per.linkUp = true)
    (calm : s.boot.running = none) (slots : 0 < s.journalSlots) (header : s.header = some h) : exec .journalScan s =
      .next (match (s.checkHeader h).or (s.checkRecs (s.scanRecs h)) with | some f => s.breakJournal f | none => s.rebuild h (s.scanRecs h)) := by
  refine congrArg Host.Outcome.next ?_
  unfold journalScan
  rw [if_neg (by rw [alive, scanning, link, calm]; decide), if_neg (Nat.ne_of_gt slots), header] <;> rfl

theorem exec_journalScan_headless (alive : s.alive = true) (scanning : s.jnl.state = .scanning) (link : s.per.linkUp = true)
    (calm : s.boot.running = none) (slots : 0 < s.journalSlots) (header : s.header = none) (used : s.freshArea = false) :
    exec .journalScan s = .next (s.breakJournal ⟨1, 0xFFFFFFFF⟩) := by
  refine congrArg Host.Outcome.next ?_
  unfold journalScan
  rw [if_neg (by rw [alive, scanning, link, calm]; decide), if_neg (Nat.ne_of_gt slots), header]
  dsimp only
  rw [if_pos (by rw [used]; rfl)]

theorem checkHeader_owner {h : Header} (other : h.owner ≠ s.boot.ownerId) : s.checkHeader h = some ⟨2, 0xFFFFFFFF⟩ := if_pos other

theorem checkHeader_base {h : Header} (owner : h.owner = s.boot.ownerId) (other : h.base ≠ s.per.journalReg) : s.checkHeader h = some ⟨3, 0xFFFFFFFF⟩ := by
  unfold State.checkHeader
  rw [if_neg (not_not_intro owner), if_pos other]

theorem checkHeader_own {h : Header} (owner : h.owner = s.boot.ownerId) (base : h.base = s.per.journalReg) : s.checkHeader h = none := by
  unfold State.checkHeader
  rw [if_neg (not_not_intro owner), if_neg (not_not_intro base)]

/-! ### A rebuilt journal -/

theorem mirror_none_sends (s : State) (kind : String) (words : List Nat) (bs : Bytes) : SendsOnly s (s.mirror none kind words bs) := by
  unfold State.mirror
  split
  · exact SendsOnly.refl s
  · exact sendTwin_sends s kind words bs

/-- Freeing dead records sends at most a notice. -/
theorem freeRecords_sends (s : State) : ∃ live trim, SendsOnly { s with jnl := { s.jnl with live := live, trimRec := trim } } s.freeRecords := by
  refine ⟨s.jnl.live.filter s.recLive, ({ s.jnl with live := s.jnl.live.filter s.recLive } : Journal).oldest, ?_⟩
  unfold State.freeRecords
  dsimp only
  split
  · exact SendsOnly.refl _
  · exact mirror_none_sends _ _ _ _

theorem rebuildQueue_held {cs : List ScanRec} (context : cs.any (fun r => r.kind == 3) = true) (old : QueueCtx) (cold : Bool) :
    (rebuildQueue cs old cold).state = .held := by
  obtain ⟨r, there, kind⟩ := List.any_eq_true.mp context
  unfold rebuildQueue
  split
  · next none =>
    have empty := List.getLast?_eq_none_iff.mp none
    exact absurd (List.mem_filter.mpr ⟨there, kind⟩) (by rw [empty]; exact List.not_mem_nil)
  · rfl

/-- Queues set one after the other in a table that held none but HELD ones leave it so. -/
theorem foldl_tabSet_held {l : List Nat} {f : Nat → QueueCtx} (held : ∀ q ∈ l, (f q).state = .held) {t : Tab QueueCtx}
    (before : ∀ e ∈ t, e.2.state = .held) : ∀ e ∈ l.foldl (fun t q => tabSet {} t q (f q)) t, e.2.state = .held := by
  induction l generalizing t with
  | nil => exact before
  | cons q l ih =>
    refine ih (fun q' there => held q' (List.mem_cons_of_mem _ there)) (fun e there => ?_)
    rcases mem_tabSet there with old | new
    · exact before e old
    · rw [new]
      exact held q List.mem_cons_self

/-- The rebuilt journal awaits REPLAY_GO; after a cold reset every queue that it lists is HELD. -/
theorem rebuild_awaits (s : State) (h : Header) (rs : List ScanRec) :
    (s.rebuild h rs).jnl.state = .awaitGo ∧ (s.rebuild h rs).jnl.writeRec = h.write ∧ (s.rebuild h rs).fetches = [] ∧ (s.rebuild h rs).ready = [] ∧
    (s.rebuild h rs).mem = s.mem ∧ (s.rebuild h rs).per = s.per ∧ (s.rebuild h rs).boot = s.boot ∧
    (s.jnl.afterCold = true → ∀ e ∈ (s.rebuild h rs).queues, e.2.state = .held) := by
  have held : s.jnl.afterCold = true → ∀ e ∈ ((queuesOf rs).filter (fun q => (counted rs q).any (fun r => r.kind == 3))).foldl
      (fun (t : Tab QueueCtx) q => tabSet {} t q (rebuildQueue (counted rs q) (s.queue q) s.jnl.afterCold)) (if s.jnl.afterCold then [] else s.queues),
      e.2.state = .held := by
    intro cold
    rw [cold]
    refine foldl_tabSet_held (fun q there => rebuildQueue_held (List.mem_filter.mp there).2 _ _) (fun e there => ?_)
    exact absurd there List.not_mem_nil
  unfold State.rebuild
  dsimp only
  generalize List.foldl _ _ _ = queues at held ⊢
  generalize List.flatMap _ _ = cmds
  generalize List.map _ _ = live
  obtain ⟨live', trim, sent, -⟩ := freeRecords_sends { s with queues := queues, cmds := cmds, fetches := [], ready := [], jnl := { s.jnl with
    state := .awaitGo, reason := 0, badRecord := 0, writeRec := h.write, trimRec := h.trim, live := live, nextCopy := 1 - h.copy, consume := [] } }
  rw [sent]
  exact ⟨rfl, rfl, rfl, rfl, rfl, rfl, rfl, held⟩

end

end Sys2Proof.Machine

/-- Settles O18: each finding in the order in which the scan makes its checks, and what a rebuilt journal holds (`rebuild_awaits`). -/
theorem journalScanned : Obligations.JournalScanned := by
  unfold Obligations.JournalScanned
  intro s alive scanning link calm
  refine ⟨exec_journalScan_none alive scanning link calm, fun f slots finding => ?_, fun h slots header owner base sound => ?_⟩
  · rcases finding with ⟨header, used, rfl⟩ | ⟨h, header, owner, rfl⟩ | ⟨h, header, owner, base, rfl⟩ | ⟨h, header, owner, base, record⟩
    · exact exec_journalScan_headless alive scanning link calm slots header used
    · rw [exec_journalScan_header alive scanning link calm slots header, checkHeader_owner owner]
      rfl
    · rw [exec_journalScan_header alive scanning link calm slots header, checkHeader_base owner base]
      rfl
    · rw [exec_journalScan_header alive scanning link calm slots header, checkHeader_own owner base, Option.none_or, record]
      rfl
  · refine ⟨_, exec_journalScan_header alive scanning link calm slots header, ?_⟩
    rw [checkHeader_own owner base, Option.none_or, sound]
    exact rebuild_awaits s h (s.scanRecs h)

end

section
/-! PROOFS. REPLAY_GO: which queues leave HELD, and when the journal is LIVE (R367). -/

open Sys2Proof Sys2Proof.Machine

namespace Sys2Proof.Machine

/-! ### A CONTEXT record, with or without a partner (R353) -/

/-- The commands and the journal's state and debts stay, and so do the contexts of all queues but `q`. -/
structure ContextOnly (q : Nat) (s t : State) : Prop where
  cmds  : t.cmds = s.cmds
  state : t.jnl.state = s.jnl.state
  owed  : t.jnl.owed = s.jnl.owed
  other : ∀ p, p ≠ q → t.queue p = s.queue p
  own   : (t.queue q).state = (s.queue q).state

theorem ContextOnly.trans {q : Nat} {s t u : State} (h : ContextOnly q s t) (k : ContextOnly q t u) : ContextOnly q s u :=
  ⟨k.cmds.trans h.cmds, k.state.trans h.state, k.owed.trans h.owed, fun p other => (k.other p other).trans (h.other p other), k.own.trans h.own⟩

/-- What leaves the queues and changes of the journal only the records' own fields. -/
theorem ContextOnly.of_queues {q : Nat} {s t : State} (queues : t.queues = s.queues) (cmds : t.cmds = s.cmds) (state : t.jnl.state = s.jnl.state)
    (owed : t.jnl.owed = s.jnl.owed) : ContextOnly q s t := by
  have same : ∀ p, t.queue p = s.queue p := fun p => by unfold State.queue; rw [queues]
  exact ⟨cmds, state, owed, fun p _ => same p, congrArg QueueCtx.state (same q)⟩

theorem SameElse.contextOnly {q : Nat} {s t : State} (h : SameElse s t) : ContextOnly q s t :=
  .of_queues h.rests.queues h.cmds (by rw [h.rests.jnl]) (by rw [h.rests.jnl])

theorem queue_putQueue_other (s : State) {p q : Nat} (other : p ≠ q) (x : QueueCtx) : (s.putQueue q x).queue p = s.queue p := by
  unfold State.queue State.putQueue
  dsimp only
  rw [tabGet_tabSet, if_neg other]

theorem headJournaled_contextOnly {s : State} {l : LiveRec} {q : Nat} (own : l.q = q) : ContextOnly q s (s.headJournaled l) := by
  subst own
  unfold State.headJournaled
  split
  · exact ⟨rfl, rfl, rfl, fun p other => queue_putQueue_other s other _, (congrArg QueueCtx.state (State.queue_putQueue s l.q { s.queue l.q with jnlHead := l.head })).trans rfl⟩
  · exact .of_queues rfl rfl rfl rfl

theorem freeRecords_contextOnly (q : Nat) (s : State) : ContextOnly q s s.freeRecords := by
  obtain ⟨queues, cmds, trim, jnl⟩ := freeRecords_lists s
  exact .of_queues queues cmds (by rw [jnl]) (by rw [jnl])

theorem writeHeader_contextOnly (q : Nat) (s : State) : ContextOnly q s s.writeHeader :=
  .of_queues (writeHeader_queues s) (writeHeader_cmds s) (by rw [writeHeader_jnl]) (by rw [writeHeader_jnl])

theorem ite_contextOnly {q : Nat} {s t u : State} {p : Prop} [Decidable p] (h : ContextOnly q s t) (k : ContextOnly q s u) :
    ContextOnly q s (if p then t else u) := by
  split
  · exact h
  · exact k

theorem appendRec_contextOnly (s : State) (k : RecKind) (q seq : Nat) (body : Bytes) (head : Nat) (st : Status) :
    ContextOnly q s (s.appendRec k q seq body head st) := by
  have stored := (storeBytes_sameElse s (s.recordAddr s.jnl.writeRec) (recordBytesOf k q seq s.jnl.writeRec body head)).contextOnly (q := q)
  unfold State.appendRec
  dsimp only
  generalize s.storeBytes (s.recordAddr s.jnl.writeRec) (recordBytesOf k q seq s.jnl.writeRec body head) = u at stored ⊢
  have marked : ∀ l, ContextOnly q u { u with jnl := { u.jnl with writeRec := s.jnl.writeRec + 1, live := u.jnl.live ++ [l] } } :=
    fun l => .of_queues rfl rfl rfl rfl
  refine stored.trans (ContextOnly.trans (marked (s.liveRec k q seq body head st)) (ContextOnly.trans ?_ ((freeRecords_contextOnly q _).trans (writeHeader_contextOnly q _))))
  exact ite_contextOnly (mirror_sameElse _ _ _ _ _).contextOnly (headJournaled_contextOnly rfl)

/-! ### A queue is disabled, or returns from HELD (R340, R367) -/

theorem appendDisabled_contextOnly (s : State) (q : Nat) : ContextOnly q s (s.appendDisabled q) := by
  have record := appendRec_contextOnly s .context q (({ s.queue q with state := .disabled } : QueueCtx).nextSeq - 1)
    ({ s.queue q with state := .disabled } : QueueCtx).bytes ({ s.queue q with state := .disabled } : QueueCtx).cqHead .ok
  unfold State.appendDisabled
  dsimp only at record ⊢
  generalize s.appendRec _ _ _ _ _ _ = u at record ⊢
  have dropped : ContextOnly q u { u with jnl := { u.jnl with live := u.jnl.live.filter (fun l => l.q != q) } } := .of_queues rfl rfl rfl rfl
  exact record.trans (dropped.trans (freeRecords_contextOnly q _))

/-- While a replay goes on: the commands, the journal's state, and that a CONTEXT record is owed only while none can be written. -/
structure Replays (cs : List Cmd) (s : State) : Prop where
  cmds  : s.cmds = cs
  state : s.jnl.state = .replaying
  owed  : s.jnl.owed = [] ∨ s.contextFits = false

theorem ContextOnly.replays {cs : List Cmd} {q : Nat} {s t : State} (k : ContextOnly q s t) (h : Replays cs s) (none : s.jnl.owed = []) : Replays cs t :=
  ⟨k.cmds.trans h.cmds, k.state.trans h.state, .inl (k.owed.trans none)⟩

/-- What a queue's disabling leaves: the replay as it goes, and every other queue. -/
theorem disableQueue_replays {cs : List Cmd} {s : State} (h : Replays cs s) (q : Nat) :
    Replays cs (s.disableQueue q) ∧ (∀ p, p ≠ q → (s.disableQueue q).queue p = s.queue p) ∧ ((s.disableQueue q).queue q).state = .disabled := by
  have off := State.queue_putQueue s q { s.queue q with state := .disabled, stale := false, tries := 0 }
  have other := fun p (h : p ≠ q) => queue_putQueue_other s h { s.queue q with state := .disabled, stale := false, tries := 0 }
  unfold State.disableQueue
  dsimp only
  split
  · next fits =>
    have paid : s.jnl.owed = [] := h.owed.resolve_right (fun short => absurd (fits.symm.trans short) (by decide))
    have context := appendDisabled_contextOnly { s.putQueue q { s.queue q with state := .disabled, stale := false, tries := 0 } with
      jnl := { s.jnl with consume := s.jnl.consume.filter (· != q) }, fetches := s.fetches.filter (fun f => f.q != q),
      ready := s.ready.filter (fun r => r.q != q) } q
    exact ⟨context.replays ⟨h.cmds, h.state, .inl paid⟩ paid, fun p far => (context.other p far).trans (other p far),
      context.own.trans (congrArg QueueCtx.state off)⟩
  · next short =>
    exact ⟨⟨h.cmds, h.state, .inr (by rw [← Bool.not_eq_true]; exact short)⟩, other, congrArg QueueCtx.state off⟩

theorem settleQueue_replays {cs : List Cmd} {s : State} (h : Replays cs s) (q : Nat) :
    Replays cs (s.settleQueue q) ∧ (∀ p, p ≠ q → (s.settleQueue q).queue p = s.queue p) ∧
    ((s.settleQueue q).queue q = s.queue q ∨ ((s.settleQueue q).queue q).state = .disabled) := by
  unfold State.settleQueue
  dsimp only
  split
  · obtain ⟨goes, other, off⟩ := disableQueue_replays h q
    exact ⟨goes, other, .inr off⟩
  · exact ⟨h, fun _ _ => rfl, .inl rfl⟩

theorem resumeState_held (x : QState) : resumeState x ≠ .held := by cases x <;> decide

/-- One queue's turn in the replay. -/
theorem releaseHeld_replays {cs : List Cmd} {s : State} (h : Replays cs s) (q : Nat) :
    Replays cs (s.releaseHeld q) ∧ (∀ p, p ≠ q → (s.releaseHeld q).queue p = s.queue p) ∧
    ((s.queue q).state ≠ .held ∨ s.replayStarted q = true → ((s.releaseHeld q).queue q).state ≠ .held) := by
  unfold State.releaseHeld
  split
  · next turn =>
    obtain ⟨goes, other, own⟩ := settleQueue_replays (s := s.putQueue q { s.queue q with state := resumeState (s.queue q).heldFrom })
      ⟨h.cmds, h.state, h.owed⟩ q
    refine ⟨goes, fun p far => (other p far).trans (queue_putQueue_other s far _), fun _ => ?_⟩
    rcases own with same | off
    · rw [same, State.queue_putQueue]
      exact resumeState_held _
    · rw [off]
      decide
  · next waits =>
    refine ⟨h, fun _ _ => rfl, fun free held => ?_⟩
    exact waits ⟨h.state, held, free.resolve_left (not_not_intro held)⟩

theorem releaseHeld_waits {s : State} {q : Nat} (waits : s.replayStarted q = false) : s.releaseHeld q = s :=
  if_neg (fun h => absurd (waits.symm.trans h.2.2) (by decide))

theorem releaseHeld_free {s : State} {q : Nat} (free : (s.queue q).state ≠ .held) : s.releaseHeld q = s := if_neg (fun h => free h.2.1)

/-- A queue held from ACTIVE, for which nothing is left to run or write again, is ACTIVE again. -/
theorem releaseHeld_active {cs : List Cmd} {s : State} {q : Nat} (h : Replays cs s) (held : (s.queue q).state = .held)
    (before : (s.queue q).heldFrom = .active) (started : s.replayStarted q = true) :
    (s.releaseHeld q).queue q = { s.queue q with state := .active } := by
  unfold State.releaseHeld
  rw [if_pos ⟨h.state, held, started⟩, before, settleQueue_serving]
  · exact State.queue_putQueue s q _
  · rw [State.queue_putQueue]
    exact (by decide : resumeState .active ≠ .aborting)
  · rw [State.queue_putQueue]
    exact (by decide : resumeState .active ≠ .draining)

/-! ### All queues in turn -/

/-- The queues' turns in the replay, one after the other. -/
def State.releaseTurns (s : State) (l : Tab QueueCtx) : State := l.foldl (fun u e => u.releaseHeld e.1) s

section
variable {cs : List Cmd} {l : Tab QueueCtx} {s : State}

theorem releaseTurns_replays (h : Replays cs s) : Replays cs (s.releaseTurns l) := by
  unfold State.releaseTurns
  induction l generalizing s with
  | nil => exact h
  | cons e l ih => exact ih (releaseHeld_replays h e.1).1

/-- What holds of the queue before its turns, whatever the others' turns do, and what one turn of its own keeps, holds after them. -/
theorem releaseTurns_kept {q : Nat} {P : QueueCtx → Prop} (h : Replays cs s) (turn : ∀ u, Replays cs u → P (u.queue q) → P ((u.releaseHeld q).queue q))
    (now : P (s.queue q)) : P ((s.releaseTurns l).queue q) := by
  unfold State.releaseTurns
  induction l generalizing s with
  | nil => exact now
  | cons e l ih =>
    refine ih (releaseHeld_replays h e.1).1 ?_
    by_cases own : q = e.1
    · exact own ▸ turn s h now
    · rw [(releaseHeld_replays h e.1).2.1 q own]
      exact now

/-- With its turn among them, what that turn makes of the queue holds after them. -/
theorem releaseTurns_turned {q : Nat} {P Q : QueueCtx → Prop} (h : Replays cs s) (turn : ∀ u, Replays cs u → P (u.queue q) → Q ((u.releaseHeld q).queue q))
    (still : ∀ u, Replays cs u → Q (u.queue q) → Q ((u.releaseHeld q).queue q)) (now : P (s.queue q)) (listed : ∃ e ∈ l, e.1 = q) :
    Q ((s.releaseTurns l).queue q) := by
  induction l generalizing s with
  | nil =>
    obtain ⟨e, there, -⟩ := listed
    exact absurd there List.not_mem_nil
  | cons e l ih =>
    by_cases own : q = e.1
    · exact releaseTurns_kept (s := s.releaseHeld e.1) (releaseHeld_replays h e.1).1 still (own ▸ turn s h now)
    · refine ih (s := s.releaseHeld e.1) (releaseHeld_replays h e.1).1 ?_ ?_
      · rw [(releaseHeld_replays h e.1).2.1 q own]
        exact now
      · obtain ⟨f, there, same⟩ := listed
        rcases List.mem_cons.mp there with first | later
        · exact absurd (same.symm.trans (congrArg Prod.fst first)) own
        · exact ⟨f, later, same⟩

end

/-! ### REPLAY_GO -/

theorem payOwed_settled {cs : List Cmd} {s : State} (h : Replays cs s) : s.settleReplay.payOwed = s.settleReplay := by
  have same : s.settleReplay.jnl.owed = s.jnl.owed := by
    unfold State.settleReplay
    split <;> rfl
  rcases h.owed with paid | short
  · exact payOwed_none (same.trans paid)
  · have closed : s.settleReplay.contextFits = false := by
      unfold State.settleReplay
      split
      · rw [← short]
        unfold State.contextFits State.journalOpen
        rw [h.state]
        rfl
      · exact short
    unfold State.payOwed
    exact foldl_fixed (fun o _ => if_neg (by rw [closed]; decide))

theorem exec_replayGo {s : State} (alive : s.alive = true) (waiting : s.jnl.state = .awaitGo) (own : s.twin.adopting = false) (paid : s.jnl.owed = [])
    {cs : List Cmd} (cs_eq : cs = s.cmds.filter (fun c => !(c.phase == .journaled && decide (c.n ≤ (s.queue c.q).cqHead)))) :
    ∃ t : State, t.queues = s.queues ∧ Replays cs t ∧ exec .replayGo s = .next (t.releaseTurns s.queues).settleReplay := by
  refine ⟨{ s with cmds := cs, jnl := { s.jnl with state := .replaying }, twin := { s.twin with adopting := false, adoptNotices := [] } }, rfl,
    ⟨rfl, rfl, .inl paid⟩, ?_⟩
  refine congrArg Host.Outcome.next ?_
  have goes := releaseTurns_replays (l := s.queues) (cs := cs)
    (s := { s with cmds := cs, jnl := { s.jnl with state := .replaying }, twin := { s.twin with adopting := false, adoptNotices := [] } }) ⟨rfl, rfl, .inl paid⟩
  rw [← payOwed_settled goes]
  unfold replayGo
  rw [if_neg (by rw [alive]; decide), if_neg (by rw [waiting]; decide), if_neg (by rw [waiting]; decide), ← cs_eq]
  dsimp only
  rw [if_neg (by rw [own]; decide)]
  rfl

theorem listed_of_held {t : Tab QueueCtx} {q : Nat} (held : (tabGet {} t q).state = .held) : ∃ e ∈ t, e.1 = q := by
  induction t with
  | nil => cases held
  | cons x t ih =>
    obtain ⟨k, v⟩ := x
    by_cases own : q = k
    · exact ⟨(k, v), List.mem_cons_self, own.symm⟩
    · have next : tabGet {} ((k, v) :: t) q = tabGet {} t q := if_neg own
      obtain ⟨e, there, same⟩ := ih (next ▸ held)
      exact ⟨e, List.mem_cons_of_mem _ there, same⟩

/-! ### What keeps a queue HELD (R367 steps 5 and 6) -/

theorem marksMet_congr {s t : State} {c : Cmd} (cmds : t.cmds = s.cmds) (queue : t.queue c.q = s.queue c.q) : t.marksMet c = s.marksMet c := by
  unfold State.marksMet
  rw [cmds, queue]

/-- A completion record to write again, or a command to run again whose marks are met behind no other to run again, keeps the queue HELD. -/
theorem replayStarted_waits {s : State} {c : Cmd} (there : c ∈ s.cmds) (sound : c.refused1 = false)
    (left : (c.phase = .journaled ∧ c.replayed = false) ∨ (c.phase = .accepted ∧ c.replayed = true ∧ s.marksMet c = true ∧
      ∀ d ∈ s.cmds, d.q = c.q → d.n < c.n → d.phase ≠ .accepted)) : s.replayStarted c.q = false := by
  unfold State.replayStarted
  rw [Bool.not_eq_false', List.any_eq_true]
  refine ⟨c, there, ?_⟩
  rcases left with ⟨phase, again⟩ | ⟨phase, again, marks, first⟩
  · simp [phase, again]
  · have behind : ∀ d ∈ s.cmds, d.q = c.q → d.phase = .accepted → d.replayed = true → d.refused1 = false → c.n ≤ d.n :=
      fun d listed own accepted _ _ => Nat.le_of_not_lt (fun before => first d listed own before accepted)
    simpa [Cmd.toRepeat, phase, again, sound, marks] using behind

/-- A queue without commands, or with none to run or write again, has started all it has to. -/
theorem replayStarted_free {s : State} {q : Nat} (free : ∀ c ∈ s.cmds, c.q ≠ q ∨ (c.replayed = false ∧ c.phase ≠ .journaled)) : s.replayStarted q = true := by
  unfold State.replayStarted
  rw [Bool.not_eq_true', List.any_eq_false]
  intro c there
  rcases free c there with other | ⟨fresh, open'⟩
  · simp [other]
  · simp [Cmd.toRepeat, fresh, open']

theorem settleReplay_queue (s : State) (q : Nat) : s.settleReplay.queue q = s.queue q := by
  unfold State.settleReplay
  split <;> rfl

theorem settleReplay_queues (s : State) : s.settleReplay.queues = s.queues := by
  unfold State.settleReplay
  split <;> rfl

theorem settleReplay_cmds (s : State) : s.settleReplay.cmds = s.cmds := by
  unfold State.settleReplay
  split <;> rfl

end Sys2Proof.Machine

/-- Settles O19: each queue's own turn decides what it returns to, and the others' turns leave it (`releaseTurns_kept`, `releaseTurns_turned`). -/
theorem replayReleases : Obligations.ReplayReleases := by
  unfold Obligations.ReplayReleases
  refine ⟨fun s cs alive waiting own paid cs_eq => ?_, fun s alive broken => ?_⟩
  · obtain ⟨t, queues, goes, step⟩ := exec_replayGo alive waiting own paid cs_eq
    have before : ∀ q, t.queue q = s.queue q := fun q => by unfold State.queue; rw [queues]
    have after := releaseTurns_replays (l := s.queues) goes
    refine ⟨_, step, (settleReplay_cmds _).trans after.cmds, fun q held => ⟨?_, ?_⟩, ?_, fun fresh => ⟨fun q => ?_, ?_⟩⟩
    · rintro ⟨c, there, rfl, sound, left⟩
      rw [settleReplay_queue]
      refine releaseTurns_kept (P := (· = s.queue c.q)) goes (fun u replays same => ?_) (before c.q)
      have marks := marksMet_congr (s := { s with cmds := cs }) (c := c) replays.cmds same
      rw [releaseHeld_waits (replayStarted_waits (by rw [replays.cmds]; exact there) sound (by rw [marks, replays.cmds]; exact left))]
      exact same
    · intro none active
      rw [settleReplay_queue]
      refine releaseTurns_turned (P := (· = s.queue q)) (Q := (· = { s.queue q with state := .active })) goes (fun u replays same => ?_)
        (fun u _ same => ?_) (before q) (listed_of_held held)
      · have started := replayStarted_free (s := u) (q := q) (fun c there => .inl (none c (replays.cmds ▸ there)))
        rw [releaseHeld_active replays (by rw [same]; exact held) (by rw [same]; exact active) started, same]
      · rw [releaseHeld_free (by rw [same]; exact (by decide : QState.active ≠ .held))]
        exact same
    · rintro ⟨c, there, again⟩
      refine Eq.trans (congrArg (fun u : State => u.jnl.state) (if_neg ?_)) after.state
      rintro ⟨-, done, -⟩
      rw [after.cmds] at done
      exact absurd (List.all_eq_true.mp done c there) (by rw [again]; decide)
    · have started : ∀ u, Replays cs u → u.replayStarted q = true :=
        fun u replays => replayStarted_free (fun c there => .inr (fresh c (replays.cmds ▸ there)))
      have turn : ∀ u, Replays cs u → ((u.releaseHeld q).queue q).state ≠ .held := fun u replays => (releaseHeld_replays replays q).2.2 (.inr (started u replays))
      rw [settleReplay_queue]
      by_cases held : (s.queue q).state = .held
      · exact releaseTurns_turned (P := fun _ => True) (Q := (QueueCtx.state · ≠ .held)) goes (fun u replays _ => turn u replays)
          (fun u replays _ => turn u replays) trivial (listed_of_held held)
      · exact releaseTurns_kept (P := (QueueCtx.state · ≠ .held)) goes (fun u replays _ => turn u replays) (by rw [before]; exact held)
    · intro free
      rw [settleReplay_queues] at free
      refine congrArg (fun u : State => u.jnl.state) (if_pos ⟨after.state, ?_, ?_⟩)
      · rw [after.cmds]
        exact List.all_eq_true.mpr (fun c there => by rw [(fresh c there).1]; rfl)
      · exact List.all_eq_true.mpr (fun e there => by simpa using free e there)
  · refine congrArg Host.Outcome.next ?_
    unfold replayGo
    rw [if_neg (by rw [alive]; decide), if_pos broken]

end

section
/-! PROOFS. Instructions of a stream program: those on registers, the moves, and handles (R321 to R331). -/

open Sys2Proof Sys2Proof.Machine

namespace Sys2Proof.Machine

/-! ### An instruction's row (R323, R332) -/

section
variable {code : Nat} {s : State} {q n : Nat} {c : Cmd} {t : Thread} {i : Ins}

/-- At its instruction the row runs it, and notes the issue slot. -/
theorem insRow_atIns (at' : AtIns code s q n c t i) (f : State → Cmd → Thread → Ins → State) : insRow code f q n s = noteIssue t (f s c t i) := by
  obtain ⟨runs, found, kept, idle, going, region, calm, inside, ins, op⟩ := at'
  unfold insRow
  rw [runs, found]
  dsimp only
  rw [if_neg, ins, if_neg (not_not_intro op), calm]
  · rfl
  · simp [kept, idle, going, region, inside]

/-- A thread written where one of its name stood is found there. -/
theorem thread?_written {w : State} {u : Thread} (found : s.thread? q n = some t) (queue : u.q = t.q) (number : u.n = t.n)
    (threads : w.threads = (s.putThread u).threads) : w.thread? t.q t.n = some u := by
  have named := List.find?_some found
  simp only [Bool.and_eq_true, beq_iff_eq] at named
  obtain ⟨own, place⟩ := named
  have same : (fun v : Thread => v.q == t.q && v.n == t.n) ∘ (fun v => if v.q = u.q ∧ v.n = u.n then u else v) = fun v => v.q == t.q && v.n == t.n := by
    funext v
    dsimp only [Function.comp]
    split
    · next key => rw [key.1, key.2]
    · rfl
  unfold State.thread?
  rw [threads, State.putThread_threads, List.find?_map, same]
  unfold State.thread? at found
  rw [own, place, found]
  exact congrArg some (if_pos ⟨queue.symm, number.symm⟩)

theorem noteIssue_ran {w : State} {u : Thread} (found : s.thread? q n = some t) (queue : u.q = t.q) (number : u.n = t.n)
    (ran : u.executed = t.executed + 1) (threads : w.threads = (s.putThread u).threads) : noteIssue t w = w.count (pgRegion t.region) 0x102 1 := by
  unfold noteIssue
  rw [thread?_written found queue number threads]
  simp [ran, bit]

theorem noteIssue_waits {w : State} {u : Thread} (found : s.thread? q n = some t) (queue : u.q = t.q) (number : u.n = t.n)
    (waits : u.executed = t.executed) (threads : w.threads = (s.putThread u).threads) : noteIssue t w = w.count (pgRegion t.region) 0x102 0 := by
  unfold noteIssue
  rw [thread?_written found queue number threads]
  simp [waits, bit]

theorem AtIns.found (at' : AtIns code s q n c t i) : s.thread? q n = some t := at'.2.1

/-- An instruction that only moves its thread on. -/
theorem insRow_registers (at' : AtIns code s q n c t i) {f : State → Cmd → Thread → Ins → State} {u : Thread} (f_eq : f s c t i = s.putThread u)
    (queue : u.q = t.q) (number : u.n = t.n) (ran : u.executed = t.executed + 1) :
    insRow code f q n s = (s.putThread u).count (pgRegion t.region) 0x102 1 := by
  rw [insRow_atIns at', f_eq]
  exact noteIssue_ran at'.found queue number ran rfl

theorem insSkipz_read {b : Bytes} (read : s.dynRead c.q (t.p i.pa) 4 = .ok b) : insSkipz s c t i = s.putThread { t.next with
    pc := if (bitAt i.sub 0 = false ∧ leNat b = 0) ∨ (bitAt i.sub 0 = true ∧ leNat b ≠ 0) then t.pc + 1 + i.imm32 else t.pc + 1 } := by
  unfold insSkipz
  rw [read]
  by_cases zero : leNat b = 0 <;> cases sub : bitAt i.sub 0 <;> simp [zero, Thread.next]

/-! ### Moves (R323, R325) -/

theorem codeOf_nat (k : Nat) : codeOf 48 (k : Int) = k % 2 ^ 48 := by
  unfold codeOf
  omega

/-- A move that nothing refuses takes its place, and its thread goes on. -/
theorem issueMove_placed {t' : Thread} {srcs : List Nat} {ws : Writes} (free : ∀ w ∈ joinWrites ws, s.dynRefusal c.q w.1 w.2.length = none)
    {dirs : List Nat} (dirs_eq : dirs = (if (ws.map (·.1)).any (fun a => decide (s.tierOf a = some .slate)) then [0] else []) ++
      (if srcs.any (fun a => decide (s.tierOf a = some .slate)) then [1] else [])) :
    issueMove s c t' srcs ws =
      (s.putThread { t'.next with moves := t'.moves ++ [⟨ws, (ws.map (fun w => w.2.length)).sum, dirs⟩] }).putCmd { c with committed := true } := by
  unfold issueMove
  rw [List.findSome?_eq_none_iff.mpr free, dirs_eq]

/-- A move's row: it takes its place, and the issue is noted. -/
theorem insRow_move (at' : AtIns code s q n c t i) {f : State → Cmd → Thread → Ins → State} {u : Thread} {d : Cmd}
    (f_eq : f s c t i = (s.putThread u).putCmd d) (queue : u.q = t.q) (number : u.n = t.n) (ran : u.executed = t.executed + 1) :
    insRow code f q n s = ((s.putThread u).putCmd d).count (pgRegion t.region) 0x102 1 := by
  rw [insRow_atIns at', f_eq]
  exact noteIssue_ran at'.found queue number ran rfl

/-- Pointers move on, and nothing else of the thread. -/
theorem bump_eq (t : Thread) (on : Bool) (p k : Nat) : t.bump on p k = { t with ptr := (t.bump on p k).ptr } := by
  cases on <;> rfl

theorem placeFree_of_lt (free : t.moves.length < stInFlight c) : placeFree c t = true := decide_eq_true free

/-- The directions of a move of one source and one destination. -/
def moveDirs (s : State) (dst src : Nat) : List Nat :=
  (if s.tierOf dst = some .slate then [0] else []) ++ (if s.tierOf src = some .slate then [1] else [])

theorem issueMove_one {t' : Thread} {src dst : Nat} {bs : Bytes} (free : s.dynRefusal c.q dst bs.length = none) :
    issueMove s c t' [src] [(dst, bs)] =
      (s.putThread { t'.next with moves := t'.moves ++ [⟨[(dst, bs)], bs.length, moveDirs s dst src⟩] }).putCmd { c with committed := true } := by
  refine (issueMove_placed (dirs := moveDirs s dst src) (fun w there => ?_) ?_).trans ?_
  · rw [joinWrites_one, List.mem_singleton] at there
    rw [there]
    exact free
  · simp [moveDirs]
  · simp

theorem insMove_placed (free : t.moves.length < stInFlight c) {bs : Bytes} (read : s.dynRead c.q (t.p i.pa) i.imm32 = .ok bs)
    (allowed : s.dynRefusal c.q (t.p i.pb) bs.length = none) : insMove s c t i =
      (s.putThread { t.next with
        ptr := ((t.bump (bitAt i.sub 0) i.pa i.imm32).bump (bitAt i.sub 1) i.pb i.imm32).ptr
        moves := t.moves ++ [⟨[(t.p i.pb, bs)], bs.length, moveDirs s (t.p i.pb) (t.p i.pa)⟩] }).putCmd { c with committed := true } := by
  unfold insMove
  rw [if_neg (by rw [placeFree_of_lt free]; decide), read]
  dsimp only
  rw [issueMove_one allowed, bump_eq (t.bump (bitAt i.sub 0) i.pa i.imm32), bump_eq t]
  rfl

theorem insConv_placed (free : t.moves.length < stInFlight c) {F G : Fmt} (source : fmtOf (i.imm64 % 256) = some F)
    (target : fmtOf (i.imm64 / 256 % 256) = some G) {bs : Bytes} (read : s.dynRead c.q (t.p i.pa) (i.imm32 * F.bytes) = .ok bs)
    (allowed : s.dynRefusal c.q (t.p i.pb) (convBytes F G bs).1.length = none) : insConv s c t i =
      (s.putThread { t.next with
        ptr := ((t.bump (bitAt i.sub 0) i.pa (i.imm32 * F.bytes)).bump (bitAt i.sub 1) i.pb (i.imm32 * G.bytes)).ptr
        moves := t.moves ++ [⟨[(t.p i.pb, (convBytes F G bs).1)], (convBytes F G bs).1.length, moveDirs s (t.p i.pb) (t.p i.pa)⟩] }).putCmd
          { c with sat := c.sat + (convBytes F G bs).2, committed := true } := by
  unfold insConv
  rw [if_neg (by rw [placeFree_of_lt free]; decide), source, target]
  dsimp only
  rw [read]
  dsimp only
  rw [issueMove_one (by exact allowed), bump_eq (t.bump (bitAt i.sub 0) i.pa (i.imm32 * F.bytes)), bump_eq t]
  rfl

theorem convBytes_eq (F G : Fmt) (bs : Bytes) :
    (convBytes F G bs).1 = (pieces F.bytes bs).flatMap (fun b => natBytes G.bytes (encElem G .rne (decElem F (leNat b))).code) := by
  unfold convBytes
  exact List.flatMap_map ..

theorem mapM_all_ok {α β : Type} {f : α → Except Status β} {g : α → β} {l : List α} (ok : ∀ x ∈ l, f x = .ok (g x)) : l.mapM f = .ok (l.map g) := by
  induction l with
  | nil => rfl
  | cons x l ih =>
    rw [List.mapM_cons, ok x List.mem_cons_self, ih (fun y there => ok y (List.mem_cons_of_mem _ there))]
    rfl

theorem listDone_eq (t : Thread) (i : Ins) : listDone t i = { t with ptr := (listDone t i).ptr } := by
  unfold listDone
  rw [bump_eq (t.bump true i.pc (4 * i.imm32)), bump_eq t]

/-- The positions of a list, each with its read, give the listed values in order. -/
theorem mapM_range_listed {β : Type} [Nonempty β] {f : Nat → Except Status β} {p : β → Nat × Bytes} {m : Nat} {ws : Writes} (length : ws.length = m)
    (each : ∀ k, k < m → ∃ x, f k = .ok x ∧ ws[k]? = some (p x)) : ∃ xs, (List.range m).mapM f = .ok xs ∧ xs.map p = ws := by
  obtain ⟨g, spec⟩ : ∃ g : Nat → β, ∀ k, k < m → f k = .ok (g k) ∧ ws[k]? = some (p (g k)) :=
    ⟨fun k => Classical.epsilon fun x => f k = .ok x ∧ ws[k]? = some (p x), fun k inside => Classical.epsilon_spec (each k inside)⟩
  have ok := fun k inside => (spec k inside).1
  have listed := fun k inside => (spec k inside).2
  refine ⟨(List.range m).map g, mapM_all_ok (fun k there => ok k (List.mem_range.mp there)), List.ext_getElem? (fun k => ?_)⟩
  by_cases inside : k < m
  · simp [inside, listed]
  · simp [inside, List.getElem?_eq_none (l := ws) (i := k) (by omega)]

theorem listAddr_ok {k : Nat} {b : Bytes} (index : s.dynRead c.q ((t.p i.pc + 4 * k) % 2 ^ 48) 4 = .ok b) :
    listAddr s c.q t i k = .ok ((t.p i.pa + signedOf 32 (leNat b) * 2 ^ i.sub) % 2 ^ 48).toNat := by
  unfold listAddr
  rw [index]
  rfl

/-- Two reads that succeed, the second at what the first gives. -/
theorem bind_bind_ok {α β γ : Type} {x : Except Status α} {a : α} (first : x = .ok a) {f : α → Except Status β} {b : β} (second : f a = .ok b)
    (g : α → β → γ) : (do let a ← x; let b ← f a; .ok (g a b)) = Except.ok (g a b) := by
  rw [first]
  show (f a >>= _) = _
  rw [second]
  rfl

/-- GATH: with every position read and every write allowed, its move takes its place. -/
theorem insGath_placed (free : t.moves.length < stInFlight c) {ws : Writes} (length : ws.length = i.imm32)
    (each : ∀ k, k < i.imm32 → ∃ b bs : Bytes, s.dynRead c.q ((t.p i.pc + 4 * k) % 2 ^ 48) 4 = .ok b ∧
      s.dynRead c.q ((t.p i.pa + signedOf 32 (leNat b) * 2 ^ i.sub) % 2 ^ 48).toNat (2 ^ i.sub) = .ok bs ∧
      ws[k]? = some ((t.p i.pb + k * 2 ^ i.sub) % 2 ^ 48, bs))
    (allowed : ∀ w ∈ joinWrites ws, s.dynRefusal c.q w.1 w.2.length = none) : ∃ (bytes : Nat) (ds : List Nat), insGath s c t i =
      (s.putThread { t.next with ptr := (listDone t i).ptr, moves := t.moves ++ [⟨ws, bytes, ds⟩] }).putCmd { c with committed := true } := by
  obtain ⟨xs, read, written⟩ := mapM_range_listed (β := Nat × Nat × Bytes) (p := Prod.snd) length (fun k inside => by
    obtain ⟨b, bs, index, data, listed⟩ := each k inside
    exact ⟨_, bind_bind_ok (f := fun a => s.dynRead c.q a (2 ^ i.sub)) (listAddr_ok index) data (fun a bs => (a, (t.p i.pb + k * 2 ^ i.sub) % 2 ^ 48, bs)), listed⟩)
  have row : insGath s c t i = issueMove s c (listDone t i) (xs.map (·.1)) ws := by
    unfold insGath
    rw [if_neg (by rw [placeFree_of_lt free]; decide)]
    dsimp only
    rw [read]
    dsimp only
    rw [written]
  rw [row, issueMove_placed allowed rfl]
  exact ⟨_, _, by rw [listDone_eq]; rfl⟩

/-- SCAT: with every position read and every write allowed, its move takes its place. -/
theorem insScat_placed (free : t.moves.length < stInFlight c) {ws : Writes} (length : ws.length = i.imm32)
    (each : ∀ k, k < i.imm32 → ∃ b bs : Bytes, s.dynRead c.q ((t.p i.pc + 4 * k) % 2 ^ 48) 4 = .ok b ∧
      s.dynRead c.q ((t.p i.pb + k * 2 ^ i.sub) % 2 ^ 48) (2 ^ i.sub) = .ok bs ∧
      ws[k]? = some (((t.p i.pa + signedOf 32 (leNat b) * 2 ^ i.sub) % 2 ^ 48).toNat, bs))
    (allowed : ∀ w ∈ joinWrites ws, s.dynRefusal c.q w.1 w.2.length = none) : ∃ (bytes : Nat) (ds : List Nat), insScat s c t i =
      (s.putThread { t.next with ptr := (listDone t i).ptr, moves := t.moves ++ [⟨ws, bytes, ds⟩] }).putCmd { c with committed := true } := by
  obtain ⟨xs, read, written⟩ := mapM_range_listed (β := Nat × Bytes) (p := id) length (fun k inside => by
    obtain ⟨b, bs, index, data, listed⟩ := each k inside
    exact ⟨_, bind_bind_ok (f := fun _ => s.dynRead c.q ((t.p i.pb + k * 2 ^ i.sub) % 2 ^ 48) (2 ^ i.sub)) (listAddr_ok index) data Prod.mk, listed⟩)
  rw [List.map_id] at written
  have row : insScat s c t i = issueMove s c (listDone t i) [t.p i.pb] ws := by
    unfold insScat
    rw [if_neg (by rw [placeFree_of_lt free]; decide)]
    dsimp only
    rw [read]
    dsimp only
    rw [written]
  rw [row, issueMove_placed allowed rfl]
  exact ⟨_, _, by rw [listDone_eq]; rfl⟩

/-- STREAM_MOVE_DONE: the oldest move writes its bytes, and the thread goes on (R325). -/
theorem exec_streamMoveDone {m : StreamMove} {rest : List StreamMove} {mover : Mover} {v : State} {d : Cmd}
    (runs : s.runnable q n (Cmd.isOp 0x105) = some c) (found : s.thread? q n = some t) (kept : t.saved = false) (going : t.ending = none)
    (moves : t.moves = m :: rest) (fits : moveFits s c t m mover = true) (written : commitWrites s c ⟨m.writes, 0⟩ = .ok (v, d)) {w : State × Cmd}
    (w_eq : w = (moverEngines mover).foldl (fun x e => x.1.movePieces x.2 m.bytes e) (v, d)) :
    exec (.streamMoveDone ⟨q, n⟩ mover) s = .next ((w.1.putThread { t with moves := rest, moved := t.moved + m.bytes }).putCmd w.2) := by
  have retired : retireMove s c t (moverEngines mover) = (w.1, w.2, { t with moves := rest, moved := t.moved + m.bytes }) := by
    unfold retireMove
    rw [moves]
    dsimp only
    rw [written, w_eq]
  refine congrArg Host.Outcome.next ?_
  show moveDone mover q n s = _
  unfold moveDone
  rw [runs, found]
  dsimp only
  rw [moves]
  dsimp only
  rw [if_neg (by rw [kept, fits]; decide), retired]
  unfold settleThread
  rw [show ({ t with moves := rest, moved := t.moved + m.bytes } : Thread).ending = none from going]

end

end Sys2Proof.Machine

/-- Settles O22: each instruction puts its thread back, one instruction further (`insRow_registers`). -/
theorem streamRegisters : Obligations.StreamRegisters := by
  unfold Obligations.StreamRegisters
  intro s q n c t u i uIs
  subst uIs
  refine ⟨fun at' => ?_, fun at' => ?_, fun at' => ?_, fun at' many => ?_, fun at' none => ?_, fun at' again => ?_, fun at' last => ?_,
    fun b at' read => ?_, fun at' done => ?_⟩
  · exact congrArg Host.Outcome.next (insRow_registers at' (f := insSetp) rfl rfl rfl rfl)
  · exact congrArg Host.Outcome.next (insRow_registers at' (f := insAddp) rfl rfl rfl rfl)
  · exact congrArg Host.Outcome.next (insRow_registers at' (f := insIdxp) rfl rfl rfl rfl)
  · exact congrArg Host.Outcome.next (insRow_registers at' (f := insLoop) (if_neg (Nat.ne_of_gt many)) rfl rfl rfl)
  · exact congrArg Host.Outcome.next (insRow_registers at' (f := insLoop) (if_pos none) rfl rfl rfl)
  · exact congrArg Host.Outcome.next (insRow_registers at' (f := insEndl) (if_pos again) rfl rfl rfl)
  · exact congrArg Host.Outcome.next (insRow_registers at' (f := insEndl) (if_neg (Nat.not_lt.mpr last)) rfl rfl rfl)
  · exact congrArg Host.Outcome.next (insRow_registers at' (insSkipz_read read) rfl rfl rfl)
  · exact congrArg Host.Outcome.next (insRow_registers at' (f := insFence) (if_pos (by rw [done]; rfl)) rfl rfl rfl)

/-- Settles O23: each kind of move reads at issue and takes its place (`issueMove_placed`); the oldest writes when it is done. -/
theorem streamMoves : Obligations.StreamMoves := by
  unfold Obligations.StreamMoves
  intro s q n c t u i dirs uIs free dirsIs
  have directions : dirs = moveDirs s (t.p i.pb) (t.p i.pa) := dirsIs
  subst uIs directions
  refine ⟨fun bs at' read allowed => ?_, fun F G bs out at' source target read outIs allowed => ⟨c.sat + (convBytes F G bs).2, ?_⟩,
    fun ws at' length each allowed => ?_, fun ws at' length each allowed => ?_, 
    fun m rest mover v d w runs found kept going moves fits written wIs => exec_streamMoveDone runs found kept going moves fits written wIs⟩
  · exact congrArg Host.Outcome.next (insRow_move at' (insMove_placed free read allowed) rfl rfl rfl)
  · rw [← convBytes_eq] at outIs
    subst outIs
    exact congrArg Host.Outcome.next (insRow_move at' (insConv_placed free source target read allowed) rfl rfl rfl)
  · obtain ⟨bytes, ds, placed⟩ := insGath_placed free length each allowed
    exact ⟨bytes, ds, congrArg Host.Outcome.next (insRow_move at' placed rfl rfl rfl)⟩
  · obtain ⟨bytes, ds, placed⟩ := insScat_placed free length each allowed
    exact ⟨bytes, ds, congrArg Host.Outcome.next (insRow_move at' placed rfl rfl rfl)⟩

end

section
/-! PROOFS. Handle queues: TAKE, GIVE, GIVEI, the service of waiters, and HQ (R323, R330, R331). -/

open Sys2Proof Sys2Proof.Machine

namespace Sys2Proof.Machine

/-! ### Handles (R323, R330) -/

section
variable {code : Nat} {s : State} {q n : Nat} {c : Cmd} {t : Thread} {i : Ins}

/-- A thread that goes on after a handle queue has changed. -/
theorem insRow_handle_ran (at' : AtIns code s q n c t i) {f : State → Cmd → Thread → Ins → State} {k : Nat} {h : HandleQueue} {u : Thread}
    (f_eq : f s c t i = (s.putHq k h).putThread u) (queue : u.q = t.q) (number : u.n = t.n) (ran : u.executed = t.executed + 1) :
    insRow code f q n s = ((s.putHq k h).putThread u).count (pgRegion t.region) 0x102 1 := by
  rw [insRow_atIns at', f_eq]
  exact noteIssue_ran at'.found queue number ran rfl

/-- A thread that waits in a handle queue takes no issue slot. -/
theorem insRow_handle_waits (at' : AtIns code s q n c t i) {f : State → Cmd → Thread → Ins → State} {k : Nat} {h : HandleQueue}
    (f_eq : f s c t i = (s.putHq k h).putThread { t with waiting := true }) :
    insRow code f q n s = ((s.putHq k h).putThread { t with waiting := true }).count (pgRegion t.region) 0x102 0 := by
  rw [insRow_atIns at', f_eq]
  exact noteIssue_waits (u := { t with waiting := true }) at'.found rfl rfl rfl rfl

/-- The pointer that a TAKE makes, modulo 2^48. -/
theorem took_eq (t : Thread) (i : Ins) (x : Nat) :
    t.took i x = { t.next with ptr := t.ptr.set i.pa ((nth 0 t.ptr i.pb + x * 2 ^ i.sub) % 2 ^ 48) } := by
  unfold Thread.took Thread.setP
  rw [show (t.p i.pb + x * 2 ^ i.sub : Int) = ((nth 0 t.ptr i.pb + x * 2 ^ i.sub : Nat) : Int) by push_cast; rfl, codeOf_nat]
  rfl

theorem insTake_taken {h : HandleQueue} (own : h = s.hq (i.imm32 % 1024)) (isOpen : h.isOpen = true) {x : Nat} {rest : List Nat}
    (handles : h.handles = x :: rest) (first : h.takers = []) :
    insTake s c t i = (s.putHq (i.imm32 % 1024) { h with handles := rest }).putThread (t.took i x) := by
  subst own
  unfold insTake
  dsimp only
  rw [if_neg (by rw [isOpen]; decide), handles, first]

theorem insTake_waits {h : HandleQueue} (own : h = s.hq (i.imm32 % 1024)) (isOpen : h.isOpen = true) (behind : h.handles = [] ∨ h.takers ≠ []) :
    insTake s c t i = (s.putHq (i.imm32 % 1024) { h with takers := h.takers ++ [⟨c.q, c.n, 0⟩] }).putThread { t with waiting := true } := by
  subst own
  unfold insTake
  dsimp only
  rw [if_neg (by rw [isOpen]; decide)]
  split
  · next handles first =>
    rcases behind with none | some
    · rw [none] at handles; cases handles
    · exact absurd first some
  · rfl

/-- A handle is given at once, or its giver waits: the row of GIVE and GIVEI of an open queue. -/
theorem insRow_give (at' : AtIns code s q n c t i) {f : State → Cmd → Thread → Ins → State} {k v : Nat} {h : HandleQueue} (own : h = s.hq k)
    (isOpen : h.isOpen = true) (f_eq : f s c t i = giveHandle s c t k v) : insRow code f q n s =
      if h.handles.length < h.depth ∧ h.givers = []
      then ((s.putHq k { h with handles := h.handles ++ [v] }).putThread t.next).count (pgRegion t.region) 0x102 1
      else ((s.putHq k { h with givers := h.givers ++ [⟨c.q, c.n, v⟩] }).putThread { t with waiting := true }).count (pgRegion t.region) 0x102 0 := by
  subst own
  have given : giveHandle s c t k v = if (s.hq k).handles.length < (s.hq k).depth ∧ (s.hq k).givers = []
      then (s.putHq k { s.hq k with handles := (s.hq k).handles ++ [v] }).putThread t.next
      else (s.putHq k { s.hq k with givers := (s.hq k).givers ++ [⟨c.q, c.n, v⟩] }).putThread { t with waiting := true } := if_neg (by rw [isOpen]; decide)
  split
  · next free => exact insRow_handle_ran at' (f_eq.trans (given.trans (if_pos free))) rfl rfl rfl
  · next full => exact insRow_handle_waits at' (f_eq.trans (given.trans (if_neg full)))

/-- GIVE finds the handle that its pointer names. -/
theorem insGive_handle {v : Nat} (small : v < 2 ^ 32) (named : nth 0 t.ptr i.pa = nth 0 t.ptr i.pb + v * 2 ^ i.sub) :
    insGive s c t i = giveHandle s c t (i.imm32 % 1024) v := by
  have distance : t.p i.pa - t.p i.pb = v * 2 ^ i.sub := by
    show nth 0 t.ptr i.pa - nth 0 t.ptr i.pb = _
    omega
  have behind : ¬ t.p i.pa < t.p i.pb := by
    show ¬ nth 0 t.ptr i.pa < nth 0 t.ptr i.pb
    omega
  have bound : v * 2 ^ i.sub < 2 ^ (32 + i.sub) := by
    rw [Nat.pow_add]
    exact Nat.mul_lt_mul_of_pos_right small (Nat.two_pow_pos _)
  unfold insGive
  dsimp only
  rw [distance, Nat.mul_mod_left, Nat.mul_div_cancel _ (Nat.two_pow_pos _), if_neg]
  rintro (h | h | h)
  · exact behind h
  · exact h rfl
  · exact absurd h (Nat.not_le.mpr bound)

/-- The thread that has waited longest takes the oldest handle (R330). -/
theorem exec_hqWaiterServed {k x : Nat} {w : HqWaiter} {ws : List HqWaiter} {xs : List Nat} (alive : s.alive = true) (isOpen : (s.hq k).isOpen = true)
    (takers : (s.hq k).takers = w :: ws) (handles : (s.hq k).handles = x :: xs) (listed : s.cmd? w.q w.n = some c) (found : s.thread? w.q w.n = some t)
    (kept : t.saved = false) : exec (.hqWaiterServed k) s =
      .next ((s.putHq k { s.hq k with takers := ws, handles := xs }).putThread { t.took (stIns c t.pc) x with waiting := false }) := by
  refine congrArg Host.Outcome.next ?_
  rw [if_pos alive]
  unfold hqServe
  dsimp only
  rw [if_neg (by rw [isOpen]; decide), takers, handles]
  dsimp only
  rw [listed, found]
  dsimp only
  rw [if_neg (by rw [kept]; decide)]

end

/-! ### HQ (R331) -/

/-- A command of one unit that nothing hinders: its row is the unit, its end and its status. -/
theorem runRow_oneUnit {op : Op} {sel : Cmd → Bool} {s t u : State} {q n : Nat} {c d e : Cmd} (one : op.total = fun _ _ => 1)
    (runnable : s.runnable q n sel = some c) (clear : injectedPage s (op.pages s c) = none) (todo : c.done = []) (ready : op.ready s c 0 = true)
    (tables : op.tables s c = []) (unit : op.unit s c 0 = .ok (t, d)) (fresh : d.done = []) (free : d.withheld = [])
    (finish : op.finish t { d with done := [0], units := d.units + op.weight s c 0 } = .ok (u, e)) :
    runRow op sel q n s = u.putCmd { e with phase := .ended } := by
  refine runRow_of_outcome runnable ?_
  rw [Op.outcome_of_unit one clear todo ready tables unit fresh free, finish]
  rfl

section
variable {i : Instr} {s t : State} {q n op : Nat} {c d : Cmd} (row : exec i s = .next (runRow hqOp (Cmd.isSub 0x106 op) q n s))
  (runnable : s.runnable q n (Cmd.isSub 0x106 op) = some c) (todo : c.done = []) (free : c.withheld = [])
include row runnable todo free

/-- The row of HQ is its one unit, and ends OK. -/
theorem exec_hq (unit : hqUnit s c 0 = .ok (t, d)) (same : d.done = c.done ∧ d.withheld = c.withheld) :
    exec i s = .next (t.putCmd { d with done := [0], units := d.units + 1, status := .ok, phase := .ended }) :=
  row.trans (congrArg Host.Outcome.next
    (runRow_oneUnit (op := hqOp) rfl runnable rfl todo rfl rfl unit (same.1.trans todo) (same.2.trans free) rfl))

end

theorem hqUnit_open {s : State} {c : Cmd} {b : Bytes} (k : Nat) (op : c.fld 0 1 = 1) (closed : (s.hq (c.fld 2 2)).isOpen = false)
    (seeds : s.readBytes (c.fld 8 8) (4 * c.fld 6 2) = .ok b) : hqUnit s c k =
      .ok (s.putHq (c.fld 2 2) { isOpen := true, depth := c.fld 4 2, handles := (pieces 4 b).map leNat }, { c with committed := true, wroteLocal := true }) := by
  simp only [hqUnit, hqNo, hqSeedAt, hqSeeds, hqDepth, op, closed, seeds]
  rfl

theorem hqUnit_close {s : State} {c : Cmd} (k : Nat) (op : c.fld 0 1 = 2) (takers : (s.hq (c.fld 2 2)).takers = [])
    (givers : (s.hq (c.fld 2 2)).givers = []) : hqUnit s c k = .ok (s.putHq (c.fld 2 2) {}, { c with committed := true, wroteLocal := true }) := by
  simp only [hqUnit, hqNo, op, takers, givers]
  rfl

theorem hqUnit_status {s : State} {c : Cmd} (k : Nat) (op : c.fld 0 1 = 3) :
    hqUnit s c k = commitWrites s c ⟨[(c.fld 16 8, (s.hq (c.fld 2 2)).report)], 0⟩ := by
  simp only [hqUnit, hqNo, op]

end Sys2Proof.Machine

/-- Settles O24: the handle instructions by their rows (`insRow_handle_ran`, `insRow_give`), HQ by its one unit (`exec_hq`). -/
theorem handleQueues : Obligations.HandleQueues := by
  unfold Obligations.HandleQueues
  refine ⟨fun s q n c t u i h uIs => ⟨?_, ?_, ?_, ?_⟩, ?_, ?_, ?_, ?_⟩
  · subst uIs
    intro x rest at' own isOpen handles first
    have taken := insTake_taken (c := c) (t := t) own isOpen handles first
    rw [took_eq] at taken
    exact congrArg Host.Outcome.next (insRow_handle_ran at' taken rfl rfl rfl)
  · intro at' own isOpen behind
    exact congrArg Host.Outcome.next (insRow_handle_waits at' (insTake_waits own isOpen behind))
  · subst uIs
    intro v at' own isOpen small named
    exact congrArg Host.Outcome.next (insRow_give at' own isOpen (insGive_handle small named))
  · subst uIs
    intro at' own isOpen
    exact congrArg Host.Outcome.next (insRow_give at' own isOpen (f := insGivei) rfl)
  · intro s k x w ws xs c t alive isOpen takers handles listed found kept
    rw [exec_hqWaiterServed alive isOpen takers handles listed found kept, took_eq]
    rfl
  · intro s q n c b runnable todo free closed seeds
    exact exec_hq (i := .hqOpen q n) rfl runnable todo free (hqUnit_open 0 (fld_op_of_runnable runnable) closed seeds) ⟨rfl, rfl⟩
  · intro s q n c runnable todo free takers givers
    exact exec_hq (i := .hqClose q n) rfl runnable todo free (hqUnit_close 0 (fld_op_of_runnable runnable) takers givers) ⟨rfl, rfl⟩
  · intro s q n c d t h runnable todo free own written
    subst own
    exact exec_hq (i := .hqStatus q n) rfl runnable todo free ((hqUnit_status 0 (fld_op_of_runnable runnable)).trans written)
      (commitWrites_sameWork written).done

end

section
/-! PROOFS. FENCE, SIGNAL and WAIT (R360, R362). -/

open Sys2Proof Sys2Proof.Machine

namespace Sys2Proof.Machine

section
variable {s : State} {q n : Nat} {c : Cmd}

/-- SIGNAL stores the larger of its word and VALUE, notes the write, and ends OK. -/
theorem exec_signal {b : Bytes} (runnable : s.runnable q n (Cmd.isOp 0x802) = some c) (todo : c.done = []) (free : c.withheld = [])
    (read : s.readBytes (syAddr c) 8 = .ok b) (allowed : s.refusal (syAddr c) 8 true = none) :
    ∃ d : Cmd, d.status = .ok ∧ d.phase = .ended ∧ Wrote s c (s.storeBytes (syAddr c) (natBytes 8 (max (leNat b) (syValue c)))) d ∧
      exec (.signal q n) s = .next ((s.storeBytes (syAddr c) (natBytes 8 (max (leNat b) (syValue c)))).putCmd d) := by
  have written := commitWrites_run (bs := natBytes 8 (max (leNat b) (syValue c))) c (by rw [natBytes_length]; exact allowed)
  have unit : signalUnit s c 0 = .ok (s.storeBytes (syAddr c) (natBytes 8 (max (leNat b) (syValue c))),
      c.noteWrite s (syAddr c) (natBytes 8 (max (leNat b) (syValue c))).length) := by
    unfold signalUnit
    rw [read]
    exact written
  have same := (commitWrites_sameWork written).done
  refine ⟨{ c.noteWrite s (syAddr c) (natBytes 8 (max (leNat b) (syValue c))).length with
    done := [0], units := (c.noteWrite s (syAddr c) (natBytes 8 (max (leNat b) (syValue c))).length).units + 1, status := .ok, phase := .ended }, rfl, rfl,
    (commitWrites_wrote written).cmd rfl rfl, congrArg Host.Outcome.next ?_⟩
  exact runRow_oneUnit (op := signalOp) rfl runnable rfl todo rfl rfl unit (same.1.trans todo) (same.2.trans free) rfl

/-- Output is visible on the paths named once no write to Slate is outstanding and every peer has acknowledged. -/
theorem visible_of_quiet {paths : Nat} (link : paths.testBit 0 = true → ∀ r ∈ s.per.requests, r.write = false) (peers : paths.testBit 2 = true → s.lnk.unacked = []) :
    s.visible paths = true := by
  unfold State.visible bitAt
  rw [Bool.and_eq_true, Bool.or_eq_true, Bool.or_eq_true]
  constructor
  · cases on : paths.testBit 0
    · exact .inl rfl
    · refine .inr ?_
      rw [Bool.not_eq_true', List.any_eq_false]
      exact fun r there => by rw [link on r there]; decide
  · cases on : paths.testBit 2
    · exact .inl rfl
    · exact .inr (by rw [peers on]; rfl)

theorem exec_fence (runnable : s.runnable q n (Cmd.isOp 0x801) = some c) (todo : c.done = []) (free : c.withheld = [])
    (visible : s.visible (fnPaths c) = true) : exec (.fence q n) s = .next (s.putCmd { c with done := [0], status := .ok, phase := .ended }) :=
  congrArg Host.Outcome.next (runRow_oneUnit (op := fenceOp) rfl runnable rfl todo visible rfl rfl todo free rfl)

theorem waitReady_iff {b : Bytes} (read : s.readBytes (syAddr c) 8 = .ok b) (k : Nat) : waitReady s c k = decide (syValue c ≤ leNat b) := by
  unfold waitReady
  rw [read]

theorem exec_wait_reached {b : Bytes} (runnable : s.runnable q n (Cmd.isOp 0x803) = some c) (todo : c.done = []) (free : c.withheld = [])
    (read : s.readBytes (syAddr c) 8 = .ok b) (reached : syValue c ≤ leNat b) :
    exec (.wait q n) s = .next (s.putCmd { c with done := [0], status := .ok, phase := .ended }) := by
  have unit : waitOp.unit s c 0 = .ok (s, c) := by
    show (s.readBytes (syAddr c) 8).map (fun _ => (s, c)) = _
    rw [read]
    rfl
  exact congrArg Host.Outcome.next (runRow_oneUnit (op := waitOp) rfl runnable rfl todo ((waitReady_iff read 0).trans (decide_eq_true reached)) rfl unit todo free rfl)

theorem exec_wait_below {b : Bytes} (runnable : s.runnable q n (Cmd.isOp 0x803) = some c) (todo : c.done = [])
    (read : s.readBytes (syAddr c) 8 = .ok b) (below : leNat b < syValue c) : exec (.wait q n) s = .next (s.putCmd c) := by
  have waits : waitReady s c 0 = false := (waitReady_iff read 0).trans (decide_eq_false (Nat.not_le.mpr below))
  have none : waitOp.runUnits [0] s c = (s, c, none) := by
    rw [Op.runUnits, if_neg (by rw [todo]; decide), if_pos (by show (!waitReady s c 0) = true; rw [waits]; rfl)]
  have left : waitOp.nextUnit s c = some 0 := by
    unfold Op.nextUnit
    rw [todo]
    rfl
  have stays : waitOp.runAll s c = (s, c) := by
    show waitOp.settle (waitOp.runUnits [0] s c) = _
    rw [none]
    unfold Op.settle
    dsimp only
    rw [left]
    rfl
  refine congrArg Host.Outcome.next ?_
  unfold runRow
  rw [runnable]
  dsimp only
  rw [stays]

theorem exec_waitTimeout {b : Bytes} (runnable : s.runnable q n (Cmd.isOp 0x803) = some c)
    (read : s.readBytes (syAddr c) 8 = .ok b) (below : leNat b < syValue c) (timed : syTimeout c ≠ 0) :
    exec (.waitTimeout q n) s = .next (s.putCmd { c with phase := .ended, status := .limit }) := by
  have waits : waitReady s c 0 = false := (waitReady_iff read 0).trans (decide_eq_false (Nat.not_le.mpr below))
  refine congrArg Host.Outcome.next ?_
  unfold waitTimeout
  rw [runnable]
  dsimp only
  rw [if_neg (by rw [waits]; simp [timed])]

end

end Sys2Proof.Machine

/-- Settles O39: SIGNAL's one unit stores the larger word; FENCE and WAIT end when they are ready, and change nothing besides. -/
theorem syncRows : Obligations.SyncRows := by
  unfold Obligations.SyncRows
  refine ⟨fun s q n a c b runnable todo free aIs read allowed => ?_, fun s q n c runnable todo free link peers => ?_,
    fun s q n c b runnable todo free read => ⟨?_, ?_, ?_⟩⟩
  · subst aIs
    obtain ⟨d, status, phase, wrote, row⟩ := exec_signal runnable todo free read allowed
    refine ⟨_, d, row, status, phase, wrote.writesOnly, fun wf plain => ?_⟩
    have stored := State.rawBytes_storeBytes s wf (fieldAt c.desc 16 8) (natBytes 8 (max (leNat b) (syValue c))) (by rw [natBytes_length]; exact plain)
    rw [natBytes_length] at stored
    exact stored
  · exact exec_fence runnable todo free (visible_of_quiet link peers)
  · exact exec_wait_reached runnable todo free read
  · exact exec_wait_below runnable todo read
  · exact exec_waitTimeout runnable read

end

section
/-! PROOFS. COPY, GATHER and SCATTER: the row's end, and one piece at a boundary (R314 to R319). -/

open Sys2Proof Sys2Proof.Machine

namespace Sys2Proof.Machine

theorem moveOp_status {s t : State} {c d : Cmd} (h : moveOp.outcome s c = some (t, d)) : d.status = if 0 < nth 0 d.counts 2 then .limit else .ok := by
  obtain ⟨u, v, e, -, -, finish⟩ := Op.outcome_eq_some h
  change mvFinish v { e with withheld := [] } = .ok (t, d) at finish
  unfold mvFinish at finish
  cases report : writeReport v { e with withheld := [] } (mvReports { e with withheld := [] }) (mvReport { e with withheld := [] })
      (mvReportBytes v { e with withheld := [] }) with
  | error st => rw [report] at finish; cases finish
  | ok r =>
    rw [report] at finish
    cases finish
    show _ = if 0 < nth 0 r.2.counts 2 then Status.limit else .ok
    rw [(writeReport_sameWork (t := r.1) (d := r.2) report).counts]
    rfl

/-! ### A piece at a boundary (R318, R319) -/

/-- The next piece of a command whose units all weigh is its next unit. -/
theorem pieceUnits_next {s : State} {c : Cmd} {k : Nat} (next : moveOp.nextUnit s c = some k) : pieceUnits s c moveOp = [k] := by
  have first : ((List.range (moveOp.total s c)).filter (fun k => !c.done.contains k)).head? = some k := by
    rw [List.head?_filter]
    exact next
  have noSkip : ∀ l : List Nat, l.takeWhile (fun k => moveOp.weight s c k == 0) = [] := fun l => by
    cases l with
    | nil => rfl
    | cons x l => rfl
  unfold pieceUnits
  dsimp only
  rw [noSkip]
  generalize (List.range (moveOp.total s c)).filter (fun k => !c.done.contains k) = left at first
  cases left with
  | nil => cases first
  | cons x left =>
    cases first
    rfl

/-- What the engines take of a piece changes event counts and what the engines hold, and nothing else. -/
def EnginesOnly (s t : State) : Prop := t = { s with pages := t.pages, copy := t.copy }

theorem EnginesOnly.trans {s t u : State} (h : EnginesOnly s t) (k : EnginesOnly t u) : EnginesOnly s u := by
  unfold EnginesOnly at h k ⊢
  rw [k, h]

theorem ite_enginesOnly {s t : State} {p : Prop} [Decidable p] (h : EnginesOnly s t) : EnginesOnly s (if p then t else s) := by
  split
  · exact h
  · rfl

theorem dealPieces_enginesOnly (s : State) (c : Cmd) (ks es : List Nat) : EnginesOnly s (s.dealPieces c ks es) := by
  induction es generalizing s ks with
  | nil => rfl
  | cons e es ih =>
    unfold State.dealPieces
    dsimp only
    refine EnginesOnly.trans (ite_enginesOnly ?_) (ih _ _)
    rfl

theorem enginePiece_enginesOnly (s : State) (c : Cmd) (op : Op) (bytes : Nat) (on : Bool) (e : Nat) : EnginesOnly s (s.enginePiece c op bytes on e) := by
  have counted : EnginesOnly s ((s.count (pgCopy e) 0x1901 1).count (pgCopy e) 0x1902 bytes) := rfl
  exact counted.trans (dealPieces_enginesOnly _ _ _ _)

theorem enginePieces_enginesOnly (s : State) (c : Cmd) (op : Op) (bytes : Nat) (on : Bool) (es : List Nat) :
    EnginesOnly s (es.foldl (fun (t : State) e => t.enginePiece c op bytes on e) s) := by
  induction es generalizing s with
  | nil => rfl
  | cons e es ih => exact (enginePiece_enginesOnly s c op bytes on e).trans (ih _)

/-- A region's mover has the command join its region; an engine needs no place. -/
def State.joinMover (s : State) (c : Cmd) : Mover → Option (State × Cmd)
  | .region r => s.joinRegion c r.val
  | _ => some (s, c)

/-- A piece of a movement that has more to come commits alone, and its engines take it. -/
theorem exec_copyPieceCommit {s v t : State} {q n k : Nat} {mover : Mover} {c e d : Cmd} (runnable : s.runnable q n (fun c => (pieceOp c).isSome) = some c)
    (movement : [0x101, 0x103, 0x104].contains c.opcode = true) (fits : moverFits s c moveOp mover = true)
    (joined : s.joinMover c mover = some (v, e)) (next : moveOp.nextUnit v e = some k)
    (commits : moveOp.CommitsOne v e k t d) : ∃ u : State, EnginesOnly t u ∧ exec (.copyPieceCommit mover q n .goOn) s =
      .next (u.putCmd { d with engines := (moverEngines mover).foldl (fun x e => tabSet 16 x (engineDir e) e) d.engines }) := by
  have ran := commits.runSome
  obtain ⟨-, -, -, -, -, started, -⟩ := commits
  refine ⟨_, enginePieces_enginesOnly t { d with engines := (moverEngines mover).foldl (fun x e => tabSet 16 x (engineDir e) e) d.engines } moveOp
    (if e.opcode = 0x110 then 4096 * (d.cnt 0 - e.cnt 0) else d.cnt 1 - e.cnt 1) true (moverEngines mover), congrArg Host.Outcome.next ?_⟩
  unfold pieceCommit
  rw [runnable]
  dsimp only
  rw [show pieceOp c = some moveOp from if_pos movement]
  dsimp only
  rw [if_neg (by rw [fits]; decide)]
  split
  · next none => exact absurd (none.symm.trans joined) (by simp)
  · next v' e' some =>
    obtain ⟨rfl, rfl⟩ := Prod.mk.inj (Option.some.inj (some.symm.trans joined))
    rw [pieceUnits_next next, ran]
    dsimp only
    rw [if_neg (by simp [Boundary.stops]), started]
    rfl

end Sys2Proof.Machine

/-- Settles O26: the rows run to their end (`runRow_of_runs`), writing what they record (`moveOp_wrote`); at a boundary one piece commits alone. -/
theorem movementRows : Obligations.MovementRows := by
  unfold Obligations.MovementRows
  refine ⟨fun s t q n d i code instr runs => ?_, fun s v t q n k mover c e d runnable movement fits joined next commits => ?_⟩
  · have row : exec i s = .next (runRow moveOp (Cmd.isOp code) q n s) := by
      obtain ⟨rfl, rfl⟩ | ⟨rfl, rfl⟩ | ⟨rfl, rfl⟩ := instr <;> rfl
    have ⟨c, _, held, outcome⟩ := runs
    exact ⟨by rw [row, runRow_of_runs runs], (moveOp_wrote held outcome).writesOnly, moveOp_status outcome⟩
  · obtain ⟨u, engines, step⟩ := exec_copyPieceCommit runnable movement fits joined next commits
    refine ⟨_, step, ?_⟩
    rw [engines]
    exact ⟨rfl, rfl, rfl, rfl, rfl, rfl⟩

end

section
/-! PROOFS. Collectives, COLL_GROUP and PEER_PUT (R386 to R396, R435). -/

open Sys2Proof Sys2Proof.Machine

namespace Sys2Proof.Machine

/-! ### What units keep -/

/-- What holds of a state and a command before units, and what each unit keeps, holds after them. -/
theorem Op.runUnits_invariant {op : Op} {P : State → Cmd → Prop} (kept : ∀ s c as, P s c → P s (c.keepTables s as))
    (noted : ∀ (s : State) (c : Cmd) ds u, P s c → P s { c with done := ds, units := u })
    (unit : ∀ s c k t d, op.unit s c k = .ok (t, d) → P s c → P t d) (ks : List Nat) {s : State} {c : Cmd} (now : P s c) :
    P (op.runUnits ks s c).1 (op.runUnits ks s c).2.1 := by
  induction ks generalizing s c with
  | nil => exact now
  | cons k ks ih =>
    unfold Op.runUnits
    split
    · exact ih now
    · split
      · exact now
      · dsimp only
        split
        · exact kept s c _ now
        · next ok => exact ih (noted _ _ _ _ (unit _ _ _ _ _ ok (kept s c _ now)))

/-- A bind that succeeds has both its steps succeed. -/
theorem bind_eq_ok {α β : Type} {x : Except Status α} {f : α → Except Status β} {b : β} (h : (x >>= f) = .ok b) : ∃ a, x = .ok a ∧ f a = .ok b := by
  cases x with
  | error st => cases h
  | ok a => exact ⟨a, rfl, h⟩

theorem map_eq_ok {α β : Type} {x : Except Status α} {f : α → β} {b : β} (h : x.map f = .ok b) : ∃ a, x = .ok a ∧ f a = b := by
  cases x with
  | error st => cases h
  | ok a => exact ⟨a, rfl, Except.ok.inj h⟩

/-! ### A collective's units (R392, R393, R396) -/

theorem tell_sends (s : State) (ps : List Nat) (kind : String) (words : List Nat) (bs : Bytes) : SendsOnly s (s.tell ps kind words bs) :=
  SendsOnly.foldl (fun u p sent => sent.trans (sendPeer_sends u p kind words bs)) (SendsOnly.refl s)

theorem foldlM_sends {α : Type} {f : State → α → Except Status State} (each : ∀ s x t, f s x = .ok t → SendsOnly s t) (l : List α) {s t : State}
    (ok : l.foldlM f s = .ok t) : SendsOnly s t := by
  induction l generalizing s with
  | nil => cases ok; exact SendsOnly.refl _
  | cons x l ih =>
    rw [List.foldlM_cons] at ok
    obtain ⟨u, first, rest⟩ := bind_eq_ok ok
    exact (each s x u first).trans (ih rest)

theorem map_sendPeer_sends {s t : State} {x : Except Status Bytes} {p : Nat} {kind : String} {ws : List Nat}
    (ok : x.map (fun b => s.sendPeer p kind ws b) = .ok t) : SendsOnly s t := by
  obtain ⟨b, -, rfl⟩ := map_eq_ok ok
  exact sendPeer_sends s p kind ws b

theorem sendSrc_sends {s t : State} {c : Cmd} (ok : sendSrc s c = .ok t) : SendsOnly s t := by
  unfold sendSrc at ok
  dsimp only at ok
  split at ok
  · cases ok; exact SendsOnly.refl s
  · split at ok
    · exact map_sendPeer_sends ok
    · exact foldlM_sends (fun u r v sent => map_sendPeer_sends sent) _ ok

theorem sendResults_sends {s t : State} {c : Cmd} (ok : sendResults s c = .ok t) : SendsOnly s t := by
  unfold sendResults at ok
  dsimp only at ok
  split at ok
  · cases ok; exact SendsOnly.refl s
  · obtain ⟨b, -, rfl⟩ := map_eq_ok ok
    exact tell_sends _ _ _ _ _

/-- A piece writes and sends; its group and number stay. -/
theorem clUnit_same {members : List PeerTensor} {s t : State} {c d : Cmd} {k : Nat} (ok : clUnit members s c k = .ok (t, d)) :
    SameElse s t ∧ d.coll = c.coll := by
  unfold clUnit at ok
  split at ok
  · cases ok; exact ⟨SameElse.refl s, rfl⟩
  · obtain ⟨p, -, ok⟩ := bind_eq_ok ok
    obtain ⟨u, sent, ok⟩ := bind_eq_ok ok
    obtain ⟨⟨v, e⟩, written, ok⟩ := bind_eq_ok ok
    obtain ⟨w, results, ok⟩ := bind_eq_ok ok
    have first : SendsOnly s u := by
      split at sent
      · exact sendSrc_sends sent
      · cases sent; exact SendsOnly.refl s
    have last : SendsOnly v w := by
      split at results
      · exact sendResults_sends results
      · cases results; exact SendsOnly.refl v
    have whole := (first.sameElse.trans (commitWrites_sameElse written)).trans last.sameElse
    have coll : e.coll = c.coll := by rw [commitWrites_sameWork written]
    cases ok
    refine ⟨?_, coll⟩
    split
    · exact whole.trans (tell_sends _ _ _ _ _).sameElse
    · exact whole

theorem group_putGroup (s : State) (g : Nat) (x : Group) : (s.putGroup g x).group g = x := tabGet_tabSet_same g x

/-- The group's number is recorded as done, and nothing else changes but groups. -/
theorem recordDone_done (s : State) (g k : Nat) : ((s.recordDone g k).group g).done.contains k = true := by
  unfold State.recordDone
  dsimp only
  split
  · next done => exact done
  · rw [group_putGroup]
    simp

/-- Queues, threads, regions, commands and journal stay. -/
structure Stays (s t : State) : Prop where
  queues  : t.queues = s.queues
  threads : t.threads = s.threads
  regions : t.regions = s.regions
  cmds    : t.cmds = s.cmds
  jnl     : t.jnl = s.jnl

theorem Stays.trans {s t u : State} (h : Stays s t) (k : Stays t u) : Stays s u :=
  ⟨k.queues.trans h.queues, k.threads.trans h.threads, k.regions.trans h.regions, k.cmds.trans h.cmds, k.jnl.trans h.jnl⟩

theorem SameElse.stays {s t : State} (h : SameElse s t) : Stays s t := by
  unfold SameElse at h
  exact ⟨by rw [h], by rw [h], by rw [h], by rw [h], by rw [h]⟩

theorem recordDone_stays (s : State) (g k : Nat) : Stays s (s.recordDone g k) := by
  unfold State.recordDone
  dsimp only
  split <;> exact ⟨rfl, rfl, rfl, rfl, rfl⟩

/-- A collective that runs to its end records its number as done and ends OK. -/
theorem collOp_outcome {members : List PeerTensor} {s t : State} {c d : Cmd} (h : (collOp members).outcome s c = some (t, d)) :
    d.status = .ok ∧ (t.group d.coll.group).done.contains d.coll.number = true ∧ Stays s t := by
  obtain ⟨u, v, e, units, released, finish⟩ := Op.outcome_eq_some h
  have unitsSame := Op.runUnits_invariant (op := collOp members) (P := fun t _ => SameElse s t) (fun _ _ _ now => now) (fun _ _ _ _ now => now)
    (fun _ _ _ _ _ ok now => now.trans (clUnit_same ok).1) (List.range ((collOp members).total s c)) (c := c) (SameElse.refl s)
  rw [units] at unitsSame
  obtain ⟨r, report, same⟩ := map_eq_ok (show clFinish v { e with withheld := [] } = .ok (t, d) from finish)
  have reported : SameElse v r.1 := by
    unfold writeReport at report
    split at report
    · exact commitWrites_sameElse report
    · cases report; exact SameElse.refl v
  have coll : r.2.coll = e.coll := by rw [writeReport_sameWork (t := r.1) (d := r.2) report]
  cases same
  have number : (({ r.2 with status := .ok } : Cmd)).coll = e.coll := coll
  refine ⟨rfl, ?_, ?_⟩
  · rw [number]
    exact recordDone_done r.1 e.coll.group e.coll.number
  · have counted : Stays (r.1.recordDone e.coll.group e.coll.number) ((r.1.recordDone e.coll.group e.coll.number).count pgColl 0x1601 1) :=
      ⟨rfl, rfl, rfl, rfl, rfl⟩
    exact ((unitsSame.trans (releaseWithheld_sameElse released)).trans reported).stays.trans ((recordDone_stays _ _ _).trans counted)

/-- A collective's row, once its members' data is there or its number done, is the run to its end. -/
theorem collRow_outcome {code : Nat} {members : State → Cmd → List PeerTensor} {s t : State} {q n : Nat} {c d : Cmd}
    (runnable : s.runnable q n (Cmd.isOp code) = some c)
    (arrived : delivered s c (members s c) = true ∨ (s.group c.coll.group).done.contains c.coll.number = true)
    (outcome : (collOp (members s c)).outcome s c = some (t, d)) : collRow code members q n s = t.putCmd { d with phase := .ended } := by
  unfold collRow
  rw [runnable]
  dsimp only
  rw [if_pos (by rw [Bool.or_eq_true]; exact arrived), runRow_of_outcome runnable outcome]

theorem exec_collectivePiece {s t : State} {q n k : Nat} {c d : Cmd} {members : List PeerTensor} {b : Boundary}
    (runnable : s.runnable q n (fun c => decide (0x601 ≤ c.opcode) && decide (c.opcode ≤ 0x604)) = some c) (arrived : delivered s c members = true)
    (next : (collOp members).nextUnit s c = some k) (commits : (collOp members).CommitsOne s c k t d) :
    exec (.collectivePieceCommit q n members b) s = .next (if b = .throttle ∧ 9 ≤ s.gov.throttle then s else t.putCmd d) := by
  have one : (collOp members).runOne s c = (t, d) := by
    unfold Op.runOne
    rw [next]
    exact commits.runSome
  refine congrArg Host.Outcome.next ?_
  unfold collectivePiece
  rw [runnable]
  dsimp only
  rw [if_neg (by rw [arrived]; decide), one]

/-! ### COLL_GROUP (R388) -/

theorem cgUnit_create {s : State} {c : Cmd} {b : Bytes} (k : Nat) (op : c.fld 0 1 = 1) (absent : (s.group (c.fld 2 2)).exist = false)
    (read : s.readBytes (c.fld 8 8) (2 * c.fld 4 2) = .ok b) : cgUnit s c k =
      .ok (s.putGroup (c.fld 2 2) { exist := true, members := (pieces 2 b).map leNat, rank := ((pieces 2 b).map leNat).idxOf s.lnk.position, owner := c.fld 16 4 },
        { c with committed := true, wroteLocal := true }) := by
  simp only [cgUnit, cgOp, cgGroup, cgList, cgCount, op, absent, read]
  rfl

theorem cgUnit_destroy {s : State} {c : Cmd} (k : Nat) (op : c.fld 0 1 = 2) (there : (s.group (c.fld 2 2)).exist = true) :
    cgUnit s c k = .ok (s.putGroup (c.fld 2 2) {}, { c with committed := true, wroteLocal := true }) := by
  simp only [cgUnit, cgOp, cgGroup, op, there]
  rfl

/-! ### PEER_PUT (R386, R387) -/

/-- Messages are sent, and a peer may come to owe its acknowledgement. -/
def PutsOnly (s t : State) : Prop := SendsOnly { s with lnk := { s.lnk with unacked := t.lnk.unacked } } t

theorem PutsOnly.refl (s : State) : PutsOnly s s := SendsOnly.refl s

theorem PutsOnly.trans {s t u : State} (h : PutsOnly s t) (k : PutsOnly t u) : PutsOnly s u := by
  have first : SendsOnly { s with lnk := { s.lnk with unacked := u.lnk.unacked } } { t with lnk := { t.lnk with unacked := u.lnk.unacked } } := by
    obtain ⟨same, rises⟩ := h
    exact ⟨by rw [same], rises⟩
  exact first.trans k

theorem SendsOnly.puts {s t : State} (h : SendsOnly s t) : PutsOnly s t := by
  have same : t.lnk.unacked = s.lnk.unacked := by rw [h.1]
  unfold PutsOnly
  rw [same]
  exact h

theorem owesAck_puts (s : State) (p : Nat) : PutsOnly s (s.owesAck p) := by
  unfold State.owesAck
  split
  · exact PutsOnly.refl s
  · exact ⟨rfl, Nat.le_refl _⟩

theorem ite_puts {s t u : State} {p : Prop} [Decidable p] (h : PutsOnly s t) (k : PutsOnly s u) : PutsOnly s (if p then t else u) := by
  split
  · exact h
  · exact k

theorem ppUnit_puts {s t : State} {c d : Cmd} {k : Nat} (ok : ppUnit s c k = .ok (t, d)) : PutsOnly s t ∧ d.withheld = c.withheld := by
  unfold ppUnit at ok
  split at ok
  · cases ok
    refine ⟨PutsOnly.refl s, ?_⟩
    split <;> rfl
  · obtain ⟨bs, -, ok⟩ := bind_eq_ok ok
    cases ok
    have put := (sendPeer_sends s (ppPos c) "PUT" [ppDst c + 256000 * k] bs).puts.trans (owesAck_puts _ (ppPos c))
    exact ⟨ite_puts (put.trans (sendPeer_sends _ _ _ _ _).puts) put, rfl⟩

/-- PEER_PUT that runs to its end has sent, and ends LIMIT when a peer was not reached. -/
theorem peerPutOp_outcome {s t : State} {c d : Cmd} (free : c.withheld = []) (h : peerPutOp.outcome s c = some (t, d)) :
    PutsOnly s t ∧ d.status = if 0 < nth 0 d.counts 0 then .limit else .ok := by
  obtain ⟨u, v, e, units, released, finish⟩ := Op.outcome_eq_some h
  have ran := Op.runUnits_invariant (op := peerPutOp) (P := fun t d => PutsOnly s t ∧ d.withheld = []) (fun _ c as now => ⟨now.1, (keepTables_withheld _ c as).trans now.2⟩) (fun _ _ _ _ now => now)
    (fun _ _ _ _ _ ok now => ⟨now.1.trans (ppUnit_puts ok).1, (ppUnit_puts ok).2.trans now.2⟩) (List.range (peerPutOp.total s c)) ⟨PutsOnly.refl s, free⟩
  rw [units] at ran
  obtain ⟨puts, free⟩ := ran
  unfold releaseWithheld at released
  rw [show e.withheld = [] from free] at released
  cases released
  cases finish
  exact ⟨puts, rfl⟩

end Sys2Proof.Machine

/-- Settles O42: the rows run to their ends (`collOp_outcome`, `peerPutOp_outcome`), pieces commit one by one, and COLL_GROUP is its one unit. -/
theorem collectiveRows : Obligations.CollectiveRows := by
  unfold Obligations.CollectiveRows
  refine ⟨fun s t q n code c d i members p instr runnable arrived outcome => ?_, fun s t q n k c d members runnable arrived next commits => ⟨?_, ?_, ?_⟩,
    fun s q n c e ps b todo free eIs => ⟨?_, ?_⟩, fun s t q n c d runnable free outcome => ?_⟩
  · have row : exec i s = .next (t.putCmd { d with phase := .ended }) := by
      obtain ⟨rfl, rfl⟩ | ⟨rfl, rfl⟩ | ⟨rfl, rfl⟩ | ⟨rfl, rfl, rfl⟩ := instr
      · exact congrArg Host.Outcome.next (collRow_outcome (members := fun _ _ => members) runnable arrived outcome)
      · exact congrArg Host.Outcome.next (collRow_outcome (members := fun _ _ => members) runnable arrived outcome)
      · exact congrArg Host.Outcome.next (collRow_outcome (members := fun _ _ => members) runnable arrived outcome)
      · exact congrArg Host.Outcome.next (collRow_outcome (members := fun s c => ringMembers s c p) runnable arrived outcome)
    obtain ⟨status, done, stays⟩ := collOp_outcome outcome
    exact ⟨row, status, done, stays.queues, stays.threads, stays.regions, stays.cmds, stays.jnl⟩
  · rw [exec_collectivePiece runnable arrived next commits, if_neg (by simp)]
  · intro cool
    rw [exec_collectivePiece runnable arrived next commits, if_neg (by omega)]
  · intro hot
    rw [exec_collectivePiece runnable arrived next commits, if_pos ⟨rfl, hot⟩]
  · intro runnable absent read psIs
    subst eIs psIs
    have op := fld_op_of_runnable runnable
    exact congrArg Host.Outcome.next (runRow_oneUnit (op := collGroupOp) rfl runnable rfl todo (by show (c.fld 0 1 == 1 || _) = true; rw [op]; rfl) rfl
      (cgUnit_create 0 op absent read) todo free rfl)
  · intro runnable there idle
    subst eIs
    exact congrArg Host.Outcome.next (runRow_oneUnit (op := collGroupOp) rfl runnable rfl todo
      (by show (_ || (s.group (c.fld 2 2)).taken.isEmpty) = true; rw [idle]; exact Bool.or_true _) rfl
      (cgUnit_destroy 0 (fld_op_of_runnable runnable) there) todo free rfl)
  · obtain ⟨puts, status⟩ := peerPutOp_outcome free outcome
    exact ⟨congrArg Host.Outcome.next (runRow_of_outcome runnable outcome), puts, status⟩

end

section
/-! PROOFS. Signatures, reports, silence, restarts and refusals of collectives (R385, R389, R395 to R398). -/

open Sys2Proof Sys2Proof.Machine

namespace Sys2Proof.Machine

section
variable {s : State} {q n : Nat} {c : Cmd}

/-- A command that runs for one selection runs for every other that accepts it. -/
theorem runnable_of_sel {sel sel' : Cmd → Bool} (h : s.runnable q n sel = some c) (accepted : sel' c = true) : s.runnable q n sel' = some c := by
  unfold State.runnable at h ⊢
  split at h
  · next live =>
    obtain ⟨e, listed, chosen⟩ := Option.bind_eq_some_iff.mp h
    split at chosen
    · next all =>
      cases chosen
      obtain ⟨phase, -, noticed⟩ := all
      rw [if_pos live, listed, Option.bind_some, if_pos (And.intro phase ⟨accepted, noticed⟩)]
    · cases chosen
  · cases h

/-! ### The report of a collective that ends early (R394) -/

theorem clLeave_silent (none : clReports c = false) (p : Nat) : clLeave p s c = (s, c) := by
  unfold clLeave writeReport
  rw [none]
  rfl

theorem clLeave_reported (reports : clReports c = true) {p : Nat} {t : State} {d : Cmd}
    (written : commitWrites s c ⟨[(clReport c, natBytes 16 0 ++ natBytes 2 p ++ natBytes 14 0)], 0⟩ = .ok (t, d)) :
    clLeave p s c = (if c.coll.signed = true then t.openRange (clReport c) 16 else t, d) := by
  unfold clLeave writeReport
  rw [reports, if_pos rfl, written, Bool.true_and]

/-! ### Signatures and reports (R395, R396) -/

theorem exec_signature_agrees {sig : Bytes} (runnable : s.runnable q n awaitsSignature = some c) (agrees : sig = collSignature c) :
    exec (.collSignatureReceive q n sig) s = .next (s.putCmd { c with coll := { c.coll with signed := true } }) := by
  have awaits := State.sel_of_runnable runnable
  refine congrArg Host.Outcome.next ?_
  unfold signatureReceive
  rw [runnable_of_sel runnable (by rw [awaits]; rfl)]
  dsimp only
  rw [if_pos awaits, if_pos agrees]

theorem exec_signature_differs {sig : Bytes} (runnable : s.runnable q n awaitsSignature = some c) (differs : sig ≠ collSignature c)
    (plain : c.isRing = false) : exec (.collSignatureReceive q n sig) s =
      .next (((clLeave 0xFFFF s c).1.record pgColl .contained 0).putCmd { (clLeave 0xFFFF s c).2 with phase := .ended, status := .checkFail }) := by
  have awaits := State.sel_of_runnable runnable
  refine congrArg Host.Outcome.next ?_
  unfold signatureReceive
  rw [runnable_of_sel runnable (by rw [awaits]; rfl)]
  dsimp only
  rw [if_pos awaits, if_neg differs, if_neg (by rw [plain]; decide)]
  rfl

theorem unsigned_of_awaits (awaits : awaitsSignature c = true) : c.coll.signed = false := by
  unfold awaitsSignature at awaits
  rw [Bool.and_eq_true, Bool.not_eq_true'] at awaits
  exact awaits.2

theorem exec_report_kept {rank : Nat} (runnable : s.runnable q n (fun c => decide (0x601 ≤ c.opcode) && decide (c.opcode ≤ 0x604)) = some c)
    (left : ∃ k, k < clPieces c ∧ c.done.contains k = false) :
    exec (.collReportReceive q n rank) s = .next (s.putCmd { c with coll := { c.coll with reports := insertNat rank c.coll.reports } }) := by
  obtain ⟨k, inside, undone⟩ := left
  have open' : (List.range (clPieces c)).all (fun k => c.done.contains k) = false :=
    List.all_eq_false.mpr ⟨k, List.mem_range.mpr inside, by rw [undone]; decide⟩
  refine congrArg Host.Outcome.next ?_
  unfold reportReceive
  rw [runnable]
  dsimp only
  rw [open']
  rfl

/-! ### Silence (R397) -/

theorem exec_peerTimeout {p : Nat} (runnable : s.runnable q n needsPeer = some c) (needed : (needsOf s c).contains p = true) :
    exec (.collPeerTimeout q n p) s = .next (endSilent s c p) := by
  refine congrArg Host.Outcome.next ?_
  rw [runnable]
  exact if_pos needed

theorem endSilent_collective (low : 0x601 ≤ c.opcode) (high : c.opcode ≤ 0x604) (p : Nat) : endSilent s c p =
    (clLeave p (s.openRange (clDst c).range.1 (clDst c).range.2) c).1.putCmd
      { (clLeave p (s.openRange (clDst c).range.1 (clDst c).range.2) c).2 with phase := .ended, status := .limit } := if_pos ⟨low, high⟩

theorem isRing_of_opcode (other : c.opcode ≠ 0x401) : c.isRing = false := by
  unfold Cmd.isRing
  rw [beq_false_of_ne other, Bool.false_and]

theorem endSilent_put (put : c.opcode = 0x605) (p : Nat) : endSilent s c p = s.putCmd { c with phase := .ended, status := .limit } := by
  unfold endSilent
  rw [if_neg (by omega), isRing_of_opcode (by omega)]
  rfl

theorem needsOf_collective (runnable : s.runnable q n needsPeer = some c) (high : c.opcode ≤ 0x604)
    (open' : (s.group c.coll.group).done.contains c.coll.number = false) : needsOf s c = (s.group c.coll.group).others := by
  unfold needsOf
  rw [if_neg (by omega), State.sel_of_runnable runnable, open']
  rfl

/-! ### Restarts and refusals (R385, R398) -/

theorem exec_restart {g k : Nat} (alive : s.alive = true) (open' : (s.group g).done.contains k = false) (alone : (s.group g).others = [])
    (found : s.cmds.find? (fun c => c.phase == .started && decide (0x601 ≤ c.opcode) && decide (c.opcode ≤ 0x604) && c.coll.group == g && c.coll.number == k) = some c) :
    exec (.collRestartReceive g k) s =
      .next ((s.putCmd { c with done := [], sat := 0, units := 0, counts := [], coll := { group := g, number := k, restarted := true, signed := true } }).count pgColl
        0x1602 1) := by
  have opened : ∀ d : Cmd, d.coll.group = g → openSignature s d = (s, { d with coll := { d.coll with signed := true } }) := fun d own => by
    unfold openSignature
    dsimp only
    rw [own, alone]
    rfl
  refine congrArg Host.Outcome.next ?_
  unfold restartReceive
  rw [found]
  dsimp only
  rw [if_neg (by rw [alive, open']; decide), opened _ rfl]
  rfl

theorem exec_refusal {p a : Nat} {unmapped : Bool} (other : p ≠ s.lnk.position) (listed : s.cmd? q n = some c) (alive : s.alive = true)
    (phase : c.phase = .started ∨ c.phase = .ended) (put : c.opcode = 0x605) (free : c.withheld = []) :
    exec (.peerRefusalReceive q n unmapped p a) s =
      .next ((s.record pgColl .contained a).putCmd { c with phase := .ended, status := if unmapped then .unmapped else .windowFault }) := by
  have op : peerOp c = peerPutOp := by
    unfold peerOp
    rw [if_neg (by omega), if_pos put]
  have needs : needsPeer c = true := by simp [needsPeer, put]
  have runs : (c.phase == .started || c.phase == .ended) = true := by simpa using phase
  have bare : { c with withheld := [] } = c := by rw [← free]
  have quit : ∀ (t : State) (st : Status), peerPutOp.quit t c st = (t, { c with phase := .ended, status := st.plain }) := fun t st => by
    have released : releaseWithheld t c = .ok t := by
      unfold releaseWithheld
      rw [free]
      rfl
    unfold Op.quit
    rw [released, bare]
    show endWith t c st [] = _
    unfold endWith
    split <;> rfl
  refine congrArg Host.Outcome.next ((if_neg other).trans ?_)
  unfold refusalReceive
  rw [listed]
  dsimp only
  rw [if_neg (by rw [alive, runs, needs]; simp), op, quit]
  cases unmapped <;> rfl

end

end Sys2Proof.Machine

/-- Settles O43: each message by its row; a report that is asked for is written before the command's end (`clLeave_reported`). -/
theorem collectiveMessages : Obligations.CollectiveMessages := by
  unfold Obligations.CollectiveMessages
  refine ⟨fun s q n c sig runnable => ⟨exec_signature_agrees runnable, fun differs plain => ⟨?_, ?_⟩⟩, fun s q n rank c => exec_report_kept,
    fun s q n p c runnable high low open' needed => ⟨?_, ?_⟩, fun s q n p c runnable put pIs => ?_, fun s g k c => exec_restart,
    fun s q n p a unmapped c => exec_refusal⟩
  · intro none
    rw [exec_signature_differs runnable differs plain, clLeave_silent none]
  · intro t d reports written
    rw [exec_signature_differs runnable differs plain, clLeave_reported reports written,
      if_neg (by rw [unsigned_of_awaits (State.sel_of_runnable runnable)]; decide)]
  · intro none
    rw [exec_peerTimeout runnable (by rw [needsOf_collective runnable high open']; simpa using needed), endSilent_collective low high, clLeave_silent none]
  · intro t d reports written
    rw [exec_peerTimeout runnable (by rw [needsOf_collective runnable high open']; simpa using needed), endSilent_collective low high,
      clLeave_reported reports written]
  · have needed : (needsOf s c).contains p = true := by
      unfold needsOf
      rw [if_pos put, pIs]
      simp
    rw [exec_peerTimeout runnable needed, endSilent_put put]

end

section
/-! PROOFS. SERVICE: how its tests begin and end, and the attestation report (R457, R463 to R465). -/

open Sys2Proof Sys2Proof.Machine

namespace Sys2Proof.Machine

section
variable {s : State} {q n : Nat} {c : Cmd}

/-- A command that a row runs on is started. -/
theorem started_of_runnable {sel : Cmd → Bool} (h : s.runnable q n sel = some c) : c.phase = .started := by
  unfold State.runnable at h
  split at h
  · obtain ⟨e, -, chosen⟩ := Option.bind_eq_some_iff.mp h
    split at chosen
    · next all => cases chosen; exact all.1
    · cases chosen
  · cases h

/-- What a count adds to itself it then holds. -/
theorem nth_addCnt_same (c : Cmd) (i k : Nat) : nth 0 (c.addCnt i k).counts i = nth 0 c.counts i + k := by
  have inside : i < (c.counts ++ List.replicate (i + 1 - c.counts.length) 0).length := by simp; omega
  show (((c.counts ++ List.replicate (i + 1 - c.counts.length) 0).set i (c.cnt i + k))[i]?).getD 0 = _
  rw [List.getElem?_set_self inside]
  rfl

/-- A count added to leaves the others, those beyond the list being 0. -/
theorem nth_addCnt_other (c : Cmd) {i j : Nat} (other : i ≠ j) (k : Nat) : nth 0 (c.addCnt i k).counts j = nth 0 c.counts j := by
  show (((c.counts ++ List.replicate (i + 1 - c.counts.length) 0).set i (c.cnt i + k))[j]?).getD 0 = (c.counts[j]?).getD 0
  rw [List.getElem?_set_ne other, List.getElem?_append]
  split
  · rfl
  · next beyond =>
    rw [List.getElem?_eq_none (Nat.le_of_not_lt beyond)]
    simp only [List.getElem?_replicate]
    split <;> rfl

/-- A test whose target does not meet its condition ends at once. -/
theorem testStart_busy {op : Nat} (runnable : s.runnable q n (Cmd.isSub 0x805 op) = some c) (fresh : nth 0 c.counts 0 = 0)
    (busy : testReady s c = false) : testStart q n op s = s.putCmd { c with phase := .ended, status := .busyInService } := by
  have idle : ¬ 0 < c.cnt 0 := by unfold Cmd.cnt; omega
  unfold testStart
  rw [runnable]
  dsimp only
  rw [if_neg idle, if_pos (by rw [busy]; rfl)]

/-- A drained region is ready for each of its tests. -/
theorem testReady_drained (region : testKind (c.fld 1 1) = some .region) (drained : (s.region (c.fld 2 2)).state = .drained) :
    testReady s c = true := by
  unfold testReady svTest svTarget
  rw [region]
  dsimp only
  rw [drained]
  rfl

/-- A test of a drained region takes the region to TESTING; only the slice test loses anything. -/
theorem beginTest_drained (region : testKind (c.fld 1 1) = some .region) (keeps : c.fld 1 1 ≠ 2) (drained : (s.region (c.fld 2 2)).state = .drained) :
    beginTest s c = s.putRegion (c.fld 2 2) { s.region (c.fld 2 2) with state := .testing, faultSeen := false } := by
  unfold beginTest svTest svTarget
  rw [region]
  dsimp only
  rw [if_neg keeps, drained]
  rfl

/-- A test whose target is ready begins: its command is past its commit point, and count 0 says so. -/
theorem testStart_begins {op : Nat} (runnable : s.runnable q n (Cmd.isSub 0x805 op) = some c) (fresh : nth 0 c.counts 0 = 0)
    (ready : testReady s c = true) : ∃ d : Cmd, testStart q n op s = (beginTest s c).putCmd d ∧
      d.committed = true ∧ d.phase = .started ∧ nth 0 d.counts 0 = 1 := by
  have idle : ¬ 0 < c.cnt 0 := by unfold Cmd.cnt; omega
  refine ⟨(({ c with committed := true } : Cmd).addCnt 0 1).addCnt 1 (bit ((s.tower 17).unit == .inService)), ?_, rfl, ?_, ?_⟩
  · unfold testStart
    rw [runnable]
    dsimp only
    rw [if_neg idle, if_neg (by rw [ready]; decide)]
  · exact (started_of_runnable runnable :)
  · rw [nth_addCnt_other _ (by decide), nth_addCnt_same]
    show nth 0 c.counts 0 + 1 = 1
    rw [fresh]

/-! ### TEST_END and ATTEST (R457, R463) -/

/-- A region whose parts are sound leaves its test DRAINED. -/
theorem leaveTest_sound (sound : (s.region (c.fld 2 2)).sound = true) :
    leaveTest s c .region = s.putRegion (c.fld 2 2) { s.region (c.fld 2 2) with state := .drained, faultSeen := false } := by
  unfold leaveTest svTarget
  dsimp only
  rw [if_pos sound]

/-- A test that found nothing in a sound region: no count of failed parts moves, the result is 0. -/
theorem testEnd_clean {t : State} {d : Cmd} {duration : Nat}
    (runnable : s.runnable q n (fun c => Cmd.isOp 0x805 c && decide (0 < nth 0 c.counts 0)) = some c)
    (region : testKind (c.fld 1 1) = some .region) (sound : (s.region (c.fld 2 2)).sound = true)
    (report : writeReport (leaveTest s c .region) c true (c.fld 8 8) (natBytes 16 0 ++ natBytes 8 duration ++ natBytes 8 0) = .ok (t, d)) :
    testEnd q n [] [] duration s = t.putCmd { d with phase := .ended, status := .ok, units := d.units + 1 } := by
  have nothing : fenceFound s .region (svTarget c) [] [] = s := rfl
  have result : (if minimumBroken s .region (svTarget c) then 2 else if newCells s .region (svTarget c) [] + (s.blocksFenced - s.blocksFenced) = 0 then 0 else 1) = 0 := by
    rw [Nat.sub_self, if_neg (by show ¬ (!(s.region (c.fld 2 2)).sound) = true; rw [sound]; decide)]
    rfl
  have zeros : natBytes 1 0 ++ natBytes 3 0 ++ natBytes 4 0 ++ natBytes 4 0 ++ natBytes 4 0 ++ natBytes 8 duration ++ natBytes 8 0 =
      natBytes 16 0 ++ natBytes 8 duration ++ natBytes 8 0 := rfl
  have found : newCells s .region (svTarget c) [] = 0 := rfl
  unfold testEnd
  rw [show s.runnable q n (fun c => Cmd.isOp 0x805 c && decide (0 < c.cnt 0)) = some c from runnable]
  dsimp only
  rw [show testKind (svTest c) = some .region from region]
  dsimp only
  rw [nothing, result, found, Nat.sub_self, zeros]
  rw [show writeReport (leaveTest s c .region) c true (svReport c) _ = _ from report]

end

end Sys2Proof.Machine

/-- Settles O41: a test begins by its target's condition (`testStart_busy`, `testStart_begins`) and ends with what it found
(`testEnd_clean`); ATTEST is the one unit of its command (`runRow_oneUnit`). -/
theorem serviceRows : Obligations.ServiceRows := by
  unfold Obligations.ServiceRows
  refine ⟨?_, ?_, ?_⟩
  · intro s q n op c i form runnable fresh
    have row : exec i s = .next (testStart q n op s) := by
      rcases form with ⟨rfl, rfl⟩ | ⟨rfl, rfl⟩ <;> rfl
    refine ⟨fun busy => row.trans (congrArg Host.Outcome.next (testStart_busy runnable fresh busy)), fun region keeps drained => ?_⟩
    obtain ⟨d, starts, rest⟩ := testStart_begins runnable fresh (testReady_drained region drained)
    refine ⟨d, row.trans ?_, rest⟩
    rw [starts, beginTest_drained region keeps drained]
  · intro s v t q n duration c d runnable region sound left written
    subst left
    refine congrArg Host.Outcome.next (testEnd_clean runnable region sound ?_)
    rw [leaveTest_sound sound]
    exact written
  · intro s t q n c d h runnable todo free head written
    have report : serviceOp.unit s c 0 = .ok (t, d) := by
      refine Eq.trans ?_ written
      rw [show h = attestHead s (svNonce c) from head]
      rfl
    obtain ⟨doneSame, withheldSame⟩ := (commitWrites_sameWork written).done
    exact congrArg Host.Outcome.next (runRow_oneUnit (op := serviceOp) rfl runnable rfl todo rfl rfl report
      (doneSame.trans todo) (withheldSame.trans free) rfl)

end

section
/-! PROOFS. The twin engine's states: TWIN_CTL, pairing, unpairing and losing the partner (R403 to R405, R409, R410, R420, R425). -/

open Sys2Proof Sys2Proof.Machine

namespace Sys2Proof.Machine

/-! ### TWIN_CTL (R425) -/

theorem modPage_sameElse (s : State) (p : Nat) (f : Page → Page) : SameElse s (s.modPage p f) := by
  unfold State.modPage State.putPage
  dsimp only
  split <;> rfl

/-- A write of TWIN_CTL changes its RW fields; of them ACK_TIMEOUT only within its limits. -/
theorem setTwinCtl_twin (s : State) (v : Nat) :
    ∃ a, (s.setTwinCtl v).twin = { s.twin with fillTarget := bitAt v 9, sharedFeedOk := bitAt v 8, ackTimeout := a } := by
  unfold State.setTwinCtl
  dsimp only
  split
  · exact ⟨_, rfl⟩
  · exact ⟨s.twin.ackTimeout, State.modPage_twin _ _ _⟩

theorem setTwinCtl_sameElse (s : State) (v : Nat) : SameElse s (s.setTwinCtl v) := by
  unfold State.setTwinCtl
  dsimp only
  split
  · rfl
  · exact SameElse.trans (t := { s with twin := { s.twin with fillTarget := bitAt v 9, sharedFeedOk := bitAt v 8 } }) rfl (modPage_sameElse _ _ _)

theorem setTwinCtl_state (s : State) (v : Nat) : (s.setTwinCtl v).twin.state = s.twin.state := by
  obtain ⟨a, w⟩ := setTwinCtl_twin s v
  rw [w]

theorem setTwinCtl_position (s : State) (v : Nat) : (s.setTwinCtl v).lnk.position = s.lnk.position := by
  have same := setTwinCtl_sameElse s v
  unfold SameElse at same
  rw [same]

theorem twinRow_fits {op v : Nat} {fits : State → Bool} {act : State → State} {s : State} (answers : s.answers = true) (field : v % 8 = op)
    (fit : fits (s.setTwinCtl v) = true) : twinRow op fits act v s = act (s.setTwinCtl v) := by
  have named : twinOpField v = op := by rw [← field]; exact congrArg (· % 8) (Nat.div_one v)
  unfold twinRow
  rw [if_neg (by rw [answers, named]; simp), if_pos fit]

theorem twinRow_unfit {op v : Nat} {fits : State → Bool} {act : State → State} {s : State} (answers : s.answers = true) (field : v % 8 = op)
    (unfit : fits (s.setTwinCtl v) = false) : twinRow op fits act v s = (s.setTwinCtl v).badWrite pgTwin 0x100 := by
  have named : twinOpField v = op := by rw [← field]; exact congrArg (· % 8) (Nat.div_one v)
  unfold twinRow
  rw [if_neg (by rw [answers, named]; simp), if_neg (by rw [unfit]; decide)]
  rfl

/-! ### What no longer waits for the partner (R404, R406, R409) -/

/-- Of the twin engine only the blocks a snapshot has saved change, and nothing leaves the module. -/
structure TwinKept (s t : State) : Prop where
  twin   : t.twin = { s.twin with wp := t.twin.wp }
  outbox : t.outbox = s.outbox

theorem TwinKept.of_same {s t : State} (twin : t.twin = s.twin) (outbox : t.outbox = s.outbox) : TwinKept s t := ⟨by rw [twin], outbox⟩

theorem TwinKept.refl (s : State) : TwinKept s s := .of_same rfl rfl

theorem TwinKept.trans {s t u : State} (h : TwinKept s t) (k : TwinKept t u) : TwinKept s u :=
  ⟨by rw [k.twin, h.twin], k.outbox.trans h.outbox⟩

theorem TwinKept.twinned {s t : State} (h : TwinKept s t) : t.twinned = s.twinned := by
  unfold State.twinned
  rw [h.twin]

theorem JournalsOnly.twinKept {s t : State} (h : JournalsOnly s t) : TwinKept s t := by
  unfold JournalsOnly at h
  exact ⟨by rw [h], by rw [h]⟩

section
variable {s : State} (alone : s.twinned = false)
include alone

theorem freeRecords_twinKept : TwinKept s s.freeRecords := by
  rw [freeRecords_alone alone]
  exact .of_same rfl rfl

theorem appendDisabled_twinKept (q : Nat) : TwinKept s (s.appendDisabled q) := by
  have record := (appendRec_journalsOnly alone .context q (({ s.queue q with state := .disabled } : QueueCtx).nextSeq - 1)
    ({ s.queue q with state := .disabled } : QueueCtx).bytes ({ s.queue q with state := .disabled } : QueueCtx).cqHead .ok).twinKept
  unfold State.appendDisabled
  dsimp only at record ⊢
  generalize s.appendRec _ _ _ _ _ _ = u at record ⊢
  have still := record.twinned.trans alone
  have dropped : TwinKept u { u with jnl := { u.jnl with live := u.jnl.live.filter (fun l => l.q != q) } } := .of_same rfl rfl
  exact record.trans (dropped.trans (freeRecords_twinKept (by exact still)))

theorem disableQueue_twinKept (q : Nat) : TwinKept s (s.disableQueue q) := by
  unfold State.disableQueue
  dsimp only
  split
  · refine TwinKept.trans ?_ (appendDisabled_twinKept ?_ q)
    · exact .of_same rfl rfl
    · exact alone
  · exact .of_same rfl rfl

theorem settleQueue_twinKept (q : Nat) : TwinKept s (s.settleQueue q) := by
  unfold State.settleQueue
  dsimp only
  split
  · exact disableQueue_twinKept alone q
  · exact .refl s

theorem finishAccept_twinKept (q n : Nat) : TwinKept s (s.finishAccept q n) := by
  unfold State.finishAccept
  split
  · exact .refl s
  · dsimp only
    have counted (x : QueueCtx) (d : Cmd) : TwinKept s (((s.putQueue q x).putCmd d).count pgService 0x1001 1) := .of_same rfl rfl
    have parked (u : State) : TwinKept u (u.settlePark q) := .of_same (by rw [settlePark_frame]) (by rw [settlePark_frame])
    have kept (x : QueueCtx) (d : Cmd) := (counted x d).trans (parked _)
    exact (kept _ _).trans (settleQueue_twinKept ((kept _ _).twinned.trans alone) q)

theorem releaseRecord_twinKept (r : Nat) : TwinKept s (s.releaseRecord r) := by
  unfold State.releaseRecord
  split
  · exact .refl s
  · next l _ =>
    have headed := (headJournaled_journalsOnly s l).twinKept
    have still := headed.twinned.trans alone
    dsimp only
    generalize s.headJournaled l = u at headed still ⊢
    split
    · split
      · exact headed.trans (finishAccept_twinKept still _ _)
      · exact headed
    · exact headed.trans (.of_same rfl rfl)
    · exact headed.trans (freeRecords_twinKept still)

theorem release_twinKept (w : MirrorWait) : TwinKept s (s.release w) := by
  cases w with
  | record r => exact releaseRecord_twinKept alone r
  | notice q n => exact .of_same rfl rfl
  | trim _ => exact .refl s
  | version _ _ => exact .refl s
  | fill => exact .refl s

end

/-- The release of a list of items, by a member without a partner. -/
theorem foldl_release_twinKept {s t : State} (alone : s.twinned = false) (l : List MirrorWait) (h : TwinKept s t) : TwinKept s (l.foldl State.release t) := by
  induction l generalizing t with
  | nil => exact h
  | cons w l ih => exact ih (h.trans (release_twinKept (h.twinned.trans alone) w))

/-- Once everything is released, nothing is awaited and every command's notice counts as heard. -/
theorem releaseAll_kept {s : State} (alone : s.twinned = false) :
    TwinKept { s with twin := { s.twin with unacked := [] } } s.releaseAll ∧ ∀ c ∈ s.releaseAll.cmds, c.noticed = true := by
  have kept := foldl_release_twinKept (s := { s with twin := { s.twin with unacked := [] } }) alone s.twin.unacked (.refl _)
  unfold State.releaseAll
  dsimp only
  refine ⟨kept.trans (.of_same rfl rfl), fun c there => ?_⟩
  obtain ⟨d, -, rfl⟩ := List.mem_map.mp there
  rfl

/-- ALONE: the reason is named, nothing is awaited, and PARTNER_LOST is set (R409). -/
theorem goAlone_alone (s : State) (reason : Nat) : (s.goAlone reason).twin.state = .alone ∧ (s.goAlone reason).twin.reason = reason ∧
    (s.goAlone reason).twin.unacked = [] ∧ hasBit ((s.goAlone reason).page pgTwin).errSts 16 = true ∧ ∀ c ∈ (s.goAlone reason).cmds, c.noticed = true := by
  have rest := releaseAll_kept (s := { s with twin := { s.twin with state := .alone, reason := reason, fillLeft := [], fillRecs := [], fillSync := false } }) rfl
  unfold State.goAlone
  dsimp only
  rw [State.modPage_twin, State.modPage_cmds, page_modPage]
  generalize State.releaseAll _ = t at rest ⊢
  obtain ⟨kept, noticed⟩ := rest
  rw [kept.twin]
  refine ⟨rfl, rfl, rfl, ?_, noticed⟩
  unfold Page.partnerLost
  rw [hasBit_setBit _ _ _ (by decide)]
  simp

/-- SOLO again: no partner is known and nothing is awaited (R404). -/
theorem goSolo_solo (s : State) : s.goSolo.twin.state = .solo ∧ s.goSolo.twin.partnerPos = 0xFFFF ∧ s.goSolo.twin.unacked = [] ∧
    s.goSolo.outbox = s.outbox ∧ ∀ c ∈ s.goSolo.cmds, c.noticed = true := by
  have rest := releaseAll_kept (s := { s with twin := { s.twin with state := .solo, reason := 0, partnerPos := 0xFFFF, partnerFeed := 0, fillSync := false } }) rfl
  unfold State.goSolo
  generalize State.releaseAll _ = t at rest ⊢
  obtain ⟨kept, noticed⟩ := rest
  rw [kept.twin]
  exact ⟨rfl, rfl, rfl, kept.outbox, noticed⟩

/-! ### A pair forms (R403, R405, R407) -/

/-- What the mirror area's filling changes: memory, page counters, and what the twin engine keeps of the partner's records. -/
def MirrorsOnly (s t : State) : Prop :=
  t = { s with
    mem := t.mem, pages := t.pages,
    twin := { s.twin with
      wp := t.twin.wp, mirrored := t.twin.mirrored, notices := t.twin.notices, mirrorWrite := t.twin.mirrorWrite, mirrorCopy := t.twin.mirrorCopy } }

theorem MirrorsOnly.refl (s : State) : MirrorsOnly s s := rfl

theorem MirrorsOnly.trans {s t u : State} (h : MirrorsOnly s t) (k : MirrorsOnly t u) : MirrorsOnly s u := by
  unfold MirrorsOnly at h k ⊢
  rw [k, h]

theorem MirrorsOnly.state {s t : State} (h : MirrorsOnly s t) : t.twin.state = s.twin.state := by rw [h]

theorem StoresOnly.mirrorsOnly {s t : State} (h : StoresOnly s t) : MirrorsOnly s t := by
  unfold StoresOnly at h
  unfold MirrorsOnly
  rw [h]

theorem MirrorsOnly.noted {s t : State} (h : MirrorsOnly s t) (m : List (Nat × Bytes)) (n : List (Nat × Nat)) (w copy : Nat) :
    MirrorsOnly s { t with twin := { t.twin with mirrored := m, notices := n, mirrorWrite := w, mirrorCopy := copy } } := by
  refine h.trans ?_
  unfold MirrorsOnly
  rfl

section
variable {s : State} (calm : s.twin.state ≠ .filling)
include calm

theorem mirrorHeader_mirrorsOnly : MirrorsOnly s s.mirrorHeader := by
  unfold State.mirrorHeader
  split
  · exact .refl s
  · exact (storeBytes_storesOnly calm _ _).mirrorsOnly.noted _ _ _ _

theorem keepMirror_mirrorsOnly (r : Nat) (bs : Bytes) : MirrorsOnly s (s.keepMirror r bs) := by
  have stored : MirrorsOnly s (if s.mirrorSize = 0 then s else s.storeBytes (s.mirrorAddr r) bs) := by
    split
    · exact .refl s
    · exact (storeBytes_storesOnly calm _ _).mirrorsOnly
  unfold State.keepMirror
  dsimp only
  generalize (if s.mirrorSize = 0 then s else s.storeBytes (s.mirrorAddr r) bs) = u at stored ⊢
  exact (stored.noted _ _ _ _).trans (mirrorHeader_mirrorsOnly (fun same => calm (stored.state.symm.trans same)))

theorem foldl_keepMirror_mirrorsOnly (l : List (Nat × Bytes)) {t : State} (h : MirrorsOnly s t) :
    MirrorsOnly s (l.foldl (fun u r => u.keepMirror r.1 r.2) t) := by
  induction l generalizing t with
  | nil => exact h
  | cons r l ih => exact ih (h.trans (keepMirror_mirrorsOnly (fun same => calm (h.state.symm.trans same)) r.1 r.2))

/-- The records of a pairing partner are taken: no state of the pairing moves, and nothing is sent. -/
theorem takeRecords_same (p : PairRecord) : (s.takeRecords p).twin.state = s.twin.state ∧ (s.takeRecords p).twin.partnerPos = s.twin.partnerPos ∧
    (s.takeRecords p).twin.partnerFeed = s.twin.partnerFeed ∧ (s.takeRecords p).twin.unacked = s.twin.unacked ∧
    (s.takeRecords p).twin.refuse = s.twin.refuse ∧ (s.takeRecords p).cmds = s.cmds ∧ (s.takeRecords p).queues = s.queues := by
  have taken := foldl_keepMirror_mirrorsOnly (s := { s with twin := { s.twin with
    mirrored := [], notices := [], followers := [], mirrorTrim := ((p.records.head?).map (·.1)).getD 0,
    mirrorWrite := ((p.records.getLast?).map (·.1 + 1)).getD 0, partnerOwner := p.owner, partnerBase := p.base } }) calm p.records (.refl _)
  unfold State.takeRecords
  dsimp only at taken ⊢
  generalize p.records.foldl _ _ = u at taken ⊢
  have headed := taken.trans (mirrorHeader_mirrorsOnly (fun same => calm (taken.state.symm.trans same)))
  rw [headed]
  exact ⟨rfl, rfl, rfl, rfl, rfl, rfl, rfl⟩

end

theorem formPair_formed (s : State) (p : PairRecord) :
    (s.formPair p).twin.state = (if p.feedId = s.twin.ownFeed then .shared else .paired) ∧ (s.formPair p).twin.partnerPos = p.position ∧
    (s.formPair p).twin.partnerFeed = p.feedId ∧ (s.formPair p).twin.unacked = [] ∧ (s.formPair p).twin.refuse = 0 := by
  have calm : (if p.feedId = s.twin.ownFeed then TwinState.shared else .paired) ≠ .filling := by split <;> decide
  obtain ⟨state, position, feed, unacked, refuse, -⟩ := takeRecords_same (s := { s with twin := { s.twin with
    state := if p.feedId = s.twin.ownFeed then .shared else .paired, reason := 0, refuse := 0, partnerFeed := p.feedId, partnerPos := p.position,
    unacked := [] } }) calm p
  exact ⟨state, position, feed, unacked, refuse⟩

section
variable {s : State} {p : PairRecord} (alive : s.alive = true) (pairing : s.twin.state = .pairing)
include alive pairing

theorem pairingRecord_refused {k : Nat} (finding : pairFinding s p = some k) (found : k ≠ 6) :
    pairingRecord p s = State.sendTwin { s with twin := { s.twin with state := .solo, refuse := k } } "REFUSED" [k] [] := by
  unfold pairingRecord
  rw [if_neg (by rw [alive, pairing]; decide), if_neg (by rw [alive, pairing]; decide), finding]
  exact if_neg found

theorem pairingRecord_formed (finding : pairFinding s p = none) : pairingRecord p s = s.formPair p := by
  unfold pairingRecord
  rw [if_neg (by rw [alive, pairing]; decide), if_neg (by rw [alive, pairing]; decide), finding]

end

theorem pairFinding_position {s : State} {p : PairRecord} (other : p.position ≠ twinOf s.lnk.position) : pairFinding s p = some 1 :=
  if_pos (by simp [other])

theorem pairFinding_feed {s : State} {p : PairRecord} (twin : p.position = twinOf s.lnk.position) (own : s.lnk.position < 16384)
    (active : p.position < 16384) (feed : p.feedId = s.twin.ownFeed) (unshared : p.sharedFeedOk = false ∨ s.twin.sharedFeedOk = false) :
    pairFinding s p = some 3 := by
  have placed : (!activePos s.lnk.position || !activePos p.position || p.position != twinOf s.lnk.position) = false := by
    simp [activePos, own, active, twin.symm]
  have one : (p.feedId == s.twin.ownFeed && !(p.sharedFeedOk && s.twin.sharedFeedOk)) = true := by
    rcases unshared with h | h <;> simp [feed, h]
  unfold pairFinding
  rw [placed, if_neg Bool.false_ne_true, if_pos one]

/-! ### FAIL_EVENT (R420) -/

/-- The last 64 of a list that grew by one, the new one last. -/
theorem last64_events (es : List Nat) (x : Nat) : (es ++ [x]).drop ((es ++ [x]).length - 64) <:+ es ++ [x] ∧
    ((es ++ [x]).drop ((es ++ [x]).length - 64)).getLast? = some x ∧ ((es ++ [x]).drop ((es ++ [x]).length - 64)).length = min 64 (es.length + 1) := by
  have some' : ¬ (es ++ [x]).length ≤ (es ++ [x]).length - 64 := by
    rw [List.length_append, List.length_singleton]
    omega
  refine ⟨List.drop_suffix _ _, ?_, ?_⟩
  · rw [List.getLast?_drop, if_neg some', List.getLast?_concat]
  · rw [List.length_drop, List.length_append, List.length_singleton]
    omega

end Sys2Proof.Machine

/-- Settles O58: each OP of TWIN_CTL by its row (`twinRow_fits`), a pairing record by its finding, and what a member loses or gives up by the release
of all that it awaited (`releaseAll_kept`). -/
theorem twinPairing : Obligations.TwinPairing := by
  unfold Obligations.TwinPairing
  refine ⟨?_, ?_⟩
  · intro s u v answers written
    subst written
    have state := setTwinCtl_state s v.toNat
    have position := setTwinCtl_position s v.toNat
    refine ⟨?_, ?_, ?_, ?_, ?_, ?_, ?_⟩
    · intro op solo active target
      refine congrArg Host.Outcome.next ((twinRow_fits answers op (by rw [state, solo]; rfl)).trans ?_)
      unfold State.pair
      rw [if_neg (by rw [position]; simp [activePos, active]), if_neg (by rw [target]; decide)]
      rfl
    · intro op solo active target
      refine congrArg Host.Outcome.next ((twinRow_fits answers op (by rw [state, solo]; rfl)).trans ?_)
      unfold State.pair
      rw [if_neg (by rw [position]; simp [activePos, active]), if_pos target, position]
      rfl
    · intro op solo passive
      refine congrArg Host.Outcome.next ((twinRow_fits answers op (by rw [state, solo]; rfl)).trans ?_)
      exact if_pos (by rw [position]; simp [activePos, Nat.not_lt.mpr passive])
    · intro op other
      exact congrArg Host.Outcome.next (twinRow_unfit answers op (by rw [state]; simpa using other))
    · intro op paired
      have still : (s.setTwinCtl v.toNat).isPaired = true := by unfold State.isPaired at paired ⊢; rw [state]; exact paired
      obtain ⟨solo, nobody, nothing, sent, noticed⟩ := goSolo_solo ((s.setTwinCtl v.toNat).tellTwin "UNPAIR" [] [])
      exact ⟨_, congrArg Host.Outcome.next (twinRow_fits answers op still), solo, nobody, nothing, sent ▸ mem_sendTwin _ _ _ _, noticed⟩
    · intro op partner
      have still : (s.setTwinCtl v.toNat).hasPartner = true := by unfold State.hasPartner at partner ⊢; rw [state]; exact partner
      exact ⟨_, congrArg Host.Outcome.next (twinRow_fits answers op still), goAlone_alone _ 3⟩
    · intro asked
      obtain ⟨suffix, last, length⟩ := last64_events s.twin.events (160 * s.cycles)
      refine ⟨_, congrArg Host.Outcome.next ?_, suffix, last, length⟩
      exact if_neg (by rw [answers]; simp [bitAt, asked])
  · intro s alive
    refine ⟨?_, ?_, ?_, ?_, ?_, ?_, ?_⟩
    · intro p pairing finding
      exact ⟨_, congrArg Host.Outcome.next (pairingRecord_formed alive pairing finding), formPair_formed s p⟩
    · intro p pairing other
      exact congrArg Host.Outcome.next (pairingRecord_refused alive pairing (pairFinding_position other) (by decide))
    · intro p pairing twin own active feed unshared
      exact congrArg Host.Outcome.next (pairingRecord_refused alive pairing (pairFinding_feed twin own active feed unshared) (by decide))
    · intro pairing
      exact congrArg Host.Outcome.next (if_pos (by rw [alive, pairing]; rfl))
    · intro paired
      obtain ⟨solo, nobody, nothing, -, noticed⟩ := goSolo_solo s
      exact ⟨_, congrArg Host.Outcome.next (if_pos (by rw [alive, paired]; rfl)), solo, nobody, nothing, noticed⟩
    · intro partner awaited noRoute
      have waits : (s.alive && s.hasPartner && !s.twin.unacked.isEmpty) = true := by simp [alive, partner, awaited]
      exact ⟨_, congrArg Host.Outcome.next (if_pos waits), goAlone_alone s _⟩
    · intro partner
      exact ⟨_, congrArg Host.Outcome.next (if_pos (by rw [alive, partner]; rfl)), goAlone_alone s 2⟩

end

section
/-! PROOFS. The partner's records and notices, acknowledgements, the filling of a spare, and JOIN (R406, R407, R412, R413, R425). -/

open Sys2Proof Sys2Proof.Machine

namespace Sys2Proof.Machine

/-! ### A write leaves the partner's records (R407) -/

/-- What every step of a fold leaves of the twin engine, the fold leaves. -/
theorem foldl_twin {α β : Type} (get : Twin → β) {f : State → α → State} (each : ∀ u x, get (f u x).twin = get u.twin) (l : List α) (s : State) :
    get (l.foldl f s).twin = get s.twin := by
  induction l generalizing s with
  | nil => rfl
  | cons x l ih => exact (ih (f s x)).trans (each s x)

theorem FlushOnly.mirrored {s t : State} (h : FlushOnly s t) : t.twin.mirrored = s.twin.mirrored := by rw [h]

/-- The state once a block's bytes are sent and its acknowledgement is awaited. -/
theorem sendTwin_awaited (s : State) (words : List Nat) (bs : Bytes) (b : Nat) :
    ({ (s.sendTwin "FILL_BLOCK" words bs).count pgTwin 0x1504 1 with
      twin := { ((s.sendTwin "FILL_BLOCK" words bs).count pgTwin 0x1504 1).twin with
        fillLeft := ((s.sendTwin "FILL_BLOCK" words bs).count pgTwin 0x1504 1).twin.fillLeft.filter (· != b),
        unacked := ((s.sendTwin "FILL_BLOCK" words bs).count pgTwin 0x1504 1).twin.unacked ++ [.fill] } } : State) =
    { (s.sendTwin "FILL_BLOCK" words bs).count pgTwin 0x1504 1 with
      twin := { s.twin with fillLeft := s.twin.fillLeft.filter (· != b), unacked := s.twin.unacked ++ [.fill] } } := by
  rw [State.count_twin, (sendTwin_sends s _ _ _).twin]

/-- A block of a fill is sent with its poisoned granules. -/
theorem sendFill_eq (s : State) (b : Nat) : s.sendFill b =
    { (s.sendTwin "FILL_BLOCK" (b * 1048576 :: (s.blockAt b).2) (s.blockAt b).1).count pgTwin 0x1504 1 with
      twin := { s.twin with fillLeft := s.twin.fillLeft.filter (· != b), unacked := s.twin.unacked ++ [.fill] } } := by
  unfold State.sendFill
  exact sendTwin_awaited s _ _ b

theorem blockAt_eq (s : State) (b : Nat) :
    s.blockAt b = (s.rawBytes (b * 1048576) 1048576, (granulesOf (b * 1048576) 1048576).filter s.poisonedAt) := by
  unfold State.blockAt
  rfl

theorem sendFill_mirrored (s : State) (b : Nat) : (s.sendFill b).twin.mirrored = s.twin.mirrored := by
  rw [sendFill_eq]

theorem beforeWrite_mirrored (s : State) (a len : Nat) : (s.beforeWrite a len).twin.mirrored = s.twin.mirrored := by
  have read : (if s.twin.wp.running then (mibsOf a len).foldl State.readFirst s else s).twin.mirrored = s.twin.mirrored := by
    split
    · exact foldl_twin Twin.mirrored (fun u b => by rw [readFirst_storesOnly u b]) _ s
    · rfl
  unfold State.beforeWrite
  dsimp only
  generalize (if s.twin.wp.running then (mibsOf a len).foldl State.readFirst s else s) = t at read ⊢
  split
  · refine (foldl_twin Twin.mirrored (fun u b => ?_) _ _).trans read
    split
    · exact sendFill_mirrored u b
    · rfl
  · exact read

theorem forwardWrite_mirrored (s : State) (a : Nat) (bs : Bytes) : (s.forwardWrite a bs).twin.mirrored = s.twin.mirrored := by
  unfold State.forwardWrite
  split
  · rfl
  · refine foldl_twin Twin.mirrored (fun u b => ?_) _ s
    dsimp only
    split
    · dsimp only
      rw [(sendTwin_sends u _ _ _).twin]
    · rfl

theorem storeBytes_mirrored (s : State) (a : Nat) (bs : Bytes) : (s.storeBytes a bs).twin.mirrored = s.twin.mirrored := by
  have flushed := (((recomputeFirst_flushOnly (s.beforeWrite a bs.length) a bs.length).trans (clearCovered_flushOnly _ a bs.length)).trans
    (dirtyTracks_flushOnly _ a bs.length)).trans (pokeBytes_flushOnly _ a bs)
  unfold State.storeBytes
  dsimp only
  rw [forwardWrite_mirrored]
  exact flushed.mirrored.trans (beforeWrite_mirrored s a bs.length)

/-! ### The mirror area (R407) -/

/-- A write of the mirror area leaves commands, queues and journal. -/
theorem mirrorHeader_same (s : State) : s.mirrorHeader.twin.mirrored = s.twin.mirrored ∧ s.mirrorHeader.cmds = s.cmds ∧
    s.mirrorHeader.queues = s.queues ∧ s.mirrorHeader.jnl = s.jnl := by
  unfold State.mirrorHeader
  split
  · exact ⟨rfl, rfl, rfl, rfl⟩
  · dsimp only
    have same := storeBytes_sameElse s (s.twin.mirrorBase * 4096 + 4096 * s.twin.mirrorCopy)
      (headerBytes s.twin.partnerOwner s.twin.partnerBase s.twin.mirrorWrite s.twin.mirrorTrim)
    exact ⟨storeBytes_mirrored _ _ _, same.cmds, same.rests.queues, same.rests.jnl⟩

theorem keepMirror_same (s : State) (r : Nat) (bs : Bytes) : (s.keepMirror r bs).twin.mirrored = s.twin.mirrored.filter (fun x => x.1 != r) ++ [(r, bs)] ∧
    (s.keepMirror r bs).cmds = s.cmds ∧ (s.keepMirror r bs).queues = s.queues ∧ (s.keepMirror r bs).jnl = s.jnl := by
  have same := ite_sameElse (p := s.mirrorSize = 0) (SameElse.refl s) (storeBytes_sameElse s (s.mirrorAddr r) bs)
  have mirrored : (if s.mirrorSize = 0 then s else s.storeBytes (s.mirrorAddr r) bs).twin.mirrored = s.twin.mirrored := by
    split
    · rfl
    · exact storeBytes_mirrored _ _ _
  unfold State.keepMirror
  dsimp only
  generalize (if s.mirrorSize = 0 then s else s.storeBytes (s.mirrorAddr r) bs) = u at same mirrored ⊢
  obtain ⟨kept, cmds, queues, jnl⟩ := mirrorHeader_same { u with twin := { u.twin with
    mirrored := u.twin.mirrored.filter (fun x => x.1 != r) ++ [(r, bs)],
    notices := if (fieldAt bs 0 1 == 2) = true then u.twin.notices.filter (fun x => x != (fieldAt bs 4 4, fieldAt bs 8 8)) else u.twin.notices,
    mirrorWrite := max u.twin.mirrorWrite (r + 1) } }
  exact ⟨kept.trans (by rw [← mirrored]), cmds.trans same.cmds, queues.trans same.rests.queues, jnl.trans same.rests.jnl⟩

/-! ### FILL_SYNC (R413) -/

theorem noteSync_other {u : State} (other : u.twin.state ≠ .filling) : u.noteSync = u := if_neg (fun all => other all.1)

/-- FILL_SYNC once a fill goes on: it stays set, and is set when nothing is left to send or to be acknowledged. -/
theorem noteSync_filling {u : State} (filling : u.twin.state = .filling) : u.noteSync = { u with twin := { u.twin with
    fillSync := u.twin.fillSync || (u.twin.fillLeft.isEmpty && u.twin.fillRecs.isEmpty && !u.twin.unacked.contains .fill) } } := by
  unfold State.noteSync
  by_cases over' : (u.twin.fillLeft.isEmpty && u.twin.fillRecs.isEmpty && !u.twin.unacked.contains .fill) = true
  · have all := over'
    simp only [Bool.and_eq_true, Bool.not_eq_true'] at all
    rw [if_pos ⟨filling, all.1.1, all.1.2, all.2⟩, over', Bool.or_true]
  · have short := over'
    simp only [Bool.and_eq_true, Bool.not_eq_true', not_and] at short
    rw [if_neg (fun all => short ⟨all.2.1, all.2.2.1⟩ all.2.2.2), Bool.not_eq_true _ |>.mp over', Bool.or_false]

section
variable {s : State} (alive : s.alive = true)
include alive

section
variable (link : s.per.linkUp = true) (twinned : s.twinned = true)
include link twinned

/-- Whether the module hears its partner, as MIRROR_RECORD_RECEIVE asks. -/
theorem hears_of_twinned : (!s.alive || !s.per.linkUp || !(s.twinned || s.twin.state == .fillTarget)) = false := by
  rw [alive, link, twinned]
  rfl

theorem exec_mirrorRecord (r : Nat) (bs : Bytes) : exec (.mirrorRecordReceive (.record r bs)) s = .next ((s.keepMirror r bs).sendTwin "ACK" [] []) :=
  congrArg Host.Outcome.next (if_neg (by rw [hears_of_twinned alive link twinned]; decide))

theorem exec_mirrorNotice (q n : Nat) : exec (.mirrorRecordReceive (.commitNotice q n)) s = .next (State.sendTwin { s with
    twin := { s.twin with notices := s.twin.notices.filter (· != (q, n)) ++ [(q, n)] } } "ACK" [] []) :=
  congrArg Host.Outcome.next (if_neg (by rw [hears_of_twinned alive link twinned]; decide))

theorem exec_mirrorFollower (a v : Nat) : exec (.mirrorRecordReceive (.followerVersion a v)) s = .next (State.sendTwin { s with
    twin := { s.twin with followers := tabSet 0 s.twin.followers a v } } "ACK" [] []) :=
  congrArg Host.Outcome.next (if_neg (by rw [hears_of_twinned alive link twinned]; decide))

theorem exec_mirrorTrim (r : Nat) : exec (.mirrorRecordReceive (.trim r)) s = .next (State.mirrorHeader { s with
    twin := { s.twin with mirrored := s.twin.mirrored.filter (fun x => decide (r ≤ x.1)), mirrorTrim := r } }) :=
  congrArg Host.Outcome.next (if_neg (by rw [hears_of_twinned alive link twinned]; decide))

end

/-! ### Acknowledgements (R406, R413) -/

theorem exec_ack {w : MirrorWait} {rest : List MirrorWait} (oldest : s.twin.unacked = w :: rest) (plain : ∀ r, w ≠ .record r) :
    exec .twinAckReceive s = .next ((({ s with twin := { s.twin with unacked := rest } } : State).release w).noteSync) := by
  refine congrArg Host.Outcome.next ?_
  unfold twinAck
  rw [oldest]
  dsimp only
  rw [if_neg (by rw [alive]; decide)]
  cases w with
  | record r => exact absurd rfl (plain r)
  | notice _ _ => rfl
  | trim _ => rfl
  | version _ _ => rfl
  | fill => rfl

/-! ### A fill's blocks and records (R413) -/

section
variable (filling : s.twin.state = .filling)
include filling

theorem exec_fillBlock {b : Nat} {rest : List Nat} (left : s.twin.fillLeft = b :: rest) : exec .fillBlockSend s = .next (s.sendFill b) := by
  refine congrArg Host.Outcome.next ?_
  unfold fillBlockSend
  rw [if_neg (by rw [alive, filling]; decide), left]

theorem exec_fillRecord {r : Nat × Bytes} {rest : List (Nat × Bytes)} (left : s.twin.fillLeft = []) (recs : s.twin.fillRecs = r :: rest) :
    exec .fillBlockSend s = .next { s.sendTwin "FILL_RECORD" [r.1] r.2 with
      twin := { s.twin with fillRecs := rest, unacked := s.twin.unacked ++ [.fill] } } := by
  refine congrArg Host.Outcome.next ?_
  unfold fillBlockSend State.tellTwin
  rw [if_neg (by rw [alive, filling]; decide), left, recs]
  dsimp only
  rw [(sendTwin_sends s "FILL_RECORD" [r.1] r.2).twin]

theorem exec_fillDone (left : s.twin.fillLeft = []) (recs : s.twin.fillRecs = []) : exec .fillBlockSend s = .next s.noteSync := by
  refine congrArg Host.Outcome.next ?_
  unfold fillBlockSend
  rw [if_neg (by rw [alive, filling]; decide), left, recs]

end

/-! ### The spare (R405, R412, R413) -/

section
variable (target : s.twin.state = .fillTarget)
include target

theorem exec_fillReceive_block {a : Nat} {bs : Bytes} (mapped : s.mappedRange a bs.length = true) :
    exec (.fillBlockReceive (.block a bs [])) s = .next (((s.storeBytes a bs).count pgTwin 0x1504 1).sendTwin "ACK" [] []) := by
  refine congrArg Host.Outcome.next ?_
  unfold fillReceive
  rw [if_neg (by rw [alive, target]; decide)]
  exact if_pos mapped

theorem exec_fillReceive_notice (q n : Nat) : exec (.fillBlockReceive (.notice q n)) s =
    .next { s with twin := { s.twin with adoptNotices := s.twin.adoptNotices ++ [(q, n)] } } :=
  congrArg Host.Outcome.next (if_neg (by rw [alive, target]; decide))

/-- The record of the twin position teaches the spare its feed. -/
theorem exec_fillTarget_record {p : PairRecord} (twin : p.position = twinOf s.lnk.position) : exec (.pairingRecordReceive p) s =
    .next (State.takeRecords { s with twin := { s.twin with partnerFeed := p.feedId, partnerPos := p.position } } p) := by
  refine congrArg Host.Outcome.next ?_
  unfold pairingRecord State.fillRecord
  rw [if_pos (by rw [alive, target]; rfl), if_neg (by rw [twin]; simp)]
  exact if_pos target

end
end

/-! ### FILL and JOIN (R412, R413) -/

theorem setTwinCtl_mem (s : State) (v : Nat) : (s.setTwinCtl v).mem = s.mem := by
  unfold State.setTwinCtl
  dsimp only
  split
  · rfl
  · exact State.modPage_mem _ _ _

/-- FILL lists what is to be sent, and sends the survivor's record. -/
theorem fill_begins (s : State) : ∃ t, SendsOnly { s with twin := { s.twin with
      state := .filling, reason := 0, fillLeft := s.twin.repBlocks, fillRecs := s.twin.mirrored, fillSync := false, unacked := [] } } t ∧
    s.fill = t.noteSync ∧ .twin "FILL" s.pairWords s.pairBytes ∈ t.outbox := by
  have told := sendTwin_sends { s with twin := { s.twin with
    state := .filling, reason := 0, fillLeft := s.twin.repBlocks, fillRecs := s.twin.mirrored, fillSync := false, unacked := [] } } "FILL" s.pairWords s.pairBytes
  have there := mem_sendTwin { s with twin := { s.twin with
    state := .filling, reason := 0, fillLeft := s.twin.repBlocks, fillRecs := s.twin.mirrored, fillSync := false, unacked := [] } } "FILL" s.pairWords s.pairBytes
  unfold State.fill State.tellTwin
  dsimp only
  generalize State.sendTwin _ "FILL" s.pairWords s.pairBytes = u at told there ⊢
  refine ⟨_, SendsOnly.foldl (fun v x sent => sent.trans (sendTwin_sends v _ _ _)) told, rfl, ?_⟩
  exact (Sent.foldl (fun v x sent => sent.sendTwin _ _ _) (Sent.refl u)).subset there

theorem joined_eq (w : Twin) : w.joined = (if w.sharedFeedOk = true ∧ w.partnerFeed = w.ownFeed then .shared else .paired) := by
  unfold Twin.joined
  simp only [Bool.and_eq_true, beq_iff_eq]

theorem join_survivor {u : State} (filling : u.twin.state = .filling) : u.join = { u with twin := { u.twin with
    state := if u.twin.sharedFeedOk = true ∧ u.twin.partnerFeed = u.twin.ownFeed then .shared else .paired, reason := 0, fillSync := false } } := by
  unfold State.join
  rw [← joined_eq, if_neg (by rw [filling]; decide)]

theorem join_spare {u : State} (target : u.twin.state = .fillTarget) : u.join = { u with
    twin := { u.twin with
      state := if u.twin.sharedFeedOk = true ∧ u.twin.partnerFeed = u.twin.ownFeed then .shared else .paired, reason := 0, fillSync := false, adopting := true }
    jnl := { u.jnl with state := .scanning, afterCold := true } } := by
  unfold State.join
  rw [← joined_eq, if_pos target]

/-- A byte of a list that memory holds. -/
theorem rawByte_of_rawBytes {s : State} {a : Nat} {bs : Bytes} (held : s.rawBytes a bs.length = bs) {i : Nat} (inside : i < bs.length) :
    some (s.rawByte (a + i)) = bs[i]? := by
  have read := congrArg (·[i]?) held
  simpa [State.rawBytes, inside] using read

end Sys2Proof.Machine

/-- Settles O59: what the mirror area keeps by `keepMirror_same`, acknowledgements by `exec_ack` and `noteSync_filling`, a fill by its next item, and
FILL and JOIN by their rows of TWIN_CTL. -/
theorem twinFilling : Obligations.TwinFilling := by
  unfold Obligations.TwinFilling
  refine ⟨?_, ?_, ?_, ?_⟩
  · intro s alive link twinned
    refine ⟨fun r bs => ⟨_, exec_mirrorRecord alive link twinned r bs, keepMirror_same s r bs⟩, exec_mirrorNotice alive link twinned,
      exec_mirrorFollower alive link twinned, fun r => ⟨_, exec_mirrorTrim alive link twinned r, mirrorHeader_same _⟩, ?_, ?_⟩
    · intro q n rest oldest other
      refine (exec_ack alive oldest (fun _ => nofun)).trans (congrArg Host.Outcome.next ((noteSync_other ?_).trans rfl))
      exact other
    · intro filling rest oldest
      refine (exec_ack alive oldest (fun _ => nofun)).trans (congrArg Host.Outcome.next ((noteSync_filling ?_).trans rfl))
      exact filling
  · intro s alive filling
    refine ⟨?_, fun r bs rest left recs => exec_fillRecord alive filling left recs, ?_⟩
    · intro b rest left
      rw [exec_fillBlock alive filling left, sendFill_eq, blockAt_eq]
    · intro left recs acked
      refine (exec_fillDone alive filling left recs).trans (congrArg Host.Outcome.next ((noteSync_filling filling).trans ?_))
      rw [left, recs, acked]
      simp
  · intro s u v answers written
    subst written
    obtain ⟨a, twin⟩ := setTwinCtl_twin s v.toNat
    have same := setTwinCtl_sameElse s v.toNat
    have partner : (s.setTwinCtl v.toNat).twin.partnerFeed = s.twin.partnerFeed := by rw [twin]
    have own : (s.setTwinCtl v.toNat).twin.ownFeed = s.twin.ownFeed := by rw [twin]
    refine ⟨?_, ?_, ?_, ?_⟩
    · intro op alone
      obtain ⟨t, sent, filled, told⟩ := fill_begins (s.setTwinCtl v.toNat)
      refine ⟨_, congrArg Host.Outcome.next (twinRow_fits answers op (by rw [twin, alone]; rfl)), ?_⟩
      rw [filled, noteSync_filling (by rw [sent.twin])]
      dsimp only
      rw [sent.twin, sent.mem, sent.sameElse.cmds]
      dsimp only
      rw [same.cmds, setTwinCtl_mem, twin]
      exact ⟨rfl, rfl, rfl, rfl, by simp; rfl, rfl, rfl, told⟩
    · intro op filling synced
      refine congrArg Host.Outcome.next ((twinRow_fits answers op ?_).trans ?_)
      · unfold State.mayJoin
        rw [twin, filling, synced]
        rfl
      · rw [join_survivor (by rw [twin, filling]), partner, own]
    · intro op target
      refine congrArg Host.Outcome.next ((twinRow_fits answers op ?_).trans ?_)
      · unfold State.mayJoin
        rw [twin, target]
        rfl
      · rw [join_spare (by rw [twin, target]), partner, own, same.rests.jnl]
    · intro op unfit
      refine congrArg Host.Outcome.next (twinRow_unfit answers op ?_)
      unfold State.mayJoin at unfit ⊢
      rw [twin]
      exact unfit
  · intro s alive target
    refine ⟨?_, exec_fillReceive_notice alive target, ?_⟩
    · intro a bs mapped wf
      refine ⟨_, exec_fillReceive_block alive target mapped, (storeBytes_sameElse s a bs).trans rfl, fun plain i inside => ?_⟩
      exact rawByte_of_rawBytes (s := s.storeBytes a bs) (State.rawBytes_storeBytes s wf a bs plain) inside
    · intro p twin
      obtain ⟨state, position, feed, -, -, cmds, queues⟩ := takeRecords_same
        (s := { s with twin := { s.twin with partnerFeed := p.feedId, partnerPos := p.position } }) (by rw [target]; decide) p
      exact ⟨_, exec_fillTarget_record alive target twin, state.trans target, feed, position, cmds, queues⟩

end

section
/-! PROOFS. Whitepoints: what TAKE marks, how a block is digested and streamed, the partner's digests, VERIFY, and how copies settle (R415 to R423). -/

open Sys2Proof Sys2Proof.Machine

namespace Sys2Proof.Machine

/-! ### TAKE (R416) -/

section
variable {s : State} {q n : Nat} {c : Cmd}

theorem wpMark_alone (alone : s.isPaired = false) (stop : Nat) (ls : List (Nat × Nat)) (vs : List Nat) : wpMark s c stop ls vs =
    { s.flushParity with twin := { s.twin with
      wp := { q := c.q, n := c.n, running := true, blocks := wpMarks s ls, versions := vs, jrec := s.jnl.writeRec, stop := stop }, wpState := 4 } } := by
  have parity := flushParity_flushOnly s
  unfold FlushOnly at parity
  unfold wpMark
  dsimp only
  generalize s.flushParity = t at parity ⊢
  rw [parity]
  exact if_neg (by rw [← Bool.not_eq_true] at alone; exact alone)

section
variable (runnable : s.runnable q n (Cmd.isSub 0x804 1) = some c) (fresh : s.twin.wp.running = false)
include runnable fresh

theorem exec_take_waits (busy : wpIdle s c = false) (stop : Nat) :
    exec (.whitepointTake q n stop) s = .next { s with twin := { s.twin with wpState := 1 } } := by
  refine congrArg Host.Outcome.next ?_
  unfold whitepointTake
  rw [runnable]
  dsimp only
  rw [if_neg (by rw [fresh]; decide), if_pos (by rw [busy]; rfl)]

theorem exec_take_marks {ls : List (Nat × Nat)} {shs vs : List Nat} (idle : wpIdle s c = true) (locals : s.wpLocals c = .ok ls)
    (shards : s.wpShards c = .ok shs) (versions : shs.mapM (fun a => (s.shard c.q a).map Shard.version) = .ok vs) (stop : Nat) :
    exec (.whitepointTake q n stop) s = .next ((wpMark s c stop ls vs).putCmd { c with committed := true }) := by
  refine congrArg Host.Outcome.next ?_
  unfold whitepointTake
  rw [runnable]
  dsimp only
  rw [if_neg (by rw [fresh]; decide), if_neg (by rw [idle]; decide), locals, shards]
  dsimp only [Except.bind]
  rw [versions]

end

end

/-! ### A write into Slate during a snapshot (R416) -/

section
variable (s : State) (w : Twin) (p : Tab Page)

theorem tierOf_twinPages (a : Nat) : State.tierOf { s with twin := w, pages := p } a = s.tierOf a := rfl

theorem mappedRange_twinPages (a len : Nat) : State.mappedRange { s with twin := w, pages := p } a len = s.mappedRange a len := rfl

theorem coversHalf_twinPages (a len g : Nat) : coversHalf { s with twin := w, pages := p } a len g = coversHalf s a len g := rfl

theorem poisonedAt_twinPages (a : Nat) : State.poisonedAt { s with twin := w, pages := p } a = s.poisonedAt a := by
  unfold State.poisonedAt
  rw [tierOf_twinPages]
  rfl

theorem poisonMet_twinPages (a len : Nat) (write : Bool) : State.poisonMet { s with twin := w, pages := p } a len write = s.poisonMet a len write := by
  unfold State.poisonMet
  refine congrArg (fun f => (granulesOf a len).find? f) (funext fun g => ?_)
  rw [poisonedAt_twinPages, tierOf_twinPages, coversHalf_twinPages]
  rfl

/-- Whether a write is refused does not depend on the twin engine, nor on counters. -/
theorem refusal_twinPages (a len : Nat) (write : Bool) : State.refusal { s with twin := w, pages := p } a len write = s.refusal a len write := by
  unfold State.refusal
  rw [mappedRange_twinPages, tierOf_twinPages, poisonMet_twinPages]

end

theorem pokeBytes_above (s : State) {a : Nat} (slate : slateBase ≤ a) (bs : Bytes) (x : Nat) :
    (s.pokeBytes a bs).mem.cell x = if a ≤ x then (bs[x - a]?).getD (s.mem.cell x) else s.mem.cell x := by
  induction bs generalizing s a with
  | nil => simp [State.pokeBytes]
  | cons b bs ih =>
    have poked : s.pokeByte a b = { s with mem := s.mem.setCell a b } := if_neg (fun umber => absurd umber.2 (Nat.not_lt.mpr slate))
    have cell : (s.pokeByte a b).mem.cell x = if x = a then b else s.mem.cell x := by
      rw [poked]
      exact tabGet_tabSet a x b
    unfold State.pokeBytes
    rw [ih (s.pokeByte a b) (Nat.le_succ_of_le slate), cell]
    rcases Nat.lt_trichotomy x a with below | rfl | above
    · rw [if_neg (by omega), if_neg (by omega), if_neg (by omega)]
    · rw [if_neg (by omega), if_pos rfl, if_pos (Nat.le_refl _), Nat.sub_self]
      rfl
    · rw [if_pos (by omega), if_neg (by omega), if_pos (by omega), show x - a = (x - (a + 1)) + 1 by omega]
      rfl

/-- A run of Slate reads as it was stored, wherever it ends. -/
theorem rawBytes_storeBytes_slate (s : State) {a : Nat} (slate : slateBase ≤ a) (bs : Bytes) : (s.storeBytes a bs).rawBytes a bs.length = bs := by
  have beyond : umberBase ≤ slateBase := by decide
  unfold State.rawBytes
  refine List.ext_getElem (by simp) (fun i inside _ => ?_)
  have within : i < bs.length := by simpa using inside
  rw [List.getElem_map, List.getElem_range, State.rawByte_plain _ (by omega)]
  unfold State.storeBytes
  dsimp only
  rw [State.forwardWrite_mem]
  dsimp only
  rw [Mem.openAt_closed _ (by omega) (by omega), Mem.cell_closeBytes, pokeBytes_above _ slate, if_pos (by omega)]
  simp [within]

/-- A write outside the blocks still marked leaves the snapshot's run. -/
theorem storeBytes_wp {s : State} {a : Nat} {bs : Bytes} (apart : ∀ x ∈ s.twin.wp.blocks, x.mib ∉ mibsOf a bs.length) :
    (s.storeBytes a bs).twin.wp = s.twin.wp := by
  have unmarked : ∀ b ∈ mibsOf a bs.length, s.readFirst b = s := by
    intro b touched
    have none : s.twin.wp.blocks.find? (fun x => x.mib == b) = .none :=
      List.find?_eq_none.mpr (fun x marked same => apart x marked ((beq_iff_eq.mp same) ▸ touched))
    unfold State.readFirst
    dsimp only
    rw [none]
  have read : (if s.twin.wp.running then (mibsOf a bs.length).foldl State.readFirst s else s) = s := by
    split
    · exact foldl_fixed unmarked
    · rfl
  have before : (s.beforeWrite a bs.length).twin.wp = s.twin.wp := by
    unfold State.beforeWrite
    rw [read]
    dsimp only
    split
    · refine foldl_twin Twin.wp (fun u b => ?_) _ s
      split
      · rw [sendFill_eq]
      · rfl
    · rfl
  have flushed := (((recomputeFirst_flushOnly (s.beforeWrite a bs.length) a bs.length).trans (clearCovered_flushOnly _ a bs.length)).trans
    (dirtyTracks_flushOnly _ a bs.length)).trans (pokeBytes_flushOnly _ a bs)
  have kept := (congrArg (fun t => t.twin.wp) flushed).trans before
  unfold State.storeBytes State.forwardWrite
  dsimp only at kept ⊢
  split
  · exact kept
  · refine (foldl_twin Twin.wp (fun u b => ?_) _ _).trans kept
    split
    · dsimp only
      rw [(sendTwin_sends u _ _ _).twin]
    · rfl

/-! ### The stream (R416 to R418) -/

section
variable {s : State} {q n : Nat} {c : Cmd}

/-- The snapshot's run once a block that is not poisoned is digested. -/
def WpRun.digested (w : WpRun) (b : WpBlock) (rest : List WpBlock) (bytes : Bytes) (cycles : Nat) : WpRun :=
  { w with blocks := rest, saved := w.saved.filter (fun y => y.mib != b.mib),
           digests := w.digests ++ [{ mib := b.mib, loc := b.loc, streamed := b.streamed, crc := crc64 bytes }], sent := w.sent + bit b.streamed,
           stream := w.stream + cycles }

theorem digested_run (w : WpRun) {b : WpBlock} {x : Bool} (streamed : b.streamed = x) (rest : List WpBlock) (bytes : Bytes) (cycles : Nat) :
    (w.digested b rest bytes cycles).blocks = rest ∧
    (w.digested b rest bytes cycles).digests = w.digests ++ [{ mib := b.mib, loc := b.loc, streamed := x, crc := crc64 bytes }] ∧
    (w.digested b rest bytes cycles).sent = w.sent + bit x := by
  subst streamed
  exact ⟨rfl, rfl, rfl⟩

/-- The member that has digested it. -/
def State.digested (s : State) (b : WpBlock) (rest : List WpBlock) (bytes : Bytes) (cycles : Nat) : State :=
  ({ s with twin := { s.twin with wp := s.twin.wp.digested b rest bytes cycles } } : State).countDigest b.mib

theorem countDigest_eq (s : State) (b : Nat) : s.countDigest b = { s with pages := (s.countDigest b).pages } := by
  unfold State.countDigest
  split <;> rfl

theorem digested_eq (s : State) (b : WpBlock) (rest : List WpBlock) (bytes : Bytes) (cycles : Nat) : s.digested b rest bytes cycles =
    { s with twin := { s.twin with wp := s.twin.wp.digested b rest bytes cycles }, pages := (s.digested b rest bytes cycles).pages } :=
  countDigest_eq _ b.mib

theorem digested_refusal (s : State) (b : WpBlock) (rest : List WpBlock) (bytes : Bytes) (cycles a len : Nat) (write : Bool) :
    (s.digested b rest bytes cycles).refusal a len write = s.refusal a len write := by
  rw [digested_eq]
  exact refusal_twinPages s _ _ a len write

theorem wpStreamNext_sound {b : WpBlock} {rest : List WpBlock} {bytes : Bytes} (content : wpContent s b = (bytes, false)) (cycles : Nat) :
    wpStreamNext s c b rest cycles =
      if b.streamed then commitWrites (s.digested b rest bytes cycles) { c with units := c.units + 1 } ⟨[(wpDest c + 1048576 * b.slot, bytes)], 0⟩
      else .ok (s.digested b rest bytes cycles, { c with units := c.units + 1 }) := by
  unfold wpStreamNext State.digested WpRun.digested
  rw [content]
  simp only [Bool.not_false, Bool.and_true, Bool.or_false]
  rfl

theorem exec_stream {b : WpBlock} {rest : List WpBlock} (runnable : s.runnable q n (Cmd.isSub 0x804 1) = some c)
    (running : s.twin.wp.running = true) (queue : s.twin.wp.q = q) (number : s.twin.wp.n = n) (blocks : s.twin.wp.blocks = b :: rest)
    (more : rest ≠ []) (cycles : Nat) {t : State} {d : Cmd} (next : wpStreamNext s c b rest cycles = .ok (t, d)) :
    exec (.wpBlockStream q n cycles) s = .next (t.putCmd d) := by
  have own : (s.twin.wp.running && s.twin.wp.q == q && s.twin.wp.n == n) = true := by simp [running, queue, number]
  have left : rest.isEmpty = false := by simpa using more
  refine congrArg Host.Outcome.next ?_
  unfold wpBlockStream
  rw [runnable]
  dsimp only
  rw [if_neg (by rw [own]; decide), blocks]
  dsimp only
  rw [next, left]
  rfl

/-- A block that another member streams: digested, no byte written. -/
theorem exec_stream_kept {b : WpBlock} {rest : List WpBlock} (runnable : s.runnable q n (Cmd.isSub 0x804 1) = some c)
    (running : s.twin.wp.running = true) (queue : s.twin.wp.q = q) (number : s.twin.wp.n = n) (blocks : s.twin.wp.blocks = b :: rest)
    (more : rest ≠ []) (sound : (wpContent s b).2 = false) (cycles : Nat) (other : b.streamed = false) : exec (.wpBlockStream q n cycles) s =
      .next ((s.digested b rest (wpContent s b).1 cycles).putCmd { c with units := c.units + 1 }) :=
  exec_stream runnable running queue number blocks more cycles
    ((wpStreamNext_sound (bytes := (wpContent s b).1) (by rw [← sound]) cycles).trans (if_neg (by rw [other]; decide)))

/-- A block that this member streams: digested, and written at its place. -/
theorem exec_stream_own {b : WpBlock} {rest : List WpBlock} (runnable : s.runnable q n (Cmd.isSub 0x804 1) = some c)
    (running : s.twin.wp.running = true) (queue : s.twin.wp.q = q) (number : s.twin.wp.n = n) (blocks : s.twin.wp.blocks = b :: rest)
    (more : rest ≠ []) (sound : (wpContent s b).2 = false) (cycles : Nat) (own : b.streamed = true)
    (allowed : s.refusal (wpDest c + 1048576 * b.slot) (wpContent s b).1.length true = none) :
    ∃ d : Cmd, d.units = c.units + 1 ∧ exec (.wpBlockStream q n cycles) s = .next
      (((s.digested b rest (wpContent s b).1 cycles).storeBytes (wpDest c + 1048576 * b.slot) (wpContent s b).1).putCmd d) := by
  have committed := commitWrites_run (s := s.digested b rest (wpContent s b).1 cycles) { c with units := c.units + 1 }
    ((digested_refusal s b rest _ cycles _ _ true).trans allowed)
  have same := commitWrites_sameWork committed
  refine ⟨_, ?_, exec_stream runnable running queue number blocks more cycles
    ((wpStreamNext_sound (bytes := (wpContent s b).1) (by rw [← sound]) cycles).trans ((if_pos own).trans committed))⟩
  rw [same]

/-! ### The partner's digests (R418) -/

section
variable (runnable : s.runnable q n (Cmd.isSub 0x804 1) = some c) (running : s.twin.wp.running = true) (queue : s.twin.wp.q = q)
  (number : s.twin.wp.n = n) (paired : s.isPaired = true)
include runnable running queue number paired

theorem exec_digests_agree {ds : List (Nat × Word)} (agree : ∀ d ∈ ds, ∀ x, wpOwnDigest s d.1 = some x → x = d.2) (more : s.twin.wp.blocks ≠ []) :
    exec (.wpDigestReceive q n s.twin.wp.versions ds) s =
      .next { s with twin := { s.twin with wp := { s.twin.wp with partnerOk := true } } } := by
  have own : (s.twin.wp.running && s.twin.wp.q == q && s.twin.wp.n == n && s.isPaired) = true := by simp [running, queue, number, paired]
  have left : s.twin.wp.blocks.isEmpty = false := by simpa using more
  refine congrArg Host.Outcome.next ?_
  unfold wpDigestReceive
  rw [runnable]
  dsimp only
  rw [if_neg (by rw [own]; decide), if_neg (fun differ => differ rfl)]
  split
  · next d found =>
    have differs := List.find?_some found
    have listed := List.mem_of_find?_eq_some found
    split at differs
    · next x held => exact absurd (agree d listed x held) (bne_iff_ne.mp differs)
    · cases differs
  · exact if_neg (by rw [left]; decide)

theorem exec_digests_versions {vs : List Nat} {ds : List (Nat × Word)} {t : State} {e : Cmd} (differ : vs ≠ s.twin.wp.versions)
    (sound : s.twin.wp.poisoned = false)
    (report : writeReport s.wpClose c true (wpReport c) (wpReportBytes s.twin.wp.stop s.twin.wp.sent none s.twin.wp.stream) = .ok (t, e)) :
    exec (.wpDigestReceive q n vs ds) s = .next ((t.record pgTwin .contained 0).putCmd { e with phase := .ended, status := .versionMismatch }) := by
  have own : (s.twin.wp.running && s.twin.wp.q == q && s.twin.wp.n == n && s.isPaired) = true := by simp [running, queue, number, paired]
  refine congrArg Host.Outcome.next ?_
  unfold wpDigestReceive
  rw [runnable]
  dsimp only
  rw [if_neg (by rw [own]; decide), if_pos differ]
  unfold takeEnd wpEnd wpStatus
  rw [sound, report]
  rfl

end

/-! ### VERIFY (R422) -/

/-- VERIFY that finds nothing lost and nothing diverged ends OK with its report. -/
theorem verifyEnd_ok {v : WpVerdict} {t : State} {d : Cmd} (lost : v.lost = []) (same : v.diverged = false)
    (report : writeReport (s.count pgTwin 0x1503 v.majority) c true (wpReport c)
      (natBytes 16 0 ++ natBytes 8 (v.diff.getD (2 ^ 64 - 1)) ++ natBytes 8 0) = .ok (t, d)) :
    verifyEnd s c v = t.putCmd { d with phase := .ended, status := .ok } := by
  have bytes : wpReportBytes 0 0 v.diff 0 ++ (v.lost.take 255).flatMap (fun e => natBytes 8 e.1 ++ natBytes 8 e.2.toNat) =
      natBytes 16 0 ++ natBytes 8 (v.diff.getD (2 ^ 64 - 1)) ++ natBytes 8 0 := by
    rw [lost]
    exact List.append_nil _
  unfold verifyEnd wpEnd
  rw [bytes]
  dsimp only
  rw [report, lost, same]
  rfl

theorem exec_verify {live : List (Nat × Word)} {ms : List (Option (List (Nat × Nat × Word)))} {v : WpVerdict}
    (runnable : s.runnable q n (Cmd.isSub 0x804 2) = some c)
    (manifests : (wpManifest c :: (if wpManifest2 c = 0 then [] else [wpManifest2 c])).mapM (readManifest s c) = .ok ms)
    (passing : ms.filterMap id ≠ []) (verdict : verifyBlocks s c (ms.filterMap id) live = .ok v) :
    exec (.whitepointVerify q n live) s = .next (verifyEnd s c v) := by
  refine congrArg Host.Outcome.next ?_
  unfold whitepointVerify
  rw [runnable]
  dsimp only
  rw [manifests]
  dsimp only
  rw [if_neg (by simpa using passing), verdict]

end

/-! ### How copies settle (R423) -/

theorem settleCopies_confirmed {own : Word} {cs : List Word} (same : ∀ x ∈ cs, x = own) : settleCopies (own :: cs) = .confirmed := by
  have all : (own :: cs).all (· == own) = true := by
    rw [List.all_eq_true]
    intro x there
    rcases List.mem_cons.mp there with rfl | there
    · exact beq_self_eq_true x
    · exact beq_iff_eq.mpr (same x there)
  exact if_pos all

theorem settleCopies_two {a b : Word} (differ : a ≠ b) : settleCopies [a, b] = .diverged := by
  have other : ([a, b].all (· == a)) = false := by simp [Ne.symm differ]
  exact (if_neg (by rw [← Bool.not_eq_true] at other; exact other)).trans (if_pos (by decide : 2 < 3))

/-- The value that stands: held by two and by more than any other. -/
def stands (cs : List Word) (x : Word) : Bool := decide (2 ≤ heldBy x cs) && cs.all (fun y => y == x || decide (heldBy y cs < heldBy x cs))

theorem stands_iff {cs : List Word} {x : Word} : stands cs x = true ↔ 2 ≤ heldBy x cs ∧ ∀ y ∈ cs, y ≠ x → heldBy y cs < heldBy x cs := by
  simp only [stands, Bool.and_eq_true, decide_eq_true_eq, List.all_eq_true, Bool.or_eq_true, beq_iff_eq, Decidable.or_iff_not_imp_left]

theorem mem_of_held {cs : List Word} {x : Word} (held : 2 ≤ heldBy x cs) : x ∈ cs := by
  obtain ⟨y, there⟩ := List.exists_mem_of_length_pos (Nat.lt_of_lt_of_le Nat.two_pos held)
  obtain ⟨listed, same⟩ := List.mem_filter.mp there
  exact beq_iff_eq.mp same ▸ listed

/-- At most one value stands. -/
theorem stands_unique {cs : List Word} {x y : Word} (hx : stands cs x = true) (hy : stands cs y = true) : x = y := by
  obtain ⟨xHeld, xMore⟩ := stands_iff.mp hx
  obtain ⟨yHeld, yMore⟩ := stands_iff.mp hy
  refine Decidable.byContradiction (fun differ => ?_)
  have less := yMore x (mem_of_held xHeld) differ
  have more := xMore y (mem_of_held yHeld) (Ne.symm differ)
  omega

theorem find_stands {cs : List Word} {x : Word} (hx : stands cs x = true) : cs.find? (stands cs) = some x := by
  cases found : cs.find? (stands cs) with
  | none => exact absurd hx (List.find?_eq_none.mp found x (mem_of_held (stands_iff.mp hx).1))
  | some y => rw [stands_unique hx (List.find?_some found)]

theorem settleCopies_majority {own x : Word} {cs : List Word} (three : 2 ≤ cs.length) (differ : ∃ y ∈ own :: cs, y ≠ own)
    (hx : stands (own :: cs) x = true) : settleCopies (own :: cs) = .majority x (x != own) := by
  have other : (own :: cs).all (· == own) = false := by
    obtain ⟨y, there, differs⟩ := differ
    exact List.all_eq_false.mpr ⟨y, there, by simpa using differs⟩
  have found : (own :: cs).find? (fun x => decide (2 ≤ heldBy x (own :: cs)) && (own :: cs).all (fun y => y == x || decide (heldBy y (own :: cs) < heldBy x (own :: cs)))) =
    some x := find_stands hx
  unfold settleCopies
  dsimp only
  rw [show nth 0 (own :: cs) 0 = own from rfl, other, if_neg (by decide), if_neg (by rw [List.length_cons]; omega), found]

end Sys2Proof.Machine

/-- Settles O40: TAKE marks by `wpMark_alone`, a block is streamed by `exec_stream`, digests are compared by `exec_digests_agree`, VERIFY ends by
`verifyEnd_ok`, and copies settle by the one value that stands (`stands_unique`). -/
theorem whitepointRows : Obligations.WhitepointRows := by
  unfold Obligations.WhitepointRows
  refine ⟨?_, ?_, ?_, ?_, fun own cs same => settleCopies_confirmed same, fun a b differ => settleCopies_two differ,
    fun own x cs three differ held more => settleCopies_majority three differ (stands_iff.mpr ⟨held, more⟩)⟩
  · intro s q n stop c ls shs vs runnable fresh locals shards alone
    refine ⟨fun idle versions => ⟨_, exec_take_marks runnable fresh idle locals shards versions stop, ?_⟩, fun busy => exec_take_waits runnable fresh busy stop⟩
    have parity := flushParity_flushOnly s
    have flushed := flushParity_parity s
    unfold FlushOnly at parity
    rw [wpMark_alone alone]
    generalize s.flushParity = t at parity flushed ⊢
    exact ⟨rfl, rfl, flushed, by rw [parity]; rfl, by rw [parity]; rfl, by rw [parity]; rfl⟩
  · intro s q n cycles c b rest runnable running queue number blocks more sound
    refine ⟨fun other => ⟨_, _, exec_stream_kept runnable running queue number blocks more sound cycles other, rfl, ?_⟩,
      fun own slate allowed length apart _ => ?_⟩
    · rw [digested_eq]
      exact ⟨rfl, digested_run s.twin.wp other rest (wpContent s b).1 cycles⟩
    · obtain ⟨d, units, streamed⟩ := exec_stream_own runnable running queue number blocks more sound cycles own (by rw [length]; exact allowed)
      have state := digested_eq s b rest (wpContent s b).1 cycles
      have digested := digested_run s.twin.wp own rest (wpContent s b).1 cycles
      generalize s.digested b rest (wpContent s b).1 cycles = u at state streamed
      generalize (wpContent s b).1 = bytes at *
      obtain ⟨left, digests, sent⟩ := digested
      have run : u.twin.wp = s.twin.wp.digested b rest bytes cycles := by rw [state]
      have kept := storeBytes_wp (s := u) (a := wpDest c + 1048576 * b.slot) (bs := bytes) (by rw [run, left, length]; exact apart)
      have stored := rawBytes_storeBytes_slate u (a := wpDest c + 1048576 * b.slot) (Nat.le_add_right_of_le slate) bytes
      rw [← run, ← kept] at left digests sent
      rw [length] at stored
      exact ⟨_, d, streamed, units, left, digests, sent, stored⟩
  · intro s q n c vs ds runnable running queue number paired
    refine ⟨?_, fun t e differ sound report => exec_digests_versions runnable running queue number paired differ sound report⟩
    rintro rfl agree more
    exact exec_digests_agree runnable running queue number paired agree more
  · intro s t q n c d live ms v runnable manifests passing verdict lost same report
    rw [exec_verify runnable manifests passing verdict, verifyEnd_ok lost same report]

end

section
/-! PROOFS. The Greyline monitor: levels and replies, the lock, registers, drains, resets and SCAN (R466, R468 to R470, R473). -/

open Sys2Proof Sys2Proof.Machine

namespace Sys2Proof.Machine

section
variable {s : State} (fed : s.power = .on ∨ s.power = .tripped)
include fed

/-! ### Levels (R468, R470) -/

theorem greyFed_of_power : s.greyFed = true := by
  unfold State.greyFed
  rcases fed with on | tripped
  · rw [on]; rfl
  · rw [tripped]; rfl

/-- A command at its level or above it acts. -/
theorem greyAt_allowed {need : Level} (allowed : need.allows s.grey.level = true) (act : State → State) : s.greyAt need act = act s := by
  unfold State.greyAt
  rw [if_neg (by rw [greyFed_of_power fed]; decide), if_pos allowed]

/-- A command below its level answers ERR. -/
theorem greyAt_below {need : Level} (below : need.allows s.grey.level = false) (act : State → State) : s.greyAt need act = s.greyErr := by
  unfold State.greyAt
  rw [if_neg (by rw [greyFed_of_power fed]; decide), if_neg (by rw [below]; decide)]

/-- What every level allows acts. -/
theorem greyAt_locked (act : State → State) : s.greyAt .locked act = act s := greyAt_allowed fed (decide_eq_true (Nat.zero_le _)) act

theorem greyAt_operate (opened : s.grey.level ≠ .locked) (act : State → State) : s.greyAt .operate act = act s := by
  refine greyAt_allowed fed ?_ act
  cases level : s.grey.level with
  | locked => exact absurd level opened
  | operate => rfl
  | debug => rfl

theorem greyAt_debug (debug : s.grey.level = .debug) (act : State → State) : s.greyAt .debug act = act s :=
  greyAt_allowed fed (by rw [debug]; rfl) act

/-- Locked, Greyline answers ERR to every command but those of the lock itself. -/
theorem exec_grey_locked (locked : s.grey.level = .locked) {i : Instr} {o n : Nat} {v : RegData} {r : Fin 8} {k : Fin 3} {m : BitVec 8} {p : Post}
    (listed : i ∈ [.greylineRd o n, .greylineWr o v, .greylinePages, .greylineCnt o, .greylineDrain r, .greylineAbort r, .greylineAdmit r,
      .greylineReset k m p, .greylinePurge p, .greylineScan]) : exec i s = .next s.greyErr := by
  have below (need : Level) (above : need ≠ .locked) (act : State → State) : s.greyAt need act = s.greyErr := by
    refine greyAt_below fed ?_ act
    rw [locked]
    cases need with
    | locked => exact absurd rfl above
    | operate => rfl
    | debug => rfl
  have operate (act : State → State) : (.next (s.greyAt .operate act) : Host.Outcome State Fault Refusal) = .next s.greyErr :=
    congrArg Host.Outcome.next (below .operate (by decide) act)
  have debug (act : State → State) : (.next (s.greyAt .debug act) : Host.Outcome State Fault Refusal) = .next s.greyErr :=
    congrArg Host.Outcome.next (below .debug (by decide) act)
  simp only [List.mem_cons, List.not_mem_nil, or_false] at listed
  rcases listed with rfl | rfl | rfl | rfl | rfl | rfl | rfl | rfl | rfl | rfl
  iterate 8 · exact operate _
  iterate 2 · exact debug _

/-! ### The lock (R468, R469) -/

theorem exec_chal (nonce : Bytes) : exec (.greylineChal nonce) s = .next
    (if s.grey.backingOff then s.greyErr else (s.modGrey (fun g => { g with nonce := some nonce })).greyOk [] nonce) :=
  congrArg Host.Outcome.next (greyAt_locked fed _)

theorem exec_unlock (k : Fin 2) (sig : Bytes) : exec (.greylineUnlock k sig) s = .next
    (if s.unlockOk k sig then (s.modGrey (fun g => { g with level := levelOfKey k, nonce := none })).greyOk [] []
     else (s.modGrey (fun g => { g with nonce := none, fails := g.fails + 1, backingOff := true })).greyErr) :=
  congrArg Host.Outcome.next (greyAt_locked fed _)

end

theorem unlockOk_eq {s : State} {key : Nat} {nonce pk : Bytes} (standing : s.grey.nonce = some nonce) (known : s.boot.debugKeys[key]? = some pk)
    (sig : Bytes) : s.unlockOk key sig = edVerify pk (nonce ++ s.boot.idKey ++ natBytes 1 key) sig := by
  unfold State.unlockOk
  rw [standing, known]
  rfl

/-! ### Registers (R470, R473) -/

/-- A register that a read returns without an effect of its own: placed, and no fence. -/
structure PlainRegister (off : Nat) : Prop where
  placed  : isDoorbell off = false ∧ pageExists (off / 4096) = true ∧ off % 8 = 0
  noFence : off ≠ 0x4140 ∧ off ≠ 0x4148 ∧ off ≠ 0x4150

theorem greyTouch_plain (s : State) {off : Nat} (plain : PlainRegister off) : s.greyTouch off = s := by
  obtain ⟨⟨outside, page, aligned⟩, link, window, peer⟩ := plain
  unfold State.greyTouch Perast.serveFence
  rw [if_neg (by rw [outside]; decide), if_neg (by rw [page]; decide), if_neg (by omega), if_neg link, if_neg window, if_neg peer]

theorem greyValue_plain (s : State) {off : Nat} (plain : PlainRegister off) : s.greyValue off = s.regRead .greyline off := by
  obtain ⟨⟨outside, page, aligned⟩, -⟩ := plain
  unfold State.greyValue
  rw [if_neg (by rw [outside]; decide), if_neg (by rw [page, aligned]; decide)]

theorem fenceWaits_plain (s : State) {off : Nat} (plain : PlainRegister off) : s.fenceWaits off = false := by
  obtain ⟨-, link, -, peer⟩ := plain
  unfold State.fenceWaits
  rw [beq_false_of_ne link, beq_false_of_ne peer]
  rfl

theorem foldl_greyReads (s : State) (offs : List Nat) (read : List Nat) (plain : ∀ off ∈ offs, PlainRegister off) :
    offs.foldl (fun (x : State × List Nat) off => (x.1.greyTouch off, x.2 ++ [(x.1.greyTouch off).greyValue off])) (s, read) =
      (s, read ++ offs.map (s.regRead .greyline)) := by
  induction offs generalizing read with
  | nil => simp
  | cons off offs ih =>
    rw [List.foldl_cons, greyTouch_plain s (plain off List.mem_cons_self), greyValue_plain s (plain off List.mem_cons_self),
      ih _ (fun o there => plain o (List.mem_cons_of_mem _ there))]
    simp

/-- Plain registers are answered with what they hold. -/
theorem greyReply_plain (s : State) {offs : List Nat} (plain : ∀ off ∈ offs, PlainRegister off) :
    s.greyReply offs = s.greyOk (offs.map (s.regRead .greyline)) [] := by
  have free : offs.any s.fenceWaits = false := List.any_eq_false.mpr (fun off there => by rw [fenceWaits_plain s (plain off there)]; decide)
  unfold State.greyReply State.greyReads
  rw [free, if_neg (by decide), foldl_greyReads s offs [] plain]
  rfl

theorem regRead_header (s : State) (path : Path) (p : Nat) {o : Nat} (header : o < 0x100) : s.regRead path (p * 4096 + o) = s.headerRead p o % 2 ^ 64 := by
  unfold State.regRead
  dsimp only
  rw [show (p * 4096 + o) / 4096 = p by omega, show (p * 4096 + o) % 4096 = o by omega, if_pos header]

theorem plainRegister_header {p o : Nat} (page : pageExists p = true) (header : o < 0x100) (aligned : o % 8 = 0) : PlainRegister (p * 4096 + o) := by
  refine ⟨⟨isDoorbell_page page (by omega), ?_, by omega⟩, by omega, by omega, by omega⟩
  rw [show (p * 4096 + o) / 4096 = p by omega]
  exact page

/-- The event registers of a page, as CNT reads them. -/
theorem greyReply_events (s : State) {p : Nat} (page : pageExists p = true) : s.greyReply (eventOffsets (p * 4096)) =
    s.greyOk ([0x80, 0x88, 0x90, 0x98, 0xA0, 0xA8, 0xB0, 0xB8].map (fun o => s.headerRead p o % 2 ^ 64)) [] := by
  have header : ∀ o ∈ [0x80, 0x88, 0x90, 0x98, 0xA0, 0xA8, 0xB0, 0xB8], o < 0x100 ∧ o % 8 = 0 := by decide
  have offsets : eventOffsets (p * 4096) = [0x80, 0x88, 0x90, 0x98, 0xA0, 0xA8, 0xB0, 0xB8].map (p * 4096 + ·) := by
    unfold eventOffsets
    rw [Nat.mul_div_cancel _ (by decide)]
  rw [offsets, greyReply_plain, List.map_map]
  · refine congrArg (s.greyOk · []) (List.map_congr_left (fun o listed => ?_))
    exact regRead_header s .greyline p (header o listed).1
  · intro off there
    obtain ⟨o, listed, rfl⟩ := List.mem_map.mp there
    exact plainRegister_header page (header o listed).1 (header o listed).2

/-! ### SCAN (R466, R470) -/

theorem mayScan_solo {s : State} (off : ∀ e ∈ s.queues, e.2.state = .disabled) (solo : s.twin.state = .solo) : s.mayScan = true := by
  unfold State.mayScan
  rw [solo, List.all_eq_true.mpr (fun e there => by rw [off e there]; rfl)]
  rfl

theorem mayScan_open {s : State} (serving : ∃ e ∈ s.queues, e.2.state ≠ .disabled) : s.mayScan = false := by
  obtain ⟨e, there, state⟩ := serving
  unfold State.mayScan
  rw [List.all_eq_false.mpr ⟨e, there, by simpa using state⟩]
  rfl

end Sys2Proof.Machine

/-- Settles O60: every command by its level (`greyAt_allowed`, `greyAt_below`), register reads by `greyReply_plain`, the rest by what it shares with
the window's own commands. -/
theorem greylineRows : Obligations.GreylineRows := by
  unfold Obligations.GreylineRows
  intro s fed
  refine ⟨?_, ?_, ?_, ?_, ?_, ?_, ?_, ?_, ?_, ?_, ?_, ?_⟩
  · intro nonce
    refine ⟨fun calm => (exec_chal fed nonce).trans ?_, fun waits => (exec_chal fed nonce).trans ?_⟩
    · rw [if_neg (by rw [calm]; decide)]; rfl
    · rw [if_pos waits]; rfl
  · intro k sig nonce pk standing known
    have verified := unlockOk_eq standing known sig
    refine ⟨fun good => (exec_unlock fed k sig).trans ?_, fun bad => (exec_unlock fed k sig).trans ?_⟩
    · rw [if_pos (verified.trans good)]; rfl
    · rw [if_neg (by rw [verified, bad]; decide)]; rfl
  · exact congrArg Host.Outcome.next (greyAt_locked fed _)
  · exact fun high => congrArg Host.Outcome.next (greyAt_locked fed _)
  · intro ms long
    exact congrArg Host.Outcome.next (if_pos (by rw [greyFed_of_power fed]; simpa using long))
  · exact congrArg Host.Outcome.next (if_pos (greyFed_of_power fed))
  · exact congrArg Host.Outcome.next (if_pos (greyFed_of_power fed))
  · exact congrArg Host.Outcome.next (if_pos (greyFed_of_power fed))
  · rintro locked i ⟨o, n, v, r, k, m, p, listed⟩
    exact exec_grey_locked fed locked listed
  · intro operate
    exact ⟨fun p => congrArg Host.Outcome.next (greyAt_below fed (by rw [operate]; rfl) _),
      congrArg Host.Outcome.next (greyAt_below fed (by rw [operate]; rfl) _)⟩
  · intro opened
    have acts (act : State → State) : (.next (s.greyAt .operate act) : Host.Outcome State Fault Refusal) = .next (act s) :=
      congrArg Host.Outcome.next (greyAt_operate fed opened act)
    refine ⟨?_, ?_, ?_, ?_, ?_, ?_⟩
    · intro o small page aligned link window peer
      refine (acts _).trans (congrArg Host.Outcome.next ?_)
      exact greyReply_plain s (offs := [o]) (fun off there => List.mem_singleton.mp there ▸
        ⟨⟨isDoorbell_outside (.inl small), page, aligned⟩, link, window, peer⟩)
    · exact fun o v => ⟨_, rfl, acts _⟩
    · exact acts _
    · intro p _ page
      exact (acts _).trans (congrArg Host.Outcome.next (greyReply_events s page))
    · exact fun r => ⟨_, _, _, rfl, rfl, rfl, acts _, acts _, acts _⟩
    · rintro m p u rfl
      exact ⟨acts _, acts _, acts _⟩
  · intro debug
    have acts (act : State → State) : (.next (s.greyAt .debug act) : Host.Outcome State Fault Refusal) = .next (act s) :=
      congrArg Host.Outcome.next (greyAt_debug fed debug act)
    refine ⟨?_, ?_, ?_⟩
    · rintro p u rfl
      exact acts _
    · intro off solo
      exact (acts _).trans (congrArg Host.Outcome.next (if_pos (mayScan_solo off solo)))
    · intro serving
      exact (acts _).trans (congrArg Host.Outcome.next (if_neg (by rw [mayScan_open serving]; decide)))

end

section
/-! PROOFS. A link that carries no traffic stays as it is, whatever the module sends or writes; so a failed link stays failed (R374, R383). -/

open Sys2Proof Sys2Proof.Machine

namespace Sys2Proof.Machine

/-! ### Links read and written -/

@[simp] theorem link_putLink_same (s : State) (l : Nat) (k : Link) : (s.putLink l k).link l = k := tabGet_tabSet_same l k

theorem link_putLink_other (s : State) {l j : Nat} (other : l ≠ j) (k : Link) : (s.putLink j k).link l = s.link l :=
  (tabGet_tabSet j l k).trans (if_neg other)

theorem link_congr {s t : State} (same : t.lnk.links = s.lnk.links) (l : Nat) : t.link l = s.link l := by
  unfold State.link
  rw [same]

@[simp] theorem link_count (s : State) (l p source k : Nat) : (s.count p source k).link l = s.link l := rfl

@[simp] theorem link_modPage (s : State) (l p : Nat) (f : Page → Page) : (s.modPage p f).link l = s.link l := link_congr (by rw [State.modPage_lnk]) l

@[simp] theorem link_record (s : State) (l p : Nat) (c : ErrClass) (detail : Nat) : (s.record p c detail).link l = s.link l := link_modPage s l p _

/-! ### Where traffic goes out (R379, R381 to R383, R410) -/

theorem carries_of_linksOf {s : State} {u l : Nat} (there : l ∈ s.linksOf u) : (s.link l).carries = true := by
  have chosen := (List.mem_filter.mp there).2
  rw [Bool.and_eq_true] at chosen
  exact chosen.1

theorem carries_of_exits {s : State} {p l : Nat} (there : l ∈ s.exits p) : (s.link l).carries = true := by
  unfold State.exits at there
  dsimp only at there
  split at there
  · cases there
  · split at there
    · have chosen := (List.mem_filter.mp there).2
      rw [Bool.and_eq_true] at chosen
      exact chosen.2
    · split at there
      · cases there
      · split at there
        · exact carries_of_linksOf there
        · split at there
          · cases there
          · split at there <;> split at there <;> exact carries_of_linksOf there

theorem carries_of_twinExits {s : State} {l : Nat} (there : l ∈ s.twinExits) : (s.link l).carries = true := by
  unfold State.twinExits at there
  split at there
  · exact carries_of_exits there
  · split at there <;> exact carries_of_linksOf there

theorem mem_of_exitOf {links : List Nat} {tag l : Nat} (exit : exitOf links tag = some l) : l ∈ links := by
  unfold exitOf at exit
  split at exit
  · cases exit
  · exact List.mem_of_getElem? exit

theorem link_sendFlit_other (s : State) {l j : Nat} (other : l ≠ j) (vc : Nat) (b : Bytes) : (s.sendFlit j vc b).link l = s.link l := by
  unfold State.sendFlit
  dsimp only
  split
  · exact link_putLink_other s other _
  · exact link_putLink_other s other _

/-- What every step of a fold leaves of a link, the fold leaves. -/
theorem foldl_link {α : Type} {f : State → α → State} (l : Nat) (each : ∀ u x, (f u x).link l = u.link l) (xs : List α) (s : State) :
    (xs.foldl f s).link l = s.link l := by
  induction xs generalizing s with
  | nil => rfl
  | cons x xs ih => exact (ih (f s x)).trans (each s x)

theorem link_sendChunks_other (s : State) {links : List Nat} {l : Nat} (other : l ∉ links) (dest : Nat) (bs : Bytes) :
    (s.sendChunks links dest bs).link l = s.link l := by
  refine foldl_link l (fun u chunk => ?_) _ s
  unfold State.sendChunk
  dsimp only
  split
  · rfl
  · next j exit =>
    have apart : l ≠ j := fun same => other (same ▸ mem_of_exitOf exit)
    exact foldl_link l (fun v f => link_sendFlit_other v apart _ f) _ _

/-! ### A link that carries nothing (R374, R402) -/

/-- A link that carries no traffic is the same in `t` as in `s`. -/
structure IdleKept (l : Nat) (s t : State) : Prop where
  kept : (s.link l).carries = false → t.link l = s.link l

section
variable {l : Nat}

theorem IdleKept.of_same {s t : State} (same : t.link l = s.link l) : IdleKept l s t := ⟨fun _ => same⟩

theorem IdleKept.of_links {s t : State} (same : t.lnk.links = s.lnk.links) : IdleKept l s t := .of_same (link_congr same l)

theorem IdleKept.refl (s : State) : IdleKept l s s := .of_same rfl

theorem IdleKept.trans {s t u : State} (h : IdleKept l s t) (k : IdleKept l t u) : IdleKept l s u :=
  ⟨fun idle => (k.kept ((congrArg Link.carries (h.kept idle)).trans idle)).trans (h.kept idle)⟩

theorem IdleKept.foldl {α : Type} {f : State → α → State} (each : ∀ u x, IdleKept l u (f u x)) (xs : List α) {s t : State} (h : IdleKept l s t) :
    IdleKept l s (xs.foldl f t) := by
  induction xs generalizing t with
  | nil => exact h
  | cons x xs ih => exact ih (h.trans (each t x))

theorem IdleKept.ite {s t u : State} {p : Prop} [Decidable p] (h : IdleKept l s t) (k : IdleKept l s u) : IdleKept l s (if p then t else u) := by
  split
  · exact h
  · exact k

theorem FlushOnly.idleKept {s t : State} (h : FlushOnly s t) : IdleKept l s t := .of_links (by rw [h])

theorem sendChunks_idleKept {s t : State} (sent : t.lnk.links = s.lnk.links) {links : List Nat} (carry : ∀ j ∈ links, (s.link j).carries = true)
    (dest : Nat) (bs : Bytes) : IdleKept l s (t.sendChunks links dest bs) := by
  refine ⟨fun idle => ?_⟩
  have other : l ∉ links := fun there => absurd (carry l there) (by rw [idle]; decide)
  exact (link_sendChunks_other t other dest bs).trans (link_congr sent l)

theorem sendTwin_idleKept (s : State) (kind : String) (words : List Nat) (bs : Bytes) : IdleKept l s (s.sendTwin kind words bs) :=
  sendChunks_idleKept (s := s) (t := s.send (.twin kind words bs)) rfl (fun _ there => carries_of_twinExits (s := s) there) _ _

theorem sendTwin_counted_idleKept (s : State) (kind : String) (words : List Nat) (bs : Bytes) (p source k : Nat) (w : Twin) :
    IdleKept l s { (s.sendTwin kind words bs).count p source k with twin := w } := (sendTwin_idleKept s kind words bs).trans (.of_links rfl)

theorem sendFill_idleKept (s : State) (b : Nat) : IdleKept l s (s.sendFill b) := by
  rw [sendFill_eq]
  exact sendTwin_counted_idleKept s _ _ _ _ _ _ _

theorem beforeWrite_idleKept (s : State) (a len : Nat) : IdleKept l s (s.beforeWrite a len) := by
  have read : IdleKept l s (if s.twin.wp.running then (mibsOf a len).foldl State.readFirst s else s) :=
    .ite (IdleKept.foldl (fun u b => .of_links (by rw [readFirst_storesOnly u b])) _ (IdleKept.refl s)) (IdleKept.refl s)
  unfold State.beforeWrite
  dsimp only
  generalize (if s.twin.wp.running then (mibsOf a len).foldl State.readFirst s else s) = t at read ⊢
  exact .ite (IdleKept.foldl (fun u b => .ite (sendFill_idleKept u b) (.refl u)) _ read) read

theorem forwardWrite_idleKept (s : State) (a : Nat) (bs : Bytes) : IdleKept l s (s.forwardWrite a bs) := by
  unfold State.forwardWrite
  refine .ite (IdleKept.refl s) (IdleKept.foldl (fun u b => ?_) _ (IdleKept.refl s))
  dsimp only
  exact .ite ((sendTwin_idleKept u _ _ _).trans (.of_links rfl)) (.refl u)

theorem storeBytes_idleKept (s : State) (a : Nat) (bs : Bytes) : IdleKept l s (s.storeBytes a bs) := by
  have flushed := (((recomputeFirst_flushOnly (s.beforeWrite a bs.length) a bs.length).trans (clearCovered_flushOnly _ a bs.length)).trans
    (dirtyTracks_flushOnly _ a bs.length)).trans (pokeBytes_flushOnly _ a bs)
  unfold State.storeBytes
  dsimp only
  exact (((beforeWrite_idleKept s a bs.length).trans flushed.idleKept).trans (withMem_flushOnly _ _).idleKept).trans (forwardWrite_idleKept _ a bs)

theorem openRange_idleKept (s : State) (a len : Nat) : IdleKept l s (s.openRange a len) := by
  unfold State.openRange
  exact .ite (IdleKept.refl s) (.of_links rfl)

theorem openRanges_idleKept (s : State) (rs : List (Nat × Nat)) : IdleKept l s (rs.foldl (fun t r => t.openRange r.1 r.2) s) :=
  IdleKept.foldl (fun u r => openRange_idleKept u r.1 r.2) rs (IdleKept.refl s)

theorem writeAll_idleKept {s t : State} {ws : Writes} (written : s.writeAll ws = .ok t) : IdleKept l s t := by
  unfold State.writeAll at written
  split at written
  · cases written
  · simp only [Except.ok.injEq] at written
    rw [← written]
    refine IdleKept.foldl (fun v w => ?_) _ (IdleKept.refl s)
    exact storeBytes_idleKept v w.1 w.2

theorem commitWrites_idleKept {s t : State} {c d : Cmd} {p : Packed} (written : commitWrites s c p = .ok (t, d)) : IdleKept l s t := by
  unfold commitWrites at written
  split at written
  · cases written
  · next u stored =>
    simp only [Except.ok.injEq, Prod.mk.injEq] at written
    exact written.1 ▸ writeAll_idleKept stored

theorem writeReport_idleKept {s t : State} {c d : Cmd} {on : Bool} {a : Nat} {bs : Bytes} (written : writeReport s c on a bs = .ok (t, d)) :
    IdleKept l s t := by
  unfold writeReport at written
  split at written
  · exact commitWrites_idleKept written
  · cases written
    exact .refl s

theorem leaveReport_idleKept (on : Cmd → Bool) (addr : Cmd → Nat) (bs : State → Cmd → Bytes) (s : State) (c : Cmd) (st : Status) :
    IdleKept l s (leaveReport on addr bs s c st).1 := by
  unfold leaveReport
  split
  · split
    · next r written => exact writeReport_idleKept written
    · exact .refl s
  · exact .refl s

/-! ### Commands that end for want of a route (R383, R397) -/

theorem clLeave_idleKept (p : Nat) (s : State) (c : Cmd) : IdleKept l s (clLeave p s c).1 := by
  unfold clLeave
  split
  · exact .refl s
  · next r written =>
    have reported := writeReport_idleKept (l := l) (t := r.1) (d := r.2) written
    exact .ite (reported.trans (openRange_idleKept _ _ _)) reported

theorem endSilent_idleKept (s : State) (c : Cmd) (p : Nat) : IdleKept l s (endSilent s c p) := by
  unfold endSilent
  dsimp only
  split
  · exact ((openRange_idleKept s _ _).trans (clLeave_idleKept p _ c)).trans (.of_links rfl)
  · have opened := openRanges_idleKept (l := l) s (if c.isRing then attOuts s c else [])
    generalize (if c.isRing then attOuts s c else []).foldl _ s = t at opened ⊢
    split
    · exact (opened.trans (leaveReport_idleKept _ _ _ t c .limit)).trans (.of_links rfl)
    · exact opened.trans (.of_links rfl)

theorem endUnreached_idleKept (s : State) (q n : Nat) : IdleKept l s (s.endUnreached q n) := by
  unfold State.endUnreached
  split
  · exact .refl s
  · split
    · exact endSilent_idleKept s _ _
    · exact .refl s

theorem dropReleased_idleKept (s : State) (h : SHead) : IdleKept l s (s.dropReleased h) := by
  unfold State.dropReleased
  split <;> exact storeBytes_idleKept s _ _

theorem stackDone_idleKept (s : State) (c : Cmd) (ok : Bool) : IdleKept l s (stackDone s c ok) := by
  unfold stackDone
  split
  · exact .refl s
  · next k _ =>
    have dropped : IdleKept l s (s.dropClaim k) := .of_links rfl
    dsimp only
    generalize s.dropClaim k = t at dropped ⊢
    split
    · exact dropped
    · exact .ite (dropped.trans (storeBytes_idleKept t _ _))
        (.ite ((dropped.trans (storeBytes_idleKept t _ _)).trans (dropReleased_idleKept _ _)) dropped)

theorem releasePages_idleKept (s : State) : IdleKept l s s.releasePages := by
  unfold State.releasePages
  refine IdleKept.foldl (fun u p => ?_) _ (IdleKept.refl s)
  dsimp only
  unfold State.touchPool
  split
  · exact .refl u
  · exact IdleKept.trans (t := u.putPool p.1 _) (.of_links rfl) (openRange_idleKept _ _ _)

theorem numberDone_idleKept (s : State) (n g : Nat) : IdleKept l s (numberDone s n g) := by
  unfold numberDone
  dsimp only
  split
  · exact .refl s
  · exact .of_links rfl

theorem attnLeave_idleKept (s : State) (c : Cmd) (st : Status) : IdleKept l s ((attnOp []).leave s c st).1 := leaveReport_idleKept _ _ _ s c st

theorem runSilent_idleKept (s : State) (c : Cmd) (t : Thread) : IdleKept l s (runSilent s c t) := by
  have left := (openRanges_idleKept (l := l) s (attOuts s (pendingRun c t))).trans (attnLeave_idleKept _ (pendingRun c t) .limit)
  unfold runSilent
  generalize (attnOp []).leave _ (pendingRun c t) .limit = r at left ⊢
  have ended := ((left.trans (stackDone_idleKept r.1 r.2 (runGoesOn .limit))).trans (releasePages_idleKept _)).trans (numberDone_idleKept _ c.n c.coll.group)
  exact ended.trans (.of_links rfl)

theorem endRunUnreached_idleKept (s : State) (q n : Nat) : IdleKept l s (s.endRunUnreached q n) := by
  unfold State.endRunUnreached
  split
  · exact .refl s
  · exact .ite (runSilent_idleKept s _ _) (IdleKept.refl s)

theorem endUnreachable_idleKept (s : State) : IdleKept l s s.endUnreachable := by
  refine IdleKept.foldl (fun u c => ?_) _ (IdleKept.refl s)
  exact (endUnreached_idleKept u c.q c.n).trans (endRunUnreached_idleKept _ c.q c.n)

/-! ### A link fails (R383) -/

theorem sendFlit_idleKept {s : State} {j : Nat} (carry : (s.link j).carries = true) (vc : Nat) (b : Bytes) : IdleKept l s (s.sendFlit j vc b) := by
  refine ⟨fun idle => link_sendFlit_other s (fun same => ?_) vc b⟩
  rw [same, carry] at idle
  cases idle

theorem forwardFlit_idleKept (s : State) (b : Bytes) : IdleKept l s (s.forwardFlit b) := by
  unfold State.forwardFlit
  split
  · exact .refl s
  · next j exit => exact (sendFlit_idleKept (carries_of_exits (mem_of_exitOf exit)) _ b).trans (.of_links rfl)

theorem resend_idleKept (s : State) (use : Nat) (fs : List (Nat × Bytes)) : IdleKept l s (s.resend use fs) := by
  refine IdleKept.foldl (fun u f => ?_) fs (IdleKept.refl s)
  split
  · next j found => exact sendFlit_idleKept (carries_of_linksOf (List.mem_of_getElem? found)) f.1 f.2
  · exact forwardFlit_idleKept u f.2

theorem recordUp_idleKept (s : State) (p : Nat) (c : ErrClass) (detail : Nat) : IdleKept l s (s.recordUp p c detail) := by
  unfold State.recordUp
  split
  · exact .of_same (link_record s l p c detail)
  · exact .of_same ((link_modPage _ l _ _).trans (link_record s l p c detail))

end

/-- A link that fails keeps nothing to send, and stays failed whatever becomes of its traffic and of the commands that needed it. -/
theorem failLink_link {s : State} {l reason : Nat} (stands : (s.link l).state ≠ .failed) : ((s.failLink l reason).link l).state = .failed ∧
    ((s.failLink l reason).link l).reason = reason ∧ ((s.failLink l reason).link l).retry = [] := by
  unfold State.failLink
  dsimp only
  rw [if_neg stands]
  generalize fenced : s.putLink l { s.link l with
    state := .failed, reason := reason, retry := [], held := [], replays := [], sparePending := false, trimming := [], recal := [] } = t
  have link : t.link l = { s.link l with
    state := .failed, reason := reason, retry := [], held := [], replays := [], sparePending := false, trimming := [], recal := [] } := by
    rw [← fenced, link_putLink_same]
  have kept := (((recordUp_idleKept t (pgLink l) .corrected 0).trans (resend_idleKept _ (s.link l).use
    ((s.link l).retry.map (fun f => (flVc f.2, f.2)) ++ (s.link l).held))).trans (endUnreachable_idleKept (l := l) _)).kept (by rw [link]; rfl)
  rw [kept, link]
  exact ⟨rfl, rfl, rfl⟩

end Sys2Proof.Machine
end

section
/-! PROOFS. Flits, lanes, training, LINK_CTL and POSITION (R372 to R376, R379, R402, R467). -/

open Sys2Proof Sys2Proof.Machine

namespace Sys2Proof.Machine

/-! ### Flits on their way out (R372, R373) -/

/-- What the release of waiting flits does: flits leave, and of the link itself SEQ and retry buffer move. -/
structure Emits (l : Nat) (more : List (Nat × Bytes)) (s t : State) : Prop where
  sends : SendsOnly s t
  retry : (t.link l).retry = (s.link l).retry ++ more
  rxSeq : (t.link l).rxSeq = (s.link l).rxSeq
  enable : (t.link l).enable = (s.link l).enable

theorem Emits.trans {l : Nat} {a b : List (Nat × Bytes)} {s t u : State} (h : Emits l a s t) (k : Emits l b t u) : Emits l (a ++ b) s u :=
  ⟨h.sends.trans k.sends, by rw [k.retry, h.retry, List.append_assoc], k.rxSeq.trans h.rxSeq, k.enable.trans h.enable⟩

theorem emitFlit_emits (s : State) (l vc : Nat) (b : Bytes) : ∃ f, Emits l [f] s (s.emitFlit l vc b) := by
  have link : (s.emitFlit l vc b).link l = { s.link l with
      txSeq := ((s.link l).txSeq + 1) % 1024
      retry := (s.link l).retry ++ [((s.link l).txSeq, flitWith b vc (s.link l).txSeq (((s.link l).rxSeq + 1023) % 1024))] } := link_putLink_same s l _
  exact ⟨((s.link l).txSeq, flitWith b vc (s.link l).txSeq (((s.link l).rxSeq + 1023) % 1024)), ⟨rfl, Nat.le_refl _⟩, by rw [link], by rw [link], by rw [link]⟩

/-- The flits that a link holds go as far as there are places. -/
theorem sendHeld_emits (s : State) (l : Nat) : ∃ more, Emits l more s (s.sendHeld l) ∧ ((s.link l).held = [] → more = []) := by
  have emitted (fs : List (Nat × Bytes)) (t : State) :
      ∃ more, Emits l more t (fs.foldl (fun t f => t.emitFlit l f.1 f.2) t) ∧ (fs = [] → more = []) := by
    induction fs generalizing t with
    | nil => exact ⟨[], ⟨SendsOnly.refl t, (List.append_nil _).symm, rfl, rfl⟩, fun _ => rfl⟩
    | cons f fs ih =>
      obtain ⟨g, first⟩ := emitFlit_emits t l f.1 f.2
      obtain ⟨more, rest, -⟩ := ih (t.emitFlit l f.1 f.2)
      exact ⟨[g] ++ more, first.trans rest, nofun⟩
  have taken (held : List (Nat × Bytes)) : Emits l [] s (s.putLink l { s.link l with held := held }) :=
    ⟨⟨rfl, Nat.le_refl _⟩, by simp, by simp, by simp⟩
  unfold State.sendHeld
  dsimp only
  obtain ⟨more, rest, none⟩ := emitted ((s.link l).held.take (if (s.link l).paused then 0 else retryPlaces - (s.link l).retry.length))
    (s.putLink l { s.link l with held := (s.link l).held.drop (if (s.link l).paused then 0 else retryPlaces - (s.link l).retry.length) })
  exact ⟨more, (taken _).trans rest, fun empty => none (by rw [empty]; exact List.take_nil)⟩

/-! ### Flits that arrive (R372, R373) -/

theorem dropAcked_suffix (retry : List (Nat × Bytes)) (ack : Nat) : dropAcked retry ack <:+ retry := by
  unfold dropAcked
  split
  · exact (List.drop_suffix _ _).trans (List.dropWhile_suffix _)
  · exact List.suffix_refl _

theorem dropAcked_unknown {retry : List (Nat × Bytes)} {ack : Nat} (unknown : ack ∉ retry.map (·.1)) : dropAcked retry ack = retry := by
  refine if_neg (fun found => ?_)
  obtain ⟨f, there, same⟩ := List.any_eq_true.mp found
  exact unknown (beq_iff_eq.mp same ▸ List.mem_map_of_mem there)

theorem any_seq_iff {retry : List (Nat × Bytes)} {n : Nat} : retry.any (fun f => f.1 == n) = true ↔ n ∈ retry.map (·.1) := by
  simp [List.any_eq_true, List.mem_map]

theorem inbound_putInbound (s : State) (x : Inbound) : (s.putInbound x).inbound x.tag = x := by
  have removed : (s.lnk.ingress.filter (fun y => y.tag != x.tag)).find? (fun y => y.tag == x.tag) = none := by
    refine List.find?_eq_none.mpr (fun y there => ?_)
    have other := (List.mem_filter.mp there).2
    simpa using other
  unfold State.inbound State.putInbound
  rw [List.find?_append, removed]
  simp

theorem inbound_tag (s : State) (tag : Nat) : (s.inbound tag).tag = tag := by
  unfold State.inbound
  cases found : s.lnk.ingress.find? (fun x => x.tag == tag) with
  | none => rfl
  | some x => exact beq_iff_eq.mp (List.find?_some (p := fun x : Inbound => x.tag == tag) found)

/-- A flit that is delivered changes the link ingress alone. -/
theorem deliverFlit_ingress (s : State) (b : Bytes) (opens : Option ChunkHead) :
    s.deliverFlit b opens = { s with lnk := { s.lnk with ingress := (s.deliverFlit b opens).lnk.ingress } } := by
  unfold State.deliverFlit
  split
  · split <;> rfl
  · rfl

theorem deliverFlit_opens (s : State) {b : Bytes} (control : flType b = 2) (h : ChunkHead) :
    (s.deliverFlit b (some h)).inbound (flTag b) = { tag := flTag b, head := some h } := by
  unfold State.deliverFlit
  rw [if_pos control]
  exact inbound_putInbound s { tag := flTag b, head := some h }

theorem deliverFlit_payload (s : State) {b : Bytes} (data : flType b = 1) (opens : Option ChunkHead) :
    (s.deliverFlit b opens).inbound (flTag b) =
      { s.inbound (flTag b) with flits := tabSet [] (s.inbound (flTag b)).flits (flIndex b) (sliceOf b 8 250) } := by
  unfold State.deliverFlit
  rw [if_neg (by rw [data]; decide)]
  have put := inbound_putInbound s { s.inbound (flTag b) with flits := tabSet [] (s.inbound (flTag b)).flits (flIndex b) (sliceOf b 8 250) }
  rw [show ({ s.inbound (flTag b) with flits := tabSet [] (s.inbound (flTag b)).flits (flIndex b) (sliceOf b 8 250) } : Inbound).tag = flTag b
    from inbound_tag s (flTag b)] at put
  exact put

theorem SendsOnly.ingress {s t : State} (h : SendsOnly s t) (x : List Inbound) :
    SendsOnly { s with lnk := { s.lnk with ingress := x } } { t with lnk := { t.lnk with ingress := x } } := by
  refine ⟨?_, h.2⟩
  rw [h.1]

theorem SendsOnly.inbound {s t : State} (h : SendsOnly s t) (tag : Nat) : t.inbound tag = s.inbound tag := by
  unfold State.inbound
  rw [h.1]

section
variable {s : State} {l : Nat}

theorem settleLink_enabled (enabled : (s.link l).enable = true) : s.settleLink l = s := if_neg (by rw [enabled]; simp)

theorem takeFlit_delivers {b : Bytes} (type : flType b ≠ 0) (awaited : flSeq b = (s.link l).rxSeq) (own : flDest b = s.lnk.position)
    (enabled : (s.link l).enable = true) (opens : Option ChunkHead) : ∃ (more : List (Nat × Bytes)) (u : State), SendsOnly s u ∧
      (u.link l).rxSeq = ((s.link l).rxSeq + 1) % 1024 ∧ (u.link l).retry = dropAcked (s.link l).retry (flAck b) ++ more ∧
      ((s.link l).held = [] → more = []) ∧ s.takeFlit l b opens = u.deliverFlit b opens := by
  obtain ⟨more, held, none⟩ := sendHeld_emits (s.putLink l ((s.link l).acked (flAck b))) l
  have acked : SendsOnly s (s.putLink l ((s.link l).acked (flAck b))) := ⟨rfl, Nat.le_refl _⟩
  have sent := acked.trans held.sends
  have retry := held.retry
  have enable := held.enable
  rw [link_putLink_same] at retry enable none
  unfold State.takeFlit
  dsimp only
  generalize (s.putLink l ((s.link l).acked (flAck b))).sendHeld l = v at sent retry enable ⊢
  have counted : SendsOnly v ((v.putLink l { v.link l with rxSeq := ((s.link l).rxSeq + 1) % 1024 }).count (pgLink l) 0x3102 1) := ⟨rfl, Nat.le_refl _⟩
  have link : ((v.putLink l { v.link l with rxSeq := ((s.link l).rxSeq + 1) % 1024 }).count (pgLink l) 0x3102 1).link l =
      { v.link l with rxSeq := ((s.link l).rxSeq + 1) % 1024 } := by rw [link_count, link_putLink_same]
  generalize (v.putLink l { v.link l with rxSeq := ((s.link l).rxSeq + 1) % 1024 }).count (pgLink l) 0x3102 1 = u at counted link ⊢
  have whole := sent.trans counted
  have here : flDest b = u.lnk.position := by rw [own, whole.1]
  refine ⟨more, u, whole, by rw [link], by rw [link]; exact retry, fun empty => none empty, ?_⟩
  rw [if_neg (by simp [type, awaited]), if_pos here]
  refine settleLink_enabled ?_
  rw [deliverFlit_ingress, link_congr (s := u) (by rfl), link]
  exact enable.trans enabled

/-! ### Replay (R373, R374) -/

theorem foldl_send (t : State) (fs : List (Nat × Bytes)) : fs.foldl (fun u f => u.send (.flit l f.1 f.2)) t =
    { t with outbox := t.outbox ++ fs.map (fun f => .flit l f.1 f.2) } := by
  induction fs generalizing t with
  | nil => exact (congrArg (fun o => ({ t with outbox := o } : State)) (List.append_nil t.outbox)).symm
  | cons f fs ih =>
    rw [List.foldl_cons, ih, List.map_cons]
    exact congrArg (fun o => ({ t with outbox := o } : State)) (List.append_assoc _ [_] _)

/-- A record in a page changes that page, and may send the error interrupt. -/
theorem record_frame (t : State) (p : Nat) (c : ErrClass) (detail : Nat) : ∃ more,
    t.record p c detail = { t with
      pages := (t.record p c detail).pages, outbox := t.outbox ++ more, errIrqMore := (t.record p c detail).errIrqMore } := by
  unfold State.record State.recordIn State.modPage State.putPage
  dsimp only
  split
  · exact ⟨_, rfl⟩
  · refine ⟨[], ?_⟩
    rw [List.append_nil]

/-- What the counters of a replay onto the spare lane, and its record, change. -/
theorem counted_frame (t : State) (o : List Out) (p n : Nat) (quiet : Prop) [Decidable quiet] : ∃ more pages irq,
    (if quiet then ((State.count { t with outbox := o } p 0x3105 1).count p 0x3104 n).count p 0x3101 n
      else (((State.count { t with outbox := o } p 0x3105 1).count p 0x3104 n).count p 0x3101 n).record p .corrected 0) =
    { t with outbox := o ++ more, pages := pages, errIrqMore := irq } := by
  have counts : ((State.count { t with outbox := o } p 0x3105 1).count p 0x3104 n).count p 0x3101 n =
    { t with outbox := o, pages := (((State.count { t with outbox := o } p 0x3105 1).count p 0x3104 n).count p 0x3101 n).pages } := rfl
  generalize ((State.count { t with outbox := o } p 0x3105 1).count p 0x3104 n).count p 0x3101 n = u at counts ⊢
  split
  · refine ⟨[], u.pages, t.errIrqMore, ?_⟩
    rw [List.append_nil]
    exact counts
  · obtain ⟨more, recorded⟩ := record_frame u p .corrected 0
    refine ⟨more, (u.record p .corrected 0).pages, (u.record p .corrected 0).errIrqMore, recorded.trans ?_⟩
    generalize (u.record p .corrected 0).pages = pages
    generalize (u.record p .corrected 0).errIrqMore = irq
    rw [counts]

section
variable (alive : s.alive = true) (carries : (s.link l).carries = true)
include alive carries

section
variable (placed : s.lnk.position ≠ 0xFFFF)
include placed

/-- The link takes flits: the module runs, and has a position. -/
theorem takes_flits : (!s.alive || !(s.link l).carries || s.lnk.position == 0xFFFF) = false := by
  rw [alive, carries, beq_false_of_ne placed]
  rfl

theorem flitReceive_refused {b : Bytes} {bad : Nat} (broken : 5 < bad ∨ (bad = 0 ∧ flitCrcOk b = false)) (opens : Option ChunkHead) :
    flitReceive l b bad opens s = s.nakFlit l := by
  unfold flitReceive
  rw [takes_flits alive carries placed, if_neg (by decide)]
  rcases broken with many | ⟨rfl, crc⟩
  · exact if_pos many
  · rw [if_neg (by decide), if_pos rfl, crc]
    rfl

theorem flitReceive_sound {b : Bytes} (crc : flitCrcOk b = true) (opens : Option ChunkHead) : flitReceive l b 0 opens s = s.takeFlit l b opens := by
  unfold flitReceive
  rw [takes_flits alive carries placed, if_neg (by decide), if_neg (by decide), if_pos rfl, crc]
  rfl

/-- FEC corrects at most five bytes: the flit counts as one that came whole, behind the count and the record. -/
theorem flitReceive_corrected {b : Bytes} {bad : Nat} (some' : 0 < bad) (few : bad ≤ 5) (opens : Option ChunkHead) :
    flitReceive l b bad opens s = flitReceive l b 0 opens ((s.count (pgLink l) 0x3103 bad).record (pgLink l) .corrected 0) := by
  have counted : (!((s.count (pgLink l) 0x3103 bad).record (pgLink l) .corrected 0).alive ||
      !(((s.count (pgLink l) 0x3103 bad).record (pgLink l) .corrected 0).link l).carries ||
      ((s.count (pgLink l) 0x3103 bad).record (pgLink l) .corrected 0).lnk.position == 0xFFFF) = false := by
    rw [link_record, link_count]
    refine Eq.trans ?_ (takes_flits alive carries placed)
    unfold State.alive State.record State.recordIn
    simp
  unfold flitReceive
  dsimp only
  rw [if_neg (Bool.eq_false_iff.mp (takes_flits alive carries placed)), if_neg (Nat.not_lt.mpr few), if_neg (Nat.ne_of_gt some'),
    if_neg (Bool.eq_false_iff.mp counted), if_neg (by decide : ¬ 5 < 0), if_pos (rfl : (0 : Nat) = 0)]

end

/-! ### A NAK (R373, R374) -/

section
variable {n : Nat} (named : n ∈ (s.link l).retry.map (·.1))
include named

theorem nakReceive_replays (fresh : tabGet 0 (s.link l).replays n < 16) : ∃ more : List Out,
    ((nakReceive l n s).link l = { s.link l with
      retry := (s.link l).retry.dropWhile (fun f => f.1 != n), replays := (s.link l).replayed ((s.link l).retry.dropWhile (fun f => f.1 != n)) }) ∧
    (nakReceive l n s).outbox = s.outbox ++ ((s.link l).retry.dropWhile (fun f => f.1 != n)).map (fun f => .flit l f.1 f.2) ++ more := by
  have heard : (!s.alive || !(s.link l).carries || !(s.link l).retry.any (fun f => f.1 == n)) = false := by
    rw [alive, carries, any_seq_iff.mpr named]
    rfl
  unfold nakReceive
  dsimp only
  rw [if_neg (Bool.eq_false_iff.mp heard), if_neg (Nat.not_le.mpr fresh)]
  generalize (s.link l).retry.dropWhile (fun f => f.1 != n) = left
  rw [foldl_send]
  generalize counted : State.count _ (pgLink l) 0x3101 left.length = u
  have outbox : u.outbox = s.outbox ++ left.map (fun f => .flit l f.1 f.2) := by rw [← counted]; rfl
  have link : u.link l = { s.link l with retry := left, replays := (s.link l).replayed left } := by rw [← counted]; exact link_putLink_same s l _
  obtain ⟨more, recorded⟩ := record_frame u (pgLink l) .corrected 0
  exact ⟨more, (link_record u l _ _ _).trans link, by rw [recorded, outbox]⟩

theorem nakReceive_fails (worn : 16 ≤ tabGet 0 (s.link l).replays n) : nakReceive l n s = s.failLink l 1 := by
  have heard : (!s.alive || !(s.link l).carries || !(s.link l).retry.any (fun f => f.1 == n)) = false := by
    rw [alive, carries, any_seq_iff.mpr named]
    rfl
  unfold nakReceive
  dsimp only
  rw [if_neg (Bool.eq_false_iff.mp heard), if_pos worn]

end
end

theorem stands_of_carries (carries : (s.link l).carries = true) : (s.link l).state ≠ .failed := by
  intro failed
  rw [Link.carries, failed] at carries
  cases carries

/-! ### Lanes (R374 to R376, R467) -/

section
variable {n : Nat} (fed : s.fed = true) (data : n < 8)

/-- One failed data lane: the spare takes its place, and the link stays up. -/
theorem standing_one {k : Link} (data : n < 8) (failed : k.failedLanes = [(n, true)]) : k.standing = .up := by
  have lost : ∀ n < 8, (List.range 8).filter (fun i => tabGet false [(n, true)] i) = [n] ∧ tabGet false [(n, true)] 8 = false := by decide
  unfold Link.standing Link.lostLanes Link.spareOk
  rw [failed, (lost n data).1, (lost n data).2]
  rfl

theorem standing_sound {k : Link} (sound : k.failedLanes = []) : k.standing = .up ∧ k.lostLanes = [] := by
  unfold Link.standing Link.lostLanes
  rw [sound]
  exact ⟨rfl, rfl⟩

include fed in
theorem exec_laneFail_first (lane : Fin 9) (l : Fin 24) (data : lane.val < 8) (up : (s.link l).state = .up) (sound : (s.link l).failedLanes = []) :
    exec (.laneFail l lane) s =
      .next (((s.putLink l { s.link l with failedLanes := [(lane.val, true)] }).record (pgLink l) .corrected 0).putLink l { s.link l with
        failedLanes := [(lane.val, true)], sparePending := true }) := by
  have working : tabGet false (s.link l).failedLanes lane.val = false := by rw [sound]; rfl
  have marked : s.markLane l lane.val = (s.putLink l { s.link l with failedLanes := [(lane.val, true)] }).record (pgLink l) .corrected 0 := by
    have first : tabSet false (s.link l).failedLanes lane.val true = [(lane.val, true)] := by rw [sound]; rfl
    refine (if_neg (by rw [← Bool.not_eq_true] at working; exact working)).trans ?_
    exact congrArg (fun f => (s.putLink l { s.link l with failedLanes := f }).record (pgLink l) .corrected 0) first
  refine congrArg Host.Outcome.next ((if_pos fed).trans ?_)
  unfold State.laneFails
  dsimp only
  rw [if_neg (by rw [working]; decide), marked, link_record, link_putLink_same, if_neg (by rw [up]; decide), standing_one data rfl]
  exact if_pos data

include fed in
theorem exec_spareTrained (l : Fin 24) (pending : (s.link l).sparePending = true) : ∃ t : State, exec (.spareLaneTrained l) s = .next t ∧
    (∃ more : List Out, t = { s with
      lnk := t.lnk, outbox := s.outbox ++ (s.link l).retry.map (fun f => .flit l f.1 f.2) ++ more, pages := t.pages, errIrqMore := t.errIrqMore }) ∧
    t.link l = { s.link l with
      sparePending := false, spareFor := (((List.range 8).filter (fun i => tabGet false (s.link l).failedLanes i)).head?).getD 0xF,
      replays := (s.link l).replayed (s.link l).retry } := by
  refine ⟨_, rfl, ?_⟩
  unfold spareTrained
  dsimp only
  rw [if_neg (by rw [fed, pending]; decide), foldl_send]
  generalize begun : s.putLink l { s.link l with
    sparePending := false, spareFor := ((s.link l).lostLanes.head?).getD 0xF, replays := (s.link l).replayed (s.link l).retry } = t
  have link : t.link l = { s.link l with
      sparePending := false, spareFor := ((s.link l).lostLanes.head?).getD 0xF, replays := (s.link l).replayed (s.link l).retry } := by
    rw [← begun, link_putLink_same]
  have frame : t = { s with lnk := t.lnk } := by rw [← begun]; rfl
  have out : t.outbox = s.outbox := by rw [← begun]; rfl
  rw [out]
  generalize s.outbox ++ (s.link l).retry.map (fun f => .flit l f.1 f.2) = flits
  obtain ⟨more, pages, irq, noted⟩ := counted_frame t flits (pgLink l) (s.link l).retry.length ((s.link l).retry.isEmpty = true)
  generalize (if (s.link l).retry.isEmpty = true then _ else _ : State) = v at noted ⊢
  refine ⟨⟨more, ?_⟩, ?_⟩
  · rw [noted, frame]
  · rw [noted]
    exact link

include fed in
theorem exec_trim_late (lane : Fin 9) (l : Fin 24) (idle : tabGet false (s.link l).trimming lane = false) :
    exec (.linkLaneTrim l lane false true) s = .next (s.raiseBlockBit (pgLink l) 16 0) := by
  refine congrArg Host.Outcome.next ?_
  unfold laneTrim
  dsimp only
  rw [if_neg (by rw [fed]; decide), if_pos rfl, if_neg (by rw [idle]; decide)]

section
variable (lane : Fin 9) (l : Fin 24) (carries : (s.link l).carries = true)
include fed carries

section
variable (idle : (s.link l).trimming = []) (works : tabGet false (s.link l).failedLanes lane = false) (free : s.trimFree l = true)
include idle works free

theorem laneTrim_begins : laneTrim l lane false false s =
    if lane.val < 8 ∧ (s.link l).spareFor = 0xF ∧ (s.link l).spareOk = true ∧ (s.link l).sparePending = false then
      (s.putLink l { s.link l with trimming := [(lane.val, true)], spareFor := lane }).count (pgLink l) 0x3105 1
    else s.putLink l { s.link l with trimming := [(lane.val, true)] } := by
  have begins : tabSet false (s.link l).trimming lane.val true = [(lane.val, true)] := by rw [idle]; rfl
  have mayBegin : (tabGet false (s.link l).failedLanes lane || !(s.link l).trimming.isEmpty || !s.trimFree l) = false := by rw [works, idle, free]; rfl
  unfold laneTrim
  dsimp only
  rw [if_neg (by rw [fed]; decide), if_neg (by decide), if_neg (by rw [carries]; decide), if_neg (by decide), if_neg (Bool.eq_false_iff.mp mayBegin), begins]

theorem exec_trim_swaps (data : lane.val < 8) (spare : (s.link l).spareFor = 0xF) (sound : (s.link l).spareOk = true)
    (settled : (s.link l).sparePending = false) : exec (.linkLaneTrim l lane false false) s =
      .next ((s.putLink l { s.link l with trimming := [(lane.val, true)], spareFor := lane }).count (pgLink l) 0x3105 1) :=
  congrArg Host.Outcome.next ((laneTrim_begins fed lane l carries idle works free).trans (if_pos ⟨data, spare, sound, settled⟩))

theorem exec_trim_holds (taken : lane.val = 8 ∨ (s.link l).spareFor ≠ 0xF ∨ (s.link l).spareOk = false ∨ (s.link l).sparePending = true) :
    exec (.linkLaneTrim l lane false false) s = .next (s.putLink l { s.link l with trimming := [(lane.val, true)] }) := by
  refine congrArg Host.Outcome.next ((laneTrim_begins fed lane l carries idle works free).trans (if_neg ?_))
  rintro ⟨data, spare, sound, settled⟩
  rcases taken with last | busy | broken | pending
  · omega
  · exact busy spare
  · rw [broken] at sound; cases sound
  · rw [pending] at settled; cases settled

end

/-- The end of a lane's trim: the spare swaps out where it stood in for the lane, and what waited goes out. -/
theorem exec_trim_ends (trimming : (s.link l).trimming = [(lane.val, true)]) : ∃ t : State, exec (.linkLaneTrim l lane true false) s = .next (t.sendHeld l) ∧
    (((s.link l).spareFor = lane ∧ tabGet false (s.link l).failedLanes lane = false) →
      t = (s.putLink l { s.link l with trimming := [], recal := (s.link l).recal.filter (· != lane.val), spareFor := 0xF }).count (pgLink l) 0x3105 1) ∧
    (((s.link l).spareFor ≠ lane ∨ tabGet false (s.link l).failedLanes lane = true) →
      t = s.putLink l { s.link l with trimming := [], recal := (s.link l).recal.filter (· != lane.val) }) := by
  have ends : tabSet false (s.link l).trimming lane.val false = [] := by rw [trimming]; simp [tabSet, tabErase]
  have under : tabGet false (s.link l).trimming lane = true := by rw [trimming]; simp [tabGet]
  refine ⟨if (s.link l).spareFor = lane ∧ (!tabGet false (s.link l).failedLanes lane) = true then
      (s.putLink l { s.link l with trimming := [], recal := (s.link l).recal.filter (· != lane.val), spareFor := 0xF }).count (pgLink l) 0x3105 1
    else s.putLink l { s.link l with trimming := [], recal := (s.link l).recal.filter (· != lane.val) }, congrArg Host.Outcome.next ?_, ?_, ?_⟩
  · unfold laneTrim
    dsimp only
    rw [if_neg (by rw [fed]; decide), if_neg (by decide), if_neg (by rw [carries]; decide), if_pos rfl, if_neg (by rw [under]; decide), ends]
  · rintro ⟨stands, works⟩
    exact if_pos ⟨stands, by rw [works]; rfl⟩
  · rintro (other | failed)
    · exact if_neg (fun both => other both.1)
    · exact if_neg (fun both => by rw [failed] at both; exact absurd both.2 (by decide))

end

/-! ### Training and USE (R379) -/

/-- The USE of each link is set from the state before, so a list of them sets each to its own. -/
theorem foldl_uses (u : State) (p l : Nat) (ls : List Nat) (t : State) :
    (ls.foldl (fun t j => t.putLink j { t.link j with use := u.useOf j p }) t).link l =
      if l ∈ ls then { t.link l with use := u.useOf l p } else t.link l := by
  induction ls generalizing t with
  | nil => rfl
  | cons j ls ih =>
    rw [List.foldl_cons, ih]
    by_cases same : l = j
    · subst same
      rw [link_putLink_same, if_pos List.mem_cons_self]
      split <;> rfl
    · rw [link_putLink_other _ same]
      simp [List.mem_cons, same]

theorem useOf_twin {u : State} {p : Nat} (l : Nat) (twin : p = twinOf u.lnk.position) (far : p < 16384) (own : u.lnk.position < 16384) : u.useOf l p = 1 := by
  unfold State.useOf
  dsimp only
  rw [if_neg (by simp [activePos, far, own]), if_pos twin]

include fed in
theorem linkTrained_sound {l far farLink : Nat} (training : (s.link l).state = .training) (sound : (s.link l).failedLanes = []) : linkTrained l far farLink s =
    if far = 0xFFFF then s.putLink l { s.link l with
      state := .unused, use := 0, farPos := far, farLink := farLink, spareFor := 0xF, txSeq := 0, rxSeq := 0, retry := [], held := [], replays := [] }
    else (s.putLink l { s.link l with
      state := .up, farPos := far, farLink := farLink, spareFor := 0xF, txSeq := 0, rxSeq := 0, retry := [], held := [], replays := [] }).setUses far := by
  obtain ⟨up, lanes⟩ := standing_sound sound
  unfold linkTrained
  dsimp only
  rw [if_neg (by rw [fed, training]; decide), up, if_neg (by decide), lanes,
    if_neg (c := ([] : List Nat).length = 1 ∧ (s.link l).spareOk = true) (by simp)]

include fed in
theorem exec_trained (l : Fin 24) {far : Nat} (n : Nat) (training : (s.link l).state = .training) (sound : (s.link l).failedLanes = []) (small : far < 0xFFFF) :
    ∃ t : State, exec (.linkTrained l far n) s = .next t ∧ (t.link l).state = .up ∧ (t.link l).farPos = far ∧ (t.link l).farLink = n % 32 ∧
      (t.link l).retry = [] ∧ (far = twinOf s.lnk.position → far < 16384 → s.lnk.position < 16384 → (t.link l).use = 1) := by
  have whole : far % 65536 = far := Nat.mod_eq_of_lt (by omega)
  refine ⟨_, rfl, ?_⟩
  rw [whole, linkTrained_sound fed training sound, if_neg (by omega)]
  generalize up : s.putLink l { s.link l with
    state := .up, farPos := far, farLink := n % 32, spareFor := 0xF, txSeq := 0, rxSeq := 0, retry := [], held := [], replays := [] } = u
  have link : u.link l = { s.link l with
      state := .up, farPos := far, farLink := n % 32, spareFor := 0xF, txSeq := 0, rxSeq := 0, retry := [], held := [], replays := [] } := by
    rw [← up, link_putLink_same]
  have position : u.lnk.position = s.lnk.position := by rw [← up]; rfl
  have listed : l.val ∈ u.linksTo far := List.mem_filter.mpr ⟨List.mem_range.mpr l.isLt, by rw [link]; simp⟩
  unfold State.setUses
  rw [foldl_uses, if_pos listed, link]
  exact ⟨rfl, rfl, rfl, rfl, fun twin farActive own => useOf_twin l (position ▸ twin) farActive (position ▸ own)⟩

end

/-! ### LINK_CTL (R374, R376, R402) -/

section
variable (answers : s.answers = true) (l : Fin 24)
include answers

theorem exec_ctlEnable (on : Bool) : exec (.linkCtlEnable l on) s = .next (linkCtlEnable l on s) := congrArg Host.Outcome.next (if_pos answers)

theorem exec_ctlDisable (enabled : (s.link l).enable = true) : exec (.linkCtlEnable l false) s =
    .next ((s.putLink l { s.link l with enable := false }).settleLink l) := by
  refine (exec_ctlEnable answers l false).trans (congrArg Host.Outcome.next ?_)
  unfold linkCtlEnable
  dsimp only
  rw [if_neg (by rw [enabled]; decide), if_neg (by decide)]

theorem exec_ctlDisable_busy (enabled : (s.link l).enable = true) (busy : (s.link l).retry ≠ [] ∨ (s.link l).held ≠ []) :
    exec (.linkCtlEnable l false) s = .next (s.putLink l { s.link l with enable := false }) := by
  refine (exec_ctlDisable answers l enabled).trans (congrArg Host.Outcome.next ?_)
  unfold State.settleLink
  rw [link_putLink_same]
  refine if_neg (fun all => ?_)
  simp only [Bool.and_eq_true, List.isEmpty_iff] at all
  rcases busy with some' | some'
  · exact some' all.1.1.2
  · exact some' all.1.2

theorem exec_ctlDisable_idle (enabled : (s.link l).enable = true) (sent : (s.link l).retry = []) (none : (s.link l).held = [])
    (stands : (s.link l).state ≠ .failed) : ∃ t : State, exec (.linkCtlEnable l false) s = .next t ∧
      t = { s with lnk := { s.lnk with links := t.lnk.links } } ∧ t.link l = { s.link l with enable := false, state := .down } := by
  refine ⟨(s.putLink l { s.link l with enable := false }).putLink l { s.link l with enable := false, state := .down },
    (exec_ctlDisable answers l enabled).trans (congrArg Host.Outcome.next ?_), rfl, link_putLink_same _ _ _⟩
  unfold State.settleLink
  rw [link_putLink_same]
  exact if_pos (by simp [sent, none, stands])

theorem exec_ctlEnables (disabled : (s.link l).enable = false) : exec (.linkCtlEnable l true) s =
    .next (s.putLink l { s.link l with enable := true, state := if (s.link l).state = .down then .training else (s.link l).state }) := by
  refine (exec_ctlEnable answers l true).trans (congrArg Host.Outcome.next ?_)
  unfold linkCtlEnable
  dsimp only
  rw [if_neg (by rw [disabled]; decide), if_pos rfl]

end

/-! ### POSITION (R377, R402, R412) -/

/-- An enabled link that has not failed trains anew. -/
def State.trainLink (u : State) (l : Nat) : State :=
  if (u.link l).enable && (u.link l).state != .failed then u.putLink l { u.link l with state := .training, use := 0, farPos := 0xFFFF, farLink := 0 } else u

theorem trainLink_link (u : State) (l j : Nat) (enabled : (u.link l).enable = true) (stands : (u.link l).state ≠ .failed) :
    ((u.trainLink j).link l).enable = true ∧ ((u.trainLink j).link l).state = if l = j then .training else (u.link l).state := by
  unfold State.trainLink
  by_cases same : l = j
  · subst same
    rw [if_pos (by simp [enabled, stands]), link_putLink_same, if_pos rfl]
    exact ⟨enabled, rfl⟩
  · rw [if_neg same]
    split
    · rw [link_putLink_other u same]; exact ⟨enabled, rfl⟩
    · exact ⟨enabled, rfl⟩

theorem foldl_trainLink_link (ls : List Nat) {u : State} {l : Nat} (enabled : (u.link l).enable = true) (stands : (u.link l).state ≠ .failed)
    (due : l ∈ ls ∨ (u.link l).state = .training) : ((ls.foldl State.trainLink u).link l).state = .training := by
  induction ls generalizing u with
  | nil => exact due.resolve_left (fun there => absurd there List.not_mem_nil)
  | cons j ls ih =>
    obtain ⟨still, state⟩ := trainLink_link u l j enabled stands
    by_cases same : l = j
    · rw [if_pos same] at state
      exact ih still (by rw [state]; decide) (.inr state)
    · rw [if_neg same] at state
      refine ih still (by rw [state]; exact stands) ?_
      rw [state]
      exact due.imp_left (fun there => (List.mem_cons.mp there).resolve_left same)

theorem foldl_trainLink_frame (ls : List Nat) (u : State) : ls.foldl State.trainLink u =
    { u with lnk := { u.lnk with links := (ls.foldl State.trainLink u).lnk.links } } := by
  refine List.foldlRecOn (motive := fun t => t = { u with lnk := { u.lnk with links := t.lnk.links } }) ls State.trainLink
    (show u = { u with lnk := { u.lnk with links := u.lnk.links } } from rfl) (fun t frame j _ => ?_)
  unfold State.trainLink
  split
  · rw [frame]; rfl
  · exact frame

theorem positionWrite_drained (v : Nat) (drained : s.lnk.fabric = .drained) (other : v % 65536 ≠ s.lnk.position) : positionWrite v s =
    (List.range 24).foldl State.trainLink { s with lnk := { s.lnk with position := v % 65536, groups := [] } } := by
  unfold positionWrite
  rw [if_neg (fun away => away drained), if_neg other]
  rfl

end

end Sys2Proof.Machine

/-- Settles O56: a flit by `takeFlit_delivers`, a NAK by `nakReceive_replays`, a failure by `failLink_link`, lanes, training, LINK_CTL and POSITION each by
the lemma of its row. -/
theorem linkRows : Obligations.LinkRows := by
  unfold Obligations.LinkRows
  refine ⟨?_, ?_, ?_, ?_⟩
  · rintro s l k rfl alive carries placed
    refine ⟨fun b bad opens broken => congrArg Host.Outcome.next (flitReceive_refused alive carries placed broken opens),
      fun b bad opens some' few => congrArg Host.Outcome.next (flitReceive_corrected alive carries placed some' few opens), ?_, ?_, ?_⟩
    · intro b opens crc type awaited own enabled
      obtain ⟨more, u, sent, rxSeq, retry, empty, taken⟩ := takeFlit_delivers type awaited own enabled opens
      have delivered := deliverFlit_ingress u b opens
      have link : (u.deliverFlit b opens).link l = u.link l := by rw [delivered]; rfl
      refine ⟨dropAcked (s.link l).retry (flAck b), more, u.deliverFlit b opens,
        congrArg Host.Outcome.next ((flitReceive_sound alive carries placed crc opens).trans taken), ?_, link ▸ rxSeq, link ▸ retry,
        dropAcked_suffix _ _, dropAcked_unknown, empty, ?_, ?_⟩
      · have sends := sent.ingress (u.deliverFlit b opens).lnk.ingress
        rw [← delivered] at sends
        exact sends
      · rintro h control rfl
        exact deliverFlit_opens u control h
      · intro data
        rw [deliverFlit_payload u data opens, sent.inbound]
        exact ⟨tabGet_tabSet_same _ _, rfl⟩
    · intro n named fresh
      obtain ⟨more, link, outbox⟩ := nakReceive_replays alive carries named fresh
      exact ⟨_, more, rfl, link, outbox⟩
    · intro n named worn
      refine ⟨_, rfl, ?_⟩
      rw [nakReceive_fails alive carries named worn]
      exact failLink_link (stands_of_carries carries)
  · rintro s l k rfl fed
    refine ⟨?_, ?_, fun n data up sound => exec_laneFail_first fed n l data up sound, fun pending => exec_spareTrained fed l pending,
      fun far n training sound small => exec_trained fed l n training sound small, ?_,
      fun n data carries idle works free spare sound settled => exec_trim_swaps fed n l carries idle works free data spare sound settled,
      fun n carries idle works free taken => exec_trim_holds fed n l carries idle works free taken,
      fun n carries trimming => exec_trim_ends fed n l carries trimming, fun n idle => exec_trim_late fed n l idle⟩
    · exact fun carries => ⟨_, congrArg Host.Outcome.next (if_pos (by rw [fed, carries]; rfl)), failLink_link (stands_of_carries carries)⟩
    · exact fun training => ⟨_, congrArg Host.Outcome.next (if_pos (by rw [fed, training]; rfl)), failLink_link (by rw [training]; decide)⟩
    · intro n training sound
      exact congrArg Host.Outcome.next ((linkTrained_sound fed training sound).trans (if_pos rfl))
  · rintro s l k rfl answers
    refine ⟨?_, ?_, ?_, exec_ctlDisable_busy answers l, exec_ctlDisable_idle answers l, ?_, ?_⟩
    · intro enabled stands
      exact ⟨_, congrArg Host.Outcome.next ((if_pos answers).trans (if_pos enabled)), failLink_link stands⟩
    · exact fun enabled => congrArg Host.Outcome.next ((if_pos answers).trans (if_pos enabled))
    · intro disabled
      exact congrArg Host.Outcome.next ((if_pos answers).trans (if_neg (by unfold State.linkOn; rw [disabled]; decide)))
    · intro disabled down
      rw [exec_ctlEnables answers l disabled, if_pos down]
    · intro disabled up
      rw [exec_ctlEnables answers l disabled, if_neg up]
  · intro s v answers
    refine ⟨fun drained other => ?_, fun away => congrArg Host.Outcome.next ((if_pos answers).trans (if_pos away))⟩
    have frame := foldl_trainLink_frame (List.range 24) { s with lnk := { s.lnk with position := v.toNat % 65536, groups := [] } }
    have trains := fun l => foldl_trainLink_link (List.range 24) (u := { s with lnk := { s.lnk with position := v.toNat % 65536, groups := [] } }) (l := l)
    refine ⟨_, congrArg Host.Outcome.next ((if_pos answers).trans (positionWrite_drained v.toNat drained other)), ?_⟩
    generalize (List.range 24).foldl State.trainLink { s with lnk := { s.lnk with position := v.toNat % 65536, groups := [] } } = t at frame trains ⊢
    exact ⟨by rw [frame], by rw [frame], fun l small enabled stands => trains l enabled stands (.inl (List.mem_range.mpr small)), frame⟩

end

section
/-! PROOFS. Dispatch (R24, R346, R361, R367, R430): a command that may run ends in its turn without running, or starts. -/

open Sys2Proof Sys2Proof.Machine

namespace Sys2Proof.Machine

/-! ### Taking places -/

/-- A command that takes its places changes the list of commands, the towers, the pages' counters and the governor alone. -/
def PlacesOnly (s t : State) : Prop := t = { s with cmds := t.cmds, tow := t.tow, pages := t.pages, gov := t.gov }

theorem PlacesOnly.trans {s t u : State} (h : PlacesOnly s t) (k : PlacesOnly t u) : PlacesOnly s u := by
  unfold PlacesOnly at h k ⊢
  rw [k, h]

theorem PlacesOnly.foldl {α : Type} {s t : State} {f : State → α → State} (each : ∀ u x, PlacesOnly u (f u x)) (h : PlacesOnly s t)
    (l : List α) : PlacesOnly s (l.foldl f t) := by
  induction l generalizing t with
  | nil => exact h
  | cons x l ih => exact ih (h.trans (each t x))

/-- What every step of a fold leaves as it was, the fold leaves. -/
theorem foldl_field {α β : Type} (get : State → β) {f : State → α → State} (each : ∀ u x, get (f u x) = get u) (l : List α) (s : State) :
    get (l.foldl f s) = get s := by
  induction l generalizing s with
  | nil => rfl
  | cons x l ih => exact (ih (f s x)).trans (each s x)

theorem noteRise_placesOnly (s : State) (rise : Nat) : PlacesOnly s (s.noteRise rise) := by
  unfold State.noteRise State.expectRise
  split <;> rfl

theorem noteRise_cmds (s : State) (rise : Nat) : (s.noteRise rise).cmds = s.cmds := by
  unfold State.noteRise State.expectRise
  split <;> rfl

theorem noteRise_estimate (s : State) (rise : Nat) : (s.noteRise rise).gov.estimate = s.gov.estimate + rise := by
  unfold State.noteRise State.expectRise
  split <;> rfl

/-- A command as it starts in its places. -/
def Cmd.entered (c : Cmd) (s : State) (places : List Nat × List Nat) (rise : Nat) : Cmd :=
  { c with phase := .started, dispatched := true, regions := places.2, towers := places.1, noticed := c.committed || !s.twinned, rise := rise }

/-- The command last in the list. -/
def State.listLast (s : State) (c : Cmd) : State := { s with cmds := s.cmds.filter (fun e => !(e.q == c.q && e.n == c.n)) ++ [c] }

/-- A place of the command on tower `k`. -/
def State.placeOnTower (s : State) (c : Cmd) (k : Nat) : State := s.putTower k { s.tower k with cmds := (s.tower k).cmds ++ [(c.q, c.n)] }

/-- Its places on towers and in regions. -/
def State.takePlaces (s : State) (c : Cmd) (places : List Nat × List Nat) : State :=
  places.2.foldl (fun u r => u.count (pgRegion r) 0x101 1) (places.1.foldl (fun u k => u.placeOnTower c k) s)

theorem takePlaces_placesOnly (s : State) (c : Cmd) (places : List Nat × List Nat) : PlacesOnly s (s.takePlaces c places) :=
  PlacesOnly.foldl (fun u r => (rfl : PlacesOnly u (u.count (pgRegion r) 0x101 1)))
    (PlacesOnly.foldl (fun u k => (rfl : PlacesOnly u (u.placeOnTower c k))) (rfl : PlacesOnly s s) places.1) places.2

/-- What places on towers and counts of pages leave as it was, all places do. -/
theorem takePlaces_field {β : Type} (get : State → β) (c : Cmd) (tower : ∀ u k, get (State.placeOnTower u c k) = get u)
    (counted : ∀ u p, get (State.count u p 0x101 1) = get u) (s : State) (places : List Nat × List Nat) :
    get (s.takePlaces c places) = get s :=
  (foldl_field get (fun u r => counted u (pgRegion r)) places.2 _).trans (foldl_field get tower places.1 s)

section
variable (s : State) (c : Cmd) (places : List Nat × List Nat) (rise : Nat)

/-- A command that starts is listed last, takes its places, and raises the estimate. -/
theorem enter_eq : s.enter c places rise = ((s.listLast (c.entered s places rise)).takePlaces c places).noteRise rise := rfl

theorem enter_placesOnly : PlacesOnly s (s.enter c places rise) := by
  have listed : PlacesOnly s (s.listLast (c.entered s places rise)) := rfl
  rw [enter_eq]
  exact (listed.trans (takePlaces_placesOnly _ c places)).trans (noteRise_placesOnly _ rise)

theorem enter_cmds : (s.enter c places rise).cmds = s.cmds.filter (fun e => !(e.q == c.q && e.n == c.n)) ++ [c.entered s places rise] := by
  rw [enter_eq, noteRise_cmds]
  exact takePlaces_field State.cmds c (fun _ _ => rfl) (fun _ _ => rfl) _ places

theorem enter_estimate : (s.enter c places rise).gov.estimate = s.gov.estimate + rise := by
  rw [enter_eq, noteRise_estimate]
  exact congrArg (· + rise) (takePlaces_field (fun u => u.gov.estimate) c (fun _ _ => rfl) (fun _ _ => rfl) _ places)

/-- It stands last, and alone under its number. -/
theorem enter_cmd? : (s.enter c places rise).cmd? c.q c.n = some (c.entered s places rise) := by
  have others : (s.cmds.filter (fun e => !(e.q == c.q && e.n == c.n))).find? (fun e => e.q == c.q && e.n == c.n) = none := by
    refine List.find?_eq_none.mpr fun e listed same => ?_
    obtain ⟨-, other⟩ := List.mem_filter.mp listed
    rw [same] at other
    cases other
  rw [State.cmd?, enter_cmds, List.find?_append, others]
  simp [Cmd.entered]

end

/-! ### Peers within reach (R383) -/

/-- Which positions a command reaches stands in the links' registers. -/
theorem unreached_of_lnk {s t : State} (same : t.lnk = s.lnk) (c : Cmd) : t.unreached c = s.unreached c := by
  change State.unreached { lnk := t.lnk } c = State.unreached { lnk := s.lnk } c
  rw [same]

theorem endUnreached_within {s : State} {q n : Nat} {c : Cmd} (listed : s.cmd? q n = some c) (within : s.unreached c = none) :
    s.endUnreached q n = s := by
  unfold State.endUnreached
  split
  · rfl
  · next d runs =>
    obtain rfl : c = d := Option.some.inj (listed.symm.trans (State.cmd?_of_runnable runs))
    rw [within]

/-- A command whose peers are within reach starts in its places, and goes on. -/
theorem enter_within {s : State} {c : Cmd} (within : s.unreached c = none) (places : List Nat × List Nat) (rise : Nat) :
    (s.enter c places rise).endUnreached c.q c.n = s.enter c places rise := by
  refine endUnreached_within (enter_cmd? s c places rise) ?_
  have lnk : (s.enter c places rise).lnk = s.lnk := by rw [enter_placesOnly s c places rise]
  exact (unreached_of_lnk lnk _).trans within

/-! ### The row -/

section
variable {s : State} {c : Cmd} {q n : Nat} {region : Option (Fin 8)} {rise : Nat}

/-- A command is barred by a live record that bars it. -/
theorem depFailed_of_barred {m : Nat} {l : LiveRec} (waits : bitAt c.marks 29 = false) (named : m ∈ c.named (s.queue c.q).firstSeq)
    (live : s.liveComplete c.q m = some l) (bars : l.status.bars = true) : s.depFailed c = true := by
  unfold State.depFailed
  rw [waits, Bool.not_false, Bool.true_and, List.any_eq_true]
  exact ⟨m, named, by rw [live]; exact bars⟩

theorem dispatchChecked_fails {r : Reg} {st : Status} (fails : startChecks s c r = .error st) :
    dispatchChecked s c r region rise = ((regOf (s.peekBody c)).getD r).op.endAtStart s (s.peekBody c) st := by
  rw [dispatchChecked, fails]

theorem dispatchChecked_starts {r r' : Reg} {d e : Cmd} {u : State} (passes : startChecks s c r = .ok d) (known : regOf d = some r')
    (room : hasRoom s (placesOf s d region) = true) (place : streamPlace d region = true) (stack : s.stackMayStart d = true)
    (group : s.groupMayStart d = true) (links : usesLinks d = true → s.lnk.fabric = .inService) (goes : r'.start s d = .go u e)
    (within : u.unreached e = none) : dispatchChecked s c r region rise = u.enter e (placesOf s d region) rise := by
  have linked : (usesLinks d && s.lnk.fabric != .inService) = false := by
    rw [Bool.and_eq_false_imp]
    exact fun uses => by rw [links uses]; decide
  rw [dispatchChecked, passes]
  simp only [known, Option.getD_some, room, place, stack, group, linked, goes, Bool.not_true, Bool.or_false, Bool.false_eq_true, if_false]
  exact enter_within within _ _

variable (listed : s.cmd? q n = some c) (alive : s.alive = true) (runs : s.mayRun q = true) (accepted : c.phase = .accepted)
  (mirrored : c.mirrored = true) (turn : s.replayTurn c = true)
include listed alive runs accepted mirrored turn

theorem commandDispatch_refused (refused : c.refused1 = true) (first : n = (s.queue q).doneSeq + 1) :
    commandDispatch q n region rise s = s.putCmd { c with phase := .ended, status := .malformed } := by
  simp [commandDispatch, listed, alive, runs, accepted, mirrored, turn, refused, ← first]

variable (sound : c.refused1 = false) (met : s.marksMet c = true)
include sound met

theorem commandDispatch_barred (barred : s.depFailed c = true) :
    commandDispatch q n region rise s = s.putCmd { c with phase := .ended, status := .depFailed } := by
  simp [commandDispatch, listed, alive, runs, accepted, mirrored, turn, sound, met, barred]

theorem commandDispatch_checks (free : s.depFailed c = false) {r : Reg} (known : regOf c = some r) :
    commandDispatch q n region rise s = dispatchChecked s c r region rise := by
  simp [commandDispatch, listed, alive, runs, accepted, mirrored, turn, sound, met, free, known]

end

end Sys2Proof.Machine

/-- Settles O12: the row's conditions one by one (`commandDispatch_refused` to `commandDispatch_checks`); a command that starts takes its places
(`enter_placesOnly`), and stays where its peers are within reach (`enter_within`). -/
theorem commandDispatched : Obligations.CommandDispatched := by
  unfold Obligations.CommandDispatched
  intro s q n rise region c listed alive runs accepted mirrored turn
  have row : exec (.commandDispatch q n region rise) s = .next ((commandDispatch q n region rise s).releaseHeld q).settleReplay := rfl
  refine ⟨?_, ?_, ?_, ?_, ?_⟩
  · intro v _ live
    have still : v.jnl.state ≠ .replaying := by rw [live]; decide
    rw [releaseHeld_live still, settleReplay_live still]
  · intro refused first
    rw [row, commandDispatch_refused listed alive runs accepted mirrored turn refused first]
  · rintro sound met waits ⟨m, l, named, live, bars⟩
    rw [row, commandDispatch_barred listed alive runs accepted mirrored turn sound met (depFailed_of_barred waits named live bars)]
  · rintro r _ _ st _ sound met free known fails rfl rfl rfl
    rw [row, commandDispatch_checks listed alive runs accepted mirrored turn sound met free known, dispatchChecked_fails fails]
    rfl
  · intro r r' d e u sound met free known passes known' room place stack group links goes within
    have only := enter_placesOnly u e (placesOf s d region) rise
    refine ⟨u.enter e (placesOf s d region) rise, ?_, enter_cmds u e _ rise, enter_estimate u e _ rise, by rw [only], by rw [only], by rw [only],
      by rw [only]⟩
    rw [row, commandDispatch_checks listed alive runs accepted mirrored turn sound met free known,
      dispatchChecked_starts passes known' room place stack group links goes within]

end

section
/-! PROOFS. The boundaries of an array (R33, R68, R75, R76, R90 to R93, R430, R435). -/

open Sys2Proof Sys2Proof.Machine

namespace Sys2Proof.Machine

/-! ### The tile an array works on -/

/-- ARRAY_PASS_END of a command that arrays run is the array's boundary. -/
theorem exec_arrayPassEnd {s : State} {q n : Nat} {c : Cmd} (runnable : s.runnable q n (onArrays s) = some c) (r : Fin 8) (x : Fin 4) (b : Boundary) :
    exec (.arrayPassEnd r x q n b) s = .next (arrayPass r x q n b s) := by
  have tiles : c.opcode = 0x201 ∨ c.opcode = 0x202 := by simpa [onArrays] using State.sel_of_runnable runnable
  have thick : ¬ (s.cmd? q n).any (Cmd.isOp 0x203) = true := by
    rw [State.cmd?_of_runnable runnable]
    obtain code | code := tiles <;> simp [Cmd.isOp, code]
  change Host.Outcome.next (if _ then _ else _) = _
  rw [if_neg thick]

/-- With a live tile of the command in an array that serves, the boundary is that tile's. -/
theorem arrayPass_live {s v : State} {r : Fin 8} {x : Fin 4} {q n : Nat} {c m d : Cmd} {g : Mat} {u : ArrayUnit} {w : ArrayRun} {b : Boundary}
    (runnable : s.runnable q n (onArrays s) = some c) (named : c.mat = some g) (serves : arrayServes (s.region r) x = true)
    (clear : (s.page (pgArray r x)).injectNext = false) (measured : withMeasure s c g = .ok m) (kept : d = m.keepTables s (matTables s m))
    (put : v = s.putCmd d) (unit : u = (s.region r).array x) (live : liveRun v u = some w) (own : w.q = q) (number : w.n = n) :
    arrayPass r x q n b s = boundaryRun v d g r x u w b := by
  subst kept put unit
  have same : (s.putCmd (m.keepTables s (matTables s m))).region r = s.region r := rfl
  simp only [arrayPass, runnable, named, serves, clear, measured, same, live, own, number, Bool.not_true, Bool.false_eq_true, and_self, if_true,
    if_false]

/-! ### What the boundary does with the tile (R33, R75, R76, R91 to R93) -/

section
variable {s : State} {c : Cmd} {g : Mat} {r x : Nat} {u : ArrayUnit} {w : ArrayRun} {b : Boundary}

/-- The array one slot on. -/
def ArrayUnit.nextSlot (u : ArrayUnit) : ArrayUnit := { u with slot := (u.slot + 1) % 16 }

theorem boundaryRun_runs (free : arrayPaused s.gov.throttle u.slot = false) (goes : b = .goOn ∨ b = .throttle) :
    boundaryRun s c g r x u w b = passOn s c g r x u.nextSlot w := by
  obtain rfl | rfl := goes <;> simp only [boundaryRun, free, Bool.false_eq_true, if_false] <;> rfl

theorem boundaryRun_pauses (paused : arrayPaused s.gov.throttle u.slot = true) (goes : b = .goOn ∨ b = .throttle) :
    boundaryRun s c g r x u w b = pausePass s g r x u.nextSlot w := by
  obtain rfl | rfl := goes <;> simp only [boundaryRun, paused, if_true] <;> rfl

theorem boundaryRun_stops (anew : w.inPlace = false) (stops : b = .preempt ∨ b = .drain) :
    boundaryRun s c g r x u w b = stopPass s c r x u.nextSlot := by
  obtain rfl | rfl := stops <;> simp only [boundaryRun, anew, Bool.false_eq_true, if_false] <;> rfl

theorem quits_frame (t : State) (d : Cmd) (r : Nat) :
    (t.quits d r).cmds = (t.putCmd (t.quitRegion d r)).cmds ∧ t.quits d r = { t with cmds := (t.quits d r).cmds, gov := (t.quits d r).gov } := by
  unfold State.quits State.expectFall
  dsimp only
  split
  · exact ⟨rfl, rfl⟩
  · split <;> exact ⟨rfl, rfl⟩

/-- An array at work: its slot counted, its ramp run where it was idle. -/
def ArrayUnit.working (u : ArrayUnit) : ArrayUnit := { u with active := true, ramping := !u.active }

variable (starts : s.gov.holding = false ∨ u.active = true)
include starts

theorem passOn_eq : passOn s c g r x u w =
    if w.cols + u.groups < g.tileGroups w.tile
    then (s.count (pgArray r x) 0x201 g.slotCycles).putRun r x { u.working with run := some { w with cols := w.cols + u.groups } }
    else passWhole (s.count (pgArray r x) 0x201 g.slotCycles) c g r x u.working { w with cols := u.over w.cols (g.tileGroups w.tile) } := by
  have ramps : ¬ (s.gov.holding && !u.active) = true := by obtain idle | idle := starts <;> simp [idle]
  rw [passOn, if_neg ramps]
  rfl

end

section
variable {s : State} {c : Cmd} {g : Mat} {r x : Nat} {u : ArrayUnit} {w : ArrayRun} {accs : List Acc}
  (pass : passTile s c g (c.cnt 3) w.tile w.scale w.pass w.accs = .ok accs)
include pass

theorem passWhole_again (overflows : g.repeats = true ∧ w.attempt < 4 ∧ accs.any (·.isOver) = true) :
    passWhole s c g r x u w = (s.putRun r x { u with suspect := none, run := some (w.lower g) }).count (pgArray r x) 0x203 1 := by
  rw [passWhole, pass]
  exact if_pos overflows

theorem passWhole_next (within : ¬ (g.repeats = true ∧ w.attempt < 4 ∧ accs.any (·.isOver) = true)) (more : w.pass + 1 < g.passes (c.cnt 3)) :
    passWhole s c g r x u w = s.putRun r x { u with run := some { w with pass := w.pass + 1, accs := accs } } := by
  rw [passWhole, pass]
  exact (if_neg within).trans (if_pos more)

end

end Sys2Proof.Machine

/-- Settles O31: ARRAY_PASS_END is what the boundary does with the live tile (`arrayPass_live`, `boundaryRun_runs` to `boundaryRun_stops`); a slot
ends within the tile, or with a whole pass (`passOn_eq`), which repeats or goes on (`passWhole_again`, `passWhole_next`). -/
theorem arrayBoundaries : Obligations.ArrayBoundaries := by
  unfold Obligations.ArrayBoundaries
  refine ⟨?_, ?_⟩
  · rintro s v k r x q n o c m d g u u' on w b runnable named serves clear measured kept put unit live own number next_ works counted past
    have row : exec (.arrayPassEnd r x q n b) s = .next (boundaryRun v d g r x u w b) :=
      (exec_arrayPassEnd runnable r x b).trans
        (congrArg Host.Outcome.next (arrayPass_live runnable named serves clear measured kept put unit live own number))
    have gov : v.gov = s.gov := by rw [put]; rfl
    rw [row, ← gov]
    subst works next_ counted past
    refine ⟨?_, ?_, ?_, fun t => quits_frame t d r, ?_, ?_⟩
    · intro free goes starts
      rw [boundaryRun_runs free goes, passOn_eq (u := u.nextSlot) starts]
      refine ⟨fun less => ?_, fun accs full pass => ?_⟩
      · exact congrArg Host.Outcome.next (if_pos less)
      · have whole : ¬ w.cols + u.nextSlot.groups < g.tileGroups w.tile := Nat.not_lt.mpr full
        rw [if_neg whole]
        refine ⟨fun within more => ?_, fun repeats left overflows => ?_⟩
        · have stays : ¬ (g.repeats = true ∧ w.attempt < 4 ∧ accs.any (·.isOver) = true) := by
            rintro ⟨repeats, left, overflows⟩
            exact Bool.false_ne_true ((within repeats left).symm.trans overflows)
          exact congrArg Host.Outcome.next (passWhole_next pass stays more)
        · exact congrArg Host.Outcome.next (passWhole_again pass ⟨repeats, left, overflows⟩)
    · intro paused goes
      rw [boundaryRun_pauses paused goes]
      rfl
    · rintro anew stops _ rfl
      rw [boundaryRun_stops anew stops]
      rfl
    · rintro col rfl fresh
      exact ⟨w.again, rfl, rfl, rfl, congrArg Host.Outcome.next (if_neg fresh)⟩
    · rintro col rfl again
      exact congrArg Host.Outcome.next (if_pos again)
  · rintro s r x _ alive rfl idle
    exact congrArg Host.Outcome.next (if_pos (by rw [alive, idle]; rfl))

end

section
/-! PROOFS. The boundaries of the vector engines, the encoder, the walkers and the expanders (R24, R106, R139, R171, R279, R282, R283, R289, R435). -/

open Sys2Proof Sys2Proof.Machine

namespace Sys2Proof.Machine

/-- A place in a region is noted beside the command's descriptor. -/
theorem State.joinRegion_opcode {s t : State} {c b : Cmd} {r : Nat} (joined : s.joinRegion c r = some (t, b)) : b.opcode = c.opcode := by
  unfold State.joinRegion at joined
  split at joined
  · cases joined; rfl
  · split at joined <;> cases joined
    rfl

/-- The next unit at a boundary commits alone. -/
theorem Op.CommitsOne.runOne {op : Op} {s t : State} {c d : Cmd} {k : Nat} (h : op.CommitsOne s c k t d) (next : op.nextUnit s c = some k) :
    op.runOne s c = (t, d) := by
  rw [Op.runOne, next]
  exact h.runSome

theorem Op.CommitsOne.started {op : Op} {s t : State} {c d : Cmd} {k : Nat} (h : op.CommitsOne s c k t d) : d.phase = .started := by
  obtain ⟨-, -, -, -, -, started, -⟩ := h
  exact started

/-! ### Vector engines (R106, R139) -/

/-- A boundary that no throttle pauses, on an engine that no overlapping window holds: the command takes its place and its next chunk ends. -/
theorem vectorChunkEnd_runs {s v : State} {r e q n k : Nat} {c b : Cmd} (runnable : s.runnable q n (onVectors s) = some c)
    (serves : vectorServes (s.region r) e = true) (free : ((s.region r).vector e).taken s c = false)
    (runs : unitPaused s.gov.throttle ((s.region r).vector e).slot = false)
    (next : nextChunk (s.putRegion r ((s.region r).putVector e ((s.region r).vector e).pass)) c = some k)
    (joined : (s.putRegion r ((s.region r).putVector e ((s.region r).vector e).pass)).joinRegion c r = some (v, b)) :
    vectorChunkEnd r e q n .goOn s = vectorChunk v r e b k .goOn := by
  simp only [vectorChunkEnd, runnable, serves, free, runs, next, joined, Bool.not_true, Bool.or_false, Bool.false_eq_true, if_false]

/-- The events of a chunk are counted in pages. -/
theorem countChunk_frame (s : State) (r e : Nat) (c : Cmd) (elems : Nat) :
    s.countChunk r e c elems = { s with pages := (s.countChunk r e c elems).pages } := rfl

/-- A chunk that commits alone leaves its command on the engine. -/
theorem vectorChunk_goesOn {v t : State} {r e k : Nat} {b d : Cmd} (commits : (chunkOp b).CommitsOne v b k t d) :
    vectorChunk v r e b k .goOn = ((t.countChunk r e b (d.elemsDone - b.elemsDone)).putRegion r
      ((t.region r).putVector e (((t.region r).vector e).use b true))).putCmd d := by
  have engine : (t.countChunk r e b (d.elemsDone - b.elemsDone)).region r = t.region r := rfl
  simp only [vectorChunk, commits.runSome, if_pos commits.done_ne, commits.started, Boundary.stops, engine, decide_true, Bool.false_eq_true, and_false,
    if_false]

/-! ### The encoder (R289) -/

theorem exec_encodeChunk {s t : State} {q n k : Nat} {c d : Cmd} (runnable : s.runnable q n (fun c => c.opcode == 0x702 || c.opcode == 0x703) = some c)
    (next : encodeOp.nextUnit s c = some k) (commits : encodeOp.CommitsOne s c k t d) : exec (.encodeChunkCommit q n .goOn) s = .next (t.putCmd d) := by
  have goes : d.stopped .goOn = d := if_neg (fun stops => Bool.false_ne_true stops.2)
  change execEncodeChunkCommit q n .goOn s = _
  rw [execEncodeChunkCommit, runnable]
  simp only [commits.runOne next, goes]

/-! ### Walkers (R171) -/

section
variable {s w : State} {r q n : Nat} {c b : Cmd}

/-- A boundary that no throttle pauses: the command takes its place, and the walker's work goes on. -/
theorem keyBlockEnd_runs (runnable : s.runnable q n (fun c => [0x401, 0x402, 0x403].contains c.opcode) = some c) (serves : walkerServes s r = true)
    (clear : (s.page (pgWalker r)).injectNext = false) (runs : unitPaused s.gov.throttle (s.region r).walkSlot = false)
    (joined : s.joinRegion c r = some (w, b)) : keyBlockEnd r q n .goOn s = walkerStep ((w.putCmd b).passWalk r) r b .goOn := by
  simp only [keyBlockEnd, runnable, serves, clear, runs, joined, Bool.not_true, Bool.false_eq_true, if_false]

variable {v t : State}

theorem walkerStep_append {k : Nat} {d : Cmd} (append : b.opcode = 0x403) (next : kvAppendOp.nextUnit v b = some k)
    (commits : kvAppendOp.CommitsOne v b k t d) : walkerStep v r b .goOn = t.putCmd d := by
  simp only [walkerStep, if_pos append, appendStep, commits.runOne next, Boundary.stops, Bool.false_eq_true, and_false, if_false]

theorem walkerStep_walk {a : Att} (walks : b.opcode ≠ 0x403) (named : b.att = some a) (alone : a.ring = false) (own : blockHome v r b a = none) :
    walkerStep v r b .goOn = walkStep v r 0x501 b a .goOn := by
  simp [walkerStep, walks, named, alone, own]

end

/-! ### Expanders (R279, R282, R283) -/

theorem expanderBlock_done {s v : State} {r : Fin 8} {p q n block stall : Nat} {c : Cmd} {x : ExpSource} {e : Expanded}
    (runnable : s.runnable q n (fun c => c.opcode == 0x201) = some c) (source : expSource s c = some x) (inside : block < x.blocks s)
    (works : ((s.region r).expander p).fenced = false) (serves : (s.region r).state = .inService) (counted : v = s.count (pgExpander r p) 0x601 stall)
    (expands : x.expand v block = .ok e) :
    expanderBlock r p q n block stall s = (v.countExpanded (pgExpander r p) e).putCmd (c.keepTables v (matTables v c)) := by
  subst counted
  have goes : ¬ (x.blocks s ≤ block ∨ ((s.region r).expander p).fenced = true ∨ (s.region r).state ≠ .inService) := by
    rw [works, serves]
    simpa using inside
  simp only [expanderBlock, runnable, source, if_neg goes, expands]

end Sys2Proof.Machine

/-- Settles O32: at each boundary one unit commits alone (`Op.CommitsOne.runSome`, `vectorChunk_goesOn`, `walkerStep_append`), a walk takes in its
next key block (`walkStep_goesOn`), and a block that passes its checks is counted (`expanderBlock_done`). -/
theorem engineBoundaries : Obligations.EngineBoundaries := by
  unfold Obligations.EngineBoundaries
  refine ⟨?_, ?_, ?_, ?_⟩
  · rintro s v t r e q n k c b d _ _ runnable rfl rfl serves free runs next joined commits
    refine ⟨_, congrArg Host.Outcome.next ((vectorChunkEnd_runs runnable serves free runs next joined).trans (vectorChunk_goesOn commits)), ?_⟩
    simp only [State.putCmd_mem, State.putCmd_queues, State.putCmd_threads, State.putCmd_cmds, State.putCmd_regions, State.putRegion_mem,
      State.putRegion_queues, State.putRegion_threads, State.putRegion_cmds, State.putRegion_regions]
    rw [countChunk_frame]
    exact ⟨rfl, rfl, rfl, rfl, rfl⟩
  · exact fun s t q n k c d runnable next commits => exec_encodeChunk runnable next commits
  · rintro s w _ r q n c b runnable serves clear runs joined rfl
    have row : exec (.keyBlockEnd r q n .goOn) s = .next (walkerStep ((w.putCmd b).passWalk r) r b .goOn) :=
      congrArg Host.Outcome.next (keyBlockEnd_runs runnable serves clear runs joined)
    have code := State.joinRegion_opcode joined
    refine ⟨fun t k d append next commits => ?_, fun a u w w' c' d k x walks named alone own walk unit keys block folds more => ?_⟩
    · exact row.trans (congrArg Host.Outcome.next (walkerStep_append (code.trans append) next commits))
    · refine row.trans (congrArg Host.Outcome.next ((walkerStep_walk (code.trans_ne walks) named alone own).trans ?_))
      exact walkStep_goesOn walk unit keys block folds more
  · intro s v r p q n block stall c x e runnable source inside works serves counted expands
    refine congrArg Host.Outcome.next ((expanderBlock_done runnable source inside works serves counted expands).trans ?_)
    rfl

end

section
/-! PROOFS. Requests to Ivory and Umber, the patrols, refresh and self-refresh (R21, R23, R240, R242, R249, R252, R253, R308, R309, R429). -/

open Sys2Proof Sys2Proof.Machine

namespace Sys2Proof.Machine

/-! ### Arbitration (R21, R23) -/

/-- A request keeps its name in whatever class it stands. -/
theorem classed_same (g : Region) (x : ArbReq) : x.same (g.classed x) = true := by
  unfold Region.classed
  cases found : g.waiting.find? x.same with
  | none => simp [ArbReq.same]
  | some y => exact List.find?_some found

/-- A waiting request of a lower class at the same arbiter goes first. -/
theorem grants_lower {g : Region} {x y : ArbReq} (waits : y ∈ g.waiting) (path : y.umber = x.umber) (other : x.same y = false)
    (lower : y.cls < (g.classed x).cls) : g.grants x = false := by
  have same := classed_same g x
  simp only [ArbReq.same, Bool.and_eq_true, beq_iff_eq] at same
  obtain ⟨⟨request, port⟩, umber⟩ := same
  have named : (g.classed x).same y = x.same y := by simp only [ArbReq.same, request, port, umber]
  rw [Region.grants, Bool.not_eq_false', List.any_eq_true]
  refine ⟨y, waits, ?_⟩
  simp only [Region.goesBefore, named, other, path, umber, beq_self_eq_true, lower, decide_true, Bool.not_false, Bool.true_and, Bool.true_or]

theorem arbReq_umber (r source request : Nat) (umber : Bool) (by_ : Requester) : (arbReq r umber source by_ request).umber = umber := by
  unfold arbReq
  split <;> rfl

theorem exec_arbPromote {s : State} (alive : s.alive = true) (p : Port) (path : PortPath) {x : ArbReq} {u : State}
    (named : x = arbReq p.region (path.umber && path.source.isNone) ((path.source.map (·.val)).getD p.region) p.requester p.request)
    (queued : u = s.queueRequest p.region x) :
    exec (.arbPromote p path) s = .next (if ((u.region p.region).classed x).cls = 1 then s else
      (u.putRegion p.region { u.region p.region with
        waiting := (u.region p.region).waiting.map (fun y => if x.same y then { y with cls := 1 } else y) }).count (pgRegion p.region) 0x103 1) := by
  subst named queued
  change Host.Outcome.next (arbPromote _ _ s) = _
  simp only [arbPromote, alive, Bool.not_true, Bool.false_or, decide_eq_true_eq]

/-! ### What an access finds in memory -/

/-- An access looks at memory, at where towers and slices stand, and at Slate's link alone. -/
theorem readBytes_of_same {s t : State} (part : t.part = s.part) (mem : t.mem = s.mem) (tow : t.tow = s.tow) (regions : t.regions = s.regions)
    (per : t.per = s.per) (a n : Nat) : t.readBytes a n = s.readBytes a n := by
  change State.readBytes { part := t.part, mem := t.mem, tow := t.tow, regions := t.regions, per := t.per } a n =
    State.readBytes { part := s.part, mem := s.mem, tow := s.tow, regions := s.regions, per := s.per } a n
  rw [part, mem, tow, regions, per]

theorem readBytes_wakeTower (s : State) (w a n : Nat) : (s.wakeTower w).readBytes a n = s.readBytes a n := rfl

theorem refusal_wakeTower (s : State) (w a n : Nat) (write : Bool) : (s.wakeTower w).refusal a n write = s.refusal a n write := rfl

/-- A stored byte is what memory and the towers' places make it. -/
theorem rawByte_of_same {s t : State} (part : t.part = s.part) (mem : t.mem = s.mem) (tow : t.tow = s.tow) (a : Nat) :
    t.rawByte a = s.rawByte a := by
  change State.rawByte { part := t.part, mem := t.mem, tow := t.tow } a = State.rawByte { part := s.part, mem := s.mem, tow := s.tow } a
  rw [part, mem, tow]

theorem rawByte_answered (s : State) (o : Out) (p source k a : Nat) : ((s.send o).count p source k).rawByte a = s.rawByte a :=
  rawByte_of_same rfl rfl rfl a

theorem rawByte_grant (s : State) (r : Nat) (x : ArbReq) (a : Nat) : (s.grant r x).rawByte a = s.rawByte a := rawByte_of_same rfl rfl rfl a

theorem request_reads {s : State} {a n : Nat} {b : Bytes} (bs : Bytes) (read : s.readBytes a n = .ok b) :
    s.request false a n bs = s.send (.served a false .ok b) := by
  simp only [State.request, read, Bool.false_eq_true, if_false]
  rfl

theorem request_writes {s : State} {a : Nat} {bs : Bytes} (n : Nat) (free : s.refusal a bs.length true = none) :
    s.request true a n bs = (s.storeBytes a bs).send (.served a true .ok []) := by
  simp only [State.request, State.writeBytes, free, if_true]
  rfl

/-- Where the addresses of a tier lie (R232 to R234). -/
def Tier.Holds (a : Nat) : Tier → Prop
  | .ivory => a < umberBase
  | .umber => umberBase ≤ a ∧ a < slateBase
  | .slate => slateBase ≤ a

theorem holds_of_tierOf {s : State} {a : Nat} {t : Tier} (tier : s.tierOf a = some t) : t.Holds a := by
  have towers : s.dataTowers ≤ 16 := by unfold State.dataTowers; split <;> decide
  have slices : 8 * sliceSize ≤ umberBase := by decide
  have room : umberBase + 16 * 2 ^ 36 ≤ slateBase := by decide
  unfold State.tierOf at tier
  split at tier
  · split at tier <;> cases tier
    exact Nat.lt_of_lt_of_le ‹_› slices
  · split at tier
    · next inside =>
      cases tier
      simp only [Bool.and_eq_true, decide_eq_true_eq] at inside
      exact ⟨inside.1, by omega⟩
    · split at tier <;> cases tier
      next inside =>
      simp only [Bool.and_eq_true, decide_eq_true_eq] at inside
      exact inside.1

/-- The tiers lie apart. -/
theorem Tier.Holds.eq {a : Nat} {t t' : Tier} (h : t.Holds a) (h' : t'.Holds a) : t = t' := by
  have below : umberBase < slateBase := by decide
  cases t <;> cases t' <;> simp only [Tier.Holds] at h h' <;> first | rfl | omega

/-- A range that nothing refuses ends in the tier in which it begins (R238). -/
theorem holds_last {s : State} {a n : Nat} {w : Bool} {t : Tier} (free : s.refusal a n w = none) (first : t.Holds a) (pos : 0 < n) :
    t.Holds (a + n - 1) := by
  have mapped : s.mappedRange a n = true := by
    by_contra unmapped
    rw [State.refusal, if_pos (by simpa using unmapped)] at free
    cases free
  rw [State.mappedRange, if_neg (Nat.ne_of_gt pos)] at mapped
  split at mapped
  · next u v begins ends =>
    simp only [Bool.and_eq_true, decide_eq_true_eq] at mapped
    obtain ⟨rfl, -⟩ := mapped
    exact first.eq (holds_of_tierOf begins) ▸ holds_of_tierOf ends
  · cases mapped

/-- A range of Ivory ends below Umber. -/
theorem ivory_range {s : State} {a n : Nat} {w : Bool} (free : s.refusal a n w = none) (first : Tier.ivory.Holds a) : a + n ≤ umberBase := by
  rcases Nat.eq_zero_or_pos n with rfl | pos
  · exact Nat.le_of_lt first
  · have last : a + n - 1 < umberBase := holds_last free first pos
    omega

/-- A range of Umber ends below Slate. -/
theorem umber_range {s : State} {a n : Nat} {w : Bool} (free : s.refusal a n w = none) (first : Tier.umber.Holds a) : a + n ≤ slateBase := by
  rcases Nat.eq_zero_or_pos n with rfl | pos
  · exact Nat.le_of_lt first.2
  · have last : a + n - 1 < slateBase := (holds_last free first pos).2
    omega

/-! ### Ivory (R240) -/

section
variable {s : State} {p : Port} {a r : Nat} {x : ArbReq} (alive : s.alive = true) (tier : s.tierOf a = some .ivory) (slice : r = a / sliceSize)
  (named : x = arbReq r false p.region p.requester p.request)
include alive tier slice named

theorem exec_ivoryRequest_waits (waits : (s.region r).grants x = false) (w : Bool) (n : Nat) (bs : Bytes) (e : ReadError) :
    exec (.ivoryRequest p w a n bs e) s = .next (s.queueRequest r x) := by
  subst slice named
  change Host.Outcome.next (ivoryRequest _ _ _ w a n bs e s) = _
  simp only [ivoryRequest, alive, tier, waits, ne_eq, not_true_eq_false, decide_false, Bool.not_true, Bool.or_self, Bool.false_eq_true, Bool.not_false,
    if_true, if_false]

theorem exec_ivoryRequest_granted (granted : (s.region r).grants x = true) (w : Bool) (n : Nat) (bs : Bytes) (e : ReadError) :
    exec (.ivoryRequest p w a n bs e) s = .next (((if w then s.grant r x else (s.grant r x).ivoryError a e).request w a n bs).count (pgSlice r)
      (if r = p.region then 0x702 else 0x703) (units64 (if w then bs.length else n))) := by
  subst slice named
  change Host.Outcome.next (ivoryRequest _ _ _ w a n bs e s) = _
  simp only [ivoryRequest, alive, tier, granted, ne_eq, not_true_eq_false, decide_false, Bool.not_true, Bool.or_self, Bool.false_eq_true, if_false]

theorem exec_ivoryRequest_reads (granted : (s.region r).grants x = true) {n : Nat} {e : ReadError} {b : Bytes}
    (read : ((s.grant r x).ivoryError a e).readBytes a n = .ok b) :
    exec (.ivoryRequest p false a n [] e) s = .next ((((s.grant r x).ivoryError a e).send (.served a false .ok b)).count (pgSlice r)
      (if r = p.region then 0x702 else 0x703) (units64 n)) := by
  rw [exec_ivoryRequest_granted alive tier slice named granted, ← request_reads [] read]
  rfl

theorem exec_ivoryRequest_writes (granted : (s.region r).grants x = true) (n : Nat) {bs : Bytes}
    (free : (s.grant r x).refusal a bs.length true = none) :
    exec (.ivoryRequest p true a n bs .none) s = .next ((((s.grant r x).storeBytes a bs).send (.served a true .ok [])).count (pgSlice r)
      (if r = p.region then 0x702 else 0x703) (units64 bs.length)) := by
  rw [exec_ivoryRequest_granted alive tier slice named granted, ← request_writes n free]
  rfl

end

/-- An error that the module corrects leaves memory as it was. -/
theorem readBytes_corrected (s : State) (a : Nat) (b n : Nat) : (s.ivoryError a .single).readBytes b n = s.readBytes b n := by
  change (s.record (pgSlice (a / sliceSize)) .corrected a).readBytes b n = _
  exact readBytes_of_same (State.putPage_part _ _ _) (State.putPage_mem _ _ _) (State.putPage_tow _ _ _) (State.putPage_regions _ _ _)
    (State.putPage_per _ _ _) b n

/-! ### Umber (R242, R253) -/

theorem umberServe_whole {s : State} {write : Bool} {a n w : Nat} {bs : Bytes}
    (stands : s.tow.readAt (s.placeOf (a - umberBase)).1 ((s.placeOf (a - umberBase)).2 / 4096) = some w) :
    umberServe write a n bs .none s = (s.wakeTower w).request write a n bs := by
  simp only [umberServe, stands, State.umberError, ite_self]

theorem exec_umberRequest_granted {s u : State} {a : Nat} {turn : UmberTurn} (alive : s.alive = true) (tier : s.tierOf a = some .umber)
    (clean : turn.error = .none)
    (granted : (turn.port = none ∧ u = s) ∨ ∃ (p : Port) (x : ArbReq), turn.port = some p ∧
      x = arbReq p.region true p.region p.requester p.request ∧ (s.region p.region).grants x = true ∧ u = s.grant p.region x)
    (write : Bool) (n : Nat) (bs : Bytes) : exec (.umberRequest write a n bs turn) s = .next (umberServe write a n bs .none u) := by
  change Host.Outcome.next (umberRequest _ write a n bs turn.error s) = _
  obtain ⟨own, rfl⟩ | ⟨p, x, port, rfl, grants, rfl⟩ := granted
  · simp [umberRequest, alive, tier, clean, own]
  · simp [umberRequest, alive, tier, clean, port, grants]

/-! ### Patrols (R252) -/

theorem exec_ivoryPatrol {s : State} {a : Nat} (alive : s.alive = true) (tier : s.tierOf a = some .ivory) (on : s.tow.ivoryScrubMin ≠ 0) :
    exec (.ivoryPatrolStep a .none) s =
      .next ({ s with tow := { s.tow with ivoryPatrol := s.tow.ivoryPatrol + 1 } }.count (pgSlice (a / sliceSize)) 0x704 1) := by
  change Host.Outcome.next (ivoryPatrol a .none s) = _
  rw [ivoryPatrol, if_neg (by simp [alive, tier, on])]
  rfl

theorem exec_umberPatrol {s : State} {t : Fin 18} (alive : s.alive = true) (fitted : s.towerFitted t = true) (works : (s.tower t).failed = false)
    (on : s.tow.scrubHours ≠ 0) (i j : Nat) : exec (.umberPatrolStep t i j .clean) s =
      .next (if s.tow.umberPatrol + 1 < s.patrolTowers * 2 ^ 24 * 64 then { s with tow := { s.tow with umberPatrol := s.tow.umberPatrol + 1 } }
        else { s with tow := { s.tow with umberPatrol := 0 } }.count pgComplex 0x2001 1) := by
  change Host.Outcome.next (umberPatrol t i j .clean s) = _
  rw [umberPatrol, if_neg (by simp [alive, fitted, works, on])]
  rfl

/-! ### Refresh and self-refresh (R308, R309, R429) -/

theorem exec_refreshDue_idle {s : State} {t : Fin 18} (idle : s.unitBusy t = false) : exec (.refreshDue t) s = .next s := by
  change Host.Outcome.next (refreshDue t s) = _
  unfold refreshDue
  dsimp only
  rw [idle]
  split <;> rfl

section
variable {s : State} {t : Fin 18} (alive : s.alive = true)
include alive

theorem running_of_alive : s.power = .on ∧ s.deviceStop = false := by
  simp only [State.alive, Bool.and_eq_true, decide_eq_true_eq, Bool.not_eq_true'] at alive
  exact alive.1

variable (fitted : s.towerFitted t = true) (works : (s.tower t).failed = false)
include fitted works

theorem exec_selfRefresh (idle : s.unitBusy t = false) :
    exec (.towerSelfRefreshEntry t) s = .next (s.putTower t { s.tower t with selfRefresh := true }) := by
  change Host.Outcome.next (if _ then _ else _) = _
  rw [if_pos (by simp [alive, fitted, works, idle])]

theorem exec_refreshDue_busy (awake : (s.tower t).selfRefresh = false) (busy : s.unitBusy t = true) : exec (.refreshDue t) s =
    .next (if (s.tower t).owed < (s.tower t).postponeMax then (s.putTower t { s.tower t with owed := (s.tower t).owed + 1 }).count (pgTower t) 0x2101 1
      else (s.putTower t { s.tower t with owed := 0 }).count (pgTower t) 0x2102 1) := by
  obtain ⟨on, goes⟩ := running_of_alive alive
  change Host.Outcome.next (refreshDue t s) = _
  simp [refreshDue, on, goes, fitted, works, awake, busy]

end

end Sys2Proof.Machine

/-- Settles O49: a request waits or is granted (`exec_ivoryRequest_waits` to `exec_umberRequest_granted`); granted, it is answered from memory
(`request_reads`, `request_writes`), whose frame is that of `storeBytes`; patrols and refreshes are one case each. -/
theorem memoryRequests : Obligations.MemoryRequests := by
  unfold Obligations.MemoryRequests
  intro s alive
  refine ⟨?_, ?_, ?_, ?_, fun p path x u named queued => exec_arbPromote alive p path named queued,
    fun a tier on => exec_ivoryPatrol alive tier on, fun t i j fitted works on => exec_umberPatrol alive fitted works on i j, ?_⟩
  · intro p w a n r bs e x y tier slice named waits ivory other lower
    have path : y.umber = x.umber := by rw [ivory, named, arbReq_umber]
    exact exec_ivoryRequest_waits alive tier slice named (grants_lower waits path other lower) w n bs e
  · rintro p _ a n r b x tier slice named granted rfl read
    refine ⟨exec_ivoryRequest_reads alive tier slice named granted read, ?_⟩
    rw [exec_ivoryRequest_reads alive tier slice named granted ((readBytes_corrected _ a a n).trans read), slice]
    rfl
  · rintro p _ a n r bs x tier slice named granted rfl free wf
    have within := ivory_range free (holds_of_tierOf tier)
    refine ⟨_, exec_ivoryRequest_writes alive tier slice named granted n free, ?_, ?_, ?_, ?_⟩
    · exact (storeBytes_sameElse _ a bs).trans rfl
    · exact List.getLast?_concat
    · intro i inside
      rw [List.getElem?_eq_getElem inside, rawByte_answered, State.rawByte_storeBytes (s.grant r x) wf a bs (.inl within) i inside]
    · intro y low outside clean
      rw [rawByte_answered, ← rawByte_grant s r x]
      exact rawByte_storeBytes_other (s := s.grant r x) wf a bs (.inl low) outside clean
  · intro turn u a n w tier clean granted stands
    have row := exec_umberRequest_granted alive tier clean granted
    have arbitrated : u = { s with regions := u.regions } := by
      obtain ⟨-, rfl⟩ | ⟨p, x, -, -, -, rfl⟩ := granted <;> rfl
    have stands' : u.tow.readAt (u.placeOf (a - umberBase)).1 ((u.placeOf (a - umberBase)).2 / 4096) = some w := by
      rw [arbitrated]
      exact stands
    refine ⟨fun b read => ?_, fun bs free wf => ?_⟩
    · rw [row, umberServe_whole stands']
      exact congrArg Host.Outcome.next (request_reads [] read)
    · have place : Tier.umber.Holds a := holds_of_tierOf tier
      have same := storeBytes_sameElse (u.wakeTower w) a bs
      refine ⟨_, (row true n bs).trans (congrArg Host.Outcome.next ((umberServe_whole stands').trans (request_writes n free))), ?_, ?_, ?_, ?_⟩
      · exact List.getLast?_concat
      · change ((u.wakeTower w).storeBytes a bs).tow = _
        rw [same]
        rfl
      · have tow : ((u.wakeTower w).storeBytes a bs).tow = (u.wakeTower w).tow := by rw [same]
        change SameElse { u with tow := ((u.wakeTower w).storeBytes a bs).tow } _
        rw [tow]
        exact same.trans rfl
      · intro y tier' clean'
        have outside : y < a ∨ a + bs.length ≤ y := by
          have ends := umber_range free place
          obtain ⟨begins, -⟩ := place
          omega
        have untracked : (u.wakeTower w).inBitmap y = false := by
          rw [arbitrated]
          exact clean'
        have mem : (u.wakeTower w).mem = s.mem := by
          rw [arbitrated]
          rfl
        refine (rawByte_storeBytes_other (s := u.wakeTower w) (by rw [mem]; exact wf) a bs tier' outside untracked).trans ?_
        rw [State.rawByte_plain _ (by omega), State.rawByte_plain _ (by omega), mem]
  · intro t fitted works
    refine ⟨exec_selfRefresh alive fitted works, fun awake busy owes => ?_, fun awake busy full => ?_, exec_refreshDue_idle⟩
    · rw [exec_refreshDue_busy alive fitted works awake busy, if_pos owes]
    · rw [exec_refreshDue_busy alive fitted works awake busy, if_neg (Nat.not_lt.mpr full)]

end

section
/-! PROOFS. A region that fails while the poison list is full (R26, R28, R250, R251): the IN_PLACE command that it leaves mid-pass has its output range
poisoned, whose first granule is the list's 65,537th block, so the module stops with seven regions left. -/

open Sys2Proof Sys2Proof.Machine

namespace Sys2Proof.Machine

/-! ### A granule of Umber is poisoned -/

/-- From `s` to `t` pages and memory have changed, the poison list of Umber not. -/
def ListKept (s t : State) : Prop := FlushOnly s t ∧ t.mem.umberPoison = s.mem.umberPoison

theorem ListKept.refl {s : State} : ListKept s s := ⟨rfl, rfl⟩

theorem ListKept.trans {s t u : State} (h : ListKept s t) (k : ListKept t u) : ListKept s u := ⟨h.1.trans k.1, k.2.trans h.2⟩

theorem ListKept.foldl {α : Type} {s t : State} {f : State → α → State} (each : ∀ u x, ListKept u (f u x)) (h : ListKept s t) (l : List α) :
    ListKept s (l.foldl f t) := by
  induction l generalizing t with
  | nil => exact h
  | cons x l ih => exact ih (h.trans (each t x))

theorem parityXor_listKept (s : State) (x : Nat) (d : Byte) : ListKept s (s.parityXor x d) := by
  unfold State.parityXor
  split <;> exact ⟨rfl, rfl⟩

theorem evictLine_listKept (s : State) (l : ParityLine) : ListKept s (s.evictLine l) := by
  have deltas : ListKept s (l.delta.foldl (fun t e => t.parityXor (l.stripe * 4096 + e.1) e.2) s) :=
    ListKept.foldl (fun t e => parityXor_listKept t (l.stripe * 4096 + e.1) e.2) ListKept.refl l.delta
  exact deltas.trans ⟨rfl, rfl⟩

theorem evictOldest_listKept (s : State) : ListKept s s.evictOldest := by
  unfold State.evictOldest
  split
  · exact ⟨rfl, rfl⟩
  · next l rest _ =>
    split
    · have dropped : ListKept s { s with mem := { s.mem with parity := rest } } := ⟨rfl, rfl⟩
      exact dropped.trans (evictLine_listKept _ l)
    · exact ⟨rfl, rfl⟩

theorem parityDelta_listKept (s : State) (x : Nat) (d : Byte) : ListKept s (s.parityDelta x d) := by
  unfold State.parityDelta
  split
  · exact parityXor_listKept s x d
  · split
    · exact ⟨rfl, rfl⟩
    · exact (evictOldest_listKept s).trans ⟨rfl, rfl⟩

theorem pokePosition_listKept (s : State) (n x : Nat) (v : Byte) : ListKept s (s.pokePosition n x v) := by
  unfold State.pokePosition
  refine ListKept.trans ?_ (parityDelta_listKept _ _ _)
  split <;> exact ⟨rfl, rfl⟩

theorem poisonUmber_stored (s : State) (n x : Nat) : ∃ t, ListKept s t ∧ s.poisonUmber n x = t.listPoison n x :=
  ⟨_, ListKept.foldl (fun u y => pokePosition_listKept u n y 0) ListKept.refl (granuleOffsets x), rfl⟩

/-- A DEVICE stop leaves the regions. -/
theorem deviceStopAt_regions (s : State) (p detail : Nat) : (s.deviceStopAt p detail).regions = s.regions := by
  have recorded : (s.recordChip p .device detail).regions = s.regions := by
    unfold State.recordChip
    split
    · exact State.putPage_regions _ _ _
    · split
      · exact (State.putPage_regions _ _ _).trans (State.putPage_regions _ _ _)
      · exact ((State.putPage_regions _ _ _).trans (State.putPage_regions _ _ _)).trans (State.putPage_regions _ _ _)
  unfold State.deviceStopAt
  split
  · rfl
  · dsimp only
    split
    · rw [(sendTwin_sends _ _ _ _).1]
      exact recorded
    · exact recorded

/-- Poison leaves the regions. -/
theorem poisonUmber_regions (s : State) (n x : Nat) : (s.poisonUmber n x).regions = s.regions := by
  obtain ⟨t, ⟨flush, -⟩, poisoned⟩ := poisonUmber_stored s n x
  have kept : t.regions = s.regions := by rw [flush]
  rw [poisoned]
  unfold State.listPoison
  dsimp only
  split
  · exact (deviceStopAt_regions _ _ _).trans kept
  · exact kept

/-- A block that a full list does not name stops the module (R251). -/
theorem poisonUmber_full {s : State} {n x : Nat} (unlisted : tabGet 0 s.mem.umberPoison (blockKey n (x / 4096)) = 0)
    (full : 65536 ≤ s.mem.umberPoison.length) : (s.poisonUmber n x).deviceStop = true := by
  obtain ⟨t, ⟨-, list⟩, poisoned⟩ := poisonUmber_stored s n x
  have stops : tabGet 0 t.mem.umberPoison (blockKey n (x / 4096)) = 0 ∧ 65536 ≤ t.mem.poisonCount := by
    rw [Mem.poisonCount, list]
    exact ⟨unlisted, full⟩
  rw [poisoned, State.listPoison, if_pos stops]
  exact deviceStopAt_stopped _ _ _

/-- The granule with which Umber begins is the first tower's first. -/
theorem poisonGranule_umberBase (s : State) : s.poisonGranule umberBase = s.poisonUmber 0 0 := by
  have towers : 8 ≤ s.dataTowers := by unfold State.dataTowers; split <;> decide
  have above : ¬ umberBase < 8 * sliceSize := by decide
  have tier : s.tierOf umberBase = some .umber := by
    rw [State.tierOf, if_neg above, if_pos]
    simp only [Bool.and_eq_true, decide_eq_true_eq]
    omega
  have place : s.placeOf (umberBase - umberBase) = (0, 0) := by simp [State.placeOf]
  rw [State.poisonGranule, tier]
  simp only [place]

theorem poisonRanges_umberBase (s : State) : s.poisonRanges [(umberBase, 64)] = s.poisonUmber 0 0 := by
  have one : granulesOf umberBase 64 = [umberBase] := by decide
  simp only [State.poisonRanges, List.foldl_cons, List.foldl_nil, one, poisonGranule_umberBase]

/-! ### The region that fails -/

/-- The state as region `r`'s failure leaves it, before its error is recorded. -/
def State.fallen (s : State) (r : Nat) : State :=
  ((s.moveWork r).putRegion r { (s.moveWork r).region r with state := .faulted, aborting := false }).poisonSlice r

section
variable {s : State} {r : Nat}

theorem fallen_deviceStop : (s.fallen r).deviceStop = (s.endInPlace (s.region r).midPass).deviceStop := by
  simp only [State.fallen, State.poisonSlice, State.withMem_deviceStop, State.putRegion_deviceStop, State.moveWork, State.leaveRegion]

/-- Of another region a failure can change what the poison of outputs changes. -/
theorem fallen_region {k : Nat} (other : k ≠ r) : (s.fallen r).region k = (s.endInPlace (s.region r).midPass).region k := by
  have moved : (s.moveWork r).region k = (s.endInPlace (s.region r).midPass).region k := by
    simp only [State.moveWork, State.leaveRegion, State.region, State.putRegion_regions, tabGet_tabSet, if_neg other]
  rw [← moved]
  simp only [State.fallen, State.poisonSlice, State.region, State.withMem_regions, State.putRegion_regions, tabGet_tabSet, if_neg other]

theorem endInPlace_deviceStop (w : ArrayRun) : (s.endInPlace [w]).deviceStop = (s.poisonRanges w.outs).deviceStop := rfl

theorem endInPlace_regions (w : ArrayRun) : (s.endInPlace [w]).regions = (s.poisonRanges w.outs).regions := rfl

end

theorem fallen_faulted (s : State) (r : Nat) : ((s.fallen r).region r).state = .faulted := by
  change (((s.moveWork r).putRegion r { (s.moveWork r).region r with state := .faulted, aborting := false }).region r).state = _
  rw [region_putRegion]

/-- A region in service whose failure leaves regions enough. -/
theorem exec_regionFail_settles {s : State} {r : Fin 8} (fed : s.fed = true) (serves : (s.region r).state = .inService)
    (enough : ¬ (s.fallen r).regionsIn.length < 4) : exec (.regionFail r) s = .next ((s.fallen r).recordUp (pgRegion r) .region 0) := by
  have down : s.regionDown r (pgRegion r) = (s.fallen r).recordRegion r (pgRegion r) := if_neg enough
  change Host.Outcome.next (if s.fed then s.regionFault r (pgRegion r) else s) = _
  rw [if_pos fed, State.regionFault, serves]
  exact congrArg Host.Outcome.next (down.trans (if_pos rfl))

/-- An IN_PLACE row block in progress, whose output begins where Umber does. -/
def midPassRun : ArrayRun := { q := 3, n := 1, unit := 0, tile := 0, scale := 0, accs := [], inPlace := true, outs := [(umberBase, 64)] }

/-- The module runs with every region in service; region 0 is mid-pass in an IN_PLACE command, and the poison list of Umber is `l`. -/
def midPassState (l : Tab Word) : State :=
  { boot := { stage := .run }, mem := { umberPoison := l }
    cmds := [{ q := 3, n := 1, desc := natBytes 2 0x201 ++ natBytes 62 0, phase := .started, committed := true, regions := [0] }]
    regions := (List.range 8).map (fun r => (r, { state := .inService, arrays := if r = 0 then [(0, { run := some midPassRun })] else [] })) }

section
variable {l : Tab Word}

theorem midPassState_midPass : ((midPassState l).region 0).midPass = [midPassRun] := rfl

theorem midPassState_fed : (midPassState l).fed = true := rfl

theorem midPassState_serves {r : Nat} (small : r < 8) : ((midPassState l).region r).state = .inService := by
  interval_cases r <;> rfl

/-- The command's output overflows a full list. -/
theorem midPass_stopped (unlisted : tabGet 0 l 0 = 0) (full : 65536 ≤ l.length) : ((midPassState l).fallen 0).deviceStop = true := by
  have key : blockKey 0 (0 / 4096) = 0 := by decide
  rw [fallen_deviceStop, midPassState_midPass, endInPlace_deviceStop, midPassRun, poisonRanges_umberBase]
  exact poisonUmber_full (by rw [key]; exact unlisted) full

/-- The other seven regions stay in service. -/
theorem midPass_regionsIn : ((midPassState l).fallen 0).regionsIn = [1, 2, 3, 4, 5, 6, 7] := by
  have kept : ((midPassState l).endInPlace ((midPassState l).region 0).midPass).regions = (midPassState l).regions := by
    rw [midPassState_midPass, endInPlace_regions, midPassRun, poisonRanges_umberBase, poisonUmber_regions]
  have serving : ((midPassState l).fallen 0).regionsIn = (List.range 8).filter (fun r => r != 0) := by
    refine List.filter_congr (fun r listed => ?_)
    by_cases own : r = 0
    · subst own
      rw [fallen_faulted]
      rfl
    · rw [fallen_region own, State.region, kept]
      change (((midPassState l).region r).state == .inService) = _
      rw [midPassState_serves (List.mem_range.mp listed)]
      simp [own]
  rw [serving]
  decide

end

theorem recordUp_sameElse (s : State) (p : Nat) (c : ErrClass) (detail : Nat) : SameElse s (s.recordUp p c detail) := by
  unfold State.recordUp
  split
  · exact record_sameElse _ _ _ _
  · exact (record_sameElse _ _ _ _).trans (modPage_sameElse _ _ _)

theorem SameElse.regionsIn {s t : State} (h : SameElse s t) : t.regionsIn = s.regionsIn := by
  rw [h]
  rfl

/-- With a full list, region 0's failure stops the module although seven regions are left. -/
theorem regionFail_overflows {l : Tab Word} (unlisted : tabGet 0 l 0 = 0) (full : 65536 ≤ l.length) :
    ∃ t : State, exec (.regionFail 0) (midPassState l) = .next t ∧ t.deviceStop = true ∧ t.regionsIn = [1, 2, 3, 4, 5, 6, 7] := by
  have left := midPass_regionsIn (l := l)
  have same := recordUp_sameElse ((midPassState l).fallen 0) (pgRegion 0) .region 0
  have enough : ¬ ((midPassState l).fallen 0).regionsIn.length < 4 := by rw [left]; decide
  refine ⟨((midPassState l).fallen 0).recordUp (pgRegion 0) .region 0,
    exec_regionFail_settles (r := 0) midPassState_fed (midPassState_serves (by decide)) enough,
    same.deviceStop.trans (midPass_stopped unlisted full), same.regionsIn.trans left⟩

/-- A poison list with a granule in each of the blocks 1 to 65,536 of the first data tower. -/
def fullPoison : Tab Word := (List.range' 1 65536).map (fun k => (k, 1))

theorem fullPoison_length : 65536 ≤ fullPoison.length := by
  rw [fullPoison, List.length_map, List.length_range']

theorem fullPoison_first : tabGet 0 fullPoison 0 = 0 := by
  refine tabGet_unlisted fun e listed => ?_
  obtain ⟨k, inside, rfl⟩ := List.mem_map.mp listed
  exact Nat.ne_of_gt (List.mem_range'_1.mp inside).1

end Sys2Proof.Machine

/-- Refutes O52: its clause on REGION_FAIL says that the module has stopped just when fewer than four regions are left, but in
`midPassState fullPoison` the lost IN_PLACE command's output overflows the poison list (R251), which stops the module with seven regions in service. -/
theorem not_partsThatFail : ¬ Obligations.PartsThatFail := by
  unfold Obligations.PartsThatFail
  intro fails
  obtain ⟨-, -, -, -, -, -, -, -, regionFails, -⟩ := fails (midPassState fullPoison) midPassState_fed
  obtain ⟨t, ran, -, -, -, -, fewJustStopped⟩ := regionFails 0 (midPassState_serves (by decide))
  obtain ⟨w, ran', stopped, left⟩ := regionFail_overflows fullPoison_first fullPoison_length
  obtain rfl : t = w := Host.Outcome.next.inj (ran.symm.trans ran')
  have few := fewJustStopped.mpr stopped
  rw [left] at few
  exact absurd few (by decide)

end
